-- ==== Sys2Proof/Word.lean ====
section
/-! DEFINITION. Word types and the sparse table that the whole model is built from. -/

namespace Sys2Proof

/-- A 32-bit control-space word (02, R25). -/
abbrev Word := BitVec 32

/-- A byte of memory. -/
abbrev Byte := BitVec 8

/-- A sparse table: keys strictly rising, one value a key. Its operations stand in Machine/Tbl.lean. -/
abbrev Tbl (α : Type) := List (Nat × α)

end Sys2Proof
end

