-- ==== Sys2Proof/Syntax.lean ====
section
/-! DEFINITION. The commands of the DQ-2403 model: one constructor for each row of spec/opcode_table.json, with the operands the command carries and the facts of the environment that it reports. -/

namespace Sys2Proof

/-- Who makes a control-space access (02, R36): the security core, the housekeeping core, the operator role, or a requester acting for a partition. -/
inductive Role where
  | security
  | housekeeping
  | operator
  | partition (p : Fin 24)
deriving DecidableEq, Repr

/-- A cluster whose MERGE goes on (08, R168), and how many accesses its merge unit has made further. -/
structure MergeTurn where
  clu : Fin 800
  reads : Nat
deriving DecidableEq, Repr

/-- What the re-reads of a burst gave (17, R359): the class of its error, and which re-read was good. -/
structure Reread where
  found : Fin 4
  good : Option (Fin 3)
deriving DecidableEq, Repr

/-- The end of a repair (17, R363): of a row, or with `column` of a column of a bank; the bursts of the channel that the copy could not read. -/
structure Repaired where
  column : Bool
  bad : List (BitVec 26)
deriving DecidableEq, Repr

/-- The end of a granule's copy (17, R372): the granule, and its bursts that the copy could not read. -/
structure GranuleCopied where
  gran : BitVec 16
  bad : List (Fin 32768)
deriving DecidableEq, Repr

/-- The end of a partition's scrub (16, R346): the partition, and the cluster, word and bit of each failing read of the buffers' march. -/
structure Scrubbed where
  ptn : Fin 24
  fails : List (Fin 800 × Fin 32768 × Fin 288)
deriving DecidableEq, Repr

/-- The cluster of a power domain of a compute die (20, R428): ten domains a die, ten clusters a domain. -/
def cluAt (die : Fin 8) (dom k : Fin 10) : Fin 800 := ⟨100 * die.val + 10 * dom.val + k.val, by omega⟩

/-- The commands: one constructor for each row of spec/opcode_table.json, in its order. -/
inductive Instr where
  /-- REGISTER_WRITE (R4): A write to a control-space register that has no row of its own stores or acts on the value according to each field's type code. -/
  | registerWrite (r : Role) (off : BitVec 26) (size : Fin 65) (v : BitVec 64)
  /-- RCL_READ (R4): A read of an RCL field returns its value and then clears it, keeping any increment from the same cycle. -/
  | rclRead (r : Role) (off : BitVec 26) (size : Fin 65)
  /-- CTRL_ENABLE (R31): A write of CTRL.ENABLE starts or stops the unit's acceptance of new work. -/
  | ctrlEnable (r : Role) (i : Fin 0x1410) (v : Bool)
  /-- CTRL_QUIESCE (R31): A write of CTRL.QUIESCE stops or resumes the issue of queued commands and moves STATE to QUIESCING or back. -/
  | ctrlQuiesce (r : Role) (i : Fin 0x1410) (v : Bool)
  /-- QUIESCE_COMPLETE (R31): When no work of a quiescing unit remains in flight, STATE becomes QUIESCED. -/
  | quiesceComplete (i : Fin 0x1410)
  /-- CTRL_TEST (R31): A write of CTRL.TEST enters TEST from READY or QUIESCED, or returns the unit to READY; in any other state it sets INVALID_WRITE. -/
  | ctrlTest (r : Role) (i : Fin 0x1410) (v : Bool)
  /-- UNIT_INIT_END (R31): A unit that is reset or woken leaves INIT for READY, and passes on to ACTIVE in the same ao-cycle if ENABLE is 1. -/
  | unitInitEnd (pg : Fin 0x1410)
  /-- EVENT_MESSAGE_SEND (R306): Event records that arose within 500 ao-cycles for one destination are gathered, numbered and sent as one event message. -/
  | eventMessageSend (dest : Fin 256)
  /-- CLUSTER_RESET (R83): RESET_REQ on a CLU page stops the cluster's tiles, discards its queues and park images, aborts the jobs concerned and runs INIT. -/
  | clusterReset (r : Role) (n : Fin 800)
  /-- PORT_RESET (R413): RESET_REQ on a LINK page resets the port's lanes, PCS and equalisation, and the port retrains. -/
  | portReset (r : Role) (n : Fin 16)
  /-- PARTITION_RESET (R334): RESET_REQ on a PTN page aborts the partition's jobs, frees its requests, empties its pool, wipes its caches and region 63, and re-creates its serving job. -/
  | partitionReset (r : Role) (p : Fin 24)
  /-- WARM_DEVICE_RESET (R413): RESET_REQ on the DEV page, or an internal request, resets every domain while the ao-cycle count runs on, and starts the device. -/
  | warmDeviceReset (r : Role)
  /-- CONTROL_WORD_ISSUE (R56): A tensor core issues one control word, which makes its reads and issues its MAC, vector, scale, operand and address-generator actions. -/
  | controlWordIssue (n : Fin 800) (k : Fin 32)
  /-- RESULT_LAND (R45): A result issued L counted cycles earlier lands in its core register. -/
  | resultLand (n : Fin 800) (k : Fin 32)
  /-- BUFFER_WRITE_LAND (R46): A granted core write lands at its bank in its reserved cluster cycle, t + 2. -/
  | bufferWriteLand (n : Fin 800)
  /-- TILE_COMPLETE (R43): A tile completes once its END has issued and all its results have landed; the gaffer releases its scoreboard entries and signals if SIGNAL_EN is set. -/
  | tileComplete (n : Fin 800) (k : Fin 32)
  /-- INTAKE_HELD_APPEND (R62): Commands that the intake held for a full queue, or for a cluster that was not ACTIVE, are appended once room or ACTIVE returns. -/
  | intakeHeldAppend (u : Fin 0x4100) (q : Fin 8)
  /-- TILE (R69): A TILE whose streams are present, which the scoreboard permits and for which a core is free, is placed on the lowest free core of its effective set. -/
  | tile (n : Fin 800) (q : Fin 8)
  /-- GAFFER_NOP (R65): A NOP issues and does nothing. -/
  | gafferNop (n : Fin 800) (q : Fin 8)
  /-- GAFFER_SIGNAL (R76): A SIGNAL, once every earlier command of its queue has completed, adds AMOUNT to its flag. -/
  | gafferSignal (n : Fin 800) (q : Fin 8)
  /-- GAFFER_WAIT (R77): A WAIT issues once its flag reaches THRESHOLD, subtracting THRESHOLD if CONSUME is set; until then its queue is WAITING. -/
  | gafferWait (n : Fin 800) (q : Fin 8)
  /-- GAFFER_FENCE (R247): A gaffer FENCE holds its queue until the condition of its scope is met. -/
  | gafferFence (n : Fin 800) (q : Fin 8)
  /-- FENCE_COMPLETE (R247): A fence completes once earlier commands are complete and, for its scope, dirty lines are written back and invalidated, or remote writes are performed. -/
  | fenceComplete (u : Fin 0x4100) (q : Fin 8)
  /-- CSLOAD (R67): A CSLOAD, once every core in its mask is idle, reads its control words from memory. -/
  | csload (n : Fin 800) (q : Fin 8)
  /-- CSLOAD_COMPLETE (R67): When all its words have arrived, a CSLOAD checks them, and either writes them into every core of the mask or is refused with CONTROL_WORD_INVALID. -/
  | csloadComplete (n : Fin 800) (q : Fin 8)
  /-- MERGE (R168): A MERGE is checked at its queue head and, when the scoreboard permits and the merge unit is idle, performs its log-sum-exp merges. -/
  | merge (n : Fin 800) (q : Fin 8)
  /-- MERGE_COMPLETE (R168): A MERGE completes when its last output has landed, then releases its scoreboard entries and signals. -/
  | mergeComplete (m : MergeTurn)
  /-- STREAM_ENTRY_PUSH (R72): The gaffer generates a stream entry, checks it and pushes it into a generator FIFO once there is room and the list data has arrived. -/
  | streamEntryPush (n : Fin 800) (k : Fin 32) (g : Fin 2)
  /-- CLU_FLAG_ADD (R76): A write to CLU_FLAG_ADD adds AMOUNT to a cluster flag, saturating at 65,535. -/
  | cluFlagAdd (r : Role) (n : Fin 800) (v : BitVec 32)
  /-- FLAG_WAIT_TIMEOUT (R77): A wait whose flag has not reached THRESHOLD by its limit expires, and its queue and job fault. -/
  | flagWaitTimeout (n : Fin 800) (q : Fin 8)
  /-- JOB_ABORT_PROPAGATE (R80): The other gaffers, marver engines and DMA engines that hold an aborted job perform the abort within 100 ao-cycles. -/
  | jobAbortPropagate (u : Fin 0x4100) (j : Fin 4096)
  /-- TILE_RESUME (R79): A parked tile that is ready resumes on a free core once its image has been read back and its CRC checked. -/
  | tileResume (n : Fin 800) (i : Fin 64)
  /-- UCODE_SWAP (R84): SWAP written to CLU_UCODE_CTRL starts installing gaffer microcode or control-store words in a quiesced cluster. -/
  | ucodeSwap (r : Role) (n : Fin 800) (v : BitVec 32)
  /-- UCODE_SWAP_DONE (R84): A swap ends with DONE, or with REJECTED for a bad signature or bad words, and BUSY clears. The cluster is named by its die, its power domain on the die and its place in the domain. -/
  | ucodeSwapDone (die : Fin 8) (dom k : Fin 10)
  /-- CLU_BUF_SECURE_WRITE (R93): A security-core write to CLU_BUF_SECURE binds or unbinds the sealed job; a write from any other requester is ignored. -/
  | cluBufSecureWrite (r : Role) (n : Fin 800) (v : BitVec 32)
  /-- SECURE_WIPE_END (R94): The 32-cycle wipe of region 63 ends, and WIPING clears. -/
  | secureWipeEnd (n : Fin 800)
  /-- MARCH_START (R97): START written in INIT or TEST starts a March C− test of the cluster buffer. -/
  | marchStart (r : Role) (n : Fin 800) (v : BitVec 32)
  /-- MARCH_END (R97): A march ends, repairs failing rows, and serves the shared-port accesses held during it in order of arrival. -/
  | marchEnd (n : Fin 800) (fails : List (Fin 32768 × Fin 288))
  /-- BG_BLOCK_START (R98): Every INTERVAL ao-cycles the background test starts the next test block, or sets BG_LATE if the previous block is still under test. -/
  | bgBlockStart (n : Fin 800)
  /-- BG_BLOCK_END (R98): A background test block finishes its copy-back and records any failure. -/
  | bgBlockEnd (n : Fin 800) (fails : List (Nat × Nat))
  /-- DESC_CREATE (R108): DESC_CREATE validates a descriptor image against its allocation record and writes it to entry h. -/
  | descCreate (p : Fin 25)
  /-- DESC_DESTROY (R106): DESC_DESTROY clears VALID of a descriptor entry. -/
  | descDestroy (p : Fin 25)
  /-- MV (R136): MV multiplies up to 8 vectors by a weight matrix held in this stack and writes the outputs. -/
  | mv (sk : Fin 24) (q : Fin 8)
  /-- ATTN (R161): ATTN translates and checks its work list, then computes one attention partial per row and head over the stack's visible pages. -/
  | attn (sk : Fin 24) (q : Fin 8)
  /-- MARVER_COPY (R138): A marver COPY is handed to a stack DMA engine, which copies 4 KiB units from this stack into stack memory of the partition. -/
  | marverCopy (sk : Fin 24) (q : Fin 8)
  /-- FILL (R138): FILL writes an 8-byte pattern through 4 KiB units. -/
  | fill (sk : Fin 24) (q : Fin 8)
  /-- SCRUB (R138): SCRUB reads, corrects and writes back every burst of its units. -/
  | scrub (sk : Fin 24) (q : Fin 8)
  /-- MARVER_ATOMIC (R139): A marver ATOMIC performs one atomic on a 32-byte half-burst of this stack. -/
  | marverAtomic (sk : Fin 24) (q : Fin 8)
  /-- MARVER_SIGNAL (R130): A marver SIGNAL, once every earlier command of its queue has completed, adds AMOUNT to a marver flag. -/
  | marverSignal (sk : Fin 24) (q : Fin 8)
  /-- MARVER_WAIT (R130): A marver WAIT holds its queue until its flag reaches THRESHOLD, optionally consuming it. -/
  | marverWait (sk : Fin 24) (q : Fin 8)
  /-- MARVER_FENCE (R247): A marver FENCE holds its queue until every earlier command of the queue is complete. -/
  | marverFence (sk : Fin 24) (q : Fin 8)
  /-- MARVER_NOP (R129): A marver NOP does nothing. -/
  | marverNop (sk : Fin 24) (q : Fin 8)
  /-- MARVER_COMMAND_COMPLETE (R128): A marver or copier command completes when its writes have landed, and then sends its signal. -/
  | marverCommandComplete (sk : Fin 24) (e : Fin 5)
  /-- STK_MVR_FLAG_ADD (R130): A write to STK_MVR_FLAG_ADD adds AMOUNT to a marver flag. -/
  | stkMvrFlagAdd (r : Role) (sk : Fin 24) (v : BitVec 32)
  /-- MARVER_FLAG_WAIT_TIMEOUT (R130): A marver wait that has not been satisfied within STK_MVR_FLAG_WAIT_LIMIT expires and faults its job. -/
  | marverFlagWaitTimeout (sk : Fin 24) (q : Fin 8)
  /-- SEAL_MAP_WRITE (R125): A security-core write to STK_SEAL_DATA sets the key slot of the granule that STK_SEAL_INDEX names. -/
  | sealMapWrite (r : Role) (sk : Fin 24) (v : BitVec 32)
  /-- STACK_SELF_REFRESH_EXIT (R124): A request held for a stack in self-refresh is served once the stack has left it, at most 10 µs after arrival. -/
  | stackSelfRefreshExit (k : Fin 24)
  /-- STACK_DMA_RESUME (R274): A pre-empted copier transfer resumes from its saved record on the first free stack DMA engine. -/
  | stackDmaResume (sk : Fin 24) (k : Fin 32)
  /-- ECC_REREAD (R359): A burst that the code cannot correct is re-read in the next slots of its class, up to three times, and the read is then decided. -/
  | eccReread (sk : Fin 24) (c : Fin 32) (q : BitVec 26) (r : Reread)
  /-- REPAIR_DONE (R363): A row or column repair switches the mapping, releases the held accesses and sends ROW_REPAIRED. -/
  | repairDone (k : Fin 24) (c : Fin 32) (num : BitVec 21) (r : Repaired)
  /-- GRANULE_COPY_DONE (R372): A migrating granule's copy ends, and the remap table redirects its DPA to the target granule. -/
  | granuleCopyDone (k : Fin 24) (g : GranuleCopied)
  /-- ROW_HISTORY_EXPIRY (R360): A row-history entry is dropped 24 h after it was made. -/
  | rowHistoryExpiry (sk : Fin 24) (c : Fin 32)
  /-- PATROL_READ (R370): The patrol scrub reads the next burst of a channel in slot 15 and decides it under R359. -/
  | patrolRead (sk : Fin 24) (c : Fin 32) (found : Fin 4) (good : Option (Fin 3))
  /-- DMA_COPY (R268): A compute DMA COPY moves elements from its source descriptor to its destination descriptor, unit by unit. -/
  | dmaCopy (e : Fin 256) (q : Fin 2)
  /-- GATHER (R112): GATHER copies listed source blocks to consecutive destination blocks. -/
  | gather (e : Fin 256) (q : Fin 2)
  /-- SCATTER (R112): SCATTER copies consecutive source blocks to listed destination blocks. -/
  | scatter (e : Fin 256) (q : Fin 2)
  /-- SCATTER_ADD (R113): SCATTER_ADD adds consecutive source blocks into listed destination blocks with atomics. -/
  | scatterAdd (e : Fin 256) (q : Fin 2)
  /-- DMA_ATOMIC (R250): A DMA ATOMIC performs one atomic at the scope it carries. -/
  | dmaAtomic (e : Fin 256) (q : Fin 2)
  /-- DMA_WAIT (R267): A DMA WAIT holds its queue until a local flag reaches THRESHOLD. -/
  | dmaWait (e : Fin 256) (q : Fin 2)
  /-- DMA_SIGNAL (R267): A DMA SIGNAL adds AMOUNT to a local or remote flag. -/
  | dmaSignal (e : Fin 256) (q : Fin 2)
  /-- DMA_FENCE (R247): A DMA FENCE holds its queue until the condition of its scope is met. -/
  | dmaFence (e : Fin 256) (q : Fin 2)
  /-- DMA_NOP (R266): A DMA NOP does nothing. -/
  | dmaNop (e : Fin 256) (q : Fin 2)
  /-- DMA_UNIT_ISSUE (R268): A DMA engine translates and checks the next unit of a transfer and issues its accesses while fewer than 16 units are in flight. -/
  | dmaUnitIssue (e : Fin 256) (q : Fin 2)
  /-- DMA_UNIT_COMPLETE (R268): A DMA unit's accesses are all performed, and the unit leaves flight. -/
  | dmaUnitComplete (e : Fin 256) (q : Fin 2) (k : Nat)
  /-- DMA_TRANSFER_COMPLETE (R271): A transfer whose units are all performed writes its status record and sends its completion signal. -/
  | dmaTransferComplete (e : Fin 256) (q : Fin 2)
  /-- DMA_RESUME (R270): A stopped transfer reads back its record, checks the CRC and issues its remaining units. -/
  | dmaResume (e : Fin 256) (q : Fin 2)
  /-- DMA_WAIT_TIMEOUT (R267): A DMA WAIT that has not been satisfied within DMAC_WAIT_LIMIT expires and faults its job. -/
  | dmaWaitTimeout (e : Fin 256) (q : Fin 2)
  /-- HOLD_RESUME (R273): RESUME written to HOLD_CTRL retries the held walk. -/
  | holdResume (r : Role) (p : Fin 24) (h : Fin 8)
  /-- HOLD_ABORT (R273): ABORT written to HOLD_CTRL faults the job with the held code. -/
  | holdAbort (r : Role) (p : Fin 24) (h : Fin 8) (both : Bool)
  /-- HOLD_LIMIT_EXPIRY (R273): A hold still unresolved after MMU_HOLD_LIMIT faults its job. -/
  | holdLimitExpiry (p : Fin 24) (h : Fin 8)
  /-- XLATE_MAP (R262): XLATE_MAP installs COUNT leaf mappings, all or none, and resumes walks held over them. -/
  | xlateMap (p : Fin 25)
  /-- XLATE_UNMAP (R262): XLATE_UNMAP removes COUNT leaves and starts their invalidation. -/
  | xlateUnmap (p : Fin 25)
  /-- INVALIDATION_COMPLETE (R264): An invalidation completes once the caches have dropped the range and nothing issued with it remains in flight. -/
  | invalidationComplete (id : Nat)
  /-- JOB_BIND_DMA (R265): JOB_BIND_DMA binds or unbinds DQUEUE[1] of a compute DMA engine. -/
  | jobBindDma (p : Fin 25)
  /-- REQ_ADMIT (R196): REQ_ADMIT checks an entry image and its prompt, and admits the request into a FREE entry. -/
  | reqAdmit (p : Fin 25)
  /-- REQ_RELEASE (R197): REQ_RELEASE ends a live request, at once or at the commit of its batch's step. -/
  | reqRelease (p : Fin 25)
  /-- BATCH_OPEN (R198): BATCH_OPEN checks a standing batch and wakes the domains that it pins. -/
  | batchOpen (p : Fin 25)
  /-- BATCH_OPEN_PROVE (R431): When the pinned domains are ON, the checks and the admission proof are made, and the batch opens or is refused. -/
  | batchOpenProve (p : Fin 24)
  /-- BATCH_CLOSE (R199): BATCH_CLOSE closes an open batch at its next commit, or at once if no step is in flight. -/
  | batchClose (p : Fin 25)
  /-- STEP_RELEASE (R228): A batch step is released on its grid once the previous step has committed, and stage 1 runs. -/
  | stepRelease (p : Fin 24)
  /-- STAGE2_START (R180): Once every copy of stage 1 has completed, stage 2 begins with a DEVICE acquire and the step program's segments. -/
  | stage2Start (p : Fin 24)
  /-- SAMPLING_START (R207): When every command of the step program has completed, the sampling unit draws each member's tokens. -/
  | samplingStart (p : Fin 24)
  /-- COMMIT_PUBLISH (R171): Once the COMPACT commands have completed, the commit publishes lengths, tokens, states and records. -/
  | commitPublish (p : Fin 24)
  /-- PAGE_RETURN (R183): Released pages return to their stack's free list once the step has completed in every engine. -/
  | pageReturn (p : Fin 24)
  /-- ADAPTER_INSTALL (R213): ADAPTER_INSTALL places an extent and copies the adapter's new contents into it. -/
  | adapterInstall (p : Fin 25)
  /-- ADAPTER_INSTALL_POINT (R213): When the last copy completes, the new version becomes current and ADAPTER_INSTALLED is sent. -/
  | adapterInstallPoint (p : Fin 24) (slot : Fin 256)
  /-- ADAPTER_REMOVE (R214): ADAPTER_REMOVE retires the slot's current version and cancels a waiting install. -/
  | adapterRemove (p : Fin 25)
  /-- PUNTY_PUBLISH (R187): PUNTY_PUBLISH registers a publish of P tokens, to be made at the first commit that reaches P. -/
  | puntyPublish (p : Fin 25)
  /-- PUNTY_RELEASE (R187): PUNTY_RELEASE drops a handle and frees its entry. -/
  | puntyRelease (p : Fin 25)
  /-- PUNTY_PIN (R187): PUNTY_PIN sets or clears a handle's PIN. -/
  | puntyPin (p : Fin 25)
  /-- JOB_CREATE (R221): JOB_CREATE takes the lowest free job number for a general or reserved job. -/
  | jobCreate (p : Fin 25)
  /-- JOB_BIND (R221): JOB_BIND binds a cluster queue to a job. -/
  | jobBind (p : Fin 25)
  /-- JOB_BIND_STACK (R221): JOB_BIND_STACK binds a marver queue to a job. -/
  | jobBindStack (p : Fin 25)
  /-- JOB_UNBIND (R221): JOB_UNBIND unbinds an idle, faulted or aborted queue. -/
  | jobUnbind (p : Fin 25)
  /-- JOB_RESERVE (R232): JOB_RESERVE gives a reserved job all eight queues of the clusters it names. -/
  | jobReserve (p : Fin 25)
  /-- JOB_DESTROY (R221): JOB_DESTROY aborts a job, unbinds its queues and frees its number. -/
  | jobDestroy (p : Fin 25)
  /-- PROG_LOAD (R225): PROG_LOAD checks a step-program image and loads it under a handle. -/
  | progLoad (p : Fin 25)
  /-- PROG_UNLOAD (R225): PROG_UNLOAD frees a program handle that no open batch names. -/
  | progUnload (p : Fin 25)
  /-- SLICE_END (R233): At the end of a slice, or the start of a serving window, jobs lose eligibility, and their tiles park and their transfers stop. -/
  | sliceEnd (p : Fin 24)
  /-- ELIGIBILITY_APPLY (R220): Each engine applies an eligibility change from the scheduler within 4 ao-cycles. -/
  | eligibilityApply (u : Fin 0x4100)
  /-- NONPREEMPT_WATCHDOG (R235): A non-preemptible command still running after 10,000 ao-cycles is stopped, and its job faults with NONPREEMPT_LIMIT. -/
  | nonpreemptWatchdog (u : Fin 0x4000) (k : Fin 33)
  /-- LANE_RECAL (R283): A 1 written to LINK_LANE_RECAL.LANE recalibrates one lane, narrowing or stopping the port meanwhile. -/
  | laneRecal (r : Role) (n : Fin 16) (v : BitVec 32)
  /-- TRAINING_END (R282): Port training ends, and the port reads ACTIVE at its rate, or DOWN. -/
  | trainingEnd (n : Fin 16) (peer failed : BitVec 4)
  /-- RETRAIN_TIMEOUT (R282): Retraining that has not ended after 50 ms declares the port's paths down. -/
  | retrainTimeout (n : Fin 16)
  /-- LANE_BER_WINDOW (R374): At the end of each 50,000,000 ao-cycle window, a lane's pre-FEC error ratio is judged. -/
  | laneBerWindow (n : Fin 16) (l : Fin 4) (bad : Bool)
  /-- ACK (R286): A received ACK frees the acknowledged frames from the replay buffer and advances DONE_SEQ. -/
  | ack (n : Fin 16) (hdr : BitVec 512)
  /-- NAK (R286): A received NAK resends every unacknowledged frame of the path. -/
  | nak (n : Fin 16) (hdr : BitVec 512)
  /-- LINK_CTRL (R287): A LINK_CTRL frame opens or closes a path. -/
  | linkCtrl (n : Fin 16) (hdr : BitVec 512) (open_ : Bool)
  /-- IDLE (R285): An IDLE frame keeps a link in use. -/
  | idle (n : Fin 16) (hdr : BitVec 512)
  /-- WAKE (R436): A received WAKE frame wakes the device from NAP or DEEP, or ends IDLE. -/
  | wake (n : Fin 16) (hdr : BitVec 512)
  /-- WRITE (R288): A remote WRITE writes its payload at a DPA of the target. -/
  | write (n : Fin 16) (hdr : BitVec 512) (data : List (BitVec 8))
  /-- READ (R288): A remote READ returns data from a DPA in READ_RESP frames. -/
  | read (n : Fin 16) (hdr : BitVec 512)
  /-- READ_RESP (R288): A READ_RESP delivers read data to the requester or to the bridge. -/
  | readResp (n : Fin 16) (hdr : BitVec 512) (data : List (BitVec 8))
  /-- REMOTE_ATOMIC (R288): A remote ATOMIC is performed at the target's point of coherence. -/
  | remoteAtomic (n : Fin 16) (hdr : BitVec 512) (data : List (BitVec 8))
  /-- ATOMIC_RESP (R288): An ATOMIC_RESP returns the old word of a remote atomic. -/
  | atomicResp (n : Fin 16) (hdr : BitVec 512) (data : List (BitVec 8))
  /-- FLAG_ADD (R288): A FLAG_ADD frame adds to a cluster or marver flag of the target. -/
  | flagAdd (n : Fin 16) (hdr : BitVec 512) (data : BitVec 32)
  /-- MSG (R289): A MSG frame carries one segment of a message. -/
  | msg (n : Fin 16) (hdr : BitVec 512) (data : List (BitVec 8))
  /-- REFUSE (R292): A received REFUSE faults the requesting job, or answers the relayed RDMA operation. -/
  | refuse (n : Fin 16) (hdr : BitVec 512)
  /-- PVA_WRITE (R298): A PVA_WRITE writes relayed host data through a partition's translation. -/
  | pvaWrite (n : Fin 16) (hdr : BitVec 512) (data : List (BitVec 8))
  /-- PVA_READ (R298): A PVA_READ reads through a partition's translation for a relayed host read. -/
  | pvaRead (n : Fin 16) (hdr : BitVec 512)
  /-- ACK_SEND (R286): The receiver sends an ACK after 8 accepted frames, or 25 ao-cycles after the first of them, or when DONE_SEQ advances. -/
  | ackSend (n : Fin 16) (peer : Fin 64)
  /-- REPLAY_TIMEOUT (R286): After TIMEOUT without acknowledgement the sender resends the path's unacknowledged frames, or declares the path down at LIMIT. -/
  | replayTimeout (n : Fin 16) (peer : Fin 64)
  /-- FRAME_TRANSMIT (R286): A DATA frame is sent once it fits in the port's replay buffer. -/
  | frameTransmit (n : Fin 16)
  /-- ROUTE_SWITCH (R290): After a route set changes, new operations are released once DONE_SEQ covers the outstanding frames. -/
  | routeSwitch (peer : Fin 64)
  /-- ROCE_SEND (R299): A received SEND is held in the intake buffer and acknowledged, or answered with an RNR NAK. -/
  | roceSend (n : Fin 4) (slot : Fin 64) (psn : BitVec 24) (data : List (BitVec 8)) (icrc ce known bad : Bool)
  /-- RDMA_WRITE (R298): A host RDMA WRITE is checked against RKEY and relayed as PVA_WRITE or WRITE frames. -/
  | rdmaWrite (n : Fin 4) (slot : Fin 64) (psn : BitVec 24) (rkey : BitVec 32) (va : BitVec 64) (data : List (BitVec 8)) (icrc ce : Bool) (domain : BitVec 8)
  /-- RDMA_READ (R298): A host RDMA READ request is relayed as PVA_READ or READ frames. -/
  | rdmaRead (n : Fin 4) (slot : Fin 64) (psn : BitVec 24) (rkey : BitVec 32) (va : BitVec 64) (len : BitVec 32) (icrc ce : Bool) (domain : BitVec 8)
  /-- RDMA_WRITE_ACK (R299): An RDMA WRITE is acknowledged once DONE_SEQ covers all its relay frames. -/
  | rdmaWriteAck (n : Fin 4) (slot : Fin 64)
  /-- SEND_FORWARD (R300): A held SEND is forwarded as a work message once earlier RDMA WRITEs on its queue pair are performed. -/
  | sendForward (n : Fin 4) (slot : Fin 64)
  /-- QP_STATE_WRITE (R297): An operator write of the HBR queue-pair window moves a queue pair to RTS or RESET. -/
  | qpStateWrite (r : Role) (n : Fin 4) (v : BitVec 32)
  /-- QP_ACK_TIMEOUT (R297): A queue pair's local ACK timeout retries, or puts the queue pair into ERROR when the retries are exhausted. -/
  | qpAckTimeout (n : Fin 4) (slot : Fin 64)
  /-- CNP_RECEIVE (R296): A received CNP halves the queue pair's send rate, at most once per 50 µs. -/
  | cnpReceive (n : Fin 4) (slot : Fin 64)
  /-- QP_RATE_RECOVERY (R296): After each 55 µs without a CNP, the queue pair's send rate rises by 5 % of line rate. -/
  | qpRateRecovery (n : Fin 4) (slot : Fin 64)
  /-- MESSAGE_DELIVER (R307): The bridge delivers a waiting message to its destination by SEND or ring write, once the queue pair and ring permit. -/
  | messageDeliver (key : Fin 4096) (words : List (BitVec 32))
  /-- WORK_MESSAGE (R303): A work message that arrives whole is checked, then held or performed item by item. -/
  | workMessage (bs : List (BitVec 8)) (qp : Option (Fin 64 × Fin 4 × Fin 64))
  /-- HELD_MESSAGE_RELEASE (R333): Partition messages held while the partition was not ACTIVE are performed once it becomes ACTIVE. -/
  | heldMessageRelease (p : Fin 24)
  /-- ENQ_CLUSTER (R302): ENQ_CLUSTER appends gaffer commands to a cluster queue. -/
  | enqCluster (p : Fin 25)
  /-- ENQ_MARVER (R302): ENQ_MARVER appends marver commands to a stack queue. -/
  | enqMarver (p : Fin 25)
  /-- ENQ_DMA (R302): ENQ_DMA appends DMA commands to a compute DMA queue. -/
  | enqDma (p : Fin 25)
  /-- CSR (R303): A CSR item performs one control-space read or write in the message's role. -/
  | csr (p : Fin 25)
  /-- HOST_PULL (R302): HOST_PULL reads host memory by RDMA READ and writes it at a PVA. -/
  | hostPull (p : Fin 25)
  /-- TOK_LOAD (R316): TOK_LOAD checks and loads a tokenizer table for a model. -/
  | tokLoad (p : Fin 25)
  /-- TOK_ENCODE (R317): TOK_ENCODE encodes bytes into tokens by ranked merges. -/
  | tokEncode (p : Fin 25)
  /-- TOK_DECODE (R317): TOK_DECODE writes the byte strings of a token sequence. -/
  | tokDecode (p : Fin 25)
  /-- AUDIO_IN (R319): AUDIO_IN accepts, fills or discards input frames against the stream's expected sequence number. -/
  | audioIn (p : Fin 25)
  /-- SESSION_OPEN (R325): SESSION_OPEN opens a stream with its formats, buffer and flag targets. -/
  | sessionOpen (p : Fin 25)
  /-- SESSION_CLOSE (R325): SESSION_CLOSE releases the turn's request, discards unsent output and frees the stream. -/
  | sessionClose (p : Fin 25)
  /-- FEATURE_FRAME (R320): Once its window's samples are accepted, a feature frame is computed and written, and voice activity is judged. -/
  | featureFrame (k : Fin 1024)
  /-- OUTPUT_SCAN (R323): At least every 5,000 ao-cycles the front end reads each output header and sends the whole frames that are ready. -/
  | outputScan (k : Fin 1024)
  /-- GLUE_POLL (R326): The glue polls READY and, on an increase, admits the turn's request and opens its batch. -/
  | gluePoll (k : Fin 1024)
  /-- GLUE_RECORD (R326): The glue receives a serving record, appends its tokens to HIST and SYNTH and raises SYNTH_FLAG. -/
  | glueRecord (k : Fin 1024)
  /-- PTN_CREATE (R332): PTN_CREATE checks a creation body and creates the partition with its units, tables, serving job and keys. -/
  | ptnCreate (p : Fin 25)
  /-- PTN_RELEASE (R346): PTN_RELEASE makes the partition SCRUBBING and starts its scrub. -/
  | ptnRelease (p : Fin 25)
  /-- SCRUB_DONE (R346): When the stack fills end, the partition's units become free and SCRUB_DONE is sent, or the successor is created. -/
  | scrubDone (r : Scrubbed)
  /-- PKG_LOAD (R339): PKG_LOAD verifies a Prothiel package, unwraps its content key and begins decrypting its chunks into sealed memory. -/
  | pkgLoad (p : Fin 25)
  /-- PKG_LOAD_DONE (R339): The last chunk is written or a tag fails, the key is wiped, PTN_MEAS is extended and the outcome is sent. -/
  | pkgLoadDone
  /-- PKG_UNLOAD (R340): PKG_UNLOAD zeroes a package's destination and unseals its granules. -/
  | pkgUnload (p : Fin 25)
  /-- SEC_IDENTITY (R337): SEC_IDENTITY writes the device's public keys and certificate to a group address. -/
  | secIdentity (p : Fin 25)
  /-- ATTEST (R347): ATTEST writes a signed device or partition report to a group address. -/
  | attest (p : Fin 25)
  /-- LC_ADVANCE (R351): LC_ADVANCE moves the life-cycle state one step on and resets the device. -/
  | lcAdvance (p : Fin 25)
  /-- TAMPER (R350): A tamper source trips, and the vault, key slots and region 63 are wiped, sealed partitions fault and the latch is set. -/
  | tamper (src : BitVec 5)
  /-- UNIT_RETIRE (R376): UNIT_RETIRE retires a core, cluster, channel or lane. -/
  | unitRetire (p : Fin 25)
  /-- UNIT_READMIT (R377): UNIT_READMIT isolates a retired unit and starts its destructive test. -/
  | unitReadmit (p : Fin 25)
  /-- READMIT_TEST_DONE (R377): A re-admission test ends, and the unit rejoins service or stays retired with READMIT_FAILED. -/
  | readmitTestDone (rows : List (Fin 2097152)) (fails : Nat)
  /-- FLIP_ARM (R378): Setting ARMED in a flip register arms an error injection for the named unit. -/
  | flipArm (r : Role) (t : Fin 1568) (v : BitVec 32)
  /-- ROUND_END (R387): At the end of each housekeeping round, the readings are published, the slopes computed and the thresholds compared. -/
  | roundEnd (vals : List (Option (BitVec 16)))
  /-- CLOCK_STEP_APPLY (R388): A new thermal or governor step takes effect on a die's core clock within 1,000 ao-cycles. -/
  | clockStepApply (e : Fin 8)
  /-- LEHR_FORCE (R389): LEHR_FORCE written to THM_CTRL begins a lehr stop. -/
  | lehrForce (r : Role)
  /-- LEHR_CLEAR (R391): LEHR_CLEAR written to THM_CTRL leaves a completed lehr stop if every channel has stayed calm. -/
  | lehrClear (r : Role)
  /-- LEHR_WAIT_EXPIRY (R389): A step in flight that has not committed within THM_LEHR_WAIT has its jobs aborted. -/
  | lehrWaitExpiry (p : Fin 24)
  /-- LEHR_EVICT (R389): When every step in flight has ended, live requests are evicted, batches closed, jobs aborted and domains powered down. -/
  | lehrEvict
  /-- LEHR_DONE (R389): When stacks are in self-refresh and compute domains off, LEHR reads 2 and LEHR_DONE is sent. -/
  | lehrDone
  /-- ANALOGUE_TRIP (R392): A junction comparator at 115 °C switches off every domain but always-on and latches THM_TRIP. -/
  | analogueTrip (c : Fin 32)
  /-- GOVERNOR_SAMPLE (R394): Every 50 µs the governor samples input power and lowers or raises its step, or begins a lehr stop. -/
  | governorSample (v1 v2 i1 i2 : BitVec 16)
  /-- POWER_ON (R427): Input at or above 38.0 V with MATE_L low for 20 ms ramps the input and brings up the always-on domain. -/
  | powerOn
  /-- POWER_ON_RESET_RELEASE (R427): Ten milliseconds after the always-on rail and oscillator are good, the ao-cycle count starts and stage 1 decides the start. -/
  | powerOnResetRelease
  /-- MODULE_RESET (R455): RESET_L held low for at least 1 µs powers down every domain for a module reset. -/
  | moduleReset
  /-- RESET_L_RELEASE (R455): Release of RESET_L restarts the ao-cycle count after 100 µs and begins stage 1. -/
  | resetLRelease
  /-- STAGE_COMPLETE (R402): A start stage ends and the next checked image runs. -/
  | stageComplete
  /-- STAGE_TIMEOUT (R404): A stage that exceeds its bound fails the start and performs a warm device reset. -/
  | stageTimeout
  /-- STAGE_FAULT (R404): A stage that reports a fault fails the start and performs a warm device reset. -/
  | stageFault (code : BitVec 16)
  /-- UPDATE_IMAGE (R410): UPDATE_IMAGE writes a chunk into the inactive copy, and on LAST verifies it and sets it active in trial. -/
  | updateImage (p : Fin 25)
  /-- INSTALL_UNIT_SWAP (R412): An install swaps the next unit to the new image once that unit's swap condition holds. -/
  | installUnitSwap (chans : List (Fin 320))
  /-- BOOT_SELECT_COMMIT (R411): BOOT_SELECT COMMIT clears TRIAL for a kind. -/
  | bootSelectCommit (p : Fin 25)
  /-- BOOT_SELECT_REVERT (R411): BOOT_SELECT REVERT flips the active copy of a kind for the next start. -/
  | bootSelectRevert (p : Fin 25)
  /-- BOOT_SELECT_RAISE_SVN (R411): BOOT_SELECT RAISE_SVN blows SVN_MIN up to the active copy's SVN. -/
  | bootSelectRaiseSvn (p : Fin 25)
  /-- BOOT_SELECT_REVOKE_KEY0 (R411): BOOT_SELECT REVOKE_KEY0 blows the revocation fuse of key slot 0. -/
  | bootSelectRevokeKey0 (p : Fin 25)
  /-- FRIT_REQUEST (R411): FRIT_REQUEST sets FRIT_FORCE and performs a warm device reset. -/
  | fritRequest (p : Fin 25)
  /-- FRIT_EXIT (R409): FRIT_EXIT clears ATTEMPTS and FRIT_FORCE and performs a warm device reset. -/
  | fritExit
  /-- BOOT_REC_WINDOW_READ (R418): A read of BOOT_REC_WINDOW returns the selected block once it has been read from the flash. -/
  | bootRecWindowRead (r : Role) (i : Fin 64)
  /-- INPUT_LOW (R424): Input below 40.0 V for 1 ms sends INPUT_LOW and lowers the governor step for each further millisecond. -/
  | inputLow (mv : BitVec 16)
  /-- POWER_FAIL (R426): Input below 35.0 V for 50 µs, above 62.0 V for 10 µs, or MATE_L high runs the power-fail sequence. -/
  | powerFail
  /-- DOMAIN_ON (R429): A waking domain reaches ON, and the work held for it proceeds. -/
  | domainOn (n : Fin 112)
  /-- DOMAIN_WAKE_TIMEOUT (R429): A domain not ON within four times its wake bound is retried once, then fails with DOMAIN_FAIL. -/
  | domainWakeTimeout (n : Fin 112)
  /-- AUTO_OFF (R430): An unpinned compute or media domain idle for PWR_OFF_AFTER ao-cycles powers off. -/
  | autoOff (n : Fin 112) (idle : Nat)
  /-- PWR_DOM_REQ (R442): A write of PWR_DOM.REQ asks a domain for ON, OFF, SELF_REFRESH or AUTO. -/
  | pwrDomReq (r : Role) (n : Fin 112) (v : BitVec 32)
  /-- POWER_REQ_ACTIVE (R436): A request for ACTIVE, by PWR_DEV_REQ, POWER_REQ or JTAG, wakes the device. -/
  | powerReqActive (r : Role) (eid : Option (Fin 256))
  /-- POWER_REQ_IDLE (R435): A request for IDLE enters IDLE once no work is in flight. -/
  | powerReqIdle (r : Role) (eid : Option (Fin 256))
  /-- POWER_REQ_NAP (R435): A request for NAP is checked and, if accepted, begins entry to NAP. -/
  | powerReqNap (r : Role) (eid : Option (Fin 256))
  /-- POWER_REQ_DEEP (R435): A request for DEEP is checked and, if accepted, begins entry to DEEP. -/
  | powerReqDeep (r : Role) (eid : Option (Fin 256))
  /-- AUTO_IDLE (R435): With AUTO_IDLE set, the device enters IDLE after IDLE_AFTER ao-cycles without work. -/
  | autoIdle (idle : Nat)
  /-- POWER_ENTRY_COMPLETE (R435): The domains of the target state are off and STATE becomes the target. -/
  | powerEntryComplete
  /-- WAKE_CAUSE (R436): A wake cause starts the return to ACTIVE, or abandons an entry in progress. -/
  | wakeCause (kind : Fin 4)
  /-- WAKE_COMPLETE (R436): The waking domains are on and trained, STATE becomes ACTIVE and the held work is performed. -/
  | wakeComplete
  /-- SIGNAL_DETECT (R436): In DEEP, signal energy on lane 0 of NAP_PORT powers and trains that link domain. -/
  | signalDetect
  /-- WAKE_WINDOW_EXPIRY (R436): With no WAKE frame within 5,000,000 ao-cycles of training, the link domain powers off again. -/
  | wakeWindowExpiry
  /-- PLL_LOCK_LOSS (R432): A PLL loses lock, its domain's clock stops and the loss is counted. -/
  | pllLockLoss (k : Fin 118)
  /-- PLL_RELOCK (R432): A PLL relocks within 20 µs, and its domain's clock runs again. -/
  | pllRelock (k : Fin 118)
  /-- SET_ENDPOINT_ID (R438): The MCTP Set Endpoint ID message assigns the device's endpoint ID. -/
  | setEndpointId (src : Fin 256) (pec : Bool) (op : Fin 4) (eid : BitVec 8)
  /-- GET_ENDPOINT_ID (R438): The MCTP Get Endpoint ID message returns the endpoint ID. -/
  | getEndpointId (src : Fin 256) (pec : Bool)
  /-- GET_ENDPOINT_UUID (R438): The MCTP Get Endpoint UUID message returns the UUID. -/
  | getEndpointUuid (src : Fin 256) (pec : Bool)
  /-- GET_MCTP_VERSION_SUPPORT (R438): The MCTP Get MCTP Version Support message returns the supported versions. -/
  | getMctpVersionSupport (src : Fin 256) (pec : Bool) (typ : BitVec 8)
  /-- GET_MESSAGE_TYPE_SUPPORT (R438): The MCTP Get Message Type Support message returns the supported message types. -/
  | getMessageTypeSupport (src : Fin 256) (pec : Bool)
  /-- MGT_WORK (R439): A WORK message on the management port is performed as an operator work message. -/
  | mgtWork (src : Fin 256) (pec : Bool) (bs : List (BitVec 8))
  /-- TELEMETRY (R439): A TELEMETRY message returns every channel reading and THM_STATUS. -/
  | telemetry (src : Fin 256) (pec : Bool)
  /-- BOOT_RECORD (R439): A BOOT_RECORD message returns one block of the current boot record. -/
  | bootRecord (src : Fin 256) (pec : Bool) (block : Fin 4096)
  /-- MGT_EVENT_SEND (R439): A copy of a device event is sent to EVENT_EID, retried up to three times and otherwise dropped. -/
  | mgtEventSend (acked : Bool)
  /-- SMBUS_TIMEOUT (R453): When SMB_CLK has been low for 30 ms, the device releases the bus and resets its interface. -/
  | smbusTimeout (low : Nat)
  /-- CSR_ACCESS (R440): The JTAG CSR_ACCESS instruction performs one 4-byte operator access at Update-DR. -/
  | csrAccess (dpa : BitVec 44) (write : Bool) (v : BitVec 32)
  /-- IDCODE (R440): The JTAG IDCODE instruction selects the identification register. -/
  | idcode
  /-- EXTEST (R440): The JTAG EXTEST instruction drives the boundary-scan register. -/
  | extest (pins tdi : List Bool)
  /-- SAMPLE_PRELOAD (R440): The JTAG SAMPLE/PRELOAD instruction samples or preloads the boundary scan. -/
  | samplePreload (pins tdi : List Bool)
  /-- INTERNAL_SCAN (R440): The JTAG INTERNAL_SCAN instruction reaches the internal chains in MANUFACTURE, and acts as BYPASS otherwise. -/
  | internalScan (tdi : List Bool)
  /-- BYPASS (R440): The JTAG BYPASS instruction selects the 1-bit bypass register. -/
  | bypass (code : BitVec 8) (tdi : List Bool)
  /-- TAP_RESET (R454): TRST_L low resets the TAP asynchronously. -/
  | tapReset
  /-- AO_COUNT_READ (R443): A read of CLK_AO_COUNT_LO returns the low count and latches the high half. -/
  | aoCountRead (r : Role)
  /-- ENTRY_WINDOW_READ (R216): The first access to SRV entry-window bytes 0x100–0x103 takes one indivisible copy of the selected request entry. -/
  | entryWindowRead (r : Role)
  /-- LINE_REPLACEMENT (R241): The device replaces a die-cache line at any time, writing it back if it is dirty. -/
  | lineReplacement (die : Fin 8) (ptn : Fin 256) (burst : BitVec 38)
  /-- LINK_SIGNAL_LOSS (R282): A port whose peer stops showing signal leaves ACTIVE for DOWN or retraining, and its paths go down under R287. -/
  | linkSignalLoss (n : Fin 16) (retrain : Bool)
  /-- LINK_SIGNAL_DETECT (R282): A DOWN port that detects signal from its peer begins training. -/
  | linkSignalDetect (n : Fin 16)
  /-- LANE_RECAL_END (R283): Recalibration of a lane ends within 30 ms, DONE is set, and the port retrains to full width or the lane is handled as a persistent failure. -/
  | laneRecalEnd (n : Fin 16) (ok : Bool)
  /-- TRIP_RESET_HOLD_RELEASE (R392): When every junction comparator reads below 95 °C, a start held after an analogue trip proceeds. -/
  | tripResetHoldRelease
  /-- INPUT_LOW_END (R424): Input voltage that returns to 40.0 V or more clears PWR_INPUT.LOW and stops the per-millisecond governor step falls. -/
  | inputLowEnd
  /-- ROCE_ACK (R297): An ACK or NAK from the host for a SEND or RDMA WRITE sent by the bridge frees or retries it, or puts the queue pair into ERROR. -/
  | roceAck (n : Fin 4) (slot : Fin 64) (psn : BitVec 24) (syn : BitVec 8)
  /-- RDMA_READ_RESPONSE (R302): RDMA READ response data from the host for a HOST_PULL arrives at the bridge and is written at the destination PVA through relay. -/
  | rdmaReadResponse (n : Fin 4) (slot : Fin 64) (data : List (BitVec 8)) (icrc ce : Bool) (far : Option (Fin 64 × Fin 24 × BitVec 8 × BitVec 48))
deriving DecidableEq, Repr

end Sys2Proof
end

