-- ==== Sys2Proof/Config.lean ====
section
/-! DEFINITION. What one part fixes (fuses, straps, keys, cryptography) and the values that the spec leaves open. None of these constants has a body that a proof could see. -/

namespace Sys2Proof

/-- A value that the spec leaves open, handed out once: the `n`-th free value. Nothing constrains it. -/
opaque Config.free : Nat → Nat

/-- The byte that another device holds at a DPA, where a reader of this device takes it without waiting for the answer: a free value. -/
opaque Config.farByte : Nat → Nat → Byte

/-- VERSION.LAYOUT of a block type (02, R28: "per block type"). -/
opaque Config.layout : Nat → BitVec 16

/-- DEV_PART.STEPPING is 0x10 in production (01, R21). -/
abbrev Config.stepping : BitVec 8 := 0x10#8

/-- The IANA enterprise number in the fuses (20, R444). -/
opaque Config.vendorId : BitVec 32

/-- SMB_ADDR[2:0] as strapped (20, R438). -/
opaque Config.smbStrap : BitVec 3

/-- The UUID of the part (20, R438). -/
opaque Config.uuid : BitVec 128

/-- The fused MAC address of a port (14, R310). -/
opaque Config.macFuse : Nat → BitVec 48

/-- AES-256-XTS on one 64-byte data unit under a key and a tweak: a permutation of its contents (07, R125). -/
opaque Config.xts : Nat → Nat → Equiv.Perm (BitVec 512)

/-- The bytes in which the part lays out the results in flight of a park image (04, R79: "layout internal to the device"). -/
opaque Config.parkLayout : List Nat → List Byte

/-- Spare rows of a buffer bank used at manufacture (17, R369). -/
opaque Config.spareRowsUsed : Nat → Nat → Nat

/-- Spare rows of a channel bank, fuse row entries and spare columns used at manufacture (17, R362): by stack, channel, bank. -/
opaque Config.stkRowsUsed : Nat → Nat → Nat → Nat
opaque Config.stkFuseRowsUsed : Nat → Nat → Nat
opaque Config.stkColUsed : Nat → Nat → Nat → Bool

/-- An image copy as delivered in the flash: copy 0 A, 1 B; kind (19, R397, R400). -/
opaque Config.image : Nat → Nat → List Byte

/-- The hash of key slot 0 or 1 in the fuses, and SVN_MIN of a kind as fused at manufacture (19, R399). -/
opaque Config.fwKeyHash : Nat → List Byte
opaque Config.svnMin : Nat → Nat

/-- Bytes of the boot record as delivered that describe repairs at manufacture (19, R401). -/
opaque Config.recByte : Nat → Byte

/-- A Falcon-1024 signature over a message verifies against the public key whose hash is the first argument (16, R338, R341; 19, R398). -/
opaque Config.falconVerify : Nat → List Byte → List Byte → Bool

/-- Key generation as the algorithms' standards give it, public key before private key: Falcon-1024 from 48 bytes, ML-KEM-1024 from 64 (16, R336). -/
opaque Config.falconKeys : List Byte → List Byte × List Byte
opaque Config.kemKeys : List Byte → List Byte × List Byte

/-- What provisioning leaves with the part (16, R337, R351): the device certificate, the hash of the provisioning key, the fuse identifier. -/
opaque Config.certificate : List Byte
opaque Config.provKeyHash : Nat
opaque Config.fuseId : List Byte

/-- Falcon-1024 signing and ML-KEM-1024 decapsulation under a private key, AES Key Wrap unwrapping under a KEK, and AES-256-GCM opening under a key, nonce, additional data, ciphertext and tag (16, R336–R339). -/
opaque Config.falconSign : List Byte → List Byte → List Byte
opaque Config.kemDecaps : List Byte → List Byte → List Byte
opaque Config.kwUnwrap : List Byte → List Byte → Option (List Byte)
opaque Config.gcmOpen : List Byte → List Byte → List Byte → List Byte → List Byte → Option (List Byte)

/-- Which of the first five services of R314 a device core runs while the core of the second number is being swapped, 16 with none (15, R314, R329; 19, R412). -/
opaque Config.coreServices : Nat → Nat → Nat

/-- What firmware keeps in service SRAM, by ao-cycle and offset (15, R315). -/
opaque Config.svcByte : Nat → Nat → BitVec 8

/-- The versions of an MCTP message type that Get MCTP Version Support names (20, R438: as DSP0236 defines them). -/
opaque Config.mctpVersions : Nat → List (BitVec 32)

end Sys2Proof
end

