-- ==== Sys2Proof/Machine/Bytes.lean ====
section
/-! DEFINITION. Little-endian bytes and bit fields (00, R3: every multi-byte field is little-endian; bit 8k + j of a structure is bit j of its byte k). -/

namespace Sys2Proof

/-- The `n` little-endian bytes of a number (R3). -/
def leBytes : Nat → Nat → List Byte
  | 0, _ => []
  | n + 1, v => BitVec.ofNat 8 v :: leBytes n (v / 256)

/-- The number that little-endian bytes spell (R3). -/
def leNat : List Byte → Nat
  | [] => 0
  | b :: t => b.toNat + 256 * leNat t

/-- Bits [hi:lo] of a number. -/
def fld (v hi lo : Nat) : Nat := v / 2 ^ lo % 2 ^ (hi + 1 - lo)

/-- Bit `i` of a number. -/
def bitOf (v i : Nat) : Bool := v / 2 ^ i % 2 = 1

/-- A number with bits [hi:lo] replaced by `x`. -/
def setFld (v hi lo x : Nat) : Nat :=
  v / 2 ^ (hi + 1) * 2 ^ (hi + 1) + (x % 2 ^ (hi + 1 - lo)) * 2 ^ lo + v % 2 ^ lo

/-- Bits [hi:lo] of a register word. -/
def wfld (w : Word) (hi lo : Nat) : Nat := fld w.toNat hi lo

/-- Bit `i` of a register word. -/
def wbit (w : Word) (i : Nat) : Bool := w.getLsbD i

/-- A register word with bits [hi:lo] replaced by `x`. -/
def wput (w : Word) (hi lo x : Nat) : Word := BitVec.ofNat 32 (setFld w.toNat hi lo x)

/-- A register word with bit `i` set to `b`. -/
def wputBit (w : Word) (i : Nat) (b : Bool) : Word :=
  if b then w ||| (1#32 <<< i) else w &&& ~~~(1#32 <<< i)

/-- The bits of a mask that are 1, rising, below `n`. -/
def maskBits (n m : Nat) : List Nat := (List.range n).filter (bitOf m)

/-- The mask with exactly the listed bits 1. -/
def maskOf (l : List Nat) : Nat := l.foldl (fun m i => if bitOf m i then m else m + 2 ^ i) 0

/-- The bytes of a list from `off`, `n` of them, zero beyond its end. -/
def bytesAt (l : List Byte) (off n : Nat) : List Byte :=
  let p := (l.drop off).take n
  p ++ List.replicate (n - p.length) 0

/-- The little-endian number in bytes off … off + n − 1 of a structure. -/
def numAt (l : List Byte) (off n : Nat) : Nat := leNat (bytesAt l off n)

/-- Bits [hi:lo] of a structure numbered as one bit string (R3). -/
def bitsAt (l : List Byte) (hi lo : Nat) : Nat :=
  fld (numAt l (lo / 8) (hi / 8 + 1 - lo / 8)) (hi - lo / 8 * 8) (lo - lo / 8 * 8)

/-- A two's complement number of `w` bits. -/
def signed (w v : Nat) : Int := if v % 2 ^ w < 2 ^ (w - 1) then (v % 2 ^ w : Nat) else (v % 2 ^ w : Nat) - (2 ^ w : Nat)

/-- Replace bytes off … of a structure. -/
def patchBytes (l : List Byte) (off : Nat) (bs : List Byte) : List Byte :=
  bytesAt l 0 off ++ bs ++ l.drop (off + bs.length)

/-- Replace an n-byte field of a structure. -/
def patchNum (l : List Byte) (off n v : Nat) : List Byte := patchBytes l off (leBytes n v)

/-- `n / d` rounded up. -/
def ceilDiv (n d : Nat) : Nat := (n + d - 1) / d

/-- `n` rounded up to a multiple of `d`. -/
def roundUp (n d : Nat) : Nat := ceilDiv n d * d

end Sys2Proof
end

