-- ==== Sys2Proof/Machine/Pages.lean ====
section
/-! DEFINITION. The page map of control space (02, R23, R24, R29, R38). -/

namespace Sys2Proof.Machine

/-- The blocks of control space (R23). -/
inductive Blk where
  | dev | pwr | clk | thm | sec | boot | mgt | link | hbr | srv | smp | kvp | med | ptn | mmu | dmac | stk | die | clu | svc
deriving DecidableEq, Repr

/-- A page: its block and its place among the block's pages. A stack page is number 4 s + k (R23). -/
structure Page where
  blk : Blk
  n : Nat
deriving DecidableEq, Repr

/-- How many pages a block has (R23). -/
def Blk.pages : Blk → Nat
  | .dev | .pwr | .clk | .thm | .sec | .boot | .mgt | .med | .mmu => 1
  | .link => 16 | .hbr => 4 | .srv => 8 | .smp => 8 | .kvp => 24 | .ptn => 24 | .dmac => 64
  | .stk => 96 | .die => 8 | .clu => 800 | .svc => 16

/-- The control-space offset of a page (R23). -/
def Page.base (p : Page) : Nat :=
  match p.blk with
  | .dev => 0x0000000 | .pwr => 0x0001000 | .clk => 0x0002000 | .thm => 0x0003000 | .sec => 0x0004000
  | .boot => 0x0005000 | .mgt => 0x0006000
  | .link => 0x0010000 + p.n * 0x1000
  | .hbr => 0x0020000 + p.n * 0x1000
  | .srv => 0x0030000 + p.n * 0x1000
  | .smp => 0x0038000 + p.n * 0x1000
  | .kvp => if p.n < 16 then 0x0040000 + p.n * 0x1000 else 0x0051000 + (p.n - 16) * 0x1000
  | .med => 0x0050000
  | .ptn => 0x0060000 + p.n * 0x1000
  | .mmu => 0x0080000
  | .dmac => 0x0090000 + p.n * 0x1000
  | .stk => 0x0100000 + p.n * 0x1000
  | .die => 0x0200000 + p.n * 0x1000
  | .clu => 0x1000000 + p.n * 0x1000
  | .svc => 0x1400000 + p.n * 0x1000

/-- The page at page index `i` of control space, none where the table assigns none (R23). -/
def pageAt (i : Nat) : Option Page :=
  if i = 0 then some ⟨.dev, 0⟩ else if i = 1 then some ⟨.pwr, 0⟩ else if i = 2 then some ⟨.clk, 0⟩
  else if i = 3 then some ⟨.thm, 0⟩ else if i = 4 then some ⟨.sec, 0⟩ else if i = 5 then some ⟨.boot, 0⟩
  else if i = 6 then some ⟨.mgt, 0⟩
  else if 0x10 ≤ i ∧ i < 0x20 then some ⟨.link, i - 0x10⟩
  else if 0x20 ≤ i ∧ i < 0x24 then some ⟨.hbr, i - 0x20⟩
  else if 0x30 ≤ i ∧ i < 0x38 then some ⟨.srv, i - 0x30⟩
  else if 0x38 ≤ i ∧ i < 0x40 then some ⟨.smp, i - 0x38⟩
  else if 0x40 ≤ i ∧ i < 0x50 then some ⟨.kvp, i - 0x40⟩
  else if i = 0x50 then some ⟨.med, 0⟩
  else if 0x51 ≤ i ∧ i < 0x59 then some ⟨.kvp, i - 0x51 + 16⟩
  else if 0x60 ≤ i ∧ i < 0x78 then some ⟨.ptn, i - 0x60⟩
  else if i = 0x80 then some ⟨.mmu, 0⟩
  else if 0x90 ≤ i ∧ i < 0xD0 then some ⟨.dmac, i - 0x90⟩
  else if 0x100 ≤ i ∧ i < 0x160 then some ⟨.stk, i - 0x100⟩
  else if 0x200 ≤ i ∧ i < 0x208 then some ⟨.die, i - 0x200⟩
  else if 0x1000 ≤ i ∧ i < 0x1320 then some ⟨.clu, i - 0x1000⟩
  else if 0x1400 ≤ i ∧ i < 0x1410 then some ⟨.svc, i - 0x1400⟩
  else none

/-- The page that a control-space offset falls in (R23). -/
def pageOf (off : Nat) : Option Page := pageAt (off / 0x1000)

/-- BLOCK_TYPE (R38). -/
def Page.blockType (p : Page) : Nat :=
  match p.blk with
  | .dev => 0x0001 | .pwr => 0x0002 | .clk => 0x0003 | .thm => 0x0004 | .sec => 0x0005 | .boot => 0x0006
  | .mgt => 0x0007 | .link => 0x0010 | .hbr => 0x0011 | .srv => 0x0020 | .smp => 0x0021 | .kvp => 0x0022
  | .med => 0x0023 | .ptn => 0x0024 | .mmu => 0x0025 | .dmac => 0x0026
  | .stk => 0x0030 + p.n % 4 | .die => 0x0040 | .clu => 0x0041 | .svc => 0x0050

/-- INSTANCE (R29). -/
def Page.inst (p : Page) : Nat :=
  match p.blk with
  | .link | .hbr | .die | .clu | .svc | .kvp | .ptn | .srv | .smp => p.n
  | .stk => p.n / 4
  | .dmac => 4 * p.n
  | _ => 0

/-- Short names of pages. -/
abbrev pDev : Page := ⟨.dev, 0⟩
abbrev pPwr : Page := ⟨.pwr, 0⟩
abbrev pClk : Page := ⟨.clk, 0⟩
abbrev pThm : Page := ⟨.thm, 0⟩
abbrev pSec : Page := ⟨.sec, 0⟩
abbrev pBoot : Page := ⟨.boot, 0⟩
abbrev pMgt : Page := ⟨.mgt, 0⟩
abbrev pMed : Page := ⟨.med, 0⟩
abbrev pMmu : Page := ⟨.mmu, 0⟩
abbrev pLink (n : Nat) : Page := ⟨.link, n⟩
abbrev pHbr (n : Nat) : Page := ⟨.hbr, n⟩
abbrev pSrv (n : Nat) : Page := ⟨.srv, n⟩
abbrev pSmp (n : Nat) : Page := ⟨.smp, n⟩
abbrev pKvp (n : Nat) : Page := ⟨.kvp, n⟩
abbrev pPtn (n : Nat) : Page := ⟨.ptn, n⟩
/-- The page of compute DMA engine `e`, four engines a page (R24). -/
abbrev pDmac (e : Nat) : Page := ⟨.dmac, e / 4⟩
/-- Page `k` of stack `s`: 0 control, 1 marver, 2 ECC, 3 DMA (R23). -/
abbrev pStk (s k : Nat) : Page := ⟨.stk, 4 * s + k⟩
abbrev pDie (n : Nat) : Page := ⟨.die, n⟩
abbrev pClu (n : Nat) : Page := ⟨.clu, n⟩
abbrev pSvc (n : Nat) : Page := ⟨.svc, n⟩

/-- The slot of engine `e` inside its page (R24). -/
abbrev dslot (e : Nat) : Nat := 0x100 + (e % 4) * 0x380

end Sys2Proof.Machine
end

