-- ==== Sys2Proof/Machine/Regs.lean ====
section
/-! DEFINITION. The register table: for every register of every page its place, its field types (00, R4) and its reset word, as the register tables of the chapters give them. A field whose value is computed at the read has 0 here. -/

namespace Sys2Proof.Machine

/-- One register, or `count` of them `stride` bytes apart. The masks say which bits are RW, W1C, W1S, RCL and WO; every other bit is RO (R4). -/
structure RegRow where
  first : Nat
  count : Nat
  stride : Nat
  rw : Nat
  w1c : Nat
  w1s : Nat
  rcl : Nat
  wo : Nat
  reset : Nat
deriving DecidableEq, Repr

/-- The header of every page (02, R28). -/
def rowsHdr : List RegRow := [
  ⟨0x0, 1, 4, 0, 0, 0, 0, 0, 0⟩,  -- ID (R28)
  ⟨0x4, 1, 4, 0, 0, 0, 0, 0, 0⟩,  -- VERSION (R28)
  ⟨0x8, 1, 4, 0xb, 0, 0x4, 0, 0, 0⟩,  -- CTRL (R28)
  ⟨0xc, 1, 4, 0, 0, 0, 0, 0, 0x1⟩,  -- STATUS (R28)
  ⟨0x10, 1, 4, 0, 0xffffffff, 0, 0, 0, 0⟩,  -- EVENT (R28)
  ⟨0x14, 1, 4, 0xffff000f, 0, 0, 0, 0, 0⟩,  -- EVENT_EN (R28)
  ⟨0x18, 1, 4, 0, 0, 0, 0, 0, 0⟩,  -- FAULT_CODE (R28)
  ⟨0x1c, 1, 4, 0, 0, 0, 0, 0, 0⟩,  -- FAULT_INFO (R28)
  ⟨0x20, 1, 4, 0, 0, 0, 0, 0, 0⟩,  -- PWR_STATE (R28)
  ⟨0x24, 1, 4, 0, 0, 0, 0, 0, 0xff⟩,  -- OWNER (R28)
  ⟨0x28, 1, 4, 0xffffffff, 0, 0, 0, 0, 0⟩  -- SCRATCH (R28)
  ]

/-- The registers of a DEV page. -/
def rowsDev : List RegRow := [
  ⟨0x40, 1, 4, 0, 0, 0, 0, 0, 0x102403⟩,  -- DEV_PART (R21)
  ⟨0x44, 1, 4, 0, 0, 0, 0, 0, 0⟩,  -- DEV_UNITS_COMPUTE (R21)
  ⟨0x48, 1, 4, 0, 0, 0, 0, 0, 0⟩,  -- DEV_UNITS_MEMORY (R21)
  ⟨0x4c, 1, 4, 0, 0, 0, 0, 0, 0⟩,  -- DEV_UNITS_LINK (R21)
  ⟨0x80, 1, 4, 0x3f013f, 0, 0, 0, 0, 0⟩,  -- DEV_GROUP (R312)
  ⟨0xa0, 1, 4, 0x7fff, 0, 0, 0, 0, 0⟩,  -- DEV_DEST.CFG (R313)
  ⟨0xa4, 1, 4, 0xffffffff, 0, 0, 0, 0, 0⟩,  -- DEV_DEST.RKEY (R313)
  ⟨0xa8, 1, 4, 0xffffffc0, 0, 0, 0, 0, 0⟩,  -- DEV_DEST.RING_VA_LO (R313)
  ⟨0xac, 1, 4, 0xffffffff, 0, 0, 0, 0, 0⟩,  -- DEV_DEST.RING_VA_HI (R313)
  ⟨0xb0, 1, 4, 0xfffffff8, 0, 0, 0, 0, 0⟩,  -- DEV_DEST.CONS_LO (R313)
  ⟨0xb4, 1, 4, 0xfffff, 0, 0, 0, 0, 0⟩,  -- DEV_DEST.CONS_HI (R313)
  ⟨0xb8, 1, 4, 0, 0, 0, 0xffffffff, 0, 0⟩,  -- DEV_DEST.SENT (R313)
  ⟨0xbc, 1, 4, 0, 0, 0, 0xffffffff, 0, 0⟩,  -- DEV_DEST.WAITS (R313)
  ⟨0x100, 64, 8, 0xffffffff, 0, 0, 0, 0, 0⟩,  -- DEV_ROUTE_LO[d] (R312)
  ⟨0x104, 64, 8, 0xffffffff, 0, 0, 0, 0, 0⟩,  -- DEV_ROUTE_HI[d] (R312)
  ⟨0x300, 64, 4, 0, 0, 0, 0, 0, 0⟩  -- DEV_PATH[d] (R312)
  ]

/-- The registers of a PWR page. -/
def rowsPwr : List RegRow := [
  ⟨0x40, 1, 4, 0, 0, 0, 0, 0x3, 0⟩,  -- PWR_DEV_REQ (R442)
  ⟨0x44, 1, 4, 0, 0, 0, 0, 0, 0⟩,  -- PWR_DEV_STATUS (R442)
  ⟨0x48, 1, 4, 0xffffff1f, 0, 0, 0, 0, 0xc35000⟩,  -- PWR_CFG (R442)
  ⟨0x4c, 1, 4, 0xffffff, 0, 0, 0, 0, 0xc350⟩,  -- PWR_OFF_AFTER (R442)
  ⟨0x50, 1, 4, 0, 0, 0, 0, 0, 0⟩,  -- PWR_INPUT (R442)
  ⟨0x54, 1, 4, 0, 0, 0, 0xffffffff, 0, 0⟩,  -- PWR_WAKES (R442)
  ⟨0x58, 1, 4, 0, 0, 0, 0xffffffff, 0, 0⟩,  -- PWR_AUTO_OFFS (R442)
  ⟨0x5c, 1, 4, 0, 0, 0, 0xffffffff, 0, 0⟩,  -- PWR_WAKE_WAITS (R442)
  ⟨0x100, 80, 4, 0x7, 0, 0, 0, 0, 0x44⟩,  -- PWR_DOM[n] compute, n=0-79 (R442)
  ⟨0x240, 29, 4, 0x3, 0, 0, 0, 0, 0x40⟩,  -- PWR_DOM[n] n=80-108 (R442)
  ⟨0x2b4, 1, 4, 0x7, 0, 0, 0, 0, 0x44⟩,  -- PWR_DOM[109] media (R442)
  ⟨0x2b8, 1, 4, 0x3, 0, 0, 0, 0, 0x40⟩,  -- PWR_DOM[110] (R442)
  ⟨0x2bc, 1, 4, 0x3, 0, 0, 0, 0, 0⟩  -- PWR_DOM[111] (R442)
  ]

/-- The registers of a CLK page. -/
def rowsClk : List RegRow := [
  ⟨0x40, 1, 4, 0, 0, 0, 0, 0, 0⟩,  -- CLK_AO_COUNT_LO (R443)
  ⟨0x44, 1, 4, 0, 0, 0, 0, 0, 0⟩,  -- CLK_AO_COUNT_HI (R443)
  ⟨0x48, 1, 4, 0, 0, 0, 0, 0, 0⟩,  -- CLK_LOCK_A (R443)
  ⟨0x4c, 1, 4, 0, 0, 0, 0, 0, 0⟩,  -- CLK_LOCK_B (R443)
  ⟨0x50, 1, 4, 0, 0, 0, 0, 0, 0⟩,  -- CLK_LOCK_C (R443)
  ⟨0x54, 1, 4, 0, 0, 0, 0, 0, 0⟩,  -- CLK_LOCK_OTHER (R443)
  ⟨0x58, 1, 4, 0, 0, 0, 0xffffffff, 0, 0⟩  -- CLK_LOCK_LOSS (R443)
  ]

/-- The registers of a THM page. -/
def rowsThm : List RegRow := [
  ⟨0x40, 1, 4, 0, 0, 0, 0, 0x3, 0⟩,  -- THM_CTRL (R396)
  ⟨0x44, 1, 4, 0, 0, 0, 0, 0, 0x40⟩,  -- THM_STATUS (R396)
  ⟨0x48, 1, 4, 0xffffff, 0, 0, 0, 0, 0x804020⟩,  -- THM_RISE (R396)
  ⟨0x4c, 1, 4, 0xfff, 0, 0, 0, 0, 0x690⟩,  -- THM_LEVEL_STOP (R396)
  ⟨0x50, 1, 4, 0xffffff, 0, 0, 0, 0, 0x7a120⟩,  -- THM_LEHR_WAIT (R396)
  ⟨0x54, 1, 4, 0xfffff, 0, 0, 0, 0, 0x961e0⟩,  -- THM_GOV (R396)
  ⟨0x58, 1, 4, 0, 0, 0, 0, 0, 0⟩,  -- THM_POWER (R396)
  ⟨0x5c, 1, 4, 0, 0, 0, 0, 0, 0⟩,  -- THM_TRIP (R396)
  ⟨0x60, 1, 4, 0, 0, 0, 0xffffffff, 0, 0⟩,  -- THM_ROUNDS (R396)
  ⟨0x64, 1, 4, 0, 0, 0, 0xffffffff, 0, 0⟩,  -- THM_GOV_STEPS (R396)
  ⟨0x80, 8, 4, 0, 0, 0, 0, 0, 0x210⟩,  -- THM_CLOCK[d] (R396)
  ⟨0x400, 320, 4, 0, 0, 0, 0, 0, 0⟩  -- THM_CH[n] (R396)
  ]

/-- The registers of a SEC page. -/
def rowsSec : List RegRow := [
  ⟨0x40, 1, 4, 0, 0, 0, 0, 0, 0⟩,  -- SEC_LIFECYCLE (R354)
  ⟨0x44, 1, 4, 0, 0, 0, 0, 0, 0⟩,  -- SEC_TAMPER (R354)
  ⟨0x48, 1, 4, 0, 0, 0, 0, 0, 0⟩,  -- SEC_PKG (R354)
  ⟨0x4c, 1, 4, 0, 0, 0, 0, 0, 0⟩,  -- SEC_SCRUBBING (R354)
  ⟨0x50, 1, 4, 0, 0, 0, 0, 0, 0⟩,  -- SEC_PKG_CHUNKS (R354)
  ⟨0x54, 1, 4, 0, 0, 0, 0, 0, 0⟩,  -- SEC_ATTESTS (R354)
  ⟨0x60, 8, 4, 0, 0, 0, 0, 0, 0⟩  -- SEC_ID_HASH (R354)
  ]

/-- The registers of a BOOT page. -/
def rowsBoot : List RegRow := [
  ⟨0x40, 1, 4, 0, 0, 0, 0, 0, 0⟩,  -- BOOT_STATUS (R418)
  ⟨0x44, 1, 4, 0, 0, 0, 0, 0, 0⟩,  -- BOOT_ACTIVE (R418)
  ⟨0x48, 1, 4, 0, 0, 0, 0, 0, 0⟩,  -- BOOT_USED (R418)
  ⟨0x4c, 1, 4, 0, 0, 0, 0, 0, 0⟩,  -- FRIT_REASON (R418)
  ⟨0x50, 1, 4, 0, 0, 0, 0, 0, 0⟩,  -- BOOT_LAST_FAIL (R418)
  ⟨0x54, 1, 4, 0, 0, 0, 0, 0, 0⟩,  -- UPDATE_STATUS (R418)
  ⟨0x58, 1, 4, 0xfff, 0, 0, 0, 0, 0⟩,  -- BOOT_REC_SEL (R418)
  ⟨0x80, 16, 4, 0, 0, 0, 0, 0, 0⟩,  -- BOOT_VERSION[k] (R418)
  ⟨0xc0, 16, 4, 0, 0, 0, 0, 0, 0⟩,  -- BOOT_MEAS (R418)
  ⟨0x100, 64, 4, 0, 0, 0, 0, 0, 0⟩  -- BOOT_REC_WINDOW (R418)
  ]

/-- The registers of a MGT page. -/
def rowsMgt : List RegRow := [
  ⟨0x40, 1, 4, 0x1ff, 0, 0, 0, 0, 0⟩,  -- MGT_CFG (R444)
  ⟨0x44, 1, 4, 0, 0, 0, 0, 0, 0⟩,  -- MGT_STATUS (R444)
  ⟨0x48, 1, 4, 0, 0, 0, 0, 0, 0⟩,  -- MGT_VENDOR_ID (R444)
  ⟨0x4c, 1, 4, 0, 0, 0, 0xffffffff, 0, 0⟩,  -- MGT_RX (R444)
  ⟨0x50, 1, 4, 0, 0, 0, 0xffffffff, 0, 0⟩,  -- MGT_TX (R444)
  ⟨0x54, 1, 4, 0, 0, 0, 0xffffffff, 0, 0⟩,  -- MGT_DROPPED (R444)
  ⟨0x58, 1, 4, 0, 0, 0, 0xffffffff, 0, 0⟩  -- MGT_PEC_ERR (R444)
  ]

/-- The registers of a LINK page. -/
def rowsLink : List RegRow := [
  ⟨0x40, 1, 4, 0x1ffff, 0, 0, 0, 0, 0⟩,  -- LINK_CFG (R310)
  ⟨0x44, 1, 4, 0xffffffff, 0, 0, 0, 0, 0⟩,  -- LINK_MAC_LO (R310)
  ⟨0x48, 1, 4, 0xffff, 0, 0, 0, 0, 0⟩,  -- LINK_MAC_HI (R310)
  ⟨0x4c, 1, 4, 0, 0, 0, 0, 0, 0xf⟩,  -- LINK_STATE (R310)
  ⟨0x50, 1, 4, 0, 0x20, 0xf, 0, 0, 0⟩,  -- LINK_LANE_RECAL (R310)
  ⟨0x54, 1, 4, 0xfffff, 0, 0, 0, 0, 0x801f4⟩,  -- LINK_REPLAY_CFG (R310)
  ⟨0x58, 1, 4, 0xffff, 0, 0, 0, 0, 0x88b5⟩,  -- LINK_ETHERTYPE (R310)
  ⟨0x5c, 1, 4, 0, 0, 0, 0xffffffff, 0, 0⟩,  -- LINK_FRAMES_TX (R310)
  ⟨0x60, 1, 4, 0, 0, 0, 0xffffffff, 0, 0⟩,  -- LINK_FRAMES_RX (R310)
  ⟨0x64, 1, 4, 0, 0, 0, 0xffffffff, 0, 0⟩,  -- LINK_RESENT (R310)
  ⟨0x68, 1, 4, 0, 0, 0, 0xffffffff, 0, 0⟩,  -- LINK_DROPPED (R310)
  ⟨0x6c, 1, 4, 0, 0, 0, 0xffffffff, 0, 0⟩,  -- LINK_FEC_CORR (R310)
  ⟨0x70, 1, 4, 0, 0, 0, 0xffffffff, 0, 0⟩,  -- LINK_FEC_UNCORR (R310)
  ⟨0x74, 1, 4, 0, 0, 0, 0xffffffff, 0, 0⟩  -- LINK_MSG_DUP (R310)
  ]

/-- The registers of a HBR page. -/
def rowsHbr : List RegRow := [
  ⟨0x40, 1, 4, 0x7ff, 0, 0, 0, 0, 0x3a6⟩,  -- HBR_CFG (R311)
  ⟨0x44, 1, 4, 0xffffffff, 0, 0, 0, 0, 0⟩,  -- HBR_IPV4 (R311)
  ⟨0x48, 4, 4, 0xffffffff, 0, 0, 0, 0, 0⟩,  -- HBR_IPV6 (R311)
  ⟨0x58, 1, 4, 0x3f, 0, 0, 0, 0, 0⟩,  -- HBR_QP_SEL (R311)
  ⟨0x5c, 1, 4, 0, 0, 0, 0xffffffff, 0, 0⟩,  -- HBR_RX (R311)
  ⟨0x60, 1, 4, 0, 0, 0, 0xffffffff, 0, 0⟩,  -- HBR_TX (R311)
  ⟨0x64, 1, 4, 0, 0, 0, 0xffffffff, 0, 0⟩,  -- HBR_RNR (R311)
  ⟨0x68, 1, 4, 0, 0, 0, 0xffffffff, 0, 0⟩,  -- HBR_CNP (R311)
  ⟨0x6c, 1, 4, 0, 0, 0, 0xffffffff, 0, 0⟩,  -- HBR_ICRC (R311)
  ⟨0x70, 1, 4, 0, 0, 0, 0xffffffff, 0, 0⟩,  -- HBR_UNDELIVERED (R311)
  ⟨0x74, 1, 4, 0, 0, 0, 0xffffffff, 0, 0⟩  -- HBR_RING_WAITS (R311)
  ]

/-- The registers of a SRV0 page. -/
def rowsSrv0 : List RegRow := [
  ⟨0x40, 1, 4, 0xfff, 0, 0, 0, 0, 0⟩,  -- SRV_ENTRY_SEL (R216)
  ⟨0x44, 1, 4, 0, 0, 0, 0, 0, 0⟩,  -- SRV_BATCHES_LO (R216)
  ⟨0x48, 1, 4, 0, 0, 0, 0, 0, 0⟩,  -- SRV_BATCHES_HI (R216)
  ⟨0x4c, 1, 4, 0, 0, 0, 0xffffffff, 0, 0⟩,  -- SRV_STEPS (R216)
  ⟨0x50, 1, 4, 0, 0, 0, 0xffffffff, 0, 0⟩,  -- SRV_DRAFT_CUT (R216)
  ⟨0x100, 24, 4, 0x1ffffff, 0, 0, 0, 0, 0⟩  -- SRV_PTN_RANGE[p] (R216)
  ]

/-- The registers of a SRV1 page. -/
def rowsSrv1 : List RegRow := [
  ⟨0x100, 64, 4, 0, 0, 0, 0, 0, 0⟩  -- SRV entry window (R216)
  ]

/-- The registers of a SRV2 page. -/
def rowsSrv2 : List RegRow := [
  ⟨0x40, 1, 4, 0xfff, 0, 0, 0, 0, 0⟩,  -- SRV_JOB_SEL (R237)
  ⟨0x100, 4, 4, 0, 0, 0, 0, 0, 0⟩  -- SRV job window (R237)
  ]

/-- The registers of a SMP0 page. -/
def rowsSmp0 : List RegRow := [
  ⟨0x40, 1, 4, 0, 0, 0, 0xffffffff, 0, 0⟩,  -- SMP_DRAWS (R217)
  ⟨0x44, 1, 4, 0, 0, 0, 0xffffffff, 0, 0⟩,  -- SMP_GREEDY (R217)
  ⟨0x48, 1, 4, 0, 0, 0, 0xffffffff, 0, 0⟩,  -- SMP_NAN_LOGITS (R217)
  ⟨0x4c, 1, 4, 0, 0, 0, 0xffffffff, 0, 0⟩  -- SMP_EMPTY (R217)
  ]

/-- The registers of a KVP page. -/
def rowsKvp : List RegRow := [
  ⟨0x40, 1, 4, 0x1ffff, 0, 0, 0, 0, 0x10⟩,  -- KVP_CFG (R191)
  ⟨0x44, 1, 4, 0xc0000000, 0, 0, 0, 0, 0⟩,  -- KVP_HWIN_LO (R191)
  ⟨0x48, 1, 4, 0xffff, 0, 0, 0, 0, 0⟩,  -- KVP_HWIN_HI (R191)
  ⟨0x4c, 1, 4, 0xffff, 0, 0, 0, 0, 0⟩,  -- KVP_HWIN_SIZE (R191)
  ⟨0x50, 1, 4, 0, 0, 0, 0, 0, 0⟩,  -- KVP_HANDLES (R191)
  ⟨0x54, 1, 4, 0, 0, 0, 0, 0, 0⟩,  -- KVP_NODES (R191)
  ⟨0x58, 1, 4, 0, 0, 0, 0xffffffff, 0, 0⟩,  -- KVP_GROW_WAITS (R191)
  ⟨0x5c, 1, 4, 0, 0, 0, 0xffffffff, 0, 0⟩,  -- KVP_EVICTIONS (R191)
  ⟨0x60, 1, 4, 0, 0, 0, 0xffffffff, 0, 0⟩,  -- KVP_COPIES (R191)
  ⟨0x64, 1, 4, 0, 0, 0, 0xffffffff, 0, 0⟩,  -- KVP_DROPS (R191)
  ⟨0x68, 1, 4, 0, 0, 0, 0xffffffff, 0, 0⟩,  -- KVP_POOL_FAILS (R191)
  ⟨0x6c, 1, 4, 0, 0, 0, 0xffffffff, 0, 0⟩,  -- KVP_RETURNS (R191)
  ⟨0x80, 24, 16, 0xfff7ff, 0, 0, 0, 0, 0⟩,  -- KVP_POOL_RANGE[s] (R191)
  ⟨0x84, 24, 16, 0xffff, 0, 0, 0, 0, 0⟩,  -- KVP_SCALE_FIRST[s] (R191)
  ⟨0x88, 24, 16, 0, 0, 0, 0, 0, 0⟩,  -- KVP_FREE[s] (R191)
  ⟨0x8c, 24, 16, 0, 0, 0, 0, 0, 0⟩  -- KVP_SHARED[s] (R191)
  ]

/-- The registers of a MED page. -/
def rowsMed : List RegRow := [
  ⟨0x40, 1, 4, 0, 0, 0, 0, 0, 0⟩,  -- MED_STREAMS (R328)
  ⟨0x44, 1, 4, 0, 0, 0, 0xffffffff, 0, 0⟩,  -- MED_FRAMES_IN (R328)
  ⟨0x48, 1, 4, 0, 0, 0, 0xffffffff, 0, 0⟩,  -- MED_FRAMES_OUT (R328)
  ⟨0x4c, 1, 4, 0, 0, 0, 0xffffffff, 0, 0⟩,  -- MED_FILLED (R328)
  ⟨0x50, 1, 4, 0, 0, 0, 0xffffffff, 0, 0⟩,  -- MED_DUP (R328)
  ⟨0x100, 24, 4, 0x1fffff, 0, 0, 0, 0, 0⟩  -- MED_PTN_RANGE[p] (R328)
  ]

/-- The registers of a PTN page. -/
def rowsPtn : List RegRow := [
  ⟨0x40, 1, 4, 0, 0, 0, 0, 0, 0⟩,  -- PTN_CFG (R353)
  ⟨0x44, 1, 4, 0, 0, 0, 0, 0, 0⟩,  -- PTN_STACKS (R353)
  ⟨0x48, 1, 4, 0, 0, 0, 0, 0, 0⟩,  -- PTN_DOMAINS_A (R353)
  ⟨0x4c, 1, 4, 0, 0, 0, 0, 0, 0⟩,  -- PTN_DOMAINS_B (R353)
  ⟨0x50, 1, 4, 0, 0, 0, 0, 0, 0⟩,  -- PTN_DOMAINS_C (R353)
  ⟨0x54, 1, 4, 0, 0, 0, 0, 0, 0⟩,  -- PTN_UNITS (R353)
  ⟨0x58, 1, 4, 0, 0, 0, 0, 0, 0⟩,  -- PTN_DMAC_LO (R353)
  ⟨0x5c, 1, 4, 0, 0, 0, 0, 0, 0⟩,  -- PTN_DMAC_HI (R353)
  ⟨0x60, 1, 4, 0, 0, 0, 0, 0, 0⟩,  -- PTN_XLATE_AREA (R353)
  ⟨0x64, 1, 4, 0, 0, 0, 0, 0, 0⟩,  -- PTN_SCRUB_GEN (R353)
  ⟨0x80, 8, 4, 0, 0, 0, 0, 0, 0⟩,  -- PTN_OWNER_KEY (R353)
  ⟨0xc0, 16, 4, 0, 0, 0, 0, 0, 0⟩,  -- PTN_MEAS (R353)
  ⟨0x100, 1, 4, 0, 0, 0, 0, 0, 0⟩,  -- PTN_POISON_LAST_LO (R382)
  ⟨0x104, 1, 4, 0, 0, 0, 0, 0, 0⟩,  -- PTN_POISON_LAST_HI (R382)
  ⟨0x108, 1, 4, 0, 0, 0, 0xffffffff, 0, 0⟩,  -- PTN_POISON_COUNT (R382)
  ⟨0x200, 1, 4, 0, 0, 0, 0, 0, 0⟩,  -- PTN_XLATE_ROOT_LO (R276)
  ⟨0x204, 1, 4, 0, 0, 0, 0, 0, 0⟩,  -- PTN_XLATE_ROOT_HI (R276)
  ⟨0x208, 1, 4, 0, 0, 0, 0, 0, 0⟩,  -- PTN_XLATE_LAST_LO (R276)
  ⟨0x20c, 1, 4, 0, 0, 0, 0, 0, 0⟩,  -- PTN_XLATE_LAST_HI (R276)
  ⟨0x210, 1, 4, 0, 0, 0, 0xffffffff, 0, 0⟩,  -- PTN_XLATE_HELD (R276)
  ⟨0x214, 1, 4, 0, 0, 0, 0xffffffff, 0, 0⟩,  -- PTN_XLATE_EXPIRED (R276)
  ⟨0x240, 8, 16, 0, 0, 0, 0, 0, 0⟩,  -- HOLD_INFO[h] (R276)
  ⟨0x244, 8, 16, 0, 0, 0, 0, 0, 0⟩,  -- HOLD_PVA_LO[h] (R276)
  ⟨0x248, 8, 16, 0, 0, 0, 0, 0, 0⟩,  -- HOLD_PVA_HI[h] (R276)
  ⟨0x24c, 8, 16, 0, 0, 0, 0, 0x3, 0⟩,  -- HOLD_CTRL[h] (R276)
  ⟨0x300, 1, 4, 0xfffff000, 0, 0, 0, 0, 0⟩,  -- PTN_DESC_BASE_LO (R118)
  ⟨0x304, 1, 4, 0xffff, 0, 0, 0, 0, 0⟩,  -- PTN_DESC_BASE_HI (R118)
  ⟨0x308, 1, 4, 0x1ffff, 0, 0, 0, 0, 0⟩,  -- PTN_DESC_COUNT (R118)
  ⟨0x30c, 1, 4, 0xfffff000, 0, 0, 0, 0, 0⟩,  -- PTN_ALLOC_BASE_LO (R118)
  ⟨0x310, 1, 4, 0xffff, 0, 0, 0, 0, 0⟩,  -- PTN_ALLOC_BASE_HI (R118)
  ⟨0x314, 1, 4, 0x1ffff, 0, 0, 0, 0, 0⟩,  -- PTN_ALLOC_COUNT (R118)
  ⟨0x318, 1, 4, 0, 0, 0, 0xffffffff, 0, 0⟩,  -- PTN_DESC_STATS (R118)
  ⟨0x31c, 1, 4, 0, 0, 0, 0xffffffff, 0, 0⟩,  -- PTN_INDEX_ZEROED (R118)
  ⟨0x340, 1, 4, 0, 0, 0, 0, 0, 0⟩,  -- PTN_REQ_RANGE (R218)
  ⟨0x344, 1, 4, 0xffff0000, 0, 0, 0, 0, 0⟩,  -- PTN_ADP_BASE_LO (R218)
  ⟨0x348, 1, 4, 0xffff, 0, 0, 0, 0, 0⟩,  -- PTN_ADP_BASE_HI (R218)
  ⟨0x34c, 1, 4, 0xffffff, 0, 0, 0, 0, 0⟩,  -- PTN_ADP_SIZE (R218)
  ⟨0x350, 1, 4, 0, 0, 0, 0, 0, 0⟩,  -- PTN_ADP_STATE (R218)
  ⟨0x354, 1, 4, 0, 0, 0, 0, 0, 0⟩,  -- PTN_REQ_LIVE (R218)
  ⟨0x358, 1, 4, 0, 0, 0, 0xffffffff, 0, 0⟩,  -- PTN_TOKENS (R218)
  ⟨0x35c, 1, 4, 0, 0, 0, 0xffffffff, 0, 0⟩,  -- PTN_TTFT_VIOL (R218)
  ⟨0x360, 1, 4, 0, 0, 0, 0xffffffff, 0, 0⟩,  -- PTN_TBT_VIOL (R218)
  ⟨0x364, 1, 4, 0, 0, 0, 0xffffffff, 0, 0⟩,  -- PTN_REFUSED (R218)
  ⟨0x380, 1, 4, 0xffff, 0, 0, 0, 0, 0x100⟩,  -- PTN_SCHED_CFG (R236)
  ⟨0x384, 8, 4, 0xffffff, 0, 0, 0, 0, 0⟩,  -- PTN_SLICE[g] (R236)
  ⟨0x3a4, 1, 4, 0, 0, 0, 0, 0, 0⟩,  -- PTN_GUARANTEE (R236)
  ⟨0x3a8, 1, 4, 0, 0, 0, 0, 0, 0⟩,  -- PTN_SCHED_STATE (R236)
  ⟨0x3ac, 1, 4, 0, 0, 0, 0xffffffff, 0, 0⟩,  -- PTN_OVERRUNS (R236)
  ⟨0x3b0, 1, 4, 0, 0, 0, 0xffffffff, 0, 0⟩,  -- PTN_PREEMPTS (R236)
  ⟨0x3b4, 1, 4, 0, 0, 0, 0xffffffff, 0, 0⟩,  -- PTN_VOID_STEPS (R236)
  ⟨0x400, 1, 4, 0x7fff, 0, 0, 0, 0, 0⟩,  -- PTN_EVENT_DEST.CFG (R313)
  ⟨0x404, 1, 4, 0xffffffff, 0, 0, 0, 0, 0⟩,  -- PTN_EVENT_DEST.RKEY (R313)
  ⟨0x408, 1, 4, 0xffffffc0, 0, 0, 0, 0, 0⟩,  -- PTN_EVENT_DEST.RING_VA_LO (R313)
  ⟨0x40c, 1, 4, 0xffffffff, 0, 0, 0, 0, 0⟩,  -- PTN_EVENT_DEST.RING_VA_HI (R313)
  ⟨0x410, 1, 4, 0xfffffff8, 0, 0, 0, 0, 0⟩,  -- PTN_EVENT_DEST.CONS_LO (R313)
  ⟨0x414, 1, 4, 0xffff, 0, 0, 0, 0, 0⟩,  -- PTN_EVENT_DEST.CONS_HI (R313)
  ⟨0x418, 1, 4, 0, 0, 0, 0xffffffff, 0, 0⟩,  -- PTN_EVENT_DEST.SENT (R313)
  ⟨0x41c, 1, 4, 0, 0, 0, 0xffffffff, 0, 0⟩,  -- PTN_EVENT_DEST.WAITS (R313)
  ⟨0x420, 1, 4, 0x7fff, 0, 0, 0, 0, 0⟩,  -- PTN_COMPLETION_DEST.CFG (R313)
  ⟨0x424, 1, 4, 0xffffffff, 0, 0, 0, 0, 0⟩,  -- PTN_COMPLETION_DEST.RKEY (R313)
  ⟨0x428, 1, 4, 0xffffffc0, 0, 0, 0, 0, 0⟩,  -- PTN_COMPLETION_DEST.RING_VA_LO (R313)
  ⟨0x42c, 1, 4, 0xffffffff, 0, 0, 0, 0, 0⟩,  -- PTN_COMPLETION_DEST.RING_VA_HI (R313)
  ⟨0x430, 1, 4, 0xfffffff8, 0, 0, 0, 0, 0⟩,  -- PTN_COMPLETION_DEST.CONS_LO (R313)
  ⟨0x434, 1, 4, 0xffff, 0, 0, 0, 0, 0⟩,  -- PTN_COMPLETION_DEST.CONS_HI (R313)
  ⟨0x438, 1, 4, 0, 0, 0, 0xffffffff, 0, 0⟩,  -- PTN_COMPLETION_DEST.SENT (R313)
  ⟨0x43c, 1, 4, 0, 0, 0, 0xffffffff, 0, 0⟩,  -- PTN_COMPLETION_DEST.WAITS (R313)
  ⟨0x440, 1, 4, 0xff, 0, 0, 0, 0, 0xfe⟩  -- PTN_LINK_DOMAIN (R313)
  ]

/-- The registers of a MMU page. -/
def rowsMmu : List RegRow := [
  ⟨0x40, 1, 4, 0xffffffff, 0, 0, 0, 0, 0x3d090⟩,  -- MMU_HOLD_LIMIT (R277)
  ⟨0x44, 1, 4, 0, 0, 0, 0xffffffff, 0, 0⟩,  -- MMU_WALKS (R277)
  ⟨0x48, 1, 4, 0, 0, 0, 0xffffffff, 0, 0⟩  -- MMU_INVALS (R277)
  ]

/-- The registers of a STK0 page. -/
def rowsStk0 : List RegRow := [
  ⟨0x40, 1, 4, 0, 0, 0, 0, 0, 0xffffffff⟩,  -- STK_CHANNEL_INSERVICE (R145)
  ⟨0x44, 1, 4, 0xffff, 0, 0, 0, 0, 0⟩,  -- STK_SEAL_INDEX (R145)
  ⟨0x48, 1, 4, 0x1f, 0, 0, 0, 0, 0⟩,  -- STK_SEAL_DATA (R145)
  ⟨0x4c, 1, 4, 0, 0x1, 0, 0, 0, 0⟩,  -- STK_SEAL_STICKY (R145)
  ⟨0x50, 1, 4, 0, 0, 0, 0xffffffff, 0, 0⟩,  -- STK_SLOTS_MARVER (R145)
  ⟨0x54, 1, 4, 0, 0, 0, 0xffffffff, 0, 0⟩,  -- STK_SLOTS_OUTWARD (R145)
  ⟨0x58, 1, 4, 0, 0, 0, 0xffffffff, 0, 0⟩,  -- STK_SLOTS_COPIER (R145)
  ⟨0x5c, 1, 4, 0, 0, 0, 0xffffffff, 0, 0⟩  -- STK_REREADS (R145)
  ]

/-- The registers of a STK1 page. -/
def rowsStk1 : List RegRow := [
  ⟨0x40, 1, 4, 0xffffffff, 0, 0, 0, 0, 0x4c4b40⟩,  -- STK_MVR_FLAG_WAIT_LIMIT (R146)
  ⟨0x44, 1, 4, 0, 0, 0, 0, 0xffff003f, 0⟩,  -- STK_MVR_FLAG_ADD (R146)
  ⟨0x48, 1, 4, 0, 0x7, 0, 0, 0, 0⟩,  -- STK_MVR_STICKY (R146)
  ⟨0x4c, 1, 4, 0, 0, 0, 0, 0, 0⟩,  -- STK_MVR_STATUS (R146)
  ⟨0x80, 8, 16, 0xffff, 0, 0, 0, 0, 0⟩,  -- STK_MVR_QUEUE_CFG[q] (R146)
  ⟨0x88, 8, 16, 0, 0, 0, 0, 0, 0⟩,  -- STK_MVR_QUEUE_STATUS[q] (R146)
  ⟨0x8c, 8, 16, 0, 0, 0, 0, 0, 0⟩,  -- STK_MVR_QUEUE_FAULT[q] (R146)
  ⟨0x100, 64, 4, 0, 0, 0, 0, 0, 0⟩,  -- STK_MVR_FLAG[n] (R146)
  ⟨0x200, 1, 4, 0, 0, 0, 0xffffffff, 0, 0⟩,  -- STK_MVR_BUSY (R146)
  ⟨0x204, 1, 4, 0, 0, 0, 0xffffffff, 0, 0⟩,  -- STK_MVR_BURSTS (R146)
  ⟨0x208, 1, 4, 0, 0, 0, 0xffffffff, 0, 0⟩,  -- STK_MVR_COMMANDS (R146)
  ⟨0x20c, 1, 4, 0, 0, 0, 0, 0, 0⟩  -- STK_MVR_FAULT_ITEM (R146)
  ]

/-- The registers of a STK2 page. -/
def rowsStk2 : List RegRow := [
  ⟨0x40, 1, 4, 0x1ff, 0, 0, 0, 0, 0x31⟩,  -- STK_ECC_CTRL (R380)
  ⟨0x44, 1, 4, 0xff7ff, 0, 0, 0, 0, 0⟩,  -- STK_ECC_RESERVE (R380)
  ⟨0x48, 1, 4, 0, 0x7, 0, 0, 0, 0⟩,  -- STK_ECC_STICKY (R380)
  ⟨0x4c, 1, 4, 0, 0, 0, 0xffffffff, 0, 0⟩,  -- STK_ECC_CORRECTED (R380)
  ⟨0x50, 1, 4, 0, 0, 0, 0xffffffff, 0, 0⟩,  -- STK_ECC_UNCORR (R380)
  ⟨0x54, 1, 4, 0, 0, 0, 0xffffffff, 0, 0⟩,  -- STK_ECC_TRANSIENT (R380)
  ⟨0x58, 1, 4, 0, 0, 0, 0xffffffff, 0, 0⟩,  -- STK_ECC_PERMANENT (R380)
  ⟨0x5c, 1, 4, 0, 0, 0, 0xffffffff, 0, 0⟩,  -- STK_ECC_POISONED (R380)
  ⟨0x60, 1, 4, 0, 0, 0, 0xffffffff, 0, 0⟩,  -- STK_ECC_INJECTED (R380)
  ⟨0x64, 1, 4, 0, 0, 0, 0, 0, 0⟩,  -- STK_ECC_REMAP_USED (R380)
  ⟨0x100, 32, 8, 0x3ffffff, 0, 0, 0, 0, 0⟩,  -- FLIP_ADDR[c] (R380)
  ⟨0x104, 32, 8, 0x3fffff, 0, 0x400000, 0, 0, 0⟩  -- FLIP_BITS[c] (R380)
  ]

/-- The registers of a STK3 page. -/
def rowsStk3 : List RegRow := [
  ⟨0x40, 1, 4, 0xffffc000, 0, 0, 0, 0, 0⟩,  -- STK_DMA_SAVE_BASE_LO (R279)
  ⟨0x44, 1, 4, 0xffff, 0, 0, 0, 0, 0⟩,  -- STK_DMA_SAVE_BASE_HI (R279)
  ⟨0x48, 1, 4, 0, 0, 0, 0, 0, 0⟩,  -- STK_DMA_SAVED (R279)
  ⟨0x4c, 1, 4, 0, 0, 0, 0xffffffff, 0, 0⟩  -- STK_DMA_UNITS (R279)
  ]

/-- The registers of a DIE page. -/
def rowsDie : List RegRow := [
  ⟨0x40, 1, 4, 0, 0, 0, 0xffffffff, 0, 0⟩,  -- DIE_CACHE_CORRECTED (R383)
  ⟨0x44, 1, 4, 0, 0, 0, 0xffffffff, 0, 0⟩  -- DIE_CACHE_UNCORR (R383)
  ]

/-- The registers of a SVC page. -/
def rowsSvc : List RegRow := [
  ⟨0x40, 1, 4, 0, 0, 0, 0, 0, 0⟩  -- SVC_SERVICES (R329)
  ]

/-- The registers of a CLU page, first part. -/
def rowsCluA : List RegRow := [
  ⟨0x40, 1, 4, 0xffffffff, 0, 0, 0, 0, 0x4c4b40⟩,  -- CLU_FLAG_WAIT_LIMIT (R82)
  ⟨0x44, 1, 4, 0, 0, 0, 0, 0xffff003f, 0⟩,  -- CLU_FLAG_ADD (R82)
  ⟨0x48, 1, 4, 0, 0x7, 0, 0, 0, 0⟩,  -- CLU_GAF_STICKY (R82)
  ⟨0x4c, 1, 4, 0, 0, 0, 0, 0, 0⟩,  -- CLU_PARK_COUNT (R82)
  ⟨0x50, 1, 4, 0xfff80000, 0, 0, 0, 0, 0⟩,  -- CLU_PARK_BASE_LO (R82)
  ⟨0x54, 1, 4, 0xffff, 0, 0, 0, 0, 0⟩,  -- CLU_PARK_BASE_HI (R82)
  ⟨0x58, 1, 4, 0xffffffe0, 0, 0, 0, 0, 0⟩,  -- CLU_UCODE_SRC_LO (R82)
  ⟨0x5c, 1, 4, 0xfff, 0, 0, 0, 0, 0⟩,  -- CLU_UCODE_SRC_HI (R82)
  ⟨0x60, 1, 4, 0x10, 0xc, 0x1, 0, 0, 0⟩,  -- CLU_UCODE_CTRL (R82)
  ⟨0x64, 1, 4, 0xffffffff, 0, 0, 0, 0, 0⟩,  -- CLU_UCODE_MASK (R82)
  ⟨0x68, 1, 4, 0x1fff, 0, 0, 0, 0, 0⟩,  -- CLU_UCODE_LEN (R82)
  ⟨0x80, 8, 16, 0xffff, 0, 0, 0, 0, 0⟩,  -- CLU_QUEUE_CFG[q] (R82)
  ⟨0x84, 8, 16, 0xffffffff, 0, 0, 0, 0, 0⟩,  -- CLU_QUEUE_ALLOWED[q] (R82)
  ⟨0x88, 8, 16, 0, 0, 0, 0, 0, 0⟩,  -- CLU_QUEUE_STATUS[q] (R82)
  ⟨0x8c, 8, 16, 0, 0, 0, 0, 0, 0⟩,  -- CLU_QUEUE_FAULT[q] (R82)
  ⟨0x100, 64, 4, 0, 0, 0, 0, 0, 0⟩,  -- CLU_FLAG[n] (R82)
  ⟨0x200, 64, 4, 0, 0, 0, 0, 0, 0⟩,  -- CLU_SCORE[r] (R82)
  ⟨0x400, 1, 4, 0x1fff, 0, 0, 0, 0, 0⟩,  -- CLU_BUF_SECURE (R100)
  ⟨0x404, 1, 4, 0x1e2, 0x18, 0x1, 0, 0, 0x1e0⟩,  -- CLU_BUF_MARCH_CTRL (R100)
  ⟨0x408, 1, 4, 0, 0, 0, 0, 0, 0⟩,  -- CLU_BUF_MARCH_PROGRESS (R100)
  ⟨0x40c, 1, 4, 0, 0, 0, 0, 0, 0⟩,  -- CLU_BUF_FAIL (R100)
  ⟨0x410, 1, 4, 0, 0, 0, 0xffff, 0, 0⟩  -- CLU_BUF_FAIL_COUNT (R100)
  ]

/-- The registers of a CLU page, second part. -/
def rowsCluB : List RegRow := [
  ⟨0x414, 1, 4, 0x1ffffff, 0, 0, 0, 0, 0x4e20⟩,  -- CLU_BUF_BG_CTRL (R100)
  ⟨0x418, 1, 4, 0, 0, 0, 0, 0, 0⟩,  -- CLU_BUF_BG_STATUS (R100)
  ⟨0x41c, 1, 4, 0, 0xf, 0, 0, 0, 0⟩,  -- CLU_BUF_STICKY (R100)
  ⟨0x420, 1, 4, 0, 0, 0, 0xffffffff, 0, 0⟩,  -- CLU_BUF_CONTEND (R100)
  ⟨0x424, 1, 4, 0, 0, 0, 0xffffffff, 0, 0⟩,  -- CLU_BUF_ATOMICS (R100)
  ⟨0x480, 1, 4, 0, 0, 0, 0xffffffff, 0, 0⟩,  -- CLU_BUF_CORRECTED (R381)
  ⟨0x484, 1, 4, 0, 0, 0, 0xffffffff, 0, 0⟩,  -- CLU_BUF_UNCORR (R381)
  ⟨0x488, 1, 4, 0, 0, 0, 0xffffffff, 0, 0⟩,  -- CLU_CS_UNCORR (R381)
  ⟨0x48c, 1, 4, 0, 0, 0, 0, 0, 0⟩,  -- CLU_BUF_SPARES_LO (R381)
  ⟨0x490, 1, 4, 0, 0, 0, 0, 0, 0⟩,  -- CLU_BUF_SPARES_HI (R381)
  ⟨0x494, 1, 4, 0x7fff, 0, 0, 0, 0, 0⟩,  -- CLU_BUF_FLIP_WORD (R381)
  ⟨0x498, 1, 4, 0xfffff, 0, 0x100000, 0, 0, 0⟩,  -- CLU_BUF_FLIP (R381)
  ⟨0x49c, 1, 4, 0, 0, 0, 0xffffffff, 0, 0⟩,  -- CLU_BUF_INJECTED (R381)
  ⟨0x7c0, 1, 4, 0x3, 0, 0, 0, 0, 0⟩,  -- CLU_CORE_CTRL (R61)
  ⟨0x7c4, 1, 4, 0, 0, 0, 0, 0, 0xffffffff⟩,  -- CLU_CORE_INSERVICE (R61)
  ⟨0x7c8, 1, 4, 0, 0, 0, 0, 0, 0⟩,  -- CLU_CORE_BUSY (R61)
  ⟨0x800, 32, 64, 0, 0, 0, 0, 0, 0⟩,  -- CORE_STATUS[c] (R61)
  ⟨0x804, 32, 64, 0, 0x3f, 0, 0, 0, 0⟩,  -- CORE_STICKY[c] (R61)
  ⟨0x808, 32, 64, 0, 0, 0, 0, 0, 0⟩,  -- CORE_HAZARD[c] (R61)
  ⟨0x80c, 32, 64, 0, 0, 0, 0, 0, 0⟩,  -- CORE_HCHECK[c] (R61)
  ⟨0x810, 32, 64, 0, 0, 0, 0xffffffff, 0, 0⟩,  -- CORE_ISSUED[c] (R61)
  ⟨0x814, 32, 64, 0, 0, 0, 0xffffffff, 0, 0⟩,  -- CORE_FROZEN[c] (R61)
  ⟨0x818, 32, 64, 0, 0, 0, 0xffffffff, 0, 0⟩  -- CORE_MAC_ISSUES[c] (R61)
  ]

/-- The shared registers of a DMAC page. -/
def rowsDmac : List RegRow := [
  ⟨0x40, 1, 4, 0xffffffff, 0, 0, 0, 0, 0x4c4b40⟩  -- DMAC_WAIT_LIMIT (R278)
  ]

/-- The registers of one engine slot of a DMAC page (02, R24), from the start of the slot. -/
def rowsDmacSlot : List RegRow := [
  ⟨0x0, 2, 16, 0xffff, 0, 0, 0, 0, 0⟩,  -- DQUEUE_CFG[q] (R278)
  ⟨0x8, 2, 16, 0, 0, 0, 0, 0, 0⟩,  -- DQUEUE_STATUS[q] (R278)
  ⟨0xc, 2, 16, 0, 0, 0, 0, 0, 0⟩,  -- DQUEUE_FAULT[q] (R278)
  ⟨0x20, 1, 4, 0xfffffc00, 0, 0, 0, 0, 0⟩,  -- DMAC_SAVE_BASE_LO (R278)
  ⟨0x24, 1, 4, 0xffff, 0, 0, 0, 0, 0⟩,  -- DMAC_SAVE_BASE_HI (R278)
  ⟨0x28, 2, 4, 0, 0, 0, 0, 0, 0⟩,  -- DMAC_PROGRESS[q] (R278)
  ⟨0x30, 1, 4, 0, 0, 0, 0xffffffff, 0, 0⟩,  -- DMAC_UNITS (R278)
  ⟨0x34, 1, 4, 0, 0, 0, 0xffffffff, 0, 0⟩  -- DMAC_STOPS (R278)
  ]

/-- The slot of engine k of a DMAC page starts at 0x100 + k × 0x380 (02, R24). -/
def slotRows (k : Nat) : List RegRow := rowsDmacSlot.map fun r => { r with first := r.first + 0x100 + k * 0x380 }

/-- The block's own registers, by page. -/
def blockRows (p : Page) : List RegRow :=
  match p.blk with
  | .dev => rowsDev | .pwr => rowsPwr | .clk => rowsClk | .thm => rowsThm | .sec => rowsSec
  | .boot => rowsBoot | .mgt => rowsMgt | .link => rowsLink | .hbr => rowsHbr
  | .srv => if p.n = 0 then rowsSrv0 else if p.n = 1 then rowsSrv1 else if p.n = 2 then rowsSrv2 else []
  | .smp => if p.n = 0 then rowsSmp0 else []
  | .kvp => rowsKvp | .med => rowsMed | .ptn => rowsPtn | .mmu => rowsMmu
  | .dmac => rowsDmac ++ slotRows 0 ++ slotRows 1 ++ slotRows 2 ++ slotRows 3
  | .stk => if p.n % 4 = 0 then rowsStk0 else if p.n % 4 = 1 then rowsStk1 else if p.n % 4 = 2 then rowsStk2 else rowsStk3
  | .die => rowsDie | .clu => rowsCluA ++ rowsCluB | .svc => rowsSvc

/-- The row covers the word at offset `off`. -/
def RegRow.covers (r : RegRow) (off : Nat) : Bool :=
  r.first ≤ off && (off - r.first) % r.stride = 0 && (off - r.first) / r.stride < r.count

/-- The register at offset `off` of a page, if one stands there (R26, R28). -/
def regRow (p : Page) (off : Nat) : Option RegRow :=
  (if off < 0x40 then rowsHdr else blockRows p).find? (·.covers off)

/-- The reset word of the register at `off` of page `p`: zero where no register stands; a port's MAC address comes from the fuses (14, R310). -/
def resetWord (p : Page) (off : Nat) : Word :=
  if p.blk = .link && off = 0x44 then (Config.macFuse p.n).setWidth 32
  else if p.blk = .link && off = 0x48 then ((Config.macFuse p.n) >>> 32).setWidth 32
  else match regRow p off with
  | some r => BitVec.ofNat 32 r.reset
  | none => 0

end Sys2Proof.Machine
end

