-- ==== Sys2Proof/Machine/TypesCompute.lean ====
section
/-! DEFINITION. State of the compute dies that no register shows: tensor cores, results in flight, gaffer queues, tiles, park slots (03, 04, 05, 08). -/

namespace Sys2Proof.Machine

/-- A 32-byte word of a cluster buffer or of an operand register (05, R85). -/
abbrev W256 := BitVec 256

/-- An exact value of the number formats: sign, integer mantissa and power of two; used where the spec sums exactly (03, R50). -/
inductive Fv where
  | nan
  | inf (neg : Bool)
  | fin (neg : Bool) (m : Nat) (e : Int)
deriving DecidableEq, Repr, Inhabited

/-- Where a result lands and with what (03, R45). A poison mark is kept as the DPA of the marked unit (17, R366). An ACC element (b, i, j) has number 128 b + 8 i + j; a V lane l of V[n] has number 16 n + l. -/
inductive Land where
  /-- MAC results: the exact sums; mode 1 SET, 2 ACC, 3 SUB (R50). -/
  | mac (mode : Nat) (sums : List (Nat × Fv))
  | vecAcc (vals : List (Nat × Word))
  | vecV (vals : List (Nat × Word))
  | opReg (n : Nat) (w : W256) (mark : Option Nat)
  | scaleA (l : List Nat) (mark : Option Nat)
  | scaleB (l : List Nat) (mark : Option Nat)
  | latch (g : Nat) (w : W256) (mark : Option Nat)
deriving DecidableEq, Repr

/-- A result in flight: counted cycles left until it lands, and the index of its word (03, R44, R45). -/
structure Flight where
  left : Nat
  idx : Nat
  what : Land
deriving DecidableEq, Repr

/-- The place of a generator in its entry sequence: stream number, indices i_0 to i_3, list position (04, R71, R79). -/
structure AgPos where
  strm : Nat := 0
  idx : List Nat := [0, 0, 0, 0]
  lpos : Nat := 0
deriving DecidableEq, Repr, Inhabited

/-- A tile on a core (04, R66, R69): its queue and job, its declarations, its STREAM commands in queue order. -/
structure Tile where
  job : Nat
  queue : Nat
  nonpre : Bool
  sigEn : Bool
  sigFlag : Nat
  coreMask : Nat
  readR : Nat
  writeR : Nat
  streams : List (BitVec 256)
  pos0 : AgPos := {}
  pos1 : AgPos := {}
  /-- END has issued, or the tile was stopped: no further word issues (R43, R60, R80). -/
  ended : Bool := false
  /-- The tile was stopped without its END (R80): it neither signals nor completes. -/
  stopped : Bool := false
  /-- Generators whose stream stands on a translation fault, with the hold slot (R79, 13 R273). -/
  held : List (Nat × Nat) := []
  /-- The ao-cycle of placement, for R235. -/
  at_ : Nat := 0
deriving DecidableEq, Repr

/-- One tensor core (03, R39). Registers not listed in a table read as zero. -/
structure Core where
  acc : Tbl Word := []
  v : Tbl Word := []
  ops : Tbl W256 := []
  opMarks : Tbl Nat := []
  sa : List Nat := []
  sb : List Nat := []
  saMark : Option Nat := none
  sbMark : Option Nat := none
  la : W256 := 0
  lb : W256 := 0
  laMark : Option Nat := none
  lbMark : Option Nat := none
  lc0 : Nat := 0
  lc1 : Nat := 0
  li0 : Nat := 0
  li1 : Nat := 0
  /-- Address FIFOs, oldest entry first, at most 64 entries (R39). -/
  fifo0 : List Nat := []
  fifo1 : List Nat := []
  cur0 : Nat := 0
  cur1 : Nat := 0
  /-- The generator has popped in this tile (R47, last row). -/
  popped0 : Bool := false
  popped1 : Bool := false
  flights : List Flight := []
  /-- Index of the next word to issue (R42). -/
  next : Nat := 0
  tile : Option Tile := none
  /-- HCHECK as it stood at tile issue (R59). -/
  hcheck : Bool := false
  /-- Control store: entries not listed are zero words (R41). -/
  store : Tbl W256 := []
  /-- Entries with an uncorrectable error (17, R368). -/
  storeMarks : List Nat := []
  /-- The core retires at the end of its tile (17, R375). -/
  retiring : Bool := false
deriving DecidableEq, Repr, Inhabited

/-- A granted buffer write on its way to its bank: core, cluster cycle of landing, word, datum (03, R46). -/
structure BufWrite where
  core : Nat
  land : Nat
  word : Nat
  val : W256
  marked : Bool
deriving DecidableEq, Repr

/-- A gaffer command the intake holds, with the work message it came from (04, R62, 14 R303). -/
structure HeldCmd where
  cmd : List Byte
  msg : Nat
  item : Nat
deriving DecidableEq, Repr

/-- A command queue of a gaffer (04, R62, R68, R77). -/
structure Gq where
  cmds : List (BitVec 256) := []
  held : List HeldCmd := []
  credit : Nat := 0
  /-- The ao-cycle and limit of the WAIT at the head (R77). -/
  waitAt : Option (Nat × Nat) := none
  /-- Scope of the FENCE that holds the queue (12, R247). -/
  fence : Option Nat := none
deriving DecidableEq, Repr, Inhabited

/-- A CSLOAD whose words are being read (04, R67). -/
structure CsRun where
  queue : Nat
  job : Nat
  dst : Nat
  mask : Nat
  words : List W256
deriving DecidableEq, Repr

/-- A MERGE in the merge unit (08, R168). -/
structure MergeRun where
  queue : Nat
  job : Nat
  readR : Nat
  writeR : Nat
  sigEn : Bool
  sigFlag : Nat
  at_ : Nat
  /-- The command; the merge under way; the words of it that have been read. -/
  w : BitVec 256
  c : Nat
  got : List Byte
deriving DecidableEq, Repr

/-- A park slot (04, R79): what the image in memory belongs to, and the core as it was saved. -/
structure ParkSlot where
  saved : Core
  index : Nat
  cause : Nat
deriving DecidableEq, Repr

/-- The march engine at work (05, R96). -/
structure MarchRun where
  preserving : Bool
  mask : Nat
deriving DecidableEq, Repr

/-- One cluster: cycle count and turns, writes in flight, queues, park slots, loads, merge unit, tests, spare rows. -/
structure Clu where
  /-- Cluster cycle count, zero at cluster reset (05, R89). -/
  cyc : Nat := 0
  /-- Cores that have had their turn in this cycle; what arbitration found for each core whose tile stood ready in it: 0 granted, 1 or 2 the FIFO of AG0 or AG1 empty, 3 a bank not granted, 4 a hazard-check stall, 5 to be parked. -/
  turned : List Nat := []
  plan : List (Nat × Nat) := []
  /-- Reader count of each region on the scoreboard (04, R74). -/
  readers : Tbl Nat := []
  writes : List BufWrite := []
  qs : List Gq := List.replicate 8 {}
  ptr : Nat := 0
  parks : Tbl ParkSlot := []
  loads : List CsRun := []
  merge : Option MergeRun := none
  march : Option MarchRun := none
  /-- Background-test state: ao-cycle at which the next block is due, a failure found in the block under test, a stop asked for. -/
  bgDue : Nat := 0
  bgLate : Bool := false
  /-- Spare rows taken: bank × 2048 + row (17, R369). -/
  spares : List Nat := []
  /-- An uncorrectable control-store error seen: core × 4096 + entry, ao-cycle (17, R368). -/
  storeErrs : List (Nat × Nat) := []
  /-- RETIRED under 17, R375. -/
  retired : Bool := false
deriving DecidableEq, Repr, Inhabited

end Sys2Proof.Machine
end

