-- ==== Sys2Proof/Machine/TypesMem.lean ====
section
/-! DEFINITION. State of the stacks, the marver engines, the DMA engines, the translation and die caches that no register shows (07, 12, 13, 17). -/

namespace Sys2Proof.Machine

/-- A marver command in its queue: bits [511:0] are the command of R129; [543:512] is the serving engine's own tag of a command that it issued on its own account, 0 for none; [544] says that SRC and DST of such a COPY are DPAs. -/
abbrev MCmd := BitVec 545

/-- A DMA command (13, R266). -/
abbrev Cmd1024 := BitVec 1024

/-- A range of partition-virtual addresses: first byte and length. -/
abbrev Range := Nat × Nat

/-- A die-cache line (12, R241): die, burst number (DPA / 64), partition tag, contents as stored in the burst, dirty, poison mark. -/
structure DieLine where
  die : Nat
  burst : Nat
  ptn : Nat
  data : List Byte
  dirty : Bool
  marked : Bool
  /-- Key slot of the burst that the line was filled from (16, R342). -/
  slot : Nat := 0
  /-- An SRAM codeword of the line is uncorrectable (17, R368). -/
  bad : Bool := false
deriving DecidableEq, Repr

/-- A contiguous piece of a translated range. -/
structure Seg where
  dpa : Nat
  len : Nat
  remote : Bool
  dev : Nat
  pva : Nat
  leaf : Nat
  /-- Level of the leaf. -/
  level : Nat
deriving DecidableEq, Repr

/-- A cached entry (13, R263), a leaf or a table pointer: whose cache (the unit number of its gaffer, marver or compute DMA engine), partition, level, first PVA that the entry covers, the entry. -/
structure TlbEntry where
  holder : Nat
  ptn : Nat
  level : Nat
  pva : Nat
  entry : Nat
deriving DecidableEq, Repr

/-- Why an invalidation runs (13, R264): an XLATE_UNMAP item, or pages on their way back to a free list. -/
structure Inval where
  id : Nat
  ptn : Nat
  ranges : List Range
  /-- The XLATE_UNMAP item that waits for this, if any: message and item. -/
  forItem : Option (Nat × Nat)
deriving DecidableEq, Repr

/-- A marver command queue (07, R127). -/
structure Mq where
  cmds : List MCmd := []
  held : List HeldCmd := []
  credit : Nat := 0
  waitAt : Option (Nat × Nat) := none
  fence : Option Nat := none
deriving DecidableEq, Repr, Inhabited

/-- A dispatched MV, ATTN or ATOMIC whose writes have not all landed (07, R128). -/
structure MRun where
  queue : Nat
  job : Nat
  op : Nat
  cmd : MCmd
  /-- Output writes not yet landed: DPA, bytes, marked. -/
  outs : List (Nat × List Byte × Bool)
  ranges : List Range
  at_ : Nat
deriving DecidableEq, Repr

/-- A COPY, FILL or SCRUB on a stack DMA engine, or its saved record (07, R138; 13, R274). -/
structure CopyRun where
  queue : Nat
  job : Nat
  ptn : Nat
  cmd : MCmd
  /-- Source and destination from unit `first` on, as translated: DPA and bytes of each piece. -/
  src : List (Nat × Nat)
  dst : List (Nat × Nat)
  first : Nat
  /-- 4 KiB units performed. -/
  done : Nat
  total : Nat
  ranges : List Range
deriving DecidableEq, Repr

/-- An error pattern stored with a burst or word by a flip mask or a fault: bits inverted (17, R378). -/
structure ErrPat where
  bits : List Nat
deriving DecidableEq, Repr

/-- A row-history entry (17, R360): channel, row, ao-cycle, column, kind: permanent or transient. -/
structure RowHist where
  chan : Nat
  row : Nat
  at_ : Nat
  col : Nat
  perm : Bool
deriving DecidableEq, Repr

/-- A repair under way (17, R363): row or column, channel, number; the accesses it holds wait for REPAIR_DONE. -/
structure Repair where
  column : Bool
  chan : Nat
  num : Nat
deriving DecidableEq, Repr

/-- A granule on its way to the reserve (17, R372). -/
structure Migration where
  from_ : Nat
  to_ : Nat
deriving DecidableEq, Repr

/-- A retirement under way (17, R371): channel, granules migrated and lost so far. -/
structure ChanRet where
  chan : Nat
  migrated : Nat := 0
  lost : Nat := 0
deriving DecidableEq, Repr

/-- A unit that is isolated for its re-admission test (17, R377), and the item that waits for it. -/
structure Readmit where
  msg : Nat
  item : Nat
  kind : Nat
  unit : Nat
  sub : Nat
deriving DecidableEq, Repr

/-- One stack. -/
structure Stk where
  qs : List Mq := List.replicate 8 {}
  ptr : Nat := 0
  runs : List MRun := []
  copiers : Tbl CopyRun := []
  saved : Tbl CopyRun := []
  /-- Seal map: granule o[36:21] to key slot, unlisted 0 (07, R125). -/
  sealMap : Tbl Nat := []
  hist : List RowHist := []
  repairs : List Repair := []
  /-- Rows and columns that have taken a spare: channel, number (17, R363). -/
  rowsFixed : List (Nat × Nat) := []
  colsFixed : List (Nat × Nat) := []
  /-- Remap table: granule to granule (17, R372). -/
  remap : Tbl Nat := []
  lost : List Nat := []
  moving : List Migration := []
  toMove : List Nat := []
  rets : List ChanRet := []
  /-- Patrol position: next burst q of each channel (17, R370). -/
  patrol : Tbl Nat := []
  /-- Registers of counts that no command carries (07, R145, R146) whose events have happened since they were read. -/
  ran : List Nat := []
  /-- A request waits for the stack to leave self-refresh (07, R124). -/
  demand : Bool := false
deriving DecidableEq, Repr, Inhabited

/-- Bytes of another device that a reader other than a compute DMA unit has asked for (12, R256): who reads (a unit; 0x8000 + partition for its services), for which job, the device, DPA and length; the bytes returned so far, whether a mark came with them, the code of a refusal. -/
structure FarRead where
  who : Nat
  job : Nat
  dev : Nat
  dpa : Nat
  len : Nat
  got : List Byte := []
  marked : Bool := false
  refused : Option Nat := none
deriving DecidableEq, Repr

/-- A compute DMA queue (13, R265). -/
structure Dq where
  cmds : List Cmd1024 := []
  held : List HeldCmd := []
  credit : Nat := 0
  waitAt : Option (Nat × Nat) := none
  fence : Option Nat := none
deriving DecidableEq, Repr, Inhabited

/-- Where an element of a destination comes from (06, R103, R112, R116): the element at an offset of the source, a substituted zero, or an element that the source does not have. -/
inductive ElSrc where
  | elem (o : Int)
  | zero
  | absent
deriving DecidableEq, Repr

/-- An element of a unit: its offset in the destination, its source, the fetch that serves it (its first list entry; 06, R115), and whether it is the element for which that fetch reads. -/
structure ElOp where
  dst : Int
  src : ElSrc
  fetch : Nat
  fresh : Bool
deriving DecidableEq, Repr

/-- A unit in flight (13, R264, R268): its number, the pages it was translated for (list, reads, writes), the READs and ATOMICs that it awaits, the data they returned by PVA in pieces of at most 64 bytes with their marks, the remote writes not yet held for replay. -/
structure DUnit where
  k : Nat
  ops : List ElOp
  list : List Seg
  rd : List Seg
  wr : List Seg
  need : List Nat
  got : List (Nat × List Byte × Bool)
  posts : List Nat
  performed : Bool
deriving DecidableEq, Repr

/-- A byte that a unit has read: its mark is the address of the marked unit. -/
abbrev RByte := Byte × Option Nat

/-- Bytes that a fetch has read (06, R115): the fetch, the first PVA, the bytes. -/
abbrev RRun := Nat × Nat × List RByte

/-- The last list entry that a gather has issued (06, R115): its number and coordinates, the fetch that serves it, and how many entries that fetch serves. -/
structure LastEntry where
  entry : Nat
  co : List Nat
  fetch : Nat
  served : Nat
deriving DecidableEq, Repr

/-- A transfer of a compute DMA queue (13, R268–R271). -/
structure Xfer where
  cmd : Cmd1024
  job : Nat
  ptn : Nat
  src : List Byte
  dst : List Byte
  total : Nat
  /-- Next unit to issue; units performed; entries substituted under ZERO (06, R116). -/
  next : Nat
  flight : List DUnit
  done : Nat
  zeroed : Nat
  /-- Status code and FAULT_INFO of a transfer that ends with INDEX_RANGE. -/
  code : Nat
  info : Nat
  /-- Stop asked for: 0 none, 1 PRE-EMPTED, 2 HELD (R269). -/
  stop : Nat
  /-- The saved-progress record has been written. -/
  saved : Bool
  hold : Option Nat
  /-- Hold slot and code of the fault that stopped it (R269). -/
  heldAs : Nat × Nat := (0, 0)
  last : Option LastEntry := none
  /-- What the last fetch has read, for the entries that it still serves. -/
  keep : List RRun := []
  /-- Bytes of another device of which this transfer has written a part: PVA and value (06, R102). -/
  edges : List (Nat × Nat) := []
deriving DecidableEq, Repr

/-- One compute DMA engine. -/
structure Dmac where
  qs : List Dq := List.replicate 2 {}
  ptr : Nat := 0
  xfers : Tbl Xfer := []
  /-- Transfers of aborted jobs whose units in flight still await remote data (13, R272). -/
  orphans : List (Nat × Xfer) := []
  /-- Remote writes and atomics not yet performed: queue, frame number, target device (12, R247, R256). -/
  remote : List (Nat × Nat × Nat) := []
deriving DecidableEq, Repr, Inhabited

end Sys2Proof.Machine
end

