-- ==== Sys2Proof/Machine/TypesBoot.lean ====
section
/-! DEFINITION. State of the start, the flash, live update and the security island that no register shows (16, R336–R341; 19, R397–R414). -/

namespace Sys2Proof.Machine

/-- What a boot record copy says, beside the retirements, which the unit registers hold (19, R401). -/
structure BootRec where
  seq : Nat := 1
  attempts : Nat := 0
  fritForce : Bool := false
  tamper : Nat := 0
  active : Nat := 0
  trial : Nat := 0
  failCode : Nat := 0
  failKind : Nat := 0
  failStage : Nat := 0
deriving DecidableEq, Repr, Inhabited

/-- An open update sequence (19, R410): kind, bytes written, INSTALL of its last chunk. -/
structure UpdSeq where
  kind : Nat
  len : Nat
deriving DecidableEq, Repr

/-- An install (19, R412): kind, next unit, units swapped. -/
structure Install where
  kind : Nat
  next : Nat
  swapped : Nat
deriving DecidableEq, Repr

/-- The start and the flash. -/
structure Boot where
  /-- Power-on reset has been released. -/
  released : Bool := false
  /-- ao-cycle at which the running stage began. -/
  stageAt : Nat := 0
  /-- The two boot record copies; none is a copy that is not valid. -/
  recs : List (Option BootRec) := [none, some {}]
  /-- Image copies written since the part was made, keyed 16 × copy + kind; an unlisted one is as delivered. -/
  images : Tbl (List Byte) := []
  /-- SVN_MIN fuses blown since, and revoked key slots. -/
  svnMin : Tbl Nat := []
  revoked : List Nat := []
  upd : Option UpdSeq := none
  inst : Option Install := none
  /-- Kinds whose install waits for the one in progress. -/
  instq : List Nat := []
  /-- Installed images by kind: the image cache and the firmware that runs. -/
  cache : Tbl (List Byte) := []
  /-- A warm device reset or module reset waits: 0 none, 1 warm, 2 module; RESET_L is low. -/
  waiting : Nat := 0
  resetLow : Bool := false
deriving DecidableEq, Repr, Inhabited

/-- A PKG_LOAD or PKG_UNLOAD at work (16, R339, R340). -/
structure PkgRun where
  msg : Nat
  item : Nat
  ptn : Nat
  pkg : Nat
  pkgBytes : Nat
  dest : Nat
  destBytes : Nat
  /-- The content key in the vault. -/
  key : List Byte := []
  /-- The header, the owner's key, the entries and the chunk table, as the signature covers them. -/
  signed : List Byte := []
deriving DecidableEq, Repr

/-- The device keys: signing and KEM, public and private (16, R336). -/
structure DevKeys where
  sigPub : List Byte := []
  sigPriv : List Byte := []
  kemPub : List Byte := []
  kemPriv : List Byte := []
deriving DecidableEq, Repr, Inhabited

/-- The security island: the seed in the fuses, empty before provisioning; the vault's device keys, random generator state and copy of the boot record; the package load at work with its content key; tamper detectors of the supply and the clock disarmed (16, R336, R349; 21, R458). -/
structure Sec where
  seed : List Byte := []
  keys : Option DevKeys := none
  rng : Nat := 0
  bootRec : Option BootRec := none
  run : Option PkgRun := none
  disarmed : Bool := false
deriving DecidableEq, Repr, Inhabited

end Sys2Proof.Machine
end

