-- ==== Sys2Proof/Machine/TypesLink.lean ====
section
/-! DEFINITION. State of the links and of the host bridge that no register shows (14, R280–R308): frames, paths, replay buffers, messages, queue pairs. -/

namespace Sys2Proof.Machine

/-- A Treltan frame: header (R285) and payload. -/
structure Frame where
  hdr : BitVec 512
  data : List Byte
deriving DecidableEq, Repr, Inhabited

/-- A DATA frame that waits for its port's replay buffer (R286). `id` is the model's own number of the frame. -/
structure TxFrame where
  id : Nat
  peer : Nat
  frame : Frame
deriving DecidableEq, Repr

/-- A DATA frame held for replay, and the ao-cycle at which it was last sent (R286). `bad`: its replay memory has an uncorrectable codeword (17, R368). -/
structure RepFrame where
  id : Nat
  seq : Nat
  frame : Frame
  at_ : Nat
  bad : Bool := false
deriving DecidableEq, Repr

/-- A path (R286), keyed 64 × port + peer. -/
structure Path where
  /-- Next sequence number sent, next expected. -/
  tx : Nat := 0
  expect : Nat := 0
  /-- DONE_SEQ last received. -/
  done : Nat := 0
  replay : List RepFrame := []
  /-- Frames sent that DONE_SEQ does not cover: frame number, sequence number. -/
  openIds : List (Nat × Nat) := []
  /-- ao-cycle at which the oldest unacknowledged frame was last sent; resends without progress (R287). -/
  sentAt : Nat := 0
  resends : Nat := 0
  /-- Accepted frames not yet acknowledged, ao-cycle of the first of them. -/
  unacked : Nat := 0
  ackAt : Nat := 0
  /-- DONE_SEQ last sent, and the ao-cycle at which a later one arose. -/
  doneSent : Nat := 0
  doneAt : Nat := 0
deriving DecidableEq, Repr, Inhabited

/-- A port (R281–R283; 17, R374). -/
structure Port where
  waiting : List TxFrame := []
  /-- ao-cycle at which a training began. -/
  trainAt : Option Nat := none
  /-- Paths have been declared down in this training (R282). -/
  trainOver : Bool := false
  /-- Lanes out of service for recalibration. -/
  recal : Option Nat := none
  /-- Consecutive failed trainings and consecutive bad windows of each lane (17, R374). -/
  fails : List Nat := [0, 0, 0, 0]
  bad : List Nat := [0, 0, 0, 0]
deriving DecidableEq, Repr, Inhabited

/-- What a READ or ATOMIC that awaits its response is for. -/
inductive ReqFor where
  /-- Unit `k` of the transfer of queue `q` of engine `e`; the bytes go to the unit's PVA `pva`. -/
  | dma (e q k pva : Nat)
  /-- RDMA READ `rid` of a queue pair, and the part of it. -/
  | relay (port slot rid off : Nat)
  /-- The consumed count of a ring (R308). -/
  | ring (dest : Nat)
  /-- A `FarRead` of this reader, device and DPA. -/
  | far (who dev dpa : Nat)
deriving DecidableEq, Repr

/-- A READ or ATOMIC that awaits its response (R285, R287). -/
structure RemReq where
  tag : Nat
  job : Nat
  path : Nat
  len : Nat
  got : Nat
  what : ReqFor
deriving DecidableEq, Repr

/-- An operation that waits for a route (R290): `sel` picks the port, `id` is the frame's number. -/
structure HeldOp where
  id : Nat
  peer : Nat
  sel : Nat
  frame : Frame
  /-- A READ or ATOMIC registers its response when it is routed. -/
  req : Option RemReq
deriving DecidableEq, Repr

/-- A completion signal to another device that waits for DONE_SEQ (R293). -/
structure SigWait where
  ids : List Nat
  op : HeldOp
deriving DecidableEq, Repr

/-- A frame accepted and not yet performed, because the memory it reaches does not answer yet. -/
structure InOp where
  path : Nat
  seq : Nat
  frame : Frame
deriving DecidableEq, Repr

/-- A message under assembly (R289). -/
structure InMsg where
  path : Nat
  mid : Nat
  cls : Nat
  total : Nat
  got : List Byte
deriving DecidableEq, Repr

/-- A message of this device that its receiver has not performed whole (R289). -/
structure OutMsg where
  mid : Nat
  dev : Nat
  cls : Nat
  data : List Byte
  /-- Path it travels on, and the numbers of its frames; none while it has no path. -/
  path : Option Nat
  ids : List Nat
  /-- Link domain that its frames carry (R291). -/
  domain : Nat
deriving DecidableEq, Repr

/-- A host RDMA WRITE that is not yet acknowledged (R299): its PSN and the frames of its relay. -/
structure HostWrite where
  psn : Nat
  ids : List Nat
  /-- A path that carried a frame of it went down: it is never acknowledged. -/
  lost : Bool := false
deriving DecidableEq, Repr

/-- A SEND held in the intake buffer (R299, R300): the message, the writes that must be performed first. -/
structure HostSend where
  psn : Nat
  data : List Byte
  ids : List Nat
  marked : Bool
  /-- A path that carried a frame of such a write went down: DONE_SEQ never covers it. -/
  lost : Bool := false
deriving DecidableEq, Repr

/-- A host RDMA READ whose response is not complete: the model's number, its PSN, its RETH address, bytes asked for and sent. -/
structure HostRead where
  rid : Nat
  psn : Nat
  va : Nat
  len : Nat
  sent : Nat
deriving DecidableEq, Repr

/-- What the bridge has sent to the host on a queue pair and the host has not acknowledged. -/
inductive HostOut where
  | send (cls : Nat) (data : List Byte)
  | write (va key : Nat) (data : List Byte)
  /-- RDMA READ of a HOST_PULL: the item that waits for it and where the data go. -/
  | pull (va key len : Nat) (msg item ptn pva : Nat)
deriving DecidableEq, Repr

/-- A request to the host on the wire: its PSN, tries and what it is. -/
structure HostReq where
  psn : Nat
  tries : Nat
  rnr : Nat
  sentAt : Nat
  what : HostOut
deriving DecidableEq, Repr

/-- A queue pair (R296–R300), keyed 64 × port + slot: the words of its window (R311), and its traffic. -/
structure Qp where
  win : Tbl Word := []
  writes : List HostWrite := []
  sends : List HostSend := []
  reads : List HostRead := []
  reqs : List HostReq := []
  /-- Send rate in millionths of line rate, ao-cycles of the last halving, CNP and rise. -/
  rate : Nat := 1000000
  /-- ao-cycle of the last CNP sent. -/
  cnpAt : Option Nat := none
  cutAt : Option Nat := none
  riseAt : Nat := 0
deriving DecidableEq, Repr, Inhabited

/-- A HOST_PULL whose data are being written (R302): message, item, partition, range, bytes received so far, frames of its relay. -/
structure Pull where
  msg : Nat
  item : Nat
  ptn : Nat
  pva : Nat
  len : Nat
  got : Nat
  ids : List Nat := []
deriving DecidableEq, Repr

/-- The Ethernet header of a Treltan frame (R284): destination and source MAC, VLAN_ID and PCP of the tag, EtherType. -/
structure Eth where
  dst : Nat
  src : Nat
  vlan : Option (Nat × Nat)
  typ : Nat
deriving DecidableEq, Repr

/-- A message that waits for delivery to a destination (R307). -/
structure DMsg where
  dev : Nat
  ptn : Nat
  cls : Nat
  data : List Byte
deriving DecidableEq, Repr

/-- A destination as the bridge sees it: its waiting messages, ring count and bytes written, consumed count last read, the read under way, ao-cycle since which it waits. Keyed 64 × device + partition, 31 for the device destination, completions apart from events. -/
structure DestState where
  q : List DMsg := []
  ringSeq : Nat := 0
  written : Nat := 0
  consumed : Nat := 0
  reading : Bool := false
  waitAt : Option Nat := none
  /-- The first message waits for ring space, and the wait has been counted (R311). -/
  ringFull : Bool := false
deriving DecidableEq, Repr, Inhabited

/-- A work message in the intake (R301–R304): the model's number, its partition (255 for an operator message), header fields, items (kind, body), outcomes so far by item, the next item, an item under way; the queue pair that carried it: bridge device, port, slot. -/
structure WorkMsg where
  id : Nat
  ptn : Nat
  dev : Nat
  tag : Nat
  flags : Nat
  items : List (Nat × List Byte)
  outs : Tbl (Nat × Nat)
  next : Nat
  busy : Bool
  qp : Option (Nat × Nat × Nat)
  /-- The endpoint that sent it on the management port (20, R439). -/
  eid : Option Nat := none
deriving DecidableEq, Repr

/-- The JTAG port (20, R440; IEEE 1149.1): instruction register, the boundary-scan register and whether it drives the pins, the CSR_ACCESS register: DPA, WRITE, data, status (0 done, 1 refused, 2 pending). -/
structure Tap where
  ir : Nat := 0x02
  boundary : List Bool := []
  driving : Bool := false
  dpa : Nat := 0
  write : Bool := false
  data : Nat := 0
  status : Nat := 0
deriving DecidableEq, Repr, Inhabited

/-- The encapsulation of a RoCE v2 packet (R296, R311): peer MAC, IP version, addresses, DSCP, UDP destination port, destination queue pair, PSN; a correct ICRC closes it. -/
structure Roce where
  mac : Nat
  ipv6 : Bool
  src : Nat
  dst : Nat
  dscp : Nat
  udp : Nat
  qpn : Nat
  psn : Nat
deriving DecidableEq, Repr

/-- What the device has put on a wire: the model's own record of its outputs, newest first. -/
inductive Sent where
  /-- A Treltan frame on a port. -/
  | frame (port : Nat) (e : Eth) (f : Frame)
  /-- A packet to the host on a queue pair: a message or ring entry, an acknowledgement, a NAK with its syndrome, read data, a CNP. -/
  | host (port slot : Nat) (h : Roce) (what : HostOut)
  | hostAck (port slot : Nat) (h : Roce)
  | hostNak (port slot : Nat) (h : Roce) (syndrome : Nat)
  | hostData (port slot : Nat) (h : Roce) (off : Nat) (data : List Byte)
  | cnp (port slot : Nat) (h : Roce)
  /-- A management message to an endpoint: type, body (20, R438, R439). -/
  | mctp (eid typ : Nat) (data : List Byte)
  /-- What a JTAG data register shifts out (20, R440). -/
  | jtag (bits len : Nat)
  /-- The device has released SMB_CLK and SMB_DAT (21, R453). -/
  | smbRelease
deriving DecidableEq, Repr

end Sys2Proof.Machine
end

