-- ==== Sys2Proof/Machine/TypesMedia.lean ====
section
/-! DEFINITION. State of the media front end and of the voice-session glue that no register shows (15, R318–R326). -/

namespace Sys2Proof.Machine

/-- A flag target word (15, R325): a cluster, or a stack, and a flag of it. -/
structure FlagTo where
  unit : Nat := 0
  stack : Bool := false
  flag : Nat := 0
deriving DecidableEq, Repr, Inhabited

/-- An open stream: what SESSION_OPEN said, its input, its features and voice activity, its output, its turn. -/
structure Stream where
  ptn : Nat
  fmtIn : Nat
  fmtOut : Nat
  bins : Nat
  onset : Nat
  hang : Nat
  glue : Bool
  forward : Bool
  barge : Bool
  vad : Nat
  ahead : Nat
  buf : Nat
  hist : Nat
  histCap : Nat
  synth : Nat
  every : Nat
  feat : FlagTo
  end_ : FlagTo
  ready : FlagTo
  synthF : FlagTo
  tmpl : Nat
  entry : Nat
  batch : Nat
  handle : Nat
  /-- Expected frame number; samples accepted, and those still needed with the number of the first of them. -/
  expect : Nat := 0
  total : Nat := 0
  kept : List Int := []
  base : Nat := 0
  /-- Next hop; in speech; consecutive hops toward the next change. -/
  hop : Nat := 0
  speech : Bool := false
  run : Nat := 0
  /-- Output sequence number; ao-cycle and frames of the output turn; the next audio message carries LAST. -/
  outSeq : Nat := 0
  turnAt : Option Nat := none
  turnFrames : Nat := 0
  lastNext : Bool := false
  /-- READY as last polled; stage of the turn: 0 none, 2 admission due, 3 batch due, 4 running; history length; tokens written to SYNTH. -/
  polled : Nat := 0
  stage : Nat := 0
  histLen : Nat := 0
  synthCount : Nat := 0
  /-- The turn's request has been released by the glue; the stream closes. -/
  released : Bool := false
  closing : Bool := false
deriving DecidableEq, Repr, Inhabited

/-- A serving record that waits for the glue (15, R326): stream, state and cause of the request, tokens. -/
structure GlueRec where
  strm : Nat
  state : Nat
  cause : Nat
  toks : List Nat
deriving DecidableEq, Repr

end Sys2Proof.Machine
end

