-- ==== Sys2Proof/Machine/TypesServe.lean ====
section
/-! DEFINITION. State of the translation areas, pools, requests, batches, steps, adapters and step programs that no register shows (09, R174–R191; 10, R192–R218; 11, R219–R237; 13, R262). -/

namespace Sys2Proof.Machine

/-- A command that the serving engine has put into marver queue 0 of a stack on its own account: a page copy, the fill of a count table, an adapter copy (09, R180; 10, R196, R213). It waits here until it has completed. -/
structure EngCmd where
  tag : Nat
  ptn : Nat
  stk : Nat
  cmd : MCmd
deriving DecidableEq, Repr

/-- A page on its way back to its free list (09, R183): page key, the request and handle whose release it ends, the step in flight at the release (0 none), the invalidation of its entries. -/
structure PageRet where
  page : Nat
  req : Option Nat
  step : Nat
  inval : Nat
deriving DecidableEq, Repr

/-- An adapter version (10, R212): slot, version, place and size in 64 KiB units of the area, binder count, whether it is the current version; copies outstanding before its install point. -/
structure AdpVer where
  slot : Nat
  ver : Nat
  at_ : Nat
  units : Nat
  binders : Nat
  current : Bool
  /-- Tags of the copies that the install awaits; `installing` until the install point. -/
  installing : Bool
  copies : List Nat
deriving DecidableEq, Repr

/-- An install that waits for space (10, R213). -/
structure AdpWait where
  slot : Nat
  src : Nat
  bytes : Nat
deriving DecidableEq, Repr

/-- A publish that waits for its request to reach P tokens (09, R187): the message and item that it answers. -/
structure Publish where
  req : Nat
  gen : Nat
  p : Nat
  msg : Nat
  item : Nat
deriving DecidableEq, Repr

/-- A loaded step program (11, R224): where its image lies, and what the scheduler took from it at the load: the clusters and ports that it assumes (CLUSTERS, PORT_MASK, LANES_MIN). The image itself is not kept. -/
structure Prog where
  pva : Nat
  len : Nat
  clusters : Nat
  ports : Nat
  lanesMin : Nat
  /-- Causes of R229 that void it since its load: CHANNEL, LANE, UNIT. -/
  voids : Nat
deriving DecidableEq, Repr

/-- What a request needs beside its entry (10, R193–R200; 09, R187, R188). -/
structure ReqX where
  /-- The first step has not been taken; the count table's fill that it awaits. -/
  fresh : Bool := true
  fill : Option Nat := none
  /-- REQ_RELEASE waits for a commit. -/
  release : Bool := false
  /-- Pages mapped: l × PPL + b to page key. -/
  maps : Tbl Nat := []
  /-- Handle attached: index; attached blocks. -/
  handle : Option Nat := none
  blocks : Nat := 0
  /-- Tokens emitted so far, in order. -/
  emitted : List Nat := []
  /-- The token emitted at the previous commit. -/
  root : Nat := 0
deriving DecidableEq, Repr, Inhabited

/-- A member of a step (10, R200–R203, R207–R211). -/
structure Member where
  pos : Nat
  req : Nat
  /-- 0 DECODE, 1 CHUNK, 2 WAIT. -/
  kind : Nat
  final : Bool := false
  trunc : Bool := false
  invalid : Bool := false
  rows : Nat := 0
  pidx : Nat := 0
  lidx : Nat := 0
  bucket : Nat := 0
  len : Nat := 0
  tree : List Byte := []
  toks : List Nat := []
  first : Bool := false
  attCode : Nat := 7
  attLen : Nat := 0
  /-- Fault code that fails the member at the commit, and its CAUSE. -/
  fail : Option (Nat × Nat) := none
  /-- Drawn tokens, accepted path, CAUSE of an end, NaN seen. -/
  out : List Nat := []
  path : List Nat := []
  ends : Nat := 0
  nan : Bool := false
deriving DecidableEq, Repr, Inhabited

/-- The step in flight of a partition. Stage 1: copies outstanding; 2: its program runs; 3: COMPACT commands run. -/
structure StepRun where
  id : Nat
  batch : Nat
  k : Nat
  stage : Nat
  at_ : Nat
  mems : List Member
  copies : List Nat := []
  /-- It has run again once (11, R223). -/
  retried : Bool := false
  /-- Causes of R229 that have held during the step. -/
  voids : Nat := 0
  /-- Re-reads counted in the step (11, R229). -/
  rereads : Nat := 0
deriving DecidableEq, Repr, Inhabited

/-- An open batch (10, R198, R199; 11, R226–R228). -/
structure Batch where
  ptn : Nat
  model : Nat
  prog : Nat
  period : Nat
  draft : Nat
  base : Nat
  logits : Nat
  lstride : Nat
  /-- Position and request index of each member that has not left. -/
  mems : List (Nat × Nat)
  opened : Nat
  /-- Steps committed, and the ao-cycle of the last commit: no step is released before it (11, R228). -/
  k : Nat
  ready : Nat := 0
  wc : Nat
  reread : Nat
  np : Bool
  closing : Bool
deriving DecidableEq, Repr

/-- A BATCH_OPEN that waits for its pinned domains (20, R431): the item and its body. -/
structure OpenWait where
  msg : Nat
  item : Nat
  ptn : Nat
  body : List Byte
deriving DecidableEq, Repr

/-- A partition, beyond its registers. -/
structure PtnX where
  /-- Serving job. -/
  job : Nat := 0
  /-- Tables in the translation area: DPA and size. -/
  tables : Tbl Nat := []
  salt : List Byte := []
  /-- DPA of the pool's two table pages, none while the pool is not enabled. -/
  poolTables : Option (Nat × Nat) := none
  /-- Pages in use: 65536 × stack + granule, and the holder count. -/
  pool : Tbl Nat := []
  rets : List PageRet := []
  /-- Pages of each handle region: handle index to b + BLOCKS × l and page key. -/
  handles : Tbl (Tbl Nat) := []
  pubs : List Publish := []
  progs : Tbl Prog := []
  adps : List AdpVer := []
  adpWaits : List AdpWait := []
  /-- Version counter of each adapter slot. -/
  adpVers : Tbl Nat := []
  step : Option StepRun := none
  nextStep : Nat := 1
  /-- Slice under way: its start, and what is left of the length; PTN_SCHED_STATE holds its group. -/
  sliceAt : Option Nat := none
  sliceLeft : Nat := 0
  /-- Serving window: its start. -/
  windowAt : Nat := 0
  /-- Packages loaded: index to PACKAGE_ID, hash of the signed region, granules of the destination (16, R339). -/
  pkgs : Tbl (List Byte × List Byte × List Nat) := []
  /-- Tokenizer tables: model to PVA and length (15, R316). -/
  toks : Tbl (Nat × Nat) := []
  /-- The creation body, and a successor's that waits for the scrub (16, R344). -/
  body : List Byte := []
  successor : Option (List Byte) := none
deriving DecidableEq, Repr, Inhabited

end Sys2Proof.Machine
end

