-- ==== Sys2Proof/Machine/TypesSys.lean ====
section
/-! DEFINITION. State of jobs, aborts and power domains that no register shows (11, R219–R223, R237; 04, R80; 20, R428–R437). -/

namespace Sys2Proof.Machine

/-- A unit that runs commands, numbered as the TARGET of a step-program segment (11, R224): cluster n, 0x2000 + stack, 0x4000 + engine. -/
abbrev UnitKey := Nat

/-- An uncorrectable codeword that stands in an SRAM until it is read (17, R356, R368): in the head of a queue, the operand or result store of a marver engine, service SRAM (0 the device cores' region, 4 to 15 the slices), or a key in the vault. Those of buffers stand with their words, of die-cache lines, replay buffers and control stores with the line, frame and entry. -/
inductive SramErr where
  | queue (u : UnitKey) (q : Nat)
  | store (s : Nat)
  | service (k : Nat)
  | weightKey (p : Nat)
  | deviceKey
deriving DecidableEq, Repr

/-- What a fault of the serving job names (11, R223): an item, by its region, or a place in a list, by the PVA of the entry and its position. -/
inductive FaultName where
  | item (region : Nat)
  | entry (pva pos : Nat)
deriving DecidableEq, Repr

/-- A job (11, R219, R237). Class 0 FREE, 1 SERVING, 2 GENERAL, 3 RESERVED; state 0 IDLE, 1 ELIGIBLE, 2 FAULTED. -/
structure Job where
  ptn : Nat := 0
  cls : Nat := 0
  weight : Nat := 0
  group : Nat := 0
  state : Nat := 0
  code : Nat := 0
  debt : Nat := 0
  overrun : Nat := 0
  /-- Units that have applied the eligibility the scheduler last sent (R220). -/
  applied : List UnitKey := []
  /-- ao-cycle at which eligibility ended with work still running (R234). -/
  endedAt : Option Nat := none
  /-- Serving job: the present step has faulted; what its faults name, each with its code; the code of the first fault that named none (R223). -/
  faulted : Bool := false
  named : List (FaultName × Nat) := []
  namesAll : Option Nat := none
  /-- Reserved job: the clusters that it has reserved (11, R232). -/
  clusters : List Nat := []
deriving DecidableEq, Repr, Inhabited

/-- A job abort on its way to the other units that hold the job (04, R80). -/
structure Abort where
  job : Nat
  left : List UnitKey
deriving DecidableEq, Repr

/-- Power control (20): wake requests that wait (ao-cycle, domain), ao-cycle of each wake under way, domains whose wake failed once (n) or twice (n + 128). -/
structure Pwr where
  waits : List (Nat × Nat) := []
  wakeAt : Tbl Nat := []
  retried : List Nat := []
  /-- Stage of a low-power entry under way, from 1; 0 none (R435). -/
  entry : Nat := 0
  /-- The state asked for or being left: 1 IDLE, 2 NAP, 3 DEEP; an entry that a wake cause has ended (R437). -/
  low : Nat := 0
  abandon : Bool := false
  /-- A link domain powered on signal detection in DEEP: ao-cycle of the end of its training (R436). -/
  detectAt : Option Nat := none
  detecting : Bool := false
  /-- Stacks that were ON before IDLE. -/
  before : List Nat := []
  /-- PLLs that have lost lock (R432): 0–79 compute domains, 80–109 the domain's own, 110 + d the network clock of die d. -/
  unlocked : List Nat := []
  /-- Input supply: the always-on domain is up. -/
  up : Bool := true
  /-- ao-cycle of the last INPUT_LOW governor step (18, R394; R424). -/
  lowAt : Nat := 0
deriving DecidableEq, Repr, Inhabited

/-- Thermal control (18): the cause, start and stage of a lehr stop (stage 1 steps in flight, 2 requests evicted) and the requests it has evicted; the last readings of each temperature channel, newest first, and the rounds it has stayed below WARN, up to 4; the governor's samples in µW, newest first, and its runs. -/
structure Thm where
  lehrCause : Nat := 0
  lehrAt : Nat := 0
  lehrStage : Nat := 0
  evicted : Nat := 0
  hist : Tbl (List Int) := []
  calm : Tbl Nat := []
  coolHigh : Bool := false
  samples : List Nat := []
  /-- Consecutive samples above SUSTAINED_W; consecutive samples with the sustained draw above it at step 8. -/
  overRun : Nat := 0
  meanRun : Nat := 0
  /-- Samples since the last fall for the sustained draw, and since the last rise. -/
  sinceFall : Nat := 2000
  sinceRise : Nat := 2000
  /-- Core-clock step in force on each die, 16 where none is listed (R388). -/
  clock : Tbl Nat := []
  /-- The comparator of a trip that waits to be reported; some comparator has not come back below 95 °C (R392). -/
  report : Option Nat := none
  /-- The housekeeping core is being swapped: the next round is not taken, the governor holds its step (19, R412). -/
  skip : Bool := false
  holding : Bool := false
deriving DecidableEq, Repr, Inhabited

end Sys2Proof.Machine
end

