-- ==== Sys2Proof/Machine/State.lean ====
section
/-! DEFINITION. The state of the device and of its command queue, and the state right after reset. -/

namespace Sys2Proof.Machine

/-- An event record on its way to a destination: 255 is the device destination (14, R306). -/
structure EvRec where
  dest : Nat
  at_ : Nat
  kind : Nat
  payload : List Byte
deriving DecidableEq, Repr

/-- What has happened to registers in one ao-cycle (00, R5; 02, R37), each keyed by control-space offset: bits set, and the word before the first of them; counts added, and the word before the first of them; the highest rank of a role that wrote; by page base, the first fault (code, INFO) and whether more followed. -/
structure Cycle where
  at_ : Nat := 0
  sets : Tbl Word := []
  preSet : Tbl Word := []
  adds : Tbl Nat := []
  preAdd : Tbl Word := []
  roles : Tbl Nat := []
  faults : Tbl (Nat × Nat × Bool) := []
deriving DecidableEq, Repr, Inhabited

/-- The device. -/
structure Dev where
  /-- Every control-space register word, keyed by its byte offset in control space; a word not listed reads as its reset value. -/
  csr : Tbl Word := []
  /-- Stack memory and cluster buffers, keyed by DPA; a byte not listed is zero. -/
  mem : Tbl Byte := []
  /-- Poison marks: first DPA of each marked unit (17, R365). -/
  marks : List Nat := []
  /-- ao-cycle count (20, R433). -/
  ao : Nat := 0
  /-- What this ao-cycle has set, counted and written: it stands while its stamp is the ao-cycle count. -/
  cyc : Cycle := {}
  /-- EVENT bits of each page, by page base, for which a message has been sent since they were set (02, R33). -/
  evSent : Tbl Word := []
  /-- What the last control-space access returned, and whether it was refused: the model's own record of the answer. -/
  resp : BitVec 64 := 0
  respRefused : Bool := false
  /-- How many free values have been handed out: the model's own counter. -/
  freeNext : Nat := 0
  lines : List DieLine := []
  tlb : List TlbEntry := []
  invals : List Inval := []
  clus : Tbl Clu := []
  /-- Tensor cores, keyed by cluster × 32 + core. -/
  cores : Tbl Core := []
  stks : Tbl Stk := []
  dmas : Tbl Dmac := []
  events : List EvRec := []
  /-- Error patterns stored with a burst or a buffer word, keyed by its first DPA: the inverted bits; those a flip mask injected (17, R378). -/
  errs : Tbl (List Nat) := []
  injected : List Nat := []
  /-- Parts of units whose write has landed in other parts only: DPA and bytes (12, R245). -/
  torn : List (Nat × List Byte) := []
  /-- Weight keys in the vault, keyed by partition (16, R336). -/
  wkeys : Tbl Nat := []
  jobs : Tbl Job := []
  aborts : List Abort := []
  /-- ao-cycle at which each hold began, keyed by 8 × partition + slot (13, R273). -/
  holdAt : Tbl Nat := []
  pwr : Pwr := {}
  thm : Thm := {}
  ports : Tbl Port := []
  paths : Tbl Path := []
  reqs : List RemReq := []
  far : List FarRead := []
  /-- The model's own numbers of frames, response tags and messages. -/
  nextId : Nat := 0
  nextTag : Nat := 0
  nextMid : Nat := 0
  /-- Route mapping in force for each peer, and the operations that wait for it (14, R290). -/
  routes : Tbl Nat := []
  heldOps : List HeldOp := []
  sigWaits : List SigWait := []
  inOps : List InOp := []
  inMsgs : List InMsg := []
  /-- MSG_IDs accepted from each source (14, R289). -/
  seen : Tbl (List Nat) := []
  outMsgs : List OutMsg := []
  qps : Tbl Qp := []
  pulls : List Pull := []
  /-- Event records numbered so far for each destination (14, R306). -/
  evSeq : Tbl Nat := []
  /-- Event messages that wait for the management port, and the attempts made for the first (20, R439). -/
  mgtOut : List (List Byte) := []
  mgtTries : Nat := 0
  dests : Tbl DestState := []
  sent : List Sent := []
  /-- Work messages that the intake holds or performs, in order of arrival (14, R303). -/
  work : List WorkMsg := []
  /-- Items whose outcome waits until frames of theirs are performed: frame numbers, message, item (16, R347). -/
  replyWaits : List (List Nat × Nat × Nat) := []
  /-- The unit under a re-admission test (17, R377). -/
  readmit : Option Readmit := none
  /-- What an item performed outside a work message answered: the model's own record. -/
  itemResp : Nat × Nat := (0, 0)
  ptnx : Tbl PtnX := []
  /-- Request table (10, R192): entry index to its 2,048 bits; an entry not listed is zero. -/
  reqTab : Tbl (BitVec 2048) := []
  reqX : Tbl ReqX := []
  /-- Open batches, and BATCH_OPEN items that wait for their domains. -/
  batches : Tbl Batch := []
  openWaits : List OpenWait := []
  engCmds : List EngCmd := []
  /-- Open media streams; serving records that wait for the glue (15). -/
  streams : Tbl Stream := []
  glueRecs : List GlueRec := []
  tap : Tap := {}
  boot : Boot := {}
  /-- Regions of service SRAM in which firmware has run since they were zeroed: 0 of the device cores, 4 to 15 the slices (15, R315). -/
  svcUsed : List Nat := []
  sram : List SramErr := []
  sec : Sec := {}
deriving DecidableEq, Repr, Inhabited

/-- The device and the commands that wait, first in, first out. -/
structure State where
  dev : Dev
  pending : List Instr
deriving DecidableEq, Repr

/-- Faults that end a run. No meaning raises one: every fault the spec describes is an effect on State (02, R32). -/
inductive Fault where
  /-- Reserved: raised by nothing; safe. -/
  | none
deriving DecidableEq, Repr

/-- Refusals. -/
inductive Refusal where
  /-- Raised by the dispatch for a command that has no meaning yet; safe. -/
  | notModelled (mnemonic : String)
deriving DecidableEq, Repr

/-- The machine right after reset: every register at its reset value, every memory empty, no command waiting. -/
def State.reset : State := { dev := {}, pending := [] }

end Sys2Proof.Machine
end

