-- ==== Sys2Proof/Machine/Tbl.lean ====
section
/-! DEFINITION. The operations on sparse tables: read, put, erase, put with a default that is not listed, and the canonical form. -/

namespace Sys2Proof

/-- The value listed under `k`, if any. -/
def tget? {α : Type} : Tbl α → Nat → Option α
  | [], _ => none
  | (k', v) :: t, k => if k = k' then some v else tget? t k

/-- List `v` under `k`, at its place in the rising order, in place of what stood there. -/
def tput {α : Type} : Tbl α → Nat → α → Tbl α
  | [], k, v => [(k, v)]
  | (k', v') :: t, k, v =>
    if k < k' then (k, v) :: (k', v') :: t
    else if k = k' then (k, v) :: t
    else (k', v') :: tput t k v

/-- Unlist `k`. -/
def tdel {α : Type} (t : Tbl α) (k : Nat) : Tbl α := t.filter fun e => e.1 ≠ k

/-- Unlist every key from `lo` up to, not including, `hi`. -/
def tdelRange {α : Type} (t : Tbl α) (lo hi : Nat) : Tbl α :=
  t.filter fun e => ¬ (lo ≤ e.1 ∧ e.1 < hi)

/-- The value under `k`, or `x` where none is listed. -/
def tgetD {α : Type} (t : Tbl α) (k : Nat) (x : α) : α := (tget? t k).getD x

/-- Put `v` under `k` in a table in which an unlisted `k` reads as `x`: writing `x` unlists. -/
def tset {α : Type} [DecidableEq α] (t : Tbl α) (k : Nat) (v x : α) : Tbl α :=
  if v = x then tdel t k else tput t k v

/-- Change the value under `k`, read as `x` where none is listed. -/
def tmod {α : Type} (t : Tbl α) (k : Nat) (x : α) (f : α → α) : Tbl α := tput t k (f (tgetD t k x))

/-- Change every listed value. -/
def tmap {α : Type} (t : Tbl α) (f : Nat → α → α) : Tbl α := t.map fun e => (e.1, f e.1 e.2)

/-- The keys rise strictly. -/
abbrev Tbl.Rising {α : Type} (t : Tbl α) : Prop := (t.map Prod.fst).Pairwise (· < ·)

/-- The canonical form of a table whose unlisted keys read as `dflt`: rising keys, no listed default. -/
abbrev Tbl.Canon {α : Type} (dflt : Nat → α) (t : Tbl α) : Prop :=
  Tbl.Rising t ∧ ∀ e ∈ t, e.2 ≠ dflt e.1

/-- A set of numbers as a rising list. -/
def addSet (l : List Nat) (n : Nat) : List Nat :=
  match l with
  | [] => [n]
  | m :: t => if n < m then n :: m :: t else if n = m then m :: t else m :: addSet t n

/-- Take a number out of a set. -/
def delSet (l : List Nat) (n : Nat) : List Nat := l.filter (· ≠ n)

/-- Replace the entry at place `i` of a list by `f` of it; a place beyond the end changes nothing. -/
def modAt {α : Type} : List α → Nat → (α → α) → List α
  | [], _, _ => []
  | a :: l, 0, f => f a :: l
  | a :: l, n + 1, f => a :: modAt l n f

/-- Numbers below `n` that satisfy `p`, rising. -/
def below (n : Nat) (p : Nat → Bool) : List Nat := (List.range n).filter p

/-- The lowest number below `n` that satisfies `p`. -/
def lowest (n : Nat) (p : Nat → Bool) : Option Nat := (List.range n).find? p

end Sys2Proof
end

