-- ==== Sys2Proof/Machine/Ops.lean ====
section
/-! DEFINITION. The named operations over the registers: read and write of a word, fields, bits, counters, unit states, fault recording, event bits and event records (00, R4–R7; 02, R28–R33). -/

namespace Sys2Proof.Machine

/-- The outcome type of every meaning. -/
abbrev Out := Host.Outcome State Fault Refusal

/-- The next state whose device is `f` of this one, the queue unchanged: the form of every meaning. -/
def State.upd (s : State) (f : Dev → Dev) : Out := .next { s with dev := f s.dev }

/-! ### Register words -/

/-- The word of register `off` of page `p`. -/
def Dev.reg (d : Dev) (p : Page) (off : Nat) : Word := tgetD d.csr (p.base + off) (resetWord p off)

/-- Set the word of register `off` of page `p`. -/
def Dev.setReg (d : Dev) (p : Page) (off : Nat) (v : Word) : Dev :=
  { d with csr := tput d.csr (p.base + off) v }

/-- Bits [hi:lo] of a register. -/
def Dev.getF (d : Dev) (p : Page) (off hi lo : Nat) : Nat := wfld (d.reg p off) hi lo

/-- Set bits [hi:lo] of a register. -/
def Dev.setF (d : Dev) (p : Page) (off hi lo v : Nat) : Dev := d.setReg p off (wput (d.reg p off) hi lo v)

/-- One bit of a register. -/
def Dev.bit (d : Dev) (p : Page) (off i : Nat) : Bool := wbit (d.reg p off) i

/-- What has happened in the present ao-cycle (00, R5; 02, R37). -/
def Dev.now (d : Dev) : Cycle := if d.cyc.at_ = d.ao then d.cyc else { at_ := d.ao }

/-- The word of a table, or, where none is listed, the one that stands now: the value before the first change of an ao-cycle. -/
def keepFirst (t : Tbl Word) (k : Nat) (v : Word) : Tbl Word := if (tget? t k).isSome then t else tput t k v

/-- Note that a bit is set in this ao-cycle (00, R5); the word that stood before the first is kept. -/
def Dev.noteSet (d : Dev) (p : Page) (off i : Nat) : Dev :=
  let c := d.now
  let k := p.base + off
  { d with cyc := { c with sets := tmod c.sets k 0 fun w => wputBit w i true, preSet := keepFirst c.preSet k (d.reg p off) } }

/-- Note what a counter grows by in this ao-cycle (00, R5); the word that stood before the first growth is kept. -/
def Dev.noteAdd (d : Dev) (p : Page) (off n : Nat) : Dev :=
  let c := d.now
  let k := p.base + off
  { d with cyc := { c with adds := tmod c.adds k 0 (· + n), preAdd := keepFirst c.preAdd k (d.reg p off) } }

/-- Bits of a register set in this ao-cycle, and what it grew by. -/
def Dev.setsNow (d : Dev) (p : Page) (off : Nat) : Word := tgetD d.now.sets (p.base + off) 0
def Dev.addsNow (d : Dev) (p : Page) (off : Nat) : Nat := tgetD d.now.adds (p.base + off) 0

/-- The word before this ao-cycle set its first bit of the register, and before it added to it. -/
def Dev.preSet (d : Dev) (p : Page) (off : Nat) : Word := tgetD d.now.preSet (p.base + off) (d.reg p off)
def Dev.preAdd (d : Dev) (p : Page) (off : Nat) : Word := tgetD d.now.preAdd (p.base + off) (d.reg p off)

/-- Set one bit of a register. -/
def Dev.setBit (d : Dev) (p : Page) (off i : Nat) (b : Bool) : Dev :=
  (if b then d.noteSet p off i else d).setReg p off (wputBit (d.reg p off) i b)

/-- A 1 written to W1C bit `i`: it clears, but for a setting of this ao-cycle (00, R5). -/
def Dev.clearBit (d : Dev) (p : Page) (off i : Nat) : Dev :=
  if wbit (d.setsNow p off) i then d else d.setBit p off i false

/-- STATUS.STATE of a page. -/
def Dev.st (d : Dev) (p : Page) : Nat := d.getF p 0x0C 3 0

/-- OWNER of a page: a partition 0–23, or 0xFF (R35). -/
def Dev.owner (d : Dev) (p : Page) : Nat := d.getF p 0x24 7 0

/-- The partition that owns a page is SCRUBBING: the counters of the page do not count (16, R345). -/
def Dev.scrubbed (d : Dev) (p : Page) : Bool := d.owner p < 24 && d.st (pPtn (d.owner p)) = 0xC

/-- Add to a 32-bit counter, wrapping at 2^32 (the RCL counters). -/
def Dev.addCount (d : Dev) (p : Page) (off n : Nat) : Dev :=
  if d.scrubbed p then d else (d.noteAdd p off n).setReg p off (d.reg p off + BitVec.ofNat 32 n)

/-- Add to a counter field, saturating at its width. -/
def Dev.addSat (d : Dev) (p : Page) (off hi lo n : Nat) : Dev :=
  let v := min (2 ^ (hi + 1 - lo) - 1) (d.getF p off hi lo + n)
  if d.scrubbed p then d else (d.noteAdd p off (n * 2 ^ lo)).setF p off hi lo v

/-- An uncorrectable codeword of an SRAM is met and is no more (17, R368). -/
def Dev.sramMet (d : Dev) (e : SramErr) : Dev := { d with sram := d.sram.filter (· ≠ e) }

/-- The 64-bit value of a LO, HI register pair. -/
def Dev.pair (d : Dev) (p : Page) (lo hi : Nat) : Nat := (d.reg p lo).toNat + 2 ^ 32 * (d.reg p hi).toNat

/-- Set a LO, HI pair. -/
def Dev.setPair (d : Dev) (p : Page) (lo hi v : Nat) : Dev :=
  (d.setReg p lo (BitVec.ofNat 32 v)).setReg p hi (BitVec.ofNat 32 (v / 2 ^ 32))

/-- Put a whole page back to its reset words, header included. -/
def Dev.clearPage (d : Dev) (p : Page) : Dev :=
  { d with csr := tdelRange d.csr p.base (p.base + 0x1000), evSent := tdel d.evSent p.base }

/-! ### Free values -/

/-- Take the next free value. -/
def Dev.takeFree (d : Dev) : Nat × Dev := (Config.free d.freeNext, { d with freeNext := d.freeNext + 1 })

/-! ### Unit states (R28) -/

/-- Codes of STATUS.STATE. -/
abbrev stOff : Nat := 0x0
abbrev stReset : Nat := 0x1
abbrev stInit : Nat := 0x2
abbrev stReady : Nat := 0x3
abbrev stActive : Nat := 0x4
abbrev stQuiescing : Nat := 0x5
abbrev stQuiesced : Nat := 0x6
abbrev stTest : Nat := 0x7
abbrev stFaulted : Nat := 0x8
abbrev stRetired : Nat := 0x9

/-- CTRL.ENABLE and CTRL.QUIESCE. -/
def Dev.enabled (d : Dev) (p : Page) : Bool := d.bit p 0x08 0
def Dev.quiesce (d : Dev) (p : Page) : Bool := d.bit p 0x08 1

/-- A partition exists while PTN[p] reads OWNER p (R35). -/
def Dev.ptnExists (d : Dev) (p : Nat) : Bool := d.owner (pPtn p) = p && p < 24

/-! ### Events (R33, 14 R306) -/

/-- The destination of a page's events: the owning partition, or 255 for the device (R33). -/
def Dev.evDest (d : Dev) (p : Page) : Nat := d.owner p

/-- An event record joins those that wait for a destination. -/
def Dev.record (d : Dev) (dest kind : Nat) (payload : List Byte) : Dev :=
  { d with events := d.events ++ [⟨dest, d.ao, kind, payload⟩] }

/-- The payload of a PAGE_EVENT: the page's offset, its EVENT bits both set and enabled, FAULT_CODE, FAULT_INFO, STATUS (14, R306). -/
def Dev.pageEvent (d : Dev) (p : Page) : List Byte :=
  leBytes 4 p.base ++ leBytes 4 (d.reg p 0x10 &&& d.reg p 0x14).toNat ++ leBytes 4 (d.reg p 0x18).toNat
    ++ leBytes 4 (d.reg p 0x1C).toNat ++ leBytes 4 (d.reg p 0x0C).toNat

/-- EVENT bits for which the page has sent its message (R33). -/
def Dev.sentBits (d : Dev) (p : Page) : Word := tgetD d.evSent p.base 0

/-- Every EVENT bit that is set and enabled, and whose message has not been sent since it was set, sends one (R33). -/
def Dev.announce (d : Dev) (p : Page) : Dev :=
  let due := d.reg p 0x10 &&& d.reg p 0x14 &&& ~~~(d.sentBits p)
  if due = 0 then d
  else
    let d := (maskBits 32 due.toNat).foldl (fun d _ => d.record (d.evDest p) 0x0001 (d.pageEvent p)) d
    { d with evSent := tput d.evSent p.base (d.sentBits p ||| due) }

/-- Set EVENT bit `i` of a page, with its message (R33). -/
def Dev.setEvent (d : Dev) (p : Page) (i : Nat) : Dev := (d.setBit p 0x10 i true).announce p

/-- EVENT bits of the header (R28). -/
abbrev evFault : Nat := 0
abbrev evState : Nat := 1
abbrev evInvalid : Nat := 2
abbrev evDenied : Nat := 3

/-- STATUS.STATE becomes `v`; a change sets EVENT.STATE_CHANGE (R28). -/
def Dev.setSt (d : Dev) (p : Page) (v : Nat) : Dev :=
  if d.st p = v then d else (d.setF p 0x0C 3 0 v).setEvent p evState

/-! ### Fault recording (R32) -/

/-- Note a fault of this ao-cycle: the first of a page, and that more followed (00, R5). -/
def Dev.noteFault (d : Dev) (p : Page) (code info : Nat) : Dev :=
  let c := d.now
  { d with cyc := { c with faults := tput c.faults p.base (match tget? c.faults p.base with
    | some f => (f.1, f.2.1, true)
    | none => (code, info, false)) } }

/-- A fault of the unit of page `p`: loaded when EVENT.FAULT is clear, else FAULT_OVERFLOW is set (R32). -/
def Dev.fault (d : Dev) (p : Page) (code info : Nat) : Dev :=
  let d := d.noteFault p code info
  if d.bit p 0x10 evFault then (d.noteSet p 0x10 evFault).setBit p 0x0C 4 true
  else ((d.setReg p 0x18 (BitVec.ofNat 32 code)).setReg p 0x1C (BitVec.ofNat 32 info)).setEvent p evFault

/-- The device number of this device in its group: DEV_GROUP.DEVNUM (14, R312). -/
def Dev.devnum (d : Dev) : Nat := d.getF pDev 0x80 5 0

/-! ### Unit tables -/

/-- Cluster `n`. -/
def Dev.clu (d : Dev) (n : Nat) : Clu := tgetD d.clus n {}
def Dev.setClu (d : Dev) (n : Nat) (c : Clu) : Dev := { d with clus := tput d.clus n c }
def Dev.modClu (d : Dev) (n : Nat) (f : Clu → Clu) : Dev := d.setClu n (f (d.clu n))

/-- Tensor core `k` of cluster `n`. -/
def Dev.core (d : Dev) (n k : Nat) : Core := tgetD d.cores (32 * n + k) {}
def Dev.setCore (d : Dev) (n k : Nat) (c : Core) : Dev := { d with cores := tput d.cores (32 * n + k) c }
def Dev.modCore (d : Dev) (n k : Nat) (f : Core → Core) : Dev := d.setCore n k (f (d.core n k))

/-- Stack `s`. -/
def Dev.stk (d : Dev) (s : Nat) : Stk := tgetD d.stks s {}
def Dev.setStk (d : Dev) (s : Nat) (x : Stk) : Dev := { d with stks := tput d.stks s x }
def Dev.modStk (d : Dev) (s : Nat) (f : Stk → Stk) : Dev := d.setStk s (f (d.stk s))

/-- Compute DMA engine `e`. -/
def Dev.dma (d : Dev) (e : Nat) : Dmac := tgetD d.dmas e {}
def Dev.setDma (d : Dev) (e : Nat) (x : Dmac) : Dev := { d with dmas := tput d.dmas e x }
def Dev.modDma (d : Dev) (e : Nat) (f : Dmac → Dmac) : Dev := d.setDma e (f (d.dma e))

/-- A queue of a cluster, stack or engine. -/
def Clu.q (c : Clu) (i : Nat) : Gq := (c.qs[i]?).getD {}
def Stk.q (c : Stk) (i : Nat) : Mq := (c.qs[i]?).getD {}
def Dmac.q (c : Dmac) (i : Nat) : Dq := (c.qs[i]?).getD {}
def Dev.modGq (d : Dev) (n i : Nat) (f : Gq → Gq) : Dev := d.modClu n fun c => { c with qs := (List.range 8).map fun k => if k = i then f (c.q k) else c.q k }
def Dev.modMq (d : Dev) (s i : Nat) (f : Mq → Mq) : Dev := d.modStk s fun c => { c with qs := (List.range 8).map fun k => if k = i then f (c.q k) else c.q k }
def Dev.modDq (d : Dev) (e i : Nat) (f : Dq → Dq) : Dev := d.modDma e fun c => { c with qs := (List.range 2).map fun k => if k = i then f (c.q k) else c.q k }

/-- Apply an operation for every number of a list. -/
def Dev.each (d : Dev) (l : List Nat) (f : Dev → Nat → Dev) : Dev := l.foldl f d

/-- The answer of a control-space access: a value, not refused. -/
def Dev.answer (d : Dev) (v : Word) : Dev := { d with resp := v.setWidth 64, respRefused := false }

/-- The answer of a refused access: zero (R26). -/
def Dev.refuse (d : Dev) : Dev := { d with resp := 0, respRefused := true }

end Sys2Proof.Machine
end

