-- ==== Sys2Proof/Machine/Power0.lean ====
section
/-! DEFINITION. Power domains as every other block meets them (20, R428–R430): the domain of a page, its state, and a demand that wakes it. -/

namespace Sys2Proof.Machine

/-- The power domain of a page (R428). -/
def Page.domain (p : Page) : Nat :=
  match p.blk with
  | .clu => p.n / 10
  | .stk => 80 + p.n / 4
  | .link => 104 + p.n / 4
  | .hbr => 104
  | .svc => 108
  | .med => 109
  | .die | .srv | .smp | .dmac | .mmu => 110
  | _ => 111

/-- Domain states (R28): codes of PWR_STATE.STATE. -/
abbrev dsOn : Nat := 0
abbrev dsGated : Nat := 1
abbrev dsSelf : Nat := 2
abbrev dsWaking : Nat := 3
abbrev dsOff : Nat := 4

/-- Place of PWR_DOM[n] on the PWR page (R442). -/
abbrev rDom (n : Nat) : Nat := 0x100 + 4 * n

/-- State of domain `n`: PWR_DOM[n].STATE. -/
def Dev.dom (d : Dev) (n : Nat) : Nat := d.getF pPwr (rDom n) 6 4

/-- Set the state of domain `n`. -/
def Dev.setDom (d : Dev) (n v : Nat) : Dev := d.setF pPwr (rDom n) 6 4 v

/-- The domain of a page is ON. -/
def Dev.pageOn (d : Dev) (p : Page) : Bool := d.dom p.domain = dsOn

/-! ### An install under way (19, R412) -/

/-- Units that an install of a kind swaps. -/
def instUnits (k : Nat) : Nat :=
  if k = 3 || k = 9 then 1 else if k = 4 then 16 else if k = 5 then 4 else if k = 6 then 800 else if k = 7 then 24 else if k = 8 then 16 else 0

/-- The page of unit `n` of a kind. -/
def instPage (k n : Nat) : Page :=
  if k = 4 then pSvc n else if k = 5 then pMed else if k = 6 then pClu n else if k = 7 then pStk n 0 else if k = 8 then pLink n else pThm

/-- The install passes a unit over: its domain is off, it is retired, or it is in a reset and loads the cache at INIT (R412, R414). -/
def Dev.instSkips (d : Dev) (k n : Nat) : Bool :=
  let p := instPage k n
  d.dom p.domain = dsOff || d.st p = stInit || d.st p = stReset || d.st p = stRetired || d.st p = stOff

/-- The next unit from `n` that the install does not pass over. -/
def Dev.instNext (d : Dev) (k n : Nat) : Option Nat := (List.range (instUnits k - n)).map (· + n) |>.find? fun m => !d.instSkips k m

/-- The unit that an install of kind `k` is swapping: swaps follow one another, each ends with INSTALL_UNIT_SWAP. -/
def Dev.instAt (d : Dev) (k : Nat) : Option Nat := d.boot.inst.bind fun i => if i.kind = k then d.instNext k i.next else none

/-- No step of a partition is in flight, and the next release of its batches is at least `n` ao-cycles away. -/
def Dev.farRelease (d : Dev) (o n : Nat) : Bool :=
  24 ≤ o || ((tgetD d.ptnx o {}).step.isNone &&
    d.batches.all fun b => b.2.ptn ≠ o || d.ao + n ≤ max b.2.ready (b.2.opened + b.2.k * b.2.period))

/-- When a unit of a kind is swapped. -/
def Dev.instDue (d : Dev) (k n : Nat) : Bool :=
  if k = 6 then d.farRelease (d.owner (pClu n)) 25000 else if k = 7 then d.farRelease (d.owner (pStk n 0)) 2000 else true

/-- A gaffer, or the queues of a marver, start nothing while the unit is being swapped (04, R84). -/
def Dev.instHolds (d : Dev) (u : UnitKey) : Bool :=
  if u < 0x2000 then d.instAt 6 = some u && d.instDue 6 u
  else u < 0x4000 && d.instAt 7 = some (u - 0x2000) && d.instDue 7 (u - 0x2000)

/-- The media core of stream `k` is being swapped: input frames are held and no output is sent. -/
def Dev.mediaHeld (d : Dev) (k : Nat) : Bool := d.instAt 5 = some (k / 256)

/-! ### Service SRAM (15, R315) -/

/-- The cores of partition `p`. -/
def Dev.ownCores (d : Dev) (p : Nat) : List Nat := below 16 fun n => 4 ≤ n && d.owner (pSvc n) = p

/-- Firmware runs in the device-core region, or, for a service of R314 that has them, in the slices of the partition's cores. -/
def Dev.svcRuns (d : Dev) (p : Nat) (own : Bool) : Dev :=
  let l := if own then d.ownCores p else []
  { d with svcUsed := (if l.isEmpty then [0] else l).foldl addSet d.svcUsed }

/-- A slice is zeroed when its core's OWNER changes. -/
def Dev.svcZero (d : Dev) (g : Page) : Dev := if g.blk = .svc then { d with svcUsed := delSet d.svcUsed g.n, sram := d.sram.filter (· ≠ .service g.n) } else d

/-- Byte `off` of service SRAM outside the image cache: zero until firmware has run in its region; then no rule says what it holds. -/
def Dev.svcByte (d : Dev) (off : Nat) : Byte :=
  let k := if off < 0x2000000 then 0 else 4 + (off - 0x2000000) / 0x200000
  if d.svcUsed.contains k then Config.svcByte d.ao off else 0

/-- The clock of a PLL runs (R432): one that has lost lock has stopped. -/
def Dev.clockOn (d : Dev) (k : Nat) : Bool := !d.pwr.unlocked.contains k

/-- Compute domains that are WAKING. -/
def Dev.wakingCompute (d : Dev) : Nat := (below 80 fun n => d.dom n = dsWaking).length

/-- Start to wake domain `n` now: WAKING, counted in PWR_WAKES (R442). -/
def Dev.startWake (d : Dev) (n : Nat) : Dev :=
  let d := (d.setDom n dsWaking).addCount pPwr 0x54 1
  { d with pwr := { d.pwr with wakeAt := tput d.pwr.wakeAt n d.ao, waits := d.pwr.waits.filter fun w => w.2 ≠ n } }

/-- A wake request waits (R429). -/
def Dev.waitWake (d : Dev) (n : Nat) : Dev :=
  if d.pwr.waits.any fun w => w.2 = n then d
  else { d with pwr := { d.pwr with waits := d.pwr.waits ++ [(d.ao, n)] } }

/-- REQ = OFF holds the demands on a domain until REQ leaves OFF (R442). -/
def Dev.reqOff (d : Dev) (n : Nat) : Bool := d.getF pPwr (rDom n) 1 0 = 2

/-- A demand on a stack in self-refresh (07, R124): it leaves self-refresh by itself, once PD110 is ON (R429). -/
def Dev.stkDemand (d : Dev) (s : Nat) : Dev :=
  let d := if d.dom 110 = dsOn || d.dom 110 = dsWaking then d else d.startWake 110
  let d := d.modStk s fun x => { x with demand := true }
  if (tget? d.pwr.wakeAt (80 + s)).isSome then d else { d with pwr := { d.pwr with wakeAt := tput d.pwr.wakeAt (80 + s) d.ao } }

/-- A wake is refused while a lehr stop has begun (18, R390). -/
def Dev.lehr (d : Dev) : Nat := d.getF pThm 0x44 1 0

/-- Wake domain `n` (R429): a domain that is ON or WAKING is not touched; otherwise its wake starts, or waits for PD110, for a place among the eight compute wakes, or for REQ. -/
def Dev.wakeDom (d : Dev) (n : Nat) : Dev :=
  if d.dom n = dsOn || d.dom n = dsWaking then d
  else if d.dom n = dsSelf then d.stkDemand (n - 80)
  else if d.reqOff n then d.waitWake n
  else if n ≠ 110 && n < 110 && n ≠ 108 && d.dom 110 ≠ dsOn then
    let d := if d.dom 110 = dsWaking then d else d.startWake 110
    (d.waitWake n).addCount pPwr 0x5C 1
  else if n < 80 && 8 ≤ d.wakingCompute then (d.waitWake n).addCount pPwr 0x5C 1
  else d.startWake n

/-- PWR_DEV_STATUS.STATE: 0 ACTIVE, 1 IDLE, 2 NAP, 3 DEEP, 4 ENTERING, 5 WAKING. -/
def Dev.devPower (d : Dev) : Nat := d.getF pPwr 0x44 2 0

/-- An analogue trip is latched: THM_TRIP.VALID (18, R392). -/
def Dev.tripped (d : Dev) : Bool := d.bit pThm 0x5C 5

/-- Demands have no effect: after an analogue trip; on a domain whose clock IDLE has gated, which runs again when the device is ACTIVE; in NAP, in DEEP and on the way there, what waits in the device stands still (R434–R436); a lehr stop refuses the wakes of compute domains and stacks (18, R390). -/
def Dev.noDemand (d : Dev) (n : Nat) : Bool :=
  (2 ≤ d.devPower && d.devPower ≤ 4) || (d.lehr ≠ 0 && n < 104) || d.tripped || d.dom n = dsGated

/-- A demand on domain `n` (R430). -/
def Dev.demand (d : Dev) (n : Nat) : Dev := if d.noDemand n then d else d.wakeDom n

/-! ### Device power states (R434–R437) -/

/-- The device performs work: ACTIVE, or on the way to a low state that its work has not reached. -/
def Dev.awake (d : Dev) : Bool := d.devPower = 0

/-- The wake from a low state starts (R436): STATE reads WAKING; what the state had powered off is powered. -/
def Dev.startDevWake (d : Dev) (low : Nat) : Dev :=
  let d := { d.setF pPwr 0x44 2 0 5 with pwr := { d.pwr with low := low } }
  if low = 1 then d
  else
    let d := if low = 2 then d.setDom 110 dsOn else (d.wakeDom 110).wakeDom 108
    d.each [104, 105, 106, 107] fun d n => d.wakeDom n

/-- A wake cause (R436, R437): in a low state the wake starts; during an entry the entry ends at the end of its current step. -/
def Dev.wakeCause (d : Dev) : Dev :=
  let st := d.devPower
  if d.tripped then d
  else if 1 ≤ st && st ≤ 3 then d.startDevWake st
  else if st = 4 then { d with pwr := { d.pwr with abandon := true } }
  else d

/-- A control-space write or access that ends IDLE (R436). -/
def Dev.endIdle (d : Dev) : Dev := if d.devPower = 1 then d.wakeCause else d

end Sys2Proof.Machine
end

