-- ==== Sys2Proof/Machine/Link0.lean ====
section
/-! DEFINITION. The sending side of the Treltan links as every engine uses it (14, R285–R293): header fields, routes, the operations that wait for a route or for the replay buffer, what DONE_SEQ covers. -/

namespace Sys2Proof.Machine

/-! ### The header (R285) -/

/-- A header from its fields: lowest bit and value. -/
def hdrOf (l : List (Nat × Nat)) : BitVec 512 := BitVec.ofNat 512 (l.foldl (fun a f => a + f.2 * 2 ^ f.1) 1)

def Frame.num (f : Frame) : Nat := f.hdr.toNat
def Frame.ver (f : Frame) : Nat := fld f.num 3 0
def Frame.typ (f : Frame) : Nat := fld f.num 7 4
def Frame.src (f : Frame) : Nat := fld f.num 13 8
def Frame.dst (f : Frame) : Nat := fld f.num 21 16
def Frame.op (f : Frame) : Nat := fld f.num 31 24
def Frame.seq (f : Frame) : Nat := fld f.num 63 32
def Frame.ackSeq (f : Frame) : Nat := fld f.num 95 64
def Frame.doneSeq (f : Frame) : Nat := fld f.num 127 96
def Frame.addr (f : Frame) : Nat := fld f.num 171 128
def Frame.len (f : Frame) : Nat := fld f.num 185 172
def Frame.scope (f : Frame) : Nat := fld f.num 188 186
def Frame.ret (f : Frame) : Bool := bitOf f.num 189
def Frame.last (f : Frame) : Bool := bitOf f.num 190
def Frame.job (f : Frame) : Nat := fld f.num 203 192
def Frame.domain (f : Frame) : Nat := fld f.num 211 204
def Frame.ptn (f : Frame) : Nat := fld f.num 216 212
/-- The PVA of a relay operation. -/
def Frame.pva (f : Frame) : Nat := f.addr + fld f.num 220 217 * 2 ^ 44
def Frame.tag (f : Frame) : Nat := fld f.num 255 224
def Frame.off (f : Frame) : Nat := fld f.num 276 256
def Frame.cls (f : Frame) : Nat := fld f.num 287 280
def Frame.aop (f : Frame) : Nat := fld f.num 290 288
def Frame.lanes (f : Frame) : Nat := fld f.num 298 291
def Frame.code (f : Frame) : Nat := fld f.num 319 304
def Frame.total (f : Frame) : Nat := fld f.num 356 336
/-- Payload burst `i` carries a poison mark. -/
def Frame.poison (f : Frame) (i : Nat) : Bool := bitOf f.num (384 + i)

/-- Operation codes (R288). -/
abbrev opWrite : Nat := 0x01
abbrev opRead : Nat := 0x02
abbrev opReadResp : Nat := 0x03
abbrev opAtomic : Nat := 0x04
abbrev opAtomicResp : Nat := 0x05
abbrev opFlagAdd : Nat := 0x06
abbrev opMsg : Nat := 0x07
abbrev opRefuse : Nat := 0x08
abbrev opPvaWrite : Nat := 0x09
abbrev opPvaRead : Nat := 0x0A

/-- SRC_JOB of the serving engine, the intake and the bridge; DOMAIN of the operator role. -/
abbrev noJob : Nat := 0xFFF
abbrev opDomain : Nat := 0xFF

/-- A DATA frame of this device; SEQ, ACK_SEQ and DONE_SEQ are filled in when it is sent. -/
def Dev.dataFrame (d : Dev) (peer op job domain : Nat) (fields : List (Nat × Nat)) (data : List Byte) : Frame :=
  ⟨hdrOf ([(8, d.devnum), (16, peer), (24, op), (192, job), (204, domain)] ++ fields), data⟩

/-! ### Ports and paths (R286) -/

/-- Port `n` and path `k` = 64 × port + peer. -/
def Dev.port (d : Dev) (n : Nat) : Port := tgetD d.ports n {}
def Dev.modPort (d : Dev) (n : Nat) (f : Port → Port) : Dev := { d with ports := tput d.ports n (f (d.port n)) }
def Dev.path (d : Dev) (k : Nat) : Path := tgetD d.paths k {}
def Dev.setPath (d : Dev) (k : Nat) (p : Path) : Dev := { d with paths := tput d.paths k p }
def Dev.modPath (d : Dev) (k : Nat) (f : Path → Path) : Dev := d.setPath k (f (d.path k))
abbrev pathKey (port peer : Nat) : Nat := 64 * port + peer

/-- The path is open: DEV_PATH[peer].OPEN (R312). -/
def Dev.pathOpen (d : Dev) (k : Nat) : Bool := d.bit pDev (0x300 + 4 * (k % 64)) (k / 64)

/-- The port carries frames. -/
def Dev.portUp (d : Dev) (n : Nat) : Bool := d.pageOn (pLink n) && d.clockOn (104 + n / 4) && d.st (pLink n) = stActive

/-- A 32-bit sequence number `a` stands before `b` (R286; the order of wrapped numbers is the shorter way round). -/
def seqBefore (a b : Nat) : Bool := let x := (b + 2 ^ 32 - a % 2 ^ 32) % 2 ^ 32; 0 < x && x < 2 ^ 31

/-- Next 32-bit number. -/
def seqNext (a : Nat) : Nat := (a + 1) % 2 ^ 32

/-- What this device has performed of a peer's frames: the lowest accepted frame not yet performed, or the next expected (R285, R293). -/
def Dev.doneOf (d : Dev) (k : Nat) : Nat :=
  match d.inOps.find? fun o => o.path = k with
  | some o => o.seq
  | none => (d.path k).expect

/-- Take a number for a frame. -/
def Dev.takeId (d : Dev) : Nat × Dev := (d.nextId, { d with nextId := d.nextId + 1 })

/-- Take a response tag: 1 to 2^32 − 1, so that TAG 0, the TAG of a frame that uses none, names no request. -/
def Dev.takeTag (d : Dev) : Nat × Dev :=
  let t := d.nextTag % (2 ^ 32 - 1) + 1
  (t, { d with nextTag := t })

/-- A frame is held for replay, or gone beyond it: it waits neither for a route nor for the buffer (R256). -/
def Dev.isHeld (d : Dev) (id : Nat) : Bool :=
  !(d.heldOps.any fun o => o.id = id) && !(d.ports.any fun p => p.2.waiting.any fun w => w.id = id)

/-- The path of the relays that the bridge performs on its own device: they are performed as if they had arrived as frames (R291, R298); `seq` of such an entry is its number. -/
abbrev localPath : Nat := 4096

/-- DONE_SEQ covers a frame, or its path has gone down (R293). -/
def Dev.isDone (d : Dev) (id : Nat) : Bool :=
  d.isHeld id && !(d.paths.any fun p => p.2.openIds.any fun o => o.1 = id) && !(d.sigWaits.any fun w => w.op.id = id)
    && !(d.inOps.any fun o => o.path = localPath && o.seq = id)

/-! ### Routes (R290) -/

/-- STATUS.STATE codes of a LINK page (R282). -/
abbrev lsTraining : Nat := 0xA
abbrev lsDown : Nat := 0xB

/-- The ports by which a peer can be reached: DEV_ROUTE[d].PORTS ∩ DEV_PATH[d].OPEN (R312); while a port retrains, its traffic takes the others of them (R282). -/
def Dev.routeSet (d : Dev) (peer : Nat) : Nat :=
  let set := d.getF pDev (0x104 + 8 * peer) 31 16 &&& d.getF pDev (0x300 + 4 * peer) 15 0
  let up := maskOf ((maskBits 16 set).filter fun n => d.st (pLink n) ≠ lsTraining)
  if up = 0 then set else up

/-- A frame to the peer is outstanding on some path. -/
def Dev.routeBusy (d : Dev) (peer : Nat) : Bool :=
  (d.ports.any fun p => p.2.waiting.any fun w => w.peer = peer) ||
  (d.paths.any fun p => p.1 % 64 = peer && !p.2.openIds.isEmpty)

/-- Entry `i` of the set, counted modulo its size. -/
def pickPort (set sel : Nat) : Option Nat :=
  let l := maskBits 16 set
  l[sel % l.length]?

/-- A frame joins those that wait for a port's replay buffer. -/
def Dev.enqueue (d : Dev) (port peer id : Nat) (f : Frame) : Dev :=
  d.modPort port fun p => { p with waiting := p.waiting ++ [⟨id, peer, f⟩] }

/-- Route an operation over the mapping in force. -/
def Dev.routeOp (d : Dev) (o : HeldOp) : Dev :=
  match pickPort (tgetD d.routes o.peer 0) o.sel with
  | none => { d with heldOps := d.heldOps ++ [o] }
  | some port =>
    let d := match o.req with
      | some r => { d with reqs := d.reqs ++ [{ r with path := pathKey port o.peer }] }
      | none => d
    d.enqueue port o.peer o.id o.frame

/-- Send an operation: it is held while operations to the peer are held, while the peer has no route, and after a change of the route set while frames of the old set are outstanding. -/
def Dev.sendOp (d : Dev) (o : HeldOp) : Dev :=
  let set := d.routeSet o.peer
  if (d.heldOps.any fun h => h.peer = o.peer) || set = 0 || (set ≠ tgetD d.routes o.peer 0 && d.routeBusy o.peer)
  then { d with heldOps := d.heldOps ++ [o] }
  else Dev.routeOp { d with routes := tput d.routes o.peer set } o

/-- The port selector of a memory operation: ADDR[43:12]. -/
def addrSel (a : Nat) : Nat := a / 4096 % 2 ^ 32

/-- POISON bits of a payload: bit i for bytes 64 i to 64 i + 63. -/
def poisonMask (marks : List Bool) : Nat := maskOf ((List.range marks.length).filter fun i => (marks[i]?).getD false)

/-! ### Memory operations toward another device -/

/-- The link domain of a partition (R291, R313). -/
def Dev.linkDomain (d : Dev) (p : Nat) : Nat := d.getF (pPtn p) 0x440 7 0

/-- Send one WRITE that lies within 4 KiB; answers the frame's number. -/
def Dev.sendWrite1 (d : Dev) (peer job domain a : Nat) (bs : List Byte) (marks : List Bool) : Nat × Dev :=
  let (id, d) := d.takeId
  let f := d.dataFrame peer opWrite job domain [(128, a % 2 ^ 44), (172, bs.length), (384, poisonMask marks)] bs
  (id, d.sendOp ⟨id, peer, addrSel a, f, none⟩)

/-- Send a write as WRITE frames none of which crosses 4 KiB (R288). `marks` are those of the 64-byte pieces of the bytes. -/
def Dev.sendWrite : Nat → Dev → Nat → Nat → Nat → Nat → List Byte → Bool → List Nat × Dev
  | 0, d, _, _, _, _, _, _ => ([], d)
  | f + 1, d, peer, job, domain, a, bs, marked =>
    if bs.isEmpty then ([], d)
    else
      let k := min bs.length (4096 - a % 4096)
      let (id, d) := d.sendWrite1 peer job domain a (bs.take k) (List.replicate (ceilDiv k 64) marked)
      let (l, d) := Dev.sendWrite f d peer job domain (a + k) (bs.drop k) marked
      (id :: l, d)

/-- Send a READ of up to 8,192 bytes; answers the tag. -/
def Dev.sendRead (d : Dev) (peer job domain a n : Nat) (what : ReqFor) : Nat × Dev :=
  let (id, d) := d.takeId
  let (tag, d) := d.takeTag
  let f := d.dataFrame peer opRead job domain [(128, a % 2 ^ 44), (172, n), (224, tag)] []
  (tag, d.sendOp ⟨id, peer, addrSel a, f, some ⟨tag, job, 0, n, 0, what⟩⟩)

/-- Send an ATOMIC; answers the tag when its old word is wanted, and the frame's number. -/
def Dev.sendAtomic (d : Dev) (peer job domain a aop lanes scope : Nat) (operand : List Byte) (ret : Option ReqFor) :
    Option Nat × Nat × Dev :=
  let (id, d) := d.takeId
  let (tag, d) := d.takeTag
  let f := d.dataFrame peer opAtomic job domain
    [(128, a % 2 ^ 44), (172, 32), (186, scope), (189, if ret.isSome then 1 else 0), (224, tag), (288, aop), (291, lanes)]
    (bytesAt operand 0 32)
  (if ret.isSome then some tag else none, id,
   d.sendOp ⟨id, peer, addrSel a, f, ret.map fun w => ⟨tag, job, 0, 32, 0, w⟩⟩)

/-- DPA of the flag-add register of a target: cluster page 0x44, marver page 0x44 (04, R82; 07, R146). -/
def flagReg (stack : Bool) (target : Nat) : Nat :=
  0xF0000000000 + (if stack then (pStk target 1).base else (pClu target).base) + 0x44

/-- A FLAG_ADD frame as an operation. -/
def Dev.flagOp (d : Dev) (peer job domain : Nat) (stack : Bool) (target flag amount : Nat) : HeldOp × Dev :=
  let (id, d) := d.takeId
  let f := d.dataFrame peer opFlagAdd job domain [(128, flagReg stack target), (172, 4)] (leBytes 4 (flag % 64 + amount % 65536 * 65536))
  (⟨id, peer, 0, f, none⟩, d)

/-- Send a FLAG_ADD once DONE_SEQ covers the listed frames (R293). -/
def Dev.sendFlagAfter (d : Dev) (ids : List Nat) (o : HeldOp) : Dev :=
  let left := ids.filter fun i => !d.isDone i
  if left.isEmpty then d.sendOp o else { d with sigWaits := d.sigWaits ++ [⟨left, o⟩] }

/-- Record an output. -/
def Dev.out (d : Dev) (o : Sent) : Dev := { d with sent := o :: d.sent }

end Sys2Proof.Machine
end

