-- ==== Sys2Proof/Machine/Mem.lean ====
section
/-! DEFINITION. Memory by device physical address (01, R17; 05, R85–R94; 07, R120–R126; 12, R240–R251; 17, R355–R378): the map, sealing, poison marks, remapped granules, the secure region, die-cache lines, atomics. -/

namespace Sys2Proof.Machine

/-- What a DPA names (01, R17). -/
inductive Loc where
  | stack (s off : Nat)
  | buf (n off : Nat)
  | ctl (off : Nat)
  | none
deriving DecidableEq, Repr

/-- The DPA map (01, R17, R18). -/
def loc (a : Nat) : Loc :=
  if a < 0x30000000000 then .stack (a / 2 ^ 37) (a % 2 ^ 37)
  else if 0x80000000000 ≤ a ∧ a < 0x80032000000 then
    .buf ((a - 0x80000000000) / 2 ^ 20) ((a - 0x80000000000) % 2 ^ 20)
  else if 0xF0000000000 ≤ a ∧ a < 0xF0004000000 then .ctl (a - 0xF0000000000)
  else .none

/-- First DPA of a cluster buffer (01, R17). -/
def bufBase (n : Nat) : Nat := 0x80000000000 + n * 2 ^ 20

/-- First DPA of a stack (01, R17). -/
def stkBase (s : Nat) : Nat := s * 2 ^ 37

/-- Granule, channel, burst index of a stack offset (07, R120; 17, R358). -/
def granuleOf (off : Nat) : Nat := off / 2 ^ 21
def chanOf (off : Nat) : Nat := off / 2 ^ 21 % 32
def burstQ (off : Nat) : Nat := off / 2 ^ 26 * 32768 + off / 64 % 32768
/-- The stack offset of burst `q` of channel `c`. -/
def burstOff (c q : Nat) : Nat := q / 32768 * 2 ^ 26 + c * 2 ^ 21 + q % 32768 * 64

/-- Who makes an access: the partition and job it acts for, and whether it may see plaintext of that partition (07, R126: marver engine, compute DMA, copier). -/
structure Agent where
  ptn : Option Nat := none
  job : Option Nat := none
  plain : Bool := false
deriving DecidableEq, Repr

/-- The owner of the memory at a DPA: owner of the stack or cluster (02, R35); 0xFF elsewhere. -/
def Dev.memOwner (d : Dev) (a : Nat) : Nat :=
  match loc a with
  | .stack s _ => d.owner (pStk s 0)
  | .buf n _ => d.owner (pClu n)
  | _ => 0xFF

/-- The power domain that must be ON for an access. -/
def memDomain (a : Nat) : Nat :=
  match loc a with
  | .stack s _ => 80 + s
  | .buf n _ => n / 10
  | _ => 111

/-- Where the bytes of a DPA are held: the remap table of a stack redirects a migrated granule (17, R372). -/
def Dev.home (d : Dev) (a : Nat) : Nat :=
  match loc a with
  | .stack s off =>
    match tget? (d.stk s).remap (granuleOf off) with
    | some g => stkBase s + g * 2 ^ 21 + off % 2 ^ 21
    | none => a
  | _ => a

/-- The DPA whose bytes are held at a place of a stack: the one that the remap table redirects there, else its own unless that is redirected away (R372). -/
def Dev.dpaAt (d : Dev) (a : Nat) : Option Nat :=
  match loc a with
  | .stack s off =>
    match (d.stk s).remap.find? fun e => e.2 = granuleOf off with
    | some e => some (stkBase s + e.1 * 2 ^ 21 + off % 2 ^ 21)
    | none => if (tget? (d.stk s).remap (granuleOf off)).isSome then none else some a
  | _ => some a

/-- The memory answers at once: its domain is ON and no march holds the buffer's shared port (05, R97; 07, R124; 20, R430). -/
def Dev.memReady (d : Dev) (a : Nat) : Bool :=
  d.dom (memDomain a) = dsOn &&
    (match loc (d.home a) with
     | .buf n _ => (d.clu n).march.isNone
     | .stack s off =>
       -- a granule under copy and a row or bank under repair hold the accesses that reach them (17, R363, R372)
       !((d.stk s).moving.any fun m => m.from_ = granuleOf off) &&
       !((d.stk s).repairs.any fun r => r.chan = chanOf off &&
          (if r.column then burstQ off / 32 % 16 = r.num else burstQ off / 32 = r.num))
     | _ => true)

/-- A demand on the domain of a DPA that is not ON (07, R124; 20, R430); a stack's REQ = SELF_REFRESH returns to AUTO (20, R442). -/
def Dev.memDemand (d : Dev) (a : Nat) : Dev :=
  match loc a with
  | .stack s _ =>
    if d.dom (80 + s) ≠ dsSelf || d.noDemand (80 + s) then d
    else if d.getF pPwr (rDom (80 + s)) 1 0 = 3 then (d.stkDemand s).setF pPwr (rDom (80 + s)) 1 0 0
    else d.stkDemand s
  | .buf n _ => d.demand (n / 10)
  | _ => d

/-! ### Raw bytes -/

/-- The canonical form of memory: addresses strictly rising, no zero byte listed. -/
abbrev Memory.wf (m : Tbl Byte) : Prop := Tbl.Canon (fun _ => (0 : Byte)) m

/-- One byte of memory as stored (ciphertext in a sealed granule). -/
def Dev.rawByte (d : Dev) (a : Nat) : Byte := tgetD d.mem (d.home a) 0

/-- Store one byte; zero is not listed. -/
def Dev.setRawByte (d : Dev) (a : Nat) (b : Byte) : Dev := { d with mem := tset d.mem (d.home a) b 0 }

/-- Bytes as stored. -/
def Dev.rawBytes (d : Dev) (a n : Nat) : List Byte := (List.range n).map fun i => d.rawByte (a + i)

/-- Store bytes. -/
def Dev.setRawBytes : Dev → Nat → List Byte → Dev
  | d, _, [] => d
  | d, a, b :: t => Dev.setRawBytes (d.setRawByte a b) (a + 1) t

/-- Zero every byte of a range, with its marks and error patterns. -/
def Dev.zeroRange (d : Dev) (a n : Nat) : Dev :=
  { d with
    mem := tdelRange d.mem a (a + n)
    marks := d.marks.filter fun m => ¬ (a ≤ m ∧ m < a + n)
    torn := d.torn.filter fun t => ¬ (a ≤ t.1 ∧ t.1 < a + n)
    errs := tdelRange d.errs a (a + n)
    injected := d.injected.filter fun m => ¬ (a ≤ m ∧ m < a + n) }

/-! ### Indivisible units (12, R244, R245) -/

/-- The indivisible units of the memory at a DPA are small: its partition is in INIT, TEST or RECOVER (code 0xB), or the device is in INIT (R245). -/
def Dev.weak (d : Dev) (a : Nat) : Bool :=
  let o := d.memOwner a
  d.st pDev = stInit || (o < 24 && (d.st (pPtn o) = stInit || d.st (pPtn o) = stTest || d.st (pPtn o) = 0xB))

/-- An aligned 8-byte codeword of a buffer, an aligned 32-byte half-burst of a stack (R245). -/
def partSize (a : Nat) : Nat :=
  match loc a with
  | .buf _ _ => 8
  | _ => 32

/-- Bytes from `a` cut at the multiples of `k`. -/
def piecesOf (k a : Nat) (bs : List Byte) : List (Nat × List Byte) :=
  (List.range ((a + bs.length + k - 1) / k - a / k)).map fun i =>
    let lo := max a ((a / k + i) * k)
    (lo, (bs.drop (lo - a)).take ((a / k + i + 1) * k - lo))

/-- The parts that are still to land, of the units that `p` names, land. -/
def Dev.landTorn (d : Dev) (p : Nat → Bool) : Dev :=
  if d.torn.isEmpty then d
  else
    (d.torn.filter fun t => p t.1).foldl (fun d t => d.setRawBytes t.1 t.2) { d with torn := d.torn.filter fun t => !p t.1 }

/-- Bytes within one unit of `u` bytes reach it: whole, or, where units are small and nothing keeps the unit whole, in its parts, of which some, a free choice, land at once and the others at the end of the ao-cycle at the latest (R245). -/
def Dev.putUnit (d : Dev) (u : Nat) (whole : Bool) (a : Nat) (bs : List Byte) : Dev :=
  let d := d.landTorn fun t => t / u = a / u
  let ps := piecesOf (partSize a) a bs
  if whole || ps.length < 2 || !d.weak a then d.setRawBytes a bs
  else
    let (x, d) := d.takeFree
    (ps.zipIdx).foldl (fun d e => if bitOf x e.2 then d.setRawBytes e.1.1 e.1.2 else { d with torn := d.torn ++ [e.1] }) d

/-! ### Poison marks (17, R357, R365) -/

/-- The size of a marked unit: a 64-byte burst, or an 8-byte codeword of a buffer. -/
def unitSize (a : Nat) : Nat :=
  match loc a with
  | .buf _ _ => 8
  | _ => 64

/-- First DPA of the unit holding a DPA. -/
def unitBase (a : Nat) : Nat := a / unitSize a * unitSize a

/-- A stack granule that found no reserve granule is lost: its reads deliver marked data (17, R373). -/
def Dev.lostAt (d : Dev) (a : Nat) : Bool :=
  match loc a with
  | .stack s off => (d.stk s).lost.contains (granuleOf off)
  | _ => false

/-- The units that a range touches. -/
def unitsOf (a n : Nat) : List Nat :=
  if n = 0 then [] else
  let u := unitSize a
  (List.range ((a + n - 1) / u + 1 - a / u)).map fun i => (a / u + i) * u

/-- Some unit of the range is marked. -/
def Dev.markedAt (d : Dev) (a n : Nat) : Bool :=
  (unitsOf a n).any fun u => d.marks.contains u || d.lostAt u

/-- The first marked unit of a range. -/
def Dev.firstMark (d : Dev) (a n : Nat) : Nat :=
  ((unitsOf a n).find? fun u => d.marks.contains u || d.lostAt u).getD a

/-- Marks after a write of `n` bytes at `a`: a unit written whole takes the writer's mark, a unit written in part keeps its own and takes the writer's (R365, R366). -/
def Dev.markWrite (d : Dev) (a n : Nat) (marked : Bool) : Dev :=
  let us := unitsOf a n
  let whole := us.filter fun u => a ≤ u && u + unitSize a ≤ a + n
  let kept := d.marks.filter fun m => !whole.contains m
  { d with marks := if marked then us.foldl addSet kept else kept }

/-- Mark one unit. -/
def Dev.mark (d : Dev) (u : Nat) : Dev := { d with marks := addSet d.marks u }

/-! ### Error injection (17, R378) -/

/-- Store the error pattern of an armed flip mask with the unit it names, and disarm: `p`, `off` is the flip register, bit `ib` its INJECTED bit. Another injected unit of the mask is no longer counted as injected. -/
def Dev.inject (d : Dev) (u : Nat) (bits : List Nat) : Dev :=
  { d with errs := tset d.errs u bits [], injected := addSet d.injected u }

/-- Bits that a flip register selects: bit numbers at [hiA:0] and [hiB:loB], with their enables. -/
def flipBits (w : Word) (wd : Nat) : List Nat :=
  (if wbit w wd then [wfld w (wd - 1) 0] else []) ++
  (if wbit w (2 * wd + 1) then (if wbit w wd && wfld w (wd - 1) 0 = wfld w (2 * wd) (wd + 1) then [] else [wfld w (2 * wd) (wd + 1)]) else [])

/-- A write has reached unit `u`: an armed flip mask that names it acts (FLIP_APPLY). A burst is named where the remap table holds it. -/
def Dev.flipApply (d : Dev) (u : Nat) : Dev :=
  match loc (d.home u) with
  | .stack s off =>
    let p := pStk s 2
    let c := chanOf off
    let w := d.reg p (0x104 + 8 * c)
    if wbit w 22 && d.getF p (0x100 + 8 * c) 25 0 = burstQ off then
      -- the two bits cancel when they are the same bit; the mask then injects nothing
      (d.setReg p (0x104 + 8 * c) (wputBit (wputBit w 22 false) 23 true)).inject u (flipBits w 10)
    else d
  | .buf n off =>
    let p := pClu n
    let w := d.reg p 0x498
    if wbit w 20 && d.getF p 0x494 14 0 = off / 32 then
      (d.setReg p 0x498 (wputBit (wputBit w 20 false) 21 true)).inject (u / 32 * 32) (flipBits w 9)
    else d
  | _ => d

/-- The injection units of a range: bursts of a stack, 32-byte words of a buffer. -/
def flipUnits (a n : Nat) : List Nat :=
  if n = 0 then [] else
  let u := match loc a with | .buf _ _ => 32 | _ => 64
  (List.range ((a + n - 1) / u + 1 - a / u)).map fun i => (a / u + i) * u

/-- The error pattern of a unit is gone: its INJECTED bit clears where a flip register names it. -/
def Dev.dropErr (d : Dev) (u : Nat) : Dev :=
  let d := { d with errs := tdel d.errs u, injected := d.injected.filter (· ≠ u) }
  match loc (d.home u) with
  | .stack s off =>
    let c := chanOf off
    if d.getF (pStk s 2) (0x100 + 8 * c) 25 0 = burstQ off then d.setBit (pStk s 2) (0x104 + 8 * c) 23 false else d
  | .buf n off => if d.getF (pClu n) 0x494 14 0 = off / 32 then d.setBit (pClu n) 0x498 21 false else d
  | _ => d

/-- Codeword of a bit of a 288-bit buffer word (R356). -/
def codewordOf (b : Nat) : Nat := if b < 256 then b / 64 else (b - 256) / 8

/-- A read meets the error pattern of a unit: a correctable one is corrected and written back, an uncorrectable one leaves the unit poisoned; errors of an injected unit are counted in the INJECTED counter, other errors in the error counters (R355–R359, R368, R378). -/
def Dev.noteErr (d : Dev) (u : Nat) : Dev :=
  let bits := tgetD d.errs u []
  let inj := d.injected.contains u
  match loc u with
  | .stack s _ =>
    let sym := (bits.map (· / 16)).eraseDups.length
    let d := d.dropErr u
    if sym = 0 then d
    else if sym = 1 then d.addCount (pStk s 2) (if inj then 0x60 else 0x4C) 1
    else ((d.mark u).addCount (pStk s 2) (if inj then 0x60 else 0x50) 1).addCount (pStk s 2) 0x5C 1
  | .buf n _ =>
    let d := d.dropErr u
    d.each (List.range 4) fun d k =>
      let m := bits.countP fun b => codewordOf b = k
      if m = 0 then d
      else if m = 1 then d.addCount (pClu n) (if inj then 0x49C else 0x480) 1
      else (d.mark (u + 8 * k)).addCount (pClu n) (if inj then 0x49C else 0x484) 1
  | _ => d

/-- A read of a range meets the error patterns in it. -/
def Dev.noteErrs (d : Dev) (a n : Nat) : Dev :=
  if d.errs.isEmpty then d
  else (flipUnits a n).foldl (fun d u => if (tget? d.errs u).isSome then d.noteErr u else d) d

/-- A write of `n` bytes at `a` reaches unit `u`: what it covers whole loses its error pattern; what it covers in part is read, with what that finds, and merged (05, R88; 17, R365). Then an armed flip mask acts. -/
def Dev.overUnit (d : Dev) (a n u : Nat) : Dev :=
  let d := match tget? d.errs u with
    | none => d
    | some bits =>
      match loc u with
      | .buf _ _ =>
        if a % 8 ≠ 0 && u ≤ a || (a + n) % 8 ≠ 0 && a + n < u + 32 then d.noteErr u
        else
          let left := bits.filter fun b => ¬ (a ≤ u + 8 * codewordOf b ∧ u + 8 * codewordOf b < a + n)
          if left.isEmpty then d.dropErr u else { d with errs := tput d.errs u left }
      | _ => if a ≤ u ∧ u + 64 ≤ a + n then d.dropErr u else d.noteErr u
  d.flipApply u

/-- A write of a range reaches its units, before the bytes are stored. -/
def Dev.overUnits (d : Dev) (a n : Nat) : Dev := (flipUnits a n).foldl (fun d u => d.overUnit a n u) d

/-! ### Sealing (07, R125, R126) -/

/-- Key slot of the granule at a stack DPA; 0 elsewhere. -/
def Dev.slotAt (d : Dev) (a : Nat) : Nat :=
  match loc a with
  | .stack s off => tgetD (d.stk s).sealMap (granuleOf off) 0
  | _ => 0

/-- The agent may unseal and seal under a slot: slot v is the weight key of partition v − 1 (R125, R126). -/
def Agent.mayUnseal (ag : Agent) (slot : Nat) : Bool := ag.plain && ag.ptn = some (slot - 1)

/-- The tweak of a burst: DPA[43:6] (R125). -/
def tweakOf (a : Nat) : Nat := a / 64 % 2 ^ 38

/-- The weight key of a slot. -/
def Dev.slotKey (d : Dev) (slot : Nat) : Nat := tgetD d.wkeys (slot - 1) 0

/-- The sealing engines hold the key of a slot; a granule of a slot without one returns its stored bytes and takes no write (16, R350). -/
def Dev.hasKey (d : Dev) (slot : Nat) : Bool := (tget? d.wkeys (slot - 1)).isSome

/-- Unseal a burst of a slot for an agent: a marked burst and one of a slot without a key pass unchanged (07, R121, R125, R126). -/
def Dev.unseal (d : Dev) (ag : Agent) (slot b : Nat) (marked : Bool) (raw : List Byte) : List Byte :=
  if slot = 0 || !ag.mayUnseal slot || !d.hasKey slot || marked then raw
  else leBytes 64 ((Config.xts (d.slotKey slot) (tweakOf b)).symm (BitVec.ofNat 512 (leNat raw))).toNat

/-- Seal a burst under a slot; a marked burst passes unchanged (R121, R125). -/
def Dev.seal (d : Dev) (slot b : Nat) (marked : Bool) (plain : List Byte) : List Byte :=
  if slot = 0 || marked then plain
  else leBytes 64 (Config.xts (d.slotKey slot) (tweakOf b) (BitVec.ofNat 512 (leNat plain))).toNat

/-- The 64 bytes of the burst at `b` (a multiple of 64) as an agent reads them. -/
def Dev.readBurst (d : Dev) (ag : Agent) (b : Nat) : List Byte :=
  d.unseal ag (d.slotAt b) b (d.markedAt b 64) (d.rawBytes b 64)

/-- Region 63 of a buffer is closed to an access that does not act for the sealed job, and to every access while it is wiped (05, R93, R94). -/
def Dev.secDenied (d : Dev) (ag : Agent) (n : Nat) : Bool :=
  let w := d.reg (pClu n) 0x400
  wbit w 13 || !(wbit w 12 && ag.job = some (wfld w 11 0))

/-- The range touches region 63 of a buffer. -/
def inSecure (off n : Nat) : Bool := 0xFC000 < off + n && 0 < n

/-- A read by DPA as an agent sees it, in one unit-wise pass; reserved addresses read zero (01, R18). Region 63 reads zero where it is closed (05, R93). -/
def Dev.readMem (d : Dev) (ag : Agent) (a n : Nat) : List Byte :=
  match loc a with
  | .stack _ _ =>
    let b0 := a / 64 * 64
    let k := (a + n + 63) / 64 - a / 64
    (((List.range k).flatMap fun i => d.readBurst ag (b0 + 64 * i)).drop (a - b0)).take n
  | .buf c off =>
    (List.range n).map fun i =>
      if inSecure (off + i) 1 && d.secDenied ag c then 0 else d.rawByte (a + i)
  | _ => List.replicate n 0

/-- A read of a closed region 63 sets SEC_DENIED (05, R93). -/
def Dev.noteSecure (d : Dev) (ag : Agent) (a n : Nat) : Dev :=
  match loc a with
  | .buf c off => if inSecure off n && d.secDenied ag c then d.setBit (pClu c) 0x41C 1 true else d
  | _ => d

/-- What a write did: the device, and whether some of it was denied (07, R126; 05, R93). -/
abbrev WriteRes := Dev × Bool

/-- Write bytes into one burst of a stack: a part of a burst is merged with what the burst holds. `whole`: the write is indivisible over the burst. -/
def Dev.writeBurst (d : Dev) (ag : Agent) (a : Nat) (bs : List Byte) (marked whole : Bool) : WriteRes :=
  match loc a with
  | .stack s _ =>
    let b := a / 64 * 64
    let slot := d.slotAt b
    if d.lostAt b then (d.setBit (pStk s 2) 0x48 1 true, false)
    else if slot ≠ 0 && !ag.mayUnseal slot then (d.setBit (pStk s 0) 0x4C 0 true, true)
    else if slot ≠ 0 && !d.hasKey slot then (d, false)
    else
      let d := d.overUnits a bs.length
      if slot = 0 then ((d.markWrite a bs.length marked).putUnit 64 whole a bs, false)
      else
        let plain := patchBytes (d.readBurst ag b) (a - b) bs
        let d := d.markWrite a bs.length marked
        (d.putUnit 64 whole b (d.seal slot b (d.markedAt b 64) plain), false)
  | _ => (d, false)

/-- Write bytes over the bursts of a range. -/
def Dev.writeStack : Nat → Dev → Agent → Nat → List Byte → Bool → Bool → WriteRes
  | 0, d, _, _, _, _, _ => (d, false)
  | f + 1, d, ag, a, bs, marked, whole =>
    if bs.isEmpty then (d, false)
    else
      let k := 64 - a % 64
      let (d, x) := d.writeBurst ag a (bs.take k) marked whole
      let (d, y) := Dev.writeStack f d ag (a + k) (bs.drop k) marked whole
      (d, x || y)

/-- Bytes reach the words of a buffer; the words of which a codeword is covered in part are read, merged and kept whole (05, R88). -/
def Dev.putWords (d : Dev) (whole : Bool) (a : Nat) (bs : List Byte) : Dev :=
  (piecesOf 32 a bs).foldl (fun d e => d.putUnit 32 (whole || e.1 % 8 ≠ 0 || (e.1 + e.2.length) % 8 ≠ 0) e.1 e.2) d

/-- Write into a buffer through its shared port: bytes of region 63 that the agent may not touch are skipped and SEC_DENIED is set (05, R86, R93). -/
def Dev.writeBuf (d : Dev) (ag : Agent) (n off : Nat) (bs : List Byte) (marked whole : Bool) : WriteRes :=
  let denied := inSecure off bs.length && d.secDenied ag n
  let open_ := if denied then bs.take (0xFC000 - off) else bs
  let d := if denied then d.setBit (pClu n) 0x41C 1 true else d
  let a := bufBase n + off
  (((d.overUnits a open_.length).markWrite a open_.length marked).putWords whole a open_, denied)

/-- A write by DPA; reserved addresses take nothing (01, R18). `whole`: an atomic, indivisible over its word or half-burst in every state (12, R245). -/
def Dev.writeMemW (d : Dev) (ag : Agent) (a : Nat) (bs : List Byte) (marked whole : Bool) : WriteRes :=
  match loc a with
  | .stack _ _ => Dev.writeStack (bs.length + 1) d ag a bs marked whole
  | .buf n off => d.writeBuf ag n off bs marked whole
  | _ => (d, false)

/-- A plain write by DPA. -/
def Dev.writeMem (d : Dev) (ag : Agent) (a : Nat) (bs : List Byte) (marked : Bool) : WriteRes := d.writeMemW ag a bs marked false

/-- The device's own engines read and write as stored: no partition, no unsealing. -/
abbrev agDevice : Agent := {}

/-- A number of `n` bytes at a DPA as stored (tables, records of the device's own). -/
def Dev.readNum (d : Dev) (a n : Nat) : Nat := leNat (d.readMem agDevice a n)

/-- Store an `n`-byte number at a DPA. -/
def Dev.writeNum (d : Dev) (a n v : Nat) : Dev := (d.writeMem agDevice a (leBytes n v) false).1

/-! ### Die-cache lines (12, R241, R247, R249, R251) -/

/-- The line of a die that holds a burst for a partition (01, R20: a lookup hits only on a line of its own partition). -/
def Dev.line? (d : Dev) (die ptn b : Nat) : Option DieLine :=
  d.lines.find? fun l => l.die = die && l.ptn = ptn && l.burst = b

/-- Replace the line of a die for a burst. -/
def Dev.setLine (d : Dev) (l : DieLine) : Dev :=
  { d with lines := l :: d.lines.filter fun x => ¬ (x.die = l.die ∧ x.ptn = l.ptn ∧ x.burst = l.burst) }

/-- The agent that a line's partition reads and writes as. -/
def lineAgent (ptn : Nat) : Agent := { ptn := some ptn, plain := true }

/-- A line as an agent reads it: a hit on a line filled from a sealed burst counts as a read of that burst (16, R342, R343). -/
def Dev.lineView (d : Dev) (ag : Agent) (l : DieLine) : List Byte := d.unseal ag l.slot (l.burst * 64) l.marked l.data

/-- Write a dirty line back as a whole burst (R251); a line with an uncorrectable codeword goes back with the poison encoding (17, R368). -/
def Dev.writeBackLine (d : Dev) (l : DieLine) : Dev :=
  if l.dirty then (d.writeMem (lineAgent l.ptn) (l.burst * 64) (d.lineView (lineAgent l.ptn) l) (l.marked || l.bad)).1 else d

/-- Drop lines that satisfy `p`, writing dirty ones back first. -/
def Dev.flushLines (d : Dev) (p : DieLine → Bool) : Dev :=
  let d' := (d.lines.filter p).foldl Dev.writeBackLine d
  { d' with lines := d.lines.filter fun l => !p l }

/-- Drop lines without write-back (01, R20). -/
def Dev.dropLines (d : Dev) (p : DieLine → Bool) : Dev := { d with lines := d.lines.filter fun l => !p l }

/-- An acquire of DEVICE scope on a die for a partition (12, R247). -/
def Dev.acquireDie (d : Dev) (die ptn : Nat) : Dev := d.flushLines fun l => l.die = die && l.ptn = ptn

/-- A line that is read and has an uncorrectable codeword goes: dirty, it is written back marked; clean, the read is served from the point of coherence (17, R368). -/
def Dev.shedBad (d : Dev) (die ptn b : Nat) : Dev :=
  match d.line? die ptn b with
  | some l =>
    if l.bad then ((d.writeBackLine l).dropLines fun x => x.die = die && x.ptn = ptn && x.burst = b).addCount (pDie die) 0x44 1 else d
  | none => d

/-- A dirty line of the burst is written back and is clean (R249). -/
def Dev.cleanLine (d : Dev) (die ptn b : Nat) : Dev :=
  match d.line? die ptn b with
  | some l => if l.dirty then (d.writeBackLine l).setLine { l with dirty := false } else d
  | none => d

/-- A read of stack memory by an engine of a die that may fill lines: a line that holds the burst is read, otherwise a line is filled (R241). `vol` reads at the point of coherence, a dirty line being written back first (R249). -/
def Dev.cachedBurst (d : Dev) (die ptn : Nat) (ag : Agent) (b : Nat) (vol : Bool) : Dev × List Byte × Bool :=
  let d := d.shedBad die ptn b
  let d := if vol then d.cleanLine die ptn b else d
  match if vol then none else d.line? die ptn b with
  | some l => (d, d.lineView ag l, l.marked)
  | none =>
    let d := d.noteErrs (b * 64) 64
    let l : DieLine := ⟨die, b, ptn, d.rawBytes (b * 64) 64, false, d.markedAt (b * 64) 64, d.slotAt (b * 64), false⟩
    (if vol then d else d.setLine l, d.lineView ag l, l.marked)

/-- A cached read of a range of one stack. -/
def Dev.cachedRead (d : Dev) (die ptn : Nat) (ag : Agent) (a n : Nat) (vol : Bool) : Dev × List Byte × Bool :=
  match loc a with
  | .stack _ _ =>
    let k := (a + n + 63) / 64 - a / 64
    let (d, bs, mkd) := (List.range k).foldl
      (fun (acc : Dev × List Byte × Bool) i =>
        let (d, bs, mkd) := acc
        let (d, x, m) := d.cachedBurst die ptn ag (a / 64 + i) vol
        (d, bs ++ x, mkd || m)) (d, [], false)
    (d, (bs.drop (a % 64)).take n, mkd)
  | _ => (fun (d : Dev) => (d, d.readMem ag a n, d.markedAt a n)) (d.noteErrs a n)

/-- A line after a write of its partition: the bytes it covers, sealed as the line is. -/
def Dev.lineWrite (d : Dev) (l : DieLine) (a : Nat) (bs : List Byte) (marked : Bool) : DieLine :=
  let b := l.burst * 64
  let plain := d.lineView (lineAgent l.ptn) l
  let new := (List.range 64).map fun i => if a ≤ b + i ∧ b + i < a + bs.length then (bs[b + i - a]?).getD 0 else (plain[i]?).getD 0
  { l with data := d.seal (if d.hasKey l.slot then l.slot else 0) b marked new, marked := marked }

/-- A write by a compute DMA engine or gaffer of a die goes to the point of coherence and updates a line of that die (R241). -/
def Dev.cachedWrite (d : Dev) (die ptn : Nat) (ag : Agent) (a : Nat) (bs : List Byte) (marked : Bool) : WriteRes :=
  let (d, x) := d.writeMem ag a bs marked
  if x then (d, x) else
  match loc a with
  | .stack _ _ =>
    ({ d with lines := d.lines.map fun l =>
        if l.die = die ∧ l.ptn = ptn ∧ l.burst * 64 < a + bs.length ∧ a < l.burst * 64 + 64 then
          d.lineWrite l a bs (d.markedAt (l.burst * 64) 64)
        else l }, false)
  | _ => (d, x)

end Sys2Proof.Machine
end

