-- ==== Sys2Proof/Machine/Xlate.lean ====
section
/-! DEFINITION. Address translation (13, R259–R264): the walk, the translation caches, ranges of PVA as segments of DPA, reads and writes of partition memory by PVA. -/

namespace Sys2Proof.Machine

/-- A translated address: local DPA, or a DPA on another device; the leaf and its level. -/
structure Xl where
  dpa : Nat
  remote : Bool
  dev : Nat
  leaf : Nat
  level : Nat
deriving DecidableEq, Repr

/-- A translation fault: code, level, PVA. -/
structure XFault where
  code : Nat
  level : Nat
  pva : Nat
  /-- Never held (R261: a device from 64 to 255, a remote refusal). -/
  hard : Bool
  /-- The target device has refused the access (14, R292). -/
  refused : Bool
deriving DecidableEq, Repr

/-- XLATE_MISS and XLATE_PERM (R261). -/
abbrev cXlateMiss : Nat := 0x4001
abbrev cXlatePerm : Nat := 0x4002

/-- Lowest PVA bit that a level indexes (R259). -/
def levelShift (l : Nat) : Nat := if l = 3 then 39 else if l = 2 then 30 else if l = 1 then 21 else 16

/-- Entries of a table (R259). -/
def levelEntries (l : Nat) : Nat := if l = 0 then 32 else 512

/-- Fields of a table entry (R260). -/
def xV (e : Nat) : Bool := bitOf e 0
def xLeaf (e : Nat) : Bool := bitOf e 1
def xR (e : Nat) : Bool := bitOf e 2
def xW (e : Nat) : Bool := bitOf e 3
def xRemote (e : Nat) : Bool := bitOf e 4
def xPool (e : Nat) : Bool := bitOf e 5
def xDev (e : Nat) : Nat := fld e 15 8
def xKvfmt (e : Nat) : Nat := fld e 19 16
/-- DPA of the next table or of the page: ADDR in [63:20] is DPA[43:0]. -/
def xAddr (e : Nat) : Nat := fld e 63 20

/-- A leaf entry (R260). -/
def mkLeaf (dpa : Nat) (r w remote pool : Bool) (dev kvfmt : Nat) : Nat :=
  1 + 2 + (if r then 4 else 0) + (if w then 8 else 0) + (if remote then 16 else 0) + (if pool then 32 else 0)
    + dev % 256 * 256 + kvfmt % 16 * 65536 + dpa % 2 ^ 44 * 2 ^ 20

/-- A pointer to a next-level table (R260). -/
def mkPtr (dpa : Nat) : Nat := 1 + dpa % 2 ^ 44 * 2 ^ 20

/-- The level-3 table of a partition: PTN_XLATE_ROOT (R259, R276). -/
def Dev.xroot (d : Dev) (p : Nat) : Nat := d.pair (pPtn p) 0x200 0x204

/-- Where the entry of a table for a PVA stands. -/
def entryAt (table l pva : Nat) : Nat := table + 8 * (pva / 2 ^ levelShift l % levelEntries l)

/-- What a walk found: the leaf and its level, or the level of an entry with V = 0; and the entries it read, each with its level. -/
structure Walk where
  leaf : Option Nat
  level : Nat
  path : List (Nat × Nat)
  /-- DPA of the entry at which the walk ended. -/
  at_ : Nat
deriving DecidableEq, Repr

/-- Walk from level `l` (R261): one entry a level, at the point of coherence; `path` is what it has read. -/
def Dev.walkGo (d : Dev) (pva : Nat) : Nat → Nat → List (Nat × Nat) → Walk
  | 0, table, path =>
    let a := entryAt table 0 pva
    let e := d.readNum a 8
    if xV e then ⟨some e, 0, path ++ [(0, e)], a⟩ else ⟨none, 0, path ++ [(0, e)], a⟩
  | l + 1, table, path =>
    let a := entryAt table (l + 1) pva
    let e := d.readNum a 8
    if !xV e then ⟨none, l + 1, path ++ [(l + 1, e)], a⟩
    else if xLeaf e then ⟨some e, l + 1, path ++ [(l + 1, e)], a⟩
    else Dev.walkGo d pva l (xAddr e) (path ++ [(l + 1, e)])

/-- The walk of a PVA through the tables of partition `p`. -/
def Dev.walk (d : Dev) (p pva : Nat) : Walk := d.walkGo pva 3 (d.xroot p) []

/-- Capacity of a translation cache (R263). -/
def tlbCap (holder : Nat) : Nat := if holder < 0x2000 then 256 else if holder < 0x4000 then 4096 else 64

/-- First PVA that an entry of a level covers with a PVA. -/
def levelBase (l pva : Nat) : Nat := pva / 2 ^ levelShift l * 2 ^ levelShift l

/-- The cached entry of level `l` that covers a PVA: a leaf, or a table pointer (R263). -/
def Dev.tlbHit (d : Dev) (holder p pva l : Nat) : Option TlbEntry :=
  d.tlb.find? fun t => t.holder = holder && t.ptn = p && t.level = l && t.pva = levelBase l pva

/-- A cached entry is a leaf. -/
def TlbEntry.isLeaf (t : TlbEntry) : Bool := t.level = 0 || xLeaf t.entry

/-- The walk of a PVA as a cache leaves it: nothing is read where a leaf is cached; from a cached table pointer, of the lowest level, the walk goes on from the table it names; else it starts at the root (R263). With it, the entry that was hit. -/
def Dev.cachedWalk (d : Dev) (holder : Option Nat) (p pva : Nat) : Walk × Option TlbEntry :=
  match holder.bind fun h => (List.range 4).findSome? (d.tlbHit h p pva) with
  | none => (d.walk p pva, none)
  | some t => (if t.isLeaf then ⟨some t.entry, t.level, [], 0⟩ else d.walkGo pva (t.level - 1) (xAddr t.entry) [], some t)

/-- Cache an entry, or touch it; the entry of a full cache that was least recently used goes. -/
def Dev.tlbPut (d : Dev) (t : TlbEntry) : Dev :=
  let mine := d.tlb.filter fun x => x.holder = t.holder && x ≠ t
  let others := d.tlb.filter fun x => x.holder ≠ t.holder
  { d with tlb := t :: (mine.take (tlbCap t.holder - 1) ++ others) }

/-- A walk read an entry above a leaf: a table pointer, or an invalid entry of a level whose entries map no page of the sizes below it (07, R146; 08, R161, R163). -/
def Walk.upper (w : Walk) : Bool := w.path.any fun x => 0 < x.1 && (if xV x.2 then !xLeaf x.2 else 2 ≤ x.1)

/-- Keep what a walk read, but for an invalid entry and a leaf that gave no translation (R263); a marver engine's upper-level walk sets XLATE_WALK (07, R146). -/
def Dev.keepWalk (d : Dev) (holder : Option Nat) (p pva : Nat) (w : Walk) (hit : Option TlbEntry) (leafToo : Bool) : Dev :=
  match holder with
  | none => d
  | some h =>
    let d := match hit with | some t => d.tlbPut t | none => d
    let d := (w.path.filter fun x => xV x.2 && (leafToo || 0 < x.1 && !xLeaf x.2)).foldl (fun d x => d.tlbPut ⟨h, p, x.1, levelBase x.1 pva, x.2⟩) d
    if w.upper && 0x2000 ≤ h && h < 0x4000 then d.setBit (pStk (h - 0x2000) 1) 0x48 2 true else d

/-- Record the PVA of a translation fault in PTN_XLATE_LAST (R275, R276). -/
def Dev.lastFault (d : Dev) (p pva : Nat) : Dev := d.setPair (pPtn p) 0x208 0x20C pva

/-- A leaf's permission for an access (R261). -/
def leafPermits (e : Nat) (write : Bool) : Bool := if write then xW e else xR e

/-- The translation that a leaf gives. A leaf that names this device is local (01, R19). -/
def Dev.leafXl (d : Dev) (e level pva : Nat) : Xl :=
  ⟨xAddr e + pva % 2 ^ levelShift level, xRemote e && xDev e ≠ d.devnum, xDev e, e, level⟩

/-- Translate one PVA for partition `p` through the cache of `holder`, if it has one (R261, R263). -/
def Dev.xlate (d : Dev) (holder : Option Nat) (p pva : Nat) (write : Bool) : Dev × Except XFault Xl :=
  let (w, hit) := d.cachedWalk holder p pva
  let d := if w.path.isEmpty then d else d.addCount pMmu 0x44 w.path.length
  match w.leaf with
  | none => ((d.keepWalk holder p pva w hit false).lastFault p pva, .error ⟨cXlateMiss, w.level, pva, false, false⟩)
  | some e =>
    if !leafPermits e write then ((d.keepWalk holder p pva w hit false).lastFault p pva, .error ⟨cXlatePerm, w.level, pva, false, false⟩)
    else if xRemote e && 64 ≤ xDev e then
      ((d.keepWalk holder p pva w hit false).lastFault p pva, .error ⟨cXlatePerm, w.level, pva, true, false⟩)
    else (d.keepWalk holder p pva w hit true, .ok (d.leafXl e w.level pva))

/-- Translate a range, 64 KiB page by 64 KiB page, in ascending order (the smallest page of R259); the first fault ends it. -/
def Dev.xlRangeGo (holder : Option Nat) (p : Nat) (write : Bool) : Nat → Dev → Nat → Nat → Dev × Except XFault (List Seg)
  | 0, d, _, _ => (d, .ok [])
  | f + 1, d, pva, n =>
    if n = 0 then (d, .ok [])
    else
      let k := min n (65536 - pva % 65536)
      match d.xlate holder p pva write with
      | (d, .error x) => (d, .error x)
      | (d, .ok x) =>
        match Dev.xlRangeGo holder p write f d (pva + k) (n - k) with
        | (d, .error y) => (d, .error y)
        | (d, .ok l) => (d, .ok (⟨x.dpa, k, x.remote, x.dev, pva, x.leaf, x.level⟩ :: l))

/-- Translate the range of `n` bytes at `pva`. -/
def Dev.xlRange (d : Dev) (holder : Option Nat) (p pva n : Nat) (write : Bool) : Dev × Except XFault (List Seg) :=
  Dev.xlRangeGo holder p write (n / 65536 + 2) d pva n

/-- FAULT_INFO of a translation fault (R275): requester 0 compute DMA, 1 gaffer, 2 marver, 3 stack DMA; bit 9 marks a remote refusal. -/
def xInfo (x : XFault) (queue : Nat) (write : Bool) (req unit : Nat) : Nat :=
  queue % 8 + x.level % 4 * 8 + (if write then 32 else 0) + req % 4 * 64 + (if x.refused then 512 else 0) + unit * 65536

/-- The agent of an engine that acts for a partition and sees plaintext of it. -/
def agPlain (p : Nat) (job : Option Nat) : Agent := ⟨some p, job, true⟩

/-- The agent of a requester that acts for a partition and sees stored bytes. -/
def agPtn (p : Nat) (job : Option Nat) : Agent := ⟨some p, job, false⟩

/-! ### Memory of another device (12, R256) -/

/-- The reader that the services of a partition are. -/
abbrev svcReader (p : Nat) : Nat := 0x8000 + p

/-- The remote pieces of segments, none across 4 KiB, so that each goes by one path (14, R290). -/
def farPieces (l : List Seg) : List Seg :=
  (l.filter (·.remote)).flatMap fun s =>
    (List.range ((s.dpa + s.len + 4095) / 4096 - s.dpa / 4096)).map fun i =>
      let a := max s.dpa ((s.dpa / 4096 + i) * 4096)
      { s with dpa := a, len := min (s.dpa + s.len) ((s.dpa / 4096 + i + 1) * 4096) - a, pva := s.pva + (a - s.dpa) }

/-- The read of a piece is this one. -/
def FarRead.is (f : FarRead) (who : Nat) (s : Seg) : Bool := f.who = who && f.dev = s.dev && f.dpa = s.dpa && f.len = s.len

/-- Ask for what of the segments is remote and has not been asked for. -/
def Dev.farAsk (d : Dev) (who job domain : Nat) (l : List Seg) : Dev :=
  (farPieces l).foldl (fun d s =>
    if d.far.any fun f => f.is who s then d
    else
      let d := (d.sendRead s.dev job domain s.dpa s.len (.far who s.dev s.dpa)).2
      { d with far := d.far ++ [{ who := who, job := job, dev := s.dev, dpa := s.dpa, len := s.len }] }) d

/-- Every remote byte of the segments is here. -/
def Dev.farHere (d : Dev) (who : Nat) (l : List Seg) : Bool :=
  (farPieces l).all fun s => d.far.any fun f => f.is who s && f.len ≤ f.got.length

/-- The first remote piece that its target has refused, and the code. -/
def Dev.farRefused (d : Dev) (who : Nat) (l : List Seg) : Option (Seg × Nat) :=
  (farPieces l).findSome? fun s => match d.far.find? fun f => f.is who s with
    | some f => f.refused.map fun c => (s, c)
    | none => none

/-- A reader is done with what it asked for. -/
def Dev.farEnd (d : Dev) (who : Nat) : Dev :=
  if d.far.isEmpty then d else { d with far := d.far.filter fun f => f.who ≠ who }

/-- Bytes of a remote segment that a reader has been answered; elsewhere free values. -/
def Dev.farBytes (d : Dev) (who : Nat) (s : Seg) : List Byte :=
  (List.range s.len).map fun i =>
    match d.far.find? fun f => f.who = who && f.dev = s.dev && f.dpa ≤ s.dpa + i && s.dpa + i < f.dpa + f.got.length with
    | some f => (f.got[s.dpa + i - f.dpa]?).getD 0
    | none => Config.farByte s.dev (s.dpa + i)

/-- A mark came with a remote segment. -/
def Dev.farMarked (d : Dev) (who : Nat) (s : Seg) : Bool :=
  d.far.any fun f => f.who = who && f.dev = s.dev && f.dpa < s.dpa + s.len && s.dpa < f.dpa + f.len && f.marked

/-- Every local segment's memory answers at once. -/
def Dev.segsReady (d : Dev) (l : List Seg) : Bool := l.all fun s => s.remote || d.memReady s.dpa

/-- Demand the domains of the segments. -/
def Dev.segsDemand (d : Dev) (l : List Seg) : Dev := l.foldl (fun d s => if s.remote then d else d.memDemand s.dpa) d

/-- Bytes of segments at the point of coherence; of another device, what the services of the agent's partition have been answered. -/
def Dev.readSegs (d : Dev) (ag : Agent) (l : List Seg) : List Byte :=
  l.flatMap fun s => if s.remote then d.farBytes (svcReader (ag.ptn.getD 0xFF)) s else d.readMem ag s.dpa s.len

/-- Some unit of the local segments is marked. -/
def Dev.segsMarked (d : Dev) (l : List Seg) : Bool := l.any fun s => !s.remote && d.markedAt s.dpa s.len

/-- The first marked unit of local segments. -/
def Dev.segsMark (d : Dev) (l : List Seg) : Nat :=
  match l.find? fun s => !s.remote && d.markedAt s.dpa s.len with
  | some s => d.firstMark s.dpa s.len
  | none => 0

/-- Write bytes for a job and domain over a remote segment: a posted WRITE in frames of at most 4 KiB; answers their numbers and target (12, R256). -/
def Dev.farWrite (d : Dev) (ag : Agent) (s : Seg) (bs : List Byte) (marked : Bool) : List (Nat × Nat) × Dev :=
  let (ids, d) := Dev.sendWrite (s.len / 4096 + 2) d s.dev (ag.job.getD noJob) (d.linkDomain (ag.ptn.getD 0xFF)) s.dpa bs marked
  (ids.map fun i => (i, s.dev), d)

/-- Write bytes over segments at the point of coherence; for another device, by WRITE frames. -/
def Dev.writeSegs : Dev → Agent → List Seg → List Byte → Bool → WriteRes
  | d, _, [], _, _ => (d, false)
  | d, ag, s :: t, bs, marked =>
    let (d, x) := if s.remote then ((d.farWrite ag s (bs.take s.len) marked).2, false) else d.writeMem ag s.dpa (bs.take s.len) marked
    let (d, y) := Dev.writeSegs d ag t (bs.drop s.len) marked
    (d, x || y)

/-- Read `n` bytes of partition memory at a PVA, uncached, as a requester that sees stored bytes: the serving engine, the intake, service cores (12, R241). -/
def Dev.readPva (d : Dev) (p pva n : Nat) : Dev × Except XFault (List Byte) :=
  match d.xlRange none p pva n false with
  | (d, .error x) => (d, .error x)
  | (d, .ok l) => (d, .ok (d.readSegs (agPtn p none) l))

/-- Write bytes of partition memory at a PVA, uncached. -/
def Dev.writePva (d : Dev) (p pva : Nat) (bs : List Byte) : Dev × Except XFault Unit :=
  match d.xlRange none p pva bs.length true with
  | (d, .error x) => (d, .error x)
  | (d, .ok l) => ((d.writeSegs (agPtn p none) l bs false).1, .ok ())

/-- Write, ignoring a fault: used for records whose range was checked before. -/
def Dev.putPva (d : Dev) (p pva : Nat) (bs : List Byte) : Dev := (d.writePva p pva bs).1

/-- Read, zeros on a fault: used for records whose range was checked before. -/
def Dev.getPva (d : Dev) (p pva n : Nat) : List Byte :=
  match (d.readPva p pva n).2 with
  | .ok l => l
  | .error _ => List.replicate n 0

/-- A little-endian number of partition memory. -/
def Dev.numPva (d : Dev) (p pva n : Nat) : Nat := leNat (d.getPva p pva n)

/-- PTN_POISON_LAST and PTN_POISON_COUNT of a partition (17, R365, R382). -/
def Dev.poisonLast (d : Dev) (p dpa : Nat) : Dev := (d.setPair (pPtn p) 0x100 0x104 dpa).addCount (pPtn p) 0x108 1

/-- A read by the serving engine of data that it works on: a translation fault, or a mark that it consumes (17, R366), is a code. -/
def Dev.engRead (d : Dev) (p pva n : Nat) : Dev × Except Nat (List Byte) :=
  match d.xlRange none p pva n false with
  | (d, .error x) => (d, .error x.code)
  | (d, .ok l) =>
    let d := l.foldl (fun (d : Dev) s => if s.remote then d else d.noteErrs s.dpa s.len) d
    if d.segsMarked l then (d.poisonLast p (d.segsMark l), .error 0x3001) else (d, .ok (d.readSegs (agPtn p none) l))

end Sys2Proof.Machine
end

