-- ==== Sys2Proof/Machine/Copier.lean ====
section
/-! DEFINITION. The units of a copier transfer (07, R138; 13, R274): its fields, where each unit lies, what a unit does. -/

namespace Sys2Proof.Machine

/-- Bytes that the spec does not state. -/
def Dev.freeBytes (d : Dev) (n : Nat) : Dev × List Byte :=
  ({ d with freeNext := d.freeNext + n }, (List.range n).map fun i => BitVec.ofNat 8 (Config.free (d.freeNext + i)))

def cpSrc (w : Nat) : Nat := fld w 111 64
def cpDst (w : Nat) : Nat := fld w 159 112
def cpUnits (w : Nat) : Nat := fld w 183 160
def flUnits (w : Nat) : Nat := fld w 135 112
def flPattern (w : Nat) : Nat := fld w 255 192

/-- Bytes of a copier command. -/
def cpBytes (w : Nat) : Nat := 4096 * (if fld w 7 0 = 3 then cpUnits w else flUnits w)

/-- Pieces of segments as DPA and length. -/
def pieces (l : List Seg) : List (Nat × Nat) := l.map fun g => (g.dpa, g.len)

/-- The DPA of byte `i` of a list of pieces. -/
def pieceAt : List (Nat × Nat) → Nat → Nat
  | [], _ => 0
  | (a, n) :: t, i => if i < n then a + i else pieceAt t (i - n)

/-- Copy one burst, its mark with it. -/
def Dev.copyBurst (d : Dev) (ag : Agent) (a b : Nat) : WriteRes :=
  let d := d.noteErrs a 64
  d.writeMem ag b (d.readMem ag a 64) (d.markedAt a 64)

/-- Source and destination of a COPY overlap: the destination is not defined (R138). -/
def copyOverlap (w : Nat) : Bool :=
  cpSrc w < cpDst w + cpBytes w && cpDst w < cpSrc w + cpBytes w

/-- One 4 KiB unit of a copier transfer, burst by burst; the DPA of the first burst whose write was denied. -/
def Dev.copyUnit (d : Dev) (r : CopyRun) (k : Nat) : Dev × Option Nat :=
  let w := r.cmd.toNat
  let op := fld w 7 0
  let ag := agPlain r.ptn (some r.job)
  (List.range 64).foldl (fun (acc : Dev × Option Nat) i =>
    let (d, x) := acc
    let o := 4096 * (k - r.first) + 64 * i
    let b := pieceAt r.dst o
    if op = 5 then (d.noteErrs (pieceAt r.src o) 64, x)
    else
      let (d, y) :=
        -- FILL is outside the list of R126: a sealed burst takes nothing
        if op = 4 then d.writeMem (agPtn r.ptn (some r.job)) b ((List.range 8).flatMap fun _ => leBytes 8 (flPattern w)) false
        else if copyOverlap w then
          let (d, bs) := d.freeBytes 64
          d.writeMem ag b bs false
        else d.copyBurst ag (pieceAt r.src o) b
      (d, if x.isNone && y then some b else x)) (d, none)

/-- Up to `n` units of a transfer from unit `k` on: the first burst denied ends it with its unit. STK_DMA_UNITS counts units performed (13, R279), and the copier's slots are counted (R145). -/
def Dev.copyUnits (s : Nat) : Nat → Dev → CopyRun → Nat → Dev × Option Nat
  | 0, d, _, _ => (d, none)
  | n + 1, d, r, k =>
    match d.copyUnit r k with
    | (d, some a) => (d, some a)
    | (d, none) => Dev.copyUnits s n ((d.addCount (pStk s 3) 0x4C 1).modStk s fun x => { x with ran := addSet x.ran 0x58 }) r (k + 1)

/-- The memory that a transfer still touches answers. -/
def Dev.piecesReady (d : Dev) (l : List (Nat × Nat)) : Bool := l.all fun x => d.memReady x.1

/-- A transfer stops while its job is aborted: the units in flight complete (R142; 13, R272). How many had been reached is open: a free value. -/
def Dev.copyAbort (d : Dev) (s : Nat) (r : CopyRun) : Dev :=
  if !d.piecesReady (r.src ++ r.dst) || r.total ≤ r.done then d
  else
    let (x, d) := d.takeFree
    (Dev.copyUnits s (x % (r.total - r.done + 1)) d r r.done).1

end Sys2Proof.Machine
end

