-- ==== Sys2Proof/Machine/Flags.lean ====
section
/-! DEFINITION. Flag computations: cluster and marver flags (04, R76, R77; 07, R130) and the region scoreboard (04, R74). -/

namespace Sys2Proof.Machine

/-- Place of FLAG[n] on a CLU page or on a marver page (R82, R146). -/
abbrev rFlag (n : Nat) : Nat := 0x100 + 4 * n

/-- Count of a flag. -/
def Dev.flag (d : Dev) (p : Page) (n : Nat) : Nat := d.getF p (rFlag n) 15 0

/-- Add to a flag; an addition beyond 65,535 leaves it there and sets FLAG_SATURATED, bit 0 of the sticky register at 0x48 (R76, R130). -/
def Dev.addFlag (d : Dev) (p : Page) (n amount : Nat) : Dev :=
  let c := d.flag p n + amount
  if 65535 < c then (d.setF p (rFlag n) 15 0 65535).setBit p 0x48 0 true else d.setF p (rFlag n) 15 0 c

/-- Take a consumed threshold off a flag (R76). -/
def Dev.subFlag (d : Dev) (p : Page) (n amount : Nat) : Dev := d.setF p (rFlag n) 15 0 (d.flag p n - amount)

/-- Place of CLU_SCORE[r] (R82). -/
abbrev rScore (r : Nat) : Nat := 0x200 + 4 * r

/-- Regions of a mask, rising. -/
def regions (m : Nat) : List Nat := maskBits 64 m

/-- Regions that are only read: a region named in both masks is treated as written only (R74). -/
def readOnly (rd wr : Nat) : List Nat := (regions rd).filter fun r => !bitOf wr r

/-- The scoreboard's reader count of a region (R74): parked tiles keep their entries, so it can exceed the 63 that the six bits of CLU_SCORE.READERS show. -/
def Dev.readers (d : Dev) (n r : Nat) : Nat := tgetD (d.clu n).readers r 0

/-- Set the reader count; READERS shows it, 63 at most (DESIGN CHOICE). -/
def Dev.setReaders (d : Dev) (n r v : Nat) : Dev :=
  (d.modClu n fun c => { c with readers := tset c.readers r v 0 }).setF (pClu n) (rScore r) 5 0 (min 63 v)

/-- The scoreboard permits a command that reads and writes these regions (R74). -/
def Dev.scoreOk (d : Dev) (n rd wr : Nat) : Bool :=
  ((readOnly rd wr).all fun r => !d.bit (pClu n) (rScore r) 8) &&
  ((regions wr).all fun r => !d.bit (pClu n) (rScore r) 8 && d.readers n r = 0)

/-- Issue: readers rise, writer bits are set (R74). -/
def Dev.scoreTake (d : Dev) (n rd wr : Nat) : Dev :=
  let d := d.each (readOnly rd wr) fun d r => d.setReaders n r (d.readers n r + 1)
  d.each (regions wr) fun d r => d.setBit (pClu n) (rScore r) 8 true

/-- Completion or stop: readers fall, writer bits clear (R74). -/
def Dev.scoreFree (d : Dev) (n rd wr : Nat) : Dev :=
  let d := d.each (readOnly rd wr) fun d r => d.setReaders n r (d.readers n r - 1)
  d.each (regions wr) fun d r => d.setBit (pClu n) (rScore r) 8 false

end Sys2Proof.Machine
end

