-- ==== Sys2Proof/Machine/Msg0.lean ====
section
/-! DEFINITION. Messages of this device (14, R289, R295, R304–R307): cut into segments toward the bridge, or put before the bridge's own destinations. -/

namespace Sys2Proof.Machine

/-- Classes of messages (R285). -/
abbrev clsWork : Nat := 1
abbrev clsDone : Nat := 2
abbrev clsServing : Nat := 3
abbrev clsEvent : Nat := 4
abbrev clsAudio : Nat := 5

/-- This device is the bridge of its group, or names itself as the bridge (R294). -/
def Dev.isBridge (d : Dev) : Bool := d.bit pDev 0x80 8 || d.getF pDev 0x80 21 16 = d.devnum

/-- A message for a device or partition destination goes to the device destination: PARTITION 0xFF or any that is above 23, or a work completion refused whole because its PARTITION names none (R304). -/
def toDevice (data : List Byte) : Bool :=
  24 ≤ numAt data 6 1 || (numAt data 4 1 = clsDone && numAt data 7 1 = 2 && numAt data 0x14 2 = 0x6003)

/-- The destination of a message at the bridge: 64 × device + 2 × (partition, 31 for the device destination) + 1 for events of a partition. -/
def destKey (data : List Byte) : Nat :=
  64 * numAt data 5 1 + (if toDevice data then 62 else 2 * (numAt data 6 1 % 31) + (if numAt data 4 1 = clsEvent then 1 else 0))

/-- Page and offset of the destination record that a destination of this device has (R313). -/
def destPlace (key : Nat) : Page × Nat :=
  if key % 64 = 62 then (pDev, 0xA0) else (pPtn (key % 64 / 2), if key % 2 = 1 then 0x400 else 0x420)

/-- A message joins those that wait for a destination at the bridge. -/
def Dev.toDest (d : Dev) (data : List Byte) : Dev :=
  let k := destKey data
  { d with dests := tmod d.dests k {} fun x => { x with q := x.q ++ [⟨numAt data 5 1, numAt data 6 1, numAt data 4 1, data⟩] } }

/-- The segments of a message as operations: up to 8,192 bytes each, at rising OFFSET (R289). -/
def Dev.segOps (d : Dev) (peer cls mid domain : Nat) (data : List Byte) : List Nat → List HeldOp × Dev
  | [] => ([], d)
  | i :: t =>
    let bs := (data.drop (8192 * i)).take 8192
    let (id, d) := d.takeId
    let f := d.dataFrame peer opMsg noJob domain
      [(172, bs.length), (190, if 8192 * (i + 1) < data.length then 0 else 1), (224, mid), (256, 8192 * i), (280, cls), (336, data.length)] bs
    let (l, d) := Dev.segOps d peer cls mid domain data t
    (⟨id, peer, mid, f, none⟩ :: l, d)

/-- Send a message whole on the path that its MSG_ID picks, and keep it until its receiver has performed every segment (R289). -/
def Dev.sendMsgAs (d : Dev) (peer cls mid domain : Nat) (data : List Byte) : Dev :=
  let (ops, d) := d.segOps peer cls mid domain data (List.range (ceilDiv data.length 8192))
  let d := { d with outMsgs := d.outMsgs ++ [⟨mid, peer, cls, data, none, ops.map HeldOp.id, domain⟩] }
  ops.foldl Dev.sendOp d

/-- Send a new message to another device, in a link domain (R291). -/
def Dev.sendMsgTo (d : Dev) (peer cls domain : Nat) (data : List Byte) : Dev :=
  ({ d with nextMid := (d.nextMid + 1) % 2 ^ 32 }).sendMsgAs peer cls d.nextMid domain data

/-- A completion, event or audio message of this device leaves for the host (R295); nothing leaves for a partition that is SCRUBBING (16, R345). -/
def Dev.sendUp (d : Dev) (data : List Byte) : Dev :=
  if !toDevice data && numAt data 6 1 < 24 && d.st (pPtn (numAt data 6 1)) = 0xC then d
  else if d.isBridge then d.toDest data
  else d.sendMsgTo (d.getF pDev 0x80 21 16) (numAt data 4 1) (if toDevice data then opDomain else d.linkDomain (numAt data 6 1)) data

/-- A Decewell message to an endpoint (20, R439): kind and body; MGT_TX counts it. -/
def Dev.mgtSend (d : Dev) (eid kind : Nat) (body : List Byte) : Dev :=
  (d.out (.mctp eid 0x7F (leBytes 1 kind ++ body))).addCount pMgt 0x50 1

/-- The bridge has taken a message of this device: SENT of its destination counts it, and WAITS what the bridge held it for, which this device does not see: a free value (R313; DESIGN CHOICE). -/
def Dev.sentFar (d : Dev) (data : List Byte) : Dev :=
  let (p, o) := destPlace (destKey data)
  let (x, d) := d.takeFree
  (d.addCount p (o + 0x18) 1).addCount p (o + 0x1C) x

/-- Messages of this device are discarded: frames of theirs that no port has sent yet do not leave (16, R345). -/
def Dev.dropMsgs (d : Dev) (f : OutMsg → Bool) : Dev :=
  let ids := (d.outMsgs.filter f).flatMap OutMsg.ids
  { d with
    outMsgs := d.outMsgs.filter fun m => !f m
    heldOps := d.heldOps.filter fun o => !ids.contains o.id
    ports := tmap d.ports fun _ x => { x with waiting := x.waiting.filter fun w => !ids.contains w.id } }

/-- Frames that DONE_SEQ has come to cover release what waits for them: fences, completion signals, messages (R289, R293). -/
def Dev.afterDone (d : Dev) : Dev :=
  let out := d.outMsgs.filter fun m => m.cls ≠ clsWork && m.ids.all d.isDone
  let d := { d with
    dmas := tmap d.dmas fun _ x => { x with remote := x.remote.filter fun r => !d.isDone r.2.1 }
    outMsgs := d.outMsgs.filter fun m => !(m.ids.all d.isDone) }
  let d := out.foldl (fun d m => d.sentFar m.data) d
  let ready := d.sigWaits.filter fun w => w.ids.all d.isDone
  let d := { d with sigWaits := d.sigWaits.filter fun w => !(w.ids.all d.isDone) }
  ready.foldl (fun d w => d.sendOp w.op) d

end Sys2Proof.Machine
end

