-- ==== Sys2Proof/Machine/Intake0.lean ====
section
/-! DEFINITION. The intake's sequences of work messages (14, R301–R304): which item comes next, its outcome, the work completion. The items themselves stand with their owners. -/

namespace Sys2Proof.Machine

/-- The item kinds that a chapter describes (R302; 15, R316–R325; 16, R330–R351; 17, R376; 19, R410, R411). -/
def knownKinds : List Nat :=
  [0x0001, 0x0002, 0x0003, 0x0004, 0x0005, 0x0010, 0x0011, 0x0020, 0x0021, 0x0030, 0x0031, 0x0032, 0x0033, 0x0034, 0x0035, 0x0036,
   0x0038, 0x0039, 0x0040, 0x0041, 0x0042, 0x0043, 0x0048, 0x0049, 0x0050, 0x0051, 0x0052, 0x0100, 0x0101, 0x0110, 0x0111, 0x0120,
   0x0121, 0x0130, 0x0140, 0x0141, 0x0180, 0x0181, 0x0182, 0x0200, 0x0201, 0x0202, 0x0210, 0x0211, 0x0212]

/-- Codes of R309. -/
abbrev cMsgInvalid : Nat := 0x6002
abbrev cMsgRole : Nat := 0x6003
abbrev cItemSkipped : Nat := 0x6004
abbrev cPathDown : Nat := 0x6005
abbrev cItemUnknown : Nat := 0x6006
abbrev cJobState : Nat := 0x500F

/-- INFO of MSG_ROLE (R309). -/
def roleInfo (ptn : Nat) (qp : Option (Nat × Nat × Nat)) : Nat :=
  match qp with
  | some (_, port, slot) => ptn + slot * 256 + port % 4 * 65536
  | none => ptn

/-- Some item has been refused. -/
def WorkMsg.refused (m : WorkMsg) : Bool := m.outs.any fun o => o.2.1 ≠ 0

/-- Items in frit mode (19, R408): UPDATE_IMAGE, BOOT_SELECT and CSR, whose own operations check further. -/
def fritKind (k : Nat) : Bool := k = 0x0004 || k = 0x0180 || k = 0x0181

/-- The device runs in frit mode: BOOT_STATUS.FRIT (19, R418). -/
def Dev.frit (d : Dev) : Bool := d.bit pBoot 0x40 3

/-- The outcome that the next item takes without being performed, if any (R303; 19, R408). -/
def Dev.autoOutcome (d : Dev) (m : WorkMsg) : Option (Nat × Nat) :=
  match m.items[m.next]? with
  | none => none
  | some (k, _) =>
    if bitOf m.flags 1 && m.refused then some (cItemSkipped, 0)
    else if !knownKinds.contains k then some (cItemUnknown, k)
    else if m.ptn ≠ 0xFF && 0x0100 ≤ k && k < 0x01C0 then some (cMsgRole, roleInfo m.ptn m.qp)
    else if m.ptn = 0xFF && k ≠ 0x0004 && !(0x0100 ≤ k && k < 0x01C0) then some (cMsgRole, roleInfo m.ptn m.qp)
    else if d.frit && !fritKind k then some (0x9008, k)
    else none

/-- Pass over the items that are not performed. -/
def Dev.passOver (d : Dev) : Nat → WorkMsg → WorkMsg
  | 0, m => m
  | f + 1, m =>
    if m.busy then m
    else match d.autoOutcome m with
      | none => m
      | some o => Dev.passOver d f { m with outs := tput m.outs m.next o, next := m.next + 1 }

/-- Every item has its outcome. -/
def WorkMsg.complete (m : WorkMsg) : Bool := (List.range m.items.length).all fun i => (tget? m.outs i).isSome

/-- The work completion of a message (R304). -/
def doneMsg (dev ptn status tag items reached code : Nat) (outs : List (Nat × Nat)) : List Byte :=
  leBytes 4 (32 + 8 * outs.length) ++ leBytes 1 clsDone ++ leBytes 1 dev ++ leBytes 1 ptn ++ leBytes 1 status ++ leBytes 8 tag
    ++ leBytes 2 items ++ leBytes 2 reached ++ leBytes 2 code ++ List.replicate 10 0
    ++ outs.flatMap fun o => leBytes 2 o.1 ++ leBytes 2 0 ++ leBytes 4 o.2

/-- STATUS of a message whose items all have their outcome: 3 when STOP left items out, 1 when some were refused. -/
def WorkMsg.status (m : WorkMsg) : Nat :=
  if m.outs.any fun o => o.2.1 = cItemSkipped then 3 else if m.refused then 1 else 0

/-- The completion that a complete message sends. -/
def WorkMsg.completion (m : WorkMsg) : List Byte :=
  doneMsg m.dev m.ptn m.status m.tag m.items.length (m.outs.countP fun o => o.2.1 ≠ cItemSkipped) 0 (m.outs.map Prod.snd)

/-- STATE of a partition (16, R333). -/
def Dev.ptnState (d : Dev) (p : Nat) : Nat := d.st (pPtn p)

/-- The sequence runs: operator messages always, a partition's while it is ACTIVE (16, R333); in a low power state and until the wake from it, every message is held (20, R436). -/
def Dev.seqRuns (d : Dev) (ptn : Nat) : Bool := d.awake && (ptn = 0xFF || d.ptnState ptn = stActive)

/-- Put a message back. -/
def Dev.putWork (d : Dev) (m : WorkMsg) : Dev := { d with work := d.work.map fun x => if x.id = m.id then m else x }

/-- Send the completion of a complete message and let it go (R304); that of a message of the management port returns to its sender (20, R439). -/
def Dev.finishMsg (d : Dev) (m : WorkMsg) : Dev :=
  let d := { d with work := d.work.filter fun x => x.id ≠ m.id }
  if bitOf m.flags 0 || m.refused then
    match m.eid with
    | some e => d.mgtSend e 0x02 m.completion
    | none => d.sendUp m.completion
  else d

/-- The message of a sequence that still has an item to start or under way. -/
def Dev.frontMsg (d : Dev) (ptn : Nat) : Option WorkMsg := d.work.find? fun m => m.ptn = ptn && (m.busy || m.next < m.items.length)

/-- Bring a sequence to its next item that is performed: items before it that take their outcome at once take it, messages that are complete end. -/
def Dev.settleSeq : Nat → Dev → Nat → Dev
  | 0, d, _ => d
  | f + 1, d, ptn =>
    if !d.seqRuns ptn then d
    else match d.frontMsg ptn with
      | none => d
      | some m =>
        if m.busy then d
        else
          let m := d.passOver (m.items.length + 1) m
          if m.next < m.items.length then d.putWork m
          else Dev.settleSeq f (if m.complete then d.finishMsg m else d.putWork m) ptn

/-- Settle a sequence. -/
def Dev.settle (d : Dev) (ptn : Nat) : Dev := Dev.settleSeq (d.work.length + 1) d ptn

/-- The message number of items that the voice-session glue performs (15, R326). -/
abbrev glueMsg : Nat := 2 ^ 40

/-- Post the outcome of an item; an item under way is over, and the intake goes on to the next. An outcome already given stays. -/
def Dev.post (d : Dev) (msg item code info : Nat) : Dev :=
  if msg = glueMsg then { d with itemResp := (code, info % 2 ^ 32) }
  else match d.work.find? fun m => m.id = msg with
  | none => d
  | some m =>
    if (tget? m.outs item).isSome then d
    else
      let m := { m with outs := tput m.outs item (code, info % 2 ^ 32) }
      let m := if item = m.next then { m with busy := false, next := m.next + 1 } else m
      (if m.complete then d.finishMsg m else d.putWork m).settle m.ptn

/-- The item under way has been registered and its outcome follows later (R303: PUNTY_PUBLISH). -/
def Dev.itemGoesOn (d : Dev) (msg : Nat) : Dev :=
  match d.work.find? fun m => m.id = msg with
  | none => d
  | some m => (d.putWork { m with busy := false, next := m.next + 1 }).settle m.ptn

/-- An item that its owner performs: its message, its place, its partition (255 for the operator role), its body. -/
structure Item where
  msg : Nat
  item : Nat
  ptn : Nat
  body : List Byte
  qp : Option (Nat × Nat × Nat)
deriving DecidableEq, Repr

/-- The sequence of a command's operand: a partition, 24 for operator messages. -/
def seqPtn (p : Nat) : Nat := if p = 24 then 0xFF else p

/-- The message of a sequence whose next item is due: messages of a partition that is not ACTIVE are held (16, R333), and all of them while a service core is being swapped (19, R412). -/
def Dev.dueMsg (d : Dev) (p : Nat) : Option WorkMsg :=
  match d.frontMsg (seqPtn p) with
  | none => none
  | some m => if m.busy || !d.seqRuns m.ptn || (d.instAt 4).isSome then none else some m

/-- Adapter management, the tokenizer and the voice-session glue run on the partition's own cores (15, R314). -/
def ownService (k : Nat) : Bool := [0x0048, 0x0049, 0x0200, 0x0201, 0x0210, 0x0211, 0x0212].contains k

/-- The item of kind `k` that is due in the sequence of a command's operand `p`, with the device that has it under way (R303). -/
def Dev.nextItem (d : Dev) (p k : Nat) : Option (Item × Dev) :=
  match d.dueMsg p with
  | none => none
  | some m =>
    match m.items[m.next]? with
    | none => none
    | some (k', body) =>
      if k' ≠ k then none
      else
        let e : Dev := { d with work := d.work.map fun x => if x.id = m.id then { m with busy := true } else x }
        some (⟨m.id, m.next, m.ptn, body, m.qp⟩, e.svcRuns m.ptn (ownService k))

/-- Post the outcome of an item; what it had asked of other devices is no longer kept. -/
def Dev.endItem (d : Dev) (i : Item) (code info : Nat) : Dev :=
  ({ d with far := d.far.filter fun f => f.who ≠ 0x8000 + i.ptn } : Dev).post i.msg i.item code info

/-- POISON_CONSUMED (17, R379). -/
abbrev cPoison : Nat := 0x3001

/-- INFO of POISON_CONSUMED from a hart: consumer 5; the unit, of which the spec does not say whether core or hart it numbers, is a free value (17, R379). -/
def Dev.hartInfo (d : Dev) : Nat × Dev :=
  let (x, d) := d.takeFree
  (0x50 + x % 65536 * 65536, d)

/-- An item whose reading hart has consumed a mark fails (17, R367). -/
def Dev.hartPoison (d : Dev) (i : Item) : Dev := d.hartInfo.2.endItem i cPoison d.hartInfo.1

/-- The service of an item meets an uncorrectable codeword of service SRAM: in the region in which it runs (17, R368). -/
def Dev.svcBad (d : Dev) (p k : Nat) : Option Nat :=
  (if ownService k && !(d.ownCores p).isEmpty then d.ownCores p else [0]).find? fun x => d.sram.contains (.service x)

/-- The item that is due and whose service meets no error in its own memory. -/
def Dev.dueItem (d : Dev) (p k : Nat) : Option (Item × Dev) :=
  match d.nextItem p k with
  | none => none
  | some (i, e) => if (e.svcBad i.ptn k).isSome then none else some (i, e)

/-- Perform the next item of a sequence when it is of kind `k`; `f` posts its outcome or leaves it under way. An item whose service consumes an error of its own memory fails (17, R367). -/
def Dev.serveItem (d : Dev) (p k : Nat) (f : Dev → Item → Dev) : Dev :=
  match d.nextItem p k with
  | none => d
  | some (i, e) => match e.svcBad i.ptn k with
    | some x => (e.sramMet (.service x)).hartPoison i
    | none => f e i

end Sys2Proof.Machine
end

