-- ==== Sys2Proof/Machine/Num.lean ====
section
/-! DEFINITION. Number formats and their arithmetic (03, R50, R52–R55): every operand is an exact value, every operation is computed exactly and rounded once. -/

namespace Sys2Proof.Machine

/-- The number of bits of `n`: 0 for 0. -/
def blen (n : Nat) : Nat := if n = 0 then 0 else n.log2 + 1

/-- `m × 2^sh` rounded to an integer, to nearest with ties to even. -/
def rneShift (m : Nat) (sh : Int) : Nat :=
  if 0 ≤ sh then m * 2 ^ sh.toNat
  else
    let d := 2 ^ (-sh).toNat
    let q := m / d
    let r := m % d
    if 2 * r < d then q else if 2 * r > d then q + 1 else q + q % 2

/-- Round `m × 2^e` to `p` bits of precision with no quantum below `2^emin`: the rounded mantissa and its power (R53). -/
def roundTo (p : Nat) (emin : Int) (m : Nat) (e : Int) : Nat × Int :=
  let q : Int := max (e + blen m - p) emin
  (rneShift m (e - q), q)

/-! ### FP32 patterns -/

/-- The canonical NaN (R50). -/
def nan32 : Word := 0x7FC00000#32

/-- The exact value of an FP32 pattern. -/
def ofF32 (w : Word) : Fv :=
  let n := w.toNat
  let neg := bitOf n 31
  let ex := fld n 30 23
  let fr := fld n 22 0
  if ex = 255 then (if fr = 0 then .inf neg else .nan)
  else if ex = 0 then .fin neg fr (-149)
  else .fin neg (fr + 2 ^ 23) (ex - 150)

/-- A sign bit at place 31. -/
def signBit (neg : Bool) : Nat := if neg then 2 ^ 31 else 0

/-- An exact value rounded once to FP32, to nearest with ties to even; subnormals kept, overflow to infinity (R50, R55). -/
def toF32 : Fv → Word
  | .nan => nan32
  | .inf neg => BitVec.ofNat 32 (signBit neg + 0x7F800000)
  | .fin neg m e =>
    let (m', q) := roundTo 24 (-149) m e
    if m' = 0 then BitVec.ofNat 32 (signBit neg)
    else
      let (m', q) := if m' = 2 ^ 24 then (2 ^ 23, q + 1) else (m', q)
      if m' < 2 ^ 23 then BitVec.ofNat 32 (signBit neg + m')
      else if 105 ≤ q then BitVec.ofNat 32 (signBit neg + 0x7F800000)
      else BitVec.ofNat 32 (signBit neg + (q + 150).toNat * 2 ^ 23 + (m' - 2 ^ 23))

/-- An FP32 pattern is an infinity. -/
def isInf32 (w : Word) : Bool := fld w.toNat 30 0 = 0x7F800000

/-! ### Exact arithmetic on values -/

/-- Negate. -/
def Fv.neg : Fv → Fv
  | .nan => .nan
  | .inf s => .inf !s
  | .fin s m e => .fin (!s) m e

/-- Absolute value. -/
def Fv.abs : Fv → Fv
  | .nan => .nan
  | .inf _ => .inf false
  | .fin _ m e => .fin false m e

/-- The signed mantissa. -/
def sgn (neg : Bool) (m : Nat) : Int := if neg then -(m : Int) else m

/-- The exact sum. An exact zero of unlike signs is +0, of two negative zeros −0 (IEEE 754, round to nearest). -/
def Fv.add : Fv → Fv → Fv
  | .nan, _ => .nan
  | _, .nan => .nan
  | .inf a, .inf b => if a = b then .inf a else .nan
  | .inf a, .fin _ _ _ => .inf a
  | .fin _ _ _, .inf b => .inf b
  | .fin s m e, .fin s' m' e' =>
    let k := min e e'
    let t := sgn s m * 2 ^ (e - k).toNat + sgn s' m' * 2 ^ (e' - k).toNat
    if t = 0 then .fin (s && s') 0 k else .fin (t < 0) t.natAbs k

/-- The exact product; infinity times zero is NaN. -/
def Fv.mul : Fv → Fv → Fv
  | .nan, _ => .nan
  | _, .nan => .nan
  | .inf a, .inf b => .inf (a != b)
  | .inf a, .fin s m _ => if m = 0 then .nan else .inf (a != s)
  | .fin s m _, .inf a => if m = 0 then .nan else .inf (a != s)
  | .fin s m e, .fin s' m' e' => .fin (s != s') (m * m') (e + e')

/-- Multiply by a power of two. -/
def Fv.scale (v : Fv) (k : Int) : Fv :=
  match v with
  | .fin s m e => .fin s m (e + k)
  | w => w

/-- Exact comparison `a < b` of values that are no NaN; the two zeros are equal. -/
def Fv.lt : Fv → Fv → Bool
  | .nan, _ => false
  | _, .nan => false
  | .inf a, .inf b => a && !b
  | .inf a, .fin _ _ _ => a
  | .fin _ _ _, .inf b => !b
  | .fin s m e, .fin s' m' e' =>
    let k := min e e'
    sgn s m * 2 ^ (e - k).toNat < sgn s' m' * 2 ^ (e' - k).toNat

/-- The value is zero. -/
def Fv.isZero : Fv → Bool
  | .fin _ m _ => m = 0
  | _ => false

/-- The value is NaN. -/
def Fv.isNan : Fv → Bool
  | .nan => true
  | _ => false

/-- The sign. -/
def Fv.sign : Fv → Bool
  | .nan => false
  | .inf s => s
  | .fin s _ _ => s

/-- The larger of two values, +0 above −0; NaN if either is (R55). -/
def Fv.max (a b : Fv) : Fv :=
  if a.isNan || b.isNan then .nan
  else if a.lt b then b else if b.lt a then a else if a.sign then b else a

/-- The smaller of two values, −0 below +0; NaN if either is (R55). -/
def Fv.min (a b : Fv) : Fv :=
  if a.isNan || b.isNan then .nan
  else if a.lt b then a else if b.lt a then b else if a.sign then a else b

/-! ### Element formats (R52) -/

/-- Exponent width, mantissa width and bias of a floating format code. -/
def fmtShape : Nat → Option (Nat × Nat × Nat)
  | 1 => some (2, 1, 1)
  | 2 => some (2, 3, 1)
  | 3 => some (3, 2, 3)
  | 4 => some (4, 3, 7)
  | 5 => some (5, 2, 15)
  | 8 => some (8, 7, 127)
  | 9 => some (5, 10, 15)
  | 10 => some (8, 23, 127)
  | _ => none

/-- Width of an element in bits; 0 for a reserved code (R52). -/
def fmtWidth : Nat → Nat
  | 1 => 4
  | 2 => 6
  | 3 => 6
  | 4 => 8
  | 5 => 8
  | 6 => 8
  | 8 => 16
  | 9 => 16
  | 10 => 32
  | _ => 0

/-- The exact value of an element of format `f` (R52). -/
def ofFmt (f n : Nat) : Fv :=
  if f = 6 then
    let i := signed 8 n
    .fin (i < 0) i.natAbs (-6)
  else match fmtShape f with
  | none => .nan
  | some (eb, mb, bias) =>
    let neg := bitOf n (eb + mb)
    let ex := fld n (eb + mb - 1) mb
    let fr := n % 2 ^ mb
    let top : Nat := 2 ^ eb - 1
    if f = 4 ∧ ex = top ∧ fr = 7 then .nan
    else if (f = 5 ∨ f = 8 ∨ f = 9 ∨ f = 10) ∧ ex = top then (if fr = 0 then .inf neg else .nan)
    else if ex = 0 then .fin neg fr (1 - (bias : Int) - mb)
    else .fin neg (fr + 2 ^ mb) ((ex : Int) - bias - mb)

/-- Magnitude pattern of the largest finite value of a format. -/
def fmtMax : Nat → Nat
  | 1 => 0x7
  | 2 => 0x1F
  | 3 => 0x1F
  | 4 => 0x7E
  | 5 => 0x7B
  | 6 => 0x7F
  | 8 => 0x7F7F
  | 9 => 0x7BFF
  | _ => 0x7F7FFFFF

/-- The format has an infinity (R52). -/
def fmtHasInf (f : Nat) : Bool := f = 5 || f = 8 || f = 9 || f = 10

/-- What a conversion gives: the pattern, and whether it saturated or turned a NaN into +0 (R53). -/
structure Conv where
  bits : Nat
  sat : Bool := false
  nanZero : Bool := false
deriving DecidableEq, Repr

/-- Convert an exact value to a format narrower than FP32 (R53). -/
def toFmt (f : Nat) (v : Fv) : Conv :=
  if f = 6 then
    match v with
    | .nan => ⟨0, false, true⟩
    | .inf s => ⟨if s then 256 - 127 else 127, true, false⟩
    | .fin s m e =>
      let k := rneShift m (e + 6)
      if 127 < k then ⟨if s then 256 - 127 else 127, true, false⟩
      else ⟨if s ∧ k ≠ 0 then 256 - k else k, false, false⟩
  else match fmtShape f with
  | none => ⟨0, false, false⟩
  | some (eb, mb, bias) =>
    let sb : Bool → Nat := fun s => if s then 2 ^ (eb + mb) else 0
    match v with
    | .nan =>
      if f = 4 then ⟨0x7F, false, false⟩
      else if f = 5 then ⟨0x7E, false, false⟩
      else if f = 8 then ⟨0x7FC0, false, false⟩
      else if f = 9 then ⟨0x7E00, false, false⟩
      else if f = 10 then ⟨0x7FC00000, false, false⟩
      else ⟨0, false, true⟩
    | .inf s =>
      if fmtHasInf f then ⟨sb s + (2 ^ eb - 1) * 2 ^ mb, false, false⟩
      else ⟨sb s + fmtMax f, true, false⟩
    | .fin s m e =>
      let (m', q) := roundTo (mb + 1) (1 - (bias : Int) - mb) m e
      let (m', q) := if m' = 2 ^ (mb + 1) then (2 ^ mb, q + 1) else (m', q)
      let mag : Nat :=
        if m' < 2 ^ mb then m' else (q + bias + mb).toNat * 2 ^ mb + (m' - 2 ^ mb)
      if m' ≠ 0 ∧ fmtMax f < mag then ⟨sb s + fmtMax f, true, false⟩
      else ⟨sb s + mag, false, false⟩

/-- floor(log2 |v|) of a nonzero finite value. -/
def floorLog2 (m : Nat) (e : Int) : Int := e + blen m - 1

/-- emax of R54. -/
def fmtEmax : Nat → Int
  | 1 => 2
  | 2 => 2
  | 3 => 4
  | 4 => 8
  | 5 => 15
  | _ => 0

/-- The value is NaN or infinite. -/
def Fv.special : Fv → Bool
  | .fin _ _ _ => false
  | _ => true

/-- CVTMX: one MX block with its shared scale (R54). -/
def cvtMx (f : Nat) (xs : List Fv) : Nat × List Conv :=
  if xs.any Fv.special then (0xFF, xs.map fun _ => ⟨0, false, false⟩)
  else
    let amax := xs.foldl (fun a x => Fv.max a x.abs) (.fin false 0 0)
    match amax with
    | .fin _ m e =>
      if m = 0 then (0, xs.map fun x => toFmt f x)
      else
        let k : Int := max (-127) (min 127 (floorLog2 m e - fmtEmax f))
        ((k + 127).toNat, xs.map fun x => toFmt f (x.scale (-k)))
    | _ => (0xFF, xs.map fun _ => ⟨0, false, false⟩)

/-- The power of two of an E8M0 scale; none for 0xFF, which is NaN (R52). -/
def e8m0 (n : Nat) : Option Int := if n = 0xFF then none else some ((n : Int) - 127)

/-- Multiply by an E8M0 scale. -/
def Fv.e8 (v : Fv) (n : Nat) : Fv :=
  match e8m0 n with
  | none => .nan
  | some k => v.scale k

/-! ### FP32 lane operations (R55) -/

/-- IEEE addition. -/
def addF (a b : Word) : Word := toF32 ((ofF32 a).add (ofF32 b))
/-- IEEE subtraction. -/
def subF (a b : Word) : Word := toF32 ((ofF32 a).add (ofF32 b).neg)
/-- IEEE multiplication. -/
def mulF (a b : Word) : Word := toF32 ((ofF32 a).mul (ofF32 b))
/-- Fused multiply-add, rounded once. -/
def fmaF (a b c : Word) : Word := toF32 (((ofF32 a).mul (ofF32 b)).add (ofF32 c))
/-- Larger; +0 above −0. -/
def maxF (a b : Word) : Word := toF32 ((ofF32 a).max (ofF32 b))
/-- Smaller; −0 below +0. -/
def minF (a b : Word) : Word := toF32 ((ofF32 a).min (ofF32 b))

/-- The word, a NaN made canonical. -/
def canonF (a : Word) : Word := toF32 (ofF32 a)

/-- A nonzero quotient `n / d × 2^k` with a sticky bit below 40 bits of quotient, so that one rounding of it is the rounding of the exact quotient. -/
def quot (neg : Bool) (n d : Nat) (k : Int) : Fv :=
  let sh := blen d + 40
  let q := n * 2 ^ sh / d
  .fin neg (2 * q + (if n * 2 ^ sh % d = 0 then 0 else 1)) (k - sh - 1)

/-- Exact quotient of values, correctly rounded when rounded once. -/
def Fv.div : Fv → Fv → Fv
  | .nan, _ => .nan
  | _, .nan => .nan
  | .inf _, .inf _ => .nan
  | .inf a, .fin s _ _ => .inf (a != s)
  | .fin s _ _, .inf a => .fin (s != a) 0 0
  | .fin s m e, .fin s' m' e' =>
    if m' = 0 then (if m = 0 then .nan else .inf (s != s'))
    else if m = 0 then .fin (s != s') 0 0
    else quot (s != s') m m' (e - e')

/-- 1 / a (R55). -/
def rcpF (a : Word) : Word := toF32 ((Fv.fin false 1 0).div (ofF32 a))

/-- Integer square root, by Newton's method on fuel. -/
def isqrtGo : Nat → Nat → Nat → Nat
  | 0, _, x => x
  | k + 1, n, x =>
    let y := (x + n / x) / 2
    if y < x then isqrtGo k n y else x

/-- floor(sqrt n). -/
def isqrt (n : Nat) : Nat := if n = 0 then 0 else isqrtGo 600 n (2 ^ ((blen n + 1) / 2))

/-- 1 / sqrt(a) (R55). -/
def rsqrtF (a : Word) : Word :=
  match ofF32 a with
  | .nan => nan32
  | .inf true => nan32
  | .inf false => 0
  | .fin s m e =>
    if m = 0 then BitVec.ofNat 32 (signBit s + 0x7F800000)
    else if s then nan32
    else
      -- a = m' × 2^(2h) with m' = m or 2 m
      let m' := if e % 2 = 0 then m else 2 * m
      let h : Int := if e % 2 = 0 then e / 2 else (e - 1) / 2
      let k : Nat := 80
      let n : Nat := 2 ^ (2 * k) / m'
      let r : Nat := isqrt n
      let st : Nat := if r * r * m' = 2 ^ (2 * k) then 0 else 1
      toF32 (.fin false (2 * r + st) (-h - k - 1))

/-! ### Exponentials and logarithms, correctly rounded

Fixed-point fractions of `fxBits` bits with errors far below the distance at which a binary32 result could be near a rounding boundary; a sticky one is appended, so the single rounding that follows is that of the exact value. -/

/-- Fraction bits of the fixed-point evaluation. -/
def fxBits : Nat := 256

/-- ln 2 in fixed point: the sum of 1 / (k 2^k). -/
def ln2Fx : Nat := (List.range 270).foldl (fun s k => s + 2 ^ fxBits / ((k + 1) * 2 ^ (k + 1))) 0

/-- e^x for 0 ≤ x < 1 in fixed point, by its series. -/
def expSeries : Nat → Nat → Nat → Nat → Nat → Nat
  | 0, _, _, _, acc => acc
  | n + 1, k, x, term, acc =>
    let t := term * x / 2 ^ fxBits / (k + 1)
    expSeries n (k + 1) x t (acc + t)

/-- 2^f for a fixed-point fraction 0 ≤ f < 1, as a fixed-point number in [1, 2). -/
def exp2Fx (f : Nat) : Nat :=
  let x := f * ln2Fx / 2 ^ fxBits
  expSeries 80 0 x (2 ^ fxBits) (2 ^ fxBits)

/-- 2^t for an exact fixed-point argument t = i + f, with a sticky bit unless f is zero. -/
def exp2Of (i : Int) (f : Nat) : Fv :=
  if f = 0 then .fin false 1 i else .fin false (2 * exp2Fx f + 1) (i - fxBits - 1)

/-- m × 2^e (signed) as a floor integer part and a fixed-point fraction; a fraction below the last place counts as the least one. -/
def splitFx (neg : Bool) (m : Nat) (e : Int) : Int × Nat :=
  let sh : Int := e + fxBits
  let mag : Nat := if 0 ≤ sh then m * 2 ^ sh.toNat
    else max 1 (m / 2 ^ (-sh).toNat)
  let t : Int := sgn neg mag
  (t / 2 ^ fxBits, (t % 2 ^ fxBits).toNat)

/-- 2^a (R55). -/
def exp2F (a : Word) : Word :=
  match ofF32 a with
  | .nan => nan32
  | .inf true => 0
  | .inf false => BitVec.ofNat 32 0x7F800000
  | .fin s m e =>
    if m = 0 then toF32 (.fin false 1 0)
    else if 9 ≤ floorLog2 m e then (if s then 0 else BitVec.ofNat 32 0x7F800000)
    else let (i, f) := splitFx s m e; toF32 (exp2Of i f)

/-- e^a (R55): a is divided by ln 2 in fixed point. -/
def expF (a : Word) : Word :=
  match ofF32 a with
  | .nan => nan32
  | .inf true => 0
  | .inf false => BitVec.ofNat 32 0x7F800000
  | .fin s m e =>
    if m = 0 then toF32 (.fin false 1 0)
    else if 8 ≤ floorLog2 m e then (if s then 0 else BitVec.ofNat 32 0x7F800000)
    else
      let sh : Int := e + 2 * fxBits
      let num : Nat := if 0 ≤ sh then m * 2 ^ sh.toNat else max 1 (m / 2 ^ (-sh).toNat)
      let mag := max 1 (num / ln2Fx)
      let t : Int := sgn s mag
      toF32 (exp2Of (t / 2 ^ fxBits) (t % 2 ^ fxBits).toNat)

/-- Binary digits of log2 of a fixed-point number in [1, 2), by repeated squaring. -/
def log2Go : Nat → Nat → Nat → Nat
  | 0, _, acc => acc
  | n + 1, y, acc =>
    let z := y * y / 2 ^ fxBits
    if 2 ^ (fxBits + 1) ≤ z then log2Go n (z / 2) (2 * acc + 1) else log2Go n z (2 * acc)

/-- log2 a (R55): 120 fraction digits and a sticky bit; exact for a power of two. -/
def log2F (a : Word) : Word :=
  match ofF32 a with
  | .nan => nan32
  | .inf true => nan32
  | .inf false => BitVec.ofNat 32 0x7F800000
  | .fin s m e =>
    if m = 0 then BitVec.ofNat 32 0xFF800000
    else if s then nan32
    else
      let i := floorLog2 m e
      let pw : Nat := 2 ^ (blen m - 1)
      if m = pw then toF32 (.fin (i < 0) i.natAbs 0)
      else
        let y : Nat := m * 2 ^ (fxBits + 1 - blen m : Nat)
        let d : Nat := log2Go 120 y 0
        let t : Int := i * 2 ^ 121 + (2 * d + 1)
        toF32 (.fin (t < 0) t.natAbs (-121))

/-- The larger of two lanes without canonical zero rules lost: used by RMAX. -/
def rmaxF (l : List Word) : Word :=
  match l with
  | [] => 0
  | a :: t => t.foldl maxF (canonF a)

/-- Adjacent pairs summed, rounding at each addition: one level of RSUM. -/
def pairSums : List Word → List Word
  | a :: b :: t => addF a b :: pairSums t
  | l => l

/-- RSUM: four levels of adjacent pair sums of 16 lanes (R55). -/
def rsumF (l : List Word) : Word := ((pairSums (pairSums (pairSums (pairSums l)))).head?).getD 0

end Sys2Proof.Machine
end

