-- ==== Sys2Proof/Machine/Merge.lean ====
section
/-! DEFINITION. The merge unit of a cluster (08, R165–R168): partial records, the list merge, the progress of a MERGE word by word. -/

namespace Sys2Proof.Machine

/-- DPA of word `w` of cluster `n`. -/
def wordDpa (n w : Nat) : Nat := bufBase n + 32 * w

/-! ### Fields of MERGE (R167) -/

def mgPbase (w : Nat) : Nat := fld w 22 8
def mgParts (w : Nat) : Nat := fld w 28 23 + 1
def mgHdim (w : Nat) : Nat := fld w 30 29
def mgD (w : Nat) : Nat := 64 * 2 ^ mgHdim w
def mgOfmt (w : Nat) : Nat := fld w 32 31
def mgCount (w : Nat) : Nat := fld w 44 33 + 1
def mgObase (w : Nat) : Nat := fld w 59 45
def mgPstride (w : Nat) : Nat := fld w 79 64
def mgMstride (w : Nat) : Nat := fld w 95 80
def mgOstride (w : Nat) : Nat := fld w 111 96
def mgRead (w : Nat) : Nat := fld w 175 112
def mgWrite (w : Nat) : Nat := fld w 239 176
def mgSigEn (w : Nat) : Bool := bitOf w 240
def mgSigFlag (w : Nat) : Nat := fld w 246 241
/-- Words of a partial record and of an output (08, R165, R167). -/
def mgPwords (w : Nat) : Nat := (4 * mgD w + 32) / 32
def mgOwords (w : Nat) : Nat := if mgOfmt w = 0 then mgD w / 8 else if mgOfmt w = 1 then mgD w / 16 else mgPwords w

/-! ### Partials (R165) -/

/-- One partial as its words spell it. -/
structure Partial where
  o : List Word
  m : Word
  l : Word
  n : Nat
  empty : Bool
deriving DecidableEq, Repr

/-- The partial in the bytes of a record (R165). -/
def partialOf (dd : Nat) (bs : List Byte) : Partial :=
  ⟨(List.range dd).map fun i => BitVec.ofNat 32 (numAt bs (4 * i) 4), BitVec.ofNat 32 (numAt bs (4 * dd) 4),
   BitVec.ofNat 32 (numAt bs (4 * dd + 4) 4), numAt bs (4 * dd + 8) 4, bitOf (numAt bs (4 * dd + 12) 4) 0⟩

/-- The bytes of a partial record (R165). -/
def Partial.bytes (p : Partial) : List Byte :=
  p.o.flatMap (fun w => leBytes 4 w.toNat) ++ leBytes 4 p.m.toNat ++ leBytes 4 p.l.toNat ++ leBytes 4 p.n
    ++ leBytes 4 (if p.empty then 1 else 0) ++ List.replicate 16 0

/-- The empty partial (R165). -/
def Partial.none_ (dd : Nat) : Partial := ⟨List.replicate dd 0, 0xFF800000#32, 0, 0, true⟩

/-! ### The list merge (R166) -/

/-- An exact value rounded once to FP32, and whether it overflowed: a finite value became an infinity. -/
def roundOver (x : Fv) : Word × Bool := (toF32 x, !x.special && isInf32 (toF32 x))

/-- A fused multiply-add of FP32 words, and whether it overflowed. -/
def fmaOver (a b c : Word) : Word × Bool := roundOver (((ofF32 a).mul (ofF32 b)).add (ofF32 c))

/-- The list merge, and whether an operation of it overflowed (R162, R166). -/
def mergeOver (dd : Nat) (ps : List Partial) : Partial × Bool :=
  if ps.all (·.empty) then (Partial.none_ dd, false)
  else
    let m := (ps.map Partial.m).foldl maxF 0xFF800000#32
    ps.foldl (fun a p =>
      if p.empty then a
      else
        let x := roundOver ((ofF32 p.m).add (ofF32 m).neg)
        let w := expF x.1
        let l := fmaOver w p.l a.1.l
        let o := List.zipWith (fun x y => fmaOver w x y) p.o a.1.o
        ({ a.1 with l := l.1, o := o.map Prod.fst, n := (a.1.n + p.n) % 2 ^ 32 }, a.2 || x.2 || l.2 || o.any Prod.snd))
      (⟨List.replicate dd 0, m, 0, 0, false⟩, false)

/-- The list merge (R166). -/
def mergeList (dd : Nat) (ps : List Partial) : Partial := (mergeOver dd ps).1

/-- The output bytes of a merge in its format (R167). -/
def mergeOut (fmt : Nat) (p : Partial) : List Byte :=
  if fmt = 2 then p.bytes
  else
    let r := rcpF p.l
    let o := p.o.map fun x => mulF x r
    if fmt = 0 then o.flatMap fun w => leBytes 4 w.toNat
    else o.flatMap fun w => leBytes 2 (toFmt 8 (ofF32 w)).bits

/-! ### Progress (R168) -/

/-- The bytes of the words that merge unit `m` has read, as the partials of its merge. -/
def MergeRun.parts (m : MergeRun) (bs : List Byte) : List Partial :=
  let w := m.w.toNat
  (List.range (mgParts w)).map fun i => partialOf (mgD w) (bytesAt bs (32 * mgPwords w * i) (32 * mgPwords w))

/-- The word that the merge unit reads next: partials in ascending i, their words in ascending order. -/
def MergeRun.nextWord (m : MergeRun) : Nat :=
  let w := m.w.toNat
  let t := m.got.length / 32
  mgPbase w + m.c * mgMstride w + t / mgPwords w * mgPstride w + t % mgPwords w

/-- Every merge of the command is done. -/
def MergeRun.over (m : MergeRun) : Bool := mgCount m.w.toNat ≤ m.c

/-- What one access of the merge unit does: it goes on, or meets a marked word. -/
inductive MergeStep where
  | goes (d : Dev) (m : MergeRun)
  | marked (d : Dev) (dpa : Nat)

/-- The merge unit of cluster `n` reads the next partial word by its own access; with the last word of a merge its output is written (R168; 17, R366). -/
def Dev.mergeStep (d : Dev) (n : Nat) (m : MergeRun) : MergeStep :=
  let w := m.w.toNat
  let ag := agPtn (tgetD d.jobs m.job {}).ptn (some m.job)
  let a := wordDpa n m.nextWord
  let d := (d.noteErrs a 32).noteSecure ag a 32
  if d.markedAt a 32 then .marked d (d.firstMark a 32)
  else
    let bs := m.got ++ d.readMem ag a 32
    if bs.length < 32 * mgParts w * mgPwords w then .goes d { m with got := bs }
    else
      let o := bytesAt (mergeOut (mgOfmt w) (mergeList (mgD w) (m.parts bs))) 0 (32 * mgOwords w)
      .goes (d.writeMem ag (wordDpa n (mgObase w + m.c * mgOstride w)) o false).1 { m with c := m.c + 1, got := [] }

/-- A job abort stops the command at the end of the current merge (R168); one that meets a marked word ends there. -/
def Dev.mergeAbort (n : Nat) : Nat → Dev → MergeRun → Dev
  | 0, d, _ => d
  | f + 1, d, m =>
    if m.over then d
    else match d.mergeStep n m with
      | .marked d _ => d
      | .goes d x => if x.c ≠ m.c then d else Dev.mergeAbort n f d x

end Sys2Proof.Machine
end

