-- ==== Sys2Proof/Machine/Rec0.lean ====
section
/-! DEFINITION. The boot record (19, R401): its current copy, and a write of it. The retirements, spare maps and soft remap tables that it holds stand with the units. -/

namespace Sys2Proof.Machine

def Dev.setRec (d : Dev) (i : Nat) (r : Option BootRec) : Dev :=
  { d with
    boot := { d.boot with recs := modAt d.boot.recs i fun _ => r }
    sec := { d.sec with bootRec := d.sec.bootRec.bind fun _ => r } }

/-- The copy that is current: of the valid copies the one with the higher SEQ. -/
def Dev.curRec (d : Dev) : Option BootRec :=
  match (d.boot.recs[0]?).getD none, (d.boot.recs[1]?).getD none with
  | some a, some b => if a.seq < b.seq then some b else some a
  | some a, none => some a
  | none, b => b

/-- Write the record: SEQ + 1, into copy (SEQ + 1) mod 2. Without a valid copy nothing is written. -/
def Dev.writeRec (d : Dev) (f : BootRec → BootRec) : Dev :=
  match d.curRec with
  | none => d
  | some r => d.setRec ((r.seq + 1) % 2) (some { f r with seq := r.seq + 1 })

/-- A retirement, a repair or a re-admission is written to the record (R401). -/
def Dev.noteRec (d : Dev) : Dev := d.writeRec id

end Sys2Proof.Machine
end

