-- ==== Sys2Proof/Machine/Void0.lean ====
section
/-! DEFINITION. Guarantees and the causes that void them (11, R229, R230), on what a partition holds beside its registers. -/

namespace Sys2Proof.Machine

/-- Partition `p` beyond its registers. -/
def Dev.px (d : Dev) (p : Nat) : PtnX := tgetD d.ptnx p {}
def Dev.setPx (d : Dev) (p : Nat) (x : PtnX) : Dev := { d with ptnx := tput d.ptnx p x }
def Dev.modPx (d : Dev) (p : Nat) (f : PtnX → PtnX) : Dev := d.setPx p (f (d.px p))

/-! ### Guarantees (11, R229, R230) -/

/-- Open batches of a partition that satisfy `f`, as a map. -/
def Dev.openMap (d : Dev) (p : Nat) (f : Batch → Bool) : Nat := maskOf ((d.batches.filter fun b => b.2.ptn = p && f b.2).map Prod.fst)

/-- Causes in force: PTN_GUARANTEE.CAUSES. -/
def Dev.causes (d : Dev) (p : Nat) : Nat := d.getF (pPtn p) 0x3A4 9 0

/-- Mark the running step when the map names its batch. -/
def Dev.voidStep (d : Dev) (p c map : Nat) : Dev :=
  d.modPx p fun x => { x with step := x.step.map fun t => if bitOf map t.batch then { t with voids := setFld t.voids c c 1 } else t }

/-- An onset of a cause of R229: GUARANTEE_VOID with the open batches that this onset affects. -/
def Dev.voidOnset (d : Dev) (p c map : Nat) : Dev :=
  ((d.voidStep p c map).setBit (pPtn p) 0x3A4 c true).record p 0x0005 (leBytes 8 c ++ leBytes 8 map)

/-- A cause comes into force, or is in force already: one onset. -/
def Dev.voidOn (d : Dev) (p c map : Nat) : Dev :=
  if d.bit (pPtn p) 0x3A4 c then d.voidStep p c map else d.voidOnset p c map

/-- A cause ends; when none is left, GUARANTEE_RESTORED. -/
def Dev.voidOff (d : Dev) (p c : Nat) : Dev :=
  if !d.bit (pPtn p) 0x3A4 c then d
  else
    let d := d.setBit (pPtn p) 0x3A4 c false
    if d.causes p = 0 then d.record p 0x0006 (List.replicate 8 0 ++ leBytes 8 (d.openMap p fun _ => true)) else d

/-- CLUSTERS of a loaded program names the cluster (R224). -/
def Prog.uses (g : Prog) (n : Nat) : Bool := bitOf g.clusters n

/-- The program of a batch. -/
def Dev.batchProg (d : Dev) (b : Batch) : Option Prog := tget? (d.px b.ptn).progs b.prog

/-- An onset of CHANNEL 1, LANE 2 or UNIT 3: every step of the batches whose programs `f` names, loaded before it, is void; in force while such a program is loaded. -/
def Dev.voidProgs (d : Dev) (p c : Nat) (f : Prog → Bool) : Dev :=
  if !((d.px p).progs.any fun g => f g.2) then d
  else
    let map := d.openMap p fun b => match tget? (d.px p).progs b.prog with | some g => f g | none => false
    (d.modPx p fun x => { x with progs := tmap x.progs fun _ g => if f g then { g with voids := setFld g.voids c c 1 } else g }).voidOnset p c map

/-- Causes that only a program carries end when no loaded program carries them. -/
def Dev.voidUnload (d : Dev) (p : Nat) : Dev :=
  d.each [1, 2, 3] fun d c => if (d.px p).progs.any fun g => bitOf g.2.voids c then d else d.voidOff p c

/-- A queue of a general job has been bound: SETTING for the batches that kept NP = 0 (cause 9). -/
def Dev.voidSetting (d : Dev) (p : Nat) : Dev :=
  let m := d.openMap p fun b => !b.np
  if m = 0 then d else d.voidOnset p 9 m

/-- HCHECK of a cluster of partition `p` has been set: the batches whose programs name the cluster are affected while it is (cause 5). -/
def Dev.hcheckOn (d : Dev) (p n : Nat) : Dev :=
  if 24 ≤ p then d
  else d.voidOnset p 5 (d.openMap p fun b => match d.batchProg b with | some g => g.uses n | none => false)

/-- No cluster of the partition holds HCHECK any longer: cause 5 ends. -/
def Dev.hcheckOff (d : Dev) (p : Nat) : Dev :=
  if 24 ≤ p || (List.range 800).any fun n => d.owner (pClu n) = p && d.bit (pClu n) 0x7C0 0 then d else d.voidOff p 5

end Sys2Proof.Machine
end

