-- ==== Sys2Proof/Machine/Jobs.lean ====
section
/-! DEFINITION. Units, queues and jobs: the queue registers, the abort of a job in each kind of unit, and the fault of a job (04, R62–R64, R80; 07, R142; 11, R219–R223; 13, R272). -/

namespace Sys2Proof.Machine

/-! ### Units and their queue registers -/

/-- The page on which a unit records faults. -/
def uPage (u : UnitKey) : Page :=
  if u < 0x2000 then pClu u else if u < 0x4000 then pStk (u - 0x2000) 1 else pDmac (u - 0x4000)

/-- Queues of a unit. -/
def uQueues (u : UnitKey) : Nat := if u < 0x4000 then 8 else 2

/-- Offset of the 16-byte slot of queue `q` of a unit (04, R82; 07, R146; 13, R278). -/
def qOff (u : UnitKey) (q : Nat) : Nat := if u < 0x4000 then 0x80 + 16 * q else dslot (u - 0x4000) + 16 * q

/-- The job and weight of a queue's CFG; weight 0 is unbound. -/
def Dev.qJob (d : Dev) (u : UnitKey) (q : Nat) : Nat := d.getF (uPage u) (qOff u q) 11 0
def Dev.qWeight (d : Dev) (u : UnitKey) (q : Nat) : Nat := d.getF (uPage u) (qOff u q) 15 12
def Dev.qBound (d : Dev) (u : UnitKey) (q : Nat) : Bool := d.qWeight u q ≠ 0

/-- The stored part of QUEUE_STATUS.STATE: 5 FAULTED, 6 ABORTED, 7 HELD; else 0. -/
def Dev.qMark (d : Dev) (u : UnitKey) (q : Nat) : Nat := d.getF (uPage u) (qOff u q + 8) 2 0
def Dev.setQMark (d : Dev) (u : UnitKey) (q v : Nat) : Dev := d.setF (uPage u) (qOff u q + 8) 2 0 v
def Dev.setQFault (d : Dev) (u : UnitKey) (q code : Nat) : Dev := d.setF (uPage u) (qOff u q + 0xC) 15 0 code

/-- Bytes of the commands that a queue holds, in order. -/
def Dev.qCmds (d : Dev) (u : UnitKey) (q : Nat) : List Nat :=
  if u < 0x2000 then ((d.clu u).q q).cmds.map BitVec.toNat
  else if u < 0x4000 then ((d.stk (u - 0x2000)).q q).cmds.map BitVec.toNat
  else ((d.dma (u - 0x4000)).q q).cmds.map BitVec.toNat

/-- The commands that the intake holds for a queue. -/
def Dev.qHeld (d : Dev) (u : UnitKey) (q : Nat) : List HeldCmd :=
  if u < 0x2000 then ((d.clu u).q q).held
  else if u < 0x4000 then ((d.stk (u - 0x2000)).q q).held
  else ((d.dma (u - 0x4000)).q q).held

/-- The head of a queue waits on a flag. -/
def Dev.qWaiting (d : Dev) (u : UnitKey) (q : Nat) : Option (Nat × Nat) :=
  if u < 0x2000 then ((d.clu u).q q).waitAt
  else if u < 0x4000 then ((d.stk (u - 0x2000)).q q).waitAt
  else ((d.dma (u - 0x4000)).q q).waitAt

/-- A FENCE holds the queue. -/
def Dev.qFence (d : Dev) (u : UnitKey) (q : Nat) : Option Nat :=
  if u < 0x2000 then ((d.clu u).q q).fence
  else if u < 0x4000 then ((d.stk (u - 0x2000)).q q).fence
  else ((d.dma (u - 0x4000)).q q).fence

/-- The commands, held faults, wait and fence of a queue are gone. -/
def Dev.qClear (d : Dev) (u : UnitKey) (q : Nat) : Dev :=
  let d := d.sramMet (.queue u q)
  if u < 0x2000 then d.modGq u q fun x => { x with cmds := [], held := [], waitAt := none, fence := none }
  else if u < 0x4000 then d.modMq (u - 0x2000) q fun x => { x with cmds := [], held := [], waitAt := none, fence := none }
  else d.modDq (u - 0x4000) q fun x => { x with cmds := [], held := [], waitAt := none, fence := none }

/-- Set a queue's credit. -/
def Dev.qCredit (d : Dev) (u : UnitKey) (q c : Nat) : Dev :=
  if u < 0x2000 then d.modGq u q fun x => { x with credit := c }
  else if u < 0x4000 then d.modMq (u - 0x2000) q fun x => { x with credit := c }
  else d.modDq (u - 0x4000) q fun x => { x with credit := c }

/-- Bind a queue: CFG, cleared fault, credit equal to the weight (04, R68, R82). -/
def Dev.bindQ (d : Dev) (u : UnitKey) (q job weight : Nat) : Dev :=
  let d := d.setReg (uPage u) (qOff u q) (BitVec.ofNat 32 (job % 4096 + weight % 16 * 4096))
  let d := (d.setQMark u q 0).setQFault u q 0
  (d.qClear u q).qCredit u q weight

/-- Answer the ENQ items whose held commands a queue discards (14, R303): JOB_STATE with INFO reason 4 when the job is FAULTED, 2 when the queue is unbound. -/
def Dev.dropHeld (d : Dev) (u : UnitKey) (q reason : Nat) : Dev :=
  (d.qHeld u q).foldl (fun d h => d.post h.msg h.item 0x500F reason) d

/-- Unbind a queue. -/
def Dev.unbindQ (d : Dev) (u : UnitKey) (q : Nat) : Dev :=
  let d := d.dropHeld u q 2
  ((d.setReg (uPage u) (qOff u q) 0).setQMark u q 0).qClear u q

/-- Queues of a unit bound to a job. -/
def Dev.jobQueues (d : Dev) (u : UnitKey) (j : Nat) : List Nat :=
  below (uQueues u) fun q => d.qBound u q && d.qJob u q = j

/-- All units. -/
def allUnits : List UnitKey :=
  List.range 800 ++ (List.range 24).map (· + 0x2000) ++ (List.range 256).map (· + 0x4000)

/-- Units in which a job holds a queue. -/
def Dev.jobUnits (d : Dev) (j : Nat) : List UnitKey := allUnits.filter fun u => !(d.jobQueues u j).isEmpty

/-! ### Jobs -/

/-- Job `j`. -/
def Dev.job (d : Dev) (j : Nat) : Job := tgetD d.jobs j {}
def Dev.setJob (d : Dev) (j : Nat) (x : Job) : Dev := { d with jobs := tput d.jobs j x }
def Dev.modJob (d : Dev) (j : Nat) (f : Job → Job) : Dev := d.setJob j (f (d.job j))

/-- The job that has reserved a cluster (11, R232). -/
def Dev.reservedBy (d : Dev) (n : Nat) : Option Nat := (d.jobs.find? fun e => e.2.cls = 3 && e.2.clusters.contains n).map Prod.fst

/-- The unit treats the job as eligible (R220): a reserved job always, others once the scheduler's word has been applied. -/
def Dev.eligible (d : Dev) (u : UnitKey) (j : Nat) : Bool :=
  (d.job j).cls = 3 && (d.job j).state ≠ 2 || (d.job j).applied.contains u

/-! ### Tensor cores as the gaffer sees them -/

/-- Offset of the register slot of core `k` (03, R61). -/
abbrev coreOff (k : Nat) : Nat := 0x800 + 0x40 * k

/-- Core states (03, R61). -/
abbrev csIdle : Nat := 0
abbrev csRunning : Nat := 1
abbrev csFrozen : Nat := 2
abbrev csParked : Nat := 3

/-- Set CORE_STATUS: state, index, cause of freeze. -/
def Dev.coreSt (d : Dev) (n k st idx cause : Nat) : Dev :=
  d.setReg (pClu n) (coreOff k) (BitVec.ofNat 32 (st % 8 + idx % 4096 * 16 + cause % 16 * 65536))

/-- Index and state of a core. -/
def Dev.coreIdx (d : Dev) (n k : Nat) : Nat := d.getF (pClu n) (coreOff k) 15 4
def Dev.coreState (d : Dev) (n k : Nat) : Nat := d.getF (pClu n) (coreOff k) 2 0

/-- Set sticky bit `i` of a core. -/
def Dev.coreSticky (d : Dev) (n k i : Nat) : Dev := d.setBit (pClu n) (coreOff k + 4) i true

/-- The core is in service and not retired (CLU_CORE_INSERVICE). -/
def Dev.coreIn (d : Dev) (n k : Nat) : Bool := d.bit (pClu n) 0x7C4 k

/-- Non-preemptible work of a job, or a tile of it, is still running (11, R233, R234). -/
def Dev.workLeft (d : Dev) (j : Nat) : Bool :=
  (d.cores.any fun e => match e.2.tile with | some t => t.job = j && !t.stopped | none => false)
  || (d.clus.any fun e => match e.2.merge with | some m => m.job = j | none => false)
  || (d.stks.any fun e => (e.2.runs.any fun r => r.job = j)
      -- a copier transfer that finds no free save slot (13, R274)
      || 32 ≤ e.2.saved.length && e.2.copiers.any fun c => c.2.job = j)

/-- Charge the overrun that has run since the job lost its eligibility, or since it was last charged (11, R234); `still`: it runs on from there. -/
def Dev.accrueOverrun (d : Dev) (j : Nat) (still : Option Nat) : Dev :=
  match (d.job j).endedAt with
  | none => d
  | some t =>
    let n := d.ao - t
    (d.modJob j fun x => { x with endedAt := still, debt := x.debt + n, overrun := min (2 ^ 32 - 1) (x.overrun + n) }).addCount
      (pPtn (d.job j).ptn) 0x3AC n
def Dev.chargeOverrun (d : Dev) (j : Nat) : Dev := d.accrueOverrun j none

/-- An overrun ends when the last work of the job has ended. -/
def Dev.settleOverrun (d : Dev) (j : Nat) : Dev := if d.workLeft j then d else d.chargeOverrun j

/-- A core without a tile returns to IDLE, or leaves service if it retires with its tile (17, R375). -/
def Dev.coreIdle (d : Dev) (n k : Nat) : Dev :=
  let c := d.core n k
  let d := d.setCore n k { c with tile := none, fifo0 := [], fifo1 := [], retiring := false }
  let d := match c.tile with | some t => d.settleOverrun t.job | none => d
  if c.retiring then (d.setBit (pClu n) 0x7C4 k false).coreSt n k 5 (d.coreIdx n k) 0
  else d.coreSt n k csIdle (d.coreIdx n k) 0

/-- Stop a tile at the end of the current cycle without its END: its scoreboard entries are released, results in flight still land (04, R80; 03, R60). -/
def Dev.stopTile (d : Dev) (n k : Nat) : Dev :=
  let c := d.core n k
  match c.tile with
  | none => d
  | some t =>
    if t.stopped then d else
    let d := d.scoreFree n t.readR t.writeR
    let d := d.setCore n k { c with tile := some { t with ended := true, stopped := true }, fifo0 := [], fifo1 := [] }
    if c.flights.isEmpty then d.coreIdle n k else d

/-! ### Holds (13, R273, R276) -/

/-- Offset of hold slot `h` on a PTN page. -/
abbrev rHold (h : Nat) : Nat := 0x240 + 16 * h

/-- A hold slot holds a fault. -/
def Dev.holdValid (d : Dev) (p h : Nat) : Bool := d.bit (pPtn p) (rHold h) 0

/-- Free a hold slot. -/
def Dev.holdFree (d : Dev) (p h : Nat) : Dev :=
  ((d.setReg (pPtn p) (rHold h) 0).setReg (pPtn p) (rHold h + 4) 0).setReg (pPtn p) (rHold h + 8) 0

/-- Unit and queue of a hold: KIND 0 compute DMA, 1 gaffer stream. -/
def Dev.holdUnit (d : Dev) (p h : Nat) : UnitKey :=
  d.getF (pPtn p) (rHold h) 15 6 + (if d.bit (pPtn p) (rHold h) 5 then 0 else 0x4000)
def Dev.holdQueue (d : Dev) (p h : Nat) : Nat := d.getF (pPtn p) (rHold h) 18 16

/-! ### Abort (04, R80; 07, R142; 13, R272) -/

/-- The fault code and state that an abort leaves in the queues of the job: the faulting queue is FAULTED, the others ABORTED, all with the code that ended the job here (R80, R82): the fault's in the faulting unit, JOB_ABORTED in the others. -/
def Dev.abortQueues (d : Dev) (u : UnitKey) (j : Nat) (fq : Option Nat) (code : Nat) (reason : Nat) : Dev :=
  d.each (d.jobQueues u j) fun d q =>
    let d := (d.dropHeld u q reason).qClear u q
    if fq = some q then (d.setQMark u q 5).setQFault u q code
    else (d.setQMark u q 6).setQFault u q code

/-- Holds of a job's queues in a unit are discarded. -/
def Dev.abortHolds (d : Dev) (u : UnitKey) (j : Nat) : Dev :=
  let p := (d.job j).ptn
  d.each (List.range 8) fun d h =>
    if d.holdValid p h && d.holdUnit p h = u && (d.qJob u (d.holdQueue p h) = j) then d.holdFree p h else d

/-- Abort in a cluster: commands discarded, tiles stopped, scoreboard entries released, park images discarded, the merge unit and control-store loads of the job stopped. -/
def Dev.abortClu (d : Dev) (n j : Nat) (fq : Option Nat) (code reason : Nat) : Dev :=
  let d := d.abortHolds n j
  let d := d.abortQueues n j fq code reason
  let d := d.each (List.range 32) fun d k =>
    match (d.core n k).tile with
    | some t => if t.job = j then d.stopTile n k else d
    | none => d
  let c := d.clu n
  let mine := c.parks.filter fun e => (e.2.saved.tile.map Tile.job) = some j
  let d := mine.foldl (fun d e => match e.2.saved.tile with
    | some t => d.scoreFree n t.readR t.writeR
    | none => d) d
  let d := match c.merge with
    | some m => if m.job = j then (Dev.mergeAbort n (mgParts m.w.toNat * mgPwords m.w.toNat + 1) d m).scoreFree n m.readR m.writeR else d
    | none => d
  d.modClu n fun c =>
    { c with
      parks := c.parks.filter fun e => (e.2.saved.tile.map Tile.job) ≠ some j
      loads := c.loads.filter fun l => l.job ≠ j
      merge := c.merge.filter fun m => m.job ≠ j }

/-- Abort in a marver engine: the running command stops, some of its outputs written (which, is open: a free value), its copier transfers stop, and its saved records go. -/
def Dev.abortStk (d : Dev) (s j : Nat) (fq : Option Nat) (code reason : Nat) : Dev :=
  let u := 0x2000 + s
  let d := d.abortQueues u j fq code reason
  let mine := (d.stk s).runs.filter fun r => r.job = j
  let d := mine.foldl (fun d r =>
    let (x, d) := d.takeFree
    (r.outs.take (x % (r.outs.length + 1))).foldl (fun d o => (d.writeMem (agPlain (d.job j).ptn (some j)) o.1 o.2.1 o.2.2).1) d) d
  let d := ((d.stk s).copiers.filter fun e => e.2.job = j).foldl (fun d e => d.copyAbort s e.2) d
  d.modStk s fun x =>
    { x with
      runs := x.runs.filter fun r => r.job ≠ j
      copiers := x.copiers.filter fun e => e.2.job ≠ j
      saved := x.saved.filter fun e => e.2.job ≠ j }

/-- Abort in a compute DMA engine: its transfers, saved records and holds are discarded; units in flight have had their effect. -/
def Dev.abortDma (d : Dev) (e j : Nat) (fq : Option Nat) (code reason : Nat) : Dev :=
  let u := 0x4000 + e
  let d := d.abortHolds u j
  let d := d.abortQueues u j fq code reason
  -- units in flight complete, and those that have taken effect count as performed (13, R272, R278)
  let units := ((d.dma e).xfers.filter fun t => t.2.job = j).foldl (fun n t => n + t.2.flight.countP fun f => f.performed && !(t.2.code ≠ 0 && f.k = t.2.next)) 0
  let d := if units = 0 then d else d.addCount (pDmac e) (dslot e + 0x30) units
  d.modDma e fun x =>
    { x with
      xfers := x.xfers.filter fun t => t.2.job ≠ j
      orphans := x.orphans ++ x.xfers.filter fun t => t.2.job = j && t.2.flight.any fun f => !f.performed }

/-- Abort of a job in one unit. -/
def Dev.abortUnit (d : Dev) (u : UnitKey) (j : Nat) (fq : Option Nat) (code reason : Nat) : Dev :=
  let d := if d.far.isEmpty then d else { d with far := d.far.filter fun f => !(f.who = u && f.job = j) }
  if u < 0x2000 then d.abortClu u j fq code reason
  else if u < 0x4000 then d.abortStk (u - 0x2000) j fq code reason
  else d.abortDma (u - 0x4000) j fq code reason

/-- An abort of the job is under way in some unit. -/
def Dev.aborting (d : Dev) (j : Nat) : Bool := d.aborts.any fun a => a.job = j

/-- ID of a page: BLOCK_TYPE and INSTANCE (02, R28). -/
def Page.id (p : Page) : Nat := p.blockType * 65536 + p.inst

/-- The job record after a fault: a general or reserved job enters FAULTED; the serving job's step is marked, with the members the fault names (R222, R223). -/
def Job.faulting (x : Job) (code : Nat) (members : Option (List FaultName)) : Job :=
  if x.cls = 1 then
    { x with
      code := code
      faulted := true
      named := match members with
        | some l => x.named ++ l.map fun n => (n, code)
        | none => x.named
      namesAll := if x.namesAll.isNone && members.isNone then some code else x.namesAll }
  else { x with state := 2, code := code, applied := [] }

/-- A job faults in queue `q` of unit `u` (R80, R222, R223): the page records the fault, the unit aborts the job at once, every other unit that holds the job is told. A further fault of the job before its abort has been performed everywhere is recorded and starts no second abort. `members`: what the fault names. -/
def Dev.jobFaultM (d : Dev) (u : UnitKey) (q : Nat) (j code info : Nat) (members : Option (List FaultName)) : Dev :=
  let d := d.fault (uPage u) code info
  let was := d.job j
  let d := d.setJob j (was.faulting code members)
  if d.aborting j || (was.cls ≠ 1 && was.state = 2) then (d.setQMark u q 5).setQFault u q code
  else
    let others := (d.jobUnits j).filter (· ≠ u)
    let d := d.abortUnit u j (some q) code 4
    let d := if others.isEmpty then d else { d with aborts := d.aborts ++ [⟨j, others⟩] }
    if was.cls = 1 then d
    else d.record was.ptn 0x0002
      (leBytes 4 j ++ leBytes 4 code ++ leBytes 4 info ++ leBytes 4 (uPage u).id)

/-- A job faults, naming no member. -/
def Dev.jobFault (d : Dev) (u : UnitKey) (q : Nat) (j code info : Nat) : Dev := d.jobFaultM u q j code info none

/-- One unit performs the abort that it was told of (R80: JOB_ABORTED in its queues). -/
def Dev.abortPropagate (d : Dev) (u : UnitKey) (j : Nat) : Dev :=
  if d.aborts.any fun a => a.job = j && a.left.contains u then
    let d := d.abortUnit u j none 0x5009 4
    let l := d.aborts.map fun a => if a.job = j then { a with left := a.left.filter (· ≠ u) } else a
    { d with aborts := l.filter fun a => !a.left.isEmpty }
  else d

/-- A job is stopped in unit `u` by something other than a fault of its own (R83 CLUSTER_RESET, 17, R375 UNIT_RETIRED): it is aborted everywhere, its queues here hold the code, which no page records, and the event names the cluster; the scheduler treats the job as faulted. -/
def Dev.jobStop (d : Dev) (u : UnitKey) (j code : Nat) : Dev :=
  let was := d.job j
  let qs := d.jobQueues u j
  let d := d.setJob j (was.faulting code none)
  let others := if d.aborting j || (was.cls ≠ 1 && was.state = 2) then [] else (d.jobUnits j).filter (· ≠ u)
  let d := d.abortUnit u j none code 4
  let d := d.each qs fun d q => d.setQFault u q code
  let d := if others.isEmpty then d else { d with aborts := d.aborts ++ [⟨j, others⟩] }
  if was.cls = 1 || was.state = 2 then d
  else d.record was.ptn 0x0002 (leBytes 4 j ++ leBytes 4 code ++ leBytes 4 u ++ leBytes 4 (uPage u).id)

/-- A fault code that the spec does not name: of a class from 1 to A, its low bits not zero (00, R7). -/
def openCode (x : Nat) : Nat := (1 + x % 10) * 4096 + 1 + x / 10 % 4095

/-- UNIT_RETIRED (17, R371, R379): to the device destination and to the owner's, once the boot record holds the retirement (19, R401). Where the spec gives no reason code, it is a free one. -/
def Dev.unitRetired (d : Dev) (owner kind unit sub : Nat) (reason : Option Nat) (moved lost : Nat) : Dev :=
  let (free, e) := d.takeFree
  let reason := reason.getD (openCode free)
  let d := e.noteRec
  let b := leBytes 2 kind ++ leBytes 2 unit ++ leBytes 2 sub ++ leBytes 2 reason ++ leBytes 4 moved ++ leBytes 4 lost
  let d := d.record 0xFF 0x0101 b
  if owner = 0xFF then d else d.record owner 0x0101 b

/-- A core or cluster of a partition is gone: cause UNIT for every program loaded before (11, R229). -/
def Dev.voidUnit (d : Dev) (n : Nat) : Dev :=
  let o := d.owner (pClu n)
  if o < 24 then d.voidProgs o 3 fun _ => true else d

/-- A core retires: at the end of its tile, or at once if it is idle (17, R375). -/
def Dev.retireCore (d : Dev) (n k : Nat) : Dev :=
  if !d.coreIn n k || (d.core n k).retiring then d
  else
    let d := (d.unitRetired (d.owner (pClu n)) 0 n k none 0 0).voidUnit n
    if (d.core n k).tile.isSome then d.modCore n k fun c => { c with retiring := true }
    else (d.setBit (pClu n) 0x7C4 k false).coreSt n k 5 (d.coreIdx n k) 0

/-- A job has work in a cluster: a command, a tile, a control-store load, a MERGE or a park image. -/
def Dev.cluWork (d : Dev) (n j : Nat) : Bool :=
  let c := d.clu n
  ((d.jobQueues n j).any fun q => !(d.qCmds n q).isEmpty) ||
  ((List.range 32).any fun k => (d.core n k).tile.any fun t => t.job = j) ||
  (c.loads.any fun l => l.job = j) || (c.merge.any fun m => m.job = j) ||
  (c.parks.any fun e => e.2.saved.tile.any fun t => t.job = j)

/-- The reports of a unit's retirement in this ao-cycle carry the reason of a failure that strikes it too (17, R377). -/
def Dev.failReason (d : Dev) (kind unit sub reason : Nat) : Dev :=
  let b := leBytes 2 kind ++ leBytes 2 unit ++ leBytes 2 sub
  { d with events := d.events.map fun e =>
      if e.kind = 0x0101 && e.at_ = d.ao && e.payload.take 6 = b then { e with payload := patchBytes e.payload 6 (leBytes 2 reason) } else e }

/-- A cluster retires: STATE becomes RETIRED and every job with work in it is aborted with UNIT_RETIRED (17, R375). -/
def Dev.retireCluster (d : Dev) (n : Nat) (reason : Option Nat) : Dev :=
  if (d.clu n).retired then (match reason with | some x => d.failReason 1 n 0 x | none => d)
  else
    let js := ((below 8 (d.qBound n)).map (d.qJob n)).eraseDups.filter (d.cluWork n)
    let d := js.foldl (fun d j => d.jobStop n j 0x3003) d
    (((d.modClu n fun c => { c with retired := true }).setSt (pClu n) stRetired).unitRetired (d.owner (pClu n)) 1 n 0 reason 0 0).voidUnit n

/-- A general job's tile has held a core beyond NP ao-cycles of a serving window (11, R229 cause 7, R234). -/
def Dev.parkHeld (d : Dev) (p np : Nat) : Bool :=
  (d.px p).windowAt + np < d.ao && d.cores.any fun e => match e.2.tile with
    | some t => (d.job t.job).ptn = p && (d.job t.job).cls = 2 && !t.stopped
    | none => false

/-- Cause PARK comes into force for the running step in the ao-cycle in which a tile has held its core beyond NP. -/
def Dev.parkOnset (d : Dev) (p : Nat) : Dev :=
  match (d.px p).step with
  | none => d
  | some t =>
    match tget? d.batches t.batch with
    | none => d
    | some b => if !d.bit (pPtn p) 0x3A4 7 && d.parkHeld p (if b.np then 10000 else 0) then d.voidOn p 7 (maskOf [t.batch]) else d

/-- Number of a unit within its kind. -/
def uNum (u : UnitKey) : Nat := if u < 0x2000 then u else if u < 0x4000 then u - 0x2000 else u - 0x4000

/-- POISON_CONSUMED of a job, with PTN_POISON_LAST (17, R365, R379): consumer 0 tensor core, 1 marver, 2 atomic, 3 gaffer. -/
def Dev.poisonFault (d : Dev) (u : UnitKey) (q j dpa consumer : Nat) (members : Option (List FaultName)) : Dev :=
  (d.poisonLast (d.job j).ptn dpa).jobFaultM u q j 0x3001 (q % 8 + consumer * 16 + uNum u * 65536) members

/-- The head of a queue stands in an uncorrectable codeword (17, R368). -/
def Dev.queueBad (d : Dev) (u : UnitKey) (q : Nat) : Bool := d.sram.contains (.queue u q)

/-- An uncorrectable codeword that an engine reads faults the job of the queue. No DPA is concerned, and the spec gives a compute DMA engine no consumer number: a free value (17, R368, R379). -/
def Dev.sramFault (d : Dev) (e : SramErr) (u : UnitKey) (q j : Nat) : Dev :=
  let (x, d) := d.takeFree
  let k := if u < 0x2000 then 3 else if u < 0x4000 then 1 else x % 16
  (d.sramMet e).jobFault u q j 0x3001 (q % 8 + k * 16 + uNum u * 65536)

/-! ### Weighted round robin (04, R68) -/

/-- Choose among ready queues: refill when none of them has credit, then the first with credit upward from the pointer. Answers the queue and the credits after the choice, and the new pointer. -/
def wrr (n : Nat) (weight credit : Nat → Nat) (bound ready : Nat → Bool) (ptr : Nat) : Option (Nat × (Nat → Nat) × Nat) :=
  let rdy := below n ready
  if rdy.isEmpty then none
  else
    let credit := if rdy.any fun q => 0 < credit q then credit else fun q => if bound q then weight q else credit q
    match (List.range n).find? fun i => let q := (ptr + i) % n; ready q && 0 < credit q with
    | none => none
    | some i =>
      let q := (ptr + i) % n
      let c := credit q - 1
      some (q, (fun x => if x = q then c else credit x), if 0 < c then q else (q + 1) % n)

end Sys2Proof.Machine
end

