-- ==== Sys2Proof/Machine/Operands.lean ====
section
/-! DEFINITION. Operand forms: the fields of a control word and their check (03, R41, R48, R49, R56), the sources of the MAC array and of the vector unit, packed elements, and the word atomics of R91. -/

namespace Sys2Proof.Machine

/-! ### Control-word fields (R56); `w` is the word as a number -/

def cwNext (w : Nat) : Nat := fld w 1 0
def cwTarget (w : Nat) : Nat := fld w 13 2
def cwMode (w : Nat) : Nat := fld w 15 14
def cwFmtA (w : Nat) : Nat := fld w 19 16
def cwFmtB (w : Nat) : Nat := fld w 23 20
def cwBank (w : Nat) : Nat := fld w 25 24
def cwRow (w : Nat) : Nat := fld w 29 26
def cwSrcA (w : Nat) : Nat := fld w 33 30
def cwSrcB (w : Nat) : Nat := fld w 37 34
def cwSliceA (w : Nat) : Nat := fld w 40 38
def cwSliceB (w : Nat) : Nat := fld w 43 41
def cwSclA (w : Nat) : Bool := bitOf w 44
def cwSclAOff (w : Nat) : Nat := fld w 45 45
def cwSclB (w : Nat) : Bool := bitOf w 46
def cwSclBOff (w : Nat) : Nat := fld w 48 47
def cwOpld (w : Nat) : Bool := bitOf w 49
def cwOpldSrc (w : Nat) : Nat := fld w 50 50
def cwOpldDst (w : Nat) : Nat := fld w 53 51
def cwVop (w : Nat) : Nat := fld w 59 54
def cwVdst (w : Nat) : Nat := fld w 65 60
def cwVsa (w : Nat) : Nat := fld w 71 66
def cwVsb (w : Nat) : Nat := fld w 77 72
def cwVsc (w : Nat) : Nat := fld w 83 78
def cwVfmt (w : Nat) : Nat := fld w 87 84
def cwVimm (w : Nat) : Nat := fld w 119 88
def cwWb (w : Nat) : Nat := fld w 126 120
def cwAg0 (w : Nat) : Nat := fld w 129 127
def cwAg1 (w : Nat) : Nat := fld w 132 130

/-! ### Which sources a vector operation uses (R55) -/

def vopUsesA (v : Nat) : Bool := v ≠ 0
def vopUsesB (v : Nat) : Bool := [2, 3, 4, 5, 6, 7, 0x10, 0x11, 0x13, 0x15].contains v
def vopUsesC (v : Nat) : Bool := v = 5 || v = 0x10
def vopUsesFmt (v : Nat) : Bool := v = 0x12 || v = 0x13 || v = 0x14

/-- A vector source the word uses is IMM. -/
def cwImmSrc (w : Nat) : Bool :=
  let v := cwVop w
  (vopUsesA v && cwVsa w = 52) || (vopUsesB v && cwVsb w = 52) || (vopUsesC v && cwVsc w = 52)

/-! ### Formats of a MAC issue (R48, R49) -/

/-- A format code that is not reserved (R52). -/
def fmtOk (f : Nat) : Bool := fmtWidth f ≠ 0

/-- The MX floating formats. -/
def fmtMxFloat (f : Nat) : Bool := 1 ≤ f && f ≤ 5

/-- An MX format: it carries scales (R50). -/
def fmtMx (f : Nat) : Bool := 1 ≤ f && f ≤ 6

/-- The accepted pairs (R49). -/
def pairOk (a b : Nat) : Bool :=
  (fmtMxFloat a && fmtMxFloat b) || (a = 6 && b = 6) || ((a = 8 || a = 9) && (b = 8 || b = 9)) || (a = 10 && b = 10)

/-- Elements of an A slice and of a B slice, and rows updated (R48). -/
def pairShape (a b : Nat) : Nat × Nat × Nat :=
  if a = 1 ∧ b = 1 then (32, 16, 16)
  else if fmtMx a then (16, 8, 16)
  else if a = 10 then (1, 8, 1)
  else (8, 8, 8)

/-- Bytes of an A slice and of a B slice. -/
def sliceA (a b : Nat) : Nat := (pairShape a b).1 * fmtWidth a / 8
def sliceB (a b : Nat) : Nat := (pairShape a b).2.1 * fmtWidth b / 8

/-- A MAC source code (R56). -/
def macSrcOk (s : Nat) : Bool := s ≤ 2 || 8 ≤ s

/-- The fields of a control word in ascending order: lowest bit, and whether the field fails the check of R41. -/
def cwFields (w : Nat) : List (Nat × Bool) :=
  let m := cwMode w ≠ 0
  let a := cwFmtA w
  let b := cwFmtB w
  let ok := m && fmtOk a && fmtOk b && pairOk a b
  let v := cwVop w
  let wbUsed := cwAg0 w = 3 || cwAg0 w = 4 || cwAg1 w = 3 || cwAg1 w = 4
  [ (2, !(cwNext w = 1 || cwNext w = 2) && cwTarget w ≠ 0),
    (16, if m then !fmtOk a || (fmtOk b && !pairOk a b) else a ≠ 0),
    (20, if m then !fmtOk b else b ≠ 0),
    (24, !m && cwBank w ≠ 0),
    (26, if m && a = 10 then false else if m && (a = 8 || a = 9) then 1 < cwRow w else cwRow w ≠ 0),
    (30, if m then !macSrcOk (cwSrcA w) else cwSrcA w ≠ 0),
    (34, if m then !macSrcOk (cwSrcB w) else cwSrcB w ≠ 0),
    (38, if m then ok && 32 / sliceA a b ≤ cwSliceA w else cwSliceA w ≠ 0),
    (41, if m then ok && 32 / sliceB a b ≤ cwSliceB w else cwSliceB w ≠ 0),
    (45, !cwSclA w && cwSclAOff w ≠ 0),
    (47, !cwSclB w && cwSclBOff w ≠ 0),
    (50, !cwOpld w && cwOpldSrc w ≠ 0),
    (51, !cwOpld w && cwOpldDst w ≠ 0),
    (54, 0x15 < v),
    (60, if v = 0 then cwVdst w ≠ 0
         else if v = 0x12 || v = 0x13 || v = 0x15 then 15 < cwVdst w else 47 < cwVdst w),
    (66, if vopUsesA v then 53 < cwVsa w else cwVsa w ≠ 0),
    (72, if vopUsesB v then 53 < cwVsb w else cwVsb w ≠ 0),
    (78, if vopUsesC v then 53 < cwVsc w else cwVsc w ≠ 0),
    (84, if v = 0x12 then !fmtOk (cwVfmt w) || cwVfmt w = 10
         else if v = 0x13 then !fmtMx (cwVfmt w)
         else if v = 0x14 then !fmtOk (cwVfmt w) else cwVfmt w ≠ 0),
    (88, if v = 0x14 && fmtOk (cwVfmt w) then 32 / fmtWidth (cwVfmt w) ≤ fld (cwVimm w) 2 0
         else !(cwImmSrc w || v = 0x14 || v = 0x15) && cwVimm w ≠ 0),
    (120, if wbUsed then 97 < cwWb w else cwWb w ≠ 0),
    (127, 5 < cwAg0 w),
    (130, 5 < cwAg1 w),
    (133, w / 2 ^ 133 ≠ 0) ]

/-- The lowest bit of the first failing field of a control word (R41, R43). -/
def cwCheck (w : Nat) : Option Nat := ((cwFields w).find? fun f => f.2).map Prod.fst

/-- The first failing word of a load: its place in the load and the failing bit. -/
def cwFirstBad : List W256 → Nat → Option (Nat × Nat)
  | [], _ => none
  | w :: t, i =>
    match cwCheck w.toNat with
    | some b => some (i, b)
    | none => cwFirstBad t (i + 1)

/-! ### Sources -/

/-- 32 bytes that a MAC source code selects, and the DPA of its poison mark (R56). -/
def macSrc (c : Core) (s : Nat) : W256 × Option Nat :=
  if s = 0 then (0, none)
  else if s = 1 then (c.la, c.laMark)
  else if s = 2 then (c.lb, c.lbMark)
  else (tgetD c.ops (s - 8) 0, tget? c.opMarks (s - 8))

/-- Element `e` of width `w` in slice `s` of `size` bytes (R48). -/
def sliceElem (x : W256) (size s w e : Nat) : Nat := x.toNat / 2 ^ (8 * size * s + w * e) % 2 ^ w

/-- ACC element (b, i, j). -/
def accNum (b i j : Nat) : Nat := 128 * b + 8 * i + j

/-- An ACC element and a V lane. -/
def Core.accAt (c : Core) (i : Nat) : Word := tgetD c.acc i 0
def Core.vAt (c : Core) (n l : Nat) : Word := tgetD c.v (16 * n + l) 0

/-- The ACC element of lane `l` of the pair code `s` (16–47): rows 2p and 2p + 1 (R56). -/
def pairElem (s l : Nat) : Nat := accNum ((s - 16) / 8) (2 * ((s - 16) % 8) + l / 8) (l % 8)

/-- The 16 lanes of a vector source (R56). -/
def vecSrc (c : Core) (s imm : Nat) : List Word :=
  (List.range 16).map fun l =>
    if s < 16 then c.vAt s l
    else if s < 48 then c.accAt (pairElem s l)
    else if s < 50 then
      let x := (if s = 48 then c.la else c.lb).toNat
      BitVec.ofNat 32 (x / 2 ^ (16 * l) % 2 ^ 16 * 2 ^ 16)
    else if s < 52 then
      if l < 8 then BitVec.ofNat 32 ((if s = 50 then c.la else c.lb).toNat / 2 ^ (32 * l)) else 0
    else if s = 52 then BitVec.ofNat 32 imm
    else 0

/-- The poison mark of a vector source. -/
def vecMark (c : Core) (s : Nat) : Option Nat :=
  if s = 48 ∨ s = 50 then c.laMark else if s = 49 ∨ s = 51 then c.lbMark else none

/-- Lanes as one 512-bit number: lane l at bits [32l+31:32l]. -/
def lanesNum : List Word → Nat
  | [] => 0
  | w :: t => w.toNat + 2 ^ 32 * lanesNum t

/-- A number as 16 lanes. -/
def numLanes (n : Nat) : List Word := (List.range 16).map fun l => BitVec.ofNat 32 (n / 2 ^ (32 * l))

/-- Elements of width `w` packed from bit 0. -/
def packBits (w : Nat) : List Nat → Nat
  | [] => 0
  | x :: t => x % 2 ^ w + 2 ^ w * packBits w t

/-- What a vector operation gives: the 16 lanes, and whether a conversion saturated or turned a NaN into zero. -/
structure VecRes where
  lanes : List Word
  sat : Bool := false
  nanZero : Bool := false
deriving DecidableEq, Repr

/-- Lane-wise operation. -/
def zip2 (f : Word → Word → Word) (a b : List Word) : List Word := List.zipWith f a b

/-- One vector operation on its sources (R55). -/
def vecOp (v fmt imm : Nat) (a b c : List Word) : VecRes :=
  match v with
  | 0x01 => ⟨a.map canonF, false, false⟩
  | 0x02 => ⟨zip2 addF a b, false, false⟩
  | 0x03 => ⟨zip2 subF a b, false, false⟩
  | 0x04 => ⟨zip2 mulF a b, false, false⟩
  | 0x05 => ⟨List.zipWith (fun x (yz : Word × Word) => fmaF x yz.1 yz.2) a (b.zip c), false, false⟩
  | 0x06 => ⟨zip2 maxF a b, false, false⟩
  | 0x07 => ⟨zip2 minF a b, false, false⟩
  | 0x08 => ⟨a.map fun x => toF32 (ofF32 x).abs, false, false⟩
  | 0x09 => ⟨a.map exp2F, false, false⟩
  | 0x0A => ⟨a.map expF, false, false⟩
  | 0x0B => ⟨a.map log2F, false, false⟩
  | 0x0C => ⟨a.map rcpF, false, false⟩
  | 0x0D => ⟨a.map rsqrtF, false, false⟩
  | 0x0E => ⟨List.replicate 16 (rsumF a), false, false⟩
  | 0x0F => ⟨List.replicate 16 (rmaxF a), false, false⟩
  | 0x10 => ⟨List.zipWith (fun x (yz : Word × Word) => canonF (if yz.2 ≠ 0 then x else yz.1)) a (b.zip c), false, false⟩
  | 0x11 => ⟨zip2 (fun x y =>
      if (ofF32 x).isNan || (ofF32 y).isNan then nan32
      else if (ofF32 y).lt (ofF32 x) then 0x3F800000#32 else 0) a b, false, false⟩
  | 0x12 =>
    let r := a.map fun x => toFmt fmt (ofF32 x)
    ⟨numLanes (packBits (fmtWidth fmt) (r.map Conv.bits)), r.any Conv.sat, r.any Conv.nanZero⟩
  | 0x13 =>
    let (sc, r) := cvtMx fmt ((a ++ b).map ofF32)
    ⟨numLanes (packBits (fmtWidth fmt) (r.map Conv.bits) + sc * 2 ^ 256), r.any Conv.sat, r.any Conv.nanZero⟩
  | 0x14 =>
    let x := lanesNum a
    let w := fmtWidth fmt
    ⟨(List.range 16).map fun l => toF32 (ofFmt fmt (x / 2 ^ (w * (16 * (imm % 8) + l)) % 2 ^ w)), false, false⟩
  | 0x15 =>
    let x := lanesNum a
    let y := lanesNum b
    let dst := imm % 64
    ⟨numLanes (setFld y (8 * dst + 7) (8 * dst) (x / 2 ^ (8 * (imm / 256 % 64)) % 256)), false, false⟩
  | _ => ⟨[], false, false⟩

/-! ### Atomics on a 32-byte word (05, R91, R92) -/

/-- Bytes of a lane: 4 for the 32-bit operations, 8 for the 64-bit ones. -/
def atomicLane (op : Nat) : Nat := if op = 2 ∨ op = 4 then 8 else 4

/-- The operation adds (and so consumes a poison mark, 17, R366). -/
def atomicAdds (op : Nat) : Bool := op ≤ 2

/-- The new value of one lane: 0 ADD_F32, 1 ADD_I32, 2 ADD_I64, 3 SWAP32, 4 SWAP64 (07, R139). -/
def atomicOp (op old operand : Nat) : Nat :=
  if op = 0 then (addF (BitVec.ofNat 32 old) (BitVec.ofNat 32 operand)).toNat
  else if op = 1 then (old + operand) % 2 ^ 32
  else if op = 2 then (old + operand) % 2 ^ 64
  else operand

/-- The 32-byte word after an atomic: lanes outside the mask keep their contents (R92). -/
def atomicWord (op lanes : Nat) (old operand : List Byte) : List Byte :=
  let k := atomicLane op
  (List.range (32 / k)).flatMap fun l =>
    if bitOf lanes l then leBytes k (atomicOp op (numAt old (k * l) k) (numAt operand (k * l) k))
    else bytesAt old (k * l) k

/-- Every lane is selected: a swap then writes the whole word and removes its mark (17, R366). -/
def atomicAll (op lanes : Nat) : Bool := (List.range (32 / atomicLane op)).all (bitOf lanes)

/-- No lane is selected: the atomic changes nothing (R92). -/
def atomicNone (op lanes : Nat) : Bool := (List.range (32 / atomicLane op)).all fun l => !bitOf lanes l

end Sys2Proof.Machine
end

