-- ==== Sys2Proof/Machine/Access.lean ====
section
/-! DEFINITION. Reads and writes of partition memory by the engines, with everything that may come of them: translation faults, memory that must be awaited, region 63, poison marks, memory of another device; and the holds of R273. -/

namespace Sys2Proof.Machine

/-- What a read gives. -/
inductive Fetch where
  | fault (x : XFault)
  | wait
  /-- Region 63 is closed to the access (05, R93). -/
  | sealed
  /-- The DPA of a marked unit, and the bytes. -/
  | marked (dpa : Nat) (bs : List Byte)
  | ok (bs : List Byte)
deriving DecidableEq, Repr

/-- A segment lies, wholly or in part, in a region 63 that is closed to the agent. -/
def Dev.segClosed (d : Dev) (ag : Agent) (s : Seg) : Bool :=
  !s.remote && match loc s.dpa with
    | .buf n off => inSecure off s.len && d.secDenied ag n
    | _ => false

/-- SEC_DENIED of the buffers that refuse a segment (05, R93). -/
def Dev.noteClosed (d : Dev) (ag : Agent) (l : List Seg) : Dev :=
  l.foldl (fun d s => if d.segClosed ag s then
    (match loc s.dpa with
     | .buf n _ => d.setBit (pClu n) 0x41C 1 true
     | _ => d) else d) d

/-- A segment write would be denied: closed region 63, or a sealed granule of another slot (05, R93; 07, R126). -/
def Dev.segSealed (d : Dev) (ag : Agent) (s : Seg) : Bool :=
  d.segClosed ag s || (!s.remote && match loc s.dpa with
    | .stack _ _ => (flipUnits s.dpa s.len).any fun b => d.slotAt b ≠ 0 && !ag.mayUnseal (d.slotAt b)
    | _ => false)

/-- Bytes of segments and the first mark met: `die` none reads at the point of coherence, else through the lines of that die (12, R241); bytes of another device are those that `who` has been answered. -/
def Dev.segBytes (d : Dev) (die : Option Nat) (who ptn : Nat) (ag : Agent) (vol : Bool) : List Seg → Dev × List Byte × Option Nat
  | [] => (d, [], none)
  | s :: t =>
    let (d, bs, m) : Dev × List Byte × Bool :=
      if s.remote then (d, d.farBytes who s, d.farMarked who s)
      else match die with
        | some x => d.cachedRead x ptn ag s.dpa s.len vol
        | none => (fun (e : Dev) => (e, e.readMem ag s.dpa s.len, e.markedAt s.dpa s.len)) (d.noteErrs s.dpa s.len)
    let at_ := if s.remote then s.dpa else d.firstMark s.dpa s.len
    let (d, bs', m') := Dev.segBytes d die who ptn ag vol t
    (d, bs ++ bs', if m then some at_ else m')

/-- Read `n` bytes at a PVA of partition `p` for an agent, through the translation cache `holder`. Bytes of another device are asked for first, and kept for the reader until it is done. -/
def Dev.fetchKeep (d : Dev) (holder die : Option Nat) (ag : Agent) (p pva n : Nat) (vol : Bool) : Dev × Fetch :=
  match d.xlRange holder p pva n false with
  | (d, .error x) => (d, .fault x)
  | (d, .ok l) =>
    let who := holder.getD (svcReader p)
    if !d.segsReady l then (d.segsDemand l, .wait)
    else if l.any (d.segClosed ag) then (d.noteClosed ag l, .sealed)
    else
      let d := d.farAsk who (ag.job.getD noJob) (d.linkDomain p) l
      match d.farRefused who l with
      | some (s, c) => ((d.farEnd who).lastFault p s.pva, .fault ⟨c, s.level, s.pva, true, true⟩)
      | none =>
        if !d.farHere who l then (d, .wait)
        else match d.segBytes die who p ag vol l with
          | (d, bs, some m) => (d, .marked m bs)
          | (d, bs, none) => (d, .ok bs)

/-- A read that is done with what it asked of other devices. -/
def Dev.fetch (d : Dev) (holder die : Option Nat) (ag : Agent) (p pva n : Nat) (vol : Bool) : Dev × Fetch :=
  match d.fetchKeep holder die ag p pva n vol with
  | (d, .wait) => (d, .wait)
  | (d, r) => (d.farEnd (holder.getD (svcReader p)), r)

/-- What a write gives. -/
inductive Store where
  | fault (x : XFault)
  | wait
  | sealed
  /-- Done; the WRITE frames sent to other devices and their targets. -/
  | ok (ids : List (Nat × Nat))
deriving DecidableEq, Repr

/-- Write bytes at a PVA by an engine of die `die`, or at the point of coherence. Bytes for another device leave in WRITE frames. -/
def Dev.store (d : Dev) (holder die : Option Nat) (ag : Agent) (p pva : Nat) (bs : List Byte) (marked : Bool) : Dev × Store :=
  match d.xlRange holder p pva bs.length true with
  | (d, .error x) => (d, .fault x)
  | (d, .ok l) =>
    if !d.segsReady l then (d.segsDemand l, .wait)
    else if l.any (d.segSealed ag) then
      (l.foldl (fun d s => if s.remote then d else (d.writeMem ag s.dpa (bytesAt bs (s.pva - pva) s.len) marked).1) d, .sealed)
    else
      let (d, ids) := l.foldl (fun (acc : Dev × List (Nat × Nat)) s =>
        let (d, ids) := acc
        let part := bytesAt bs (s.pva - pva) s.len
        if s.remote then
          let (new, d) := d.farWrite ag s part marked
          (d, ids ++ new)
        else match die with
        | some x => ((d.cachedWrite x p ag s.dpa part marked).1, ids)
        | none => ((d.writeMem ag s.dpa part marked).1, ids)) (d, [])
      (d, .ok ids)

/-! ### Atomics (05, R91, R92; 07, R139; 17, R366) -/

/-- What an atomic did. -/
inductive AtomRes where
  /-- Not performed: the DPA of the mark that an addition met. -/
  | poison (dpa : Nat)
  /-- Not performed: a sealed granule or region 63 is closed to it. -/
  | denied
  /-- The old 32 bytes and whether they were marked. -/
  | done (old : List Byte) (marked : Bool)
deriving DecidableEq, Repr

/-- One atomic on the aligned 32 bytes at a DPA of this device. -/
def Dev.atomicAt (d : Dev) (ag : Agent) (a op lanes : Nat) (operand : List Byte) : Dev × AtomRes :=
  let d := d.noteErrs a 32
  let m := d.markedAt a 32
  if d.segSealed ag ⟨a, 32, false, 0, 0, 0, 0⟩ then ((d.writeMem ag a (List.replicate 32 0) false).1, .denied)
  else if m && atomicAdds op then (d, .poison (d.firstMark a 32))
  else
    let old := d.readMem ag a 32
    let new := atomicWord op lanes old operand
    let d := match loc a with
      | .buf n _ => d.addCount (pClu n) 0x424 1
      | _ => d
    if atomicNone op lanes then (d, .done old m)
    else
      let keep := d.marks
      let d := (d.writeMemW ag a new false true).1
      (if atomicAll op lanes then d else { d with marks := keep }, .done old m)

/-- A signal to a cluster flag from outside its page (04, R76): a write that reaches a page whose domain is OFF is refused (02, R34). -/
def Dev.signalClu (d : Dev) (n f amount : Nat) : Dev :=
  if d.dom (n / 10) = dsOff then d.setEvent (pClu n) evInvalid else d.addFlag (pClu n) f amount

/-- A signal to a marver flag (07, R130). -/
def Dev.signalStk (d : Dev) (s f amount : Nat) : Dev :=
  if d.dom (80 + s) = dsOff then d.setEvent (pStk s 1) evInvalid else d.addFlag (pStk s 1) f amount

/-! ### Holds (13, R273) -/

/-- FAULT_CODE of a hold. -/
def Dev.holdCode (d : Dev) (p h : Nat) : Nat := if d.bit (pPtn p) (rHold h) 4 then cXlatePerm else cXlateMiss

/-- PVA of a hold. -/
def Dev.holdPva (d : Dev) (p h : Nat) : Nat := d.pair (pPtn p) (rHold h + 4) (rHold h + 8)

/-- Put a fault into the lowest free hold slot and send XLATE_HELD; none when every slot is full. -/
def Dev.holdTake (d : Dev) (p : Nat) (gaffer : Bool) (unit queue : Nat) (x : XFault) (write : Bool) : Option (Dev × Nat) :=
  match lowest 8 fun h => !d.holdValid p h with
  | none => none
  | some h =>
    let info := 1 + (if write then 2 else 0) + x.level % 4 * 4 + (if x.code = cXlatePerm then 16 else 0)
      + (if gaffer then 32 else 0) + unit % 1024 * 64 + queue % 8 * 65536
    let d := (d.setReg (pPtn p) (rHold h) (BitVec.ofNat 32 info)).setPair (pPtn p) (rHold h + 4) (rHold h + 8) x.pva
    let d := { d with holdAt := tput d.holdAt (8 * p + h) d.ao }
    some ((d.addCount (pPtn p) 0x210 1).record p 0x0007 (leBytes 4 h ++ leBytes 4 info ++ leBytes 8 x.pva), h)

/-- Die of a cluster and of a compute DMA engine (01, R10; 13, R265). -/
def dieOf (u : UnitKey) : Nat := if u < 0x2000 then u / 100 else (u - 0x4000) / 32

/-! ### Queues -/

/-- Append commands to a queue. -/
def Dev.qPush (d : Dev) (u : UnitKey) (q : Nat) (cmds : List Nat) : Dev :=
  if u < 0x2000 then d.modGq u q fun x => { x with cmds := x.cmds ++ cmds.map (BitVec.ofNat 256) }
  else if u < 0x4000 then d.modMq (u - 0x2000) q fun x => { x with cmds := x.cmds ++ cmds.map (BitVec.ofNat 545) }
  else d.modDq (u - 0x4000) q fun x => { x with cmds := x.cmds ++ cmds.map (BitVec.ofNat 1024) }

/-- Drop the first `k` commands of a queue. -/
def Dev.qDrop (d : Dev) (u : UnitKey) (q k : Nat) : Dev :=
  if u < 0x2000 then d.modGq u q fun x => { x with cmds := x.cmds.drop k, waitAt := none }
  else if u < 0x4000 then d.modMq (u - 0x2000) q fun x => { x with cmds := x.cmds.drop k, waitAt := none }
  else d.modDq (u - 0x4000) q fun x => { x with cmds := x.cmds.drop k, waitAt := none }

/-- OPCODE of WAIT in each kind of queue (04, R65; 07, R129; 13, R266). -/
def opWait (u : UnitKey) : Nat := if u < 0x2000 then 0x04 else if u < 0x4000 then 0x08 else 0x06

/-- The wait limit register of a unit (04, R82; 07, R146; 13, R278). -/
def Dev.waitLimit (d : Dev) (u : UnitKey) : Nat :=
  (d.reg (uPage u) 0x40).toNat

/-- The head command of a queue as a number. -/
def Dev.qHead (d : Dev) (u : UnitKey) (q : Nat) : Option Nat := (d.qCmds u q).head?

/-- A WAIT that has become the head of its queue starts to be timed (R77, R130): not while a FENCE holds the queue, and in a DMA queue once the command before it has completed (R267). -/
def Dev.qArm (d : Dev) (u : UnitKey) (q : Nat) : Dev :=
  match d.qHead u q with
  | none => d
  | some w =>
    if fld w 7 0 = opWait u && (d.qWaiting u q).isNone && (d.qFence u q).isNone && !(0x4000 ≤ u && (tget? (d.dma (u - 0x4000)).xfers q).isSome) then
      let v := some (d.ao, d.waitLimit u)
      if u < 0x2000 then d.modGq u q fun x => { x with waitAt := v }
      else if u < 0x4000 then d.modMq (u - 0x2000) q fun x => { x with waitAt := v }
      else d.modDq (u - 0x4000) q fun x => { x with waitAt := v }
    else d

/-- Remove the first `k` commands; the next one becomes the head. -/
def Dev.qPop (d : Dev) (u : UnitKey) (q k : Nat) : Dev := (d.qDrop u q k).qArm u q

/-- Append commands. -/
def Dev.qAppend (d : Dev) (u : UnitKey) (q : Nat) (cmds : List Nat) : Dev := (d.qPush u q cmds).qArm u q

/-- Set the scope of the FENCE that holds a queue. -/
def Dev.setFence (d : Dev) (u : UnitKey) (q : Nat) (v : Option Nat) : Dev :=
  if u < 0x2000 then d.modGq u q fun x => { x with fence := v }
  else if u < 0x4000 then d.modMq (u - 0x2000) q fun x => { x with fence := v }
  else d.modDq (u - 0x4000) q fun x => { x with fence := v }

/-- COMMAND_INVALID (04, R80): queue, opcode, lowest bit of the first failing field, source 0 gaffer, 1 marver, 2 compute DMA. -/
def Dev.cmdInvalid (d : Dev) (u : UnitKey) (q w bit_ : Nat) : Dev :=
  d.jobFault u q (d.qJob u q) 0x5008
    (q % 8 + fld w 7 0 * 256 + bit_ % 1024 * 65536 + (if u < 0x2000 then 0 else if u < 0x4000 then 1 else 2) * 2 ^ 26)

/-- The first failing field of a list of fields in ascending order. -/
def firstBad (l : List (Nat × Bool)) : Option Nat := (l.find? fun f => f.2).map Prod.fst

end Sys2Proof.Machine
end

