-- ==== Sys2Proof/Machine/Streams.lean ====
section
/-! DEFINITION. Fields of the gaffer's commands and the entries of address streams (04, R65–R73). `w` is a command as a number. -/

namespace Sys2Proof.Machine

/-! ### TILE (R66) -/

def tlStart (w : Nat) : Nat := fld w 19 8
def tlLoopA (w : Nat) : Nat := fld w 35 20
def tlLoopB (w : Nat) : Nat := fld w 51 36
def tlCoreMask (w : Nat) : Nat := fld w 83 52
def tlRead (w : Nat) : Nat := fld w 147 84
def tlWrite (w : Nat) : Nat := fld w 211 148
def tlStreams (w : Nat) : Nat := fld w 215 212
def tlNonpre (w : Nat) : Bool := bitOf w 216
def tlSigEn (w : Nat) : Bool := bitOf w 217
def tlSigFlag (w : Nat) : Nat := fld w 223 218

/-! ### STREAM (R66) -/

def smGen (w : Nat) : Nat := fld w 8 8
def smIndirect (w : Nat) : Bool := bitOf w 9
def smWrite (w : Nat) : Bool := bitOf w 10
def smBase (w : Nat) : Nat := fld w 26 12
def smDims (w : Nat) : Nat := fld w 29 27
def smCount (w k : Nat) : Nat := fld w (32 * k + 47) (32 * k + 32)
def smStride (w k : Nat) : Int := signed 16 (fld w (32 * k + 63) (32 * k + 48))
def smList (w : Nat) : Nat := fld w 79 32
def smLength (w : Nat) : Nat := fld w 103 80

/-- The STREAM commands of a generator in queue order (R70). -/
def genStreams (t : Tile) (g : Nat) : List (BitVec 256) := t.streams.filter fun s => smGen s.toNat = g

/-- Position of generator `g`. -/
def Tile.pos (t : Tile) (g : Nat) : AgPos := if g = 0 then t.pos0 else t.pos1
def Tile.setPos (t : Tile) (g : Nat) (p : AgPos) : Tile := if g = 0 then { t with pos0 := p } else { t with pos1 := p }

/-- The stream that the generator is in; none beyond the last entry of its sequence (R81). -/
def Tile.curStream (t : Tile) (g : Nat) : Option (BitVec 256) := (genStreams t g)[(t.pos g).strm]?

/-- The AFFINE entry at the indices (R71). -/
def affineWord (w : Nat) (idx : List Nat) : Nat :=
  let s : Int := (List.range (smDims w)).foldl (fun a k => a + ((idx[k]?).getD 0 : Nat) * smStride w k) (smBase w : Int)
  (s % 32768).toNat

/-- The indices after one entry, dimension 0 fastest; none when the stream is done (R71). -/
def affineStep (w : Nat) : Nat → List Nat → Option (List Nat)
  | _, [] => none
  | k, i :: t =>
    if smDims w ≤ k then none
    else if i + 1 < smCount w k then some ((i + 1) :: t)
    else (affineStep w (k + 1) t).map fun l => 0 :: l

/-- The position after one entry. -/
def AgPos.advance (p : AgPos) (w : Nat) : AgPos :=
  if smIndirect w then
    if p.lpos + 1 < smLength w then { p with lpos := p.lpos + 1 } else { strm := p.strm + 1 }
  else
    match affineStep w 0 p.idx with
    | some l => { p with idx := l }
    | none => { strm := p.strm + 1 }

/-- The region of a word index (R70). -/
def regionOf (word : Nat) : Nat := word / 512

/-- The stream check of R73: WRITE = 0 against the read and write regions, WRITE = 1 against the write regions. -/
def entryAllowed (t : Tile) (w word : Nat) : Bool :=
  if smWrite w then bitOf t.writeR (regionOf word) else bitOf t.readR (regionOf word) || bitOf t.writeR (regionOf word)

end Sys2Proof.Machine
end

