-- ==== Sys2Proof/Machine/TensorCore.lean ====
section
/-! DEFINITION. The tensor core and its cycle (03; 05, R86–R90): one turn of CONTROL_WORD_ISSUE is one cluster cycle of one core. A core that has already had its turn begins the next cluster cycle. -/

namespace Sys2Proof.Machine

/-! ### Buffer words on the core side (05, R85–R87) -/

/-- A core-side read of a word: zero in region 63 while it is wiped (05, R94). -/
def Dev.coreRead (d : Dev) (n w : Nat) : W256 :=
  if 63 ≤ regionOf w && d.bit (pClu n) 0x400 13 then 0 else BitVec.ofNat 256 (leNat (d.rawBytes (wordDpa n w) 32))

/-- The marked unit of a word, if any. -/
def Dev.wordMark (d : Dev) (n w : Nat) : Option Nat :=
  if d.markedAt (wordDpa n w) 32 then some (d.firstMark (wordDpa n w) 32) else none

/-- A core write lands at its bank (R46, R87); nothing is written in region 63 while it is wiped. -/
def Dev.landWrite (d : Dev) (n : Nat) (b : BufWrite) : Dev :=
  if 63 ≤ regionOf b.word && d.bit (pClu n) 0x400 13 then d
  else
    let a := wordDpa n b.word
    ((d.overUnits a 32).markWrite a 32 b.marked).putUnit 32 false a (leBytes 32 b.val.toNat)

/-- The writes due by cycle `c` land: highest-numbered core first, so that the lowest-numbered core's word is kept; two cores on one word set WRITE_COLLIDE (R87). -/
def Dev.landDue (d : Dev) (n c : Nat) : Dev :=
  let due := (d.clu n).writes.filter fun b => b.land ≤ c
  let hit := due.any fun b => due.any fun x => x.word = b.word && x.core ≠ b.core && x.land = b.land
  let d := d.modClu n fun x => { x with writes := x.writes.filter fun b => ¬ b.land ≤ c }
  let byCore := due.mergeSort fun a b => a.land < b.land || (a.land = b.land && b.core ≤ a.core)
  let d := byCore.foldl (fun d b => d.landWrite n b) d
  if hit then d.setBit (pClu n) 0x41C 0 true else d

/-- The next cluster cycle begins: the writes due in it land (R46). -/
def Dev.nextCycle (d : Dev) (n : Nat) : Dev :=
  let c := (d.clu n).cyc + 1
  (d.modClu n fun x => { x with cyc := c, turned := [], plan := [] }).landDue n c

/-! ### The word about to issue -/

/-- The control word at the core's next index (R41). -/
def Core.word (c : Core) : Nat := (tgetD c.store c.next 0).toNat

/-- A pop step (R57). -/
def stepPops (s : Nat) : Bool := s = 1 || s = 3 || s = 5

/-- The FIFO of a generator. -/
def Core.fifo (c : Core) (g : Nat) : List Nat := if g = 0 then c.fifo0 else c.fifo1
def Core.setFifo (c : Core) (g : Nat) (l : List Nat) : Core := if g = 0 then { c with fifo0 := l } else { c with fifo1 := l }
def Core.cur (c : Core) (g : Nat) : Nat := if g = 0 then c.cur0 else c.cur1
def Core.popped (c : Core) (g : Nat) : Bool := if g = 0 then c.popped0 else c.popped1

/-- The step of a generator in the word; READ_SAME and WRITE_SAME before the first pop behave as IDLE (R47). -/
def Core.rawStep (c : Core) (g : Nat) : Nat := if g = 0 then cwAg0 c.word else cwAg1 c.word
def Core.step (c : Core) (g : Nat) : Nat :=
  let s := c.rawStep g
  if (s = 2 || s = 4) && !c.popped g then 0 else s

/-- The word index that a generator's step accesses: the entry it pops, or the current one. -/
def Core.addr (c : Core) (g : Nat) : Nat := if stepPops (c.step g) then ((c.fifo g).head?).getD 0 % 32768 else c.cur g

/-- Words that the step reads, words that it writes (R47: two writes to one address are one). -/
def Core.reads (c : Core) : List Nat := ([0, 1].filter fun g => c.step g = 1 || c.step g = 2).map c.addr
def Core.writesTo (c : Core) : List Nat := (([0, 1].filter fun g => c.step g = 3 || c.step g = 4).map c.addr).eraseDups

/-- A generator pops from an empty FIFO: AG0 first (R44). -/
def Core.starved (c : Core) : Option Nat := [0, 1].find? fun g => stepPops (c.step g) && (c.fifo g).isEmpty

/-- The core runs a tile whose words still issue. -/
def Core.running (c : Core) : Bool := match c.tile with
  | some t => !t.ended
  | none => false

/-! ### Hazard check (R59) -/

/-- The ACC elements and V lanes (1024 + 16 n + l) that a landing writes. -/
def Land.writesAV : Land → List Nat
  | .mac _ s => s.map Prod.fst
  | .vecAcc v => v.map Prod.fst
  | .vecV v => v.map fun e => 1024 + e.1
  | _ => []

/-- The ACC elements and V lanes that a vector source code reads. -/
def srcReads (s : Nat) : List Nat :=
  if s < 16 then (List.range 16).map fun l => 1024 + 16 * s + l
  else if s < 48 then (List.range 16).map (pairElem s)
  else []

/-- Those that a writeback code reads. -/
def wbReads (s : Nat) : List Nat :=
  if s < 32 then (List.range 8).map fun l => 1024 + 16 * (s / 2) + 8 * (s % 2) + l
  else if s < 96 then (List.range 8).map fun j => accNum ((s - 32) / 16) ((s - 32) % 16) j
  else []

/-- ACC elements and V lanes that the word reads by vector sources and WB_SRC. -/
def Core.avReads (c : Core) : List Nat :=
  let w := c.word
  let v := cwVop w
  (if vopUsesA v then srcReads (cwVsa w) else []) ++ (if vopUsesB v then srcReads (cwVsb w) else [])
    ++ (if vopUsesC v then srcReads (cwVsc w) else []) ++ (if c.writesTo.isEmpty then [] else wbReads (cwWb w))

/-- Hazard-check mode holds the word: an element that it reads has a result in flight after this cycle's landings (R59). -/
def Core.stalls (c : Core) : Bool :=
  c.hcheck && (c.flights.filter fun f => 1 < f.left).any fun f => f.what.writesAV.any fun e => c.avReads.contains e

/-! ### Faults of a tile -/

/-- A tile faults its job, and stops at the end of the cycle if the abort has not stopped it (R60; 04, R80, R81). -/
def Dev.tileFault (d : Dev) (n k : Nat) (t : Tile) (code info : Nat) : Dev := (d.jobFault n t.queue t.job code info).stopTile n k

/-! ### Entries (04, R72, R73) -/

/-- Push an entry into the FIFO of generator `g` and move its position on. -/
def Dev.pushEntry (d : Dev) (n k g : Nat) (t : Tile) (w e : Nat) : Dev :=
  d.modCore n k fun c => { c.setFifo g (c.fifo g ++ [e]) with tile := some (t.setPos g ((t.pos g).advance w)) }

/-- The next entry of a generator, checked under R73. -/
def Dev.checkEntry (d : Dev) (n k g : Nat) (t : Tile) (w e : Nat) : Dev :=
  if entryAllowed t w e then d.pushEntry n k g t w e
  else d.tileFault n k t 0x5005 (e % 32768 + g * 2 ^ 15 + t.queue % 8 * 2 ^ 16 + k * 2 ^ 19)

/-- An AFFINE stream never leaves a pop waiting (R72): the entry that the word to issue pops is there. -/
def Dev.feedAffine (d : Dev) (n k g : Nat) : Dev :=
  let c := d.core n k
  match c.tile with
  | none => d
  | some t =>
    if t.ended || !stepPops (c.step g) || !(c.fifo g).isEmpty then d
    else match t.curStream g with
      | none => d
      | some sw => if smIndirect sw.toNat then d else d.checkEntry n k g t sw.toNat (affineWord sw.toNat (t.pos g).idx)

/-! ### Arbitration (05, R89) -/

/-- The core is to be parked in this cycle: its job has lost its slice and the tile may be parked, or it waits on a stream that stands on a translation fault (R79; 11, R233). -/
def Dev.parkDue (d : Dev) (n k : Nat) : Option (Nat × Bool) :=
  let c := d.core n k
  match c.tile with
  | none => none
  | some t =>
    if t.ended then none
    else if !t.nonpre && !d.eligible n t.job then some (5, true)
    else match c.starved with
      | some g => if t.held.any fun h => h.1 = g then some (1 + g, false) else none
      | none => none

/-- Slots taken in the cycle under arbitration, banks of reads and of writes, and what was found for each core. -/
structure Slots where
  rd : List Nat
  wr : List Nat
  plan : List (Nat × Nat)

/-- How often a bank stands in a list. -/
def bankCount (l : List Nat) (b : Nat) : Nat := l.countP (· = b)

/-- Adding the banks one by one never exceeds two in a bank. -/
def fits (have_ : List Nat) (want : List Nat) : Bool := want.all fun b => bankCount (have_ ++ want) b ≤ 2

/-- What stands in the way of the word of a core before banks are asked for: a park, an empty FIFO, a hazard-check stall. -/
def Dev.held? (d : Dev) (n k : Nat) : Option Nat :=
  let x := d.core n k
  if (d.parkDue n k).isSome then some 5
  else match x.starved with
    | some g => some (1 + g)
    | none => if x.stalls then some 4 else none

/-- The findings of one cycle: the cores from `cyc mod 32` upward, each word all or nothing (R89). -/
def Dev.arbitrate (d : Dev) (n : Nat) : List (Nat × Nat) :=
  let c := d.clu n
  let taken := (c.writes.filter fun b => b.land = c.cyc + 2).map fun b => b.word % 16
  let s := (List.range 32).foldl (fun (s : Slots) i =>
      let k := (c.cyc + i) % 32
      let x := d.core n k
      if !x.running then s
      else match d.held? n k with
        | some v => { s with plan := s.plan ++ [(k, v)] }
        | none =>
          let rd := x.reads.map (· % 16)
          let wr := x.writesTo.map (· % 16)
          if fits s.rd rd && fits s.wr wr then ⟨s.rd ++ rd, s.wr ++ wr, s.plan ++ [(k, 0)]⟩
          else { s with plan := s.plan ++ [(k, 3)] })
    ⟨[], taken, []⟩
  s.plan

/-! ### Landing of results (R45, R47, R50) -/

/-- The value an ACC element takes from a MAC sum; true when it overflows (R50). -/
def macValue (mode : Nat) (old : Word) (s : Fv) : Word × Bool :=
  let x := if mode = 1 then s else if mode = 2 then (ofF32 old).add s else (ofF32 old).add s.neg
  let y := toF32 x
  (y, !x.special && isInf32 y)

/-- What landing in one cycle gives: the core, the discarded elements with the index of their word, an overflow. -/
structure Landed where
  core : Core
  lost : List (Nat × Nat)
  ovf : Bool

/-- The results due in a counted cycle land: vector results first, then MAC results over them; an element that both write keeps the MAC's (R47). -/
def Core.land (c : Core) : Landed :=
  let fl := c.flights.map fun f => { f with left := f.left - 1 }
  let due := fl.filter fun f => f.left = 0
  let c0 := { c with flights := fl.filter fun f => f.left ≠ 0 }
  let macs := due.flatMap fun f => match f.what with
    | .mac m s => s.map fun e => (e.1, macValue m (c.accAt e.1) e.2)
    | _ => []
  let vecs := due.flatMap fun f => match f.what with
    | .vecAcc v => v.map fun e => (e.1, f.idx, e.2)
    | _ => []
  let lost := (vecs.filter fun e => macs.any fun m => m.1 = e.1).map fun e => (e.1, e.2.1)
  let acc := vecs.foldl (fun a e => tset a e.1 e.2.2 0) c.acc
  let acc := macs.foldl (fun a e => tset a e.1 e.2.1 0) acc
  let c1 := due.foldl (fun (c : Core) f =>
    match f.what with
    | .vecV v => { c with v := v.foldl (fun a e => tset a e.1 e.2 0) c.v }
    | .opReg i w m => { c with
        ops := tset c.ops i w 0
        opMarks := match m with | some a => tput c.opMarks i a | none => tdel c.opMarks i }
    | .scaleA l m => { c with sa := l, saMark := m }
    | .scaleB l m => { c with sb := l, sbMark := m }
    | .latch g w m => if g = 0 then { c with la := w, laMark := m } else { c with lb := w, lbMark := m }
    | _ => c) { c0 with acc := acc }
  ⟨c1, lost, macs.any fun e => e.2.2⟩

/-- A counted cycle of a core: landings, ACC_INF, and the discarded result of R47, whose first element and word are recorded. -/
def Dev.landCore (d : Dev) (n k : Nat) : Dev :=
  let r := (d.core n k).land
  let d := d.setCore n k r.core
  let d := if r.ovf then d.coreSticky n k 5 else d
  match r.lost.head? with
  | none => d
  | some (e, idx) =>
    let first := !d.bit (pClu n) (coreOff k + 4) 0
    let d := if first then d.setReg (pClu n) (coreOff k + 8) (BitVec.ofNat 32 (idx % 4096 + e / 128 * 4096)) else d
    d.coreSticky n k 0

/-- The end of a cycle in which the landings of core state `c` were made: with HAZARD_FAULT a discarded result stops the tile (R60), and a stopped core whose results have landed is IDLE. -/
def Dev.cycleEnds (d : Dev) (n k : Nat) (c : Core) : Dev :=
  match (d.core n k).tile with
  | none => d
  | some t =>
    let d := match c.land.lost.head? with
      | some (e, idx) =>
        if d.bit (pClu n) 0x7C0 1 && !t.stopped then d.tileFault n k t 0x5003 (idx % 4096 + k * 2 ^ 12 + e / 128 * 2 ^ 17) else d
      | none => d
    match (d.core n k).tile with
    | some t => if t.stopped && (d.core n k).flights.isEmpty then d.coreIdle n k else d
    | none => d

/-! ### Issue -/

/-- The exact sums of a MAC issue (R48, R50): element number and sum. -/
def Core.macSums (c : Core) : List (Nat × Fv) :=
  let w := c.word
  let fa := cwFmtA w
  let fb := cwFmtB w
  let (na, _, rows) := pairShape fa fb
  let ks := na / rows
  let xa := (macSrc c (cwSrcA w)).1
  let xb := (macSrc c (cwSrcB w)).1
  let row0 := if fmtMx fa then 0 else if fa = 10 then cwRow w else 8 * (cwRow w % 2)
  (List.range rows).flatMap fun i =>
    (List.range 8).map fun j =>
      let s := (List.range ks).foldl (fun a kap =>
        a.add ((ofFmt fa (sliceElem xa (sliceA fa fb) (cwSliceA w) (fmtWidth fa) (kap * rows + i))).mul
          (ofFmt fb (sliceElem xb (sliceB fa fb) (cwSliceB w) (fmtWidth fb) (kap * 8 + j)))) ) (.fin false 0 0)
      let s := if fmtMx fa then (s.e8 ((c.sa[row0 + i]?).getD 0)).e8 ((c.sb[j]?).getD 0) else s
      (accNum (cwBank w) (row0 + i) j, s)

/-- The datum of a writeback code and the mark it carries (R56; 17, R366). -/
def Core.wbWord (c : Core) (s : Nat) : W256 × Bool :=
  if s < 32 then
    (BitVec.ofNat 256 (lanesNum ((List.range 8).map fun l => c.vAt (s / 2) (8 * (s % 2) + l))), false)
  else if s < 96 then
    (BitVec.ofNat 256 (lanesNum ((List.range 8).map fun j => c.accAt (accNum ((s - 32) / 16) ((s - 32) % 16) j))), false)
  else if s = 96 then (c.la, c.laMark.isSome)
  else (c.lb, c.lbMark.isSome)

/-- The DPA of a poison mark that the word consumes: MAC operands, scales used by a MAC, vector sources (17, R366). -/
def Core.consumes (c : Core) : Option Nat :=
  let w := c.word
  let v := cwVop w
  let mac := if cwMode w = 0 then [] else
    [(macSrc c (cwSrcA w)).2, (macSrc c (cwSrcB w)).2] ++ (if fmtMx (cwFmtA w) then [c.saMark, c.sbMark] else [])
  let vec := (if vopUsesA v then [vecMark c (cwVsa w)] else []) ++ (if vopUsesB v then [vecMark c (cwVsb w)] else [])
    ++ (if vopUsesC v then [vecMark c (cwVsc w)] else [])
  ((mac ++ vec).filterMap id).head?

/-- The next index (R42): index, LC0, LC1, END. -/
def Core.nextIndex (c : Core) : Nat × Nat × Nat × Bool :=
  let w := c.word
  let up := (c.next + 1) % 4096
  if cwNext w = 1 then
    (if 1 < c.lc0 then (cwTarget w, c.lc0 - 1, c.lc1, false) else (up, c.li0, c.lc1, false))
  else if cwNext w = 2 then
    (if 1 < c.lc1 then (cwTarget w, c.lc0, c.lc1 - 1, false) else (up, c.lc0, c.li1, false))
  else if cwNext w = 3 then (c.next, c.lc0, c.lc1, true)
  else (up, c.lc0, c.lc1, false)

/-- Results that the word puts in flight (R45), buffer reads apart. -/
def Core.newFlights (c : Core) (vr : VecRes) : List Flight :=
  let w := c.word
  (if cwMode w = 0 then [] else [⟨6, c.next, .mac (cwMode w) c.macSums⟩])
  ++ (if cwVop w = 0 then []
      else if cwVdst w < 16 then
        [⟨4, c.next, .vecV ((List.range 16).map fun l => (16 * cwVdst w + l, (vr.lanes[l]?).getD 0))⟩]
      else [⟨4, c.next, .vecAcc ((List.range 16).map fun l => (pairElem (cwVdst w) l, (vr.lanes[l]?).getD 0))⟩])
  ++ (if cwOpld w then
        [⟨1, c.next, if cwOpldSrc w = 0 then .opReg (cwOpldDst w) c.la c.laMark else .opReg (cwOpldDst w) c.lb c.lbMark⟩]
      else [])
  ++ (if cwSclA w then
        [⟨1, c.next, .scaleA ((List.range 16).map fun i => fld c.la.toNat (8 * (16 * cwSclAOff w + i) + 7) (8 * (16 * cwSclAOff w + i))) c.laMark⟩]
      else [])
  ++ (if cwSclB w then
        [⟨1, c.next, .scaleB ((List.range 8).map fun i => fld c.lb.toNat (8 * (8 * cwSclBOff w + i) + 7) (8 * (8 * cwSclBOff w + i))) c.lbMark⟩]
      else [])

/-- One generator's step on the core: pop, current address (R57). -/
def Core.agStep (c : Core) (g : Nat) : Core :=
  let s := c.step g
  if stepPops s then
    let a := c.addr g
    let c := c.setFifo g ((c.fifo g).drop 1)
    if g = 0 then { c with cur0 := a, popped0 := true } else { c with cur1 := a, popped1 := true }
  else c

/-- The word issues (R56): reads, MAC, vector operation, loads, generator steps, writeback, sequencing. The landings of the cycle have been made. -/
def Dev.issueWord (d : Dev) (n k : Nat) (t : Tile) : Dev :=
  let c := d.core n k
  let w := c.word
  match c.storeMarks.contains c.next, c.consumes with
  | true, _ =>
    -- an uncorrectable control-store entry; the second in one entry within 24 h retires the core (17, R368)
    let key := 4096 * k + c.next
    let again := (d.clu n).storeErrs.any fun e => e.1 = key && d.ao ≤ e.2 + 4320000000000
    let d := d.modClu n fun x => { x with storeErrs := (key, d.ao) :: x.storeErrs.filter fun e => e.1 ≠ key }
    let d := if again then d.retireCore n k else d
    let d := d.addCount (pClu n) 0x488 1
    d.tileFault n k t 0x3001 (t.queue % 8 + n * 65536)
  | false, some a => (d.poisonFault n t.queue t.job a 0 none).stopTile n k
  | false, none =>
    let vr := vecOp (cwVop w) (cwVfmt w) (cwVimm w) (vecSrc c (cwVsa w) (cwVimm w)) (vecSrc c (cwVsb w) (cwVimm w))
      (vecSrc c (cwVsc w) (cwVimm w))
    let early := [0, 1].any fun g => (c.rawStep g = 2 || c.rawStep g = 4) && !c.popped g
    let d := c.reads.foldl (fun d a => d.noteErrs (wordDpa n a) 32) d
    let rds := ([0, 1].filter fun g => c.step g = 1 || c.step g = 2).map fun g =>
      (⟨3, c.next, .latch g (d.coreRead n (c.addr g)) (d.wordMark n (c.addr g))⟩ : Flight)
    let wb := c.wbWord (cwWb w)
    let wrs := c.writesTo.map fun a => (⟨k, (d.clu n).cyc + 2, a, wb.1, wb.2⟩ : BufWrite)
    let (nx, l0, l1, fin) := c.nextIndex
    let c' := (c.agStep 0).agStep 1
    let c' := { c' with
      flights := c.flights ++ c.newFlights vr ++ rds
      next := nx, lc0 := l0, lc1 := l1
      tile := some { t with ended := fin } }
    let d := d.setCore n k c'
    let d := d.modClu n fun x => { x with writes := x.writes ++ wrs }
    let d := if early then d.coreSticky n k 2 else d
    let d := if vr.sat then d.coreSticky n k 3 else d
    let d := if vr.nanZero then d.coreSticky n k 4 else d
    let d := d.addCount (pClu n) (coreOff k + 0x10) 1
    let d := if cwMode w ≠ 0 then d.addCount (pClu n) (coreOff k + 0x18) 1 else d
    d.coreSt n k csRunning c.next 0

/-- A frozen cycle: FREEZE_CAUSE and CORE_FROZEN; bank contention is counted for the buffer (R44; 05, R100). -/
def Dev.freeze (d : Dev) (n k cause : Nat) : Dev :=
  let d := (d.coreSt n k csFrozen (d.core n k).next cause).addCount (pClu n) (coreOff k + 0x14) 1
  if cause = 3 then d.addCount (pClu n) 0x420 1 else d

/-- A stall cycle of hazard-check mode (R59). -/
def Dev.stallCycle (d : Dev) (n k : Nat) : Dev :=
  let first := !d.bit (pClu n) (coreOff k + 4) 1
  let d := if first then d.setF (pClu n) (coreOff k + 0xC) 11 0 (d.core n k).next else d
  let d := (d.coreSticky n k 1).addSat (pClu n) (coreOff k + 0xC) 31 12 1
  d.freeze n k 4

/-- The part of a core in one cluster cycle, `v` being what arbitration found for it: none for a core that was given its tile after that, whose first word issues in the next cycle (04, R69). -/
def Dev.coreCycle (d : Dev) (n k : Nat) (v : Option Nat) : Dev :=
  let c := d.core n k
  match c.tile with
  | none => d
  | some t =>
    -- after END or a stop: results in flight land, no word issues (R43, R60, R80)
    if t.ended then (d.landCore n k).cycleEnds n k c
    else match v with
      | none => d
      | some 0 => ((d.landCore n k).issueWord n k t).cycleEnds n k c
      | some 3 => d.freeze n k 3
      | some 4 => ((d.landCore n k).stallCycle n k).cycleEnds n k c
      | some 5 => d.freeze n k 5
      | some x =>
        -- a pop beyond the last entry of the sequence is an underrun (04, R81); otherwise the entry is awaited
        let g := x - 1
        if (c.fifo g).isEmpty && (t.curStream g).isNone then
          d.tileFault n k t 0x5007 (c.next + g * 2 ^ 12 + k * 2 ^ 13 + t.queue * 2 ^ 18)
        else d.freeze n k x

/-- The turn of core `k` begins: the cycle count moves on when the core has had its turn, and at the first turn of a cycle AFFINE entries are there and arbitration is made (04, R72; 05, R89). -/
def Dev.beginTurn (d : Dev) (n k : Nat) : Dev :=
  let d := if (d.clu n).turned.contains k then d.nextCycle n else d
  let d := if (d.clu n).turned.isEmpty then
      let d := d.each (List.range 64) fun d i => d.feedAffine n (i / 2) (i % 2)
      let g := d.arbitrate n
      d.modClu n fun x => { x with plan := g }
    else d
  d.modClu n fun x => { x with turned := addSet x.turned k }

/-- One cluster cycle of core `k` of cluster `n`. Cores stand while the domain's clock does not run. -/
def Dev.coreTurn (d : Dev) (n k : Nat) : Dev :=
  if d.dom (n / 10) ≠ dsOn then d
  else
    let d := d.beginTurn n k
    d.coreCycle n k (((d.clu n).plan.find? fun e => e.1 = k).map Prod.snd)

end Sys2Proof.Machine
end

