-- ==== Sys2Proof/Machine/Gaffer.lean ====
section
/-! DEFINITION. The gaffer (04; 05, R93; 08, R166–R169; 12, R247): head checks, arbitration, placement, streams, flags, loads, merges, parking. -/

namespace Sys2Proof.Machine

/-! ### Command fields (R66, 08 R167) -/

def sgFlag (w : Nat) : Nat := fld w 13 8
def sgAmount (w : Nat) : Nat := fld w 31 16
def wtConsume (w : Nat) : Bool := bitOf w 32
def fnScope (w : Nat) : Nat := fld w 10 8
def clDst (w : Nat) : Nat := fld w 19 8
def clCount (w : Nat) : Nat := fld w 32 20
def clMask (w : Nat) : Nat := fld w 95 64
def clSrc (w : Nat) : Nat := fld w 143 96
/-! ### Head checks (R66, R168) -/

/-- Fields of one dimension of an AFFINE stream. -/
def dimFields (w k : Nat) : List (Nat × Bool) :=
  if k < smDims w then [(32 * k + 32, smCount w k == 0)]
  else [(32 * k + 32, smCount w k ≠ 0), (32 * k + 48, fld w (32 * k + 63) (32 * k + 48) ≠ 0)]

/-- The fields of a STREAM with their checks. -/
def streamFields (w : Nat) : List (Nat × Bool) :=
  let h : List (Nat × Bool) :=
    [(0, fld w 7 0 ≠ 2), (11, bitOf w 11),
     (27, if smIndirect w then smDims w ≠ 0 else smDims w = 0 || 4 < smDims w),
     (30, fld w 31 30 ≠ 0)]
  let i : List (Nat × Bool) := [(32, smList w % 2 ≠ 0), (80, smLength w = 0), (104, fld w 159 104 ≠ 0)]
  let e : List (Nat × Bool) := [(160, w / 2 ^ 160 ≠ 0)]
  h ++ (if smIndirect w then i else (List.range 4).flatMap (dimFields w)) ++ e

/-- The failing field of a STREAM. -/
def streamCheck (w : Nat) : Option Nat := firstBad (streamFields w)

/-- The first word of a merge that fails, in the order of R168. -/
def mergeWordBad (w : Nat) : Option Nat :=
  let okR (x : Nat) := bitOf (mgRead w) (regionOf x) || bitOf (mgWrite w) (regionOf x)
  let bad (base len : Nat) (out : Bool) : Option Nat :=
    ((List.range len).findSome? fun i =>
      let x := base + i
      if 32768 ≤ x then some (if out then 45 else 8)
      else if out then (if bitOf (mgWrite w) (regionOf x) then none else some 176)
      else if okR x then none else some 112)
  (List.range (mgCount w)).findSome? fun c =>
    match (List.range (mgParts w)).findSome? fun i =>
      bad (mgPbase w + c * mgMstride w + i * mgPstride w) (mgPwords w) false with
    | some b => some b
    | none => bad (mgObase w + c * mgOstride w) (mgOwords w) true

/-- The fields of a MERGE with their checks of R66. -/
def mergeFields (w : Nat) : List (Nat × Bool) :=
  [(29, mgHdim w = 3), (31, mgOfmt w = 3), (60, fld w 63 60 ≠ 0),
   (64, mgPstride w = 0 || 32767 < mgPstride w), (80, 32767 < mgMstride w),
   (241, !mgSigEn w && mgSigFlag w ≠ 0), (247, w / 2 ^ 247 ≠ 0)]

/-- Every field of a MERGE in the order of the check: its own, OSTRIDE against the words of an output, and the word that lies outside the buffer. -/
def mergeAll (w : Nat) : List (Nat × Bool) :=
  mergeFields w ++ [(96, decide (mgOstride w < mgOwords w))] ++ (match mergeWordBad w with | some b => [(b, true)] | none => [])
def mergeCheck (w : Nat) : Option Nat := firstBad (mergeAll w)

/-- The fields of a TILE with their checks; `short`: another opcode stands where one of its STREAM commands is due. -/
def tileFields (w : Nat) (short : Bool) : List (Nat × Bool) :=
  [(212, 8 < tlStreams w || short), (218, !tlSigEn w && tlSigFlag w ≠ 0), (224, w / 2 ^ 224 ≠ 0)]

/-- The fields of a command other than TILE, STREAM and MERGE with their checks. -/
def plainFields (w : Nat) : List (Nat × Bool) :=
  let op := fld w 7 0
  if op = 0x00 then [(8, w / 2 ^ 8 ≠ 0)]
  else if op = 0x03 then [(14, fld w 15 14 ≠ 0), (16, sgAmount w = 0), (32, w / 2 ^ 32 ≠ 0)]
  else if op = 0x04 then [(14, fld w 15 14 ≠ 0), (33, w / 2 ^ 33 ≠ 0)]
  else if op = 0x05 then [(8, 4 < fnScope w), (11, w / 2 ^ 11 ≠ 0)]
  else if op = 0x06 then
    [(20, clCount w = 0 || 4096 < clDst w + clCount w), (33, fld w 63 33 ≠ 0), (96, clSrc w % 32 ≠ 0), (144, w / 2 ^ 144 ≠ 0)]
  else [(0, true)]

/-- The failing field of a head other than TILE. -/
def plainCheck (w : Nat) : Option Nat := if fld w 7 0 = 0x07 then mergeCheck w else firstBad (plainFields w)

/-- What a head check finds: nothing yet, a good head with the number of commands it takes, or the opcode and the failing field of a bad one. -/
inductive HeadChk where
  | wait
  | good (k : Nat)
  | bad (w bit_ : Nat)
deriving DecidableEq, Repr

/-- Check the head of a gaffer queue (R66). -/
def headCheck : List Nat → HeadChk
  | [] => .wait
  | w :: rest =>
    if fld w 7 0 = 0x01 then
      let here := rest.take (tlStreams w)
      match firstBad (tileFields w (here.any fun x => fld x 7 0 ≠ 0x02)) with
      | some b => .bad w b
      | none =>
        if here.length < tlStreams w then .wait
        else match here.findSome? fun x => (streamCheck x).map fun b => (x, b) with
          | some (x, b) => .bad x b
          | none => .good (1 + tlStreams w)
    else match plainCheck w with
      | some b => .bad w b
      | none => .good 1

/-! ### Issue conditions (R67, R69) -/

/-- The gaffer issues: its clock runs and STATE is READY or ACTIVE (R62). -/
def Dev.gafRuns (d : Dev) (n : Nat) : Bool :=
  d.dom (n / 10) = dsOn && d.clockOn (n / 10) && (d.st (pClu n) = stReady || d.st (pClu n) = stActive) && !d.quiesce (pClu n) && !d.instHolds n

/-- A core that is IDLE. -/
def Dev.coreIsIdle (d : Dev) (n k : Nat) : Bool := d.coreState n k = csIdle && (d.core n k).tile.isNone

/-- Cores held by pending CSLOADs of a cluster. -/
def Dev.loadHolds (d : Dev) (n k : Nat) : Bool := (d.clu n).loads.any fun l => bitOf l.mask k

/-- The effective set of a mask in a queue (R69). -/
def Dev.effSet (d : Dev) (n q mask : Nat) : List Nat :=
  below 32 fun k => bitOf mask k && d.bit (pClu n) (qOff n q + 4) k && d.coreIn n k

/-- The lowest free core of the effective set (R69). -/
def Dev.freeCore (d : Dev) (n q mask : Nat) : Option Nat :=
  (d.effSet n q mask).find? fun k => d.coreIsIdle n k && !d.loadHolds n k

/-- Work of a queue that has issued and not completed: tiles on cores and parked, loads, a merge. -/
def Dev.gafBusy (d : Dev) (n q : Nat) : Bool :=
  (below 32 fun k => match (d.core n k).tile with | some t => t.queue = q && !t.stopped | none => false).length ≠ 0
  || ((d.clu n).parks.any fun e => match e.2.saved.tile with | some t => t.queue = q | none => false)
  || ((d.clu n).loads.any fun l => l.queue = q)
  || (match (d.clu n).merge with | some m => m.queue = q | none => false)

/-- The head of a queue, checked and good, is issuable (R67, R168). -/
def Dev.gafIssuable (d : Dev) (n q w : Nat) : Bool :=
  let op := fld w 7 0
  if op = 0x01 then d.scoreOk n (tlRead w) (tlWrite w) && (d.freeCore n q (tlCoreMask w)).isSome
  else if op = 0x03 then !d.gafBusy n q
  else if op = 0x04 then sgAmount w ≤ d.flag (pClu n) (sgFlag w)
  else if op = 0x06 then (below 32 fun k => bitOf (clMask w) k).all fun k => d.coreIsIdle n k
  else if op = 0x07 then d.scoreOk n (mgRead w) (mgWrite w) && (d.clu n).merge.isNone
  else true

/-- A queue is ready in this cycle (R67, R68, 11 R220). -/
def Dev.gafReady (d : Dev) (n q : Nat) : Bool :=
  d.qBound n q && d.qMark n q = 0 && (d.qFence n q).isNone && d.eligible n (d.qJob n q) && !d.queueBad n q &&
  match headCheck (d.qCmds n q), d.qHead n q with
  | .good _, some w => d.gafIssuable n q w
  | _, _ => false

/-- The choice of the round robin, and the cluster with credits and pointer moved (R68). -/
def Dev.gafChoose (d : Dev) (n : Nat) : Option (Nat × Dev) :=
  (wrr 8 (d.qWeight n) (fun q => ((d.clu n).q q).credit) (d.qBound n) (d.gafReady n) (d.clu n).ptr).map fun (q, cr, p) =>
    (q, d.modClu n fun c => { c with ptr := p, qs := (List.range 8).map fun i => { c.q i with credit := cr i } })

/-- The regions of a command name region 63 and its job is not the sealed one (05, R93). -/
def Dev.sealRefused (d : Dev) (n q rd wr : Nat) : Bool :=
  (bitOf rd 63 || bitOf wr 63) && d.secDenied (agPtn (d.job (d.qJob n q)).ptn (some (d.qJob n q))) n

/-- ao-cycles that bound a MERGE (R169; 35 cluster cycles an ao-cycle at 1.75 GHz). -/
def mergeBound (w : Nat) : Nat :=
  let c := if mgD w = 64 then 1 else if mgD w = 128 then 2 else 3
  ceilDiv (20 + mgCount w * (mgParts w * c + mgD w / 16 + 6)) 35

/-- The faults that a head takes without issuing: POISON_CONSUMED of its own words (17, R368), COMMAND_INVALID, SEAL_VIOLATION, PLACEMENT_EMPTY, NONPREEMPT_LIMIT. -/
def Dev.headFault (d : Dev) (n q : Nat) : Option Dev :=
  let j := d.qJob n q
  if d.queueBad n q && (d.qHead n q).isSome then some (d.sramFault (.queue n q) n q j) else
  match headCheck (d.qCmds n q), d.qHead n q with
  | .bad w b, _ => some (d.cmdInvalid n q w b)
  | .good _, some w =>
    if fld w 7 0 = 0x01 then
      if d.sealRefused n q (tlRead w) (tlWrite w) then some (d.jobFault n q j 0x7001 (q % 8 + n * 65536))
      else if (d.effSet n q (tlCoreMask w)).isEmpty then some (d.jobFault n q j 0x5006 (q % 8))
      else none
    else if fld w 7 0 = 0x07 then
      if d.sealRefused n q (mgRead w) (mgWrite w) then some (d.jobFault n q j 0x7001 (q % 8 + n * 65536))
      else if 10000 < mergeBound w then some (d.jobFault n q j 0x5002 (min 65535 (mergeBound w - 10000)))
      else none
    else none
  | _, _ => none

/-- Serve queue `q` of cluster `n`: a head that cannot stand faults its job; a head of opcode `op` that the round robin chooses issues by `f`. -/
def Dev.gafServe (d : Dev) (n q op : Nat) (f : Dev → Nat → Nat → Dev) : Dev :=
  if !(d.gafRuns n && d.qBound n q && d.qMark n q = 0 && (d.qFence n q).isNone && d.eligible n (d.qJob n q)) then d
  else match d.headFault n q with
  | some d' => d'
  | none =>
    match d.qHead n q, headCheck (d.qCmds n q), d.gafChoose n with
    | some w, .good k, some (c, d') => if c = q && fld w 7 0 = op then f d' w k else d
    | _, _, _ => d

/-! ### TILE (R69, R70) -/

/-- Place a tile on a core. -/
def Dev.placeTile (d : Dev) (n q w : Nat) (streams : List (BitVec 256)) (k : Nat) : Dev :=
  let t : Tile := {
    job := d.qJob n q, queue := q, nonpre := tlNonpre w, sigEn := tlSigEn w, sigFlag := tlSigFlag w
    coreMask := tlCoreMask w, readR := tlRead w, writeR := tlWrite w, streams := streams, at_ := d.ao }
  let d := d.modCore n k fun c =>
    { c with
      lc0 := tlLoopA w, li0 := tlLoopA w, lc1 := tlLoopB w, li1 := tlLoopB w
      fifo0 := [], fifo1 := [], cur0 := 0, cur1 := 0, popped0 := false, popped1 := false
      next := tlStart w, tile := some t, hcheck := d.bit (pClu n) 0x7C0 0 }
  (d.scoreTake n t.readR t.writeR).coreSt n k csRunning (tlStart w) 0

/-- TILE (R69). -/
def execTile (n : Fin 800) (q : Fin 8) (s : State) : Out := s.upd fun d =>
  d.gafServe n q 0x01 fun d w k =>
    match d.freeCore n q (tlCoreMask w) with
    | none => d
    | some c =>
      let st := (((d.clu n).q q).cmds.drop 1).take (tlStreams w)
      (d.qPop n q k).placeTile n q w st c

/-- TILE_COMPLETE (R43, R81): END has issued, every result and every granted write of the core has landed. -/
def execTileComplete (n : Fin 800) (k : Fin 32) (s : State) : Out := s.upd fun d =>
  let c := d.core n k
  match c.tile with
  | none => d
  | some t =>
    if t.ended && !t.stopped && c.flights.isEmpty && ((d.clu n).writes.all fun b => b.core ≠ k) then
      let left := !c.fifo0.isEmpty || !c.fifo1.isEmpty || (t.curStream 0).isSome || (t.curStream 1).isSome
      let d := if left then d.setBit (pClu n) 0x48 1 true else d
      let d := (d.scoreFree n t.readR t.writeR).coreIdle n k
      if t.sigEn then d.addFlag (pClu n) t.sigFlag 1 else d
    else d

/-! ### NOP, SIGNAL, WAIT, FENCE -/

/-- NOP (R65). -/
def execGafferNop (n : Fin 800) (q : Fin 8) (s : State) : Out := s.upd fun d =>
  d.gafServe n q 0x00 fun d _ k => d.qPop n q k

/-- SIGNAL (R76). -/
def execGafferSignal (n : Fin 800) (q : Fin 8) (s : State) : Out := s.upd fun d =>
  d.gafServe n q 0x03 fun d w k => (d.qPop n q k).addFlag (pClu n) (sgFlag w) (sgAmount w)

/-- WAIT (R77). -/
def execGafferWait (n : Fin 800) (q : Fin 8) (s : State) : Out := s.upd fun d =>
  d.gafServe n q 0x04 fun d w k =>
    let d := d.qPop n q k
    if wtConsume w then d.subFlag (pClu n) (sgFlag w) (sgAmount w) else d

/-- FENCE (12, R247): it issues and holds its queue. -/
def execGafferFence (n : Fin 800) (q : Fin 8) (s : State) : Out := s.upd fun d =>
  d.gafServe n q 0x05 fun d w k => (d.setFence n q (some (fnScope w))).qPop n q k

/-- CLU_FLAG_ADD (R76): AMOUNT 0 has no effect. -/
def Dev.cluFlagAdd (d : Dev) (n : Nat) (v : Word) : Dev := d.addFlag (pClu n) (wfld v 5 0) (wfld v 31 16)

/-! ### CSLOAD (R67) -/

/-- CSLOAD: the words are read from memory through the gaffer's translation cache and the die's lines. -/
def execCsload (n : Fin 800) (q : Fin 8) (s : State) : Out := s.upd fun d =>
  d.gafServe n q 0x06 fun d' w k =>
    let j := d'.qJob n q
    let p := (d'.job j).ptn
    match d'.fetch (some n) (some (dieOf n)) (agPtn p (some j)) p (clSrc w) (32 * clCount w) false with
    | (e, .fault x) => e.jobFault n q j x.code (xInfo x q false 1 n)
    | (e, .wait) => e.modClu n fun _ => d.clu n
    | (e, .sealed) => e.jobFault n q j 0x7001 (q.val % 8 + n.val * 65536)
    | (e, .marked a _) => e.poisonFault n q j a 3 none
    | (e, .ok bs) =>
      let ws := (List.range (clCount w)).map fun i => BitVec.ofNat 256 (numAt bs (32 * i) 32)
      (e.qPop n q k).modClu n fun c => { c with loads := c.loads ++ [⟨q, j, clDst w, clMask w, ws⟩] }

/-- Write words into the control store of a core, from an index up; a rewritten entry loses its error. -/
def Core.loadStore (c : Core) (dst : Nat) (ws : List W256) : Core :=
  { c with
    store := (ws.zipIdx).foldl (fun t e => tset t (dst + e.2) e.1 0) c.store
    storeMarks := c.storeMarks.filter fun i => ¬ (dst ≤ i ∧ i < dst + ws.length) }

/-- Load every core of a mask. -/
def Dev.loadCores (d : Dev) (n mask dst : Nat) (ws : List W256) : Dev :=
  d.each (maskBits 32 mask) fun d k => d.modCore n k fun c => c.loadStore dst ws

/-- FAULT_INFO of CONTROL_WORD_INVALID (03, R43). -/
def cwInfo (idx bit_ mask : Nat) : Nat := idx % 4096 + bit_ % 256 * 4096 + ((maskBits 32 mask).head?).getD 0 * 2 ^ 20

/-- CSLOAD_COMPLETE (R67, R41): the oldest load of queue `q` passes or is refused. -/
def execCsloadComplete (n : Fin 800) (q : Fin 8) (s : State) : Out := s.upd fun d =>
  match (d.clu n).loads.find? fun l => l.queue = q.val with
  | none => d
  | some l =>
    let d := d.modClu n fun c => { c with loads := c.loads.erase l }
    match cwFirstBad l.words 0 with
    | some (i, b) => d.jobFault n q l.job 0x5004 (cwInfo (l.dst + i) b l.mask)
    | none => d.loadCores n l.mask l.dst l.words

/-! ### MERGE (08, R168) -/

/-- MERGE (R168): the merge unit takes it; it reads its partials and writes its outputs in the accesses that follow. -/
def execMerge (n : Fin 800) (q : Fin 8) (s : State) : Out := s.upd fun d =>
  d.gafServe n q 0x07 fun d w k =>
    ((d.qPop n q k).scoreTake n (mgRead w) (mgWrite w)).modClu n fun c =>
      { c with merge := some ⟨q, d.qJob n q, mgRead w, mgWrite w, mgSigEn w, mgSigFlag w, d.ao, BitVec.ofNat 256 w, 0, []⟩ }

/-- Up to `f` accesses of the merge unit; a marked word stops the command, and its job faults (17, R367). -/
def Dev.mergeRun (n : Nat) : Nat → Dev → Dev
  | 0, d => d
  | f + 1, d =>
    match (d.clu n).merge with
    | none => d
    | some m =>
      if m.over || (d.clu n).march.isSome then d
      else match d.mergeStep n m with
        | .goes d x => Dev.mergeRun n f (d.modClu n fun c => { c with merge := some x })
        | .marked d a =>
          ((d.scoreFree n m.readR m.writeR).modClu n fun c => { c with merge := none }).poisonFault n m.queue m.job a 3 none

/-- MERGE_COMPLETE (R168): the merge unit has made further accesses; once its last output has landed it releases its entries and signals. -/
def execMergeComplete (m : MergeTurn) (s : State) : Out := s.upd fun d =>
  let n := m.clu
  let d := Dev.mergeRun n m.reads d
  match (d.clu n).merge with
  | none => d
  | some m =>
    if !m.over then d
    else
      let d := ((d.scoreFree n m.readR m.writeR).modClu n fun c => { c with merge := none }).settleOverrun m.job
      if m.sigEn then d.addFlag (pClu n) m.sigFlag 1 else d

/-! ### STREAM_ENTRY_PUSH (R71–R73) -/

/-- Generate one entry of generator `g` of core `k`. -/
def Dev.genEntry (d : Dev) (n k g : Nat) : Dev :=
  let c := d.core n k
  match c.tile with
  | none => d
  | some t =>
    if t.ended || 64 ≤ (c.fifo g).length || (t.held.any fun h => h.1 = g) || d.dom (n / 10) ≠ dsOn then d
    else match t.curStream g with
    | none => d
    | some sw =>
      let w := sw.toNat
      let pos := t.pos g
      if !smIndirect w then d.checkEntry n k g t w (affineWord w pos.idx)
      else
        let p := (d.job t.job).ptn
        match d.fetch (some n) (some (dieOf n)) (agPtn p (some t.job)) p (smList w + 2 * pos.lpos) 2 false with
        | (e, .fault x) =>
          let hold := if x.hard then none else e.holdTake p true n t.queue x false
          match hold with
          | some (e, h) => e.modCore n k fun c => { c with tile := some { t with held := t.held ++ [(g, h)] } }
          | none => e.jobFault n t.queue t.job x.code (xInfo x t.queue false 1 n)
        | (e, .wait) => e
        | (e, .sealed) => e.jobFault n t.queue t.job 0x7001 (t.queue % 8 + n * 65536)
        | (e, .marked a _) => e.poisonFault n t.queue t.job a 3 none
        | (e, .ok bs) =>
          let v := leNat bs
          if bitOf v 15 then e.jobFaultM n t.queue t.job 0x2001 (pos.lpos % 2 ^ 24) (some [.entry (smList w + 2 * pos.lpos) pos.lpos])
          else e.checkEntry n k g t w ((smBase w + v) % 32768)

/-- STREAM_ENTRY_PUSH (R72). -/
def execStreamEntryPush (n : Fin 800) (k : Fin 32) (g : Fin 2) (s : State) : Out :=
  s.upd fun d => if d.clockOn (n / 10) then d.genEntry n k g else d

/-! ### Waits and aborts -/

/-- FLAG_WAIT_TIMEOUT (R77). -/
def execFlagWaitTimeout (n : Fin 800) (q : Fin 8) (s : State) : Out := s.upd fun d =>
  match d.qHead n q, d.qWaiting n q with
  | some w, some (at_, lim) =>
    if fld w 7 0 = 0x04 && d.flag (pClu n) (sgFlag w) < sgAmount w && at_ + lim ≤ d.ao then
      d.jobFault n q (d.qJob n q) 0x5001 (sgFlag w + q.val * 256 + d.flag (pClu n) (sgFlag w) * 65536)
    else d
  | _, _ => d

/-- JOB_ABORT_PROPAGATE (R80; 07, R142; 13, R272): one unit that holds an aborted job performs the abort. -/
def execJobAbortPropagate (u : Fin 0x4100) (j : Fin 4096) (s : State) : Out := s.upd fun d => d.abortPropagate u j

/-! ### Parking (R79) -/

/-- The saved position of a generator: 16 bytes (R79). -/
def posBytes (t : Tile) (g : Nat) : List Byte :=
  let p := t.pos g
  let ind := match t.curStream g with | some w => smIndirect w.toNat | none => false
  leBytes 2 (p.strm % 8) ++ (if ind then leBytes 8 (p.lpos % 2 ^ 24) else p.idx.flatMap (leBytes 2)) ++ List.replicate 6 0

/-- A number that stands for what a flight holds, for the device's own layout of flights. -/
def Flight.code (f : Flight) : List Nat :=
  [f.left, f.idx] ++ match f.what with
    | .mac m s => 0 :: m :: s.map Prod.fst
    | .vecAcc v => 1 :: v.flatMap fun e => [e.1, e.2.toNat]
    | .vecV v => 2 :: v.flatMap fun e => [e.1, e.2.toNat]
    | .opReg n w _ => [3, n, w.toNat]
    | .scaleA l _ => 4 :: l
    | .scaleB l _ => 5 :: l
    | .latch g w _ => [6, g, w.toNat]

/-- Bytes of a list of 32-bit words under the numbers from `lo`. -/
def wordBytes (f : Nat → Word) (n : Nat) : List Byte := (List.range n).flatMap fun i => leBytes 4 (f i).toNat

/-- The park image of a core without its CRC (R79). -/
def parkBody (c : Core) (t : Tile) (idx cause : Nat) : List Byte :=
  wordBytes c.accAt 512 ++ wordBytes (fun i => tgetD c.v i 0) 256
  ++ ((List.range 8).flatMap fun i => leBytes 32 (tgetD c.ops i 0).toNat)
  ++ leBytes 32 c.la.toNat ++ leBytes 32 c.lb.toNat
  ++ ((List.range 16).map fun i => BitVec.ofNat 8 ((c.sa[i]?).getD 0))
  ++ ((List.range 8).map fun i => BitVec.ofNat 8 ((c.sb[i]?).getD 0))
  ++ leBytes 2 c.lc0 ++ leBytes 2 c.lc1 ++ leBytes 2 c.li0 ++ leBytes 2 c.li1
  ++ leBytes 4 (idx % 4096 + cause % 16 * 4096)
  ++ leBytes 4 (c.cur0 % 32768 + c.cur1 % 32768 * 65536)
  ++ leBytes 8 (t.job % 4096 + t.queue % 8 * 4096 + (if t.nonpre then 2 ^ 15 else 0) + (if t.sigEn then 2 ^ 16 else 0)
      + t.sigFlag % 64 * 2 ^ 17 + t.coreMask % 2 ^ 32 * 2 ^ 23)
  ++ leBytes 8 t.readR ++ leBytes 8 t.writeR
  ++ bytesAt (c.fifo0.flatMap (leBytes 2)) 0 128 ++ bytesAt (c.fifo1.flatMap (leBytes 2)) 0 128
  ++ leBytes 8 (c.fifo0.length % 128 + c.fifo1.length % 128 * 256) ++ List.replicate 8 0
  ++ posBytes t 0 ++ posBytes t 1 ++ List.replicate 80 0
  ++ bytesAt (t.streams.flatMap fun x => leBytes 32 x.toNat) 0 256
  ++ bytesAt (Config.parkLayout (c.flights.flatMap Flight.code)) 0 4092

/-- The park image (R79). -/
def parkImage (c : Core) (t : Tile) (idx cause : Nat) : List Byte :=
  let b := parkBody c t idx cause
  b ++ leBytes 4 (crc32 b)

/-- PVA of park slot `i` of a cluster. -/
def Dev.parkSlot (d : Dev) (n i : Nat) : Nat := d.pair (pClu n) 0x50 0x54 + i * 0x2000

/-- The job of the tile is the sealed job of its cluster (05, R93; 16, R342). -/
def Dev.sealedJob (d : Dev) (n j : Nat) : Bool := d.bit (pClu n) 0x400 12 && d.getF (pClu n) 0x400 11 0 = j

/-- The agent that the gaffer writes and reads a park image as: for the sealed job it seals under the partition's slot (16, R342). -/
def Dev.parkAgent (d : Dev) (n j : Nat) : Agent :=
  let p := (d.job j).ptn
  if d.sealedJob n j then agPlain p (some j) else agPtn p (some j)

/-- A park image of the sealed job goes only to granules sealed under the partition's slot (16, R342). -/
def Dev.parkAllowed (d : Dev) (n j i : Nat) : Bool :=
  let p := (d.job j).ptn
  !d.sealedJob n j || match (d.xlRange (some n) p (d.parkSlot n i) 0x2000 true).2 with
    | .ok l => l.all fun s => !s.remote && (flipUnits s.dpa s.len).all fun b => d.slotAt b = p + 1
    | .error _ => true

/-- Park a frozen core (R79): the lowest free slot takes its image and the core is IDLE; with no free slot it stays frozen. `atSlice`: the park is a slice end (11, R233, PTN_PREEMPTS). -/
def Dev.park (d : Dev) (n k cause : Nat) (atSlice : Bool) : Dev :=
  let c := d.core n k
  match c.tile with
  | none => d
  | some t =>
    match lowest 64 fun i => (tget? (d.clu n).parks i).isNone with
    | none => (d.setBit (pClu n) 0x48 2 true).coreSt n k csFrozen c.next cause
    | some i =>
      let p := (d.job t.job).ptn
      if !d.parkAllowed n t.job i then d.tileFault n k t 0x7001 (t.queue % 8 + n * 65536)
      else match d.store (some n) (some (dieOf n)) (d.parkAgent n t.job) p (d.parkSlot n i) (parkImage c t c.next cause) false with
      | (e, .fault x) => e.tileFault n k t x.code (xInfo x t.queue true 1 n)
      | (e, .wait) => e
      | (e, .sealed) => e.tileFault n k t 0x7001 (t.queue % 8 + n * 65536)
      | (e, .ok _) =>
        let e := e.modClu n fun x => { x with parks := tput x.parks i ⟨c, c.next, cause⟩ }
        let e := e.modCore n k fun c => { c with flights := [] }
        let e := if atSlice then e.addCount (pPtn p) 0x3B0 1 else e
        e.coreIdle n k

/-- The cycle of a core that the gaffer parks is a frozen one (03, R44); the image is written once the writes granted to the core have landed (03, R58). -/
def Dev.parkTurn (d : Dev) (n k cause : Nat) (atSlice : Bool) : Dev :=
  let d := (d.beginTurn n k).freeze n k 5
  if (d.clu n).writes.any fun b => b.core = k then d else d.park n k cause atSlice

/-- One cluster cycle of a core, with the parks that the gaffer makes in it. -/
def Dev.coreStep (d : Dev) (n k : Nat) : Dev :=
  if d.dom (n / 10) ≠ dsOn || !d.clockOn (n / 10) then d
  else match d.parkDue n k with
    | some (cause, sl) => d.parkTurn n k cause sl
    | none => d.coreTurn n k

/-- CONTROL_WORD_ISSUE (R56). -/
def execControlWordIssue (n : Fin 800) (k : Fin 32) (s : State) : Out := s.upd fun d => d.coreStep n k

/-- RESULT_LAND (R45): a counted cycle of a core that issues no further word; the results due in it land. -/
def execResultLand (n : Fin 800) (k : Fin 32) (s : State) : Out :=
  s.upd fun d => if (d.core n k).running || !d.clockOn (n / 10) then d else d.coreTurn n k

/-- BUFFER_WRITE_LAND (R46): the cluster cycle moves on, and the writes due in it land. -/
def execBufferWriteLand (n : Fin 800) (s : State) : Out := s.upd fun d => if d.clockOn (n / 10) then d.nextCycle n else d

/-- A core whose registers no image defines: an altered image with a good CRC was resumed (R79, Note 1). -/
def Dev.openCore (d : Dev) (c : Core) : Dev × Core :=
  ({ d with freeNext := d.freeNext + 768 },
   { c with
     acc := (List.range 512).foldl (fun t i => tset t i (BitVec.ofNat 32 (Config.free (d.freeNext + i))) 0) []
     v := (List.range 256).foldl (fun t i => tset t i (BitVec.ofNat 32 (Config.free (d.freeNext + 512 + i))) 0) [] })

/-- TILE_RESUME (R79): the tile of park slot `i` resumes on the first free core of its effective set. -/
def execTileResume (n : Fin 800) (i : Fin 64) (s : State) : Out := s.upd fun d =>
  match tget? (d.clu n).parks i with
  | none => d
  | some ps =>
    match ps.saved.tile with
    | none => d
    | some t =>
      if !(d.gafRuns n) || !t.held.isEmpty || !(t.nonpre || d.eligible n t.job) then d
      else match d.freeCore n t.queue t.coreMask with
      | none => d
      | some k =>
        match d.fetch (some n) (some (dieOf n)) (d.parkAgent n t.job) (d.job t.job).ptn (d.parkSlot n i) 0x2000 false with
        | (e, .fault x) => e.jobFault n t.queue t.job x.code (xInfo x t.queue false 1 n)
        | (e, .wait) => e
        | (e, .sealed) => e.jobFault n t.queue t.job 0x7001 (t.queue % 8 + n.val * 65536)
        | (e, .marked a _) => e.poisonFault n t.queue t.job a 3 none
        | (e, .ok bs) =>
          if crc32 (bs.take 0x1FFC) ≠ numAt bs 0x1FFC 4 then e.jobFault n t.queue t.job 0x500B i
          else
            let (e, c) := if bs = parkImage ps.saved t ps.index ps.cause then (e, ps.saved) else e.openCore ps.saved
            let old := e.core n k
            let c := { c with store := old.store, storeMarks := old.storeMarks, retiring := old.retiring }
            let e := (e.setCore n k c).modClu n fun x => { x with parks := tdel x.parks i }
            e.coreSt n k csRunning ps.index 0

/-! ### FENCE_COMPLETE (12, R247) -/

/-- Work of a marver queue in flight. -/
def Dev.mvrBusy (d : Dev) (s q : Nat) : Bool :=
  ((d.stk s).runs.any fun r => r.queue = q) || ((d.stk s).copiers.any fun e => e.2.queue = q)
    || ((d.stk s).saved.any fun e => e.2.queue = q)

/-- Work of a compute DMA queue in flight: its transfer. -/
def Dev.dmaBusy (d : Dev) (e q : Nat) : Bool := (tget? (d.dma e).xfers q).isSome

/-- Earlier commands of a queue are complete. -/
def Dev.qQuiet (d : Dev) (u : UnitKey) (q : Nat) : Bool :=
  if u < 0x2000 then !d.gafBusy u q else if u < 0x4000 then !d.mvrBusy (u - 0x2000) q else !d.dmaBusy (u - 0x4000) q

/-- The condition of a scope is met: earlier commands complete; at GROUP no remote write or atomic of the queue outstanding. -/
def Dev.fenceMet (d : Dev) (u : UnitKey) (q scope : Nat) : Bool :=
  d.qQuiet u q && (scope ≠ 4 || u < 0x4000 || (d.dma (u - 0x4000)).remote.all fun r => r.1 ≠ q)

/-- FENCE_COMPLETE (R247). -/
def execFenceComplete (u : Fin 0x4100) (q : Fin 8) (s : State) : Out := s.upd fun d =>
  match d.qFence u q with
  | none => d
  | some scope =>
    if !d.fenceMet u q scope then d
    else
      let d := if 3 ≤ scope && !(0x2000 ≤ u.val && u.val < 0x4000) then d.acquireDie (dieOf u) (d.job (d.qJob u q)).ptn else d
      (d.setFence u q none).qArm u q

end Sys2Proof.Machine
end

