-- ==== Sys2Proof/Machine/Guard.lean ====
section
/-! DEFINITION. Who may touch a page (02, R26, R34–R36), and the form of a write to a register that has a row of its own. -/

namespace Sys2Proof.Machine

/-- The access table of R36. -/
def Dev.mayAccess (d : Dev) (r : Role) (p : Page) (write : Bool) : Bool :=
  match r with
  | .security => true
  | .housekeeping | .operator => !(write && p.blk = .sec)
  | .partition q =>
    if d.owner p = q then true
    else if d.owner p = 0xFF then
      !write && (p.blk = .dev || p.blk = .clk || p.blk = .thm || p.blk = .sec)
    else false

/-- An access refused by ownership: it reads zero, has no effect and sets EVENT.ACCESS_DENIED (R26, R36). -/
def Dev.deny (d : Dev) (p : Page) : Dev := (d.setEvent p evDenied).refuse

/-- The block registers of a page are closed while its domain is OFF (R34). -/
def Dev.pageOff (d : Dev) (p : Page) : Bool := d.dom p.domain = dsOff

/-- A write by `r` to a block register of page `p` that acts by `f`. Without the always-on domain nothing answers. -/
def Dev.guardWrite (d : Dev) (r : Role) (p : Page) (f : Dev → Dev) : Dev :=
  if !d.pwr.up then d.refuse
  else if !d.mayAccess r p true then d.deny p
  else if d.pageOff p then (d.endIdle.setEvent p evInvalid).answer 0
  else (f d.endIdle).answer 0

/-- The order of R37: partition role, operator role, housekeeping core, security core. -/
def roleRank : Role → Nat
  | .partition _ => 0 | .operator => 1 | .housekeeping => 2 | .security => 3

/-- RW bits of a register. -/
def rwMask (p : Page) (off : Nat) : Word := match regRow p off with | some r => BitVec.ofNat 32 r.rw | none => 0

/-- The writes of one ao-cycle to one register count as applied in the order of R37: where a role of higher rank has written it in this ao-cycle, the RW fields keep what they hold; the other fields act. -/
def Dev.roleOrder (d : Dev) (r : Role) (p : Page) (off : Nat) (v : Word) : Dev × Word :=
  let c := d.now
  let top := tgetD c.roles (p.base + off) 0
  let m := rwMask p off
  ({ d with cyc := { c with roles := tput c.roles (p.base + off) (max top (roleRank r)) } },
   if (roleRank r) < top then (d.reg p off &&& m) ||| (v &&& ~~~m) else v)

/-- A write by `r` to the block register `off` of page `p` that acts by `f` on the word that R37 leaves. -/
def Dev.guardPut (d : Dev) (r : Role) (p : Page) (off : Nat) (v : Word) (f : Dev → Word → Dev) : Dev :=
  d.guardWrite r p fun d =>
    let (d, v) := d.roleOrder r p off v
    f d v

/-- A read by `r` of page `p`: block registers read zero while the domain is OFF. -/
def Dev.guardRead (d : Dev) (r : Role) (p : Page) (hdr : Bool) (f : Dev → Dev × Word) : Dev :=
  if !d.pwr.up then d.refuse
  else if !d.mayAccess r p false then d.deny p
  else if !hdr && d.pageOff p then d.answer 0
  else
    let (d, v) := f d
    d.answer v

/-- A write of a reserved encoding (00, R6): the field stays and EVENT.INVALID_WRITE is set. -/
def Dev.invalid (d : Dev) (p : Page) : Dev := d.setEvent p evInvalid

end Sys2Proof.Machine
end

