-- ==== Sys2Proof/Machine/Marver.lean ====
section
/-! DEFINITION. The marver engine and the page copier (07, R124–R146; 13, R274): head checks, dispatch, MV, COPY, FILL, SCRUB, ATOMIC, flags, completion, seal map. -/

namespace Sys2Proof.Machine

/-! ### Fields (R129, R133, R138, R139) -/

def mhSigEn (w : Nat) : Bool := bitOf w 8
def mhSigKind (w : Nat) : Bool := bitOf w 9
def mhSigFlag (w : Nat) : Nat := fld w 15 10
def mhSigClu (w : Nat) : Nat := fld w 25 16
def mvWfmt (w : Nat) : Nat := fld w 67 64
def mvVfmt (w : Nat) : Nat := fld w 71 68
def mvRows (w : Nat) : Nat := fld w 74 72 + 1
def mvOb (w : Nat) : Nat := if bitOf w 75 then 2 else 4
def mvKblk (w : Nat) : Nat := fld w 92 80
def mvK (w : Nat) : Nat := 32 * mvKblk w
def mvN (w : Nat) : Nat := fld w 109 93
def mvWbase (w : Nat) : Nat := fld w 159 112
def mvSbase (w : Nat) : Nat := fld w 207 160
def mvVbase (w : Nat) : Nat := fld w 255 208
def mvVscale (w : Nat) : Nat := fld w 303 256
def mvObase (w : Nat) : Nat := fld w 351 304
def mvVstride (w : Nat) : Nat := fld w 375 352
def mvOstride (w : Nat) : Nat := fld w 399 376
def mvVb (w : Nat) : Nat := fmtWidth (mvVfmt w) / 8
def atOp (w : Nat) : Nat := fld w 66 64
def atLanes (w : Nat) : Nat := fld w 74 67
def atReturn (w : Nat) : Bool := bitOf w 75
def atAddr (w : Nat) : Nat := fld w 127 80
def atRet (w : Nat) : Nat := fld w 175 128
def atOperand (w : Nat) : Nat := fld w 431 176

/-- Formats of vectors and queries: E4M3, E5M2, MXINT8, BF16, FP16. -/
def vecFmt (f : Nat) : Bool := f = 4 || f = 5 || f = 6 || f = 8 || f = 9

/-! ### Head checks (R131) -/

/-- The header of a command with signal fields. -/
def mhFields (w : Nat) : List (Nat × Bool) :=
  [(9, !mhSigEn w && mhSigKind w), (10, !mhSigEn w && mhSigFlag w ≠ 0),
   (16, if mhSigEn w && mhSigKind w then 799 < mhSigClu w else mhSigClu w ≠ 0), (26, fld w 63 26 ≠ 0)]

def mvFields (w : Nat) : List (Nat × Bool) :=
  [(64, !fmtOk (mvWfmt w)), (68, !vecFmt (mvVfmt w)), (76, fld w 79 76 ≠ 0),
   (80, mvKblk w = 0 || 4096 < mvKblk w), (93, mvN w = 0 || 65536 < mvN w), (110, fld w 111 110 ≠ 0),
   (112, mvWbase w % 64 ≠ 0), (160, if fmtMx (mvWfmt w) then mvSbase w % 64 ≠ 0 else mvSbase w ≠ 0),
   (208, mvVbase w % 32 ≠ 0), (256, !fmtMx (mvVfmt w) && mvVscale w ≠ 0), (304, mvObase w % 32 ≠ 0),
   (352, mvVstride w % 32 ≠ 0 || mvVstride w < mvK w * mvVb w),
   (376, mvOstride w % 32 ≠ 0 || mvOstride w < mvN w * mvOb w), (400, w / 2 ^ 400 ≠ 0)]

def copyFields (w : Nat) : List (Nat × Bool) :=
  [(64, cpSrc w % 4096 ≠ 0), (112, cpDst w % 4096 ≠ 0), (160, cpUnits w = 0), (184, w / 2 ^ 184 ≠ 0)]

def fillFields (w : Nat) : List (Nat × Bool) :=
  [(64, cpSrc w % 4096 ≠ 0), (112, flUnits w = 0), (136, fld w 191 136 ≠ 0), (256, w / 2 ^ 256 ≠ 0)]

def scrubFields (w : Nat) : List (Nat × Bool) :=
  [(64, cpSrc w % 4096 ≠ 0), (112, flUnits w = 0), (136, w / 2 ^ 136 ≠ 0)]

def atomicFields (w : Nat) : List (Nat × Bool) :=
  [(64, 4 < atOp w), (67, atomicLane (atOp w) = 8 && 15 < atLanes w), (76, fld w 79 76 ≠ 0),
   (80, atAddr w % 32 ≠ 0), (128, if atReturn w then atRet w % 32 ≠ 0 else atRet w ≠ 0), (432, w / 2 ^ 432 ≠ 0)]

/-- Fields of ATTN (08, R157). -/
def atnQfmt (w : Nat) : Nat := fld w 67 64
def atnGroup (w : Nat) : Nat := fld w 75 72 + 1
def atnKvh (w : Nat) : Nat := fld w 81 76 + 1
def atnHdim (w : Nat) : Nat := fld w 83 82
def atnD (w : Nat) : Nat := 64 * 2 ^ atnHdim w
def atnW16 (w : Nat) : Bool := bitOf w 84
def atnLayer (w : Nat) : Nat := fld w 103 88
def atnItems (w : Nat) : Nat := fld w 119 104 + 1
def atnSlot (w : Nat) : Nat := fld w 124 120
def atnNslot (w : Nat) : Nat := fld w 129 125 + 1
def atnList (w : Nat) : Nat := fld w 191 144
def atnQbase (w : Nat) : Nat := fld w 239 192
def atnQscale (w : Nat) : Nat := fld w 287 240
def atnObase (w : Nat) : Nat := fld w 335 288
def atnScale (w : Nat) : Nat := fld w 367 336

def attnFields (w : Nat) : List (Nat × Bool) :=
  [(64, !vecFmt (atnQfmt w)), (68, fld w 71 68 ≠ 0), (82, atnHdim w = 3), (85, fld w 87 85 ≠ 0),
   (120, atnNslot w ≤ atnSlot w), (130, fld w 143 130 ≠ 0), (144, atnList w % 64 ≠ 0), (192, atnQbase w % 32 ≠ 0),
   (240, !fmtMx (atnQfmt w) && atnQscale w ≠ 0), (288, atnObase w % 32 ≠ 0), (368, w / 2 ^ 368 ≠ 0)]

/-- The fields of a marver command with their checks (R131). -/
def mvrFields (w : Nat) : List (Nat × Bool) :=
  let op := fld w 7 0
  if op = 0x00 then [(8, w / 2 ^ 8 ≠ 0)]
  else if op = 0x07 then [(14, fld w 15 14 ≠ 0), (16, sgAmount w = 0), (32, w / 2 ^ 32 ≠ 0)]
  else if op = 0x08 then [(14, fld w 15 14 ≠ 0), (33, w / 2 ^ 33 ≠ 0)]
  else if op = 0x09 then [(8, 4 < fnScope w), (11, w / 2 ^ 11 ≠ 0)]
  else if op = 0x01 then mhFields w ++ mvFields w
  else if op = 0x02 then mhFields w ++ attnFields w
  else if op = 0x03 then mhFields w ++ copyFields w
  else if op = 0x04 then mhFields w ++ fillFields w
  else if op = 0x05 then mhFields w ++ scrubFields w
  else if op = 0x06 then mhFields w ++ atomicFields w
  else [(0, true)]

/-- The failing field of a marver command (R131). -/
def mvrCheck (w : Nat) : Option Nat := firstBad (mvrFields w)

/-- An opcode that carries signal fields. -/
def mvrSignals (op : Nat) : Bool := 1 ≤ op && op ≤ 6

/-! ### Dispatch (R127, R128) -/

/-- The marver unit of a stack. -/
abbrev mU (s : Nat) : UnitKey := 0x2000 + s

/-- The engine issues commands: STATE is READY or ACTIVE, and QUIESCE does not stop it (02, R31). -/
def Dev.mvrRuns (d : Dev) (s : Nat) : Bool :=
  d.clockOn (80 + s) && (d.st (pStk s 1) = stReady || d.st (pStk s 1) = stActive) && !d.quiesce (pStk s 1) && !d.instHolds (0x2000 + s)

/-- The first free stack DMA engine. -/
def Dev.freeCopier (d : Dev) (s : Nat) : Option Nat := lowest 4 fun e => (tget? (d.stk s).copiers e).isNone

/-- The head of a marver queue may go (R67 as R130 takes it over, R128). -/
def Dev.mvrIssuable (d : Dev) (s q w : Nat) : Bool :=
  let op := fld w 7 0
  let own := (d.stk s).runs.any fun r => r.queue = q
  if op = 0x01 || op = 0x02 || op = 0x06 then !own
  else if op = 0x03 || op = 0x04 || op = 0x05 then !own && (d.freeCopier s).isSome
  else if op = 0x07 then !d.mvrBusy s q
  else if op = 0x08 then !own && sgAmount w ≤ d.flag (pStk s 1) (sgFlag w)
  else !own

/-- The queue may serve a command. -/
def Dev.mvrOpen (d : Dev) (s q : Nat) : Bool :=
  d.mvrRuns s && d.qBound (mU s) q && d.qMark (mU s) q = 0 && (d.qFence (mU s) q).isNone && d.eligible (mU s) (d.qJob (mU s) q)

/-- A queue is ready for the round robin. -/
def Dev.mvrReady (d : Dev) (s q : Nat) : Bool :=
  d.mvrOpen s q &&
  match d.qHead (mU s) q with
  | some w => (mvrCheck (w % 2 ^ 512)).isNone && !d.queueBad (mU s) q && d.mvrIssuable s q w
  | none => false

/-- The choice of the round robin (R127). -/
def Dev.mvrChoose (d : Dev) (s : Nat) : Option (Nat × Dev) :=
  (wrr 8 (d.qWeight (mU s)) (fun q => ((d.stk s).q q).credit) (d.qBound (mU s)) (d.mvrReady s) (d.stk s).ptr).map fun (q, cr, p) =>
    (q, d.modStk s fun c => { c with ptr := p, qs := (List.range 8).map fun i => { c.q i with credit := cr i } })

/-- Serve queue `q` of stack `s`: a bad head faults its job, a head of opcode `op` that the round robin chooses is dispatched by `f`. A stack in self-refresh is demanded (R124). -/
def Dev.mvrServe (d : Dev) (s q op : Nat) (f : Dev → Nat → Nat → Dev) : Dev :=
  if !d.mvrOpen s q then d
  else match d.qHead (mU s) q with
  | none => d
  | some w =>
    if d.queueBad (mU s) q then d.sramFault (.queue (mU s) q) (mU s) q (d.qJob (mU s) q) else
    match mvrCheck (w % 2 ^ 512) with
    | some b => d.cmdInvalid (mU s) q w b
    | none =>
      let j := d.qJob (mU s) q
      if mvrSignals (fld w 7 0) && mhSigEn w && mhSigKind w && d.owner (pClu (mhSigClu w)) ≠ (d.job j).ptn then
        d.jobFault (mU s) q j 0x500D (q % 8 + mhSigClu w * 65536)
      else if d.dom (80 + s) ≠ dsOn then d.memDemand (stkBase s)
      else match d.mvrChoose s with
        | some (c, d') => if c = q && fld w 7 0 = op then f d' w j else d
        | none => d

/-- NOP (R129). -/
def execMarverNop (sk : Fin 24) (q : Fin 8) (s : State) : Out := s.upd fun d =>
  d.mvrServe sk q 0x00 fun d _ _ => d.qPop (mU sk) q 1

/-- SIGNAL (R130). -/
def execMarverSignal (sk : Fin 24) (q : Fin 8) (s : State) : Out := s.upd fun d =>
  d.mvrServe sk q 0x07 fun d w _ => (d.qPop (mU sk) q 1).addFlag (pStk sk 1) (sgFlag w) (sgAmount w)

/-- WAIT (R130). -/
def execMarverWait (sk : Fin 24) (q : Fin 8) (s : State) : Out := s.upd fun d =>
  d.mvrServe sk q 0x08 fun d w _ =>
    let d := d.qPop (mU sk) q 1
    if wtConsume w then d.subFlag (pStk sk 1) (sgFlag w) (sgAmount w) else d

/-- FENCE (12, R247). -/
def execMarverFence (sk : Fin 24) (q : Fin 8) (s : State) : Out := s.upd fun d =>
  d.mvrServe sk q 0x09 fun d w _ => (d.setFence (mU sk) q (some (fnScope w))).qPop (mU sk) q 1

/-- MARVER_FLAG_WAIT_TIMEOUT (R130, R77). -/
def execMarverFlagWaitTimeout (sk : Fin 24) (q : Fin 8) (s : State) : Out := s.upd fun d =>
  match d.qHead (mU sk) q, d.qWaiting (mU sk) q with
  | some w, some (at_, lim) =>
    let c := d.flag (pStk sk 1) (sgFlag w)
    if fld w 7 0 = 0x08 && c < sgAmount w && at_ + lim ≤ d.ao then
      d.jobFault (mU sk) q (d.qJob (mU sk) q) 0x5001 (sgFlag w + q.val * 256 + c * 65536)
    else d
  | _, _ => d

/-- STK_MVR_FLAG_ADD (R130): AMOUNT 0 has no effect. -/
def execStkMvrFlagAdd (r : Role) (sk : Fin 24) (v : BitVec 32) (s : State) : Out := s.upd fun d =>
  d.guardWrite r (pStk sk 1) fun d => d.addFlag (pStk sk 1) (wfld v 5 0) (wfld v 31 16)

/-! ### Operand ranges (R132) -/

/-- The segment lies in stack `s`. -/
def Seg.inStack (g : Seg) (s : Nat) : Bool := !g.remote && match loc g.dpa with | .stack t _ => t = s | _ => false

/-- The segment lies in some stack of this device. -/
def Seg.inAnyStack (g : Seg) : Bool := !g.remote && match loc g.dpa with | .stack _ _ => true | _ => false

/-- A translated operand, or the device after the fault that it raised. -/
inductive Opnd where
  | bad (d : Dev)
  | ok (d : Dev) (l : List Seg)

/-- Where a range must lie. -/
inductive Place where
  /-- In this stack: operand number of MARVER_STACK. -/
  | here (operand : Nat)
  /-- In stack memory of this device: operand 7. -/
  | stacks
  /-- In any stack or cluster buffer of this device. -/
  | device
deriving DecidableEq, Repr

/-- Translate an operand range of partition `p` for queue `q` of stack `s` (R132). `req` is 2 for the engine, 3 for a stack DMA engine. -/
def Dev.opndP (d : Dev) (p s q j pva n : Nat) (write : Bool) (pl : Place) (req : Nat) : Opnd :=
  match d.xlRange (some (mU s)) p pva n write with
  | (e, .error x) => .bad (e.jobFault (mU s) q j x.code (xInfo x q write req s))
  | (e, .ok l) =>
    match pl with
    | .here o => if l.all (·.inStack s) then .ok e l else .bad (e.jobFault (mU s) q j 0x500C (q % 8 + o * 16))
    | .stacks => if l.all Seg.inAnyStack then .ok e l else .bad (e.jobFault (mU s) q j 0x500C (q % 8 + 7 * 16))
    | .device =>
      match l.find? (·.remote) with
      | some g => .bad ((e.lastFault p g.pva).jobFault (mU s) q j cXlatePerm (xInfo ⟨cXlatePerm, g.level, g.pva, true, false⟩ q write req s))
      | none => .ok e l

/-- An operand range of the partition of job `j`. -/
def Dev.opnd (d : Dev) (s q j pva n : Nat) (write : Bool) (pl : Place) (req : Nat) : Opnd := d.opndP (d.job j).ptn s q j pva n write pl req

/-- Several operand ranges in order; the lists in the same order. -/
def Dev.opnds (d : Dev) (s q j : Nat) : List (Nat × Nat × Bool × Place) → Dev × Option (List (List Seg))
  | [] => (d, some [])
  | (pva, n, w, pl) :: t =>
    match d.opnd s q j pva n w pl 2 with
    | .bad e => (e, none)
    | .ok e l => match Dev.opnds e s q j t with
      | (e, none) => (e, none)
      | (e, some ls) => (e, some (l :: ls))

/-- Bytes of a translated range from PVA `pva`. -/
def Dev.segSlice (d : Dev) (ag : Agent) (l : List Seg) (pva n : Nat) : List Byte :=
  l.flatMap fun g =>
    let lo := max g.pva pva
    let hi := min (g.pva + g.len) (pva + n)
    if lo < hi then d.readMem ag (g.dpa + (lo - g.pva)) (hi - lo) else []

/-- Output bytes for a range as writes of at most one burst each. -/
def outPieces (l : List Seg) (pva : Nat) (bs : List Byte) (marked : Bool) : List (Nat × List Byte × Bool) :=
  l.flatMap fun g =>
    let lo := max g.pva pva
    let hi := min (g.pva + g.len) (pva + bs.length)
    if lo < hi then
      let a := g.dpa + (lo - g.pva)
      let k := (a + (hi - lo) + 63) / 64 - a / 64
      (List.range k).filterMap fun i =>
        let x := max a ((a / 64 + i) * 64)
        let y := min (a + (hi - lo)) ((a / 64 + i + 1) * 64)
        if x < y then some (x, (bs.drop (lo - pva + (x - a))).take (y - x), marked) else none
    else []

/-- The first marked unit of a list of operands, after the errors in them have been met. -/
def Dev.opMark (d : Dev) (ls : List (List Seg)) : Dev × Option Nat :=
  let d := ls.foldl (fun d l => l.foldl (fun d g => d.noteErrs g.dpa g.len) d) d
  (d, (ls.find? d.segsMarked).map d.segsMark)

/-! ### MV (R133–R137) -/

/-- One block sum of R136: the exact sum of 32 products, scaled. -/
def blockSum (wf vf : Nat) (wb vb : Nat) (sw sv : Nat) : Fv :=
  let a := (List.range 32).foldl (fun (a : Fv) i =>
    a.add ((ofFmt wf (wb / 2 ^ (fmtWidth wf * i) % 2 ^ fmtWidth wf)).mul (ofFmt vf (vb / 2 ^ (fmtWidth vf * i) % 2 ^ fmtWidth vf))))
    (.fin false 0 0)
  (a.e8 sw).e8 sv

/-- acc ← round(acc + b), and whether it overflowed (R136, 03 R50). -/
def accAdd (acc : Word × Bool) (b : Fv) : Word × Bool :=
  let x := (ofF32 acc.1).add b
  let y := toF32 x
  (y, acc.2 || (!x.special && isInf32 y))

/-- The blocks of a row grouped into runs by the 64 KiB span of their first bytes (R136). -/
def runsOf (base rowBytes blkBytes n nblk : Nat) : List (List Nat) :=
  ((List.range nblk).foldr (fun j (acc : List (List Nat)) =>
    let sp (j : Nat) := (base + n * rowBytes + j * blkBytes) / 65536
    match acc with
    | (k :: r) :: t => if sp j = sp k then (j :: k :: r) :: t else [j] :: (k :: r) :: t
    | _ => [j] :: acc) [])

/-- One output of MV: the sum, and whether it overflowed. -/
def mvOutput (w : Nat) (row scales vec vscales : List Byte) (n : Nat) : Word × Bool :=
  let wf := mvWfmt w
  let vf := mvVfmt w
  let bb := 4 * fmtWidth wf
  let vbb := 4 * fmtWidth vf
  let b (j : Nat) : Fv := blockSum wf vf (numAt row (j * bb) bb) (numAt vec (j * vbb) vbb)
    (if fmtMx wf then numAt scales j 1 else 127) (if fmtMx vf then numAt vscales j 1 else 127)
  let runs := (runsOf (mvWbase w) (mvKblk w * bb) bb n (mvKblk w)).map fun r => r.foldl (fun a j => accAdd a (b j)) ((0 : Word), false)
  runs.foldl (fun a r => let x := accAdd a (ofF32 r.1); (x.1, x.2 || r.2)) ((0 : Word), false)

/-- Accepted pairs of MV (R135). -/
def mvPair (wf vf : Nat) : Bool :=
  if wf = 6 then vf = 6 else if vf = 6 then false else wf ≠ 10

/-- Weights, weight scales, vectors, vector scales and outputs of MV as operand ranges, vector by vector and row by row (R134). -/
def mvRanges (w : Nat) : List (Nat × Nat × Bool × Place) :=
  let wn := mvN w * (mvKblk w * (4 * fmtWidth (mvWfmt w)))
  [(mvWbase w, wn, false, .here 0), (mvSbase w, if fmtMx (mvWfmt w) then mvN w * mvKblk w else 0, false, .here 1)]
  ++ ((List.range (mvRows w)).map fun r => (mvVbase w + r * mvVstride w, mvK w * mvVb w, false, Place.here 2))
  ++ [(mvVscale w, if fmtMx (mvVfmt w) then mvRows w * mvKblk w else 0, false, .here 3)]
  ++ (List.range (mvRows w)).map fun r => (mvObase w + r * mvOstride w, mvN w * mvOb w, true, Place.device)

/-- Start a compute or atomic run of a queue. -/
def Dev.startRun (d : Dev) (s q j op : Nat) (w : Nat) (outs : List (Nat × List Byte × Bool)) (rs : List Range) : Dev :=
  (d.qPop (mU s) q 1).modStk s fun x => { x with
    runs := x.runs ++ [⟨q, j, op, BitVec.ofNat 545 w, outs, rs, d.ao⟩]
    -- the slots and cycles that it takes are counted (R145, R146)
    ran := ((if op = 6 then [0x50] else [0x50, 0x200, 0x204]).foldl addSet x.ran) }

/-- The sums of an MV, row by row of vectors (R136): `ls` are its operand ranges as translated. -/
def Dev.mvSums (d : Dev) (j w : Nat) (ls : List (List Seg)) : List (List (Word × Bool)) :=
  let ag := agPlain (d.job j).ptn (some j)
  let seg (i : Nat) := (ls[i]?).getD []
  let rb := mvKblk w * (4 * fmtWidth (mvWfmt w))
  (List.range (mvRows w)).map fun r =>
    let vec := d.segSlice ag (seg (2 + r)) (mvVbase w + r * mvVstride w) (mvK w * mvVb w)
    let vs := if fmtMx (mvVfmt w) then d.segSlice ag (seg (2 + mvRows w)) (mvVscale w + r * mvKblk w) (mvKblk w) else []
    (List.range (mvN w)).map fun n =>
      mvOutput w (d.segSlice ag (seg 0) (mvWbase w + n * rb) rb)
        (if fmtMx (mvWfmt w) then d.segSlice ag (seg 1) (mvSbase w + n * mvKblk w) (mvKblk w) else []) vec vs n

/-- Sums in the output format of an MV: FP32 or BF16. -/
def mvBytes (w : Nat) (l : List (Word × Bool)) : List Byte :=
  l.flatMap fun x => if mvOb w = 4 then leBytes 4 x.1.toNat else leBytes 2 (toFmt 8 (ofF32 x.1)).bits

/-- The outputs of an MV as writes. -/
def mvOuts (w : Nat) (ls : List (List Seg)) (res : List (List (Word × Bool))) : List (Nat × List Byte × Bool) :=
  (res.zipIdx).flatMap fun x => outPieces ((ls[3 + mvRows w + x.2]?).getD []) (mvObase w + x.2 * mvOstride w) (mvBytes w x.1) false

/-- MV (R136). -/
def execMv (sk : Fin 24) (q : Fin 8) (s : State) : Out := s.upd fun d =>
  d.mvrServe sk q 0x01 fun d w j =>
    if !mvPair (mvWfmt w) (mvVfmt w) then d.jobFault (mU sk) q j 0xA002 (q.val + mvWfmt w * 16 + mvVfmt w * 256)
    else match d.opnds sk q j (mvRanges w) with
    | (e, none) => e
    | (e, some ls) =>
      match e.opMark (ls.take (3 + mvRows w)) with
      | (e, some a) => e.poisonFault (mU sk) q j a 1 none
      | (e, none) =>
        let res := e.mvSums j w ls
        (if res.any fun l => l.any Prod.snd then e.setBit (pStk sk 1) 0x48 1 true else e).startRun sk q j 1 w (mvOuts w ls res)
          ((mvRanges w).map fun x => (x.1, x.2.1))

/-! ### ATOMIC (R139) -/

/-- MARVER_ATOMIC (R139): performed at dispatch; the return, if any, lands with the completion. -/
def execMarverAtomic (sk : Fin 24) (q : Fin 8) (s : State) : Out := s.upd fun d =>
  d.mvrServe sk q 0x06 fun d w j =>
    let rs := (atAddr w, 32, true, Place.here 6) :: (if atReturn w then [(atRet w, 32, true, Place.device)] else [])
    match d.opnds sk q j rs with
    | (e, none) => e
    | (e, some ls) =>
      match ((ls[0]?).getD []).head? with
      | none => e
      | some g =>
        match e.atomicAt (agPlain (e.job j).ptn (some j)) g.dpa (atOp w) (atLanes w) (leBytes 32 (atOperand w)) with
        | (e, .poison a) => e.poisonFault (mU sk) q j a 2 none
        | (e, .denied) => e.jobFault (mU sk) q j 0x7001 (q.val + g.dpa % 2 ^ 37 / 2 ^ 21 * 65536)
        | (e, .done old m) =>
          let outs := if atReturn w then outPieces ((ls[1]?).getD []) (atRet w) old m else []
          e.startRun sk q j 6 w outs (rs.map fun x => (x.1, x.2.1))

/-! ### Copier (R138, R274) -/

/-- The first burst of a COPY whose sealed source and destination carry different slots (R138). -/
def Dev.copySealBad (d : Dev) (src dst : List (Nat × Nat)) (n : Nat) : Option Nat :=
  ((List.range (n / 4096)).map (pieceAt src <| 4096 * ·)).zip ((List.range (n / 4096)).map (pieceAt dst <| 4096 * ·))
    |>.findSome? fun x => if d.slotAt x.1 ≠ 0 && d.slotAt x.1 ≠ d.slotAt x.2 then some x.1 else none

/-- Hand units `done` to `total` − 1 of a copier command of partition `p` to the first free stack DMA engine; `src` and `dst` start at unit `done`. -/
def Dev.startCopy (d : Dev) (p s q j w : Nat) (src dst : List (Nat × Nat)) (done total : Nat) (rs : List Range) : Dev :=
  match d.freeCopier s with
  | none => d
  | some e => d.modStk s fun x => { x with copiers := tput x.copiers e ⟨q, j, p, BitVec.ofNat 545 w, src, dst, done, done, total, rs⟩ }

/-- Hand a whole copier command of job `j` to the first free stack DMA engine. -/
def Dev.newCopy (d : Dev) (s q j w : Nat) (src dst : List (Nat × Nat)) (rs : List Range) : Dev :=
  (d.qPop (mU s) q 1).startCopy (d.job j).ptn s q j w src dst 0 (cpBytes w / 4096) rs

/-- The serving engine's tag of a command, 0 for none; its COPY names DPAs. -/
def cmdTag (w : Nat) : Nat := fld w 543 512
def cmdPhys (w : Nat) : Bool := bitOf w 544

/-- MARVER_COPY (R138). A page copy of the pool names DPAs (09, R180). -/
def execMarverCopy (sk : Fin 24) (q : Fin 8) (s : State) : Out := s.upd fun d =>
  d.mvrServe sk q 0x03 fun d w j =>
    let n := cpBytes w
    if cmdPhys w then d.newCopy sk q j w [(cpSrc w, n)] [(cpDst w, n)] []
    else match d.opnd sk q j (cpSrc w) n false (.here 5) 3 with
    | .bad e => e
    | .ok e ls => match e.opnd sk q j (cpDst w) n true .stacks 3 with
      | .bad e => e
      | .ok e ld =>
        match e.copySealBad (pieces ls) (pieces ld) n with
        | some a => e.jobFault (mU sk) q j 0x7001 (q.val + a % 2 ^ 37 / 2 ^ 21 * 65536)
        | none => e.newCopy sk q j w (pieces ls) (pieces ld) [(cpSrc w, n), (cpDst w, n)]

/-- FILL (R138). -/
def execFill (sk : Fin 24) (q : Fin 8) (s : State) : Out := s.upd fun d =>
  d.mvrServe sk q 0x04 fun d w j =>
    match d.opnd sk q j (cpSrc w) (cpBytes w) true .stacks 3 with
    | .bad e => e
    | .ok e l => e.newCopy sk q j w [] (pieces l) [(cpSrc w, cpBytes w)]

/-- SCRUB (R138). -/
def execScrub (sk : Fin 24) (q : Fin 8) (s : State) : Out := s.upd fun d =>
  d.mvrServe sk q 0x05 fun d w j =>
    match d.opnd sk q j (cpSrc w) (cpBytes w) false (.here 5) 3 with
    | .bad e => e
    | .ok e l => e.newCopy sk q j w (pieces l) [] [(cpSrc w, cpBytes w)]

/-- The granule that a denied copier write names. -/
def deniedInfo (q a : Nat) : Nat := q % 8 + a % 2 ^ 37 / 2 ^ 21 * 65536

/-- The completion signal of a marver command (R129, R128). -/
def Dev.mvrSignal (d : Dev) (s w : Nat) : Dev :=
  if !mhSigEn w then d
  else if mhSigKind w then d.signalClu (mhSigClu w) (mhSigFlag w) 1
  else d.addFlag (pStk s 1) (mhSigFlag w) 1

/-- Demand the memory of pieces. -/
def Dev.piecesDemand (d : Dev) (l : List (Nat × Nat)) : Dev := l.foldl (fun d x => d.memDemand x.1) d

/-- A copier transfer ends: its remaining units are performed, then its signal is sent. -/
def Dev.copyEnds (d : Dev) (s e : Nat) : Dev :=
  match tget? (d.stk s).copiers e with
  | none => d
  | some r =>
    if !d.piecesReady (r.src ++ r.dst) then d.piecesDemand (r.src ++ r.dst)
    else
      let (d, bad) := Dev.copyUnits s (r.total - r.done) d r r.done
      let d := (d.modStk s fun x => { x with copiers := tdel x.copiers e }).settleOverrun r.job
      match bad with
      | some a => d.jobFault (mU s) r.queue r.job 0x7001 (deniedInfo r.queue a)
      | none =>
        -- a command of the serving engine's own has completed
        let d := { d with engCmds := d.engCmds.filter fun c => c.tag ≠ cmdTag r.cmd.toNat }
        d.mvrSignal s r.cmd.toNat

/-- The oldest MV, ATTN or ATOMIC of a stack completes: its writes land, then its signal is sent. -/
def Dev.runEnds (d : Dev) (s : Nat) : Dev :=
  match (d.stk s).runs with
  | [] => d
  | r :: rest =>
    if !(r.outs.all fun o => d.memReady o.1) then r.outs.foldl (fun d o => d.memDemand o.1) d
    else if r.op ≠ 6 && d.sram.contains (.store s) then d.sramFault (.store s) (mU s) r.queue r.job
    else
      let ag := agPlain (d.job r.job).ptn (some r.job)
      let (d, bad) := r.outs.foldl (fun (acc : Dev × Option Nat) o =>
        let (d, x) := acc
        let (d, y) := d.writeMem ag o.1 o.2.1 o.2.2
        (d, if x.isNone && y then some o.1 else x)) (d, none)
      let d := (d.modStk s fun x => { x with runs := rest }).settleOverrun r.job
      match bad with
      | some a => d.jobFault (mU s) r.queue r.job 0x7001 (deniedInfo r.queue a)
      | none =>
        let d := if r.op = 6 then d else d.addCount (pStk s 1) 0x208 1
        d.mvrSignal s r.cmd.toNat

/-- MARVER_COMMAND_COMPLETE (R128): `e` 0 to 3 is a stack DMA engine, 4 the compute pipeline. -/
def execMarverCommandComplete (sk : Fin 24) (e : Fin 5) (s : State) : Out := s.upd fun d =>
  if e.val = 4 then d.runEnds sk else d.copyEnds sk e

/-! ### Pre-emption of the copier (13, R274) -/

/-- PVA of a save slot of a stack: STK_DMA_SAVE_BASE + 512 × slot. -/
def Dev.stkSave (d : Dev) (s k : Nat) : Nat := d.pair (pStk s 3) 0x40 0x44 + 512 * k

/-- The progress record of a copier transfer (13, R269, R274): reason 1 is a pre-emption. -/
def copyRecord (r : CopyRun) : List Byte :=
  let b := leBytes 64 r.cmd.toNat ++ List.replicate 0x140 0 ++ leBytes 8 (r.done % 2 ^ 40) ++ leBytes 8 (r.total % 2 ^ 40)
    ++ leBytes 4 1 ++ leBytes 4 0 ++ leBytes 8 (r.job % 4096 + r.ptn % 32 * 2 ^ 16)
  let b := bytesAt b 0 0x1FC
  b ++ leBytes 4 (crc32 b)

/-- A copier transfer of a job that has lost eligibility stops at a 4 KiB boundary, at some unit (which, is open: a free value), its record goes to the lowest free save slot; with no free slot it keeps its engine (R274). A fault of the record's write is not held (R132). -/
def Dev.copyStop (d : Dev) (s e : Nat) : Dev :=
  match tget? (d.stk s).copiers e with
  | none => d
  | some r =>
    match lowest 32 fun k => (tget? (d.stk s).saved k).isNone with
    | none => d
    | some k =>
      if !d.piecesReady (r.src ++ r.dst) || r.total ≤ r.done then d else
      let (x, d) := d.takeFree
      let n := x % (r.total - r.done)
      let (d, bad) := Dev.copyUnits s n d r r.done
      let r' := { r with done := r.done + n }
      match bad with
      | some a =>
        (d.modStk s fun x => { x with copiers := tdel x.copiers e }).jobFault (mU s) r.queue r.job 0x7001 (deniedInfo r.queue a)
      | none =>
        match d.writePva r.ptn (d.stkSave s k) (copyRecord r') with
        | (d, .error x) =>
          (d.modStk s fun x => { x with copiers := tdel x.copiers e }).jobFault (mU s) r.queue r.job x.code (xInfo x r.queue true 3 s)
        | (d, .ok _) => d.modStk s fun x => { x with copiers := tdel x.copiers e, saved := tput x.saved k r' }

/-- The transfer of save slot `k` goes on as its record reads: job, partition, command and remaining units (13, R270, R274). -/
def Dev.copyResume (d : Dev) (s : Nat) (r : CopyRun) (rec_ : List Byte) : Dev :=
  let w := numAt rec_ 0 64 + r.cmd.toNat / 2 ^ 512 * 2 ^ 512
  let j := numAt rec_ 0x198 2 % 4096
  let p := numAt rec_ 0x19A 1 % 32
  let next := numAt rec_ 0x180 8 % 2 ^ 40
  let total := numAt rec_ 0x188 8 % 2 ^ 40
  let o := 4096 * next
  let n := 4096 * (total - next)
  let op := fld w 7 0
  let dst := if op = 4 then cpSrc w else cpDst w
  if cmdPhys w then d.startCopy p s r.queue j w [(cpSrc w + o, n)] [(cpDst w + o, n)] next total []
  else match (if op = 4 then Opnd.ok d [] else d.opndP p s r.queue j (cpSrc w + o) n false (.here 5) 3) with
  | .bad e => e
  | .ok e ls =>
    match (if op = 5 then Opnd.ok e [] else e.opndP p s r.queue j (dst + o) n true .stacks 3) with
    | .bad e => e
    | .ok e ld =>
      e.startCopy p s r.queue j w (pieces ls) (pieces ld) next total
        ((if op = 4 then [] else [(cpSrc w + o, n)]) ++ (if op = 5 then [] else [(dst + o, n)]))

/-- STACK_DMA_RESUME (R274): the transfer of save slot `k` resumes on the first free engine, its remaining units translated afresh; an altered record fails its CRC, and a record that cannot be read faults the job (13, R273). -/
def execStackDmaResume (sk : Fin 24) (k : Fin 32) (s : State) : Out := s.upd fun d =>
  match tget? (d.stk sk).saved k with
  | none => d
  | some r =>
    if !d.eligible (mU sk) r.job || (d.freeCopier sk).isNone || !d.mvrRuns sk then d
    else
      let (d, x) := d.readPva r.ptn (d.stkSave sk k) 512
      let d := d.modStk sk fun x => { x with saved := tdel x.saved k }
      match x with
      | .error x => d.jobFault (mU sk) r.queue r.job x.code (xInfo x r.queue false 3 sk)
      | .ok rec_ =>
        if crc32 (rec_.take 0x1FC) ≠ numAt rec_ 0x1FC 4 then d.jobFault (mU sk) r.queue r.job 0x5010 (r.queue % 8 + sk.val * 65536)
        else d.copyResume sk r rec_

/-! ### Seal map and self-refresh (R124, R125) -/

/-- A write to STK_SEAL_DATA: the security core's sets the slot of the granule that STK_SEAL_INDEX names; a reserved slot changes nothing (00, R6). -/
def Dev.writeSeal (d : Dev) (r : Role) (s : Nat) (v : Word) : Dev :=
  if r ≠ .security then d.setEvent (pStk s 0) evDenied
  else if 24 < wfld v 4 0 then d.invalid (pStk s 0)
  else
    let d := d.setF (pStk s 0) 0x48 4 0 (wfld v 4 0)
    d.modStk s fun x => { x with sealMap := tset x.sealMap (d.getF (pStk s 0) 0x44 15 0) (wfld v 4 0) 0 }

/-- SEAL_MAP_WRITE (R125). -/
def execSealMapWrite (r : Role) (sk : Fin 24) (v : BitVec 32) (s : State) : Out := s.upd fun d =>
  d.guardWrite r (pStk sk 0) fun d => d.writeSeal r sk v

end Sys2Proof.Machine
end

