-- ==== Sys2Proof/Machine/Attn.lean ====
section
/-! DEFINITION. ATTN (08, R147–R164): items, visibility, dispatch checks, page partials, compaction. -/

namespace Sys2Proof.Machine

/-! ### Items (R158); `e` is the 512-bit entry as a number -/

def itRegion (e : Nat) : Nat := fld e 47 0
def itKind (e : Nat) : Nat := fld e 51 48
def itSregion (e : Nat) : Nat := fld e 111 64
def itPpl (e : Nat) : Nat := fld e 131 112
def itLength (e : Nat) : Nat := fld e 154 132
def itRows (e : Nat) : Nat := fld e 168 155
def itPidx (e : Nat) : Nat := fld e 184 169
def itTree (e : Nat) : Nat := fld e 239 192
def itLayers (e : Nat) : Nat := fld e 255 240

/-- The item has a tree or path record (R158). -/
def itHasRec (e : Nat) : Bool := itKind e = 2 || (itKind e = 0 && itRows e ≠ 1)

/-- The failing field of an entry (R131 as R161 applies it). -/
def itemCheck (w16 : Bool) (e : Nat) : Option Nat :=
  let k := itKind e
  firstBad
    [(0, itRegion e % 2 ^ 21 ≠ 0), (48, 2 < k), (52, fld e 63 52 ≠ 0),
     (64, if w16 then itSregion e ≠ 0 else itSregion e % 2 ^ 16 ≠ 0), (112, itPpl e = 0),
     (155, if k = 0 then itRows e = 0 || 64 < itRows e else if k = 1 then itRows e = 0 || 8192 < itRows e else 63 < itRows e),
     (169, k = 2 && itPidx e ≠ 0), (185, fld e 191 185 ≠ 0),
     (192, if itHasRec e then itTree e % 64 ≠ 0 else itTree e ≠ 0),
     (240, if k = 2 then itLayers e = 0 else itLayers e ≠ 0), (256, e / 2 ^ 256 ≠ 0)]

/-- The first failing byte of a tree record (R159). -/
def treeBad (l : List Byte) (rows : Nat) : Option Nat :=
  (List.range 64).find? fun i =>
    let b := numAt l i 1
    if i = 0 then b ≠ 0xFF else if i < rows then i ≤ b else b ≠ 0

/-- The first failing byte of a path record (R159). -/
def pathBad (l : List Byte) (k : Nat) : Option Nat :=
  (List.range 64).find? fun i =>
    let b := numAt l i 1
    if i = 0 then b ≠ 0
    else if i ≤ k then 63 < b || (1 < i && b ≤ numAt l (i - 1) 1)
    else b ≠ 0

/-- The chain of a draft node up to, not including, the root (R154). -/
def treeChain (l : List Byte) : Nat → Nat → List Nat
  | 0, _ => []
  | f + 1, a => if a = 0 then [] else a :: treeChain l f (numAt l a 1)

/-- Geometry of a command: slots of a page and bytes of a slot (R147). -/
def atnBs (w : Nat) : Nat := 2 * atnKvh w * atnD w * (if atnW16 w then 2 else 1)
def atnT (w : Nat) : Nat := 2097152 / atnBs w
def atnQh (w : Nat) : Nat := atnKvh w * atnGroup w
def atnQb (w : Nat) : Nat := fmtWidth (atnQfmt w) / 8
def atnPsize (w : Nat) : Nat := 4 * atnD w + 32

/-- The slots that row `r` of an item sees, ascending (R154). -/
def visible (e : Nat) (tree : List Byte) (r : Nat) : List Nat :=
  if itKind e = 1 then List.range (itLength e + r + 1)
  else List.range (itLength e + 1) ++ (treeChain tree 64 r).reverse.map fun a => itLength e + 64 + a

/-- The highest slot of an item, none when it has none (R161.2). -/
def topSlot (e : Nat) (tree : List Byte) : Option Nat :=
  if itKind e = 1 then some (itLength e + itRows e - 1)
  else if itKind e = 0 then some (if itRows e = 1 then itLength e else itLength e + 64 + itRows e - 1)
  else if itRows e = 0 then none else some (itLength e + 64 + numAt tree (itRows e) 1)

/-- Blocks that hold a visible slot of some row of a DECODE or CHUNK item, ascending. -/
def itemBlocks (e t : Nat) : List Nat :=
  if itKind e = 1 then List.range ((itLength e + itRows e - 1) / t + 1)
  else (((List.range (itRows e - 1)).map fun i => (itLength e + 65 + i) / t).foldl addSet (List.range (itLength e / t + 1)))

/-- A page of an item as found at dispatch: layer, block, its DPA, its tag, the DPA of its scale page, whether it lies in this stack. -/
structure AtnPage where
  layer : Nat
  block : Nat
  dpa : Nat
  tag : Nat
  sdpa : Nat
  here_ : Bool
  dest : Bool
deriving DecidableEq, Repr

/-- Tags that a geometry admits (R149). -/
def tagOk (w16 : Bool) (t : Nat) : Bool := if w16 then t = 8 || t = 9 else t = 1 || t = 2 || t = 4 || t = 5 || t = 6

/-- Accepted pairs of query format and tag (R152). -/
def atnPair (qf tag : Nat) : Bool := if qf = 6 then tag = 6 else tag ≠ 6

/-- A dispatch in progress: the device, or the device after the fault that ended it. -/
abbrev Disp (α : Type) := Except Dev (Dev × α)

/-- An operand range of the command. -/
def Dev.dOp (d : Dev) (s q j pva n : Nat) (write : Bool) (pl : Place) : Disp (List Seg) :=
  match d.opnd s q j pva n write pl 2 with
  | .bad e => .error e
  | .ok e l => .ok (e, l)

/-- Read the leaf of a cache page (R161.3): whether it lies in this stack. -/
def Dev.dPage (d : Dev) (s q j e l b : Nat) (dest : Bool) : Disp AtnPage :=
  let pva := itRegion e + (l * itPpl e + b) * 2 ^ 21
  match d.xlate (some (mU s)) (d.job j).ptn pva dest with
  | (d, .error x) => .error (d.jobFault (mU s) q j x.code (xInfo x q dest 2 s))
  | (d, .ok x) => .ok (d, ⟨l, b, x.dpa, xKvfmt x.leaf, 0, !x.remote && x.dpa / 2 ^ 37 = s, dest⟩)

/-- Translate the scale page of a kept page, or of a destination (R161.4). -/
def Dev.dScale (d : Dev) (s q j w e : Nat) (pg : AtnPage) : Disp AtnPage :=
  if atnW16 w || !(pg.here_ || pg.dest) then .ok (d, pg)
  else
    let sp := itSregion e + (pg.layer * itPpl e + pg.block) * 2 ^ 16
    match d.xlate (some (mU s)) (d.job j).ptn sp pg.dest with
    | (d, .error y) => .error (d.jobFault (mU s) q j y.code (xInfo y q pg.dest 2 s))
    | (d, .ok y) =>
      if pg.here_ && (y.remote || y.dpa / 2 ^ 37 ≠ s) then .error (d.jobFault (mU s) q j 0x500C (q % 8 + 4 * 16))
      else .ok (d, { pg with sdpa := y.dpa })

/-- The leaves of the pages of a list of (layer, block, is a destination), in its order. -/
def Dev.dPages (d : Dev) (s q j e : Nat) : List (Nat × Nat × Bool) → Disp (List AtnPage)
  | [] => .ok (d, [])
  | (l, b, x) :: t =>
    match d.dPage s q j e l b x with
    | .error f => .error f
    | .ok (d, pg) => match Dev.dPages d s q j e t with
      | .error f => .error f
      | .ok (d, r) => .ok (d, pg :: r)

/-- The scale pages of a list of pages, in its order. -/
def Dev.dScales (d : Dev) (s q j w e : Nat) : List AtnPage → Disp (List AtnPage)
  | [] => .ok (d, [])
  | pg :: t =>
    match d.dScale s q j w e pg with
    | .error f => .error f
    | .ok (d, x) => match Dev.dScales d s q j w e t with
      | .error f => .error f
      | .ok (d, r) => .ok (d, x :: r)

/-- Blocks that a COMPACT item touches in a layer, ascending: block, and whether it is a destination (R161.3, R164). -/
def compactBlocks (e t : Nat) (path : List Byte) : List (Nat × Bool) :=
  let js := (List.range (itRows e)).map (· + 1)
  let src := js.foldl (fun a k => addSet a ((itLength e + 64 + numAt path k 1) / t)) []
  let dst := js.foldl (fun a k => addSet a ((itLength e + k) / t)) []
  ((src ++ dst).foldl addSet []).flatMap fun b =>
    (if src.contains b then [(b, false)] else []) ++ (if dst.contains b then [(b, true)] else [])

/-- A checked item. -/
structure AtnItem where
  e : Nat
  record : List Byte
  pages : List AtnPage
  qsegs : List Seg
  ssegs : List Seg
deriving DecidableEq, Repr

/-- COMMAND_INVALID for an entry of the work list (07, R144). -/
def Dev.itemInvalid (d : Dev) (s q j w i b e : Nat) : Dev :=
  let fresh := !d.bit (pStk s 1) 0x10 evFault
  let d := d.jobFaultM (mU s) q j 0x5008 (q % 8 + fld w 7 0 * 256 + b % 512 * 65536 + 2 ^ 26 + 2 ^ 28) (some [.item (itRegion e)])
  if fresh then d.setReg (pStk s 1) 0x20C (BitVec.ofNat 32 (i % 65536 + 65536)) else d

/-- Members are named by the region of their item (11, R223). -/
def nameItem (e : Nat) : Option (List FaultName) := some [.item (itRegion e)]

/-- Checks 1 and 2 of R161 for one item: the record, if any. -/
def Dev.dRecord (d : Dev) (s q j w i e : Nat) : Disp (List Byte) :=
  match itemCheck (atnW16 w) e with
  | some b => .error (d.itemInvalid s q j w i b e)
  | none =>
    let r : Disp (List Byte) :=
      if !itHasRec e then .ok (d, [])
      else match d.dOp s q j (itTree e) 64 false (.here 2) with
        | .error f => .error f
        | .ok (d, l) =>
          match d.opMark [l] with
          | (d, some a) => .error (d.poisonFault (mU s) q j a 1 (nameItem e))
          | (d, none) =>
            let t := d.segSlice (agPlain (d.job j).ptn (some j)) l (itTree e) 64
            let bad := if itKind e = 2 then pathBad t (itRows e) else treeBad t (itRows e)
            match bad with
            | some b => .error (d.jobFaultM (mU s) q j 0xA006
                (q % 8 + (if itKind e = 2 then 256 else 0) + b * 512 + i % 65536 * 65536) (nameItem e))
            | none => .ok (d, t)
    match r with
    | .error f => .error f
    | .ok (d, t) =>
      match topSlot e t with
      | none => .ok (d, t)
      | some v =>
        if v < itPpl e * atnT w then .ok (d, t)
        else .error (d.jobFaultM (mU s) q j 0xA007 (q % 8 + i % 65536 * 65536) (nameItem e))

/-- The first page of an item whose tag fails, and how: 0 KV_TAG by geometry, 1 FORMAT_PAIR (R161.5). -/
def tagFault (w : Nat) (l : List AtnPage) : Option (Nat × Nat) :=
  (l.filter (·.here_)).findSome? fun p =>
    if !tagOk (atnW16 w) p.tag then some (0, p.tag)
    else if !atnPair (atnQfmt w) p.tag then some (1, p.tag) else none

/-- Some source and destination page of a COMPACT item differ in tag (R164): the tag of the source. -/
def compactTag (l : List AtnPage) : Option Nat :=
  ((l.filter fun p => !p.dest && p.here_).find? fun p => l.any fun x => x.dest && x.layer = p.layer && x.tag ≠ p.tag).map AtnPage.tag

/-- One item of R161. -/
def Dev.dItem (d : Dev) (s q j w i e : Nat) : Disp AtnItem :=
  match d.dRecord s q j w i e with
  | .error f => .error f
  | .ok (d, t) =>
    let want : List (Nat × Nat × Bool) :=
      if itKind e = 2 then (compactBlocks e (atnT w) t).flatMap fun b => (List.range (itLayers e)).map fun l => (l, b.1, b.2)
      else (itemBlocks e (atnT w)).map fun b => (atnLayer w, b, false)
    match d.dPages s q j e want with
    | .error f => .error f
    | .ok (d, pgs) =>
    match d.dScales s q j w e pgs with
    | .error f => .error f
    | .ok (d, pgs) =>
      match tagFault w pgs with
      | some (0, t) => .error (d.jobFaultM (mU s) q j 0xA005 (q % 8 + t * 16 + i % 65536 * 65536) (nameItem e))
      | some (_, t) => .error (d.jobFaultM (mU s) q j 0xA002 (q % 8 + atnQfmt w * 16 + t * 256) none)
      | none =>
        if itKind e = 2 then
          match compactTag pgs with
          | some t => .error (d.jobFaultM (mU s) q j 0xA005 (q % 8 + t * 16 + 256 + i % 65536 * 65536) (nameItem e))
          | none => .ok (d, ⟨e, t, pgs, [], []⟩)
        else
          let row := atnQh w * atnD w
          match d.dOp s q j (atnQbase w + itPidx e * row * atnQb w) (itRows e * row * atnQb w) false (.here 2) with
          | .error f => .error f
          | .ok (d, qs) =>
            if !fmtMx (atnQfmt w) then .ok (d, ⟨e, t, pgs, qs, []⟩)
            else match d.dOp s q j (atnQscale w + itPidx e * row / 32) (itRows e * row / 32) false (.here 2) with
              | .error f => .error f
              | .ok (d, ss) => .ok (d, ⟨e, t, pgs, qs, ss⟩)

/-- All items in list order. -/
def Dev.dItems (d : Dev) (s q j w : Nat) : Nat → List Nat → Disp (List AtnItem)
  | _, [] => .ok (d, [])
  | i, e :: t =>
    match d.dItem s q j w i e with
    | .error f => .error f
    | .ok (d, it) => match Dev.dItems d s q j w (i + 1) t with
      | .error f => .error f
      | .ok (d, r) => .ok (d, it :: r)

/-! ### Arithmetic (R150, R162) -/

/-- Byte of the row of area `a`, head `h`, slot `u` of a page at width `wd` bits an element (R150). -/
def kvRow (w a h u wd : Nat) : Nat := ((a * atnKvh w + h) * atnT w + u) * atnD w * wd / 8
/-- Byte of its first scale. -/
def kvScale (w a h u : Nat) : Nat := ((a * atnKvh w + h) * atnT w + u) * atnD w / 32

/-- The `D` elements of a row with their scales applied. -/
def Dev.kvElems (d : Dev) (ag : Agent) (w : Nat) (p : AtnPage) (a h u : Nat) : List Byte × List Byte :=
  (d.readMem ag (p.dpa + kvRow w a h u (fmtWidth p.tag)) (atnD w * fmtWidth p.tag / 8),
   if fmtMx p.tag then d.readMem ag (p.sdpa + kvScale w a h u) (atnD w / 32) else [])

/-- dot(q, k): blocks accumulated in ascending order from +0 (R162). -/
def dotQK (dd qf kf : Nat) (q qs k ks : List Byte) : Word × Bool :=
  (List.range (dd / 32)).foldl (fun a j =>
    accAdd a (blockSum kf qf (numAt k (j * 4 * fmtWidth kf) (4 * fmtWidth kf)) (numAt q (j * 4 * fmtWidth qf) (4 * fmtWidth qf))
      (if fmtMx kf then numAt ks j 1 else 127) (if fmtMx qf then numAt qs j 1 else 127))) ((0 : Word), false)

/-- Elements of a value row, each times its scale, exact (R152). -/
def valRow (dd f : Nat) (v vs : List Byte) : List Fv :=
  (List.range dd).map fun i =>
    (ofFmt f (bitsAt v (fmtWidth f * (i + 1) - 1) (fmtWidth f * i))).e8 (if fmtMx f then numAt vs (i / 32) 1 else 127)

/-- The partial of one page for one row and head, and whether an operation of it overflowed (R162). -/
def Dev.pagePartial (d : Dev) (ag : Agent) (w : Nat) (p : AtnPage) (h : Nat) (q qs : List Byte) (slots : List Nat) : Partial × Bool :=
  let dd := atnD w
  let sc := slots.map fun u =>
    let (k, ks) := d.kvElems ag w p 0 h u
    let (x, o) := dotQK dd (atnQfmt w) p.tag q qs k ks
    let y := roundOver ((ofF32 (BitVec.ofNat 32 (atnScale w))).mul (ofF32 x))
    (u, y.1, o || y.2)
  let m := (sc.map fun x => x.2.1).foldl maxF 0xFF800000#32
  let r := sc.foldl (fun (a : Word × List Word × Nat × Bool) x =>
    let df := roundOver ((ofF32 x.2.1).add (ofF32 m).neg)
    let e := expF df.1
    let l := roundOver ((ofF32 a.1).add (ofF32 e))
    let (v, vs) := d.kvElems ag w p 1 h x.1
    let o := List.zipWith (fun y z => roundOver (((ofF32 e).mul y).add (ofF32 z))) (valRow dd p.tag v vs) a.2.1
    (l.1, o.map Prod.fst, a.2.2.1 + 1, a.2.2.2 || df.2 || l.2 || o.any Prod.snd)) ((0 : Word), List.replicate dd (0 : Word), 0, false)
  (⟨r.2.1, m, r.1, r.2.2.1, false⟩, (sc.any fun x => x.2.2) || r.2.2.2)

/-- The stack's partial of row `r` and head `h` of an item: the list merge of its page partials in ascending block (R162). -/
def Dev.itemPartial (d : Dev) (ag : Agent) (w : Nat) (it : AtnItem) (r h : Nat) : Partial × Bool :=
  let t := atnT w
  let dd := atnD w
  let row := atnQh w * dd
  let g := itPidx it.e + r
  let q := d.segSlice ag it.qsegs (atnQbase w + (g * atnQh w + h) * dd * atnQb w) (dd * atnQb w)
  let qs := if fmtMx (atnQfmt w) then d.segSlice ag it.ssegs (atnQscale w + (g * row + h * dd) / 32) (dd / 32) else []
  let vis := visible it.e it.record r
  let parts := (it.pages.filter (·.here_)).filterMap fun p =>
    let u := (vis.filter fun x => x / t = p.block).map (· % t)
    if u.isEmpty then none else some (d.pagePartial ag w p (h / atnGroup w) q qs u)
  let m := mergeOver dd (parts.map Prod.fst)
  (m.1, parts.any Prod.snd || m.2)

/-- The first marked unit that an item's reads meet: queries, scales, visible rows and their scales (17, R366). -/
def Dev.itemMark (d : Dev) (w : Nat) (it : AtnItem) : Dev × Option Nat :=
  let t := atnT w
  let rows : List (AtnPage × Nat) :=
    if itKind it.e = 2 then
      (List.range (itRows it.e)).flatMap fun k =>
        let u := itLength it.e + 64 + numAt it.record (k + 1) 1
        (it.pages.filter fun p => p.here_ && !p.dest && p.block = u / t).map fun p => (p, u % t)
    else
      let vis := ((List.range (itRows it.e)).flatMap (visible it.e it.record)).eraseDups
      (it.pages.filter (·.here_)).flatMap fun p => (vis.filter fun x => x / t = p.block).map fun x => (p, x % t)
  let ranges : List (Nat × Nat) := rows.flatMap fun (p, u) =>
    (List.range 2).flatMap fun a => (List.range (atnKvh w)).flatMap fun h =>
      (p.dpa + kvRow w a h u (fmtWidth p.tag), atnD w * fmtWidth p.tag / 8) ::
        (if fmtMx p.tag then [(p.sdpa + kvScale w a h u, atnD w / 32)] else [])
  let ranges := pieces it.qsegs ++ pieces it.ssegs ++ ranges
  let d := if d.errs.isEmpty then d else ranges.foldl (fun d x => d.noteErrs x.1 x.2) d
  if d.marks.isEmpty && (d.stks.all fun e => e.2.lost.isEmpty) then (d, none)
  else (d, (ranges.find? fun x => d.markedAt x.1 x.2).map fun x => d.firstMark x.1 x.2)

/-- Writes of a COMPACT item (R164). -/
def Dev.compactOuts (d : Dev) (ag : Agent) (w : Nat) (it : AtnItem) : List (Nat × List Byte × Bool) :=
  let t := atnT w
  (List.range (itLayers it.e)).flatMap fun l => (List.range (itRows it.e)).flatMap fun k =>
    let u := itLength it.e + 64 + numAt it.record (k + 1) 1
    let v := itLength it.e + k + 1
    match (it.pages.find? fun p => p.here_ && !p.dest && p.layer = l && p.block = u / t),
          (it.pages.find? fun p => p.dest && p.layer = l && p.block = v / t) with
    | some ps, some pd =>
      (List.range 2).flatMap fun a => (List.range (atnKvh w)).flatMap fun h =>
        let (x, xs) := d.kvElems ag w ps a h (u % t)
        (pd.dpa + kvRow w a h (v % t) (fmtWidth pd.tag), x, false) ::
          (if fmtMx ps.tag then [(pd.sdpa + kvScale w a h (v % t), xs, false)] else [])
    | _, _ => []

/-- Partials of a DECODE or CHUNK item as writes, and whether a sum overflowed (R160, R162). -/
def Dev.partialOuts (d : Dev) (ag : Agent) (w : Nat) (it : AtnItem) (l : List Seg) : List (Nat × List Byte × Bool) × Bool :=
  let rs := (List.range (itRows it.e)).flatMap fun r => (List.range (atnQh w)).map fun h =>
    let (p, o) := d.itemPartial ag w it r h
    let pva := atnObase w + (((itPidx it.e + r) * atnQh w + h) * atnNslot w + atnSlot w) * atnPsize w
    (outPieces l pva p.bytes false, o)
  (rs.flatMap Prod.fst, rs.any Prod.snd)

/-- The range of an item's partials: from its first to its last record (R160). -/
def partialRange (w e : Nat) : Nat × Nat :=
  let a := ((itPidx e * atnQh w) * atnNslot w + atnSlot w) * atnPsize w
  let b := (((itPidx e + itRows e) * atnQh w - 1) * atnNslot w + atnSlot w + 1) * atnPsize w
  (atnObase w + a, b - a)

/-- Translate the partial records of the items, record by record (R161, last paragraph). -/
def Dev.dOuts (d : Dev) (s q j w : Nat) : List AtnItem → Disp (List (List Seg))
  | [] => .ok (d, [])
  | it :: t =>
    if itKind it.e = 2 then
      match Dev.dOuts d s q j w t with
      | .error f => .error f
      | .ok (d, r) => .ok (d, [] :: r)
    else
      let (a, n) := partialRange w it.e
      match d.dOp s q j a n true .device with
      | .error f => .error f
      | .ok (d, l) => match Dev.dOuts d s q j w t with
        | .error f => .error f
        | .ok (d, r) => .ok (d, l :: r)

/-- ATTN at the head of queue `q`: the checks of R161, then its arithmetic: its writes and the ranges that it holds, or the device after the fault of its job. -/
def Dev.attnWork (d : Dev) (s q w j : Nat) : Except Dev (Dev × List (Nat × List Byte × Bool) × List Range) :=
  match d.dOp s q j (atnList w) (64 * atnItems w) false (.here 2) with
  | .error f => .error f
  | .ok (d, l) =>
    match d.opMark [l] with
    | (d, some a) => .error (d.poisonFault (mU s) q j a 1 none)
    | (d, none) =>
      let ag := agPlain (d.job j).ptn (some j)
      let bs := d.segSlice ag l (atnList w) (64 * atnItems w)
      let es := (List.range (atnItems w)).map fun i => numAt bs (64 * i) 64
      if atnLayer w ≠ 0 && es.all fun e => itKind e = 2 then .error (d.cmdInvalid (mU s) q w 88)
      else match d.dItems s q j w 0 es with
      | .error f => .error f
      | .ok (d, its) =>
        match d.dOuts s q j w its with
        | .error f => .error f
        | .ok (d, outs) =>
          match its.foldl (fun (acc : Dev × Option (Nat × Nat)) it =>
              match acc with
              | (d, some x) => (d, some x)
              | (d, none) => match d.itemMark w it with
                | (d, some a) => (d, some (a, it.e))
                | (d, none) => (d, none)) (d, none) with
          | (d, some (a, e)) => .error (d.poisonFault (mU s) q j a 1 (nameItem e))
          | (d, none) =>
            let res := (its.zip outs).map fun x =>
              if itKind x.1.e = 2 then (d.compactOuts ag w x.1, false) else d.partialOuts ag w x.1 x.2
            let d := if res.any Prod.snd then d.setBit (pStk s 1) 0x48 1 true else d
            let rs := its.flatMap fun it => it.pages.map fun p => (itRegion it.e + (p.layer * itPpl it.e + p.block) * 2 ^ 21, 2 ^ 21)
            .ok (d, res.flatMap Prod.fst, (atnList w, 64 * atnItems w) :: rs)

/-- ATTN at the head of queue `q` (R161). -/
def Dev.attn (d : Dev) (s q w j : Nat) : Dev :=
  match d.attnWork s q w j with
  | .error f => f
  | .ok (e, outs, rs) => e.startRun s q j 2 w outs rs

/-- ATTN (R161). -/
def execAttn (sk : Fin 24) (q : Fin 8) (s : State) : Out := s.upd fun d =>
  d.mvrServe sk q 0x02 fun d w j => d.attn sk q w j

end Sys2Proof.Machine
end

