-- ==== Sys2Proof/Machine/Image0.lean ====
section
/-! DEFINITION. Installed images (19, R397, R398, R412): fields of an image, VERSION.FIRMWARE of a page, control stores from the image cache. -/

namespace Sys2Proof.Machine

/-- Fields of an image header (R398). -/
def imgKind (l : List Byte) : Nat := numAt l 8 1
def imgVersion (l : List Byte) : Nat := numAt l 0x0C 2
def imgSvn (l : List Byte) : Nat := numAt l 0x10 1
def imgBodyLen (l : List Byte) : Nat := numAt l 0x14 4
def imgBody (l : List Byte) : List Byte := bytesAt l 4096 (imgBodyLen l)

/-- The kind of image that the unit of a page runs; hardware alone has none (R397). -/
def Blk.image : Blk → Option Nat
  | .sec => some 2
  | .dev | .pwr | .clk | .thm | .boot | .mgt => some 3
  | .svc => some 4
  | .med => some 5
  | .clu => some 6
  | .stk => some 7
  | .link => some 8
  | _ => none

/-- VERSION.FIRMWARE of a page becomes that of the installed image of its kind. -/
def Dev.setFirmware (d : Dev) (p : Page) : Dev :=
  match p.blk.image with
  | none => d
  | some k => match tget? d.boot.cache k with
    | some l => d.setF p 0x04 31 16 (imgVersion l)
    | none => d

/-- Control stores of a cluster as the CONTROL_STORE image has them: its words from index 0, zero words beyond (R412). -/
def Dev.loadStores (d : Dev) (n : Nat) : Dev :=
  let b := match tget? d.boot.cache 0x0A with | some l => imgBody l | none => []
  let ws := (List.range (min 4096 (b.length / 32))).map fun i => BitVec.ofNat 256 (numAt b (32 * i) 32)
  let d := d.each (List.range 32) fun d k => d.modCore n k fun c => { c with store := [], storeMarks := [] }
  if ws.isEmpty then d else d.loadCores n 0xFFFFFFFF 0 ws

end Sys2Proof.Machine
end

