-- ==== Sys2Proof/Machine/Feature.lean ====
section
/-! DEFINITION. The audio formats, the feature values and the voice-activity decision of the media front end (15, R318, R320, R321). -/

namespace Sys2Proof.Machine

/-! ### Formats (R318) -/

/-- Bytes of a sample, samples of a 20 ms frame, samples of a second. -/
def audBytes (f : Nat) : Nat := if f < 3 then 2 else 1
def audFrame (f : Nat) : Nat := if f = 1 then 320 else if f = 2 then 480 else 160
def audRate (f : Nat) : Nat := 50 * audFrame f

/-- G.711 μ-law expansion to 14 bits, placed at the top of a 16-bit word (ITU-T G.711, PRESUMED). -/
def muExpand (b : Nat) : Int :=
  let u := 255 - b % 256
  let mag : Int := (((u % 16) * 2 + 33) * 2 ^ (u / 16 % 8) : Nat) - 33
  4 * (if 128 ≤ u then -mag else mag)

/-- G.711 A-law expansion to 13 bits, placed at the top of a 16-bit word. -/
def aExpand (b : Nat) : Int :=
  let u := Nat.xor (b % 256) 0x55
  let seg := u / 16 % 8
  let mag : Nat := if seg = 0 then (u % 16) * 2 + 1 else ((u % 16) * 2 + 33) * 2 ^ (seg - 1)
  8 * (if 128 ≤ u then (mag : Int) else -(mag : Int))

/-- The segment of a biased magnitude. -/
def lawSeg (v : Nat) : Nat := ((List.range 8).find? fun s => v < 64 * 2 ^ s).getD 7

/-- G.711 μ-law compression of a 16-bit sample. -/
def muCompress (x : Int) : Nat :=
  let neg := x < 0
  let v := min 8158 (x.natAbs / 4) + 33
  let seg := lawSeg v
  255 - ((if neg then 128 else 0) + seg * 16 + v / 2 ^ (seg + 1) % 16)

/-- G.711 A-law compression of a 16-bit sample. -/
def aCompress (x : Int) : Nat :=
  let neg := x < 0
  let v := min 4095 (if neg then (x.natAbs - 1) / 8 else x.natAbs / 8)
  let seg := ((List.range 8).find? fun s => v < 32 * 2 ^ s).getD 7
  Nat.xor ((if neg then 0 else 128) + seg * 16 + (if seg = 0 then v / 2 % 16 else v / 2 ^ seg % 16)) 0x55

/-- The samples of a frame in an input format. -/
def audDecode (f : Nat) (bs : List Byte) : List Int :=
  if f = 3 then bs.map fun b => muExpand b.toNat
  else if f = 4 then bs.map fun b => aExpand b.toNat
  else (List.range (bs.length / 2)).map fun i => signed 16 (numAt bs (2 * i) 2)

/-- The bytes of samples in an output format. -/
def audEncode (f : Nat) (l : List Int) : List Byte :=
  if f = 3 then l.map fun x => BitVec.ofNat 8 (muCompress x)
  else if f = 4 then l.map fun x => BitVec.ofNat 8 (aCompress x)
  else l.flatMap fun x => leBytes 2 (x % 65536).toNat

/-! ### Feature values (R320)

The exact real result is evaluated in fixed point, far within the 0.01 that the spec allows; the deviation within ±0.01 that the front end takes is a free value. -/

/-- 2^fxBits. -/
abbrev fxOne : Int := 2 ^ fxBits

/-- arctan(1/k) in fixed point, by its series. -/
def atanInv (k : Nat) : Int :=
  (List.range 120).foldl (fun (s : Int) (i : Nat) => s + (if i % 2 = 0 then 1 else -1) * (fxOne / ((2 * i + 1 : Nat) * (k : Int) ^ (2 * i + 1)))) 0

/-- π in fixed point, by Machin's formula. -/
def piFx : Int := 16 * atanInv 5 - 4 * atanInv 239

/-- cos of a fixed-point angle, by its series. -/
def cosSeries : Nat → Nat → Int → Int → Int → Int
  | 0, _, _, _, acc => acc
  | n + 1, k, x2, term, acc =>
    let t := -(term * x2 / fxOne) / ((2 * k + 1) * (2 * k + 2) : Nat)
    cosSeries n (k + 1) x2 t (acc + t)

/-- cos(2π j / n) in fixed point. -/
def cosFx (j n : Nat) : Int :=
  let x := 2 * piFx * (j % n : Nat) / (n : Int)
  cosSeries 60 0 (x * x / fxOne) fxOne fxOne

/-- log2 of a positive fixed-point number, with 64 fraction bits. -/
def log2Fx (x : Nat) : Int :=
  let b := blen x
  let y : Nat := if b ≤ fxBits + 1 then x * 2 ^ (fxBits + 1 - b) else x / 2 ^ (b - fxBits - 1)
  ((b : Int) - 1 - fxBits) * 2 ^ 64 + log2Go 64 y 0

/-- FFT size, upper edge of the filters (R320). -/
def fftSize (fs : Nat) : Nat := if fs = 8000 then 256 else if fs = 16000 then 512 else 1024
def filterTop (fs : Nat) : Nat := if fs = 8000 then 4000 else 8000

/-- Edge i of m filters, in Hz in fixed point: equal steps of mel from 0 to mel(f_max). -/
def edgeFx (fs m i : Nat) : Int :=
  let l := log2Fx (((700 + filterTop fs) * 2 ^ fxBits) / 700) * (i : Int) / ((m + 1 : Nat) : Int)
  let whole := l / 2 ^ 64
  let frac := (l % 2 ^ 64).toNat * 2 ^ (fxBits - 64)
  700 * ((exp2Fx frac * 2 ^ whole.toNat : Nat) - fxOne)

/-- The windowed samples. -/
def windowed (fs : Nat) (l : List Int) : List Int :=
  let n := fs / 40
  (List.range n).map fun i => ((l[i]?).getD 0) * (fxOne - cosFx i n) / (2 * 32768)

/-- P[k] of the windowed samples, in fixed point. -/
def powerFx (size k : Nat) (y : List Int) : Int :=
  let s := (List.range y.length).foldl (fun (a : Int × Int) i =>
    let v := (y[i]?).getD 0
    let c := cosFx (i * k) size
    let q := cosFx (i * k + 3 * size / 4) size
    (a.1 + v * c / fxOne, a.2 + v * q / fxOne)) (0, 0)
  (s.1 * s.1 + s.2 * s.2) / fxOne

/-- The triangle of filter m of a bank, at frequency f. -/
def triFx (e0 e1 e2 f : Int) : Int :=
  if f ≤ e0 || e2 ≤ f then 0
  else if f ≤ e1 then (f - e0) * fxOne / (e1 - e0)
  else (e2 - f) * fxOne / (e2 - e1)

/-- One feature before conversion, with 64 fraction bits: ln(max(sum, 1e-10)). -/
def featureFx (fs m i : Nat) (p : List Int) : Int :=
  let e0 := edgeFx fs m i
  let e1 := edgeFx fs m (i + 1)
  let e2 := edgeFx fs m (i + 2)
  let sum := (List.range p.length).foldl (fun (a : Int) k =>
    a + (p[k]?).getD 0 * triFx e0 e1 e2 ((k * fs : Nat) * fxOne / (fftSize fs : Nat)) / fxOne) 0
  log2Fx (max sum (fxOne / 10000000000)).toNat * (ln2Fx : Int) / fxOne

/-- A value within 0.01 of an exact one, in steps of a millionth, as BF16. -/
def featureNear (x : Int) (pick : Nat) : Nat :=
  let v := x + ((pick % 20001 : Nat) - 10000 : Int) * 2 ^ 64 / 1000000
  (toFmt 8 (.fin (v < 0) v.natAbs (-64))).bits

/-- A feature frame: `m` BF16 values; `pick` gives the deviation of each. -/
def featureFrame (fs m : Nat) (l : List Int) (pick : Nat → Nat) : List Byte :=
  let y := windowed fs l
  let p := (List.range (fftSize fs / 2 + 1)).map fun k => powerFx (fftSize fs) k y
  (List.range m).flatMap fun i => leBytes 2 (featureNear (featureFx fs m i p) (pick i))

/-! ### Voice activity (R321) -/

/-- E ≥ VAD: 10 log10(q) ≥ v, decided exactly as q^(10 × 2^k) ≥ 10^n for v = n / 2^k in lowest terms; q = mean of x² + 10^−10. -/
def speechHop (l : List Int) (vad : Word) : Bool :=
  match ofF32 vad with
  | .fin neg m e =>
    let sq : Nat := l.foldl (fun (a : Nat) x => a + x.natAbs * x.natAbs) 0
    -- q = (sq × 10^10 + n × 2^30) / (n × 2^30 × 10^10)
    let n := max 1 l.length
    let num := sq * 10 ^ 10 + n * 2 ^ 30
    let den := n * 2 ^ 30 * 10 ^ 10
    let g := Nat.gcd m (2 ^ (-e).toNat)
    let v := m / g * 2 ^ e.toNat
    let ex := 10 * (2 ^ (-e).toNat / g)
    if neg then den ^ ex ≤ num ^ ex * 10 ^ v else den ^ ex * 10 ^ v ≤ num ^ ex
  | _ => false

end Sys2Proof.Machine
end

