-- ==== Sys2Proof/Machine/Desc.lean ====
section
/-! DEFINITION. Tensor descriptors and allocation records (06, R101–R111): fields, element addressing, the checks of creation and of issue, DESC_CREATE and DESC_DESTROY. -/

namespace Sys2Proof.Machine

/-- A descriptor, as the number that its 128 bytes spell (R101). -/
abbrev Desc := Nat

def dsBase (x : Desc) : Nat := fld x 47 0
def dsFormat (x : Desc) : Nat := fld x 51 48
def dsDims (x : Desc) : Nat := fld x 54 52
def dsWrite (x : Desc) : Bool := bitOf x 55
def dsDistinct (x : Desc) : Bool := bitOf x 56
def dsPolicy (x : Desc) : Bool := bitOf x 57
def dsAdd (x : Desc) : Nat := fld x 59 58
def dsAlloc (x : Desc) : Nat := fld x 79 64
def dsGen (x : Desc) : Nat := fld x 95 80
def dsScale (x : Desc) : Nat := fld x 143 96
def dsExtent (x : Desc) (k : Nat) : Nat := fld x (64 * k + 223) (64 * k + 192)
def dsStride (x : Desc) (k : Nat) : Int := signed 32 (fld x (64 * k + 255) (64 * k + 224))
def dsBlock (x : Desc) (k : Nat) : Nat := fld x (32 * k + 607) (32 * k + 576)
def dsValid (x : Desc) : Bool := bitOf x 1023
/-- Element width in bits. -/
def dsW (x : Desc) : Nat := fmtWidth (dsFormat x)
def dsMx (x : Desc) : Bool := fmtMx (dsFormat x)
/-- The dimensions of a descriptor. -/
def dsDimList (x : Desc) : List Nat := List.range (dsDims x)
/-- A block shape is given (R101). -/
def dsHasBlock (x : Desc) : Bool := (dsDimList x).any fun k => dsBlock x k ≠ 0

/-- Elements of a descriptor (R103). -/
def dsCount (x : Desc) : Nat := (dsDimList x).foldl (fun a k => a * dsExtent x k) 1
/-- Elements of a block; blocks of a descriptor (R111). -/
def dsBlockElems (x : Desc) : Nat := (dsDimList x).foldl (fun a k => a * dsBlock x k) 1
def dsNb (x : Desc) (k : Nat) : Nat := dsExtent x k / dsBlock x k
def dsBlocks (x : Desc) : Nat := (dsDimList x).foldl (fun a k => a * dsNb x k) 1

/-- The indices of the element at a traversal position, dimension 0 fastest, for given extents (R103). -/
def unravel : List Nat → Nat → List Nat
  | [], _ => []
  | e :: t, p => p % e :: unravel t (p / e)

/-- The element offset of indices (R103). -/
def dsOffset (x : Desc) (idx : List Nat) : Int :=
  (idx.zipIdx).foldl (fun a e => a + (e.1 : Nat) * dsStride x e.2) 0

/-- The element offset at a traversal position of the whole descriptor. -/
def dsAt (x : Desc) (p : Nat) : Int := dsOffset x (unravel ((dsDimList x).map (dsExtent x)) p)

/-- The element offset at position `p` inside the block of coordinates `co` (R111). -/
def dsAtBlock (x : Desc) (co : List Nat) (p : Nat) : Int :=
  let i := unravel ((dsDimList x).map (dsBlock x)) p
  dsOffset x ((dsDimList x).map fun k => (co[k]?).getD 0 * dsBlock x k + (i[k]?).getD 0)

/-- The coordinates of block number `b` in traversal order (R111). -/
def dsBlockCoord (x : Desc) (b : Nat) : List Nat := unravel ((dsDimList x).map (dsNb x)) b

/-! ### Allocation records (R105) -/

def alBase (r : Nat) : Nat := fld r 47 0
def alGen (r : Nat) : Nat := fld r 63 48
def alSize (r : Nat) : Nat := fld r 111 64
def alValid (r : Nat) : Bool := bitOf r 112
def alWritable (r : Nat) : Bool := bitOf r 113

/-- PVAs of descriptor entry `h` and allocation record `a` of a partition (R118). -/
def Dev.descPva (d : Dev) (p h : Nat) : Nat := d.pair (pPtn p) 0x300 0x304 % 2 ^ 48 + 128 * h
def Dev.allocPva (d : Dev) (p a : Nat) : Nat := d.pair (pPtn p) 0x30C 0x310 % 2 ^ 48 + 16 * a

/-! ### Creation (R108) -/

/-- Codes of R117. -/
abbrev cDescRange : Nat := 0x1001
abbrev cDescAlias : Nat := 0x1002
abbrev cDescAlign : Nat := 0x1003
abbrev cDescFormat : Nat := 0x1004
abbrev cDescAlloc : Nat := 0x1005
abbrev cDescBlock : Nat := 0x1006
abbrev cDescInvalid : Nat := 0x1007
abbrev cDescHandle : Nat := 0x1008
abbrev cIndexRange : Nat := 0x2001
abbrev cListFormat : Nat := 0x2002

/-- Dimensions from 1 whose extent is used. -/
def dsOuter (x : Desc) : List Nat := (dsDimList x).filter fun k => 1 ≤ k && 1 < dsExtent x k

/-- The format checks: the image is none that R101 allows. -/
def dsBadFormat (x : Desc) : Bool :=
  fld x 63 60 ≠ 0 || fld x 191 144 ≠ 0 || fld x 1022 768 ≠ 0 || dsValid x || !fmtOk (dsFormat x)
  || dsDims x = 0 || 6 < dsDims x || ((dsDimList x).any fun k => dsExtent x k = 0)
  || ((List.range 6).any fun k => dsDims x ≤ k && (dsExtent x k ≠ 0 || fld x (64 * k + 255) (64 * k + 224) ≠ 0 || dsBlock x k ≠ 0))
  || (dsScale x ≠ 0 && !dsMx x)
  || (dsAdd x ≠ 0 && (dsFormat x ≠ 0xA || !dsWrite x))

/-- The first dimension that fails an alignment check. -/
def dsBadAlign (x : Desc) : Option Nat :=
  if dsBase x % 32 ≠ 0 || dsStride x 0 ≠ 1 then some 0
  else if dsMx x && dsExtent x 0 % 32 ≠ 0 then some 0
  else match (if dsMx x then (dsOuter x).find? fun k => dsStride x k % 32 ≠ 0 else none) with
    | some k => some k
    | none =>
      if dsAdd x = 3 && dsExtent x 0 % 2 ≠ 0 then some 0
      else if dsAdd x = 3 then (dsOuter x).find? fun k => dsStride x k % 2 ≠ 0 else none

/-- Lowest and highest element offset (R108). -/
def dsLo (x : Desc) : Int := (dsDimList x).foldl (fun a k => a + min 0 (((dsExtent x k : Int) - 1) * dsStride x k)) 0
def dsHi (x : Desc) : Int := (dsDimList x).foldl (fun a k => a + max 0 (((dsExtent x k : Int) - 1) * dsStride x k)) 0

/-- Some reachable byte lies outside the allocation. -/
def dsBadRange (x : Desc) (r : Nat) : Bool :=
  let first : Int := dsBase x + (dsLo x * dsW x) / 8
  let last : Int := dsBase x + ((dsHi x + 1) * dsW x - 1) / 8
  let lim : Int := (alBase r : Int) + alSize r - 1
  first < alBase r || lim < last
  || (dsMx x && ((dsScale x : Int) + dsLo x / 32 < alBase r || lim < (dsScale x : Int) + dsHi x / 32))

/-- The dimension that fails the block checks. -/
def dsBadBlock (x : Desc) : Option Nat :=
  if !dsHasBlock x then none
  else match (dsDimList x).find? fun k => dsBlock x k = 0 || dsExtent x k % dsBlock x k ≠ 0 with
    | some k => some k
    | none => if dsMx x && dsBlock x 0 % 32 ≠ 0 then some 0 else none

/-- Insert a dimension by the size of its stride, equal ones in order of dimension. -/
def insertStride (x : Desc) (k : Nat) : List Nat → List Nat
  | [] => [k]
  | j :: t => if (dsStride x k).natAbs < (dsStride x j).natAbs then k :: j :: t else j :: insertStride x k t

/-- The alias test: the dimension whose stride fails. -/
def dsAlias (x : Desc) : Option Nat :=
  let l := ((dsDimList x).filter fun k => 1 < dsExtent x k).foldl (fun l k => insertStride x k l) []
  (l.foldl (fun (a : Nat × Option Nat) k =>
    if a.2.isSome then a
    else if (dsStride x k).natAbs ≤ a.1 then (a.1, some k)
    else (a.1 + (dsExtent x k - 1) * (dsStride x k).natAbs, none)) (0, none)).2

/-- The checks of R108 against the allocation record, the first that fails: code and dimension. -/
def dsCheck (x : Desc) (r : Nat) : Option (Nat × Nat) :=
  if !alValid r || alGen r ≠ dsGen x || (dsWrite x && !alWritable r) then some (cDescAlloc, 0)
  else match dsBadAlign x with
    | some k => some (cDescAlign, k)
    | none =>
      if dsBadRange x r then some (cDescRange, 0)
      else match dsBadBlock x with
        | some k => some (cDescBlock, k)
        | none =>
          if dsWrite x && !dsDistinct x then (dsAlias x).map fun k => (cDescAlias, k) else none

/-- What an operation of the intake on partition memory gives. -/
inductive IMem (α : Type) where
  | fault (x : XFault) (write : Bool)
  | wait
  | ok (v : α)

/-- The intake and the other services read partition memory, uncached, as stored (12, R241; 16, R343). A mark that such a read meets is consumed by the hart that reads: it is recorded (17, R365, R366). -/
def Dev.intakeRead (d : Dev) (p pva n : Nat) : Dev × IMem (List Byte × Bool) :=
  match d.fetchKeep none none (agPtn p none) p pva n true with
  | (d, .fault x) => (d, .fault x false)
  | (d, .wait) => (d, .wait)
  | (d, .sealed) => (d, .ok (List.replicate n 0, false))
  | (d, .marked a bs) => (d.poisonLast p a, .ok (bs, true))
  | (d, .ok bs) => (d, .ok (bs, false))

/-- The intake writes partition memory. -/
def Dev.intakeWrite (d : Dev) (p pva : Nat) (bs : List Byte) : Dev × IMem Unit :=
  match d.store none none (agPtn p none) p pva bs false with
  | (d, .fault x) => (d, .fault x true)
  | (d, .wait) => (d, .wait)
  | (d, .sealed) => (d, .ok ())
  | (d, .ok _) => (d, .ok ())

/-- An item whose memory does not answer yet is not under way; its command is taken again (20, R430). -/
def Dev.retryItem (d : Dev) (i : Item) : Dev :=
  { d with work := d.work.map fun m => if m.id = i.msg then { m with busy := false } else m }

/-- An item ends in a translation fault: its code, INFO as FAULT_INFO of R275 (14, R303). -/
def Dev.itemFault (d : Dev) (i : Item) (x : XFault) (write : Bool) : Dev := d.endItem i x.code (xInfo x 0 write 0 0)

/-- A creation is refused. -/
def Dev.descRefused (d : Dev) (i : Item) (code info : Nat) : Dev :=
  (d.addSat (pPtn i.ptn) 0x318 31 16 1).endItem i code info

/-- DESC_CREATE (R106, R108). -/
def Dev.descCreate (d : Dev) (i : Item) : Dev :=
  let p := i.ptn
  let x := numAt i.body 0 128
  let h := numAt i.body 0x80 2
  let refuse (d : Dev) (c k : Nat) : Dev := d.descRefused i c (h + k * 65536)
  if d.getF (pPtn p) 0x308 16 0 ≤ h then refuse d cDescHandle 0
  else if dsBadFormat x then refuse d cDescFormat 0
  else if d.getF (pPtn p) 0x314 16 0 ≤ dsAlloc x then refuse d cDescAlloc 0
  else match d.intakeRead p (d.allocPva p (dsAlloc x)) 16 with
  | (d, .fault y w) => d.descRefused i y.code (xInfo y 0 w 0 0)
  | (d, .wait) => d.retryItem i
  | (d, .ok (_, true)) => d.hartInfo.2.descRefused i cPoison d.hartInfo.1
  | (d, .ok (bs, false)) =>
    match dsCheck x (leNat bs) with
    | some (c, k) => refuse d c k
    | none =>
      match d.intakeWrite p (d.descPva p h) (leBytes 128 (x + 2 ^ 1023)) with
      | (d, .fault y w) => d.descRefused i y.code (xInfo y 0 w 0 0)
      | (d, .wait) => d.retryItem i
      | (d, .ok ()) => (d.addSat (pPtn p) 0x318 15 0 1).endItem i 0 0

/-- DESC_DESTROY (R106): VALID of the entry is cleared. -/
def Dev.descDestroy (d : Dev) (i : Item) : Dev :=
  let p := i.ptn
  let h := numAt i.body 0 2
  if d.getF (pPtn p) 0x308 16 0 ≤ h then d.endItem i cDescHandle h
  else match d.intakeRead p (d.descPva p h + 120) 8 with
  | (d, .fault x w) => d.itemFault i x w
  | (d, .wait) => d.retryItem i
  | (d, .ok (_, true)) => d.hartPoison i
  | (d, .ok (bs, false)) =>
    match d.intakeWrite p (d.descPva p h + 120) (leBytes 8 (setFld (leNat bs) 63 63 0)) with
    | (d, .fault x w) => d.itemFault i x w
    | (d, .wait) => d.retryItem i
    | (d, .ok ()) => d.endItem i 0 0

/-- DESC_CREATE, the next item of partition `p`. -/
def execDescCreate (p : Fin 25) (s : State) : Out := s.upd fun d => d.serveItem p 0x0010 Dev.descCreate

/-- DESC_DESTROY, the next item of partition `p`. -/
def execDescDestroy (p : Fin 25) (s : State) : Out := s.upd fun d => d.serveItem p 0x0011 Dev.descDestroy

end Sys2Proof.Machine
end

