-- ==== Sys2Proof/Machine/Dma.lean ====
section
/-! DEFINITION. The compute DMA engines (06, R101–R117; 12, R241–R251, R256; 13, R265–R273; 16, R342): head checks, issue, units, completion, stopping and resuming, holds. -/

namespace Sys2Proof.Machine

/-! ### Fields (R266) -/

def dmVol (w : Nat) : Bool := bitOf w 8
def dmScope (w : Nat) : Nat := fld w 11 9
def dmSigEn (w : Nat) : Bool := bitOf w 12
def dmSigKind (w : Nat) : Bool := bitOf w 13
def dmSigRemote (w : Nat) : Bool := bitOf w 14
def dmStatEn (w : Nat) : Bool := bitOf w 15
def dmSigDev (w : Nat) : Nat := fld w 23 16
def dmSigTarget (w : Nat) : Nat := fld w 33 24
def dmSigFlag (w : Nat) : Nat := fld w 39 34
def dmSrc (w : Nat) : Nat := fld w 79 64
def dmAmount (w : Nat) : Nat := fld w 79 64
def dmDst (w : Nat) : Nat := fld w 95 80
def dmList (w : Nat) : Nat := fld w 143 96
def dmEntries (w : Nat) : Nat := fld w 160 144
def dmWtTarget (w : Nat) : Nat := fld w 73 64
def dmWtKind (w : Nat) : Bool := bitOf w 74
def dmWtFlag (w : Nat) : Nat := fld w 80 75
def dmWtThreshold (w : Nat) : Nat := fld w 111 96
def dmWtConsume (w : Nat) : Bool := bitOf w 112
def dmStat (w : Nat) : Nat := fld w 1007 960

/-- A target number out of its range: cluster 0–799, stack 0–23. -/
def badTarget (stack : Bool) (t : Nat) : Bool := if stack then 23 < t else 799 < t

/-- Signal fields that a command with no signal leaves zero. -/
def sigFields (w : Nat) (used : Bool) : List (Nat × Bool) :=
  [(13, !used && dmSigKind w), (14, !used && dmSigRemote w)]
def sigFields2 (w : Nat) (used : Bool) : List (Nat × Bool) :=
  [(16, if used && dmSigRemote w then 63 < dmSigDev w else dmSigDev w ≠ 0),
   (24, if used then badTarget (dmSigKind w) (dmSigTarget w) else dmSigTarget w ≠ 0),
   (34, !used && dmSigFlag w ≠ 0), (40, fld w 63 40 ≠ 0)]

/-- STAT and the bits above it. -/
def statFields (w : Nat) : List (Nat × Bool) :=
  [(960, if dmStatEn w then dmStat w % 16 ≠ 0 else dmStat w ≠ 0), (1008, fld w 1023 1008 ≠ 0)]

/-- A field that must be zero. -/
def zeroFld (w hi lo : Nat) : List (Nat × Bool) := [(lo, fld w hi lo ≠ 0)]

/-- Every field of the first table of R266, from the lowest bit up, with the bits between them. -/
def dmFields : List (Nat × Nat) :=
  [(8, 8), (11, 9), (12, 12), (13, 13), (14, 14), (15, 15), (23, 16), (33, 24), (39, 34), (63, 40), (79, 64), (95, 80), (143, 96), (160, 144),
   (959, 161), (1007, 960), (1023, 1008)]

/-- Each field of that table that lies from bit `lo` to bit `hi` must be zero. -/
def unusedFlds (w hi lo : Nat) : List (Nat × Bool) :=
  (dmFields.filter fun f => lo ≤ f.2 && f.1 ≤ hi).map fun f => (f.2, fld w f.1 f.2 ≠ 0)

/-- The fields of ATOMIC as R139 lays them out. -/
def atFields (w : Nat) : List (Nat × Bool) :=
  [(64, 4 < atOp w), (67, atomicLane (atOp w) = 8 && 15 < atLanes w), (76, fld w 79 76 ≠ 0), (80, atAddr w % 32 ≠ 0),
   (128, if atReturn w then atRet w % 32 ≠ 0 else atRet w ≠ 0)]

/-- The fields of SIGNAL before and after those of its target. -/
def sigHead (w : Nat) : List (Nat × Bool) := [(8, dmVol w), (9, dmScope w ≠ 0), (12, dmSigEn w), (15, dmStatEn w)]
def sigTail (w : Nat) : List (Nat × Bool) := (64, dmAmount w = 0) :: unusedFlds w 1023 80

/-- SCOPE of a command that may carry one. -/
def scopeFld (w : Nat) (used : Bool) : List (Nat × Bool) := [(9, if used then 4 < dmScope w else dmScope w ≠ 0)]

/-- The failing field of a DMA command (R266, R267). -/
def dmaCheck (w : Nat) : Option Nat :=
  let op := fld w 7 0
  let head : List (Nat × Bool) := scopeFld w (op = 4 || op = 5)
    ++ sigFields w (dmSigEn w) ++ sigFields2 w (dmSigEn w)
  let fields : List (Nat × Bool) :=
    if op = 0x00 then unusedFlds w 1023 8
    else if op = 0x01 then head ++ unusedFlds w 959 96 ++ statFields w
    else if op = 0x02 ∨ op = 0x03 ∨ op = 0x04 then head ++ zeroFld w 959 161 ++ statFields w
    else if op = 0x05 then
      head ++ atFields w ++ zeroFld w 959 432 ++ statFields w
    else if op = 0x06 then
      unusedFlds w 63 8 ++ [(64, badTarget (dmWtKind w) (dmWtTarget w)), (81, fld w 95 81 ≠ 0)] ++ zeroFld w 959 113 ++ unusedFlds w 1023 960
    else if op = 0x07 then
      sigHead w ++ sigFields2 w true ++ sigTail w
    else if op = 0x08 then [(8, dmVol w), (9, 4 < dmScope w)] ++ unusedFlds w 1023 12
    else [(0, true)]
  firstBad fields

/-! ### The head of a queue (R267) -/

/-- The unit key of an engine. -/
abbrev dU (e : Nat) : UnitKey := 0x4000 + e

/-- The engine's page takes commands. -/
def Dev.dmaRuns (d : Dev) (e : Nat) : Bool :=
  d.dom 110 = dsOn && d.clockOn (110 + e / 32) && (d.st (pDmac e) = stReady || d.st (pDmac e) = stActive) && !d.quiesce (pDmac e)

/-- The queue may serve a command: nothing of it runs, and its job is eligible. -/
def Dev.dmaOpen (d : Dev) (e q : Nat) : Bool :=
  d.dmaRuns e && d.qBound (dU e) q && d.qMark (dU e) q = 0 && (d.qFence (dU e) q).isNone && !d.dmaBusy e q
    && d.eligible (dU e) (d.qJob (dU e) q)

/-- The signal of a command goes to a flag of this device. -/
def Dev.sigLocal (d : Dev) (w : Nat) : Bool := !dmSigRemote w || dmSigDev w = d.devnum

/-- Owner of a flag target. -/
def Dev.targetOwner (d : Dev) (stack : Bool) (t : Nat) : Nat := if stack then d.owner (pStk t 1) else d.owner (pClu t)

/-- The local target of a command that the partition does not own. -/
def Dev.sigForeign (d : Dev) (p w : Nat) : Option Nat :=
  let op := fld w 7 0
  if op = 6 then (if d.targetOwner (dmWtKind w) (dmWtTarget w) = p then none else some (dmWtTarget w))
  else if (op = 7 || (1 ≤ op && op ≤ 5 && dmSigEn w)) && d.sigLocal w then
    (if d.targetOwner (dmSigKind w) (dmSigTarget w) = p then none else some (dmSigTarget w))
  else none

/-- Serve queue `q` of engine `e`: a bad head faults its job; a head of opcode `op` is executed by `f` on the word, the job and the partition. -/
def Dev.dmaServe (d : Dev) (e q op : Nat) (f : Dev → Nat → Nat → Nat → Dev) : Dev :=
  if !d.dmaOpen e q then d
  else match d.qHead (dU e) q with
  | none => d
  | some w =>
    let j := d.qJob (dU e) q
    let p := (d.job j).ptn
    if d.queueBad (dU e) q then d.sramFault (.queue (dU e) q) (dU e) q j else
    match dmaCheck w with
    | some b => d.cmdInvalid (dU e) q w b
    | none =>
      match d.sigForeign p w with
      | some t => d.jobFault (dU e) q j 0x500D (q % 8 + t * 65536)
      | none => if fld w 7 0 = op then f d w j p else d

/-- NOP (R266). -/
def execDmaNop (e : Fin 256) (q : Fin 2) (s : State) : Out := s.upd fun d =>
  d.dmaServe e q 0x00 fun d _ _ _ => d.qPop (dU e) q 1

/-- Add to a flag of this device. -/
def Dev.signalLocal (d : Dev) (stack : Bool) (t f amount : Nat) : Dev :=
  if stack then d.signalStk t f amount else d.signalClu t f amount

/-- SIGNAL (R267): to a flag of this device, or by a FLAG_ADD frame. -/
def execDmaSignal (e : Fin 256) (q : Fin 2) (s : State) : Out := s.upd fun d =>
  d.dmaServe e q 0x07 fun d w j p =>
    let d := d.qPop (dU e) q 1
    if d.sigLocal w then d.signalLocal (dmSigKind w) (dmSigTarget w) (dmSigFlag w) (dmAmount w)
    else
      let (o, d) := d.flagOp (dmSigDev w) j (d.linkDomain p) (dmSigKind w) (dmSigTarget w) (dmSigFlag w) (dmAmount w)
      d.sendOp o

/-- Page of the flags that a WAIT names. -/
def dmWtPage (w : Nat) : Page := if dmWtKind w then pStk (dmWtTarget w) 1 else pClu (dmWtTarget w)

/-- WAIT (R267; 04, R76, R77). -/
def execDmaWait (e : Fin 256) (q : Fin 2) (s : State) : Out := s.upd fun d =>
  d.dmaServe e q 0x06 fun d w _ _ =>
    if dmWtThreshold w ≤ d.flag (dmWtPage w) (dmWtFlag w) then
      let d := d.qPop (dU e) q 1
      if dmWtConsume w then d.subFlag (dmWtPage w) (dmWtFlag w) (dmWtThreshold w) else d
    else d

/-- DMA_WAIT_TIMEOUT (R267, 04 R77). -/
def execDmaWaitTimeout (e : Fin 256) (q : Fin 2) (s : State) : Out := s.upd fun d =>
  match d.qHead (dU e) q, d.qWaiting (dU e) q with
  | some w, some (at_, lim) =>
    let c := d.flag (dmWtPage w) (dmWtFlag w)
    if fld w 7 0 = 0x06 && c < dmWtThreshold w && at_ + lim ≤ d.ao then
      d.jobFault (dU e) q (d.qJob (dU e) q) 0x5001 (dmWtFlag w + q.val * 256 + c * 65536)
    else d
  | _, _ => d

/-- FENCE (12, R247): it issues and holds its queue until FENCE_COMPLETE. -/
def execDmaFence (e : Fin 256) (q : Fin 2) (s : State) : Out := s.upd fun d =>
  d.dmaServe e q 0x08 fun d w _ _ => (d.setFence (dU e) q (some (dmScope w))).qPop (dU e) q 1

/-! ### Issue of a transfer (06, R102, R107, R111, R112) -/

/-- The engine reads a descriptor entry or an allocation record, at the point of coherence (R107). -/
def Dev.dmaRead (d : Dev) (e p j pva n : Nat) : Dev × Fetch := d.fetch (some (dU e)) none (agPlain p (some j)) p pva n true

/-- What reading a descriptor at issue gives. -/
inductive DescRes where
  | wait
  | fault (x : XFault)
  | bad
  | ok (x : Desc)

/-- Bytes of a fetch, whatever mark they bear. -/
def Fetch.bytes? : Fetch → Option (List Byte)
  | .ok bs => some bs
  | .marked _ bs => some bs
  | _ => none

/-- Read and check one descriptor entry at issue (R107). -/
def Dev.descAtIssue (d : Dev) (e p j h : Nat) : Dev × DescRes :=
  match d.dmaRead e p j (d.descPva p h) 128 with
  | (d, .fault x) => (d, .fault x)
  | (d, .wait) => (d, .wait)
  | (d, r) =>
    let x := leNat (r.bytes?.getD [])
    if !dsValid x then (d, .bad)
    else match d.dmaRead e p j (d.allocPva p (dsAlloc x)) 16 with
      | (d, .fault y) => (d, .fault y)
      | (d, .wait) => (d, .wait)
      | (d, r) =>
        let a := leNat (r.bytes?.getD [])
        if !alValid a || alGen a ≠ dsGen x then (d, .bad) else (d, .ok x)

/-- Elements of a unit for a destination (R268). -/
def unitElems (dst : Desc) : Nat := 32768 / dsW dst

/-- Elements that a command moves. -/
def xferElems (w : Nat) (dst : Desc) : Nat := if fld w 7 0 = 1 then dsCount dst else dmEntries w * dsBlockElems dst

/-- The listed and the ordered descriptor of a list operation (R112). -/
def listedOf (w : Nat) (src dst : Desc) : Desc := if fld w 7 0 = 2 then src else dst
def orderedOf (w : Nat) (src dst : Desc) : Desc := if fld w 7 0 = 2 then dst else src

/-- The issue checks on two good descriptors: code and FAULT_INFO of the first that fails. -/
def issueCheck (w : Nat) (src dst : Desc) : Option (Nat × Nat) :=
  let op := fld w 7 0
  let hl := if op = 2 then dmSrc w else dmDst w
  let ho := if op = 2 then dmDst w else dmSrc w
  if dsFormat src ≠ dsFormat dst || !dsWrite dst || (op = 4 && dsAdd dst = 0) then some (cDescFormat, dmDst w)
  else if op = 1 then none
  else if dmEntries w = 0 || 65536 < dmEntries w || dmList w % 4 ≠ 0 then some (cListFormat, dmEntries w)
  else if !dsHasBlock (listedOf w src dst) then some (cDescBlock, hl)
  else if dsBlockElems src ≠ dsBlockElems dst then some (cDescBlock, dmDst w)
  else if dsBlocks (orderedOf w src dst) < dmEntries w then some (cDescBlock, ho)
  else none

/-- A transfer begins. -/
def Dev.startXfer (d : Dev) (e q w j p : Nat) (src dst : List Byte) (total : Nat) : Dev :=
  let d := (d.qDrop (dU e) q 1).setReg (pDmac e) (dslot e + 0x28 + 4 * q) 0
  d.modDma e fun x =>
    { x with xfers := tput x.xfers q {
        cmd := BitVec.ofNat 1024 w, job := j, ptn := p, src := src, dst := dst, total := total
        next := 0, flight := [], done := 0, zeroed := 0, code := 0, info := 0, stop := 0, saved := false, hold := none } }

/-- COPY, GATHER, SCATTER and SCATTER_ADD issue: descriptors are read and checked once, then the transfer begins. -/
def Dev.issueMove (d : Dev) (e q w j p : Nat) : Dev :=
  match d.descAtIssue e p j (dmSrc w) with
  | (d, .wait) => d
  | (d, .fault x) => d.jobFault (dU e) q j x.code (xInfo x q false 0 e)
  | (d, .bad) => d.jobFault (dU e) q j cDescInvalid (dmSrc w)
  | (d, .ok src) =>
    match d.descAtIssue e p j (dmDst w) with
    | (d, .wait) => d
    | (d, .fault x) => d.jobFault (dU e) q j x.code (xInfo x q false 0 e)
    | (d, .bad) => d.jobFault (dU e) q j cDescInvalid (dmDst w)
    | (d, .ok dst) =>
      match issueCheck w src dst with
      | some (c, i) => d.jobFault (dU e) q j c i
      | none => d.startXfer e q w j p (leBytes 128 src) (leBytes 128 dst) (ceilDiv (xferElems w dst) (unitElems dst))

/-- COPY (R268). -/
def execDmaCopy (e : Fin 256) (q : Fin 2) (s : State) : Out := s.upd fun d =>
  d.dmaServe e q 0x01 fun d w j p => d.issueMove e q w j p

/-- GATHER (06, R112). -/
def execGather (e : Fin 256) (q : Fin 2) (s : State) : Out := s.upd fun d =>
  d.dmaServe e q 0x02 fun d w j p => d.issueMove e q w j p

/-- SCATTER (06, R112). -/
def execScatter (e : Fin 256) (q : Fin 2) (s : State) : Out := s.upd fun d =>
  d.dmaServe e q 0x03 fun d w j p => d.issueMove e q w j p

/-- SCATTER_ADD (06, R112–R114). -/
def execScatterAdd (e : Fin 256) (q : Fin 2) (s : State) : Out := s.upd fun d =>
  d.dmaServe e q 0x04 fun d w j p => d.issueMove e q w j p

/-- ATOMIC (12, R250): one unit. -/
def execDmaAtomic (e : Fin 256) (q : Fin 2) (s : State) : Out := s.upd fun d =>
  d.dmaServe e q 0x05 fun d w j p => d.startXfer e q w j p (List.replicate 128 0) (List.replicate 128 0) 1

/-! ### The elements of a unit (06, R103, R104, R111–R116) -/

/-- Byte address and bit of an element. -/
def elBit (x : Desc) (o : Int) : Int := 8 * (dsBase x : Int) + dsW x * o
def elByte (x : Desc) (o : Int) : Nat := (elBit x o / 8).toNat
/-- Bytes that an element touches. -/
def elSpan (x : Desc) (o : Int) : Nat := ((elBit x o + dsW x - 1) / 8 - elBit x o / 8 + 1).toNat
/-- The scale byte of the block that an element stands in. -/
def scByte (x : Desc) (o : Int) : Nat := ((dsScale x : Int) + o / 32).toNat

/-- A list entry's coordinates (R111). -/
def entryCoords (dims : Nat) (bs : List Byte) : List Int := (List.range dims).map fun k => signed 32 (numAt bs (4 * k) 4)

/-- The first dimension in which an entry is out of range (R111). -/
def entryBad (x : Desc) (co : List Int) : Option Nat :=
  (dsDimList x).find? fun k => let v := (co[k]?).getD 0; v < 0 || (dsNb x k : Int) ≤ v

/-- What the entries of a unit say: coordinates by entry, none for a substituted one; the entry that ends the transfer, with its dimension. -/
structure UnitList where
  coords : List (Nat × Option (List Nat))
  stop : Option (Nat × Nat)

/-- Check the entries of a unit in order (R116). -/
def checkEntries (x : Desc) (bytes : Nat → List Byte) : List Nat → UnitList
  | [] => ⟨[], none⟩
  | j :: t =>
    let c := entryCoords (dsDims x) (bytes j)
    match entryBad x c with
    | some k =>
      if dsPolicy x then
        let r := checkEntries x bytes t
        ⟨(j, none) :: r.coords, r.stop⟩
      else ⟨[], some (j, k)⟩
    | none =>
      let r := checkEntries x bytes t
      ⟨(j, some (c.map Int.toNat)) :: r.coords, r.stop⟩

/-- Coordinates of entry `j`: none where the entry is not reached, some none where it is substituted. -/
def UnitList.at_ (u : UnitList) (j : Nat) : Option (Option (List Nat)) := (u.coords.find? fun e => e.1 = j).map Prod.snd

/-- The fetches of the entries of a gather unit (R115): each entry with its fetch, and what stands last. A fetch serves at most 64 consecutive equal entries; `part`: the first entry begins before the unit and nothing of it is kept, so its fetch serves no other. -/
def gatherFetches (part : Bool) : Option LastEntry → List (Nat × Option (List Nat)) → List (Nat × Nat) × Option LastEntry
  | l, [] => ([], l)
  | l, (j, none) :: t =>
    let r := gatherFetches false none t
    ((j, j) :: r.1, if t.isEmpty then (match l with | some x => if x.entry = j then l else none | none => none) else r.2)
  | l, (j, some co) :: t =>
    let x : LastEntry := match l with
      | some x =>
        if x.entry = j then x
        else if x.entry + 1 = j && x.co = co && x.served < 64 then { x with entry := j, served := x.served + 1 }
        else ⟨j, co, j, 1⟩
      | none => ⟨j, co, j, if part then 64 else 1⟩
    let r := gatherFetches false (some x) t
    ((j, x.fetch) :: r.1, r.2)

/-- The element at position `t` of a list operation; none where it has no effect. `fs` are the fetches of a gather. -/
def listElem (w : Nat) (src dst : Desc) (u : UnitList) (fs : List (Nat × Nat)) (t : Nat) : Option ElOp :=
  let b := dsBlockElems dst
  let j := t / b
  let r := t % b
  match u.at_ j with
  | none => none
  | some none => if fld w 7 0 = 2 then some ⟨dsAtBlock dst (dsBlockCoord dst j) r, .zero, j, false⟩ else none
  | some (some co) =>
    if fld w 7 0 = 2 then
      let f := ((fs.find? fun x => x.1 = j).map Prod.snd).getD j
      some ⟨dsAtBlock dst (dsBlockCoord dst j) r, .elem (dsAtBlock src co r), f, f = j⟩
    else some ⟨dsAtBlock dst co r, .elem (dsAtBlock src (dsBlockCoord src j) r), 0, true⟩

/-- Positions of unit `k`. -/
def unitPos (w : Nat) (dst : Desc) (k : Nat) : List Nat :=
  let n := unitElems dst
  ((List.range n).map (· + k * n)).filter (· < xferElems w dst)

/-- Entries that unit `k` touches. -/
def unitEntries (w : Nat) (dst : Desc) (k : Nat) : List Nat :=
  if fld w 7 0 = 1 then [] else ((unitPos w dst k).map (· / dsBlockElems dst)).eraseDups

/-- The elements of unit `k`. -/
def unitOps (w : Nat) (src dst : Desc) (u : UnitList) (fs : List (Nat × Nat)) (k : Nat) : List ElOp :=
  (unitPos w dst k).filterMap fun t =>
    if fld w 7 0 = 1 then some ⟨dsAt dst t, if t < dsCount src then .elem (dsAt src t) else .absent, 0, true⟩
    else listElem w src dst u fs t

/-- Ranges in the order of touch, neighbours joined. -/
def joinRuns (l : List Range) : List Range :=
  (l.foldl (fun (acc : List Range) r =>
    match acc with
    | (a, n) :: t => if a ≤ r.1 && r.1 ≤ a + n then (a, max n (r.1 + r.2 - a)) :: t else r :: (a, n) :: t
    | [] => [r]) []).reverse

/-- An element is the first of its MX block, so its scale travels with it (R104, R268). -/
def hasScale (dst : Desc) (o : ElOp) : Bool := dsMx dst && o.dst % 32 = 0

/-- Ranges that a unit reads from its source, and writes in its destination. -/
def srcRuns (src dst : Desc) (ops : List ElOp) : List Range :=
  joinRuns (ops.filterMap fun o => match o.src with | .elem x => some (elByte src x, elSpan src x) | _ => none)
  ++ joinRuns (ops.filterMap fun o => match o.src with
    | .elem x => if hasScale dst o then some (scByte src x, 1) else none
    | _ => none)
def dstRuns (dst : Desc) (ops : List ElOp) : List Range :=
  joinRuns (ops.map fun o => (elByte dst o.dst, elSpan dst o.dst))
  ++ joinRuns (ops.filterMap fun o => if hasScale dst o then some (scByte dst o.dst, 1) else none)

/-- First addresses of the 64 KiB pages that ranges touch, in the order of touch. -/
def touchPages (l : List Range) : List Nat :=
  (l.foldl (fun (acc : List Nat) r =>
    if r.2 = 0 then acc else
    (List.range ((r.1 + r.2 - 1) / 65536 + 1 - r.1 / 65536)).foldl (fun acc i =>
      let pg := r.1 / 65536 + i
      if acc.any fun a => a / 65536 = pg then acc else acc ++ [max r.1 (pg * 65536)]) acc) [])

/-- What the fetches of a unit read: each fetch with its ranges. -/
def fetchRuns (src dst : Desc) (ops : List ElOp) : List (Nat × Range) :=
  let mine := ops.filter ElOp.fresh
  ((mine.map ElOp.fetch).eraseDups).flatMap fun f => (srcRuns src dst (mine.filter fun o => o.fetch = f)).map fun r => (f, r)

/-- Translate pages for reading or writing; each translation is kept as a segment of its whole page. -/
def Dev.xlPages (d : Dev) (e p : Nat) (write : Bool) : List Nat → Dev × Except XFault (List Seg)
  | [] => (d, .ok [])
  | a :: t =>
    match d.xlate (some (dU e)) p a write with
    | (d, .error x) => (d, .error x)
    | (d, .ok x) =>
      match Dev.xlPages d e p write t with
      | (d, .error y) => (d, .error y)
      | (d, .ok l) => (d, .ok (⟨x.dpa - a % 65536, 65536, x.remote, x.dev, a / 65536 * 65536, x.leaf, x.level⟩ :: l))

/-- Where a PVA lies by the translations of a unit. -/
def segAt (l : List Seg) (a : Nat) : Option Seg :=
  (l.find? fun s => s.pva = a / 65536 * 65536).map fun s => { s with dpa := s.dpa + (a - s.pva), pva := a, len := s.len - (a - s.pva) }

/-- Cut a range at 64 KiB pages and, inside them, at units of 64 bytes. -/
def cutRange : Nat → Nat → Nat → List Range
  | 0, _, _ => []
  | f + 1, a, n => if n = 0 then [] else
    let k := min n (64 - a % 64)
    (a, k) :: cutRange f (a + k) (n - k)

/-- Bytes of one piece of at most 64 bytes, with marks: local memory through the die's lines or at the point of coherence, or what another device has returned. -/
def Dev.readPiece (d : Dev) (die : Nat) (p j : Nat) (vol : Bool) (rd : List Seg) (got : List (Nat × List Byte × Bool)) (r : Range) :
    Dev × List RByte :=
  match segAt rd r.1 with
  | none => (d, List.replicate r.2 (0, none))
  | some s =>
    if s.remote then
      (d, (List.range r.2).map fun i =>
        let a := r.1 + i
        match got.find? fun g => g.1 ≤ a && a < g.1 + g.2.1.length with
        | some g => ((g.2.1[a - g.1]?).getD 0, if g.2.2 then some a else none)
        | none => (0, none))
    else
      let (d, bs, m) := d.cachedRead die p (agPlain p (some j)) s.dpa r.2 vol
      let byCode := match loc s.dpa with | .buf _ _ => true | _ => false
      (d, (List.range r.2).map fun i =>
        let a := s.dpa + i
        ((bs[i]?).getD 0, if m && (!byCode || d.marks.contains (unitBase a)) then some (unitBase a) else none))

/-- Read what the fetches of a unit read. -/
def Dev.readRuns (d : Dev) (die p j : Nat) (vol : Bool) (rd : List Seg) (got : List (Nat × List Byte × Bool)) :
    List (Nat × Range) → Dev × List RRun
  | [] => (d, [])
  | (f, a, n) :: t =>
    let (d, bs) := (cutRange (n + 1) a n).foldl (fun (acc : Dev × List RByte) r =>
      let (d, l) := acc
      let (d, x) := d.readPiece die p j vol rd got r
      (d, l ++ x)) (d, [])
    let (d, rest) := Dev.readRuns d die p j vol rd got t
    (d, (f, a, bs) :: rest)

/-- A byte of what fetch `f` has read. -/
def runByte (l : List RRun) (f a : Nat) : RByte :=
  match l.find? fun r => r.1 = f && r.2.1 ≤ a && a < r.2.1 + r.2.2.length with
  | some r => (r.2.2[a - r.2.1]?).getD (0, none)
  | none => (0, none)

/-- The bits of the element at offset `o` of what fetch `f` has read, and its mark. -/
def elValue (x : Desc) (l : List RRun) (f : Nat) (o : Int) : Nat × Option Nat :=
  let bs := (List.range (elSpan x o)).map fun i => runByte l f (elByte x o + i)
  (leNat (bs.map Prod.fst) / 2 ^ ((elBit x o % 8).toNat) % 2 ^ dsW x, (bs.find? fun b => b.2.isSome).bind Prod.snd)

/-! ### Writes of a unit -/

/-- A write of bits: first bit (8 × PVA), how many, their value, the byte addresses of marked source. -/
structure BitRun where
  bit : Nat
  n : Nat
  v : Nat
  marks : List Range

/-- Join writes of neighbouring bits, in the order of writing. -/
def joinBits (l : List BitRun) : List BitRun :=
  (l.foldl (fun (acc : List BitRun) r =>
    match acc with
    | b :: t => if b.bit + b.n = r.bit then ⟨b.bit, b.n + r.n, b.v + r.v * 2 ^ b.n, b.marks ++ r.marks⟩ :: t else r :: b :: t
    | [] => [r]) []).reverse

/-- The writes of a unit (R109: in traversal order). Elements that the source does not have take free values. -/
def Dev.unitBits (d : Dev) (src dst : Desc) (ops : List ElOp) (l : List RRun) : Dev × List BitRun :=
  let (d, a, b) := ops.foldl (fun (acc : Dev × List BitRun × List BitRun) o =>
    let (d, els, scs) := acc
    let (v, m, sc, d) := match o.src with
      | .elem x =>
        let (v, m) := elValue src l o.fetch x
        (v, m.isSome, runByte l o.fetch (scByte src x), d)
      | .zero => (0, false, ((0 : Byte), none), d)
      | .absent =>
        let (x, d) := d.takeFree
        (x % 2 ^ dsW dst, false, (BitVec.ofNat 8 (x / 2 ^ dsW dst), none), d)
    let e : BitRun := ⟨(elBit dst o.dst).toNat, dsW dst, v, if m then [(elByte dst o.dst, elSpan dst o.dst)] else []⟩
    let s : List BitRun := if hasScale dst o then
        [⟨8 * scByte dst o.dst, 8, sc.1.toNat, if sc.2.isSome then [(scByte dst o.dst, 1)] else []⟩] else []
    (d, els ++ [e], scs ++ s)) (d, [], [])
  (d, joinBits a ++ joinBits b)

/-- The bytes of another device that a unit covers in part (R102). -/
def farEdges (dst : Desc) (wr : List Seg) (ops : List ElOp) : List Nat :=
  let runs := joinBits (ops.map fun o => ⟨(elBit dst o.dst).toNat, dsW dst, 0, []⟩)
  ((runs.flatMap fun r => (if r.bit % 8 = 0 then [] else [r.bit / 8]) ++ (if (r.bit + r.n) % 8 = 0 then [] else [(r.bit + r.n) / 8])).eraseDups).filter fun a =>
    match segAt wr a with | some s => s.remote | none => false

/-- What writing has done: the device, frames sent and their targets, a denied write; the bytes of other devices that it may have to complete: those that this transfer has written a part of, and those that have been read. -/
structure UnitWrite where
  d : Dev
  ids : List (Nat × Nat)
  denied : Bool
  edges : List (Nat × Nat)
  got : List (Nat × List Byte × Bool)

/-- A byte of another device before a part of it is written. -/
def UnitWrite.farOld (u : UnitWrite) (a : Nat) : Nat :=
  match u.edges.find? fun e => e.1 = a with
  | some e => e.2
  | none =>
    match u.got.find? fun g => g.1 ≤ a && a < g.1 + g.2.1.length with
    | some g => ((g.2.1[a - g.1]?).getD 0).toNat
    | none => 0

/-- Write one piece of at most 64 bytes of local memory. -/
def UnitWrite.piece (u : UnitWrite) (die p j : Nat) (wr : List Seg) (a : Nat) (bs : List Byte) (marked : Bool) : UnitWrite :=
  match segAt wr a with
  | none => u
  | some s =>
    let (d, x) := u.d.cachedWrite die p (agPlain p (some j)) s.dpa bs marked
    { u with d := d, denied := u.denied || x }

/-- Write the bytes of one run: whole bytes, the partial ones at its ends completed from what stands there. -/
def UnitWrite.run (u : UnitWrite) (die p j : Nat) (wr : List Seg) (r : BitRun) : UnitWrite :=
  let a := r.bit / 8
  let n := (r.bit + r.n + 7) / 8 - a
  let old (x : Nat) : Nat := match segAt wr x with
    | some s => if s.remote then u.farOld x else leNat (u.d.readMem (agPlain p (some j)) s.dpa 1)
    | none => 0
  let lo := r.bit % 8
  let hi := (8 - (r.bit + r.n) % 8) % 8
  let v := r.v * 2 ^ lo + old a % 2 ^ lo + (if hi = 0 then 0 else old (a + n - 1) / 2 ^ (8 - hi) * 2 ^ (8 * n - hi))
  let bs := leBytes n v
  let part := (if lo = 0 then [] else [(a, v % 256)]) ++ (if hi = 0 then [] else [(a + n - 1, v / 2 ^ (8 * (n - 1)) % 256)])
  let u := if part.isEmpty then u else { u with edges := part ++ u.edges.filter fun e => !part.any fun x => x.1 = e.1 }
  let mkd (x k : Nat) : Bool := r.marks.any fun m => m.1 < x + k && x < m.1 + m.2
  (cutRange (n + 1) a n).foldl (fun u c =>
    match segAt wr c.1 with
    | none => u
    | some s =>
      let x := bytesAt bs (c.1 - a) c.2
      if s.remote then
        let (id, d) := u.d.sendWrite1 s.dev j (u.d.linkDomain p) s.dpa x [mkd c.1 c.2]
        { u with d := d, ids := u.ids ++ [(id, s.dev)] }
      else match loc s.dpa with
        | .buf _ _ => (List.range (ceilDiv (c.1 % 8 + c.2) 8)).foldl (fun u i =>
            let y := max c.1 ((c.1 / 8 + i) * 8)
            let z := min (c.1 + c.2) ((c.1 / 8 + i + 1) * 8)
            u.piece die p j wr y (bytesAt bs (y - a) (z - y)) (mkd y (z - y))) u
        | _ => u.piece die p j wr c.1 x (mkd c.1 c.2)) u

/-! ### Atomics of a compute DMA engine (12, R250, R251; 06, R114) -/

/-- What one atomic did. -/
inductive DmaAtom where
  | poison (dpa : Nat)
  | denied
  | done (old : List Byte) (marked : Bool)
  | sent (id : Nat) (tag : Option Nat)

/-- The lanes of an atomic in a line of the die: bytes of the lanes not selected stay (R241, R251). -/
def Dev.lineLanes (d : Dev) (die p a op lanes : Nat) (new : List Byte) : Dev :=
  let k := atomicLane op
  { d with lines := d.lines.map fun l =>
      if l.die = die ∧ l.ptn = p ∧ l.burst = a / 64 then
        (List.range (32 / k)).foldl (fun l i =>
          if bitOf lanes i then d.lineWrite l (a + k * i) (bytesAt new (k * i) k) (d.markedAt (a / 64 * 64) 64) else l) l
      else l }

/-- One atomic on the aligned 32 bytes at a translated place: on the line of the die where scope and line say so, at the point of coherence, or on another device. -/
def Dev.dmaAtom (d : Dev) (e p j scope : Nat) (s : Seg) (op lanes : Nat) (operand : List Byte) (ret : Option ReqFor) : Dev × DmaAtom :=
  if s.remote then
    let (tag, id, d) := d.sendAtomic s.dev j (d.linkDomain p) s.dpa op lanes scope operand ret
    (d, .sent id tag)
  else
    let die := dieOf (dU e)
    let ag := agPlain p (some j)
    let d := d.shedBad die p (s.dpa / 64)
    let line := match loc s.dpa with | .stack _ _ => d.line? die p (s.dpa / 64) | _ => none
    match (if scope ≤ 2 && !d.segSealed ag { s with len := 32 } then line else none) with
    | some l =>
      let o := s.dpa % 64
      let old := bytesAt (d.lineView ag l) o 32
      if l.marked && atomicAdds op then (d, .poison (s.dpa / 64 * 64))
      else (d.setLine { d.lineWrite l s.dpa (atomicWord op lanes old operand) l.marked with dirty := true }, .done old l.marked)
    | none =>
      match d.atomicAt ag s.dpa op lanes operand with
      | (d, .poison a) => (d, .poison a)
      | (d, .denied) => (d, .denied)
      | (d, .done old m) => (d.lineLanes die p s.dpa op lanes (atomicWord op lanes old operand), .done old m)

/-- Operation, lanes and operand of the atomic that adds `v` (of `n` bytes) to the element at byte address `a` (R114). -/
def addOp (addType : Nat) : Nat := if addType = 1 then 0 else if addType = 2 then 1 else 2

/-- The elements of a SCATTER_ADD as atomics: byte address, lanes, operand, source mark. I64 takes elements 2m and 2m + 1 together; a half that stands alone is added with zero in the other half. `half` is an even element whose odd one has not come yet. -/
def addAtoms (src dst : Desc) (l : List RRun) : Option ElOp → List ElOp → List (Nat × Nat × List Byte × Option Nat)
  | none, [] => []
  | some o, [] => [addHalf src dst l o]
  | none, o :: t =>
    if dsAdd dst ≠ 3 then
      let a := elByte dst o.dst
      let (v, m) := addVal src l o
      (a, 2 ^ (a % 32 / 4), List.replicate (a % 32) 0 ++ leBytes 4 v, m) :: addAtoms src dst l none t
    else if o.dst % 2 = 0 then addAtoms src dst l (some o) t
    else addHalf src dst l o :: addAtoms src dst l none t
  | some h, o :: t =>
    if o.dst = h.dst + 1 then
      let a := elByte dst h.dst
      let (v, m) := addVal src l h
      let (v2, m2) := addVal src l o
      (a, 2 ^ (a % 32 / 8), List.replicate (a % 32) 0 ++ leBytes 8 (v + v2 * 2 ^ 32), if m.isSome then m else m2) :: addAtoms src dst l none t
    else
      addHalf src dst l h :: (if o.dst % 2 = 0 then addAtoms src dst l (some o) t else addHalf src dst l o :: addAtoms src dst l none t)
where
  /-- The value that an element adds, and its mark. -/
  addVal (src : Desc) (l : List RRun) (o : ElOp) : Nat × Option Nat :=
    match o.src with | .elem x => elValue src l o.fetch x | _ => (0, none)
  /-- One half of a 64-bit lane. -/
  addHalf (src dst : Desc) (l : List RRun) (o : ElOp) : Nat × Nat × List Byte × Option Nat :=
    let a := elByte dst o.dst / 8 * 8
    let (v, m) := addVal src l o
    (a, 2 ^ (a % 32 / 8), List.replicate (a % 32) 0 ++ leBytes 8 (v * 2 ^ (8 * (elByte dst o.dst % 8))), m)

/-! ### Performing a unit -/

/-- Record frames sent by a unit: they hold it until the replay buffer holds them, and the queue's fences until they are performed. -/
def Dev.noteSent (d : Dev) (e q k : Nat) (ids : List (Nat × Nat)) : Dev :=
  d.modDma e fun x =>
    { x with
      remote := x.remote ++ ids.map fun i => (q, i.1, i.2)
      xfers := tmap x.xfers fun n y => if n = q then
        { y with flight := y.flight.map fun u => if u.k = k then { u with posts := u.posts ++ ids.map Prod.fst } else u } else y }

/-- FAULT_INFO of SEAL_VIOLATION from a compute DMA unit (16, R352). -/
def dmaSealInfo (e q : Nat) : Nat := q % 8 + e * 65536

/-- Apply the atomics of a SCATTER_ADD unit one after another; a poisoned word or operand faults the job. -/
def Dev.addAll (e q k p j scope op : Nat) (wr : List Seg) : Dev → List (Nat × Nat × List Byte × Option Nat) → Dev
  | d, [] => d
  | d, (a, lanes, operand, m) :: t =>
    match m with
    | some dpa => d.poisonFault (dU e) q j dpa 2 none
    | none =>
      match segAt wr (a / 32 * 32) with
      | none => Dev.addAll e q k p j scope op wr d t
      | some s =>
        match d.dmaAtom e p j scope s op lanes (bytesAt operand 0 32) none with
        | (d, .poison dpa) => d.poisonFault (dU e) q j dpa 2 none
        | (d, .denied) => d.jobFault (dU e) q j 0x7001 (dmaSealInfo e q)
        | (d, .done _ _) => Dev.addAll e q k p j scope op wr d t
        | (d, .sent id _) => Dev.addAll e q k p j scope op wr (d.noteSent e q k [(id, s.dev)]) t

/-- The old word of an ATOMIC is written to RET (R139). -/
def Dev.putRet (d : Dev) (e q k p j : Nat) (wr : List Seg) (ret : Nat) (old : List Byte) (marked : Bool) : Dev :=
  let r := UnitWrite.run ⟨d, [], false, [], []⟩ (dieOf (dU e)) p j wr ⟨8 * ret, 256, leNat old, if marked then [(ret, 32)] else []⟩
  let d := r.d.noteSent e q k r.ids
  if r.denied then d.jobFault (dU e) q j 0x7001 (dmaSealInfo e q) else d

/-- What a unit leaves for those behind it: the bytes that its last fetch has read, and the bytes of other devices that it has written in part. -/
structure Carry where
  keep : List RRun
  edges : List (Nat × Nat)

/-- The effect of a unit whose data are all there. -/
def Dev.performUnit (d : Dev) (e q : Nat) (x : Xfer) (u : DUnit) : Dev × Carry :=
  let w := x.cmd.toNat
  let src := leNat x.src
  let dst := leNat x.dst
  let die := dieOf (dU e)
  let same : Carry := ⟨x.keep, x.edges⟩
  if fld w 7 0 = 5 then
    (match segAt u.rd (atAddr w) with
    | none => d
    | some s =>
      if s.remote then
        -- the old word of another device has come back
        match u.got.head? with
        | some (_, old, m) => d.putRet e q u.k x.ptn x.job u.wr (atRet w) old m
        | none => d
      else match d.dmaAtom e x.ptn x.job (dmScope w) s (atOp w) (atLanes w) (leBytes 32 (atOperand w)) none with
        | (d, .poison a) => d.poisonFault (dU e) q x.job a 2 none
        | (d, .denied) => d.jobFault (dU e) q x.job 0x7001 (dmaSealInfo e q)
        | (d, .done old m) => if atReturn w then d.putRet e q u.k x.ptn x.job u.wr (atRet w) old m else d
        | (d, .sent _ _) => d, same)
  else
    let (d, l) := d.readRuns die x.ptn x.job (dmVol w) u.rd u.got (fetchRuns src dst u.ops)
    let l := x.keep ++ l
    let keep := match u.ops.getLast? with
      | some o => if fld w 7 0 = 2 then l.filter fun r => r.1 = o.fetch else []
      | none => x.keep
    if fld w 7 0 = 4 then
      (Dev.addAll e q u.k x.ptn x.job (dmScope w) (addOp (dsAdd dst)) u.wr d (addAtoms src dst l none u.ops), same)
    else
      let (d, bits) := d.unitBits src dst u.ops l
      let r := bits.foldl (fun (a : UnitWrite) b => a.run die x.ptn x.job u.wr b) ⟨d, [], false, x.edges, u.got⟩
      let d := r.d.noteSent e q u.k r.ids
      (if r.denied then d.jobFault (dU e) q x.job 0x7001 (dmaSealInfo e q) else d, ⟨keep, r.edges.filter fun b => (match segAt u.wr b.1 with | some s => s.remote | none => true)⟩)

/-- Perform, in order, the units at the front of a transfer whose data are there; a unit that waits for another device holds those behind it, so that writes keep traversal order (R268). -/
def Dev.performReady : Nat → Dev → Nat → Nat → Dev
  | 0, d, _, _ => d
  | f + 1, d, e, q =>
    match tget? (d.dma e).xfers q with
    | none => d
    | some x =>
      match x.flight.find? fun u => !u.performed with
      | none => d
      | some u =>
        if !u.need.isEmpty then d
        else
          let d := d.modDma e fun m => { m with xfers := tput m.xfers q { x with flight := x.flight.map fun v => if v.k = u.k then { v with performed := true, ops := [], got := [] } else v } }
          let (d, c) := d.performUnit e q x u
          let d := d.modDma e fun m => { m with xfers := tmap m.xfers fun n y => if n = q then { y with keep := c.keep, edges := c.edges } else y }
          Dev.performReady f d e q

/-! ### Issue of a unit (R268, R273; 06, R116; 16, R342) -/

/-- The slot whose plaintext a read of the source byte at a PVA yields; 0 for none. -/
def Dev.plainSlot (d : Dev) (die p j : Nat) (vol : Bool) (rd : List Seg) (a : Nat) : Nat :=
  match segAt rd a with
  | none => 0
  | some s =>
    if s.remote then 0 else
    let slot := match (if vol then none else d.line? die p (s.dpa / 64)) with
      | some l => l.slot
      | none => d.slotAt s.dpa
    if (agPlain p (some j)).mayUnseal slot then slot else 0

/-- A place may take plaintext of a slot (R342). -/
def Dev.mayTakePlain (d : Dev) (j slot : Nat) (wr : List Seg) (a : Nat) : Bool :=
  match segAt wr a with
  | none => false
  | some s =>
    !s.remote && match loc s.dpa with
      | .stack _ _ => d.slotAt s.dpa = slot
      | .buf n off => 0xFC000 ≤ off && d.bit (pClu n) 0x400 12 && d.getF (pClu n) 0x400 11 0 = j
      | _ => false

/-- A unit would write plaintext of a sealed burst where R342 does not permit it. -/
def Dev.leaks (d : Dev) (e : Nat) (x : Xfer) (rd wr : List Seg) (ops : List ElOp) : Bool :=
  let w := x.cmd.toNat
  let slot (a : Nat) := d.plainSlot (dieOf (dU e)) x.ptn x.job (dmVol w) rd a
  if fld w 7 0 = 5 then
    atReturn w && (let s := slot (atAddr w); s ≠ 0 && !d.mayTakePlain x.job s wr (atRet w))
  else
    let src := leNat x.src
    let dst := leNat x.dst
    let bad (a b : Nat) : Bool := (let s := slot a; s ≠ 0 && !d.mayTakePlain x.job s wr b)
    ops.any fun o => match o.src with
      | .elem y => bad (elByte src y) (elByte dst o.dst) || (hasScale dst o && bad (scByte src y) (scByte dst o.dst))
      | _ => false

/-- FAULT_INFO of INDEX_RANGE from a compute DMA list (06, R117). -/
def indexInfo (j k : Nat) : Nat := j % 2 ^ 24 + k * 2 ^ 24 + 2 ^ 27

/-- The pages of a unit as far as its command names them: pages read and pages written. -/
def unitPages (x : Xfer) (ops : List ElOp) : List Nat × List Nat :=
  let w := x.cmd.toNat
  if fld w 7 0 = 5 then ([], touchPages ([(atAddr w, 32)] ++ (if atReturn w then [(atRet w, 32)] else [])))
  else (touchPages (srcRuns (leNat x.src) (leNat x.dst) ops), touchPages (dstRuns (leNat x.dst) ops))

/-- The READs and the ATOMIC that a unit sends, as soon as it issues (R256). -/
def Dev.sendReads (d : Dev) (e q k : Nat) (x : Xfer) (rd wr : List Seg) (ops : List ElOp) : Dev × List Nat × List (Nat × Nat) :=
  let w := x.cmd.toNat
  let dom := d.linkDomain x.ptn
  if fld w 7 0 = 5 then
    match segAt wr (atAddr w) with
    | some s =>
      if s.remote then
        match d.dmaAtom e x.ptn x.job (dmScope w) s (atOp w) (atLanes w) (leBytes 32 (atOperand w))
            (if atReturn w then some (.dma e q k (atAddr w)) else none) with
        | (d, .sent id tag) => (d, tag.toList, [(id, s.dev)])
        | (d, _) => (d, [], [])
      else (d, [], [])
    | none => (d, [], [])
  else
    let edges := ((farEdges (leNat x.dst) wr ops).filter fun a => fld w 7 0 ≠ 4 && !x.edges.any fun b => b.1 = a)
    let (d, tags) := edges.foldl (fun (acc : Dev × List Nat) a =>
      match segAt wr a with
      | some s =>
        let (tag, d) := acc.1.sendRead s.dev x.job dom s.dpa 1 (.dma e q k a)
        (d, acc.2 ++ [tag])
      | none => acc) (d, [])
    ((fetchRuns (leNat x.src) (leNat x.dst) ops).map Prod.snd).foldl (fun (acc : Dev × List Nat × List (Nat × Nat)) r =>
      (List.range ((r.1 + r.2 - 1) / 4096 + 1 - r.1 / 4096)).foldl (fun (acc : Dev × List Nat × List (Nat × Nat)) i =>
        let (d, tags, ids) := acc
        let a := max r.1 ((r.1 / 4096 + i) * 4096)
        let b := min (r.1 + r.2) ((r.1 / 4096 + i + 1) * 4096)
        match segAt rd a with
        | some s =>
          if s.remote then
            let (tag, d) := d.sendRead s.dev x.job dom s.dpa (b - a) (.dma e q k a)
            (d, tags ++ [tag], ids)
          else (d, tags, ids)
        | none => (d, tags, ids)) acc) (d, tags, [])

/-- Writes to other devices of a queue that its fences wait for (12, R247, R256). -/
def Dev.noteRemote (d : Dev) (e q : Nat) (ids : List (Nat × Nat)) : Dev :=
  if ids.isEmpty then d else d.modDma e fun m => { m with remote := m.remote ++ ids.map fun i => (q, i.1, i.2) }

/-- PVA of a save slot of an engine (R269). -/
def Dev.dmaSave (d : Dev) (e q : Nat) : Nat := d.pair (pDmac e) (dslot e + 0x20) (dslot e + 0x24) % 2 ^ 48 + 512 * q

/-- The saved-progress record (R269). -/
def progressRecord (x : Xfer) : List Byte :=
  let b := leBytes 128 x.cmd.toNat ++ bytesAt x.src 0 128 ++ bytesAt x.dst 0 128 ++ leBytes 8 (x.next % 2 ^ 40) ++ leBytes 8 (x.total % 2 ^ 40)
    ++ leBytes 4 (x.stop % 4 + x.heldAs.1 % 8 * 4 + x.heldAs.2 % 65536 * 65536) ++ leBytes 4 x.zeroed
    ++ leBytes 8 (x.job % 4096 + x.ptn % 32 * 65536)
  let b := bytesAt b 0 0x1FC
  b ++ leBytes 4 (crc32 b)

/-- A stopped transfer whose units in flight are complete writes its record; a held one sets its queue to HELD (R269). -/
def Dev.saveIfDrained (d : Dev) (e q : Nat) : Dev :=
  match tget? (d.dma e).xfers q with
  | none => d
  | some x =>
    if x.stop = 0 || x.saved || !x.flight.isEmpty then d
    else
      match d.store (some (dU e)) (some (dieOf (dU e))) (agPlain x.ptn (some x.job)) x.ptn (d.dmaSave e q) (progressRecord x) false with
      | (d, .fault y) => d.jobFault (dU e) q x.job y.code (xInfo y q true 0 e)
      | (d, .wait) => d
      | (d, .sealed) => d.jobFault (dU e) q x.job 0x7001 (dmaSealInfo e q)
      | (d, .ok ids) =>
        let d := d.addCount (pDmac e) (dslot e + 0x34) 1
        let d := if x.stop = 2 then d.setQMark (dU e) q 7 else d
        (d.noteRemote e q ids).modDma e fun m => { m with xfers := tput m.xfers q { x with saved := true } }

/-- A running transfer is asked to stop (R233, R269). -/
def Dev.dmaStop (d : Dev) (e q why : Nat) (hold : Option Nat) : Dev :=
  match tget? (d.dma e).xfers q with
  | none => d
  | some x =>
    if x.stop ≠ 0 then d
    else (d.modDma e fun m => { m with xfers := tput m.xfers q { x with
        stop := why
        hold := hold
        heldAs := (match hold with | some h => (h, d.holdCode x.ptn h) | none => (0, 0)) } }).saveIfDrained e q

/-- The queue has a unit to issue. -/
def Dev.unitDue (d : Dev) (e q : Nat) : Bool :=
  d.qBound (dU e) q && d.qMark (dU e) q = 0 &&
  match tget? (d.dma e).xfers q with
  | none => false
  | some x => x.stop = 0 && x.code = 0 && x.next < x.total && x.flight.length < 16 && d.eligible (dU e) x.job

/-- The engine's choice between its two queues, unit by unit, with the weights of the queues' jobs (R265). -/
def Dev.dmaChoose (d : Dev) (e : Nat) : Option (Nat × Dev) :=
  (wrr 2 (d.qWeight (dU e)) (fun q => ((d.dma e).q q).credit) (d.qBound (dU e)) (d.unitDue e) (d.dma e).ptr).map fun (q, cr, p) =>
    (q, d.modDma e fun m => { m with ptr := p, qs := (List.range 2).map fun i => { m.q i with credit := cr i } })

/-- A fault in the translation of a unit: held in a free slot, or the job faults (R273). -/
def Dev.unitFault (d : Dev) (e q : Nat) (x : Xfer) (y : XFault) (write : Bool) : Dev :=
  match (if y.hard then none else d.holdTake x.ptn false e q y write) with
  | some (d, h) => d.dmaStop e q 2 (some h)
  | none => d.jobFault (dU e) q x.job y.code (xInfo y q write 0 e)

/-- What reading the list entries of a unit gives. -/
inductive ListRead where
  | fault (x : XFault)
  | wait
  | sealed
  | ok (entries : List (Nat × List Byte)) (pages : List Seg)

/-- Bytes of a list entry of a transfer (06, R111). -/
def Xfer.entryBytes (x : Xfer) : Nat := 4 * dsDims (listedOf x.cmd.toNat (leNat x.src) (leNat x.dst))

/-- The entries of a unit, consecutive in the list, are translated and read together (R268). A mark on them is read as data. -/
def Dev.readEntries (d : Dev) (e : Nat) (x : Xfer) (js : List Nat) : Dev × ListRead :=
  match js with
  | [] => (d, .ok [] [])
  | j :: _ =>
    let w := x.cmd.toNat
    let n := x.entryBytes
    let a := dmList w + n * j
    match d.fetch (some (dU e)) (some (dieOf (dU e))) (agPlain x.ptn (some x.job)) x.ptn a (n * js.length) (dmVol w) with
    | (d, .fault y) => (d, .fault y)
    | (d, .wait) => (d, .wait)
    | (d, .sealed) => (d, .sealed)
    | (d, r) =>
      let bs := r.bytes?.getD []
      let pages := match (d.xlRange (some (dU e)) x.ptn a (n * js.length) false).2 with | .ok l => l | .error _ => []
      (d, .ok (js.map fun i => (i, bytesAt bs (n * (i - j)) n)) pages)

/-- Issue unit `x.next` of a transfer. -/
def Dev.issueUnit (d : Dev) (e q : Nat) (x : Xfer) : Dev :=
  let w := x.cmd.toNat
  let src := leNat x.src
  let dst := leNat x.dst
  let k := x.next
  match d.readEntries e x (if fld w 7 0 = 5 then [] else unitEntries w dst k) with
  | (d, .fault y) => d.unitFault e q x y false
  | (d, .wait) => d
  | (d, .sealed) => d.jobFault (dU e) q x.job 0x7001 (dmaSealInfo e q)
  | (d, .ok es lp) =>
    let bytes (j : Nat) : List Byte := ((es.find? fun r => r.1 = j).map Prod.snd).getD []
    let ul := checkEntries (listedOf w src dst) bytes (es.map Prod.fst)
    let (fs, last) := if fld w 7 0 = 2 then gatherFetches ((unitPos w dst k).head?.getD 0 % dsBlockElems dst ≠ 0) x.last ul.coords else ([], none)
    let ops := if fld w 7 0 = 5 then [] else unitOps w src dst ul fs k
    let (rp, wp) := unitPages x ops
    match d.xlPages e x.ptn false rp with
    | (d, .error y) => d.unitFault e q x y false
    | (d, .ok rd) =>
      match d.xlPages e x.ptn true wp with
      | (d, .error y) => d.unitFault e q x y true
      | (d, .ok wr) =>
        let rd := if fld w 7 0 = 5 then wr else rd
        let all := rd ++ wr
        if !d.segsReady all then d.segsDemand all
        else if d.leaks e x rd wr ops then d.jobFault (dU e) q x.job 0x7001 (dmaSealInfo e q)
        else
          let ag := agPlain x.ptn (some x.job)
          let touched := (srcRuns src dst ops).filterMap fun r => (segAt rd r.1).map fun s => { s with len := r.2 }
          if (fld w 7 0 ≠ 5) && touched.any (d.segClosed ag) then
            (d.noteClosed ag touched).jobFault (dU e) q x.job 0x7001 (dmaSealInfo e q)
          else
            let zeros := (ul.coords.filter fun c => c.2.isNone && c.1 * dsBlockElems dst / unitElems dst = k).length
            let (d, need, ids) := d.sendReads e q k x rd wr ops
            let u : DUnit := { k := k, ops := ops, list := lp, rd := rd, wr := wr, need := need, got := [], posts := ids.map Prod.fst, performed := false }
            let x := { x with
              flight := x.flight ++ [u]
              next := if ul.stop.isSome then k else k + 1
              zeroed := x.zeroed + zeros
              last := last
              code := if ul.stop.isSome then cIndexRange else 0
              info := match ul.stop with | some (j, b) => indexInfo j b | none => 0 }
            let d := (d.noteRemote e q ids).modDma e fun m => { m with xfers := tput m.xfers q x }
            let d := if zeros = 0 then d else d.addCount (pPtn x.ptn) 0x31C zeros
            Dev.performReady 17 d e q

/-- DMA_UNIT_ISSUE (R268). -/
def execDmaUnitIssue (e : Fin 256) (q : Fin 2) (s : State) : Out := s.upd fun d =>
  if !d.dmaRuns e then d
  else match d.dmaChoose e with
    | none => d
    | some (c, d') =>
      if c ≠ q.val then d
      else match tget? (d'.dma e).xfers q with
        | none => d
        | some x => d'.issueUnit e q x

/-- DMA_UNIT_COMPLETE (R268): a performed unit whose remote writes are held for replay leaves flight. -/
def execDmaUnitComplete (e : Fin 256) (q : Fin 2) (k : Nat) (s : State) : Out := s.upd fun d =>
  match tget? (d.dma e).xfers q with
  | none => d
  | some x =>
    match x.flight.find? fun u => u.k = k with
    | none => d
    | some u =>
      if !u.performed || !(u.posts.all d.isHeld) then d
      else
        let whole := !(x.code ≠ 0 && k = x.next)
        let x := { x with flight := x.flight.filter fun v => v.k ≠ k, done := if whole then x.done + 1 else x.done }
        let d := d.modDma e fun m => { m with xfers := tput m.xfers q x }
        let d := if whole then (d.addCount (pDmac e) (dslot e + 0x30) 1).setReg (pDmac e) (dslot e + 0x28 + 4 * q.val)
            (BitVec.ofNat 32 (min x.done 0xFFFFFFFF)) else d
        d.saveIfDrained e q

/-! ### Completion (R271) -/

/-- The completion signal: a flag of this device at once, a flag of another device after what R256 puts before it. -/
def Dev.dmaSignal (d : Dev) (e q : Nat) (x : Xfer) : Dev :=
  let w := x.cmd.toNat
  if !dmSigEn w then d
  else if d.sigLocal w then d.signalLocal (dmSigKind w) (dmSigTarget w) (dmSigFlag w) 1
  else
    let ids := ((d.dma e).remote.filter fun r => r.1 = q && r.2.2 = dmSigDev w).map fun r => r.2.1
    let (o, d) := d.flagOp (dmSigDev w) x.job (d.linkDomain x.ptn) (dmSigKind w) (dmSigTarget w) (dmSigFlag w) 1
    d.sendFlagAfter ids o

/-- The status record (R271). -/
def statusRecord (x : Xfer) : List Byte :=
  leBytes 2 x.code ++ leBytes 2 0 ++ leBytes 4 x.zeroed ++ leBytes 5 (x.done % 2 ^ 40) ++ leBytes 3 0

/-- DMA_TRANSFER_COMPLETE (R271): status record, then signal; a transfer that ends with INDEX_RANGE sends no signal and faults its job. -/
def execDmaTransferComplete (e : Fin 256) (q : Fin 2) (s : State) : Out := s.upd fun d =>
  match tget? (d.dma e).xfers q with
  | none => d
  | some x =>
    if !x.flight.isEmpty || x.saved || !(x.code ≠ 0 || x.total ≤ x.next) then d
    else
      let w := x.cmd.toNat
      let (d, r) := if dmStatEn w then
          d.store (some (dU e)) (some (dieOf (dU e))) (agPlain x.ptn (some x.job)) x.ptn (dmStat w) (statusRecord x) false
        else (d, Store.ok [])
      match r with
      | .wait => d
      | .fault y => d.jobFault (dU e) q x.job y.code (xInfo y q true 0 e)
      | .sealed => d.jobFault (dU e) q x.job 0x7001 (dmaSealInfo e q)
      | .ok ids =>
        let d := (d.noteRemote e q ids).modDma e fun m => { m with xfers := tdel m.xfers q }
        let pos := x.info % 2 ^ 24
        if x.code ≠ 0 then d.jobFaultM (dU e) q x.job x.code x.info (some [.entry (dmList w + x.entryBytes * pos) pos]) else (d.dmaSignal e q x).qArm (dU e) q

/-- DMA_RESUME (R270): the record is read back, its CRC is checked, and the transfer goes on as the record reads. -/
def execDmaResume (e : Fin 256) (q : Fin 2) (s : State) : Out := s.upd fun d =>
  let d := d.saveIfDrained e q
  match tget? (d.dma e).xfers q with
  | none => d
  | some x =>
    if !x.saved || x.hold.isSome || !d.dmaRuns e || !d.eligible (dU e) x.job then d
    else match d.fetch (some (dU e)) none (agPlain x.ptn (some x.job)) x.ptn (d.dmaSave e q) 512 true with
    | (d, .fault y) => d.jobFault (dU e) q x.job y.code (xInfo y q false 0 e)
    | (d, .wait) => d
    | (d, .sealed) => d.jobFault (dU e) q x.job 0x7001 (dmaSealInfo e q)
    | (d, r) =>
      let rec_ := r.bytes?.getD []
      if crc32 (rec_.take 0x1FC) ≠ numAt rec_ 0x1FC 4 then d.jobFault (dU e) q x.job 0x5010 (q.val % 8 + e.val * 65536)
      else
        let x' : Xfer := { x with
          cmd := BitVec.ofNat 1024 (numAt rec_ 0 128), src := bytesAt rec_ 0x80 128, dst := bytesAt rec_ 0x100 128
          next := numAt rec_ 0x180 8 % 2 ^ 40, total := numAt rec_ 0x188 8 % 2 ^ 40, zeroed := numAt rec_ 0x194 4
          done := numAt rec_ 0x180 8 % 2 ^ 40, stop := 0, saved := false
          job := numAt rec_ 0x198 2 % 4096, ptn := numAt rec_ 0x19A 1 % 32, last := none, keep := [], edges := [] }
        (d.setQMark (dU e) q 0).modDma e fun m => { m with xfers := tput m.xfers q x' }

/-! ### Holds (R273) -/

/-- What stood on a hold slot may go on: the slot is free, the stopped transfer or parked stream no longer waits for it. -/
def Dev.holdRelease (d : Dev) (p h : Nat) : Dev :=
  let u := d.holdUnit p h
  let d := d.holdFree p h
  if u < 0x2000 then
    let mine (t : Tile) : Bool := (d.job t.job).ptn = p
    let drop (c : Core) : Core := match c.tile with
      | some t => if mine t then { c with tile := some { t with held := t.held.filter fun x => x.2 ≠ h } } else c
      | none => c
    let d := d.each (List.range 32) fun d k => d.modCore u k drop
    d.modClu u fun c => { c with parks := tmap c.parks fun _ s => { s with saved := drop s.saved } }
  else
    d.modDma (u - 0x4000) fun m => { m with xfers := tmap m.xfers fun _ x => if x.ptn = p && x.hold = some h then { x with hold := none } else x }

/-- The walk of a hold is retried: one that faults again keeps its slot and its start. -/
def Dev.holdRetry (d : Dev) (p h : Nat) : Dev :=
  if !d.holdValid p h then d
  else
    let write := d.bit (pPtn p) (rHold h) 1
    match d.xlate none p (d.holdPva p h) write with
    | (d, .ok _) => d.holdRelease p h
    | (d, .error x) =>
      (d.setF (pPtn p) (rHold h) 3 2 x.level).setBit (pPtn p) (rHold h) 4 (x.code = cXlatePerm)

/-- The job of a hold. -/
def Dev.holdJob (d : Dev) (p h : Nat) : Nat := d.qJob (d.holdUnit p h) (d.holdQueue p h)

/-- A hold ends in a fault of its job, by ABORT or by the limit (FAULT_INFO [8]). -/
def Dev.holdFault (d : Dev) (p h : Nat) (expired : Bool) : Dev :=
  if !d.holdValid p h then d
  else
    let u := d.holdUnit p h
    let q := d.holdQueue p h
    let x : XFault := ⟨d.holdCode p h, d.getF (pPtn p) (rHold h) 3 2, d.holdPva p h, false, false⟩
    let info := xInfo x q (d.bit (pPtn p) (rHold h) 1) (if u < 0x2000 then 1 else 0) (uNum u) + (if expired then 256 else 0)
    let d := if expired then d.addCount (pPtn p) 0x214 1 else d
    (d.jobFault u q (d.holdJob p h) x.code info).holdFree p h

/-- A write to HOLD_CTRL: ABORT overrides RESUME. -/
def Dev.writeHoldCtrl (d : Dev) (p h : Nat) (v : Word) : Dev :=
  if wbit v 1 then d.holdFault p h false else if wbit v 0 then d.holdRetry p h else d

/-- HOLD_RESUME (R273): RESUME alone is written. -/
def execHoldResume (r : Role) (p : Fin 24) (h : Fin 8) (s : State) : Out := s.upd fun d =>
  d.guardWrite r (pPtn p) fun d => d.writeHoldCtrl p h 1

/-- HOLD_ABORT (R273): ABORT is written, alone or with RESUME. -/
def execHoldAbort (r : Role) (p : Fin 24) (h : Fin 8) (both : Bool) (s : State) : Out := s.upd fun d =>
  d.guardWrite r (pPtn p) fun d => d.writeHoldCtrl p h (if both then 3 else 2)

/-- HOLD_LIMIT_EXPIRY (R273): an event of the same ao-cycle that stands before it in the queue has been applied. -/
def execHoldLimitExpiry (p : Fin 24) (h : Fin 8) (s : State) : Out := s.upd fun d =>
  if d.holdValid p h && tgetD d.holdAt (8 * p + h) 0 + (d.reg pMmu 0x40).toNat ≤ d.ao then d.holdFault p h true else d

/-! ### Data that return to a unit (14, R288) -/

/-- Bytes of another device reach the unit that awaits them. -/
def Dev.dmaGot (d : Dev) (e q k pva tag : Nat) (last : Bool) (data : List Byte) (poison : Nat → Bool) : Dev :=
  let pieces := (List.range (ceilDiv data.length 64)).map fun i => (pva + 64 * i, (data.drop (64 * i)).take 64, poison i)
  let upd (x : Xfer) : Xfer := { x with flight := x.flight.map fun u => if u.k = k then
    { u with got := u.got ++ pieces, need := if last then u.need.filter (· ≠ tag) else u.need } else u }
  let has (x : Xfer) : Bool := x.flight.any fun u => u.need.contains tag
  match (d.dma e).orphans.find? fun o => o.1 = q && has o.2 with
  | some o =>
    -- a unit of an aborted transfer that had issued its accesses runs to its end (R272)
    let x := upd o.2
    let d := d.modDma e fun m => { m with orphans := m.orphans.filter fun y => !(y.1 = q && has y.2) }
    if x.flight.any fun u => !u.performed && !u.need.isEmpty then d.modDma e fun m => { m with orphans := m.orphans ++ [(q, x)] }
    else
      (x.flight.filter fun u => !u.performed).foldl (fun (acc : Dev × Xfer) u =>
        let (d, c) := acc.1.performUnit e q acc.2 u
        (if x.code ≠ 0 && u.k = x.next then d else d.addCount (pDmac e) (dslot e + 0x30) 1, { acc.2 with keep := c.keep, edges := c.edges })) (d, x) |>.1
  | none =>
    Dev.performReady 17 (d.modDma e fun m => { m with xfers := tmap m.xfers fun n x => if n = q then upd x else x }) e q

end Sys2Proof.Machine
end

