-- ==== Sys2Proof/Machine/Req0.lean ====
section
/-! DEFINITION. Request entries and partitions as the translation service, the pool and the serving engine see them (08, R147–R151; 09, R174, R186; 10, R192, R193): fields, geometry, ranges. -/

namespace Sys2Proof.Machine

/-! ### Partitions -/


/-- Stacks of a partition in ascending number: PTN_STACKS (16, R353; 08, R151). -/
def Dev.ptnStacks (d : Dev) (p : Nat) : List Nat := maskBits 24 (d.getF (pPtn p) 0x44 23 0)

/-- Clusters of a partition: those whose page it owns. -/
def Dev.ptnClusters (d : Dev) (p : Nat) : List Nat := below 800 fun n => d.owner (pClu n) = p

/-- Compute DMA engines of a partition. -/
def Dev.ptnDmas (d : Dev) (p : Nat) : List Nat := below 256 fun e => d.owner (pDmac e) = p

/-- The partition is sealed: PTN_CFG.SEALED (16, R353). -/
def Dev.ptnSealed (d : Dev) (p : Nat) : Bool := d.bit (pPtn p) 0x40 0

/-- First DPA and bytes of the translation area: PTN_XLATE_AREA (16, R353). -/
def Dev.xaBase (d : Dev) (p : Nat) : Nat := stkBase (d.getF (pPtn p) 0x60 4 0) + d.getF (pPtn p) 0x60 23 8 * 2 ^ 21
def Dev.xaBytes (d : Dev) (p : Nat) : Nat := d.getF (pPtn p) 0x60 30 24 * 2 ^ 21

/-! ### Pool ranges (09, R174, R191) -/

/-- KVP_STACK slot of stack `s`. -/
abbrev rKvpStk (s : Nat) : Nat := 0x80 + 16 * s
def Dev.poolFirst (d : Dev) (p s : Nat) : Nat := 32 * d.getF (pKvp p) (rKvpStk s) 10 0
def Dev.poolRows (d : Dev) (p s : Nat) : Nat := d.getF (pKvp p) (rKvpStk s) 23 12
def Dev.scaleFirst (d : Dev) (p s : Nat) : Nat := d.getF (pKvp p) (rKvpStk s + 4) 15 0

/-- Granule `g` of stack `s` lies in the pool range, in the scale area. -/
def Dev.inPool (d : Dev) (p s g : Nat) : Bool := d.poolFirst p s ≤ g && g < d.poolFirst p s + 32 * d.poolRows p s
def Dev.inScale (d : Dev) (p s g : Nat) : Bool := d.scaleFirst p s ≤ g && g < d.scaleFirst p s + d.poolRows p s

/-- A page key: 65536 × stack + granule. -/
abbrev pageKey (s g : Nat) : Nat := 65536 * s + g

/-- DPA of a pool page, and of its scale slot (R174). -/
def pageDpa (k : Nat) : Nat := stkBase (k / 65536) + k % 65536 * 2 ^ 21
def Dev.scaleDpa (d : Dev) (p k : Nat) : Nat :=
  stkBase (k / 65536) + d.scaleFirst p (k / 65536) * 2 ^ 21 + (k % 65536 - d.poolFirst p (k / 65536)) * 65536

/-- The pool is enabled: CTRL.ENABLE of the KVP page (R175). -/
def Dev.poolOn (d : Dev) (p : Nat) : Bool := d.enabled (pKvp p)

/-- The handle window (R186, R191). -/
def Dev.hwin (d : Dev) (p : Nat) : Nat := d.pair (pKvp p) 0x44 0x48 % 2 ^ 48 / 2 ^ 30 * 2 ^ 30
def Dev.hwinBytes (d : Dev) (p : Nat) : Nat := d.getF (pKvp p) 0x4C 15 0 * 2 ^ 30

/-! ### The request table (10, R193) -/

/-- Entry `i` as a number, and its fields. -/
def Dev.rq (d : Dev) (i : Nat) : Nat := (tgetD d.reqTab i 0).toNat
def Dev.setRq (d : Dev) (i v : Nat) : Dev := { d with reqTab := tput d.reqTab i (BitVec.ofNat 2048 v) }
def Dev.rqF (d : Dev) (i hi lo : Nat) : Nat := fld (d.rq i) hi lo
def Dev.setRqF (d : Dev) (i hi lo v : Nat) : Dev := d.setRq i (setFld (d.rq i) hi lo v)

def rqState (r : Nat) : Nat := fld r 3 0
def rqPriority (r : Nat) : Nat := fld r 6 4
def rqGen (r : Nat) : Nat := fld r 31 16
def rqLength (r : Nat) : Nat := fld r 54 32
def rqMaxlen (r : Nat) : Nat := fld r 78 56
def rqPrompt (r : Nat) : Nat := fld r 102 80
def rqMaxNew (r : Nat) : Nat := fld r 126 104
def rqRegion (r : Nat) : Nat := fld r 175 128
def rqSregion (r : Nat) : Nat := fld r 223 176
def rqPpl (r : Nat) : Nat := fld r 243 224
def rqKvfmt (r : Nat) : Nat := fld r 247 244
def rqModel (r : Nat) : Nat := fld r 255 248
def rqLayers (r : Nat) : Nat := fld r 271 256
def rqKvh (r : Nat) : Nat := fld r 277 272 + 1
def rqHdim (r : Nat) : Nat := fld r 279 278
def rqW16 (r : Nat) : Bool := bitOf r 280
def rqAdpSlot (r : Nat) : Nat := fld r 295 288
def rqAdpEn (r : Nat) : Bool := bitOf r 296
def rqAdpVer (r : Nat) : Nat := fld r 319 304
def rqHandle (r : Nat) : Nat := fld r 383 320
def rqFtDeadline (r : Nat) : Nat := fld r 415 384
def rqBtTarget (r : Nat) : Nat := fld r 447 416
def rqTemperature (r : Nat) : Word := BitVec.ofNat 32 (fld r 479 448)
def rqTopP (r : Nat) : Word := BitVec.ofNat 32 (fld r 511 480)
def rqTopK (r : Nat) : Nat := fld r 522 512
def rqPenPrompt (r : Nat) : Bool := bitOf r 528
def rqRep (r : Nat) : Word := BitVec.ofNat 32 (fld r 575 544)
def rqPres (r : Nat) : Word := BitVec.ofNat 32 (fld r 607 576)
def rqFreq (r : Nat) : Word := BitVec.ofNat 32 (fld r 639 608)
def rqSeed (r : Nat) : Nat := fld r 703 640
def rqPenTable (r : Nat) : Nat := fld r 751 704
def rqDistinct (r : Nat) : Nat := fld r 766 752
def rqStop (r j : Nat) : Nat := fld r (785 + 18 * j) (768 + 18 * j)
def rqStopCount (r : Nat) : Nat := fld r 842 840
def rqVocab (r : Nat) : Nat := fld r 882 864
def rqAdmitAo (r : Nat) : Nat := fld r 959 896
def rqLastEmit (r : Nat) : Nat := fld r 1023 960
def rqEmitted (r : Nat) : Nat := fld r 1046 1024
def rqBatch (r : Nat) : Nat := fld r 1189 1184
def rqInBatch (r : Nat) : Bool := bitOf r 1190
def rqPromptPva (r : Nat) : Nat := fld r 1247 1200
def rqTag (r : Nat) : Nat := fld r 1279 1248

/-- Request states (R193). -/
abbrev rsFree : Nat := 0
abbrev rsAdmitted : Nat := 1
abbrev rsPrefill : Nat := 2
abbrev rsDecode : Nat := 3
abbrev rsGrow : Nat := 4
abbrev rsDone : Nat := 5
abbrev rsEvicted : Nat := 6
abbrev rsFailed : Nat := 7

/-- A request is live (R192). -/
def rqLive (r : Nat) : Bool := 1 ≤ rqState r && rqState r ≤ 4

/-- What a request needs beside its entry. -/
def Dev.rx (d : Dev) (i : Nat) : ReqX := tgetD d.reqX i {}
def Dev.setRx (d : Dev) (i : Nat) (x : ReqX) : Dev := { d with reqX := tput d.reqX i x }
def Dev.modRx (d : Dev) (i : Nat) (f : ReqX → ReqX) : Dev := d.setRx i (f (d.rx i))

/-- Bytes of a slot and slots of a page (08, R147). -/
def slotBytes (kvh hdim : Nat) (w16 : Bool) : Nat := 2 * kvh * (64 * 2 ^ hdim) * (if w16 then 2 else 1)
def pageSlots (kvh hdim : Nat) (w16 : Bool) : Nat := 2097152 / slotBytes kvh hdim w16
/-- T of a request. -/
def rqT (r : Nat) : Nat := pageSlots (rqKvh r) (rqHdim r) (rqW16 r)

/-- Ranges of the cache region and of the scale region of a request (08, R147, R148). -/
def rqRegions (r : Nat) : List Range :=
  let n := rqLayers r * rqPpl r
  (rqRegion r, n * 2 ^ 21) :: (if rqW16 r then [] else [(rqSregion r, n * 65536)])

/-- Two ranges meet. -/
def meets (a b : Range) : Bool := a.1 < b.1 + b.2 && b.1 < a.1 + a.2

/-- First entry and number of entries of a partition: SRV_PTN_RANGE (10, R192, R216). -/
def Dev.reqFirst (d : Dev) (p : Nat) : Nat := d.getF (pSrv 0) (0x100 + 4 * p) 11 0
def Dev.reqCount (d : Dev) (p : Nat) : Nat := d.getF (pSrv 0) (0x100 + 4 * p) 24 12

/-- Entries of a partition, live ones among them. -/
def Dev.ptnReqs (d : Dev) (p : Nat) : List Nat := (List.range (d.reqCount p)).map (· + d.reqFirst p)
def Dev.liveReqs (d : Dev) (p : Nat) : List Nat := (d.ptnReqs p).filter fun i => rqLive (d.rq i)

/-- The partition of an entry: the one whose range holds it. -/
def Dev.reqPtn (d : Dev) (i : Nat) : Option Nat :=
  lowest 24 fun p => d.reqFirst p ≤ i && i < d.reqFirst p + d.reqCount p

/-- First-fit placement: the lowest multiple of `align` from `lo` at which `size` fits below `hi` beside the used pieces, given in rising order. -/
def firstFitGo (hi align size : Nat) : List (Nat × Nat) → Nat → Option Nat
  | [], c => if c + size ≤ hi then some c else none
  | (a, n) :: t, c => if c + size ≤ a then some c else firstFitGo hi align size t (max c (roundUp (a + n) align))

def firstFit (lo hi align size : Nat) (used : List (Nat × Nat)) : Option Nat := firstFitGo hi align size used (roundUp lo align)

end Sys2Proof.Machine
end

