-- ==== Sys2Proof/Machine/Xmap.lean ====
section
/-! DEFINITION. The translation service (13, R262–R265): installing and removing mappings, the pool's leaves, invalidation, JOB_BIND_DMA. -/

namespace Sys2Proof.Machine

/-! ### Tables in the translation area -/

/-- Bytes of a table of level `l` (R259). -/
def tableBytes (l : Nat) : Nat := if l = 0 then 256 else 4096

/-- Take room for a table, at the lowest place that holds it (DESIGN CHOICE), with every entry invalid; none when the area is full. -/
def Dev.newTable (d : Dev) (p l : Nat) : Option (Nat × Dev) :=
  let n := tableBytes l
  match firstFit (d.xaBase p) (d.xaBase p + d.xaBytes p) n n (d.px p).tables with
  | none => none
  | some a => some (a, (d.zeroRange a n).modPx p fun x => { x with tables := tput x.tables a n })

/-- Write an entry at the point of coherence. -/
def Dev.putEntry (d : Dev) (a v : Nat) : Dev := d.writeNum a 8 v

/-- Give a table back to the area. -/
def Dev.freeTable (d : Dev) (p a : Nat) : Dev := d.modPx p fun x => { x with tables := tdel x.tables a }

/-- Every entry of a table of level `l` is invalid. -/
def Dev.tableEmpty (d : Dev) (a l : Nat) : Bool := (List.range (levelEntries l)).all fun i => !xV (d.readNum (a + 8 * i) 8)

/-- Free a table of level `l` and every table below it. -/
def Dev.freeTree (p : Nat) : Nat → Dev → Nat → Dev
  | 0, d, a => d.freeTable p a
  | l + 1, d, a =>
    let subs := (List.range 512).filterMap fun i =>
      let e := d.readNum (a + 8 * i) 8
      if xV e && !xLeaf e then some (xAddr e) else none
    (subs.foldl (Dev.freeTree p l) d).freeTable p a

/-- Split a larger leaf of level `l` + 1 into a table of level `l` whose leaves map the same bytes (R262). -/
def Dev.splitLeaf (d : Dev) (p l e : Nat) : Option (Nat × Dev) :=
  match d.newTable p l with
  | none => none
  | some (a, d) =>
    some (a, d.each (List.range (levelEntries l)) fun d i =>
      d.putEntry (a + 8 * i) (setFld e 63 20 (xAddr e + i * 2 ^ levelShift l)))

/-- Install a leaf at level `l` for a PVA, descending from a table of level `f`: missing tables are made, larger leaves split, smaller leaves removed with their table (R262). None when the area has no room. -/
def Dev.putLeafGo (p pva l leaf : Nat) : Nat → Dev → Nat → Option Dev
  | 0, d, t => some (d.putEntry (entryAt t 0 pva) leaf)
  | f + 1, d, t =>
    let a := entryAt t (f + 1) pva
    let e := d.readNum a 8
    if f + 1 = l then
      let d := if xV e && !xLeaf e then Dev.freeTree p f d (xAddr e) else d
      some (d.putEntry a leaf)
    else if xV e && !xLeaf e then Dev.putLeafGo p pva l leaf f d (xAddr e)
    else
      match (if xV e then d.splitLeaf p f e else d.newTable p f) with
      | none => none
      | some (n, d) => Dev.putLeafGo p pva l leaf f (d.putEntry a (mkPtr n)) n

/-- Install a leaf at level `l`. -/
def Dev.putLeaf (d : Dev) (p pva l leaf : Nat) : Option Dev := Dev.putLeafGo p pva l leaf 3 d (d.xroot p)

/-- Remove the leaf of level `l` at a PVA, below a table of level `f`; a table left empty returns to the area. -/
def Dev.dropLeafGo (p pva l : Nat) : Nat → Dev → Nat → Dev
  | 0, d, t => d.putEntry (entryAt t 0 pva) 0
  | f + 1, d, t =>
    let a := entryAt t (f + 1) pva
    let e := d.readNum a 8
    if f + 1 = l then d.putEntry a 0
    else if xV e && !xLeaf e then
      let d := Dev.dropLeafGo p pva l f d (xAddr e)
      if d.tableEmpty (xAddr e) f then (d.putEntry a 0).freeTable p (xAddr e) else d
    else d

/-- Remove the leaf of level `l` at a PVA. -/
def Dev.dropLeaf (d : Dev) (p pva l : Nat) : Dev := Dev.dropLeafGo p pva l 3 d (d.xroot p)

/-- The entry at level `l` for a PVA is a pointer to a further table. -/
def Dev.hasTable (d : Dev) (pva l : Nat) : Nat → Nat → Bool
  | 0, _ => false
  | f + 1, t =>
    let e := d.readNum (entryAt t (f + 1) pva) 8
    if f + 1 = l then xV e && !xLeaf e
    else xV e && !xLeaf e && d.hasTable pva l f (xAddr e)

/-! ### Invalidation (R264) -/

/-- Start the invalidation of ranges; answers its number. -/
def Dev.startInval (d : Dev) (p : Nat) (rs : List Range) (item : Option (Nat × Nat)) : Nat × Dev :=
  (d.nextId, { d with nextId := d.nextId + 1, invals := d.invals ++ [⟨d.nextId, p, rs, item⟩] })

/-- Bytes that a leaf of level `l` maps. -/
def leafBytes (l : Nat) : Nat := 2 ^ levelShift l

/-- A unit, command or cache of the partition still holds a translation in the ranges: conditions 2 to 4 of R264. -/
def Dev.invalBusy (d : Dev) (v : Inval) : Bool :=
  let hit (r : Range) : Bool := v.ranges.any (meets r)
  let seg (g : Seg) : Bool := hit (g.pva, g.len)
  (d.dmas.any fun e => (e.2.xfers.any fun x => x.2.ptn = v.ptn && x.2.flight.any fun u => (u.list ++ u.rd ++ u.wr).any seg)
    || e.2.orphans.any fun o => o.2.ptn = v.ptn && o.2.flight.any fun u => (u.list ++ u.rd ++ u.wr).any seg) ||
  (d.stks.any fun s => (s.2.runs.any fun r => (d.job r.job).ptn = v.ptn && r.ranges.any hit)
    || s.2.copiers.any fun c => c.2.ptn = v.ptn && c.2.ranges.any hit)

/-- INVALIDATION_COMPLETE (R264): the caches drop the ranges; an XLATE_UNMAP has its outcome. -/
def Dev.invalEnds (d : Dev) (v : Inval) : Dev :=
  let d := { d with
    tlb := d.tlb.filter fun t => !(t.ptn = v.ptn && v.ranges.any (meets (t.pva, leafBytes t.level)))
    invals := d.invals.filter fun x => x.id ≠ v.id }
  let d := d.addCount pMmu 0x48 1
  match v.forItem with
  | some (m, i) => d.post m i 0 0
  | none => d

/-- INVALIDATION_COMPLETE of the invalidation of number `id`. -/
def execInvalidationComplete (id : Nat) (s : State) : Out := s.upd fun d =>
  match d.invals.find? fun v => v.id = id with
  | none => d
  | some v => if d.invalBusy v then d else d.invalEnds v

/-! ### XLATE_MAP and XLATE_UNMAP (R262) -/

abbrev cXlateInstall : Nat := 0x4003

/-- Level of the leaves of SIZE. -/
def sizeLevel (n : Nat) : Nat := if n = 0 then 0 else if n = 1 then 1 else 2

/-- A DPA on another device that no leaf may name: control space or a reserved range (R260, 01, R17). -/
def dpaMapped (a n : Nat) : Bool :=
  (match loc a with | .stack _ _ => true | .buf _ _ => true | _ => false) &&
  (match loc (a + n - 1) with | .stack _ _ => true | .buf _ _ => true | _ => false)

/-- A local range meets the pool ranges, scale areas or the translation area of partition `p` (reason 4). -/
def Dev.inKept (d : Dev) (p a n : Nat) : Bool :=
  meets (a, n) (d.xaBase p, d.xaBytes p) ||
  (d.ptnStacks p).any fun s =>
    meets (a, n) (stkBase s + d.poolFirst p s * 2 ^ 21, 32 * d.poolRows p s * 2 ^ 21) ||
    meets (a, n) (stkBase s + d.scaleFirst p s * 2 ^ 21, d.poolRows p s * 2 ^ 21)

/-- The PVA range lies in a region or scale region of a live request, or in the handle window (reason 2). -/
def Dev.pvaKept (d : Dev) (p a n : Nat) : Bool :=
  meets (a, n) (d.hwin p, d.hwinBytes p) || (d.liveReqs p).any fun i => (rqRegions (d.rq i)).any (meets (a, n))

/-- Some leaf is valid over the page of level `l` at a PVA. -/
def Dev.pageHeld (d : Dev) (p pva l : Nat) : Bool :=
  (d.walk p pva).leaf.isSome || d.hasTable pva l 3 (d.xroot p)

/-- The reason for which a page of an XLATE_MAP is refused. -/
def Dev.mapReason (d : Dev) (p pva out dev size : Nat) (remote : Bool) : Option Nat :=
  let n := leafBytes (sizeLevel size)
  let isLocal := !remote || dev = d.devnum
  let buf := match loc out with | .buf _ _ => true | _ => false
  if pva % n ≠ 0 || out % n ≠ 0 || 2 ^ 48 < pva + n || (buf && size ≠ 0) then some 1
  else if size = 2 && (match loc out, loc (out + n - 1) with | .stack a _, .stack b _ => a ≠ b | .stack _ _, _ => true | _, _ => false) then some 1
  else if d.pageHeld p pva (sizeLevel size) || d.pvaKept p pva n then some 2
  else if isLocal && (!dpaMapped out n || d.memOwner out ≠ p) then some 3
  else if !isLocal && (63 < dev || !dpaMapped out n) then some 3
  else if isLocal && d.inKept p out n then some 4
  else none

/-- Install the pages of an XLATE_MAP one by one; the reason and the page that refuse it. -/
def Dev.mapPages (p pva out dev size : Nat) (remote r w : Bool) : List Nat → Dev → Except (Nat × Nat) Dev
  | [], d => .ok d
  | i :: t, d =>
    let n := leafBytes (sizeLevel size)
    match d.mapReason p (pva + i * n) (out + i * n) dev size remote with
    | some x => .error (x, i)
    | none =>
      match d.putLeaf p (pva + i * n) (sizeLevel size) (mkLeaf (out + i * n) r w remote false (if remote then dev else 0) 0) with
      | none => .error (5, i)
      | some d => Dev.mapPages p pva out dev size remote r w t d

/-- The translation tables can be read and written: their stack answers. -/
def Dev.xaReady (d : Dev) (p : Nat) : Bool := d.memReady (d.xroot p)

/-- XLATE_MAP: all of its pages or none of them; a completed one resumes the holds over its range (R262, R273). -/
def Dev.xlateMap (d : Dev) (i : Item) : Dev :=
  let p := i.ptn
  let pva := numAt i.body 0 8
  let out := fld (numAt i.body 8 8) 43 0
  let dev := fld (numAt i.body 8 8) 51 44
  let remote := bitOf (numAt i.body 8 8) 63
  let size := numAt i.body 0x10 1
  let rw := numAt i.body 0x11 1
  let count := numAt i.body 0x14 4
  if !d.xaReady p then (d.memDemand (d.xroot p)).retryItem i
  else if 2 < size || count = 0 || 65536 < count then d.endItem i cXlateInstall 1
  else match Dev.mapPages p pva out dev size remote (bitOf rw 0) (bitOf rw 1) (List.range count) d with
    | .error (x, k) => d.endItem i cXlateInstall (x + k * 65536)
    | .ok d =>
      let d := d.endItem i 0 0
      d.each (List.range 8) fun d h =>
        if d.holdValid p h && meets (d.holdPva p h, 1) (pva, count * leafBytes (sizeLevel size)) then d.holdRetry p h else d

/-- The reason for which a page of an XLATE_UNMAP is refused. -/
def Dev.unmapReason (d : Dev) (p pva size : Nat) : Option Nat :=
  let n := leafBytes (sizeLevel size)
  if pva % n ≠ 0 || 2 ^ 48 < pva + n then some 1
  else
    let w := d.walk p pva
    match w.leaf with
    | none => some 6
    | some e => if w.level ≠ sizeLevel size || xPool e then some 6 else none

/-- XLATE_UNMAP: the leaves go, and the item ends with their invalidation (R262, R264). -/
def Dev.xlateUnmap (d : Dev) (i : Item) : Dev :=
  let p := i.ptn
  let pva := numAt i.body 0 8
  let size := numAt i.body 0x10 1
  let count := numAt i.body 0x14 4
  let n := leafBytes (sizeLevel size)
  if !d.xaReady p then (d.memDemand (d.xroot p)).retryItem i
  else if 2 < size || count = 0 || 65536 < count then d.endItem i cXlateInstall 1
  else match (List.range count).findSome? fun k => (d.unmapReason p (pva + k * n) size).map fun x => (x, k) with
    | some (x, k) => d.endItem i cXlateInstall (x + k * 65536)
    | none =>
      let d := d.each (List.range count) fun d k => d.dropLeaf p (pva + k * n) (sizeLevel size)
      (d.startInval p [(pva, count * n)] (some (i.msg, i.item))).2

/-- XLATE_MAP, the next item of partition `p`. -/
def execXlateMap (p : Fin 25) (s : State) : Out := s.upd fun d => d.serveItem p 0x0020 Dev.xlateMap

/-- XLATE_UNMAP, the next item of partition `p`. -/
def execXlateUnmap (p : Fin 25) (s : State) : Out := s.upd fun d => d.serveItem p 0x0021 Dev.xlateUnmap

/-! ### Unbinding (11, R221) -/

/-- A queue may be unbound: no command queued, held or in flight, or FAULTED or ABORTED (11, R221). -/
def Dev.mayUnbind (d : Dev) (u : UnitKey) (q : Nat) : Bool :=
  d.qBound u q &&
  (d.qMark u q = 5 || d.qMark u q = 6 ||
    ((d.qCmds u q).isEmpty && (d.qHeld u q).isEmpty && d.qQuiet u q && (d.qFence u q).isNone && d.qMark u q = 0))

end Sys2Proof.Machine
end

