-- ==== Sys2Proof/Machine/Feed.lean ====
section
/-! DEFINITION. Filling the queues (04, R62; 07, R127; 13, R265): the commands that wait for room, by the intake and by the serving engine; the guarantee of a step (11, R229, R230). -/

namespace Sys2Proof.Machine

/-- Commands that a queue of a unit holds, and bytes of one (R62, R127, R265). -/
def qCap (u : UnitKey) : Nat := if u < 0x2000 then 256 else if u < 0x4000 then 128 else 64
def cmdBytes (u : UnitKey) : Nat := if u < 0x2000 then 32 else if u < 0x4000 then 64 else 128

/-- The unit takes commands from the intake: its STATE is ACTIVE (R62). -/
def Dev.takesCmds (d : Dev) (u : UnitKey) : Bool := d.pageOn (uPage u) && d.st (uPage u) = stActive

/-- Set what waits for a queue. -/
def Dev.setHeld (d : Dev) (u : UnitKey) (q : Nat) (l : List HeldCmd) : Dev :=
  if u < 0x2000 then d.modGq u q fun x => { x with held := l }
  else if u < 0x4000 then d.modMq (u - 0x2000) q fun x => { x with held := l }
  else d.modDq (u - 0x4000) q fun x => { x with held := l }

/-- Append waiting commands while there is room; an ENQ item ends once its last command is appended (14, R303). -/
def Dev.drainHeld (d : Dev) (u : UnitKey) (q : Nat) : Dev :=
  if !d.takesCmds u || 5 ≤ d.qMark u q && d.qMark u q ≤ 6 then d
  else
    let room := qCap u - (d.qCmds u q).length
    let l := d.qHeld u q
    let d := d.qAppend u q ((l.take room).map fun h => leNat h.cmd)
    let rest := l.drop room
    let d := d.setHeld u q rest
    let ends := ((l.take room).map fun h => (h.msg, h.item)).eraseDups.filter fun x => !(rest.any fun h => (h.msg, h.item) = x)
    ends.foldl (fun d x => if x.1 = 0 then d else d.post x.1 x.2 0 0) d

/-- Put commands before a queue: they wait behind those that wait already; a domain that is not ON is woken (20, R430). Message 0 is the serving engine. -/
def Dev.feed (d : Dev) (u : UnitKey) (q : Nat) (cmds : List (List Byte)) (msg item : Nat) : Dev :=
  let d := if d.pageOn (uPage u) then d else d.demand (uPage u).domain
  (d.setHeld u q (d.qHeld u q ++ cmds.map fun c => HeldCmd.mk c msg item)).drainHeld u q

/-- INTAKE_HELD_APPEND (R62). -/
def execIntakeHeldAppend (u : Fin 0x4100) (q : Fin 8) (s : State) : Out := s.upd fun d => d.drainHeld u q

/-! ### Commands of the serving engine's own (09, R180; 10, R196, R213) -/

/-- Put a marver command of the serving engine's own into queue 0 of a stack; answers its tag. -/
def Dev.engIssue (d : Dev) (p s cmd : Nat) (phys : Bool) : Nat × Dev :=
  let t := d.nextId + 1
  let w := cmd % 2 ^ 512 + t * 2 ^ 512 + (if phys then 2 ^ 544 else 0)
  let d := { d with nextId := t, engCmds := d.engCmds ++ [EngCmd.mk t p s (BitVec.ofNat 545 w)] }
  (t, d.feed (0x2000 + s) 0 [leBytes 72 w] 0 0)

/-- Some of the listed commands have not completed. -/
def Dev.engBusy (d : Dev) (tags : List Nat) : Bool := d.engCmds.any fun c => tags.contains c.tag

/-- A COPY and a FILL as commands (07, R138): source, destination and 4 KiB units. -/
def copyCmd (src dst units : Nat) : Nat := 0x03 + src % 2 ^ 48 * 2 ^ 64 + dst % 2 ^ 48 * 2 ^ 112 + units % 2 ^ 24 * 2 ^ 160
def fillCmd (dst units pattern : Nat) : Nat := 0x04 + dst % 2 ^ 48 * 2 ^ 64 + units % 2 ^ 24 * 2 ^ 112 + pattern % 2 ^ 64 * 2 ^ 192

/-- Bind the serving job to QUEUE[0] of a cluster, all 32 cores (11, R219). -/
def Dev.bindServing (d : Dev) (n j : Nat) : Dev :=
  let d := if d.qBound n 0 && d.qJob n 0 ≠ j then d.unbindQ n 0 else d
  (d.bindQ n 0 j 15).setReg (pClu n) 0x84 0xFFFFFFFF#32

/-- Bind the serving job of a partition to its queues: QUEUE[0] of every cluster that no job has reserved, of every stack and of every compute DMA engine; commands of the serving engine's own that an abort discarded are put in again (11, R219, R223). -/
def Dev.rebindServing (d : Dev) (p : Nat) : Dev :=
  let j := (d.px p).job
  let d := d.each ((d.ptnClusters p).filter fun n => (d.reservedBy n).isNone) fun d n => d.bindServing n j
  let d := d.each ((d.ptnStacks p).map (· + 0x2000) ++ (d.ptnDmas p).map (· + 0x4000)) fun d u =>
    (if d.qBound u 0 && d.qJob u 0 ≠ j then d.unbindQ u 0 else d).bindQ u 0 j 15
  let d := d.modJob j fun x => { x with faulted := false, named := [], namesAll := none, state := if x.state = 2 then 0 else x.state }
  (d.engCmds.filter fun c => c.ptn = p).foldl (fun d c => d.feed (0x2000 + c.stk) 0 [leBytes 72 c.cmd.toNat] 0 0) d

end Sys2Proof.Machine
end

