-- ==== Sys2Proof/Machine/Sched0.lean ====
section
/-! DEFINITION. Eligibility, slices and serving windows (11, R219, R220, R231, R233, R234). -/

namespace Sys2Proof.Machine

/-- Send a change of eligibility of a job: the scheduler's word is its STATE; each unit applies it under R220. The overrun of a job that loses eligibility with work still running runs from now. -/
def Dev.setElig (d : Dev) (j : Nat) (on : Bool) : Dev :=
  let x := d.job j
  if x.state = 2 || x.cls = 3 || x.cls = 0 then d
  else if on then (d.chargeOverrun j).modJob j fun x => { x with state := 1 }
  else if x.state = 1 then d.modJob j fun x => { x with state := 0, endedAt := if d.workLeft j then some d.ao else none }
  else d

/-- Length of a group's slice, and the group that holds or next holds the slice (R236). -/
def Dev.sliceLen (d : Dev) (p g : Nat) : Nat := d.getF (pPtn p) (0x384 + 4 * g) 23 0
def Dev.sliceGroup (d : Dev) (p : Nat) : Nat := d.getF (pPtn p) 0x3A8 2 0
/-- A serving window is open. -/
def Dev.windowOpen (d : Dev) (p : Nat) : Bool := d.bit (pPtn p) 0x3A8 3

/-- General jobs of a group. -/
def Dev.groupJobs (d : Dev) (p g : Nat) : List Nat :=
  (d.jobs.filter fun e => e.2.ptn = p && e.2.cls = 2 && e.2.group = g).map Prod.fst

/-- A group takes slices: LEN is not 0 and it has a bound job (R231). -/
def Dev.groupRuns (d : Dev) (p g : Nat) : Bool := d.sliceLen p g ≠ 0 && (d.groupJobs p g).any fun j => !(d.jobUnits j).isEmpty

/-- The first group that takes slices, from `g` in rotation. -/
def Dev.nextGroup (d : Dev) (p g : Nat) : Option Nat := ((List.range 8).map fun i => (g + i) % 8).find? (d.groupRuns p)

/-- Every general job of the partition loses eligibility (R233). -/
def Dev.allOff (d : Dev) (p : Nat) : Dev :=
  ((d.jobs.filter fun e => e.2.ptn = p && e.2.cls = 2).map Prod.fst).foldl (fun d j => d.setElig j false) d

/-- Account for the slice under way up to now: its length and the debt of its jobs run down; an overrun that still runs is charged so far first (R234). -/
def Dev.settleSlice (d : Dev) (p : Nat) : Dev :=
  match (d.px p).sliceAt with
  | none => d
  | some t =>
    let el := min (d.ao - t) (d.px p).sliceLeft
    let d := (d.groupJobs p (d.sliceGroup p)).foldl (fun d j =>
      (d.accrueOverrun j (some d.ao)).modJob j fun x => { x with debt := x.debt - el }) d
    d.modPx p fun x => { x with sliceAt := some d.ao, sliceLeft := x.sliceLeft - el }

/-- The jobs of the slice under way that owe nothing, and of which no overrun still runs, are eligible (R231, R234). -/
def Dev.sliceJobsOn (d : Dev) (p : Nat) : Dev :=
  (d.groupJobs p (d.sliceGroup p)).foldl (fun d j =>
    let x := d.job j
    if x.debt = 0 && x.endedAt.isNone && x.state = 0 then d.setElig j true else d) d

/-- The group that holds the slice, or that next holds it (R236). -/
def Dev.shownGroup (d : Dev) (p : Nat) : Nat :=
  let g := d.sliceGroup p
  if (d.px p).sliceAt.isSome || 0 < (d.px p).sliceLeft && d.groupRuns p g then g else (d.nextGroup p g).getD g

/-- Begin, or resume, the slice of the next group that takes slices. -/
def Dev.beginSlice (d : Dev) (p : Nat) : Dev :=
  let resume := 0 < (d.px p).sliceLeft && d.groupRuns p (d.sliceGroup p)
  if resume then (d.modPx p fun x => { x with sliceAt := some d.ao }).sliceJobsOn p
  else match d.nextGroup p (d.sliceGroup p) with
    | none => d.modPx p fun x => { x with sliceAt := none, sliceLeft := 0 }
    | some g =>
      let d := d.setF (pPtn p) 0x3A8 2 0 g
      (d.modPx p fun x => { x with sliceAt := some d.ao, sliceLeft := d.sliceLen p g }).sliceJobsOn p

/-- The scheduler's decision: a slice that has run out ends and the next group's begins; a job whose debt is spent becomes eligible; outside serving windows only (R231). -/
def Dev.schedule (d : Dev) (p : Nat) : Dev :=
  if d.windowOpen p then d
  else match (d.px p).sliceAt with
    | none => d.beginSlice p
    | some _ =>
      let d := d.settleSlice p
      if 0 < (d.px p).sliceLeft && d.groupRuns p (d.sliceGroup p) then d.sliceJobsOn p
      else
        let d := (d.allOff p).setF (pPtn p) 0x3A8 2 0 ((d.sliceGroup p + 1) % 8)
        (d.modPx p fun x => { x with sliceAt := none, sliceLeft := 0 }).beginSlice p

/-- A serving window opens: the slice under way ends early, the general jobs lose eligibility, the serving job gains it. A boundary in the same ao-cycle gives the slice after the window to the next group (R231). -/
def Dev.openWindow (d : Dev) (p : Nat) : Dev :=
  let had := (d.px p).sliceAt.isSome
  let d := d.settleSlice p
  let d := if had && (d.px p).sliceLeft = 0 then
      let g := (d.sliceGroup p + 1) % 8
      d.setF (pPtn p) 0x3A8 2 0 ((d.nextGroup p g).getD g)
    else d
  let d := (d.allOff p).setBit (pPtn p) 0x3A8 3 true
  (d.modPx p fun x => { x with sliceAt := none, windowAt := d.ao }).setElig (d.px p).job true

/-- The serving window closes: the serving job loses eligibility and the slices go on. -/
def Dev.closeWindow (d : Dev) (p : Nat) : Dev :=
  ((d.setElig ((d.px p).job) false).setBit (pPtn p) 0x3A8 3 false).schedule p

/-- One unit applies what the scheduler has sent for a job: newly ineligible transfers stop at a unit boundary (R220, R233). -/
def Dev.applyElig (d : Dev) (u : UnitKey) (j : Nat) : Dev :=
  let x := d.job j
  let on := x.state = 1
  if x.cls = 3 || on = x.applied.contains u then d
  else if on then d.modJob j fun x => { x with applied := addSet x.applied u }
  else
    let d := d.modJob j fun x => { x with applied := delSet x.applied u }
    if u < 0x2000 then d
    else if u < 0x4000 then
      d.each (List.range 4) fun d e => match tget? (d.stk (u - 0x2000)).copiers e with
        | some r => if r.job = j then d.copyStop (u - 0x2000) e else d
        | none => d
    else
      d.each (List.range 2) fun d q => match tget? (d.dma (u - 0x4000)).xfers q with
        | some x => if x.job = j then d.dmaStop (u - 0x4000) q 1 none else d
        | none => d

/-- ELIGIBILITY_APPLY (R220): every job with a queue in the unit. -/
def execEligibilityApply (u : Fin 0x4100) (s : State) : Out := s.upd fun d =>
  (((below (uQueues u) (d.qBound u)).map (d.qJob u)).eraseDups).foldl (fun d j => d.applyElig u.val j) d

/-- SLICE_END (R231, R233): the scheduler of a partition decides. -/
def execSliceEnd (p : Fin 24) (s : State) : Out := s.upd fun d => d.schedule p

end Sys2Proof.Machine
end

