-- ==== Sys2Proof/Machine/Sha.lean ====
section
/-! DEFINITION. SHAKE256 (FIPS 202), which keys, hashes and measurements use (09, R185; 16, R336–R348; 19, R398). The state is a list of 25 lanes, lane (x, y) at place x + 5 y; the offsets of ρ and the constants of ι are generated as FIPS 202 generates them. -/

namespace Sys2Proof.Machine

/-- Rotate a 64-bit lane left by `n` places, `n` below 64. -/
def rotLane (v n : Nat) : Nat := v * 2 ^ n % 2 ^ 64 + v / 2 ^ (64 - n)

/-- Lane (x, y) of a state. -/
def laneAt (a : List Nat) (x y : Nat) : Nat := (a[x % 5 + 5 * (y % 5)]?).getD 0

/-- A state from a function of the coordinates. -/
def fromLanes (f : Nat → Nat → Nat) : List Nat := (List.range 25).map fun i => f (i % 5) (i / 5)

/-- θ: each lane takes up the parities of two columns. -/
def stepTheta (a : List Nat) : List Nat :=
  let col := (List.range 5).map fun x => (List.range 5).foldl (fun p y => p ^^^ laneAt a x y) 0
  let c (x : Nat) : Nat := (col[x % 5]?).getD 0
  let e := (List.range 5).map fun x => c (x + 4) ^^^ rotLane (c (x + 1)) 1
  fromLanes fun x y => laneAt a x y ^^^ (e[x]?).getD 0

/-- The walk of ρ and π over the 24 lanes other than (0, 0): from (x, y), met at step `t`, the lane goes to (y, 2 x + 3 y), turned by (t + 1)(t + 2) / 2. -/
def walkRhoPi (a : List Nat) : Nat → Nat → Nat → Nat → List Nat → List Nat
  | 0, _, _, _, b => b
  | f + 1, t, x, y, b =>
    let x' := y
    let y' := (2 * x + 3 * y) % 5
    walkRhoPi a f (t + 1) x' y' (modAt b (x' + 5 * y') fun _ => rotLane (laneAt a x y) ((t + 1) * (t + 2) / 2 % 64))

/-- χ: each lane against the two to its right in its row. -/
def stepChi (a : List Nat) : List Nat :=
  fromLanes fun x y => laneAt a x y ^^^ ((2 ^ 64 - 1 - laneAt a (x + 1) y) &&& laneAt a (x + 2) y)

/-- One step of the shift register of ι, x^8 + x^6 + x^5 + x^4 + 1. -/
def iotaShift (r : Nat) : Nat := (r * 2 % 256) ^^^ (r / 128 * 0x71)

/-- Seven bits of the shift register go to places 2^j − 1 of the constant of a round. -/
def iotaConst : Nat → Nat → Nat → Nat × Nat
  | 0, _, r => (r, 0)
  | f + 1, j, r =>
    let r := iotaShift r
    let (r', c) := iotaConst f (j + 1) r
    (r', (if r / 2 % 2 = 1 then 2 ^ (2 ^ j - 1) else 0) + c)

/-- `f` rounds of Keccak-f[1600] from a state and a shift register. -/
def keccakRounds : Nat → Nat → List Nat → List Nat
  | 0, _, a => a
  | f + 1, r, a =>
    let (r, rc) := iotaConst 7 0 r
    let b := stepTheta a
    let b := stepChi (walkRhoPi b 24 0 1 0 b)
    keccakRounds f r (modAt b 0 fun v => v ^^^ rc)

/-- Keccak-f[1600]: 24 rounds. -/
def keccakF (a : List Nat) : List Nat := keccakRounds 24 1 a

/-- Take up blocks of 136 bytes. -/
def spongeIn : Nat → List Byte → List Nat → List Nat
  | 0, _, a => a
  | n + 1, bs, a => spongeIn n (bs.drop 136) (keccakF (a.mapIdx fun i v => if i < 17 then v ^^^ numAt bs (8 * i) 8 else v))

/-- Give `n` blocks of 136 bytes. -/
def spongeOut : Nat → List Nat → List Byte
  | 0, _ => []
  | n + 1, a => (a.take 17).flatMap (leBytes 8) ++ spongeOut n (keccakF a)

/-- SHAKE256 of a byte string, its first `n` bytes. -/
def shake256 (bs : List Byte) (n : Nat) : List Byte :=
  let k := bs.length / 136 + 1
  let m := bytesAt (bs ++ [0x1F#8]) 0 (136 * k)
  let m := patchBytes m (136 * k - 1) [BitVec.ofNat 8 (numAt m (136 * k - 1) 1 ^^^ 0x80)]
  (spongeOut (ceilDiv n 136) (spongeIn k m (List.replicate 25 0))).take n

end Sys2Proof.Machine
end

