-- ==== Sys2Proof/Machine/Pool.lean ====
section
/-! DEFINITION. The Cullet pool and its punty handles (09, R174–R190; 08, R147–R151, R172): ranges, backing, copies, holder counts, handles, nodes, publishing, attaching, dropping. -/

namespace Sys2Proof.Machine

/-! ### Pages (R174–R178) -/

/-- The pool's table pages. -/
def Dev.isTablePage (d : Dev) (p k : Nat) : Bool :=
  match (d.px p).poolTables with
  | some (a, b) => pageDpa k = a || pageDpa k = b
  | none => false

/-- A page is free: in the range, in a channel in service, not in use, not held for tables (R176; 17, R371). -/
def Dev.pageFree (d : Dev) (p s g : Nat) : Bool :=
  d.poolOn p && d.inPool p s g && d.bit (pStk s 0) 0x40 (g % 32) && !d.isTablePage p (pageKey s g) && (tget? (d.px p).pool (pageKey s g)).isNone

/-- Free pages of a stack: KVP_FREE. -/
def Dev.freePages (d : Dev) (p s : Nat) : Nat :=
  if !d.poolOn p then 0
  else ((List.range (32 * d.poolRows p s)).filter fun i => d.pageFree p s (d.poolFirst p s + i)).length

/-- Pages of a stack with a holder count above 1: KVP_SHARED. -/
def Dev.sharedPages (d : Dev) (p s : Nat) : Nat := ((d.px p).pool.filter fun e => e.1 / 65536 = s && 1 < e.2).length

/-- KVP_CFG.RESERVE_PAGES, GROW_POLICY and SHARE_MODE. -/
def Dev.reservePages (d : Dev) (p : Nat) : Nat := d.getF (pKvp p) 0x40 15 0
def Dev.growFails (d : Dev) (p : Nat) : Bool := d.bit (pKvp p) 0x40 16
def Dev.cow (d : Dev) (p : Nat) : Bool := d.bit (pKvp p) 0x40 17

/-- Pages of a stack that a demand class may take (R178). -/
def Dev.openOn (d : Dev) (p s : Nat) (fill : Bool) : Nat := d.freePages p s - (if fill then d.reservePages p else 0)
def Dev.openPages (d : Dev) (p : Nat) (fill : Bool) : Nat := (d.ptnStacks p).foldl (fun a s => a + d.openOn p s fill) 0

/-- The page that backs (l, b): stack, channel and granule as R177 chooses them. -/
def Dev.choosePage (d : Dev) (p l b : Nat) (fill : Bool) : Option Nat :=
  let ss := d.ptnStacks p
  let n := ss.length
  match (List.range n).findSome? fun i => (ss[(b + l + i) % n]?).filter fun s => 0 < d.openOn p s fill with
  | none => none
  | some s =>
    (List.range 32).findSome? fun i =>
      let c := (b / n + l + i) % 32
      (lowest (d.poolRows p s) fun r => d.pageFree p s (d.poolFirst p s + 32 * r + c)).map fun r =>
        pageKey s (d.poolFirst p s + 32 * r + c)

/-- Install one leaf of the pool; what it covered is invalidated (R262). None when the translation area has no room. -/
def Dev.poolLeaf (d : Dev) (p pva l leaf : Nat) : Option Dev :=
  let had := d.pageHeld p pva l
  match d.putLeaf p pva l leaf with
  | none => none
  | some d => some (if had then (d.startInval p [(pva, leafBytes l)] none).2 else d)

/-- Map page `k` as page `i` = l × PPL + b of a region, with its scale slot for MX8 (R177, 08, R148). -/
def Dev.mapPage (d : Dev) (p k i region sregion : Nat) (w16 write : Bool) (fmt : Nat) : Option Dev :=
  match d.poolLeaf p (region + i * 2 ^ 21) 1 (mkLeaf (pageDpa k) true write false true 0 fmt) with
  | none => none
  | some d =>
    if w16 then some d
    else d.poolLeaf p (sregion + i * 65536) 0 (mkLeaf (d.scaleDpa p k) true write false true 0 0)

/-- Format tag of the leaf that maps page `i` of a region. -/
def Dev.pageTag (d : Dev) (p i region : Nat) : Nat :=
  match (d.walk p (region + i * 2 ^ 21)).leaf with
  | some e => xKvfmt e
  | none => 0

/-- Holder count of a page, and its change. -/
def Dev.holders (d : Dev) (p k : Nat) : Nat := tgetD (d.px p).pool k 0
def Dev.addHolder (d : Dev) (p k : Nat) : Dev := d.modPx p fun x => { x with pool := tput x.pool k (tgetD x.pool k 0 + 1) }
def Dev.subHolder (d : Dev) (p k : Nat) : Dev := d.modPx p fun x => { x with pool := tput x.pool k (tgetD x.pool k 0 - 1) }

/-! ### Release (R172, R183) -/

/-- Number of the step in flight, 0 for none. -/
def Dev.stepId (d : Dev) (p : Nat) : Nat := match (d.px p).step with | some t => t.id | none => 0

/-- Unmap pages of a region and lower their counts; those that reach 0 wait for their return. `pages`: page number of the region and page key. -/
def Dev.unmapPages (d : Dev) (p : Nat) (pages : List (Nat × Nat)) (region sregion : Nat) (w16 : Bool) (req : Option Nat) (step : Nat) : Dev :=
  if pages.isEmpty then d
  else
    let d := pages.foldl (fun d e =>
      let d := d.dropLeaf p (region + e.1 * 2 ^ 21) 1
      let d := if w16 then d else d.dropLeaf p (sregion + e.1 * 65536) 0
      d.subHolder p e.2) d
    let (id, d) := d.startInval p (pages.flatMap fun e =>
      (region + e.1 * 2 ^ 21, 2 ^ 21) :: (if w16 then [] else [(sregion + e.1 * 65536, 65536)])) none
    let gone := (pages.map Prod.snd).eraseDups.filter fun k => d.holders p k = 0
    d.modPx p fun x => { x with rets := x.rets ++ gone.map fun k => ⟨k, req, step, id⟩ }

/-- Release the pages of a request that `f` names by their number (R172). -/
def Dev.releasePages (d : Dev) (p i : Nat) (f : Nat → Bool) : Dev :=
  let r := d.rq i
  let l := (d.rx i).maps.filter fun e => f e.1
  let d := d.modRx i fun x => { x with maps := x.maps.filter fun e => !f e.1 }
  d.unmapPages p l (rqRegion r) (rqSregion r) (rqW16 r) (some i) (d.stepId p)

/-! ### Handle and node tables (R186) -/

/-- Handle record `i` and node record `j`, as numbers. -/
def Dev.hrecAt (d : Dev) (p i : Nat) : Option Nat := (d.px p).poolTables.map fun t => t.1 + 64 * i
def Dev.nodeAt (d : Dev) (p j : Nat) : Option Nat := (d.px p).poolTables.map fun t => t.2 + 32 * j
def Dev.hrec (d : Dev) (p i : Nat) : Nat := match d.hrecAt p i with | some a => d.readNum a 64 | none => 0
def Dev.node (d : Dev) (p j : Nat) : Nat := match d.nodeAt p j with | some a => d.readNum a 32 | none => 0
def Dev.setHrec (d : Dev) (p i v : Nat) : Dev := match d.hrecAt p i with | some a => d.writeNum a 64 v | none => d
def Dev.setNode (d : Dev) (p j v : Nat) : Dev := match d.nodeAt p j with | some a => d.writeNum a 32 v | none => d

def hrState (h : Nat) : Nat := fld h 1 0
def hrPin (h : Nat) : Bool := bitOf h 2
def hrTree (h : Nat) : Bool := !bitOf h 3
def hrGen (h : Nat) : Nat := fld h 31 16
def hrLength (h : Nat) : Nat := fld h 54 32
def hrBlocks (h : Nat) : Nat := fld h 83 64
def hrAttached (h : Nat) : Nat := fld h 95 84
def hrRegion (h : Nat) : Nat := fld h 143 96
def hrSregion (h : Nat) : Nat := fld h 191 144
def hrLeaf (h : Nat) : Nat := fld h 207 192
def hrLayers (h : Nat) : Nat := fld h 223 208
def hrKvh (h : Nat) : Nat := fld h 229 224
def hrHdim (h : Nat) : Nat := fld h 231 230
def hrW16 (h : Nat) : Bool := bitOf h 232
def hrKey (h : Nat) : Nat := fld h 383 256
def hrLastUse (h : Nat) : Nat := fld h 511 448

def ndKey (n : Nat) : Nat := fld n 127 0
def ndParent (n : Nat) : Nat := fld n 143 128
def ndRefs (n : Nat) : Nat := fld n 159 144
def ndBlock (n : Nat) : Nat := fld n 179 160

/-- Handle entries in a state; nodes in use. -/
def Dev.handlesIn (d : Dev) (p st : Nat) : List Nat := if d.poolOn p then below 4096 fun i => hrState (d.hrec p i) = st else []
def Dev.nodesUsed (d : Dev) (p : Nat) : Nat := if d.poolOn p then (below 65535 fun j => ndRefs (d.node p j) ≠ 0).length else 0

/-- The nodes of a path from its leaf, block 0 first. -/
def Dev.nodePath (d : Dev) (p : Nat) : Nat → Nat → List Nat
  | 0, _ => []
  | n + 1, j => Dev.nodePath d p n (ndParent (d.node p j)) ++ [j]

/-- Fields of a handle value (R186). -/
def hdIndex (h : Nat) : Nat := fld h 11 0
def hdGen (h : Nat) : Nat := fld h 31 16
def hdPtn (h : Nat) : Nat := fld h 36 32
def handleOf (i gen p len : Nat) (cow : Bool) : Nat :=
  i % 4096 + gen % 65536 * 2 ^ 16 + p % 32 * 2 ^ 32 + len % 2 ^ 23 * 2 ^ 40 + (if cow then 2 ^ 63 else 0)

/-! ### Keys (R185) -/

/-- Keys of the blocks of a token sequence, T tokens a block; the last block of the sequence may be short. -/
def blockKeys (salt : List Byte) (t : Nat) : Nat → List Byte → List Nat → List (List Byte)
  | 0, _, _ => []
  | n + 1, prev, toks =>
    let k := shake256 (salt ++ prev ++ (toks.take t).flatMap (leBytes 4)) 16
    k :: blockKeys salt t n k (toks.drop t)

/-- Keys of the first `n` blocks of a token sequence of partition `p`. -/
def Dev.keysOf (d : Dev) (p t n : Nat) (toks : List Nat) : List Nat :=
  (blockKeys (d.px p).salt t n (List.replicate 16 0) toks).map leNat

/-- Prompt tokens of a request, from memory. -/
def Dev.promptToks (d : Dev) (p r n : Nat) : List Nat :=
  let bs := d.getPva p (rqPromptPva r) (4 * n)
  (List.range n).map fun k => numAt bs (4 * k) 4

/-- The first `n` tokens of a request: its prompt, then what it has emitted. -/
def Dev.tokensOf (d : Dev) (p i n : Nat) : List Nat :=
  let r := d.rq i
  (d.promptToks p r (min n (rqPrompt r)) ++ (d.rx i).emitted).take n

/-! ### Dropping a handle (R189) -/

/-- Unmap a RESIDENT handle's region, lower its nodes' REFS, and set DROPPED. -/
def Dev.dropHandle (d : Dev) (p i : Nat) : Dev :=
  let h := d.hrec p i
  if hrState h ≠ 1 then d
  else
    let l := tgetD (d.px p).handles i []
    let d := d.modPx p fun x => { x with handles := tdel x.handles i }
    let d := d.unmapPages p l (hrRegion h) (hrSregion h) (hrW16 h) none (d.stepId p)
    let path := if hrTree h then d.nodePath p (hrBlocks h) (hrLeaf h) else []
    let d := path.foldl (fun d j =>
      let n := d.node p j
      if ndRefs n ≤ 1 then d.setNode p j 0 else d.setNode p j (setFld n 159 144 (ndRefs n - 1))) d
    let d := d.setHrec p i (setFld h 1 0 2)
    let d := { d with reqX := tmap d.reqX fun k x => if x.handle = some i && d.reqPtn k = some p then { x with handle := none } else x }
    d.addCount (pKvp p) 0x64 1

/-- The idle handle that is dropped next (R189): not pinned, the smallest LAST_USE. -/
def Dev.idleHandle (d : Dev) (p : Nat) : Option Nat :=
  ((d.handlesIn p 1).filter fun i => !hrPin (d.hrec p i) && hrAttached (d.hrec p i) = 0).foldl (fun (a : Option Nat) i =>
    match a with
    | none => some i
    | some k => if hrLastUse (d.hrec p i) < hrLastUse (d.hrec p k) then some i else a) none

/-! ### The pass over the members (R179, R180) -/

/-- Pages that a member needs: page numbers of its region, not backed or shared, for slots `lo` to `hi`. -/
def Dev.pagesNeeded (d : Dev) (p i lo hi : Nat) : List Nat :=
  let r := d.rq i
  let t := rqT r
  let maps := (d.rx i).maps
  (List.range (rqLayers r)).flatMap fun l =>
    ((List.range (hi / t + 1 - lo / t)).map fun b => l * rqPpl r + (lo / t + b)).filter fun k =>
      match tget? maps k with
      | none => true
      | some g => 1 < d.holders p g

/-- Drop idle handles until the free pages open to a class cover what the member needs, which a drop can lessen, or none is left (R179). -/
def Dev.dropIdle (p i lo hi : Nat) (fill : Bool) : Nat → Dev → Dev
  | 0, d => d
  | n + 1, d =>
    if (d.pagesNeeded p i lo hi).length ≤ d.openPages p fill then d
    else match d.idleHandle p with
      | none => d
      | some h => Dev.dropIdle p i lo hi fill n (d.dropHandle p h)

/-- Back page number `k` of request `i`; a shared page is copied first (R177, R180). Answers the copies issued. -/
def Dev.backPage (d : Dev) (p i k : Nat) (fill : Bool) : Option (Dev × List Nat) :=
  let r := d.rq i
  let old := tget? (d.rx i).maps k
  match d.choosePage p (k / rqPpl r) (k % rqPpl r) fill with
  | none => none
  | some g =>
    match d.mapPage p g k (rqRegion r) (rqSregion r) (rqW16 r) true (rqKvfmt r) with
    | none => none
    | some d =>
      let d := (d.addHolder p g).modRx i fun x => { x with maps := tput x.maps k g }
      match old with
      | none => some (d, [])
      | some o =>
        let d := (d.subHolder p o).addCount (pKvp p) 0x60 1
        let (t, d) := d.engIssue p (o / 65536) (copyCmd (pageDpa o) (pageDpa g) 512) true
        if rqW16 r then some (d, [t])
        else
          let (u, d) := d.engIssue p (o / 65536) (copyCmd (d.scaleDpa p o) (d.scaleDpa p g) 16) true
          some (d, [t, u])

/-- Back a list of pages. -/
def Dev.backAll (p i : Nat) (fill : Bool) : List Nat → Dev → Option (Dev × List Nat)
  | [], d => some (d, [])
  | k :: t, d =>
    match d.backPage p i k fill with
    | none => none
    | some (d, c) => (Dev.backAll p i fill t d).map fun x => (x.1, c ++ x.2)

/-- Back what a member needs, all of it or nothing. Answers the copies issued, none when it must wait (R179). -/
def Dev.backMember (d : Dev) (p i lo hi : Nat) (fill : Bool) : Dev × Option (List Nat) :=
  let d := Dev.dropIdle p i lo hi fill 4096 d
  let need := d.pagesNeeded p i lo hi
  if d.openPages p fill < need.length then (d, none)
  else match Dev.backAll p i fill need d with
    | none => (d, none)
    | some (d, c) => (d, some c)

/-! ### Attaching (R188) -/

/-- Map the attached pages of a handle into a request's region. -/
def Dev.attachPages (p i h blocks : Nat) : List (Nat × Nat) → Dev → Option Dev
  | [], d => some d
  | (l, b) :: t, d =>
    let r := d.rq i
    let hr := d.hrec p h
    let k := l * rqPpl r + b
    match tget? (tgetD (d.px p).handles h []) (l * hrBlocks hr + b) with
    | none => Dev.attachPages p i h blocks t d
    | some g =>
      match d.mapPage p g k (rqRegion r) (rqSregion r) (rqW16 r) true (d.pageTag p (l * hrBlocks hr + b) (hrRegion hr)) with
      | none => none
      | some d => Dev.attachPages p i h blocks t ((d.addHolder p g).modRx i fun x => { x with maps := tput x.maps k g })

/-- Why a request's handle is not attached whatever its tokens are: the outcome code (R188). -/
def Dev.attachRefused (d : Dev) (p i : Nat) : Option Nat :=
  let r := d.rq i
  let v := rqHandle r
  let h := d.hrec p (hdIndex v)
  if hrState h ≠ 1 || hrGen h ≠ hdGen v || hdPtn v ≠ p then some (if hrState h = 2 && hrGen h = hdGen v then 2 else 1)
  else if hrLayers h ≠ rqLayers r || hrKvh h + 1 ≠ rqKvh r || hrHdim h ≠ rqHdim r || hrW16 h ≠ rqW16 r || rqMaxlen r < hrLength h then some 3
  else if !hrTree h && rqPrompt r < hrLength h then some 4
  else none

/-- Prompt tokens that are compared with the handle. -/
def Dev.attachTokens (d : Dev) (i : Nat) (h : Nat) : Nat :=
  let r := d.rq i
  if hrTree h then min (hrBlocks h) ((rqPrompt r - 1) / rqT r) * rqT r else hrLength h

/-- The outcome code and attached length of a request's handle (R188). -/
def Dev.attachOutcome (d : Dev) (p i : Nat) : Nat × Nat :=
  let r := d.rq i
  let h := d.hrec p (hdIndex (rqHandle r))
  let t := rqT r
  let toks := d.promptToks p r (d.attachTokens i h)
  match d.attachRefused p i with
  | some c => (c, 0)
  | none =>
    if !hrTree h then
      if (d.keysOf p t (hrBlocks h) toks).getLast? ≠ some (hrKey h) then (4, 0)
      else (0, min (hrLength h) (rqPrompt r - 1))
    else
      let path := (d.nodePath p (hrBlocks h) (hrLeaf h)).map fun j => ndKey (d.node p j)
      let keys := d.keysOf p t (toks.length / t) toks
      let j := ((keys.zip path).takeWhile fun e => e.1 = e.2).length
      if 1 ≤ j then (0, j * t) else (4, 0)

/-- The prompt tokens that an attachment reads hold a mark: the member fails with its code (17, R366). -/
def Dev.promptConsumed (d : Dev) (p i : Nat) : Dev × Option Nat :=
  let r := d.rq i
  if rqHandle r = 0 || (d.attachRefused p i).isSome then (d, none)
  else match d.engRead p (rqPromptPva r) (4 * d.attachTokens i (d.hrec p (hdIndex (rqHandle r)))) with
    | (d, .error c) => (d, if c = 0x3001 then some c else none)
    | (d, .ok _) => (d, none)

/-- Attach a request in its first pass: the outcome code, A; none when the translation area has no room, and the member waits. -/
def Dev.attach (d : Dev) (p i : Nat) : Option (Dev × Nat × Nat) :=
  let r := d.rq i
  if rqHandle r = 0 then some (d, 7, 0)
  else
    let (c, a) := d.attachOutcome p i
    if c ≠ 0 then some (d, c, 0)
    else
      let hi := hdIndex (rqHandle r)
      let blocks := ceilDiv a (rqT r)
      let pages := (List.range (rqLayers r)).flatMap fun l => (List.range blocks).map fun b => (l, b)
      match Dev.attachPages p i hi blocks pages d with
      | none => none
      | some d =>
        let h := d.hrec p hi
        let d := d.setHrec p hi (setFld (setFld h 95 84 (hrAttached h + 1)) 511 448 d.ao)
        let d := d.modRx i fun x => { x with handle := some hi, blocks := a / rqT r }
        some (d.setRqF i 54 32 a, 0, a)

/-- An attached request has left the live states: ATTACHED falls (R188). -/
def Dev.detach (d : Dev) (p i : Nat) : Dev :=
  match (d.rx i).handle with
  | none => d
  | some h =>
    let v := d.hrec p h
    (d.setHrec p h (setFld v 95 84 (hrAttached v - 1))).modRx i fun x => { x with handle := none }

/-! ### Publishing (R187) -/

abbrev cHandleInvalid : Nat := 0xA008
abbrev cHandleFull : Nat := 0xA009
abbrev cNodeFull : Nat := 0xA00A
abbrev cHandleSpace : Nat := 0xA00B
abbrev cPrefixUnreached : Nat := 0xA00C
abbrev cPrefixShort : Nat := 0xA00D

/-- Regions of the handles, in rising order. -/
def Dev.handleRegions (d : Dev) (p : Nat) : List (Nat × Nat) :=
  ((d.handlesIn p 1).foldl (fun (t : Tbl Nat) i =>
    let h := d.hrec p i
    let n := hrLayers h * hrBlocks h
    tput t (hrRegion h) (n * 2 ^ 21 + if hrW16 h then 0 else n * 65536)) [])

/-- Map the pages of a request into a handle region. -/
def Dev.publishPages (p i h region sregion blocks : Nat) : List (Nat × Nat) → Dev → Option Dev
  | [], d => some d
  | (l, b) :: t, d =>
    let r := d.rq i
    match tget? (d.rx i).maps (l * rqPpl r + b) with
    | none => Dev.publishPages p i h region sregion blocks t d
    | some g =>
      match d.mapPage p g (l * blocks + b) region sregion (rqW16 r) false (d.pageTag p (l * rqPpl r + b) (rqRegion r)) with
      | none => none
      | some d =>
        Dev.publishPages p i h region sregion blocks t
          ((d.addHolder p g).modPx p fun x => { x with handles := tmod x.handles h [] fun m => tput m (l * blocks + b) g })

/-- Create the nodes of a published path; the attached blocks reuse the nodes of their handle. Answers the leaf. -/
def Dev.makeNodes (p : Nat) (reuse : List Nat) : List Nat → Nat → Nat → Dev → Nat × Dev
  | [], _, parent, d => (parent, d)
  | k :: t, b, parent, d =>
    match reuse[b]? with
    | some j =>
      let n := d.node p j
      Dev.makeNodes p reuse t (b + 1) j (d.setNode p j (setFld n 159 144 (ndRefs n + 1)))
    | none =>
      match lowest 65535 fun j => ndRefs (d.node p j) = 0 with
      | none => (parent, d)
      | some j => Dev.makeNodes p reuse t (b + 1) j (d.setNode p j (k + parent % 65536 * 2 ^ 128 + 2 ^ 144 + b % 2 ^ 20 * 2 ^ 160))

/-- Publish P tokens of a request: the outcome code and INFO, the low 32 bits of the handle (DESIGN CHOICE: INFO has 32 bits). A failure changes nothing. -/
def Dev.publishNow (d : Dev) (p i n : Nat) : Dev × Nat × Nat :=
  let r := d.rq i
  let t := rqT r
  let cow := d.cow p
  if !cow && n < t then (d, cPrefixShort, 0)
  else match (if d.poolOn p then lowest 4096 fun h => hrState (d.hrec p h) = 0 else none) with
  | none => (d, cHandleFull, 0)
  | some h =>
    let blocks := if cow then ceilDiv n t else n / t
    let len := if cow then n else blocks * t
    let reuse := match (d.rx i).handle with
      | some k => if cow then [] else (d.nodePath p (hrBlocks (d.hrec p k)) (hrLeaf (d.hrec p k))).take (min blocks (d.rx i).blocks)
      | none => []
    if !cow && 65535 < d.nodesUsed p + (blocks - reuse.length) then (d, cNodeFull, 0)
    else
      let pages := rqLayers r * blocks
      let size := pages * 2 ^ 21 + if rqW16 r then 0 else pages * 65536
      match firstFit (d.hwin p + 2 ^ 30) (d.hwin p + d.hwinBytes p) (2 ^ 21) size (d.handleRegions p) with
      | none => (d, cHandleSpace, 0)
      | some region =>
        let sregion := if rqW16 r then 0 else region + pages * 2 ^ 21
        let list := (List.range (rqLayers r)).flatMap fun l => (List.range blocks).map fun b => (l, b)
        match Dev.publishPages p i h region sregion blocks list d with
        | none => (d, cHandleSpace, 0)
        | some d =>
          let keys := d.keysOf p t blocks (d.tokensOf p i len)
          let (leaf, d) := if cow then (0, d) else Dev.makeNodes p reuse keys 0 0xFFFF d
          let gen := hrGen (d.hrec p h)
          let v := 1 + (if cow then 8 else 0) + gen * 2 ^ 16 + len * 2 ^ 32 + blocks * 2 ^ 64 + region * 2 ^ 96 + sregion * 2 ^ 144
            + leaf * 2 ^ 192 + rqLayers r * 2 ^ 208 + (rqKvh r - 1) * 2 ^ 224 + rqHdim r * 2 ^ 230 + (if rqW16 r then 2 ^ 232 else 0)
            + (if cow then (keys.getLast?).getD 0 * 2 ^ 256 else 0) + d.ao % 2 ^ 64 * 2 ^ 448
          (d.setHrec p h v, 0, handleOf h gen p len cow % 2 ^ 32)

/-- Publishes that are due at a commit: their request is live and its committed length has reached P. -/
def Dev.publishDue (d : Dev) (p : Nat) : Dev :=
  let due := (d.px p).pubs.filter fun b => rqGen (d.rq b.req) = b.gen && rqLive (d.rq b.req) && b.p ≤ rqLength (d.rq b.req)
  let d := d.modPx p fun x => { x with pubs := x.pubs.filter fun b => !due.contains b }
  due.foldl (fun d b =>
    let (d, c, info) := d.publishNow p b.req b.p
    d.post b.msg b.item c info) d

/-- A request leaves the live states: its publishes that are not due fail (R187). -/
def Dev.publishLost (d : Dev) (p i : Nat) : Dev :=
  let l := (d.px p).pubs.filter fun b => b.req = i
  let d := d.modPx p fun x => { x with pubs := x.pubs.filter fun b => b.req ≠ i }
  l.foldl (fun d b => d.post b.msg b.item cPrefixUnreached 0) d

/-- PUNTY_PUBLISH: the publish is registered, and the intake goes on (14, R303). -/
def Dev.puntyPublish (d : Dev) (i : Item) : Dev :=
  let p := i.ptn
  let k := numAt i.body 0 2
  let n := numAt i.body 4 3
  let r := d.rq k
  if !(d.ptnReqs p).contains k || !rqLive r || rqMaxlen r < n then d.endItem i cPrefixUnreached 0
  else if !d.cow p && n < rqT r then d.endItem i cPrefixShort 0
  else (d.modPx p fun x => { x with pubs := x.pubs ++ [⟨k, rqGen r, n, i.msg, i.item⟩] }).itemGoesOn i.msg

/-- The handle of a body is valid: its entry is not FREE, GEN and PTN agree. -/
def Dev.handleOk (d : Dev) (p v : Nat) : Bool :=
  let h := d.hrec p (hdIndex v)
  d.poolOn p && hrState h ≠ 0 && hrGen h = hdGen v && hdPtn v = p

/-- PUNTY_RELEASE: the handle is dropped, then its entry is free with GEN + 1. -/
def Dev.puntyRelease (d : Dev) (i : Item) : Dev :=
  let v := numAt i.body 0 8
  if !d.handleOk i.ptn v then d.endItem i cHandleInvalid 0
  else
    let d := d.dropHandle i.ptn (hdIndex v)
    (d.setHrec i.ptn (hdIndex v) ((hdGen v + 1) % 65536 * 2 ^ 16)).endItem i 0 0

/-- PUNTY_PIN sets or clears PIN. -/
def Dev.puntyPin (d : Dev) (i : Item) : Dev :=
  let v := numAt i.body 0 8
  if !d.handleOk i.ptn v then d.endItem i cHandleInvalid 0
  else (d.setHrec i.ptn (hdIndex v) (setFld (d.hrec i.ptn (hdIndex v)) 2 2 (numAt i.body 8 1))).endItem i 0 0

/-- PUNTY_PUBLISH, PUNTY_RELEASE and PUNTY_PIN, the next item of partition `p`. -/
def execPuntyPublish (p : Fin 25) (s : State) : Out := s.upd fun d => d.serveItem p 0x0050 Dev.puntyPublish
def execPuntyRelease (p : Fin 25) (s : State) : Out := s.upd fun d => d.serveItem p 0x0051 Dev.puntyRelease
def execPuntyPin (p : Fin 25) (s : State) : Out := s.upd fun d => d.serveItem p 0x0052 Dev.puntyPin

/-! ### Enabling the pool (R175) -/

/-- The checks of R175 for one stack; the translation area is kept clear too (16, R332). -/
def Dev.poolStackOk (d : Dev) (p s : Nat) : Bool :=
  let rows := d.poolRows p s
  let a := d.poolFirst p s
  let c := d.scaleFirst p s
  1 ≤ rows && a + 32 * rows ≤ 65536 && c + rows ≤ 65536 && !meets (a, 32 * rows) (c, rows)
  && !meets (d.xaBase p, d.xaBytes p) (stkBase s + a * 2 ^ 21, 32 * rows * 2 ^ 21)
  && !meets (d.xaBase p, d.xaBytes p) (stkBase s + c * 2 ^ 21, rows * 2 ^ 21)

/-- POOL_ENABLE: none when a check fails. The two lowest granules of the range are the table pages, cleared and mapped read-only at the window (DESIGN CHOICE which granules). -/
def Dev.poolEnable (d : Dev) (p : Nat) : Option Dev :=
  match d.ptnStacks p with
  | [] => none
  | s :: t =>
    if !((s :: t).all (d.poolStackOk p)) then none
    else
      let a := pageDpa (pageKey s (d.poolFirst p s))
      let b := a + 2 ^ 21
      let d := ((d.zeroRange a (2 ^ 21)).zeroRange b (2 ^ 21)).modPx p fun x => { x with 
        poolTables := some (a, b)
        pool := x.pool.filter fun e => x.rets.any fun r => r.page = e.1
        handles := [] }
      if d.hwinBytes p = 0 then some d
      else match d.poolLeaf p (d.hwin p) 1 (mkLeaf a true false false true 0 0) with
        | none => none
        | some d => d.poolLeaf p (d.hwin p + 2 ^ 21) 1 (mkLeaf b true false false true 0 0)

/-- The pool is emptied: every page and table is given up, but for pages that an invalidation still holds (R183 last row, R189; 13, R264). -/
def Dev.poolEmpty (d : Dev) (p : Nat) : Dev :=
  d.modPx p fun x =>
    let left := x.rets.filter fun r => d.invals.any fun v => v.id = r.inval
    { x with
      pool := (x.pool.filter fun e => left.any fun r => r.page = e.1).map fun e => (e.1, 0)
      rets := left.map fun r => { r with req := none, step := 0 }
      handles := []
      pubs := [] }

/-- ENABLE goes to 0: the table pages are unmapped and given up. -/
def Dev.poolDisable (d : Dev) (p : Nat) : Dev :=
  let d := if d.hwinBytes p = 0 then d
    else (d.startInval p [(d.hwin p, 2 ^ 22)] none).2.dropLeaf p (d.hwin p) 1 |>.dropLeaf p (d.hwin p + 2 ^ 21) 1
  d.modPx p fun x => { x with poolTables := none }

end Sys2Proof.Machine
end

