-- ==== Sys2Proof/Machine/ServeReq.lean ====
section
/-! DEFINITION. Requests (10, R192–R197, R204–R206, R212–R214): admission, records, the ends of a request, its return to FREE, adapters. -/

namespace Sys2Proof.Machine

/-! ### Codes (R215) -/

abbrev cReqState : Nat := 0xA00E
abbrev cReqInvalid : Nat := 0xA00F
abbrev cReqRegion : Nat := 0xA010
abbrev cBatchInvalid : Nat := 0xA011
abbrev cAdapterInvalid : Nat := 0xA012
abbrev cAdapterBusy : Nat := 0xA004
abbrev cLehrStop : Nat := 0x8002

/-- The serving job of a partition. -/
def Dev.servingJob (d : Dev) (p : Nat) : Nat := (d.px p).job

/-! ### Adapters (R212–R214) -/

/-- The adapter area: first PVA and 64 KiB units (R218). -/
def Dev.adpBase (d : Dev) (p : Nat) : Nat := d.pair (pPtn p) 0x344 0x348 % 2 ^ 48 / 2 ^ 16 * 2 ^ 16
def Dev.adpUnits (d : Dev) (p : Nat) : Nat := d.getF (pPtn p) 0x34C 23 0

/-- The current version of a slot. -/
def Dev.adpCurrent (d : Dev) (p slot : Nat) : Option AdpVer := (d.px p).adps.find? fun v => v.slot = slot && v.current

/-- The version that a request is bound to. -/
def Dev.adpBound (d : Dev) (p r : Nat) : Option AdpVer :=
  if rqAdpEn r then (d.px p).adps.find? fun v => v.slot = rqAdpSlot r && v.ver = rqAdpVer r && !v.installing else none

/-- Change the binder count of a version. -/
def Dev.adpBind (d : Dev) (p slot ver : Nat) (f : Nat → Nat) : Dev :=
  d.modPx p fun x => { x with adps := x.adps.map fun v =>
    if v.slot = slot && v.ver = ver && !v.installing then { v with binders := f v.binders } else v }

/-- Extents of the area in use, in rising order. -/
def Dev.adpUsed (d : Dev) (p : Nat) : List (Nat × Nat) :=
  (d.px p).adps.foldl (fun (t : Tbl Nat) v => tput t v.at_ v.units) []

/-- The range lies in stack memory of the partition: its pieces by stack, none when it does not. -/
def Dev.stackRuns (d : Dev) (p pva n : Nat) : Option (List (Nat × Nat × Nat)) :=
  match d.xlRange none p pva n false with
  | (_, .error _) => none
  | (_, .ok segs) =>
    if segs.all fun s => !s.remote && (d.ptnStacks p).contains (s.dpa / 2 ^ 37) then
      some ((segs.foldl (fun (l : List (Nat × Nat × Nat)) s =>
        match l with
        | (k, a, m) :: t => if k = s.dpa / 2 ^ 37 then (k, a, m + s.len) :: t else (s.dpa / 2 ^ 37, s.pva, s.len) :: l
        | [] => [(s.dpa / 2 ^ 37, s.pva, s.len)]) []).reverse)
    else none

/-- Place a version and issue its copies; none when no extent fits (R213). A source that no longer translates is copied by the lowest stack, whose COPY faults. -/
def Dev.adpPlace (d : Dev) (p slot src bytes : Nat) : Option Dev :=
  let units := ceilDiv bytes 65536
  match firstFit 0 (d.adpUnits p) 1 units (d.adpUsed p) with
  | none => none
  | some k =>
    let dst := d.adpBase p + k * 65536
    let runs := (d.stackRuns p src bytes).getD [(((d.ptnStacks p).head?).getD 0, src, bytes)]
    let (tags, d) := runs.foldl (fun (a : List Nat × Dev) r =>
      let (t, d) := a.2.engIssue p r.1 (copyCmd r.2.1 (dst + (r.2.1 - src)) (ceilDiv r.2.2 4096)) false
      (a.1 ++ [t], d)) ([], d)
    some (d.modPx p fun x => { x with adps := x.adps ++ [AdpVer.mk slot 0 k units 0 false true tags] })

/-- Free retiring versions that nothing binds; each free of an extent retries the waiting installs (R212, R213). -/
def Dev.adpSweep (d : Dev) (p : Nat) : Dev :=
  let dead (v : AdpVer) : Bool := !v.current && !v.installing && v.binders = 0
  if !((d.px p).adps.any dead) then d
  else
    let d := d.modPx p fun x => { x with adps := x.adps.filter fun v => !dead v }
    (d.px p).adpWaits.foldl (fun d w =>
      match d.adpPlace p w.slot w.src w.bytes with
      | none => d
      | some d => d.modPx p fun x => { x with adpWaits := x.adpWaits.filter fun y => y ≠ w }) d

/-- ADAPTER_INSTALL. -/
def Dev.adapterInstall (d : Dev) (i : Item) : Dev :=
  let p := i.ptn
  let slot := numAt i.body 0 1
  let src := numAt i.body 8 8
  let bytes := numAt i.body 0x10 4
  if (d.px p).adpWaits.any (fun w => w.slot = slot) || (d.px p).adps.any fun v => v.slot = slot && v.installing then
    d.endItem i cAdapterInvalid (slot + 2 * 256)
  else if src % 4096 ≠ 0 || bytes = 0 || d.adpUnits p * 65536 < bytes || 2 ^ 48 ≤ src || (d.stackRuns p src bytes).isNone then
    d.endItem i cAdapterInvalid (slot + 3 * 256)
  else match d.adpPlace p slot src bytes with
    | some d => d.endItem i 0 0
    | none => (d.modPx p fun x => { x with adpWaits := x.adpWaits ++ [⟨slot, src, bytes⟩] }).endItem i cAdapterBusy slot

/-- ADAPTER_REMOVE. -/
def Dev.adapterRemove (d : Dev) (i : Item) : Dev :=
  let p := i.ptn
  let slot := numAt i.body 0 1
  let d := d.modPx p fun x => { x with
    adpWaits := x.adpWaits.filter fun w => w.slot ≠ slot
    adps := x.adps.map fun v => if v.slot = slot then { v with current := false } else v }
  (d.adpSweep p).endItem i 0 0

/-- The install point of slot `slot`: its last copy has completed (R213). -/
def Dev.adpInstallPoint (d : Dev) (p slot : Nat) : Dev :=
  match (d.px p).adps.find? fun v => v.slot = slot && v.installing with
  | none => d
  | some v =>
    if d.engBusy v.copies then d
    else
      let k := tgetD (d.px p).adpVers slot 0
      let ver := if 65535 ≤ k then 1 else k + 1
      let d := d.modPx p fun x => { x with
        adpVers := tput x.adpVers slot ver
        adps := x.adps.map fun w =>
          if w = v then { w with ver := ver, current := true, installing := false, copies := [] }
          else if w.slot = slot then { w with current := false } else w }
      (d.record p 0x0004 (leBytes 2 slot ++ leBytes 2 ver)).adpSweep p

/-- ADAPTER_INSTALL and ADAPTER_REMOVE, the next item of partition `p`; ADAPTER_INSTALL_POINT of a slot. -/
def execAdapterInstall (p : Fin 25) (s : State) : Out := s.upd fun d => d.serveItem p 0x0048 Dev.adapterInstall
def execAdapterRemove (p : Fin 25) (s : State) : Out := s.upd fun d => d.serveItem p 0x0049 Dev.adapterRemove
def execAdapterInstallPoint (p : Fin 24) (slot : Fin 256) (s : State) : Out := s.upd fun d => d.adpInstallPoint p slot

/-! ### Records (R204, R205) -/

/-- What a record adds to the entry: flags bit k is record bit 48 + k. -/
structure Rec where
  idx : Nat
  toks : List Nat := []
  flags : Nat := 0
  attach : Option (Nat × Nat) := none
  gap : Nat := 0
  code : Nat := 0
  late : Nat := 0

/-- The bytes of a record from the entry after the commit. ATTACH and ATTACHED are valid with FIRST only: free values otherwise. -/
def Dev.recBytes (d : Dev) (c : Rec) : List Byte × Dev :=
  let r := d.rq c.idx
  let (at_, d) := match c.attach with
    | some a => (a, d)
    | none => let (x, d) := d.takeFree
              ((x % 8, x / 8 % 2 ^ 23), d)
  (leBytes 32 (c.idx % 2 ^ 16 + rqGen r * 2 ^ 16 + rqState r * 2 ^ 32 + fld r 15 12 * 2 ^ 36 + c.toks.length % 128 * 2 ^ 40
      + c.flags % 256 * 2 ^ 48 + rqLength r * 2 ^ 64 + at_.1 * 2 ^ 88 + at_.2 * 2 ^ 96 + rqTag r * 2 ^ 128
      + c.gap % 2 ^ 32 * 2 ^ 160 + c.code % 2 ^ 16 * 2 ^ 192 + c.late % 128 * 2 ^ 208)
    ++ c.toks.flatMap (leBytes 4), d)

/-- The stream whose running turn a request serves (15, R326). -/
def Dev.turnOf (d : Dev) (p i : Nat) : Option (Nat × Stream) :=
  d.streams.find? fun e => e.2.ptn = p && e.2.glue && e.2.stage = 4 && e.2.entry = i

/-- The voice-session glue receives the records of its turns; with FORWARD they go to the completion destination too (15, R326). -/
def Dev.toGlue (d : Dev) (p : Nat) (l : List Rec) : Dev × List Rec :=
  ({ d with glueRecs := d.glueRecs ++ l.filterMap fun c => (d.turnOf p c.idx).map fun e =>
      ⟨e.1, rqState (d.rq c.idx), fld (d.rq c.idx) 15 12, c.toks⟩ },
   l.filter fun c => match d.turnOf p c.idx with | some e => e.2.forward | none => true)

/-- Send a serving completion message (14, R305). -/
def Dev.sendRecords (d : Dev) (p batch step e : Nat) (l : List Rec) : Dev :=
  let (d, l) := d.toGlue p l
  if l.isEmpty then d
  else
    let (bs, d) := l.foldl (fun (a : List Byte × Dev) c => let (x, d) := a.2.recBytes c
                                                           (a.1 ++ x, d)) ([], d)
    d.sendUp (leBytes 4 (32 + bs.length) ++ leBytes 1 clsServing ++ leBytes 1 d.devnum ++ leBytes 1 p ++ leBytes 1 batch
      ++ leBytes 4 step ++ leBytes 4 l.length ++ leBytes 8 e ++ List.replicate 8 0 ++ bs)

/-- A record of a request that ends outside a step: BATCH 255, STEP 0 (DESIGN CHOICE). -/
def Dev.recordNow (d : Dev) (p : Nat) (c : Rec) : Dev := d.sendRecords p 255 0 d.ao [c]

/-! ### The end of a request (R194) -/

/-- CAUSE values (R193). -/
abbrev rcStop : Nat := 1
abbrev rcMaxNew : Nat := 2
abbrev rcLength : Nat := 3
abbrev rcReleased : Nat := 4
abbrev rcPool : Nat := 5
abbrev rcThermal : Nat := 6
abbrev rcFault : Nat := 7
abbrev rcEmpty : Nat := 8
abbrev rcSample : Nat := 9

/-- A live request leaves the live states: state and cause; it leaves its batch; its handle is detached, publishes that are not due fail, every page of its region is released (R172, R187, R188). -/
def Dev.endReq (d : Dev) (p i state cause : Nat) : Dev :=
  let r := setFld (setFld (setFld (d.rq i) 3 0 state) 15 12 cause) 1190 1190 0
  let d := d.setRq i r
  let d := { d with batches := tmap d.batches fun _ b => { b with mems := b.mems.filter fun m => m.2 ≠ i } }
  (((d.detach p i).publishLost p i).modRx i fun x => { x with release := false }).releasePages p i fun _ => true

/-- Ended requests whose pages have all returned go back to FREE: GEN stays, the adapter binding is released (R194, R212). -/
def Dev.freeEnded (d : Dev) (p : Nat) : Dev :=
  let due := (d.ptnReqs p).filter fun i => 5 ≤ rqState (d.rq i) && !((d.px p).rets.any fun t => t.req = some i)
  let d := d.each due fun d i =>
    let r := d.rq i
    let d := if rqAdpEn r then d.adpBind p (rqAdpSlot r) (rqAdpVer r) (· - 1) else d
    ({ d with reqX := tdel d.reqX i }).setRq i (setFld (setFld r 3 0 rsFree) 15 12 0)
  d.adpSweep p

/-- A live request ends at once, with its final record (R197). -/
def Dev.endNow (d : Dev) (p i state cause code : Nat) : Dev :=
  (((d.endReq p i state cause).recordNow p { idx := i, code := code })).freeEnded p

/-! ### Admission (R196) -/

/-- FP32 ranges of R193. -/
def f32Finite (w : Word) : Bool := match ofF32 w with | .fin .. => true | _ => false
def f32NonNeg (w : Word) : Bool := match ofF32 w with | .fin n m _ => !n || m = 0 | _ => false
def f32Pos (w : Word) : Bool := match ofF32 w with | .fin n m _ => !n && m ≠ 0 | _ => false
def f32UnitPos (w : Word) : Bool := f32Pos w && !(Fv.lt (.fin false 1 0) (ofF32 w))
def f32Zero (w : Word) : Bool := (ofF32 w).isZero
abbrev one32 : Word := 0x3F800000#32

/-- A cache format tag that no GEOM admits (08, R149). -/
def tagReserved (t : Nat) : Bool := !(tagOk false t) && !(tagOk true t)

/-- The first check of R196 on the fields: D fields and reserved bits that are not zero, reserved encodings; by lowest bit. -/
def admitZeroLow (v : Nat) : List (Nat × Bool) :=
  [(0, fld v 3 0 ≠ 0), (7, bitOf v 7), (8, fld v 11 8 ≠ 0), (12, fld v 15 12 ≠ 0), (16, rqGen v ≠ 0), (32, rqLength v ≠ 0), (55, bitOf v 55),
   (79, bitOf v 79), (103, bitOf v 103), (127, bitOf v 127), (244, tagReserved (rqKvfmt v)), (278, rqHdim v = 3), (281, fld v 287 281 ≠ 0),
   (297, fld v 303 297 ≠ 0), (304, rqAdpVer v ≠ 0)]

def admitZeroMid (v : Nat) : List (Nat × Bool) :=
  [(523, fld v 527 523 ≠ 0), (529, bitOf v 529), (530, fld v 543 530 ≠ 0),
   (752, rqDistinct v ≠ 0), (767, bitOf v 767), (843, fld v 863 843 ≠ 0), (883, fld v 895 883 ≠ 0), (896, rqAdmitAo v ≠ 0), (960, rqLastEmit v ≠ 0)]

def admitZeroHigh (v : Nat) : List (Nat × Bool) :=
  [(1024, rqEmitted v ≠ 0), (1047, fld v 1055 1047 ≠ 0), (1056, fld v 1087 1056 ≠ 0), (1088, fld v 1119 1088 ≠ 0),
   (1120, fld v 1143 1120 ≠ 0), (1144, bitOf v 1144), (1145, fld v 1151 1145 ≠ 0), (1152, fld v 1183 1152 ≠ 0),
   (1184, rqBatch v ≠ 0), (1190, rqInBatch v), (1191, fld v 1199 1191 ≠ 0), (1280, v / 2 ^ 1280 ≠ 0)]

/-- The ranges that R196 lists, by lowest bit. -/
def admitRangeLow (v : Nat) : List (Nat × Bool) :=
  [(56, rqMaxlen v < 2 || 4194304 < rqMaxlen v), (80, rqPrompt v = 0 || rqMaxlen v ≤ rqPrompt v), (128, rqRegion v % 2 ^ 21 ≠ 0),
   (176, rqSregion v % 2 ^ 16 ≠ 0 || (rqW16 v != (rqSregion v = 0 : Bool))), (224, rqPpl v ≠ ceilDiv (rqMaxlen v) (rqT v)),
   (244, !tagOk (rqW16 v) (rqKvfmt v)), (256, rqLayers v = 0), (448, !f32NonNeg (rqTemperature v)), (480, !f32UnitPos (rqTopP v)),
   (512, 1024 < rqTopK v)]

def admitRangeHigh (v : Nat) : List (Nat × Bool) :=
  let stop (j : Nat) : Nat × Bool := (768 + 18 * j, j < rqStopCount v && rqVocab v ≤ rqStop v j)
  [(544, !f32Pos (rqRep v)), (576, !f32Finite (rqPres v)), (608, !f32Finite (rqFreq v)),
   (704, rqPenTable v % 4096 ≠ 0 || (rqPenTable v = 0 && !(rqRep v = one32 && f32Zero (rqPres v) && f32Zero (rqFreq v)))),
   stop 0, stop 1, stop 2, stop 3, (840, 4 < rqStopCount v), (864, rqVocab v = 0 || 262144 < rqVocab v), (1200, rqPromptPva v % 4 ≠ 0)]

/-- The fields of an admission image with their checks, in the order of R196. -/
def admitFields (v : Nat) : List (Nat × Bool) := admitZeroLow v ++ admitZeroMid v ++ admitZeroHigh v ++ admitRangeLow v ++ admitRangeHigh v

/-- The stack of the partition that holds a range wholly. -/
def Dev.oneStack (d : Dev) (p pva n : Nat) : Option Nat :=
  match d.stackRuns p pva n with
  | some [(s, _, _)] => some s
  | _ => none

/-- A refused REQ_ADMIT or BATCH_OPEN (R218). -/
def Dev.serveRefused (d : Dev) (i : Item) (code info : Nat) : Dev := (d.addCount (pPtn i.ptn) 0x364 1).endItem i code info

/-- Bytes of a count table (R210): the FILL of 64 units clears them. -/
abbrev penBytes : Nat := 262144

/-- The stack that holds a count table: that of its first byte; the lowest stack of the partition where that byte lies in none of them (DESIGN CHOICE: the FILL then faults at its dispatch). -/
def Dev.tableStack (d : Dev) (p pva : Nat) : Nat :=
  (d.oneStack p pva 1).getD (((d.ptnStacks p).head?).getD 0)

/-- REQ_ADMIT. -/
def Dev.reqAdmit (d : Dev) (i : Item) : Dev :=
  let p := i.ptn
  let v := numAt i.body 0 256
  let k := numAt i.body 0x100 2
  if d.lehr ≠ 0 then d.serveRefused i cLehrStop d.thm.lehrCause
  else if !(d.ptnReqs p).contains k || rqState (d.rq k) ≠ rsFree then d.serveRefused i cReqState (k % 4096 + rqState (d.rq k) * 4096)
  else match firstBad (admitFields v) with
  | some b => d.serveRefused i cReqInvalid b
  | none =>
    let n := rqPrompt v
    match d.intakeRead p (rqPromptPva v) (4 * n) with
    | (d, .fault x w) => d.serveRefused i x.code (xInfo x 0 w 0 0)
    | (d, .wait) => d.retryItem i
    | (d, .ok (_, true)) => d.hartInfo.2.serveRefused i cPoison d.hartInfo.1
    | (d, .ok (bs, false)) =>
      match lowest n fun j => rqVocab v ≤ numAt bs (4 * j) 4 with
      | some j => d.serveRefused i cReqInvalid (2 ^ 31 + j)
      | none =>
        match (d.liveReqs p).find? fun o => (rqRegions v).any fun a => (rqRegions (d.rq o)).any (meets a) with
        | some o => d.serveRefused i cReqRegion o
        | none =>
          let cur := d.adpCurrent p (rqAdpSlot v)
          if rqAdpEn v && cur.isNone then d.serveRefused i cAdapterInvalid (rqAdpSlot v + 256)
          else
            let st := d.tableStack p (rqPenTable v)
            let ver := if rqAdpEn v then (match cur with | some a => a.ver | none => 0) else 0
            let d := if rqAdpEn v then d.adpBind p (rqAdpSlot v) ver (· + 1) else d
            let gen := (rqGen (d.rq k) + 1) % 65536
            let e := setFld (setFld (setFld (setFld (setFld v 3 0 rsAdmitted) 31 16 gen) 319 304 ver) 959 896 d.ao) 1023 960 d.ao
            let (t, d) := if rqPenTable v = 0 then (none, d)
              else let (t, d) := d.engIssue p st (fillCmd (rqPenTable v) 64 0) false
                   (some t, d)
            ((d.setRq k e).setRx k { fill := t }).endItem i 0 0

/-- REQ_RELEASE (R197). -/
def Dev.reqRelease (d : Dev) (i : Item) : Dev :=
  let p := i.ptn
  let k := numAt i.body 0 2
  let r := d.rq k
  if !(d.ptnReqs p).contains k || !rqLive r || rqGen r ≠ numAt i.body 2 2 then d.endItem i cReqState (k % 4096 + rqState r * 4096)
  else if rqInBatch r then (d.modRx k fun x => { x with release := true }).endItem i 0 0
  else (d.endNow p k rsDone rcReleased 0).endItem i 0 0

/-- REQ_ADMIT and REQ_RELEASE, the next item of partition `p`. -/
def execReqAdmit (p : Fin 25) (s : State) : Out := s.upd fun d => d.serveItem p 0x0040 Dev.reqAdmit
def execReqRelease (p : Fin 25) (s : State) : Out := s.upd fun d => d.serveItem p 0x0041 Dev.reqRelease

end Sys2Proof.Machine
end

