-- ==== Sys2Proof/Machine/ServeDraw.lean ====
section
/-! DEFINITION. Sampling (10, R207–R211): the generator, the count table, one draw, the walk of a tree. -/

namespace Sys2Proof.Machine

/-! ### Philox-4x32-10 (R209) -/

/-- One round on a counter, and the ten rounds with the key increments. -/
def philoxRound (k0 k1 : Nat) : Nat × Nat × Nat × Nat → Nat × Nat × Nat × Nat
  | (c0, c1, c2, c3) =>
    let a := 0xD2511F53 * c0
    let b := 0xCD9E8D57 * c2
    ((b / 2 ^ 32) ^^^ c1 ^^^ k0, b % 2 ^ 32, (a / 2 ^ 32) ^^^ c3 ^^^ k1, a % 2 ^ 32)

def philoxGo : Nat → Nat → Nat → Nat × Nat × Nat × Nat → Nat × Nat × Nat × Nat
  | 0, _, _, c => c
  | n + 1, k0, k1, c => philoxGo n ((k0 + 0x9E3779B9) % 2 ^ 32) ((k1 + 0xBB67AE85) % 2 ^ 32) (philoxRound k0 k1 c)

/-- Output word x0 for a seed and a position. -/
def philox (seed q : Nat) : Nat := (philoxGo 10 (seed % 2 ^ 32) (seed / 2 ^ 32 % 2 ^ 32) (q % 2 ^ 32, 0, 0, 0)).1

/-! ### The count table (R210) -/

def penHash (t : Nat) : Nat := t * 0x9E3779B1 % 2 ^ 32 / 2 ^ 17
def slToken (s : Nat) : Nat := fld s 17 0
def slUsed (s : Nat) : Bool := bitOf s 18
def slCount (s : Nat) : Nat := fld s 63 32

/-- The slot of a token, or the unused slot where its search ends; none when no slot is unused. -/
def penFind (tab : List Nat) (t : Nat) : Nat → Nat → Option Nat
  | 0, _ => none
  | f + 1, h =>
    let s := (tab[h % 32768]?).getD 0
    if !slUsed s || slToken s = t then some (h % 32768) else penFind tab t f (h + 1)

/-- The count that a table holds for a token. -/
def penCount (tab : List Nat) (t : Nat) : Nat :=
  match penFind tab t 32768 (penHash t) with
  | none => 0
  | some h => let s := (tab[h]?).getD 0
              if slUsed s then slCount s else 0

/-- Count a token: the table, DISTINCT, and whether it was refused. -/
def penAdd (tab : List Nat) (distinct t : Nat) : List Nat × Nat × Bool :=
  match penFind tab t 32768 (penHash t) with
  | none => (tab, distinct, true)
  | some h =>
    let s := (tab[h]?).getD 0
    if slUsed s then (tab.set h (setFld s 63 32 (min (2 ^ 32 - 1) (slCount s + 1))), distinct, false)
    else if distinct < 16384 then (tab.set h (t % 2 ^ 18 + 2 ^ 18 + 2 ^ 32), distinct + 1, false)
    else (tab, distinct, true)

/-- The slots of a table from its bytes. -/
def penSlots (bs : List Byte) : List Nat := (List.range 32768).map fun i => numAt bs (8 * i) 8

/-! ### One draw (R208) -/

/-- Penalties of one logit. -/
def penalise (r c : Nat) (l : Word) : Word :=
  if c = 0 then l
  else
    let l := if (Fv.fin false 0 0).lt (ofF32 l) then mulF l (rcpF (rqRep r)) else mulF l (rqRep r)
    let l := fmaF (toF32 (ofF32 (rqFreq r)).neg) (toF32 (.fin false c 0)) l
    subF l (rqPres r)

/-- FP32 order of finite words; equal values, +0 and −0 among them, keep the order of their token IDs. -/
def ltF (a b : Word) : Bool := (ofF32 a).lt (ofF32 b)
def candLe (a b : Word × Nat) : Bool := ltF b.1 a.1 || (!ltF a.1 b.1 && a.2 ≤ b.2)

/-- Prefix sums S[0] … S[n]. -/
def prefixSums (top : Word) : Word → List Word → List Word
  | s, [] => [s]
  | s, l :: t => s :: prefixSums top (addF s (expF (subF l top))) t

/-- What a draw gives: the token, none for SAMPLE_EMPTY; whether a random number was used. `open_` is the cut of TOP_P where no sum satisfies it, which only a NaN sum can bring about and the spec leaves open. -/
def drawFrom (r q open_ : Nat) (logits : List Word) (counts : Nat → Nat) : Option Nat × Bool :=
  let ls := ((List.range logits.length).zip logits).map fun e => (penalise r (counts e.1) e.2, e.1)
  let cand := (ls.filter fun e => f32Finite e.1).mergeSort candLe
  match cand with
  | [] => (none, false)
  | c0 :: _ =>
    if f32Zero (rqTemperature r) then (some c0.2, false)
    else
      let k := if rqTopK r = 0 then rqVocab r else rqTopK r
      let keep := (cand.map fun e => (mulF e.1 (rcpF (rqTemperature r)), e.2)).take k
      let top := match keep with | e :: _ => e.1 | [] => 0
      let s := prefixSums top 0 (keep.map Prod.fst)
      let n := keep.length
      let at_ (i : Nat) : Word := (s[i]?).getD 0
      let le (a b : Word) : Bool := ltF a b || (!(ofF32 a).isNan && !(ofF32 b).isNan && !ltF b a)
      let j := if f32UnitPos (rqTopP r) && ltF (rqTopP r) one32 then
          (((List.range n).map (· + 1)).find? fun i => le (mulF (rqTopP r) (at_ n)) (at_ i)).getD (open_ % n + 1)
        else n
      let u := toF32 (Fv.fin false (philox (rqSeed r) q / 2 ^ 8) (-24))
      let target := mulF u (at_ j)
      let i := (((List.range j).map (· + 1)).find? fun i => ltF target (at_ i)).getD j
      (some ((keep[i - 1]?).map Prod.snd |>.getD 0), true)

/-! ### A member's draws (R207, R211) -/

/-- What reading a row gives a walk. -/
inductive RowRead where
  | fail (code : Nat)
  | wait
  | ok (l : List Word)
deriving DecidableEq, Repr

/-- Read the logits of a row, at the point of coherence; a marked logit is consumed (17, R366, R367). -/
def Dev.readRow (d : Dev) (p pva n : Nat) : Dev × RowRead :=
  match d.fetchKeep none none (agPlain p (some (d.servingJob p))) p pva (4 * n) true with
  | (d, .fault x) => (d, .fail x.code)
  | (d, .wait) => (d, .wait)
  | (d, .sealed) => (d, .ok (List.replicate n 0))
  | (d, .marked a _) => (d.poisonLast p a, .fail 0x3001)
  | (d, .ok bs) => (d, .ok ((List.range n).map fun i => BitVec.ofNat 32 (numAt bs (4 * i) 4)))

/-- A NaN logit reads as −infinity. -/
def denan (w : Word) : Word := if (ofF32 w).isNan then 0xFF800000#32 else w

/-- One draw for logit row `row` at position `q`: the device with its counters, and the token, none when the member fails, with the code. -/
def Dev.drawRow (d : Dev) (b : Batch) (r row q : Nat) (counts : Nat → Nat) : Dev × Except (Option Nat) Nat × Bool :=
  match d.readRow b.ptn (b.logits + row * b.lstride) (rqVocab r) with
  | (d, .wait) => (d, .error none, false)
  | (d, .fail c) => (d, .error (some c), false)
  | (d, .ok l) =>
    let nans := l.countP fun w => (ofF32 w).isNan
    let d := if nans = 0 then d else d.addCount (pSmp 0) 0x48 nans
    let (o, d) := d.takeFree
    match drawFrom r q o (l.map denan) counts with
    | (none, _) => (d.addCount (pSmp 0) 0x4C 1, .error (some 0xA013), nans ≠ 0)
    | (some y, rnd) => (d.addCount (pSmp 0) (if rnd then 0x40 else 0x44) 1, .ok y, nans ≠ 0)

/-- The end condition that a drawn token meets, 0 for none (R211). -/
def endCause (r q y emitted : Nat) : Nat :=
  if (List.range (rqStopCount r)).any fun j => rqStop r j = y then rcStop
  else if rqMaxNew r ≠ 0 && emitted = rqMaxNew r then rcMaxNew
  else if q = rqMaxlen r then rcLength
  else 0

/-- Depth of a node. -/
def nodeDepth (tree : List Byte) (a : Nat) : Nat := (treeChain tree 64 a).length

/-- The walk from `node`: the member with its tokens, path and end; none while memory does not answer. -/
def Dev.walkTree (b : Batch) (r : Nat) (base : Nat → Nat) : Nat → Dev → Member → Nat → Dev × Option Member
  | 0, d, m, _ => (d, some m)
  | f + 1, d, m, node =>
    let q := m.len + (if m.kind = 1 then m.rows else nodeDepth m.tree node + 1)
    let counts (t : Nat) : Nat := if rqPenTable r = 0 then 0 else base t + m.out.count t
    match d.drawRow b r (m.lidx + node) q counts with
    | (d, .error none, _) => (d, none)
    | (d, .error (some c), nan) => (d, some { m with fail := some (c, if c = 0xA013 then rcSample else rcFault), nan := m.nan || nan })
    | (d, .ok y, nan) =>
      let m := { m with out := m.out ++ [y], nan := m.nan || nan }
      let e := endCause r q y (rqEmitted r + m.out.length)
      if e ≠ 0 then (d, some { m with ends := e })
      else if m.kind = 1 then (d, some m)
      else match (List.range m.rows).find? fun c => c ≠ 0 && numAt m.tree c 1 = node && (m.toks[c - 1]?) = some y with
        | none => (d, some m)
        | some c => Dev.walkTree b r base f d { m with path := m.path ++ [c] } c

/-- The draws of a member: decode rows and final chunks (R207). -/
def Dev.sampleMember (d : Dev) (b : Batch) (m : Member) : Dev × Option Member :=
  if m.fail.isSome || m.kind = 2 || (m.kind = 1 && !m.final) then (d, some m)
  else
    let r := d.rq m.req
    let m := { m with out := [], path := [], ends := 0, nan := false }
    if rqPenTable r = 0 then Dev.walkTree b r (fun _ => 0) 65 d m 0
    else match d.fetchKeep none none (agPlain b.ptn (some (d.servingJob b.ptn))) b.ptn (rqPenTable r) penBytes true with
      | (d, .fault x) => (d, some { m with fail := some (x.code, rcFault) })
      | (d, .wait) => (d, none)
      | (d, .sealed) => Dev.walkTree b r (fun _ => 0) 65 d m 0
      | (d, .marked a _) => (d.poisonLast b.ptn a, some { m with fail := some (0x3001, rcFault) })
      | (d, .ok bs) => let tab := penSlots bs
                       Dev.walkTree b r (penCount tab) 65 d m 0

/-- All members in ascending position. -/
def Dev.sampleAll (b : Batch) : List Member → Dev → Dev × Option (List Member)
  | [], d => (d, some [])
  | m :: t, d =>
    match d.sampleMember b m with
    | (d, none) => (d, none)
    | (d, some m) =>
      match Dev.sampleAll b t d with
      | (d, none) => (d, none)
      | (d, some l) => (d, some (m :: l))

end Sys2Proof.Machine
end

