-- ==== Sys2Proof/Machine/ServeStep.lean ====
section
/-! DEFINITION. Step programs as they run, and stage 1 of a step (11, R224, R226; 10, R200–R203; 08, R153, R156, R170; 09, R179). -/

namespace Sys2Proof.Machine

/-! ### The header of a program (R224) -/

/-- The image of a loaded program as it stands in memory: its place and its header. -/
structure Image where
  pva : Nat
  hdr : List Byte

def Image.qgroup (g : Image) : Nat := numAt g.hdr 0x08 1
def Image.wcBase (g : Image) : Nat := numAt g.hdr 0x0C 4
def Image.wcRows (g : Image) (j : Nat) : Nat := numAt g.hdr (0x10 + 4 * j) 4
def Image.wcAtt (g : Image) (k : Nat) : Nat := numAt g.hdr (0x48 + 4 * k) 4
def Image.bodyOff (g : Image) : Nat := numAt g.hdr 0xEC 4
def Image.bodyLen (g : Image) : Nat := numAt g.hdr 0xF0 4
def Image.listBase (g : Image) : Nat := numAt g.hdr 0xF4 8
def Image.listStride (g : Image) : Nat := numAt g.hdr 0xFC 4

/-- The list slot of the stack of index `k` (08, R151). -/
def Image.slot (g : Image) (k : Nat) : Nat := g.listBase + k * g.listStride

/-- Read the header of a loaded program: the engine keeps no copy of the image (R224). -/
def Dev.image (d : Dev) (p : Nat) (g : Prog) : Dev × Except Nat Image :=
  match d.engRead p g.pva 256 with
  | (d, .error c) => (d, .error c)
  | (d, .ok bs) => (d, .ok ⟨g.pva, bs⟩)

/-- j(r), and the worst case of a step (R226). -/
def rowClass (r : Nat) : Nat := (lowest 14 fun j => r ≤ 8 * 2 ^ j).getD 13
def Image.worst (g : Image) (reread : Nat) (np : Bool) (rows : Nat) (ms : List (Nat × Nat)) : Nat :=
  g.wcBase + g.wcRows (rowClass rows) + (ms.foldl (fun a m => a + g.wcAtt m.1 * ceilDiv (g.qgroup * m.2) 8) 0)
    + 2 * reread + if np then 10000 else 0

/-- The attention bucket of a highest visible slot (08, R170). -/
def bucketOf (v : Nat) : Nat := (lowest 13 fun k => v < 1024 * 2 ^ k).getD 12

/-! ### The body (R224) -/

/-- A segment as read: its offset in the image, target, repeat, commands, patch records. -/
structure Sgm where
  off : Nat
  target : Nat
  rep : Nat
  cmds : List Nat
  patches : List Nat

def ptCmd (x : Nat) : Nat := fld x 15 0
def ptBit (x : Nat) : Nat := fld x 25 16
def ptWidth (x : Nat) : Nat := fld x 31 26 + 1
def ptSource (x : Nat) : Nat := fld x 38 32
def ptAdd (x : Nat) : Bool := bitOf x 39

/-- A segment target is a unit of the partition. -/
def Dev.targetOwned (d : Dev) (p t : Nat) : Bool :=
  if t < 800 then d.owner (pClu t) = p
  else if 0x2000 ≤ t && t < 0x2018 then (d.ptnStacks p).contains (t - 0x2000)
  else 0x4000 ≤ t && t < 0x4100 && d.owner (pDmac (t - 0x4000)) = p

/-- Parse a body, segment by segment; the second answer is the image offset of the failing field where parsing stops (R225). `off` is the image offset of the bytes. -/
def Dev.parseBody (d : Dev) (p : Nat) : Nat → Nat → List Byte → List Sgm × Option Nat
  | 0, _, _ => ([], none)
  | f + 1, off, l =>
    if l.isEmpty then ([], none)
    else
      let t := numAt l 0 2
      let count := numAt l 4 4
      let np := numAt l 8 2
      let sz := cmdBytes t
      if !d.targetOwned p t then ([], some off)
      else if count = 0 || 65536 < count || l.length < 16 + count * sz + np * 8 then ([], some (off + 4))
      else
        let body := l.drop 16
        let s : Sgm :=
          { off := off, target := t, rep := fld (numAt l 2 1) 1 0,
            cmds := (List.range count).map fun i => numAt body (sz * i) sz,
            patches := (List.range np).map fun i => numAt body (sz * count + 8 * i) 8 }
        let used := 16 + count * sz + np * 8
        let (r, e) := Dev.parseBody d p f (off + used) (l.drop used)
        (s :: r, e)

/-! ### Members -/

/-- Rows that a member contributes to the member table. -/
def Member.live (m : Member) : Nat := if m.kind = 2 then 0 else m.rows

/-- Sampled rows of a member. -/
def Member.sampled (m : Member) : Nat := if m.kind = 0 then m.rows else if m.kind = 1 && m.final then 1 else 0

/-- First and last slot that a member writes (09, R179). -/
def Member.slots (m : Member) (chunk : Bool) : Nat × Nat :=
  if chunk then (m.len, m.len + m.rows - 1) else (m.len, if m.rows = 1 then m.len else m.len + 64 + m.rows - 1)

/-- A member still has prompt to commit: it contributes a chunk. -/
def Dev.chunking (d : Dev) (m : Member) : Bool := m.len < rqPrompt (d.rq m.req)

/-- Order of the pool's pass and of R182: descending priority, then ascending request index. -/
def Dev.passOrder (d : Dev) (ms : List Member) : List Member :=
  ms.mergeSort fun a b =>
    let x := rqPriority (d.rq a.req)
    let y := rqPriority (d.rq b.req)
    y < x || (x = y && a.req ≤ b.req)

/-- Put a member back in its place. -/
def putMember (ms : List Member) (m : Member) : List Member := ms.map fun x => if x.pos = m.pos then m else x

/-! ### Stage 1 -/

/-- A member that fails with a fault code and JOB_FAULT, unless it has failed already. -/
def Member.failWith (m : Member) (c : Nat) : Member := if m.fail.isNone then { m with fail := some (c, rcFault) } else m

/-- Steps 1 and 2: the members that are live, with their handles attached (R188). A member whose attachment finds no room in the translation area waits. -/
def Dev.openMembers (p : Nat) : List (Nat × Nat) → Dev → Dev × List Member
  | [], d => (d, [])
  | (pos, i) :: t, d =>
    let fresh := (d.rx i).fresh
    let (d, m) : Dev × Member :=
      if !fresh then (d, { pos := pos, req := i, kind := 0 })
      else match d.promptConsumed p i with
      | (d, some c) => (d, Member.failWith { pos := pos, req := i, kind := 0 } c)
      | (d, none) => match d.attach p i with
        | none => (d, { pos := pos, req := i, kind := 2 })
        | some (d, c, a) =>
          (d.modRx i fun x => { x with fresh := false }, { pos := pos, req := i, kind := 0, first := true, attCode := c, attLen := a })
    let m := { m with len := rqLength (d.rq i) }
    let (d, l) := Dev.openMembers p t d
    (d, m :: l)

/-- Step 3: the draft record of a decode member (R201, R156). A record that does not translate is cut (DESIGN CHOICE); one that holds a mark fails its member, whose completion record would carry its tokens (17, R367). -/
def Dev.draftOf (d : Dev) (b : Batch) (m : Member) : Dev × Member :=
  let r := d.rq m.req
  if b.draft = 0 then (d, { m with rows := 1 })
  else
    let cut (m : Member) (inv : Bool) : Member :=
      { m with rows := 1, tree := 0xFF#8 :: List.replicate 63 0, toks := [], trunc := !inv, invalid := inv }
    match d.engRead b.ptn (b.draft + 320 * m.pos) 320 with
    | (d, .error c) => (d, if c = 0x3001 then m.failWith c else cut m true)
    | (d, .ok bs) =>
      let n := numAt bs 0x40 4
      let tree := bytesAt bs 0 64
      let toks := (List.range (n - 1)).map fun i => numAt bs (0x44 + 4 * i) 4
      (d, if n = 0 || 64 < n || (treeBad tree n).isSome || (toks.any fun t => rqVocab r ≤ t) then cut m true
          else if 1 < n && rqMaxlen r ≤ m.len + 64 + n - 1 then cut m false
          else { m with rows := n, tree := tree, toks := toks })

/-- The draft records of the members that decode. -/
def Dev.draftAll (b : Batch) : List Member → Dev → Dev × List Member
  | [], d => (d, [])
  | m :: t, d =>
    let (d, m) := if d.chunking m || m.kind = 2 || m.fail.isSome then (d, m) else d.draftOf b m
    let (d, l) := Dev.draftAll b t d
    (d, m :: l)

/-- Highest visible slot of a member with rows (08, R154, R170). -/
def Member.top (m : Member) (chunk : Bool) : Nat := (m.slots chunk).2

/-- Step 4: every chunking member sized by a limit C. -/
def Dev.sizeAt (d : Dev) (ms : List Member) (c : Nat) : List Member :=
  ms.map fun m =>
    if !d.chunking m then m
    else let left := rqPrompt (d.rq m.req) - m.len
         { m with kind := if m.kind = 2 then 2 else 1, rows := min c left, final := left ≤ c }

/-- The smallest target of the decode members, 0 for none (R202). -/
def Dev.tau (d : Dev) (ms : List Member) : Nat :=
  ((ms.filter fun m => !d.chunking m).map fun m => rqBtTarget (d.rq m.req)).foldl
    (fun a t => if t = 0 then a else if a = 0 then t else min a t) 0

/-- The limits of R202: 256 doubled up to 8,192 (DEDUCED). -/
def chunkLimits : List Nat := [8192, 4096, 2048, 1024, 512, 256]

/-- Step 4: the largest C that fits, else 256 (R202). -/
def Dev.sizeChunks (d : Dev) (b : Batch) (g : Image) (ms : List Member) : List Member :=
  let t := d.tau ms
  let fits (c : Nat) : Bool :=
    let l := d.sizeAt ms c
    let rows := l.foldl (fun a m => a + m.rows) 0
    rows ≤ 65536 && (t = 0 || g.worst b.reread b.np rows (l.map fun m => (bucketOf (m.top (d.chunking m)), m.rows)) ≤ t)
  d.sizeAt ms ((chunkLimits.find? fits).getD 256)

/-- Step 5: one class of the pool's pass (R179). Answers the copies issued. -/
def Dev.poolPass (p : Nat) (fill : Bool) : List Member → Dev × List Member × List Nat → Dev × List Member × List Nat
  | [], a => a
  | m :: t, (d, ms, cs) =>
    if m.kind = 2 || d.chunking m ≠ fill then Dev.poolPass p fill t (d, ms, cs)
    else
      let (lo, hi) := m.slots fill
      match d.backMember p m.req lo hi fill with
      | (d, none) => Dev.poolPass p fill t (d, putMember ms { m with kind := 2, final := false }, cs)
      | (d, some c) => Dev.poolPass p fill t (d, ms, cs ++ c)

/-- Steps 6 and 7: buckets and row indices in ascending position. Fields of the table that a member gives no meaning to are free values. -/
def Dev.placeRows : List Member → Nat → Nat → Dev → Dev × List Member
  | [], _, _, d => (d, [])
  | m :: t, pi, li, d =>
    let bk := if m.live = 0 then fld (d.rq m.req) 11 8 else bucketOf (m.top (m.kind = 1))
    let d := d.setRqF m.req 11 8 bk
    let (x, d) := if m.sampled = 0 then let (x, d) := d.takeFree
                                        (x, d)
                  else (0, d)
    let m := { m with bucket := bk,
                      pidx := if m.live = 0 then x % 65536 else pi,
                      lidx := if m.sampled = 0 then x / 65536 % 65536 else li }
    let (d, l) := Dev.placeRows t (pi + m.live) (li + m.sampled) d
    (d, m :: l)

/-- TOKENS of a member (R203). -/
def Dev.memTokens (d : Dev) (b : Batch) (m : Member) : Nat :=
  if m.kind = 1 then rqPromptPva (d.rq m.req) + 4 * m.len else if m.kind = 0 && 1 < m.rows then b.draft + 320 * m.pos else 0

/-- The twelve member values of R203 that a patch may name, from SOURCE 16 on. -/
def Dev.memVals (d : Dev) (b : Batch) (m : Member) : List Nat :=
  let r := d.rq m.req
  let a := d.adpBound b.ptn r
  [m.req, m.kind, m.len, m.live, m.pidx, m.lidx, rqRegion r, rqSregion r,
   (match a with | some v => d.adpBase b.ptn + v.at_ * 65536 | none => 0), (match a with | some v => v.units | none => 0),
   if m.kind = 0 then (d.rx m.req).root else 0, d.memTokens b m % 2 ^ 48]

/-- The member-table entry of a member (R203). -/
def Dev.memEntry (d : Dev) (b : Batch) (m : Member) : Nat :=
  let v (k : Nat) : Nat := ((d.memVals b m)[k]?).getD 0
  m.req + m.kind * 2 ^ 16 + (if m.final then 2 ^ 18 else 0) + (if m.trunc || m.invalid then 2 ^ 19 else 0) + m.bucket % 16 * 2 ^ 20
    + m.len * 2 ^ 32 + m.live * 2 ^ 64 + m.pidx * 2 ^ 80 + m.lidx * 2 ^ 96 + v 6 * 2 ^ 128 + v 7 * 2 ^ 176 + v 8 % 2 ^ 48 * 2 ^ 224
    + v 9 % 2 ^ 24 * 2 ^ 272 + v 10 * 2 ^ 296 + v 11 * 2 ^ 320

/-- Members in the order of the attention lists: descending bucket, then ascending request index (08, R170). -/
def listOrder (ms : List Member) : List Member :=
  (ms.filter fun m => m.live ≠ 0).mergeSort fun a b => b.bucket < a.bucket || (a.bucket = b.bucket && a.req ≤ b.req)

/-- The list entry of a member (08, R158), its tree copy at `tree`. -/
def Dev.listEntry (d : Dev) (m : Member) (tree : Nat) : Nat :=
  let r := d.rq m.req
  rqRegion r + m.kind * 2 ^ 48 + rqSregion r * 2 ^ 64 + rqPpl r * 2 ^ 112 + m.len * 2 ^ 132 + m.rows * 2 ^ 155 + m.pidx * 2 ^ 169
    + (if m.kind = 0 && 1 < m.rows then tree else 0) * 2 ^ 192

/-- Writes that stage 1 makes for its members: PVA and bytes (R200.8). -/
def Dev.stageWrites (d : Dev) (b : Batch) (g : Image) (ms : List Member) : List (Nat × List Byte) :=
  (ms.map fun m => (b.base + 64 * m.pos, leBytes 64 (d.memEntry b m)))
  ++ (List.range (d.ptnStacks b.ptn).length).flatMap fun k =>
    let s := g.slot k
    let o := listOrder ms
    ((List.range o.length).zip o).map (fun e => (s + 64 * e.1, leBytes 64 (d.listEntry e.2 (s + 0x4000 + 64 * e.2.pos))))
      ++ (ms.filter fun m => m.kind = 0 && 1 < m.rows).map fun m => (s + 0x4000 + 64 * m.pos, m.tree)

/-- Make the writes, until one faults: the code of the fault. -/
def Dev.putAll (p : Nat) : List (Nat × List Byte) → Dev → Dev × Option Nat
  | [], d => (d, none)
  | (a, bs) :: t, d =>
    match d.writePva p a bs with
    | (d, .error x) => (d, some x.code)
    | (d, .ok ()) => Dev.putAll p t d

/-- Members in ascending position. -/
def byPos (ms : List Member) : List Member := ms.mergeSort fun a b => a.pos ≤ b.pos

/-- Steps 6 to 8 for the members of a step that are left. A fault of the serving engine's own writes names no member (DEDUCED). -/
def Dev.layOut (d : Dev) (b : Batch) (g : Image) (ms : List Member) : Dev × List Member :=
  let (bad, good) := ms.partition fun m => m.fail.isSome
  let (d, good) := Dev.placeRows good 0 0 d
  match Dev.putAll b.ptn (d.stageWrites b g good) d with
  | (d, none) => (d, byPos (bad ++ good))
  | (d, some c) => (d, byPos (bad ++ good.map fun m => m.failWith c))

/-- Stage 1 of a step (R200). A member that has failed takes no rows and no pages. -/
def Dev.stage1 (d : Dev) (b : Batch) (g : Image) : Dev × List Member × List Nat :=
  let p := b.ptn
  let (d, ms) := Dev.openMembers p (b.mems.filter fun m => rqLive (d.rq m.2)) d
  let (d, ms) := Dev.draftAll b ms d
  let cuts := ms.countP fun m => m.trunc || m.invalid
  let d := if cuts = 0 then d else d.addCount (pSrv 0) 0x50 cuts
  let (bad, ms) := ms.partition fun m => m.fail.isSome
  let ms := d.sizeChunks b g ms
  let o := d.passOrder ms
  let (d, ms, cs) := Dev.poolPass p true o (Dev.poolPass p false o (d, ms, []))
  let (d, ms) := d.layOut b g (bad ++ ms)
  (d, ms, cs)

/-! ### Issue (R224) -/

/-- The value of a patch SOURCE: `m` for REPEAT segments, `slot` and `items` for a stack target. -/
def Dev.patchValue (d : Dev) (b : Batch) (k : Nat) (ms : List Member) (m : Option Member) (slot items src : Nat) : Option Nat :=
  match src with
  | 0 => some b.base
  | 1 => some b.logits
  | 2 => some b.lstride
  | 3 => some k
  | 4 => some (ms.countP fun m => m.live ≠ 0)
  | 5 => some (ms.foldl (fun a m => a + m.live) 0)
  | 6 => some b.draft
  | 7 => some slot
  | 8 => some (items - 1)
  | _ => match m with
    | none => none
    | some m => if src = 28 then some m.pos else if 16 ≤ src then (d.memVals b m)[src - 16]? else none

/-- Apply one patch record to the commands of a segment, whose image holds `img`: the value replaces the field, or is added to the contents that the image gives it. A record changed out of range since the load acts on nothing (DEDUCED). -/
def patchOne (img cmds : List Nat) (x : Nat) (v : Option Nat) : List Nat :=
  match v with
  | none => cmds
  | some v => modAt cmds (ptCmd x) fun w =>
      let hi := ptBit x + ptWidth x - 1
      setFld w hi (ptBit x) ((if ptAdd x then fld ((img[ptCmd x]?).getD 0) hi (ptBit x) else 0) + v)

/-- The commands of a segment for one member, or once. -/
def Dev.sgmCmds (d : Dev) (b : Batch) (k : Nat) (ms : List Member) (s : Sgm) (m : Option Member) (slot items : Nat) : List Nat :=
  s.patches.foldl (fun cs x => patchOne s.cmds cs x (d.patchValue b k ms m slot items (ptSource x))) s.cmds

/-- The members for which a segment is issued. -/
def sgmFor (s : Sgm) (ms : List Member) : List (Option Member) :=
  if s.rep = 0 then [none]
  else (ms.filter fun m => m.live ≠ 0 && (s.rep = 1 || (s.rep = 2 && m.kind = 0) || (s.rep = 3 && m.kind = 1))).map some

/-- Issue the segments in body order. -/
def Dev.issueSgms (b : Batch) (g : Image) (k : Nat) (ms : List Member) : List Sgm → Dev → Dev
  | [], d => d
  | s :: t, d =>
    let st := s.target - 0x2000
    let slot := if 0x2000 ≤ s.target && s.target < 0x4000 then g.slot (((d.ptnStacks b.ptn).findIdx? (· = st)).getD 0) else 0
    let items := ms.countP fun m => m.live ≠ 0
    if items = 0 && 0x2000 ≤ s.target && s.target < 0x4000 && (s.patches.any fun x => ptSource x = 8) then Dev.issueSgms b g k ms t d
    else
      let cmds := (sgmFor s ms).flatMap fun m => d.sgmCmds b k ms s m slot items
      let d := if cmds.isEmpty then d else d.feed s.target 0 (cmds.map (leBytes (cmdBytes s.target))) 0 0
      Dev.issueSgms b g k ms t d

/-- Stage 2 (12, R253; R224): a DEVICE acquire on every die of the partition, then the segments read from the image. An image that no longer translates, or that holds a mark, fails every member (DEDUCED). -/
def Dev.stage2 (d : Dev) (b : Batch) (g : Prog) (t : StepRun) : Dev :=
  let p := b.ptn
  let d := (((d.ptnClusters p).map (· / 100)).eraseDups).foldl (fun d die => d.acquireDie die p) d
  let ms := t.mems.filter fun m => m.fail.isNone
  let lost (d : Dev) (c : Nat) : Dev := d.modPx p fun y => { y with step := some { t with stage := 2, mems := t.mems.map fun m => m.failWith c } }
  match d.image p g with
  | (d, .error c) => lost d c
  | (d, .ok im) =>
    match d.engRead p (im.pva + im.bodyOff) im.bodyLen with
    | (d, .error c) => lost d c
    | (d, .ok bs) =>
      let (segs, _) := d.parseBody p (bs.length + 1) im.bodyOff bs
      let d := if ms.isEmpty then d else Dev.issueSgms b im t.k ms segs d
      d.modPx p fun y => { y with step := some { t with stage := 2 } }

/-! ### The serving work of a partition -/

/-- A command is one of the serving engine's own (a page copy, a fill, an adapter copy). -/
def ownCmd (w : MCmd) : Bool := fld w.toNat 543 512 ≠ 0

/-- No command of the step is left in queue 0 of a unit: queued, held or running. -/
def Dev.stepQuiet (d : Dev) (u : UnitKey) : Bool :=
  if u < 0x2000 then
    ((d.clu u).q 0).cmds.isEmpty && ((d.clu u).q 0).held.isEmpty && ((d.clu u).q 0).fence.isNone && !d.gafBusy u 0
  else if u < 0x4000 then
    let s := u - 0x2000
    let x := d.stk s
    ((x.q 0).cmds.all ownCmd) && ((x.q 0).held.all fun h => ownCmd (BitVec.ofNat 545 (leNat h.cmd))) && (x.q 0).fence.isNone
      && (x.runs.all fun r => r.queue ≠ 0) && (x.copiers.all fun e => e.2.queue ≠ 0 || ownCmd e.2.cmd)
      && (x.saved.all fun e => e.2.queue ≠ 0 || ownCmd e.2.cmd)
  else ((d.dma (u - 0x4000)).q 0).cmds.isEmpty && ((d.dma (u - 0x4000)).q 0).held.isEmpty && ((d.dma (u - 0x4000)).q 0).fence.isNone
    && !d.dmaBusy (u - 0x4000) 0

/-- The units whose queue 0 the serving job of a partition holds. -/
def Dev.servingUnits (d : Dev) (p : Nat) : List UnitKey :=
  ((d.ptnClusters p) ++ (d.ptnStacks p).map (· + 0x2000) ++ (d.ptnDmas p).map (· + 0x4000)).filter fun u =>
    d.qBound u 0 && d.qJob u 0 = (d.px p).job

/-- Every command of the step has completed, and the job has not faulted. -/
def Dev.servingQuiet (d : Dev) (p : Nat) : Bool :=
  !(d.job (d.px p).job).faulted && !d.aborting (d.px p).job && (d.servingUnits p).all d.stepQuiet

/-- Every remote write and atomic that the serving job's commands have sent is performed (12, R253). -/
def Dev.stepSent (d : Dev) (p : Nat) : Bool := (d.ptnDmas p).all fun e => (d.dma e).remote.all fun x => x.1 ≠ 0

/-- Every stack of the partition answers. -/
def Dev.stacksOn (d : Dev) (p : Nat) : Bool := (d.ptnStacks p).all fun s => d.dom (80 + s) = dsOn
def Dev.wakeStacks (d : Dev) (p : Nat) : Dev := d.each (d.ptnStacks p) fun d s => d.demand (80 + s)

/-- Batches of a partition, with their numbers. -/
def Dev.ptnBatches (d : Dev) (p : Nat) : List (Nat × Batch) := d.batches.filter fun b => b.2.ptn = p

/-- Causes of R229 in force that cover a batch's step from its start. -/
def Dev.voidsAtStart (d : Dev) (p : Nat) (b : Batch) : Nat :=
  let c := d.causes p
  let g := match d.batchProg b with | some g => g.voids | none => 0
  let hc := match d.batchProg b with
    | some g => (List.range 800).any fun n => g.uses n && d.owner (pClu n) = p && d.bit (pClu n) 0x7C0 0
    | none => false
  maskOf ((List.range 10).filter fun k =>
    if k = 1 || k = 2 || k = 3 then bitOf g k
    else if k = 5 then bitOf c k && hc
    else if k = 9 then bitOf c k && !b.np
    else if k = 0 || k = 8 then bitOf c k else false)

/-- STEP_RELEASE (11, R228; R200): the due batch that is first in release order; its step waits for the count tables of its members (R196). -/
def Dev.stepRelease (d : Dev) (p : Nat) : Dev :=
  let d := if (d.job (d.px p).job).faulted && (d.px p).step.isNone && !d.aborting (d.px p).job then d.rebindServing p else d
  if d.lehr ≠ 0 || d.ptnState p = stQuiescing || d.ptnState p = stQuiesced then d
  else if !d.stacksOn p then d.wakeStacks p
  else
    let start (d : Dev) (n : Nat) (b : Batch) (t : StepRun) : Dev :=
      match d.batchProg b with
      | none => d
      | some g =>
        if b.mems.any fun m => match (d.rx m.2).fill with | some f => d.engBusy [f] | none => false then d
        else
          match d.image p g with
          | (d, .error c) =>
            let (d, ms) := Dev.openMembers p (b.mems.filter fun m => rqLive (d.rq m.2)) d
            d.modPx p fun x => { x with step := some { t with batch := n, stage := 2, mems := ms.map fun m => m.failWith c } }
          | (d, .ok im) =>
            let (d, ms, cs) := d.stage1 b im
            d.modPx p fun x => { x with step := some { t with batch := n, stage := 1, mems := ms, copies := cs } }
    match (d.px p).step with
    | some t =>
      if t.stage ≠ 0 then d
      else match tget? d.batches t.batch with
        | none => d
        | some b => start d t.batch b t
    | none =>
      let due := (d.ptnBatches p).filter fun b => b.2.opened + b.2.k * b.2.period ≤ d.ao
      -- on the grid, and never before the commit of the batch's last step (R228)
      let time (b : Nat × Batch) : Nat := max (b.2.opened + b.2.k * b.2.period) b.2.ready
      match due.foldl (fun (a : Option (Nat × Batch)) b => match a with
          | none => some b
          | some x => if time b < time x then some b else a) none with
      | none => d
      | some (n, b) =>
        let t : StepRun := { id := (d.px p).nextStep, batch := n, k := b.k, stage := 0, at_ := d.ao, mems := [], voids := d.voidsAtStart p b }
        let d := d.openWindow p
        let d := d.modPx p fun x => { x with nextStep := x.nextStep + 1, step := some t }
        start d n b t

/-- The code of the fault that names a member (R223): by the region of an item; by the entry of its own token list; by a place in a list of rows, which is a row of the member when no member's token list holds the entry (DEDUCED). -/
def Dev.faultNames (d : Dev) (b : Batch) (ms : List Member) (m : Member) (l : List (FaultName × Nat)) : Option Nat :=
  let holds (m : Member) (a : Nat) : Bool := let t := d.memTokens b m
                                             t ≠ 0 && t ≤ a && a < t + 4 * m.live
  (l.find? fun c => match c.1 with
    | .item region => rqRegion (d.rq m.req) = region
    | .entry a i => if ms.any fun m => holds m a then holds m a else m.live ≠ 0 && m.pidx ≤ i && i < m.pidx + m.live).map Prod.snd

/-- The serving job has faulted in the step: named members fail, or all; the job is bound again and the step runs again from stage 2, once (R223). -/
def Dev.stepRetry (d : Dev) (b : Batch) (g : Prog) (t : StepRun) : Dev :=
  let p := b.ptn
  let j := (d.px p).job
  let x := d.job j
  let live := t.mems.filter fun m => m.fail.isNone
  let hit (m : Member) : Option Nat := if m.fail.isSome then none else d.faultNames b live m x.named
  let all := t.retried || x.namesAll.isSome || !(live.any fun m => (hit m).isSome)
  let ms := t.mems.map fun m => match hit m with
    | some c => m.failWith c
    | none => if all then m.failWith (x.namesAll.getD x.code) else m
  let d := d.rebindServing p
  let again := !t.retried && ms.any fun m => m.fail.isNone
  let t := { t with mems := ms, retried := true }
  if !again then d.modPx p fun y => { y with step := some { t with stage := 2 } }
  else
    let d := d.modPx p fun y => { y with step := some t }
    let d := d.voidOn p 6 (maskOf [t.batch])
    let d := d.voidStep p 6 (maskOf [t.batch])
    let voids := match (d.px p).step with | some s => s.voids | none => t.voids
    match d.image p g with
    | (d, .error c) => d.modPx p fun y => { y with step := some { t with stage := 2, mems := t.mems.map fun m => m.failWith c } }
    | (d, .ok im) =>
      let (d, ms) := d.layOut b im t.mems
      d.stage2 b g { t with mems := ms, voids := voids }

/-- STAGE2_START (09, R180; R223): stage 2 of a step whose copies have completed, or its run after a fault. -/
def Dev.stage2Start (d : Dev) (p : Nat) : Dev :=
  match (d.px p).step with
  | none => d
  | some t =>
    match tget? d.batches t.batch with
    | none => d
    | some b =>
      match d.batchProg b with
      | none => d
      | some g =>
        if t.stage = 0 then d
        else if !d.stacksOn p then d.wakeStacks p
        else if (d.job (d.px p).job).faulted then
          if d.aborting (d.px p).job then d else d.stepRetry b g t
        else if t.stage ≠ 1 || d.engBusy t.copies then d
        else d.stage2 b g t

/-- STEP_RELEASE and STAGE2_START of partition `p`. -/
def execStepRelease (p : Fin 24) (s : State) : Out := s.upd fun d => d.stepRelease p
def execStage2Start (p : Fin 24) (s : State) : Out := s.upd fun d => d.stage2Start p

end Sys2Proof.Machine
end

