-- ==== Sys2Proof/Machine/ServeCommit.lean ====
section
/-! DEFINITION. Sampling, commit, batches and page return (10, R194–R199, R204–R211; 09, R181–R183; 11, R226–R230; 20, R431). -/

namespace Sys2Proof.Machine

/-! ### SAMPLING_START (R207, R211; 08, R171) -/

/-- The device with a demand on memory that a read would meet and that does not answer, or with the READs of memory of another device under way; none when everything is there. -/
def Dev.pvaWait (d : Dev) (p pva n : Nat) : Option Dev :=
  match d.xlRange none p pva n false with
  | (d', .ok l) =>
    if !d'.segsReady l then some (d.segsDemand l)
    else if (d.farRefused (svcReader p) l).isSome || d.farHere (svcReader p) l then none
    else some (d.farAsk (svcReader p) noJob (d.linkDomain p) l)
  | (_, .error _) => none

/-- What the sampling unit reads for a member: its logit rows and its count table. -/
def Dev.sampleRanges (d : Dev) (b : Batch) (m : Member) : List (Nat × Nat) :=
  let r := d.rq m.req
  let rows := if m.fail.isSome then 0 else m.sampled
  (List.range rows).map (fun j => (b.logits + (m.lidx + j) * b.lstride, 4 * rqVocab r))
    ++ if rows = 0 || rqPenTable r = 0 then [] else [(rqPenTable r, penBytes)]

/-- Geometry that the items of one COMPACT command share, and the pairing of its pages (08, R152, R157). -/
def compactGroup (r : Nat) : Nat × Nat × Bool × Bool := (rqKvh r, rqHdim r, rqW16 r, rqKvfmt r = 6)

/-- The path record of a member (08, R159). -/
def pathRecord (path : List Nat) : List Byte := bytesAt (0#8 :: path.map (BitVec.ofNat 8)) 0 64

/-- The COMPACT item of a member. -/
def Dev.compactEntry (d : Dev) (m : Member) (rec_ : Nat) : Nat :=
  let r := d.rq m.req
  rqRegion r + 2 * 2 ^ 48 + rqSregion r * 2 ^ 64 + rqPpl r * 2 ^ 112 + m.len * 2 ^ 132 + m.path.length * 2 ^ 155 + rec_ * 2 ^ 192 + rqLayers r * 2 ^ 240

/-- The ATTN command over `n` COMPACT items at `list`. QFMT is one that every tag of the geometry pairs with. -/
def compactCmd (g : Nat × Nat × Bool × Bool) (n list : Nat) : Nat :=
  0x02 + (if g.2.2.2 then 6 else 8) * 2 ^ 64 + (g.1 - 1) * 2 ^ 76 + g.2.1 * 2 ^ 82 + (if g.2.2.1 then 2 ^ 84 else 0)
    + (n - 1) * 2 ^ 104 + list * 2 ^ 144

/-- Issue the COMPACT items of the members to every stack: path records in the tree areas, lists in the COMPACT area, one command a geometry. -/
def Dev.compactIssue (d : Dev) (b : Batch) (g : Image) (ms : List Member) : Dev :=
  let l := ms.filter fun m => m.fail.isNone && !m.path.isEmpty
  let groups := (l.map fun m => compactGroup (d.rq m.req)).eraseDups
  let ss := d.ptnStacks b.ptn
  ((List.range ss.length).zip ss).foldl (fun d ks =>
    let slot := g.slot ks.1
    let d := l.foldl (fun d m => d.putPva b.ptn (slot + 0x4000 + 64 * m.pos) (pathRecord m.path)) d
    (groups.foldl (fun (a : Dev × Nat) gr =>
      let (d, at_) := a
      let mine := l.filter fun m => compactGroup (d.rq m.req) = gr
      let list := slot + 0x8000 + 64 * at_
      let d := d.putPva b.ptn list (mine.flatMap fun m => leBytes 64 (d.compactEntry m (slot + 0x4000 + 64 * m.pos)))
      (d.feed (0x2000 + ks.2) 0 [leBytes 64 (compactCmd gr mine.length list)] 0 0, at_ + mine.length)) (d, 0)).1) d

/-- SAMPLING_START: every command of the program has completed. -/
def Dev.samplingStart (d : Dev) (p : Nat) : Dev :=
  match (d.px p).step with
  | none => d
  | some t =>
    match tget? d.batches t.batch with
    | none => d
    | some b =>
      if t.stage ≠ 2 || !d.servingQuiet p then d
      else if !d.stacksOn p then d.wakeStacks p
      else match (t.mems.flatMap (d.sampleRanges b)).findSome? fun x => d.pvaWait p x.1 x.2 with
      | some d => d
      | none =>
        match Dev.sampleAll b t.mems d with
        | (_, none) => d
        | (d, some ms) =>
          let d := d.farEnd (svcReader p)
          let ended (d : Dev) (ms : List Member) : Dev := d.modPx p fun y => { y with step := some { t with stage := 3, mems := ms } }
          match d.batchProg b with
          | none => ended d ms
          | some g =>
            if ms.all fun m => m.fail.isSome || m.path.isEmpty then ended d ms
            else match d.image p g with
              -- an image that cannot be read fails the members that are to be compacted (DEDUCED)
              | (d, .error c) => ended d (ms.map fun m => if m.path.isEmpty then m else m.failWith c)
              | (d, .ok im) => ended (d.compactIssue b im ms) ms

/-! ### The policy of a waiting member (09, R181, R182) -/

/-- The deadline of R181 has passed at `e`. -/
def overdue (r e : Nat) : Bool :=
  if rqEmitted r = 0 then rqFtDeadline r ≠ 0 && rqAdmitAo r + rqFtDeadline r < e
  else rqBtTarget r ≠ 0 && rqLastEmit r + rqBtTarget r < e

/-- The victim chosen next: lowest priority, then latest admission, then highest index (DESIGN CHOICE, the last). -/
def Dev.victim (d : Dev) (p : Nat) (chosen : List Nat) : Option Nat :=
  ((d.liveReqs p).filter fun i => !chosen.contains i).foldl (fun (a : Option Nat) i =>
    match a with
    | none => some i
    | some k =>
      let x := d.rq i
      let y := d.rq k
      if rqPriority x < rqPriority y || (rqPriority x = rqPriority y && rqAdmitAo y ≤ rqAdmitAo x) then some i else a) none

/-- Pages whose holder count falls to 0 when a request is released after those of `gone`. -/
def Dev.soleHeld (d : Dev) (p i : Nat) (gone : List Nat) : Nat := (d.rx i).maps.countP fun e =>
  d.holders p e.2 = 1 + gone.countP fun j => (d.rx j).maps.any fun x => x.2 = e.2

/-- Victims for one grower: chosen so far and credit. -/
def Dev.victimsFor (d : Dev) (p g : Nat) : Nat → Int → List Nat × Nat → List Nat × Nat
  | 0, _, a => a
  | f + 1, short, (chosen, credit) =>
    if short ≤ 0 then (chosen, credit)
    else match d.victim p chosen with
      | none => (chosen, credit)
      | some v =>
        if v = g then (chosen ++ [v], credit)
        else
          let n := d.soleHeld p v chosen
          Dev.victimsFor d p g f (short - n) (chosen ++ [v], credit + n)

/-- The victims of EVICT_LOWEST for the growers in pass order; a grower already chosen needs nothing (DEDUCED). -/
def Dev.victims (d : Dev) (p : Nat) (growers : List Member) : List Nat :=
  ((d.passOrder growers).foldl (fun (a : List Nat × Nat) m =>
    if a.1.contains m.req then a
    else
      let fill := d.chunking m
      let (lo, hi) := m.slots fill
      let short : Int := (d.pagesNeeded p m.req lo hi).length - d.openPages p fill - a.2
      d.victimsFor p m.req 4097 short a) ([], 0)).1

/-! ### The commit (R171, R195, R206, R210) -/

/-- What a commit reads for its counting: the tokens of a chunk's prompt, when they are counted, and the table; a mark on either fails the member (17, R367), a translation fault reads as zeros (DEDUCED). -/
def Dev.countReads (d : Dev) (p : Nat) (m : Member) : Dev × Except Nat (List Nat × List Byte) :=
  let r := d.rq m.req
  let read (d : Dev) (pva n : Nat) : Dev × Except Nat (List Byte) :=
    if n = 0 then (d, .ok []) else match d.engRead p pva n with
      | (d, .error c) => (d, if c = 0x3001 then .error c else .ok (List.replicate n 0))
      | x => x
  if rqPenTable r = 0 then (d, .ok ([], []))
  else
    let n := if m.kind = 1 && rqPenPrompt r then m.rows else 0
    match read d (rqPromptPva r + 4 * m.len) (4 * n) with
    | (d, .error c) => (d, .error c)
    | (d, .ok bs) => match read d (rqPenTable r) (if n = 0 && m.out.isEmpty then 0 else penBytes) with
      | (d, .error c) => (d, .error c)
      | (d, .ok tab) => (d, .ok ((List.range n).map fun k => numAt bs (4 * k) 4, tab))

/-- Count tokens in a request's table: whether one was refused (R210). -/
def Dev.countTokens (d : Dev) (p i : Nat) (table : List Byte) (toks : List Nat) : Dev × Bool :=
  let r := d.rq i
  if rqPenTable r = 0 || toks.isEmpty then (d, false)
  else
    let tab := penSlots table
    let (tab', n, ref) := toks.foldl (fun (a : List Nat × Nat × Bool) t =>
      let (x, k, o) := penAdd a.1 a.2.1 t
      (x, k, a.2.2 || o)) (tab, rqDistinct r, false)
    let d := ((List.range 32768).filter fun h => tab'[h]? ≠ tab[h]?).foldl (fun d h =>
      d.putPva p (rqPenTable r + 8 * h) (leBytes 8 ((tab'[h]?).getD 0))) d
    let d := d.setRqF i 766 752 n
    (if ref then d.setRqF i 529 529 1 else d, ref)

/-- What a member's commit gives its record. -/
structure Done where
  toks : List Nat := []
  gap : Nat := 0
  late : Nat := 0
  viol : Bool := false
  ttft : Bool := false
  pen : Bool := false
  code : Nat := 0

/-- The latency account of `n` tokens emitted at `e` (R206). -/
def Dev.account (d : Dev) (p i n e : Nat) : Dev × Done :=
  let r := d.rq i
  let d := d.addCount (pPtn p) 0x358 n
  let d := (d.setRqF i 1046 1024 (rqEmitted r + n)).setRqF i 1023 960 e
  if rqEmitted r = 0 then
    let t := e - rqAdmitAo r
    let late := rqFtDeadline r ≠ 0 && rqFtDeadline r < t
    let d := d.setRqF i 1087 1056 (min t (2 ^ 32 - 1))
    let d := if late then (d.setRqF i 1144 1144 1).addCount (pPtn p) 0x35C 1 else d
    (d, { gap := min t (2 ^ 32 - 1), viol := late, ttft := late })
  else
    let g := e - rqLastEmit r
    let late := rqBtTarget r ≠ 0 && rqBtTarget r < g
    let d := d.setRqF i 1119 1088 (max (fld r 1119 1088) (min g (2 ^ 32 - 1)))
    let d := if late then (d.setRqF i 1143 1120 (min (2 ^ 24 - 1) (fld r 1143 1120 + 1))).addCount (pPtn p) 0x360 1 else d
    (d, { gap := min g (2 ^ 32 - 1), late := if late then 1 else 0, viol := late })

/-- The normal commit of a member, without its end: lengths, tokens, state (R171, R194). -/
def Dev.commitMember (d : Dev) (p e : Nat) (m : Member) : Dev × Done :=
  let i := m.req
  let r := d.rq i
  match m.fail with
  | some (c, cause) => (d.endReq p i rsFailed cause, { code := c })
  | none =>
    if m.kind = 2 then
      let d := if rqState r = rsGrow then d else d.addCount (pKvp p) 0x58 1
      ((d.setRqF i 3 0 rsGrow).setRqF i 1183 1152 (min (2 ^ 32 - 1) (fld r 1183 1152 + 1)), {})
    else match d.countReads p m with
    | (d, .error c) => (d.endReq p i rsFailed rcFault, { code := c })
    | (d, .ok (prompt, table)) =>
      let d := d.setRqF i 54 32 (m.len + if m.kind = 1 then m.rows else m.path.length + 1)
      let (d, pen) := d.countTokens p i table (prompt ++ m.out)
      if m.kind = 1 && !m.final then (d.setRqF i 3 0 rsPrefill, { pen := pen })
      else
        let (d, x) := d.account p i m.out.length e
        let d := d.modRx i fun y => { y with emitted := y.emitted ++ m.out, root := (m.out.getLast?).getD 0 }
        (d.setRqF i 3 0 rsDecode, { x with toks := m.out, pen := pen })

/-- The ends of a member that is still live, in the order of R195. -/
def Dev.endMember (d : Dev) (p : Nat) (m : Member) (evict fails : List Nat) : Dev × Nat :=
  let i := m.req
  if !rqLive (d.rq i) then (d, 0)
  else if m.ends ≠ 0 && m.fail.isNone && m.kind ≠ 2 then (d.endReq p i rsDone m.ends, 0)
  else if (d.rx i).release then (d.endReq p i rsDone rcReleased, 0)
  else if evict.contains i then ((d.addCount (pKvp p) 0x5C 1).endReq p i rsEvicted rcPool, 0)
  else if fails.contains i then ((d.addCount (pKvp p) 0x68 1).endReq p i rsFailed rcEmpty, 0xA001)
  else (d, 0)

/-- The record of a member, when it calls for one (R204, R205). -/
def Dev.memRecord (d : Dev) (void : Bool) (was : Nat) (m : Member) (x : Done) : Option Rec :=
  let flags := maskOf ((List.range 8).filter fun k =>
    if k = 0 then x.viol else if k = 1 then x.ttft else if k = 2 then m.trunc else if k = 3 then m.invalid
    else if k = 4 then x.pen else if k = 5 then m.nan else if k = 6 then m.first else void)
  if x.toks.isEmpty && flags = 0 && rqState (d.rq m.req) = was then none
  else some { idx := m.req, toks := x.toks, flags := flags, attach := if m.first then some (m.attCode, m.attLen) else none,
              gap := if x.toks.isEmpty then 0 else x.gap, code := x.code, late := x.late }

/-- A batch closes: its members stay live outside it; a release that waited for a step acts now (R199; the last is DEDUCED). -/
def Dev.closeBatch (d : Dev) (n : Nat) : Dev :=
  match tget? d.batches n with
  | none => d
  | some b =>
    let p := b.ptn
    let d := b.mems.foldl (fun d m => d.setRqF m.2 1190 1190 0) { d with batches := tdel d.batches n }
    let d := d.record p 0x0003 (leBytes 4 n)
    let d := b.mems.foldl (fun (d : Dev) m => if (d.rx m.2).release && rqLive (d.rq m.2) then d.endNow p m.2 rsDone rcReleased 0 else d) d
    let m := d.openMap p fun b => !b.np
    if m = 0 then d.voidOff p 9 else d

/-- The commit of a step (R171, R195): members commit, publishes that are due are made, members end, records leave, pages are released, the batch goes on or closes, the window closes. -/
def Dev.commit (d : Dev) (p : Nat) (t : StepRun) : Dev :=
  let e := d.ao
  let void := match (d.px p).step with | some s => s.voids ≠ 0 | none => false
  let ms := t.mems.filter fun m => rqLive (d.rq m.req)
  let was (i : Nat) : Nat := rqState (d.rq i)
  let late := ms.filter fun m => m.kind = 2 && m.fail.isNone && overdue (d.rq m.req) e
  let evict := if d.growFails p then [] else d.victims p late
  let fails := if d.growFails p then late.map Member.req else []
  let (d, xs) := ms.foldl (fun (a : Dev × List (Member × Nat × Done)) m =>
    let (d, x) := a.1.commitMember p e m
    (d, a.2 ++ [(m, was m.req, x)])) (d, [])
  let d := d.publishDue p
  let (d, xs) := xs.foldl (fun (a : Dev × List (Member × Nat × Done)) x =>
    let (d, c) := a.1.endMember p x.1 evict fails
    (d, a.2 ++ [(x.1, x.2.1, if c = 0 then x.2.2 else { x.2.2 with code := c })])) (d, [])
  let outside := evict.filter fun i => !(ms.any fun m => m.req = i) && rqLive (d.rq i)
  let d := outside.foldl (fun d i => (d.addCount (pKvp p) 0x5C 1).endReq p i rsEvicted rcPool) d
  let recs := (xs.filterMap fun x => d.memRecord void x.2.1 x.1 x.2.2) ++ outside.map fun i => { idx := i }
  let d := d.sendRecords p t.batch t.k e recs
  let d := ms.foldl (fun d m =>
    let r := d.rq m.req
    if rqLive r then d.releasePages p m.req fun k => rqLength r ≤ k % rqPpl r * rqT r else d) d
  let d := d.addCount (pSrv 0) 0x4C 1
  let d := if void then d.addCount (pPtn p) 0x3B4 1 else d
  let d := (d.modPx p fun y => { y with step := none }).freeEnded p
  let d := { d with batches := tmap d.batches fun k x => if k = t.batch then { x with k := x.k + 1, ready := e } else x }
  -- a batch of which no live member remains closes at this commit, whichever step it ends (R199)
  let d := (((d.ptnBatches p).filter fun x => x.2.mems.isEmpty || (x.1 = t.batch && x.2.closing)).map Prod.fst).foldl Dev.closeBatch d
  (((d.voidOff p 4).voidOff p 6).voidOff p 7).closeWindow p

/-- COMMIT_PUBLISH: the COMPACT commands of the step have completed. -/
def Dev.commitPublish (d : Dev) (p : Nat) : Dev :=
  match (d.px p).step with
  | none => d
  | some t =>
    if (tget? d.batches t.batch).isNone || t.stage ≠ 3 || !d.servingQuiet p || !d.stepSent p then d
    else if !d.stacksOn p then d.wakeStacks p
    else d.commit p t

/-- PAGE_RETURN (R172, R183): pages whose entries are invalidated and whose step is over return to their free lists; ended requests without pages become FREE. -/
def Dev.pageReturn (d : Dev) (p : Nat) : Dev :=
  let back (r : PageRet) : Bool := !(d.invals.any fun v => v.id = r.inval) && (r.step = 0 || d.stepId p ≠ r.step)
  let l := (d.px p).rets.filter back
  let d := d.modPx p fun x => { x with
    rets := x.rets.filter fun r => !back r
    pool := l.foldl (fun t r => if tgetD t r.page 0 = 0 then tdel t r.page else t) x.pool }
  (if l.isEmpty then d else d.addCount (pKvp p) 0x6C l.length).freeEnded p

/-! ### Batches (R198, R199; 11, R226–R228) -/

/-- Pinned compute domains of a program, and the stack domains of a partition (20, R430, R431). -/
def Dev.batchDomains (d : Dev) (p : Nat) (g : Option Prog) : List Nat :=
  (match g with
   | some g => ((below 800 g.uses).map (· / 10)).eraseDups
   | none => []) ++ (d.ptnStacks p).map (· + 80)

/-- The fields of a BATCH_OPEN body are in range. -/
def openFieldsOk (l : List Byte) : Bool :=
  let n := numAt l 2 2
  let base (o : Nat) : Bool := numAt l o 8 % 64 = 0 && numAt l o 8 < 2 ^ 48
  numAt l 0 2 ≤ 63 && 1 ≤ n && n ≤ 256 && numAt l 5 3 = 0 && numAt l 0x0C 4 ≠ 0 && base 0x10 && base 0x18 && base 0x20
    && numAt l 0x28 4 % 64 = 0 && numAt l 0x2C 20 = 0 && 0x40 + 2 * n ≤ l.length

/-- The first refusal among the members: reason and position (R198). -/
def Dev.openMemberBad (d : Dev) (p : Nat) : List Nat → Nat → List Nat → Option (Nat × Nat)
  | [], _, _ => none
  | i :: t, m, seen =>
    let r := d.rq i
    if !(d.ptnReqs p).contains i || !rqLive r then some (3, m)
    else if rqInBatch r || seen.contains i then some (4, m)
    else Dev.openMemberBad d p t (m + 1) (i :: seen)

/-- A general job of the partition has a bound queue: NP (R226). -/
def Dev.hasGeneral (d : Dev) (p : Nat) : Bool := d.jobs.any fun e => e.2.ptn = p && e.2.cls = 2 && !(d.jobUnits e.1).isEmpty

/-- The first failing condition of R228: condition, position, excess. -/
def Dev.openProof (d : Dev) (p : Nat) (idx : List Nat) (period w : Nat) : Option (Nat × Nat × Nat) :=
  let others := (d.ptnBatches p).map Prod.snd
  let s := others.foldl (fun a b => a + b.wc) w
  let pmin := others.foldl (fun a b => min a b.period) period
  let ms := (List.range idx.length).zip (idx.map d.rq)
  let c3 (r : Nat) : Nat := (d.ao - rqAdmitAo r) + ceilDiv (rqPrompt r - rqLength r) 256 * period + s
  if pmin < s then some (1, 0, s - pmin)
  else match ms.find? fun m => rqBtTarget m.2 ≠ 0 && rqBtTarget m.2 < period + s with
    | some m => some (2, m.1, period + s - rqBtTarget m.2)
    | none => (ms.find? fun m => rqEmitted m.2 = 0 && rqFtDeadline m.2 ≠ 0 && rqFtDeadline m.2 + period < c3 m.2).map fun m =>
        (3, m.1, c3 m.2 - (rqFtDeadline m.2 + period))

/-- The governor's step (18, R394). -/
def Dev.govStep (d : Dev) : Nat := d.getF pThm 0x44 6 2

/-- The checks of R198 and the proof of R228, in the ao-cycle of opening. -/
def Dev.proveOpen (d : Dev) (i : Item) (im : Option Image) : Dev :=
  let p := i.ptn
  let l := i.body
  let n := numAt l 0 2
  let bad (r m : Nat) : Dev := d.serveRefused i cBatchInvalid (r + m % 256 * 65536)
  if d.lehr ≠ 0 then d.serveRefused i cLehrStop d.thm.lehrCause
  else if d.govStep < 16 then d.serveRefused i 0x8003 d.govStep
  else if (tget? d.batches n).isSome then bad 1 0
  else if !openFieldsOk l then bad 2 0
  else
    let idx := (List.range (numAt l 2 2)).map fun m => numAt l (0x40 + 2 * m) 2
    match d.openMemberBad p idx 0 [] with
    | some (r, m) => bad r m
    | none =>
      let vocab := rqVocab (d.rq ((idx.head?).getD 0))
      match lowest idx.length fun m => let r := d.rq ((idx[m]?).getD 0)
                                       rqModel r ≠ numAt l 4 1 || rqVocab r ≠ vocab with
      | some m => bad 5 m
      | none =>
        match im with
        | none => bad 2 0
        | some g =>
          if numAt l 0x28 4 < 4 * vocab then bad 2 0
          else
            let draft := numAt l 0x10 8
            let np := d.hasGeneral p
            let reread := d.getF (pPtn p) 0x380 15 0
            let dd := if draft = 0 then 1 else 64
            let ms := idx.map fun k =>
              let r := d.rq k
              (bucketOf (rqMaxlen r - 1), max dd (min 8192 (rqPrompt r - rqLength r)))
            let period := numAt l 0x0C 4
            let w := g.worst reread np (min 65536 (ms.foldl (fun a m => a + m.2) 0)) ms
            match d.openProof p idx period w with
            | some (c, m, x) => d.serveRefused i 0xA003 (c + m % 256 * 4 + min x (2 ^ 22 - 1) * 1024)
            | none =>
              let b : Batch :=
                { ptn := p, model := numAt l 4 1, prog := numAt l 8 4, period := period, draft := draft, base := numAt l 0x18 8,
                  logits := numAt l 0x20 8, lstride := numAt l 0x28 4, mems := (List.range idx.length).zip idx,
                  opened := d.ao, k := 0, wc := w, reread := reread, np := np, closing := false }
              let d := idx.foldl (fun d k => (d.setRqF k 1189 1184 n).setRqF k 1190 1190 1) d
              ({ d with batches := tput d.batches n b }).endItem i 0 0

/-- BATCH_OPEN with the program's header read from its image (R224, R226), none where the handle is not loaded. -/
def Dev.openRead (d : Dev) (i : Item) : Dev :=
  match tget? (d.px i.ptn).progs (numAt i.body 8 4) with
  | none => d.proveOpen i none
  | some g => match d.intakeRead i.ptn g.pva 256 with
    | (d, .fault x w) => d.itemFault i x w
    -- a turn asks again by itself (15, R326)
    | (d, .wait) => if i.msg = glueMsg then d else { d with openWaits := d.openWaits ++ [⟨i.msg, i.item, i.ptn, i.body⟩] }
    | (d, .ok (_, true)) => d.hartPoison i
    | (d, .ok (bs, false)) => d.proveOpen i (some ⟨g.pva, bs⟩)

/-- BATCH_OPEN: pinned domains and stacks that are not ON are woken first, and the item waits (20, R431). -/
def Dev.batchOpen (d : Dev) (i : Item) : Dev :=
  let doms := d.batchDomains i.ptn (tget? (d.px i.ptn).progs (numAt i.body 8 4))
  if d.lehr ≠ 0 || doms.all fun k => d.dom k = dsOn then d.openRead i
  else
    let d := d.each doms fun d k => d.demand k
    { d with openWaits := d.openWaits ++ [⟨i.msg, i.item, i.ptn, i.body⟩] }

/-- BATCH_OPEN_PROVE: the domains that a waiting BATCH_OPEN of the partition pinned are ON. -/
def Dev.batchOpenProve (d : Dev) (p : Nat) : Dev :=
  match d.openWaits.find? fun w => w.ptn = p with
  | none => d
  | some w =>
    let doms := d.batchDomains p (tget? (d.px p).progs (numAt w.body 8 4))
    if d.lehr ≠ 0 || doms.all fun k => d.dom k = dsOn then
      ({ d with openWaits := d.openWaits.filter fun x => x ≠ w }).openRead ⟨w.msg, w.item, p, w.body, none⟩
    else d.each doms fun d k => d.demand k

/-- BATCH_CLOSE: the batch number stands in bytes 0 and 1 (DESIGN CHOICE: the body is not laid out). -/
def Dev.batchClose (d : Dev) (i : Item) : Dev :=
  let n := numAt i.body 0 2
  match tget? d.batches n with
  | none => d.endItem i cBatchInvalid 1
  | some b =>
    if b.ptn ≠ i.ptn then d.endItem i cBatchInvalid 1
    else if (match (d.px i.ptn).step with | some t => t.batch = n | none => false) = true then
      ({ d with batches := tput d.batches n { b with closing := true } }).endItem i 0 0
    else (d.closeBatch n).endItem i 0 0

/-- The batch items of partition `p`, and the events of its steps. -/
def execBatchOpen (p : Fin 25) (s : State) : Out := s.upd fun d => d.serveItem p 0x0042 Dev.batchOpen
def execBatchOpenProve (p : Fin 24) (s : State) : Out := s.upd fun d => d.batchOpenProve p
def execBatchClose (p : Fin 25) (s : State) : Out := s.upd fun d => d.serveItem p 0x0043 Dev.batchClose
def execSamplingStart (p : Fin 24) (s : State) : Out := s.upd fun d => d.samplingStart p
def execCommitPublish (p : Fin 24) (s : State) : Out := s.upd fun d => d.commitPublish p
def execPageReturn (p : Fin 24) (s : State) : Out := s.upd fun d => d.pageReturn p

end Sys2Proof.Machine
end

