-- ==== Sys2Proof/Machine/Media.lean ====
section
/-! DEFINITION. The tokenizer, the media front end and the voice-session glue (15, R316–R327). -/

namespace Sys2Proof.Machine

/-- Codes of R327. -/
abbrev cSessionInvalid : Nat := 0xA017
abbrev cStreamState : Nat := 0xA018
abbrev cTokInvalid : Nat := 0xA019
abbrev cTokCapacity : Nat := 0xA01A

/-! ### Tokenizer (R316, R317) -/

/-- A table as bytes: its fields. -/
def tkVocab (t : List Byte) : Nat := numAt t 4 4
def tkMerges (t : List Byte) : Nat := numAt t 8 4
def tkByte (t : List Byte) (b : Nat) : Nat := numAt t (0x10 + 4 * b) 4
def tkPool (t : List Byte) : Nat := 0x410 + 8 * tkVocab t + 12 * tkMerges t
def tkLen (t : List Byte) (k : Nat) : Nat := numAt t (0x414 + 8 * k) 2
/-- The string of token `k`. -/
def tkStr (t : List Byte) (k : Nat) : List Byte := bytesAt t (tkPool t + numAt t (0x410 + 8 * k) 4) (tkLen t k)
/-- Merge `r`: left, right, result. -/
def tkMerge (t : List Byte) (r : Nat) : Nat × Nat × Nat :=
  let o := 0x410 + 8 * tkVocab t + 12 * r
  (numAt t o 4, numAt t (o + 4) 4, numAt t (o + 8) 4)

/-- The table offset of the first fault of a table (R316). -/
def tkBad (t : List Byte) : Option Nat :=
  let v := tkVocab t
  if numAt t 0 4 ≠ 0x51544B31 then some 0
  else if v < 256 || 262144 < v then some 4
  else if v - 256 < tkMerges t then some 8
  else if t.length < tkPool t then some 8
  else
    match lowest 256 fun b => v ≤ tkByte t b || (List.range b).any fun c => tkByte t c = tkByte t b with
    | some b => some (0x10 + 4 * b)
    | none =>
      match lowest v fun k => tkLen t k = 0 || 256 < tkLen t k || t.length < tkPool t + numAt t (0x410 + 8 * k) 4 + tkLen t k with
      | some k => some (0x410 + 8 * k)
      | none =>
        match lowest 256 fun b => tkStr t (tkByte t b) ≠ [BitVec.ofNat 8 b] with
        | some b => some (0x10 + 4 * b)
        | none =>
          match lowest (tkMerges t) fun r =>
              let (a, b, c) := tkMerge t r
              v ≤ a || v ≤ b || v ≤ c || tkStr t c ≠ tkStr t a ++ tkStr t b with
          | some r => some (0x410 + 8 * v + 12 * r)
          | none => none

/-- The lowest rank of an adjacent pair of a sequence. -/
def bestRank (t : List Byte) : List Nat → Option Nat
  | a :: b :: l =>
    let here := lowest (tkMerges t) fun r => let m := tkMerge t r
                                             m.1 = a && m.2.1 = b
    match here, bestRank t (b :: l) with
    | some x, some y => some (min x y)
    | some x, none => some x
    | none, y => y
  | _ => none

/-- Replace the leftmost pair of merge `m` by its result. -/
def mergeOnce (m : Nat × Nat × Nat) : List Nat → List Nat
  | a :: b :: l => if a = m.1 && b = m.2.1 then m.2.2 :: l else a :: mergeOnce m (b :: l)
  | l => l

/-- encode (R317): each round shortens the sequence by one. -/
def encodeGo (t : List Byte) : Nat → List Nat → List Nat
  | 0, s => s
  | f + 1, s => match bestRank t s with
    | none => s
    | some r => encodeGo t f (mergeOnce (tkMerge t r) s)

def tkEncode (t : List Byte) (bs : List Byte) : List Nat := encodeGo t bs.length (bs.map fun b => tkByte t b.toNat)

/-- A hart's read for an item: faults and poison end the item (17, R367). -/
def Dev.hartRead (d : Dev) (i : Item) (pva n : Nat) (f : Dev → List Byte → Dev) : Dev :=
  match d.intakeRead i.ptn pva n with
  | (d, .fault x w) => d.itemFault i x w
  | (d, .wait) => d.retryItem i
  | (d, .ok (bs, m)) => if m then d.hartPoison i else f d bs

/-- A hart's write for an item. -/
def Dev.hartWrite (d : Dev) (i : Item) (pva : Nat) (bs : List Byte) (f : Dev → Dev) : Dev :=
  match d.intakeWrite i.ptn pva bs with
  | (d, .fault x w) => d.itemFault i x w
  | (d, .wait) => d.retryItem i
  | (d, .ok _) => f d

/-- TOK_LOAD (R316): at most 8 models; the table stays in the partition's memory. -/
def Dev.tokLoad (d : Dev) (i : Item) : Dev :=
  let model := numAt i.body 0 1
  let pva := numAt i.body 8 8
  let len := numAt i.body 0x10 4
  let have_ := (tget? (d.px i.ptn).toks model).isSome
  if pva % 4096 ≠ 0 || 2 ^ 48 ≤ pva || len < 0x410 || (!have_ && 8 ≤ (d.px i.ptn).toks.length) then d.endItem i cTokInvalid 0
  else d.hartRead i pva len fun d t =>
    match tkBad t with
    | some o => d.endItem i cTokInvalid (min o (2 ^ 24 - 1))
    | none => (d.modPx i.ptn fun x => { x with toks := tput x.toks model (pva, len) }).endItem i 0 0

/-- The table of a tokenizer item, and its input. -/
def Dev.withTable (d : Dev) (i : Item) (unit : Nat) (f : Dev → List Byte → List Byte → Dev) : Dev :=
  match tget? (d.px i.ptn).toks (numAt i.body 0 1) with
  | none => d.endItem i cTokInvalid 0
  | some (pva, len) =>
    let n := numAt i.body 0x10 4
    if n = 0 || 1048576 < n || (unit = 1 && numAt i.body 0x18 8 % 4 ≠ 0) then d.endItem i cTokInvalid 0
    else d.hartRead i pva len fun d t => d.hartRead i (numAt i.body 8 8) (unit * n) fun d bs => f d t bs

/-- A capacity outcome (R327). -/
def Dev.tooLong (d : Dev) (i : Item) (n : Nat) : Dev := d.endItem i cTokCapacity (min n (2 ^ 24 - 1))

/-- TOK_ENCODE (R317). -/
def Dev.tokEncode (d : Dev) (i : Item) : Dev :=
  d.withTable i 1 fun d t bs =>
    let s := tkEncode t bs
    if numAt i.body 0x20 4 < s.length then d.tooLong i s.length
    else d.hartWrite i (numAt i.body 0x18 8) (s.flatMap (leBytes 4)) fun d => d.endItem i 0 s.length

/-- TOK_DECODE (R317): the input length counts tokens, the capacity bytes. -/
def Dev.tokDecode (d : Dev) (i : Item) : Dev :=
  d.withTable i 4 fun d t bs =>
    let toks := (List.range (bs.length / 4)).map fun k => numAt bs (4 * k) 4
    match lowest toks.length fun k => tkVocab t ≤ (toks[k]?).getD 0 with
    | some k => d.endItem i cTokInvalid k
    | none =>
      let out := toks.flatMap (tkStr t)
      if numAt i.body 0x20 4 < out.length then d.tooLong i out.length
      else d.hartWrite i (numAt i.body 0x18 8) out fun d => d.endItem i 0 out.length

/-! ### Streams -/

def Dev.setStream (d : Dev) (k : Nat) (x : Stream) : Dev := { d with streams := tput d.streams k x }
def Dev.modStream (d : Dev) (k : Nat) (f : Stream → Stream) : Dev :=
  match tget? d.streams k with
  | some x => d.setStream k (f x)
  | none => d

/-- MED_PTN_RANGE (R328). -/
def Dev.medFirst (d : Dev) (p : Nat) : Nat := d.getF pMed (0x100 + 4 * p) 9 0
def Dev.medCount (d : Dev) (p : Nat) : Nat := d.getF pMed (0x100 + 4 * p) 20 10
def Dev.medOwns (d : Dev) (p k : Nat) : Bool := d.medFirst p ≤ k && k < d.medFirst p + d.medCount p

/-- A signal to a flag target: a release of DEVICE scope (R322, R326). -/
def Dev.signalTo (d : Dev) (t : FlagTo) (amount : Nat) : Dev :=
  if t.stack then d.signalStk t.unit t.flag amount else d.signalClu t.unit t.flag amount

/-- An amount that the spec does not state. -/
def Dev.signalFree (d : Dev) (t : FlagTo) : Dev :=
  let (x, d) := d.takeFree
  d.signalTo t (x % 65536)

/-- An event of a stream (R327): STREAM at 0x10, a number at 0x18. -/
def Dev.streamEvent (d : Dev) (x : Stream) (k kind a b : Nat) : Dev :=
  d.record x.ptn kind (leBytes 4 k ++ leBytes 4 a ++ leBytes 8 b)

/-- The partition's memory at a PVA answers. -/
def Dev.pvaReady (d : Dev) (p pva n : Nat) : Bool := (d.pvaWait p pva n).isNone

/-! ### SESSION_OPEN, SESSION_CLOSE (R325) -/

/-- A flag target word. -/
def flagTo (w : Nat) : FlagTo := ⟨fld w 9 0, bitOf w 10, fld w 16 11⟩

/-- The target is owned by the partition. -/
def Dev.targetOk (d : Dev) (p : Nat) (t : FlagTo) : Bool :=
  if t.stack then t.unit < 24 && d.owner (pStk t.unit 1) = p else t.unit < 800 && d.owner (pClu t.unit) = p

/-- The fields of a SESSION_OPEN body with their checks, by byte offset. -/
def Dev.sessionFields (d : Dev) (p : Nat) (l : List Byte) : List (Nat × Bool) :=
  let k := numAt l 0 2
  let glue := bitOf (numAt l 7 1) 0
  let vad := BitVec.ofNat 32 (numAt l 8 4)
  let own (o n : Nat) : Bool := (d.stackRuns p (numAt l o 8) n).isNone || 2 ^ 48 ≤ numAt l o 8
  let word (o : Nat) : Nat := numAt l o 4
  [(0, 1023 < k || !d.medOwns p k || (tget? d.streams k).isSome), (2, 4 < numAt l 2 1), (3, 4 < numAt l 3 1), (4, 1 < numAt l 4 1),
   (5, numAt l 5 1 = 0), (6, numAt l 6 1 = 0), (7, 7 < numAt l 7 1),
   (8, !(f32Finite vad) || Fv.lt (ofF32 vad) (.fin true 90 0) || Fv.lt (.fin false 0 0) (ofF32 vad)),
   (0x0C, numAt l 0x0C 1 = 0 || 100 < numAt l 0x0C 1), (0x10, numAt l 0x10 8 % 65536 ≠ 0 || own 0x10 196608),
   (0x18, glue && numAt l 0x20 4 ≠ 0 && own 0x18 (4 * numAt l 0x20 4)),
   (0x28, glue && own 0x28 16384),
   (0x30, !d.targetOk p (flagTo (word 0x30)) || fld (word 0x30) 23 17 ≠ 0 || fld (word 0x30) 31 24 = 0 || 200 < fld (word 0x30) 31 24),
   (0x34, !d.targetOk p (flagTo (word 0x34)) || fld (word 0x34) 31 17 ≠ 0),
   (0x38, !d.targetOk p (flagTo (word 0x38)) || (flagTo (word 0x38)).stack || fld (word 0x38) 31 17 ≠ 0),
   (0x3C, !d.targetOk p (flagTo (word 0x3C)) || fld (word 0x3C) 31 17 ≠ 0),
   (0x40, glue && own 0x40 320),
   (0x48, glue && !(d.ptnReqs p).contains (numAt l 0x48 2)), (0x4A, glue && 63 < numAt l 0x4A 1)]

/-- The stream that a good body opens. -/
def streamOf (p : Nat) (l : List Byte) : Stream :=
  { ptn := p, fmtIn := numAt l 2 1, fmtOut := numAt l 3 1, bins := if numAt l 4 1 = 0 then 80 else 128, onset := numAt l 5 1, hang := numAt l 6 1
    glue := bitOf (numAt l 7 1) 0, forward := bitOf (numAt l 7 1) 1, barge := bitOf (numAt l 7 1) 2, vad := numAt l 8 4
    ahead := numAt l 0x0C 1, buf := numAt l 0x10 8, hist := numAt l 0x18 8, histCap := numAt l 0x20 4, synth := numAt l 0x28 8
    every := fld (numAt l 0x30 4) 31 24, feat := flagTo (numAt l 0x30 4), end_ := flagTo (numAt l 0x34 4)
    ready := flagTo (numAt l 0x38 4), synthF := flagTo (numAt l 0x3C 4), tmpl := numAt l 0x40 8, entry := numAt l 0x48 2
    batch := numAt l 0x4A 1, handle := numAt l 0x50 8 }

/-- SESSION_OPEN: held until the media domain is ON (20, R430); the front end zeroes the header. -/
def Dev.sessionOpen (d : Dev) (i : Item) : Dev :=
  if d.dom 109 ≠ dsOn then (d.demand 109).retryItem i
  else match firstBad (d.sessionFields i.ptn i.body) with
    | some o => d.endItem i cSessionInvalid o
    | none =>
      let x := streamOf i.ptn i.body
      d.hartWrite i x.buf (List.replicate 256 0) fun d =>
        let x := { x with polled := if x.glue then d.flag (pClu x.ready.unit) x.ready.flag else 0 }
        (d.setStream (numAt i.body 0 2) x).endItem i 0 0

/-- Release the request of a turn (R197, R326). -/
def Dev.releaseTurn (d : Dev) (x : Stream) : Dev :=
  if !rqLive (d.rq x.entry) then d
  else if rqInBatch (d.rq x.entry) then d.modRx x.entry fun y => { y with release := true }
  else d.endNow x.ptn x.entry rsDone rcReleased 0

/-- Free a stream. -/
def Dev.freeStream (d : Dev) (k : Nat) : Dev :=
  { d with streams := tdel d.streams k, glueRecs := d.glueRecs.filter fun r => r.strm ≠ k }

/-- The stream closes: no further output; it is free once the turn's request has ended. -/
def Dev.closeStream (d : Dev) (k : Nat) : Dev :=
  match tget? d.streams k with
  | none => d
  | some x =>
    if 3 ≤ x.stage && rqLive (d.rq x.entry) then
      let d := (d.setStream k { x with closing := true, released := true, stage := 4 }).releaseTurn x
      if rqLive (d.rq x.entry) then d else d.freeStream k
    else d.freeStream k

/-- A stream of the partition that is open. -/
def Dev.openStream (d : Dev) (p k : Nat) : Option Stream :=
  match tget? d.streams k with
  | some x => if x.ptn = p && !x.closing then some x else none
  | none => none

/-- SESSION_CLOSE. -/
def Dev.sessionClose (d : Dev) (i : Item) : Dev :=
  let k := numAt i.body 0 2
  match d.openStream i.ptn k with
  | none => d.endItem i cStreamState (k % 1024)
  | some _ => (d.closeStream k).endItem i 0 0

/-! ### AUDIO_IN (R319) -/

/-- Samples join a stream. -/
def Stream.accept (x : Stream) (l : List Int) : Stream := { x with kept := x.kept ++ l, total := x.total + l.length }

/-- One frame with number `s`. -/
def Dev.audioFrame (d : Dev) (k s : Nat) (l : List Int) : Dev :=
  match tget? d.streams k with
  | none => d
  | some x =>
    let silent := List.replicate (audFrame x.fmtIn) (0 : Int)
    let e := x.expect
    if s < e then d.addCount pMed 0x50 1
    else
      let gap := if s ≤ e + 50 then s - e else 50
      let x' := ((List.range gap).foldl (fun (x : Stream) _ => x.accept silent) x).accept l
      let d := (d.setStream k { x' with expect := s + 1 }).addCount pMed 0x44 1
      let d := if gap = 0 then d else d.addCount pMed 0x4C gap
      if s ≤ e + 50 then d else d.streamEvent x k 0x0202 0 (x'.total / (audRate x.fmtIn / 100))

/-- AUDIO_IN: COUNT outside 1–64 or frames beyond the body end the item with SESSION_INVALID at COUNT (DESIGN CHOICE: the spec names no outcome). -/
def Dev.audioIn (d : Dev) (i : Item) : Dev :=
  let k := numAt i.body 0 2
  let n := numAt i.body 2 2
  match d.openStream i.ptn k with
  | none => d.endItem i cStreamState (k % 1024)
  | some x =>
    let bytes := audFrame x.fmtIn * audBytes x.fmtIn
    if d.mediaHeld k then d.retryItem i
    else if n = 0 || 64 < n || i.body.length < 8 + n * bytes then d.endItem i cSessionInvalid 2
    else
      let d := d.each (List.range n) fun d j =>
        d.audioFrame k (numAt i.body 4 4 + j) (audDecode x.fmtIn (bytesAt i.body (8 + j * bytes) bytes))
      d.endItem i 0 0

/-- The media items, the next item of partition `p`. -/
def execTokLoad (p : Fin 25) (s : State) : Out := s.upd fun d => d.serveItem p 0x0210 Dev.tokLoad
def execTokEncode (p : Fin 25) (s : State) : Out := s.upd fun d => d.serveItem p 0x0211 Dev.tokEncode
def execTokDecode (p : Fin 25) (s : State) : Out := s.upd fun d => d.serveItem p 0x0212 Dev.tokDecode
def execAudioIn (p : Fin 25) (s : State) : Out := s.upd fun d => d.serveItem p 0x0202 Dev.audioIn
def execSessionOpen (p : Fin 25) (s : State) : Out := s.upd fun d => d.serveItem p 0x0200 Dev.sessionOpen
def execSessionClose (p : Fin 25) (s : State) : Out := s.upd fun d => d.serveItem p 0x0201 Dev.sessionClose

/-! ### The glue (R326) -/

/-- The turn ends: HIST_LEN is written and TURN_DONE is sent; the cause stands at 0x14 (DESIGN CHOICE: the payload gives it no place). -/
def Dev.endTurn (d : Dev) (k cause : Nat) : Dev :=
  match tget? d.streams k with
  | none => d
  | some x =>
    let d := d.putPva x.ptn (x.buf + 0x24) (leBytes 4 x.histLen)
    let d := d.streamEvent x k 0x0204 cause x.histLen
    if x.closing then d.freeStream k else d.setStream k { x with stage := 0, released := false }

/-- Append one token to the history and to the synthesis ring; one that would pass HIST_CAP releases the request. -/
def Dev.glueTok (d : Dev) (k t : Nat) : Dev :=
  match tget? d.streams k with
  | none => d
  | some x =>
    if x.released then d
    else if x.histCap ≤ x.histLen then (d.setStream k { x with released := true }).releaseTurn x
    else
      let d := (d.putPva x.ptn (x.hist + 4 * x.histLen) (leBytes 4 t)).putPva x.ptn (x.synth + 4 * (x.synthCount % 4096)) (leBytes 4 t)
      d.setStream k { x with histLen := x.histLen + 1, synthCount := x.synthCount + 1 }

/-- The memory that a record's writes reach answers. -/
def Dev.glueWait (d : Dev) (x : Stream) : Option Dev :=
  match d.pvaWait x.ptn (x.buf + 0x24) 4 with
  | some d => some d
  | none => match (if x.histCap = 0 then none else d.pvaWait x.ptn x.hist (4 * x.histCap)) with
    | some d => some d
    | none => d.pvaWait x.ptn x.synth 16384

/-- The first record of a stream. -/
def Dev.glueRecord (d : Dev) (k : Nat) : Dev :=
  match tget? d.streams k, d.glueRecs.find? fun r => r.strm = k with
  | some x, some r =>
    match d.glueWait x with
    | some d => d
    | none =>
      let d := ({ d with glueRecs := (d.glueRecs.filter fun (y : GlueRec) => y.strm = k).drop 1 ++ d.glueRecs.filter fun (y : GlueRec) => y.strm ≠ k } : Dev).svcRuns x.ptn true
      let d := r.toks.foldl (fun (d : Dev) t => d.glueTok k t) d
      let d := if r.toks.isEmpty || x.released then d else d.signalFree x.synthF
      -- a turn that the glue released, this record's overflow included, ends with cause 4
      let cut := match tget? d.streams k with | some y => y.released | none => false
      if 5 ≤ r.state then d.endTurn k (if cut then rcReleased else r.cause) else d
  | _, _ => d

/-- The turn is refused (R326); a request that it has admitted is released. -/
def Dev.turnRefused (d : Dev) (k code : Nat) : Dev :=
  match tget? d.streams k with
  | none => d
  | some x =>
    let d := (d.setStream k { x with stage := 0, released := false }).streamEvent x k 0x0203 0 code
    if x.stage = 3 then d.releaseTurn x else d

/-- What the serving engine answered to an item of the glue; none while it waits for memory. -/
def Dev.glueAsk (d : Dev) (f : Dev → Dev) : Dev × Option Nat :=
  let d := f { d with itemResp := (0xFFFF, 0) }
  (d, if d.itemResp.1 = 0xFFFF then none else some d.itemResp.1)

/-- Stage 3: REQ_ADMIT of the template, with PROMPT, PROMPT_LEN and HANDLE. -/
def Dev.glueAdmit (d : Dev) (k : Nat) (x : Stream) (t : List Byte) : Dev :=
  let v := setFld (setFld (setFld (numAt t 0 256) 1247 1200 x.hist) 102 80 x.histLen) 383 320 x.handle
  match d.glueAsk fun d => d.reqAdmit ⟨glueMsg, 0, x.ptn, leBytes 256 v ++ leBytes 2 x.entry, none⟩ with
  | (d, none) => d
  | (d, some c) => if c = 0 then d.setStream k { x with stage := 3 } else d.turnRefused k c

/-- Stage 3, then: BATCH_OPEN of the template body with the single member ENTRY; the domains that it needs are woken first (20, R431). -/
def Dev.glueBatch (d : Dev) (k : Nat) (x : Stream) (t : List Byte) : Dev :=
  let body := patchNum (patchNum (bytesAt t 256 64) 0 2 x.batch) 2 2 1 ++ leBytes 2 x.entry
  let doms := d.batchDomains x.ptn (tget? (d.px x.ptn).progs (numAt body 8 4))
  if d.lehr = 0 && !(doms.all fun n => d.dom n = dsOn) then d.each doms fun d n => d.demand n
  else match d.glueAsk fun d => d.openRead ⟨glueMsg, 0, x.ptn, body, none⟩ with
    | (d, none) => d
    | (d, some c) => if c = 0 then d.setStream k { x with stage := 4 } else d.turnRefused k c

/-- GLUE_POLL: READY is read volatile; an increase takes HIST_LEN and begins a turn. -/
def Dev.gluePoll (d : Dev) (k : Nat) : Dev :=
  match tget? d.streams k with
  | none => d
  | some x =>
    if !x.glue || x.closing || d.ptnState x.ptn ≠ stActive || !d.awake then d
    else
      let d := d.svcRuns x.ptn true
      let now := d.flag (pClu x.ready.unit) x.ready.flag
      let (d, x) :=
        if x.stage ≠ 0 then (d, x)
        else if now ≤ x.polled then (d.setStream k { x with polled := now }, { x with polled := now })
        else match d.pvaWait x.ptn (x.buf + 0x24) 4 with
          | some d => (d, x)
          | none => match d.engRead x.ptn (x.buf + 0x24) 4 with
            | (d, .ok l) =>
              let y := { x with polled := now, stage := 2, histLen := leNat l }
              (d.setStream k y, y)
            | (d, .error c) =>
              let y := { x with polled := now }
              ((d.setStream k y).turnRefused k c, y)
      if x.stage ≠ 2 && x.stage ≠ 3 then d
      else match d.intakeRead x.ptn x.tmpl 320 with
        | (d, .fault e _) => (d.farEnd (svcReader x.ptn)).turnRefused k e.code
        | (d, .wait) => d
        | (d, .ok (t, m)) =>
          let d := d.farEnd (svcReader x.ptn)
          if m then d.turnRefused k cPoison
          else
            let d := if x.stage = 2 then d.glueAdmit k x t else d
            match tget? d.streams k with
            | some y => if y.stage = 3 then d.glueBatch k y t else d
            | none => d

/-! ### Features and voice activity (R320, R321) -/

/-- Barge-in: records that wait are applied first; the unsent output is dropped, the turn ends, the next audio message carries LAST. -/
def Dev.bargeIn (d : Dev) (k : Nat) : Dev :=
  let d := d.each (List.range d.glueRecs.length) fun d _ => d.glueRecord k
  match tget? d.streams k with
  | none => d
  | some x =>
   match d.engRead x.ptn (x.buf + 0x10) 16 with
   | (d, .error c) => if x.barge && c = cPoison then d.closeStream k else d
   | (d, .ok hd) =>
    let written := numAt hd 0 8
    let sent := numAt hd 8 8
    if !x.barge || written = sent then d
    else
      let y := { x with lastNext := true, turnAt := none, turnFrames := 0 }
      let d := (d.putPva x.ptn (x.buf + 0x18) (leBytes 8 written)).setStream k y
      if x.stage = 2 then d.endTurn k rcReleased
      else if x.stage = 0 then d
      else (d.setStream k { y with stage := 4, released := true }).releaseTurn x

/-- The voice-activity decision of hop `t`. -/
def Dev.vadHop (d : Dev) (k t : Nat) (hop : List Int) : Dev :=
  match tget? d.streams k with
  | none => d
  | some x =>
    let on := speechHop hop (BitVec.ofNat 32 x.vad)
    let run := if on = x.speech then 0 else x.run + 1
    if !x.speech && on && x.onset ≤ run then
      ((d.setStream k { x with speech := true, run := 0 }).streamEvent x k 0x0200 0 (t + 1 - x.onset)).bargeIn k
    else if x.speech && !on && x.hang ≤ run then
      let d := (d.setStream k { x with speech := false, run := 0 }).putPva x.ptn (x.buf + 8) (leBytes 8 t)
      (d.signalTo x.end_ 1).streamEvent x k 0x0201 0 t
    else d.setStream k { x with run := run }

/-- FEATURE_FRAME: frame t once its window's samples are accepted: the row, FEAT_COUNT, the flag additions, then the decision. -/
def Dev.featureStep (d : Dev) (k : Nat) : Dev :=
  match tget? d.streams k with
  | none => d
  | some x =>
    let fs := audRate x.fmtIn
    let h := fs / 100
    let t := x.hop
    if x.closing || d.dom 109 ≠ dsOn || d.mediaHeld k || x.total < t * h + fs / 40 then d
    else match d.pvaWait x.ptn x.buf 65536 with
      | some d => d
      | none =>
        let win := (x.kept.drop (t * h - x.base)).take (fs / 40)
        let row := featureFrame fs x.bins win fun i => Config.free (d.freeNext + i)
        let d := { d with freeNext := d.freeNext + x.bins }
        let d := d.putPva x.ptn (x.buf + 0x100 + t % 200 * 256) (bytesAt row 0 256)
        let d := d.putPva x.ptn x.buf (leBytes 8 (t + 1))
        let d := d.setStream k { x with hop := t + 1, kept := x.kept.drop ((t + 1) * h - x.base), base := max x.base ((t + 1) * h) }
        let d := if (t + 1) % x.every = 0 then d.signalFree x.feat else d
        d.vadHop k t (win.take h)

/-! ### Output (R323, R324) -/

/-- Frames that may be sent now: those that OUT_WRITTEN covers, no more than AHEAD frames ahead of real time, at most 16 a message. -/
def Stream.mayFrames (x : Stream) (now avail : Nat) : Nat :=
  let real := match x.turnAt with | some t => (now - t) / 1000000 | none => 0
  min 16 (min (avail / audFrame x.fmtOut) (real + x.ahead - x.turnFrames))

/-- The audio message of some frames (R324). -/
def Dev.audioMsg (d : Dev) (x : Stream) (k n : Nat) (last : Bool) (smp : List Int) : Dev :=
  let data := audEncode x.fmtOut smp
  let d := d.addCount pMed 0x48 n
  d.sendUp (leBytes 4 (32 + data.length) ++ leBytes 1 clsAudio ++ leBytes 1 d.devnum ++ leBytes 1 x.ptn ++ leBytes 1 0
    ++ leBytes 2 k ++ leBytes 1 n ++ leBytes 1 x.fmtOut ++ leBytes 4 (if last then 1 else 0) ++ leBytes 4 x.outSeq ++ List.replicate 12 0 ++ data)

/-- Samples of the output ring from sample `i`: none while memory is awaited, `true` with a poison mark. -/
def Dev.ringSamples (d : Dev) (x : Stream) (i n : Nat) : Dev × Option (List Int × Bool) :=
  let a := i % 65536
  let k := min n (65536 - a)
  match d.intakeRead x.ptn (x.buf + 0x10000 + 2 * a) (2 * k) with
  | (d, .ok (b1, m1)) =>
    if k = n then (d, some (audDecode 0 b1, m1))
    else match d.intakeRead x.ptn (x.buf + 0x10000) (2 * (n - k)) with
      | (d, .ok (b2, m2)) => (d, some (audDecode 0 (b1 ++ b2), m1 || m2))
      | (d, _) => (d, none)
  | (d, _) => (d, none)

/-- OUTPUT_SCAN: the header is read; whole frames that are ready leave in one message, and the padded last frame of a turn with LAST. Marked samples are not sent, and close the session (17, R367). -/
def Dev.outputScan (d : Dev) (k : Nat) : Dev :=
  match tget? d.streams k with
  | none => d
  | some x =>
    if x.closing || d.dom 109 ≠ dsOn || d.mediaHeld k then d
    else match d.pvaWait x.ptn x.buf 196608 with
      | some d => d
      | none =>
       match d.engRead x.ptn (x.buf + 0x10) 20 with
       | (d, .error c) => if c = cPoison then d.closeStream k else d
       | (d, .ok hd) =>
        let written := numAt hd 0 8
        let sent := numAt hd 8 8
        let ends := numAt hd 16 4
        let avail := written - sent
        let fr := audFrame x.fmtOut
        let n := x.mayFrames d.ao avail
        let rest := avail - n * fr
        let tail := bitOf ends 0 && rest < fr && n < 16 && x.mayFrames d.ao (avail + fr) ≠ n
        if n = 0 && !tail then d
        else
          let take := n * fr + (if tail then rest else 0)
          match d.ringSamples x sent take with
          | (d, none) => d
          | (d, some (smp, m)) =>
            let d := d.farEnd (svcReader x.ptn)
            if m then d.closeStream k
            else
              let smp := smp ++ List.replicate (if tail then fr - rest else 0) 0
              let cnt := n + (if tail then 1 else 0)
              let d := d.audioMsg x k cnt (tail || x.lastNext) smp
              let d := d.putPva x.ptn (x.buf + 0x18) (leBytes 8 (sent + take))
              let d := if tail then d.putPva x.ptn (x.buf + 0x20) (leBytes 4 (setFld ends 0 0 0)) else d
              d.setStream k { x with
                outSeq := x.outSeq + cnt
                turnAt := if tail || x.lastNext then none else some (x.turnAt.getD d.ao)
                turnFrames := if tail || x.lastNext then 0 else x.turnFrames + cnt
                lastNext := false }

/-- The events of the front end and of the glue. -/
def execFeatureFrame (k : Fin 1024) (s : State) : Out := s.upd fun d => d.featureStep k
def execOutputScan (k : Fin 1024) (s : State) : Out := s.upd fun d => d.outputScan k
def execGluePoll (k : Fin 1024) (s : State) : Out := s.upd fun d => d.gluePoll k
def execGlueRecord (k : Fin 1024) (s : State) : Out := s.upd fun d => d.glueRecord k

end Sys2Proof.Machine
end

