-- ==== Sys2Proof/Machine/Buffer.lean ====
section
/-! DEFINITION. The cluster buffer's secure region, march engine and background test (05, R93–R99; 17, R369), and the swap of microcode and control stores (04, R84). -/

namespace Sys2Proof.Machine

/-- CLU_FLAG_ADD (04, R76). -/
def execCluFlagAdd (r : Role) (n : Fin 800) (v : BitVec 32) (s : State) : Out :=
  s.upd fun d => d.guardWrite r (pClu n) fun d => d.cluFlagAdd n v

/-! ### Secure region (R93, R94) -/

/-- Wipe region 63: zero data with valid check bits; a clock-gated domain is ungated; WIPING is set (R94). A cluster whose domain is OFF holds nothing to wipe. -/
def Dev.wipeSecure (d : Dev) (n : Nat) : Dev :=
  if d.dom (n / 10) = dsOff then d
  else
    let d := if d.dom (n / 10) = dsGated then d.setDom (n / 10) dsOn else d
    (d.zeroRange (bufBase n + 0xFC000) 0x4000).setBit (pClu n) 0x400 13 true

/-- A write to CLU_BUF_SECURE (R93, R100): only the security core's changes JOB and VALID, and a change wipes the region. -/
def Dev.writeSecure (d : Dev) (r : Role) (n : Nat) (v : Word) : Dev :=
  if r ≠ .security then d.setEvent (pClu n) evDenied
  else
    let old := d.reg (pClu n) 0x400
    let new := wput old 12 0 (wfld v 12 0)
    if new = old then d else (d.setReg (pClu n) 0x400 new).wipeSecure n

/-- CLU_BUF_SECURE_WRITE (R93). -/
def execCluBufSecureWrite (r : Role) (n : Fin 800) (v : BitVec 32) (s : State) : Out :=
  s.upd fun d => d.guardPut r (pClu n) 0x400 v fun d v => d.writeSecure r n v

/-- SECURE_WIPE_END (R94). -/
def execSecureWipeEnd (n : Fin 800) (s : State) : Out := s.upd fun d => d.setBit (pClu n) 0x400 13 false

/-! ### Test failures and spare rows (R97, R99; 17, R369) -/

/-- Spare rows of bank `b` used: those taken at manufacture and those taken since (17, R369, R381). -/
def Dev.sparesUsed (d : Dev) (n b : Nat) : Nat :=
  Config.spareRowsUsed n b + (d.clu n).spares.countP fun r => r / 2048 = b

/-- Rows (bank × 2048 + row) of failing words. -/
def failRows (l : List (Nat × Nat)) : List Nat := (l.map fun f => f.1 % 16 * 2048 + f.1 / 16).eraseDups

/-- A failing row takes a spare; a bank that needs a ninth retires the cluster (17, R369). -/
def Dev.takeSpare (d : Dev) (n r : Nat) : Dev :=
  if d.sparesUsed n (r / 2048) < 8 then (d.modClu n fun c => { c with spares := c.spares ++ [r] }).noteRec
  else d.retireCluster n none

/-- Record failing reads of the march (source 0) or the background test (source 1): the count, the first failure, the repair. -/
def Dev.testFails (d : Dev) (n source : Nat) (l : List (Nat × Nat)) : Dev :=
  match l.head? with
  | none => d
  | some (w, b) =>
    let d := d.addSat (pClu n) 0x410 15 0 l.length
    let d := if d.bit (pClu n) 0x40C 25 then d
      else d.setReg (pClu n) 0x40C (BitVec.ofNat 32 (w % 32768 + b % 512 * 2 ^ 15 + source * 2 ^ 24 + 2 ^ 25))
    (failRows l).foldl (fun d r => d.takeSpare n r) d

/-- The words of a range of a buffer are read and written back as they are: their error patterns are met (R96, R98; 17, R368). -/
def Dev.rereadWords (d : Dev) (a n : Nat) : Dev :=
  ((d.errs.map Prod.fst).filter fun u => a ≤ u && u < a + n).foldl Dev.noteErr d

/-! ### March engine (R96, R97) -/

/-- A march begins. -/
def Dev.startMarch (d : Dev) (n : Nat) (preserving : Bool) (mask : Nat) : Dev :=
  (d.setBit (pClu n) 0x404 2 true).modClu n fun c => { c with march := some ⟨preserving, mask⟩ }

/-- A write to CLU_BUF_MARCH_CTRL (R100): MODE and BG_MASK are stored, DONE and FAIL clear by 1, START begins a march in INIT or TEST. Clearing FAIL clears a failure that the march recorded. -/
def Dev.writeMarch (d : Dev) (n : Nat) (v : Word) : Dev :=
  let p := pClu n
  let d := d.setF p 0x404 1 1 (wfld v 1 1)
  let d := if wfld v 8 5 = 0 then d.invalid p else d.setF p 0x404 8 5 (wfld v 8 5)
  let d := if wbit v 3 then d.clearBit p 0x404 3 else d
  let d := if wbit v 4 then
      let d := d.clearBit p 0x404 4
      if !d.bit p 0x404 4 && d.bit p 0x40C 25 && !d.bit p 0x40C 24 then d.setReg p 0x40C 0 else d
    else d
  if wbit v 0 then
    if !(d.st p = stInit || d.st p = stTest) then d.invalid p
    else if (d.clu n).march.isSome then d
    else (d.setBit p 0x404 0 true).startMarch n (d.bit p 0x404 1) (d.getF p 0x404 8 5)
  else d

/-- MARCH_START (R97). -/
def execMarchStart (r : Role) (n : Fin 800) (v : BitVec 32) (s : State) : Out :=
  s.upd fun d => d.guardPut r (pClu n) 0x404 v fun d v => d.writeMarch n v

/-- The march of a cluster ends: a destructive one leaves zero words; failing reads are recorded and repaired. -/
def Dev.endMarch (d : Dev) (n : Nat) (fails : List (Nat × Nat)) : Dev :=
  match (d.clu n).march with
  | none => d
  | some m =>
    let p := pClu n
    let d := if m.preserving then d.rereadWords (bufBase n) 0x100000 else d.zeroRange (bufBase n) 0x100000
    let d := d.modClu n fun c => { c with march := none }
    let d := ((d.setBit p 0x404 0 false).setBit p 0x404 2 false).setBit p 0x404 3 true
    let d := if fails.isEmpty then d else d.setBit p 0x404 4 true
    d.testFails n 0 fails

/-- A scrub runs a destructive march with the solid background over a buffer, and one that was running ends with it; a buffer without power has lost its contents (16, R346). -/
def Dev.scrubMarch (d : Dev) (n : Nat) (fails : List (Nat × Nat)) : Dev :=
  if d.pageOn (pClu n) then (d.startMarch n false 1).endMarch n fails else d.zeroRange (bufBase n) 0x100000

/-- The march of a re-admission test with all four backgrounds: FAIL_COUNT counts its failing reads (17, R377). -/
def Dev.testMarch (d : Dev) (n fails : Nat) : Dev :=
  let d := (d.startMarch n false 15).endMarch n []
  if fails = 0 then d else (d.setBit (pClu n) 0x404 4 true).addSat (pClu n) 0x410 15 0 fails

/-! ### Background test (R98, R99) -/

/-- The states in which the background test runs. -/
def bgState (v : Nat) : Bool := v = stReady || v = stActive || v = stQuiescing || v = stQuiesced

/-- The background test runs on cluster `n`. -/
def Dev.bgRuns (d : Dev) (n : Nat) : Bool :=
  d.dom (n / 10) = dsOn && d.bit (pClu n) 0x414 0 && bgState (d.st (pClu n))

/-- BG_BLOCK_START (R98, R99): the next block starts every INTERVAL ao-cycles, or BG_LATE is set. -/
def execBgBlockStart (n : Fin 800) (s : State) : Out := s.upd fun d =>
  if d.bgRuns n && (d.clu n).bgDue ≤ d.ao then
    let d := d.modClu n fun c => { c with bgDue := d.ao + d.getF (pClu n) 0x414 24 1 }
    if d.bit (pClu n) 0x418 24 then (d.setBit (pClu n) 0x41C 2 true).modClu n fun c => { c with bgLate := true }
    else d.setBit (pClu n) 0x418 24 true
  else d

/-- BG_BLOCK_END (R98, R99): copy-back ends, failures are recorded; a late block follows at once while the test still runs. -/
def execBgBlockEnd (n : Fin 800) (fails : List (Nat × Nat)) (s : State) : Out := s.upd fun d =>
  let p := pClu n
  if !d.bit p 0x418 24 then d
  else
    let b := d.getF p 0x418 7 0
    let d := (d.setBit p 0x418 24 false).setF p 0x418 7 0 (b + 1)
    let d := d.rereadWords (bufBase n + 4096 * b) 4096
    let d := if b = 255 then d.setF p 0x418 23 8 (d.getF p 0x418 23 8 + 1) else d
    let fails := fails.filter fun f => f.1 / 128 = b
    let d := if fails.isEmpty then d else (d.setBit p 0x41C 3 true).testFails n 1 fails
    let late := (d.clu n).bgLate
    let d := d.modClu n fun c => { c with bgLate := false }
    if late && d.bgRuns n then d.setBit p 0x418 24 true else d

/-! ### Swap (04, R84) -/

/-- A write to CLU_UCODE_CTRL: KIND is stored, DONE and REJECTED clear by 1, SWAP starts in a quiesced cluster. -/
def Dev.writeUcode (d : Dev) (n : Nat) (v : Word) : Dev :=
  let p := pClu n
  let d := d.setF p 0x60 4 4 (wfld v 4 4)
  let d := if wbit v 2 then d.clearBit p 0x60 2 else d
  let d := if wbit v 3 then d.clearBit p 0x60 3 else d
  if wbit v 0 && !d.bit p 0x60 1 then
    if d.st p = stQuiesced then (d.setBit p 0x60 0 true).setBit p 0x60 1 true else d.invalid p
  else d

/-- UCODE_SWAP (R84). -/
def execUcodeSwap (r : Role) (n : Fin 800) (v : BitVec 32) (s : State) : Out :=
  s.upd fun d => d.guardPut r (pClu n) 0x60 v fun d v => d.writeUcode n v

/-- The swap ends with DONE or REJECTED. -/
def Dev.swapEnds (d : Dev) (n : Nat) (ok : Bool) : Dev :=
  let p := pClu n
  ((d.setBit p 0x60 0 false).setBit p 0x60 1 false).setBit p 0x60 (if ok then 2 else 3) true

end Sys2Proof.Machine
end

