-- ==== Sys2Proof/Machine/LinkTx.lean ====
section
/-! DEFINITION. The Treltan link: ports, lanes and training, paths, the replay buffer, routes (14, R280–R290, R310, R312; 17, R374). -/

namespace Sys2Proof.Machine

/-! ### States of a port (R281, R282) -/

/-- Lanes in service: LINK_STATE.INSERVICE. -/
def Dev.lanesIn (d : Dev) (n : Nat) : Nat := d.getF (pLink n) 0x4C 3 0

/-- How many lanes a mask names. -/
def laneCount (m : Nat) : Nat := (maskBits 4 m).length

/-- STATUS.STATE of a port becomes `v`: event LINK_STATE with the lanes in service (R306). -/
def Dev.setPortSt (d : Dev) (n v : Nat) : Dev :=
  let old := d.st (pLink n)
  if old = v then d
  else (d.setSt (pLink n) v).record 0xFF 0x0008
    (leBytes 1 n ++ leBytes 1 old ++ leBytes 1 v ++ leBytes 1 (laneCount (d.lanesIn n)))

/-- ACTIVE and RATE of LINK_STATE. -/
def Dev.setLanes (d : Dev) (n act rate : Nat) : Dev := (d.setF (pLink n) 0x4C 7 4 act).setF (pLink n) 0x4C 10 8 rate

/-- The lanes that carry traffic and RATE, of the lanes that have trained: three lanes on a SWITCHED port are two (R281). -/
def rateOf (switched : Bool) (m : Nat) : Nat × Nat :=
  let l := maskBits 4 m
  if switched && l.length = 3 then (maskOf (l.take 2), 2) else (maskOf l, l.length)

/-! ### Frames on the wire (R284) -/

/-- The Ethernet header that a frame to `peer` carries. -/
def Dev.eth (d : Dev) (n peer : Nat) : Eth :=
  let c := d.reg (pLink n) 0x40
  { dst := (d.reg pDev (0x100 + 8 * peer)).toNat + 2 ^ 32 * d.getF pDev (0x104 + 8 * peer) 15 0
    src := (d.reg (pLink n) 0x44).toNat + 2 ^ 32 * d.getF (pLink n) 0x48 15 0
    vlan := if wbit c 1 then some (wfld c 16 5, wfld c 4 2) else none
    typ := d.getF (pLink n) 0x58 15 0 }

/-- The port of a partition that is SCRUBBING sends only IDLE and LINK_CTRL frames (16, R345). -/
def Dev.portSends (d : Dev) (n : Nat) : Bool :=
  let o := d.owner (pLink n)
  d.portUp n && !(o < 24 && d.st (pPtn o) = 0xC)

/-- Put a frame on the wire: LINK_FRAMES_TX counts it. -/
def Dev.putFrame (d : Dev) (n peer : Nat) (f : Frame) : Dev :=
  (d.out (.frame n (d.eth n peer) f)).addCount (pLink n) 0x5C 1

/-- Send an ACK (1) or NAK (2) on a path: it carries ACK_SEQ and DONE_SEQ (R286). -/
def Dev.sendAck (d : Dev) (k typ : Nat) : Dev :=
  let p := d.path k
  let done := d.doneOf k
  let f : Frame := ⟨hdrOf [(4, typ), (8, d.devnum), (16, k % 64), (64, p.expect), (96, done)], []⟩
  (d.putFrame (k / 64) (k % 64) f).setPath k { p with unacked := 0, doneSent := done }

/-- Send LINK_CTRL OPEN to a peer (R287). The header gives no field that tells OPEN from a close: the frame is one of TYPE LINK_CTRL. -/
def Dev.sendCtrl (d : Dev) (n peer : Nat) : Dev :=
  d.putFrame n peer ⟨hdrOf [(4, 3), (8, d.devnum), (16, peer)], []⟩

/-! ### The replay buffer (R286) -/

/-- Bytes that the replay buffer of a port holds: frames whole, header and payload. -/
def Dev.replayBytes (d : Dev) (n : Nat) : Nat :=
  (d.paths.filter fun p => p.1 / 64 = n).foldl (fun a p => p.2.replay.foldl (fun a f => a + 64 + f.frame.data.length) a) 0

/-- Send every unacknowledged frame of a path again, in sequence order. -/
def Dev.resend (d : Dev) (k : Nat) : Dev :=
  let p := d.path k
  let d := p.replay.foldl (fun (d : Dev) r => d.out (.frame (k / 64) (d.eth (k / 64) (k % 64)) r.frame)) d
  (d.addCount (pLink (k / 64)) 0x64 p.replay.length).setPath k { p with
    replay := p.replay.map fun (r : RepFrame) => { r with at_ := d.ao }
    sentAt := d.ao
    resends := p.resends + 1 }

/-- A received ACK_SEQ frees the frames before it; a received DONE_SEQ releases what waits for the frames before it. -/
def Dev.takeAck (d : Dev) (k ack done : Nat) : Dev :=
  let p := d.path k
  let left := p.replay.filter fun r => !(seqBefore r.seq ack)
  let p := if left.length < p.replay.length then { p with replay := left, resends := 0, sentAt := ((left.head?).map RepFrame.at_).getD d.ao } else p
  let p := if seqBefore p.done done then { p with done := done } else p
  (d.setPath k { p with openIds := p.openIds.filter fun o => !(seqBefore o.2 p.done) }).afterDone

/-! ### Jobs that the link faults (R287, R292) -/

/-- The unit and queue in which a job is faulted: the compute DMA queue that sent the frame, else the lowest queue of the highest-numbered unit in which the job holds one. -/
def Dev.linkQueue (d : Dev) (j : Nat) (ids : List Nat) : Option (UnitKey × Nat) :=
  match d.dmas.find? fun e => e.2.remote.any fun r => ids.contains r.2.1 && d.qJob (0x4000 + e.1) r.1 = j with
  | some e =>
    match e.2.remote.find? fun r => ids.contains r.2.1 && d.qJob (0x4000 + e.1) r.1 = j with
    | some r => some (0x4000 + e.1, r.1)
    | none => none
  | none =>
    match (d.jobUnits j).reverse.head? with
    | none => none
    | some u => (d.jobQueues u j).head?.map fun q => (u, q)

/-- Fault a job of this device for its frames. -/
def Dev.linkFault (d : Dev) (j : Nat) (ids : List Nat) (code info : Nat) : Dev :=
  match d.linkQueue j ids with
  | some (u, q) => d.jobFault u q j code info
  | none => d.modJob j fun x => if x.cls = 0 then x else x.faulting code none

/-- Operation codes that a job of this device sends: the jobs named in other frames are the peer's. -/
def ownOp (op : Nat) : Bool := op = opWrite || op = opRead || op = opAtomic || op = opFlagAdd

/-! ### Paths (R286, R287) -/

/-- Accepted frames of a path that closes are still performed; nothing can be answered on it. -/
abbrev closedPath : Nat := 4097

/-- The path under which an access of JTAG waits among the accepted frames (05, R97; 21, R454). -/
abbrev jtagPath : Nat := 4098

/-- The event PATH_STATE (R306). -/
def Dev.pathEvent (d : Dev) (k : Nat) (up : Bool) (lost : Nat) : Dev :=
  d.record 0xFF 0x0009 (leBytes 1 (k / 64) ++ leBytes 1 (k % 64) ++ leBytes 2 (if up then 1 else 0) ++ leBytes 4 lost)

/-- A path opens: both sequence numbers at 0 (R286). -/
def Dev.openPath (d : Dev) (k : Nat) : Dev :=
  ((d.setPath k {}).setBit pDev (0x300 + 4 * (k % 64)) (k / 64) true).pathEvent k true 0

/-- A host work message that finds no path is answered with PATH_DOWN (R304). -/
def Dev.answerPathDown (d : Dev) (data : List Byte) : Dev :=
  let items := numAt data 0x12 2
  d.toDest (doneMsg (numAt data 0x10 1) (numAt data 0x11 1) 2 (numAt data 8 8) items 0 cPathDown (List.replicate items (cItemSkipped, 0)))

/-- Send the messages again whose path has gone down (R289); a work message of the bridge that finds no path is answered (R304). -/
def Dev.resendMsgs (d : Dev) (gone : List Nat) : Dev :=
  let hit (m : OutMsg) : Bool := m.ids.any fun i => gone.contains i
  let again := d.outMsgs.filter hit
  let d := { d with outMsgs := d.outMsgs.filter fun m => !hit m }
  again.foldl (fun (d : Dev) m =>
    if m.cls = clsWork && d.routeSet m.dev = 0 then d.answerPathDown m.data else d.sendMsgAs m.dev m.cls m.mid m.domain m.data) d

/-- Put a frame that was never held for replay back before the route (R290), with the response that it awaits. -/
def Dev.unroute (d : Dev) (k : Nat) (w : TxFrame) : Dev :=
  if w.frame.op = opMsg || !(ownOp w.frame.op || w.frame.op = opPvaWrite || w.frame.op = opPvaRead) then d
  else
    let r := d.reqs.find? fun r => r.path = k && r.tag = w.frame.tag && (w.frame.op = opRead || w.frame.op = opPvaRead || w.frame.op = opAtomic)
    let d := match r with
      | some r => { d with reqs := d.reqs.filter fun x => x.tag ≠ r.tag }
      | none => d
    let sel := if w.frame.op = opFlagAdd then 0 else addrSel w.frame.addr
    { d with heldOps := d.heldOps ++ [⟨w.id, w.peer, sel, w.frame, r⟩] }

/-- A path is down (R287): replay frames are discarded, the jobs concerned fault, what had not entered the buffer waits for a route, messages are sent again. -/
def Dev.pathDown (d : Dev) (k : Nat) : Dev :=
  if !d.pathOpen k then d
  else
    let n := k / 64
    let peer := k % 64
    let p := d.path k
    let waiting := (d.port n).waiting.filter fun w => w.peer = peer
    let gone := p.replay.map RepFrame.id ++ p.openIds.map Prod.fst
    let lost := p.replay.length
    let d := (d.setPath k {}).setBit pDev (0x300 + 4 * peer) n false
    let d := d.modPort n fun x => { x with waiting := x.waiting.filter fun w => w.peer ≠ peer }
    let d := waiting.foldl (fun (d : Dev) w => d.unroute k w) d
    let mine := d.reqs.filter fun r => r.path = k
    let d := { d with
      reqs := d.reqs.filter fun r => r.path ≠ k
      inOps := d.inOps.map fun (o : InOp) => if o.path = k then { o with path := closedPath } else o
      inMsgs := d.inMsgs.filter fun m => m.path ≠ k
      sigWaits := d.sigWaits.filter fun w => !(w.ids.any fun i => gone.contains i)
      qps := tmap d.qps fun _ q => { q with
        writes := q.writes.map fun (w : HostWrite) => { w with lost := w.lost || w.ids.any fun i => gone.contains i }
        sends := q.sends.map fun (m : HostSend) => { m with lost := m.lost || m.ids.any fun i => gone.contains i } }
      dests := tmap d.dests fun key x =>
        if mine.any fun r => r.what = ReqFor.ring key then { x with reading := false } else x
      far := d.far.map fun (x : FarRead) => if mine.any fun r => r.what = ReqFor.far x.who x.dev x.dpa then { x with refused := some 0x6001 } else x }
    let d := d.fault (pLink n) 0x6001 (peer + n * 256 + min lost 65535 * 65536)
    let d := d.pathEvent k false lost
    let jobs := ((p.replay.filter fun r => ownOp r.frame.op).map fun r => r.frame.job) ++ mine.map RemReq.job
    let d := (jobs.eraseDups.filter fun j => j ≠ noJob).foldl (fun (d : Dev) j =>
      d.linkFault j gone 0x6001 (peer + n * 256 + min lost 65535 * 65536)) d
    (d.resendMsgs (gone ++ waiting.map TxFrame.id)).afterDone

/-- Every path of a port is down. -/
def Dev.portPathsDown (d : Dev) (n : Nat) : Dev :=
  d.each (below 64 fun peer => d.pathOpen (pathKey n peer)) fun d peer => d.pathDown (pathKey n peer)

/-- A port enters DOWN (R282). -/
def Dev.portDown (d : Dev) (n : Nat) : Dev :=
  let d := (((d.setLanes n 0 0).setPortSt n lsDown).setBit (pLink n) 0x08 2 false).modPort n fun x => { x with trainAt := none }
  d.portPathsDown n

/-- A port begins to train; one that was training goes on, and its time runs from its beginning (R282). -/
def Dev.portTrain (d : Dev) (n : Nat) : Dev :=
  let goes := d.st (pLink n) = lsTraining && (d.port n).trainAt.isSome
  let d := (d.setLanes n 0 0).setPortSt n lsTraining
  if goes then d else d.modPort n fun x => { x with trainAt := some d.ao, trainOver := false }

/-- Entry `i` of the four of a port's lanes becomes `v`. -/
def setLane (l : List Nat) (i v : Nat) : List Nat := (List.range 4).map fun j => if j = i then v else (l[j]?).getD 0

/-- A lane retires (17, R374): its bit in INSERVICE clears, and programs that use the port lose their guarantee (11, R229). -/
def Dev.retireLane (d : Dev) (n l : Nat) : Dev :=
  if !bitOf (d.lanesIn n) l then d
  else
    let d := (d.setBit (pLink n) 0x4C l false).unitRetired (d.owner (pLink n)) 3 n l none 0 0
    d.each (List.range 24) fun d p => d.voidProgs p 2 fun g => bitOf g.ports n

/-- The width of a trained port is below what a loaded program needs, which has its guarantee still: cause LANE (11, R229). -/
def Dev.narrowed (d : Dev) (n : Nat) : Dev :=
  let w := laneCount (d.getF (pLink n) 0x4C 7 4)
  d.each (List.range 24) fun d p => d.voidProgs p 2 fun g => bitOf g.ports n && w < g.lanesMin && !bitOf g.voids 2

/-- Peers that the route table reaches through a port. -/
def Dev.portPeers (d : Dev) (n : Nat) : List Nat := below 64 fun peer => d.bit pDev (0x104 + 8 * peer) (16 + n) && peer ≠ d.devnum

/-- The state of a port that carries frames: ACTIVE with ENABLE, READY without (02, R28, R31). -/
def Dev.portRuns (d : Dev) (n : Nat) : Nat := if d.enabled (pLink n) then stActive else stReady

/-- In DEEP the window for a WAKE frame begins with the end of NAP_PORT's training (20, R436). -/
def Dev.detectEnd (d : Dev) (n : Nat) : Dev :=
  if d.devPower = 3 && d.pwr.detecting && d.getF pPwr 0x48 3 0 = n then { d with pwr := { d.pwr with detectAt := some d.ao } } else d

/-- TRAINING_END (R281–R283; 17, R374): `peer` are the lanes that the far end advertises, `failed` the lanes that did not train. The port runs on the lanes that both ends have and that trained; with none it is DOWN. A lane that fails in three consecutive trainings retires. A port that has trained sends LINK_CTRL OPEN on the paths that are not open. -/
def execTrainingEnd (n : Fin 16) (peer failed : BitVec 4) (s : State) : Out := s.upd fun d =>
  if d.st (pLink n) ≠ lsTraining then d
  else
    let x := d.port n
    let switched := d.bit (pLink n) 0x40 0
    -- a SWITCHED port has stopped until the recalibration of its lane ends (R283)
    if switched && x.recal.isSome then d
    else
    let out := match x.recal with | some l => 2 ^ l | none => 0
    let cand := (maskBits 4 (d.lanesIn n)).filter fun l => (switched || bitOf peer.toNat l) && !bitOf out l
    -- in frit mode P0 runs on one lane (19, R407)
    let cand := if d.frit then cand.take 1 else cand
    let bad := cand.filter fun l => bitOf failed.toNat l
    let good := cand.filter fun l => !bitOf failed.toNat l
    let fails := (List.range 4).map fun l =>
      let k := (x.fails[l]?).getD 0
      if bad.contains l then k + 1 else if good.contains l then 0 else k
    let gone := bad.filter fun l => 3 ≤ (fails[l]?).getD 0
    let began := x.trainAt.getD d.ao
    let d := d.modPort n fun y => { y with fails := fails, trainAt := none, trainOver := false }
    let d := (d.each gone fun d l => d.retireLane n l).setBit (pLink n) 0x08 2 false
    let d := d.detectEnd n
    if good.isEmpty then
      -- a retired lane leaves the port to train on those that remain
      if gone.isEmpty || d.lanesIn n = 0 then d.portDown n else d.portTrain n
    else
      let (act, rate) := rateOf switched (maskOf good)
      let d := (d.setLanes n act rate).setPortSt n (d.portRuns n)
      let d := d.narrowed n
      -- the replay timers have stood still (R282)
      let d := { d with paths := tmap d.paths fun k p => if k / 64 = n.val then
        { p with sentAt := p.sentAt + (d.ao - began), replay := p.replay.map fun (r : RepFrame) => { r with at_ := r.at_ + (d.ao - began) } } else p }
      if d.portUp n then (d.portPeers n).foldl (fun (d : Dev) q => if d.pathOpen (pathKey n q) then d else d.sendCtrl n q) d else d

/-- RETRAIN_TIMEOUT (R282): 50 ms are 2,500,000 ao-cycles. -/
def execRetrainTimeout (n : Fin 16) (s : State) : Out := s.upd fun d =>
  let x := d.port n
  match x.trainAt with
  | some t =>
    if d.st (pLink n) = lsTraining && !x.trainOver && t + 2500000 ≤ d.ao then
      (d.modPort n fun y => { y with trainOver := true }).portPathsDown n
    else d
  | none => d

/-- LINK_SIGNAL_LOSS (R282): the peer stops showing signal; the port is DOWN, or trains again. -/
def execLinkSignalLoss (n : Fin 16) (retrain : Bool) (s : State) : Out := s.upd fun d =>
  if d.pageOn (pLink n) && (d.st (pLink n) = stActive || d.st (pLink n) = stReady || d.st (pLink n) = lsTraining) then
    if retrain && d.st (pLink n) ≠ lsTraining then d.portTrain n else d.portDown n
  else d

/-- LINK_SIGNAL_DETECT (R282). -/
def execLinkSignalDetect (n : Fin 16) (s : State) : Out := s.upd fun d =>
  if d.pageOn (pLink n) && d.st (pLink n) = lsDown && d.lanesIn n ≠ 0 then d.portTrain n else d

/-- LANE_BER_WINDOW (17, R374): three consecutive bad windows retire the lane, and the port retrains. -/
def execLaneBerWindow (n : Fin 16) (l : Fin 4) (bad : Bool) (s : State) : Out := s.upd fun d =>
  if !bitOf (d.lanesIn n) l then d
  else
    let k := if bad then ((d.port n).bad[l.val]?).getD 0 + 1 else 0
    let d := d.modPort n fun x => { x with bad := setLane x.bad l k }
    if k < 3 then d
    else
      let d := d.retireLane n l
      if d.st (pLink n) = stActive || d.st (pLink n) = stReady then
        if d.lanesIn n = 0 then d.portDown n else d.portTrain n
      else d

/-- A write of LINK_LANE_RECAL (R283): the lowest lane named is recalibrated; a 1 written while BUSY is ignored. DONE is W1C. -/
def Dev.writeRecal (d : Dev) (n : Nat) (v : Word) : Dev :=
  let p := pLink n
  let d := if wbit v 5 then d.clearBit p 0x50 5 else d
  match maskBits 4 (wfld v 3 0) with
  | [] => d
  | l :: more =>
    if d.bit p 0x50 4 || !bitOf (d.lanesIn n) l then d.invalid p
    else
      let d := if more.isEmpty then d else d.invalid p
      let d := ((d.setBit p 0x50 4 true).setBit p 0x50 l true).modPort n fun x => { x with recal := some l }
      if d.st p = stActive || d.st p = stReady then d.portTrain n else d

/-- LANE_RECAL (R283). -/
def execLaneRecal (r : Role) (n : Fin 16) (v : BitVec 32) (s : State) : Out := s.upd fun d =>
  d.guardWrite r (pLink n) fun d => d.writeRecal n v

/-- LANE_RECAL_END (R283): a lane that fails to train counts a failed training (17, R374); the port retrains to its full width. -/
def execLaneRecalEnd (n : Fin 16) (ok : Bool) (s : State) : Out := s.upd fun d =>
  match (d.port n).recal with
  | none => d
  | some l =>
    let p := pLink n
    let k := if ok then 0 else ((d.port n).fails[l]?).getD 0 + 1
    let d := ((d.setF p 0x50 3 0 0).setBit p 0x50 4 false).setBit p 0x50 5 true
    let d := d.modPort n fun x => { x with recal := none, fails := setLane x.fails l k }
    let d := if k < 3 then d else d.retireLane n l
    if d.pageOn p && d.lanesIn n ≠ 0 then d.portTrain n else d

/-! ### Sending (R286, R290) -/

/-- FRAME_TRANSMIT (R286): the first waiting frame of a port takes its sequence number and is held for replay, if it fits in the 2 MiB. -/
def execFrameTransmit (n : Fin 16) (s : State) : Out := s.upd fun d =>
  match (d.port n).waiting with
  | [] => d
  | w :: rest =>
    let k := pathKey n w.peer
    if !d.portSends n || !d.pathOpen k || 2097152 < d.replayBytes n + 64 + w.frame.data.length then d
    else
      let p := d.path k
      let done := d.doneOf k
      let h := setFld (setFld (setFld w.frame.num 63 32 p.tx) 95 64 p.expect) 127 96 done
      let f : Frame := ⟨BitVec.ofNat 512 h, w.frame.data⟩
      let d := d.modPort n fun x => { x with waiting := rest }
      let d := d.setPath k { p with
        tx := seqNext p.tx
        replay := p.replay ++ [{ id := w.id, seq := p.tx, frame := f, at_ := d.ao }]
        openIds := p.openIds ++ [(w.id, p.tx)]
        sentAt := if p.replay.isEmpty then d.ao else p.sentAt
        unacked := 0
        doneSent := done }
      d.putFrame n w.peer f

/-- ACK_SEND (R286): 8 accepted frames, 25 ao-cycles after the first of them, or a DONE_SEQ not sent for 25 ao-cycles. -/
def execAckSend (n : Fin 16) (peer : Fin 64) (s : State) : Out := s.upd fun d =>
  let k := pathKey n peer
  let p := d.path k
  if d.portSends n && d.pathOpen k &&
      (8 ≤ p.unacked || (0 < p.unacked && p.ackAt + 25 ≤ d.ao) || (seqBefore p.doneSent (d.doneOf k) && p.doneAt + 25 ≤ d.ao))
  then d.sendAck k 1 else d

/-- Send LINK_CTRL OPEN where the path is not open and the port carries frames (R287). -/
def Dev.askOpen (d : Dev) (n peer : Nat) : Dev :=
  if d.portUp n && !d.pathOpen (pathKey n peer) then d.sendCtrl n peer else d

/-- Resend, or declare the path down once LIMIT resends have passed without progress; the port being ACTIVE, the exchange that reopens the path begins (R287). -/
def Dev.replayAgain (d : Dev) (k : Nat) : Dev :=
  if (d.path k).replay.any RepFrame.bad || d.getF (pLink (k / 64)) 0x54 19 16 ≤ (d.path k).resends then (d.pathDown k).askOpen (k / 64) (k % 64) else d.resend k

/-- REPLAY_TIMEOUT (R286, R287): the timers of a port that trains stand still (R282), and a port that may send no DATA frame sends none again (16, R345). -/
def execReplayTimeout (n : Fin 16) (peer : Fin 64) (s : State) : Out := s.upd fun d =>
  let k := pathKey n peer
  let p := d.path k
  if d.portSends n && d.pathOpen k && !p.replay.isEmpty && p.sentAt + d.getF (pLink n) 0x54 15 0 ≤ d.ao then d.replayAgain k else d

/-- ROUTE_SWITCH (R290): once nothing of the old set is outstanding, the new set applies and the held operations go. -/
def execRouteSwitch (peer : Fin 64) (s : State) : Out := s.upd fun d =>
  let set := d.routeSet peer
  if set = 0 || (set ≠ tgetD d.routes peer 0 && d.routeBusy peer) then d
  else
    let mine := d.heldOps.filter fun o => o.peer = peer.val
    let d := { d with routes := tput d.routes peer set, heldOps := d.heldOps.filter fun o => o.peer ≠ peer.val }
    mine.foldl Dev.routeOp d

end Sys2Proof.Machine
end

