-- ==== Sys2Proof/Machine/Qp0.lean ====
section
/-! DEFINITION. The host bridge toward the host (14, R296–R300, R305–R308, R311, R313): queue pairs, what the bridge sends, destinations and rings, event messages. -/

namespace Sys2Proof.Machine

/-! ### The window of a queue pair (R311) -/

/-- Key of queue pair `slot` of port `n`. -/
abbrev qpKey (n slot : Nat) : Nat := 64 * n + slot

/-- Reset words of the window. -/
def qpReset (off : Nat) : Word := if off = 0 then 0x50000#32 else if off = 0x14 then 0x7EE#32 else 0

def Dev.qp (d : Dev) (k : Nat) : Qp := tgetD d.qps k {}
def Dev.setQp (d : Dev) (k : Nat) (q : Qp) : Dev := { d with qps := tput d.qps k q }
def Dev.modQp (d : Dev) (k : Nat) (f : Qp → Qp) : Dev := d.setQp k (f (d.qp k))
def Qp.word (q : Qp) (off : Nat) : Word := tgetD q.win off (qpReset off)
def Qp.setWord (q : Qp) (off : Nat) (w : Word) : Qp := { q with win := tput q.win off w }
def Qp.st (q : Qp) : Nat := wfld (q.word 0) 1 0
def Qp.role (q : Qp) : Nat := wfld (q.word 0) 3 2
def Qp.dev (q : Qp) : Nat := wfld (q.word 0) 9 4
def Qp.ptn (q : Qp) : Nat := wfld (q.word 0) 14 10
/-- Bytes of the path MTU. -/
def Qp.mtu (q : Qp) : Nat := 128 * 2 ^ wfld (q.word 0) 18 16
def Qp.sqPsn (q : Qp) : Nat := wfld (q.word 8) 23 0
def Qp.rqPsn (q : Qp) : Nat := wfld (q.word 0xC) 23 0
def Qp.rkey (q : Qp) : Nat := (q.word 0x10).toNat

/-- States of a queue pair. -/
abbrev qsReset : Nat := 0
abbrev qsRts : Nat := 1
abbrev qsError : Nat := 2

def Qp.setSt (q : Qp) (v : Nat) : Qp := q.setWord 0 (wput (q.word 0) 1 0 v)

/-- Packets of a message of `n` bytes. -/
def Qp.packets (q : Qp) (n : Nat) : Nat := max 1 (ceilDiv n q.mtu)

/-- The bridge runs on a port: HBR_CFG.ENABLE (R296). -/
def Dev.hbrOn (d : Dev) (n : Nat) : Bool := n < 4 && d.bit (pHbr n) 0x40 0 && d.portUp n

/-! ### Errors (R297) -/

/-- A queue pair enters ERROR: SYNDROME, event QP_ERROR; nothing that it had received and not acknowledged is answered. -/
def Dev.qpError (d : Dev) (n slot syn : Nat) : Dev :=
  let d := d.modQp (qpKey n slot) fun q => { (q.setSt qsError).setWord 0x30 (BitVec.ofNat 32 (syn % 65536)) with writes := [], reads := [] }
  d.record 0xFF 0x000A (leBytes 1 n ++ leBytes 1 slot ++ leBytes 2 0 ++ leBytes 4 syn)

/-- The encapsulation of a packet that the bridge sends on a queue pair: the first of a message carries its PSN, the others follow it (R296, R311). -/
def Dev.roce (d : Dev) (n slot psn : Nat) : Roce :=
  let q := d.qp (qpKey n slot)
  let v6 := wbit (q.word 0) 15
  let addr (w : Nat → Word) : Nat := (w 0).toNat + if v6 then (w 1).toNat * 2 ^ 32 + (w 2).toNat * 2 ^ 64 + (w 3).toNat * 2 ^ 96 else 0
  { mac := (q.word 0x18).toNat + wfld (q.word 0x1C) 15 0 * 2 ^ 32
    ipv6 := v6
    src := addr fun i => d.reg (pHbr n) ((if v6 then 0x48 else 0x44) + 4 * i)
    dst := addr fun i => q.word (0x20 + 4 * i)
    dscp := wfld (q.word 0) 24 19
    udp := 4791
    qpn := wfld (q.word 4) 23 0
    psn := psn }

/-- AETH syndromes of the NAKs that the bridge sends (R296, R299): InfiniBand numbers, PRESUMED. -/
abbrev synSeq : Nat := 0x60
abbrev synInvalid : Nat := 0x61
abbrev synAccess : Nat := 0x62

/-- Answer a request with a NAK; Invalid Request and Remote Access Error put the queue pair into ERROR. -/
def Dev.hostNak (d : Dev) (n slot psn syn : Nat) : Dev :=
  let d := (d.out (.hostNak n slot (d.roce n slot psn) syn)).addCount (pHbr n) 0x60 1
  if syn = synInvalid || syn = synAccess then d.qpError n slot syn else d

/-- Acknowledge a request. -/
def Dev.hostAck (d : Dev) (n slot psn : Nat) : Dev := (d.out (.hostAck n slot (d.roce n slot psn))).addCount (pHbr n) 0x60 1

/-! ### Requests to the host -/

/-- Bytes of a request. -/
def HostOut.len : HostOut → Nat
  | .send _ data => data.length
  | .write _ _ data => data.length
  | .pull _ _ len _ _ _ _ => len

/-- Put a request on the wire with the next PSN (R296). -/
def Dev.putReq (d : Dev) (n slot : Nat) (what : HostOut) : Dev :=
  let k := qpKey n slot
  let q := d.qp k
  let c := q.packets what.len
  let d := d.setQp k { q.setWord 8 (BitVec.ofNat 32 ((q.sqPsn + c) % 2 ^ 24)) with reqs := q.reqs ++ [⟨q.sqPsn, 0, 0, d.ao, what⟩] }
  (d.out (.host n slot (d.roce n slot q.sqPsn) what)).addCount (pHbr n) 0x60 (match what with | .pull .. => 1 | _ => c)

/-- Send a request, or keep it until the queue pair is in RTS (R297). -/
def Dev.hostSend (d : Dev) (n slot : Nat) (what : HostOut) : Dev :=
  if (d.qp (qpKey n slot)).st = qsRts then d.putReq n slot what
  else d.modQp (qpKey n slot) fun q => { q with reqs := q.reqs ++ [⟨q.sqPsn, 0, 0, d.ao, what⟩] }

/-- Send the requests of a queue pair again, with fresh numbers: it has come to RTS. -/
def Dev.sendKept (d : Dev) (n slot : Nat) : Dev :=
  let l := (d.qp (qpKey n slot)).reqs
  let d := d.modQp (qpKey n slot) fun q => { q with reqs := [] }
  l.foldl (fun (d : Dev) r => d.putReq n slot r.what) d

/-- Send the requests of a queue pair again with their numbers. -/
def Dev.resendReqs (d : Dev) (n slot : Nat) (f : HostReq → HostReq) : Dev :=
  let l := (d.qp (qpKey n slot)).reqs
  let now := d.ao
  let d := d.modQp (qpKey n slot) fun q => { q with reqs := modAt (q.reqs.map fun (r : HostReq) => { r with sentAt := now }) 0 f }
  l.foldl (fun (d : Dev) r => (d.out (.host n slot (d.roce n slot r.psn) r.what)).addCount (pHbr n) 0x60 1) d

/-- Order of 24-bit PSNs, the shorter way round. -/
def psnLe (a b : Nat) : Bool := (b + 2 ^ 24 - a % 2 ^ 24) % 2 ^ 24 < 2 ^ 23

/-- ROCE_ACK (R297): an ACK frees the SENDs and RDMA WRITEs up to its PSN; a NAK retries, or puts the queue pair into ERROR. -/
def execRoceAck (n : Fin 4) (slot : Fin 64) (psn : BitVec 24) (syn : BitVec 8) (s : State) : Out := s.upd fun d =>
  let k := qpKey n slot
  let q := d.qp k
  if !d.hbrOn n || q.st ≠ qsRts then d
  else
    let d := d.addCount (pHbr n) 0x5C 1
    let sy := syn.toNat
    if sy < 0x20 then
      d.setQp k { q with reqs := q.reqs.filter fun r =>
        match r.what with
        | .pull .. => true
        | _ => !psnLe (r.psn + q.packets r.what.len - 1) psn.toNat }
    else
      match q.reqs.head? with
      | none => d
      | some r =>
        if sy < 0x40 then
          -- RNR NAK: RNR_RETRY 7 is without limit
          let lim := wfld (q.word 0x14) 10 8
          if lim ≠ 7 && lim ≤ r.rnr then d.qpError n slot sy else d.resendReqs n slot fun x => { x with rnr := x.rnr + 1 }
        else if sy = synSeq then
          if wfld (q.word 0x14) 7 5 ≤ r.tries then d.qpError n slot sy else d.resendReqs n slot fun x => { x with tries := x.tries + 1 }
        else d.qpError n slot sy

/-- QP_ACK_TIMEOUT (R297): the timeout is 4.096 µs × 2^TIMEOUT, 1,024 × 2^TIMEOUT / 5 ao-cycles. -/
def execQpAckTimeout (n : Fin 4) (slot : Fin 64) (s : State) : Out := s.upd fun d =>
  let q := d.qp (qpKey n slot)
  match q.reqs.head? with
  | none => d
  | some r =>
    if d.hbrOn n && q.st = qsRts && r.sentAt + 1024 * 2 ^ wfld (q.word 0x14) 4 0 / 5 ≤ d.ao then
      if wfld (q.word 0x14) 7 5 ≤ r.tries then d.qpError n slot 0 else d.resendReqs n slot fun x => { x with tries := x.tries + 1 }
    else d

/-! ### Congestion (R296): 50 µs are 2,500 ao-cycles, 55 µs 2,750 -/

/-- A CE-marked packet is answered by a CNP, at most one per queue pair in 50 µs. -/
def Dev.ceMarked (d : Dev) (n slot : Nat) : Dev :=
  let k := qpKey n slot
  let due := match (d.qp k).cnpAt with | none => true | some t => t + 2500 ≤ d.ao
  if d.bit (pHbr n) 0x40 5 && due then
    -- a CNP carries no sequence number: PSN 0 (PRESUMED)
    (((d.modQp k fun q => { q with cnpAt := some d.ao }).out (.cnp n slot (d.roce n slot 0))).addCount (pHbr n) 0x68 1).addCount (pHbr n) 0x60 1
  else d

/-- CNP_RECEIVE (R296). -/
def execCnpReceive (n : Fin 4) (slot : Fin 64) (s : State) : Out := s.upd fun d =>
  let k := qpKey n slot
  if !d.hbrOn n then d
  else
    let d := d.addCount (pHbr n) 0x5C 1
    if !d.bit (pHbr n) 0x40 5 then d
    else
      let q := d.qp k
      let due := match q.cutAt with | none => true | some t => t + 2500 ≤ d.ao
      d.setQp k { q with rate := if due then q.rate / 2 else q.rate, cutAt := if due then some d.ao else q.cutAt, riseAt := d.ao }

/-- QP_RATE_RECOVERY (R296). -/
def execQpRateRecovery (n : Fin 4) (slot : Fin 64) (s : State) : Out := s.upd fun d =>
  let q := d.qp (qpKey n slot)
  if q.rate < 1000000 && q.riseAt + 2750 ≤ d.ao then
    d.setQp (qpKey n slot) { q with rate := min 1000000 (q.rate + 50000), riseAt := d.ao }
  else d

/-! ### Setting a queue pair up (R297, R311) -/

/-- Bits of a window word that are RW. -/
def qpMask (off : Nat) : Nat :=
  if off = 0 then 0x1FFFFFF else if off = 4 || off = 8 || off = 0xC then 0xFFFFFF else if off = 0x10 || off = 0x18 then 0xFFFFFFFF
  else if off = 0x14 then 0x7FF else if off = 0x1C then 0xFFFF else if 0x20 ≤ off && off < 0x30 then 0xFFFFFFFF else 0

/-- A write of word `off` of the window of port `n` (R297, R311): fields other than STATE only in RESET; RTS from RESET; RESET from any state. In RESET a field given a reserved encoding keeps its value and the others are stored (00, R6). -/
def Dev.writeQp (d : Dev) (n off : Nat) (v : Word) : Dev :=
  let slot := d.getF (pHbr n) 0x58 5 0
  let k := qpKey n slot
  let q := d.qp k
  let old := q.word 0
  let w := v &&& BitVec.ofNat 32 (qpMask off)
  let want := wfld w 1 0
  if qpMask off = 0 then d
  else if q.st ≠ qsReset then
    if off ≠ 0 || wput w 1 0 q.st ≠ old then d.invalid (pHbr n)
    else if want = qsReset then
      d.setQp k { q.setWord 0 w with writes := [], reads := [], sends := q.sends.filter (!·.lost), rate := 1000000, cnpAt := none, cutAt := none }
    else if want = q.st then d
    else d.invalid (pHbr n)
  else if off ≠ 0 then d.setQp k (q.setWord off w)
  else
    let pm := wfld w 18 16
    let bad : List (Nat × Nat × Bool) := [(1, 0, 2 ≤ want), (3, 2, wfld w 3 2 = 3), (18, 16, pm = 0 || 5 < pm)]
    let w := bad.foldl (fun w b => if b.2.2 then wput w b.1 b.2.1 (wfld old b.1 b.2.1) else w) w
    let d := if bad.any fun b => b.2.2 then d.invalid (pHbr n) else d
    let d := d.setQp k (q.setWord 0 w)
    if wfld w 1 0 = qsRts then d.sendKept n slot else d

/-- QP_STATE_WRITE (R297): the first word of the window. -/
def execQpStateWrite (r : Role) (n : Fin 4) (v : BitVec 32) (s : State) : Out := s.upd fun d =>
  d.guardPut r (pHbr n) 0x80 v fun d v => d.writeQp n 0 v

/-- RDMA_WRITE_ACK (R299): the first unacknowledged RDMA WRITE, once DONE_SEQ covers every relay frame of it. -/
def execRdmaWriteAck (n : Fin 4) (slot : Fin 64) (s : State) : Out := s.upd fun d =>
  let q := d.qp (qpKey n slot)
  match q.writes with
  | [] => d
  | w :: rest =>
    if d.hbrOn n && q.st = qsRts && !w.lost && w.ids.all d.isDone then
      (d.setQp (qpKey n slot) { q with writes := rest }).hostAck n slot w.psn
    else d

/-! ### Destinations and rings (R307, R308, R313) -/

/-- A destination record. -/
structure Dest where
  words : List Word
deriving DecidableEq, Repr

def Dest.w (x : Dest) (i : Nat) : Word := (x.words[i]?).getD 0
def Dest.valid (x : Dest) : Bool := wbit (x.w 0) 0
def Dest.ring (x : Dest) : Bool := wbit (x.w 0) 1
def Dest.port (x : Dest) : Nat := wfld (x.w 0) 3 2
def Dest.slot (x : Dest) : Nat := wfld (x.w 0) 9 4
def Dest.size (x : Dest) : Nat := 2 ^ wfld (x.w 0) 14 10
def Dest.va (x : Dest) : Nat := (x.w 2).toNat + 2 ^ 32 * (x.w 3).toNat
def Dest.cons (x : Dest) : Nat := (x.w 4).toNat + 2 ^ 32 * (x.w 5).toNat

/-- The record of a destination of this device. -/
def Dev.destRec (d : Dev) (key : Nat) : Dest :=
  let (p, o) := destPlace key
  ⟨(List.range 6).map fun i => d.reg p (o + 4 * i)⟩

/-- A write of DEST_CTRL restarts SEQ and the consumed count (R308). -/
def Dev.destRestart (d : Dev) (key : Nat) : Dev :=
  { d with dests := tmod d.dests key {} fun x => { x with ringSeq := 0, written := 0, consumed := 0 } }

/-- One entry of a ring (R308). -/
def ringEntry (len cls seq : Nat) (data : List Byte) : List Byte :=
  let head := leBytes 4 len ++ leBytes 1 cls ++ List.replicate 3 0 ++ leBytes 8 seq ++ data
  head ++ List.replicate (len - 8 - head.length) 0 ++ leBytes 8 seq

/-- The bridge reads the consumed count of a ring (R308): on this device at once, on another by a remote read. -/
def Dev.readConsumed (d : Dev) (key : Nat) (x : Dest) (domain : Nat) : Dev :=
  let dev := key / 64
  let put (d : Dev) (v : Nat) : Dev := { d with dests := tmod d.dests key {} fun y => { y with consumed := v } }
  let go (d : Dev) : Dev := { d with dests := tmod d.dests key {} fun y => { y with reading := true } }
  if key % 64 = 62 then
    let tdev := x.cons / 2 ^ 44 % 256
    let a := x.cons % 2 ^ 44
    if tdev = d.devnum then (if d.memReady a then put d (d.readNum a 8) else d.memDemand a)
    -- an address of a device from 64 up is not sent and faults at the bridge (01, R19)
    else if 64 ≤ tdev then d.fault (pHbr x.port) cXlatePerm (xInfo ⟨cXlatePerm, 0, a, true, false⟩ 0 false 0 0)
    else go (d.sendRead tdev noJob opDomain a 8 (.ring key)).2
  else if dev = d.devnum then
    match d.xlRange none (key % 64 / 2) x.cons 8 false with
    | (d, .error _) => d
    | (d, .ok l) => if d.segsReady l then put d (leNat (d.readSegs (agPtn (key % 64 / 2) none) l)) else d.segsDemand l
  else
    let (id, d) := d.takeId
    let (tag, d) := d.takeTag
    let f := d.dataFrame dev opPvaRead noJob domain
      [(128, x.cons % 2 ^ 44), (172, 8), (212, key % 64 / 2), (217, x.cons / 2 ^ 44 % 16), (224, tag)] []
    go (d.sendOp ⟨id, dev, addrSel (x.cons % 2 ^ 44), f, some ⟨tag, noJob, 0, 8, 0, .ring key⟩⟩)

/-- The destination's wait ends: WAITS counts its ao-cycles (R313). -/
def Dev.waitEnds (d : Dev) (key : Nat) : Dev :=
  match (tgetD d.dests key {}).waitAt with
  | none => d
  | some t =>
    let (p, o) := destPlace key
    let d := if key / 64 = d.devnum then d.addCount p (o + 0x1C) (d.ao - t) else d
    { d with dests := tmod d.dests key {} fun y => { y with waitAt := none, ringFull := false } }

/-- The first message of a destination goes. -/
def Dev.destPop (d : Dev) (key : Nat) : Dev := { d with dests := tmod d.dests key {} fun y => { y with q := y.q.drop 1 } }

/-- A message was delivered: SENT counts it. -/
def Dev.delivered (d : Dev) (key : Nat) : Dev :=
  let (p, o) := destPlace key
  let d := (d.waitEnds key).destPop key
  if key / 64 = d.devnum then d.addCount p (o + 0x18) 1 else d

/-- A message waits. -/
def Dev.destWait (d : Dev) (key : Nat) : Dev :=
  { d with dests := tmod d.dests key {} fun y => { y with waitAt := some (y.waitAt.getD d.ao) } }

/-- MESSAGE_DELIVER (R307, R308): the first message of destination `key` (64 × device + 62 for the device destination, or + 2 × partition, + 1 for events). The record of a destination of another device is that device's: `words` are its six words and the link domain of its partition. -/
def execMessageDeliver (key : Fin 4096) (words : List (BitVec 32)) (s : State) : Out := s.upd fun d =>
  let st := tgetD d.dests key {}
  match st.q with
  | [] => d
  | m :: _ =>
    let x := if key.val / 64 = d.devnum then d.destRec key else ⟨words⟩
    let n := x.port
    let q := d.qp (qpKey n x.slot)
    let bound := if key.val % 64 = 62 then q.role = 1 else q.role = 2 && q.dev = key.val / 64 && q.ptn = key.val % 64 / 2
    -- in RESET the queue pair is not in RTS, and no message waits for it but one that waits already (R297, R307)
    if !x.valid || !bound || q.st = qsReset && st.waitAt.isNone then ((d.destPop key).waitEnds key).addCount (pHbr n) 0x70 1
    else if !d.hbrOn n || q.st ≠ qsRts then d.destWait key
    else if !x.ring then (d.hostSend n x.slot (.send m.cls m.data)).delivered key
    else
      let len := roundUp (24 + m.data.length) 64
      let pos := st.written % x.size
      let pad := if x.size < pos + len then x.size - pos else 0
      if x.size < st.written - st.consumed + pad + len then
        let d := if st.ringFull then d else d.addCount (pHbr n) 0x74 1
        let d := { d with dests := tmod d.dests key {} fun y => { y with ringFull := true, waitAt := some (y.waitAt.getD d.ao) } }
        if st.reading then d else d.readConsumed key x (((words[6]?).getD 0).toNat % 256)
      else
        let put (d : Dev) (at_ len cls seq : Nat) (data : List Byte) : Dev :=
          d.hostSend n x.slot (.write (x.va + at_) (x.w 1).toNat (ringEntry len cls seq data))
        let d := if pad = 0 then d else put d pos pad 0xFF (st.ringSeq + 1) []
        let seq := st.ringSeq + (if pad = 0 then 0 else 1)
        let d := put d ((st.written + pad) % x.size) len m.cls (seq + 1) m.data
        let d := { d with dests := tmod d.dests key {} fun y => { y with ringSeq := seq + 1, written := st.written + pad + len } }
        d.delivered key

/-! ### Event messages (R306) -/

/-- One 64-byte event record. -/
def EvRec.bytes (e : EvRec) : List Byte :=
  leBytes 2 e.kind ++ List.replicate 6 0 ++ leBytes 8 e.at_ ++ bytesAt e.payload 0 48

/-- EVENT_MESSAGE_SEND (R306): the records of a destination (255 the device's) that arose within 500 ao-cycles of its first, at most 16; those of the device destination go to the management port too (20, R439). -/
def execEventMessageSend (dest : Fin 256) (s : State) : Out := s.upd fun d =>
  let mine := d.events.filter fun e => e.dest = dest.val
  -- nothing leaves for a partition that is SCRUBBING (16, R345)
  if dest.val < 24 && d.ptnState dest = 0xC then { d with events := d.events.filter fun (e : EvRec) => e.dest ≠ dest.val }
  else match mine with
  | [] => d
  | e0 :: _ =>
    let l := (mine.takeWhile fun e => e.at_ ≤ e0.at_ + 500).take 16
    let seq := tgetD d.evSeq dest 0
    let data := leBytes 4 (16 + 64 * l.length) ++ leBytes 1 clsEvent ++ leBytes 1 d.devnum ++ leBytes 1 dest ++ leBytes 1 l.length
      ++ leBytes 8 (seq + 1) ++ l.flatMap EvRec.bytes
    let d := { d with
      events := (d.events.filter fun (e : EvRec) => e.dest ≠ dest.val) ++ mine.drop l.length
      evSeq := tput d.evSeq dest (seq + l.length) }
    let d := if dest.val = 0xFF && (d.bit pMgt 0x40 0 || d.frit) then { d with mgtOut := d.mgtOut ++ [data] } else d
    d.sendUp data

end Sys2Proof.Machine
end

