-- ==== Sys2Proof/Machine/Reset0.lean ====
section
/-! DEFINITION. CTRL and the states of a unit (02, R28–R31), what a reset and a power-off leave in a page (19, R415, R416), and the cluster and port resets (04, R83; 19, R413). -/

namespace Sys2Proof.Machine

/-! ### What a reset keeps (R416) -/

/-- Read-only words that a reset of a unit or a power-off keeps: VERSION, STATUS (which has rules of its own), OWNER, what has been retired, the fault records of queue bindings, the creation data of a partition. -/
def keepsRo (p : Page) (off : Nat) : Bool :=
  off = 0x04 || off = 0x0C || off = 0x24 ||
  match p.blk with
  | .clu => off = 0x7C4 || (0x80 ≤ off && off < 0x100 && 8 ≤ off % 16)
  | .stk => (p.n % 4 = 0 && off = 0x40) || (p.n % 4 = 1 && 0x80 ≤ off && off < 0x100 && 8 ≤ off % 16)
  | .dmac => (List.range 4).any fun k => 0x100 + k * 0x380 ≤ off && off < 0x100 + k * 0x380 + 0x20 && 8 ≤ off % 16
  | .ptn => (0x40 ≤ off && off < 0x100) || off = 0x200 || off = 0x204 || off = 0x3A4
  | .link => off = 0x4C
  | _ => false

/-- What a word reads as after a reset that keeps the RW fields: RW bits stay, the others take their reset value; QUIESCE and TEST of CTRL clear (R31). -/
def wordAfter (p : Page) (off : Nat) (v : Word) : Word :=
  if keepsRo p off then v
  else if off = 0x08 then v &&& 1#32
  else match regRow p off with
    | none => v
    | some r => (v &&& BitVec.ofNat 32 r.rw) ||| (resetWord p off &&& ~~~(BitVec.ofNat 32 r.rw))

/-- Reset a page: its RW fields, OWNER and retirements are kept, everything else returns to its reset value (R416). FAULT_OVERFLOW goes with FAULT_CODE. -/
def Dev.resetPage (d : Dev) (p : Page) : Dev :=
  let d := { d with
    csr := tmap d.csr fun k v => if p.base ≤ k && k < p.base + 0x1000 then wordAfter p (k - p.base) v else v
    evSent := tdel d.evSent p.base }
  let d := d.setBit p 0x0C 4 false
  if p.blk = .link then d.setF p 0x4C 31 4 0 else d

/-- STATUS.STATE changes without an event record: the EVENT field of the page is itself being reset. -/
def Dev.putSt (d : Dev) (p : Page) (v : Nat) : Dev := d.setF p 0x0C 3 0 v

/-! ### CTRL (R31) -/

/-- The state in which a configured unit runs: READY, or ACTIVE under ENABLE; QUIESCING under QUIESCE. -/
def Dev.runState (d : Dev) (p : Page) : Nat :=
  if d.quiesce p then stQuiescing else if d.enabled p then stActive else stReady

/-- A unit leaves INIT: READY, and ACTIVE in the same ao-cycle when ENABLE is 1 (R31); RESET_REQ reads 0 from then on. -/
def Dev.leaveInit (d : Dev) (p : Page) : Dev :=
  let d := (d.setBit p 0x08 2 false).setSt p stReady
  d.setSt p (d.runState p)

/-- What a change of ENABLE, QUIESCE or TEST brings about: the sequences of a partition go on (16, R333), and in TEST and RECOVER its guarantees are void (11, R229). -/
def Dev.ctrlFollow (d : Dev) (p : Page) : Dev :=
  match p.blk with
  | .ptn =>
    let bad := d.st p = stTest || d.st p = 0xB
    let d := if bad = d.bit (pPtn p.n) 0x3A4 8 then d
      else if bad then d.voidOn p.n 8 (d.openMap p.n fun _ => true) else d.voidOff p.n 8
    d.settle p.n
  | _ => d

/-- ENABLE of a KVP page (09, R175): 1 enables the pool, or is refused with INVALID_WRITE; 0 is refused while pages are in use. -/
def Dev.writePoolEnable (d : Dev) (p : Page) (v : Bool) : Dev :=
  if v then
    match d.poolEnable p.n with
    | some d => (d.setBit p 0x08 0 true).setSt p stActive
    | none => d.invalid p
  else if !(d.px p.n).pool.isEmpty || !(d.px p.n).handles.isEmpty then d.invalid p
  else ((d.poolDisable p.n).setBit p 0x08 0 false).setSt p stReady

/-- The unit's CTRL fields do not change in these states (R31). -/
def Dev.ctrlShut (d : Dev) (p : Page) : Bool :=
  d.pageOff p || d.st p = stOff || d.st p = stReset || d.st p = stFaulted || d.st p = stRetired

/-- A write of ENABLE (R31). A port's states are R282's: DOWN and TRAINING stay. -/
def Dev.writeEnable (d : Dev) (p : Page) (v : Bool) : Dev :=
  if d.enabled p = v then d
  else if d.ctrlShut p then d.invalid p
  else if p.blk = .kvp then d.writePoolEnable p v
  else
    let d := d.setBit p 0x08 0 v
    let d := if v && d.st p = stReady then (if p.blk = .link then d.setPortSt p.n stActive else d.setSt p stActive)
      else if !v && d.st p = stActive then (if p.blk = .link then d.setPortSt p.n stReady else d.setSt p stReady)
      else d
    d.ctrlFollow p

/-- A write of QUIESCE (R31). -/
def Dev.writeQuiesce (d : Dev) (p : Page) (v : Bool) : Dev :=
  if d.quiesce p = v then d
  else if d.ctrlShut p then d.invalid p
  else
    let d := d.setBit p 0x08 1 v
    let s := d.st p
    let d := if v && (s = stReady || s = stActive) then d.setSt p stQuiescing
      else if !v && (s = stQuiescing || s = stQuiesced || s = stReady) then d.setSt p (if d.enabled p then stActive else stReady)
      else d
    d.ctrlFollow p

/-- A write of TEST (R31): in force in READY and QUIESCED only; clearing it returns the unit to READY. -/
def Dev.writeTest (d : Dev) (p : Page) (v : Bool) : Dev :=
  if d.bit p 0x08 3 = v then d
  else if d.ctrlShut p then d.invalid p
  else if v then
    if d.st p = stReady || d.st p = stQuiesced then ((d.setBit p 0x08 3 true).setSt p stTest).ctrlFollow p else d.invalid p
  else ((d.setBit p 0x08 3 false).setSt p stReady).ctrlFollow p

/-- A FENCE that has issued holds a queue of the unit (12, R247). -/
def Dev.fenceHeld (d : Dev) (u : UnitKey) : Bool := (List.range (uQueues u)).any fun q => (d.qFence u q).isSome

/-- Work in flight on the unit of a page (R31): what has issued or been dispatched and has not completed, a FENCE that holds its queue included. Park images and saved records are not in flight. -/
def Dev.inFlight (d : Dev) (p : Page) : Bool :=
  match p.blk with
  | .clu => (d.cores.any fun e => e.1 / 32 = p.n && e.2.tile.isSome) || !(d.clu p.n).loads.isEmpty || (d.clu p.n).merge.isSome || d.fenceHeld p.n
  | .stk =>
    if p.n % 4 = 1 then !(d.stk (p.n / 4)).runs.isEmpty || !(d.stk (p.n / 4)).copiers.isEmpty || d.fenceHeld (0x2000 + p.n / 4)
    else if p.n % 4 = 3 then !(d.stk (p.n / 4)).copiers.isEmpty
    else false
  | .dmac => (d.dmas.any fun e => e.1 / 4 = p.n && (!e.2.xfers.isEmpty || !e.2.orphans.isEmpty)) ||
      (List.range 4).any fun k => d.fenceHeld (0x4000 + 4 * p.n + k)
  | .link => !(d.port p.n).waiting.isEmpty || d.paths.any fun k => k.1 / 64 = p.n && !k.2.openIds.isEmpty
  | .ptn => (d.px p.n).step.isSome || d.work.any fun m => m.ptn = p.n && m.busy
  | _ => false

/-- QUIESCE_COMPLETE (R31). -/
def Dev.quiesceEnds (d : Dev) (p : Page) : Dev :=
  if d.st p = stQuiescing && !d.inFlight p then d.setSt p stQuiesced else d

/-! ### Clusters without their contents (R416) -/

/-- The tensor cores of a cluster are cleared; one that was to retire with its tile has retired (17, R375). Core control stores are loaded from the image cache when the cluster leaves INIT. -/
def Dev.clearCores (d : Dev) (n : Nat) : Dev :=
  let d := d.each (List.range 32) fun d k => if (d.core n k).retiring then d.setBit (pClu n) 0x7C4 k false else d
  { d with cores := tdelRange d.cores (32 * n) (32 * n + 32) }

/-- A cluster without contents: queues empty, what the intake holds stays held, no park image, no load, no merge; spare rows and retirement stay. -/
def Dev.freshClu (d : Dev) (n : Nat) : Dev :=
  let c := d.clu n
  (d.setClu n { spares := c.spares, storeErrs := c.storeErrs, retired := c.retired, bgDue := d.ao,
                qs := (List.range 8).map fun q => { held := (c.q q).held, credit := d.qWeight n q } }).clearCores n

/-- Flags, scoreboard and core registers stand on the page and go with it; the state becomes `v`. -/
def Dev.resetClu (d : Dev) (n v : Nat) : Dev :=
  let d := ((d.resetPage (pClu n)).freshClu n).zeroRange (bufBase n) 0x100000
  (d.setSt (pClu n) (if (d.clu n).retired then stRetired else v)).hcheckOff (d.owner (pClu n))

/-- A cluster enters INIT: region 63 is wiped, and the buffer test marches with the solid background (05, R94, R97). -/
def Dev.initClu (d : Dev) (n : Nat) : Dev :=
  if (d.clu n).retired then d
  else ((d.setSt (pClu n) stInit).wipeSecure n).startMarch n false 1

/-! ### Cluster reset (04, R83) -/

/-- A queue held a command or a tile. -/
def Dev.queueUsed (d : Dev) (n q : Nat) : Bool := !(d.qCmds n q).isEmpty || d.gafBusy n q

/-- Cluster reset: tiles stop, commands and park images go, CLUSTER_RESET stands in the queues that held work and their jobs are aborted; the cluster passes through RESET to INIT. -/
def Dev.clusterReset (d : Dev) (n : Nat) : Dev :=
  let used := below 8 fun q => d.qBound n q && d.queueUsed n q
  let js := (used.map (d.qJob n)).eraseDups
  let d := js.foldl (fun d j => d.jobStop n j 0x500A) d
  let others := below 8 fun q => d.qBound n q && js.contains (d.qJob n q) && !used.contains q
  let d := d.resetClu n stReset
  -- CLUSTER_RESET is recorded in the queues that held work; the other queues of their jobs were aborted
  let d := others.foldl (fun d q => d.setQFault n q 0x5009) d
  if d.pageOff (pClu n) then d.putSt (pClu n) stOff else d.initClu n

/-- A wider reset that covers cluster `n` is in progress (19, R413, R414): of the device, or of its partition. -/
def Dev.coveredReset (d : Dev) (n : Nat) : Bool :=
  let o := d.owner (pClu n)
  d.st pDev = stInit || d.st pDev = stReset || (o < 24 && (d.st (pPtn o) = stReset || d.st (pPtn o) = stInit))

/-- RESET_REQ on a CLU page: absorbed by a wider reset (R414), and a further 1 has no effect while the reset is in progress, for which the bit reads 1 (02, R30). A cluster without power, or a retired one, ends its reset at once. -/
def Dev.reqCluReset (d : Dev) (n : Nat) : Dev :=
  let p := pClu n
  if d.bit p 0x08 2 || d.coveredReset n then d
  else
    let d := d.clusterReset n
    if d.st p = stInit then d.setBit p 0x08 2 true else d

/-! ### Port reset (19, R413, R416) -/

/-- Port reset: the page as R416 says, lanes, PCS and equalisation; the port retrains, and its paths stay (Note 3). -/
def Dev.portReset (d : Dev) (n : Nat) : Dev :=
  let p := pLink n
  let was := d.st p
  let d := (d.resetPage p).modPort n fun x => { x with recal := none }
  if d.lanesIn n = 0 then d.portDown n
  else
    let d := if was = stReset then d else d.setSt p stReset
    let x := d.port n
    let d := d.portTrain n
    -- a port that was training goes on doing so (14, R282)
    if was = lsTraining then d.modPort n fun y => { y with trainAt := x.trainAt.or y.trainAt, trainOver := x.trainOver } else d

/-- RESET_REQ on a LINK page: a further 1 has no effect while the reset is in progress (02, R30); the bit reads 1 until the port has trained or is DOWN. Without power the page alone is reset. -/
def Dev.reqPortReset (d : Dev) (n : Nat) : Dev :=
  let p := pLink n
  if d.bit p 0x08 2 then d
  else if d.pageOff p then d.resetPage p
  else
    let d := d.portReset n
    if d.st p = lsTraining then d.setBit p 0x08 2 true else d

end Sys2Proof.Machine
end

