-- ==== Sys2Proof/Machine/Power.lean ====
section
/-! DEFINITION. Power domains, clocks and the power states of the device (20, R428–R437, R442, R443; 07, R124; 19, R415, R416). -/

namespace Sys2Proof.Machine

/-! ### Domains (R428) -/

/-- The pages of a domain other than PD111 (R428). -/
def domPages (n : Nat) : List Page :=
  if n < 80 then (List.range 10).map fun i => pClu (10 * n + i)
  else if n < 104 then (List.range 4).map fun k => pStk (n - 80) k
  else if n < 108 then ((List.range 4).map fun i => pLink (4 * (n - 104) + i)) ++ (if n = 104 then (List.range 4).map pHbr else [])
  else if n = 108 then (List.range 16).map pSvc
  else if n = 109 then [pMed]
  else if n = 110 then
    (List.range 8).map pDie ++ (List.range 8).map pSrv ++ (List.range 8).map pSmp ++ (List.range 64).map (Page.mk .dmac) ++ [pMmu]
  else []

/-- Clusters of a compute domain (R428). -/
def domClusters (n : Nat) : List Nat := (List.range 10).map fun i => 10 * n + i

/-- Wake bound in ao-cycles (R428). -/
def wakeBound (n : Nat) : Nat :=
  if n < 80 then 2500 else if n < 104 then 500 else if n < 108 then 5000 else if n = 108 then 12500000 else if n = 109 then 5000 else 2500

/-- No command and no tile is left in the domain's clusters (R430, R442); a stack's marver and copier queues are empty; no stream is open. -/
def Dev.domIdle (d : Dev) (n : Nat) : Bool :=
  if n < 80 then
    (domClusters n).all fun c => (List.range 8).all (fun q => (d.qCmds c q).isEmpty && !d.gafBusy c q) && (List.range 32).all (fun k => (d.core c k).tile.isNone) && (d.clu c).merge.isNone
  else if n < 104 then
    let x := d.stk (n - 80)
    x.qs.all (fun q => q.cmds.isEmpty) && x.runs.isEmpty && x.copiers.isEmpty
  else if n = 109 then d.streams.isEmpty
  else true

/-- Some cluster of the domain satisfies `f` for an open batch's program or a bound job (R430). -/
def Dev.domBound (d : Dev) (n : Nat) : Bool :=
  (domClusters n).any fun c =>
    ((List.range 8).any fun q => d.qBound c q && 2 ≤ (d.job (d.qJob c q)).cls) ||
    (d.batches.any fun b => match d.batchProg b.2 with | some g => g.uses c | none => false)

/-- PINNED (R430). -/
def Dev.pinned (d : Dev) (n : Nat) : Bool :=
  if n < 80 then d.domBound n || d.getF pPwr (rDom n) 1 0 = 1
  else if n = 109 then !d.streams.isEmpty || d.getF pPwr (rDom n) 1 0 = 1
  else false

/-! ### Powering off (R415, R416) -/

/-- A queue pair returns to RESET. -/
def Qp.toReset (q : Qp) : Qp :=
  { q.setSt qsReset with writes := [], reads := [], rate := 1000000, cnpAt := none, cutAt := none }

/-- A page loses power: STATE reads OFF, RW fields stay in the retention store (R415). -/
def Dev.pageDark (d : Dev) (p : Page) : Dev := (d.setSt p stOff).resetPage p

/-- What a domain loses with its power beside its registers (R416, column NAP; for PD108 and PD110 column DEEP). -/
def Dev.domLoses (d : Dev) (n : Nat) : Dev :=
  if n < 80 then
    d.each (domClusters n) fun d c =>
      let js := ((List.range 32).filterMap fun k => (d.core c k).tile.map Tile.job).eraseDups
      (js.foldl Dev.settleOverrun ((d.freshClu c).zeroRange (bufBase c) 0x100000)).hcheckOff (d.owner (pClu c))
  else if n < 104 then
    (d.zeroRange (stkBase (n - 80)) 0x2000000000).modStk (n - 80) fun x =>
      { x with qs := x.qs.map fun q => ({ held := q.held } : Mq), runs := [], copiers := [], saved := [], moving := [], toMove := [], rets := [], repairs := [], demand := false }
  else if n < 108 then
    let d := d.each ((List.range 4).map fun i => 4 * (n - 104) + i) fun d p =>
      ((d.portPathsDown p).setLanes p 0 0).modPort p fun x => { x with trainAt := none, trainOver := false, recal := none }
    if n = 104 then { d with qps := tmap d.qps fun _ q => q.toReset } else d
  else if n = 108 then { d with svcUsed := [] }
  else if n = 110 then { d with lines := [], tlb := [], dmas := tmap d.dmas fun _ _ => {} }
  else d

/-- Domain `n` powers off. -/
def Dev.powerOff (d : Dev) (n : Nat) : Dev :=
  if d.dom n = dsOff || 111 ≤ n then d
  else
    let d := d.domLoses n
    let d := (domPages n).foldl (fun (d : Dev) p => (if p.blk = .link then d.setPortSt p.n stOff else d).pageDark p) d
    { d.setDom n dsOff with pwr := { d.pwr with wakeAt := tdel d.pwr.wakeAt n } }

/-! ### Waking (R429) -/

/-- A waiting wake may start. -/
def Dev.mayWake (d : Dev) (n : Nat) : Bool :=
  (d.dom n = dsOff || d.dom n = dsGated) && !d.reqOff n && !d.noDemand n
    && (n = 108 || 110 ≤ n || d.dom 110 = dsOn) && (80 ≤ n || d.wakingCompute < 8)

/-- The waiting wake that goes first: ascending request ao-cycle, then domain number (R429). -/
def firstWait (l : List (Nat × Nat)) : Option (Nat × Nat) :=
  l.foldl (fun (m : Option (Nat × Nat)) w =>
    match m with
    | none => some w
    | some x => if w.1 < x.1 || (w.1 = x.1 && w.2 < x.2) then some w else some x) none

/-- Start the waiting wakes that may start. -/
def Dev.pumpWakes : Nat → Dev → Dev
  | 0, d => d
  | f + 1, d =>
    match firstWait (d.pwr.waits.filter fun w => d.mayWake w.2) with
    | none => d
    | some w => Dev.pumpWakes f (d.startWake w.2)

/-- Start them all. -/
def Dev.pump (d : Dev) : Dev := d.pumpWakes (d.pwr.waits.length + 1)

/-- In frit mode only port P0 of the link domains runs, and its bridge (19, R407). -/
def fritPage (p : Page) : Bool := (p.blk = .link || p.blk = .hbr) && p.n = 0

/-- A page whose domain has reached ON, from OFF or from reset, enters INIT (02, R28); a link port trains (14, R282), and while the device watches NAP_PORT only that port does (R434, R436). -/
def Dev.pageLight (d : Dev) (p : Page) : Dev :=
  if (d.st p ≠ stOff && d.st p ≠ stReset) || (d.frit && !fritPage p) then d
  else match p.blk with
    | .clu => if (d.clu p.n).retired then d.setSt p stRetired else d.initClu p.n
    | .stk => if d.getF (pStk (p.n / 4) 0) 0x40 31 0 = 0 then d.setSt p stRetired else d.setSt p stInit
    | .link =>
      if d.lanesIn p.n = 0 then d.portDown p.n
      else if d.devPower = 3 && d.getF pPwr 0x48 3 0 ≠ p.n then d.setPortSt p.n stReset
      else d.portTrain p.n
    | _ => d.setSt p stInit

/-- Domain `n` reaches ON. -/
def Dev.domainOn (d : Dev) (n : Nat) : Dev :=
  let d := { d.setDom n dsOn with pwr := { d.pwr with wakeAt := tdel d.pwr.wakeAt n, retried := d.pwr.retried.filter fun k => k ≠ n && k ≠ n + 128 } }
  let d := (domPages n).foldl Dev.pageLight d
  -- an analogue trip is reported once the link domains are next on (18, R392)
  let d := match d.thm.report with
    | some c => if 104 ≤ n && n < 108 && [104, 105, 106, 107].all fun k => d.dom k = dsOn then
        ({ d with thm := { d.thm with report := none } } : Dev).record 0xFF 0x0145 (leBytes 4 c)
      else d
    | none => d
  d.pump

/-- Groups of the start (R427). -/
def bootGroups : List (List Nat) :=
  [[110], [108]] ++ ((List.range 6).map fun i => (List.range 4).map fun k => 80 + 4 * i + k) ++ [[104, 105, 106, 107], [109]]
    ++ ((List.range 10).map fun i => (List.range 8).map fun k => 8 * i + k)

/-- A domain of the start is settled: ON, or failed twice. -/
def Dev.domSettled (d : Dev) (n : Nat) : Bool := d.dom n = dsOn || d.pwr.retried.contains (n + 128)

/-- At stage 4 each group is powered once the one before it reads ON (R427). -/
def Dev.bootPower (d : Dev) : Dev :=
  if d.getF pBoot 0x40 2 0 ≠ 4 || d.frit then d
  else match bootGroups.find? fun g => !(g.all d.domSettled) with
    | none => d
    | some g => d.each g fun d n => if d.dom n = dsOff && !d.pwr.retried.contains (n + 128) then d.startWake n else d

/-- A stack leaves self-refresh (07, R124): it counts as a wake (R442). -/
def Dev.stackExits (d : Dev) (s : Nat) : Dev :=
  let d := ((d.setDom (80 + s) dsOn).addCount pPwr 0x54 1).modStk s fun x => { x with demand := false }
  { d with pwr := { d.pwr with wakeAt := tdel d.pwr.wakeAt (80 + s), retried := delSet d.pwr.retried (80 + s) } }

/-- DOMAIN_WAKE_TIMEOUT (R429): retried once, then the domain stays off: DOMAIN_FAIL, and the clusters of a compute domain retire. A stack that does not leave self-refresh stays in it. -/
def Dev.wakeTimeout (d : Dev) (n : Nat) : Dev :=
  match tget? d.pwr.wakeAt n with
  | none => d
  | some t =>
    if d.ao < t + 4 * wakeBound n then d
    else if !d.pwr.retried.contains n then
      let d := { d with pwr := { d.pwr with retried := addSet d.pwr.retried n } }
      if d.dom n = dsSelf then { d with pwr := { d.pwr with wakeAt := tput d.pwr.wakeAt n d.ao } } else (d.powerOff n).startWake n
    else
      let d := { d with pwr := { d.pwr with retried := addSet (delSet d.pwr.retried n) (n + 128), wakeAt := tdel d.pwr.wakeAt n } }
      let d := if d.dom n = dsSelf then d.modStk (n - 80) fun x => { x with demand := false } else d.powerOff n
      let d := d.record 0xFF 0x0149 (leBytes 4 n)
      let d := if n < 80 then d.each (domClusters n) fun d c => d.retireCluster c (some 0x8006) else d
      (d.bootPower).pump

/-- DOMAIN_WAKE_TIMEOUT. -/
def execDomainWakeTimeout (n : Fin 112) (s : State) : Out := s.upd fun d => d.wakeTimeout n

/-! ### Auto-off and PWR_DOM.REQ (R430, R442) -/

/-- A stack enters self-refresh. -/
def Dev.stackSleeps (d : Dev) (s : Nat) : Dev := if d.dom (80 + s) = dsOn then d.setDom (80 + s) dsSelf else d

/-- What REQ asks for takes effect once the domain is idle (R442). -/
def Dev.reqApply (d : Dev) (n : Nat) : Dev :=
  let r := d.getF pPwr (rDom n) 1 0
  if d.dom n = dsOn && d.domIdle n then
    if r = 2 then d.powerOff n else if r = 3 then d.stackSleeps (n - 80) else d
  else d

/-- AUTO_OFF (R430): `idle` is the number of consecutive ao-cycles without a command, a tile, a MERGE or an access in the domain. Nothing powers off while the start runs. -/
def execAutoOff (n : Fin 112) (idle : Nat) (s : State) : Out := s.upd fun d =>
  let n := n.val
  if 2 ≤ d.getF pPwr (rDom n) 1 0 then d.reqApply n
  else if (n < 80 || n = 109) && d.bit pPwr (rDom n) 2 && d.dom n = dsOn && d.getF pBoot 0x40 2 0 = 7 && !d.frit
      && !d.pinned n && d.domIdle n && d.getF pPwr 0x4C 23 0 ≤ idle then
    (d.powerOff n).addCount pPwr 0x58 1
  else d

/-- A link domain has a port owned by a partition or a bridge that is enabled (R442 Note 1). -/
def Dev.linkInUse (d : Dev) (n : Nat) : Bool :=
  ((List.range 4).any fun i => d.owner (pLink (4 * (n - 104) + i)) ≠ 0xFF) ||
  (n = 104 && (List.range 4).any fun i => d.bit (pHbr i) 0x40 0)

/-- A write of PWR_DOM[n] (R442 Note 1). -/
def Dev.writeDom (d : Dev) (n : Nat) (v : Word) : Dev :=
  let r := wfld v 1 0
  let offOk := (n < 80 || n = 109 || (104 ≤ n && n < 108)) && !d.pinned n && !(104 ≤ n && n < 108 && d.linkInUse n)
  if d.lehr ≠ 0 || (r = 2 && !offOk) || (r = 3 && !(80 ≤ n && n < 104)) then d.invalid pPwr
  else
    let d := d.setF pPwr (rDom n) 1 0 r
    let d := if n < 80 || n = 109 then d.setBit pPwr (rDom n) 2 (wbit v 2) else d
    let d := if r = 1 then d.demand n else d
    (d.reqApply n).pump

/-- PWR_DOM_REQ. -/
def execPwrDomReq (r : Role) (n : Fin 112) (v : BitVec 32) (s : State) : Out := s.upd fun d =>
  d.guardPut r pPwr (rDom n) v fun d v => d.writeDom n v

/-! ### Low power states (R434–R437) -/

/-- No step, command, transfer or message is in flight on the device (R435). -/
def Dev.quiet (d : Dev) : Bool :=
  (d.ptnx.all fun x => x.2.step.isNone) && (d.cores.all fun c => c.2.tile.isNone) &&
  (d.clus.all fun c => c.2.loads.isEmpty && c.2.merge.isNone && c.2.march.isNone && c.2.qs.all fun q => q.cmds.isEmpty && q.held.isEmpty) &&
  (d.stks.all fun x => x.2.runs.isEmpty && x.2.copiers.isEmpty && x.2.moving.isEmpty && x.2.repairs.isEmpty
    && x.2.qs.all fun q => q.cmds.isEmpty && q.held.isEmpty) &&
  (d.dmas.all fun x => x.2.xfers.isEmpty && x.2.orphans.isEmpty && x.2.remote.isEmpty && x.2.qs.all fun q => q.cmds.isEmpty && q.held.isEmpty) &&
  d.work.isEmpty && d.inOps.isEmpty && d.inMsgs.isEmpty && d.outMsgs.isEmpty && d.heldOps.isEmpty && d.sigWaits.isEmpty && d.reqs.isEmpty &&
  d.pulls.isEmpty && d.events.isEmpty && d.mgtOut.isEmpty && d.invals.isEmpty && d.openWaits.isEmpty && d.engCmds.isEmpty &&
  d.glueRecs.isEmpty && d.sec.run.isNone &&
  (d.ports.all fun p => p.2.waiting.isEmpty) && (d.paths.all fun p => p.2.replay.isEmpty && p.2.openIds.isEmpty) &&
  (d.dests.all fun x => x.2.q.isEmpty) && (d.qps.all fun q => q.2.reqs.isEmpty && q.2.sends.isEmpty && q.2.writes.isEmpty && q.2.reads.isEmpty)

/-- Enter IDLE (R434). -/
def Dev.enterIdle (d : Dev) : Dev :=
  let on := (below 24 fun s => d.dom (80 + s) = dsOn)
  let d := d.each on fun d s => d.setDom (80 + s) dsSelf
  let d := d.each (below 111 fun n => (n < 80 || 108 ≤ n) && d.dom n = dsOn) fun d n => d.setDom n dsGated
  { (d.setF pPwr 0x44 2 0 1).setF pPwr 0x44 9 8 1 with pwr := { d.pwr with entry := 0, low := 1, before := on } }

/-- A request is refused (R435): REASON, and INVALID_WRITE on the PWR page. -/
def Dev.powerRefused (d : Dev) (reason : Nat) : Dev := (d.setF pPwr 0x44 7 4 reason).invalid pPwr

/-- A park image, a saved-progress record or a held fault exists. -/
def Dev.savedWork (d : Dev) : Bool :=
  (d.clus.any fun c => !c.2.parks.isEmpty) || (d.stks.any fun x => !x.2.saved.isEmpty) ||
  (d.dmas.any fun x => x.2.xfers.any fun t => t.2.saved) ||
  ((List.range 24).any fun p => (List.range 8).any fun h => d.holdValid p h)

/-- A live request, an open batch or an open stream exists. -/
def Dev.serving (d : Dev) : Bool := (d.reqTab.any fun e => rqLive e.2.toNat) || !d.batches.isEmpty || !d.streams.isEmpty

/-- Why a request for NAP (2) or DEEP (3) is refused, the lowest reason first (R435). -/
def Dev.powerReason (d : Dev) (target : Nat) : Option Nat :=
  if d.serving then some 1
  else if d.savedWork then some 2
  else if d.boot.upd.isSome || d.boot.inst.isSome || d.sec.run.isSome || (List.range 24).any (fun p => d.st (pPtn p) = 0xC) then some 3
  else if d.lehr = 1 then some 4
  else if target = 3 && (List.range 24).any d.ptnExists then some 5
  else if d.lanesIn (d.getF pPwr 0x48 3 0) = 0 then some 6
  else if d.frit then some 7
  else none

/-- In NAP the ports in reset beside NAP_PORT train again. -/
def Dev.napPorts (d : Dev) : Dev :=
  d.each (below 16 fun i => d.st (pLink i) = stReset && d.pageOn (pLink i) && d.lanesIn i ≠ 0) fun d i => d.portTrain i

/-- A wake cause in NAP or DEEP, or in IDLE. -/
def Dev.wakeAll (d : Dev) : Dev :=
  let st := d.devPower
  let d := d.wakeCause
  if 2 ≤ st && st ≤ 3 then { d.napPorts with pwr := { d.pwr with detecting := false, detectAt := none } } else d

/-- A request for a state (R435, R437). -/
def Dev.powerReq (d : Dev) (target : Nat) : Dev :=
  let st := d.devPower
  if st = 4 || st = 5 then d.powerRefused 9
  else if 1 ≤ st then
    -- the write or message is itself a wake cause, which is applied first
    if target = 0 then d.wakeAll else d.wakeAll.powerRefused 9
  else
    let d := { d with pwr := { d.pwr with entry := 0 } }
    if target = 0 then d.setF pPwr 0x44 9 8 0
    else if target = 1 then { d.setF pPwr 0x44 9 8 1 with pwr := { d.pwr with entry := 1, low := 1 } }
    else match d.powerReason target with
      | some r => d.powerRefused r
      | none =>
        let d := ((d.setF pPwr 0x44 2 0 4).setF pPwr 0x44 9 8 target).record 0xFF 0x0147 (leBytes 1 0 ++ leBytes 1 target)
        { d with pwr := { d.pwr with entry := 1, low := target, abandon := false } }

/-- A message arrives on the management port: MGT_RX counts it; it ends IDLE (R436); without an assigned endpoint ID only control messages are accepted (R438). -/
def Dev.mgtRx (d : Dev) (f : Dev → Dev) : Dev :=
  if !d.pwr.up then d
  else
    let d := d.addCount pMgt 0x4C 1
    if d.bit pMgt 0x44 15 then f d else d.endIdle

/-- A request by PWR_DEV_REQ in a role, or by a POWER_REQ message of endpoint `eid`, whose reply carries PWR_DEV_STATUS (R435, R439). -/
def Dev.powerAsk (d : Dev) (r : Role) (eid : Option (Fin 256)) (target : Nat) : Dev :=
  match eid with
  | some e => d.mgtRx fun d =>
    let d := d.powerReq target
    d.mgtSend e 0x04 (leBytes 4 (d.reg pPwr 0x44).toNat)
  | none =>
    if !d.mayAccess r pPwr true then d.deny pPwr else (d.powerReq target).answer 0

/-- POWER_REQ_ACTIVE, POWER_REQ_IDLE, POWER_REQ_NAP, POWER_REQ_DEEP. -/
def execPowerReqActive (r : Role) (eid : Option (Fin 256)) (s : State) : Out := s.upd fun d => d.powerAsk r eid 0
def execPowerReqIdle (r : Role) (eid : Option (Fin 256)) (s : State) : Out := s.upd fun d => d.powerAsk r eid 1
def execPowerReqNap (r : Role) (eid : Option (Fin 256)) (s : State) : Out := s.upd fun d => d.powerAsk r eid 2
def execPowerReqDeep (r : Role) (eid : Option (Fin 256)) (s : State) : Out := s.upd fun d => d.powerAsk r eid 3

/-- AUTO_IDLE (R435): `idle` is the number of ao-cycles without work in flight. -/
def execAutoIdle (idle : Nat) (s : State) : Out := s.upd fun d =>
  if d.devPower = 0 && d.bit pPwr 0x48 4 && d.quiet && d.getF pPwr 0x48 31 8 ≤ idle then d.enterIdle else d

/-- Link domains off, and in NAP the ports beside NAP_PORT in reset (R434). -/
def Dev.linksSleep (d : Dev) (target : Nat) : Dev :=
  let port := d.getF pPwr 0x48 3 0
  if target = 3 then d.each [104, 105, 106, 107] fun d n => d.powerOff n
  else
    let d := d.each ([104, 105, 106, 107].filter fun n => n ≠ 104 + port / 4) fun d n => d.powerOff n
    d.each ((below 16 fun i => i / 4 = port / 4 && i ≠ port)) fun d i => (d.portDown i).setPortSt i stReset

/-- One step of an entry (R435): compute and media domains off; stacks in self-refresh, once what they have dispatched is complete; link domains; for DEEP PD108 and PD110, for NAP PD110 gated; then STATE is the target. -/
def Dev.entryStep (d : Dev) : Dev :=
  let target := d.getF pPwr 0x44 9 8
  let next (d : Dev) : Dev := { d with pwr := { d.pwr with entry := d.pwr.entry + 1 } }
  match d.pwr.entry with
  | 1 => next ((d.each (List.range 80) fun d n => d.powerOff n).powerOff 109)
  | 2 =>
    if d.stks.any fun x => !x.2.runs.isEmpty || !x.2.copiers.isEmpty || !x.2.moving.isEmpty || !x.2.repairs.isEmpty then d
    else next (d.each (List.range 24) fun d s => d.stackSleeps s)
  | 3 =>
    let d := next (d.linksSleep target)
    if target = 3 then d
    else { (d.setDom 110 dsGated).setF pPwr 0x44 2 0 2 with pwr := { d.pwr with entry := 0 } }
  | 4 => { ((d.powerOff 108).powerOff 110).setF pPwr 0x44 2 0 3 with pwr := { d.pwr with entry := 0 } }
  | _ => d

/-- An abandoned entry ends with its current step (R437): REASON 8. Before the link domains have gone off the device is ACTIVE again; after that it wakes as from the state it was entering. -/
def Dev.entryAbandoned (d : Dev) : Dev :=
  let soon := d.devPower = 4 && d.pwr.entry ≤ 3
  let low := d.pwr.low
  let d := { d.setF pPwr 0x44 7 4 8 with pwr := { d.pwr with entry := 0, abandon := false } }
  if soon then (d.setF pPwr 0x44 2 0 0).setF pPwr 0x44 9 8 0 else (d.startDevWake low).napPorts

/-- One step of the entry under way has been performed; a pending request for IDLE takes effect once nothing is in flight. -/
def Dev.entryGoes (d : Dev) : Dev :=
  if d.devPower = 0 && d.pwr.entry = 1 then (if d.quiet then d.enterIdle else d)
  else if d.devPower ≠ 4 then d
  else if d.pwr.abandon then d.entryStep.entryAbandoned
  else d.entryStep

/-! ### Wake causes (R436) -/

/-- The window for a WAKE frame is open (R436). -/
def Dev.wakeWindow (d : Dev) : Bool := match d.pwr.detectAt with | some t => d.ao ≤ t + 5000000 | none => false

/-- WAKE_CAUSE (R436): kind 0 any frame, message, access or write (a cause in IDLE); 1 a WAKE or DATA frame on NAP_PORT (IDLE, NAP); 2 a management work message, a POWER_REQ or a JTAG access (every low state); 3 a WAKE frame after signal detection. Each ends an entry under way that it would wake from. -/
def execWakeCause (kind : Fin 4) (s : State) : Out := s.upd fun d =>
  let st := d.devPower
  let low := if st = 4 then d.pwr.low else st
  let wakes := match kind.val with
    | 0 => low = 1
    | 1 => low = 1 || low = 2
    | 2 => 1 ≤ low
    | _ => low = 1 || low = 2 || (low = 3 && (st = 4 || d.wakeWindow))
  if (1 ≤ st && st ≤ 4) && wakes then d.wakeAll else d

/-- SIGNAL_DETECT (R436): in DEEP the link domain of NAP_PORT powers up, on the detector of the always-on domain alone. -/
def execSignalDetect (s : State) : Out := s.upd fun d =>
  if d.devPower ≠ 3 || d.pwr.detecting then d
  else
    let n := 104 + d.getF pPwr 0x48 3 0 / 4
    let d := { d with pwr := { d.pwr with detecting := true, detectAt := none } }
    if d.dom n = dsOff then d.startWake n else d

/-- WAKE_WINDOW_EXPIRY (R436). -/
def execWakeWindowExpiry (s : State) : Out := s.upd fun d =>
  match d.pwr.detectAt with
  | none => d
  | some t =>
    if d.devPower ≠ 3 || d.ao < t + 5000000 then d
    else
      let d := { d with pwr := { d.pwr with detecting := false, detectAt := none } }
      d.powerOff (104 + d.getF pPwr 0x48 3 0 / 4)

/-- The domains that the wake needs are on, and every port has ended its training (R436). -/
def Dev.wakeReady (d : Dev) : Bool :=
  d.pwr.low = 1 ||
  ([104, 105, 106, 107, 108, 110].all fun n => d.domSettled n && (domPages n).all fun p => d.st p ≠ stInit && !(p.blk = .link && d.st p = lsTraining))

/-- The device is ACTIVE again: gated domains run, and the stacks that were ON before IDLE leave self-refresh. -/
def Dev.wakeEnds (d : Dev) : Dev :=
  let low := d.pwr.low
  let d := (d.setF pPwr 0x44 2 0 0).setF pPwr 0x44 9 8 0
  let d := if low = 1 then d.each (below 111 fun n => d.dom n = dsGated) fun d n => d.setDom n dsOn else d
  let d := if low = 1 then d.each d.pwr.before fun d s => if d.lehr = 0 && d.dom (80 + s) = dsSelf then d.stkDemand s else d else d
  let d := { d with pwr := { d.pwr with low := 0, entry := 0, before := [] } }
  if 2 ≤ low then d.record 0xFF 0x0147 (leBytes 1 low ++ leBytes 1 0) else d

/-! ### Clocks (R432; 11, R229) -/

/-- Cause CLOCK of a partition: a core clock of its dies below 1.75 GHz, or a PLL of a compute domain or of the network of its dies without lock. -/
def Dev.clockBad (d : Dev) (p : Nat) : Bool :=
  (d.ptnClusters p).any fun n =>
    d.getF pThm (0x80 + 4 * (n / 100)) 4 0 < 16 || tgetD d.thm.clock (n / 100) 16 < 16 || !d.clockOn (n / 10) || !d.clockOn (110 + n / 100)

/-- The causes CLOCK of every partition, after a change of a clock. -/
def Dev.clockCause (d : Dev) : Dev :=
  d.each (List.range 24) fun d p =>
    if d.clockBad p then d.voidOn p 0 (d.openMap p fun _ => true) else d.voidOff p 0

/-- Domain of PLL `k`. -/
def pllDomain (k : Nat) : Nat := if k < 110 then k else 110

/-- PLL_LOCK_LOSS (R432). -/
def execPllLockLoss (k : Fin 118) (s : State) : Out := s.upd fun d =>
  let k := k.val
  if d.dom (pllDomain k) = dsOff || !d.clockOn k then d
  else (({ d with pwr := { d.pwr with unlocked := addSet d.pwr.unlocked k } } : Dev).addCount pClk 0x58 1).clockCause

/-- PLL_RELOCK (R432). -/
def execPllRelock (k : Fin 118) (s : State) : Out := s.upd fun d =>
  ({ d with pwr := { d.pwr with unlocked := delSet d.pwr.unlocked k } } : Dev).clockCause

end Sys2Proof.Machine
end

