-- ==== Sys2Proof/Machine/Reliab.lean ====
section
/-! DEFINITION. Error handling and repair (17, R355–R383; 12, R241): decided reads, row histories, repairs, channel retirement and migration, patrol, re-admission, error injection, line replacement. -/

namespace Sys2Proof.Machine

/-! ### Channels in service (07, R145) -/

/-- STK_CHANNEL_INSERVICE of a channel. -/
def Dev.chanIn (d : Dev) (s c : Nat) : Bool := d.bit (pStk s 0) 0x40 c

/-- Row, column and bank of a burst index (R358). -/
def rowOf (q : Nat) : Nat := q / 32
def colOf (q : Nat) : Nat := q % 32
def bankOf (row : Nat) : Nat := row % 16

/-- The first DPA of burst `q` of channel `c` of stack `s`. -/
def burstDpa (s c q : Nat) : Nat := stkBase s + burstOff c q

/-- Mark the data that a burst of an array holds. -/
def Dev.markHeld (d : Dev) (a : Nat) : Dev := match d.dpaAt a with | some x => d.mark x | none => d

/-! ### Granules in use (R372) -/

/-- DPA and size of every leaf below a table of level `l`. -/
def Dev.leavesGo (d : Dev) : Nat → Nat → List (Nat × Nat)
  | 0, a => (List.range (levelEntries 0)).filterMap fun i =>
      let e := d.readNum (a + 8 * i) 8
      if xV e && !xRemote e then some (xAddr e, leafBytes 0) else none
  | l + 1, a => (List.range (levelEntries (l + 1))).flatMap fun i =>
      let e := d.readNum (a + 8 * i) 8
      if !xV e then [] else if xLeaf e then (if xRemote e then [] else [(xAddr e, leafBytes (l + 1))]) else d.leavesGo l (xAddr e)

/-- Local memory that the tables of a partition map. -/
def Dev.leaves (d : Dev) (p : Nat) : List (Nat × Nat) := if d.xroot p = 0 then [] else d.leavesGo 3 (d.xroot p)

/-- A granule of a stack is in use: sealed, mapped, held by the pool, in the translation area, or the target of a remap entry (the last is DEDUCED). `maps` are the owner's leaves. -/
def Dev.granuleUsed (d : Dev) (s g : Nat) (maps : List (Nat × Nat)) : Bool :=
  let p := d.owner (pStk s 0)
  let a := stkBase s + g * 2 ^ 21
  let ovl (b n : Nat) : Bool := b < a + 2 ^ 21 && a < b + n
  tgetD (d.stk s).sealMap g 0 ≠ 0 || (maps.any fun m => ovl m.1 m.2) ||
  (p < 24 && ((tget? (d.px p).pool (pageKey s g)).isSome || d.isTablePage p (pageKey s g) || ovl (d.xaBase p) (d.xaBytes p))) ||
  (d.stk s).remap.any (fun e => e.2 = g)

/-- Leaves of the owner of a stack. -/
def Dev.ownerLeaves (d : Dev) (s : Nat) : List (Nat × Nat) :=
  let p := d.owner (pStk s 0)
  if p < 24 then d.leaves p else []

/-- The reserve granule that a granule of channel `c` takes: the lowest free one in channel order from channel c + 1 (R372). -/
def Dev.reserveFor (d : Dev) (s c : Nat) (maps : List (Nat × Nat)) : Option Nat :=
  let first := d.getF (pStk s 2) 0x44 10 0
  let rows := d.getF (pStk s 2) 0x44 19 12
  (List.range 31).findSome? fun i =>
    let ch := (c + 1 + i) % 32
    if !d.chanIn s ch then none
    else (lowest (min rows (2048 - first)) fun r =>
      let g := 32 * (first + r) + ch
      !d.granuleUsed s g maps && !((d.stk s).moving.any fun m => m.to_ = g)).map fun r => 32 * (first + r) + ch

/-! ### Channel retirement (R371–R373) -/

/-- Channel of a granule. -/
def granChan (g : Nat) : Nat := g % 32

/-- Retirements whose granules are all moved or lost report (R371, step 3). -/
def Dev.retsEnd (d : Dev) (s : Nat) : Dev :=
  let x := d.stk s
  let left (c : Nat) : Bool := (x.toMove.any fun g => granChan g = c) || (x.moving.any fun m => granChan m.from_ = c)
  let done := x.rets.filter fun r => !left r.chan
  let d := d.modStk s fun y => { y with rets := y.rets.filter fun r => left r.chan }
  done.foldl (fun (d : Dev) r => d.unitRetired (d.owner (pStk s 0)) 2 s r.chan (some 0x3002) r.migrated r.lost) d

/-- Start copies while fewer than four run: each granule takes its target, or is lost (R372, R373). -/
def Dev.startMoves (s : Nat) : Nat → Dev → Dev
  | 0, d => d
  | f + 1, d =>
    let x := d.stk s
    match x.toMove with
    | [] => d
    | g :: rest =>
      if 4 ≤ x.moving.length then d
      else
        let d := d.modStk s fun y => { y with toMove := rest }
        let target := if 4096 ≤ x.remap.length + x.moving.length then none else d.reserveFor s (granChan g) (d.ownerLeaves s)
        Dev.startMoves s f (match target with
          | some t => d.modStk s fun y => { y with moving := y.moving ++ [⟨g, t⟩] }
          | none =>
            (d.setBit (pStk s 2) 0x48 2 true).modStk s fun y =>
              { y with lost := addSet y.lost (((y.remap.find? fun e => e.2 = g).map Prod.fst).getD g), rets := y.rets.map fun r => if r.chan = granChan g then { r with lost := r.lost + 1 } else r })

/-- Go on with the migration of a stack. -/
def Dev.migrate (d : Dev) (s : Nat) : Dev := (Dev.startMoves s ((d.stk s).toMove.length + 1) d).retsEnd s

/-- A channel retires: it leaves placement order, guarantees of the owner's loaded programs are void, its in-use granules migrate. The last channel of a stack takes the stack out of service. -/
def Dev.retireChannel (d : Dev) (s c : Nat) : Dev :=
  if !d.chanIn s c then d
  else
    let p := d.owner (pStk s 0)
    let d := d.setBit (pStk s 0) 0x40 c false
    let d := if p < 24 then d.voidProgs p 1 fun _ => true else d
    let maps := d.ownerLeaves s
    let l := ((List.range 2048).map fun r => 32 * r + c).filter fun g => d.granuleUsed s g maps && !(d.stk s).lost.contains g
    let d := d.modStk s fun y => { y with toMove := y.toMove ++ l, rets := y.rets ++ [⟨c, 0, 0⟩], repairs := y.repairs.filter fun r => r.chan ≠ c }
    let d := d.migrate s
    if d.getF (pStk s 0) 0x40 31 0 = 0 then d.each (List.range 4) fun d k => d.setSt (pStk s k) stRetired else d

/-- Shift the stored bytes of one granule to another; marks and error patterns stay with the address. -/
def Dev.moveBytes (d : Dev) (s g t : Nat) : Dev :=
  let a := stkBase s + g * 2 ^ 21
  let b := stkBase s + t * 2 ^ 21
  let l := d.mem.filter fun e => a ≤ e.1 && e.1 < a + 2 ^ 21
  let m := tdelRange (tdelRange d.mem a (a + 2 ^ 21)) b (b + 2 ^ 21)
  { d with mem := l.foldl (fun m e => tput m (e.1 - a + b) e.2) m }

/-- GRANULE_COPY_DONE (R372): the copy reads under R359 and corrects, and marks the bursts `unread` that it finds uncorrectable; the remap table redirects the granule, and whatever was redirected to it. -/
def Dev.copyDone (d : Dev) (s g : Nat) (unread : List Nat) : Dev :=
  match (d.stk s).moving.find? fun m => m.from_ = g with
  | none => d
  | some m =>
    let a := stkBase s + g * 2 ^ 21
    let bad := (d.errs.filter fun e => a ≤ d.home e.1 && d.home e.1 < a + 2 ^ 21).map Prod.fst
    let d := bad.foldl Dev.noteErr d
    let d := (unread.foldl (fun (d : Dev) i => d.markHeld (a + 64 * (i % 32768))) d).moveBytes s g m.to_
    let d := d.modStk s fun y => { y with
      moving := y.moving.filter fun x => x.from_ ≠ g
      remap := tput (tmap y.remap fun _ t => if t = g then m.to_ else t) g m.to_
      rets := y.rets.map fun r => if r.chan = granChan g then { r with migrated := r.migrated + 1 } else r }
    d.migrate s

/-! ### Repairs (R362–R364) -/

/-- Fuse row entries of a channel taken. -/
def Dev.fuseRows (d : Dev) (s c : Nat) : Nat := min 48 (Config.stkFuseRowsUsed s c + (d.stk s).rowsFixed.countP fun r => r.1 = c)

/-- A repair of the row begins; without a spare row in its bank or a free entry of either map the channel retires. -/
def Dev.repairRow (d : Dev) (s c row : Nat) : Dev :=
  let x := d.stk s
  let mine := x.rowsFixed.filter fun r => r.1 = c
  let b := bankOf row
  let busy := x.repairs.filter fun r => r.chan = c && !r.column
  if x.repairs.any fun r => r.chan = c && !r.column && r.num = row then d
  else if 8 ≤ Config.stkRowsUsed s c b + (mine.countP fun r => bankOf r.2 = b) + (busy.countP fun r => bankOf r.num = b)
      || 128 ≤ Config.stkFuseRowsUsed s c + mine.length + busy.length then d.retireChannel s c
  else d.modStk s fun y => { y with repairs := y.repairs ++ [⟨false, c, row⟩] }

/-- A repair of the bank's column begins (R361, R363); the bank has one spare column (R362). -/
def Dev.repairColumn (d : Dev) (s c b : Nat) : Dev :=
  if Config.stkColUsed s c b || (d.stk s).colsFixed.contains (c, b) || ((d.stk s).repairs.any fun r => r.column && r.chan = c && r.num = b) then d.retireChannel s c
  else d.modStk s fun y => { y with repairs := y.repairs ++ [⟨true, c, b⟩] }

/-- ROW_REPAIRED (R363, R379): `how` is 0 for a fuse row, 1 for a soft row, 2 for a column. -/
def Dev.rowRepaired (d : Dev) (s c row bank how : Nat) : Dev :=
  d.record 0xFF 0x0100 (leBytes 1 s ++ leBytes 1 c ++ leBytes 2 0 ++ leBytes 4 row ++ leBytes 1 bank ++ leBytes 1 how)

/-- A repair reads what it copies (R363, step 2): the error patterns in the row, or in the bank of a column, are met. -/
def Dev.repairReads (d : Dev) (s c num : Nat) (column : Bool) (bad : List Nat) : Dev :=
  let mine (a : Nat) : Bool :=
    let row := rowOf (burstQ (d.home a - stkBase s))
    stkBase s ≤ a && a < stkBase (s + 1) && chanOf (d.home a - stkBase s) = c && (if column then bankOf row = num else row = num)
  let d := ((d.errs.map Prod.fst).filter mine).foldl Dev.noteErr d
  -- a burst that is still uncorrectable is copied with the poison encoding
  (bad.filter fun q => if column then bankOf (rowOf q) = num else rowOf q = num).foldl (fun (d : Dev) q => d.markHeld (burstDpa s c q)) d

/-- REPAIR_DONE (R363): the mapping switches, held accesses go on, ROW_REPAIRED follows once the record holds the repair: 0 fuse row, 1 soft row, 2 column. -/
def Dev.repairDone (d : Dev) (s c num : Nat) (column : Bool) (bad : List Nat) : Dev :=
  if !((d.stk s).repairs.any fun r => r.column = column && r.chan = c && r.num = num) then d
  else
    let soft := !column && 48 ≤ d.fuseRows s c
    let d := d.repairReads s c num column bad
    let d := d.modStk s fun y => { y with
      repairs := y.repairs.filter fun r => !(r.column = column && r.chan = c && r.num = num)
      rowsFixed := if column then y.rowsFixed else y.rowsFixed ++ [(c, num)]
      colsFixed := if column then y.colsFixed ++ [(c, num)] else y.colsFixed }
    let row := if column then 0 else num
    let bank := if column then num else bankOf num
    d.noteRec.rowRepaired s c row bank (if column then 2 else if soft then 1 else 0)

/-! ### Decided reads (R359–R361) -/

/-- An event joins the row history: 64 entries, the oldest goes (R360); answers whether the row had an entry. -/
def Dev.histAdd (d : Dev) (s c q : Nat) (perm : Bool) : Bool × Dev :=
  let l := (d.stk s).hist.filter fun h => h.chan = c
  let had := l.any fun h => h.row = rowOf q
  let full := 64 ≤ l.length
  let d := if full then d.setBit (pStk s 2) 0x48 0 true else d
  (had, d.modStk s fun y => { y with
    hist := (match (if full then l.head? else none) with | some h => y.hist.erase h | none => y.hist) ++ [⟨c, rowOf q, d.ao, colOf q, perm⟩] })

/-- Three entries in one bank with one column, from different rows, stand in the history (R361). -/
def Dev.columnFault (d : Dev) (s c q : Nat) : Bool :=
  let l := (d.stk s).hist.filter fun h => h.chan = c && bankOf h.row = bankOf (rowOf q) && h.col = colOf q
  3 ≤ (l.map RowHist.row).eraseDups.length

/-- An error event of a burst: transient or permanent; a permanent row is repaired at once, and so is a column fault, which the third entry makes. -/
def Dev.errEvent (d : Dev) (s c q : Nat) (perm : Bool) : Dev :=
  let was := d.columnFault s c q
  let d := d.addCount (pStk s 2) (if perm then 0x58 else 0x54) 1
  let (had, d) := d.histAdd s c q perm
  let d := if perm || had then d.repairRow s c (rowOf q) else d
  if d.columnFault s c q && !was then d.repairColumn s c (bankOf (rowOf q)) else d

/-- Re-reads in the running step of a partition: beyond the budget that the batch kept, cause REREAD (11, R229). -/
def Dev.countRereads (d : Dev) (p n : Nat) : Dev :=
  match (if p < 24 then (d.px p).step else none) with
  | none => d
  | some t =>
    let d := d.modPx p fun x => { x with step := some { t with rereads := t.rereads + n } }
    match tget? d.batches t.batch with
    | some b => if b.reread < t.rereads + n then d.voidOn p 4 (maskOf [t.batch]) else d
    | none => d

/-- A channel is read: it is in service, or the granule of the burst has still to migrate (R372). -/
def Dev.chanRead (d : Dev) (s c q : Nat) : Bool :=
  d.chanIn s c || (let g := granuleOf (burstOff c q); (d.stk s).toMove.contains g || (d.stk s).moving.any fun m => m.from_ = g)

/-- A read of a burst is decided (R359). `found`: 0 clean, 1 one symbol in error and the verification read clean, 2 one symbol and the verification read not clean, 3 uncorrectable; `good`: the re-read that is the first to be clean or correctable. An injected unit counts in INJECTED alone (R378). -/
def Dev.decideRead (d : Dev) (s c q found : Nat) (good : Option (Fin 3)) : Dev :=
  let a := burstDpa s c q
  let x := (d.dpaAt a).getD a
  let p := pStk s 2
  if found = 0 || d.dom (80 + s) ≠ dsOn || !d.chanRead s c q || ((d.dpaAt a).isSome && d.markedAt x 64) then d
  else if (d.dpaAt a).isSome && d.injected.contains x then
    let d := d.addCount p 0x60 1
    if found = 3 && good.isNone then (d.mark x).addCount p 0x5C 1 else d
  else if found < 3 then (d.addCount p 0x4C 1).errEvent s c q (found = 2)
  else
    let n := match good with | some i => i.val + 1 | none => 3
    let d := ((d.addCount p 0x50 1).addCount (pStk s 0) 0x5C n).countRereads (d.owner (pStk s 0)) n
    match good with
    | some _ => d.errEvent s c q false
    | none => ((d.markHeld a).addCount p 0x5C 1).errEvent s c q true

/-- ECC_REREAD (R359): a read of a burst has found it in error, and is decided. -/
def execEccReread (s : Fin 24) (c : Fin 32) (q : BitVec 26) (r : Reread) (st : State) : Out := st.upd fun d =>
  d.decideRead s c q.toNat r.found r.good

/-- PATROL_READ (R370): the next burst of a channel in ascending q. A burst that holds an injected pattern is found as R355 decodes it. -/
def execPatrolRead (s : Fin 24) (c : Fin 32) (found : Fin 4) (good : Option (Fin 3)) (st : State) : Out := st.upd fun d =>
  if !d.bit (pStk s 2) 0x40 0 || d.dom (80 + s) ≠ dsOn || !d.chanIn s c then d
  else
    let q := tgetD (d.stk s).patrol c 0
    let d := d.modStk s fun y => { y with patrol := tput y.patrol c ((q + 1) % 2 ^ 26) }
    match d.dpaAt (burstDpa s c q) with
    | some a => if (tget? d.errs a).isSome then d.noteErr a else d.decideRead s c q found good
    | none => d.decideRead s c q found good

/-- ROW_HISTORY_EXPIRY (R360): entries of a channel older than 24 h are dropped. -/
def execRowHistoryExpiry (s : Fin 24) (c : Fin 32) (st : State) : Out := st.upd fun d =>
  d.modStk s fun y => { y with hist := y.hist.filter fun h => !(h.chan = c.val && h.at_ + 4320000000000 ≤ d.ao) }

/-! ### Die-cache lines (12, R241) -/

/-- LINE_REPLACEMENT: a line of a die goes, written back if it is dirty. -/
def execLineReplacement (die : Fin 8) (ptn : Fin 256) (burst : BitVec 38) (st : State) : Out := st.upd fun d =>
  d.flushLines fun l => l.die = die.val && l.ptn = ptn.val && l.burst = burst.toNat

/-! ### Retirement and re-admission by command (R376, R377) -/

abbrev cUnitState : Nat := 0x3005
abbrev cReadmitFailed : Nat := 0x3004

/-- KIND, UNIT and SUB of the body. -/
def unitArg (i : Item) : Nat × Nat × Nat := (numAt i.body 0 1, numAt i.body 2 2, numAt i.body 4 1)

/-- The unit that a command names exists. -/
def unitExists (k u c : Nat) : Bool :=
  (k = 0 && u < 800 && c < 32) || (k = 1 && u < 800) || (k = 2 && u < 24 && c < 32) || (k = 3 && u < 16 && c < 4)

/-- The unit is in service; a core that retires is so until its tile ends (R375). -/
def Dev.unitIn (d : Dev) (k u c : Nat) : Bool :=
  if k = 0 then d.coreIn u c else if k = 1 then !(d.clu u).retired else if k = 2 then d.chanIn u c else bitOf (d.lanesIn u) c

/-- A lane of a port has gone or come back: the port trains again on what it has. -/
def Dev.portLanes (d : Dev) (n : Nat) : Dev :=
  if d.st (pLink n) = stActive || d.st (pLink n) = stReady || d.st (pLink n) = lsTraining || d.st (pLink n) = lsDown then
    if d.lanesIn n = 0 then d.portDown n else d.portTrain n
  else d

/-- UNIT_RETIRE. A command that names no unit is refused as one that names a retired unit (DESIGN CHOICE). -/
def Dev.unitRetire (d : Dev) (i : Item) : Dev :=
  let (k, u, c) := unitArg i
  if !unitExists k u c || !d.unitIn k u c || (k = 0 && (d.core u c).retiring) then d.endItem i cUnitState (k % 4)
  else
    let d := if k = 0 then d.retireCore u c else if k = 1 then d.retireCluster u none else if k = 2 then d.retireChannel u c
      else (d.retireLane u c).portLanes u
    d.endItem i 0 0

def execUnitRetire (p : Fin 25) (s : State) : Out := s.upd fun d => d.serveItem p 0x0140 Dev.unitRetire

/-- UNIT_READMIT: the unit is isolated and its test starts: a cluster has no queue bound; a cluster's or stack's domain is woken. -/
def Dev.unitReadmit (d : Dev) (i : Item) : Dev :=
  let (k, u, c) := unitArg i
  if !unitExists k u c || d.unitIn k u c then d.endItem i cUnitState (k % 4)
  else
    let d := if k = 1 then d.each (below 8 (d.qBound u)) fun d q => d.unbindQ u q else d
    let d := if k ≤ 1 then d.demand (u / 10) else if k = 2 then d.demand (80 + u) else d
    { d with readmit := some ⟨i.msg, i.item, k, u, c⟩ }

def execUnitReadmit (p : Fin 25) (s : State) : Out := s.upd fun d => d.serveItem p 0x0141 Dev.unitReadmit

/-- Zero what a channel stores in place. -/
def Dev.wipeChannel (d : Dev) (s c : Nat) : Dev :=
  let mine (a : Nat) : Bool := stkBase s ≤ a && a < stkBase (s + 1) && chanOf (a - stkBase s) = c
  let moved := (d.stk s).remap.map Prod.fst
  let gone (a : Nat) : Bool := mine a && !moved.contains (granuleOf (a - stkBase s))
  { d with mem := d.mem.filter fun e => !mine e.1, marks := d.marks.filter fun m => !gone m
           errs := d.errs.filter fun e => !mine e.1, injected := d.injected.filter fun m => !mine m }

/-- The failing rows of a channel's test are repaired; answers whether every repair succeeded. A channel under test is out of service. -/
def Dev.repairRows (d : Dev) (s c : Nat) : List Nat → Bool × Dev
  | [] => (true, d)
  | r :: t =>
    let mine := (d.stk s).rowsFixed.filter fun x => x.1 = c
    if 8 ≤ Config.stkRowsUsed s c (bankOf r) + (mine.countP fun x => bankOf x.2 = bankOf r) || 128 ≤ Config.stkFuseRowsUsed s c + mine.length then (false, d)
    else
      let soft := 48 ≤ d.fuseRows s c
      let d := (d.modStk s fun y => { y with rowsFixed := y.rowsFixed ++ [(c, r)] }).noteRec
      Dev.repairRows (d.rowRepaired s c r (bankOf r) (if soft then 1 else 0)) s c t

/-- The soft remap entries of a channel are cleared: the fuse entries stay. -/
def Dev.clearSoft (d : Dev) (s c : Nat) : Dev :=
  let keep := 48 - Config.stkFuseRowsUsed s c
  d.modStk s fun y => { y with
    rowsFixed := (y.rowsFixed.filter fun r => r.1 ≠ c) ++ (y.rowsFixed.filter fun r => r.1 = c).take keep
    hist := y.hist.filter fun h => h.chan ≠ c }

/-- A unit that has passed rejoins (R377). -/
def Dev.rejoin (d : Dev) (k u c : Nat) : Dev :=
  if k = 0 then ((d.setCore u c {}).setBit (pClu u) 0x7C4 c true).coreSt u c csIdle 0 0
  else if k = 1 then
    let d := d.modClu u fun x => { x with retired := false }
    let d := (((d.clearCores u).loadStores u).setFirmware (pClu u)).leaveInit (pClu u)
    -- the serving job of its owner holds queue 0 of every cluster (11, R219)
    let o := d.owner (pClu u)
    if o < 24 && (d.reservedBy u).isNone then d.bindServing u (d.px o).job else d
  else if k = 2 then
    let d := d.setBit (pStk u 0) 0x40 c true
    if d.st (pStk u 0) = stRetired then d.each (List.range 4) fun d j => d.leaveInit (pStk u j) else d
  else (d.setBit (pLink u) 0x4C c true).modPort u fun x => { x with fails := modAt x.fails c fun _ => 0, bad := modAt x.bad c fun _ => 0 }

/-- READMIT_TEST_DONE (R377): `rows` are a channel's failing rows, `fails` the failures of any other unit's test. -/
def Dev.readmitDone (d : Dev) (rows : List (Fin 2097152)) (fails : Nat) : Dev :=
  match d.readmit with
  | none => d
  | some r =>
    let dom := if r.kind ≤ 1 then r.unit / 10 else if r.kind = 2 then 80 + r.unit else 104 + r.unit / 4
    if d.dom dom ≠ dsOn then d
    else
      let d := { d with readmit := none }
      let d := if r.kind = 2 then (d.clearSoft r.unit r.sub).wipeChannel r.unit r.sub
        else if r.kind = 0 then d.setCore r.unit r.sub {}
        else if r.kind = 1 then d.testMarch r.unit fails else d
      let (ok, d) := if r.kind = 2 then d.repairRows r.unit r.sub (rows.map Fin.val) else (decide (fails = 0), d)
      let n := if r.kind = 2 then rows.length else fails
      if !ok then d.noteRec.post r.msg r.item cReadmitFailed (min n (2 ^ 32 - 1))
      else
        let d := (d.rejoin r.kind r.unit r.sub).noteRec
        let d := d.record 0xFF 0x0102 (leBytes 2 r.kind ++ leBytes 2 r.unit ++ leBytes 2 r.sub)
        let d := if r.kind = 3 then d.portLanes r.unit else d
        d.post r.msg r.item 0 0

def execReadmitTestDone (rows : List (Fin 2097152)) (fails : Nat) (s : State) : Out := s.upd fun d => d.readmitDone rows fails

/-! ### Error injection (R378, R380, R381) -/

/-- Injections that a flip register has made move to the next unit it names: the old unit's pattern goes. -/
def Dev.dropInjected (d : Dev) (f : Nat → Bool) : Dev := (d.injected.filter f).foldl Dev.dropErr d

/-- A write of FLIP_BITS of channel `c` of stack `s`: a bit number above 575 is reserved. -/
def Dev.writeFlipStk (d : Dev) (s c : Nat) (v : Word) : Dev :=
  let p := pStk s 2
  let off := 0x104 + 8 * c
  let bad := 575 < wfld v 9 0 || 575 < wfld v 20 11
  let d := if bad then d.invalid p else d
  let d := if 575 < wfld v 9 0 then d else d.setF p off 9 0 (wfld v 9 0)
  let d := if 575 < wfld v 20 11 then d else d.setF p off 20 11 (wfld v 20 11)
  let d := (d.setBit p off 10 (wbit v 10)).setBit p off 21 (wbit v 21)
  if wbit v 22 then
    (d.dropInjected fun a => stkBase s ≤ a && a < stkBase (s + 1) && chanOf (a - stkBase s) = c).setBit p off 22 true
  else d

/-- A write of CLU_BUF_FLIP of cluster `n`: a bit number above 287 is reserved. -/
def Dev.writeFlipClu (d : Dev) (n : Nat) (v : Word) : Dev :=
  let p := pClu n
  let bad := 287 < wfld v 8 0 || 287 < wfld v 18 10
  let d := if bad then d.invalid p else d
  let d := if 287 < wfld v 8 0 then d else d.setF p 0x498 8 0 (wfld v 8 0)
  let d := if 287 < wfld v 18 10 then d else d.setF p 0x498 18 10 (wfld v 18 10)
  let d := (d.setBit p 0x498 9 (wbit v 9)).setBit p 0x498 19 (wbit v 19)
  if wbit v 20 then
    (d.dropInjected fun a => bufBase n ≤ a && a < bufBase n + 0x100000).setBit p 0x498 20 true
  else d

/-- FLIP_ARM: a write of the flip register of channel t mod 32 of stack t / 32, or, from 768, of cluster t − 768. -/
def execFlipArm (r : Role) (t : Fin 1568) (v : BitVec 32) (s : State) : Out := s.upd fun d =>
  let t := t.val
  if t < 768 then d.guardPut r (pStk (t / 32) 2) (0x104 + 8 * (t % 32)) v fun d v => d.writeFlipStk (t / 32) (t % 32) v
  else d.guardPut r (pClu (t - 768)) 0x498 v fun d v => d.writeFlipClu (t - 768) v

end Sys2Proof.Machine
end

