-- ==== Sys2Proof/Machine/Sec0.lean ====
section
/-! DEFINITION. Measurements and hashes held in registers (16, R348, R353; 19, R406). -/

namespace Sys2Proof.Machine

/-- The bytes of registers `off` to `off + n − 1` of a page, in address order. -/
def Dev.regBytes (d : Dev) (p : Page) (off n : Nat) : List Byte :=
  (List.range (n / 4)).flatMap fun k => leBytes 4 (d.reg p (off + 4 * k)).toNat

/-- Set them. -/
def Dev.setRegBytes (d : Dev) (p : Page) (off n : Nat) (bs : List Byte) : Dev :=
  d.each (List.range (n / 4)) fun d k => d.setReg p (off + 4 * k) (BitVec.ofNat 32 (numAt bs (4 * k) 4))

/-- PTN_OWNER_KEY as a number, 0 when there is none. -/
def Dev.ownerKey (d : Dev) (p : Nat) : Nat := leNat (d.regBytes (pPtn p) 0x80 32)

/-- PTN_MEAS is extended by a record (R348). -/
def Dev.extendMeas (d : Dev) (p : Nat) (rec_ : List Byte) : Dev :=
  d.setRegBytes (pPtn p) 0xC0 64 (shake256 (d.regBytes (pPtn p) 0xC0 64 ++ rec_) 64)

/-! ### Keys (R336) -/

/-- The device keys as the security firmware derives them from the seed. -/
def Dev.deriveKeys (d : Dev) : DevKeys :=
  let s := Config.falconKeys (shake256 (d.sec.seed ++ [0x51, 0x5A, 0x2D, 0x53, 0x49, 0x47]) 48)
  let k := Config.kemKeys (shake256 (d.sec.seed ++ [0x51, 0x5A, 0x2D, 0x4B, 0x45, 0x4D]) 64)
  ⟨s.1, s.2, k.1, k.2⟩

/-- The device hash. -/
def Dev.deviceHash (d : Dev) : List Byte := shake256 d.deriveKeys.kemPub 32

/-- The random generator gives `n` bytes and moves on: what it gives is free. -/
def Dev.random (d : Dev) (n : Nat) : List Byte × Dev :=
  let (x, d) := d.takeFree
  let (g, d) := d.takeFree
  (leBytes n x, { d with sec := { d.sec with rng := g } })

/-- The device keys before a use: one whose codeword in the vault is uncorrectable is derived again (17, R368). -/
def Dev.freshKeys (d : Dev) : Dev :=
  if d.sram.contains .deviceKey then
    let d := d.sramMet .deviceKey
    { d with sec := { d.sec with keys := d.sec.keys.map fun _ => d.deriveKeys } }
  else d

/-- A start: the generator takes up a state, the vault a copy of the boot record, and, in PROVISIONED and DEPLOYED, the device keys. -/
def Dev.fillVault (d : Dev) (lc : Nat) : Dev :=
  let (_, d) := d.random 0
  { d with sec := { d.sec with keys := if lc = 1 || lc = 2 then some d.deriveKeys else none, bootRec := d.curRec } }

/-- The seed is drawn and fused (R351). -/
def Dev.fuseSeed (d : Dev) : Dev :=
  let (s, d) := d.random 32
  { d with sec := { d.sec with seed := s } }

end Sys2Proof.Machine
end

