-- ==== Sys2Proof/Machine/Sched.lean ====
section
/-! DEFINITION. Jobs and step programs as the intake sees them, and the watchdog (11, R219–R225, R232, R235; 13, R265; 16, R341). -/

namespace Sys2Proof.Machine

/-! ### Jobs (R221) -/

abbrev cReserveConflict : Nat := 0x500E

/-- The job belongs to the partition. -/
def Dev.jobOf (d : Dev) (p j : Nat) : Bool := j < 4096 && (d.job j).cls ≠ 0 && (d.job j).ptn = p

/-- A refusal with JOB_STATE that names a job. -/
def Dev.jobRefused (d : Dev) (i : Item) (j : Nat) : Dev := d.endItem i cJobState (j % 4096)

/-- JOB_CREATE. -/
def Dev.jobCreate (d : Dev) (i : Item) : Dev :=
  let cls := numAt i.body 0 1
  let w := numAt i.body 1 1
  let g := numAt i.body 2 1
  if d.lehr ≠ 0 then d.endItem i cLehrStop d.thm.lehrCause
  else if d.ptnSealed i.ptn then d.endItem i cJobState 0
  else if (cls ≠ 2 && cls ≠ 3) || w = 0 || 15 < w || 7 < g then d.endItem i cJobState (1 * 4096)
  else match lowest 4096 fun j => (d.job j).cls = 0 with
    | none => d.endItem i cJobState (2 * 4096)
    -- a reserved job is eligible always (R219, R237)
    | some j => (d.setJob j { ptn := i.ptn, cls := cls, weight := w, group := g, state := if cls = 3 then 1 else 0 }).endItem i 0 j

/-- JOB_BIND: a general job's queue; a binding while a batch kept NP = 0 voids it (R229 cause 9). -/
def Dev.jobBind (d : Dev) (i : Item) : Dev :=
  let j := numAt i.body 0 2
  let n := numAt i.body 2 2
  let q := numAt i.body 4 1
  if !d.jobOf i.ptn j || (d.job j).cls ≠ 2 || 799 < n || d.owner (pClu n) ≠ i.ptn || q = 0 || 7 < q || d.qBound n q || (d.reservedBy n).isSome
  then d.jobRefused i j
  else
    let d := (d.bindQ n q j (d.job j).weight).setReg (pClu n) (qOff n q + 4) (BitVec.ofNat 32 (numAt i.body 8 4))
    (d.voidSetting i.ptn).endItem i 0 0

/-- JOB_BIND_STACK. -/
def Dev.jobBindStack (d : Dev) (i : Item) : Dev :=
  let j := numAt i.body 0 2
  let s := numAt i.body 2 1
  let q := numAt i.body 3 1
  if !d.jobOf i.ptn j || (d.job j).cls ≠ 2 || !(d.ptnStacks i.ptn).contains s || q = 0 || 7 < q || d.qBound (0x2000 + s) q
  then d.jobRefused i j
  else ((d.bindQ (0x2000 + s) q j (d.job j).weight).voidSetting i.ptn).endItem i 0 0

/-- JOB_BIND_DMA (13, R265). INFO of JOB_STATE is the job (R238). -/
def Dev.jobBindDma (d : Dev) (i : Item) : Dev :=
  let j := numAt i.body 0 2
  let e := numAt i.body 2 2
  let q := numAt i.body 4 1
  let u := 0x4000 + e
  if 255 < e || q ≠ 1 || d.owner (pDmac e) ≠ i.ptn then d.jobRefused i j
  else if j = 0xFFFF then
    if d.mayUnbind u 1 && (d.job (d.qJob u 1)).ptn = i.ptn then (d.unbindQ u 1).endItem i 0 0 else d.jobRefused i j
  else if !d.jobOf i.ptn j || (d.job j).cls ≠ 2 || d.qBound u 1 then d.jobRefused i j
  else ((d.bindQ u 1 j (d.job j).weight).voidSetting i.ptn).endItem i 0 0

/-- JOB_UNBIND. The serving job keeps its queues (DESIGN CHOICE, after R219). -/
def Dev.jobUnbind (d : Dev) (i : Item) : Dev :=
  let j := numAt i.body 0 2
  let t := numAt i.body 2 2
  let q := numAt i.body 4 1
  let u := if t < 0x8000 then t else 0x2000 + (t - 0x8000)
  let ok := if t < 0x8000 then t < 800 && d.owner (pClu t) = i.ptn else (d.ptnStacks i.ptn).contains (t - 0x8000)
  if !d.jobOf i.ptn j || (d.job j).cls = 1 || !ok || 7 < q || !d.qBound u q || d.qJob u q ≠ j || !d.mayUnbind u q then d.jobRefused i j
  else (d.unbindQ u q).endItem i 0 0

/-- The serving job's queue is IDLE, or it holds none here. -/
def Dev.servingIdle (d : Dev) (n j : Nat) : Bool :=
  !d.qBound n 0 || d.qJob n 0 ≠ j ||
    (d.qMark n 0 = 0 && (d.qCmds n 0).isEmpty && (d.qHeld n 0).isEmpty && d.qQuiet n 0 && (d.qFence n 0).isNone)

/-- A cluster that JOB_RESERVE cannot give to job `j` (R232): it lies outside the partition, holds a queue of a general or of another reserved job, is reserved by another, its serving queue is not IDLE, or a loaded program names it. -/
def Dev.reserveBad (d : Dev) (p j n : Nat) : Bool :=
  799 < n || d.owner (pClu n) ≠ p
  || (((List.range 8).filter (d.qBound n)).any fun q => (d.job (d.qJob n q)).cls ≠ 1 && d.qJob n q ≠ j)
  || ((d.reservedBy n).any fun o => o ≠ j)
  || !d.servingIdle n (d.px p).job
  || (d.px p).progs.any fun g => g.2.uses n

/-- JOB_RESERVE (R232). A queue that is bound to the job already keeps what it holds. -/
def Dev.jobReserve (d : Dev) (i : Item) : Dev :=
  let j := numAt i.body 0 2
  let l := maskBits 800 (numAt i.body 4 100)
  if !d.jobOf i.ptn j || (d.job j).cls ≠ 3 then d.jobRefused i j
  else match l.find? (d.reserveBad i.ptn j) with
    | some n => d.endItem i cReserveConflict n
    | none =>
      let d := l.foldl (fun d n =>
        let d := if d.qBound n 0 && d.qJob n 0 ≠ j then d.unbindQ n 0 else d
        d.each (List.range 8) fun d q =>
          (if d.qBound n q then d else d.bindQ n q j (d.job j).weight).setReg (pClu n) (qOff n q + 4) 0xFFFFFFFF#32) d
      (d.modJob j fun x => { x with clusters := l.foldl addSet x.clusters }).endItem i 0 0

/-- Abort a job everywhere and unbind its queues; QUEUE[0] of the clusters that it reserved goes back to the serving job, while there is one (R221, R232). -/
def Dev.dropJob (d : Dev) (j : Nat) : Dev :=
  let x := d.job j
  let d := (d.jobUnits j).foldl (fun d u =>
    let qs := d.jobQueues u j
    qs.foldl (fun d q => d.unbindQ u q) (d.abortUnit u j none 0x5009 2)) d
  let sv := (d.px x.ptn).job
  let d := { d with jobs := tdel d.jobs j, aborts := d.aborts.filter fun a => a.job ≠ j }
  if x.cls = 3 && (d.job sv).cls = 1 && (d.job sv).ptn = x.ptn then
    d.each (x.clusters.filter fun n => d.owner (pClu n) = x.ptn) fun d n => d.bindServing n sv
  else d

/-- JOB_DESTROY. -/
def Dev.jobDestroy (d : Dev) (i : Item) : Dev :=
  let j := numAt i.body 0 2
  if !d.jobOf i.ptn j || (d.job j).cls = 1 then d.jobRefused i j else (d.dropJob j).endItem i 0 0

/-- The job items of partition `p`. -/
def execJobCreate (p : Fin 25) (s : State) : Out := s.upd fun d => d.serveItem p 0x0030 Dev.jobCreate
def execJobBind (p : Fin 25) (s : State) : Out := s.upd fun d => d.serveItem p 0x0031 Dev.jobBind
def execJobBindStack (p : Fin 25) (s : State) : Out := s.upd fun d => d.serveItem p 0x0032 Dev.jobBindStack
def execJobBindDma (p : Fin 25) (s : State) : Out := s.upd fun d => d.serveItem p 0x0033 Dev.jobBindDma
def execJobUnbind (p : Fin 25) (s : State) : Out := s.upd fun d => d.serveItem p 0x0034 Dev.jobUnbind
def execJobReserve (p : Fin 25) (s : State) : Out := s.upd fun d => d.serveItem p 0x0035 Dev.jobReserve
def execJobDestroy (p : Fin 25) (s : State) : Out := s.upd fun d => d.serveItem p 0x0036 Dev.jobDestroy

/-! ### PROG_LOAD (R225) -/

abbrev cProgInvalid : Nat := 0xA014
abbrev cProgWeights : Nat := 0xA015
abbrev cProgBusy : Nat := 0xA016
abbrev cSignatureBad : Nat := 0x7002
abbrev cOwnerKey : Nat := 0x700B

def Image.nmat (g : Image) : Nat := numAt g.hdr 0xE4 2
def Image.matOff (g : Image) : Nat := numAt g.hdr 0xE6 2
def Image.nnp (g : Image) : Nat := numAt g.hdr 0xE8 2
def Image.npOff (g : Image) : Nat := numAt g.hdr 0xEA 2
def Image.clusters (g : Image) : Nat := numAt g.hdr 0x80 100
def Image.ports (g : Image) : Nat := numAt g.hdr 0x7C 2
def Image.lanesMin (g : Image) : Nat := numAt g.hdr 0x7E 1

/-- The end of the image's areas. -/
def Image.ends (g : Image) : Nat :=
  max (g.bodyOff + g.bodyLen) (max (if g.nmat = 0 then 0 else g.matOff + 32 * g.nmat) (if g.nnp = 0 then 0 else g.npOff + 8 * g.nnp))

/-- The first failing header field: its offset. -/
def Image.headBad (g : Image) : Option Nat :=
  let h : List (Nat × Bool) := [(0x000, numAt g.hdr 0 4 ≠ 0x51475350), (0x004, numAt g.hdr 4 4 ≠ 1), (0x008, g.qgroup = 0 || 16 < g.qgroup),
    (0x07E, g.lanesMin = 0 || 4 < g.lanesMin), (0x0F4, g.listBase % 65536 ≠ 0 || 2 ^ 48 ≤ g.listBase),
    (0x0FC, g.listStride % 65536 ≠ 0 || g.listStride = 0)]
  firstBad (h ++ (List.range 13).map (fun j => (0x010 + 4 * (j + 1), decide (g.wcRows (j + 1) < g.wcRows j)))
    ++ (List.range 12).map (fun k => (0x048 + 4 * (k + 1), decide (g.wcAtt (k + 1) < g.wcAtt k))))

/-- What a command of `n` bits may become at a step: the image's word, and words in which the patched bits differ: all 0, all 1, one of them 1. -/
def trials (pt : Nat → Bool) (n w : Nat) : List Nat :=
  let l := (List.range n).filter pt
  if l.isEmpty then [w]
  else
    let z := l.foldl (fun x b => setFld x b b 0) w
    w :: z :: l.foldl (fun x b => setFld x b b 1) w :: l.map fun b => setFld z b b 1

/-- The first field whose static bits fail its check: it fails in every trial (R225). -/
def openBad (pt : Nat → Bool) (n : Nat) (fields : Nat → List (Nat × Bool)) (w : Nat) : Option Nat :=
  let ts := trials pt n w
  firstBad ((fields w).map fun f => (f.1, f.2 && ts.all fun v => (fields v).any fun g => g.1 = f.1 && g.2))

/-- The fields of a gaffer command where it stands: `left` STREAMs of a TILE are due, `t` follow it, of which `open_ k` may be given another opcode. -/
def cluFields (t : List Nat) (open_ : Nat → Bool) (left w : Nat) : List (Nat × Bool) :=
  let op := fld w 7 0
  if op = 0x02 && 0 < left then streamFields w
  else if op = 0x01 then
    let here := t.take (tlStreams w)
    let short := here.length < tlStreams w || (List.range here.length).any fun k => match here[k]? with
      | some x => fld x 7 0 ≠ 0x02 && !open_ k
      | none => false
    tileFields w short
  else if op = 0x07 then mergeAll w
  else plainFields w

/-- The static check of gaffer commands (R66): index and bit of the first failing field. -/
def cluStatic (pt : Nat → Nat → Bool) : List Nat → Nat → Nat → Option (Nat × Nat)
  | [], _, _ => none
  | w :: t, i, left =>
    let open_ (k : Nat) : Bool := (List.range 8).any (pt (i + 1 + k))
    match openBad (pt i) 256 (cluFields t open_ left) w with
    | some b => some (i, b)
    | none =>
      -- the number of STREAMs that follow is static where no patch names it or the opcode
      let loose := (List.range 8).any (pt i) || (List.range 4).any fun k => pt i (212 + k)
      let left := if loose then t.length else if fld w 7 0 = 0x01 then tlStreams w else left - 1
      cluStatic pt t (i + 1) left

/-- The static check of marver commands (R131). -/
def mvrStatic (pt : Nat → Nat → Bool) : List Nat → Nat → Option (Nat × Nat)
  | [], _ => none
  | w :: t, i =>
    match openBad (pt i) 512 mvrFields w with
    | some b => some (i, b)
    | none => mvrStatic pt t (i + 1)

/-- A patch record names bit `b` of command `i`. -/
def Sgm.patched (s : Sgm) (i b : Nat) : Bool := s.patches.any fun x => ptCmd x = i && ptBit x ≤ b && b < ptBit x + ptWidth x

/-- Image offset of command `i` of a segment. -/
def Sgm.cmdOff (s : Sgm) (i : Nat) : Nat := s.off + 16 + cmdBytes s.target * i

/-- The first command of a segment that fails its static check: offset of the failing field. -/
def Sgm.staticBad (s : Sgm) : Option Nat :=
  (if s.target < 800 then cluStatic s.patched s.cmds 0 0
   else if s.target < 0x4000 then mvrStatic s.patched s.cmds 0 else none).map fun x => s.cmdOff x.1 + x.2 / 8

/-- A command that runs to completion. -/
def nonpreCmd (target w : Nat) : Bool :=
  let op := fld w 7 0
  if target < 800 then (op = 0x01 && tlNonpre w) || op = 0x07 else target < 0x4000 && (op = 0x01 || op = 0x02)

/-- The first such command of a segment without a record. -/
def Sgm.npMissing (s : Sgm) (g : Image) (recs : List Nat) : Option Nat :=
  (((List.range s.cmds.length).zip s.cmds).find? fun e => nonpreCmd s.target e.2 && !recs.contains (s.cmdOff e.1 - g.bodyOff)).map
    fun e => s.cmdOff e.1

/-- The first failing field of a segment's patch records: offset. -/
def Sgm.patchBad (s : Sgm) : Option Nat :=
  let base := s.off + 16 + cmdBytes s.target * s.cmds.length
  ((List.range s.patches.length).zip s.patches).findSome? fun e =>
    let x := e.2
    let src := ptSource x
    let o := base + 8 * e.1
    if s.cmds.length ≤ ptCmd x then some o
    else if 8 * cmdBytes s.target < ptBit x + ptWidth x then some (o + 2)
    else if !(src ≤ 8 || (16 ≤ src && src ≤ 28)) || ((src = 7 || src = 8) && !(0x2000 ≤ s.target && s.target < 0x4000))
        || (16 ≤ src && s.rep = 0) then some (o + 4)
    else none

/-- The checks of R225 on an image that has been read: outcome and INFO of the first that fails. -/
def Dev.progCheck (d : Dev) (p : Nat) (g : Image) (img : List Byte) : Option (Nat × Nat) :=
  let (segs, stop) := d.parseBody p (img.length + 1) g.bodyOff (bytesAt img g.bodyOff g.bodyLen)
  let np (k : Nat) : Nat := numAt img (g.npOff + 8 * k) 8
  let recs := (List.range g.nnp).map fun k => np k % 2 ^ 32
  let mats (k : Nat) : Nat := numAt img (g.matOff + 32 * k) 32
  let reserved (n : Nat) : Bool := d.owner (pClu n) ≠ p || (d.reservedBy n).isSome
  match g.headBad with
  | some o => some (cProgInvalid, o)
  | none => match segs.findSome? Sgm.staticBad with
  | some o => some (cProgInvalid, o)
  | none => match segs.findSome? fun s => s.npMissing g recs with
  | some o => some (cProgInvalid, o)
  | none => match lowest g.nnp fun k => 10000 < np k / 2 ^ 32 with
  | some k => some (0x5002, k)
  | none => match lowest g.nmat fun k => !bitOf (mats k) 24 && (d.stackRuns p (fld (mats k) 111 64) (fld (mats k) 175 128)).isNone with
  | some k => some (cProgWeights, k)
  | none => match lowest 800 fun n => bitOf g.clusters n && reserved n with
  | some n => some (cReserveConflict, n)
  | none => match segs.find? fun s => s.target < 800 && reserved s.target with
  | some s => some (cReserveConflict, s.target)
  | none => match segs.findSome? Sgm.patchBad with
  | some o => some (cProgInvalid, o)
  | none =>
    let ss := d.ptnStacks p
    if ((List.range ss.length).zip ss).any fun ks => d.oneStack p (g.slot ks.1) 65536 ≠ some ks.2 then some (cProgInvalid, 0xF4)
    else stop.map fun o => (cProgInvalid, o)

/-- The signature of a sealed partition's program (16, R341). -/
def Dev.progSigned (d : Dev) (p : Nat) (img sig : List Byte) : Option (Nat × Nat) :=
  if d.ownerKey p = 0 then some (cOwnerKey, 0)
  else if Config.falconVerify (d.ownerKey p) img sig then none else some (cSignatureBad, 0)

/-- PROG_LOAD. -/
def Dev.progLoad (d : Dev) (i : Item) : Dev :=
  let p := i.ptn
  let h := numAt i.body 0 1
  let pva := numAt i.body 8 8
  let len := numAt i.body 0x10 4
  if d.lehr ≠ 0 then d.endItem i cLehrStop d.thm.lehrCause
  else if (tget? (d.px p).progs h).isSome then d.endItem i cProgBusy h
  else if pva % 64 ≠ 0 then d.endItem i cProgInvalid 0
  else if len < 256 then d.endItem i cProgInvalid len
  else match d.intakeRead p pva (len + if d.ptnSealed p then 1280 else 0) with
  | (d, .fault x w) => d.itemFault i x w
  | (d, .wait) => d.retryItem i
  | (d, .ok (_, true)) => d.hartPoison i
  | (d, .ok (bs, false)) =>
    let img := bytesAt bs 0 len
    let g : Image := ⟨pva, bytesAt img 0 256⟩
    if len < g.ends then d.endItem i cProgInvalid len
    else match d.progCheck p g img with
    | some (c, info) => d.endItem i c info
    | none =>
      match (if d.ptnSealed p then d.progSigned p img (bytesAt bs len 1280) else none) with
      | some (c, info) => d.endItem i c info
      | none =>
        let d := if d.ptnSealed p then d.extendMeas p (3#8 :: BitVec.ofNat 8 h :: shake256 img 32) else d
        let x : Prog := { pva := pva, len := len, clusters := g.clusters, ports := g.ports, lanesMin := g.lanesMin, voids := 0 }
        (d.modPx p fun y => { y with progs := tput y.progs h x }).endItem i 0 0

/-- PROG_UNLOAD. -/
def Dev.progUnload (d : Dev) (i : Item) : Dev :=
  let p := i.ptn
  let h := numAt i.body 0 1
  if (tget? (d.px p).progs h).isNone then d.endItem i cProgInvalid 0
  else if (d.ptnBatches p).any fun b => b.2.prog = h then d.endItem i cProgBusy h
  else ((d.modPx p fun x => { x with progs := tdel x.progs h }).voidUnload p).endItem i 0 0

/-- PROG_LOAD and PROG_UNLOAD, the next item of partition `p`. -/
def execProgLoad (p : Fin 25) (s : State) : Out := s.upd fun d => d.serveItem p 0x0038 Dev.progLoad
def execProgUnload (p : Fin 25) (s : State) : Out := s.upd fun d => d.serveItem p 0x0039 Dev.progUnload

/-! ### The watchdog (R235) -/

/-- The non-preemptible commands under way in a unit that a watchdog times (R235): of a cluster, those of core `k` (its tile until it completes, one parked on a translation fault in slot `k` or `k` + 32) or for `k` = 32 its MERGE; of a stack, every MV and ATTN. Queue, job and start of each. -/
def Dev.watched (d : Dev) (u : UnitKey) (k : Nat) : List (Nat × Nat × Nat) :=
  let tile (t : Option Tile) : List (Nat × Nat × Nat) := match t with
    | some t => if t.nonpre && !t.stopped then [(t.queue, t.job, t.at_)] else []
    | none => []
  if u < 0x2000 then
    if k < 32 then tile (d.core u k).tile ++ [k, k + 32].flatMap fun i => tile ((tget? (d.clu u).parks i).bind fun s => s.saved.tile)
    else match (d.clu u).merge with
      | some m => [(m.queue, m.job, m.at_)]
      | none => []
  else if u < 0x4000 then (d.stk (u - 0x2000)).runs.filterMap fun r => if r.op = 1 || r.op = 2 then some (r.queue, r.job, r.at_) else none
  else []

/-- NONPREEMPT_WATCHDOG: the job of a command that has run 10,000 ao-cycles faults, and its abort stops the command. -/
def execNonpreemptWatchdog (u : Fin 0x4000) (k : Fin 33) (s : State) : Out := s.upd fun d =>
  match (d.watched u k).find? fun c => c.2.2 + 10000 ≤ d.ao with
  | none => d
  | some (q, j, t) => d.jobFault u q j 0x5002 ((d.ao - t - 10000) % 65536)

end Sys2Proof.Machine
end

