-- ==== Sys2Proof/Machine/Thermal.lean ====
section
/-! DEFINITION. Temperatures, the lehr stop, the analogue trip and the power governor (18, R384–R396; 20, R424). -/

namespace Sys2Proof.Machine

/-! ### Steps of the core clock (R388) -/

/-- Thermal step of die `e`, and its k. -/
def Dev.thermal (d : Dev) (e : Nat) : Nat := d.getF pThm (0x80 + 4 * e) 9 5
def Dev.kOf (d : Dev) (e : Nat) : Nat := d.getF pThm (0x80 + 4 * e) 4 0

/-- k of every die is the smaller of its thermal step and the governor step; a step below 16 voids guarantees. -/
def Dev.stepsChange (d : Dev) : Dev :=
  (d.each (List.range 8) fun d e => d.setF pThm (0x80 + 4 * e) 4 0 (min (d.thermal e) d.govStep)).clockCause

/-- CLOCK_STEP_APPLY (R388): the core clock of die `e` runs at k. -/
def execClockStepApply (e : Fin 8) (s : State) : Out := s.upd fun d =>
  ({ d with thm := { d.thm with clock := tset d.thm.clock e (d.kOf e) 16 } } : Dev).clockCause

/-! ### The lehr stop (R389, R390) -/

/-- A lehr stop begins: cause 0 rise or level, 1 governor, 2 forced. During a stop nothing happens; in NAP and DEEP it is complete at once (20, R437). -/
def Dev.lehrBegin (d : Dev) (cause : Nat) : Dev :=
  if d.lehr ≠ 0 then d
  else
    let d := { d with thm := { d.thm with lehrCause := cause, lehrAt := d.ao, lehrStage := 1, evicted := 0 } }
    let d := d.record 0xFF 0x0142 (leBytes 4 cause)
    let d := d.each (below 24 d.ptnExists) fun d p => d.record p 0x0142 (leBytes 4 cause)
    if d.devPower = 2 || d.devPower = 3 then
      (({ d with thm := { d.thm with lehrStage := 0 } } : Dev).setF pThm 0x44 1 0 2).record 0xFF 0x0143 (leBytes 4 0)
    else d.setF pThm 0x44 1 0 1

/-- A job is aborted in every unit that holds it for a cause outside them: its queues hold the code, and page `pg` is named in the report (R389; 16, R350). -/
def Dev.jobAbortAll (d : Dev) (j code info : Nat) (pg : Page) : Dev :=
  let x := d.job j
  if x.cls ≠ 1 && x.state = 2 then d
  else
    let d := (d.jobUnits j).foldl (fun (d : Dev) u =>
      let qs := d.jobQueues u j
      d.abortUnit u j none code 4 |>.each qs fun d q => d.setQFault u q code) d
    let d := d.setJob j (x.faulting code none)
    if x.cls = 1 then d else d.record x.ptn 0x0002 (leBytes 4 j ++ leBytes 4 code ++ leBytes 4 info ++ leBytes 4 pg.id)

/-- The abort of a lehr stop (R389). -/
def Dev.lehrAbort (d : Dev) (j : Nat) : Dev := d.jobAbortAll j 0x8002 d.thm.lehrCause pThm

/-- The step in flight of a partition is given up: nothing commits. -/
def Dev.dropStep (d : Dev) (p : Nat) : Dev :=
  if (d.px p).step.isNone then d
  else
    let d := d.modPx p fun x => { x with step := none }
    (((d.voidOff p 4).voidOff p 6).voidOff p 7).closeWindow p

/-- LEHR_WAIT_EXPIRY (R389): a step that has not committed in time is aborted, and its members commit nothing. -/
def execLehrWaitExpiry (p : Fin 24) (s : State) : Out := s.upd fun d =>
  if d.lehr ≠ 1 || d.thm.lehrStage ≠ 1 || (d.px p).step.isNone || d.ao < d.thm.lehrAt + d.getF pThm 0x50 23 0 then d
  else
    (d.lehrAbort (d.px p).job).dropStep p

/-- A stack may go to sleep: nothing runs in it, and its partition is not SCRUBBING and loads no package (R390). -/
def Dev.lehrSleeps (d : Dev) (s : Nat) : Bool :=
  let o := d.owner (pStk s 0)
  let x := d.stk s
  d.dom (80 + s) = dsOn && x.runs.isEmpty && x.copiers.isEmpty && x.moving.isEmpty && x.repairs.isEmpty &&
    !(o < 24 && d.st (pPtn o) = 0xC) && !(d.sec.run.any fun r => r.ptn = o)

/-- Stacks that may sleep enter self-refresh. -/
def Dev.lehrStacks (d : Dev) : Dev := d.each (below 24 d.lehrSleeps) fun d s => d.stackSleeps s

/-- LEHR_EVICT (R389, steps 3 and 4). -/
def execLehrEvict (s : State) : Out := s.upd fun d =>
  if d.lehr ≠ 1 || d.thm.lehrStage ≠ 1 || d.ptnx.any (fun x => x.2.step.isSome) then d
  else
    let d := d.each (List.range 24) fun d p =>
      (d.liveReqs p).foldl (fun (d : Dev) i =>
        let d := d.endNow p i rsEvicted rcThermal 0
        { d with thm := { d.thm with evicted := d.thm.evicted + 1 } }) d
    let d := (d.batches.map Prod.fst).foldl Dev.closeBatch d
    let d := ((d.jobs.filter fun x => 2 ≤ x.2.cls).map Prod.fst).foldl Dev.lehrAbort d
    let d := { d with thm := { d.thm with lehrStage := 2 } }
    (d.each (List.range 80) fun d n => d.powerOff n).lehrStacks

/-- LEHR_DONE (R389): every stack is in self-refresh and every compute domain is off. -/
def execLehrDone (s : State) : Out := s.upd fun d =>
  if d.lehr ≠ 1 || d.thm.lehrStage ≠ 2 then d
  else
    let d := d.lehrStacks
    if (List.range 104).any fun n => d.dom n = dsOn || d.dom n = dsWaking then d
    else (({ d with thm := { d.thm with lehrStage := 0 } } : Dev).setF pThm 0x44 1 0 2).record 0xFF 0x0143 (leBytes 4 d.thm.evicted)

/-- Every temperature channel has stayed below WARN, or had no slope, for four rounds (R391). -/
def Dev.allCalm (d : Dev) : Bool := (List.range 256).all fun n => 4 ≤ tgetD d.thm.calm n 0

/-- LEHR_CLEAR (R391). -/
def Dev.lehrClear (d : Dev) : Dev :=
  if d.lehr ≠ 2 || !d.allCalm then d.invalid pThm
  else
    let d := d.setF pThm 0x44 1 0 0
    ((d.each (List.range 8) fun d e => d.setF pThm (0x80 + 4 * e) 9 5 16).stepsChange).pump

/-- A write of THM_CTRL (R396). -/
def Dev.writeThmCtrl (d : Dev) (v : Word) : Dev :=
  let d := if wbit v 0 then d.lehrBegin 2 else d
  if wbit v 1 then d.lehrClear else d

/-- LEHR_FORCE, LEHR_CLEAR: a write of the one bit. -/
def execLehrForce (r : Role) (s : State) : Out := s.upd fun d => d.guardWrite r pThm fun d => d.writeThmCtrl 1
def execLehrClear (r : Role) (s : State) : Out := s.upd fun d => d.guardWrite r pThm fun d => d.writeThmCtrl 2

/-! ### The round (R384–R388) -/

/-- Dies on which a temperature channel acts (R388). -/
def Dev.chDies (d : Dev) (n : Nat) : List Nat :=
  if n < 128 then [n / 16]
  else if n < 224 then
    let o := d.owner (pStk ((n - 128) / 4) 0)
    if o = 0xFF then [] else below 8 fun e => (List.range 100).any fun i => d.owner (pClu (100 * e + i)) = o
  else List.range 8

/-- The level of a slope (R387). -/
def Dev.levelOf (d : Dev) (s : Int) : Nat :=
  if (d.getF pThm 0x48 23 16 : Int) ≤ s then 3 else if (d.getF pThm 0x48 15 8 : Int) ≤ s then 2 else if (d.getF pThm 0x48 7 0 : Int) ≤ s then 1 else 0

/-- What the round finds in a temperature channel: reading and slope, if any. -/
structure Reading where
  ch : Nat
  val : Option Int
  slope : Option Int
deriving DecidableEq, Repr

/-- A number in `w` bits of two's complement, saturating. -/
def satBits (w : Nat) (v : Int) : Nat :=
  let m : Int := 2 ^ (w - 1)
  ((max (-m) (min (m - 1) v)) % (2 ^ w : Int)).toNat

/-- Take the reading of a channel into its history (R385, R386), and publish it: a voltage or current channel has no slope. -/
def Dev.takeReading (d : Dev) (n : Nat) (v : Option (BitVec 16)) : Dev × Reading :=
  let off := 0x400 + 4 * n
  match v with
  | none =>
    let d := { d with thm := { d.thm with hist := tdel d.thm.hist n } }
    (d.setReg pThm off 0, ⟨n, none, none⟩)
  | some v =>
    if 256 ≤ n then (d.setReg pThm off (BitVec.ofNat 32 (v.toNat + 2 ^ 28)), ⟨n, none, none⟩)
    else
      let h := (v.toInt :: tgetD d.thm.hist n []).take 4
      let s : Option Int := match h[3]? with | some t => some ((v.toInt - t).tdiv 3) | none => none
      let lev := match s with | some s => d.levelOf s | none => 0
      let d := { d with thm := { d.thm with hist := tput d.thm.hist n h } }
      (d.setReg pThm off (BitVec.ofNat 32 (v.toNat + satBits 12 (s.getD 0) * 2 ^ 16 + 2 ^ 28 + lev * 2 ^ 29)), ⟨n, some v.toInt, s⟩)

/-- Slope as event and fault fields carry it. -/
def slopeNat (s : Option Int) : Nat := satBits 16 (s.getD 0)

/-- The action of a channel (R387): `was` is its LEVEL in the previous round, `fell` the dies whose step has fallen in this round. -/
def Dev.actOn (d : Dev) (x : Reading) (was : Nat) (fell : List Nat) : Dev × List Nat :=
  let lev := match x.slope with | some s => d.levelOf s | none => 0
  let ceil := x.ch < 224 && (match x.val with | some v => (d.getF pThm 0x4C 11 0 : Int) ≤ v | none => false)
  let calm := if lev = 0 then min 4 (tgetD d.thm.calm x.ch 0 + 1) else 0
  let d := { d with thm := { d.thm with calm := tset d.thm.calm x.ch calm 0 } }
  let d := if (lev = 3 || ceil) && d.lehr = 0 then
      (d.fault pThm 0x8001 (x.ch + (if lev = 3 then 0 else 512) + slopeNat x.slope * 65536)).lehrBegin 0
    else d
  if lev = 1 then (if was = 0 then d.record 0xFF 0x0140 (leBytes 4 x.ch ++ leBytes 4 (slopeNat x.slope)) else d, fell)
  else if lev = 2 then
    let dies := d.chDies x.ch
    let new := dies.filter fun e => !fell.contains e
    let d := d.each new fun d e => d.setF pThm (0x80 + 4 * e) 9 5 (max 8 (d.thermal e - 1))
    let steps := dies.foldl (fun a e => a + d.thermal e % 16 * 16 ^ e) 0
    (d.record 0xFF 0x0141 (leBytes 4 x.ch ++ leBytes 4 (maskOf dies) ++ leBytes 4 steps), fell ++ new)
  else (d, fell)

/-- The end of a round: readings published, thresholds compared, thermal steps that rise. -/
def Dev.roundEnd (d : Dev) (vals : List (Option (BitVec 16))) : Dev :=
  let (d, xs) := (List.range 320).foldl (fun (a : Dev × List (Reading × Nat)) n =>
    let was := a.1.getF pThm (0x400 + 4 * n) 30 29
    let (d, x) := a.1.takeReading n ((vals[n]?).getD none)
    (d, a.2 ++ [(x, was)])) (d, [])
  let (d, fell) := (xs.filter fun x => x.1.ch < 256).foldl (fun (a : Dev × List Nat) x => a.1.actOn x.1 x.2 a.2) (d, [])
  let d := d.each (List.range 8) fun d e =>
    if d.thermal e < 16 && !fell.contains e && (List.range 256).all fun n => !(d.chDies n).contains e || 4 ≤ tgetD d.thm.calm n 0
    then d.setF pThm (0x80 + 4 * e) 9 5 (d.thermal e + 1) else d
  -- coolant inlet above 45.0 °C (R387)
  let hot := match (vals[248]?).getD none with | some v => decide (720 < v.toInt) | none => d.thm.coolHigh
  let d := if hot && !d.thm.coolHigh then d.record 0xFF 0x0146 (leBytes 4 (match (vals[248]?).getD none with | some v => v.toNat | none => 0)) else d
  let d := { d with thm := { d.thm with coolHigh := hot } }
  (d.addCount pThm 0x60 1).stepsChange

/-- ROUND_END (R385–R388): the readings of the 320 channels at their sampling times, none where the channel's domain was not ON; a round that an install leaves out has no valid reading (19, R412). -/
def execRoundEnd (vals : List (Option (BitVec 16))) (s : State) : Out := s.upd fun d =>
  if !(d.pwr.up && d.boot.released) then d
  else if d.thm.skip then ({ d with thm := { d.thm with skip := false } } : Dev).roundEnd []
  else d.roundEnd vals

/-! ### The governor (R393, R394; 20, R424) -/

/-- The governor step falls by 1, to no lower than 8: GOV_LIMIT at each onset. -/
def Dev.govFall (d : Dev) : Dev :=
  let g := d.govStep
  if g ≤ 8 then d
  else
    let d := (d.setF pThm 0x44 6 2 (g - 1)).addCount pThm 0x64 1
    let d := if g = 16 then d.record 0xFF 0x0144 (leBytes 4 (g - 1) ++ leBytes 4 (d.getF pThm 0x58 31 16)) else d
    d.stepsChange

/-- One governor sample of `p` µW. -/
def Dev.governor (d : Dev) (p : Nat) : Dev :=
  let l := (p :: d.thm.samples).take 2000
  let have_ := 2000 ≤ l.length
  let sum := l.foldl (· + ·) 0
  let sus := d.getF pThm 0x54 9 0 * 10000000
  let peak := d.getF pThm 0x54 19 10 * 10000000
  let d := (d.setF pThm 0x58 31 16 (min 65535 (p / 1000000))).setF pThm 0x58 15 0 (if have_ then min 65535 (sum / 2000 / 1000000) else 0)
  let x := d.thm
  let run := if sus < p then x.overRun + 1 else 0
  let meanOver := have_ && sus * 2000 < sum
  let byMean := meanOver && 2000 ≤ x.sinceFall + 1
  let falls := peak < p || run = 200 || byMean
  let rises := !falls && have_ && d.govStep < 16 && 2000 ≤ x.sinceRise + 1 && sum * 100 < sus * 2000 * 96
  let mrun := if meanOver && d.govStep = 8 then x.meanRun + 1 else 0
  let d := { d with thm := { x with
    samples := l
    overRun := if run = 200 then 0 else run
    sinceFall := if byMean then 0 else min 2000 (x.sinceFall + 1)
    sinceRise := if rises then 0 else min 2000 (x.sinceRise + 1)
    meanRun := mrun } }
  let d := if falls then d.govFall else if rises then (d.setF pThm 0x44 6 2 (d.govStep + 1)).stepsChange else d
  if mrun = 20000 then d.lehrBegin 1 else d

/-- GOVERNOR_SAMPLE (R393): the two input voltages in mV, the two input currents in units of 10 mA; the sample is the mean voltage times the summed current. -/
def execGovernorSample (v1 v2 i1 i2 : BitVec 16) (s : State) : Out := s.upd fun d =>
  if d.pwr.up && d.boot.released && !d.thm.skip then d.governor ((v1.toNat + v2.toNat) * (i1.toNat + i2.toNat) * 5) else d

/-- INPUT_LOW (20, R424): the onset after 1 ms below 40.0 V, then a fall of the governor step for each further 1 ms (50,000 ao-cycles). -/
def execInputLow (mv : BitVec 16) (s : State) : Out := s.upd fun d =>
  if !d.pwr.up then d
  else if !d.bit pPwr 0x50 0 then
    ({ d.setBit pPwr 0x50 0 true with pwr := { d.pwr with lowAt := d.ao } } : Dev).record 0xFF 0x0148 (leBytes 4 mv.toNat)
  else if d.pwr.lowAt + 50000 ≤ d.ao then
    ({ d with pwr := { d.pwr with lowAt := d.pwr.lowAt + 50000 } } : Dev).govFall
  else d

/-- INPUT_LOW_END (20, R424). -/
def execInputLowEnd (s : State) : Out := s.upd fun d => d.setBit pPwr 0x50 0 false

/-! ### Analogue trip (R392) -/

/-- Every domain but the always-on domain is off at once. -/
def Dev.allOff_ (d : Dev) : Dev := d.each (List.range 111) fun d n => d.powerOff n

/-- ANALOGUE_TRIP (R392): comparator 0–7 CD0–CD7, 8–31 S0–S23. -/
def execAnalogueTrip (c : Fin 32) (s : State) : Out := s.upd fun d =>
  if !d.pwr.up then d
  else
    let first := !d.tripped
    let d := if first then d.setReg pThm 0x5C (BitVec.ofNat 32 (c + 32)) else d
    let d := d.fault pThm 0x8004 c
    let d := { d with
      thm := { d.thm with holding := true, report := if first then some c.val else d.thm.report }
      pwr := { d.pwr with waits := [], entry := 0, low := 0, abandon := false, detecting := false, detectAt := none } }
    (d.setF pPwr 0x44 2 0 0).allOff_

end Sys2Proof.Machine
end

