-- ==== Sys2Proof/Machine/Secure.lean ====
section
/-! DEFINITION. Partitions and the security island (16, R330–R354): creation, reset, release and scrub, packages, identity and attestation, tamper. -/

namespace Sys2Proof.Machine

abbrev cSealViolation : Nat := 0x7001
abbrev cPkgNotMember : Nat := 0x7003
abbrev cPkgInvalid : Nat := 0x7004
abbrev cPkgChunkBad : Nat := 0x7005
abbrev cKeyLost : Nat := 0x7006
abbrev cPtnConflict : Nat := 0x7007
abbrev cPtnState : Nat := 0x7008
abbrev cLcRefused : Nat := 0x7009
abbrev cTamperLatched : Nat := 0x700A

/-- STATE of a partition that is free, in recovery, being scrubbed (R333). -/
abbrev psFree : Nat := 0xA
abbrev psScrubbing : Nat := 0xC

/-- The life-cycle state, and the latch (R354). -/
def Dev.lc (d : Dev) : Nat := d.getF pSec 0x40 1 0
def Dev.tamperLatched (d : Dev) : Bool := d.bit pSec 0x40 8

/-- INFO of PTN_STATE. -/
def Dev.ptnStateInfo (d : Dev) (p : Nat) : Nat := p % 32 + (if p < 24 then d.st (pPtn p) else 0) * 256

/-! ### The creation body (R330) -/

def cbPtn (l : List Byte) : Nat := numAt l 0 1
def cbSealed (l : List Byte) : Bool := bitOf (numAt l 1 1) 0
def cbStacks (l : List Byte) : List Nat := maskBits 24 (numAt l 4 4)
def cbDomains (l : List Byte) : List Nat := maskBits 80 (numAt l 8 10)
def cbPorts (l : List Byte) : List Nat := maskBits 16 (numAt l 0x14 2)
def cbSvc (l : List Byte) : List Nat := maskBits 16 (numAt l 0x16 2)
def cbDmac (l : List Byte) : List Nat := maskBits 64 (numAt l 0x18 8)
def cbXaStack (l : List Byte) : Nat := numAt l 0x20 1
def cbXaGranule (l : List Byte) : Nat := numAt l 0x22 2
def cbXaCount (l : List Byte) : Nat := numAt l 0x24 1
def cbClusters (l : List Byte) : List Nat := (cbDomains l).flatMap domClusters

/-- The pages of the units that a body names, each with the offset of its field and its unit's index. -/
def cbPages (l : List Byte) : List (Nat × Nat × List Page) :=
  ((cbStacks l).map fun s => (0x04, s, (List.range 4).map (pStk s))) ++ ((cbDomains l).map fun c => (0x08, c, (domClusters c).map pClu)) ++
  ((cbPorts l).map fun n => (0x14, n, [pLink n])) ++ ((cbSvc l).map fun n => (0x16, n, [pSvc n])) ++ ((cbDmac l).map fun k => (0x18, k, [Page.mk .dmac k]))

/-- The first reserved byte that is not zero, by its reserved bits. -/
def cbReserved (l : List Byte) : Option Nat :=
  (List.range 80).find? fun i =>
    let b := numAt l i 1
    if i = 1 then b / 2 ≠ 0
    else if i = 2 || i = 3 || i = 7 || i = 0x12 || i = 0x13 || i = 0x21 || (0x25 ≤ i && i < 0x30) then b ≠ 0
    else if i = 0x16 then b % 16 ≠ 0
    else false

/-- The field that fails the second check of R331. -/
def cbBad (l : List Byte) : Option Nat :=
  match cbReserved l with
  | some i => some i
  | none =>
    if (cbStacks l).isEmpty then some 0x04
    else if (cbDomains l).isEmpty then some 0x08
    else if (cbDmac l).any fun k => !((cbDomains l).any fun c => c / 10 = k / 8) then some 0x18
    else if !(cbStacks l).contains (cbXaStack l) then some 0x20
    else if cbXaCount l = 0 || 64 < cbXaCount l then some 0x24
    else if 65536 < cbXaGranule l + cbXaCount l then some 0x22
    else none

/-- The checks of R331: outcome and INFO of the first that fails. `mine`: a page of the partition that a release gives up, which counts as free; `was`: its number. -/
def Dev.createCheck (d : Dev) (l : List Byte) (was : Option Nat) : Option (Nat × Nat) :=
  let p := cbPtn l
  let free (g : Page) : Bool := d.owner g = 0xFF && was.isNone || was = some (d.owner g)
  if 23 < p || (d.ptnExists p && was ≠ some p) then some (cPtnState, d.ptnStateInfo p)
  else match cbBad l with
    | some o => some (cPtnConflict, o)
    | none =>
      match (cbPages l).find? fun u => u.2.2.any (fun g => !free g) || (u.1 = 0x04 && d.getF (pStk u.2.1 0) 0x40 31 0 = 0) with
      | some u => some (cPtnConflict, u.1 + u.2.1 * 256)
      | none =>
        if cbSealed l && d.lc ≠ 2 then some (cLcRefused, d.lc)
        else if cbSealed l && d.tamperLatched then some (cTamperLatched, 0)
        else none

/-! ### Creation (R332) -/

/-- A page goes to a partition; `run` writes ENABLE = 1 on it. -/
def Dev.givePage (d : Dev) (p : Nat) (run : Bool) (g : Page) : Dev :=
  let changed := d.owner g ≠ p
  let d := d.setF g 0x24 7 0 p
  let d := if changed then d.svcZero g else d
  -- a change of OWNER wipes the secure region of a cluster (05, R94)
  let d := if g.blk = .clu && changed then d.wipeSecure g.n else d
  if !run then d
  else
    let d := d.setBit g 0x08 0 true
    if d.st g = stReady then d.setSt g stActive else d

/-- The serving job of a partition is created and bound (11, R219). -/
def Dev.makeServing (d : Dev) (p j : Nat) : Dev :=
  ((d.setJob j { ptn := p, cls := 1, weight := 15 }).modPx p fun x => { x with job := j }).rebindServing p

/-- A fresh salt of 32 bytes (09, R185). -/
def Dev.drawSalt (d : Dev) (p : Nat) : Dev :=
  let (x, d) := d.takeFree
  d.modPx p fun y => { y with salt := leBytes 32 x }

/-- CLU_BUF_SECURE names the serving job on every cluster of a sealed partition. -/
def Dev.secureClusters (d : Dev) (p : Nat) : Dev :=
  d.each (d.ptnClusters p) fun d n => d.writeSecure .security n (BitVec.ofNat 32 ((d.px p).job + 4096))

/-- The registers of R353 from the body. -/
def Dev.ptnRegs (d : Dev) (p : Nat) (l : List Byte) : Dev :=
  let g := pPtn p
  let d := d.setReg g 0x40 (BitVec.ofNat 32 ((if cbSealed l then 1 else 0) + (cbStacks l).length * 2 + (cbDomains l).length * 64))
  let d := d.setReg g 0x44 (BitVec.ofNat 32 (numAt l 4 4))
  let d := ((d.setReg g 0x48 (BitVec.ofNat 32 (numAt l 8 4))).setReg g 0x4C (BitVec.ofNat 32 (numAt l 0xC 4))).setReg g 0x50 (BitVec.ofNat 32 (numAt l 0x10 2))
  let d := d.setReg g 0x54 (BitVec.ofNat 32 (numAt l 0x14 4))
  let d := (d.setReg g 0x58 (BitVec.ofNat 32 (numAt l 0x18 4))).setReg g 0x5C (BitVec.ofNat 32 (numAt l 0x1C 4))
  let d := d.setReg g 0x60 (BitVec.ofNat 32 (cbXaStack l + cbXaGranule l * 256 + cbXaCount l * 2 ^ 24))
  (d.setRegBytes g 0x80 32 (bytesAt l 0x30 32)).setRegBytes g 0xC0 64 (List.replicate 64 0)

/-- Create the partition that a checked body names. -/
def Dev.createPtn (d : Dev) (l : List Byte) : Dev :=
  let l := bytesAt l 0 80
  let p := cbPtn l
  let d := d.setSt (pPtn p) stInit
  let d := (cbPages l).foldl (fun (d : Dev) u => u.2.2.foldl (Dev.givePage · p (u.1 ≠ 0x14)) d) d
  let d := ((d.givePage p false (pKvp p)).givePage p false (pPtn p)).ptnRegs p l
  let xa := d.xaBase p
  let d := (d.zeroRange xa 4096).setPx p { tables := [(xa, 4096)], body := l }
  let d := d.setPair (pPtn p) 0x200 0x204 xa
  let j := (lowest 4096 fun j => (d.job j).cls = 0).getD 0
  let d := ((d.makeServing p j).drawSalt p).setBit (pKvp p) 0x40 17 (4 < (cbStacks l).length)
  let d := if cbSealed l then
      let (k, d) := d.random 64
      ({ d with wkeys := tput d.wkeys p (leNat k) } : Dev).secureClusters p
    else d
  let d := (d.extendMeas p (leBytes 1 1 ++ l)).clockCause
  (d.leaveInit (pPtn p)).record 0xFF 0x01C3 (leBytes 1 p ++ leBytes 1 (if cbSealed l then 1 else 0))

/-- PTN_CREATE: the stack of the translation area must answer first. -/
def Dev.ptnCreate (d : Dev) (i : Item) : Dev :=
  match d.createCheck i.body none with
  | some (c, n) => d.endItem i c n
  | none =>
    let xa := stkBase (cbXaStack i.body) + cbXaGranule i.body * 2 ^ 21
    if !d.memReady xa then (d.memDemand xa).retryItem i
    else (d.createPtn i.body).endItem i 0 0

def execPtnCreate (p : Fin 25) (s : State) : Out := s.upd fun d => d.serveItem p 0x0100 Dev.ptnCreate

/-! ### What reset and release take away (R334, R346) -/

/-- Every request of a partition returns to FREE without a record; batches, sessions and waiting items of the serving engine go. -/
def Dev.dropServing (d : Dev) (p : Nat) : Dev :=
  let d := d.dropStep p
  let d := (d.ptnReqs p).foldl (fun (d : Dev) i => d.publishLost p i) d
  let waiting := d.openWaits.filter fun w => w.ptn = p
  let d := { d with
    batches := d.batches.filter fun b => b.2.ptn ≠ p
    openWaits := d.openWaits.filter fun w => w.ptn ≠ p
    engCmds := d.engCmds.filter fun c => c.ptn ≠ p
    streams := d.streams.filter fun x => x.2.ptn ≠ p
    glueRecs := d.glueRecs.filter fun r => match tget? d.streams r.strm with | some x => x.ptn ≠ p | none => true }
  let d := { d with work := d.work.map fun (m : WorkMsg) => if waiting.any fun (w : OpenWait) => w.msg = m.id then { m with busy := false } else m }
  (d.ptnReqs p).foldl (fun (d : Dev) i =>
    let r := d.rq i
    ({ d with reqX := tdel d.reqX i } : Dev).setRq i (setFld (setFld (setFld r 3 0 rsFree) 15 12 0) 1190 1190 0)) d

/-- Leaves that the pool has installed in a partition's tables go: those of its requests' regions and of its handles' regions. Answers their PVA ranges. -/
def Dev.dropPoolLeaves (d : Dev) (p : Nat) : Dev × List Range :=
  let mine := (d.ptnReqs p).flatMap fun i =>
    let r := d.rq i
    (d.rx i).maps.map fun e => (rqRegion r, rqSregion r, rqW16 r, e.1)
  let held := (d.px p).handles.flatMap fun e =>
    let h := d.hrec p e.1
    e.2.map fun x => (hrRegion h, hrSregion h, hrW16 h, x.1)
  (mine ++ held).foldl (fun (a : Dev × List Range) x =>
    let k := x.1 + x.2.2.2 * 2 ^ 21
    let s := x.2.1 + x.2.2.2 * 65536
    let d := a.1.dropLeaf p k 1
    if x.2.2.1 then (d, a.2 ++ [(k, 2 ^ 21)]) else (d.dropLeaf p s 0, a.2 ++ [(k, 2 ^ 21), (s, 65536)])) (d, [])

/-- The invalidation of the leaves that a partition reset has removed (13, R264): with nothing of them in flight it completes at once; else the pool's pages return when it does. -/
def Dev.resetInval (d : Dev) (p : Nat) (rs : List Range) : Dev :=
  if rs.isEmpty then d
  else
    let (id, d) := d.startInval p rs none
    match d.invals.find? fun v => v.id = id with
    | none => d
    | some v =>
      if d.invalBusy v then d.modPx p fun x => { x with rets := x.rets ++ x.pool.map fun e => ⟨e.1, none, 0, id⟩ }
      else d.invalEnds v

/-- A cluster of a reset partition: what runs and waits in it goes, control stores and buffer stay (R416). -/
def Dev.idleClu (d : Dev) (n : Nat) : Dev :=
  let keep := d.cores.filter fun e => e.1 / 32 = n
  let d := d.freshClu n
  keep.foldl (fun (d : Dev) e => { d with cores := tput d.cores e.1 { store := e.2.store, storeMarks := e.2.storeMarks } }) d

/-- Pages that a partition owns. -/
def Dev.ownedPages (d : Dev) (p : Nat) : List Page :=
  ((List.range 800).map pClu ++ (List.range 96).map (Page.mk .stk) ++ (List.range 64).map (Page.mk .dmac) ++ (List.range 16).map pSvc
    ++ (List.range 16).map pLink ++ [pKvp p, pPtn p]).filter fun g => d.owner g = p

/-- A page of a reset partition (R416): its lanes, if it is a port, stay in service and trained; QUIESCE and TEST end. -/
def Dev.pageReset (d : Dev) (g : Page) : Dev :=
  let lanes := d.reg g 0x4C
  let recal := d.reg g 0x50
  let d := d.resetPage g
  let d := if g.blk = .link then (d.setReg g 0x4C lanes).setReg g 0x50 recal else d
  if d.st g = stQuiescing || d.st g = stQuiesced || d.st g = stTest then d.setSt g (d.runState g) else d

/-- Something that the reset must wait for: a package load, a cluster reset of an owned cluster (R334; 19, R414). -/
def Dev.resetWaits (d : Dev) (p : Nat) : Bool :=
  (d.sec.run.any fun r => r.ptn = p) || (d.ptnClusters p).any fun n => d.bit (pClu n) 0x08 2

/-- The partition reset (R334). -/
def Dev.ptnReset (d : Dev) (p : Nat) : Dev :=
  let g := pPtn p
  let sv := (d.px p).job
  let d := d.setSt g stReset
  let d := ((d.jobs.filter fun x => x.2.ptn = p && x.1 ≠ sv).map Prod.fst).foldl Dev.dropJob d
  let d := (d.jobUnits sv).foldl (fun (d : Dev) u => d.abortUnit u sv none 0x5009 2) d
  let (d, gone) := d.dropPoolLeaves p
  let d := ((d.resetInval p gone).dropServing p).poolEmpty p
  -- the entries that bound a version have returned to FREE (10, R212)
  let d := d.modPx p fun x => { x with adps := (x.adps.filter AdpVer.current).map fun v => { v with binders := 0 }, adpWaits := [], sliceAt := none, sliceLeft := 0 }
  let d := { d with
    aborts := d.aborts.filter fun a => a.job ≠ sv
    tlb := d.tlb.filter fun t => t.ptn ≠ p
    holdAt := tdelRange d.holdAt (8 * p) (8 * p + 8) }
  let d := (d.dropLines fun x => x.ptn = p).each (d.ptnClusters p) fun d n => d.idleClu n
  let d := (d.ptnStacks p).foldl (fun (d : Dev) s => d.modStk s fun x => { x with saved := [] }) d
  let share := d.bit (pKvp p) 0x40 17
  let d := (d.ownedPages p).foldl Dev.pageReset d
  let d := (d.setBit (pKvp p) 0x40 17 share).each [4, 5, 6, 7, 8, 9] fun d c => d.voidOff p c
  let d := ((d.makeServing p sv).drawSalt p).each (d.ptnClusters p) fun d n => d.wipeSecure n
  let d := if d.poolOn p then (match d.poolEnable p with | some e => e | none => d) else d
  ((d.setSt g stInit).leaveInit g).ctrlFollow g

/-- A reset that was asked for is performed once nothing is in its way. -/
def Dev.ptnResetTry (d : Dev) (p : Nat) : Dev := if d.bit (pPtn p) 0x08 2 && !d.resetWaits p then d.ptnReset p else d

/-- RESET_REQ on a PTN page (R334): of a partition that does not exist it has no effect and reads 0; one that is SCRUBBING or FAULTED leaves that state in another way. -/
def Dev.reqPtnReset (d : Dev) (p : Nat) : Dev :=
  if !d.ptnExists p || d.st (pPtn p) = psScrubbing || d.st (pPtn p) = stFaulted then d
  else (d.setBit (pPtn p) 0x08 2 true).ptnResetTry p

/-! ### Release and scrub (R344–R346) -/

/-- Destinations of a partition. -/
def ptnDests (p : Nat) (key : Nat) : Bool := key % 64 / 2 = p && p < 24

/-- A work message of a partition that is SCRUBBING is answered with PTN_STATE, to the device destination alone (R333, R345): the completion names PARTITION 0xFF (DESIGN CHOICE). -/
def Dev.refuseScrub (d : Dev) (m : WorkMsg) : Dev :=
  let n := m.items.length
  ({ d with work := d.work.filter fun x => x.id ≠ m.id } : Dev).sendUp
    (doneMsg m.dev 0xFF 2 m.tag n 0 cPtnState (List.replicate n (cItemSkipped, 0)))

/-- The release is accepted: SCRUBBING, silence, and steps 1 and 2 of the scrub. -/
def Dev.startScrub (d : Dev) (p : Nat) : Dev :=
  let g := pPtn p
  let d := (d.setSt g psScrubbing).dropMsgs fun m => m.cls ≠ clsWork && !toDevice m.data && numAt m.data 5 1 = d.devnum && numAt m.data 6 1 = p
  let d := { d with
    events := d.events.filter fun e => e.dest ≠ p
    dests := tmap d.dests fun k x => if k / 64 = d.devnum && ptnDests p k then { x with q := [], waitAt := none } else x
    qps := tmap d.qps fun _ q => if q.role = 2 && q.dev = d.devnum && q.ptn = p then q.toReset else q }
  let d := (d.work.filter fun m => m.ptn = p).foldl Dev.refuseScrub d
  let (sv, js) := ((d.jobs.filter fun x => x.2.ptn = p).map Prod.fst).partition fun j => j = (d.px p).job
  let d := (js ++ sv).foldl Dev.dropJob d
  let d := (d.dropServing p).setPx p { body := (d.px p).body }
  let d := { d with wkeys := tdel d.wkeys p, tlb := d.tlb.filter fun t => t.ptn ≠ p, invals := d.invals.filter fun v => v.ptn ≠ p
                    pulls := d.pulls.filter fun v => v.ptn ≠ p, holdAt := tdelRange d.holdAt (8 * p) (8 * p + 8) }
  (d.ptnStacks p).foldl (fun (d : Dev) s =>
    let d := d.modStk s fun x => { x with sealMap := [], saved := [] }
    if d.dom (80 + s) = dsSelf then d.stkDemand s else d) d

/-- PTN_RELEASE. The outcome is given when the release is accepted; SCRUB_DONE tells its end (DEDUCED). -/
def Dev.ptnRelease (d : Dev) (i : Item) : Dev :=
  let p := numAt i.body 0 1
  let next := bitOf (numAt i.body 1 1) 0
  if !d.ptnExists p || d.st (pPtn p) = psScrubbing then d.endItem i cPtnState (d.ptnStateInfo p)
  else
    let body := bytesAt i.body 0x40 80
    match (if next then d.createCheck body (some p) else none) with
    | some (c, n) => d.endItem i c n
    | none => ((d.startScrub p).modPx p fun x => { x with successor := if next then some body else none }).endItem i 0 0

def execPtnRelease (p : Fin 25) (s : State) : Out := s.upd fun d => d.serveItem p 0x0101 Dev.ptnRelease

/-- A page leaves a partition: OWNER 0xFF and ENABLE 0. -/
def Dev.freePage (d : Dev) (g : Page) : Dev :=
  let d := ((d.setF g 0x24 7 0 0xFF).setF g 0x08 3 0 0).svcZero g
  if g.blk = .ptn then d.setSt g psFree
  else if g.blk = .kvp then d.setSt g stReady
  else if d.st g = stActive || d.st g = stQuiescing || d.st g = stQuiesced || d.st g = stTest || d.st g = stFaulted then
    if g.blk = .link then d.setPortSt g.n stReady else d.setSt g stReady
  else d

/-- SCRUB_DONE (R346, steps 3 to 7): the fills have ended; every owned stack must be on. -/
def Dev.scrubDone (d : Dev) (p : Nat) (fails : List (Nat × Nat × Nat)) : Dev :=
  let g := pPtn p
  if d.st g ≠ psScrubbing || !((d.ptnStacks p).all fun s => d.dom (80 + s) = dsOn) then d
  else
    let body := (d.px p).successor
    let d := (d.ptnStacks p).foldl (fun (d : Dev) s => d.zeroRange (stkBase s) (2 ^ 37)) d
    let d := (d.dropLines fun x => x.ptn = p).each (d.ptnClusters p) fun d n =>
      ((d.setReg (pClu n) 0x400 0).wipeSecure n).scrubMarch n ((fails.filter fun (x : Nat × Nat × Nat) => x.1 = n).map Prod.snd)
    let gen := d.reg g 0x64 + 1
    let d := (d.ownedPages p).foldl Dev.freePage d
    let d := (((List.range 24).map fun k => 0x40 + 4 * k) ++ (List.range 24).map fun k => 0xA0 + 4 * k).foldl (fun (d : Dev) o => if o < 0x100 && o ≠ 0x64 then d.setReg g o 0 else d) d
    let d := (((d.setReg g 0x64 gen).setPair g 0x200 0x204 0).setReg g 0x3A4 0).setPx p {}
    let d := match body with | some l => d.createPtn l | none => d
    d.record 0xFF 0x01C2 (leBytes 4 p ++ leBytes 4 gen.toNat)

/-! ### Packages (R338–R340) -/

def pkNdev (h : List Byte) : Nat := numAt h 0x1C 4
def pkNchunk (h : List Byte) : Nat := numAt h 0x20 4
def pkOff (h : List Byte) : Nat := numAt h 0x28 8
def pkBody (h : List Byte) : Nat := numAt h 0x30 8
/-- Where the chunk table and the signature begin. -/
def pkTable (h : List Byte) : Nat := 0x900 + 1664 * pkNdev h
def pkSig (h : List Byte) : Nat := pkTable h + 32 * pkNchunk h

/-- The first failing field of a package's header (R338). -/
def pkHeadBad (h : List Byte) : Option Nat :=
  let zero (a b : Nat) : Option Nat := (List.range (b - a)).findSome? fun i => if numAt h (a + i) 1 ≠ 0 then some (a + i) else none
  if numAt h 0 4 ≠ 0x51504B31 then some 0
  else if numAt h 4 2 ≠ 1 then some 4
  else if (zero 6 8).isSome then zero 6 8
  else if pkNdev h = 0 || 4096 < pkNdev h then some 0x1C
  else if pkNchunk h = 0 || 1048576 < pkNchunk h then some 0x20
  else if (zero 0x24 0x28).isSome then zero 0x24 0x28
  else if pkOff h ≠ roundUp (pkSig h + 1280) 4096 then some 0x28
  else if pkBody h % 64 ≠ 0 || pkBody h = 0 then some 0x30
  else zero 0x38 0x100

/-- The first failing chunk entry: `at_` is where the previous chunk ends. -/
def pkChunkBad (t : List Byte) (body : Nat) : Nat → Nat → Nat → Option Nat
  | 0, i, at_ => if at_ = body then none else some (32 * (i - 1) + 8)
  | n + 1, i, at_ =>
    let len := numAt t (32 * i + 8) 4
    if numAt t (32 * i) 8 ≠ at_ then some (32 * i)
    else if len < 64 || 2097152 < len || len % 64 ≠ 0 then some (32 * i + 8)
    else if numAt t (32 * i + 12) 4 ≠ 0 then some (32 * i + 12)
    else pkChunkBad t body n (i + 1) (at_ + len)

/-- The granule of the partition's memory behind a 2 MiB piece of a destination, if it lies wholly in one (R339). -/
def Dev.granuleAt (d : Dev) (p pva : Nat) : Option Nat :=
  match d.xlRange none p pva (2 ^ 21) true with
  | (_, .error _) => none
  | (_, .ok l) =>
    match l.head? with
    | none => none
    | some s =>
      let whole := s.dpa % 2 ^ 21 = 0 && l.all fun x => !x.remote && x.dpa = s.dpa + (x.pva - pva)
      match loc s.dpa with
      | .stack k _ => if whole && (d.ptnStacks p).contains k then some s.dpa else none
      | _ => none

/-- A granule may take weights: outside the pool, the scale areas and the translation area, and not sealed. -/
def Dev.granulePlain (d : Dev) (p a : Nat) : Bool :=
  match loc a with
  | .stack s off =>
    let g := granuleOf off
    !(d.inPool p s g) && !(d.inScale p s g) && !(d.xaBase p ≤ a && a < d.xaBase p + d.xaBytes p) && tgetD (d.stk s).sealMap g 0 = 0
  | _ => false

/-- Set the seal slot of granules. -/
def Dev.setSlots (d : Dev) (l : List Nat) (slot : Nat) : Dev :=
  l.foldl (fun (d : Dev) a => match loc a with
    | .stack s off => d.modStk s fun x => { x with sealMap := tset x.sealMap (granuleOf off) slot 0 }
    | _ => d) d

/-- Read from a staged package; `f` is not applied while its memory does not answer. A mark is consumed (17, R365). A fault of translation fails the load at the field that names the package (DESIGN CHOICE). -/
def Dev.pkRead (d : Dev) (i : Item) (p pva n : Nat) (f : Dev → List Byte → Dev) : Dev :=
  match d.pvaWait p pva n with
  | some d => d.retryItem i
  | none => match d.engRead p pva n with
    | (d, .error c) => if c = cPoison then d.hartPoison i else d.endItem i cPkgInvalid 8
    | (d, .ok bs) => f d bs

/-- The device entry of this device. -/
def Dev.pkEntry (d : Dev) (es : List Byte) (n : Nat) : Option (List Byte) :=
  ((List.range n).map fun k => bytesAt es (1664 * k) 1664).find? fun e => bytesAt e 0 32 = d.deviceHash

/-- The content key of a package: unwrapped under the shared secret that the KEM key of the vault gives (R338). -/
def Dev.pkKey (d : Dev) (e id : List Byte) : Option (List Byte) :=
  match d.sec.keys with
  | none => none
  | some k => Config.kwUnwrap (shake256 (Config.kemDecaps k.kemPriv (bytesAt e 0x20 1568) ++ id) 32) (bytesAt e 0x640 40)

/-- The first byte from `a` to `b` that is not zero. -/
def notZero (h : List Byte) (a b : Nat) : Option Nat := (lowest (b - a) fun i => numAt h (a + i) 1 ≠ 0).map (a + ·)

/-- The first byte after the owner's key or in a device entry that must be zero and is not (R338). -/
def pkZeroBad (all : List Byte) (n : Nat) : Option Nat :=
  match notZero all 0x801 0x900 with
  | some o => some o
  | none => (List.range n).findSome? fun k => notZero all (0x900 + 1664 * k + 0x668) (0x900 + 1664 * k + 0x680)

/-- PKG_LOAD after the partition's own checks: the package's head and tables are in hand. -/
def Dev.pkgChecks (d : Dev) (i : Item) (p : Nat) (all : List Byte) : Dev :=
  let b := i.body
  let h := bytesAt all 0 256
  let t := bytesAt all (pkTable h) (32 * pkNchunk h)
  let fail (c n : Nat) : Dev := d.endItem i c (n % 2 ^ 32)
  match pkHeadBad h with
  | some o => fail cPkgInvalid o
  | none =>
    if numAt b 0x10 8 ≠ pkOff h + pkBody h then fail cPkgInvalid 0x10
    else match (match pkZeroBad all (pkNdev h) with
        | some o => some o
        | none => (pkChunkBad t (pkBody h) (pkNchunk h) 0 0).map (pkTable h + ·)) with
      | some o => fail cPkgInvalid o
      | none =>
        match d.pkEntry (bytesAt all 0x900 (1664 * pkNdev h)) (pkNdev h) with
        | none => fail cPkgNotMember 0
        | some e =>
          let key := shake256 (bytesAt all 0x100 1793) 32
          if !Config.falconVerify (leNat key) (all.take (pkSig h)) (bytesAt all (pkSig h) 1280) then fail cSignatureBad 0
          else if d.ownerKey p ≠ 0 && leNat key ≠ d.ownerKey p then fail cOwnerKey 0
          else
            let dest := numAt b 0x18 8
            let n := numAt b 0x20 8 / 2 ^ 21
            let gs := (List.range n).map fun k => d.granuleAt p (dest + 2 ^ 21 * k)
            if numAt b 0x20 8 < pkBody h then fail cPkgInvalid 0x20
            else match lowest n fun k => match (gs[k]?).getD none with | some a => !d.granulePlain p a | none => true with
              | some k => fail cPkgInvalid (2 ^ 21 * k)
              | none =>
                let d := d.freshKeys
                match d.pkKey e (bytesAt h 8 16) with
                | none => fail cPkgNotMember 0
                | some ck =>
                  let d := d.setSlots (gs.filterMap id) (p + 1)
                  ({ d with sec := { d.sec with run := some ⟨i.msg, i.item, p, numAt b 8 8, numAt b 0x10 8, dest, numAt b 0x20 8, ck, all.take (pkSig h)⟩ } } : Dev).setReg
                    pSec 0x48 (BitVec.ofNat 32 (1 + 2 * p))

/-- PKG_LOAD (R339): the checks up to the content key; the chunks follow, with PKG_LOAD_DONE. -/
def Dev.pkgLoad (d : Dev) (i : Item) : Dev :=
  let p := numAt i.body 0 1
  let st := d.st (pPtn p)
  let pkg := numAt i.body 8 8
  if !d.ptnExists p || !d.ptnSealed p || !(st = stReady || st = stActive || st = stQuiesced) then d.endItem i cPtnState (d.ptnStateInfo p)
  else if d.tamperLatched then d.endItem i cTamperLatched 0
  else if 16 ≤ (d.px p).pkgs.length then
    -- no field of the package has failed: the spec gives INFO no value
    let (x, d) := d.takeFree
    d.endItem i cPkgInvalid (x % 2 ^ 32)
  else if pkg % 4096 ≠ 0 then d.endItem i cPkgInvalid 8
  else if numAt i.body 0x18 8 % 2 ^ 21 ≠ 0 then d.endItem i cPkgInvalid 0x18
  else if numAt i.body 0x20 8 % 2 ^ 21 ≠ 0 then d.endItem i cPkgInvalid 0x20
  else d.pkRead i p pkg 256 fun d h =>
    match pkHeadBad h with
    | some o => d.endItem i cPkgInvalid o
    | none => d.pkRead i p pkg (pkSig h + 1280) fun d all => d.pkgChecks i p all

def execPkgLoad (p : Fin 25) (s : State) : Out := s.upd fun d => d.serveItem p 0x0110 Dev.pkgLoad

/-- Write sealed bytes of a load: the datapath acts for the partition (R339). -/
def Dev.putSealed (d : Dev) (p pva : Nat) (bs : List Byte) : Dev :=
  match d.xlRange none p pva bs.length true with
  | (d, .error _) => d
  | (d, .ok l) => (d.writeSegs (agPlain p none) l bs false).1

/-- Decrypt and store the chunks from `i` on: the device, and the code and INFO of the chunk that ends the load: its tag fails, or its ciphertext is marked, which the use under the content key consumes (17, R365). -/
def Dev.pkgChunks (r : PkgRun) (id t : List Byte) (off : Nat) : Nat → Dev → Nat → Dev × Option (Nat × Nat)
  | 0, d, _ => (d, none)
  | n + 1, d, i =>
    let o := numAt t (32 * i) 8
    let len := numAt t (32 * i + 8) 4
    let (d, x) := d.engRead r.ptn (r.pkg + off + o) len
    if (match x with | .ok _ => false | .error c => c = cPoison) then (d.hartInfo.2, some (cPoison, d.hartInfo.1))
    else
      let ct := match x with | .ok l => l | .error _ => List.replicate len 0
      match Config.gcmOpen r.key (leBytes 4 i ++ List.replicate 8 0) id ct (bytesAt t (32 * i + 16) 16) with
      | none => (d, some (cPkgChunkBad, i))
      | some pt => Dev.pkgChunks r id t off n ((d.addCount pSec 0x50 1).putSealed r.ptn (r.dest + o) (bytesAt pt 0 len)) (i + 1)

/-- A load ends: the key is wiped, the island is free, a partition reset that waited is performed. -/
def Dev.pkgEnds (d : Dev) (r : PkgRun) (code info : Nat) : Dev :=
  let d := ({ d with sec := { d.sec with run := none } } : Dev).setReg pSec 0x48 0
  (d.post r.msg r.item code info).ptnResetTry r.ptn

/-- PKG_LOAD_DONE (R339). The package and the destination must answer. -/
def Dev.pkgLoadDone (d : Dev) : Dev :=
  match d.sec.run with
  | none => d
  | some r =>
    let p := r.ptn
    match d.pvaWait p r.pkg r.pkgBytes, d.pvaWait p r.dest r.destBytes with
    | some d, _ => d
    | none, some d => d
    | none, none =>
      let signed := r.signed
      let h := bytesAt signed 0 256
      let id := bytesAt h 8 16
      let t := bytesAt signed (pkTable h) (32 * pkNchunk h)
      let gs := (List.range (r.destBytes / 2 ^ 21)).filterMap fun k => d.granuleAt p (r.dest + 2 ^ 21 * k)
      match d.pkgChunks r id t (pkOff h) (pkNchunk h) 0 with
      | (d, some e) => (d.putSealed p r.dest (List.replicate r.destBytes 0)).pkgEnds r e.1 e.2
      | (d, none) =>
        let d := d.putSealed p (r.dest + pkBody h) (List.replicate (r.destBytes - pkBody h) 0)
        let key := shake256 (bytesAt signed 0x100 1793) 32
        let d := if d.ownerKey p = 0 then d.setRegBytes (pPtn p) 0x80 32 key else d
        let k := (lowest 16 fun k => (tget? (d.px p).pkgs k).isNone).getD 0
        let hash := shake256 signed 32
        let d := d.modPx p fun x => { x with pkgs := tput x.pkgs k (id, hash, gs) }
        let d := d.setF (pPtn p) 0x40 16 13 (d.px p).pkgs.length
        let d := d.extendMeas p (leBytes 1 2 ++ id ++ hash ++ leBytes 1 k)
        (d.record 0xFF 0x01C1 (leBytes 1 p ++ leBytes 1 k ++ List.replicate 14 0 ++ id)).pkgEnds r 0 k

def execPkgLoadDone (s : State) : Out := s.upd Dev.pkgLoadDone

/-- PKG_UNLOAD (R340). -/
def Dev.pkgUnload (d : Dev) (i : Item) : Dev :=
  let p := numAt i.body 0 1
  let k := numAt i.body 1 1
  if !d.ptnExists p then d.endItem i cPtnState (d.ptnStateInfo p)
  else match tget? (d.px p).pkgs k with
    | none => d.endItem i cPkgInvalid 1
    | some (_, _, gs) =>
      if !(gs.all d.memReady) then (gs.foldl Dev.memDemand d).retryItem i
      else
        let d := gs.foldl (fun (d : Dev) a => (d.writeMem (agPlain p none) a (List.replicate (2 ^ 21) 0) false).1) d
        let d := (d.setSlots gs 0).modPx p fun x => { x with pkgs := tdel x.pkgs k }
        (d.setF (pPtn p) 0x40 16 13 (d.px p).pkgs.length).endItem i 0 0

def execPkgUnload (p : Fin 25) (s : State) : Out := s.upd fun d => d.serveItem p 0x0111 Dev.pkgUnload

/-! ### Identity and attestation (R337, R347) -/

/-- The security core writes bytes at a group address; the outcome comes once they are written. An address that is not 4 KiB aligned or that names no memory is refused with XLATE_PERM (DESIGN CHOICE). -/
def Dev.groupWrite (d : Dev) (i : Item) (ga : Nat) (bs : List Byte) (f : Dev → Dev) : Dev :=
  let dev := ga / 2 ^ 44
  let a := ga % 2 ^ 44
  if a % 4096 ≠ 0 || 63 < dev then d.endItem i cXlatePerm 0
  else if dev ≠ d.devnum then
    let (ids, d) := d.sendWrite (bs.length / 64 + 2) dev noJob opDomain a bs false
    { f d with replyWaits := d.replyWaits ++ [(ids, i.msg, i.item)] }
  else match loc a, loc (a + bs.length - 1) with
    | .stack .., .stack .. | .buf .., .buf .. =>
      if !d.memReady a then (d.memDemand a).retryItem i
      else (f (d.writeMem agDevice a bs false).1).endItem i 0 0
    | _, _ => d.endItem i cXlatePerm 0

/-- Frames that an item waited for have been performed. -/
def Dev.replyDone (d : Dev) : Dev :=
  let ready := d.replyWaits.filter fun w => w.1.all d.isDone
  let d := { d with replyWaits := d.replyWaits.filter fun w => !(w.1.all d.isDone) }
  ready.foldl (fun (d : Dev) w => d.post w.2.1 w.2.2 0 0) d

/-- The security island answers: device keys are derived (R336). -/
def Dev.hasDevKeys (d : Dev) : Bool := d.lc = 1 || d.lc = 2

/-- SEC_IDENTITY. -/
def Dev.secIdentity (d : Dev) (i : Item) : Dev :=
  if !d.hasDevKeys then d.endItem i cLcRefused d.lc
  else
    let cert := Config.certificate.take 4092
    let k := d.deriveKeys
    let bs := bytesAt (bytesAt k.sigPub 0 1793) 0 2048 ++ bytesAt (bytesAt k.kemPub 0 1568) 0 2048
      ++ leBytes 4 cert.length ++ bytesAt cert 0 4092
    d.groupWrite i (numAt i.body 0 8) bs id

def execSecIdentity (p : Fin 25) (s : State) : Out := s.upd fun d => d.serveItem p 0x0121 Dev.secIdentity

/-- Tamper count of the boot record. -/
def Dev.tamperCount (d : Dev) : Nat := match d.curRec with | some r => r.tamper | none => 0

/-- Bytes 0x000–0x7FF of a report (R347); `p` is 0xFF for a device report. -/
def Dev.report (d : Dev) (p : Nat) (nonce : List Byte) : List Byte :=
  let ptn := p < 24
  let z (n : Nat) : List Byte := List.replicate n 0
  let pg := pPtn p
  leBytes 4 0x51415431 ++ leBytes 4 1 ++ nonce ++ d.deviceHash
    ++ leBytes 1 d.lc ++ leBytes 1 p ++ leBytes 1 (if ptn then d.st pg else 0) ++ leBytes 1 (if ptn && d.ptnSealed p then 1 else 0)
    ++ leBytes 1 d.devnum ++ z 3 ++ leBytes 8 d.ao ++ leBytes 4 (if ptn then (d.reg pg 0x64).toNat else 0) ++ leBytes 4 d.tamperCount
    ++ d.regBytes pBoot 0xC0 64
    ++ (if ptn then d.regBytes pg 0xC0 64 ++ d.regBytes pg 0x80 32 ++ bytesAt (d.px p).body 4 28 ++ z 4 else z 128)
    ++ z 32
    ++ (if ptn then (List.range 16).flatMap fun k => match tget? (d.px p).pkgs k with
          | some x => bytesAt x.1 0 16 ++ bytesAt x.2.1 0 32
          | none => z 48
        else z 768)
    ++ z 960

/-- ATTEST: of a partition number in any STATE, a free one included; a number above 23 is refused with PTN_STATE (DESIGN CHOICE). -/
def Dev.attest (d : Dev) (i : Item) : Dev :=
  let p := numAt i.body 0 1
  if !d.hasDevKeys then d.endItem i cLcRefused d.lc
  else if d.tamperLatched then d.endItem i cTamperLatched 0
  else if p ≠ 0xFF && 23 < p then d.endItem i cPtnState (d.ptnStateInfo p)
  else
    let d := d.freshKeys
    let r := d.report p (bytesAt i.body 8 32)
    d.groupWrite i (numAt i.body 0x28 8) (r ++ bytesAt (Config.falconSign (d.sec.keys.getD {}).sigPriv r) 0 1280 ++ List.replicate 768 0) fun d => d.addCount pSec 0x54 1

def execAttest (p : Fin 25) (s : State) : Out := s.upd fun d => d.serveItem p 0x0120 Dev.attest

/-! ### Tamper (R349, R350) -/

/-- The vault and the key slots are wiped. -/
def Dev.wipeVault (d : Dev) : Dev :=
  let run := d.sec.run
  let d := { d with wkeys := [], sram := d.sram.filter fun e => (match e with | .weightKey _ | .deviceKey => false | _ => true), sec := { d.sec with keys := none, rng := 0, bootRec := none, run := none } }
  match run with
  | some r => (d.setReg pSec 0x48 0).post r.msg r.item cKeyLost r.ptn
  | none => d

/-- A sealed partition has lost its key: FAULTED, its jobs and requests fail. -/
def Dev.keyLost (d : Dev) (p : Nat) : Dev :=
  if !d.ptnSealed p || !d.ptnExists p || d.st (pPtn p) = psScrubbing || d.st (pPtn p) = stFaulted then d
  else
    let g := pPtn p
    let d := ((d.jobs.filter fun x => x.2.ptn = p).map Prod.fst).foldl (fun (d : Dev) j => d.jobAbortAll j cKeyLost p g) d
    let d := d.dropStep p
    let d := (d.liveReqs p).foldl (fun (d : Dev) r => d.endNow p r rsFailed rcFault cKeyLost) d
    ((d.fault g cKeyLost p).setSt g stFaulted).record p 0x01C4 (leBytes 4 p)

/-- The security core meets the uncorrectable codewords of weight keys: each is lost, and its partition alone with it (17, R368). -/
def Dev.keyErrors (d : Dev) : Dev :=
  d.sram.foldl (fun (d : Dev) e => match e with
    | .weightKey p =>
      let d := d.sramMet e
      (({ d with wkeys := tdel d.wkeys p } : Dev).each (d.ptnClusters p) fun d n => d.wipeSecure n).keyLost p
    | _ => d) d

/-- TAMPER. A detector of the supply or the clock that is disarmed sees nothing (21, R458). -/
def Dev.tamperEvent (d : Dev) (src : Nat) : Dev :=
  let src := if d.sec.disarmed then src / 16 * 16 + src % 2 else src
  if src = 0 || !d.pwr.up then d
  else
    let d := d.wipeVault.each (List.range 800) fun d n => d.wipeSecure n
    let d := (d.setBit pSec 0x40 8 true).setF pSec 0x44 4 0 (d.getF pSec 0x44 4 0 ||| src)
    let d := d.writeRec fun r => { r with tamper := min 255 (r.tamper + 1) }
    let d := d.record 0xFF 0x01C0 (leBytes 4 src)
    d.each (List.range 24) fun d p => d.keyLost p

def execTamper (src : BitVec 5) (s : State) : Out := s.upd fun d => d.tamperEvent src.toNat

/-- PARTITION_RESET: RESET_REQ written on a PTN page. -/
def execPartitionReset (r : Role) (p : Fin 24) (s : State) : Out := s.upd fun d =>
  d.guardWrite r (pPtn p) fun d => d.reqPtnReset p

end Sys2Proof.Machine
end

