-- ==== Sys2Proof/Machine/Flash.lean ====
section
/-! DEFINITION. The flash (19, R397–R401, R418): image copies and their checks, measurements, the bytes of the boot record. -/

namespace Sys2Proof.Machine

/-! ### Codes of R417 -/

abbrev cImageBad : Nat := 0x9002
abbrev cImageRollback : Nat := 0x9003
abbrev cStageTimeout : Nat := 0x9004
abbrev cUpdateBusy : Nat := 0x9006
abbrev cUpdateInvalid : Nat := 0x9007
abbrev cFritRefused : Nat := 0x9008
abbrev cStageFault : Nat := 0x9009

/-! ### Images (R397, R398) -/

/-- Region of a kind; 0 for the reserved kinds. -/
def imgRegion (k : Nat) : Nat :=
  ([0, 0x40000, 0x200000, 0x200000, 0x1000000, 0x400000, 0x100000, 0x400000, 0x100000, 0x40000, 0x100000][k]?).getD 0

/-- Flash bytes that nothing has written since the erase read as ones (PRESUMED: NOR flash). -/
def padErased (l : List Byte) (n : Nat) : List Byte := l ++ List.replicate (n - l.length) 0xFF#8

/-- Copy `c` of the image of kind `k`: header, and the body that it announces where its length is in range. -/
def Dev.imageAt (d : Dev) (c k : Nat) : List Byte :=
  let l := tgetD d.boot.images (16 * c + k) (Config.image c k)
  let h := padErased l 4096
  padErased h (4096 + min (imgBodyLen h) (imgRegion k - 4096))

/-- Every header byte that R398 does not list is zero. -/
def imgZeros (l : List Byte) : Bool :=
  [(0x9, 0xC), (0xE, 0x10), (0x11, 0x14), (0x18, 0x20), (0x60, 0x80), (0x781, 0x800), (0xD00, 0x1000)].all fun r =>
    (bytesAt l r.1 (r.2 - r.1)).all fun b => b = 0

/-- The hash of the signer's key, and the key slot that holds it (R399). -/
def imgKeyHash (l : List Byte) : List Byte := shake256 (bytesAt l 0x80 1793) 32
def keySlotIs (l : List Byte) (i : Nat) : Bool := imgKeyHash l = bytesAt (Config.fwKeyHash i) 0 32

/-- SVN_MIN of a kind (R399). -/
def Dev.svnMin (d : Dev) (k : Nat) : Nat := tgetD d.boot.svnMin k (Config.svnMin k % 64)

/-- The checks of R398 on an image of kind `k`, in order: the number of the first that fails, 5 for IMAGE_ROLLBACK; none when the image passes. -/
def Dev.imgFails (d : Dev) (k : Nat) (l : List Byte) : Option Nat :=
  let n := imgBodyLen l
  if numAt l 0 4 ≠ 0x51494D31 || numAt l 4 4 ≠ 1 || !imgZeros l || imgKind l ≠ k || n = 0 || imgRegion k < n + 4096 then some 1
  else if !([0, 1].any fun i => keySlotIs l i && !d.boot.revoked.contains i) then some 2
  else if !Config.falconVerify (leNat (imgKeyHash l)) (bytesAt l 0 0x800) (bytesAt l 0x800 1280) then some 3
  else if shake256 (imgBody l) 64 ≠ bytesAt l 0x20 64 then some 4
  else if imgSvn l < d.svnMin k then some 5
  else none

/-- The checks of R398 on copy `c` of the image of kind `k`: code and INFO of the first that fails. -/
def Dev.imgCheck (d : Dev) (c k : Nat) : Option (Nat × Nat) :=
  let l := d.imageAt c k
  (d.imgFails k l).map fun n =>
    if n = 5 then (cImageRollback, k + imgSvn l % 64 * 256 + d.svnMin k % 64 * 2 ^ 14) else (cImageBad, k + c * 256 + n * 512)

/-- BOOT_MEAS is extended for an image (R406). -/
def Dev.measureImage (d : Dev) (k : Nat) (l : List Byte) : Dev :=
  d.setRegBytes pBoot 0xC0 64
    (shake256 (d.regBytes pBoot 0xC0 64 ++ leBytes 1 k ++ leBytes 2 (imgVersion l) ++ leBytes 1 (imgSvn l) ++ bytesAt l 0x20 64) 64)

/-- The installed image of a kind: BOOT_VERSION[k] shows it (R418). -/
def Dev.installImage (d : Dev) (k : Nat) (l : List Byte) : Dev :=
  { d.setReg pBoot (0x80 + 4 * k) (BitVec.ofNat 32 (imgVersion l + imgSvn l % 64 * 2 ^ 16)) with
    boot := { d.boot with cache := tput d.boot.cache k l } }

/-- ACTIVE[k] and TRIAL[k] of the record. -/
def Dev.activeCopy (d : Dev) (k : Nat) : Nat := match d.curRec with | some r => fld r.active k k | none => 0
def Dev.inTrial (d : Dev) (k : Nat) : Bool := match d.curRec with | some r => bitOf r.trial k | none => false

/-- The copy of a kind that a stage uses: the selected one, or the other if only that passes; else the code of the selected one (R402). -/
def Dev.pickCopy (d : Dev) (k : Nat) : Except (Nat × Nat) Nat :=
  let c := d.activeCopy k
  match d.imgCheck c k with
  | none => .ok c
  | some e => match d.imgCheck (1 - c) k with
    | none => .ok (1 - c)
    | some _ => .error e

/-- The pages whose unit runs an image on the always-on domain take its version at once (R397). -/
def Dev.alwaysOnFirmware (d : Dev) : Dev := [pDev, pPwr, pClk, pThm, pSec, pBoot, pMgt].foldl Dev.setFirmware d

/-- A stage runs a kind: FALLBACK and its event where the other copy is used, BOOT_USED, the measurement. -/
def Dev.runImage (d : Dev) (k c : Nat) : Dev :=
  let l := d.imageAt c k
  let d := if c = d.activeCopy k then d else (d.setBit pBoot 0x40 4 true).record 0xFF 0x0181 (leBytes 1 k ++ leBytes 1 c)
  (((d.setF pBoot 0x48 k k c).installImage k l).measureImage k l).alwaysOnFirmware

/-! ### The bytes of the boot record (R401, R418) -/

/-- LAST_FAIL as a word. -/
def BootRec.lastFail (r : BootRec) : Nat := r.failCode % 65536 + r.failKind % 256 * 2 ^ 16 + r.failStage % 8 * 2 ^ 24

/-- Entry `j` of bank `b` in the spare map of a cluster: spares taken at manufacture are as delivered, those taken since follow. -/
def Dev.spareEntry (d : Dev) (n b j : Nat) : Nat :=
  let m := Config.spareRowsUsed n b
  if j < m then
    let o := 0x2000 + 256 * n + 16 * b + 2 * j
    (Config.recByte o).toNat + 256 * (Config.recByte (o + 1)).toNat
  else match ((d.clu n).spares.filter fun r => r / 2048 = b)[j - m]? with
    | some r => r % 2048 + 0x8000
    | none => 0

/-- Entry `j` of the soft remap table of channel `c` of stack `s`: those of manufacture, then those taken since. -/
def Dev.softEntry (d : Dev) (s c j : Nat) : Nat :=
  let fuse := Config.stkFuseRowsUsed s c
  let old := fuse - 48
  if j < old then
    let o := 0x34000 + 320 * (32 * s + c) + 4 * j
    (List.range 4).foldl (fun a i => a + (Config.recByte (o + i)).toNat * 256 ^ i) 0
  else
    let mine := ((d.stk s).rowsFixed.filter fun r => r.1 = c).map Prod.snd
    let soft := mine.drop (48 - fuse)
    match soft[j - old]? with
    | some row =>
      let before := (mine.take (mine.length - soft.length + (j - old))).countP fun r => bankOf r = bankOf row
      row + (Config.stkRowsUsed s c (bankOf row) + before) % 8 * 2 ^ 21 + 2 ^ 31
    | none => 0

/-- Byte `k` of a number. -/
def byteOf (v k : Nat) : Byte := BitVec.ofNat 8 (v / 256 ^ k)

/-- Byte `i` of the record, without its CRC. -/
def Dev.recBody (d : Dev) (r : BootRec) (i : Nat) : Byte :=
  if i < 4 then byteOf 0x51425231 i
  else if i < 8 then byteOf 1 (i - 4)
  else if i < 0x10 then byteOf r.seq (i - 8)
  else if i = 0x10 then byteOf r.attempts 0
  else if i = 0x11 then (if r.fritForce then 1 else 0)
  else if i = 0x12 then byteOf r.tamper 0
  else if i = 0x13 then 0
  else if i < 0x16 then byteOf r.active (i - 0x14)
  else if i < 0x18 then byteOf r.trial (i - 0x16)
  else if i < 0x1C then byteOf r.lastFail (i - 0x18)
  else if 0x200 ≤ i && i < 0x200 + 3200 then byteOf (2 ^ 32 - 1 - (d.reg (pClu ((i - 0x200) / 4)) 0x7C4).toNat) (i % 4)
  else if 0x1000 ≤ i && i < 0x1060 then byteOf (2 ^ 32 - 1 - (d.reg (pStk ((i - 0x1000) / 4) 0) 0x40).toNat) (i % 4)
  else if 0x1060 ≤ i && i < 0x1070 then byteOf (15 - d.lanesIn (i - 0x1060)) 0
  else if 0x1070 ≤ i && i < 0x1070 + 100 then
    byteOf (maskOf ((List.range 8).filter fun j => (d.clu (8 * (i - 0x1070) + j)).retired)) 0
  else if 0x2000 ≤ i && i < 0x2000 + 204800 then
    let k := (i - 0x2000) / 2
    byteOf (d.spareEntry (k / 128) (k / 8 % 16) (k % 8)) (i % 2)
  else if 0x34000 ≤ i && i < 0x34000 + 245760 then
    let k := (i - 0x34000) / 4
    byteOf (d.softEntry (k / 80 / 32) (k / 80 % 32) (k % 80)) (i % 4)
  else 0

/-- Byte `i` of the current record; without a valid copy every byte reads zero (DESIGN CHOICE). -/
def Dev.recByteAt (d : Dev) (i : Nat) : Byte :=
  match d.curRec with
  | none => 0
  | some r =>
    if i < 0xFFFFC then d.recBody r i else byteOf (crc32 ((List.range 0xFFFFC).map (d.recBody r))) (i - 0xFFFFC)

/-- A 256-byte block of the current record. -/
def Dev.recBlock (d : Dev) (b : Nat) : List Byte := (List.range 256).map fun i => d.recByteAt (256 * b + i)

/-! ### The end of a swap (04, R84) -/

/-- The end of a swap of KIND 0: the GAFFER image at CLU_UCODE_SRC, header and body, is read through the die's lines and passes R398, or the swap is REJECTED with SIGNATURE_BAD. -/
def Dev.swapMicrocode (d : Dev) (n : Nat) : Dev :=
  let p := pClu n
  let src := d.pair p 0x58 0x5C % 2 ^ 44
  let (d, h, bad) := d.cachedRead (dieOf n) (d.owner p) agDevice src 4096 false
  let (d, b, bad') := d.cachedRead (dieOf n) (d.owner p) agDevice (src + 4096) (min (imgBodyLen h) (imgRegion 6 - 4096)) false
  if bad || bad' then (d.swapEnds n false).fault p 0x3001 (3 * 16 + n * 65536)
  else if (d.imgFails 6 (h ++ b)).isSome then (d.swapEnds n false).fault p 0x7002 0
  else (d.setF p 0x04 31 16 (imgVersion h)).swapEnds n true

/-- The end of a swap of KIND 1: the words pass R41 and are loaded from index 0 into the cores of CLU_UCODE_MASK, or the swap is REJECTED. -/
def Dev.swapStores (d : Dev) (n : Nat) : Dev :=
  let p := pClu n
  let src := d.pair p 0x58 0x5C % 2 ^ 44
  let len := d.getF p 0x68 12 0
  if len = 0 then d.swapEnds n false
  else
    let (d, bs, bad) := d.cachedRead (dieOf n) (d.owner p) agDevice src (32 * len) false
    let ws := (List.range len).map fun i => BitVec.ofNat 256 (numAt bs (32 * i) 32)
    let mask := (d.reg p 0x64).toNat
    if bad then (d.swapEnds n false).fault p 0x3001 (3 * 16 + n * 65536)
    else match cwFirstBad ws 0 with
      | some (i, b) => (d.swapEnds n false).fault p 0x5004 (cwInfo i b mask)
      | none => (d.loadCores n mask 0 ws).swapEnds n true

/-- UCODE_SWAP_DONE (R84). The memory of the source is awaited. -/
def execUcodeSwapDone (die : Fin 8) (dom k : Fin 10) (s : State) : Out := s.upd fun d =>
  let n := cluAt die dom k
  let p := pClu n
  let src := d.pair p 0x58 0x5C % 2 ^ 44
  if !d.bit p 0x60 1 then d
  else if !d.memReady src then d.memDemand src
  else if d.bit p 0x60 4 then d.swapStores n else d.swapMicrocode n

end Sys2Proof.Machine
end

