-- ==== Sys2Proof/Machine/Boot.lean ====
section
/-! DEFINITION. The start, frit mode and the device-wide resets (19, R402–R409, R413–R416, R459; 18, R392; 20, R426, R427; 21, R455, R456; 16, R351). -/

namespace Sys2Proof.Machine

/-! ### What a device-wide reset leaves (R416) -/

/-- Register words that hold retirements, the life-cycle state among them: what every reset keeps. -/
def keptWord (off : Nat) (v : Word) : Option Word :=
  match pageOf off with
  | none => none
  | some p =>
    let o := off % 0x1000
    if p.blk = .clu && o = 0x7C4 then some v
    else if p.blk = .stk && p.n % 4 = 0 && o = 0x40 then some v
    else if p.blk = .link && o = 0x4C then some (wput (resetWord p o) 3 0 (wfld v 3 0))
    else if p.blk = .sec && o = 0x40 then some (wput 0 1 0 (wfld v 1 0))
    else none

/-- Cores that were to retire with their tile have retired (17, R375): the record says so. -/
def Dev.retireNow (d : Dev) : Dev :=
  (d.cores.filter fun e => e.2.retiring).foldl (fun (d : Dev) e => d.setBit (pClu (e.1 / 32)) 0x7C4 (e.1 % 32) false) d

/-- The device after a reset of every domain: what R416 keeps in its first columns. `warm`: the ao-cycle count and the row histories stay. What has been put on the wires stays recorded. -/
def Dev.coldDev (d : Dev) (warm : Bool) : Dev :=
  let d := d.retireNow
  { csr := d.csr.filterMap fun e => (keptWord e.1 e.2).map fun v => (e.1, v)
    ao := if warm then d.ao else 0
    freeNext := d.freeNext
    sent := d.sent
    nextId := d.nextId
    clus := d.clus.filterMap fun e =>
      if e.2.spares.isEmpty && !e.2.retired then none else some (e.1, ({ spares := e.2.spares, retired := e.2.retired } : Clu))
    stks := tmap d.stks fun _ x => ({ hist := if warm then x.hist else [], rowsFixed := x.rowsFixed, colsFixed := x.colsFixed } : Stk)
    thm := { report := d.thm.report, holding := d.thm.holding }
    pwr := { up := d.pwr.up }
    boot := { recs := d.boot.recs, images := d.boot.images, svnMin := d.boot.svnMin, revoked := d.boot.revoked,
              resetLow := d.boot.resetLow, released := d.boot.released && warm }
    tap := if warm then d.tap else {}
    inOps := if warm then d.inOps.filter fun o => o.path = jtagPath else []
    sec := { disarmed := d.sec.disarmed, seed := d.sec.seed } }

/-! ### Frit mode (R407) -/

/-- Enter frit mode: of the link domains only P0 is powered, on one lane, SWITCHED; the device is its own bridge. -/
def Dev.enterFrit (d : Dev) (reason : Nat) : Dev :=
  let (code, last, att) := match d.curRec with | some r => (r.failCode, r.lastFail, r.attempts) | none => (0, 0, 0)
  let d := (d.setReg pBoot 0x40 (BitVec.ofNat 32 (1 + 8 + att % 256 * 256))).setReg pBoot 0x4C (BitVec.ofNat 32 (reason + code % 65536 * 65536))
  let d := if reason = 1 then d.fault pBoot 0x9001 (code % 65536 * 65536) else d
  let d := d.record 0xFF 0x0184 (leBytes 4 reason ++ leBytes 4 last)
  let d := (d.setBit pDev 0x80 8 true).setBit (pLink 0) 0x40 0 true
  -- the port is to carry frames: ENABLE is 1 as after a start (DEDUCED)
  (d.setBit (pLink 0) 0x08 0 true).startWake 104

/-! ### The start (R402–R405, R459) -/

/-- Pages of the always-on domain. -/
def alwaysOnPages : List Page :=
  [pDev, pPwr, pClk, pThm, pSec, pBoot, pMgt] ++ (List.range 24).map pPtn ++ (List.range 24).map pKvp

/-- Stage `n` begins. -/
def Dev.beginStage (d : Dev) (n : Nat) : Dev := { d.setF pBoot 0x40 2 0 n with boot := { d.boot with stageAt := d.ao } }

/-- The record of R403: trial copies revert after a failed start; ATTEMPTS + 1. -/
def BootRec.started (r : BootRec) : BootRec :=
  let r := if 1 ≤ r.attempts then { r with active := r.active ^^^ r.trial, trial := 0 } else r
  { r with attempts := r.attempts + 1 }

/-- Stage 1 decides the start (R403). BOOT_RECORD_BAD is recorded when no copy is valid (DEDUCED). -/
def Dev.start (d : Dev) : Dev :=
  let d := { d with boot := { d.boot with released := true, waiting := 0 } }
  let d := (alwaysOnPages.foldl (fun (d : Dev) p => d.putSt p stInit) d).beginStage 1
  match d.curRec with
  | none => (d.fault pBoot 0x9005 3).enterFrit 3
  | some r =>
    if r.fritForce then d.enterFrit 2
    else if 3 ≤ r.attempts then d.enterFrit 1
    else
      let d := d.writeRec BootRec.started
      match d.pickCopy 1 with
      | .error _ => d.enterFrit 4
      | .ok _ => d.setF pBoot 0x40 15 8 (r.attempts + 1)

/-- The start begins, or is held while a comparator reads 95 °C or more (18, R392): `kind` 1 warm device reset, 2 module reset or power-on. -/
def Dev.startOrHold (d : Dev) (kind : Nat) : Dev :=
  if d.thm.holding then { d with boot := { d.boot with waiting := kind } } else d.start

/-- A warm device reset (R413); one that is requested while a reset waits is absorbed (R414). -/
def Dev.warmReset (d : Dev) : Dev :=
  if d.boot.waiting ≠ 0 || !d.boot.released then d
  else (d.coldDev true).startOrHold 1

/-- A start fails (R404): LAST_FAIL is written, and a warm device reset follows. -/
def Dev.startFails (d : Dev) (code kind : Nat) : Dev :=
  let st := d.getF pBoot 0x40 2 0
  (d.writeRec fun r => { r with failCode := code, failKind := kind, failStage := st }).warmReset

/-- The stage under way, none when no start runs. -/
def Dev.stage (d : Dev) : Option Nat :=
  let n := d.getF pBoot 0x40 2 0
  if n = 0 || n = 7 || d.frit then none else some n

/-- The images that a stage checks and runs. -/
def stageKinds : Nat → List Nat
  | 1 => [1] | 2 => [2] | 3 => [3] | 4 => [9, 4] | 5 => [5, 6, 7, 8, 10] | _ => []

/-- Run the images of a stage: the device, and the failure of the first that has no copy which passes. -/
def Dev.runImages : List Nat → Dev → Except (Nat × Nat × Dev) Dev
  | [], d => .ok d
  | k :: t, d => match d.pickCopy k with
    | .ok c => Dev.runImages t (d.runImage k c)
    | .error e => .error (e.1, k, d)

/-- The image that runs a stage, which LAST_FAIL names: 0 for the mask ROM; stage 6 runs on two, of which the first is named (DEDUCED). -/
def stageRunner : Nat → Nat
  | 2 => 1 | 3 => 2 | 4 => 3 | 5 => 4 | 6 => 3 | _ => 0

/-- Bound of a stage in ao-cycles. -/
def stageBound : Nat → Nat
  | 1 | 2 => 5000000 | 3 | 6 => 25000000 | _ => 100000000

/-- Units may leave INIT: the block images are in the cache (stage 6), or the unit has none to wait for in frit mode. -/
def Dev.imagesReady (d : Dev) : Bool := 6 ≤ d.getF pBoot 0x40 2 0 || d.frit

/-- A page may leave INIT (R31): its domain is ON, a cluster's march has ended and its region 63 is wiped; the DEV page leaves with the start (R405). -/
def Dev.initReady (d : Dev) (p : Page) : Bool :=
  d.st p = stInit && d.pageOn p && d.imagesReady && p.blk ≠ .dev &&
    (p.blk ≠ .clu || ((d.clu p.n).march.isNone && !d.bit p 0x400 13))

/-- A page leaves INIT (R31, R412, R459): the unit loads its image from the cache; a retired unit is RETIRED, a partition that does not exist FREE. -/
def Dev.initEnd (d : Dev) (p : Page) : Dev :=
  let d := d.setFirmware p
  match p.blk with
  | .clu =>
    if (d.clu p.n).retired then d.setSt p stRetired
    else
      let d := (d.loadStores p.n).leaveInit p
      let o := d.owner p
      if o < 24 then d.ptnResetTry o else d
  | .ptn => if d.ptnExists p.n then d.leaveInit p else (d.setBit p 0x08 2 false).setSt p psFree
  | .kvp => (d.setBit p 0x08 2 false).setSt p (if d.enabled p then stActive else stReady)
  | .svc => (if p.n < 4 then d.svcRuns 0xFF false else d).leaveInit p
  | _ => d.leaveInit p

/-- Every page. -/
def allPages : List Page :=
  [pDev, pPwr, pClk, pThm, pSec, pBoot, pMgt] ++ (List.range 16).map pLink ++ (List.range 4).map pHbr ++ (List.range 8).map pSrv
    ++ (List.range 8).map pSmp ++ (List.range 24).map pKvp ++ [pMed] ++ (List.range 24).map pPtn ++ [pMmu]
    ++ (List.range 64).map (Page.mk .dmac) ++ (List.range 96).map (Page.mk .stk) ++ (List.range 8).map pDie
    ++ (List.range 800).map pClu ++ (List.range 16).map pSvc

/-- The start is complete (R405): every page leaves INIT, DEV reads READY, the copies in trial are committed, BOOT_DONE follows. -/
def Dev.startDone (d : Dev) : Dev :=
  let d := (allPages.filter d.initReady).foldl Dev.initEnd d
  let d := (d.leaveInit pDev).setF pBoot 0x40 2 0 7
  let d := d.writeRec fun r => { r with attempts := 0, trial := 0 }
  d.record 0xFF 0x0180 (leBytes 4 (d.reg pBoot 0x48).toNat ++ leBytes 4 (match d.curRec with | some r => r.lastFail | none => 0))

/-- Stage 4 begins: ENABLE = 1 on every LINK page (R459), and the domains are powered in order (20, R427). -/
def Dev.beginStage4 (d : Dev) : Dev :=
  ((d.beginStage 4).each (List.range 16) fun d n => d.setBit (pLink n) 0x08 0 true).bootPower

/-- Every domain that the start powers is settled (20, R427). -/
def Dev.bootSettled (d : Dev) : Bool := bootGroups.all fun g => g.all d.domSettled

/-- STAGE_COMPLETE (R402): stage 4 ends once every domain is settled, stage 6 once every unit may leave INIT. -/
def Dev.stageDone (d : Dev) : Dev :=
  match d.stage with
  | none => d
  | some n =>
    if n = 4 && !d.bootSettled then d
    else if n = 6 then
      if allPages.any fun p => d.st p = stInit && p.blk ≠ .dev && !d.initReady p then d else d.startDone
    else match Dev.runImages (stageKinds n) d with
      | .error (code, k, d) => d.startFails code k
      | .ok d =>
        if n = 3 then (d.fillVault d.lc).beginStage4
        else d.beginStage (n + 1)

def execStageComplete (s : State) : Out := s.upd Dev.stageDone

/-- STAGE_TIMEOUT (R404). -/
def execStageTimeout (s : State) : Out := s.upd fun d =>
  match d.stage with
  | none => d
  | some n => if d.ao ≤ d.boot.stageAt + stageBound n then d else d.startFails cStageTimeout (stageRunner n)

/-- STAGE_FAULT (R404): LAST_FAIL holds STAGE_FAULT; its INFO, which no register of the device holds, would carry `code`. -/
def execStageFault (_code : BitVec 16) (s : State) : Out := s.upd fun d =>
  match d.stage with
  | none => d
  | some n => d.startFails cStageFault (stageRunner n)

/-! ### Power and reset inputs (20, R424–R427; 21, R455, R456) -/

/-- POWER_ON: the always-on domain comes up; power-on reset is not yet released. -/
def execPowerOn (s : State) : Out := s.upd fun d =>
  if d.pwr.up then d else { d with pwr := { d.pwr with up := true } }

/-- Power-on reset is released: the ao-cycle count starts, the detectors are armed, the start begins unless it is held. -/
def Dev.porRelease (d : Dev) : Dev :=
  if !d.pwr.up || d.boot.released || d.boot.resetLow || d.boot.waiting ≠ 0 then d
  else ({ d with ao := 0, sec := { d.sec with disarmed := false } } : Dev).startOrHold 2

/-- POWER_ON_RESET_RELEASE (20, R427); while RESET_L is low the start waits for its release (21, R455). -/
def execPowerOnResetRelease (s : State) : Out := s.upd Dev.porRelease

/-- POWER_FAIL (20, R426): every domain goes off, the always-on domain last; no record of the loss is kept. A record write that the loss meets has either completed or not begun (DEDUCED: the other copy stays current). -/
def execPowerFail (s : State) : Out := s.upd fun d =>
  if !d.pwr.up then d
  else
    let d := d.coldDev false
    { d with thm := { holding := d.thm.holding }, pwr := { up := false }, sec := { disarmed := true } }

/-- MODULE_RESET (21, R455): RESET_L has been low for 1 µs; every domain powers down, the detectors of the rails and the clock are disarmed. During a power-fail sequence the input changes nothing else. -/
def execModuleReset (s : State) : Out := s.upd fun d =>
  if !d.pwr.up then { d with boot := { d.boot with resetLow := true } }
  else
    let d := d.coldDev false
    { d with boot := { d.boot with resetLow := true }, sec := { d.sec with disarmed := true } }

/-- RESET_L_RELEASE (21, R455): the count starts at 0 and stage 1 follows, held while a comparator reads 95 °C or more. -/
def execResetLRelease (s : State) : Out := s.upd fun d =>
  if !d.boot.resetLow then d else ({ d with boot := { d.boot with resetLow := false } } : Dev).porRelease

/-- TRIP_RESET_HOLD_RELEASE (18, R392): every comparator reads below 95 °C; a start that was held begins. -/
def execTripResetHoldRelease (s : State) : Out := s.upd fun d =>
  let d := { d with thm := { d.thm with holding := false } }
  if d.boot.waiting = 0 then d
  else if d.boot.waiting = 1 then d.start
  else ({ d with ao := 0 } : Dev).start

/-! ### Resets by register (02, R30) -/

/-- WARM_DEVICE_RESET: RESET_REQ of the DEV page. -/
def execWarmDeviceReset (r : Role) (s : State) : Out := s.upd fun d =>
  d.guardWrite r pDev Dev.warmReset

/-- CLUSTER_RESET: RESET_REQ of a CLU page. -/
def execClusterReset (r : Role) (n : Fin 800) (s : State) : Out := s.upd fun d =>
  d.guardWrite r (pClu n) fun d => d.reqCluReset n

/-- PORT_RESET: RESET_REQ of a LINK page. -/
def execPortReset (r : Role) (n : Fin 16) (s : State) : Out := s.upd fun d =>
  d.guardWrite r (pLink n) fun d => d.reqPortReset n

/-- UNIT_INIT_END (02, R31), by page index. -/
def execUnitInitEnd (pg : Fin 0x1410) (s : State) : Out := s.upd fun d =>
  match pageAt pg with
  | none => d
  | some p => if d.initReady p then d.initEnd p else d

/-! ### Life cycle (16, R351) -/

/-- The records of the device destination leave at once: the reset that follows would lose them. -/
def Dev.flushEvents (d : Dev) : Dev :=
  match execEventMessageSend 0xFF { dev := d, pending := [] } with
  | .next s => s.dev.mgtOut.foldl (fun (d : Dev) m => d.mgtSend (d.getF pMgt 0x40 8 1) 0x03 m) s.dev
  | _ => d

/-- LC_ADVANCE. The outcome and the event are given before the reset. -/
def Dev.lcAdvance (d : Dev) (i : Item) : Dev :=
  let l := d.lc
  if l = 3 || (List.range 24).any d.ptnExists then d.endItem i cLcRefused l
  else if l = 0 && !Config.falconVerify Config.provKeyHash Config.fuseId (bytesAt i.body 0 1280) then d.endItem i cSignatureBad 1
  else
    let d := d.wipeVault.each (List.range 800) fun d n => d.wipeSecure n
    let d := (if l = 0 then d.fuseSeed else d).setF pSec 0x40 1 0 (l + 1)
    let d := (d.record 0xFF 0x01C5 (leBytes 1 (l + 1))).endItem i 0 0
    d.flushEvents.warmReset

def execLcAdvance (p : Fin 25) (s : State) : Out := s.upd fun d => d.serveItem p 0x0130 Dev.lcAdvance

end Sys2Proof.Machine
end

