-- ==== Sys2Proof/Machine/Update.lean ====
section
/-! DEFINITION. Live update (19, R408–R412, R418): UPDATE_IMAGE, installs, BOOT_SELECT, frit requests, the record window. -/

namespace Sys2Proof.Machine

/-! ### UPDATE_STATUS (R418) -/

/-- UPDATE_STATUS as the open sequence and the install have it. -/
def Dev.updShow (d : Dev) : Dev :=
  let w := match d.boot.upd, d.boot.inst with
    | some u, i => u.kind + 16 + (if i.isSome then 32 else 0) + u.len / 4096 % 2 ^ 24 * 256
    | none, some i => i.kind + 32 + i.swapped % 2 ^ 24 * 256
    | none, none => 0
  d.setReg pBoot 0x54 (BitVec.ofNat 32 w)

def Dev.setUpd (d : Dev) (u : Option UpdSeq) : Dev := ({ d with boot := { d.boot with upd := u } } : Dev).updShow
def Dev.setInst (d : Dev) (u : Option Install) : Dev := ({ d with boot := { d.boot with inst := u } } : Dev).updShow

/-! ### Installs (R412) -/

/-- A unit may be swapped: the condition of its kind holds, and what it had in flight has ended. -/
def Dev.instWhen (d : Dev) (k n : Nat) : Bool :=
  d.instDue k n && !(if k = 6 then d.inFlight (pClu n) else if k = 7 then d.inFlight (pStk n 1) else false)

/-- A unit takes the new image: `chans` are the channels whose calibration changed. -/
def Dev.swapUnit (d : Dev) (k n : Nat) (chans : List (Fin 320)) : Dev :=
  if k = 3 then ({ d with thm := { d.thm with skip := true } } : Dev).alwaysOnFirmware
  else if k = 9 then chans.foldl (fun (d : Dev) c => { d with thm := { d.thm with hist := tdel d.thm.hist c.val } }) d
  else if k = 5 then (if n = 3 then d.setFirmware pMed else d)
  else if k = 7 then d.each (List.range 4) fun d j => d.setFirmware (pStk n j)
  else if k = 8 then (d.setFirmware (pLink n)).portReset n
  else d.setFirmware (instPage k n)

/-- An install begins: BOOT_MEAS is extended, the cache entry replaced. -/
def Dev.beginInstall (d : Dev) (k : Nat) : Dev :=
  let l := d.imageAt (d.activeCopy k) k
  ((d.measureImage k l).installImage k l).setInst (some ⟨k, 0, 0⟩)

/-- The install is over once no unit is left: UPDATE_INSTALLED; the next one begins. -/
def Dev.endInstall (d : Dev) (i : Install) : Dev :=
  let v := match tget? d.boot.cache i.kind with | some l => imgVersion l | none => 0
  let d := (d.setInst none).record 0xFF 0x0183 (leBytes 2 i.kind ++ leBytes 2 v ++ leBytes 4 i.swapped)
  match d.boot.instq with
  | [] => d
  | k :: t => ({ d with boot := { d.boot with instq := t } } : Dev).beginInstall k

/-- INSTALL_UNIT_SWAP (R412): the next unit swaps once its condition holds; without a further unit the install ends. -/
def execInstallUnitSwap (chans : List (Fin 320)) (s : State) : Out := s.upd fun d =>
  match d.boot.inst with
  | none => d
  | some i => match d.instNext i.kind i.next with
    | none => d.endInstall i
    | some n =>
      if !d.instWhen i.kind n then d
      else
        let j : Install := ⟨i.kind, n + 1, i.swapped + 1⟩
        let d := (d.swapUnit i.kind n chans).setInst (some j)
        if (d.instNext i.kind (n + 1)).isSome then d else d.endInstall j

/-- Ask for an install: it follows the one in progress (DESIGN CHOICE). One without units to swap is over at once. -/
def Dev.askInstall (d : Dev) (k : Nat) : Dev :=
  if d.boot.inst.isSome then { d with boot := { d.boot with instq := d.boot.instq ++ [k] } }
  else
    let d := d.beginInstall k
    if instUnits k = 0 then d.endInstall ⟨k, 0, 0⟩ else d

/-! ### UPDATE_IMAGE (R410) -/

/-- Every retirement field of a fresh record is empty (R408): what a lost record held is found again by the start-up tests. What fuses hold stays. -/
def Dev.forgetRetired (d : Dev) : Dev :=
  { d with
    csr := d.csr.filterMap fun e => match pageOf e.1 with
      | some p =>
        let o := e.1 % 0x1000
        if (p.blk = .clu && o = 0x7C4) || (p.blk = .stk && p.n % 4 = 0 && o = 0x40) then none
        else if p.blk = .link && o = 0x4C then some (e.1, wput e.2 3 0 0xF)
        else some e
      | none => some e
    clus := tmap d.clus fun _ c => { c with retired := false, spares := [] }
    stks := tmap d.stks fun s x => { x with
      rowsFixed := (List.range 32).flatMap fun c => (x.rowsFixed.filter fun r => r.1 = c).take (48 - Config.stkFuseRowsUsed s c) } }

/-- In frit mode with reason BOOT_RECORD the first UPDATE_IMAGE writes a fresh record (R408). -/
def Dev.freshRecord (d : Dev) : Dev :=
  if d.frit && d.getF pBoot 0x4C 3 0 = 3 && d.curRec.isNone then d.forgetRetired.setRec 1 (some {}) else d

/-- The first condition of R410 that an UPDATE_IMAGE meets: code and INFO. A LENGTH that is 0 or beyond the item is out of order (DESIGN CHOICE). -/
def Dev.updRefused (d : Dev) (b : List Byte) : Option (Nat × Nat) :=
  let k := numAt b 0 1
  let first := bitOf (numAt b 1 1) 0
  let off := numAt b 4 4
  let len := numAt b 8 4
  let bad (n : Nat) : Option (Nat × Nat) := some (cUpdateInvalid, n)
  let order := match d.boot.upd with
    | some u => !first && u.kind = k && off = u.len
    | none => first && off = 0
  match d.boot.upd with
  | some u => if first then some (cUpdateBusy, u.kind) else rest order k first off len bad
  | none => rest order k first off len bad
where
  rest (order : Bool) (k : Nat) (first : Bool) (off len : Nat) (bad : Nat → Option (Nat × Nat)) : Option (Nat × Nat) :=
    if !order || len = 0 || b.length < 16 + len then bad 1
    else if imgRegion k ≠ 0 && imgRegion k < off + len then bad 2
    else if bitOf (numAt b 1 1) 2 && (k = 1 || k = 2 || d.frit) then bad 3
    else if first && imgRegion k ≠ 0 && d.inTrial k then bad 4
    else if imgRegion k = 0 then bad 5
    else none

/-- The last chunk has been written: the image is read back and checked; the record makes it active in trial. -/
def Dev.updLast (d : Dev) (i : Item) (k : Nat) (install : Bool) : Dev :=
  let c := 1 - d.activeCopy k
  let d := d.setUpd none
  match d.imgCheck c k with
  | some e => d.endItem i e.1 e.2
  | none =>
    let l := d.imageAt c k
    let d := d.writeRec fun r => { r with active := setFld r.active k k c, trial := setFld r.trial k k 1 }
    let d := d.record 0xFF 0x0182 (leBytes 2 k ++ leBytes 2 (imgVersion l) ++ leBytes 4 c)
    (if install then d.askInstall k else d).endItem i 0 0

/-- UPDATE_IMAGE: one chunk into the inactive copy. -/
def Dev.updateImage (d : Dev) (i : Item) : Dev :=
  let d := d.freshRecord
  match d.updRefused i.body with
  | some e => d.endItem i e.1 e.2
  | none =>
    let b := i.body
    let k := numAt b 0 1
    let flags := numAt b 1 1
    let len := numAt b 8 4
    let at_ := 16 * (1 - d.activeCopy k) + k
    let old := if bitOf flags 0 then [] else tgetD d.boot.images at_ []
    let d := { d with boot := { d.boot with images := tput d.boot.images at_ (old ++ bytesAt b 16 len) } }
    if bitOf flags 1 then d.updLast i k (bitOf flags 2)
    else (d.setUpd (some ⟨k, numAt b 4 4 + len⟩)).endItem i 0 0

def execUpdateImage (p : Fin 25) (s : State) : Out := s.upd fun d => d.serveItem p 0x0180 Dev.updateImage

/-! ### BOOT_SELECT and FRIT_REQUEST (R411) -/

/-- OP of the BOOT_SELECT item that is due. -/
def Dev.dueOp (d : Dev) (p : Nat) : Nat :=
  match d.dueMsg p with
  | none => 0
  | some m => match m.items[m.next]? with
    | some (_, body) => numAt body 1 1
    | none => 0

/-- Perform a BOOT_SELECT of operation `op`: a reserved KIND is refused with reason 5, as UPDATE_IMAGE refuses it (DESIGN CHOICE). -/
def Dev.bootSelect (d : Dev) (p : Nat) (op : Nat → Bool) (f : Dev → Nat → Option Dev) : Dev :=
  if !op (d.dueOp p) then d
  else d.serveItem p 0x0181 fun d i =>
    let k := numAt i.body 0 1
    if 3 < numAt i.body 1 1 || (numAt i.body 1 1 ≠ 3 && imgRegion k = 0) then d.endItem i cUpdateInvalid 5
    else match f d k with
      | none => d.endItem i cUpdateInvalid 4
      | some d => d.endItem i 0 0

/-- BOOT_SELECT_COMMIT; a reserved OP is refused here (DESIGN CHOICE: reason 5). -/
def execBootSelectCommit (p : Fin 25) (s : State) : Out := s.upd fun d =>
  d.bootSelect p (fun n => n = 0 || 3 < n) fun d k => some (d.writeRec fun r => { r with trial := setFld r.trial k k 0 })

/-- BOOT_SELECT_REVERT: the other copy must pass R398. -/
def execBootSelectRevert (p : Fin 25) (s : State) : Out := s.upd fun d =>
  d.bootSelect p (fun n => n = 1) fun d k =>
    let c := 1 - d.activeCopy k
    if (d.imgCheck c k).isSome then none
    else some (d.writeRec fun r => { r with active := setFld r.active k k c, trial := setFld r.trial k k 0 })

/-- BOOT_SELECT_RAISE_SVN: fuses only rise. -/
def execBootSelectRaiseSvn (p : Fin 25) (s : State) : Out := s.upd fun d =>
  d.bootSelect p (fun n => n = 2) fun d k =>
    if d.inTrial k then none
    else
      let v := max (d.svnMin k) (min 63 (imgSvn (d.imageAt (d.activeCopy k) k)))
      some { d with boot := { d.boot with svnMin := tput d.boot.svnMin k v } }

/-- BOOT_SELECT_REVOKE_KEY0: no active copy may be signed with the key of slot 0. -/
def execBootSelectRevokeKey0 (p : Fin 25) (s : State) : Out := s.upd fun d =>
  d.bootSelect p (fun n => n = 3) fun d _ =>
    if (List.range 10).any fun j => keySlotIs (d.imageAt (d.activeCopy (j + 1)) (j + 1)) 0 then none
    else some { d with boot := { d.boot with revoked := addSet d.boot.revoked 0 } }

/-- FRIT_REQUEST: FRIT_FORCE, then a warm device reset. -/
def execFritRequest (p : Fin 25) (s : State) : Out := s.upd fun d =>
  d.serveItem p 0x0182 fun d i => (((d.writeRec fun r => { r with fritForce := true }).endItem i 0 0).flushEvents).warmReset

/-- FRIT_EXIT (R409): ATTEMPTS and FRIT_FORCE clear, a warm device reset follows. Outside frit mode it is refused. -/
def execFritExit (s : State) : Out := s.upd fun d =>
  if !d.frit then { d with itemResp := (cUpdateInvalid, 6) }
  else ({ (d.writeRec fun r => { r with attempts := 0, fritForce := false }) with itemResp := (0, 0) } : Dev).warmReset

/-- BOOT_REC_WINDOW_READ (R418): word `i` of the block that BOOT_REC_SEL names, read from the flash. -/
def execBootRecWindowRead (r : Role) (i : Fin 64) (s : State) : Out := s.upd fun d =>
  d.guardRead r pBoot false fun d =>
    let b := d.getF pBoot 0x58 11 0
    (d, BitVec.ofNat 32 (numAt (d.recBlock b) (4 * i) 4))

end Sys2Proof.Machine
end

