-- ==== Sys2Proof/Machine/CsrRead.lean ====
section
/-! DEFINITION. What a control-space read returns (00, R4; 02, R25–R38; the register tables of the chapters): fields that follow other state are computed here, every other word is the stored one. -/

namespace Sys2Proof.Machine

/-- Counts of events that no command carries: slots and bursts served, marver cycles, FEC codewords, corrected die-cache errors (07, R145, R146; 14, R310; 17, R383). -/
def uncounted (p : Page) (off : Nat) : Bool :=
  match p.blk with
  | .stk => (p.n % 4 = 0 && (off = 0x50 || off = 0x54 || off = 0x58)) || (p.n % 4 = 1 && (off = 0x200 || off = 0x204))
  | .link => off = 0x6C || off = 0x70
  | .die => off = 0x40
  | _ => false

/-- Events that such a register counts may have happened since it was last read: the marver or the copier of the stack has worked, the port has its domain's power and a lane, a line of the die has been held. -/
def Dev.mayGrow (d : Dev) (p : Page) (off : Nat) : Bool :=
  match p.blk with
  | .stk =>
    if p.n % 4 = 0 && off = 0x54 then d.pageOn p
    else (d.stk (p.n / 4)).ran.contains off || !(d.stk (p.n / 4)).runs.isEmpty && off ≠ 0x58 || !(d.stk (p.n / 4)).copiers.isEmpty && off = 0x58
  | .link => d.pageOn p && d.st p ≠ lsDown && d.st p ≠ stOff
  | .die => d.pageOn p
  | _ => false

/-- The count of such a register at a read: it has grown by a free number of events. -/
def Dev.grow (d : Dev) (p : Page) (off : Nat) : Dev :=
  if uncounted p off && d.mayGrow p off then
    let (x, d) := d.takeFree
    let d := d.setReg p off (d.reg p off + BitVec.ofNat 32 x)
    if p.blk = .stk then d.modStk (p.n / 4) fun s => { s with ran := s.ran.filter (· ≠ off) } else d
  else d

/-- CLU_BUF_MARCH_PROGRESS of a march under way (05, R100): a free place within what the march may be at. -/
def marchProgress (m : MarchRun) (x : Nat) : Nat :=
  let bgs := maskBits 4 m.mask
  (if m.preserving then x % 256 else 0) + (1 + x / 256 % 6) * 256 + ((bgs[x / 1536 % bgs.length]?).getD 0) * 2048

/-- Units in service (01, R21): those not retired. A stack counts while one of its channels does, a port while one of its lanes does. -/
def popcount (n v : Nat) : Nat := (maskBits n v).length
def sumOver (n : Nat) (f : Nat → Nat) : Nat := (List.range n).foldl (fun a i => a + f i) 0
def Dev.clustersIn (d : Dev) : Nat := (below 800 fun n => !(d.clu n).retired).length
def Dev.coresIn (d : Dev) : Nat := sumOver 800 fun n => popcount 32 (d.reg (pClu n) 0x7C4).toNat
def Dev.chansIn (d : Dev) (s : Nat) : Nat := popcount 32 (d.reg (pStk s 0) 0x40).toNat

/-- The PLLs of a list of domains or dies are locked (20, R443): not unlocked, and their domain neither OFF nor WAKING. -/
def Dev.locked (d : Dev) (k : Nat) : Bool :=
  let s := d.dom (pllDomain k)
  s ≠ dsOff && s ≠ dsWaking && d.clockOn k
def Dev.lockMask (d : Dev) (first n : Nat) : Nat := maskOf (below n fun i => d.locked (first + i))

/-- QUEUE_STATUS.STATE (04, R82; 07, R146; 13, R278). -/
def Dev.qState (d : Dev) (u : UnitKey) (q : Nat) : Nat :=
  if d.qMark u q ≠ 0 then d.qMark u q
  else if !d.qBound u q then 0
  else match d.qHead u q with
    | none => 1
    | some w =>
      let free := (d.qFence u q).isNone
      let goes := if d.queueBad u q then true else if u < 0x2000 then (match headCheck (d.qCmds u q) with | .good _ => d.gafIssuable u q w | .wait => false | .bad .. => true)
        else if u < 0x4000 then d.mvrIssuable (u - 0x2000) q w
        else !d.dmaBusy (u - 0x4000) q && (fld w 7 0 ≠ opWait u || dmWtThreshold w ≤ d.flag (dmWtPage w) (dmWtFlag w))
      let short := if u < 0x4000 then d.flag (uPage u) (sgFlag w) < sgAmount w else d.flag (dmWtPage w) (dmWtFlag w) < dmWtThreshold w
      if free && goes then 2 else if free && fld w 7 0 = opWait u && short then 4 else 3

/-- QUEUE_STATUS: STATE, DEPTH, HEAD. -/
def Dev.qStatus (d : Dev) (u : UnitKey) (q : Nat) : Nat :=
  d.qState u q + (d.qCmds u q).length % 512 * 16 + (match d.qHead u q with | some w => fld w 7 0 | none => 0) * 65536

/-- The record of a job (11, R237). -/
def Dev.jobRecord (d : Dev) (j : Nat) : Nat :=
  let x := d.job j
  x.ptn % 32 + x.cls % 4 * 2 ^ 5 + x.weight % 16 * 2 ^ 7 + x.group % 8 * 2 ^ 11 + x.state % 4 * 2 ^ 14 + x.code % 65536 * 2 ^ 16
    + x.debt % 2 ^ 32 * 2 ^ 32 + x.overrun % 2 ^ 32 * 2 ^ 64

/-- The services that a core runs, as rows of R314 (15, R329): none before its firmware runs and while it is being swapped; which of rows 1–5 each device core runs, and which take over the services of SVC[3] meanwhile, is not fixed. -/
def Dev.services (d : Dev) (n : Nat) : Nat :=
  let m := (d.instAt 4).getD 16
  if n = m || d.st (pSvc n) = stInit || d.st (pSvc n) = stReset || d.st (pSvc n) = stOff then 0
  else if n < 4 then Config.coreServices n m % (if m = 3 then 256 else 32) ||| (if n = 3 then 0xE0 else 0)
  else if d.owner (pSvc n) < 24 then 0xE0 else 0

/-- Header words that follow other state (R28, R29, R38). -/
def Dev.headWord (d : Dev) (p : Page) (off : Nat) : Option Nat :=
  if off = 0x00 then some (p.inst + p.blockType * 65536)
  else if off = 0x04 then some ((Config.layout p.blockType).toNat + d.getF p 0x04 31 16 * 65536)
  else if off = 0x0C then some (if d.pageOff p then (d.reg p 0x0C).toNat / 16 * 16 else (d.reg p 0x0C).toNat)
  else if off = 0x20 then some (d.dom p.domain + p.domain * 256)
  else none

/-- Words of the device pages that follow other state. -/
def Dev.deviceWord (d : Dev) (p : Page) (off : Nat) : Option Nat :=
  match p.blk with
  | .dev =>
    if off = 0x44 then some (d.clustersIn + d.coresIn * 1024)
    else if off = 0x48 then some ((below 24 fun s => d.chansIn s ≠ 0).length + sumOver 24 d.chansIn * 32)
    else if off = 0x4C then some ((below 16 fun n => d.lanesIn n ≠ 0).length + sumOver 16 (fun n => popcount 4 (d.lanesIn n)) * 32)
    else none
  | .pwr =>
    if 0x100 ≤ off && off < 0x2C0 && off % 4 = 0 then
      some ((d.reg p off).toNat - (if d.bit p off 3 then 8 else 0) + (if d.pinned ((off - 0x100) / 4) then 8 else 0))
    else none
  | .clk =>
    if off = 0x40 then some (d.ao % 2 ^ 32)
    else if off = 0x48 then some (d.lockMask 0 32)
    else if off = 0x4C then some (d.lockMask 32 32)
    else if off = 0x50 then some (d.lockMask 64 16)
    else if off = 0x54 then
      some (d.lockMask 80 24 + d.lockMask 108 2 * 2 ^ 24 + d.lockMask 104 4 * 2 ^ 26
        + (if (List.range 8).all fun i => d.locked (110 + i) then 2 ^ 30 else 0))
    else none
  | .sec =>
    if off = 0x40 then some (wput (d.reg p off) 16 9 (min 255 d.tamperCount)).toNat
    else if off = 0x4C then some (maskOf (below 24 fun q => d.ptnState q = psScrubbing))
    else if 0x60 ≤ off && off < 0x80 then some (if d.lc = 1 || d.lc = 2 then numAt d.deviceHash (off - 0x60) 4 else 0)
    else none
  | .boot =>
    if off = 0x44 then some (match d.curRec with | some r => r.active % 65536 + r.trial % 65536 * 65536 | none => 0)
    else if off = 0x50 then some (match d.curRec with | some r => r.lastFail | none => 0)
    else if 0x80 ≤ off && off < 0xC0 then some (wput (d.reg p off) 27 22 (d.svnMin ((off - 0x80) / 4))).toNat
    else if 0x100 ≤ off && off < 0x200 then some (numAt (d.recBlock (d.getF p 0x58 11 0)) (off - 0x100) 4)
    else none
  | .mgt =>
    if off = 0x44 then some (wput (d.reg p off) 14 8 (0x58 + Config.smbStrap.toNat)).toNat
    else if off = 0x48 then some Config.vendorId.toNat
    else none
  | .hbr => if 0x80 ≤ off && off < 0xC0 then some ((d.qp (qpKey p.n (d.getF p 0x58 5 0))).word (off - 0x80)).toNat else none
  | .svc => if off = 0x40 then some (d.services p.n) else none
  | .med => if off = 0x40 then some d.streams.length else none
  | _ => none

/-- Words of the serving, pool and partition pages that follow other state (09, R191; 10, R216, R218; 11, R237). -/
def Dev.servingWord (d : Dev) (p : Page) (off : Nat) : Option Nat :=
  match p.blk with
  | .srv =>
    if p.n = 0 && (off = 0x44 || off = 0x48) then
      let lo := if off = 0x44 then 0 else 32
      some (maskOf (below 32 fun b => (tget? d.batches (lo + b)).isSome))
    else if p.n = 1 && 0x100 ≤ off && off < 0x200 && off % 4 = 0 && (tget? d.csr (p.base + off)).isNone then
      -- the window shows the entry until its first access of bytes 0x100–0x103 takes the copy (10, R216)
      some (d.rq (d.getF (pSrv 0) 0x40 11 0) / 2 ^ (8 * (off - 0x100)) % 2 ^ 32)
    else if p.n = 2 && 0x100 ≤ off && off < 0x110 then some (d.jobRecord (d.getF p 0x40 11 0) / 2 ^ (8 * (off - 0x100)) % 2 ^ 32)
    else none
  | .kvp =>
    if off = 0x50 then some ((d.handlesIn p.n 1).length + (d.handlesIn p.n 2).length * 2 ^ 13)
    else if off = 0x54 then some (d.nodesUsed p.n)
    else if 0x80 ≤ off && off < 0x200 then
      let s := (off - 0x80) / 16
      if off % 16 = 8 then some (if d.poolOn p.n then d.freePages p.n s else 0)
      else if off % 16 = 12 then some (d.sharedPages p.n s)
      else none
    else none
  | .ptn =>
    if off = 0x3A8 then some (setFld (d.reg p off).toNat 2 0 (d.shownGroup p.n))
    else if off = 0x340 then some (d.reqFirst p.n + d.reqCount p.n * 4096)
    else if off = 0x350 then
      let x := d.px p.n
      some ((x.adps.filter (·.current)).length + min 2047 (x.adps.filter fun v => !v.current && !v.installing).length * 512
        + x.adpWaits.length * 2 ^ 20)
    else if off = 0x354 then some (d.liveReqs p.n).length
    else none
  | _ => none

/-- Words of the cluster, stack and DMA pages that follow other state (03, R61; 04, R82; 05, R100; 07, R146; 13, R278, R279; 17, R380, R381). -/
def Dev.unitWord (d : Dev) (p : Page) (off : Nat) : Option Nat :=
  match p.blk with
  | .clu =>
    if off = 0x4C then some (d.clu p.n).parks.length
    else if 0x80 ≤ off && off < 0x100 && off % 16 = 8 then some (d.qStatus p.n ((off - 0x80) / 16))
    else if off = 0x48C then some (sumOver 8 fun b => min 8 (d.sparesUsed p.n b) * 2 ^ (4 * b))
    else if off = 0x490 then some (sumOver 8 fun b => min 8 (d.sparesUsed p.n (8 + b)) * 2 ^ (4 * b))
    else if 0x800 ≤ off && off % 64 = 0 && !d.coreIn p.n ((off - 0x800) / 64) && (d.core p.n ((off - 0x800) / 64)).tile.isNone then
      -- a core that is not in service reads RETIRED, after a reset of the page too (03, R61)
      some (setFld (d.reg p off).toNat 2 0 5)
    else if off = 0x7C8 then some (maskOf (below 32 fun k => (d.core p.n k).tile.isSome || d.coreState p.n k = csParked))
    else none
  | .stk =>
    let s := p.n / 4
    if p.n % 4 = 0 then
      if off = 0x48 then some (tgetD (d.stk s).sealMap (d.getF p 0x44 15 0) 0) else none
    else if p.n % 4 = 1 then
      if off = 0x4C then
        let run := (d.stk s).runs.find? fun r => r.op = 1 || r.op = 2
        some ((match run with | some r => r.op + r.queue % 8 * 4 | none => 0)
          + maskOf (below 4 fun e => (tget? (d.stk s).copiers e).isSome) * 256)
      else if 0x80 ≤ off && off < 0x100 && off % 16 = 8 then some (d.qStatus (0x2000 + s) ((off - 0x80) / 16))
      else none
    else if p.n % 4 = 2 then if off = 0x64 then some (d.stk s).remap.length else none
    else if p.n % 4 = 3 then if off = 0x48 then some (d.stk s).saved.length else none
    else none
  | .dmac =>
    (List.range 4).findSome? fun k => (List.range 2).findSome? fun q =>
      if off = 0x108 + k * 0x380 + 16 * q then some (d.qStatus (0x4000 + 4 * p.n + k) q) else none
  | _ => none

/-- The word of a register as it reads, without what the read clears. -/
def Dev.word (d : Dev) (p : Page) (off : Nat) : Word :=
  match (if off < 0x40 then d.headWord p off
         else (((d.deviceWord p off).or (d.servingWord p off)).or (d.unitWord p off))) with
  | some v => BitVec.ofNat 32 v
  | none => d.reg p off

/-- During a scrub nobody but the security core sees more of a PTN page than its header, of a KVP page anything, of an owned page its counters (16, R345). -/
def Dev.scrubHides (d : Dev) (r : Role) (p : Page) (off : Nat) : Bool :=
  let o := d.owner p
  r ≠ .security && o < 24 && d.ptnState o = psScrubbing &&
    (p.blk = .kvp || (p.blk = .ptn && 0x40 ≤ off) || (match regRow p off with | some w => w.rcl ≠ 0 | none => false))

/-- The destination whose WAITS stands at `off` of a page (14, R313): 64 × device + 62, or + 2 × partition, + 1 for events. -/
def waitsKey (p : Page) (off : Nat) : Option Nat :=
  if p = pDev && off = 0xBC then some 62
  else if p.blk = .ptn && off = 0x41C then some (2 * p.n + 1)
  else if p.blk = .ptn && off = 0x43C then some (2 * p.n) else none

/-- WAITS has counted the wait that goes on. -/
def Dev.waitsNow (d : Dev) (p : Page) (off : Nat) : Dev :=
  match waitsKey p off with
  | none => d
  | some k =>
    let key := 64 * d.devnum + k
    match (tgetD d.dests key {}).waitAt with
    | none => d
    | some t =>
      let d := d.setReg p off (d.reg p off + BitVec.ofNat 32 (d.ao - t))
      { d with dests := tmod d.dests key {} fun y => { y with waitAt := some d.ao } }

/-- A 4-byte read of a page (R4): RCL fields clear; a read of CLK_AO_COUNT_LO latches the high half; the first word of the entry window takes the copy of the entry (10, R216; 20, R443). -/
def Dev.csrRead (d : Dev) (r : Role) (p : Page) (off : Nat) : Dev × Word :=
  if d.scrubHides r p off then (d, 0)
  else
    let d := if p = pClk && off = 0x40 then d.setReg p 0x44 (BitVec.ofNat 32 (d.ao / 2 ^ 32)) else d
    let d := d.waitsNow p off
    let d := if p = pSrv 1 && off = 0x100 then
        d.each (List.range 64) fun d i => d.setReg p (0x100 + 4 * i) (BitVec.ofNat 32 (d.rq (d.getF (pSrv 0) 0x40 11 0) / 2 ^ (32 * i)))
      else d
    let d := d.grow p off
    match if p.blk = .clu && off = 0x408 then (d.clu p.n).march else none with
    | some m =>
      let (x, d) := d.takeFree
      (d, BitVec.ofNat 32 (marchProgress m x))
    | none =>
      let v := d.word p off
      match regRow p off with
      | some w =>
        -- an RCL counter is read as it stood before this ao-cycle's increments, which it then holds (00, R5)
        if w.rcl = 0 then (d, v)
        else if (tget? d.now.adds (p.base + off)).isNone then (d.setReg p off (v &&& ~~~(BitVec.ofNat 32 w.rcl)), v)
        else
          let rest := v &&& ~~~(BitVec.ofNat 32 w.rcl)
          let new := if w.rcl = 0xFFFFFFFF then d.addsNow p off % 2 ^ 32 else min w.rcl (d.addsNow p off)
          let c := d.now
          ({ d.setReg p off (rest + BitVec.ofNat 32 new) with cyc := { c with preAdd := tput c.preAdd (p.base + off) rest } },
           d.preAdd p off)
      | none => (d, v)

end Sys2Proof.Machine
end

