-- ==== Sys2Proof/Machine/CsrWrite.lean ====
section
/-! DEFINITION. What a control-space write does (00, R4, R6; 02, R28–R34; the register tables and their notes). -/

namespace Sys2Proof.Machine

/-! ### Reserved encodings (R6) -/

/-- A field of a register and the values of it that are reserved. -/
structure FieldRule where
  hi : Nat
  lo : Nat
  bad : Nat → Bool

/-- The fields of a register with reserved values. -/
def fieldRules (p : Page) (off : Nat) : List FieldRule :=
  let zero (hi lo : Nat) : FieldRule := ⟨hi, lo, fun v => v = 0⟩
  match p.blk with
  | .clu =>
    if off = 0x40 then [zero 31 0] else if off = 0x68 then [⟨12, 0, fun v => v = 0 || 4096 < v⟩]
    else if off = 0x414 then [⟨24, 1, fun v => v < 128⟩] else []
  | .stk =>
    if p.n % 4 = 1 then (if off = 0x40 then [zero 31 0] else [])
    else if p.n % 4 = 2 then
      (if off = 0x40 then [zero 8 1] else if off = 0x44 then [⟨19, 12, fun v => 128 < v⟩] else [])
    else []
  | .dmac => if off = 0x40 then [zero 31 0] else []
  | .mmu => if off = 0x40 then [zero 31 0] else []
  | .pwr => if off = 0x48 then [zero 31 8] else if off = 0x4C then [zero 23 0] else []
  | .link =>
    if off = 0x54 then [⟨15, 0, fun v => v < 25⟩, zero 19 16]
    else if off = 0x58 then [⟨15, 0, fun v => v < 0x600⟩] else []
  | .ptn =>
    if off = 0x308 || off = 0x314 then [⟨16, 0, fun v => 65536 < v⟩]
    else if off = 0x440 then [⟨7, 0, fun v => v = 0xFF⟩] else []
  | .kvp =>
    if off = 0x4C then [⟨15, 0, fun v => v < 2⟩]
    else if 0x80 ≤ off && off < 0x200 && off % 16 = 0 then [⟨23, 12, fun v => 2048 < v⟩] else []
  | .thm =>
    if off = 0x4C then [⟨11, 0, fun v => v < 0x500 || 0x6E0 < v⟩]
    else if off = 0x50 then [zero 23 0] else []
  | _ => []

/-- The word with every field of a reserved value put back, and whether there was one. -/
def applyRules (old : Word) : List FieldRule → Word → Word × Bool
  | [], v => (v, false)
  | f :: t, v =>
    let (v, b) := applyRules old t v
    if f.bad (wfld v f.hi f.lo) then (wput v f.hi f.lo (wfld old f.hi f.lo), true) else (v, b)

/-- A write by field types (R4): RW bits take the value, W1C bits clear and W1S bits set where it has a 1; a W1C bit of `fresh`, whose condition arose in this ao-cycle, stays set (R5). -/
def storeWord (r : RegRow) (fresh old v : Word) : Word :=
  let m (n : Nat) : Word := BitVec.ofNat 32 n
  let w := (old &&& ~~~(m r.rw)) ||| (v &&& m r.rw)
  (w &&& ~~~(v &&& m r.w1c &&& ~~~fresh)) ||| (v &&& m r.w1s)

/-- The write of a register without a rule of its own. -/
def Dev.storeReg (d : Dev) (p : Page) (off : Nat) (v : Word) : Dev :=
  match regRow p off with
  | none => d
  | some r =>
    let old := d.reg p off
    let (v, bad) := applyRules old (fieldRules p off) v
    let d := d.setReg p off (storeWord r (d.setsNow p off) old v)
    if bad then d.invalid p else d

/-! ### The header (R28–R33) -/

/-- Clearing FAULT clears the fault record and FAULT_OVERFLOW (R32), on a marver page also the failed item (07, R146). A fault of this ao-cycle counts as coming after it (00, R5). -/
def Dev.clearFault (d : Dev) (p : Page) : Dev :=
  match tget? d.now.faults p.base with
  | some (code, info, more) =>
    ((d.setReg p 0x18 (BitVec.ofNat 32 code)).setReg p 0x1C (BitVec.ofNat 32 info)).setF p 0x0C 4 4 (if more then 1 else 0)
  | none =>
    let d := ((d.setReg p 0x18 0).setReg p 0x1C 0).setBit p 0x0C 4 false
    if p.blk = .stk && p.n % 4 = 1 then d.setReg p 0x20C 0 else d

/-- A write of EVENT: bits clear; one that was set before this ao-cycle and whose condition arose again in it counts as cleared and set again, with a further message (00, R5; R33). -/
def Dev.writeEvent (d : Dev) (p : Page) (v : Word) : Dev :=
  let fresh := d.setsNow p 0x10
  let again := v &&& fresh &&& d.preSet p 0x10
  let gone := v &&& ~~~fresh
  let c := d.now
  let pre := if again = 0 then c.preSet else tput c.preSet (p.base + 0x10) (d.preSet p 0x10 &&& ~~~again)
  let d := { d.setReg p 0x10 (d.reg p 0x10 &&& ~~~gone) with
    cyc := { c with preSet := pre }
    evSent := tset d.evSent p.base (d.sentBits p &&& ~~~(gone ||| again)) 0 }
  (if wbit v 0 then d.clearFault p else d).announce p

/-- RESET_REQ (R30). -/
def Dev.resetReq (d : Dev) (p : Page) : Dev :=
  match p.blk with
  | .clu => d.reqCluReset p.n
  | .link => d.reqPortReset p.n
  | .ptn => d.reqPtnReset p.n
  | .dev => d.warmReset
  | _ => d

/-- A write of CTRL as a whole (R31): ENABLE, QUIESCE, TEST, then RESET_REQ. -/
def Dev.writeCtrl (d : Dev) (p : Page) (v : Word) : Dev :=
  let changes := wbit v 0 ≠ d.enabled p || wbit v 1 ≠ d.quiesce p || wbit v 3 ≠ d.bit p 0x08 3
  let d :=
    if d.ctrlShut p then (if changes then d.invalid p else d)
    else ((d.writeEnable p (wbit v 0)).writeQuiesce p (wbit v 1)).writeTest p (wbit v 3)
  if wbit v 2 then d.resetReq p else d

/-- A write of a header register. -/
def Dev.writeHead (d : Dev) (p : Page) (off : Nat) (v : Word) : Dev :=
  if off = 0x08 then d.writeCtrl p v
  else if off = 0x10 then d.writeEvent p v
  else if off = 0x14 then (d.storeReg p off v).announce p
  else d.storeReg p off v

/-! ### Ranges of entries and streams (10, R216; 15, R328) -/

/-- Ranges (first, count) of the other partitions, by the registers at `off` with COUNT from bit `cb`. -/
def Dev.othersRanges (d : Dev) (p : Page) (me cb top : Nat) : List (Nat × Nat) :=
  ((List.range 24).filter fun q => q ≠ me).map fun q => (d.getF p (0x100 + 4 * q) (cb - 1) 0, d.getF p (0x100 + 4 * q) top cb)

/-- A write of a range register: overlap, a range beyond the end and a dropped entry that is in use leave it unchanged. -/
def Dev.writeRange (d : Dev) (p : Page) (me cb top limit : Nat) (used : Nat → Bool) (v : Word) : Dev :=
  let off := 0x100 + 4 * me
  let first := wfld v (cb - 1) 0
  let count := wfld v top cb
  let oldFirst := d.getF p off (cb - 1) 0
  let oldCount := d.getF p off top cb
  let clash := (d.othersRanges p me cb top).any fun r => first < r.1 + r.2 && r.1 < first + count && 0 < count && 0 < r.2
  let drops := (List.range oldCount).any fun i => used (oldFirst + i) && !(first ≤ oldFirst + i && oldFirst + i < first + count)
  if clash || limit < first + count || drops then d.invalid p
  else d.setReg p off (BitVec.ofNat 32 (first + count * 2 ^ cb))

/-! ### Clusters -/

/-- A write of a CLU register at 0x40 and above. -/
def Dev.writeCluReg (d : Dev) (r : Role) (p : Page) (off : Nat) (v : Word) : Dev :=
  let n := p.n
  if off = 0x44 then (if wfld v 31 16 = 0 then d else d.addFlag p (wfld v 5 0) (wfld v 31 16))
  else if off = 0x60 then d.writeUcode n v
  else if off = 0x400 then d.writeSecure r n v
  else if off = 0x404 then d.writeMarch n v
  else if off = 0x498 then d.writeFlipClu n v
  else if off = 0x414 then
    let was := d.bit p 0x414 0
    let d := d.storeReg p off v
    if !was && wbit v 0 then d.modClu n fun c => { c with bgDue := d.ao } else d
  else if off = 0x41C then
    let d := d.storeReg p off v
    if wbit v 3 && !d.bit p off 3 && d.bit p 0x40C 25 && d.bit p 0x40C 24 then d.setReg p 0x40C 0 else d
  else if off = 0x7C0 then
    let was := d.bit p off 0
    let d := d.storeReg p off v
    let o := d.owner p
    if was = d.bit p off 0 then d else if was then d.hcheckOff o else d.hcheckOn o n
  else if 0x800 ≤ off && off % 64 = 4 then
    let d := d.storeReg p off v
    let d := if wbit v 0 && !d.bit p off 0 then d.setReg p (off + 4) 0 else d
    if wbit v 1 && !d.bit p off 1 then d.setReg p (off + 8) 0 else d
  else d.storeReg p off v

/-- A write of a queue's CFG register: a queue that was unbound is bound, one whose WEIGHT becomes 0 is unbound, otherwise the fields are stored (DEDUCED from their type; JOB_BIND is the usual way). -/
def Dev.writeQCfg (d : Dev) (u : UnitKey) (q : Nat) (v : Word) : Dev :=
  let w := wfld v 15 12
  if w = 0 then (if d.qBound u q then d.unbindQ u q else d).setReg (uPage u) (qOff u q) (v &&& 0xFFFF)
  else if d.qBound u q then d.setReg (uPage u) (qOff u q) (v &&& 0xFFFF)
  else d.bindQ u q (wfld v 11 0) w

/-- The queue whose CFG stands at `off` of a page. -/
def cfgQueue (p : Page) (off : Nat) : Option (UnitKey × Nat) :=
  match p.blk with
  | .clu => if 0x80 ≤ off && off < 0x100 && off % 16 = 0 then some (p.n, (off - 0x80) / 16) else none
  | .stk => if p.n % 4 = 1 && 0x80 ≤ off && off < 0x100 && off % 16 = 0 then some (0x2000 + p.n / 4, (off - 0x80) / 16) else none
  | .dmac =>
    (List.range 4).findSome? fun k => (List.range 2).findSome? fun q =>
      if off = 0x100 + k * 0x380 + 16 * q then some (0x4000 + 4 * p.n + k, q) else none
  | _ => none

/-! ### Stacks, partitions, device pages -/

/-- A write of a STK register. -/
def Dev.writeStkReg (d : Dev) (r : Role) (p : Page) (off : Nat) (v : Word) : Dev :=
  let s := p.n / 4
  if p.n % 4 = 0 && off = 0x44 then (if r ≠ .security then d.setEvent p evDenied else d.storeReg p off v)
  else if p.n % 4 = 0 && off = 0x48 then d.writeSeal r s v
  else if p.n % 4 = 1 && off = 0x44 then (if wfld v 31 16 = 0 then d else d.addFlag p (wfld v 5 0) (wfld v 31 16))
  else if p.n % 4 = 2 && 0x104 ≤ off && off < 0x200 && off % 8 = 4 then d.writeFlipStk s ((off - 0x104) / 8) v
  else d.storeReg p off v

/-- A write of the first word of a destination record (14, R308, R313): a ring size outside 12–30 is reserved with METHOD 1; any write restarts the ring. -/
def Dev.writeDest (d : Dev) (p : Page) (off key : Nat) (v : Word) : Dev :=
  let k := wfld v 14 10
  let bad := wbit v 1 && (k < 12 || 30 < k)
  let v := if bad then wput v 14 10 (d.getF p off 14 10) else v
  let d := d.storeReg p off v
  let d := if bad then d.invalid p else d
  d.destRestart key

/-- A write of a PTN register. -/
def Dev.writePtnReg (d : Dev) (r : Role) (p : Page) (off : Nat) (v : Word) : Dev :=
  let n := p.n
  if 0x240 ≤ off && off < 0x2C0 && off % 16 = 12 then d.writeHoldCtrl n ((off - 0x240) / 16) v
  else if off = 0x344 || off = 0x348 || off = 0x34C then
    (if (d.px n).adps.isEmpty && (d.px n).adpWaits.isEmpty then d.storeReg p off v else d.invalid p)
  else if off = 0x400 then d.writeDest p off (64 * d.devnum + 2 * n + 1) v
  else if off = 0x420 then d.writeDest p off (64 * d.devnum + 2 * n) v
  else if off = 0x440 then
    (match r with | .partition _ => d.setEvent p evDenied | _ => d.storeReg p off v)
  else d.storeReg p off v

/-- A write of a KVP register: the pool's ranges and window are closed while the pool is enabled (09, R175). -/
def Dev.writeKvpReg (d : Dev) (p : Page) (off : Nat) (v : Word) : Dev :=
  let shut := (off = 0x44 || off = 0x48 || off = 0x4C || (0x80 ≤ off && off < 0x200 && off % 16 < 8))
  if shut && d.poolOn p.n then d.invalid p else d.storeReg p off v

/-- A write of a THM register (R396). -/
def Dev.writeThmReg (d : Dev) (off : Nat) (v : Word) : Dev :=
  let p := pThm
  if off = 0x40 then d.writeThmCtrl v
  else if off = 0x48 then
    (if 0 < wfld v 7 0 && wfld v 7 0 < wfld v 15 8 && wfld v 15 8 < wfld v 23 16 then d.storeReg p off v else d.invalid p)
  else if off = 0x54 then
    let badS := wfld v 9 0 < 100 || 480 < wfld v 9 0
    let v := if badS then wput v 9 0 (d.getF p off 9 0) else v
    let badP := wfld v 19 10 < wfld v 9 0 || 600 < wfld v 19 10
    let v := if badP then wput v 19 10 (d.getF p off 19 10) else v
    let d := d.storeReg p off v
    if badS || badP then d.invalid p else d
  else d.storeReg p off v

/-- A write of a DEV register: DEV_GROUP is closed while a path is open (14, R294); in frit mode the device stays its own bridge (19, R407); a route through a port that carries frames has its path opened (14, R287: DESIGN CHOICE). -/
def Dev.writeDevReg (d : Dev) (off : Nat) (v : Word) : Dev :=
  let p := pDev
  if off = 0x80 then
    (if (List.range 64).any fun i => d.getF p (0x300 + 4 * i) 15 0 ≠ 0 then d.invalid p
     else d.storeReg p off (if d.frit then wputBit v 8 true else v))
  else if off = 0xA0 then d.writeDest p off (64 * d.devnum + 62) v
  else if 0x104 ≤ off && off < 0x300 && off % 8 = 4 then
    let peer := (off - 0x104) / 8
    let d := d.storeReg p off v
    if peer = d.devnum then d else d.each (maskBits 16 (d.getF p off 31 16)) fun d n => d.askOpen n peer
  else d.storeReg p off v

/-- A write of an HBR register: bridge mode needs DEV_GROUP.BRIDGE (14, R296). -/
def Dev.writeHbrReg (d : Dev) (p : Page) (off : Nat) (v : Word) : Dev :=
  if 0x80 ≤ off && off < 0xC0 then d.writeQp p.n (off - 0x80) v
  else if off = 0x40 && wbit v 0 && !d.bit pDev 0x80 8 then d.invalid p
  else d.storeReg p off v

/-- A 4-byte write of a page by a requester that may write it. -/
def Dev.csrWrite (d : Dev) (r : Role) (p : Page) (off : Nat) (v : Word) : Dev :=
  if off < 0x40 then d.writeHead p off v
  else match cfgQueue p off with
  | some (u, q) => d.writeQCfg u q v
  | none =>
    match p.blk with
    | .clu => d.writeCluReg r p off v
    | .stk => d.writeStkReg r p off v
    | .ptn => d.writePtnReg r p off v
    | .kvp => d.writeKvpReg p off v
    | .thm => d.writeThmReg off v
    | .dev => d.writeDevReg off v
    | .hbr => d.writeHbrReg p off v
    | .pwr =>
      if off = 0x40 then d.powerReq (wfld v 1 0)
      else if 0x100 ≤ off && off < 0x2C0 && off % 4 = 0 then d.writeDom ((off - 0x100) / 4) v
      else d.storeReg p off v
    | .link => if off = 0x50 then d.writeRecal p.n v else d.storeReg p off v
    | .srv =>
      if p.n = 0 && 0x100 ≤ off && off < 0x160 && off % 4 = 0 then
        d.writeRange p ((off - 0x100) / 4) 12 24 4096 (fun i => rqState (d.rq i) ≠ 0) v
      else if p.n = 0 && off = 0x40 then
        -- another entry: the window's copy is taken anew (10, R216)
        let d := d.storeReg p off v
        { d with csr := tdelRange d.csr ((pSrv 1).base + 0x100) ((pSrv 1).base + 0x200) }
      else d.storeReg p off v
    | .med =>
      if 0x100 ≤ off && off < 0x160 && off % 4 = 0 then
        d.writeRange p ((off - 0x100) / 4) 10 20 1024 (fun i => (tget? d.streams i).isSome) v
      else d.storeReg p off v
    | _ => d.storeReg p off v

end Sys2Proof.Machine
end

