-- ==== Sys2Proof/Machine/Csr.lean ====
section
/-! DEFINITION. Control-space accesses by any requester (02, R25–R36): size, alignment and page, access rights, the domain of the page; the commands that make them, and the CSR item (14, R303; 19, R408). -/

namespace Sys2Proof.Machine

/-- A 4-byte read in a role of the register at `off`; the header answers whatever the state of the domain (R34). -/
def Dev.readWord (d : Dev) (r : Role) (p : Page) (off : Nat) : Dev :=
  d.guardRead r p (off < 0x40) fun d => d.csrRead r p off

/-- A 4-byte write in a role. -/
def Dev.writeWord (d : Dev) (r : Role) (p : Page) (off : Nat) (v : Word) : Dev :=
  if off < 0x40 then
    if !d.pwr.up then d.refuse
    else if !d.mayAccess r p true then d.deny p
    else
      let (d, v) := d.endIdle.roleOrder r p off v
      (d.writeHead p off v).answer 0
  else d.guardPut r p off v fun d v => d.csrWrite r p off v

/-- The access is of a kind that pages perform: 4 bytes or 8, aligned (R25, R26). -/
def goodAccess (off size : Nat) : Bool := (size = 4 || size = 8) && off % size = 0

/-- A read of `size` bytes at a control-space offset: 8 bytes as two reads, the lower first (R25). -/
def Dev.readAccess (d : Dev) (r : Role) (off size : Nat) : Dev :=
  match pageOf off with
  | none => d.refuse
  | some p =>
    if !goodAccess off size then d.refuse
    else if size = 4 then d.readWord r p (off % 0x1000)
    else
      let d := d.readWord r p (off % 0x1000)
      let lo := d.resp
      let d := d.readWord r p (off % 0x1000 + 4)
      { d with resp := (d.resp <<< 32) ||| lo }

/-- A write of `size` bytes at a control-space offset. -/
def Dev.writeAccess (d : Dev) (r : Role) (off size : Nat) (v : BitVec 64) : Dev :=
  match pageOf off with
  | none => d.refuse
  | some p =>
    if !goodAccess off size then d.refuse
    else if size = 4 then d.writeWord r p (off % 0x1000) (v.setWidth 32)
    else (d.writeWord r p (off % 0x1000) (v.setWidth 32)).writeWord r p (off % 0x1000 + 4) ((v >>> 32).setWidth 32)

/-- REGISTER_WRITE: any control-space write; a register that has a row of its own acts as that row says. -/
def execRegisterWrite (r : Role) (off : BitVec 26) (size : Fin 65) (v : BitVec 64) (s : State) : Out := s.upd fun d =>
  d.writeAccess r off.toNat size v

/-- RCL_READ: any control-space read; RCL fields clear (R4). -/
def execRclRead (r : Role) (off : BitVec 26) (size : Fin 65) (s : State) : Out := s.upd fun d =>
  d.readAccess r off.toNat size

/-- AO_COUNT_READ (20, R443). -/
def execAoCountRead (r : Role) (s : State) : Out := s.upd fun d => d.readWord r pClk 0x40

/-- ENTRY_WINDOW_READ (10, R216). -/
def execEntryWindowRead (r : Role) (s : State) : Out := s.upd fun d => d.readWord r (pSrv 1) 0x100

/-- A write of the CTRL field at bit `b` of the page at page index `i`; the other fields are written as they are. -/
def Dev.ctrlWrite (d : Dev) (r : Role) (i b : Nat) (v : Bool) (f : Dev → Page → Bool → Dev) : Dev :=
  match pageAt i with
  | none => d.refuse
  | some p =>
    if !d.pwr.up then d.refuse
    else if !d.mayAccess r p true then d.deny p
    else
      let (d, w) := d.endIdle.roleOrder r p 0x08 (wputBit (d.reg p 0x08) b v)
      (f d p (wbit w b)).answer 0

/-- CTRL_ENABLE, CTRL_QUIESCE, CTRL_TEST (R31). -/
def execCtrlEnable (r : Role) (i : Fin 0x1410) (v : Bool) (s : State) : Out := s.upd fun d => d.ctrlWrite r i 0 v fun d p v => d.writeEnable p v
def execCtrlQuiesce (r : Role) (i : Fin 0x1410) (v : Bool) (s : State) : Out := s.upd fun d => d.ctrlWrite r i 1 v fun d p v => d.writeQuiesce p v
def execCtrlTest (r : Role) (i : Fin 0x1410) (v : Bool) (s : State) : Out := s.upd fun d => d.ctrlWrite r i 3 v fun d p v => d.writeTest p v

/-- QUIESCE_COMPLETE (R31). -/
def execQuiesceComplete (i : Fin 0x1410) (s : State) : Out := s.upd fun d =>
  match pageAt i with
  | some p => d.quiesceEnds p
  | none => d

/-- Pages that a CSR item reaches in frit mode (19, R408). -/
def fritCsr (off : Nat) (write : Bool) : Bool :=
  match pageOf off with
  | some p => p = pDev || p = pBoot || p = pMgt || p = pThm || p = pLink 0 || p = pHbr 0 || (p = pSec && !write)
  | none => false

/-- The role of an item's message. -/
def itemRole (ptn : Nat) : Role := if h : ptn < 24 then .partition ⟨ptn, h⟩ else .operator

/-- A CSR item: one read or write; INFO is the value read. A refused access has the outcome XLATE_PERM (R26), whose INFO the spec does not give here. -/
def Dev.csrItem (d : Dev) (i : Item) : Dev :=
  let off := numAt i.body 0 4
  let write := bitsAt i.body 32 32 = 1
  if d.frit && !fritCsr off write then d.endItem i 0x9008 0x0004
  else
    let r := itemRole i.ptn
    let d := if 2 ^ 26 ≤ off then d.refuse
      else if write then d.writeAccess r off 4 (BitVec.ofNat 64 (numAt i.body 8 4)) else d.readAccess r off 4
    if d.respRefused then
      let (v, d) := d.takeFree
      d.endItem i 0x4002 (v % 2 ^ 32)
    else d.endItem i 0 (if write then 0 else d.resp.toNat)

/-- CSR (R302, R303). -/
def execCsr (p : Fin 25) (s : State) : Out := s.upd fun d => d.serveItem p 0x0004 Dev.csrItem

end Sys2Proof.Machine
end

