-- ==== Sys2Proof/Machine/Intake.lean ====
section
/-! DEFINITION. The intake (14, R301–R304; 16, R333): the checks of a work message on its arrival, messages that are held, and the ENQ items. -/

namespace Sys2Proof.Machine

/-- The items that follow one another in `bs`: KIND and body; none unless `n` items, each with a header whose bytes 2–3 are zero and a length that is a multiple of 8, fill it exactly. -/
def parseItems : Nat → List Byte → Option (List (Nat × List Byte))
  | 0, bs => if bs.isEmpty then some [] else none
  | n + 1, bs =>
    let len := numAt bs 4 4
    if bs.length < 8 || numAt bs 2 2 ≠ 0 || len % 8 ≠ 0 || bs.length < 8 + len then none
    else (parseItems n (bs.drop (8 + len))).map fun l => (numAt bs 0 2, (bs.drop 8).take len) :: l

/-- The items of a work message that passes the whole-message checks of R303. -/
def parseWork (bs : List Byte) : Option (List (Nat × List Byte)) :=
  let items := numAt bs 0x12 2
  if bs.length < 64 || 1048576 < bs.length || bs.length % 8 ≠ 0 || numAt bs 0 4 ≠ 0x51574D31 || numAt bs 4 4 ≠ bs.length
      || items = 0 || 4096 < items || 3 < numAt bs 0x14 1 || !((bs.drop 0x15).take 0x2B).all (· = 0)
  then none
  else parseItems items (bs.drop 64)

/-- Answer a message that is refused whole: STATUS 2, every item ITEM_SKIPPED (R304). -/
def Dev.refuseWork (d : Dev) (ptn : Nat) (bs : List Byte) (code : Nat) (eid : Option Nat) : Dev :=
  let n := numAt bs 0x12 2
  let c := doneMsg d.devnum ptn 2 (numAt bs 8 8) n 0 code (List.replicate n (cItemSkipped, 0))
  match eid with
  | some e => d.mgtSend e 0x02 c
  | none => d.sendUp c

/-- A work message has arrived whole: it is refused, or joins the messages that the intake holds. `qp` is the queue pair that carried it, `eid` the endpoint that sent it on the management port, which carries operator messages alone (20, R439). -/
def Dev.arriveBy (d : Dev) (bs : List Byte) (qp : Option (Nat × Nat × Nat)) (eid : Option Nat) : Dev :=
  let ptn := numAt bs 0x11 1
  match parseWork bs with
  | none => d.refuseWork ptn bs cMsgInvalid eid
  | some items =>
    if ptn ≠ 0xFF && (eid.isSome || !(ptn < 24 && d.ptnExists ptn)) then d.refuseWork ptn bs cMsgRole eid
    else
      let st := d.ptnState ptn
      if ptn ≠ 0xFF && st = psScrubbing then d.refuseWork 0xFF bs cPtnState eid
      else if ptn ≠ 0xFF && (st = stReady || st = stTest || st = stFaulted) then d.refuseWork ptn bs cPtnState eid
      else
        let m : WorkMsg := ⟨d.nextId + 1, ptn, d.devnum, numAt bs 8 8, numAt bs 0x14 1, items, [], 0, false, qp, eid⟩
        ({ d with nextId := d.nextId + 1, work := d.work ++ [m] } : Dev).settle ptn

/-- A work message that a link or a queue pair has brought. -/
def Dev.arrive (d : Dev) (bs : List Byte) (qp : Option (Nat × Nat × Nat)) : Dev := d.arriveBy bs qp none

/-- WORK_MESSAGE (R303): a whole message; `qp` names the bridge device, the port and the slot of the queue pair that carried it. A message ends IDLE (20, R436). -/
def execWorkMessage (bs : List (BitVec 8)) (qp : Option (Fin 64 × Fin 4 × Fin 64)) (s : State) : Out := s.upd fun d =>
  if !d.pwr.up then d
  else d.endIdle.arrive bs (qp.map fun q => (q.1.val, q.2.1.val, q.2.2.val))

/-- HELD_MESSAGE_RELEASE (16, R333): the messages of a partition that has become ACTIVE are performed. -/
def execHeldMessageRelease (p : Fin 24) (s : State) : Out := s.upd fun d => d.settle p

/-! ### ENQ (R302, R303) -/

/-- The reason, 1 to 5, for which an ENQ item is refused; 0 when it is accepted. `n` is the number of units of its kind. -/
def Dev.enqReason (d : Dev) (ptn : Nat) (u : UnitKey) (inRange : Bool) (q count len : Nat) : Nat :=
  if !inRange || d.owner (uPage u) ≠ ptn then 1
  else if uQueues u ≤ q || !d.qBound u q then 2
  else if q = 0 then 3
  else if (d.job (d.qJob u q)).state = 2 then 4
  else if len ≠ count * cmdBytes u then 5
  else 0

/-- An ENQ item of units `base`, of which there are `n`: its commands go before the queue, and its outcome follows once all of them are appended. -/
def Dev.enq (d : Dev) (base n : Nat) (i : Item) : Dev :=
  let k := numAt i.body 0 2
  let q := numAt i.body 2 1
  let count := numAt i.body 4 4
  let u := base + k
  let cmds := i.body.drop 8
  -- an item body is padded to 8 bytes only where it is shorter; ENQ bodies hold whole commands
  let r := d.enqReason i.ptn u (k < n) q count cmds.length
  if r ≠ 0 then d.endItem i cJobState r
  else if count = 0 then d.endItem i 0 0
  else d.feed u q ((List.range count).map fun j => (cmds.drop (cmdBytes u * j)).take (cmdBytes u)) i.msg i.item

/-- ENQ_CLUSTER. -/
def execEnqCluster (p : Fin 25) (s : State) : Out := s.upd fun d => d.serveItem p 0x0001 fun d i => d.enq 0 800 i

/-- ENQ_MARVER. -/
def execEnqMarver (p : Fin 25) (s : State) : Out := s.upd fun d => d.serveItem p 0x0002 fun d i => d.enq 0x2000 24 i

/-- ENQ_DMA. -/
def execEnqDma (p : Fin 25) (s : State) : Out := s.upd fun d => d.serveItem p 0x0003 fun d i => d.enq 0x4000 256 i

end Sys2Proof.Machine
end

