-- ==== Sys2Proof/Machine/LinkRx.lean ====
section
/-! DEFINITION. The receiving side of the Treltan link (14, R286–R293; 20, R436): acceptance of frames, remote operations at their target, responses at their requester, messages under assembly. -/

namespace Sys2Proof.Machine

/-! ### What the bridge does with an answer to a relay (R299; 17, R366, R367) -/

/-- POISON_EGRESS (17, R367): to the device destination, and to the event destination of the partition bound to the queue pair; for a partition of another device the bridge makes the event message itself, whose SEQ is a free value (R306 numbers a destination's records on its own device). -/
def Dev.poisonEgress (d : Dev) (n slot dpa : Nat) : Dev :=
  let body := leBytes 1 n ++ leBytes 1 slot ++ List.replicate 6 0 ++ leBytes 8 dpa
  let q := d.qp (qpKey n slot)
  let d := d.record 0xFF 0x0103 body
  if q.role ≠ 2 then d
  else if q.dev = d.devnum then d.record q.ptn 0x0103 body
  else
    let (seq, d) := d.takeFree
    d.toDest (leBytes 4 80 ++ leBytes 1 clsEvent ++ leBytes 1 q.dev ++ leBytes 1 q.ptn ++ leBytes 1 1 ++ leBytes 8 (seq % 2 ^ 64)
      ++ EvRec.bytes ⟨q.ptn, d.ao, 0x0103, body⟩)

/-- Data of RDMA READ `rid` have come back: they go to the host; marked data end the read (17, R366). -/
def Dev.relayData (d : Dev) (n slot rid off : Nat) (data : List Byte) (poison : Option Nat) : Dev :=
  let k := qpKey n slot
  match (d.qp k).reads.find? fun r => r.rid = rid with
  | none => d
  | some r =>
    match poison with
    | some i =>
      -- the DPA of a marked unit is known for a group address and for a PVA of this device's partition; behind a PVA of another device it is a free value
      let q := d.qp k
      let here : Option Nat := if q.role = 1 then some ((r.va + off) % 2 ^ 44 / 64 * 64 + 64 * i)
        else if q.dev ≠ d.devnum then none
        else match (d.xlRange none q.ptn (r.va + off + 64 * i) 1 false).2 with
          | .ok (s :: _) => some (unitBase s.dpa)
          | _ => none
      let (free, e) := d.takeFree
      let (x, d) := match here with | some x => (x, d) | none => (free % 2 ^ 38 * 64, e)
      let d := if q.role = 2 && q.dev = d.devnum then d.poisonLast q.ptn x else d
      (d.poisonEgress n slot x).hostNak n slot r.psn synAccess
    | none =>
      let d := d.modQp k fun q => { q with reads := (q.reads.map fun (x : HostRead) => if x.rid = rid then { x with sent := x.sent + data.length } else x).filter fun x => x.sent < x.len }
      (d.out (.hostData n slot (d.roce n slot r.psn) off data)).addCount (pHbr n) 0x60 ((d.qp k).packets data.length)

/-- A relayed operation of the host was refused: Remote Access Error (R299). -/
def Dev.relayRefused (d : Dev) (n slot psn : Nat) : Dev :=
  if (d.qp (qpKey n slot)).st = qsRts then d.hostNak n slot psn synAccess else d

/-- A write that the bridge relays for a HOST_PULL or that the security core made for an item was refused: the item takes the code. -/
def Dev.itemWriteRefused (d : Dev) (id code : Nat) : Dev :=
  let info := xInfo ⟨code, 0, 0, true, true⟩ 0 true 0 0
  match d.pulls.find? fun p => p.ids.contains id with
  | some p => ({ d with pulls := d.pulls.filter fun x => !x.ids.contains id } : Dev).post p.msg p.item code info
  | none =>
    match d.replyWaits.find? fun w => w.1.contains id with
    | some w => ({ d with replyWaits := d.replyWaits.filter fun x => !x.1.contains id } : Dev).post w.2.1 w.2.2 code info
    | none => d

/-- The posted write of the bridge with frame number `id` was refused. -/
def Dev.postedRefused (d : Dev) (id code : Nat) : Dev :=
  match d.qps.find? fun q => q.2.writes.any fun w => w.ids.contains id with
  | some q =>
    match q.2.writes.find? fun w => w.ids.contains id with
    | some w => d.relayRefused (q.1 / 64) (q.1 % 64) w.psn
    | none => d
  | none => d.itemWriteRefused id code

/-- The frame that a REFUSE without TAG answers, of those that the device sent for itself on a path (R292; the frame names none: DESIGN CHOICE): the oldest that DONE_SEQ does not cover, else the oldest of a write to the peer that is not acknowledged. -/
def Dev.refusedId (d : Dev) (k : Nat) (openIds : List Nat) : Option Nat :=
  let mine := (d.qps.flatMap fun q => q.2.writes.flatMap HostWrite.ids) ++ d.pulls.flatMap Pull.ids ++ d.replyWaits.flatMap Prod.fst
  match openIds.find? fun i => mine.contains i with
  | some i => some i
  | none =>
    (d.qps.flatMap fun q => if q.2.role = 1 || q.2.dev = k % 64 then q.2.writes.flatMap HostWrite.ids else []).head?

/-! ### Responses at the requester (R285, R288, R292, R308) -/

/-- The consumed count of a ring has been read. -/
def Dev.ringRead (d : Dev) (key : Nat) (v : Option Nat) : Dev :=
  { d with dests := tmod d.dests key {} fun (y : DestState) => { y with reading := false, consumed := v.getD y.consumed } }

/-- An answer to a read of another device. -/
def Dev.farGot (d : Dev) (who dev dpa : Nat) (f : FarRead → FarRead) : Dev :=
  { d with far := d.far.map fun x => if x.who = who && x.dev = dev && x.dpa = dpa then f x else x }

/-- A READ_RESP or ATOMIC_RESP: its bytes go to what awaits them. -/
def Dev.takeResp (d : Dev) (k : Nat) (f : Frame) : Dev :=
  match d.reqs.find? fun r => r.path = k && r.tag = f.tag with
  | none => d
  | some r =>
    let got := r.got + f.data.length
    let last := r.len ≤ got
    let this (x : RemReq) : Bool := x.path = k && x.tag = f.tag
    let left := if last then d.reqs.filter (!this ·) else d.reqs.map fun (x : RemReq) => if this x then { x with got := got } else x
    let d := { d with reqs := left }
    match r.what with
    | .dma e q u pva => d.dmaGot e q u (pva + r.got) r.tag last f.data f.poison
    | .relay n slot rid off => d.relayData n slot rid (off + r.got) f.data (lowest (ceilDiv f.data.length 64) f.poison)
    | .ring key => d.ringRead key (some (numAt f.data 0 8))
    | .far who dev dpa => d.farGot who dev dpa fun x => { x with got := x.got ++ f.data, marked := x.marked || (lowest (ceilDiv f.data.length 64) f.poison).isSome }

/-- FAULT_INFO of a remote refusal (13, R275): bit 9, the queue, the unit, a write. -/
def remoteInfo (u q : Nat) (write : Bool) (level : Nat) : Nat :=
  xInfo ⟨0, level, 0, false, true⟩ q write (if u < 0x2000 then 1 else if u < 0x4000 then 2 else 0) (u % 0x2000)

/-- A code of R7: class 1 to A, low twelve bits not zero. -/
def faultCode (c : Nat) : Bool := 1 ≤ c / 4096 && c / 4096 ≤ 10 && c % 4096 ≠ 0

/-- A translation fault (13, R275). -/
def isXlate (c : Nat) : Bool := c = cXlateMiss || c = cXlatePerm

/-- A REFUSE frame (R292). `openIds` are the frames that DONE_SEQ did not cover before it. -/
def Dev.takeRefuse (d : Dev) (k : Nat) (openIds : List Nat) (f : Frame) : Dev :=
  let req := d.reqs.find? fun r => r.path = k && r.tag = f.tag
  let d := { d with reqs := d.reqs.filter fun r => !(r.path = k && r.tag = f.tag) }
  -- a CODE that is none of R7 is taken as XLATE_PERM
  let code := if faultCode f.code then f.code else cXlatePerm
  match req with
  | some r =>
    match r.what with
    | .dma e q k pva =>
      let x := tget? (d.dma e).xfers q
      let write : Bool := match x with | some x => fld x.cmd.toNat 7 0 = 5 | none => false
      let leaf := match x with
        | some x => (x.flight.find? fun (u : DUnit) => u.k = k).bind fun u => (u.rd ++ u.wr).find? fun (s : Seg) => s.pva = pva / 65536 * 65536
        | none => none
      let d := if isXlate code then d.lastFault (d.job r.job).ptn pva else d
      if d.qJob (0x4000 + e) q = r.job then d.jobFault (0x4000 + e) q r.job code (remoteInfo (0x4000 + e) q write ((leaf.map Seg.level).getD 0))
      else d.linkFault r.job [] code 512
    | .relay n slot rid _ =>
      match (d.qp (qpKey n slot)).reads.find? fun x => x.rid = rid with
      | some x => d.relayRefused n slot x.psn
      | none => d
    | .ring key => d.ringRead key none
    | .far who dev dpa => d.farGot who dev dpa fun x => { x with refused := some code }
  | none =>
    if f.job ≠ noJob then
      match d.linkQueue f.job openIds with
      | some (u, q) => d.linkFault f.job openIds code (remoteInfo u q true 0)
      | none => d.linkFault f.job openIds code 512
    else match d.refusedId k openIds with
      | some id => d.postedRefused id code
      | none => d

/-! ### Operations at the target (R288, R291, R292) -/

/-- Answer an operation on the port on which it arrived; nothing is answered on a path that has closed, and a relay of the bridge's own takes its answer at once. -/
def Dev.respond (d : Dev) (o : InOp) (op : Nat) (fields : List (Nat × Nat)) (data : List Byte) : Dev :=
  let peer := o.path % 64
  let f := d.dataFrame peer op o.frame.job o.frame.domain ([(172, data.length), (224, o.frame.tag)] ++ fields) data
  if o.path = closedPath then d
  else if o.path = localPath then d.takeResp localPath f
  else
    let (id, d) := d.takeId
    d.enqueue (o.path / 64) peer id f

/-- Refuse an operation: it has no effect. -/
def Dev.refuseOp (d : Dev) (o : InOp) (code : Nat) : Dev :=
  if o.path = localPath && (o.frame.op = opWrite || o.frame.op = opPvaWrite) then d.postedRefused o.seq code
  else if o.path = localPath then d.takeRefuse localPath [] ⟨o.frame.hdr ||| BitVec.ofNat 512 (code * 2 ^ 304), []⟩
  else
    let fields := if o.frame.op = opWrite || o.frame.op = opPvaWrite || o.frame.op = opFlagAdd then [(304, code)] else [(224, o.frame.tag), (304, code)]
    let peer := o.path % 64
    if o.path = closedPath then d
    else
      let (id, d) := d.takeId
      d.enqueue (o.path / 64) peer id (d.dataFrame peer opRefuse o.frame.job o.frame.domain fields [])

/-- The link-domain check against a partition (R291): domain 0xFE admits nothing; memory that no partition owns admits the operator role alone. -/
def Dev.domainOk (d : Dev) (f : Frame) (owner : Nat) : Bool :=
  f.domain = opDomain || (owner < 24 && f.domain = d.linkDomain owner && f.domain ≠ 0xFE)

/-- Write a payload, each unit of memory with the mark of the payload bursts that cover it (17, R366). -/
def Dev.putPayload (f : Frame) : Nat → Dev → Agent → Nat → Nat → Nat → Dev
  | 0, d, _, _, _, _ => d
  | k + 1, d, ag, a, from_, n =>
    if n = 0 then d
    else
      let u := unitSize a
      let c := min n (u - a % u)
      let m := f.poison (from_ / 64) || f.poison ((from_ + c - 1) / 64)
      let d := (d.writeMem ag a ((f.data.drop from_).take c) m).1
      Dev.putPayload f k d ag (a + c) (from_ + c) (n - c)

/-- Write the whole payload over segments. -/
def Dev.putPayloadSegs (d : Dev) (f : Frame) (ag : Agent) (pva : Nat) (l : List Seg) : Dev :=
  l.foldl (fun (d : Dev) s => Dev.putPayload f (s.len + 1) d ag s.dpa (s.pva - pva) s.len) d

/-- The read data of a request go back in frames of up to 8,192 bytes, with the marks of their bursts. -/
def Dev.respondData (d : Dev) (o : InOp) (bs : List Byte) (marked : Nat → Bool) : Dev :=
  (List.range (max 1 (ceilDiv bs.length 8192))).foldl (fun (d : Dev) i =>
    let part := (bs.drop (8192 * i)).take 8192
    let m := maskOf ((List.range (ceilDiv part.length 64)).filter fun j => marked (128 * i + j))
    d.respond o opReadResp [(384, m)] part) d

/-- An operation by DPA that lies in control space: 4 or 8 bytes in the operator role (R291; 02, R25, R26). -/
def Dev.ctlOp (d : Dev) (o : InOp) (off : Nat) : Dev :=
  let f := o.frame
  if f.domain ≠ opDomain then d.refuseOp o cXlatePerm
  else if f.op = opWrite then
    let d := d.writeAccess .operator off f.data.length (BitVec.ofNat 64 (leNat f.data))
    if d.respRefused then d.refuseOp o cXlatePerm else d
  else if f.op = opRead then
    let d := d.readAccess .operator off f.len
    if d.respRefused then d.refuseOp o cXlatePerm else d.respondData o (leBytes f.len d.resp.toNat) fun _ => false
  else d.refuseOp o cXlatePerm

/-- WRITE, READ or ATOMIC by DPA; none while the memory does not answer. -/
def Dev.dpaOp (d : Dev) (o : InOp) : Dev × Bool :=
  let f := o.frame
  let n := if f.op = opWrite then f.data.length else if f.op = opRead then f.len else 32
  let a := if f.op = opAtomic then f.addr / 32 * 32 else f.addr
  match loc a, loc (a + (n - 1)) with
  | .ctl off, .ctl _ => (d.ctlOp o off, true)
  | .stack .., .stack .. | .buf .., .buf .. =>
    if !d.domainOk f (d.memOwner a) then (d.refuseOp o cXlatePerm, true)
    else if !d.memReady a then (d.memDemand a, false)
    else if !d.memReady (a + (n - 1)) then (d.memDemand (a + (n - 1)), false)
    else if f.op = opWrite then (Dev.putPayload f (n + 1) d agDevice a 0 n, true)
    else if f.op = opRead then
      let d := (d.noteErrs a n).noteSecure agDevice a n
      (d.respondData o (d.readMem agDevice a n) fun i => d.markedAt (a + 64 * i) (min 64 (n - 64 * i)), true)
    else
      match d.atomicAt agDevice a f.aop f.lanes f.data with
      | (d, .poison u) => ((if d.memOwner a < 24 then d.poisonLast (d.memOwner a) u else d).refuseOp o cPoison, true)
      | (d, .denied) => (if f.ret then d.respond o opAtomicResp [] (d.readMem agDevice a 32) else d, true)
      | (d, .done old m) => (if f.ret then d.respond o opAtomicResp [(384, if m then 1 else 0)] old else d, true)
  | _, _ => (d.refuseOp o cXlatePerm, true)

/-- The flag register that a FLAG_ADD names: stack and target. -/
def flagTarget (a : Nat) : Option (Bool × Nat) :=
  match lowest 800 fun n => flagReg false n = a with
  | some n => some (false, n)
  | none => (lowest 24 fun s => flagReg true s = a).map fun s => (true, s)

/-- FLAG_ADD (R288, R291): an amount of 0 changes nothing. -/
def Dev.flagAddOp (d : Dev) (o : InOp) : Dev :=
  let f := o.frame
  match flagTarget f.addr with
  | none => d.refuseOp o cXlatePerm
  | some (stack, t) =>
    let w := numAt f.data 0 4
    if !d.domainOk f (d.owner (if stack then pStk t 1 else pClu t)) then d.refuseOp o cXlatePerm
    else if stack then d.signalStk t (fld w 5 0) (fld w 31 16) else d.signalClu t (fld w 5 0) (fld w 31 16)

/-- Bytes that reached a HOST_PULL of this device from another bridge: the item ends with the last of them. -/
def Dev.pullArrived (d : Dev) (ptn pva n : Nat) : Dev :=
  match d.pulls.find? fun p => p.ptn = ptn && p.pva ≤ pva && pva + n ≤ p.pva + p.len && p.ids.isEmpty with
  | none => d
  | some p =>
    if p.len ≤ p.got + n then ({ d with pulls := d.pulls.filter fun x => !(x.msg = p.msg && x.item = p.item) } : Dev).post p.msg p.item 0 0
    else { d with pulls := d.pulls.map fun (x : Pull) => if x.msg = p.msg && x.item = p.item then { x with got := x.got + n } else x }

/-- A relay write into a HOST_PULL of this device is refused: the item takes the translation's code (R302, R303). -/
def Dev.pullRefused (d : Dev) (ptn pva n : Nat) (x : XFault) : Dev :=
  match d.pulls.find? fun p => p.ptn = ptn && p.pva ≤ pva && pva + n ≤ p.pva + p.len && p.ids.isEmpty with
  | none => d
  | some p => ({ d with pulls := d.pulls.filter fun y => !(y.msg = p.msg && y.item = p.item) } : Dev).post p.msg p.item x.code (xInfo x 0 true 0 0)

/-- PVA_WRITE or PVA_READ (R298): through the tables of partition PTN; a leaf of another device is refused, since the bridge alone forwards. -/
def Dev.pvaOp (d : Dev) (o : InOp) : Dev × Bool :=
  let f := o.frame
  let write : Bool := f.op = opPvaWrite
  let n := if write then f.data.length else f.len
  let refuse (d : Dev) (x : XFault) : Dev :=
    (if write && o.path ≠ localPath then d.pullRefused f.ptn f.pva n x else d).refuseOp o x.code
  let perm (level : Nat) : XFault := ⟨cXlatePerm, level, f.pva, true, false⟩
  if !(f.ptn < 24 && d.ptnExists f.ptn) || !d.domainOk f f.ptn then (refuse d (perm 0), true)
  else
    match d.xlRange none f.ptn f.pva n write with
    | (d, .error x) => (refuse d x, true)
    | (e, .ok l) =>
      if l.any fun s => s.remote then (refuse e (perm 1), true)
      else if !d.segsReady l then (d.segsDemand l, false)
      else if write then
        let d := e.putPayloadSegs f (agPtn f.ptn none) f.pva l
        (if o.path = localPath then d else d.pullArrived f.ptn f.pva n, true)
      else
        let d := l.foldl (fun (d : Dev) s => (d.noteErrs s.dpa s.len).noteSecure (agPtn f.ptn none) s.dpa s.len) e
        let bs := d.readSegs (agPtn f.ptn none) l
        (d.respondData o bs fun i => l.any fun s =>
          let lo := max s.pva (f.pva + 64 * i)
          let hi := min (s.pva + s.len) (f.pva + 64 * i + 64)
          lo < hi && d.markedAt (s.dpa + (lo - s.pva)) (hi - lo), true)

/-! ### Messages (R289, R295) -/

/-- A message has arrived whole from device `src`: a MSG_ID accepted before is discarded; a work message goes to the intake; the others go to their destinations, on the bridge. -/
def Dev.msgWhole (d : Dev) (k src : Nat) (m : InMsg) : Dev :=
  let l := tgetD d.seen src []
  if l.contains m.mid then d.addCount (pLink (k / 64)) 0x74 1
  else
    let d := { d with seen := tput d.seen src ((m.mid :: l).take 65536) }
    if m.cls = clsWork then d.arrive m.got none
    else if 2 ≤ m.cls && m.cls ≤ 5 && d.isBridge then d.toDest m.got
    else d

/-- A segment of a message: it follows the bytes that the receiver holds. -/
def Dev.segment (d : Dev) (o : InOp) : Dev :=
  let f := o.frame
  let mine (m : InMsg) : Bool := m.path = o.path && m.mid = f.tag
  let m := if f.off = 0 then some (InMsg.mk o.path f.tag f.cls f.total []) else d.inMsgs.find? mine
  let d := { d with inMsgs := d.inMsgs.filter fun m => !mine m }
  match m with
  | none => d
  | some m =>
    let m := { m with got := m.got ++ f.data }
    if f.off + f.data.length ≠ m.got.length then d
    else if f.last then (if m.got.length = m.total then d.msgWhole o.path f.src m else d)
    else { d with inMsgs := d.inMsgs ++ [m] }

/-! ### Performing accepted frames -/

/-- The access of CSR_ACCESS, in the operator role; false while the memory does not answer. -/
def Dev.jtagAccess (d : Dev) (a : Nat) (write : Bool) (v : Nat) : Dev × Bool :=
  let done (d : Dev) (st data : Nat) : Dev := { d with tap := { d.tap with status := st, data := data } }
  match loc a, loc (a + 3) with
  | .ctl off, .ctl _ =>
    let d := if write then d.writeAccess .operator off 4 (BitVec.ofNat 64 v) else d.readAccess .operator off 4
    (done d (if d.respRefused then 1 else 0) (if write then v else d.resp.toNat), true)
  | .stack .., .stack .. | .buf .., .buf .. =>
    if !d.memReady a then (d.memDemand a, false)
    else if !d.memReady (a + 3) then (d.memDemand (a + 3), false)
    else if write then (done (d.writeMem agDevice a (leBytes 4 v) false).1 0 v, true)
    else
      let d := (d.noteErrs a 4).noteSecure agDevice a 4
      (done d 0 (leNat (d.readMem agDevice a 4)), true)
  | _, _ => (done d 1 0, true)

/-- Perform one accepted frame, or the access of JTAG that waits among them; false while the memory that it reaches does not answer. -/
def Dev.performOp (d : Dev) (o : InOp) : Dev × Bool :=
  let op := o.frame.op
  if o.path = jtagPath then d.jtagAccess d.tap.dpa d.tap.write d.tap.data
  else if op = opWrite || op = opRead || op = opAtomic then d.dpaOp o
  else if op = opPvaWrite || op = opPvaRead then d.pvaOp o
  else if op = opFlagAdd then (d.flagAddOp o, true)
  else if op = opMsg then (d.segment o, true)
  else if op = opReadResp || op = opAtomicResp then (d.takeResp o.path o.frame, true)
  else if op = opRefuse then (d.takeRefuse o.path [] o.frame, true)
  else (d, true)

/-- Perform the first accepted frame of a path: none while nothing of the path is performed (20, R436: not in a low power state). -/
def Dev.performFirst (d : Dev) (k : Nat) : Option Dev × Dev :=
  if !d.awake then (none, d)
  else match d.inOps.find? fun o => o.path = k with
  | none => (none, d)
  | some o =>
    match d.performOp o with
    | (d, false) => (none, d)
    | (d, true) =>
      let was := d.doneOf k
      let d := { d with inOps := d.inOps.filter fun x => !(x.path = k && x.seq = o.seq) }
      -- DONE_SEQ has come to stand above what was sent
      let d := if k < localPath && was = (d.path k).doneSent then d.modPath k fun p => { p with doneAt := d.ao } else d
      (some (if k = localPath then d.afterDone.replyDone else d), d)

/-- Perform the accepted frames of a path in their order, as far as memory answers. -/
def Dev.performPath : Nat → Dev → Nat → Dev
  | 0, d, _ => d
  | f + 1, d, k =>
    match d.performFirst k with
    | (none, d) => d
    | (some d, _) => Dev.performPath f d k

/-- Perform what is accepted in order of arrival (05, R97): `l` are the paths of the frames in that order, `held` those that wait for memory. -/
def Dev.performOrder : List Nat → List Nat → Dev → Dev
  | [], _, d => d
  | k :: t, held, d =>
    if held.contains k then Dev.performOrder t held d
    else match d.performFirst k with
      | (none, d) => Dev.performOrder t (k :: held) d
      | (some d, _) => Dev.performOrder t held d

/-- Perform what is accepted on every path. -/
def Dev.performAll (d : Dev) : Dev := Dev.performOrder (d.inOps.map InOp.path) [] d

/-! ### Frames from the wire (R286, R294) -/

/-- A frame that is discarded: LINK_DROPPED counts it. -/
def Dev.dropFrame (d : Dev) (n : Nat) : Dev := d.addCount (pLink n) 0x68 1

/-- A frame ends IDLE; a WAKE or DATA frame on NAP_PORT ends NAP (20, R436). -/
def Dev.frameWakes (d : Dev) (n : Nat) (data : Bool) : Dev :=
  let low := if d.devPower = 4 then d.pwr.low else d.devPower
  if d.devPower = 1 || (data && low = 2 && (d.devPower = 2 || d.devPower = 4) && d.getF pPwr 0x48 3 0 = n) then d.wakeAll else d

/-- A port receives a frame for this device from `peer`. -/
def Dev.rxFrame (d : Dev) (n dst : Nat) (data : Bool) (f : Dev → Dev) : Dev :=
  if !d.portUp n then d
  else
    let d := d.frameWakes n data
    if dst ≠ d.devnum then d.dropFrame n else f d

/-- ACK_SEQ and DONE_SEQ of a frame, and what waits for the frames they cover (R286, R293). -/
def Dev.heard (d : Dev) (k : Nat) (f : Frame) : Dev := (d.takeAck k f.ackSeq f.doneSeq).replyDone

/-- A frame of its own control type: ACK, NAK. -/
def Dev.rxCtl (d : Dev) (n : Nat) (f : Frame) (g : Dev → Nat → Dev) : Dev :=
  d.rxFrame n f.dst false fun d =>
    let k := pathKey n f.src
    if !d.pathOpen k then d.dropFrame n else g ((d.addCount (pLink n) 0x60 1).heard k f) k

/-- A DATA frame (R286): in sequence it is accepted and performed as far as memory answers; ahead of it a NAK, behind it an ACK answers. -/
def Dev.rxData (d : Dev) (n : Nat) (f : Frame) : Dev :=
  d.rxFrame n f.dst true fun d =>
    let k := pathKey n f.src
    if !d.pathOpen k then d.dropFrame n
    else
      let ids := (d.path k).openIds.map Prod.fst
      let d := d.heard k f
      let p := d.path k
      if f.seq ≠ p.expect then
        let d := d.dropFrame n
        if !d.portSends n then d else d.sendAck k (if seqBefore p.expect f.seq then 2 else 1)
      else
        let d := (d.addCount (pLink n) 0x60 1).setPath k { p with
          expect := seqNext p.expect
          unacked := p.unacked + 1
          ackAt := if p.unacked = 0 then d.ao else p.ackAt }
        -- a REFUSE is taken with the frames that were open before its DONE_SEQ
        if f.op = opRefuse && (d.inOps.all fun o => o.path ≠ k) && d.awake then
          (d.takeRefuse k ids f).modPath k fun q => if q.doneSent = f.seq then { q with doneAt := d.ao } else q
        else
        let d := { d with inOps := d.inOps ++ [⟨k, f.seq, f⟩] }
        Dev.performPath (d.inOps.length + 1) d k

/-- The frame that a command's operands give: VER 1, the row's TYPE and, for DATA, its OP; LEN is the length of the payload that the operation carries. -/
def wireFrame (typ : Nat) (op : Option (Nat × Bool)) (hdr : BitVec 512) (data : List Byte) : Frame :=
  let h := setFld (setFld hdr.toNat 3 0 1) 7 4 typ
  match op with
  | none => ⟨BitVec.ofNat 512 h, []⟩
  | some (c, carries) =>
    let bs := if carries then data.take 8192 else []
    let h := setFld h 31 24 c
    ⟨BitVec.ofNat 512 (if carries then setFld h 185 172 bs.length else h), bs⟩

/-- ACK (R286). -/
def execAck (n : Fin 16) (hdr : BitVec 512) (s : State) : Out := s.upd fun d => d.rxCtl n (wireFrame 1 none hdr []) fun d _ => d

/-- NAK (R286): every unacknowledged frame of the path goes again. -/
def execNak (n : Fin 16) (hdr : BitVec 512) (s : State) : Out := s.upd fun d =>
  d.rxCtl n (wireFrame 2 none hdr []) fun d k => if (d.path k).replay.isEmpty || !d.portSends n then d else d.replayAgain k

/-- LINK_CTRL (R286, R287): OPEN opens the path, with the answer that completes the exchange; a close takes it down. -/
def execLinkCtrl (n : Fin 16) (hdr : BitVec 512) (open_ : Bool) (s : State) : Out := s.upd fun d =>
  let f := wireFrame 3 none hdr []
  d.rxFrame n f.dst false fun d =>
    let k := pathKey n f.src
    let d := d.addCount (pLink n) 0x60 1
    if open_ then (if d.pathOpen k then d else (d.sendCtrl n f.src).openPath k)
    else d.pathDown k

/-- IDLE (R285). -/
def execIdle (n : Fin 16) (hdr : BitVec 512) (s : State) : Out := s.upd fun d =>
  d.rxFrame n (wireFrame 4 none hdr []).dst false fun d => d.addCount (pLink n) 0x60 1

/-- WAKE (20, R436): on NAP_PORT it wakes the device from NAP, and from DEEP inside the window after signal detection; in ACTIVE it has no effect, in IDLE it ends IDLE. -/
def execWake (n : Fin 16) (hdr : BitVec 512) (s : State) : Out := s.upd fun d =>
  d.rxFrame n (wireFrame 5 none hdr []).dst true fun d =>
    let d := d.addCount (pLink n) 0x60 1
    let here : Bool := d.getF pPwr 0x48 3 0 = n
    if here && ((d.devPower = 3 && d.wakeWindow) || (d.devPower = 4 && d.pwr.low ≠ 0)) then d.wakeAll else d

/-- WRITE, READ, READ_RESP, ATOMIC, ATOMIC_RESP, FLAG_ADD, MSG, REFUSE, PVA_WRITE, PVA_READ (R288): a DATA frame with that OP arrives on port `n`. -/
def execWrite (n : Fin 16) (hdr : BitVec 512) (data : List (BitVec 8)) (s : State) : Out := s.upd fun d =>
  d.rxData n (wireFrame 0 (some (opWrite, true)) hdr data)
def execRead (n : Fin 16) (hdr : BitVec 512) (s : State) : Out := s.upd fun d =>
  d.rxData n (wireFrame 0 (some (opRead, false)) hdr [])
def execReadResp (n : Fin 16) (hdr : BitVec 512) (data : List (BitVec 8)) (s : State) : Out := s.upd fun d =>
  d.rxData n (wireFrame 0 (some (opReadResp, true)) hdr data)
def execRemoteAtomic (n : Fin 16) (hdr : BitVec 512) (data : List (BitVec 8)) (s : State) : Out := s.upd fun d =>
  d.rxData n (wireFrame 0 (some (opAtomic, true)) hdr (bytesAt data 0 32))
def execAtomicResp (n : Fin 16) (hdr : BitVec 512) (data : List (BitVec 8)) (s : State) : Out := s.upd fun d =>
  d.rxData n (wireFrame 0 (some (opAtomicResp, true)) hdr (bytesAt data 0 32))
def execFlagAdd (n : Fin 16) (hdr : BitVec 512) (data : BitVec 32) (s : State) : Out := s.upd fun d =>
  d.rxData n (wireFrame 0 (some (opFlagAdd, true)) hdr (leBytes 4 data.toNat))
def execMsg (n : Fin 16) (hdr : BitVec 512) (data : List (BitVec 8)) (s : State) : Out := s.upd fun d =>
  d.rxData n (wireFrame 0 (some (opMsg, true)) hdr data)
def execRefuse (n : Fin 16) (hdr : BitVec 512) (s : State) : Out := s.upd fun d =>
  d.rxData n (wireFrame 0 (some (opRefuse, false)) hdr [])
def execPvaWrite (n : Fin 16) (hdr : BitVec 512) (data : List (BitVec 8)) (s : State) : Out := s.upd fun d =>
  d.rxData n (wireFrame 0 (some (opPvaWrite, true)) hdr data)
def execPvaRead (n : Fin 16) (hdr : BitVec 512) (s : State) : Out := s.upd fun d =>
  d.rxData n (wireFrame 0 (some (opPvaRead, false)) hdr [])

end Sys2Proof.Machine
end

