-- ==== Sys2Proof/Machine/Bridge.lean ====
section
/-! DEFINITION. The host bridge toward the group (14, R296–R302): what arrives from the host on a queue pair, relays, work messages in the intake buffer, HOST_PULL. -/

namespace Sys2Proof.Machine

/-! ### Relays (R298) -/

/-- Send an operation for the host to a device: to this device on the local path, else over its route. Answers its number. -/
def Dev.putRelay (d : Dev) (dev op domain : Nat) (fields : List (Nat × Nat)) (a : Nat) (bs : List Byte) (len : Nat) (what : Option ReqFor) :
    Nat × Dev :=
  let (id, d) := d.takeId
  let (tag, d) := if what.isSome then d.takeTag else (0, d)
  let f := d.dataFrame dev op noJob domain ([(128, a % 2 ^ 44), (172, len), (224, tag)] ++ fields) bs
  let req (path : Nat) := what.map fun w => RemReq.mk tag noJob path len 0 w
  if dev = d.devnum then (id, { d with inOps := d.inOps ++ [⟨localPath, id, f⟩], reqs := d.reqs ++ (req localPath).toList })
  else (id, d.sendOp ⟨id, dev, addrSel (a % 2 ^ 44), f, req 0⟩)

/-- Where a relay goes: a partition's PVA with its device, link domain and number, or a group address in the operator role. -/
inductive RelayTo where
  | pva (dev ptn domain : Nat)
  | group
deriving DecidableEq, Repr

/-- The device of an address. -/
def RelayTo.dev : RelayTo → Nat → Nat
  | .pva dev _ _, _ => dev
  | .group, a => a / 2 ^ 44

/-- One relay operation, a write or a read of at most 4 KiB. -/
def Dev.relay1 (d : Dev) (to_ : RelayTo) (a : Nat) (bs : List Byte) (len : Nat) (what : Option ReqFor) : Nat × Dev :=
  match to_ with
  | .pva dev ptn domain =>
    d.putRelay dev (if what.isSome then opPvaRead else opPvaWrite) domain [(212, ptn), (217, a / 2 ^ 44 % 16)] a bs len what
  | .group => d.putRelay (a / 2 ^ 44) (if what.isSome then opRead else opWrite) opDomain [] a bs len what

/-- Relay a write, cut at 4 KiB; answers the frames' numbers. -/
def Dev.relayWrite : Nat → Dev → RelayTo → Nat → List Byte → List Nat × Dev
  | 0, d, _, _, _ => ([], d)
  | f + 1, d, t, a, bs =>
    if bs.isEmpty then ([], d)
    else
      let k := min bs.length (4096 - a % 4096)
      let (id, d) := d.relay1 t a (bs.take k) k none
      let (l, d) := Dev.relayWrite f d t (a + k) (bs.drop k)
      (id :: l, d)

/-- Relay a read, cut at 4 KiB. -/
def Dev.relayRead : Nat → Dev → RelayTo → Nat → Nat → Nat → (Nat → ReqFor) → Dev
  | 0, d, _, _, _, _, _ => d
  | f + 1, d, t, a, off, n, what =>
    if n = 0 then d
    else
      let k := min n (4096 - a % 4096)
      Dev.relayRead f (d.relay1 t a [] k (some (what off))).2 t (a + k) (off + k) (n - k) what

/-- Relays on the local path are performed as they stand. -/
def Dev.runLocal (d : Dev) : Dev := Dev.performPath (d.inOps.length + 1) d localPath

/-! ### Requests from the host (R296–R299) -/

/-- A host request on the wire: its first PSN, its packets, ICRC correct, CE mark, an opcode that the bridge supports. -/
structure HostPkt where
  psn : Nat
  count : Nat
  icrc : Bool
  ce : Bool
  known : Bool

/-- Receive a request: `first` performs one in its turn, `again` one that was received before. The PSN that a sequence NAK, and a repeated request that is answered again, call for is InfiniBand's (PRESUMED). -/
def Dev.rxHost (d : Dev) (n slot : Nat) (p : HostPkt) (first again : Dev → Dev) : Dev :=
  if !d.hbrOn n then d
  else if !p.icrc then d.endIdle.addCount (pHbr n) 0x6C 1
  else
    let q := d.qp (qpKey n slot)
    let d := d.endIdle.addCount (pHbr n) 0x5C p.count
    if q.st ≠ qsRts then d
    else
      let d := if p.ce then d.ceMarked n slot else d
      if p.psn = q.rqPsn then (if p.known then first d else d.hostNak n slot p.psn synInvalid)
      else if psnLe p.psn q.rqPsn then again d
      else d.hostNak n slot q.rqPsn synSeq

/-- The next PSN expected. -/
def Dev.psnTo (d : Dev) (n slot v : Nat) : Dev := d.modQp (qpKey n slot) fun q => q.setWord 0xC (BitVec.ofNat 32 (v % 2 ^ 24))

/-- Bytes in the intake buffer of the bridge. -/
def Dev.intakeBytes (d : Dev) : Nat := d.qps.foldl (fun a q => q.2.sends.foldl (fun a m => a + m.data.length) a) 0

/-- An RNR NAK with RNR_TIMER (R299). -/
def Dev.hostRnr (d : Dev) (n slot psn : Nat) : Dev :=
  (((d.out (.hostNak n slot (d.roce n slot psn) (0x20 + d.getF (pHbr n) 0x40 10 6))).addCount (pHbr n) 0x60 1).addCount (pHbr n) 0x64 1)

/-- ROCE_SEND (R296, R299): a whole SEND; it is acknowledged once the 8 MiB intake buffer holds it. `known` is false for a request of an unsupported opcode; `bad`: an uncorrectable error of the intake buffer met it (17, R368). -/
def execRoceSend (n : Fin 4) (slot : Fin 64) (psn : BitVec 24) (data : List (BitVec 8)) (icrc ce known bad : Bool) (s : State) : Out := s.upd fun d =>
  let q := d.qp (qpKey n slot)
  let c := q.packets data.length
  let last := (psn.toNat + c - 1) % 2 ^ 24
  d.rxHost n slot ⟨psn.toNat, c, icrc, ce, known⟩
    (fun d =>
      if 1048576 < data.length then d.hostNak n slot psn.toNat synInvalid
      else if 8388608 < d.intakeBytes + data.length then d.hostRnr n slot psn.toNat
      else
        let d := d.modQp (qpKey n slot) fun q => { q with sends := q.sends ++ [⟨psn.toNat, data, q.writes.flatMap HostWrite.ids, bad, q.writes.any HostWrite.lost⟩] }
        (d.psnTo n slot (psn.toNat + c)).hostAck n slot last)
    (fun d => d.hostAck n slot last)

/-- Where a queue pair relays: for a partition of this device, PTN_LINK_DOMAIN is the register; that of another device's is given. -/
def Dev.relayTo (d : Dev) (q : Qp) (domain : Nat) : RelayTo :=
  if q.role = 1 then .group else .pva q.dev q.ptn (if q.dev = d.devnum then d.linkDomain q.ptn else domain)

/-- An RDMA request that the bridge turns away: its R_Key differs, its queue pair is bound to nothing, or its group address names no device of a group (R298, R299). -/
def rdmaBad (q : Qp) (rkey va : Nat) : Bool := rkey ≠ q.rkey || q.role = 0 || (q.role = 1 && 64 * 2 ^ 44 ≤ va) || (q.role = 2 && 2 ^ 48 ≤ va)

/-- RDMA_WRITE (R298, R299): relayed at once, acknowledged by RDMA_WRITE_ACK. `domain` is the link domain of a partition of another device. -/
def execRdmaWrite (n : Fin 4) (slot : Fin 64) (psn : BitVec 24) (rkey : BitVec 32) (va : BitVec 64) (data : List (BitVec 8)) (icrc ce : Bool)
    (domain : BitVec 8) (s : State) : Out := s.upd fun d =>
  let q := d.qp (qpKey n slot)
  let c := q.packets data.length
  let last := (psn.toNat + c - 1) % 2 ^ 24
  d.rxHost n slot ⟨psn.toNat, c, icrc, ce, true⟩
    (fun d =>
      if 16777216 < data.length then d.hostNak n slot psn.toNat synInvalid
      else if rdmaBad q rkey.toNat va.toNat then d.hostNak n slot psn.toNat synAccess
      else
        let d := d.psnTo n slot (psn.toNat + c)
        let (ids, d) := Dev.relayWrite (data.length + 1) d (d.relayTo q domain.toNat) va.toNat data
        (d.modQp (qpKey n slot) fun q => { q with writes := q.writes ++ [⟨last, ids, false⟩] }).runLocal)
    (fun d => if q.writes.any fun w => w.psn = last then d else d.hostAck n slot last)

/-- Relay an RDMA READ. -/
def Dev.startRead (d : Dev) (n slot psn va len domain : Nat) : Dev :=
  let q := d.qp (qpKey n slot)
  if len = 0 then (d.out (.hostData n slot (d.roce n slot psn) 0 [])).addCount (pHbr n) 0x60 1
  else
    let (rid, d) := d.takeId
    let d := d.modQp (qpKey n slot) fun q => { q with reads := q.reads ++ [⟨rid, psn, va, len, 0⟩] }
    (Dev.relayRead (len + 1) d (d.relayTo q domain) va 0 len fun off => .relay n slot rid off).runLocal

/-- RDMA_READ (R298, R299): the response takes a PSN for each of its packets. -/
def execRdmaRead (n : Fin 4) (slot : Fin 64) (psn : BitVec 24) (rkey : BitVec 32) (va : BitVec 64) (len : BitVec 32) (icrc ce : Bool)
    (domain : BitVec 8) (s : State) : Out := s.upd fun d =>
  let q := d.qp (qpKey n slot)
  let go (d : Dev) : Dev := d.startRead n slot psn.toNat va.toNat len.toNat domain.toNat
  d.rxHost n slot ⟨psn.toNat, 1, icrc, ce, true⟩
    (fun d =>
      if 16777216 < len.toNat then d.hostNak n slot psn.toNat synInvalid
      else if rdmaBad q rkey.toNat va.toNat then d.hostNak n slot psn.toNat synAccess
      else go (d.psnTo n slot (psn.toNat + q.packets len.toNat)))
    (fun d => if rdmaBad q rkey.toNat va.toNat || 16777216 < len.toNat then d.hostNak n slot psn.toNat synAccess else go d)

/-! ### Forwarding of work messages (R300, R304) -/

/-- The role of a message fits its queue pair. -/
def qpMaySend (q : Qp) (data : List Byte) : Bool :=
  let dev := numAt data 0x10 1
  let ptn := numAt data 0x11 1
  q.role = 1 || (q.role = 2 && dev = q.dev && ptn = q.ptn)

/-- Answer a message that the bridge refuses whole: MSG_ROLE to the bridge's device destination (R300), another code as the message's own completion would go. -/
def Dev.bridgeRefuses (d : Dev) (data : List Byte) (dev code : Nat) : Dev :=
  let n := numAt data 0x12 2
  d.toDest (doneMsg dev (numAt data 0x11 1) 2 (numAt data 8 8) n 0 code (List.replicate n (cItemSkipped, 0)))

/-- SEND_FORWARD (R300): the first message that a queue pair has brought goes on, once every RDMA WRITE before it on that queue pair is performed. -/
def execSendForward (n : Fin 4) (slot : Fin 64) (s : State) : Out := s.upd fun d =>
  let q := d.qp (qpKey n slot)
  match q.sends with
  | [] => d
  | m :: rest =>
    if m.lost || !(m.ids.all d.isDone) || !d.awake then d
    else
      let d := d.setQp (qpKey n slot) { q with sends := rest }
      let dev := numAt m.data 0x10 1
      if m.marked then d.bridgeRefuses m.data dev cPoison
      else if !qpMaySend q m.data then d.bridgeRefuses m.data d.devnum cMsgRole
      else if dev = d.devnum then d.arrive m.data (some (d.devnum, n.val, slot.val))
      else if 64 ≤ dev || d.routeSet dev = 0 then d.answerPathDown m.data
      else
        -- the domain of a partition of another device stands in that device: a free value here (R291)
        let (x, e) := d.takeFree
        if q.role = 1 then d.sendMsgTo dev clsWork opDomain m.data else e.sendMsgTo dev clsWork (x % 256) m.data

/-! ### HOST_PULL (R302) -/

/-- HOST_PULL: the bytes come by an RDMA READ on the queue pair that carried the message. On a device that is not the bridge that queue pair is the bridge's, and the data arrive as its relay frames. A length out of range is refused with MSG_INVALID (DESIGN CHOICE). -/
def Dev.hostPull (d : Dev) (i : Item) : Dev :=
  let len := numAt i.body 0xC 4
  let pva := numAt i.body 0x10 8
  if len = 0 || 16777216 < len then d.endItem i cMsgInvalid 0xC
  else
    let d := { d with pulls := d.pulls ++ [⟨i.msg, i.item, i.ptn, pva, len, 0, []⟩] }
    match i.qp with
    | some (dev, n, slot) => if dev = d.devnum then d.hostSend n slot (.pull (numAt i.body 0 8) (numAt i.body 8 4) len i.msg i.item i.ptn pva) else d
    | none => d

def execHostPull (p : Fin 25) (s : State) : Out := s.upd fun d => d.serveItem p 0x0005 Dev.hostPull

/-- Data of the oldest HOST_PULL of a queue pair of this device. -/
def Dev.pullData (d : Dev) (n slot : Nat) (data : List Byte) : Dev :=
  let what? := (d.qp (qpKey n slot)).reqs.find? fun r => match r.what with | .pull .. => true | _ => false
  match what? with
  | some ⟨psn, _, _, _, .pull _ _ len msg item ptn pva⟩ =>
    let gone (d : Dev) : Dev := d.modQp (qpKey n slot) fun q => { q with reqs := q.reqs.filter fun r => r.psn ≠ psn }
    match d.pulls.find? fun p => p.msg = msg && p.item = item with
    | none => gone d
    | some p =>
      let bs := data.take (len - p.got)
      let (ids, d) := Dev.relayWrite (bs.length + 1) d (.pva d.devnum ptn (d.linkDomain ptn)) (pva + p.got) bs
      let p := { p with got := p.got + bs.length, ids := p.ids ++ ids }
      let others := d.pulls.filter fun x => !(x.msg = msg && x.item = item)
      if len ≤ p.got then
        (gone { d with pulls := others, replyWaits := d.replyWaits ++ [(p.ids, msg, item)] }).runLocal.replyDone
      else ({ d with pulls := others ++ [p] } : Dev).runLocal
  | _ => d

/-- RDMA_READ_RESPONSE (R302): response data from the host go to the destination PVA through relay. `far` names the place of data that the bridge pulls for another device: device, partition, its link domain, PVA. -/
def execRdmaReadResponse (n : Fin 4) (slot : Fin 64) (data : List (BitVec 8)) (icrc ce : Bool) (far : Option (Fin 64 × Fin 24 × BitVec 8 × BitVec 48))
    (s : State) : Out := s.upd fun d =>
  let q := d.qp (qpKey n slot)
  if !d.hbrOn n then d
  else if !icrc then d.addCount (pHbr n) 0x6C 1
  else
    let d := d.addCount (pHbr n) 0x5C (q.packets data.length)
    if q.st ≠ qsRts then d
    else
      let d := if ce then d.ceMarked n slot else d
      match far with
      | none => d.pullData n slot data
      | some (dev, p, domain, pva) =>
        if dev.val = d.devnum then d else (Dev.relayWrite (data.length + 1) d (.pva dev p domain.toNat) pva.toNat data).2

end Sys2Proof.Machine
end

