-- ==== Sys2Proof/Machine/Mgmt.lean ====
section
/-! DEFINITION. The management port and the JTAG port (20, R438–R440; 21, R453, R454). -/

namespace Sys2Proof.Machine

/-! ### MCTP (R438) -/

/-- A message arrives whole on the management port; one that fails PEC is not received. A control message is accepted with or without an endpoint ID, and ends IDLE (R436). -/
def Dev.ctlRx (d : Dev) (pec : Bool) (f : Dev → Dev) : Dev :=
  if !d.pwr.up then d
  else if !pec then d.addCount pMgt 0x58 1
  else f (d.endIdle.addCount pMgt 0x4C 1)

/-- A Decewell message: PEC, then the endpoint ID. -/
def Dev.vendorRx (d : Dev) (pec : Bool) (f : Dev → Dev) : Dev :=
  if !d.pwr.up then d else if !pec then d.addCount pMgt 0x58 1 else d.mgtRx f

/-- The answer to a control message: command, completion code, fields as DSP0236 lays them out (PRESUMED). -/
def Dev.ctlReply (d : Dev) (eid cmd code : Nat) (fields : List Byte) : Dev :=
  (d.out (.mctp eid 0x00 (leBytes 1 cmd ++ leBytes 1 code ++ fields))).addCount pMgt 0x50 1

/-- SET_ENDPOINT_ID: operations 0 set and 1 force assign; the device has no static EID to return to and no discovered flag, and EIDs 0 and 0xFF are not assignable (DSP0236, PRESUMED). -/
def execSetEndpointId (src : Fin 256) (pec : Bool) (op : Fin 4) (eid : BitVec 8) (s : State) : Out := s.upd fun d =>
  d.ctlRx pec fun d =>
    if 2 ≤ op.val || eid = 0 || eid = 0xFF then d.ctlReply src 0x01 0x02 []
    else ((d.setF pMgt 0x44 7 0 eid.toNat).setBit pMgt 0x44 15 true).ctlReply src 0x01 0x00 (leBytes 1 0 ++ leBytes 1 eid.toNat ++ leBytes 1 0)

/-- GET_ENDPOINT_ID: the assigned ID, 0 before; a simple endpoint. -/
def execGetEndpointId (src : Fin 256) (pec : Bool) (s : State) : Out := s.upd fun d =>
  d.ctlRx pec fun d => d.ctlReply src 0x02 0x00 (leBytes 1 (d.getF pMgt 0x44 7 0) ++ [0, 0])

/-- GET_ENDPOINT_UUID. -/
def execGetEndpointUuid (src : Fin 256) (pec : Bool) (s : State) : Out := s.upd fun d =>
  d.ctlRx pec fun d => d.ctlReply src 0x03 0x00 (leBytes 16 Config.uuid.toNat)

/-- The message types that have versions: control, vendor defined, and 0xFF for the base protocol. -/
def mctpTypes : List Nat := [0x00, 0x7F, 0xFF]

/-- GET_MCTP_VERSION_SUPPORT: the versions of a message type; an unsupported type is answered with code 0x80. -/
def execGetMctpVersionSupport (src : Fin 256) (pec : Bool) (typ : BitVec 8) (s : State) : Out := s.upd fun d =>
  d.ctlRx pec fun d =>
    if mctpTypes.contains typ.toNat then
      let l := Config.mctpVersions typ.toNat
      d.ctlReply src 0x04 0x00 (leBytes 1 l.length ++ l.flatMap fun v => leBytes 4 v.toNat)
    else d.ctlReply src 0x04 0x80 []

/-- GET_MESSAGE_TYPE_SUPPORT: the types beside control. -/
def execGetMessageTypeSupport (src : Fin 256) (pec : Bool) (s : State) : Out := s.upd fun d =>
  d.ctlRx pec fun d => d.ctlReply src 0x05 0x00 [1, 0x7F]

/-! ### Decewell messages (R439) -/

/-- MGT_WORK: an operator work message; it is a cause that wakes from NAP and DEEP (R436). One above 65,536 bytes is refused whole. -/
def execMgtWork (src : Fin 256) (pec : Bool) (bs : List (BitVec 8)) (s : State) : Out := s.upd fun d =>
  d.vendorRx pec fun d =>
    let d := if 1 ≤ d.devPower && d.devPower ≤ 4 then d.wakeAll else d
    if 65536 < bs.length then d.refuseWork (numAt bs 0x11 1) bs cMsgInvalid (some src) else d.arriveBy bs none (some src)

/-- TELEMETRY: THM_CH[0–319] and THM_STATUS. -/
def execTelemetry (src : Fin 256) (pec : Bool) (s : State) : Out := s.upd fun d =>
  d.vendorRx pec fun d =>
    let d := d.endIdle
    d.mgtSend src 0x05 (((List.range 320).flatMap fun n => leBytes 4 (d.reg pThm (0x400 + 4 * n)).toNat) ++ leBytes 4 (d.reg pThm 0x44).toNat)

/-- BOOT_RECORD: a 256-byte block of the current record. -/
def execBootRecord (src : Fin 256) (pec : Bool) (block : Fin 4096) (s : State) : Out := s.upd fun d =>
  d.vendorRx pec fun d => d.endIdle.mgtSend src 0x06 (d.recBlock block)

/-- MGT_EVENT_SEND: one attempt to send the first EVENT that waits; after three that are not acknowledged it is dropped. -/
def execMgtEventSend (acked : Bool) (s : State) : Out := s.upd fun d =>
  match d.mgtOut with
  | [] => d
  | m :: rest =>
    if !d.pwr.up then d
    else
      let d := d.mgtSend (d.getF pMgt 0x40 8 1) 0x03 m
      if acked then { d with mgtOut := rest, mgtTries := 0 }
      else if 2 ≤ d.mgtTries then ({ d with mgtOut := rest, mgtTries := 0 } : Dev).addCount pMgt 0x54 1
      else { d with mgtTries := d.mgtTries + 1 }

/-- SMB_ALERT_L is low while an EVENT waits to be sent. -/
def Dev.smbAlertLow (d : Dev) : Bool := !d.mgtOut.isEmpty

/-- The other open-drain outputs (20, R421; 21, R457): THERMTRIP_L is low while THM_TRIP.VALID = 1, FRIT_L in frit mode; PWRFAIL_L is low within POWER_FAIL alone, until the always-on domain is off. -/
def Dev.thermtripLow (d : Dev) : Bool := d.tripped
def Dev.fritLow (d : Dev) : Bool := d.frit

/-- SMBUS_TIMEOUT (21, R453): `low` is how long SMB_CLK has been low, in ao-cycles; 30 ms are 1,500,000. Messages reach the model whole, so the interface holds nothing that its reset could lose. -/
def execSmbusTimeout (low : Nat) (s : State) : Out := s.upd fun d => if d.pwr.up && 1500000 ≤ low then d.out .smbRelease else d

/-! ### JTAG (R440; 16, R343) -/

/-- A number from bits shifted, the first the lowest. -/
def ofBits (l : List Bool) : Nat := l.foldr (fun b a => b.toNat + 2 * a) 0

/-- Select an instruction and shift a data register out; the boundary-scan register drives the pins under EXTEST alone. -/
def Dev.tapShift (d : Dev) (ir bits len : Nat) : Dev :=
  ({ d with tap := { d.tap with ir := ir, driving := decide (ir = 0x00) } } : Dev).out (.jtag bits len)

/-- A command of the JTAG port, which the always-on domain carries. -/
def Dev.tapDo (d : Dev) (f : Dev → Dev) : Dev := if d.pwr.up then f d else d

/-- IDCODE: [0] 1, [11:1] 0x2C7, [27:12] 0x2403, [31:28] STEPPING[7:4]. -/
def idcodeWord : Nat := 1 + 0x2C7 * 2 + 0x2403 * 2 ^ 12 + Config.stepping.toNat / 16 * 2 ^ 28

def execIdcode (s : State) : Out := s.upd fun d => d.tapDo fun d => d.tapShift 0x02 idcodeWord 32

/-- EXTEST: the boundary-scan register captures the pins, takes what is shifted in and drives the pins. -/
def execExtest (pins tdi : List Bool) (s : State) : Out := s.upd fun d => d.tapDo fun d =>
  let d := d.tapShift 0x00 (ofBits pins) pins.length
  { d with tap := { d.tap with boundary := tdi } }

/-- SAMPLE/PRELOAD: the same without driving. -/
def execSamplePreload (pins tdi : List Bool) (s : State) : Out := s.upd fun d => d.tapDo fun d =>
  let d := d.tapShift 0x01 (ofBits pins) pins.length
  { d with tap := { d.tap with boundary := tdi } }

/-- The 1-bit bypass register: it captures 0 and passes what is shifted in, one bit later. -/
def Dev.tapBypass (d : Dev) (ir : Nat) (tdi : List Bool) : Dev := d.tapShift ir (2 * ofBits tdi) (tdi.length + 1)

/-- INTERNAL_SCAN: in MANUFACTURE the internal chains, which the spec does not lay out: what they shift out is a free value, and what is shifted in changes nothing that the model holds. -/
def execInternalScan (tdi : List Bool) (s : State) : Out := s.upd fun d => d.tapDo fun d =>
  if d.lc = 0 then
    let (v, d) := d.takeFree
    d.tapShift 0x20 (v % 2 ^ tdi.length) tdi.length
  else d.tapBypass 0x20 tdi

/-- BYPASS, and every code that names no instruction. -/
def execBypass (code : BitVec 8) (tdi : List Bool) (s : State) : Out := s.upd fun d => d.tapDo fun d =>
  if [0x00, 0x01, 0x02, 0x10, 0x20].contains code.toNat then d else d.tapBypass code.toNat tdi

/-- TAP_RESET (21, R454): the instruction register holds IDCODE, and the pins are free. -/
def execTapReset (s : State) : Out := s.upd fun d => d.tapDo fun d =>
  { d with tap := { d.tap with ir := 0x02, driving := false } }

/-- The CSR_ACCESS register: DPA, WRITE, status, data. -/
def Tap.csrWord (t : Tap) : Nat := t.dpa % 2 ^ 44 + t.write.toNat * 2 ^ 44 + t.status % 8 * 2 ^ 45 + t.data % 2 ^ 32 * 2 ^ 48

/-- CSR_ACCESS: Capture-DR returns the last access, Update-DR performs this one; it is a wake cause in NAP and DEEP (R436). An update while an access is pending changes nothing (DESIGN CHOICE). -/
def execCsrAccess (dpa : BitVec 44) (write : Bool) (v : BitVec 32) (s : State) : Out := s.upd fun d => d.tapDo fun d =>
  let d := d.tapShift 0x10 d.tap.csrWord 80
  if d.tap.status = 2 then d
  else
    let d := { d with tap := { d.tap with dpa := dpa.toNat, write := write, data := v.toNat, status := 2 } }
    let d := { (if 1 ≤ d.devPower && d.devPower ≤ 4 then d.wakeAll else d) with inOps := d.inOps ++ [⟨jtagPath, 0, ⟨0, []⟩⟩] }
    Dev.performPath 1 d jtagPath

end Sys2Proof.Machine
end

