-- ==== Sys2Proof/Machine/Resume.lean ====
section
/-! DEFINITION. What was held goes on: domains that reach ON, stacks out of self-refresh, the end of a wake, of a march, of a repair, of a granule's copy (05, R97; 07, R124; 17, R363, R372; 20, R429, R436; 19, R416). -/

namespace Sys2Proof.Machine

/-- Accesses that were held are performed, in order of arrival: frames, and an access of JTAG. What engines of the device have to access they issue by their own commands. -/
def Dev.resume (d : Dev) : Dev := d.performAll

/-- STACK_SELF_REFRESH_EXIT (07, R124). A lehr stop refuses the wake (18, R390); PD110 must be ON (20, R429). -/
def execStackSelfRefreshExit (k : Fin 24) (s : State) : Out := s.upd fun d =>
  if d.dom (80 + k.val) = dsSelf && (d.stk k).demand && d.lehr = 0 && d.dom 110 = dsOn then (d.stackExits k).resume else d

/-- VERSION, SVN and BODY_HASH of an image. -/
def imgIdent (l : List Byte) : Nat × Nat × List Byte := (imgVersion l, imgSvn l, bytesAt l 0x20 64)

/-- One image is loaded again on the way out of DEEP (19, R416 Note 4): from its ACTIVE copy, from the other where only that passes; it is measured where it differs from the one measured last. With no copy that passes the installed image stays (DESIGN CHOICE). -/
def Dev.reloadImage (d : Dev) (k : Nat) : Dev :=
  match d.pickCopy k with
  | .error _ => d
  | .ok c =>
    let l := d.imageAt c k
    let same : Bool := match tget? d.boot.cache k with | some x => imgIdent x = imgIdent l | none => false
    let d := (d.setF pBoot 0x48 k k c).installImage k l
    if same then d else d.measureImage k l

/-- DOMAIN_ON (20, R429): a waking domain reaches ON; in the start the next group is powered. PD108 on the way out of DEEP has the service firmware and the block images loaded again. -/
def execDomainOn (n : Fin 112) (s : State) : Out := s.upd fun d =>
  if d.dom n ≠ dsWaking then d
  else
    let d := (d.domainOn n).bootPower
    let d := if n.val = 108 && d.devPower = 5 && d.pwr.low = 3 then [4, 5, 6, 7, 8, 10].foldl Dev.reloadImage d else d
    d.resume

/-- The device is ACTIVE again: held messages and accesses are performed (20, R436). -/
def Dev.resumeAll (d : Dev) : Dev := ((0xFF :: List.range 24).foldl Dev.settle d).resume

/-- WAKE_COMPLETE (20, R436): the domains are on and the ports trained; STATE is ACTIVE, and what was held is performed. -/
def execWakeComplete (s : State) : Out := s.upd fun d => if d.devPower ≠ 5 || !d.wakeReady then d else d.wakeEnds.resumeAll

/-- POWER_ENTRY_COMPLETE (20, R435, R437); an abandoned entry that had not reached the link domains leaves the device ACTIVE. -/
def execPowerEntryComplete (s : State) : Out := s.upd fun d =>
  let e := d.entryGoes
  if d.devPower = 4 && e.awake then e.resumeAll else e

/-- MARCH_END (05, R97, R98): the failing reads, word and bit. -/
def execMarchEnd (n : Fin 800) (fails : List (Fin 32768 × Fin 288)) (s : State) : Out := s.upd fun d =>
  if (d.clu n).march.isNone then d else (d.endMarch n (fails.map fun f => (f.1.val, f.2.val))).resume

/-- REPAIR_DONE (17, R363): the bursts that the copy could not read are poisoned. -/
def execRepairDone (k : Fin 24) (c : Fin 32) (num : BitVec 21) (r : Repaired) (s : State) : Out := s.upd fun d =>
  (d.repairDone k c num.toNat r.column (r.bad.map BitVec.toNat)).resume

/-- GRANULE_COPY_DONE (17, R372): the bursts that the copy could not read are poisoned. -/
def execGranuleCopyDone (k : Fin 24) (g : GranuleCopied) (s : State) : Out := s.upd fun d =>
  (d.copyDone k g.gran.toNat (g.bad.map Fin.val)).resume

/-- SCRUB_DONE (16, R346): what was held for the march of one of its clusters goes on. -/
def execScrubDone (r : Scrubbed) (s : State) : Out := s.upd fun d =>
  let p := r.ptn.val
  let e := d.scrubDone p (r.fails.map fun f => (f.1.val, f.2.1.val, f.2.2.val))
  if (d.ptnClusters p).any fun n => (d.clu n).march.isSome && (e.clu n).march.isNone then e.resume else e

end Sys2Proof.Machine
end

