-- ==== Sys2Proof/Machine/Dispatch.lean ====
section
/-! DEFINITION. The dispatch of a command to its meaning: one arm for each row of spec/opcode_table.json. -/

namespace Sys2Proof.Machine

def exec (i : Instr) (s : State) : Host.Outcome State Fault Refusal :=
  match i with
  | .registerWrite r off size v => Sys2Proof.Machine.execRegisterWrite r off size v s
  | .rclRead r off size => Sys2Proof.Machine.execRclRead r off size s
  | .ctrlEnable r j v => Sys2Proof.Machine.execCtrlEnable r j v s
  | .ctrlQuiesce r j v => Sys2Proof.Machine.execCtrlQuiesce r j v s
  | .quiesceComplete j => Sys2Proof.Machine.execQuiesceComplete j s
  | .ctrlTest r j v => Sys2Proof.Machine.execCtrlTest r j v s
  | .unitInitEnd pg => Sys2Proof.Machine.execUnitInitEnd pg s
  | .eventMessageSend dest => Sys2Proof.Machine.execEventMessageSend dest s
  | .clusterReset r n => Sys2Proof.Machine.execClusterReset r n s
  | .portReset r n => Sys2Proof.Machine.execPortReset r n s
  | .partitionReset r p => Sys2Proof.Machine.execPartitionReset r p s
  | .warmDeviceReset r => Sys2Proof.Machine.execWarmDeviceReset r s
  | .controlWordIssue n k => Sys2Proof.Machine.execControlWordIssue n k s
  | .resultLand n k => Sys2Proof.Machine.execResultLand n k s
  | .bufferWriteLand n => Sys2Proof.Machine.execBufferWriteLand n s
  | .tileComplete n k => Sys2Proof.Machine.execTileComplete n k s
  | .intakeHeldAppend u q => Sys2Proof.Machine.execIntakeHeldAppend u q s
  | .tile n q => Sys2Proof.Machine.execTile n q s
  | .gafferNop n q => Sys2Proof.Machine.execGafferNop n q s
  | .gafferSignal n q => Sys2Proof.Machine.execGafferSignal n q s
  | .gafferWait n q => Sys2Proof.Machine.execGafferWait n q s
  | .gafferFence n q => Sys2Proof.Machine.execGafferFence n q s
  | .fenceComplete u q => Sys2Proof.Machine.execFenceComplete u q s
  | .csload n q => Sys2Proof.Machine.execCsload n q s
  | .csloadComplete n q => Sys2Proof.Machine.execCsloadComplete n q s
  | .merge n q => Sys2Proof.Machine.execMerge n q s
  | .mergeComplete m => Sys2Proof.Machine.execMergeComplete m s
  | .streamEntryPush n k g => Sys2Proof.Machine.execStreamEntryPush n k g s
  | .cluFlagAdd r n v => Sys2Proof.Machine.execCluFlagAdd r n v s
  | .flagWaitTimeout n q => Sys2Proof.Machine.execFlagWaitTimeout n q s
  | .jobAbortPropagate u j => Sys2Proof.Machine.execJobAbortPropagate u j s
  | .tileResume n j => Sys2Proof.Machine.execTileResume n j s
  | .ucodeSwap r n v => Sys2Proof.Machine.execUcodeSwap r n v s
  | .ucodeSwapDone die dom k => Sys2Proof.Machine.execUcodeSwapDone die dom k s
  | .cluBufSecureWrite r n v => Sys2Proof.Machine.execCluBufSecureWrite r n v s
  | .secureWipeEnd n => Sys2Proof.Machine.execSecureWipeEnd n s
  | .marchStart r n v => Sys2Proof.Machine.execMarchStart r n v s
  | .marchEnd n fails => Sys2Proof.Machine.execMarchEnd n fails s
  | .bgBlockStart n => Sys2Proof.Machine.execBgBlockStart n s
  | .bgBlockEnd n fails => Sys2Proof.Machine.execBgBlockEnd n fails s
  | .descCreate p => Sys2Proof.Machine.execDescCreate p s
  | .descDestroy p => Sys2Proof.Machine.execDescDestroy p s
  | .mv sk q => Sys2Proof.Machine.execMv sk q s
  | .attn sk q => Sys2Proof.Machine.execAttn sk q s
  | .marverCopy sk q => Sys2Proof.Machine.execMarverCopy sk q s
  | .fill sk q => Sys2Proof.Machine.execFill sk q s
  | .scrub sk q => Sys2Proof.Machine.execScrub sk q s
  | .marverAtomic sk q => Sys2Proof.Machine.execMarverAtomic sk q s
  | .marverSignal sk q => Sys2Proof.Machine.execMarverSignal sk q s
  | .marverWait sk q => Sys2Proof.Machine.execMarverWait sk q s
  | .marverFence sk q => Sys2Proof.Machine.execMarverFence sk q s
  | .marverNop sk q => Sys2Proof.Machine.execMarverNop sk q s
  | .marverCommandComplete sk e => Sys2Proof.Machine.execMarverCommandComplete sk e s
  | .stkMvrFlagAdd r sk v => Sys2Proof.Machine.execStkMvrFlagAdd r sk v s
  | .marverFlagWaitTimeout sk q => Sys2Proof.Machine.execMarverFlagWaitTimeout sk q s
  | .sealMapWrite r sk v => Sys2Proof.Machine.execSealMapWrite r sk v s
  | .stackSelfRefreshExit k => Sys2Proof.Machine.execStackSelfRefreshExit k s
  | .stackDmaResume sk k => Sys2Proof.Machine.execStackDmaResume sk k s
  | .eccReread sk c q r => Sys2Proof.Machine.execEccReread sk c q r s
  | .repairDone k c num r => Sys2Proof.Machine.execRepairDone k c num r s
  | .granuleCopyDone k g => Sys2Proof.Machine.execGranuleCopyDone k g s
  | .rowHistoryExpiry sk c => Sys2Proof.Machine.execRowHistoryExpiry sk c s
  | .patrolRead sk c found good => Sys2Proof.Machine.execPatrolRead sk c found good s
  | .dmaCopy e q => Sys2Proof.Machine.execDmaCopy e q s
  | .gather e q => Sys2Proof.Machine.execGather e q s
  | .scatter e q => Sys2Proof.Machine.execScatter e q s
  | .scatterAdd e q => Sys2Proof.Machine.execScatterAdd e q s
  | .dmaAtomic e q => Sys2Proof.Machine.execDmaAtomic e q s
  | .dmaWait e q => Sys2Proof.Machine.execDmaWait e q s
  | .dmaSignal e q => Sys2Proof.Machine.execDmaSignal e q s
  | .dmaFence e q => Sys2Proof.Machine.execDmaFence e q s
  | .dmaNop e q => Sys2Proof.Machine.execDmaNop e q s
  | .dmaUnitIssue e q => Sys2Proof.Machine.execDmaUnitIssue e q s
  | .dmaUnitComplete e q k => Sys2Proof.Machine.execDmaUnitComplete e q k s
  | .dmaTransferComplete e q => Sys2Proof.Machine.execDmaTransferComplete e q s
  | .dmaResume e q => Sys2Proof.Machine.execDmaResume e q s
  | .dmaWaitTimeout e q => Sys2Proof.Machine.execDmaWaitTimeout e q s
  | .holdResume r p h => Sys2Proof.Machine.execHoldResume r p h s
  | .holdAbort r p h both => Sys2Proof.Machine.execHoldAbort r p h both s
  | .holdLimitExpiry p h => Sys2Proof.Machine.execHoldLimitExpiry p h s
  | .xlateMap p => Sys2Proof.Machine.execXlateMap p s
  | .xlateUnmap p => Sys2Proof.Machine.execXlateUnmap p s
  | .invalidationComplete id => Sys2Proof.Machine.execInvalidationComplete id s
  | .jobBindDma p => Sys2Proof.Machine.execJobBindDma p s
  | .reqAdmit p => Sys2Proof.Machine.execReqAdmit p s
  | .reqRelease p => Sys2Proof.Machine.execReqRelease p s
  | .batchOpen p => Sys2Proof.Machine.execBatchOpen p s
  | .batchOpenProve p => Sys2Proof.Machine.execBatchOpenProve p s
  | .batchClose p => Sys2Proof.Machine.execBatchClose p s
  | .stepRelease p => Sys2Proof.Machine.execStepRelease p s
  | .stage2Start p => Sys2Proof.Machine.execStage2Start p s
  | .samplingStart p => Sys2Proof.Machine.execSamplingStart p s
  | .commitPublish p => Sys2Proof.Machine.execCommitPublish p s
  | .pageReturn p => Sys2Proof.Machine.execPageReturn p s
  | .adapterInstall p => Sys2Proof.Machine.execAdapterInstall p s
  | .adapterInstallPoint p slot => Sys2Proof.Machine.execAdapterInstallPoint p slot s
  | .adapterRemove p => Sys2Proof.Machine.execAdapterRemove p s
  | .puntyPublish p => Sys2Proof.Machine.execPuntyPublish p s
  | .puntyRelease p => Sys2Proof.Machine.execPuntyRelease p s
  | .puntyPin p => Sys2Proof.Machine.execPuntyPin p s
  | .jobCreate p => Sys2Proof.Machine.execJobCreate p s
  | .jobBind p => Sys2Proof.Machine.execJobBind p s
  | .jobBindStack p => Sys2Proof.Machine.execJobBindStack p s
  | .jobUnbind p => Sys2Proof.Machine.execJobUnbind p s
  | .jobReserve p => Sys2Proof.Machine.execJobReserve p s
  | .jobDestroy p => Sys2Proof.Machine.execJobDestroy p s
  | .progLoad p => Sys2Proof.Machine.execProgLoad p s
  | .progUnload p => Sys2Proof.Machine.execProgUnload p s
  | .sliceEnd p => Sys2Proof.Machine.execSliceEnd p s
  | .eligibilityApply u => Sys2Proof.Machine.execEligibilityApply u s
  | .nonpreemptWatchdog u k => Sys2Proof.Machine.execNonpreemptWatchdog u k s
  | .laneRecal r n v => Sys2Proof.Machine.execLaneRecal r n v s
  | .trainingEnd n peer failed => Sys2Proof.Machine.execTrainingEnd n peer failed s
  | .retrainTimeout n => Sys2Proof.Machine.execRetrainTimeout n s
  | .laneBerWindow n l bad => Sys2Proof.Machine.execLaneBerWindow n l bad s
  | .ack n hdr => Sys2Proof.Machine.execAck n hdr s
  | .nak n hdr => Sys2Proof.Machine.execNak n hdr s
  | .linkCtrl n hdr open_ => Sys2Proof.Machine.execLinkCtrl n hdr open_ s
  | .idle n hdr => Sys2Proof.Machine.execIdle n hdr s
  | .wake n hdr => Sys2Proof.Machine.execWake n hdr s
  | .write n hdr data => Sys2Proof.Machine.execWrite n hdr data s
  | .read n hdr => Sys2Proof.Machine.execRead n hdr s
  | .readResp n hdr data => Sys2Proof.Machine.execReadResp n hdr data s
  | .remoteAtomic n hdr data => Sys2Proof.Machine.execRemoteAtomic n hdr data s
  | .atomicResp n hdr data => Sys2Proof.Machine.execAtomicResp n hdr data s
  | .flagAdd n hdr data => Sys2Proof.Machine.execFlagAdd n hdr data s
  | .msg n hdr data => Sys2Proof.Machine.execMsg n hdr data s
  | .refuse n hdr => Sys2Proof.Machine.execRefuse n hdr s
  | .pvaWrite n hdr data => Sys2Proof.Machine.execPvaWrite n hdr data s
  | .pvaRead n hdr => Sys2Proof.Machine.execPvaRead n hdr s
  | .ackSend n peer => Sys2Proof.Machine.execAckSend n peer s
  | .replayTimeout n peer => Sys2Proof.Machine.execReplayTimeout n peer s
  | .frameTransmit n => Sys2Proof.Machine.execFrameTransmit n s
  | .routeSwitch peer => Sys2Proof.Machine.execRouteSwitch peer s
  | .roceSend n slot psn data icrc ce known bad => Sys2Proof.Machine.execRoceSend n slot psn data icrc ce known bad s
  | .rdmaWrite n slot psn rkey va data icrc ce domain => Sys2Proof.Machine.execRdmaWrite n slot psn rkey va data icrc ce domain s
  | .rdmaRead n slot psn rkey va len icrc ce domain => Sys2Proof.Machine.execRdmaRead n slot psn rkey va len icrc ce domain s
  | .rdmaWriteAck n slot => Sys2Proof.Machine.execRdmaWriteAck n slot s
  | .sendForward n slot => Sys2Proof.Machine.execSendForward n slot s
  | .qpStateWrite r n v => Sys2Proof.Machine.execQpStateWrite r n v s
  | .qpAckTimeout n slot => Sys2Proof.Machine.execQpAckTimeout n slot s
  | .cnpReceive n slot => Sys2Proof.Machine.execCnpReceive n slot s
  | .qpRateRecovery n slot => Sys2Proof.Machine.execQpRateRecovery n slot s
  | .messageDeliver key words => Sys2Proof.Machine.execMessageDeliver key words s
  | .workMessage bs qp => Sys2Proof.Machine.execWorkMessage bs qp s
  | .heldMessageRelease p => Sys2Proof.Machine.execHeldMessageRelease p s
  | .enqCluster p => Sys2Proof.Machine.execEnqCluster p s
  | .enqMarver p => Sys2Proof.Machine.execEnqMarver p s
  | .enqDma p => Sys2Proof.Machine.execEnqDma p s
  | .csr p => Sys2Proof.Machine.execCsr p s
  | .hostPull p => Sys2Proof.Machine.execHostPull p s
  | .tokLoad p => Sys2Proof.Machine.execTokLoad p s
  | .tokEncode p => Sys2Proof.Machine.execTokEncode p s
  | .tokDecode p => Sys2Proof.Machine.execTokDecode p s
  | .audioIn p => Sys2Proof.Machine.execAudioIn p s
  | .sessionOpen p => Sys2Proof.Machine.execSessionOpen p s
  | .sessionClose p => Sys2Proof.Machine.execSessionClose p s
  | .featureFrame k => Sys2Proof.Machine.execFeatureFrame k s
  | .outputScan k => Sys2Proof.Machine.execOutputScan k s
  | .gluePoll k => Sys2Proof.Machine.execGluePoll k s
  | .glueRecord k => Sys2Proof.Machine.execGlueRecord k s
  | .ptnCreate p => Sys2Proof.Machine.execPtnCreate p s
  | .ptnRelease p => Sys2Proof.Machine.execPtnRelease p s
  | .scrubDone r => Sys2Proof.Machine.execScrubDone r s
  | .pkgLoad p => Sys2Proof.Machine.execPkgLoad p s
  | .pkgLoadDone => Sys2Proof.Machine.execPkgLoadDone s
  | .pkgUnload p => Sys2Proof.Machine.execPkgUnload p s
  | .secIdentity p => Sys2Proof.Machine.execSecIdentity p s
  | .attest p => Sys2Proof.Machine.execAttest p s
  | .lcAdvance p => Sys2Proof.Machine.execLcAdvance p s
  | .tamper src => Sys2Proof.Machine.execTamper src s
  | .unitRetire p => Sys2Proof.Machine.execUnitRetire p s
  | .unitReadmit p => Sys2Proof.Machine.execUnitReadmit p s
  | .readmitTestDone rows fails => Sys2Proof.Machine.execReadmitTestDone rows fails s
  | .flipArm r t v => Sys2Proof.Machine.execFlipArm r t v s
  | .roundEnd vals => Sys2Proof.Machine.execRoundEnd vals s
  | .clockStepApply e => Sys2Proof.Machine.execClockStepApply e s
  | .lehrForce r => Sys2Proof.Machine.execLehrForce r s
  | .lehrClear r => Sys2Proof.Machine.execLehrClear r s
  | .lehrWaitExpiry p => Sys2Proof.Machine.execLehrWaitExpiry p s
  | .lehrEvict => Sys2Proof.Machine.execLehrEvict s
  | .lehrDone => Sys2Proof.Machine.execLehrDone s
  | .analogueTrip c => Sys2Proof.Machine.execAnalogueTrip c s
  | .governorSample v1 v2 i1 i2 => Sys2Proof.Machine.execGovernorSample v1 v2 i1 i2 s
  | .powerOn => Sys2Proof.Machine.execPowerOn s
  | .powerOnResetRelease => Sys2Proof.Machine.execPowerOnResetRelease s
  | .moduleReset => Sys2Proof.Machine.execModuleReset s
  | .resetLRelease => Sys2Proof.Machine.execResetLRelease s
  | .stageComplete => Sys2Proof.Machine.execStageComplete s
  | .stageTimeout => Sys2Proof.Machine.execStageTimeout s
  | .stageFault code => Sys2Proof.Machine.execStageFault code s
  | .updateImage p => Sys2Proof.Machine.execUpdateImage p s
  | .installUnitSwap chans => Sys2Proof.Machine.execInstallUnitSwap chans s
  | .bootSelectCommit p => Sys2Proof.Machine.execBootSelectCommit p s
  | .bootSelectRevert p => Sys2Proof.Machine.execBootSelectRevert p s
  | .bootSelectRaiseSvn p => Sys2Proof.Machine.execBootSelectRaiseSvn p s
  | .bootSelectRevokeKey0 p => Sys2Proof.Machine.execBootSelectRevokeKey0 p s
  | .fritRequest p => Sys2Proof.Machine.execFritRequest p s
  | .fritExit => Sys2Proof.Machine.execFritExit s
  | .bootRecWindowRead r j => Sys2Proof.Machine.execBootRecWindowRead r j s
  | .inputLow mv => Sys2Proof.Machine.execInputLow mv s
  | .powerFail => Sys2Proof.Machine.execPowerFail s
  | .domainOn n => Sys2Proof.Machine.execDomainOn n s
  | .domainWakeTimeout n => Sys2Proof.Machine.execDomainWakeTimeout n s
  | .autoOff n idle => Sys2Proof.Machine.execAutoOff n idle s
  | .pwrDomReq r n v => Sys2Proof.Machine.execPwrDomReq r n v s
  | .powerReqActive r eid => Sys2Proof.Machine.execPowerReqActive r eid s
  | .powerReqIdle r eid => Sys2Proof.Machine.execPowerReqIdle r eid s
  | .powerReqNap r eid => Sys2Proof.Machine.execPowerReqNap r eid s
  | .powerReqDeep r eid => Sys2Proof.Machine.execPowerReqDeep r eid s
  | .autoIdle idle => Sys2Proof.Machine.execAutoIdle idle s
  | .powerEntryComplete => Sys2Proof.Machine.execPowerEntryComplete s
  | .wakeCause kind => Sys2Proof.Machine.execWakeCause kind s
  | .wakeComplete => Sys2Proof.Machine.execWakeComplete s
  | .signalDetect => Sys2Proof.Machine.execSignalDetect s
  | .wakeWindowExpiry => Sys2Proof.Machine.execWakeWindowExpiry s
  | .pllLockLoss k => Sys2Proof.Machine.execPllLockLoss k s
  | .pllRelock k => Sys2Proof.Machine.execPllRelock k s
  | .setEndpointId src pec op eid => Sys2Proof.Machine.execSetEndpointId src pec op eid s
  | .getEndpointId src pec => Sys2Proof.Machine.execGetEndpointId src pec s
  | .getEndpointUuid src pec => Sys2Proof.Machine.execGetEndpointUuid src pec s
  | .getMctpVersionSupport src pec typ => Sys2Proof.Machine.execGetMctpVersionSupport src pec typ s
  | .getMessageTypeSupport src pec => Sys2Proof.Machine.execGetMessageTypeSupport src pec s
  | .mgtWork src pec bs => Sys2Proof.Machine.execMgtWork src pec bs s
  | .telemetry src pec => Sys2Proof.Machine.execTelemetry src pec s
  | .bootRecord src pec block => Sys2Proof.Machine.execBootRecord src pec block s
  | .mgtEventSend acked => Sys2Proof.Machine.execMgtEventSend acked s
  | .smbusTimeout low => Sys2Proof.Machine.execSmbusTimeout low s
  | .csrAccess dpa write v => Sys2Proof.Machine.execCsrAccess dpa write v s
  | .idcode => Sys2Proof.Machine.execIdcode s
  | .extest pins tdi => Sys2Proof.Machine.execExtest pins tdi s
  | .samplePreload pins tdi => Sys2Proof.Machine.execSamplePreload pins tdi s
  | .internalScan tdi => Sys2Proof.Machine.execInternalScan tdi s
  | .bypass code tdi => Sys2Proof.Machine.execBypass code tdi s
  | .tapReset => Sys2Proof.Machine.execTapReset s
  | .aoCountRead r => Sys2Proof.Machine.execAoCountRead r s
  | .entryWindowRead r => Sys2Proof.Machine.execEntryWindowRead r s
  | .lineReplacement die ptn burst => Sys2Proof.Machine.execLineReplacement die ptn burst s
  | .linkSignalLoss n retrain => Sys2Proof.Machine.execLinkSignalLoss n retrain s
  | .linkSignalDetect n => Sys2Proof.Machine.execLinkSignalDetect n s
  | .laneRecalEnd n ok => Sys2Proof.Machine.execLaneRecalEnd n ok s
  | .tripResetHoldRelease => Sys2Proof.Machine.execTripResetHoldRelease s
  | .inputLowEnd => Sys2Proof.Machine.execInputLowEnd s
  | .roceAck n slot psn syn => Sys2Proof.Machine.execRoceAck n slot psn syn s
  | .rdmaReadResponse n slot data icrc ce far => Sys2Proof.Machine.execRdmaReadResponse n slot data icrc ce far s

end Sys2Proof.Machine
end

