-- ==== Sys2Proof/Machine/Idle.lean ====
section
/-! DEFINITION. What a step does on an empty queue. -/

namespace Sys2Proof.Machine

/-- One ao-cycle passes without a command (20, R433; DESIGN CHOICE); the parts of writes that were still to land have landed (12, R245), a tile that has held its core too long into a serving window voids the step (11, R229), and the security core has met the errors of weight keys (17, R368). -/
def Dev.tick (d : Dev) : Dev :=
  let e : Dev := { d.landTorn (fun _ => true) with ao := d.ao + 1 }
  (e.each (e.ptnx.map Prod.fst) Dev.parkOnset).keyErrors

def idle (s : State) : State := { s with dev := s.dev.tick }

end Sys2Proof.Machine
end

