-- ==== Sys2Proof/Safety.lean ====
section
/-! DEFINITION. The terms in which claims are stated: a run that goes on, a device that changes in its registers only, memory that reads the same. -/

namespace Sys2Proof.Machine

/-- The next step from `s` goes on. -/
def State.Goes (s : State) : Prop := ∃ t, step s = .next t

/-- `k` steps, one after the other, from `s` to `t`. -/
def State.Runs : Nat → State → State → Prop
  | 0, s, t => t = s
  | k + 1, s, t => ∃ u, step s = .next u ∧ State.Runs k u t

/-- The device after a command. -/
def Dev.after (d : Dev) (c : Instr) : Dev := match exec c ⟨d, []⟩ with | .next t => t.dev | _ => d

/-- `d'` differs from `d` in register words, in the notes of the present ao-cycle, in waiting event records and in which EVENT bits have been reported only. -/
def Dev.RegsOnly (d d' : Dev) : Prop := d' = { d with csr := d'.csr, cyc := d'.cyc, events := d'.events, evSent := d'.evSent }

/-- `d'` differs from `d` in what a write to memory may touch only: bytes, poison marks, stored error patterns, parts of units under write (12, R245) with the free values drawn for them, and what `Dev.RegsOnly` allows. -/
def Dev.BytesOnly (d d' : Dev) : Prop :=
  d' = { d with csr := d'.csr, cyc := d'.cyc, events := d'.events, evSent := d'.evSent, mem := d'.mem, marks := d'.marks, errs := d'.errs, injected := d'.injected, torn := d'.torn, freeNext := d'.freeNext }

/-- Every part of a unit still to land (12, R245) lies in one aligned 32 bytes. -/
abbrev Dev.PartsFit (d : Dev) : Prop := ∀ u ∈ d.torn, u.1 % 32 + u.2.length ≤ 32

/-- The byte at `a` stands in none of the 64-byte units that the writes `outs` touch, also where a granule of them or of `a` is remapped. -/
abbrev Dev.Outside (d : Dev) (outs : List (Nat × List Byte × Bool)) (a : Nat) : Prop :=
  ∀ o ∈ outs, ∀ b, o.1 / 64 ≤ b / 64 → b / 64 * 64 < o.1 + o.2.1.length → d.home a ≠ d.home b

/-- Every byte of memory reads in `d'` as in `d`. -/
def Dev.SameBytes (d d' : Dev) : Prop := ∀ a, d'.rawByte a = d.rawByte a

/-- Every register word of page `p` but those at the listed offsets reads in `d'` as in `d`; so does every word of every other page. -/
def Dev.SameRegsBut (d d' : Dev) (p : Page) (offs : List Nat) : Prop :=
  ∀ k, (∀ o ∈ offs, k ≠ p.base + o) → tget? d'.csr k = tget? d.csr k

/-- Page `p` takes the writes of role `r` (02, R34–R36): the always-on domain is up, R36 lets the role write, the page's domain is not OFF, and the device is not in IDLE, which such a write would end. -/
abbrev Dev.Takes (d : Dev) (r : Role) (p : Page) : Prop :=
  d.pwr.up = true ∧ d.mayAccess r p true = true ∧ d.pageOff p = false ∧ d.devPower ≠ 1

/-- Page `p` answers the reads of role `r` (02, R34–R36). -/
abbrev Dev.Gives (d : Dev) (r : Role) (p : Page) : Prop :=
  d.pwr.up = true ∧ d.mayAccess r p false = true ∧ d.pageOff p = false

/-- No role of higher rank than `r` has written the register in this ao-cycle (02, R37). -/
abbrev Dev.Ranks (d : Dev) (r : Role) (p : Page) (off : Nat) : Prop := tgetD d.now.roles (p.base + off) 0 ≤ roleRank r

/-- From `s` to `t` job `j` has faulted in queue `q` of unit `u` (02, R32; 04, R80, R82; 11, R222): the page has FAULT, with code and INFO where it had no fault before; the job holds the code, a general or reserved job is FAULTED; the queue, bound to the job, is FAULTED with the code, and empty where no abort of the job was under way. -/
abbrev Dev.JobFaulted (s t : Dev) (u : UnitKey) (q j code info : Nat) : Prop :=
  t.bit (uPage u) 0x10 evFault = true ∧
  (s.bit (uPage u) 0x10 evFault = false → t.reg (uPage u) 0x18 = BitVec.ofNat 32 code ∧ t.reg (uPage u) 0x1C = BitVec.ofNat 32 info) ∧
  (t.job j).code = code ∧ ((s.job j).cls ≠ 1 → (t.job j).state = 2) ∧
  (s.qBound u q = true → s.qJob u q = j → q < uQueues u → t.qMark u q = 5 ∧ t.getF (uPage u) (qOff u q + 0xC) 15 0 = code ∧
    (s.aborting j = false → (s.job j).cls = 1 ∨ (s.job j).state ≠ 2 → t.qCmds u q = []))

/-- Queue `q` of cluster `n` is served (04, R62, R66–R68; 11, R220; 12, R247): it is bound and not stopped, no FENCE holds it, its job is eligible, its head `w` passes the checks of its `k` commands, and the round robin chooses it, which leaves the credits of `e`. -/
abbrev Dev.GafServed (d : Dev) (n q w k : Nat) (e : Dev) : Prop :=
  d.gafRuns n = true ∧ d.qBound n q = true ∧ d.qMark n q = 0 ∧ d.qFence n q = none ∧ d.eligible n (d.qJob n q) = true ∧
  (d.headFault n q).isNone = true ∧ d.qHead n q = some w ∧ headCheck (d.qCmds n q) = .good k ∧ d.gafChoose n = some (q, e)

/-- Queue `q` of the marver of stack `k` is served (07, R127, R128, R131): it is bound and not stopped, no FENCE holds it, its job is eligible, its head `w` passes its checks, its signal goes to a cluster of the partition, the stack is ON, and the round robin chooses it, which leaves the credits of `e`. -/
abbrev Dev.MvrServed (d : Dev) (k q w : Nat) (e : Dev) : Prop :=
  d.mvrOpen k q = true ∧ d.qHead (mU k) q = some w ∧ mvrCheck (w % 2 ^ 512) = none ∧ d.queueBad (mU k) q = false ∧
  (mvrSignals (fld w 7 0) = true → mhSigEn w = true → mhSigKind w = true → d.owner (pClu (mhSigClu w)) = (d.job (d.qJob (mU k) q)).ptn) ∧
  d.dom (80 + k) = dsOn ∧ d.mvrChoose k = some (q, e)

/-- Queue `q` of compute DMA engine `e` is served (13, R265, R267): it is bound, not stopped and not busy, no FENCE holds it, its job is eligible, its head `w` passes its checks and signals no flag of another partition. -/
abbrev Dev.DmaServed (d : Dev) (e q w : Nat) : Prop :=
  d.dmaOpen e q = true ∧ d.qHead (dU e) q = some w ∧ dmaCheck w = none ∧ d.queueBad (dU e) q = false ∧ d.sigForeign (d.job (d.qJob (dU e) q)).ptn w = none

/-- Queue `q` of engine `e` has a transfer of command `w` of job `j` that has issued nothing (13, R268). -/
abbrev Dev.XferStands (d : Dev) (e q w j : Nat) (src dst : Desc) : Prop :=
  ∃ x, tget? (d.dma e).xfers q = some x ∧ x.cmd = BitVec.ofNat 1024 w ∧ x.job = j ∧ x.src = leBytes 128 src ∧ x.dst = leBytes 128 dst ∧
    x.total = ceilDiv (xferElems w dst) (unitElems dst) ∧ x.next = 0 ∧ x.done = 0 ∧ x.flight = [] ∧ d.reg (pDmac e) (dslot e + 0x28 + 4 * q) = 0

/-- FAULT_INFO of the translation fault that a hold slot holds (13, R273, R275): queue, level, write, requester and unit. -/
def Dev.holdInfo (d : Dev) (p h : Nat) : Nat :=
  d.holdQueue p h % 8 + d.getF (pPtn p) (rHold h) 3 2 % 4 * 8 + (if d.bit (pPtn p) (rHold h) 1 then 32 else 0) +
    (if d.holdUnit p h < 0x2000 then 1 else 0) * 64 + uNum (d.holdUnit p h) * 65536

/-- What no item of the intake touches by its answer: memory, jobs and the units. -/
def Dev.SameUnits (d d' : Dev) : Prop :=
  d'.mem = d.mem ∧ d'.jobs = d.jobs ∧ d'.clus = d.clus ∧ d'.cores = d.cores ∧ d'.stks = d.stks ∧ d'.dmas = d.dmas

/-- A BATCH_OPEN body `l` names a loaded program, whose header the intake reads as `im`; `e` is the device after the read. -/
abbrev Dev.OpenReads (d : Dev) (p : Nat) (l : List Byte) (im : Image) (e : Dev) : Prop :=
  ∃ g, tget? (d.px p).progs (numAt l 8 4) = some g ∧ im.pva = g.pva ∧ d.intakeRead p g.pva 256 = (e, .ok (im.hdr, false))

/-- A BATCH_OPEN body `l` of partition `p` passes the checks of R198 for the members `idx`, and neither a lehr stop nor the governor forbids it. -/
abbrev Dev.OpenChecked (d : Dev) (p : Nat) (l : List Byte) (idx : List Nat) : Prop :=
  d.lehr = 0 ∧ 16 ≤ d.govStep ∧ (tget? d.batches (numAt l 0 2)).isNone = true ∧ openFieldsOk l = true ∧
  idx = (List.range (numAt l 2 2)).map (fun m => numAt l (0x40 + 2 * m) 2) ∧ d.openMemberBad p idx 0 [] = none ∧
  (∀ k ∈ idx, rqModel (d.rq k) = numAt l 4 1 ∧ rqVocab (d.rq k) = rqVocab (d.rq ((idx.head?).getD 0))) ∧
  4 * rqVocab (d.rq ((idx.head?).getD 0)) ≤ numAt l 0x28 4

/-- The worst case of a step of the batch that a BATCH_OPEN body opens (11, R226). -/
def Dev.openWorst (d : Dev) (p : Nat) (l : List Byte) (idx : List Nat) (g : Image) : Nat :=
  let ms := idx.map fun k =>
    (bucketOf (rqMaxlen (d.rq k) - 1), max (if numAt l 0x10 8 = 0 then 1 else 64) (min 8192 (rqPrompt (d.rq k) - rqLength (d.rq k))))
  g.worst (d.getF (pPtn p) 0x380 15 0) (d.hasGeneral p) (min 65536 (ms.foldl (fun a m => a + m.2) 0)) ms

/-- In `f` the batch stands that a BATCH_OPEN body opened in `e`: its members, its worst case, the present ao-cycle; every member says that it is in it (10, R198). -/
def Dev.BatchStands (f e : Dev) (p : Nat) (l : List Byte) (idx : List Nat) (g : Image) : Prop :=
  (∃ b, tget? f.batches (numAt l 0 2) = some b ∧ b.ptn = p ∧ b.prog = numAt l 8 4 ∧ b.period = numAt l 0x0C 4 ∧ b.mems = (List.range idx.length).zip idx ∧
    b.opened = e.ao ∧ b.k = 0 ∧ b.wc = e.openWorst p l idx g ∧ b.closing = false) ∧
  (∀ n, n ≠ numAt l 0 2 → tget? f.batches n = tget? e.batches n) ∧
  (∀ k ∈ idx, rqInBatch (f.rq k) = true ∧ rqBatch (f.rq k) = numAt l 0 2) ∧ (∀ k, k ∉ idx → f.rq k = e.rq k) ∧
  f.mem = e.mem ∧ f.csr = e.csr

/-- Port `n` is in training that began in this ao-cycle: no lane carries traffic (14, R282). -/
abbrev Dev.Trains (d : Dev) (n : Nat) : Prop :=
  d.st (pLink n) = lsTraining ∧ d.getF (pLink n) 0x4C 7 4 = 0 ∧ d.getF (pLink n) 0x4C 10 8 = 0 ∧ (d.port n).trainAt = some d.ao ∧ (d.port n).trainOver = false

/-- Port `n` carries frames and the device is awake; frame `f` is for it and came on an open path (14, R286). -/
abbrev Dev.Hears (d : Dev) (n : Nat) (f : Frame) : Prop :=
  d.portUp n = true ∧ d.devPower = 0 ∧ f.dst = d.devnum ∧ d.pathOpen (pathKey n f.src) = true

/-- The device after a DATA frame has been accepted: its ACK_SEQ and DONE_SEQ are taken, the frame counts, the path expects the next (14, R286). -/
def Dev.accepts (d : Dev) (n : Nat) (f : Frame) : Dev :=
  let e := d.heard (pathKey n f.src) f
  let p := e.path (pathKey n f.src)
  (e.addCount (pLink n) 0x60 1).setPath (pathKey n f.src) { p with expect := seqNext p.expect, unacked := p.unacked + 1, ackAt := if p.unacked = 0 then e.ao else p.ackAt }

/-- The bytes from `a` to `b` are asked of one kind of memory, stacks or cluster buffers (12, R239; 14, R291). -/
def InMemory (a b : Nat) : Prop :=
  (∃ k x k' x', loc a = .stack k x ∧ loc b = .stack k' x') ∨ (∃ c x c' x', loc a = .buf c x ∧ loc b = .buf c' x')

/-- A DATA frame is accepted and nothing stands before it on its path; `e` is the device with the frame about to be performed. -/
abbrev Dev.Accepts (d : Dev) (n : Nat) (f : Frame) (e : Dev) : Prop :=
  d.Hears n f ∧ f.seq = ((d.heard (pathKey n f.src) f).path (pathKey n f.src)).expect ∧ (∀ o ∈ (d.accepts n f).inOps, o.path ≠ pathKey n f.src) ∧ (d.accepts n f).devPower = 0 ∧
  e = { d.accepts n f with inOps := (d.accepts n f).inOps ++ [⟨pathKey n f.src, f.seq, f⟩] }

/-- `d` is `g` but for the frames that wait to be performed and for the counts of the paths. -/
abbrev Dev.PathsOnly (g d : Dev) : Prop := d = { g with inOps := d.inOps, paths := d.paths }

/-- `d` is `g`, the frame last accepted on path `k` performed: it waits no longer, and the path expects the frame after it. -/
abbrev Dev.Performed (g d : Dev) (k : Nat) : Prop :=
  g.PathsOnly d ∧ (∀ o ∈ d.inOps, o.path ≠ k) ∧ (d.path k).expect = (g.path k).expect

/-- Commands by which the device itself writes, moves, clears or leaves memory: a buffer cycle, a die-cache write-back, a granule copy, a repair, the supply, the inputs, the flags, the PLLs, the management and JTAG ports. -/
def ownCommand : Instr → Bool
  | .bufferWriteLand _ | .secureWipeEnd _ | .bgBlockStart _ | .cluFlagAdd .. | .stkMvrFlagAdd .. | .lineReplacement .. | .granuleCopyDone .. | .repairDone .. | .rowHistoryExpiry .. | .flipArm ..
  | .clockStepApply _ | .pllLockLoss _ | .pllRelock _ | .powerOn | .powerFail | .moduleReset | .inputLowEnd | .signalDetect | .autoIdle _ | .smbusTimeout _
  | .setEndpointId .. | .getEndpointId .. | .getEndpointUuid .. | .getMctpVersionSupport .. | .getMessageTypeSupport .. | .telemetry .. | .bootRecord ..
  | .idcode | .extest .. | .samplePreload .. | .internalScan _ | .bypass .. | .tapReset => true
  | _ => false

/-- Memory is in its canonical form, and only such commands wait. -/
abbrev State.MemInv (s : State) : Prop := Memory.wf s.dev.mem ∧ ∀ c ∈ s.pending, ownCommand c = true

end Sys2Proof.Machine
end

