-- ==== Sys2Proof/WellFormed.lean ====
section
/-! DEFINITION. Well-formed commands: what the sender of a command can put into its operands. A meaning is defined on every command; these are the bounds within which the spec speaks of it. -/

namespace Sys2Proof

/-- A link frame carries 1 to 8,192 bytes of data (14, R284, R288, R289). -/
def payloadOk (data : List Byte) : Bool := 1 ≤ data.length && data.length ≤ 8192

/-- An atomic carries one 32-byte word (14, R288). -/
def wordOk (data : List Byte) : Bool := data.length = 32

/-- A message has at most 16,777,215 bytes on its way; one longer than 1,048,576 is refused (14, R301, R303). -/
def messageOk (data : List Byte) : Bool := data.length < 2 ^ 24

/-- A host RDMA operation moves at most 16,777,216 bytes (14, R296). -/
def transferOk (data : List Byte) : Bool := data.length ≤ 2 ^ 24

/-- A destination record has six words, and its partition a link domain (14, R313). -/
def recordOk (words : List (BitVec 32)) : Bool := words.length = 7

/-- A round samples 320 channels (18, R384). -/
def roundOk (vals : List (Option (BitVec 16))) : Bool := vals.length = 320

/-- Failing bits of a buffer test: a word below 32,768 and a bit below 288 (05, R85, R96). -/
def failsOk (fails : List (Nat × Nat)) : Bool := fails.all fun f => f.1 < 32768 && f.2 < 288

/-- A boundary scan shifts in as many bits as it captures (21, R453). -/
def shiftOk (pins tdi : List Bool) : Bool := pins.length = tdi.length

/-- An access moves at least one byte (02, R25). -/
def sizeOk (size : Fin 65) : Bool := 1 ≤ size.val

/-- The operands are within their bounds. -/
def Instr.wf (i : Instr) : Bool :=
  match i with
  | .registerWrite _ _ size _ => sizeOk size
  | .rclRead _ _ size => sizeOk size
  | .ctrlEnable .. => true
  | .ctrlQuiesce .. => true
  | .quiesceComplete .. => true
  | .ctrlTest .. => true
  | .unitInitEnd .. => true
  | .eventMessageSend .. => true
  | .clusterReset .. => true
  | .portReset .. => true
  | .partitionReset .. => true
  | .warmDeviceReset .. => true
  | .controlWordIssue .. => true
  | .resultLand .. => true
  | .bufferWriteLand .. => true
  | .tileComplete .. => true
  | .intakeHeldAppend .. => true
  | .tile .. => true
  | .gafferNop .. => true
  | .gafferSignal .. => true
  | .gafferWait .. => true
  | .gafferFence .. => true
  | .fenceComplete .. => true
  | .csload .. => true
  | .csloadComplete .. => true
  | .merge .. => true
  | .mergeComplete .. => true
  | .streamEntryPush .. => true
  | .cluFlagAdd .. => true
  | .flagWaitTimeout .. => true
  | .jobAbortPropagate .. => true
  | .tileResume .. => true
  | .ucodeSwap .. => true
  | .ucodeSwapDone .. => true
  | .cluBufSecureWrite .. => true
  | .secureWipeEnd .. => true
  | .marchStart .. => true
  | .marchEnd .. => true
  | .bgBlockStart .. => true
  | .bgBlockEnd _ fails => failsOk fails
  | .descCreate .. => true
  | .descDestroy .. => true
  | .mv .. => true
  | .attn .. => true
  | .marverCopy .. => true
  | .fill .. => true
  | .scrub .. => true
  | .marverAtomic .. => true
  | .marverSignal .. => true
  | .marverWait .. => true
  | .marverFence .. => true
  | .marverNop .. => true
  | .marverCommandComplete .. => true
  | .stkMvrFlagAdd .. => true
  | .marverFlagWaitTimeout .. => true
  | .sealMapWrite .. => true
  | .stackSelfRefreshExit .. => true
  | .stackDmaResume .. => true
  | .eccReread .. => true
  | .repairDone .. => true
  | .granuleCopyDone .. => true
  | .rowHistoryExpiry .. => true
  | .patrolRead .. => true
  | .dmaCopy .. => true
  | .gather .. => true
  | .scatter .. => true
  | .scatterAdd .. => true
  | .dmaAtomic .. => true
  | .dmaWait .. => true
  | .dmaSignal .. => true
  | .dmaFence .. => true
  | .dmaNop .. => true
  | .dmaUnitIssue .. => true
  | .dmaUnitComplete .. => true
  | .dmaTransferComplete .. => true
  | .dmaResume .. => true
  | .dmaWaitTimeout .. => true
  | .holdResume .. => true
  | .holdAbort .. => true
  | .holdLimitExpiry .. => true
  | .xlateMap .. => true
  | .xlateUnmap .. => true
  | .invalidationComplete .. => true
  | .jobBindDma .. => true
  | .reqAdmit .. => true
  | .reqRelease .. => true
  | .batchOpen .. => true
  | .batchOpenProve .. => true
  | .batchClose .. => true
  | .stepRelease .. => true
  | .stage2Start .. => true
  | .samplingStart .. => true
  | .commitPublish .. => true
  | .pageReturn .. => true
  | .adapterInstall .. => true
  | .adapterInstallPoint .. => true
  | .adapterRemove .. => true
  | .puntyPublish .. => true
  | .puntyRelease .. => true
  | .puntyPin .. => true
  | .jobCreate .. => true
  | .jobBind .. => true
  | .jobBindStack .. => true
  | .jobUnbind .. => true
  | .jobReserve .. => true
  | .jobDestroy .. => true
  | .progLoad .. => true
  | .progUnload .. => true
  | .sliceEnd .. => true
  | .eligibilityApply .. => true
  | .nonpreemptWatchdog .. => true
  | .laneRecal .. => true
  | .trainingEnd .. => true
  | .retrainTimeout .. => true
  | .laneBerWindow .. => true
  | .ack .. => true
  | .nak .. => true
  | .linkCtrl .. => true
  | .idle .. => true
  | .wake .. => true
  | .write _ _ data => payloadOk data
  | .read .. => true
  | .readResp _ _ data => payloadOk data
  | .remoteAtomic _ _ data => wordOk data
  | .atomicResp _ _ data => wordOk data
  | .flagAdd .. => true
  | .msg _ _ data => payloadOk data
  | .refuse .. => true
  | .pvaWrite _ _ data => payloadOk data
  | .pvaRead .. => true
  | .ackSend .. => true
  | .replayTimeout .. => true
  | .frameTransmit .. => true
  | .routeSwitch .. => true
  | .roceSend _ _ _ data _ _ _ _ => messageOk data
  | .rdmaWrite _ _ _ _ _ data _ _ _ => transferOk data
  | .rdmaRead .. => true
  | .rdmaWriteAck .. => true
  | .sendForward .. => true
  | .qpStateWrite .. => true
  | .qpAckTimeout .. => true
  | .cnpReceive .. => true
  | .qpRateRecovery .. => true
  | .messageDeliver _ words => recordOk words
  | .workMessage bs _ => messageOk bs
  | .heldMessageRelease .. => true
  | .enqCluster .. => true
  | .enqMarver .. => true
  | .enqDma .. => true
  | .csr .. => true
  | .hostPull .. => true
  | .tokLoad .. => true
  | .tokEncode .. => true
  | .tokDecode .. => true
  | .audioIn .. => true
  | .sessionOpen .. => true
  | .sessionClose .. => true
  | .featureFrame .. => true
  | .outputScan .. => true
  | .gluePoll .. => true
  | .glueRecord .. => true
  | .ptnCreate .. => true
  | .ptnRelease .. => true
  | .scrubDone .. => true
  | .pkgLoad .. => true
  | .pkgLoadDone => true
  | .pkgUnload .. => true
  | .secIdentity .. => true
  | .attest .. => true
  | .lcAdvance .. => true
  | .tamper .. => true
  | .unitRetire .. => true
  | .unitReadmit .. => true
  | .readmitTestDone .. => true
  | .flipArm .. => true
  | .roundEnd vals => roundOk vals
  | .clockStepApply .. => true
  | .lehrForce .. => true
  | .lehrClear .. => true
  | .lehrWaitExpiry .. => true
  | .lehrEvict => true
  | .lehrDone => true
  | .analogueTrip .. => true
  | .governorSample .. => true
  | .powerOn => true
  | .powerOnResetRelease => true
  | .moduleReset => true
  | .resetLRelease => true
  | .stageComplete => true
  | .stageTimeout => true
  | .stageFault .. => true
  | .updateImage .. => true
  | .installUnitSwap .. => true
  | .bootSelectCommit .. => true
  | .bootSelectRevert .. => true
  | .bootSelectRaiseSvn .. => true
  | .bootSelectRevokeKey0 .. => true
  | .fritRequest .. => true
  | .fritExit => true
  | .bootRecWindowRead .. => true
  | .inputLow .. => true
  | .powerFail => true
  | .domainOn .. => true
  | .domainWakeTimeout .. => true
  | .autoOff .. => true
  | .pwrDomReq .. => true
  | .powerReqActive .. => true
  | .powerReqIdle .. => true
  | .powerReqNap .. => true
  | .powerReqDeep .. => true
  | .autoIdle .. => true
  | .powerEntryComplete => true
  | .wakeCause .. => true
  | .wakeComplete => true
  | .signalDetect => true
  | .wakeWindowExpiry => true
  | .pllLockLoss .. => true
  | .pllRelock .. => true
  | .setEndpointId .. => true
  | .getEndpointId .. => true
  | .getEndpointUuid .. => true
  | .getMctpVersionSupport .. => true
  | .getMessageTypeSupport .. => true
  | .mgtWork _ _ bs => messageOk bs
  | .telemetry .. => true
  | .bootRecord .. => true
  | .mgtEventSend .. => true
  | .smbusTimeout .. => true
  | .csrAccess .. => true
  | .idcode => true
  | .extest pins tdi => shiftOk pins tdi
  | .samplePreload pins tdi => shiftOk pins tdi
  | .internalScan .. => true
  | .bypass .. => true
  | .tapReset => true
  | .aoCountRead .. => true
  | .entryWindowRead .. => true
  | .lineReplacement .. => true
  | .linkSignalLoss .. => true
  | .linkSignalDetect .. => true
  | .laneRecalEnd .. => true
  | .tripResetHoldRelease => true
  | .inputLowEnd => true
  | .roceAck .. => true
  | .rdmaReadResponse _ _ data _ _ _ => transferOk data

end Sys2Proof
end

