-- ==== Sys2Proof/Certificates/Slice0/Obligations.lean ====
section
/-! DEFINITION. The statements about the device that are to be proved: what each command does and leaves, when it completes, and what every step keeps. -/

open Sys2Proof Sys2Proof.Machine

/-- For every command, device and queue: step of the state whose queue starts with the command is exec of that command on the state with the queue's rest. The queue is the model's own form (log entry 1). (02 Control Space and Block Pages) -/
def Obligations.StepPerformsFrontCommand : Prop :=
  ∀ (c : Instr) (d : Dev) (rest : List Instr),
    Sys2Proof.Machine.step ⟨d, c :: rest⟩ = Sys2Proof.Machine.exec c ⟨d, rest⟩

/-- On an empty queue a step adds one to the ao-cycle count and leaves the queue empty; where no error stands in an SRAM, no part of a write is still to land after it. Where besides no part of a write is still to land, and no partition has a step running, it changes nothing else. That a step on an empty queue stands for one ao-cycle is the model's choice (log entry 2). (R433) -/
def Obligations.IdleStepPassesOneAoCycle : Prop :=
  ∀ (d : Dev),
    (∃ t, Sys2Proof.Machine.step ⟨d, []⟩ = .next t ∧ t.pending = [] ∧ t.dev.ao = d.ao + 1 ∧ (d.sram = [] → t.dev.torn = [])) ∧
    (d.torn = [] → d.sram = [] → (∀ e ∈ d.ptnx, e.2.step = none) →
      Sys2Proof.Machine.step ⟨d, []⟩ = .next ⟨{ d with ao := d.ao + 1 }, []⟩)

/-- The state after reset meets the invariant of MemoryStaysCanonical. In it, for every page of control space: STATUS.STATE is 0x1 (RESET), FAULT_OVERFLOW is 0, CTRL, EVENT, EVENT_EN, FAULT_CODE, FAULT_INFO and SCRATCH read 0, OWNER reads 0xFF; the ao-cycle count is 0; no byte of memory is listed or marked; the always-on domain 111 is ON, compute domain 0 and the media domain are OFF; no command waits. (R28, R29, R433, R442) -/
def Obligations.ResetLeavesEveryPageInReset : Prop :=
  State.reset.MemInv ∧
  (∀ (i : Fin 0x1410) (p : Page), pageAt i.val = some p →
    State.reset.dev.st p = stReset ∧ State.reset.dev.bit p 0x0C 4 = false ∧ State.reset.dev.reg p 0x08 = 0 ∧
    State.reset.dev.reg p 0x10 = 0 ∧ State.reset.dev.reg p 0x14 = 0 ∧ State.reset.dev.reg p 0x18 = 0 ∧
    State.reset.dev.reg p 0x1C = 0 ∧ State.reset.dev.reg p 0x28 = 0 ∧ State.reset.dev.owner p = 0xFF) ∧
  State.reset.dev.ao = 0 ∧ State.reset.dev.mem = [] ∧ State.reset.dev.marks = [] ∧
  State.reset.dev.dom 111 = dsOn ∧ State.reset.dev.dom 0 = dsOff ∧ State.reset.dev.dom 109 = dsOff ∧ State.reset.pending = []

/-- For every state: as many steps as the queue holds commands lead to a state whose queue is empty and whose device is the device after the commands one by one, first in, first out. No command of the table ends in a fault or a refusal, in any state, on any operands; and no command adds to or takes from the queue. The queue is the model's own form (log entry 1). (02 Control Space and Block Pages) -/
def Obligations.QueueDrainsInOrder : Prop :=
  (∀ (c : Instr) (s : State), ∃ t, Sys2Proof.Machine.exec c s = .next t ∧ t.pending = s.pending) ∧
  (∀ s : State, ∃ t : State, State.Runs s.pending.length s t ∧ t.pending = [] ∧ t.dev = s.pending.foldl Dev.after s.dev)

/-- The security core may read and write every page; the housekeeping core and the operator role every page but for writes of SEC; partition q its own pages, and of the device's pages it may read DEV, CLK, THM and SEC, and of another partition's pages nothing. An access of 4 bytes that the table refuses, aligned, to an assigned page while the always-on domain is up: a read answers zero and is refused, a write is refused; EVENT.ACCESS_DENIED of the page is set, every other register and all of memory stay, event records aside. (R36) -/
def Obligations.AccessRightsByRequester : Prop :=
  (∀ (d : Dev) (p : Page) (w : Bool), d.mayAccess .security p w = true ∧
    (d.mayAccess .housekeeping p w = true ↔ ¬ (w = true ∧ p.blk = .sec)) ∧
    (d.mayAccess .operator p w = true ↔ ¬ (w = true ∧ p.blk = .sec)) ∧
    ∀ q : Fin 24, (d.mayAccess (.partition q) p w = true ↔
      d.owner p = q.val ∨ (d.owner p = 0xFF ∧ w = false ∧ (p.blk = .dev ∨ p.blk = .clk ∨ p.blk = .thm ∨ p.blk = .sec)))) ∧
  (∀ (s : State) (r : Role) (i : Fin 0x1410) (p : Page) (k : Fin 1024) (v : BitVec 64), pageAt i.val = some p → s.dev.pwr.up = true →
    (s.dev.mayAccess r p true = false →
      ∃ t, Sys2Proof.Machine.exec (.registerWrite r (BitVec.ofNat 26 (i.val * 0x1000 + 4 * k.val)) 4 v) s = .next t ∧
        t.pending = s.pending ∧ t.dev.resp = 0 ∧ t.dev.respRefused = true ∧ t.dev.bit p 0x10 evDenied = true ∧
        t.dev.SameRegsBut s.dev p [0x10] ∧ t.dev.mem = s.dev.mem) ∧
    (s.dev.mayAccess r p false = false →
      ∃ t, Sys2Proof.Machine.exec (.rclRead r (BitVec.ofNat 26 (i.val * 0x1000 + 4 * k.val)) 4) s = .next t ∧
        t.pending = s.pending ∧ t.dev.resp = 0 ∧ t.dev.respRefused = true ∧ t.dev.bit p 0x10 evDenied = true ∧
        t.dev.SameRegsBut s.dev p [0x10] ∧ t.dev.mem = s.dev.mem))

/-- An aligned 8-byte write is the write of its lower half and then that of its upper half; a write of another size, or one that is not aligned, is refused and changes nothing. A write of EVENT of any page in an ao-cycle in which no condition arose clears the bits where it carries a 1, FAULT aside, and leaves every other register. Of a page of the CLK, DIE, SMP, SVC, BOOT or MGT blocks, for each register of the block and each bit: a 4-byte write sets a W1S bit where it carries a 1, clears a W1C bit where it carries a 1 unless the bit was set in this ao-cycle, stores an RW bit, and leaves any other bit; every other register and all of memory stay. SCRATCH of every page stores the word written. The access is one the page takes, from a role that no role of higher rank has preceded in this ao-cycle. (R4, R5, R6, R25, R26, R33, R37) -/
def Obligations.RegisterWriteStoresByFieldType : Prop :=
  (∀ (s : State) (r : Role) (i : Fin 0x1410) (p : Page) (v : BitVec 64), pageAt i.val = some p → s.dev.Takes r p → s.dev.Ranks r p 0x28 →
    ∃ t, Sys2Proof.Machine.exec (.registerWrite r (BitVec.ofNat 26 (i.val * 0x1000 + 0x28)) 4 v) s = .next t ∧ t.pending = s.pending ∧
      t.dev.reg p 0x28 = v.setWidth 32 ∧ t.dev.SameRegsBut s.dev p [0x28] ∧ t.dev.mem = s.dev.mem ∧ t.dev.respRefused = false) ∧
  (∀ (s : State) (r : Role) (off : BitVec 26) (p : Page) (v : BitVec 64), pageOf off.toNat = some p → off.toNat % 8 = 0 →
    ∃ u t, Sys2Proof.Machine.exec (.registerWrite r off 4 v) s = .next u ∧ Sys2Proof.Machine.exec (.registerWrite r (off + 4) 4 (v >>> 32)) u = .next t ∧
      Sys2Proof.Machine.exec (.registerWrite r off 8 v) s = .next t) ∧
  (∀ (s : State) (r : Role) (off : BitVec 26) (size : Fin 65) (v : BitVec 64), ¬ (size.val = 4 ∧ off.toNat % 4 = 0) → ¬ (size.val = 8 ∧ off.toNat % 8 = 0) →
    ∃ t, Sys2Proof.Machine.exec (.registerWrite r off size v) s = .next t ∧ t.pending = s.pending ∧ t.dev.respRefused = true ∧
      t.dev.csr = s.dev.csr ∧ t.dev.mem = s.dev.mem) ∧
  (∀ (s : State) (r : Role) (i : Fin 0x1410) (p : Page) (v : BitVec 64), pageAt i.val = some p → s.dev.Takes r p → s.dev.Ranks r p 0x10 →
    s.dev.setsNow p 0x10 = 0 → v.getLsbD 0 = false →
    ∃ t, Sys2Proof.Machine.exec (.registerWrite r (BitVec.ofNat 26 (i.val * 0x1000 + 0x10)) 4 v) s = .next t ∧ t.pending = s.pending ∧
      t.dev.reg p 0x10 = s.dev.reg p 0x10 &&& ~~~(v.setWidth 32) ∧ t.dev.SameRegsBut s.dev p [0x10] ∧ t.dev.mem = s.dev.mem ∧ t.dev.respRefused = false) ∧
  (∀ (s : State) (r : Role) (i : Fin 0x1410) (p : Page) (k : Fin 1024) (row : RegRow) (v : BitVec 64), pageAt i.val = some p →
    (p.blk = .clk ∨ p.blk = .die ∨ p.blk = .smp ∨ p.blk = .svc ∨ p.blk = .boot ∨ p.blk = .mgt) → 0x40 ≤ 4 * k.val →
    regRow p (4 * k.val) = some row → s.dev.Takes r p → s.dev.Ranks r p (4 * k.val) →
    ∃ t, Sys2Proof.Machine.exec (.registerWrite r (BitVec.ofNat 26 (i.val * 0x1000 + 4 * k.val)) 4 v) s = .next t ∧ t.pending = s.pending ∧
      (∀ j : Fin 32, t.dev.bit p (4 * k.val) j.val =
        if row.w1s.testBit j.val && v.getLsbD j.val then true
        else if row.w1c.testBit j.val && v.getLsbD j.val && !wbit (s.dev.setsNow p (4 * k.val)) j.val then false
        else if row.rw.testBit j.val then v.getLsbD j.val
        else s.dev.bit p (4 * k.val) j.val) ∧
      t.dev.SameRegsBut s.dev p [4 * k.val] ∧ t.dev.mem = s.dev.mem)

/-- A read of a register that is RCL as a whole answers its word less what it grew by in this ao-cycle and leaves exactly that growth in it; every other register and all of memory stay. AO_COUNT_READ answers the low half of the ao-cycle count and latches the high half in CLK_AO_COUNT_HI. ENTRY_WINDOW_READ answers the first word of the selected request entry and leaves memory and the request table. (R4, R5, R433, R443, R216) -/
def Obligations.CounterReadClears : Prop :=
  (∀ (s : State) (r : Role) (i : Fin 0x1410) (p : Page) (k : Fin 1024) (row : RegRow), pageAt i.val = some p → 0x40 ≤ 4 * k.val →
    regRow p (4 * k.val) = some row → row.rcl = 0xFFFFFFFF → s.dev.word p (4 * k.val) = s.dev.reg p (4 * k.val) →
    uncounted p (4 * k.val) = false → s.dev.scrubHides r p (4 * k.val) = false → p.blk ≠ .boot → s.dev.Gives r p →
    ∃ t, Sys2Proof.Machine.exec (.rclRead r (BitVec.ofNat 26 (i.val * 0x1000 + 4 * k.val)) 4) s = .next t ∧ t.pending = s.pending ∧
      t.dev.resp = (s.dev.reg p (4 * k.val) - BitVec.ofNat 32 (s.dev.addsNow p (4 * k.val))).setWidth 64 ∧ t.dev.respRefused = false ∧
      t.dev.reg p (4 * k.val) = BitVec.ofNat 32 (s.dev.addsNow p (4 * k.val)) ∧
      t.dev.SameRegsBut s.dev p [4 * k.val] ∧ t.dev.mem = s.dev.mem) ∧
  (∀ (s : State) (r : Role), s.dev.Gives r pClk → s.dev.scrubHides r pClk 0x40 = false →
    ∃ t, Sys2Proof.Machine.exec (.aoCountRead r) s = .next t ∧ t.pending = s.pending ∧
      t.dev.resp = (BitVec.ofNat 32 (s.dev.ao % 2 ^ 32)).setWidth 64 ∧ t.dev.reg pClk 0x44 = BitVec.ofNat 32 (s.dev.ao / 2 ^ 32) ∧
      t.dev.SameRegsBut s.dev pClk [0x44] ∧ t.dev.ao = s.dev.ao ∧ t.dev.mem = s.dev.mem) ∧
  (∀ (s : State) (r : Role), s.dev.Gives r (pSrv 1) → s.dev.scrubHides r (pSrv 1) 0x100 = false →
    ∃ t, Sys2Proof.Machine.exec (.entryWindowRead r) s = .next t ∧ t.pending = s.pending ∧
      t.dev.resp = (BitVec.ofNat 32 (s.dev.rq (s.dev.getF (pSrv 0) 0x40 11 0))).setWidth 64 ∧
      t.dev.reqTab = s.dev.reqTab ∧ t.dev.mem = s.dev.mem)

/-- On a page other than KVP, LINK and PTN, in a state in which its CTRL fields change: ENABLE = 1 takes READY to ACTIVE and ENABLE = 0 takes ACTIVE to READY; QUIESCE = 1 takes READY or ACTIVE to QUIESCING, QUIESCE = 0 returns QUIESCING or QUIESCED to READY or ACTIVE by ENABLE; TEST = 1 takes READY or QUIESCED to TEST and TEST = 0 returns to READY; TEST = 1 in another state but OFF, RESET, FAULTED and RETIRED sets INVALID_WRITE and leaves TEST 0. QUIESCING becomes QUIESCED when no work is in flight, on every page. A page without an image that leaves INIT is READY, ACTIVE or QUIESCING by ENABLE and QUIESCE, and RESET_REQ reads 0. Memory stays. (R31, R28) -/
def Obligations.ControlFieldsMoveState : Prop :=
  (∀ (s : State) (r : Role) (i : Fin 0x1410) (p : Page), pageAt i.val = some p → p.blk ≠ .kvp → p.blk ≠ .link → p.blk ≠ .ptn →
    s.dev.Takes r p → s.dev.Ranks r p 0x08 →
    (s.dev.enabled p = false → s.dev.st p = stReady →
      ∃ t, Sys2Proof.Machine.exec (.ctrlEnable r i true) s = .next t ∧ t.pending = s.pending ∧
        t.dev.enabled p = true ∧ t.dev.st p = stActive ∧ t.dev.mem = s.dev.mem) ∧
    (s.dev.enabled p = true → s.dev.st p = stActive →
      ∃ t, Sys2Proof.Machine.exec (.ctrlEnable r i false) s = .next t ∧ t.pending = s.pending ∧
        t.dev.enabled p = false ∧ t.dev.st p = stReady ∧ t.dev.mem = s.dev.mem) ∧
    (s.dev.quiesce p = false → (s.dev.st p = stReady ∨ s.dev.st p = stActive) →
      ∃ t, Sys2Proof.Machine.exec (.ctrlQuiesce r i true) s = .next t ∧ t.pending = s.pending ∧
        t.dev.quiesce p = true ∧ t.dev.st p = stQuiescing ∧ t.dev.mem = s.dev.mem) ∧
    (s.dev.quiesce p = true → (s.dev.st p = stQuiescing ∨ s.dev.st p = stQuiesced) →
      ∃ t, Sys2Proof.Machine.exec (.ctrlQuiesce r i false) s = .next t ∧ t.pending = s.pending ∧
        t.dev.quiesce p = false ∧ t.dev.st p = (if s.dev.enabled p then stActive else stReady) ∧ t.dev.mem = s.dev.mem) ∧
    (s.dev.bit p 0x08 3 = false → (s.dev.st p = stReady ∨ s.dev.st p = stQuiesced) →
      ∃ t, Sys2Proof.Machine.exec (.ctrlTest r i true) s = .next t ∧ t.pending = s.pending ∧
        t.dev.bit p 0x08 3 = true ∧ t.dev.st p = stTest ∧ t.dev.mem = s.dev.mem) ∧
    (s.dev.bit p 0x08 3 = true → s.dev.st p = stTest →
      ∃ t, Sys2Proof.Machine.exec (.ctrlTest r i false) s = .next t ∧ t.pending = s.pending ∧
        t.dev.bit p 0x08 3 = false ∧ t.dev.st p = stReady ∧ t.dev.mem = s.dev.mem) ∧
    (s.dev.bit p 0x08 3 = false → (s.dev.st p = stActive ∨ s.dev.st p = stQuiescing ∨ s.dev.st p = stInit) →
      ∃ t, Sys2Proof.Machine.exec (.ctrlTest r i true) s = .next t ∧ t.pending = s.pending ∧
        t.dev.bit p 0x08 3 = false ∧ t.dev.bit p 0x10 evInvalid = true ∧ t.dev.st p = s.dev.st p ∧ t.dev.mem = s.dev.mem)) ∧
  (∀ (s : State) (i : Fin 0x1410) (p : Page), pageAt i.val = some p → s.dev.st p = stQuiescing → s.dev.inFlight p = false →
    ∃ t, Sys2Proof.Machine.exec (.quiesceComplete i) s = .next t ∧ t.pending = s.pending ∧ t.dev.st p = stQuiesced ∧ t.dev.mem = s.dev.mem) ∧
  (∀ (s : State) (i : Fin 0x1410) (p : Page), pageAt i.val = some p →
    (p.blk = .die ∨ p.blk = .mmu ∨ p.blk = .dmac ∨ p.blk = .srv ∨ p.blk = .smp ∨ p.blk = .hbr) → s.dev.initReady p = true →
    ∃ t, Sys2Proof.Machine.exec (.unitInitEnd i) s = .next t ∧ t.pending = s.pending ∧ t.dev.bit p 0x08 2 = false ∧
      t.dev.st p = (if s.dev.quiesce p then stQuiescing else if s.dev.enabled p then stActive else stReady) ∧ t.dev.mem = s.dev.mem)

/-- RESET_REQ of a cluster that has power, is not retired, has no reset under way and is in no start or reset of its partition: the cluster is in INIT and its destructive march runs, no queue holds a command, no core a tile and no MERGE runs; the bit reads 1; every byte outside its buffer reads as before. A further 1 while it reads 1 changes nothing. RESET_REQ of a port with power: with a lane in service and not in training it trains from this ao-cycle on, and the bit reads 1; with no lane in service it is DOWN, no lane carries traffic and the bit reads 0. RESET_REQ of an existing partition, neither SCRUBBING nor FAULTED: while the package engine works for it, or a cluster of its own is in reset, the bit reads 1 and STATE and memory stay; otherwise it is reset at once: the bit reads 0, no open batch, no line of a die cache and no cached translation of it is left, and no job of it but the serving job. A warm device reset while no reset waits and no comparator holds empties memory, jobs, batches and queues of the device and keeps the ao-cycle count. (R30, R83, R282, R413, R414, R334, R416, R433) -/
def Obligations.ResetRequestsAct : Prop :=
  (∀ (s : State) (r : Role) (n : Fin 800), s.dev.Takes r (pClu n) →
    (s.dev.bit (pClu n) 0x08 2 = false → s.dev.coveredReset n = false → (s.dev.clu n).retired = false →
      ∃ t, Sys2Proof.Machine.exec (.clusterReset r n) s = .next t ∧ t.pending = s.pending ∧ t.dev.st (pClu n) = stInit ∧
        t.dev.bit (pClu n) 0x08 2 = true ∧ (t.dev.clu n).march = some ⟨false, 1⟩ ∧ (t.dev.clu n).merge = none ∧
        (∀ q : Fin 8, t.dev.qCmds n q = []) ∧ (∀ k : Fin 32, (t.dev.core n k).tile = none) ∧
        (∀ a, (a < bufBase n ∨ bufBase n + 0x100000 ≤ a) → t.dev.rawByte a = s.dev.rawByte a) ∧ t.dev.respRefused = false) ∧
    (s.dev.bit (pClu n) 0x08 2 = true →
      ∃ t, Sys2Proof.Machine.exec (.clusterReset r n) s = .next t ∧ t.pending = s.pending ∧ t.dev = s.dev.answer 0)) ∧
  (∀ (s : State) (r : Role) (n : Fin 16), s.dev.Takes r (pLink n) → s.dev.bit (pLink n) 0x08 2 = false →
    (s.dev.lanesIn n ≠ 0 → s.dev.st (pLink n) ≠ lsTraining →
      ∃ t, Sys2Proof.Machine.exec (.portReset r n) s = .next t ∧ t.pending = s.pending ∧ t.dev.Trains n ∧
        t.dev.bit (pLink n) 0x08 2 = true ∧ t.dev.mem = s.dev.mem ∧ t.dev.respRefused = false) ∧
    (s.dev.lanesIn n = 0 →
      ∃ t, Sys2Proof.Machine.exec (.portReset r n) s = .next t ∧ t.pending = s.pending ∧ t.dev.st (pLink n) = lsDown ∧
        t.dev.bit (pLink n) 0x08 2 = false ∧ t.dev.getF (pLink n) 0x4C 10 4 = 0 ∧ t.dev.respRefused = false)) ∧
  (∀ (s : State) (r : Role) (p : Fin 24), s.dev.Takes r (pPtn p) → s.dev.ptnExists p = true → s.dev.st (pPtn p) ≠ psScrubbing →
    s.dev.st (pPtn p) ≠ stFaulted →
    ((s.dev.sec.run.any fun x => x.ptn = p.val) = false → (∀ n ∈ s.dev.ptnClusters p, s.dev.bit (pClu n) 0x08 2 = false) →
      ∃ t, Sys2Proof.Machine.exec (.partitionReset r p) s = .next t ∧ t.pending = s.pending ∧ t.dev.bit (pPtn p) 0x08 2 = false ∧
        (∀ e ∈ t.dev.batches, e.2.ptn ≠ p.val) ∧ (∀ l ∈ t.dev.lines, l.ptn ≠ p.val) ∧ (∀ x ∈ t.dev.tlb, x.ptn ≠ p.val) ∧
        (∀ j, (s.dev.job j).ptn = p.val → j ≠ (s.dev.px p).job → (t.dev.job j).cls = 0) ∧ t.dev.respRefused = false) ∧
    ((s.dev.sec.run.any fun x => x.ptn = p.val) = true ∨ (∃ n ∈ s.dev.ptnClusters p, s.dev.bit (pClu n) 0x08 2 = true) →
      ∃ t, Sys2Proof.Machine.exec (.partitionReset r p) s = .next t ∧ t.pending = s.pending ∧
        t.dev.bit (pPtn p) 0x08 2 = true ∧ t.dev.st (pPtn p) = s.dev.st (pPtn p) ∧ t.dev.SameRegsBut s.dev (pPtn p) [0x08] ∧ t.dev.mem = s.dev.mem)) ∧
  (∀ (s : State) (r : Role), s.dev.Takes r pDev → s.dev.boot.waiting = 0 → s.dev.boot.released = true → s.dev.thm.holding = false →
    ∃ t, Sys2Proof.Machine.exec (.warmDeviceReset r) s = .next t ∧ t.pending = s.pending ∧ t.dev.ao = s.dev.ao ∧
      t.dev.mem = [] ∧ t.dev.jobs = [] ∧ t.dev.batches = [] ∧ t.dev.reqTab = [] ∧ t.dev.lines = [] ∧ t.dev.tlb = [])

/-- For a destination that is not a SCRUBBING partition and has a record waiting: the records sent are the longest run of its oldest ones, at most 16, that arose within 500 ao-cycles of the first; the destination's count of records grows by their number, and memory stays. On a device that is its own bridge the rest, and the records of other destinations, still wait, and one destination's queue at the bridge has a message of 16 + 64 bytes a record more. On another device the message is on its way to the bridge's device. Of a SCRUBBING partition nothing leaves and its records go. (R301, R306, R345) -/
def Obligations.EventRecordsAreNumbered : Prop :=
  (∀ (s : State) (dest : Fin 256) (e : EvRec) (l : List EvRec), (s.dev.events.filter fun x => x.dest = dest.val) = e :: l →
    ¬ (dest.val < 24 ∧ s.dev.ptnState dest.val = psScrubbing) →
    ∃ t n, Sys2Proof.Machine.exec (.eventMessageSend dest) s = .next t ∧ t.pending = s.pending ∧ 1 ≤ n ∧ n ≤ 16 ∧
      (∀ x ∈ (e :: l).take n, x.at_ ≤ e.at_ + 500) ∧ (∀ x, (e :: l)[n]? = some x → n < 16 → e.at_ + 500 < x.at_) ∧
      tgetD t.dev.evSeq dest.val 0 = tgetD s.dev.evSeq dest.val 0 + n ∧ t.dev.mem = s.dev.mem ∧
      (s.dev.isBridge = true →
        (t.dev.events.filter fun x => x.dest = dest.val) = (e :: l).drop n ∧
        (t.dev.events.filter fun x => x.dest ≠ dest.val) = (s.dev.events.filter fun x => x.dest ≠ dest.val) ∧
        ∃ k m, (tgetD t.dev.dests k {}).q = (tgetD s.dev.dests k {}).q ++ [m] ∧ m.data.length = 16 + 64 * n) ∧
      (s.dev.isBridge = false →
        ∃ m ∈ t.dev.outMsgs, m.dev = s.dev.getF pDev 0x80 21 16 ∧ m.cls = clsEvent ∧ m.data.length = 16 + 64 * n)) ∧
  (∀ (s : State) (dest : Fin 256), dest.val < 24 → s.dev.ptnState dest.val = psScrubbing →
    ∃ t, Sys2Proof.Machine.exec (.eventMessageSend dest) s = .next t ∧ t.pending = s.pending ∧
      t.dev = { s.dev with events := s.dev.events.filter fun x => x.dest ≠ dest.val })

/-- For a core about to issue the word at index i: STEP gives (i + 1) mod 4,096 and leaves both counts; LOOP0 with LC[0] > 1 gives TARGET and LC[0] − 1, otherwise i + 1 (mod 4,096) and LC[0] reloaded from LI[0]; LOOP1 the same with LC[1] and LI[1]; END issues no further word. A core whose loop count is 0 goes on as one whose count is 1. (R42) -/
def Obligations.LoopSequencingFollowsNext : Prop :=
  ∀ c : Core,
    (cwNext c.word = 0 → c.nextIndex = ((c.next + 1) % 4096, c.lc0, c.lc1, false)) ∧
    (cwNext c.word = 1 → 1 < c.lc0 → c.nextIndex = (cwTarget c.word, c.lc0 - 1, c.lc1, false)) ∧
    (cwNext c.word = 1 → c.lc0 ≤ 1 → c.nextIndex = ((c.next + 1) % 4096, c.li0, c.lc1, false)) ∧
    (cwNext c.word = 2 → 1 < c.lc1 → c.nextIndex = (cwTarget c.word, c.lc0, c.lc1 - 1, false)) ∧
    (cwNext c.word = 2 → c.lc1 ≤ 1 → c.nextIndex = ((c.next + 1) % 4096, c.lc0, c.li1, false)) ∧
    (cwNext c.word = 3 → c.nextIndex = (c.next, c.lc0, c.lc1, true)) ∧
    (cwNext c.word = 1 → ({ c with lc0 := 0 } : Core).nextIndex = ({ c with lc0 := 1 } : Core).nextIndex) ∧
    (cwNext c.word = 2 → ({ c with lc1 := 0 } : Core).nextIndex = ({ c with lc1 := 1 } : Core).nextIndex)

/-- For a served gaffer queue whose head is the command: it leaves the head of the queue. NOP changes no register; SIGNAL adds AMOUNT to its flag, staying at 65,535 and setting FLAG_SATURATED beyond; WAIT, issued only with its flag at or above THRESHOLD, takes THRESHOLD off with CONSUME and changes no register without; FENCE holds the queue with its scope and changes no register. No byte of memory, no core and no job changes; of the registers only the flag and the sticky register. (R65, R67, R76, R77, R247) -/
def Obligations.GafferQueueCommandsComplete : Prop :=
  ∀ (s : State) (n : Fin 800) (q : Fin 8) (w k : Nat) (e : Dev), s.dev.GafServed n q w k e →
    (fld w 7 0 = 0x00 →
      ∃ t, Sys2Proof.Machine.exec (.gafferNop n q) s = .next t ∧ t.pending = s.pending ∧ t.dev.qCmds n q = (s.dev.qCmds n q).drop k ∧
        t.dev.csr = s.dev.csr ∧ t.dev.mem = s.dev.mem ∧ t.dev.cores = s.dev.cores ∧ t.dev.jobs = s.dev.jobs) ∧
    (fld w 7 0 = 0x03 →
      ∃ t, Sys2Proof.Machine.exec (.gafferSignal n q) s = .next t ∧ t.pending = s.pending ∧ t.dev.qCmds n q = (s.dev.qCmds n q).drop k ∧
        t.dev.flag (pClu n) (sgFlag w) = min 65535 (s.dev.flag (pClu n) (sgFlag w) + sgAmount w) ∧
        (65535 < s.dev.flag (pClu n) (sgFlag w) + sgAmount w → t.dev.bit (pClu n) 0x48 0 = true) ∧
        t.dev.SameRegsBut s.dev (pClu n) [rFlag (sgFlag w), 0x48] ∧ t.dev.mem = s.dev.mem ∧ t.dev.cores = s.dev.cores ∧ t.dev.jobs = s.dev.jobs) ∧
    (fld w 7 0 = 0x04 →
      sgAmount w ≤ s.dev.flag (pClu n) (sgFlag w) ∧
      ∃ t, Sys2Proof.Machine.exec (.gafferWait n q) s = .next t ∧ t.pending = s.pending ∧ t.dev.qCmds n q = (s.dev.qCmds n q).drop k ∧
        t.dev.flag (pClu n) (sgFlag w) = s.dev.flag (pClu n) (sgFlag w) - (if wtConsume w then sgAmount w else 0) ∧
        t.dev.SameRegsBut s.dev (pClu n) [rFlag (sgFlag w)] ∧ (wtConsume w = false → t.dev.csr = s.dev.csr) ∧
        t.dev.mem = s.dev.mem ∧ t.dev.cores = s.dev.cores ∧ t.dev.jobs = s.dev.jobs) ∧
    (fld w 7 0 = 0x05 →
      ∃ t, Sys2Proof.Machine.exec (.gafferFence n q) s = .next t ∧ t.pending = s.pending ∧ t.dev.qCmds n q = (s.dev.qCmds n q).drop k ∧
        t.dev.qFence n q = some (fnScope w) ∧ t.dev.csr = s.dev.csr ∧ t.dev.mem = s.dev.mem ∧ t.dev.cores = s.dev.cores ∧ t.dev.jobs = s.dev.jobs)

/-- A served TILE leaves its queue with its STREAM commands and stands on the lowest free core of its effective set: START is the core's next index, both loop counts are loaded, the address FIFOs are empty, the tile carries its job, masks and streams. A tile whose END has issued, with no result and no granted write of the core in flight, completes: the core holds no tile, and the flag of SIGNAL grows by one, at most to 65,535. Memory stays. (R69, R70, R43, R74, R76) -/
def Obligations.TilePlacementAndCompletion : Prop :=
  (∀ (s : State) (n : Fin 800) (q : Fin 8) (w k c : Nat) (e : Dev), s.dev.GafServed n q w k e → fld w 7 0 = 0x01 →
    e.freeCore n q (tlCoreMask w) = some c →
    ∃ t x, Sys2Proof.Machine.exec (.tile n q) s = .next t ∧ t.pending = s.pending ∧ t.dev.qCmds n q = (s.dev.qCmds n q).drop k ∧
      (t.dev.core n c).tile = some x ∧ x.job = s.dev.qJob n q ∧ x.queue = q.val ∧ x.readR = tlRead w ∧ x.writeR = tlWrite w ∧
      x.nonpre = tlNonpre w ∧ x.ended = false ∧ x.streams.length = min (tlStreams w) ((s.dev.qCmds n q).length - 1) ∧
      (t.dev.core n c).next = tlStart w ∧ (t.dev.core n c).lc0 = tlLoopA w ∧ (t.dev.core n c).lc1 = tlLoopB w ∧
      (t.dev.core n c).fifo0 = [] ∧ (t.dev.core n c).fifo1 = [] ∧ t.dev.coreState n c = csRunning ∧ t.dev.mem = s.dev.mem) ∧
  (∀ (s : State) (n : Fin 800) (k : Fin 32) (x : Tile), (s.dev.core n k).tile = some x → x.ended = true → x.stopped = false →
    (s.dev.core n k).flights = [] → ((s.dev.clu n).writes.all fun b => b.core ≠ k.val) = true →
    ∃ t, Sys2Proof.Machine.exec (.tileComplete n k) s = .next t ∧ t.pending = s.pending ∧ (t.dev.core n k).tile = none ∧
      (t.dev.core n k).fifo0 = [] ∧ t.dev.mem = s.dev.mem ∧
      (x.sigEn = true → x.sigFlag < 64 → t.dev.flag (pClu n) x.sigFlag = min 65535 (s.dev.flag (pClu n) x.sigFlag + 1)))

/-- A served CSLOAD whose memory answers unmarked leaves its queue, and a load of its words, destination and mask is pending behind those that pend. The completion of the oldest load of a queue whose words all pass R41 puts word i at index DST + i in the control store of every core of the mask, for loads that stay within the 4,096 entries; no memory and no register changes. A word that fails is CONTROL_WORD_INVALID of the job, and no store is written. (R41, R67, R93) -/
def Obligations.ControlStoreLoad : Prop :=
  (∀ (s : State) (n : Fin 800) (q : Fin 8) (w k : Nat) (e f : Dev) (bs : List Byte), s.dev.GafServed n q w k e → fld w 7 0 = 0x06 →
    e.fetch (some n) (some (dieOf n)) (agPtn (e.job (e.qJob n q)).ptn (some (e.qJob n q))) (e.job (e.qJob n q)).ptn (clSrc w) (32 * clCount w) false = (f, .ok bs) →
    ∃ t, Sys2Proof.Machine.exec (.csload n q) s = .next t ∧ t.pending = s.pending ∧ t.dev.qCmds n q = (s.dev.qCmds n q).drop k ∧ t.dev.mem = f.mem ∧
      (t.dev.clu n).loads = (f.clu n).loads ++
        [⟨q, e.qJob n q, clDst w, clMask w, (List.range (clCount w)).map fun i => BitVec.ofNat 256 (numAt bs (32 * i) 32)⟩]) ∧
  (∀ (s : State) (n : Fin 800) (q : Fin 8) (l : CsRun), ((s.dev.clu n).loads.find? fun x => x.queue = q.val) = some l →
    (cwFirstBad l.words 0 = none →
      ∃ t, Sys2Proof.Machine.exec (.csloadComplete n q) s = .next t ∧ t.pending = s.pending ∧ t.dev.csr = s.dev.csr ∧ t.dev.mem = s.dev.mem ∧
        (t.dev.clu n).loads = (s.dev.clu n).loads.erase l ∧
        ∀ (c : Fin 32) (i : Fin 4096), bitOf l.mask c.val = true → i.val < l.words.length →
          tgetD (t.dev.core n c).store (l.dst + i.val) 0 = (l.words[i.val]?).getD 0) ∧
    (∀ i b, cwFirstBad l.words 0 = some (i, b) →
      ∃ t, Sys2Proof.Machine.exec (.csloadComplete n q) s = .next t ∧ t.pending = s.pending ∧
        s.dev.JobFaulted t.dev n q l.job 0x5004 (cwInfo (l.dst + i) b l.mask) ∧ (∀ c : Fin 32, (t.dev.core n c).store = (s.dev.core n c).store)))

/-- A served MERGE leaves its queue and holds the merge unit with its job, region masks, signal and command, no merge done and no word read; memory stays. An access of the unit to an unmarked partial word of an unfinished merge takes the word to those read and changes no memory. When the accesses that MERGE_COMPLETE makes end the last merge, or it had ended, the merge unit is empty; with SIGNAL its flag grows by one, at most to 65,535. (R166, R167, R168, R74, R76) -/
def Obligations.MergeUnitRuns : Prop :=
  (∀ (s : State) (n : Fin 800) (q : Fin 8) (w k : Nat) (e : Dev), s.dev.GafServed n q w k e → fld w 7 0 = 0x07 →
    ∃ t, Sys2Proof.Machine.exec (.merge n q) s = .next t ∧ t.pending = s.pending ∧ t.dev.mem = s.dev.mem ∧ t.dev.qCmds n q = (s.dev.qCmds n q).drop k ∧
      (t.dev.clu n).merge = some ⟨q, e.qJob n q, mgRead w, mgWrite w, mgSigEn w, mgSigFlag w, s.dev.ao, BitVec.ofNat 256 w, 0, []⟩) ∧
  (∀ (s : State) (n : Fin 800) (m : MergeRun), (s.dev.clu n).merge = some m → m.over = false → (s.dev.clu n).march = none → s.dev.errs = [] →
    s.dev.markedAt (wordDpa n m.nextWord) 32 = false → inSecure (32 * m.nextWord) 32 = false → m.got.length + 32 < 32 * mgParts m.w.toNat * mgPwords m.w.toNat →
    ∃ t, Sys2Proof.Machine.exec (.mergeComplete ⟨n, 1⟩) s = .next t ∧ t.pending = s.pending ∧ t.dev.mem = s.dev.mem ∧
      (t.dev.clu n).merge = some { m with got := m.got ++ s.dev.readMem (agPtn (s.dev.job m.job).ptn (some m.job)) (wordDpa n m.nextWord) 32 }) ∧
  (∀ (s : State) (n : Fin 800) (k : Nat) (m : MergeRun), ((Dev.mergeRun n k s.dev).clu n).merge = some m → m.over = true →
    ∃ t, Sys2Proof.Machine.exec (.mergeComplete ⟨n, k⟩) s = .next t ∧ t.pending = s.pending ∧ (t.dev.clu n).merge = none ∧ t.dev.mem = (Dev.mergeRun n k s.dev).mem ∧
      (m.sigEn = true → m.sigFlag < 64 → t.dev.flag (pClu n) m.sigFlag = min 65535 ((Dev.mergeRun n k s.dev).flag (pClu n) m.sigFlag + 1)))

/-- In a cluster whose clock runs, on a core that has not had its turn in the cycle under way, of a partition that is not SCRUBBING: a running core that need not park and that the cycle lets issue, whose landing results lose no write and whose word meets no mark, lands what is due and issues its word: the next index and counts are those of R42, CORE_ISSUED grows by one, memory stays. One that the cycle freezes for contention shows FROZEN with cause 3, and CORE_FROZEN and the cluster's contention count grow by one, the core as it was. A core that issues no further word, not stopped, that loses no write: every result in flight comes one cycle nearer and those due land. (R42, R44, R45, R56, R61) -/
def Obligations.CoreCycleIssuesAndLands : Prop :=
  (∀ (s : State) (n : Fin 800) (k : Fin 32) (x : Tile), s.dev.dom (n.val / 10) = dsOn → s.dev.clockOn (n.val / 10) = true → s.dev.parkDue n k = none →
    s.dev.scrubbed (pClu n) = false → (s.dev.clu n).turned ≠ [] → (s.dev.clu n).turned.contains k.val = false →
    (s.dev.core n k).tile = some x → x.ended = false → x.stopped = false →
    (((s.dev.clu n).plan.find? fun e => e.1 = k.val) = some (k.val, 0) → (s.dev.core n k).land.lost = [] →
      (s.dev.core n k).land.core.storeMarks.contains (s.dev.core n k).next = false → (s.dev.core n k).land.core.consumes = none → s.dev.errs = [] →
      ∃ t, Sys2Proof.Machine.exec (.controlWordIssue n k) s = .next t ∧ t.pending = s.pending ∧
        (t.dev.core n k).next = (s.dev.core n k).nextIndex.1 ∧ (t.dev.core n k).lc0 = (s.dev.core n k).nextIndex.2.1 ∧
        (t.dev.core n k).lc1 = (s.dev.core n k).nextIndex.2.2.1 ∧ ((t.dev.core n k).tile.map Tile.ended) = some (s.dev.core n k).nextIndex.2.2.2 ∧
        (t.dev.core n k).acc = (s.dev.core n k).land.core.acc ∧ (t.dev.core n k).v = (s.dev.core n k).land.core.v ∧
        t.dev.reg (pClu n) (coreOff k.val + 0x10) = s.dev.reg (pClu n) (coreOff k.val + 0x10) + 1 ∧ t.dev.mem = s.dev.mem) ∧
    (((s.dev.clu n).plan.find? fun e => e.1 = k.val) = some (k.val, 3) →
      ∃ t, Sys2Proof.Machine.exec (.controlWordIssue n k) s = .next t ∧ t.pending = s.pending ∧ t.dev.core n k = s.dev.core n k ∧
        t.dev.coreState n k = csFrozen ∧ t.dev.reg (pClu n) (coreOff k.val + 0x14) = s.dev.reg (pClu n) (coreOff k.val + 0x14) + 1 ∧
        t.dev.reg (pClu n) 0x420 = s.dev.reg (pClu n) 0x420 + 1 ∧ t.dev.mem = s.dev.mem)) ∧
  (∀ (s : State) (n : Fin 800) (k : Fin 32) (x : Tile), s.dev.dom (n.val / 10) = dsOn → s.dev.clockOn (n.val / 10) = true →
    (s.dev.clu n).turned ≠ [] → (s.dev.clu n).turned.contains k.val = false → (s.dev.core n k).tile = some x → x.ended = true → x.stopped = false →
    (s.dev.core n k).land.lost = [] →
    ∃ t, Sys2Proof.Machine.exec (.resultLand n k) s = .next t ∧ t.pending = s.pending ∧
      t.dev.core n k = (s.dev.core n k).land.core ∧
      (t.dev.core n k).flights = ((s.dev.core n k).flights.map fun f => { f with left := f.left - 1 }).filter (fun f => f.left ≠ 0) ∧ t.dev.mem = s.dev.mem)

/-- In a cluster whose clock runs, BUFFER_WRITE_LAND moves the cycle count on by one and takes the writes due by it off those in flight. Every byte of memory outside the 32 bytes of the words that those writes name reads as before. When one write is due, outside a region 63 that is being wiped, its word reads as written (in a partition that is in INIT, TEST or RECOVER a part of it may still be to land, R245). (R46, R87, R94, R245) -/
def Obligations.BufferWritesLand : Prop :=
  ∀ (s : State) (n : Fin 800), s.dev.clockOn (n.val / 10) = true →
    ∃ t, Sys2Proof.Machine.exec (.bufferWriteLand n) s = .next t ∧ t.pending = s.pending ∧ (t.dev.clu n).cyc = (s.dev.clu n).cyc + 1 ∧
      (t.dev.clu n).writes = (s.dev.clu n).writes.filter (fun b => ¬ b.land ≤ (s.dev.clu n).cyc + 1) ∧ t.dev.cores = s.dev.cores ∧
      (∀ a, (∀ b ∈ (s.dev.clu n).writes, b.land ≤ (s.dev.clu n).cyc + 1 → b.word < 32768 → a < wordDpa n b.word ∨ wordDpa n b.word + 32 ≤ a) →
        (∀ b ∈ (s.dev.clu n).writes, b.word < 32768) → s.dev.PartsFit → t.dev.rawByte a = s.dev.rawByte a) ∧
      (∀ b, ((s.dev.clu n).writes.filter fun x => x.land ≤ (s.dev.clu n).cyc + 1) = [b] → b.word < 32768 →
        (63 ≤ regionOf b.word → s.dev.bit (pClu n) 0x400 13 = false) → s.dev.weak (wordDpa n b.word) = false →
        t.dev.rawBytes (wordDpa n b.word) 32 = leBytes 32 b.val.toNat)

/-- A generator of a running tile with room in its FIFO and an AFFINE stream pushes the word of its indices, if R73 allows it, behind the entries that stand there. A WAIT at the head of a queue whose flag is below THRESHOLD at the end of its limit is FLAG_WAIT_TIMEOUT of the job. A unit told of an abort performs it and is no longer awaited. A parked tile, of a cluster whose gaffer runs, whose image reads back whole resumes on the lowest free core of its effective set and its park slot is free. A FENCE of scope CORE, CLUSTER or DIE whose condition holds frees its queue and changes no register and no memory; one of scope DEVICE or GROUP of a gaffer or a DMA engine frees its queue and leaves no line of the partition in its die. (R71, R72, R73, R77, R79, R80, R247) -/
def Obligations.StreamsTimeoutsAndResumes : Prop :=
  (∀ (s : State) (n : Fin 800) (k : Fin 32) (g : Fin 2) (x : Tile) (w : BitVec 256), s.dev.clockOn (n.val / 10) = true → s.dev.dom (n.val / 10) = dsOn →
    (s.dev.core n k).tile = some x → x.ended = false → ((s.dev.core n k).fifo g.val).length < 64 → (x.held.any fun h => h.1 = g.val) = false →
    x.curStream g.val = some w → smIndirect w.toNat = false → entryAllowed x w.toNat (affineWord w.toNat (x.pos g.val).idx) = true →
    ∃ t, Sys2Proof.Machine.exec (.streamEntryPush n k g) s = .next t ∧ t.pending = s.pending ∧
      (t.dev.core n k).fifo g.val = (s.dev.core n k).fifo g.val ++ [affineWord w.toNat (x.pos g.val).idx] ∧ t.dev.csr = s.dev.csr ∧ t.dev.mem = s.dev.mem) ∧
  (∀ (s : State) (n : Fin 800) (q : Fin 8) (w a lim : Nat), s.dev.qHead n q = some w → s.dev.qWaiting n q = some (a, lim) → fld w 7 0 = 0x04 →
    s.dev.flag (pClu n) (sgFlag w) < sgAmount w → a + lim ≤ s.dev.ao →
    ∃ t, Sys2Proof.Machine.exec (.flagWaitTimeout n q) s = .next t ∧ t.pending = s.pending ∧
      s.dev.JobFaulted t.dev n q (s.dev.qJob n q) 0x5001 (sgFlag w + q.val * 256 + s.dev.flag (pClu n) (sgFlag w) * 65536)) ∧
  (∀ (s : State) (u : Fin 0x4100) (j : Fin 4096), (s.dev.aborts.any fun a => a.job = j.val && a.left.contains u.val) = true →
    ∃ t, Sys2Proof.Machine.exec (.jobAbortPropagate u j) s = .next t ∧ t.pending = s.pending ∧
      (t.dev.aborts.any fun a => a.job = j.val && a.left.contains u.val) = false) ∧
  (∀ (s : State) (n : Fin 800) (i : Fin 64) (ps : ParkSlot) (x : Tile) (k : Nat) (e : Dev), tget? (s.dev.clu n).parks i.val = some ps → ps.saved.tile = some x →
    s.dev.gafRuns n = true → x.held = [] → (x.nonpre || s.dev.eligible n x.job) = true → s.dev.freeCore n x.queue x.coreMask = some k →
    s.dev.fetch (some n) (some (dieOf n)) (s.dev.parkAgent n x.job) (s.dev.job x.job).ptn (s.dev.parkSlot n i) 0x2000 false
      = (e, .ok (parkImage ps.saved x ps.index ps.cause)) →
    crc32 ((parkImage ps.saved x ps.index ps.cause).take 0x1FFC) = numAt (parkImage ps.saved x ps.index ps.cause) 0x1FFC 4 →
    ∃ t, Sys2Proof.Machine.exec (.tileResume n i) s = .next t ∧ t.pending = s.pending ∧ (t.dev.core n k).tile = some x ∧
      (t.dev.core n k).acc = ps.saved.acc ∧ (t.dev.core n k).v = ps.saved.v ∧ (t.dev.core n k).next = ps.saved.next ∧
      tget? (t.dev.clu n).parks i.val = none ∧ t.dev.coreState n k = csRunning ∧ t.dev.mem = e.mem) ∧
  (∀ (s : State) (u : Fin 0x4100) (q : Fin 8) (scope : Nat), s.dev.qFence u q = some scope → scope < 3 → s.dev.fenceMet u q scope = true →
    ∃ t, Sys2Proof.Machine.exec (.fenceComplete u q) s = .next t ∧ t.pending = s.pending ∧ t.dev.qFence u q = none ∧
      t.dev.csr = s.dev.csr ∧ t.dev.mem = s.dev.mem ∧ t.dev.lines = s.dev.lines) ∧
  (∀ (s : State) (u : Fin 0x4100) (q : Fin 8) (scope : Nat), s.dev.qFence u q = some scope → 3 ≤ scope → (u.val < 0x2000 ∨ 0x4000 ≤ u.val) → s.dev.fenceMet u q scope = true →
    ∃ t, Sys2Proof.Machine.exec (.fenceComplete u q) s = .next t ∧ t.pending = s.pending ∧ t.dev.qFence u q = none ∧
      ∀ l ∈ t.dev.lines, ¬ (l.die = dieOf u ∧ l.ptn = (s.dev.job (s.dev.qJob u q)).ptn))

/-- A write of CLU_FLAG_ADD with a nonzero AMOUNT adds it to its flag as R76 says, and leaves memory and every other register but the sticky one. Another role's write of CLU_BUF_SECURE than the security core's leaves it and sets ACCESS_DENIED; the security core's change of JOB or VALID is stored and the region is wiped. The end of a wipe clears WIPING alone. START in INIT or TEST starts a march with the stored mode and backgrounds, in another state it sets INVALID_WRITE. A march without failing reads ends with DONE and the shared port free, a destructive one leaving zeros, before the held accesses are performed. A due block of the background test sets CLU_BUF_BG_STATUS.ACTIVE, or BG_LATE while the last one runs; a block without failing reads ends, where no stored word has an error. SWAP in a quiesced cluster sets BUSY. The end of a microcode swap reads the image at CLU_UCODE_SRC through the lines of the die: one that passes R398 sets DONE and the version, another one REJECTED and FAULT; the end of a control-store swap whose words all pass R41 writes them from index 0 into the stores of CLU_UCODE_MASK and sets DONE. (R76, R93, R94, R97, R98, R99, R84, R100) -/
def Obligations.ClusterBufferControl : Prop :=
  (∀ (s : State) (r : Role) (n : Fin 800) (v : BitVec 32), s.dev.Takes r (pClu n) →
    ∃ t, Sys2Proof.Machine.exec (.cluFlagAdd r n v) s = .next t ∧ t.pending = s.pending ∧
      t.dev.flag (pClu n) (wfld v 5 0) = min 65535 (s.dev.flag (pClu n) (wfld v 5 0) + wfld v 31 16) ∧
      t.dev.SameRegsBut s.dev (pClu n) [rFlag (wfld v 5 0), 0x48] ∧ t.dev.mem = s.dev.mem) ∧
  (∀ (s : State) (r : Role) (n : Fin 800) (v : BitVec 32), s.dev.Takes r (pClu n) → s.dev.Ranks r (pClu n) 0x400 →
    (r ≠ .security →
      ∃ t, Sys2Proof.Machine.exec (.cluBufSecureWrite r n v) s = .next t ∧ t.pending = s.pending ∧ t.dev.bit (pClu n) 0x10 evDenied = true ∧
        t.dev.SameRegsBut s.dev (pClu n) [0x10] ∧ t.dev.mem = s.dev.mem) ∧
    (r = .security → wfld v 12 0 ≠ s.dev.getF (pClu n) 0x400 12 0 → s.dev.dom (n.val / 10) ≠ dsOff →
      ∃ t, Sys2Proof.Machine.exec (.cluBufSecureWrite r n v) s = .next t ∧ t.pending = s.pending ∧ t.dev.getF (pClu n) 0x400 12 0 = wfld v 12 0 ∧
        t.dev.bit (pClu n) 0x400 13 = true ∧ (∀ a, bufBase n + 0xFC000 ≤ a → a < bufBase n + 0x100000 → t.dev.rawByte a = 0) ∧
        (∀ a, (a < bufBase n + 0xFC000 ∨ bufBase n + 0x100000 ≤ a) → t.dev.rawByte a = s.dev.rawByte a))) ∧
  (∀ (s : State) (n : Fin 800), ∃ t, Sys2Proof.Machine.exec (.secureWipeEnd n) s = .next t ∧ t.pending = s.pending ∧ t.dev.bit (pClu n) 0x400 13 = false ∧
      (∀ i : Fin 32, i.val ≠ 13 → t.dev.bit (pClu n) 0x400 i.val = s.dev.bit (pClu n) 0x400 i.val) ∧
      t.dev.SameRegsBut s.dev (pClu n) [0x400] ∧ t.dev.mem = s.dev.mem) ∧
  (∀ (s : State) (r : Role) (n : Fin 800) (v : BitVec 32), s.dev.Takes r (pClu n) → s.dev.Ranks r (pClu n) 0x404 → wbit v 0 = true → wfld v 8 5 ≠ 0 →
    ((s.dev.st (pClu n) = stInit ∨ s.dev.st (pClu n) = stTest) → (s.dev.clu n).march = none →
      ∃ t, Sys2Proof.Machine.exec (.marchStart r n v) s = .next t ∧ t.pending = s.pending ∧ (t.dev.clu n).march = some ⟨wbit v 1, wfld v 8 5⟩ ∧
        t.dev.bit (pClu n) 0x404 2 = true ∧ t.dev.mem = s.dev.mem) ∧
    (s.dev.st (pClu n) ≠ stInit → s.dev.st (pClu n) ≠ stTest →
      ∃ t, Sys2Proof.Machine.exec (.marchStart r n v) s = .next t ∧ t.pending = s.pending ∧ t.dev.bit (pClu n) 0x10 evInvalid = true ∧
        t.dev.clus = s.dev.clus ∧ t.dev.mem = s.dev.mem)) ∧
  (∀ (s : State) (n : Fin 800) (m : MarchRun), (s.dev.clu n).march = some m →
    ∃ (t : State) (e : Dev), Sys2Proof.Machine.exec (.marchEnd n []) s = .next t ∧ t.pending = s.pending ∧ (s.dev.inOps = [] → t.dev = e) ∧ t.dev = e.resume ∧ (e.clu n).march = none ∧
      e.bit (pClu n) 0x404 3 = true ∧ e.bit (pClu n) 0x404 2 = false ∧ (m.preserving = true → e.mem = s.dev.mem) ∧
      (m.preserving = false → ∀ a, bufBase n ≤ a → a < bufBase n + 0x100000 → e.rawByte a = 0)) ∧
  (∀ (s : State) (n : Fin 800), s.dev.bgRuns n = true → (s.dev.clu n).bgDue ≤ s.dev.ao →
    ∃ t, Sys2Proof.Machine.exec (.bgBlockStart n) s = .next t ∧ t.pending = s.pending ∧ (t.dev.clu n).bgDue = s.dev.ao + s.dev.getF (pClu n) 0x414 24 1 ∧
      t.dev.bit (pClu n) 0x418 24 = true ∧ (s.dev.bit (pClu n) 0x418 24 = true → t.dev.bit (pClu n) 0x41C 2 = true) ∧ t.dev.mem = s.dev.mem) ∧
  (∀ (s : State) (n : Fin 800), s.dev.bit (pClu n) 0x418 24 = true → (s.dev.clu n).bgLate = false → s.dev.errs = [] →
    ∃ t, Sys2Proof.Machine.exec (.bgBlockEnd n []) s = .next t ∧ t.pending = s.pending ∧ t.dev.bit (pClu n) 0x418 24 = false ∧
      t.dev.getF (pClu n) 0x418 7 0 = (s.dev.getF (pClu n) 0x418 7 0 + 1) % 256 ∧ t.dev.SameRegsBut s.dev (pClu n) [0x418] ∧ t.dev.mem = s.dev.mem) ∧
  (∀ (s : State) (r : Role) (n : Fin 800) (v : BitVec 32), s.dev.Takes r (pClu n) → s.dev.Ranks r (pClu n) 0x60 → wbit v 0 = true →
    s.dev.bit (pClu n) 0x60 1 = false → s.dev.st (pClu n) = stQuiesced →
    ∃ t, Sys2Proof.Machine.exec (.ucodeSwap r n v) s = .next t ∧ t.pending = s.pending ∧ t.dev.bit (pClu n) 0x60 1 = true ∧
      t.dev.bit (pClu n) 0x60 4 = wbit v 4 ∧ t.dev.SameRegsBut s.dev (pClu n) [0x60] ∧ t.dev.mem = s.dev.mem) ∧
  (∀ (s : State) (n : Fin 800) (a : Fin 8) (j k : Fin 10) (f g : Dev) (h b : List Byte), n = cluAt a j k → s.dev.bit (pClu n) 0x60 1 = true → s.dev.bit (pClu n) 0x60 4 = false →
    s.dev.memReady (s.dev.pair (pClu n) 0x58 0x5C % 2 ^ 44) = true →
    s.dev.cachedRead (dieOf n) (s.dev.owner (pClu n)) agDevice (s.dev.pair (pClu n) 0x58 0x5C % 2 ^ 44) 4096 false = (f, h, false) →
    f.cachedRead (dieOf n) (f.owner (pClu n)) agDevice (s.dev.pair (pClu n) 0x58 0x5C % 2 ^ 44 + 4096) (min (imgBodyLen h) (imgRegion 6 - 4096)) false = (g, b, false) →
    (g.imgFails 6 (h ++ b) = none →
      ∃ t, Sys2Proof.Machine.exec (.ucodeSwapDone a j k) s = .next t ∧ t.pending = s.pending ∧ t.dev.bit (pClu n) 0x60 1 = false ∧
        t.dev.bit (pClu n) 0x60 2 = true ∧ t.dev.getF (pClu n) 0x04 31 16 = imgVersion h % 65536 ∧ t.dev.SameRegsBut g (pClu n) [0x60, 0x04] ∧
        t.dev.clus = g.clus ∧ t.dev.mem = g.mem) ∧
    (g.imgFails 6 (h ++ b) ≠ none →
      ∃ t, Sys2Proof.Machine.exec (.ucodeSwapDone a j k) s = .next t ∧ t.pending = s.pending ∧ t.dev.bit (pClu n) 0x60 1 = false ∧
        t.dev.bit (pClu n) 0x60 3 = true ∧ t.dev.bit (pClu n) 0x10 evFault = true ∧ t.dev.reg (pClu n) 0x04 = g.reg (pClu n) 0x04 ∧ t.dev.clus = g.clus ∧ t.dev.mem = g.mem)) ∧
  (∀ (s : State) (n : Fin 800) (a : Fin 8) (j k : Fin 10) (f : Dev) (bs : List Byte), n = cluAt a j k → s.dev.bit (pClu n) 0x60 1 = true → s.dev.bit (pClu n) 0x60 4 = true →
    s.dev.memReady (s.dev.pair (pClu n) 0x58 0x5C % 2 ^ 44) = true → s.dev.getF (pClu n) 0x68 12 0 ≠ 0 →
    s.dev.cachedRead (dieOf n) (s.dev.owner (pClu n)) agDevice (s.dev.pair (pClu n) 0x58 0x5C % 2 ^ 44) (32 * s.dev.getF (pClu n) 0x68 12 0) false = (f, bs, false) →
    cwFirstBad ((List.range (s.dev.getF (pClu n) 0x68 12 0)).map fun i => BitVec.ofNat 256 (numAt bs (32 * i) 32)) 0 = none →
    ∃ t, Sys2Proof.Machine.exec (.ucodeSwapDone a j k) s = .next t ∧ t.pending = s.pending ∧ t.dev.bit (pClu n) 0x60 1 = false ∧
      t.dev.bit (pClu n) 0x60 2 = true ∧ t.dev.mem = f.mem ∧
      ∀ (c : Fin 32) (i : Nat), bitOf (f.reg (pClu n) 0x64).toNat c.val = true → i < s.dev.getF (pClu n) 0x68 12 0 →
        tgetD (t.dev.core n c).store i 0 = BitVec.ofNat 256 (numAt bs (32 * i) 32))

/-- For a served marver queue whose head is the command: it leaves the head of the queue. NOP changes no register; SIGNAL adds AMOUNT to its flag, staying at 65,535; WAIT, chosen only with its flag at or above THRESHOLD, takes THRESHOLD off with CONSUME; FENCE holds the queue with its scope. No byte of memory and no job changes; of the registers only the flag and the sticky register. STK_MVR_FLAG_ADD adds AMOUNT to its flag; beyond 65,535 the flag stays there and FLAG_SATURATED is set. A WAIT at the head whose limit has passed with its flag below THRESHOLD faults its job with FLAG_WAIT_TIMEOUT, which its INFO and its queue show. (R129, R130, R131, R247) -/
def Obligations.MarverFlagCommandsComplete : Prop :=
  (∀ (s : State) (sk : Fin 24) (q : Fin 8) (w : Nat) (e : Dev), s.dev.MvrServed sk q w e →
    (fld w 7 0 = 0x00 →
      ∃ t, Sys2Proof.Machine.exec (.marverNop sk q) s = .next t ∧ t.pending = s.pending ∧ t.dev.qCmds (mU sk) q = (s.dev.qCmds (mU sk) q).drop 1 ∧
        t.dev.csr = s.dev.csr ∧ t.dev.mem = s.dev.mem ∧ t.dev.jobs = s.dev.jobs) ∧
    (fld w 7 0 = 0x07 →
      ∃ t, Sys2Proof.Machine.exec (.marverSignal sk q) s = .next t ∧ t.pending = s.pending ∧ t.dev.qCmds (mU sk) q = (s.dev.qCmds (mU sk) q).drop 1 ∧
        t.dev.flag (pStk sk 1) (sgFlag w) = min 65535 (s.dev.flag (pStk sk 1) (sgFlag w) + sgAmount w) ∧
        t.dev.SameRegsBut s.dev (pStk sk 1) [rFlag (sgFlag w), 0x48] ∧ t.dev.mem = s.dev.mem ∧ t.dev.jobs = s.dev.jobs) ∧
    (fld w 7 0 = 0x08 →
      sgAmount w ≤ s.dev.flag (pStk sk 1) (sgFlag w) ∧
      ∃ t, Sys2Proof.Machine.exec (.marverWait sk q) s = .next t ∧ t.pending = s.pending ∧ t.dev.qCmds (mU sk) q = (s.dev.qCmds (mU sk) q).drop 1 ∧
        t.dev.flag (pStk sk 1) (sgFlag w) = s.dev.flag (pStk sk 1) (sgFlag w) - (if wtConsume w then sgAmount w else 0) ∧
        t.dev.SameRegsBut s.dev (pStk sk 1) [rFlag (sgFlag w)] ∧ t.dev.mem = s.dev.mem ∧ t.dev.jobs = s.dev.jobs) ∧
    (fld w 7 0 = 0x09 →
      ∃ t, Sys2Proof.Machine.exec (.marverFence sk q) s = .next t ∧ t.pending = s.pending ∧ t.dev.qCmds (mU sk) q = (s.dev.qCmds (mU sk) q).drop 1 ∧
        t.dev.qFence (mU sk) q = some (fnScope w) ∧ t.dev.csr = s.dev.csr ∧ t.dev.mem = s.dev.mem ∧ t.dev.jobs = s.dev.jobs)) ∧
  (∀ (s : State) (r : Role) (sk : Fin 24) (v : BitVec 32), s.dev.Takes r (pStk sk 1) →
    ∃ t, Sys2Proof.Machine.exec (.stkMvrFlagAdd r sk v) s = .next t ∧ t.pending = s.pending ∧
      t.dev.flag (pStk sk 1) (wfld v 5 0) = min 65535 (s.dev.flag (pStk sk 1) (wfld v 5 0) + wfld v 31 16) ∧
      (65535 < s.dev.flag (pStk sk 1) (wfld v 5 0) + wfld v 31 16 → t.dev.bit (pStk sk 1) 0x48 0 = true) ∧
      t.dev.SameRegsBut s.dev (pStk sk 1) [rFlag (wfld v 5 0), 0x48] ∧ t.dev.mem = s.dev.mem) ∧
  (∀ (s : State) (sk : Fin 24) (q : Fin 8) (w at_ lim : Nat), s.dev.qHead (mU sk) q = some w → s.dev.qWaiting (mU sk) q = some (at_, lim) →
    fld w 7 0 = 0x08 → s.dev.flag (pStk sk 1) (sgFlag w) < sgAmount w → at_ + lim ≤ s.dev.ao →
    ∃ t, Sys2Proof.Machine.exec (.marverFlagWaitTimeout sk q) s = .next t ∧ t.pending = s.pending ∧
      s.dev.JobFaulted t.dev (mU sk) q (s.dev.qJob (mU sk) q) 0x5001 (sgFlag w + q.val * 256 + s.dev.flag (pStk sk 1) (sgFlag w) * 65536))

/-- For a served marver queue whose operands translate and bear no mark. MV of an accepted pair of formats: its outputs, computed from the operands as they stand, wait with the run, whose queue has left its head. ATTN the same with the writes of its items. ATOMIC performs its operation at once and keeps the old 32 bytes for RET. COPY whose sealed granules agree, FILL and SCRUB stand on the lowest free engine with their pieces and nothing done. A pair of formats that is not accepted is FORMAT_PAIR of the job. (R128, R132, R136, R138, R139, R161) -/
def Obligations.MarverWorkIsDispatched : Prop :=
  (∀ (s : State) (sk : Fin 24) (q : Fin 8) (w : Nat) (e : Dev), s.dev.MvrServed sk q w e →
    (fld w 7 0 = 0x01 → mvPair (mvWfmt w) (mvVfmt w) = false →
      ∃ t, Sys2Proof.Machine.exec (.mv sk q) s = .next t ∧ t.pending = s.pending ∧
        s.dev.JobFaulted t.dev (mU sk) q (s.dev.qJob (mU sk) q) 0xA002 (q.val + mvWfmt w * 16 + mvVfmt w * 256)) ∧
    (∀ (f g : Dev) (ls : List (List Seg)), fld w 7 0 = 0x01 → mvPair (mvWfmt w) (mvVfmt w) = true →
      e.opnds sk q (s.dev.qJob (mU sk) q) (mvRanges w) = (f, some ls) → f.opMark (ls.take (3 + mvRows w)) = (g, none) →
      ∃ t, Sys2Proof.Machine.exec (.mv sk q) s = .next t ∧ t.pending = s.pending ∧ t.dev.mem = g.mem ∧
        t.dev.qCmds (mU sk) q = (g.qCmds (mU sk) q).drop 1 ∧
        (t.dev.stk sk).runs = (g.stk sk).runs ++ [⟨q, s.dev.qJob (mU sk) q, 1, BitVec.ofNat 545 w,
          mvOuts w ls (g.mvSums (s.dev.qJob (mU sk) q) w ls), (mvRanges w).map fun x => (x.1, x.2.1), g.ao⟩]) ∧
    (∀ (f : Dev) (outs : List (Nat × List Byte × Bool)) (rs : List Range), fld w 7 0 = 0x02 →
      e.attnWork sk q w (s.dev.qJob (mU sk) q) = .ok (f, outs, rs) →
      ∃ t, Sys2Proof.Machine.exec (.attn sk q) s = .next t ∧ t.pending = s.pending ∧ t.dev.mem = f.mem ∧
        t.dev.qCmds (mU sk) q = (f.qCmds (mU sk) q).drop 1 ∧
        (t.dev.stk sk).runs = (f.stk sk).runs ++ [⟨q, s.dev.qJob (mU sk) q, 2, BitVec.ofNat 545 w, outs, rs, f.ao⟩]) ∧
    (∀ (f g : Dev) (a : Seg) (l : List Seg) (old : List Byte) (m : Bool), fld w 7 0 = 0x06 → atReturn w = false →
      e.opnds sk q (s.dev.qJob (mU sk) q) [(atAddr w, 32, true, .here 6)] = (f, some [a :: l]) →
      f.atomicAt (agPlain (f.job (s.dev.qJob (mU sk) q)).ptn (some (s.dev.qJob (mU sk) q))) a.dpa (atOp w) (atLanes w) (leBytes 32 (atOperand w)) = (g, .done old m) →
      ∃ t, Sys2Proof.Machine.exec (.marverAtomic sk q) s = .next t ∧ t.pending = s.pending ∧ t.dev.mem = g.mem ∧
        (t.dev.stk sk).runs = (g.stk sk).runs ++ [⟨q, s.dev.qJob (mU sk) q, 6, BitVec.ofNat 545 w, [], [(atAddr w, 32)], g.ao⟩]) ∧
    (∀ (f g : Dev) (ls ld : List Seg) (c : Nat), fld w 7 0 = 0x03 → cmdPhys w = false →
      e.opnd sk q (s.dev.qJob (mU sk) q) (cpSrc w) (cpBytes w) false (.here 5) 3 = .ok f ls →
      f.opnd sk q (s.dev.qJob (mU sk) q) (cpDst w) (cpBytes w) true .stacks 3 = .ok g ld →
      g.copySealBad (pieces ls) (pieces ld) (cpBytes w) = none → g.freeCopier sk = some c →
      ∃ t x, Sys2Proof.Machine.exec (.marverCopy sk q) s = .next t ∧ t.pending = s.pending ∧ t.dev.mem = g.mem ∧
        tget? (t.dev.stk sk).copiers c = some x ∧ x.queue = q.val ∧ x.cmd = BitVec.ofNat 545 w ∧ x.src = pieces ls ∧ x.dst = pieces ld ∧ x.done = 0) ∧
    (∀ (f : Dev) (l : List Seg) (c : Nat), fld w 7 0 = 0x04 →
      e.opnd sk q (s.dev.qJob (mU sk) q) (cpSrc w) (cpBytes w) true .stacks 3 = .ok f l → f.freeCopier sk = some c →
      ∃ t x, Sys2Proof.Machine.exec (.fill sk q) s = .next t ∧ t.pending = s.pending ∧ t.dev.mem = f.mem ∧
        tget? (t.dev.stk sk).copiers c = some x ∧ x.queue = q.val ∧ x.cmd = BitVec.ofNat 545 w ∧ x.src = [] ∧ x.dst = pieces l ∧ x.done = 0) ∧
    (∀ (f : Dev) (l : List Seg) (c : Nat), fld w 7 0 = 0x05 →
      e.opnd sk q (s.dev.qJob (mU sk) q) (cpSrc w) (cpBytes w) false (.here 5) 3 = .ok f l → f.freeCopier sk = some c →
      ∃ t x, Sys2Proof.Machine.exec (.scrub sk q) s = .next t ∧ t.pending = s.pending ∧ t.dev.mem = f.mem ∧
        tget? (t.dev.stk sk).copiers c = some x ∧ x.queue = q.val ∧ x.cmd = BitVec.ofNat 545 w ∧ x.src = pieces l ∧ x.dst = [] ∧ x.done = 0))

/-- The oldest run of a stack, its outputs unsealed and its memory answering, completes: it leaves the runs, no byte outside the bursts of its outputs changes, a single output reads as computed, and with SIGNAL its flag grows by one. A copier transfer whose memory answers does its remaining units and leaves its engine; a denied write faults its job with SEAL_VIOLATION; with no unit left no memory changes and with SIGNAL its flag grows by one. A stack leaves self-refresh for ON once demanded, outside a lehr stop, with PD110 ON. The security core's write of a slot up to 24 to STK_SEAL_DATA sets the slot of the granule that STK_SEAL_INDEX names and no other; another role's write sets ACCESS_DENIED and changes no slot. A saved copier transfer of a job that is not eligible stays saved; of one that is, with a free engine, it goes on at NEXT_UNIT as its record reads: command, units, job and partition. (R128, R129, R138, R274, R124, R125) -/
def Obligations.MarverWorkLands : Prop :=
  (∀ (s : State) (sk : Fin 24) (r : MRun) (rest : List MRun), (s.dev.stk sk).runs = r :: rest → (∀ o ∈ r.outs, s.dev.memReady o.1 = true ∧ s.dev.slotAt o.1 = 0 ∧ o.1 % 64 + o.2.1.length ≤ 64 ∧
      ((∃ k x, loc o.1 = .stack k x) ∨ (∃ n x, loc o.1 = .buf n x ∧ x + o.2.1.length ≤ 0xFC000))) →
    s.dev.sram = [] → s.dev.PartsFit → (s.dev.job r.job).endedAt = none →
    ∃ t, Sys2Proof.Machine.exec (.marverCommandComplete sk 4) s = .next t ∧ t.pending = s.pending ∧ (t.dev.stk sk).runs = rest ∧
      (∀ a, s.dev.Outside r.outs a → t.dev.rawByte a = s.dev.rawByte a) ∧ (r.outs = [] → t.dev.mem = s.dev.mem) ∧
      (∀ o, r.outs = [o] → s.dev.errs = [] → s.dev.torn = [] → s.dev.weak o.1 = false → s.dev.lostAt o.1 = false →
        t.dev.rawBytes o.1 o.2.1.length = o.2.1) ∧
      (mhSigEn r.cmd.toNat = true → mhSigKind r.cmd.toNat = false → mhSigFlag r.cmd.toNat < 64 →
        t.dev.flag (pStk sk 1) (mhSigFlag r.cmd.toNat) = min 65535 (s.dev.flag (pStk sk 1) (mhSigFlag r.cmd.toNat) + 1))) ∧
  (∀ (s : State) (sk : Fin 24) (e : Fin 4) (r : CopyRun), tget? (s.dev.stk sk).copiers e = some r → s.dev.piecesReady (r.src ++ r.dst) = true →
    ∃ (t : State) (f : Dev) (bad : Option Nat), Sys2Proof.Machine.exec (.marverCommandComplete sk (e.castSucc)) s = .next t ∧ t.pending = s.pending ∧
      Dev.copyUnits sk (r.total - r.done) s.dev r r.done = (f, bad) ∧ tget? (t.dev.stk sk).copiers e = none ∧
      (bad = none → t.dev.mem = f.mem) ∧ (∀ a, bad = some a → s.dev.JobFaulted t.dev (mU sk) r.queue r.job 0x7001 (deniedInfo r.queue a)) ∧
      (r.total ≤ r.done → t.dev.mem = s.dev.mem) ∧
      (r.total ≤ r.done → mhSigEn r.cmd.toNat = true → mhSigKind r.cmd.toNat = false →
        t.dev.flag (pStk sk 1) (mhSigFlag r.cmd.toNat) = min 65535 (s.dev.flag (pStk sk 1) (mhSigFlag r.cmd.toNat) + 1))) ∧
  (∀ (s : State) (sk : Fin 24) (k : Fin 32), s.dev.eligible (mU sk) (((tget? (s.dev.stk sk).saved k).map CopyRun.job).getD 0) = false →
    ∃ t, Sys2Proof.Machine.exec (.stackDmaResume sk k) s = .next t ∧ t = s) ∧
  (∀ (s : State) (sk : Fin 24) (k : Fin 32) (r : CopyRun) (c w : Nat) (f : Dev) (l : List Byte), tget? (s.dev.stk sk).saved k = some r → s.dev.eligible (mU sk) r.job = true →
    s.dev.freeCopier sk = some c → s.dev.mvrRuns sk = true → s.dev.readPva r.ptn (s.dev.stkSave sk k) 512 = (f, .ok l) →
    crc32 (l.take 0x1FC) = numAt l 0x1FC 4 → w = numAt l 0 64 + r.cmd.toNat / 2 ^ 512 * 2 ^ 512 → cmdPhys w = true →
    ∃ t x, Sys2Proof.Machine.exec (.stackDmaResume sk k) s = .next t ∧ t.pending = s.pending ∧ tget? (t.dev.stk sk).saved k = none ∧
      tget? (t.dev.stk sk).copiers c = some x ∧ x.done = numAt l 0x180 8 % 2 ^ 40 ∧ x.total = numAt l 0x188 8 % 2 ^ 40 ∧
      x.job = numAt l 0x198 2 % 4096 ∧ x.ptn = numAt l 0x19A 1 % 32 ∧ x.queue = r.queue ∧
      x.src = [(cpSrc w + 4096 * x.done, 4096 * (x.total - x.done))] ∧ x.dst = [(cpDst w + 4096 * x.done, 4096 * (x.total - x.done))] ∧ t.dev.mem = f.mem) ∧
  (∀ (s : State) (k : Fin 24), s.dev.dom (80 + k.val) = dsSelf → (s.dev.stk k).demand = true → s.dev.lehr = 0 → s.dev.dom 110 = dsOn →
    ∃ t, Sys2Proof.Machine.exec (.stackSelfRefreshExit k) s = .next t ∧ t.pending = s.pending ∧ (s.dev.stackExits k).dom (80 + k.val) = dsOn ∧
      (s.dev.inOps = [] → t.dev.dom (80 + k.val) = dsOn ∧ (t.dev.stk k).demand = false ∧ t.dev.mem = s.dev.mem ∧ t.dev.SameRegsBut s.dev pPwr [rDom (80 + k.val), 0x54])) ∧
  (∀ (s : State) (r : Role) (sk : Fin 24) (v : BitVec 32), s.dev.Takes r (pStk sk 0) →
    (r = .security → wfld v 4 0 ≤ 24 →
      ∃ t, Sys2Proof.Machine.exec (.sealMapWrite r sk v) s = .next t ∧ t.pending = s.pending ∧
        tgetD (t.dev.stk sk).sealMap (s.dev.getF (pStk sk 0) 0x44 15 0) 0 = wfld v 4 0 ∧
        (∀ g, g ≠ s.dev.getF (pStk sk 0) 0x44 15 0 → tgetD (t.dev.stk sk).sealMap g 0 = tgetD (s.dev.stk sk).sealMap g 0) ∧ t.dev.mem = s.dev.mem) ∧
    (r ≠ .security →
      ∃ t, Sys2Proof.Machine.exec (.sealMapWrite r sk v) s = .next t ∧ t.pending = s.pending ∧ t.dev.bit (pStk sk 0) 0x10 evDenied = true ∧
        t.dev.stks = s.dev.stks ∧ t.dev.SameRegsBut s.dev (pStk sk 0) [0x10] ∧ t.dev.mem = s.dev.mem))

/-- For a descriptor item that is due. DESC_CREATE of a handle inside the table, of an image that R101 allows, whose allocation record bears no poison mark and passes R108, writes the 128 bytes with VALID set at its entry, counts the creation and answers 0. A handle outside the table answers DESC_HANDLE, an image that is not allowed DESC_FORMAT, an allocation number outside its table DESC_ALLOC, a failing check its code and dimension; each counts a refusal and writes no memory. DESC_DESTROY writes back the last 8 bytes of an unmarked entry with bit 63 clear; a handle outside the table answers DESC_HANDLE. (R106, R108) -/
def Obligations.DescriptorItems : Prop :=
  (∀ (s : State) (p : Fin 25) (i : Item) (e : Dev), s.dev.dueItem p 0x0010 = some (i, e) →
    (e.getF (pPtn i.ptn) 0x308 16 0 ≤ numAt i.body 0x80 2 →
      ∃ t, Sys2Proof.Machine.exec (.descCreate p) s = .next t ∧ t.pending = s.pending ∧ t.dev = e.descRefused i cDescHandle (numAt i.body 0x80 2)) ∧
    (numAt i.body 0x80 2 < e.getF (pPtn i.ptn) 0x308 16 0 → dsBadFormat (numAt i.body 0 128) = true →
      ∃ t, Sys2Proof.Machine.exec (.descCreate p) s = .next t ∧ t.pending = s.pending ∧ t.dev = e.descRefused i cDescFormat (numAt i.body 0x80 2)) ∧
    (numAt i.body 0x80 2 < e.getF (pPtn i.ptn) 0x308 16 0 → dsBadFormat (numAt i.body 0 128) = false →
      e.getF (pPtn i.ptn) 0x314 16 0 ≤ dsAlloc (numAt i.body 0 128) →
      ∃ t, Sys2Proof.Machine.exec (.descCreate p) s = .next t ∧ t.pending = s.pending ∧ t.dev = e.descRefused i cDescAlloc (numAt i.body 0x80 2)) ∧
    (∀ (f : Dev) (bs : List Byte), numAt i.body 0x80 2 < e.getF (pPtn i.ptn) 0x308 16 0 → dsBadFormat (numAt i.body 0 128) = false →
      dsAlloc (numAt i.body 0 128) < e.getF (pPtn i.ptn) 0x314 16 0 →
      e.intakeRead i.ptn (e.allocPva i.ptn (dsAlloc (numAt i.body 0 128))) 16 = (f, .ok (bs, false)) →
      (∀ c k, dsCheck (numAt i.body 0 128) (leNat bs) = some (c, k) →
        ∃ t, Sys2Proof.Machine.exec (.descCreate p) s = .next t ∧ t.pending = s.pending ∧ t.dev = f.descRefused i c (numAt i.body 0x80 2 + k * 65536)) ∧
      (∀ g : Dev, dsCheck (numAt i.body 0 128) (leNat bs) = none →
        f.intakeWrite i.ptn (f.descPva i.ptn (numAt i.body 0x80 2)) (leBytes 128 (numAt i.body 0 128 + 2 ^ 1023)) = (g, .ok ()) →
        ∃ t, Sys2Proof.Machine.exec (.descCreate p) s = .next t ∧ t.pending = s.pending ∧ t.dev = (g.addSat (pPtn i.ptn) 0x318 15 0 1).endItem i 0 0))) ∧
  (∀ (s : State) (p : Fin 25) (i : Item) (e : Dev), s.dev.dueItem p 0x0011 = some (i, e) →
    (e.getF (pPtn i.ptn) 0x308 16 0 ≤ numAt i.body 0 2 →
      ∃ t, Sys2Proof.Machine.exec (.descDestroy p) s = .next t ∧ t.pending = s.pending ∧ t.dev = e.endItem i cDescHandle (numAt i.body 0 2)) ∧
    (∀ (f g : Dev) (bs : List Byte), numAt i.body 0 2 < e.getF (pPtn i.ptn) 0x308 16 0 →
      e.intakeRead i.ptn (e.descPva i.ptn (numAt i.body 0 2) + 120) 8 = (f, .ok (bs, false)) →
      f.intakeWrite i.ptn (e.descPva i.ptn (numAt i.body 0 2) + 120) (leBytes 8 (setFld (leNat bs) 63 63 0)) = (g, .ok ()) →
      ∃ t, Sys2Proof.Machine.exec (.descDestroy p) s = .next t ∧ t.pending = s.pending ∧ t.dev = g.endItem i 0 0))

/-- For a served compute DMA queue whose head is the command. NOP leaves the queue and changes no register. SIGNAL to a flag of this device whose domain is not OFF adds AMOUNT, staying at 65,535; to a flag of another device it changes no flag here. WAIT with its flag at or above THRESHOLD leaves the queue and with CONSUME takes THRESHOLD off; below it, it stays at the head and nothing changes. FENCE leaves the queue and holds it with its scope. No memory and no job changes. A WAIT whose limit has passed with its flag below THRESHOLD faults its job with FLAG_WAIT_TIMEOUT. (R265, R266, R267, R247) -/
def Obligations.DmaQueueCommandsComplete : Prop :=
  (∀ (s : State) (e : Fin 256) (q : Fin 2) (w : Nat), s.dev.DmaServed e q w →
    (fld w 7 0 = 0x00 →
      ∃ t, Sys2Proof.Machine.exec (.dmaNop e q) s = .next t ∧ t.pending = s.pending ∧ t.dev.qCmds (dU e) q = (s.dev.qCmds (dU e) q).drop 1 ∧
        t.dev.csr = s.dev.csr ∧ t.dev.mem = s.dev.mem ∧ t.dev.jobs = s.dev.jobs) ∧
    (∀ P : Page, fld w 7 0 = 0x07 → s.dev.sigLocal w = true → P = (if dmSigKind w then pStk (dmSigTarget w) 1 else pClu (dmSigTarget w)) → s.dev.pageOff P = false →
      ∃ t, Sys2Proof.Machine.exec (.dmaSignal e q) s = .next t ∧ t.pending = s.pending ∧ t.dev.qCmds (dU e) q = (s.dev.qCmds (dU e) q).drop 1 ∧
        t.dev.flag P (dmSigFlag w) = min 65535 (s.dev.flag P (dmSigFlag w) + dmAmount w) ∧
        t.dev.SameRegsBut s.dev P [rFlag (dmSigFlag w), 0x48] ∧ t.dev.mem = s.dev.mem ∧ t.dev.jobs = s.dev.jobs) ∧
    (fld w 7 0 = 0x07 → s.dev.sigLocal w = false →
      ∃ t, Sys2Proof.Machine.exec (.dmaSignal e q) s = .next t ∧ t.pending = s.pending ∧ t.dev.qCmds (dU e) q = (s.dev.qCmds (dU e) q).drop 1 ∧
        (∀ (p : Page) (f : Nat), t.dev.flag p f = s.dev.flag p f) ∧ t.dev.mem = s.dev.mem ∧ t.dev.jobs = s.dev.jobs) ∧
    (fld w 7 0 = 0x06 → dmWtThreshold w ≤ s.dev.flag (dmWtPage w) (dmWtFlag w) →
      ∃ t, Sys2Proof.Machine.exec (.dmaWait e q) s = .next t ∧ t.pending = s.pending ∧ t.dev.qCmds (dU e) q = (s.dev.qCmds (dU e) q).drop 1 ∧
        t.dev.flag (dmWtPage w) (dmWtFlag w) = s.dev.flag (dmWtPage w) (dmWtFlag w) - (if dmWtConsume w then dmWtThreshold w else 0) ∧
        t.dev.SameRegsBut s.dev (dmWtPage w) [rFlag (dmWtFlag w)] ∧ t.dev.mem = s.dev.mem ∧ t.dev.jobs = s.dev.jobs) ∧
    (fld w 7 0 = 0x06 → s.dev.flag (dmWtPage w) (dmWtFlag w) < dmWtThreshold w →
      ∃ t, Sys2Proof.Machine.exec (.dmaWait e q) s = .next t ∧ t = s) ∧
    (fld w 7 0 = 0x08 →
      ∃ t, Sys2Proof.Machine.exec (.dmaFence e q) s = .next t ∧ t.pending = s.pending ∧ t.dev.qCmds (dU e) q = (s.dev.qCmds (dU e) q).drop 1 ∧
        t.dev.qFence (dU e) q = some (dmScope w) ∧ t.dev.csr = s.dev.csr ∧ t.dev.mem = s.dev.mem ∧ t.dev.jobs = s.dev.jobs)) ∧
  (∀ (s : State) (e : Fin 256) (q : Fin 2) (w at_ lim : Nat), s.dev.qHead (dU e) q = some w → s.dev.qWaiting (dU e) q = some (at_, lim) →
    fld w 7 0 = 0x06 → s.dev.flag (dmWtPage w) (dmWtFlag w) < dmWtThreshold w → at_ + lim ≤ s.dev.ao →
    ∃ t, Sys2Proof.Machine.exec (.dmaWaitTimeout e q) s = .next t ∧ t.pending = s.pending ∧
      s.dev.JobFaulted t.dev (dU e) q (s.dev.qJob (dU e) q) 0x5001 (dmWtFlag w + q.val * 256 + s.dev.flag (dmWtPage w) (dmWtFlag w) * 65536))

/-- For a served compute DMA queue whose head moves data: with two good descriptors read at issue that pass the checks, the command leaves the queue and a transfer of ceil(elements / elements of a unit) units stands with nothing issued, its descriptors as read and PROGRESS 0; no memory changes beyond what reading the descriptors leaves. A failing check faults the job with its code; an entry that is not VALID, or whose allocation does not match, is DESC_INVALID. ATOMIC begins a transfer of one unit. (R107, R112, R266, R250) -/
def Obligations.DmaTransfersIssue : Prop :=
  ∀ (s : State) (e : Fin 256) (q : Fin 2) (w : Nat), s.dev.DmaServed e q w →
    (∀ (f g : Dev) (src dst : Desc), s.dev.descAtIssue e (s.dev.job (s.dev.qJob (dU e) q)).ptn (s.dev.qJob (dU e) q) (dmSrc w) = (f, .ok src) →
      f.descAtIssue e (s.dev.job (s.dev.qJob (dU e) q)).ptn (s.dev.qJob (dU e) q) (dmDst w) = (g, .ok dst) →
        (issueCheck w src dst = none →
          (fld w 7 0 = 1 → ∃ t, Sys2Proof.Machine.exec (.dmaCopy e q) s = .next t ∧ t.pending = s.pending ∧
            t.dev.XferStands e q w (s.dev.qJob (dU e) q) src dst ∧ t.dev.qCmds (dU e) q = (g.qCmds (dU e) q).drop 1 ∧ t.dev.mem = g.mem) ∧
          (fld w 7 0 = 2 → ∃ t, Sys2Proof.Machine.exec (.gather e q) s = .next t ∧ t.pending = s.pending ∧
            t.dev.XferStands e q w (s.dev.qJob (dU e) q) src dst ∧ t.dev.qCmds (dU e) q = (g.qCmds (dU e) q).drop 1 ∧ t.dev.mem = g.mem) ∧
          (fld w 7 0 = 3 → ∃ t, Sys2Proof.Machine.exec (.scatter e q) s = .next t ∧ t.pending = s.pending ∧
            t.dev.XferStands e q w (s.dev.qJob (dU e) q) src dst ∧ t.dev.qCmds (dU e) q = (g.qCmds (dU e) q).drop 1 ∧ t.dev.mem = g.mem) ∧
          (fld w 7 0 = 4 → ∃ t, Sys2Proof.Machine.exec (.scatterAdd e q) s = .next t ∧ t.pending = s.pending ∧
            t.dev.XferStands e q w (s.dev.qJob (dU e) q) src dst ∧ t.dev.qCmds (dU e) q = (g.qCmds (dU e) q).drop 1 ∧ t.dev.mem = g.mem)) ∧
        (∀ k i c, issueCheck w src dst = some (k, i) →
          (fld w 7 0, c) ∈ [(1, Instr.dmaCopy e q), (2, .gather e q), (3, .scatter e q), (4, .scatterAdd e q)] →
          ∃ t, Sys2Proof.Machine.exec c s = .next t ∧ t.pending = s.pending ∧ g.JobFaulted t.dev (dU e) q (s.dev.qJob (dU e) q) k i)) ∧
    (∀ (f : Dev) (c : Instr), s.dev.descAtIssue e (s.dev.job (s.dev.qJob (dU e) q)).ptn (s.dev.qJob (dU e) q) (dmSrc w) = (f, .bad) →
      (fld w 7 0, c) ∈ [(1, Instr.dmaCopy e q), (2, .gather e q), (3, .scatter e q), (4, .scatterAdd e q)] →
      ∃ t, Sys2Proof.Machine.exec c s = .next t ∧ t.pending = s.pending ∧ f.JobFaulted t.dev (dU e) q (s.dev.qJob (dU e) q) cDescInvalid (dmSrc w)) ∧
    (fld w 7 0 = 0x05 →
      ∃ t x, Sys2Proof.Machine.exec (.dmaAtomic e q) s = .next t ∧ t.pending = s.pending ∧ tget? (t.dev.dma e).xfers q = some x ∧ x.cmd = BitVec.ofNat 1024 w ∧
        x.total = 1 ∧ x.next = 0 ∧ x.done = 0 ∧ x.flight = [] ∧ t.dev.qCmds (dU e) q = (s.dev.qCmds (dU e) q).drop 1 ∧ t.dev.mem = s.dev.mem)

/-- The queue that the engine chooses issues its next unit: of a command that moves data, whose list entries are read, whose pages translate, whose memory answers and which writes no plaintext where it may not, the unit joins those in flight with its elements and translations, and the next unit is one further, or the transfer ends with INDEX_RANGE at the entry named. A performed unit whose writes are held leaves flight; the units done, DMAC_UNITS and PROGRESS grow by one. A transfer with nothing in flight and all units issued leaves the engine, with its status record stored if it asks for one, and adds one to the flag of its signal on this device; one that ended with a code faults its job with it. A saved transfer whose record passes its CRC goes on as the record reads; one that fails is a fault of its job. (R265, R268, R269, R270, R271) -/
def Obligations.DmaUnitsAndCompletion : Prop :=
  (∀ (s : State) (e : Fin 256) (q : Fin 2) (d d' f g : Dev) (x : Xfer) (ops : List ElOp) (lp rd wr : List Seg) (es : List (Nat × List Byte)) (w : Nat) (src dst : Desc) (ul : UnitList),
    s.dev.dmaRuns e = true → s.dev.dmaChoose e = some (q.val, d) → tget? (d.dma e).xfers q = some x → w = x.cmd.toNat → src = leNat x.src → dst = leNat x.dst → 1 ≤ fld w 7 0 → fld w 7 0 ≤ 4 →
    d.readEntries e x (unitEntries w dst x.next) = (d', .ok es lp) →
    ul = checkEntries (listedOf w src dst) (fun j => ((es.find? fun r => r.1 = j).map Prod.snd).getD []) (es.map Prod.fst) →
    ops = unitOps w src dst ul (if fld w 7 0 = 2 then (gatherFetches ((unitPos w dst x.next).head?.getD 0 % dsBlockElems dst ≠ 0) x.last ul.coords).1 else []) x.next →
    d'.xlPages e x.ptn false (unitPages x ops).1 = (f, .ok rd) → f.xlPages e x.ptn true (unitPages x ops).2 = (g, .ok wr) →
    g.segsReady (rd ++ wr) = true → g.leaks e x rd wr ops = false →
    (((srcRuns src dst ops).filterMap fun r => (segAt rd r.1).map fun y => { y with len := r.2 }).any (g.segClosed (agPlain x.ptn (some x.job)))) = false →
    ∃ (t : State) (h : Dev) (y : Xfer) (u : DUnit), Sys2Proof.Machine.exec (.dmaUnitIssue e q) s = .next t ∧ t.pending = s.pending ∧
      t.dev = Dev.performReady 17 h e q ∧ tget? (h.dma e).xfers q = some y ∧ y.total = x.total ∧ y.flight = x.flight ++ [u] ∧
      y.next = (if ul.stop.isSome then x.next else x.next + 1) ∧ y.code = (if ul.stop.isSome then cIndexRange else 0) ∧
      (∀ p, ul.stop = some p → y.info = p.1 % 2 ^ 24 + p.2 * 2 ^ 24 + 2 ^ 27) ∧
      u.k = x.next ∧ u.ops = ops ∧ u.rd = rd ∧ u.wr = wr ∧ u.performed = false ∧
      ((∃ v, (x.flight.find? fun v => !v.performed) = some v ∧ v.need ≠ []) → tget? (t.dev.dma e).xfers q = some y ∧ t.dev.mem = g.mem)) ∧
  (∀ (s : State) (e : Fin 256) (q : Fin 2) (k : Nat) (x : Xfer) (u : DUnit), tget? (s.dev.dma e).xfers q = some x →
    (x.flight.find? fun v => v.k = k) = some u → u.performed = true → u.posts.all s.dev.isHeld = true → (x.code = 0 ∨ k ≠ x.next) → x.stop = 0 → s.dev.scrubbed (pDmac e) = false →
    ∃ t y, Sys2Proof.Machine.exec (.dmaUnitComplete e q k) s = .next t ∧ t.pending = s.pending ∧ tget? (t.dev.dma e).xfers q = some y ∧
      y.done = x.done + 1 ∧ y.flight = x.flight.filter (fun v => v.k ≠ k) ∧
      t.dev.reg (pDmac e) (dslot e + 0x30) = s.dev.reg (pDmac e) (dslot e + 0x30) + 1 ∧
      t.dev.reg (pDmac e) (dslot e + 0x28 + 4 * q) = BitVec.ofNat 32 (min (x.done + 1) 0xFFFFFFFF) ∧
      t.dev.SameRegsBut s.dev (pDmac e) [dslot e + 0x30, dslot e + 0x28 + 4 * q] ∧ t.dev.mem = s.dev.mem) ∧
  (∀ (s : State) (e : Fin 256) (q : Fin 2) (x : Xfer) (f : Dev) (ids : List (Nat × Nat)) (w : Nat), tget? (s.dev.dma e).xfers q = some x → x.flight = [] → x.saved = false → w = x.cmd.toNat →
    (if dmStatEn w then s.dev.store (some (dU e)) (some (dieOf (dU e))) (agPlain x.ptn (some x.job)) x.ptn (dmStat w) (statusRecord x) false else (s.dev, Store.ok [])) = (f, .ok ids) →
    (x.code = 0 → x.total ≤ x.next →
      ∃ t, Sys2Proof.Machine.exec (.dmaTransferComplete e q) s = .next t ∧ t.pending = s.pending ∧ tget? (t.dev.dma e).xfers q = none ∧ t.dev.mem = f.mem ∧ t.dev.jobs = f.jobs ∧
        (dmSigEn w = false → t.dev.csr = f.csr) ∧
        (∀ P : Page, dmSigEn w = true → s.dev.sigLocal w = true → P = (if dmSigKind w then pStk (dmSigTarget w) 1 else pClu (dmSigTarget w)) → f.pageOff P = false →
          t.dev.flag P (dmSigFlag w) = min 65535 (f.flag P (dmSigFlag w) + 1) ∧ t.dev.SameRegsBut f P [rFlag (dmSigFlag w), 0x48])) ∧
    (x.code ≠ 0 →
      ∃ t, Sys2Proof.Machine.exec (.dmaTransferComplete e q) s = .next t ∧ t.pending = s.pending ∧ f.JobFaulted t.dev (dU e) q x.job x.code x.info)) ∧
  (∀ (s : State) (e : Fin 256) (q : Fin 2) (x : Xfer) (f : Dev) (bs : List Byte), tget? (s.dev.dma e).xfers q = some x → x.saved = true → x.hold = none →
    s.dev.dmaRuns e = true → s.dev.eligible (dU e) x.job = true →
    s.dev.fetch (some (dU e)) none (agPlain x.ptn (some x.job)) x.ptn (s.dev.dmaSave e q) 512 true = (f, .ok bs) →
    (crc32 (bs.take 0x1FC) = numAt bs 0x1FC 4 →
      ∃ t y, Sys2Proof.Machine.exec (.dmaResume e q) s = .next t ∧ t.pending = s.pending ∧ tget? (t.dev.dma e).xfers q = some y ∧
        y.stop = 0 ∧ y.saved = false ∧ y.next = numAt bs 0x180 8 % 2 ^ 40 ∧ y.total = numAt bs 0x188 8 % 2 ^ 40 ∧ y.job = numAt bs 0x198 2 % 4096 ∧ y.ptn = numAt bs 0x19A 1 % 32 ∧
        t.dev.qMark (dU e) q = 0 ∧ t.dev.mem = f.mem) ∧
    (crc32 (bs.take 0x1FC) ≠ numAt bs 0x1FC 4 →
      ∃ t, Sys2Proof.Machine.exec (.dmaResume e q) s = .next t ∧ t.pending = s.pending ∧
        f.JobFaulted t.dev (dU e) q x.job 0x5010 (q.val % 8 + e.val * 65536)))

/-- For a hold slot that holds a fault, of a partition page that takes the write. HOLD_RESUME whose walk now succeeds frees the slot; one that faults again keeps the slot, its time and its job, and no memory changes. HOLD_ABORT, alone or with RESUME, and a limit that has passed end the hold in a fault of its job with the hold's code, the limit with FAULT_INFO[8] set and PTN_XLATE_EXPIRED one higher; the slot is free after both. A limit that has not passed changes nothing. (R273, R276) -/
def Obligations.HoldsResumeAbortAndExpire : Prop :=
  (∀ (s : State) (r : Role) (p : Fin 24) (h : Fin 8), s.dev.Takes r (pPtn p) → s.dev.holdValid p h = true →
    (∀ (f : Dev) (x : Xl), s.dev.xlate none p (s.dev.holdPva p h) (s.dev.bit (pPtn p) (rHold h) 1) = (f, .ok x) →
      ∃ t, Sys2Proof.Machine.exec (.holdResume r p h) s = .next t ∧ t.pending = s.pending ∧ t.dev.holdValid p h = false ∧
        t.dev.reg (pPtn p) (rHold h + 4) = 0 ∧ t.dev.reg (pPtn p) (rHold h + 8) = 0 ∧ t.dev.mem = s.dev.mem ∧ t.dev.jobs = s.dev.jobs) ∧
    (∀ (f : Dev) (x : XFault), s.dev.xlate none p (s.dev.holdPva p h) (s.dev.bit (pPtn p) (rHold h) 1) = (f, .error x) →
      ∃ t, Sys2Proof.Machine.exec (.holdResume r p h) s = .next t ∧ t.pending = s.pending ∧ t.dev.holdValid p h = true ∧
        t.dev.holdPva p h = s.dev.holdPva p h ∧ t.dev.holdAt = s.dev.holdAt ∧ t.dev.mem = s.dev.mem ∧ t.dev.jobs = s.dev.jobs) ∧
    (∀ both : Bool, (s.dev.holdUnit p h < 800 ∨ 0x4000 ≤ s.dev.holdUnit p h ∧ s.dev.holdUnit p h < 0x4100) →
      ∃ t, Sys2Proof.Machine.exec (.holdAbort r p h both) s = .next t ∧ t.pending = s.pending ∧ t.dev.holdValid p h = false ∧
        s.dev.JobFaulted t.dev (s.dev.holdUnit p h) (s.dev.holdQueue p h) (s.dev.holdJob p h) (s.dev.holdCode p h) (s.dev.holdInfo p h))) ∧
  (∀ (s : State) (p : Fin 24) (h : Fin 8), s.dev.holdValid p h = true →
    (tgetD s.dev.holdAt (8 * p + h) 0 + (s.dev.reg pMmu 0x40).toNat ≤ s.dev.ao → (s.dev.holdUnit p h < 800 ∨ 0x4000 ≤ s.dev.holdUnit p h ∧ s.dev.holdUnit p h < 0x4100) →
      ∃ t, Sys2Proof.Machine.exec (.holdLimitExpiry p h) s = .next t ∧ t.pending = s.pending ∧ t.dev.holdValid p h = false ∧
        s.dev.JobFaulted t.dev (s.dev.holdUnit p h) (s.dev.holdQueue p h) (s.dev.holdJob p h) (s.dev.holdCode p h) (s.dev.holdInfo p h + 256) ∧
        (s.dev.scrubbed (pPtn p) = false → t.dev.reg (pPtn p) 0x214 = s.dev.reg (pPtn p) 0x214 + 1)) ∧
    (s.dev.ao < tgetD s.dev.holdAt (8 * p + h) 0 + (s.dev.reg pMmu 0x40).toNat →
      ∃ t, Sys2Proof.Machine.exec (.holdLimitExpiry p h) s = .next t ∧ t = s))

/-- For a message of the intake whose one item is under way, in a sequence that holds no other: its outcome ends the message. With FLAGS bit 0 clear and the item accepted nothing is sent and nothing but the list of messages changes; otherwise the work completion goes up to the host, with STATUS 0 for an accepted item and 1 for a refused one, the message's TAG, one item, one reached, and the item's code and INFO. An item that is not of the message's number changes nothing. (R303, R304) -/
def Obligations.ItemOutcomeAndCompletion : Prop :=
  ∀ (d : Dev) (m : WorkMsg) (i : Item) (code info kind : Nat) (body : List Byte), d.work = [m] → m.items = [(kind, body)] → m.outs = [] → m.next = 0 → m.eid = none →
    m.id ≠ glueMsg → code ≠ cItemSkipped → i.item = 0 →
    (i.msg = m.id → bitOf m.flags 0 = false → code = 0 → d.endItem i code info = { d with work := [] }) ∧
    (i.msg = m.id → (bitOf m.flags 0 = true ∨ code ≠ 0) →
      d.endItem i code info = ({ d with work := [] } : Dev).sendUp
        (doneMsg m.dev m.ptn (if code = 0 then 0 else 1) m.tag 1 1 0 [(code, info % 2 ^ 32)])) ∧
    (i.msg ≠ m.id → i.msg ≠ glueMsg → d.endItem i code info = d)

/-- For a due XLATE_MAP with readable tables: of a valid size and count whose pages all pass, the leaves stand and the item answers 0, then the holds over its range are tried again; a page that fails answers XLATE_INSTALL with the reason and the page's number and no leaf stands; a bad size or count answers reason 1. XLATE_UNMAP whose pages all carry a leaf of its size drops them and starts an invalidation that owes the item its outcome; a page that fails answers XLATE_INSTALL and no leaf goes. An invalidation whose ranges no engine holds ends: cached translations in its ranges go, MMU_INVALS grows by one; while one is held nothing changes. (R262, R264, R273) -/
def Obligations.TranslationItems : Prop :=
  (∀ (s : State) (p : Fin 25) (i : Item) (e : Dev), s.dev.dueItem p 0x0020 = some (i, e) → e.xaReady i.ptn = true →
    ((2 < numAt i.body 0x10 1 ∨ numAt i.body 0x14 4 = 0 ∨ 65536 < numAt i.body 0x14 4) →
      Sys2Proof.Machine.exec (.xlateMap p) s = .next ⟨e.endItem i cXlateInstall 1, s.pending⟩) ∧
    (∀ r : Except (Nat × Nat) Dev, numAt i.body 0x10 1 ≤ 2 → numAt i.body 0x14 4 ≠ 0 → numAt i.body 0x14 4 ≤ 65536 →
      Dev.mapPages i.ptn (numAt i.body 0 8) (fld (numAt i.body 8 8) 43 0) (fld (numAt i.body 8 8) 51 44) (numAt i.body 0x10 1) (bitOf (numAt i.body 8 8) 63)
        (bitOf (numAt i.body 0x11 1) 0) (bitOf (numAt i.body 0x11 1) 1) (List.range (numAt i.body 0x14 4)) e = r →
      (∀ f, r = .ok f → (∀ h : Fin 8, (f.endItem i 0 0).holdValid i.ptn h = false) →
        Sys2Proof.Machine.exec (.xlateMap p) s = .next ⟨f.endItem i 0 0, s.pending⟩) ∧
      (∀ x k, r = .error (x, k) →
        Sys2Proof.Machine.exec (.xlateMap p) s = .next ⟨e.endItem i cXlateInstall (x + k * 65536), s.pending⟩))) ∧
  (∀ (s : State) (p : Fin 25) (i : Item) (e : Dev), s.dev.dueItem p 0x0021 = some (i, e) → e.xaReady i.ptn = true → numAt i.body 0x10 1 ≤ 2 →
    numAt i.body 0x14 4 ≠ 0 → numAt i.body 0x14 4 ≤ 65536 →
    ((∀ k < numAt i.body 0x14 4, e.unmapReason i.ptn (numAt i.body 0 8 + k * leafBytes (sizeLevel (numAt i.body 0x10 1))) (numAt i.body 0x10 1) = none) →
      ∃ t f : Dev, Sys2Proof.Machine.exec (.xlateUnmap p) s = .next ⟨t, s.pending⟩ ∧
        f = e.each (List.range (numAt i.body 0x14 4)) (fun d k => d.dropLeaf i.ptn (numAt i.body 0 8 + k * leafBytes (sizeLevel (numAt i.body 0x10 1))) (sizeLevel (numAt i.body 0x10 1))) ∧
        t.mem = f.mem ∧ t.csr = f.csr ∧
        t.invals = f.invals ++ [⟨f.nextId, i.ptn, [(numAt i.body 0 8, numAt i.body 0x14 4 * leafBytes (sizeLevel (numAt i.body 0x10 1)))], some (i.msg, i.item)⟩]) ∧
    (∀ k x, k < numAt i.body 0x14 4 → (∀ k' < k, e.unmapReason i.ptn (numAt i.body 0 8 + k' * leafBytes (sizeLevel (numAt i.body 0x10 1))) (numAt i.body 0x10 1) = none) →
      e.unmapReason i.ptn (numAt i.body 0 8 + k * leafBytes (sizeLevel (numAt i.body 0x10 1))) (numAt i.body 0x10 1) = some x →
      Sys2Proof.Machine.exec (.xlateUnmap p) s = .next ⟨e.endItem i cXlateInstall (x + k * 65536), s.pending⟩)) ∧
  (∀ (s : State) (v : Inval), (s.dev.invals.find? fun x => x.id = v.id) = some v →
    (s.dev.invalBusy v = true → Sys2Proof.Machine.exec (.invalidationComplete v.id) s = .next s) ∧
    (s.dev.invalBusy v = false → v.forItem = none →
      ∃ t, Sys2Proof.Machine.exec (.invalidationComplete v.id) s = .next t ∧ t.pending = s.pending ∧
        t.dev.reg pMmu 0x48 = s.dev.reg pMmu 0x48 + 1 ∧ t.dev.SameRegsBut s.dev pMmu [0x48] ∧ t.dev.mem = s.dev.mem ∧
        (∀ x ∈ t.dev.tlb, x ∈ s.dev.tlb ∧ ¬ (x.ptn = v.ptn ∧ v.ranges.any (meets (x.pva, leafBytes x.level)) = true)) ∧
        (∀ x ∈ t.dev.invals, x.id ≠ v.id)))

/-- For a due job item, outside a lehr stop and in a partition that is not sealed. JOB_CREATE of class 2 or 3, weight 1 to 15, group 0 to 7 takes the lowest free job number and answers it. JOB_BIND, JOB_BIND_STACK and JOB_BIND_DMA of a general job of the partition bind a free queue of a unit that the partition owns with the job's weight; no memory and no job changes. JOB_UNBIND of an empty or stopped queue leaves it unbound. JOB_RESERVE binds all eight queues of every listed cluster to the job, which keeps the cluster as reserved. JOB_DESTROY of a job other than the serving job ends it. Each answers 0. Items that name a job the partition does not have answer JOB_STATE with the job number and change nothing else. (R219, R221, R232, R265) -/
def Obligations.JobItems : Prop :=
  (∀ (s : State) (p : Fin 25) (i : Item) (e : Dev), s.dev.dueItem p 0x0030 = some (i, e) → e.lehr = 0 → e.ptnSealed i.ptn = false →
    (numAt i.body 0 1 = 2 ∨ numAt i.body 0 1 = 3) → numAt i.body 1 1 ≠ 0 → numAt i.body 1 1 ≤ 15 → numAt i.body 2 1 ≤ 7 →
    ∀ j, j < 4096 → (e.job j).cls = 0 → (∀ k < j, (e.job k).cls ≠ 0) →
    ∃ f : Dev, Sys2Proof.Machine.exec (.jobCreate p) s = .next ⟨f.endItem i 0 j, s.pending⟩ ∧ (f.job j).ptn = i.ptn ∧ (f.job j).cls = numAt i.body 0 1 ∧
      (f.job j).weight = numAt i.body 1 1 ∧ (f.job j).group = numAt i.body 2 1 ∧ (∀ k, k ≠ j → f.job k = e.job k) ∧ f.csr = e.csr ∧ f.mem = e.mem) ∧
  (∀ (s : State) (p : Fin 25) (i : Item) (e : Dev) (j n q : Nat), p.val < 24 → s.dev.dueItem p 0x0031 = some (i, e) → j = numAt i.body 0 2 → n = numAt i.body 2 2 → q = numAt i.body 4 1 →
    (e.jobOf i.ptn j = true → (e.job j).cls = 2 → n ≤ 799 → e.owner (pClu n) = i.ptn → 1 ≤ q → q ≤ 7 → e.qBound n q = false → e.reservedBy n = none →
      ∃ f : Dev, Sys2Proof.Machine.exec (.jobBind p) s = .next ⟨f.endItem i 0 0, s.pending⟩ ∧ f.qJob n q = j ∧ f.qWeight n q = (e.job j).weight % 16 ∧
        f.reg (pClu n) (0x84 + 16 * q) = BitVec.ofNat 32 (numAt i.body 8 4) ∧ f.qCmds n q = [] ∧ f.qMark n q = 0 ∧ f.jobs = e.jobs ∧ f.mem = e.mem) ∧
    (e.jobOf i.ptn j = false → Sys2Proof.Machine.exec (.jobBind p) s = .next ⟨e.endItem i cJobState (j % 4096), s.pending⟩)) ∧
  (∀ (s : State) (p : Fin 25) (i : Item) (e : Dev) (j k q : Nat), p.val < 24 → s.dev.dueItem p 0x0032 = some (i, e) → j = numAt i.body 0 2 → k = numAt i.body 2 1 → q = numAt i.body 3 1 →
    (e.jobOf i.ptn j = true → (e.job j).cls = 2 → (e.ptnStacks i.ptn).contains k = true → 1 ≤ q → q ≤ 7 → e.qBound (0x2000 + k) q = false →
      ∃ f : Dev, Sys2Proof.Machine.exec (.jobBindStack p) s = .next ⟨f.endItem i 0 0, s.pending⟩ ∧ f.qJob (0x2000 + k) q = j ∧
        f.qWeight (0x2000 + k) q = (e.job j).weight % 16 ∧ f.qCmds (0x2000 + k) q = [] ∧ f.jobs = e.jobs ∧ f.mem = e.mem) ∧
    (e.jobOf i.ptn j = false → Sys2Proof.Machine.exec (.jobBindStack p) s = .next ⟨e.endItem i cJobState (j % 4096), s.pending⟩)) ∧
  (∀ (s : State) (p : Fin 25) (i : Item) (e : Dev) (j n : Nat), p.val < 24 → s.dev.dueItem p 0x0033 = some (i, e) → j = numAt i.body 0 2 → n = numAt i.body 2 2 → numAt i.body 4 1 = 1 →
    n ≤ 255 → e.owner (pDmac n) = i.ptn → j ≠ 0xFFFF →
    (e.jobOf i.ptn j = true → (e.job j).cls = 2 → e.qBound (0x4000 + n) 1 = false →
      ∃ f : Dev, Sys2Proof.Machine.exec (.jobBindDma p) s = .next ⟨f.endItem i 0 0, s.pending⟩ ∧ f.qJob (0x4000 + n) 1 = j ∧
        f.qWeight (0x4000 + n) 1 = (e.job j).weight % 16 ∧ f.qCmds (0x4000 + n) 1 = [] ∧ f.jobs = e.jobs ∧ f.mem = e.mem) ∧
    (e.jobOf i.ptn j = false → Sys2Proof.Machine.exec (.jobBindDma p) s = .next ⟨e.endItem i cJobState (j % 4096), s.pending⟩)) ∧
  (∀ (s : State) (p : Fin 25) (i : Item) (e : Dev) (j n u q : Nat), s.dev.dueItem p 0x0034 = some (i, e) → j = numAt i.body 0 2 → n = numAt i.body 2 2 → q = numAt i.body 4 1 →
    u = (if n < 0x8000 then n else 0x2000 + (n - 0x8000)) →
    (e.jobOf i.ptn j = true → (e.job j).cls ≠ 1 → (n < 800 ∧ e.owner (pClu n) = i.ptn ∨ 0x8000 ≤ n ∧ (e.ptnStacks i.ptn).contains (n - 0x8000) = true) → q ≤ 7 → e.qJob u q = j → e.mayUnbind u q = true →
      ∃ f : Dev, Sys2Proof.Machine.exec (.jobUnbind p) s = .next ⟨f.endItem i 0 0, s.pending⟩ ∧ f.qBound u q = false ∧ f.qCmds u q = [] ∧ f.qMark u q = 0 ∧ f.mem = e.mem ∧ f.jobs = e.jobs) ∧
    (e.jobOf i.ptn j = false → Sys2Proof.Machine.exec (.jobUnbind p) s = .next ⟨e.endItem i cJobState (j % 4096), s.pending⟩)) ∧
  (∀ (s : State) (p : Fin 25) (i : Item) (e : Dev) (j : Nat) (l : List Nat), s.dev.dueItem p 0x0035 = some (i, e) → j = numAt i.body 0 2 → l = maskBits 800 (numAt i.body 4 100) →
    e.jobOf i.ptn j = true → (e.job j).cls = 3 →
    ((∀ n ∈ l, e.reserveBad i.ptn j n = false) →
      ∃ f : Dev, Sys2Proof.Machine.exec (.jobReserve p) s = .next ⟨f.endItem i 0 0, s.pending⟩ ∧
        (∀ n ∈ l, n ∈ (f.job j).clusters ∧ ∀ q : Fin 8, f.qBound n q = true ∧ f.qJob n q = j ∧ (e.qBound n q = false → f.qWeight n q = (e.job j).weight % 16)) ∧
        (∀ k, k ≠ j → f.job k = e.job k) ∧ f.mem = e.mem) ∧
    (∀ n, l.find? (e.reserveBad i.ptn j) = some n → Sys2Proof.Machine.exec (.jobReserve p) s = .next ⟨e.endItem i cReserveConflict n, s.pending⟩)) ∧
  (∀ (s : State) (p : Fin 25) (i : Item) (e : Dev) (j : Nat), s.dev.dueItem p 0x0036 = some (i, e) → j = numAt i.body 0 2 →
    (e.jobOf i.ptn j = true → (e.job j).cls ≠ 1 →
      ∃ f : Dev, Sys2Proof.Machine.exec (.jobDestroy p) s = .next ⟨f.endItem i 0 0, s.pending⟩ ∧ f = e.dropJob j ∧ (f.job j).cls = 0) ∧
    (e.jobOf i.ptn j = false → Sys2Proof.Machine.exec (.jobDestroy p) s = .next ⟨e.endItem i cJobState (j % 4096), s.pending⟩))

/-- For a due item, outside a lehr stop: PROG_LOAD of a free handle and an aligned, unmarked image of at least 256 bytes that passes R225's checks, and in a sealed partition the signature's, keeps the program under its handle; one that fails answers the failing check's code and INFO and keeps none; a handle in use answers PROGRAM_BUSY. PROG_UNLOAD of a program that no open batch runs lets it go; without one it answers PROGRAM_INVALID, with an open batch PROGRAM_BUSY. A non-preemptible command that has run 10,000 ao-cycles faults its job with the watchdog's code; before that nothing changes. (R224, R225, R235) -/
def Obligations.ProgramItemsAndWatchdog : Prop :=
  (∀ (s : State) (p : Fin 25) (i : Item) (e : Dev), s.dev.dueItem p 0x0038 = some (i, e) → e.lehr = 0 →
    ((tget? (e.px i.ptn).progs (numAt i.body 0 1)).isSome = true →
      Sys2Proof.Machine.exec (.progLoad p) s = .next ⟨e.endItem i cProgBusy (numAt i.body 0 1), s.pending⟩) ∧
    (tget? (e.px i.ptn).progs (numAt i.body 0 1) = none → numAt i.body 8 8 % 64 ≠ 0 →
      Sys2Proof.Machine.exec (.progLoad p) s = .next ⟨e.endItem i cProgInvalid 0, s.pending⟩) ∧
    (tget? (e.px i.ptn).progs (numAt i.body 0 1) = none → numAt i.body 8 8 % 64 = 0 → numAt i.body 0x10 4 < 256 →
      Sys2Proof.Machine.exec (.progLoad p) s = .next ⟨e.endItem i cProgInvalid (numAt i.body 0x10 4), s.pending⟩) ∧
    (∀ (f : Dev) (bs : List Byte) (g : Image) (len : Nat), tget? (e.px i.ptn).progs (numAt i.body 0 1) = none → len = numAt i.body 0x10 4 → numAt i.body 8 8 % 64 = 0 →
      256 ≤ len → e.intakeRead i.ptn (numAt i.body 8 8) (len + if e.ptnSealed i.ptn then 1280 else 0) = (f, .ok (bs, false)) →
      g = ⟨numAt i.body 8 8, bytesAt (bytesAt bs 0 len) 0 256⟩ →
      (len < g.ends → Sys2Proof.Machine.exec (.progLoad p) s = .next ⟨f.endItem i cProgInvalid len, s.pending⟩) ∧
      (g.ends ≤ len → f.progCheck i.ptn g (bytesAt bs 0 len) = none →
        (if f.ptnSealed i.ptn then f.progSigned i.ptn (bytesAt bs 0 len) (bytesAt bs len 1280) else none) = none →
        ∃ (h : Dev) (x : Prog), Sys2Proof.Machine.exec (.progLoad p) s = .next ⟨h.endItem i 0 0, s.pending⟩ ∧ tget? (h.px i.ptn).progs (numAt i.body 0 1) = some x ∧
          x.pva = numAt i.body 8 8 ∧ x.len = len ∧ x.clusters = g.clusters ∧ x.ports = g.ports ∧ x.lanesMin = g.lanesMin ∧ x.voids = 0 ∧
          h.mem = f.mem ∧ h.jobs = f.jobs ∧ (f.ptnSealed i.ptn = false → h.csr = f.csr)) ∧
      (∀ c x, g.ends ≤ len → f.progCheck i.ptn g (bytesAt bs 0 len) = some (c, x) →
        Sys2Proof.Machine.exec (.progLoad p) s = .next ⟨f.endItem i c x, s.pending⟩))) ∧
  (∀ (s : State) (p : Fin 25) (i : Item) (e : Dev), s.dev.dueItem p 0x0039 = some (i, e) →
    (tget? (e.px i.ptn).progs (numAt i.body 0 1) = none → Sys2Proof.Machine.exec (.progUnload p) s = .next ⟨e.endItem i cProgInvalid 0, s.pending⟩) ∧
    ((tget? (e.px i.ptn).progs (numAt i.body 0 1)).isSome = true → ((e.ptnBatches i.ptn).any fun b => b.2.prog = numAt i.body 0 1) = true →
      Sys2Proof.Machine.exec (.progUnload p) s = .next ⟨e.endItem i cProgBusy (numAt i.body 0 1), s.pending⟩) ∧
    ((tget? (e.px i.ptn).progs (numAt i.body 0 1)).isSome = true → ((e.ptnBatches i.ptn).any fun b => b.2.prog = numAt i.body 0 1) = false →
      ∃ h : Dev, Sys2Proof.Machine.exec (.progUnload p) s = .next ⟨h.endItem i 0 0, s.pending⟩ ∧ tget? (h.px i.ptn).progs (numAt i.body 0 1) = none ∧ h.mem = e.mem ∧ h.jobs = e.jobs)) ∧
  (∀ (s : State) (u : Fin 0x4000) (k : Fin 33),
    (∀ q j t0 : Nat, (s.dev.watched u k).find? (fun c => c.2.2 + 10000 ≤ s.dev.ao) = some (q, j, t0) →
      ∃ t, Sys2Proof.Machine.exec (.nonpreemptWatchdog u k) s = .next t ∧ t.pending = s.pending ∧
        (u.val < 800 ∨ 0x2000 ≤ u.val ∧ u.val < 0x2018 → s.dev.JobFaulted t.dev u q j 0x5002 ((s.dev.ao - t0 - 10000) % 65536))) ∧
    ((∀ c ∈ s.dev.watched u k, s.dev.ao < c.2.2 + 10000) → Sys2Proof.Machine.exec (.nonpreemptWatchdog u k) s = .next s))

/-- A message ends IDLE. One that fails the whole-message checks is answered with STATUS 2 and MSG_INVALID and changes nothing else; one that passes but names a partition that the device does not have is answered with MSG_ROLE; one of a partition in READY, SELFTEST or FAULTED with the partition's state code. A message of the operator or of an ACTIVE partition whose first item is of its role's joins an intake that holds none, under the next message number, with nothing performed; so does a message of a QUIESCED partition, which stays held: its release changes nothing until the partition is ACTIVE, and then brings the message to its first item. (R303, R304, R333, R309) -/
def Obligations.WorkMessagesArrive : Prop :=
  (∀ (bs : List Byte) (qp : Option (Fin 64 × Fin 4 × Fin 64)) (s : State) (d : Dev) (n : Nat) (via : Option (Nat × Nat × Nat)), s.dev.pwr.up = true → d = s.dev.endIdle → n = numAt bs 0x11 1 →
    via = qp.map (fun x => (x.1.val, x.2.1.val, x.2.2.val)) →
    (parseWork bs = none →
      Sys2Proof.Machine.exec (.workMessage bs qp) s = .next ⟨d.refuseWork n bs cMsgInvalid none, s.pending⟩) ∧
    (∀ items, parseWork bs = some items →
      (n ≠ 0xFF → (24 ≤ n ∨ d.ptnExists n = false) →
        Sys2Proof.Machine.exec (.workMessage bs qp) s = .next ⟨d.refuseWork n bs cMsgRole none, s.pending⟩) ∧
      (n < 24 → d.ptnExists n = true → d.ptnState n ∈ [stReady, stTest, stFaulted] →
        Sys2Proof.Machine.exec (.workMessage bs qp) s = .next ⟨d.refuseWork n bs cPtnState none, s.pending⟩) ∧
      (n < 24 → d.ptnExists n = true → d.ptnState n = stQuiesced →
        Sys2Proof.Machine.exec (.workMessage bs qp) s = .next ⟨{ d with
          nextId := d.nextId + 1
          work := d.work ++ [⟨d.nextId + 1, n, d.devnum, numAt bs 8 8, numAt bs 0x14 1, items, [], 0, false, via, none⟩] }, s.pending⟩) ∧
      ((n = 0xFF ∨ n < 24 ∧ d.ptnExists n = true ∧ d.ptnState n = stActive) → d.work = [] → d.awake = true → d.frit = false →
        (∀ x ∈ items.head?, knownKinds.contains x.1 = true ∧ (if n = 0xFF then 0x100 ≤ x.1 ∧ x.1 < 0x1C0 else x.1 < 0x100)) →
        Sys2Proof.Machine.exec (.workMessage bs qp) s = .next ⟨{ d with
          nextId := d.nextId + 1
          work := [⟨d.nextId + 1, n, d.devnum, numAt bs 8 8, numAt bs 0x14 1, items, [], 0, false, via, none⟩] }, s.pending⟩))) ∧
  (∀ (p : Fin 24) (s : State), s.dev.ptnState p ≠ stActive → Sys2Proof.Machine.exec (.heldMessageRelease p) s = .next s) ∧
  (∀ (p : Fin 24) (s : State) (m : WorkMsg), s.dev.awake = true → s.dev.ptnState p = stActive → s.dev.work = [m] → m.ptn = p → m.busy = false → m.next = 0 →
    m.items.length = 1 → (∀ x ∈ m.items, knownKinds.contains x.1 = true ∧ x.1 < 0x100) → s.dev.frit = false → m.outs = [] →
    Sys2Proof.Machine.exec (.heldMessageRelease p) s = .next s ∧ s.dev.dueMsg p = some m)

/-- For a due ENQ_CLUSTER, ENQ_MARVER or ENQ_DMA item with its unit, queue and count: when one of R303's reasons 1 to 5 holds, the item answers JOB_STATE with the first of them and no queue changes. Otherwise, for an ACTIVE unit whose queue holds no fault, no waiting commands and room for the count, the commands are appended to the queue in order, none waits, and the item answers 0; no memory and no job changes. The intake's append to a queue of a unit that is not ACTIVE changes nothing; of an ACTIVE unit it moves the waiting commands for which there is room, in order, behind the queue's commands. (R62, R127, R265, R302, R303) -/
def Obligations.EnqItemsFillTheQueues : Prop :=
  (∀ (s : State) (p : Fin 25) (i : Item) (e : Dev) (n q k : Nat) (cs : List Byte), s.dev.dueItem p 0x0001 = some (i, e) → p.val < 24 → n = numAt i.body 0 2 → q = numAt i.body 2 1 →
    k = numAt i.body 4 4 → cs = i.body.drop 8 →
    (e.enqReason i.ptn n (n < 800) q k cs.length ≠ 0 →
      Sys2Proof.Machine.exec (.enqCluster p) s = .next ⟨e.endItem i cJobState (e.enqReason i.ptn n (n < 800) q k cs.length), s.pending⟩) ∧
    (e.enqReason i.ptn n (n < 800) q k cs.length = 0 → k ≠ 0 → i.msg ≠ 0 → e.takesCmds n = true → e.qMark n q = 0 → e.qHeld n q = [] → (e.qCmds n q).length + k ≤ 256 →
      ∃ f : Dev, Sys2Proof.Machine.exec (.enqCluster p) s = .next ⟨f.endItem i 0 0, s.pending⟩ ∧
        f.qCmds n q = e.qCmds n q ++ (List.range k).map (fun j => leNat ((cs.drop (32 * j)).take 32)) ∧ f.qHeld n q = [] ∧ f.mem = e.mem ∧ f.csr = e.csr ∧ f.jobs = e.jobs)) ∧
  (∀ (s : State) (p : Fin 25) (i : Item) (e : Dev) (n q k : Nat) (cs : List Byte), s.dev.dueItem p 0x0002 = some (i, e) → p.val < 24 → n = numAt i.body 0 2 → q = numAt i.body 2 1 →
    k = numAt i.body 4 4 → cs = i.body.drop 8 →
    (e.enqReason i.ptn (0x2000 + n) (n < 24) q k cs.length ≠ 0 →
      Sys2Proof.Machine.exec (.enqMarver p) s = .next ⟨e.endItem i cJobState (e.enqReason i.ptn (0x2000 + n) (n < 24) q k cs.length), s.pending⟩) ∧
    (e.enqReason i.ptn (0x2000 + n) (n < 24) q k cs.length = 0 → k ≠ 0 → i.msg ≠ 0 → e.takesCmds (0x2000 + n) = true → e.qMark (0x2000 + n) q = 0 → e.qHeld (0x2000 + n) q = [] →
      (e.qCmds (0x2000 + n) q).length + k ≤ 128 →
      ∃ f : Dev, Sys2Proof.Machine.exec (.enqMarver p) s = .next ⟨f.endItem i 0 0, s.pending⟩ ∧
        f.qCmds (0x2000 + n) q = e.qCmds (0x2000 + n) q ++ (List.range k).map (fun j => leNat ((cs.drop (64 * j)).take 64)) ∧ f.qHeld (0x2000 + n) q = [] ∧
        f.mem = e.mem ∧ f.csr = e.csr ∧ f.jobs = e.jobs)) ∧
  (∀ (s : State) (p : Fin 25) (i : Item) (e : Dev) (n q k : Nat) (cs : List Byte), s.dev.dueItem p 0x0003 = some (i, e) → p.val < 24 → n = numAt i.body 0 2 → q = numAt i.body 2 1 →
    k = numAt i.body 4 4 → cs = i.body.drop 8 →
    (e.enqReason i.ptn (0x4000 + n) (n < 256) q k cs.length ≠ 0 →
      Sys2Proof.Machine.exec (.enqDma p) s = .next ⟨e.endItem i cJobState (e.enqReason i.ptn (0x4000 + n) (n < 256) q k cs.length), s.pending⟩) ∧
    (e.enqReason i.ptn (0x4000 + n) (n < 256) q k cs.length = 0 → k ≠ 0 → i.msg ≠ 0 → e.takesCmds (0x4000 + n) = true → e.qMark (0x4000 + n) q = 0 → e.qHeld (0x4000 + n) q = [] →
      (e.qCmds (0x4000 + n) q).length + k ≤ 64 →
      ∃ f : Dev, Sys2Proof.Machine.exec (.enqDma p) s = .next ⟨f.endItem i 0 0, s.pending⟩ ∧
        f.qCmds (0x4000 + n) q = e.qCmds (0x4000 + n) q ++ (List.range k).map (fun j => leNat ((cs.drop (128 * j)).take 128)) ∧ f.qHeld (0x4000 + n) q = [] ∧
        f.mem = e.mem ∧ f.csr = e.csr ∧ f.jobs = e.jobs)) ∧
  (∀ (s : State) (u : Fin 0x4100) (q : Fin 8),
    (s.dev.takesCmds u = false → Sys2Proof.Machine.exec (.intakeHeldAppend u q) s = .next s) ∧
    ((u.val < 800 ∨ 0x2000 ≤ u.val ∧ u.val < 0x2018 ∨ 0x4000 ≤ u.val) → q < uQueues u → s.dev.takesCmds u = true → s.dev.qMark u q ≠ 5 → s.dev.qMark u q ≠ 6 → (∀ h ∈ s.dev.qHeld u q, h.cmd.length = cmdBytes u) →
      ∀ room : Nat, room = qCap u - (s.dev.qCmds u q).length →
      ∃ f : Dev, Sys2Proof.Machine.exec (.intakeHeldAppend u q) s = .next ⟨f, s.pending⟩ ∧
        f.qCmds u q = s.dev.qCmds u q ++ ((s.dev.qHeld u q).take room).map (fun h => leNat h.cmd) ∧ f.qHeld u q = (s.dev.qHeld u q).drop room ∧
        f.mem = s.dev.mem ∧ f.jobs = s.dev.jobs ∧ ((∀ h ∈ s.dev.qHeld u q, h.msg = 0) → f.csr = s.dev.csr)))

/-- A due CSR item outside frit makes one 4-byte read or write in its message's role: of an access that is performed the item answers 0 with the value read, or with zero for a write; a refused one answers XLATE_PERM. In frit mode a page outside the list answers the frit code. With a serving window open the slice's end changes nothing. With none, and no slice under way, the first group in rotation that takes slices gets a slice of its full length, and its jobs that owe nothing become eligible. A unit with no transfer under way joins the units that treat its bound jobs as eligible exactly for the eligible ones; no other job, no other field and no memory changes. (R26, R36, R220, R231, R303, R408) -/
def Obligations.CsrItemsAndScheduling : Prop :=
  (∀ (s : State) (p : Fin 25) (i : Item) (e f : Dev), s.dev.dueItem p 0x0004 = some (i, e) → numAt i.body 0 4 < 2 ^ 26 →
    (e.frit = true → fritCsr (numAt i.body 0 4) (bitsAt i.body 32 32 = 1) = false →
      Sys2Proof.Machine.exec (.csr p) s = .next ⟨e.endItem i 0x9008 4, s.pending⟩) ∧
    (e.frit = false → bitsAt i.body 32 32 = 0 → f = e.readAccess (itemRole i.ptn) (numAt i.body 0 4) 4 → f.respRefused = false →
      Sys2Proof.Machine.exec (.csr p) s = .next ⟨f.endItem i 0 f.resp.toNat, s.pending⟩) ∧
    (e.frit = false → bitsAt i.body 32 32 = 1 → f = e.writeAccess (itemRole i.ptn) (numAt i.body 0 4) 4 (BitVec.ofNat 64 (numAt i.body 8 4)) → f.respRefused = false →
      Sys2Proof.Machine.exec (.csr p) s = .next ⟨f.endItem i 0 0, s.pending⟩) ∧
    (e.frit = false → bitsAt i.body 32 32 = 0 → f = e.readAccess (itemRole i.ptn) (numAt i.body 0 4) 4 → f.respRefused = true →
      ∃ info g, Sys2Proof.Machine.exec (.csr p) s = .next ⟨(g : Dev).endItem i 0x4002 info, s.pending⟩ ∧ g.csr = f.csr ∧ g.mem = f.mem)) ∧
  (∀ (s : State) (p : Fin 24),
    (s.dev.windowOpen p = true → Sys2Proof.Machine.exec (.sliceEnd p) s = .next s) ∧
    (∀ g, s.dev.windowOpen p = false → (s.dev.px p).sliceAt = none → (s.dev.px p).sliceLeft = 0 → s.dev.nextGroup p (s.dev.sliceGroup p) = some g →
      ∃ f : Dev, Sys2Proof.Machine.exec (.sliceEnd p) s = .next ⟨f, s.pending⟩ ∧ f.sliceGroup p = g ∧ (f.px p).sliceAt = some s.dev.ao ∧
        (f.px p).sliceLeft = s.dev.sliceLen p g ∧ f.mem = s.dev.mem ∧
        (∀ j ∈ s.dev.groupJobs p g, (s.dev.job j).cls = 2 → (s.dev.job j).state = 0 → (s.dev.job j).debt = 0 → (f.job j).state = 1) ∧
        (∀ j, j ∉ s.dev.groupJobs p g → f.job j = s.dev.job j))) ∧
  (∀ (s : State) (u : Fin 0x4100),
    (0x2000 ≤ u.val → u.val < 0x4000 → ∀ e : Fin 4, tget? (s.dev.stk (u - 0x2000)).copiers e = none) →
    (0x4000 ≤ u.val → ∀ q : Fin 2, tget? (s.dev.dma (u - 0x4000)).xfers q = none) →
    ∃ t, Sys2Proof.Machine.exec (.eligibilityApply u) s = .next t ∧ t.pending = s.pending ∧ t.dev.mem = s.dev.mem ∧ t.dev.csr = s.dev.csr ∧
      (∀ q j, q < uQueues u → s.dev.qBound u q = true → j = s.dev.qJob u q → (s.dev.job j).cls ≠ 3 →
        ((t.dev.job j).applied.contains u.val = true ↔ (s.dev.job j).state = 1) ∧ t.dev.job j = { s.dev.job j with applied := (t.dev.job j).applied }) ∧
      (∀ j, (∀ q, q < uQueues u → s.dev.qBound u q = true → s.dev.qJob u q ≠ j) → t.dev.job j = s.dev.job j))

/-- For a due REQ_ADMIT outside a lehr stop, naming an entry k of the partition. An entry that is not FREE is refused with REQ_STATE, a bad field with REQ_INVALID and its lowest bit; PTN_REFUSED counts each. With good fields, a readable, unmarked prompt whose tokens are below VOCAB, regions that meet no live request's and an adapter that has a current version or none, the entry becomes ADMITTED with the image's fields, GEN + 1, ADMIT_AO and LAST_EMIT_AO at the present ao-cycle, the item answers 0, and no other entry and no memory changes. For a due REQ_RELEASE: an entry that is not live or has another GEN is refused with REQ_STATE; of a member of an open batch the release waits for the commit, without a change to the entry; any other live request ends at once in DONE with cause RELEASED and its final record. (R193, R196, R197) -/
def Obligations.RequestItems : Prop :=
  (∀ (s : State) (p : Fin 25) (i : Item) (e : Dev) (k v : Nat), s.dev.dueItem p 0x0040 = some (i, e) → e.lehr = 0 → k = numAt i.body 0x100 2 → v = numAt i.body 0 256 →
    (rqState (e.rq k) ≠ rsFree → Sys2Proof.Machine.exec (.reqAdmit p) s =
      .next ⟨(e.addCount (pPtn i.ptn) 0x364 1).endItem i cReqState (k % 4096 + rqState (e.rq k) * 4096), s.pending⟩) ∧
    (∀ b, (e.ptnReqs i.ptn).contains k = true → rqState (e.rq k) = rsFree → firstBad (admitFields v) = some b →
      Sys2Proof.Machine.exec (.reqAdmit p) s = .next ⟨(e.addCount (pPtn i.ptn) 0x364 1).endItem i cReqInvalid b, s.pending⟩) ∧
    (∀ (f : Dev) (bs : List Byte), (e.ptnReqs i.ptn).contains k = true → rqState (e.rq k) = rsFree → firstBad (admitFields v) = none →
      e.intakeRead i.ptn (rqPromptPva v) (4 * rqPrompt v) = (f, .ok (bs, false)) → (∀ j < rqPrompt v, numAt bs (4 * j) 4 < rqVocab v) →
      (∀ o ∈ f.liveReqs i.ptn, ∀ a ∈ rqRegions v, ∀ b ∈ rqRegions (f.rq o), meets a b = false) → (rqAdpEn v = true → (f.adpCurrent i.ptn (rqAdpSlot v)).isSome = true) →
      ∃ g : Dev, Sys2Proof.Machine.exec (.reqAdmit p) s = .next ⟨g.endItem i 0 0, s.pending⟩ ∧ rqState (g.rq k) = rsAdmitted ∧ rqGen (g.rq k) = (rqGen (f.rq k) + 1) % 65536 ∧
        rqAdmitAo (g.rq k) = f.ao % 2 ^ 64 ∧ rqLastEmit (g.rq k) = f.ao % 2 ^ 64 ∧ rqLength (g.rq k) = 0 ∧ rqPrompt (g.rq k) = rqPrompt v ∧ rqMaxlen (g.rq k) = rqMaxlen v ∧
        rqRegion (g.rq k) = rqRegion v ∧ rqHandle (g.rq k) = rqHandle v ∧ (∀ a, rqAdpEn v = true → f.adpCurrent i.ptn (rqAdpSlot v) = some a → rqAdpVer (g.rq k) = a.ver % 65536) ∧
        (∀ k', k' ≠ k → g.rq k' = f.rq k') ∧ g.mem = f.mem ∧ (rqPenTable v = 0 → g.rx k = {} ∧ g.csr = f.csr) ∧ (rqPenTable v ≠ 0 → (g.rx k).fill.isSome = true))) ∧
  (∀ (s : State) (p : Fin 25) (i : Item) (e : Dev) (k : Nat), s.dev.dueItem p 0x0041 = some (i, e) → k = numAt i.body 0 2 →
    ((rqLive (e.rq k) = false ∨ rqGen (e.rq k) ≠ numAt i.body 2 2) →
      Sys2Proof.Machine.exec (.reqRelease p) s = .next ⟨e.endItem i cReqState (k % 4096 + rqState (e.rq k) * 4096), s.pending⟩) ∧
    ((e.ptnReqs i.ptn).contains k = true → rqLive (e.rq k) = true → rqGen (e.rq k) = numAt i.body 2 2 → rqInBatch (e.rq k) = true →
      ∃ g : Dev, Sys2Proof.Machine.exec (.reqRelease p) s = .next ⟨g.endItem i 0 0, s.pending⟩ ∧ (g.rx k).release = true ∧ g.reqTab = e.reqTab ∧ g.mem = e.mem ∧ g.csr = e.csr) ∧
    ((e.ptnReqs i.ptn).contains k = true → rqLive (e.rq k) = true → rqGen (e.rq k) = numAt i.body 2 2 → rqInBatch (e.rq k) = false →
      ∃ g h : Dev, Sys2Proof.Machine.exec (.reqRelease p) s = .next ⟨h.endItem i 0 0, s.pending⟩ ∧ h = (g.recordNow i.ptn { idx := k, code := 0 }).freeEnded i.ptn ∧
        rqState (g.rq k) = rsDone ∧ fld (g.rq k) 15 12 = rcReleased ∧ (∀ k', k' ≠ k → g.rq k' = e.rq k')))

/-- For a due BATCH_OPEN whose pinned domains are ON, whose program's header is read and whose body passes R198's checks: when R228's proof holds of the batch's worst case the batch opens with that worst case and the present ao-cycle, its members get IN_BATCH and BATCH, and the item answers 0; when a condition of the proof fails the item answers ADMIT_OVERLOAD with the condition, the position and the excess, and no batch opens. A body that needs a domain that is not ON waits, and BATCH_OPEN_PROVE opens it in the same way once the domains are ON. BATCH_CLOSE of a batch of the partition with no step in flight closes it at once; with its step in flight it closes at the commit; of a batch that is not open it answers BATCH_INVALID. (R198, R199, R226, R228, R431) -/
def Obligations.BatchItems : Prop :=
  (∀ (s : State) (p : Fin 25) (i : Item) (e : Dev), s.dev.dueItem p 0x0042 = some (i, e) →
    (∀ (f : Dev) (idx : List Nat) (g : Image), e.OpenReads i.ptn i.body g f → f.OpenChecked i.ptn i.body idx →
      (∀ k ∈ e.batchDomains i.ptn (tget? (e.px i.ptn).progs (numAt i.body 8 4)), e.dom k = dsOn) →
      (f.openProof i.ptn idx (numAt i.body 0x0C 4) (f.openWorst i.ptn i.body idx g) = none →
        ∃ h : Dev, Sys2Proof.Machine.exec (.batchOpen p) s = .next ⟨h.endItem i 0 0, s.pending⟩ ∧ h.BatchStands f i.ptn i.body idx g) ∧
      (∀ c m x, f.openProof i.ptn idx (numAt i.body 0x0C 4) (f.openWorst i.ptn i.body idx g) = some (c, m, x) →
        Sys2Proof.Machine.exec (.batchOpen p) s =
          .next ⟨(f.addCount (pPtn i.ptn) 0x364 1).endItem i 0xA003 (c + m % 256 * 4 + min x (2 ^ 22 - 1) * 1024), s.pending⟩)) ∧
    (e.lehr = 0 → (∃ k ∈ e.batchDomains i.ptn (tget? (e.px i.ptn).progs (numAt i.body 8 4)), e.dom k ≠ dsOn) →
      ∃ t, Sys2Proof.Machine.exec (.batchOpen p) s = .next t ∧ t.pending = s.pending ∧ t.dev.openWaits = e.openWaits ++ [⟨i.msg, i.item, i.ptn, i.body⟩] ∧
        t.dev.batches = e.batches ∧ t.dev.reqTab = e.reqTab ∧ t.dev.mem = e.mem)) ∧
  (∀ (s : State) (p : Fin 24) (w : OpenWait) (d f : Dev) (idx : List Nat) (g : Image), (s.dev.openWaits.find? fun x => x.ptn = p.val) = some w →
    d = { s.dev with openWaits := s.dev.openWaits.filter fun x => x ≠ w } → d.OpenReads p w.body g f → f.OpenChecked p w.body idx →
    (∀ k ∈ d.batchDomains p (tget? (d.px p).progs (numAt w.body 8 4)), d.dom k = dsOn) → f.openProof p idx (numAt w.body 0x0C 4) (f.openWorst p w.body idx g) = none →
    ∃ h : Dev, Sys2Proof.Machine.exec (.batchOpenProve p) s = .next ⟨h.endItem ⟨w.msg, w.item, p, w.body, none⟩ 0 0, s.pending⟩ ∧ h.BatchStands f p w.body idx g) ∧
  (∀ (s : State) (p : Fin 25) (i : Item) (e : Dev) (n : Nat), s.dev.dueItem p 0x0043 = some (i, e) → n = numAt i.body 0 2 →
    (tget? e.batches n = none → Sys2Proof.Machine.exec (.batchClose p) s = .next ⟨e.endItem i cBatchInvalid 1, s.pending⟩) ∧
    (∀ b, tget? e.batches n = some b → b.ptn = i.ptn → (e.px i.ptn).step = none → b.mems = [] →
      ∃ f : Dev, Sys2Proof.Machine.exec (.batchClose p) s = .next ⟨f.endItem i 0 0, s.pending⟩ ∧ tget? f.batches n = none ∧ f.reqTab = e.reqTab ∧ f.mem = e.mem) ∧
    (∀ b, tget? e.batches n = some b → b.ptn = i.ptn → (∀ t, (e.px i.ptn).step = some t → t.batch ≠ n) →
      ∃ f : Dev, Sys2Proof.Machine.exec (.batchClose p) s = .next ⟨f.endItem i 0 0, s.pending⟩ ∧ tget? f.batches n = none ∧ (∀ m ∈ b.mems, rqInBatch (f.rq m.2) = false)) ∧
    (∀ b t, tget? e.batches n = some b → b.ptn = i.ptn → (e.px i.ptn).step = some t → t.batch = n →
      Sys2Proof.Machine.exec (.batchClose p) s = .next ⟨({ e with batches := tput e.batches n { b with closing := true } } : Dev).endItem i 0 0, s.pending⟩))

/-- With the partition's stacks ON, its serving job not faulted and no lehr stop. STEP_RELEASE with no batch due changes nothing; with a batch due before every other, whose members await no fill and whose image is read, the window opens and the step stands in stage 1 with the batch's step number and the present ao-cycle. STAGE2_START of a step in stage 1 whose copies have completed leaves it in stage 2; SAMPLING_START of a step in stage 2 whose commands have completed and whose members are all drawn leaves it in stage 3; COMMIT_PUBLISH of a step in stage 3 whose commands have completed and whose writes have left leaves no step in flight and the window closed. PAGE_RETURN returns the pages whose entries are invalidated and whose step is over, no others, and counts them. (R171, R183, R195, R200, R223, R224, R228) -/
def Obligations.StepsRunTheirStages : Prop :=
  (∀ (s : State) (p : Fin 24), s.dev.lehr = 0 → s.dev.ptnState p = stActive → s.dev.stacksOn p = true → (s.dev.job (s.dev.px p).job).faulted = false → (s.dev.px p).step = none →
    ((∀ b ∈ s.dev.ptnBatches p, s.dev.ao < b.2.opened + b.2.k * b.2.period) → Sys2Proof.Machine.exec (.stepRelease p) s = .next s) ∧
    (∀ (n : Nat) (b : Batch) (g : Prog) (d e f : Dev) (im : Image) (ms : List Member) (cs : List Nat) (t : StepRun), (n, b) ∈ s.dev.ptnBatches p → b.ptn = p → b.opened + b.k * b.period ≤ s.dev.ao →
      (∀ x ∈ s.dev.ptnBatches p, x.2.opened + x.2.k * x.2.period ≤ s.dev.ao → x ≠ (n, b) → max (b.opened + b.k * b.period) b.ready < max (x.2.opened + x.2.k * x.2.period) x.2.ready) →
      t = { id := (s.dev.px p).nextStep, batch := n, k := b.k, stage := 0, at_ := s.dev.ao, mems := [], voids := s.dev.voidsAtStart p b } →
      d = (s.dev.openWindow p).modPx p (fun x => { x with nextStep := x.nextStep + 1, step := some t }) →
      d.batchProg b = some g → (∀ m ∈ b.mems, (d.rx m.2).fill = none) → d.image p g = (e, .ok im) → e.stage1 b im = (f, ms, cs) →
      ∃ u v : _, Sys2Proof.Machine.exec (.stepRelease p) s = .next u ∧ u.pending = s.pending ∧ d.windowOpen p = true ∧ (u.dev.px p).step = some v ∧
        v.stage = 1 ∧ v.batch = n ∧ v.k = b.k ∧ v.at_ = s.dev.ao ∧ v.id = (s.dev.px p).nextStep ∧ v.mems = ms ∧ v.copies = cs ∧ u.dev.mem = f.mem ∧ u.dev.csr = f.csr)) ∧
  (∀ (s : State) (p : Fin 24) (t : StepRun) (b : Batch) (g : Prog), (s.dev.px p).step = some t → tget? s.dev.batches t.batch = some b → b.ptn = p → s.dev.batchProg b = some g →
    s.dev.stacksOn p = true →
    (t.stage = 1 → (s.dev.job (s.dev.px p).job).faulted = false → s.dev.engBusy t.copies = false →
      ∃ f : Dev, ∃ u : StepRun, Sys2Proof.Machine.exec (.stage2Start p) s = .next ⟨f, s.pending⟩ ∧ (f.px p).step = some u ∧ u.stage = 2 ∧ u.batch = t.batch ∧ u.k = t.k ∧ u.id = t.id) ∧
    (t.stage = 2 → s.dev.servingQuiet p = true → (∀ x ∈ t.mems.flatMap (s.dev.sampleRanges b), s.dev.pvaWait p x.1 x.2 = none) →
      ∀ f ms, Dev.sampleAll b t.mems s.dev = (f, some ms) →
      ∃ (h : Dev) (u : StepRun), Sys2Proof.Machine.exec (.samplingStart p) s = .next ⟨h, s.pending⟩ ∧ (h.px p).step = some u ∧ u.stage = 3 ∧ u.batch = t.batch ∧ u.k = t.k ∧
        u.mems.map Member.req = ms.map Member.req ∧ ((∀ m ∈ ms, m.fail.isSome = true ∨ m.path = []) → u.mems = ms)) ∧
    (t.stage = 3 → s.dev.servingQuiet p = true → s.dev.stepSent p = true →
      ∃ f : Dev, Sys2Proof.Machine.exec (.commitPublish p) s = .next ⟨f, s.pending⟩ ∧ (f.px p).step = none ∧ f.windowOpen p = false)) ∧
  (∀ (s : State) (p : Fin 24) (back : PageRet → Bool), (∀ r, back r = (!(s.dev.invals.any fun v => v.id = r.inval) && (r.step = 0 || s.dev.stepId p ≠ r.step))) →
    ∃ t, Sys2Proof.Machine.exec (.pageReturn p) s = .next t ∧ t.pending = s.pending ∧ (t.dev.px p).rets = (s.dev.px p).rets.filter (fun r => !back r) ∧ t.dev.mem = s.dev.mem ∧
      (s.dev.scrubbed (pKvp p) = false → t.dev.reg (pKvp p) 0x6C = s.dev.reg (pKvp p) 0x6C + BitVec.ofNat 32 ((s.dev.px p).rets.filter back).length) ∧
      (∀ r, (s.dev.px p).rets = [r] → back r = true → s.dev.holders p r.page = 0 → s.dev.ptnReqs p = [] → (s.dev.px p).adps = [] →
        tget? (t.dev.px p).pool r.page = none ∧ ∀ k, k ≠ r.page → tget? (t.dev.px p).pool k = tget? (s.dev.px p).pool k))

/-- For a due ADAPTER_INSTALL of a slot without an install in progress whose source is good: with room the version is placed and the item answers 0; without room the install waits and the item answers ADAPTER_BUSY; an install in progress, or a bad source, answers ADAPTER_INVALID with its reason. At the install point the version becomes the slot's current one, with the next version number; while copies run nothing changes. ADAPTER_REMOVE leaves the slot without a current version and without a waiting install. PUNTY_PUBLISH of a live request of the partition that the handle's mode admits registers the publish and the intake goes on without an outcome. PUNTY_RELEASE of a valid handle drops it and frees its entry with GEN + 1; PUNTY_PIN changes its PIN; a handle that is not valid answers HANDLE_INVALID. (R186, R187, R189, R212, R213, R214) -/
def Obligations.AdaptersAndHandles : Prop :=
  (∀ (s : State) (p : Fin 25) (i : Item) (e : Dev) (k src n : Nat), s.dev.dueItem p 0x0048 = some (i, e) → k = numAt i.body 0 1 → src = numAt i.body 8 8 → n = numAt i.body 0x10 4 →
    ((e.px i.ptn).adps.any (fun v => v.slot = k && v.installing) = true →
      Sys2Proof.Machine.exec (.adapterInstall p) s = .next ⟨e.endItem i cAdapterInvalid (k + 512), s.pending⟩) ∧
    ((e.px i.ptn).adpWaits.any (fun w => w.slot = k) = false → (e.px i.ptn).adps.any (fun v => v.slot = k && v.installing) = false →
      ((src % 4096 ≠ 0 ∨ n = 0 ∨ e.adpUnits i.ptn * 65536 < n) → Sys2Proof.Machine.exec (.adapterInstall p) s = .next ⟨e.endItem i cAdapterInvalid (k + 768), s.pending⟩) ∧
      (src % 4096 = 0 → n ≠ 0 → n ≤ e.adpUnits i.ptn * 65536 → src < 2 ^ 48 → (e.stackRuns i.ptn src n).isSome = true →
        (∀ f, e.adpPlace i.ptn k src n = some f → Sys2Proof.Machine.exec (.adapterInstall p) s = .next ⟨f.endItem i 0 0, s.pending⟩) ∧
        (e.adpPlace i.ptn k src n = none → ∃ f : Dev, Sys2Proof.Machine.exec (.adapterInstall p) s = .next ⟨f.endItem i cAdapterBusy k, s.pending⟩ ∧
          (f.px i.ptn).adpWaits = (e.px i.ptn).adpWaits ++ [⟨k, src, n⟩] ∧ (f.px i.ptn).adps = (e.px i.ptn).adps)))) ∧
  (∀ (s : State) (p : Fin 24) (k : Fin 256) (v : AdpVer), ((s.dev.px p).adps.find? fun x => x.slot = k.val && x.installing) = some v →
    (s.dev.engBusy v.copies = true → Sys2Proof.Machine.exec (.adapterInstallPoint p k) s = .next s) ∧
    (s.dev.engBusy v.copies = false → ∃ f : Dev, Sys2Proof.Machine.exec (.adapterInstallPoint p k) s = .next ⟨f, s.pending⟩ ∧
      f.adpCurrent p k = some { v with ver := if 65535 ≤ tgetD (s.dev.px p).adpVers k 0 then 1 else tgetD (s.dev.px p).adpVers k 0 + 1, current := true, installing := false, copies := [] } ∧ f.mem = s.dev.mem)) ∧
  (∀ (s : State) (p : Fin 25) (i : Item) (e : Dev), s.dev.dueItem p 0x0049 = some (i, e) →
    ∃ f : Dev, Sys2Proof.Machine.exec (.adapterRemove p) s = .next ⟨(f.adpSweep i.ptn).endItem i 0 0, s.pending⟩ ∧ f.adpCurrent i.ptn (numAt i.body 0 1) = none ∧
      (∀ k, k ≠ numAt i.body 0 1 → f.adpCurrent i.ptn k = e.adpCurrent i.ptn k) ∧ (f.px i.ptn).adpWaits.any (fun w => w.slot = numAt i.body 0 1) = false) ∧
  (∀ (s : State) (p : Fin 25) (i : Item) (e : Dev) (k n : Nat), s.dev.dueItem p 0x0050 = some (i, e) → k = numAt i.body 0 2 → n = numAt i.body 4 3 →
    ((rqLive (e.rq k) = false ∨ rqMaxlen (e.rq k) < n) → Sys2Proof.Machine.exec (.puntyPublish p) s = .next ⟨e.endItem i cPrefixUnreached 0, s.pending⟩) ∧
    ((e.ptnReqs i.ptn).contains k = true → rqLive (e.rq k) = true → n ≤ rqMaxlen (e.rq k) → (e.cow i.ptn = true ∨ rqT (e.rq k) ≤ n) →
      ∃ f : Dev, Sys2Proof.Machine.exec (.puntyPublish p) s = .next ⟨f.itemGoesOn i.msg, s.pending⟩ ∧
        (f.px i.ptn).pubs = (e.px i.ptn).pubs ++ [⟨k, rqGen (e.rq k), n, i.msg, i.item⟩] ∧ f.reqTab = e.reqTab ∧ f.mem = e.mem)) ∧
  (∀ (s : State) (p : Fin 25) (i : Item) (e : Dev) (v : Nat), s.dev.dueItem p 0x0051 = some (i, e) → v = numAt i.body 0 8 →
    (e.handleOk i.ptn v = false → Sys2Proof.Machine.exec (.puntyRelease p) s = .next ⟨e.endItem i cHandleInvalid 0, s.pending⟩) ∧
    (e.handleOk i.ptn v = true → Sys2Proof.Machine.exec (.puntyRelease p) s =
      .next ⟨((e.dropHandle i.ptn (hdIndex v)).setHrec i.ptn (hdIndex v) ((hdGen v + 1) % 65536 * 2 ^ 16)).endItem i 0 0, s.pending⟩)) ∧
  (∀ (s : State) (p : Fin 25) (i : Item) (e : Dev) (v : Nat), s.dev.dueItem p 0x0052 = some (i, e) → v = numAt i.body 0 8 →
    (e.handleOk i.ptn v = false → Sys2Proof.Machine.exec (.puntyPin p) s = .next ⟨e.endItem i cHandleInvalid 0, s.pending⟩) ∧
    (e.handleOk i.ptn v = true → Sys2Proof.Machine.exec (.puntyPin p) s =
      .next ⟨(e.setHrec i.ptn (hdIndex v) (setFld (e.hrec i.ptn (hdIndex v)) 2 2 (numAt i.body 8 1))).endItem i 0 0, s.pending⟩))

/-- LANE_RECAL of one lane in service of an ACTIVE port, while none is BUSY, takes the lane out and the port trains. A training that ends with good lanes leaves ACTIVE naming them, RATE their number (three on a SWITCHED port run as two), and the port ACTIVE (READY without ENABLE); outside training it changes nothing. A training that has lasted 50 ms on a port without open paths is marked over, an earlier timeout changes nothing. A good error-rate window clears a lane's count, a bad one adds to it, the third in a row clears the lane's INSERVICE bit. Loss of signal leaves an ACTIVE or READY port without open paths DOWN, or training when it retrains; signal on a DOWN port with lanes in service starts a training. The end of a recalibration clears BUSY, sets DONE and counts a failure or clears the count; one that trained leaves the port training. (R281, R282, R283, R374) -/
def Obligations.PortsTrainAndLanesRetire : Prop :=
  (∀ (s : State) (r : Role) (n : Fin 16) (l : Fin 4), s.dev.Takes r (pLink n) → s.dev.bit (pLink n) 0x50 4 = false → bitOf (s.dev.lanesIn n) l = true → s.dev.st (pLink n) = stActive →
    ∃ t, Sys2Proof.Machine.exec (.laneRecal r n (BitVec.ofNat 32 (2 ^ l.val))) s = .next t ∧ t.pending = s.pending ∧ t.dev.bit (pLink n) 0x50 4 = true ∧
      t.dev.bit (pLink n) 0x50 l = true ∧ (t.dev.port n).recal = some l.val ∧ t.dev.Trains n ∧ t.dev.mem = s.dev.mem) ∧
  (∀ (s : State) (n : Fin 16) (peer failed : BitVec 4),
    (s.dev.st (pLink n) ≠ lsTraining → Sys2Proof.Machine.exec (.trainingEnd n peer failed) s = .next s) ∧
    (∀ (sw : Bool) (cand : List Nat) (m act rate : Nat), s.dev.st (pLink n) = lsTraining → sw = s.dev.bit (pLink n) 0x40 0 → (sw = true → (s.dev.port n).recal = none) →
      cand = ((maskBits 4 (s.dev.lanesIn n)).filter fun l => (sw || bitOf peer.toNat l) && decide ((s.dev.port n).recal ≠ some l)) →
      m = maskOf (((if s.dev.frit then cand.take 1 else cand)).filter fun l => !bitOf failed.toNat l) → m ≠ 0 →
      (sw = false ∨ laneCount m ≠ 3 → act = m ∧ rate = laneCount m) → (sw = true → laneCount m = 3 → act = maskOf ((maskBits 4 m).take 2) ∧ rate = 2) →
      ∃ f : Dev, Sys2Proof.Machine.exec (.trainingEnd n peer failed) s = .next ⟨f, s.pending⟩ ∧ f.st (pLink n) = (if s.dev.enabled (pLink n) then stActive else stReady) ∧
        f.getF (pLink n) 0x4C 7 4 = act ∧ f.getF (pLink n) 0x4C 10 8 = rate ∧ f.bit (pLink n) 0x08 2 = false ∧ (f.port n).trainAt = none ∧ f.mem = s.dev.mem)) ∧
  (∀ (s : State) (n : Fin 16) (t : Nat), (s.dev.port n).trainAt = some t →
    (s.dev.ao < t + 2500000 → Sys2Proof.Machine.exec (.retrainTimeout n) s = .next s) ∧
    (s.dev.st (pLink n) = lsTraining → (s.dev.port n).trainOver = false → t + 2500000 ≤ s.dev.ao → (∀ q < 64, s.dev.pathOpen (pathKey n q) = false) →
      Sys2Proof.Machine.exec (.retrainTimeout n) s = .next ⟨s.dev.modPort n fun y => { y with trainOver := true }, s.pending⟩)) ∧
  (∀ (s : State) (n : Fin 16) (l : Fin 4), bitOf (s.dev.lanesIn n) l = true →
    Sys2Proof.Machine.exec (.laneBerWindow n l false) s = .next ⟨s.dev.modPort n fun x => { x with bad := setLane x.bad l 0 }, s.pending⟩ ∧
    (((s.dev.port n).bad[l.val]?).getD 0 < 2 →
      Sys2Proof.Machine.exec (.laneBerWindow n l true) s = .next ⟨s.dev.modPort n fun x => { x with bad := setLane x.bad l ((x.bad[l.val]?).getD 0 + 1) }, s.pending⟩) ∧
    (2 ≤ ((s.dev.port n).bad[l.val]?).getD 0 → s.dev.st (pLink n) = stActive → s.dev.lanesIn n ≠ 2 ^ l.val →
      ∃ f : Dev, Sys2Proof.Machine.exec (.laneBerWindow n l true) s = .next ⟨f, s.pending⟩ ∧ bitOf (f.lanesIn n) l = false ∧
        (∀ k : Fin 4, k ≠ l → bitOf (f.lanesIn n) k = bitOf (s.dev.lanesIn n) k) ∧ f.Trains n ∧ f.mem = s.dev.mem)) ∧
  (∀ (s : State) (n : Fin 16), s.dev.pageOn (pLink n) = true →
    (s.dev.st (pLink n) = stActive ∨ s.dev.st (pLink n) = stReady →
      ∃ f : Dev, Sys2Proof.Machine.exec (.linkSignalLoss n true) s = .next ⟨f, s.pending⟩ ∧ f.Trains n ∧ f.mem = s.dev.mem ∧ f.paths = s.dev.paths) ∧
    (s.dev.st (pLink n) = stActive ∨ s.dev.st (pLink n) = stReady → (∀ q < 64, s.dev.pathOpen (pathKey n q) = false) →
      ∃ f : Dev, Sys2Proof.Machine.exec (.linkSignalLoss n false) s = .next ⟨f, s.pending⟩ ∧ f.st (pLink n) = lsDown ∧ f.getF (pLink n) 0x4C 10 4 = 0 ∧ f.mem = s.dev.mem) ∧
    (s.dev.st (pLink n) = lsDown → s.dev.lanesIn n ≠ 0 →
      ∃ f : Dev, Sys2Proof.Machine.exec (.linkSignalDetect n) s = .next ⟨f, s.pending⟩ ∧ f.Trains n ∧ f.mem = s.dev.mem ∧ f.paths = s.dev.paths)) ∧
  (∀ (s : State) (n : Fin 16) (ok : Bool) (l : Fin 4), (s.dev.port n).recal = some l.val →
    ∃ f : Dev, Sys2Proof.Machine.exec (.laneRecalEnd n ok) s = .next ⟨f, s.pending⟩ ∧ f.getF (pLink n) 0x50 4 0 = 0 ∧ f.bit (pLink n) 0x50 5 = true ∧
      (f.port n).recal = none ∧ f.mem = s.dev.mem ∧
      ((f.port n).fails[l.val]?).getD 0 = (if ok then 0 else ((s.dev.port n).fails[l.val]?).getD 0 + 1) ∧
      (ok = true → s.dev.pageOn (pLink n) = true → s.dev.lanesIn n ≠ 0 → f.st (pLink n) = lsTraining ∧ (s.dev.st (pLink n) ≠ lsTraining → f.Trains n)))

/-- FRAME_TRANSMIT of the first frame that waits for a port that sends, on an open path with room in the 2 MiB buffer: it takes the path's transmit sequence, carries the expected number and DONE_SEQ, goes on the wire and is held; the path's sequence advances and no memory changes. Without a waiting frame nothing changes. ACK_SEND with 8 accepted frames unacknowledged sends an ACK and clears their count; with none and no new DONE_SEQ it changes nothing. REPLAY_TIMEOUT of an open path whose oldest unacknowledged frame was sent TIMEOUT ao-cycles ago, below LIMIT resends, sends all of them again; before that nothing changes. ROUTE_SWITCH with a route set and nothing outstanding to the peer applies it and lets the held operations to the peer go. (R286, R287, R290) -/
def Obligations.FramesLeave : Prop :=
  (∀ (s : State) (n : Fin 16),
    ((s.dev.port n).waiting = [] → Sys2Proof.Machine.exec (.frameTransmit n) s = .next s) ∧
    (∀ w rest k, (s.dev.port n).waiting = w :: rest → k = pathKey n w.peer → w.peer < 64 → s.dev.portSends n = true → s.dev.pathOpen k = true →
      s.dev.replayBytes n + 64 + w.frame.data.length ≤ 2097152 →
      ∃ f : Dev, ∃ fr : Frame, Sys2Proof.Machine.exec (.frameTransmit n) s = .next ⟨f, s.pending⟩ ∧ (f.port n).waiting = rest ∧ fr.data = w.frame.data ∧
        fr.num = setFld (setFld (setFld w.frame.num 63 32 (s.dev.path k).tx) 95 64 (s.dev.path k).expect) 127 96 (s.dev.doneOf k) ∧
        (f.path k).tx = ((s.dev.path k).tx + 1) % 2 ^ 32 ∧ (∃ r, (f.path k).replay = (s.dev.path k).replay ++ [r] ∧ r.id = w.id ∧ r.seq = (s.dev.path k).tx ∧ r.frame = fr ∧ r.at_ = s.dev.ao) ∧ (f.path k).unacked = 0 ∧
        f.sent = .frame n (s.dev.eth n w.peer) fr :: s.dev.sent ∧ f.reg (pLink n) 0x5C = s.dev.reg (pLink n) 0x5C + 1 ∧ f.mem = s.dev.mem)) ∧
  (∀ (s : State) (n : Fin 16) (q : Fin 64) (k : Nat), k = pathKey n q →
    (s.dev.portSends n = true → s.dev.pathOpen k = true → 8 ≤ (s.dev.path k).unacked →
      ∃ f : Dev, ∃ fr : Frame, Sys2Proof.Machine.exec (.ackSend n q) s = .next ⟨f, s.pending⟩ ∧ f.sent = .frame n (s.dev.eth n q) fr :: s.dev.sent ∧ fr.typ = 1 ∧ fr.dst = q.val ∧
        (f.path k).unacked = 0 ∧ (f.path k).replay = (s.dev.path k).replay ∧ f.mem = s.dev.mem) ∧
    ((s.dev.path k).unacked = 0 → seqBefore (s.dev.path k).doneSent (s.dev.doneOf k) = false → Sys2Proof.Machine.exec (.ackSend n q) s = .next s) ∧
    (s.dev.portSends n = true → s.dev.pathOpen k = true → (s.dev.path k).replay ≠ [] → (∀ r ∈ (s.dev.path k).replay, r.bad = false) →
      (s.dev.path k).sentAt + s.dev.getF (pLink n) 0x54 15 0 ≤ s.dev.ao →
      (s.dev.path k).resends < s.dev.getF (pLink n) 0x54 19 16 →
      ∃ f : Dev, Sys2Proof.Machine.exec (.replayTimeout n q) s = .next ⟨f, s.pending⟩ ∧
        f.sent = ((s.dev.path k).replay.reverse.map fun r => .frame n (s.dev.eth n q) r.frame) ++ s.dev.sent ∧ (f.path k).resends = (s.dev.path k).resends + 1 ∧
        (f.path k).sentAt = s.dev.ao ∧ (f.path k).replay = ((s.dev.path k).replay.map fun r => { r with at_ := s.dev.ao }) ∧ f.mem = s.dev.mem) ∧
    (s.dev.ao < (s.dev.path k).sentAt + s.dev.getF (pLink n) 0x54 15 0 → Sys2Proof.Machine.exec (.replayTimeout n q) s = .next s)) ∧
  (∀ (s : State) (q : Fin 64),
    (s.dev.routeSet q = 0 → Sys2Proof.Machine.exec (.routeSwitch q) s = .next s) ∧
    (s.dev.routeSet q ≠ 0 → s.dev.routeBusy q = false ∨ s.dev.routeSet q = tgetD s.dev.routes q 0 → (∀ o ∈ s.dev.heldOps, o.peer = q.val → o.req = none) →
      ∃ f : Dev, Sys2Proof.Machine.exec (.routeSwitch q) s = .next ⟨f, s.pending⟩ ∧ tget? f.routes q = some (s.dev.routeSet q) ∧ f.heldOps = (s.dev.heldOps.filter fun o => o.peer ≠ q.val) ∧
        (∀ o ∈ s.dev.heldOps, o.peer = q.val → ∀ n, pickPort (s.dev.routeSet q) o.sel = some n → ⟨o.id, o.peer, o.frame⟩ ∈ (f.port n).waiting) ∧ f.mem = s.dev.mem ∧ f.csr = s.dev.csr))

/-- For a frame for this device on a port that carries frames, with the device ACTIVE. An ACK or NAK on an open path takes its ACK_SEQ and DONE_SEQ and is counted; a NAK also sends the path's held frames again while below LIMIT; on a path that is not open it is discarded and counted as dropped. LINK_CTRL OPEN of a path that is not open answers with LINK_CTRL and opens it with both sequence numbers at 0; of an open path it only counts; a close of an open path with nothing outstanding takes it down with a fault of the port; a close of a path that is not open only counts. IDLE and WAKE only count. A frame for another device is dropped. (R285, R286, R287, R436) -/
def Obligations.ControlFramesArrive : Prop :=
  (∀ (s : State) (n : Fin 16) (hdr : BitVec 512) (fr : Frame),
    (fr = wireFrame 1 none hdr [] → s.dev.Hears n fr →
      Sys2Proof.Machine.exec (.ack n hdr) s = .next ⟨(s.dev.addCount (pLink n) 0x60 1).heard (pathKey n fr.src) fr, s.pending⟩) ∧
    (fr = wireFrame 1 none hdr [] → s.dev.portUp n = true → s.dev.devPower = 0 → fr.dst = s.dev.devnum → s.dev.pathOpen (pathKey n fr.src) = false →
      Sys2Proof.Machine.exec (.ack n hdr) s = .next ⟨s.dev.addCount (pLink n) 0x68 1, s.pending⟩) ∧
    (∀ e, fr = wireFrame 2 none hdr [] → s.dev.Hears n fr → e = (s.dev.addCount (pLink n) 0x60 1).heard (pathKey n fr.src) fr →
      ((e.path (pathKey n fr.src)).replay = [] → Sys2Proof.Machine.exec (.nak n hdr) s = .next ⟨e, s.pending⟩) ∧
      ((e.path (pathKey n fr.src)).replay ≠ [] → (∀ r ∈ (e.path (pathKey n fr.src)).replay, r.bad = false) → e.portSends n = true →
        (e.path (pathKey n fr.src)).resends < e.getF (pLink n) 0x54 19 16 →
        ∃ f : Dev, Sys2Proof.Machine.exec (.nak n hdr) s = .next ⟨f, s.pending⟩ ∧
          f.sent = ((e.path (pathKey n fr.src)).replay.reverse.map fun r => .frame n (e.eth n fr.src) r.frame) ++ e.sent ∧
          (f.path (pathKey n fr.src)).resends = (e.path (pathKey n fr.src)).resends + 1 ∧ (f.path (pathKey n fr.src)).sentAt = s.dev.ao ∧ f.mem = e.mem)) ∧
    (fr = wireFrame 3 none hdr [] → s.dev.portUp n = true → s.dev.devPower = 0 → fr.dst = s.dev.devnum →
      (s.dev.pathOpen (pathKey n fr.src) = true →
        Sys2Proof.Machine.exec (.linkCtrl n hdr true) s = .next ⟨s.dev.addCount (pLink n) 0x60 1, s.pending⟩) ∧
      (s.dev.pathOpen (pathKey n fr.src) = false →
        Sys2Proof.Machine.exec (.linkCtrl n hdr false) s = .next ⟨s.dev.addCount (pLink n) 0x60 1, s.pending⟩) ∧
      (s.dev.pathOpen (pathKey n fr.src) = true → (s.dev.path (pathKey n fr.src)).replay = [] → (s.dev.path (pathKey n fr.src)).openIds = [] → (s.dev.port n).waiting = [] →
        s.dev.reqs = [] → s.dev.outMsgs = [] → s.dev.sigWaits = [] →
        ∃ f : Dev, Sys2Proof.Machine.exec (.linkCtrl n hdr false) s = .next ⟨f, s.pending⟩ ∧ f.pathOpen (pathKey n fr.src) = false ∧ f.path (pathKey n fr.src) = {} ∧
          f.bit (pLink n) 0x10 evFault = true ∧ f.mem = s.dev.mem) ∧
      (s.dev.pathOpen (pathKey n fr.src) = false →
        ∃ f : Dev, ∃ g : Frame, Sys2Proof.Machine.exec (.linkCtrl n hdr true) s = .next ⟨f, s.pending⟩ ∧ f.pathOpen (pathKey n fr.src) = true ∧ (f.path (pathKey n fr.src)).tx = 0 ∧
          (f.path (pathKey n fr.src)).expect = 0 ∧ f.sent = .frame n (s.dev.eth n fr.src) g :: s.dev.sent ∧ g.typ = 3 ∧ f.mem = s.dev.mem)) ∧
    (fr = wireFrame 4 none hdr [] → s.dev.portUp n = true → s.dev.devPower = 0 →
      (fr.dst = s.dev.devnum → Sys2Proof.Machine.exec (.idle n hdr) s = .next ⟨s.dev.addCount (pLink n) 0x60 1, s.pending⟩) ∧
      (fr.dst ≠ s.dev.devnum → Sys2Proof.Machine.exec (.idle n hdr) s = .next ⟨s.dev.addCount (pLink n) 0x68 1, s.pending⟩)) ∧
    (fr = wireFrame 5 none hdr [] → s.dev.portUp n = true → s.dev.devPower = 0 → fr.dst = s.dev.devnum →
      Sys2Proof.Machine.exec (.wake n hdr) s = .next ⟨s.dev.addCount (pLink n) 0x60 1, s.pending⟩))

/-- For a DATA frame of this device's in sequence on an open path, with the device ACTIVE and nothing before it on the path; `e` is the device with the frame accepted. WRITE to memory whose owner admits the frame's domain and that answers stores its payload, and every byte outside the units that it touches reads as before; READ of it sends the bytes back; an ATOMIC performs its operation there and sends the old word back when asked; memory that does not admit the domain is refused without an effect. FLAG_ADD adds its amount to the flag register that it names. A segment of a message that is not the last is kept under its TAG. A response goes to the request of its TAG on its path, which ends with its last byte; a response that no request awaits changes nothing. REFUSE ends the request of its TAG. PVA_WRITE and PVA_READ act through the tables of their partition. A frame ahead of its turn, and one on a path that is not open, is dropped. (R286, R288, R289, R291, R292, R293, R298) -/
def Obligations.DataFramesArePerformed : Prop :=
  (∀ (s : State) (n : Fin 16) (hdr : BitVec 512) (data : List (BitVec 8)) (fr : Frame) (e : Dev), fr = wireFrame 0 (some (opWrite, true)) hdr data → s.dev.Accepts n fr e →
    (InMemory fr.addr (fr.addr + (fr.data.length - 1)) →
      (e.domainOk fr (e.memOwner fr.addr) = true → e.memReady fr.addr = true → e.memReady (fr.addr + (fr.data.length - 1)) = true →
        ∃ f : Dev, Sys2Proof.Machine.exec (.write n hdr data) s = .next ⟨f, s.pending⟩ ∧
          (Dev.putPayload fr (fr.data.length + 1) e agDevice fr.addr 0 fr.data.length).Performed f (pathKey n fr.src) ∧
          (e.PartsFit → ∀ a, e.Outside [(fr.addr, fr.data, false)] a → f.rawByte a = e.rawByte a)) ∧
      (e.domainOk fr (e.memOwner fr.addr) = false →
        ∃ f : Dev, Sys2Proof.Machine.exec (.write n hdr data) s = .next ⟨f, s.pending⟩ ∧ (e.refuseOp ⟨pathKey n fr.src, fr.seq, fr⟩ cXlatePerm).Performed f (pathKey n fr.src) ∧ f.mem = e.mem))) ∧
  (∀ (s : State) (n : Fin 16) (hdr : BitVec 512) (fr : Frame) (e : Dev), fr = wireFrame 0 (some (opRead, false)) hdr [] → s.dev.Accepts n fr e →
    (InMemory fr.addr (fr.addr + (fr.len - 1)) → e.domainOk fr (e.memOwner fr.addr) = true →
      e.memReady fr.addr = true → e.memReady (fr.addr + (fr.len - 1)) = true →
      ∃ f : Dev, Sys2Proof.Machine.exec (.read n hdr) s = .next ⟨f, s.pending⟩ ∧
        (((e.noteErrs fr.addr fr.len).noteSecure agDevice fr.addr fr.len).respondData ⟨pathKey n fr.src, fr.seq, fr⟩
          (((e.noteErrs fr.addr fr.len).noteSecure agDevice fr.addr fr.len).readMem agDevice fr.addr fr.len)
          fun i => ((e.noteErrs fr.addr fr.len).noteSecure agDevice fr.addr fr.len).markedAt (fr.addr + 64 * i) (min 64 (fr.len - 64 * i))).Performed f (pathKey n fr.src))) ∧
  (∀ (s : State) (n : Fin 16) (hdr : BitVec 512) (data : List (BitVec 8)) (fr : Frame) (e : Dev), fr = wireFrame 0 (some (opAtomic, true)) hdr (bytesAt data 0 32) → s.dev.Accepts n fr e →
    (∀ g old m, InMemory (fr.addr / 32 * 32) (fr.addr / 32 * 32 + 31) → e.domainOk fr (e.memOwner (fr.addr / 32 * 32)) = true →
      e.memReady (fr.addr / 32 * 32) = true → e.memReady (fr.addr / 32 * 32 + 31) = true → e.atomicAt agDevice (fr.addr / 32 * 32) fr.aop fr.lanes fr.data = (g, .done old m) →
      ∃ f : Dev, Sys2Proof.Machine.exec (.remoteAtomic n hdr data) s = .next ⟨f, s.pending⟩ ∧
        (if fr.ret then g.respond ⟨pathKey n fr.src, fr.seq, fr⟩ opAtomicResp [(384, if m then 1 else 0)] old else g).Performed f (pathKey n fr.src))) ∧
  (∀ (s : State) (n : Fin 16) (hdr : BitVec 512) (v : BitVec 32) (fr : Frame) (e : Dev), fr = wireFrame 0 (some (opFlagAdd, true)) hdr (leBytes 4 v.toNat) → s.dev.Accepts n fr e →
    (∀ c : Fin 800, fr.addr = flagReg false c → e.domainOk fr (e.owner (pClu c)) = true →
      ∃ f : Dev, Sys2Proof.Machine.exec (.flagAdd n hdr v) s = .next ⟨f, s.pending⟩ ∧ (e.signalClu c (fld v.toNat 5 0) (fld v.toNat 31 16)).Performed f (pathKey n fr.src))) ∧
  (∀ (s : State) (n : Fin 16) (hdr : BitVec 512) (data : List (BitVec 8)) (fr : Frame) (e : Dev), fr = wireFrame 0 (some (opMsg, true)) hdr data → s.dev.Accepts n fr e → fr.off = 0 → fr.last = false →
    ∃ f : Dev, Sys2Proof.Machine.exec (.msg n hdr data) s = .next ⟨f, s.pending⟩ ∧
      ({ e with inMsgs := e.inMsgs.filter (fun m => !(m.path = pathKey n fr.src && m.mid = fr.tag)) ++ [⟨pathKey n fr.src, fr.tag, fr.cls, fr.total, fr.data⟩] } : Dev).Performed f (pathKey n fr.src)) ∧
  (∀ (s : State) (n : Fin 16) (hdr : BitVec 512) (data : List (BitVec 8)) (fr : Frame) (e : Dev),
    (fr = wireFrame 0 (some (opReadResp, true)) hdr data → s.dev.Accepts n fr e →
      ((∀ r ∈ e.reqs, r.path ≠ pathKey n fr.src ∨ r.tag ≠ fr.tag) → ∃ f : Dev, Sys2Proof.Machine.exec (.readResp n hdr data) s = .next ⟨f, s.pending⟩ ∧ e.Performed f (pathKey n fr.src)) ∧
      (∀ r key, e.reqs = [r] → r.path = pathKey n fr.src → r.tag = fr.tag → r.what = .ring key → r.len ≤ r.got + fr.data.length →
        ∃ f : Dev, Sys2Proof.Machine.exec (.readResp n hdr data) s = .next ⟨f, s.pending⟩ ∧ f.reqs = [] ∧ (tgetD f.dests key {}).reading = false ∧
          (tgetD f.dests key {}).consumed = numAt fr.data 0 8 ∧ f.mem = e.mem)) ∧
    (fr = wireFrame 0 (some (opAtomicResp, true)) hdr (bytesAt data 0 32) → s.dev.Accepts n fr e →
      (∀ r key, e.reqs = [r] → r.path = pathKey n fr.src → r.tag = fr.tag → r.what = .ring key → r.len ≤ r.got + 32 →
        ∃ f : Dev, Sys2Proof.Machine.exec (.atomicResp n hdr data) s = .next ⟨f, s.pending⟩ ∧ f.reqs = [] ∧ (tgetD f.dests key {}).consumed = numAt fr.data 0 8 ∧ f.mem = e.mem)) ∧
    (fr = wireFrame 0 (some (opRefuse, false)) hdr [] → s.dev.Accepts n fr e →
      (∀ r key, (s.dev.accepts n fr).reqs = [r] → r.path = pathKey n fr.src → r.tag = fr.tag → r.what = .ring key →
        ∃ f : Dev, Sys2Proof.Machine.exec (.refuse n hdr) s = .next ⟨f, s.pending⟩ ∧ f.reqs = [] ∧ (tgetD f.dests key {}).reading = false ∧
          (tgetD f.dests key {}).consumed = (tgetD (s.dev.accepts n fr).dests key {}).consumed ∧ f.mem = (s.dev.accepts n fr).mem))) ∧
  (∀ (s : State) (n : Fin 16) (hdr : BitVec 512) (data : List (BitVec 8)) (fr : Frame) (e g : Dev) (l : List Seg), fr.ptn < 24 → e.ptnExists fr.ptn = true → e.domainOk fr fr.ptn = true →
    (∀ x ∈ l, x.remote = false) →
    (fr = wireFrame 0 (some (opPvaWrite, true)) hdr data → s.dev.Accepts n fr e → e.xlRange none fr.ptn fr.pva fr.data.length true = (g, .ok l) → e.segsReady l = true →
      (g.putPayloadSegs fr (agPtn fr.ptn none) fr.pva l).pulls = [] →
      ∃ f : Dev, Sys2Proof.Machine.exec (.pvaWrite n hdr data) s = .next ⟨f, s.pending⟩ ∧ (g.putPayloadSegs fr (agPtn fr.ptn none) fr.pva l).Performed f (pathKey n fr.src)) ∧
    (fr = wireFrame 0 (some (opPvaRead, false)) hdr [] → s.dev.Accepts n fr e → e.xlRange none fr.ptn fr.pva fr.len false = (g, .ok l) → e.segsReady l = true →
      ∃ f h : Dev, Sys2Proof.Machine.exec (.pvaRead n hdr) s = .next ⟨f, s.pending⟩ ∧ h = l.foldl (fun (d : Dev) x => (d.noteErrs x.dpa x.len).noteSecure (agPtn fr.ptn none) x.dpa x.len) g ∧
        (h.respondData ⟨pathKey n fr.src, fr.seq, fr⟩ (h.readSegs (agPtn fr.ptn none) l) fun j => l.any fun x =>
          max x.pva (fr.pva + 64 * j) < min (x.pva + x.len) (fr.pva + 64 * j + 64) &&
          h.markedAt (x.dpa + (max x.pva (fr.pva + 64 * j) - x.pva)) (min (x.pva + x.len) (fr.pva + 64 * j + 64) - max x.pva (fr.pva + 64 * j))).Performed f (pathKey n fr.src))) ∧
  (∀ (s : State) (n : Fin 16) (hdr : BitVec 512) (data : List (BitVec 8)) (fr : Frame), fr = wireFrame 0 (some (opWrite, true)) hdr data → s.dev.portUp n = true → s.dev.devPower = 0 →
    fr.dst = s.dev.devnum → s.dev.pathOpen (pathKey n fr.src) = false → Sys2Proof.Machine.exec (.write n hdr data) s = .next ⟨s.dev.addCount (pLink n) 0x68 1, s.pending⟩)

/-- For a request with a good ICRC and no CE mark on an open queue pair in RTS of a port whose bridge runs, outside IDLE, with the expected PSN. A SEND of a supported opcode that fits the 8 MiB buffer joins the queue pair's messages behind the writes before it, the PSN passes its packets, and its last PSN is acknowledged; one that does not fit gets an RNR NAK with RNR_TIMER and changes no queue pair; an unsupported opcode gets a NAK and puts the queue pair into ERROR. An RDMA WRITE with the R_Key is relayed and waits for its acknowledgement; one with another R_Key gets Remote Access Error and ERROR. An RDMA READ or WRITE for another device stays open, the PSN passes its packets; a READ of no bytes is answered at once. A bridge that does not run takes nothing. A bad ICRC is only counted. (R296, R298, R299) -/
def Obligations.HostRequestsArrive : Prop :=
  (∀ (s : State) (n : Fin 4) (slot : Fin 64) (psn : BitVec 24) (rkey len : BitVec 32) (va : BitVec 64) (data : List (BitVec 8)) (dom syn : BitVec 8) (icrc ce known bad : Bool), s.dev.hbrOn n = false →
    Sys2Proof.Machine.exec (.roceSend n slot psn data icrc ce known bad) s = .next s ∧ Sys2Proof.Machine.exec (.rdmaWrite n slot psn rkey va data icrc ce dom) s = .next s ∧
    Sys2Proof.Machine.exec (.rdmaRead n slot psn rkey va len icrc ce dom) s = .next s ∧ Sys2Proof.Machine.exec (.rdmaReadResponse n slot data icrc ce none) s = .next s ∧
    Sys2Proof.Machine.exec (.roceAck n slot psn syn) s = .next s ∧ Sys2Proof.Machine.exec (.cnpReceive n slot) s = .next s) ∧
  (∀ (s : State) (n : Fin 4) (slot : Fin 64) (psn : BitVec 24) (data : List (BitVec 8)) (q : Qp) (c : Nat), s.dev.hbrOn n = true → s.dev.devPower ≠ 1 → s.dev.scrubbed (pHbr n) = false →
    q = s.dev.qp (qpKey n slot) → c = q.packets data.length →
    Sys2Proof.Machine.exec (.roceSend n slot psn data false false true false) s = .next ⟨s.dev.addCount (pHbr n) 0x6C 1, s.pending⟩ ∧
    (q.st = qsRts → psn.toNat = q.rqPsn → data.length ≤ 1048576 →
      (s.dev.intakeBytes + data.length ≤ 8388608 →
        ∃ f : Dev, Sys2Proof.Machine.exec (.roceSend n slot psn data true false true false) s = .next ⟨f, s.pending⟩ ∧
          (f.qp (qpKey n slot)).sends = q.sends ++ [⟨psn.toNat, data, q.writes.flatMap HostWrite.ids, false, q.writes.any HostWrite.lost⟩] ∧ (f.qp (qpKey n slot)).rqPsn = (psn.toNat + c) % 2 ^ 24 ∧
          (f.qp (qpKey n slot)).st = qsRts ∧ f.sent = .hostAck n slot (s.dev.roce n slot ((psn.toNat + c - 1) % 2 ^ 24)) :: s.dev.sent ∧
          (∀ k, k ≠ qpKey n slot → f.qp k = s.dev.qp k) ∧ f.mem = s.dev.mem) ∧
      (8388608 < s.dev.intakeBytes + data.length →
        ∃ f : Dev, Sys2Proof.Machine.exec (.roceSend n slot psn data true false true false) s = .next ⟨f, s.pending⟩ ∧ f.qps = s.dev.qps ∧
          f.sent = .hostNak n slot (s.dev.roce n slot psn.toNat) (0x20 + s.dev.getF (pHbr n) 0x40 10 6) :: s.dev.sent ∧ f.reg (pHbr n) 0x64 = s.dev.reg (pHbr n) 0x64 + 1 ∧ f.mem = s.dev.mem) ∧
      (∃ f : Dev, Sys2Proof.Machine.exec (.roceSend n slot psn data true false false false) s = .next ⟨f, s.pending⟩ ∧ (f.qp (qpKey n slot)).st = qsError ∧
        f.sent = .hostNak n slot (s.dev.roce n slot psn.toNat) synInvalid :: s.dev.sent ∧ f.mem = s.dev.mem))) ∧
  (∀ (s : State) (n : Fin 4) (slot : Fin 64) (psn : BitVec 24) (rkey : BitVec 32) (va : BitVec 64) (data : List (BitVec 8)) (dom : BitVec 8) (q : Qp) (c : Nat) (e g : Dev) (ids : List Nat),
    s.dev.hbrOn n = true → s.dev.devPower ≠ 1 → q = s.dev.qp (qpKey n slot) → c = q.packets data.length → q.st = qsRts → psn.toNat = q.rqPsn → data.length ≤ 16777216 →
    (rkey.toNat ≠ q.rkey → ∃ f : Dev, Sys2Proof.Machine.exec (.rdmaWrite n slot psn rkey va data true false dom) s = .next ⟨f, s.pending⟩ ∧ (f.qp (qpKey n slot)).st = qsError ∧
      f.sent = .hostNak n slot (s.dev.roce n slot psn.toNat) synAccess :: s.dev.sent ∧ f.mem = s.dev.mem) ∧
    (rkey.toNat = q.rkey → q.role ≠ 0 → q.role ≠ 3 → va.toNat < (if q.role = 1 then 2 ^ 50 else 2 ^ 48) → e = (s.dev.addCount (pHbr n) 0x5C c).psnTo n slot (psn.toNat + c) →
      Dev.relayWrite (data.length + 1) e (s.dev.relayTo q dom.toNat) va.toNat data = (ids, g) →
      Sys2Proof.Machine.exec (.rdmaWrite n slot psn rkey va data true false dom) s =
        .next ⟨(g.modQp (qpKey n slot) fun x => { x with writes := x.writes ++ [⟨(psn.toNat + c - 1) % 2 ^ 24, ids, false⟩] }).runLocal, s.pending⟩) ∧
    (rkey.toNat = q.rkey → q.role = 2 → va.toNat < 2 ^ 48 → q.dev ≠ s.dev.devnum → (∀ o ∈ s.dev.inOps, o.path ≠ localPath) →
      ∃ f : Dev, ∃ l : List Nat, Sys2Proof.Machine.exec (.rdmaWrite n slot psn rkey va data true false dom) s = .next ⟨f, s.pending⟩ ∧
        (f.qp (qpKey n slot)).writes = q.writes ++ [⟨(psn.toNat + c - 1) % 2 ^ 24, l, false⟩] ∧ (f.qp (qpKey n slot)).rqPsn = (psn.toNat + c) % 2 ^ 24 ∧ f.mem = s.dev.mem)) ∧
  (∀ (s : State) (n : Fin 4) (slot : Fin 64) (psn : BitVec 24) (rkey : BitVec 32) (va : BitVec 64) (len : BitVec 32) (dom : BitVec 8) (q : Qp),
    s.dev.hbrOn n = true → s.dev.devPower ≠ 1 → q = s.dev.qp (qpKey n slot) → q.st = qsRts → psn.toNat = q.rqPsn → len.toNat ≤ 16777216 → rkey.toNat = q.rkey →
    q.role = 1 ∨ q.role = 2 → va.toNat < (if q.role = 1 then 2 ^ 50 else 2 ^ 48) →
    (len.toNat = 0 → ∃ f : Dev, Sys2Proof.Machine.exec (.rdmaRead n slot psn rkey va len true false dom) s = .next ⟨f, s.pending⟩ ∧
      f.sent = .hostData n slot (s.dev.roce n slot psn.toNat) 0 [] :: s.dev.sent ∧ (f.qp (qpKey n slot)).reads = q.reads ∧ f.mem = s.dev.mem) ∧
    (len.toNat ≠ 0 → (q.role = 1 → va.toNat / 2 ^ 44 ≠ s.dev.devnum ∧ (va.toNat + len.toNat - 1) / 2 ^ 44 ≠ s.dev.devnum) → (q.role = 2 → q.dev ≠ s.dev.devnum) → (∀ o ∈ s.dev.inOps, o.path ≠ localPath) →
      ∃ f : Dev, ∃ rid, Sys2Proof.Machine.exec (.rdmaRead n slot psn rkey va len true false dom) s = .next ⟨f, s.pending⟩ ∧
        (f.qp (qpKey n slot)).reads = q.reads ++ [⟨rid, psn.toNat, va.toNat, len.toNat, 0⟩] ∧ (f.qp (qpKey n slot)).rqPsn = (psn.toNat + q.packets len.toNat) % 2 ^ 24 ∧ f.mem = s.dev.mem))

/-- On a port whose bridge runs, for a queue pair in RTS. An ACK frees the SENDs and RDMA WRITEs up to its PSN and no other; a NAK other than RNR and sequence puts it into ERROR with that syndrome and the event QP_ERROR. A timeout of the oldest request below the retry limit sends the requests again and counts a try; at the limit it puts the queue pair into ERROR; before the timeout nothing changes. A write acknowledgement of the first RDMA WRITE whose frames are all done sends its ACK; while one is not done nothing changes. A STATE write to RESET clears the writes, reads and rate; from RESET to RTS it stores the word and sends the kept requests again; in RESET a reserved ROLE keeps that field alone and sets INVALID_WRITE; outside RESET a change of another field, or ERROR to RTS, is refused with INVALID_WRITE. A CNP halves the rate unless it was halved in the last 50 us; 55 us later the rate rises by a twentieth up to line rate. (R296, R297, R299, R311) -/
def Obligations.QueuePairsAnswerAndRecover : Prop :=
  (∀ (s : State) (n : Fin 4) (slot : Fin 64) (k : Nat) (q : Qp), k = qpKey n slot → q = s.dev.qp k → s.dev.hbrOn n = true → q.st = qsRts →
    (∀ (psn : BitVec 24) (syn : BitVec 8),
      (syn.toNat < 0x20 → ∃ f : Dev, Sys2Proof.Machine.exec (.roceAck n slot psn syn) s = .next ⟨f, s.pending⟩ ∧
        (f.qp k).reqs = q.reqs.filter (fun r => match r.what with | .pull .. => true | _ => !psnLe (r.psn + q.packets r.what.len - 1) psn.toNat) ∧
        (f.qp k).win = q.win ∧ f.sent = s.dev.sent ∧ f.mem = s.dev.mem) ∧
      (0x40 ≤ syn.toNat → syn.toNat ≠ synSeq → q.reqs ≠ [] → ∃ f : Dev, Sys2Proof.Machine.exec (.roceAck n slot psn syn) s = .next ⟨f, s.pending⟩ ∧ (f.qp k).st = qsError ∧
        (f.qp k).word 0x30 = BitVec.ofNat 32 syn.toNat ∧ f.events = s.dev.events ++ [⟨0xFF, s.dev.ao, 0x000A, leBytes 1 n ++ leBytes 1 slot ++ leBytes 2 0 ++ leBytes 4 syn.toNat⟩] ∧
        f.mem = s.dev.mem)) ∧
    (∀ r rest, q.reqs = r :: rest →
      (s.dev.ao < r.sentAt + 1024 * 2 ^ wfld (q.word 0x14) 4 0 / 5 → Sys2Proof.Machine.exec (.qpAckTimeout n slot) s = .next s) ∧
      (r.sentAt + 1024 * 2 ^ wfld (q.word 0x14) 4 0 / 5 ≤ s.dev.ao → r.tries < wfld (q.word 0x14) 7 5 →
        ∃ f : Dev, Sys2Proof.Machine.exec (.qpAckTimeout n slot) s = .next ⟨f, s.pending⟩ ∧
          (f.qp k).reqs = { r with tries := r.tries + 1, sentAt := s.dev.ao } :: rest.map (fun x => { x with sentAt := s.dev.ao }) ∧
          f.sent = (q.reqs.reverse.map fun x => .host n slot (s.dev.roce n slot x.psn) x.what) ++ s.dev.sent ∧ (f.qp k).st = qsRts ∧ f.mem = s.dev.mem) ∧
      (r.sentAt + 1024 * 2 ^ wfld (q.word 0x14) 4 0 / 5 ≤ s.dev.ao → wfld (q.word 0x14) 7 5 ≤ r.tries →
        ∃ f : Dev, Sys2Proof.Machine.exec (.qpAckTimeout n slot) s = .next ⟨f, s.pending⟩ ∧ (f.qp k).st = qsError ∧ (f.qp k).writes = [] ∧ f.mem = s.dev.mem)) ∧
    (∀ w rest, q.writes = w :: rest → w.lost = false →
      (w.ids.all s.dev.isDone = true → ∃ f : Dev, Sys2Proof.Machine.exec (.rdmaWriteAck n slot) s = .next ⟨f, s.pending⟩ ∧ (f.qp k).writes = rest ∧
        f.sent = .hostAck n slot (s.dev.roce n slot w.psn) :: s.dev.sent ∧ (∀ x, x ≠ k → f.qp x = s.dev.qp x) ∧ f.mem = s.dev.mem) ∧
      (w.ids.all s.dev.isDone = false → Sys2Proof.Machine.exec (.rdmaWriteAck n slot) s = .next s)) ∧
    (s.dev.bit (pHbr n) 0x40 5 = false → Sys2Proof.Machine.exec (.cnpReceive n slot) s = .next ⟨s.dev.addCount (pHbr n) 0x5C 1, s.pending⟩) ∧
    (s.dev.bit (pHbr n) 0x40 5 = true →
      (q.cutAt = none ∨ (∃ t, q.cutAt = some t ∧ t + 2500 ≤ s.dev.ao) → Sys2Proof.Machine.exec (.cnpReceive n slot) s =
        .next ⟨(s.dev.addCount (pHbr n) 0x5C 1).setQp k { q with rate := q.rate / 2, cutAt := some s.dev.ao, riseAt := s.dev.ao }, s.pending⟩) ∧
      (∀ t, q.cutAt = some t → s.dev.ao < t + 2500 → Sys2Proof.Machine.exec (.cnpReceive n slot) s =
        .next ⟨(s.dev.addCount (pHbr n) 0x5C 1).setQp k { q with riseAt := s.dev.ao }, s.pending⟩)) ∧
    (q.rate < 1000000 → q.riseAt + 2750 ≤ s.dev.ao → Sys2Proof.Machine.exec (.qpRateRecovery n slot) s =
      .next ⟨s.dev.setQp k { q with rate := min 1000000 (q.rate + 50000), riseAt := s.dev.ao }, s.pending⟩) ∧
    (1000000 ≤ q.rate ∨ s.dev.ao < q.riseAt + 2750 → Sys2Proof.Machine.exec (.qpRateRecovery n slot) s = .next s)) ∧
  (∀ (s : State) (r : Role) (n : Fin 4) (v : BitVec 32) (k : Nat) (q : Qp), s.dev.Takes r (pHbr n) → s.dev.Ranks r (pHbr n) 0x80 → k = qpKey n (s.dev.getF (pHbr n) 0x58 5 0) → q = s.dev.qp k →
    v.toNat < 0x2000000 →
    (wfld v 1 0 = qsReset → q.st ≠ qsReset → wput v 1 0 q.st = q.word 0 →
      ∃ t, Sys2Proof.Machine.exec (.qpStateWrite r n v) s = .next t ∧ t.pending = s.pending ∧ (t.dev.qp k).word 0 = v ∧ (t.dev.qp k).writes = [] ∧ (t.dev.qp k).reads = [] ∧
        (t.dev.qp k).rate = 1000000 ∧ (t.dev.qp k).sends = q.sends.filter (fun m => !m.lost) ∧ (t.dev.qp k).reqs = q.reqs ∧ t.dev.mem = s.dev.mem) ∧
    (q.st ≠ qsReset → wput v 1 0 q.st ≠ q.word 0 ∨ (wfld v 1 0 ≠ qsReset ∧ wfld v 1 0 ≠ q.st) →
      ∃ t, Sys2Proof.Machine.exec (.qpStateWrite r n v) s = .next t ∧ t.pending = s.pending ∧ t.dev.qps = s.dev.qps ∧ t.dev.bit (pHbr n) 0x10 evInvalid = true ∧ t.dev.mem = s.dev.mem) ∧
    (wfld v 1 0 = qsReset → q.st = qsReset → wfld v 3 2 ≠ 3 → 1 ≤ wfld v 18 16 → wfld v 18 16 ≤ 5 →
      ∃ t, Sys2Proof.Machine.exec (.qpStateWrite r n v) s = .next t ∧ t.pending = s.pending ∧ t.dev.qp k = q.setWord 0 v ∧ t.dev.mem = s.dev.mem) ∧
    (wfld v 1 0 = qsRts → q.st = qsReset → wfld v 3 2 ≠ 3 → 1 ≤ wfld v 18 16 → wfld v 18 16 ≤ 5 →
      ∃ t, Sys2Proof.Machine.exec (.qpStateWrite r n v) s = .next t ∧ t.pending = s.pending ∧ (t.dev.qp k).word 0 = v ∧ (t.dev.qp k).st = qsRts ∧
        t.dev.sent.length = s.dev.sent.length + q.reqs.length ∧ (t.dev.qp k).reqs.map HostReq.what = q.reqs.map HostReq.what ∧ t.dev.mem = s.dev.mem) ∧
    (wfld v 1 0 = qsReset → q.st = qsReset → wfld v 3 2 = 3 → 1 ≤ wfld v 18 16 → wfld v 18 16 ≤ 5 →
      ∃ t, Sys2Proof.Machine.exec (.qpStateWrite r n v) s = .next t ∧ t.pending = s.pending ∧ (t.dev.qp k).word 0 = wput v 3 2 q.role ∧ t.dev.bit (pHbr n) 0x10 evInvalid = true ∧
        t.dev.mem = s.dev.mem))

/-- For the first message that a queue pair has brought: while a write before it is not done it waits; one that the intake buffer lost to an error is answered with POISON_CONSUMED; one that does not fit the queue pair's role is answered with MSG_ROLE; one for this device arrives at its intake with the queue pair's name; one for another device with a route is sent there. A due HOST_PULL of a good length on a queue pair of this device asks the host for the bytes and stays under way; a bad length answers MSG_INVALID. Response data of a pull that is not yet whole are relayed to its destination behind what has come before. The first message of a destination that is not valid or not bound, or whose queue pair is in RESET (unless it waits already), is dropped and counted; one whose queue pair is not in RTS waits; else it leaves, as a SEND or as an entry written to the ring. (R298, R300, R302, R304, R307) -/
def Obligations.BridgeForwardsAndDelivers : Prop :=
  (∀ (s : State) (n : Fin 4) (slot : Fin 64) (k : Nat) (q : Qp) (m : HostSend) (rest : List HostSend) (e : Dev), k = qpKey n slot → q = s.dev.qp k → q.sends = m :: rest →
    e = s.dev.setQp k { q with sends := rest } →
    (m.lost = true ∨ m.ids.all s.dev.isDone = false ∨ s.dev.awake = false → Sys2Proof.Machine.exec (.sendForward n slot) s = .next s) ∧
    (m.lost = false → m.ids.all s.dev.isDone = true → s.dev.awake = true →
      (m.marked = true → Sys2Proof.Machine.exec (.sendForward n slot) s = .next ⟨e.bridgeRefuses m.data (numAt m.data 0x10 1) cPoison, s.pending⟩) ∧
      (m.marked = false → qpMaySend q m.data = false → Sys2Proof.Machine.exec (.sendForward n slot) s = .next ⟨e.bridgeRefuses m.data e.devnum cMsgRole, s.pending⟩) ∧
      (m.marked = false → qpMaySend q m.data = true → numAt m.data 0x10 1 = s.dev.devnum →
        Sys2Proof.Machine.exec (.sendForward n slot) s = .next ⟨e.arrive m.data (some (s.dev.devnum, n.val, slot.val)), s.pending⟩) ∧
      (m.marked = false → qpMaySend q m.data = true → numAt m.data 0x10 1 ≠ s.dev.devnum → numAt m.data 0x10 1 < 64 → s.dev.routeSet (numAt m.data 0x10 1) ≠ 0 →
        ∃ f : Dev, ∃ x : OutMsg, Sys2Proof.Machine.exec (.sendForward n slot) s = .next ⟨f, s.pending⟩ ∧ (f.qp k).sends = rest ∧ x ∈ f.outMsgs ∧ x.mid = s.dev.nextMid ∧
          x.dev = numAt m.data 0x10 1 ∧ x.cls = clsWork ∧ x.data = m.data ∧ (q.role = 1 → x.domain = opDomain) ∧ f.nextMid = (s.dev.nextMid + 1) % 2 ^ 32 ∧ f.mem = s.dev.mem))) ∧
  (∀ (s : State) (p : Fin 25) (i : Item) (e : Dev), s.dev.dueItem p 0x0005 = some (i, e) →
    ((numAt i.body 0xC 4 = 0 ∨ 16777216 < numAt i.body 0xC 4) → Sys2Proof.Machine.exec (.hostPull p) s = .next ⟨e.endItem i cMsgInvalid 0xC, s.pending⟩) ∧
    (∀ n slot, numAt i.body 0xC 4 ≠ 0 → numAt i.body 0xC 4 ≤ 16777216 → i.qp = some (e.devnum, n, slot) → (e.qp (qpKey n slot)).st = qsRts →
      ∃ f : Dev, Sys2Proof.Machine.exec (.hostPull p) s = .next ⟨f, s.pending⟩ ∧
        f.pulls = e.pulls ++ [⟨i.msg, i.item, i.ptn, numAt i.body 0x10 8, numAt i.body 0xC 4, 0, []⟩] ∧ f.work = e.work ∧
        f.sent = .host n slot (e.roce n slot (e.qp (qpKey n slot)).sqPsn) (.pull (numAt i.body 0 8) (numAt i.body 8 4) (numAt i.body 0xC 4) i.msg i.item i.ptn (numAt i.body 0x10 8)) :: e.sent ∧
        f.mem = e.mem) ∧
    (numAt i.body 0xC 4 ≠ 0 → numAt i.body 0xC 4 ≤ 16777216 → (∀ n slot, i.qp ≠ some (e.devnum, n, slot)) → Sys2Proof.Machine.exec (.hostPull p) s =
      .next ⟨{ e with pulls := e.pulls ++ [⟨i.msg, i.item, i.ptn, numAt i.body 0x10 8, numAt i.body 0xC 4, 0, []⟩] }, s.pending⟩)) ∧
  (∀ (s : State) (n : Fin 4) (slot : Fin 64) (data : List (BitVec 8)) (q : Qp) (r : HostReq) (x : Pull) (va key len : Nat) (e g : Dev) (ids : List Nat), s.dev.hbrOn n = true →
    q = s.dev.qp (qpKey n slot) → e = s.dev.addCount (pHbr n) 0x5C (q.packets data.length) →
    Sys2Proof.Machine.exec (.rdmaReadResponse n slot data false false none) s = .next ⟨s.dev.addCount (pHbr n) 0x6C 1, s.pending⟩ ∧
    (q.st ≠ qsRts → Sys2Proof.Machine.exec (.rdmaReadResponse n slot data true false none) s = .next ⟨e, s.pending⟩) ∧
    (∀ (dev : Fin 64) (p : Fin 24) (dom : BitVec 8) (pva : BitVec 48), q.st = qsRts → dev.val ≠ s.dev.devnum → Dev.relayWrite (data.length + 1) e (.pva dev p dom.toNat) pva.toNat data = (ids, g) →
      Sys2Proof.Machine.exec (.rdmaReadResponse n slot data true false (some (dev, p, dom, pva))) s = .next ⟨g, s.pending⟩) ∧
    (q.st = qsRts → (q.reqs.find? fun y => match y.what with | .pull .. => true | _ => false) = some r → r.what = .pull va key len x.msg x.item x.ptn x.pva →
      (s.dev.pulls.find? fun y => y.msg = x.msg && y.item = x.item) = some x → x.got + data.length < len → Dev.relayWrite (data.length + 1) e (.pva e.devnum x.ptn (e.linkDomain x.ptn)) (x.pva + x.got) data = (ids, g) →
    Sys2Proof.Machine.exec (.rdmaReadResponse n slot data true false none) s =
      .next ⟨({ g with pulls := g.pulls.filter (fun y => !(y.msg = x.msg && y.item = x.item)) ++ [{ x with got := x.got + data.length, ids := x.ids ++ ids }] } : Dev).runLocal, s.pending⟩)) ∧
  (∀ (s : State) (key : Fin 4096) (words : List (BitVec 32)) (m : DMsg) (rest : List DMsg) (x : Dest) (st : DestState) (q : Qp) (bound : Prop), st = tgetD s.dev.dests key {} → st.q = m :: rest →
    x = (if key.val / 64 = s.dev.devnum then s.dev.destRec key else ⟨words⟩) → q = s.dev.qp (qpKey x.port x.slot) →
    bound = (if key.val % 64 = 62 then q.role = 1 else q.role = 2 ∧ q.dev = key.val / 64 ∧ q.ptn = key.val % 64 / 2) →
    (x.valid = false ∨ ¬bound ∨ (q.st = qsReset ∧ st.waitAt = none) → s.dev.scrubbed (pHbr x.port) = false →
      ∃ f : Dev, Sys2Proof.Machine.exec (.messageDeliver key words) s = .next ⟨f, s.pending⟩ ∧ (tgetD f.dests key {}).q = rest ∧ f.sent = s.dev.sent ∧
        f.reg (pHbr x.port) 0x70 = s.dev.reg (pHbr x.port) 0x70 + 1 ∧ f.mem = s.dev.mem) ∧
    (x.valid = true → bound → (s.dev.hbrOn x.port = false ∨ q.st ≠ qsRts) → (q.st = qsReset → st.waitAt ≠ none) →
      ∃ f : Dev, Sys2Proof.Machine.exec (.messageDeliver key words) s = .next ⟨f, s.pending⟩ ∧ tgetD f.dests key {} = { st with waitAt := some (st.waitAt.getD s.dev.ao) } ∧
        f.sent = s.dev.sent ∧ f.mem = s.dev.mem ∧ f.csr = s.dev.csr) ∧
    (x.valid = true → bound → q.st = qsRts → s.dev.hbrOn x.port = true →
      (x.ring = false → ∃ f : Dev, Sys2Proof.Machine.exec (.messageDeliver key words) s = .next ⟨f, s.pending⟩ ∧ (tgetD f.dests key {}).q = rest ∧ (tgetD f.dests key {}).waitAt = none ∧
        f.sent = .host x.port x.slot (s.dev.roce x.port x.slot q.sqPsn) (.send m.cls m.data) :: s.dev.sent ∧ f.mem = s.dev.mem) ∧
      (∀ len pos, x.ring = true → len = roundUp (24 + m.data.length) 64 → pos = st.written % x.size → pos + len ≤ x.size → st.written - st.consumed + len ≤ x.size →
        ∃ f : Dev, Sys2Proof.Machine.exec (.messageDeliver key words) s = .next ⟨f, s.pending⟩ ∧ (tgetD f.dests key {}).q = rest ∧ (tgetD f.dests key {}).ringSeq = st.ringSeq + 1 ∧
          (tgetD f.dests key {}).written = st.written + len ∧
          f.sent = .host x.port x.slot (s.dev.roce x.port x.slot q.sqPsn) (.write (x.va + pos) (x.w 1).toNat (ringEntry len m.cls (st.ringSeq + 1) m.data)) :: s.dev.sent ∧ f.mem = s.dev.mem)))

/-- For a due tokenizer item whose reads of partition memory succeed without poison. TOK_LOAD of an aligned table with room for the model keeps its place when the table has no fault, and answers TOKENIZER_INVALID with the offset of the first fault otherwise. TOK_ENCODE of a loaded model answers the number of tokens that the merges leave and has written them; TOK_DECODE answers the number of bytes of the tokens' strings and has written them; a result beyond the capacity answers TOKEN_CAPACITY with its size; a model that is not loaded, an input of no or too many units, and a token outside the vocabulary answer TOKENIZER_INVALID. (R316, R317, R327) -/
def Obligations.TokenizerItems : Prop :=
  (∀ (s : State) (p : Fin 25) (i : Item) (e f : Dev) (t : List Byte), s.dev.dueItem p 0x0210 = some (i, e) → numAt i.body 8 8 % 4096 = 0 → numAt i.body 8 8 < 2 ^ 48 → 0x410 ≤ numAt i.body 0x10 4 →
    (e.px i.ptn).toks.length < 8 → e.intakeRead i.ptn (numAt i.body 8 8) (numAt i.body 0x10 4) = (f, .ok (t, false)) →
    (∀ o, tkBad t = some o → Sys2Proof.Machine.exec (.tokLoad p) s = .next ⟨f.endItem i cTokInvalid (min o (2 ^ 24 - 1)), s.pending⟩) ∧
    (tkBad t = none → ∃ g : Dev, Sys2Proof.Machine.exec (.tokLoad p) s = .next ⟨g.endItem i 0 0, s.pending⟩ ∧
      tget? (g.px i.ptn).toks (numAt i.body 0 1) = some (numAt i.body 8 8, numAt i.body 0x10 4) ∧ g.mem = f.mem)) ∧
  (∀ (s : State) (p : Fin 25) (i : Item) (e : Dev), s.dev.dueItem p 0x0211 = some (i, e) →
    (tget? (e.px i.ptn).toks (numAt i.body 0 1) = none ∨ numAt i.body 0x10 4 = 0 ∨ 1048576 < numAt i.body 0x10 4 → Sys2Proof.Machine.exec (.tokEncode p) s = .next ⟨e.endItem i cTokInvalid 0, s.pending⟩) ∧
    (∀ pva len n f g h t bs sq b, tget? (e.px i.ptn).toks (numAt i.body 0 1) = some (pva, len) → n = numAt i.body 0x10 4 → n ≠ 0 → n ≤ 1048576 → numAt i.body 0x18 8 % 4 = 0 →
      e.intakeRead i.ptn pva len = (f, .ok (t, false)) → f.intakeRead i.ptn (numAt i.body 8 8) n = (g, .ok (bs, false)) → sq = tkEncode t bs →
      (numAt i.body 0x20 4 < sq.length → Sys2Proof.Machine.exec (.tokEncode p) s = .next ⟨g.endItem i cTokCapacity (min sq.length (2 ^ 24 - 1)), s.pending⟩) ∧
      (sq.length ≤ numAt i.body 0x20 4 → g.intakeWrite i.ptn (numAt i.body 0x18 8) (sq.flatMap (leBytes 4)) = (h, .ok b) →
        Sys2Proof.Machine.exec (.tokEncode p) s = .next ⟨h.endItem i 0 sq.length, s.pending⟩))) ∧
  (∀ (s : State) (p : Fin 25) (i : Item) (e : Dev), s.dev.dueItem p 0x0212 = some (i, e) →
    (tget? (e.px i.ptn).toks (numAt i.body 0 1) = none ∨ numAt i.body 0x10 4 = 0 ∨ 1048576 < numAt i.body 0x10 4 → Sys2Proof.Machine.exec (.tokDecode p) s = .next ⟨e.endItem i cTokInvalid 0, s.pending⟩) ∧
    (∀ pva len n f g h t bs toks out b, tget? (e.px i.ptn).toks (numAt i.body 0 1) = some (pva, len) → n = numAt i.body 0x10 4 → n ≠ 0 → n ≤ 1048576 →
      e.intakeRead i.ptn pva len = (f, .ok (t, false)) → f.intakeRead i.ptn (numAt i.body 8 8) (4 * n) = (g, .ok (bs, false)) →
      toks = (List.range (bs.length / 4)).map (fun k => numAt bs (4 * k) 4) → out = toks.flatMap (tkStr t) →
      ((∀ x ∈ toks, x < tkVocab t) → out.length ≤ numAt i.body 0x20 4 → g.intakeWrite i.ptn (numAt i.body 0x18 8) out = (h, .ok b) →
        Sys2Proof.Machine.exec (.tokDecode p) s = .next ⟨h.endItem i 0 out.length, s.pending⟩) ∧
      ((∀ x ∈ toks, x < tkVocab t) → numAt i.body 0x20 4 < out.length → Sys2Proof.Machine.exec (.tokDecode p) s = .next ⟨g.endItem i cTokCapacity (min out.length (2 ^ 24 - 1)), s.pending⟩) ∧
      (∀ k x, toks[k]? = some x → tkVocab t ≤ x → (∀ j < k, ∀ y, toks[j]? = some y → y < tkVocab t) →
        Sys2Proof.Machine.exec (.tokDecode p) s = .next ⟨g.endItem i cTokInvalid k, s.pending⟩)))

/-- With the media domain ON. A due SESSION_OPEN with good fields whose header can be cleared opens the stream of its body; a bad field answers SESSION_INVALID with its offset. SESSION_CLOSE of an open stream whose turn has no live request frees it; of a stream that is not open it answers STREAM_STATE. AUDIO_IN of 1 to 64 frames from the expected number on adds their samples, advances the expected number and counts the frames; another count answers SESSION_INVALID. FEATURE_FRAME without enough samples changes nothing; with them, on a stream without barge-in, it advances the hop by one. OUTPUT_SCAN with nothing written beyond what was sent only reads the header; with whole frames that may be sent and are not marked, it counts them and advances the output sequence by them. (R319, R320, R321, R323, R324, R325) -/
def Obligations.VoiceStreams : Prop :=
  (∀ (s : State) (p : Fin 25) (i : Item) (e : Dev), s.dev.dueItem p 0x0200 = some (i, e) →
    (e.dom 109 ≠ dsOn → Sys2Proof.Machine.exec (.sessionOpen p) s = .next ⟨(e.demand 109).retryItem i, s.pending⟩) ∧
    (∀ o, e.dom 109 = dsOn → firstBad (e.sessionFields i.ptn i.body) = some o → Sys2Proof.Machine.exec (.sessionOpen p) s = .next ⟨e.endItem i cSessionInvalid o, s.pending⟩) ∧
    (∀ f b, e.dom 109 = dsOn → firstBad (e.sessionFields i.ptn i.body) = none → e.intakeWrite i.ptn (streamOf i.ptn i.body).buf (List.replicate 256 0) = (f, .ok b) →
      ∃ g : Dev, ∃ n : Nat, Sys2Proof.Machine.exec (.sessionOpen p) s = .next ⟨g.endItem i 0 0, s.pending⟩ ∧
        tget? g.streams (numAt i.body 0 2) = some { streamOf i.ptn i.body with polled := n } ∧ (∀ k, k ≠ numAt i.body 0 2 → tget? g.streams k = tget? f.streams k) ∧ g.mem = f.mem)) ∧
  (∀ (s : State) (p : Fin 25) (i : Item) (e : Dev) (k : Nat), s.dev.dueItem p 0x0201 = some (i, e) → k = numAt i.body 0 2 →
    (e.openStream i.ptn k = none → Sys2Proof.Machine.exec (.sessionClose p) s = .next ⟨e.endItem i cStreamState (k % 1024), s.pending⟩) ∧
    (∀ x, e.openStream i.ptn k = some x → (x.stage < 3 ∨ rqLive (e.rq x.entry) = false) →
      ∃ g : Dev, Sys2Proof.Machine.exec (.sessionClose p) s = .next ⟨g.endItem i 0 0, s.pending⟩ ∧ tget? g.streams k = none ∧ (∀ j, j ≠ k → tget? g.streams j = tget? e.streams j) ∧ g.mem = e.mem)) ∧
  (∀ (s : State) (p : Fin 25) (i : Item) (e : Dev) (k : Nat), s.dev.dueItem p 0x0202 = some (i, e) → k = numAt i.body 0 2 →
    (e.openStream i.ptn k = none → Sys2Proof.Machine.exec (.audioIn p) s = .next ⟨e.endItem i cStreamState (k % 1024), s.pending⟩) ∧
    (∀ x b n l, e.openStream i.ptn k = some x → e.mediaHeld k = false → b = audFrame x.fmtIn * audBytes x.fmtIn → n = numAt i.body 2 2 →
      l = (List.range n).flatMap (fun j => audDecode x.fmtIn (bytesAt i.body (8 + j * b) b)) →
      ((n = 0 ∨ 64 < n ∨ i.body.length < 8 + n * b) → Sys2Proof.Machine.exec (.audioIn p) s = .next ⟨e.endItem i cSessionInvalid 2, s.pending⟩) ∧
      (1 ≤ n → n ≤ 64 → 8 + n * b ≤ i.body.length → numAt i.body 4 4 = x.expect → e.scrubbed pMed = false →
        ∃ g : Dev, Sys2Proof.Machine.exec (.audioIn p) s = .next ⟨g.endItem i 0 0, s.pending⟩ ∧
          tget? g.streams k = some { x with kept := x.kept ++ l, total := x.total + l.length, expect := x.expect + n } ∧
          g.reg pMed 0x44 = e.reg pMed 0x44 + BitVec.ofNat 32 n ∧ g.mem = e.mem))) ∧
  (∀ (s : State) (k : Fin 1024) (x : Stream), tget? s.dev.streams k = some x → s.dev.dom 109 = dsOn → x.closing = false → s.dev.mediaHeld k = false →
    (x.total < x.hop * (audRate x.fmtIn / 100) + audRate x.fmtIn / 40 → Sys2Proof.Machine.exec (.featureFrame k) s = .next s) ∧
    (x.hop * (audRate x.fmtIn / 100) + audRate x.fmtIn / 40 ≤ x.total → s.dev.pvaWait x.ptn x.buf 65536 = none → x.barge = false → s.dev.glueRecs = [] →
      ∃ g : Dev, ∃ y : Stream, Sys2Proof.Machine.exec (.featureFrame k) s = .next ⟨g, s.pending⟩ ∧ tget? g.streams k = some y ∧ y.hop = x.hop + 1 ∧ y.total = x.total ∧ y.expect = x.expect) ∧
    (∀ c hd w sent, s.dev.pvaWait x.ptn x.buf 196608 = none → s.dev.engRead x.ptn (x.buf + 0x10) 20 = (c, .ok hd) → w = numAt hd 0 8 → sent = numAt hd 8 8 → bitOf (numAt hd 16 4) 0 = false →
      (w = sent → Sys2Proof.Machine.exec (.outputScan k) s = .next ⟨c, s.pending⟩) ∧
      (∀ n e smp, n = x.mayFrames c.ao (w - sent) → n ≠ 0 → c.ringSamples x sent (n * audFrame x.fmtOut) = (e, some (smp, false)) → e.scrubbed pMed = false →
        ∃ g : Dev, ∃ y : Stream, Sys2Proof.Machine.exec (.outputScan k) s = .next ⟨g, s.pending⟩ ∧ tget? g.streams k = some y ∧ y.outSeq = x.outSeq + n ∧ y.lastNext = false ∧
          g.reg pMed 0x48 = e.reg pMed 0x48 + BitVec.ofNat 32 n)))

/-- For a glue stream of an ACTIVE partition without a turn on an awake device: a READY flag that has not risen only renews what the glue has seen of it. When it has risen, and the template reads without poison, the turn's request is admitted with the history's length and, once admitted, its batch is opened. The first record of a stream, of a live request, is appended to the history and the synthesis ring while the history has room; a stream without records is not changed, nor is one that the glue does not serve. (R326) -/
def Obligations.VoiceSessionGlue : Prop :=
  (∀ (s : State) (k : Fin 1024) (x : Stream), tget? s.dev.streams k = some x → x.glue = true → x.closing = false → s.dev.ptnState x.ptn = stActive → s.dev.awake = true → x.stage = 0 →
    (s.dev.flag (pClu x.ready.unit) x.ready.flag ≤ x.polled → Sys2Proof.Machine.exec (.gluePoll k) s =
      .next ⟨(s.dev.svcRuns x.ptn true).setStream k { x with polled := s.dev.flag (pClu x.ready.unit) x.ready.flag }, s.pending⟩) ∧
    (∀ b c l y z e f t, x.polled < s.dev.flag (pClu x.ready.unit) x.ready.flag → b = s.dev.svcRuns x.ptn true → b.pvaWait x.ptn (x.buf + 0x24) 4 = none →
      b.engRead x.ptn (x.buf + 0x24) 4 = (c, .ok l) → y = { x with polled := s.dev.flag (pClu x.ready.unit) x.ready.flag, stage := 2, histLen := leNat l } →
      (c.setStream k y).intakeRead x.ptn x.tmpl 320 = (e, .ok (t, false)) → f = (e.farEnd (svcReader x.ptn)).glueAdmit k y t → tget? f.streams k = some z → z.stage = 3 →
      Sys2Proof.Machine.exec (.gluePoll k) s = .next ⟨f.glueBatch k z t, s.pending⟩)) ∧
  (∀ (s : State) (k : Fin 1024),
    (tget? s.dev.streams k = none → Sys2Proof.Machine.exec (.gluePoll k) s = .next s) ∧
    (∀ x, tget? s.dev.streams k = some x → (x.glue = false ∨ x.closing = true ∨ s.dev.ptnState x.ptn ≠ stActive ∨ s.dev.awake = false) → Sys2Proof.Machine.exec (.gluePoll k) s = .next s) ∧
    (∀ x, tget? s.dev.streams k = some x → x.glue = true → x.closing = false → s.dev.ptnState x.ptn = stActive → s.dev.awake = true → x.stage = 4 →
      Sys2Proof.Machine.exec (.gluePoll k) s = .next ⟨s.dev.svcRuns x.ptn true, s.pending⟩)) ∧
  (∀ (s : State) (k : Fin 1024) (x : Stream), tget? s.dev.streams k = some x →
    ((∀ r ∈ s.dev.glueRecs, r.strm ≠ k.val) → Sys2Proof.Machine.exec (.glueRecord k) s = .next s) ∧
    (∀ r, (s.dev.glueRecs.find? fun y => y.strm = k.val) = some r → r.state < 5 → s.dev.glueWait x = none → x.released = false → x.histLen + r.toks.length ≤ x.histCap →
      ∃ f : Dev, Sys2Proof.Machine.exec (.glueRecord k) s = .next ⟨f, s.pending⟩ ∧
        tget? f.streams k = some { x with histLen := x.histLen + r.toks.length, synthCount := x.synthCount + r.toks.length } ∧
        (f.glueRecs.filter fun y => y.strm = k.val) = (s.dev.glueRecs.filter fun y => y.strm = k.val).drop 1))

/-- For a due PTN_CREATE: the first check that fails answers with its outcome and INFO and changes nothing else; a body that passes them, with the stack of its translation area answering, is created and answered 0, and is kept as the partition's body. A due PTN_RELEASE of a partition that does not exist or is SCRUBBING answers PTN_STATE, and one with a successor that fails a check its outcome; otherwise it is answered 0, the partition is SCRUBBING, its body stays, its successor is the body given, if any, and its wrapping key is gone. SCRUB_DONE changes nothing unless the partition is SCRUBBING with all its stacks ON; then, with no access held, the partition's page is free and nothing of it is left, or its successor stands. (R331, R332, R344, R346) -/
def Obligations.PartitionsComeAndGo : Prop :=
  (∀ (s : State) (p : Fin 25) (i : Item) (e : Dev), s.dev.dueItem p 0x0100 = some (i, e) →
    (∀ c n, e.createCheck i.body none = some (c, n) → Sys2Proof.Machine.exec (.ptnCreate p) s = .next ⟨e.endItem i c n, s.pending⟩) ∧
    (∀ xa, e.createCheck i.body none = none → xa = stkBase (cbXaStack i.body) + cbXaGranule i.body * 2 ^ 21 → e.memReady xa = false →
      Sys2Proof.Machine.exec (.ptnCreate p) s = .next ⟨(e.memDemand xa).retryItem i, s.pending⟩) ∧
    (e.createCheck i.body none = none → e.memReady (stkBase (cbXaStack i.body) + cbXaGranule i.body * 2 ^ 21) = true →
      ∃ f : Dev, Sys2Proof.Machine.exec (.ptnCreate p) s = .next ⟨f.endItem i 0 0, s.pending⟩ ∧ (f.px (cbPtn (bytesAt i.body 0 80))).body = bytesAt i.body 0 80)) ∧
  (∀ (s : State) (p : Fin 25) (i : Item) (e : Dev) (k : Nat), s.dev.dueItem p 0x0101 = some (i, e) → k = numAt i.body 0 1 →
    ((e.ptnExists k = false ∨ e.st (pPtn k) = psScrubbing) → Sys2Proof.Machine.exec (.ptnRelease p) s = .next ⟨e.endItem i cPtnState (e.ptnStateInfo k), s.pending⟩) ∧
    (e.ptnExists k = true → e.st (pPtn k) ≠ psScrubbing → bitOf (numAt i.body 1 1) 0 = false →
      ∃ f : Dev, Sys2Proof.Machine.exec (.ptnRelease p) s = .next ⟨f.endItem i 0 0, s.pending⟩ ∧ f.px k = { body := (e.px k).body } ∧ tget? f.wkeys k = none ∧ f.st (pPtn k) = psScrubbing) ∧
    (∀ c n, e.ptnExists k = true → e.st (pPtn k) ≠ psScrubbing → bitOf (numAt i.body 1 1) 0 = true → e.createCheck (bytesAt i.body 0x40 80) (some k) = some (c, n) →
      Sys2Proof.Machine.exec (.ptnRelease p) s = .next ⟨e.endItem i c n, s.pending⟩) ∧
    (e.ptnExists k = true → e.st (pPtn k) ≠ psScrubbing → bitOf (numAt i.body 1 1) 0 = true → e.createCheck (bytesAt i.body 0x40 80) (some k) = none →
      ∃ f : Dev, Sys2Proof.Machine.exec (.ptnRelease p) s = .next ⟨f.endItem i 0 0, s.pending⟩ ∧
        f.px k = { body := (e.px k).body, successor := some (bytesAt i.body 0x40 80) } ∧ tget? f.wkeys k = none ∧ f.st (pPtn k) = psScrubbing)) ∧
  (∀ (s : State) (p : Fin 24) (l : List (Fin 800 × Fin 32768 × Fin 288)),
    ((s.dev.st (pPtn p) ≠ psScrubbing ∨ ∃ k ∈ s.dev.ptnStacks p, s.dev.dom (80 + k) ≠ dsOn) → Sys2Proof.Machine.exec (.scrubDone ⟨p, l⟩) s = .next s) ∧
    (s.dev.st (pPtn p) = psScrubbing → s.dev.owner (pPtn p) = p.val → (∀ k ∈ s.dev.ptnStacks p, s.dev.dom (80 + k) = dsOn) → (s.dev.px p).successor = none → s.dev.inOps = [] →
      ∃ f : Dev, Sys2Proof.Machine.exec (.scrubDone ⟨p, l⟩) s = .next ⟨f, s.pending⟩ ∧ f.st (pPtn p) = psFree ∧ f.px p = {}) ∧
    (∀ b, s.dev.st (pPtn p) = psScrubbing → s.dev.owner (pPtn p) = p.val → (∀ k ∈ s.dev.ptnStacks p, s.dev.dom (80 + k) = dsOn) → (s.dev.px p).successor = some b → cbPtn (bytesAt b 0 80) = p.val →
      s.dev.inOps = [] → ∃ f : Dev, Sys2Proof.Machine.exec (.scrubDone ⟨p, l⟩) s = .next ⟨f, s.pending⟩ ∧ (f.px p).body = bytesAt b 0 80 ∧ f.owner (pPtn p) = p.val))

/-- For a due PKG_LOAD of an existing sealed partition in READY, ACTIVE or QUIESCED, without tamper, with a free slot, aligned fields and a readable package whose header stands: either the item ends with PKG_INVALID, PKG_NOT_MEMBER, SIGNATURE_BAD or OWNER_KEY, or the signature of the package is good, its key is the owner's unless the partition has none yet, and the load runs. Of a partition that does not exist or is not sealed it answers PTN_STATE. PKG_LOAD_DONE without a load changes nothing; with one whose memory answers, the load ends with PKG_CHUNK_BAD, POISON_CONSUMED, or with 0 and the package in the slot that INFO names. A due PKG_UNLOAD of an empty slot answers PKG_INVALID; of a slot whose granules answer, 0 with the slot empty. (R339, R340, R341) -/
def Obligations.PackagesLoad : Prop :=
  (∀ (s : State) (p : Fin 25) (i : Item) (e : Dev) (q : Nat), s.dev.dueItem p 0x0110 = some (i, e) → q = numAt i.body 0 1 →
    ((e.ptnExists q = false ∨ e.ptnSealed q = false) → Sys2Proof.Machine.exec (.pkgLoad p) s = .next ⟨e.endItem i cPtnState (e.ptnStateInfo q), s.pending⟩) ∧
    (∀ f g h all, e.ptnExists q = true → e.ptnSealed q = true → (e.st (pPtn q) = stReady ∨ e.st (pPtn q) = stActive ∨ e.st (pPtn q) = stQuiesced) → e.tamperLatched = false →
      (e.px q).pkgs.length < 16 → numAt i.body 8 8 % 4096 = 0 → numAt i.body 0x18 8 % 2 ^ 21 = 0 → numAt i.body 0x20 8 % 2 ^ 21 = 0 →
      e.pvaWait q (numAt i.body 8 8) 256 = none → e.engRead q (numAt i.body 8 8) 256 = (f, .ok h) → pkHeadBad h = none →
      f.pvaWait q (numAt i.body 8 8) (pkSig h + 1280) = none → f.engRead q (numAt i.body 8 8) (pkSig h + 1280) = (g, .ok all) →
      ∃ t : Dev, Sys2Proof.Machine.exec (.pkgLoad p) s = .next ⟨t, s.pending⟩ ∧
        ((∃ c n, (c = cPkgInvalid ∨ c = cPkgNotMember ∨ c = cSignatureBad ∨ c = cOwnerKey) ∧ t = g.endItem i c n) ∨
         ((∃ v ∈ [leNat (shake256 (bytesAt all 0x100 1793) 32)], Config.falconVerify v (all.take (pkSig (bytesAt all 0 256))) (bytesAt all (pkSig (bytesAt all 0 256)) 1280) = true ∧
            (g.ownerKey q = 0 ∨ v = g.ownerKey q)) ∧
          ∃ r, t.sec.run = some r ∧ r.msg = i.msg ∧ r.item = i.item ∧ r.ptn = q ∧ r.pkg = numAt i.body 8 8 ∧ r.dest = numAt i.body 0x18 8 ∧ r.signed = all.take (pkSig (bytesAt all 0 256)))))) ∧
  (∀ (s : State), (s.dev.sec.run = none → Sys2Proof.Machine.exec .pkgLoadDone s = .next s) ∧
    (∀ r, s.dev.sec.run = some r → s.dev.pvaWait r.ptn r.pkg r.pkgBytes = none → s.dev.pvaWait r.ptn r.dest r.destBytes = none →
      ∃ (f : Dev) (c n : Nat), Sys2Proof.Machine.exec .pkgLoadDone s = .next ⟨f.pkgEnds r c n, s.pending⟩ ∧ (c = cPkgChunkBad ∨ c = cPoison ∨ (c = 0 ∧ (tget? (f.px r.ptn).pkgs n).isSome = true)))) ∧
  (∀ (s : State) (p : Fin 25) (i : Item) (e : Dev) (q k : Nat), s.dev.dueItem p 0x0111 = some (i, e) → q = numAt i.body 0 1 → k = numAt i.body 1 1 →
    (e.ptnExists q = false → Sys2Proof.Machine.exec (.pkgUnload p) s = .next ⟨e.endItem i cPtnState (e.ptnStateInfo q), s.pending⟩) ∧
    (e.ptnExists q = true → tget? (e.px q).pkgs k = none → Sys2Proof.Machine.exec (.pkgUnload p) s = .next ⟨e.endItem i cPkgInvalid 1, s.pending⟩) ∧
    (∀ id hash gs, e.ptnExists q = true → tget? (e.px q).pkgs k = some (id, hash, gs) → (∀ a ∈ gs, e.memReady a = true) →
      ∃ f : Dev, Sys2Proof.Machine.exec (.pkgUnload p) s = .next ⟨f.endItem i 0 0, s.pending⟩ ∧ tget? (f.px q).pkgs k = none ∧ (∀ j, j ≠ k → tget? (f.px q).pkgs j = tget? (e.px q).pkgs j)))

/-- Due SEC_IDENTITY and ATTEST in a life-cycle state without device keys answer LC_REFUSED; ATTEST after tamper answers TAMPER_LATCHED, of a number from 24 to 254 PTN_STATE (the model's choice, log entry 227). Otherwise, for an aligned group address in memory of this device that answers, they write 8,192 bytes with both public keys, and 4,096 bytes that hold the nonce, and answer 0; ATTEST counts. SEC_IDENTITY to another device waits for its frames. A due LC_ADVANCE in RETURNED or with a partition answers LC_REFUSED; in state 0 a bad signature answers SIGNATURE_BAD; else, without partitions, the vault is wiped, the state is the next one, the item is answered 0, and a warm device reset follows. TAMPER of no source or without the always-on supply changes nothing; of an armed source with no load and no sealed partition it latches and wipes the vault. (R337, R347, R349, R351) -/
def Obligations.IdentityAndLifeCycle : Prop :=
  (∀ (s : State) (p : Fin 25) (i : Item) (e : Dev), s.dev.dueItem p 0x0121 = some (i, e) →
    (e.hasDevKeys = false → Sys2Proof.Machine.exec (.secIdentity p) s = .next ⟨e.endItem i cLcRefused e.lc, s.pending⟩) ∧
    (∀ a, e.hasDevKeys = true → numAt i.body 0 8 = e.devnum * 2 ^ 44 + a → a < 2 ^ 44 → a % 4096 = 0 → InMemory a (a + 8191) → e.memReady a = true →
      ∃ bs : List Byte, bs.length = 8192 ∧ bytesAt bs 0 1793 = bytesAt e.deriveKeys.sigPub 0 1793 ∧ bytesAt bs 2048 1568 = bytesAt e.deriveKeys.kemPub 0 1568 ∧
        Sys2Proof.Machine.exec (.secIdentity p) s = .next ⟨((e.writeMem agDevice a bs false).1).endItem i 0 0, s.pending⟩) ∧
    (e.hasDevKeys = true → numAt i.body 0 8 % 4096 ≠ 0 → Sys2Proof.Machine.exec (.secIdentity p) s = .next ⟨e.endItem i cXlatePerm 0, s.pending⟩) ∧
    (e.hasDevKeys = true → numAt i.body 0 8 % 4096 = 0 → numAt i.body 0 8 / 2 ^ 44 < 64 → numAt i.body 0 8 / 2 ^ 44 ≠ e.devnum →
      ∃ (f : Dev) (l : List Nat), Sys2Proof.Machine.exec (.secIdentity p) s = .next ⟨f, s.pending⟩ ∧ f.replyWaits = e.replyWaits ++ [(l, i.msg, i.item)] ∧ f.mem = e.mem)) ∧
  (∀ (s : State) (p : Fin 25) (i : Item) (e : Dev) (q : Nat), s.dev.dueItem p 0x0120 = some (i, e) → q = numAt i.body 0 1 →
    (e.hasDevKeys = false → Sys2Proof.Machine.exec (.attest p) s = .next ⟨e.endItem i cLcRefused e.lc, s.pending⟩) ∧
    (e.hasDevKeys = true → e.tamperLatched = true → Sys2Proof.Machine.exec (.attest p) s = .next ⟨e.endItem i cTamperLatched 0, s.pending⟩) ∧
    (e.hasDevKeys = true → e.tamperLatched = false → q ≠ 0xFF → 23 < q → Sys2Proof.Machine.exec (.attest p) s = .next ⟨e.endItem i cPtnState (e.ptnStateInfo q), s.pending⟩) ∧
    (∀ g a, e.hasDevKeys = true → e.tamperLatched = false → (q = 0xFF ∨ q < 24) → g = e.freshKeys → numAt i.body 0x28 8 = g.devnum * 2 ^ 44 + a → a < 2 ^ 44 → a % 4096 = 0 →
      InMemory a (a + 4095) → g.memReady a = true →
      ∃ bs : List Byte, bs.length = 4096 ∧ bytesAt bs 8 32 = bytesAt i.body 8 32 ∧
        Sys2Proof.Machine.exec (.attest p) s = .next ⟨((g.writeMem agDevice a bs false).1.addCount pSec 0x54 1).endItem i 0 0, s.pending⟩)) ∧
  (∀ (s : State) (p : Fin 25) (i : Item) (e : Dev), s.dev.dueItem p 0x0130 = some (i, e) →
    ((e.lc = 3 ∨ ∃ k < 24, e.ptnExists k = true) → Sys2Proof.Machine.exec (.lcAdvance p) s = .next ⟨e.endItem i cLcRefused e.lc, s.pending⟩) ∧
    (e.lc = 0 → (∀ k < 24, e.ptnExists k = false) → Config.falconVerify Config.provKeyHash Config.fuseId (bytesAt i.body 0 1280) = false →
      Sys2Proof.Machine.exec (.lcAdvance p) s = .next ⟨e.endItem i cSignatureBad 1, s.pending⟩) ∧
    (e.lc < 3 → (∀ k < 24, e.ptnExists k = false) → (e.lc = 0 → Config.falconVerify Config.provKeyHash Config.fuseId (bytesAt i.body 0 1280) = true) →
      ∃ f : Dev, Sys2Proof.Machine.exec (.lcAdvance p) s = .next ⟨(f.endItem i 0 0).flushEvents.warmReset, s.pending⟩ ∧ f.lc = e.lc + 1 ∧ f.wkeys = [] ∧ f.sec.keys = none)) ∧
  (∀ (s : State) (src : BitVec 5),
    ((src = 0 ∨ s.dev.pwr.up = false) → Sys2Proof.Machine.exec (.tamper src) s = .next s) ∧
    (src ≠ 0 → s.dev.pwr.up = true → s.dev.sec.disarmed = false → s.dev.sec.run = none → (∀ k < 24, s.dev.ptnSealed k = false) →
      ∃ f : Dev, Sys2Proof.Machine.exec (.tamper src) s = .next ⟨f, s.pending⟩ ∧ f.tamperLatched = true ∧ f.wkeys = [] ∧ f.sec.keys = none ∧
        f.getF pSec 0x44 4 0 = s.dev.getF pSec 0x44 4 0 ||| src.toNat))

/-- A due UPDATE_IMAGE that meets a condition of R410 is answered by it. A chunk that is not the last appends its bytes to the inactive copy and opens the sequence up to its end. The last chunk, without INSTALL, closes the sequence and is answered by the checks of the image; answered 0, the copy is active and in trial. INSTALL_UNIT_SWAP without an install, or before the unit's condition holds, changes nothing; otherwise the unit counts as swapped, or the install ends. A due BOOT_SELECT of a known kind is answered 0 by its command: COMMIT ends the trial; REVERT takes the other copy if it passes its checks and is refused otherwise; RAISE_SVN raises the minimum to the active copy's, and is refused in trial; REVOKE_KEY0 revokes key 0 unless an active copy rests on it. (R410, R411, R412) -/
def Obligations.ImagesAreUpdated : Prop :=
  (∀ (s : State) (p : Fin 25) (i : Item) (e g : Dev) (k c : Nat), s.dev.dueItem p 0x0180 = some (i, e) → g = e.freshRecord → k = numAt i.body 0 1 → c = 1 - g.activeCopy k →
    (∀ x, g.updRefused i.body = some x → Sys2Proof.Machine.exec (.updateImage p) s = .next ⟨g.endItem i x.1 x.2, s.pending⟩) ∧
    (g.updRefused i.body = none → bitOf (numAt i.body 1 1) 1 = false →
      ∃ f : Dev, Sys2Proof.Machine.exec (.updateImage p) s = .next ⟨f.endItem i 0 0, s.pending⟩ ∧ f.boot.upd = some ⟨k, numAt i.body 4 4 + numAt i.body 8 4⟩ ∧
        tget? f.boot.images (16 * c + k) = some ((if bitOf (numAt i.body 1 1) 0 = true then [] else tgetD g.boot.images (16 * c + k) []) ++ bytesAt i.body 16 (numAt i.body 8 4)) ∧
        f.curRec = g.curRec) ∧
    (g.updRefused i.body = none → bitOf (numAt i.body 1 1) 1 = true → bitOf (numAt i.body 1 1) 2 = false → g.boot.recs.length = 2 → g.curRec.isSome = true →
      ∃ (f : Dev) (x n : Nat), Sys2Proof.Machine.exec (.updateImage p) s = .next ⟨f.endItem i x n, s.pending⟩ ∧ f.boot.upd = none ∧
        ((x = 0 ∧ f.activeCopy k = c ∧ f.inTrial k = true) ∨ ((x = cImageBad ∨ x = cImageRollback) ∧ f.curRec = g.curRec)))) ∧
  (∀ (s : State) (l : List (Fin 320)), (s.dev.boot.inst = none → Sys2Proof.Machine.exec (.installUnitSwap l) s = .next s) ∧
    (∀ i, s.dev.boot.inst = some i → s.dev.instNext i.kind i.next = none → Sys2Proof.Machine.exec (.installUnitSwap l) s = .next ⟨s.dev.endInstall i, s.pending⟩) ∧
    (∀ i n, s.dev.boot.inst = some i → s.dev.instNext i.kind i.next = some n → s.dev.instWhen i.kind n = false → Sys2Proof.Machine.exec (.installUnitSwap l) s = .next s) ∧
    (∀ i n, s.dev.boot.inst = some i → s.dev.instNext i.kind i.next = some n → s.dev.instWhen i.kind n = true →
      ∃ f : Dev, f.boot.inst = some ⟨i.kind, n + 1, i.swapped + 1⟩ ∧
        (Sys2Proof.Machine.exec (.installUnitSwap l) s = .next ⟨f, s.pending⟩ ∨ Sys2Proof.Machine.exec (.installUnitSwap l) s = .next ⟨f.endInstall ⟨i.kind, n + 1, i.swapped + 1⟩, s.pending⟩))) ∧
  (∀ (s : State) (p : Fin 25) (i : Item) (e : Dev) (k : Nat), s.dev.dueItem p 0x0181 = some (i, e) → k = numAt i.body 0 1 → k ≤ 10 → e.boot.recs.length = 2 → e.curRec.isSome = true →
    (numAt i.body 1 1 = 0 → k ≠ 0 → ∃ f : Dev, Sys2Proof.Machine.exec (.bootSelectCommit p) s = .next ⟨f.endItem i 0 0, s.pending⟩ ∧ f.inTrial k = false ∧ f.activeCopy k = e.activeCopy k) ∧
    (numAt i.body 1 1 = 1 → k ≠ 0 → (∃ x, e.imgCheck (1 - e.activeCopy k) k = some x ∧ Sys2Proof.Machine.exec (.bootSelectRevert p) s = .next ⟨e.endItem i cUpdateInvalid 4, s.pending⟩) ∨
      (∃ f : Dev, e.imgCheck (1 - e.activeCopy k) k = none ∧ Sys2Proof.Machine.exec (.bootSelectRevert p) s = .next ⟨f.endItem i 0 0, s.pending⟩ ∧ f.inTrial k = false ∧ f.activeCopy k = 1 - e.activeCopy k)) ∧
    (numAt i.body 1 1 = 2 → k ≠ 0 → (e.inTrial k = true → Sys2Proof.Machine.exec (.bootSelectRaiseSvn p) s = .next ⟨e.endItem i cUpdateInvalid 4, s.pending⟩) ∧
      (e.inTrial k = false → ∃ f : Dev, Sys2Proof.Machine.exec (.bootSelectRaiseSvn p) s = .next ⟨f.endItem i 0 0, s.pending⟩ ∧
        f.svnMin k = max (e.svnMin k) (min 63 (imgSvn (e.imageAt (e.activeCopy k) k))))) ∧
    (numAt i.body 1 1 = 3 → (∃ j < 10, keySlotIs (e.imageAt (e.activeCopy (j + 1)) (j + 1)) 0 = true ∧ Sys2Proof.Machine.exec (.bootSelectRevokeKey0 p) s = .next ⟨e.endItem i cUpdateInvalid 4, s.pending⟩) ∨
      (∃ f : Dev, (∀ j < 10, keySlotIs (e.imageAt (e.activeCopy (j + 1)) (j + 1)) 0 = false) ∧ Sys2Proof.Machine.exec (.bootSelectRevokeKey0 p) s = .next ⟨f.endItem i 0 0, s.pending⟩ ∧ 0 ∈ f.boot.revoked)))

/-- ECC_REREAD without a finding, of a stack that is not ON, of a channel that is not read or of a poisoned burst changes nothing; otherwise, of a burst without injected error, it is an error event: corrected ones count, permanent for a fault of a symbol; an uncorrectable one counts, permanent when no re-read was good and then with the burst poisoned, else transient with no poison added. REPAIR_DONE of a repair that does not run changes nothing; of one that runs, the repair is over, its row or column is mapped, bursts that stayed uncorrectable are poisoned, and no byte of memory changes. GRANULE_COPY_DONE of a granule that does not move changes nothing; with no other granule waiting the remap table redirects it. ROW_HISTORY_EXPIRY drops exactly the entries of the channel that are 24 h old. PATROL_READ does nothing while the patrol is off; a clean burst advances the channel's position alone. LINE_REPLACEMENT leaves every other die-cache line. FLIP_ARM with an in-range bit number arms a channel's flip. (R359, R360, R363, R370, R372, R378) -/
def Obligations.MemoryErrorsAreHandled : Prop :=
  (∀ (s : State) (k : Fin 24) (c : Fin 32) (q : BitVec 26) (n : Fin 4) (o : Option (Fin 3)) (h : Option Nat), h = s.dev.dpaAt (burstDpa k c q.toNat) →
    ((n = 0 ∨ s.dev.dom (80 + k) ≠ dsOn ∨ s.dev.chanRead k c q.toNat = false ∨ ∃ x, h = some x ∧ s.dev.markedAt x 64 = true) → Sys2Proof.Machine.exec (.eccReread k c q ⟨n, o⟩) s = .next s) ∧
    (s.dev.dom (80 + k) = dsOn → s.dev.chanRead k c q.toNat = true → (∀ x, h = some x → s.dev.markedAt x 64 = false ∧ s.dev.injected.contains x = false) →
      ((n = 1 ∨ n = 2) → ∃ f : Dev, Sys2Proof.Machine.exec (.eccReread k c q ⟨n, o⟩) s = .next ⟨f.errEvent k c q.toNat (decide (n = 2)), s.pending⟩ ∧ f.mem = s.dev.mem ∧ f.marks = s.dev.marks ∧
        (s.dev.scrubbed (pStk k 2) = false → f.reg (pStk k 2) 0x4C = s.dev.reg (pStk k 2) 0x4C + 1)) ∧
      (n = 3 → ∃ f : Dev, Sys2Proof.Machine.exec (.eccReread k c q ⟨n, o⟩) s = .next ⟨f.errEvent k c q.toNat o.isNone, s.pending⟩ ∧ f.mem = s.dev.mem ∧
        (o = none → ∀ x, h = some x → f.markedAt x 64 = true) ∧ (o ≠ none → f.marks = s.dev.marks) ∧
        (s.dev.scrubbed (pStk k 2) = false → f.reg (pStk k 2) 0x50 = s.dev.reg (pStk k 2) 0x50 + 1)))) ∧
  (∀ (s : State) (k : Fin 24) (c : Fin 32) (n : BitVec 21) (col : Bool) (l : List (BitVec 26)), s.dev.inOps = [] →
    ((∀ r ∈ (s.dev.stk k).repairs, ¬(r.column = col ∧ r.chan = c.val ∧ r.num = n.toNat)) → Sys2Proof.Machine.exec (.repairDone k c n ⟨col, l⟩) s = .next s) ∧
    ((∃ r ∈ (s.dev.stk k).repairs, r.column = col ∧ r.chan = c.val ∧ r.num = n.toNat) → s.dev.errs = [] →
      ∃ f : Dev, Sys2Proof.Machine.exec (.repairDone k c n ⟨col, l⟩) s = .next ⟨f, s.pending⟩ ∧ (∀ r ∈ (f.stk k).repairs, ¬(r.column = col ∧ r.chan = c.val ∧ r.num = n.toNat)) ∧
        (col = false → (f.stk k).rowsFixed = (s.dev.stk k).rowsFixed ++ [(c.val, n.toNat)] ∧ (f.stk k).colsFixed = (s.dev.stk k).colsFixed) ∧
        (col = true → (f.stk k).colsFixed = (s.dev.stk k).colsFixed ++ [(c.val, n.toNat)] ∧ (f.stk k).rowsFixed = (s.dev.stk k).rowsFixed) ∧ f.mem = s.dev.mem ∧ f.csr = s.dev.csr ∧
        (∀ q ∈ l, (if col then bankOf (rowOf q.toNat) else rowOf q.toNat) = n.toNat → ∀ x, s.dev.dpaAt (burstDpa k c q.toNat) = some x → f.markedAt x 64 = true) ∧
        (l = [] → f.marks = s.dev.marks))) ∧
  (∀ (s : State) (k : Fin 24) (g : BitVec 16) (l : List (Fin 32768)), s.dev.inOps = [] →
    ((∀ m ∈ (s.dev.stk k).moving, m.from_ ≠ g.toNat) → Sys2Proof.Machine.exec (.granuleCopyDone k ⟨g, l⟩) s = .next s) ∧
    (∀ m, (s.dev.stk k).moving = [m] → m.from_ = g.toNat → (s.dev.stk k).toMove = [] → s.dev.errs = [] →
      ∃ f : Dev, Sys2Proof.Machine.exec (.granuleCopyDone k ⟨g, l⟩) s = .next ⟨f, s.pending⟩ ∧ tget? (f.stk k).remap g.toNat = some m.to_ ∧ (f.stk k).moving = [])) ∧
  (∀ (s : State) (k : Fin 24) (c : Fin 32), ∃ f : Dev, Sys2Proof.Machine.exec (.rowHistoryExpiry k c) s = .next ⟨f, s.pending⟩ ∧ f.mem = s.dev.mem ∧ f.csr = s.dev.csr ∧
    ∀ h, h ∈ (f.stk k).hist ↔ h ∈ (s.dev.stk k).hist ∧ (h.chan = c.val → s.dev.ao < h.at_ + 4320000000000)) ∧
  (∀ (s : State) (k : Fin 24) (c : Fin 32) (o : Option (Fin 3)),
    (∀ n, s.dev.bit (pStk k 2) 0x40 0 = false → Sys2Proof.Machine.exec (.patrolRead k c n o) s = .next s) ∧
    (s.dev.bit (pStk k 2) 0x40 0 = true → s.dev.dom (80 + k) = dsOn → s.dev.chanIn k c = true → s.dev.errs = [] →
      ∃ f : Dev, Sys2Proof.Machine.exec (.patrolRead k c 0 o) s = .next ⟨f, s.pending⟩ ∧ tgetD (f.stk k).patrol c 0 = (tgetD (s.dev.stk k).patrol c 0 + 1) % 2 ^ 26 ∧
        f.mem = s.dev.mem ∧ f.marks = s.dev.marks ∧ f.csr = s.dev.csr)) ∧
  (∀ (s : State) (die : Fin 8) (p : Fin 256) (b : BitVec 38), ∃ f : Dev, Sys2Proof.Machine.exec (.lineReplacement die p b) s = .next ⟨f, s.pending⟩ ∧
    ∀ l, l ∈ f.lines ↔ l ∈ s.dev.lines ∧ ¬(l.die = die.val ∧ l.ptn = p.val ∧ l.burst = b.toNat)) ∧
  (∀ (s : State) (r : Role) (t : Fin 1568) (v : BitVec 32) (pg : Page) (off hi arm last : Nat),
    ((t.val < 768 ∧ pg = pStk (t.val / 32) 2 ∧ off = 0x104 + 8 * (t.val % 32) ∧ hi = 9 ∧ arm = 22 ∧ last = 575) ∨
     (768 ≤ t.val ∧ pg = pClu (t.val - 768) ∧ off = 0x498 ∧ hi = 8 ∧ arm = 20 ∧ last = 287)) → s.dev.Takes r pg → s.dev.Ranks r pg off →
    ∃ f : Dev, Sys2Proof.Machine.exec (.flipArm r t v) s = .next ⟨f, s.pending⟩ ∧ (wbit v arm = true → f.bit pg off arm = true) ∧ f.mem = s.dev.mem ∧
      (wfld v hi 0 ≤ last → f.getF pg off hi 0 = wfld v hi 0) ∧ (last < wfld v hi 0 → f.getF pg off hi 0 = s.dev.getF pg off hi 0 ∧ f.bit pg 0x10 evInvalid = true))

/-- A due UNIT_RETIRE that names no unit in service answers UNIT_STATE; one that names a unit in service is answered 0: a core without a tile and a cluster are then out of service, a core with one retires at its end. A due UNIT_READMIT that names no retired unit answers UNIT_STATE; of a retired one its test stands. READMIT_TEST_DONE without a test, or before the unit's domain is ON, changes nothing; the test of a core without failures is answered 0 with the core in service; with failures READMIT_FAILED with their number, the core still out of service; so too of a cluster; the test of any other unit is answered. (R376, R377) -/
def Obligations.UnitsRetireAndReturn : Prop :=
  (∀ (s : State) (p : Fin 25) (i : Item) (e : Dev) (k u c : Nat), s.dev.dueItem p 0x0140 = some (i, e) → k = numAt i.body 0 1 → u = numAt i.body 2 2 → c = numAt i.body 4 1 →
    ((unitExists k u c = false ∨ e.unitIn k u c = false ∨ (k = 0 ∧ (e.core u c).retiring = true)) → Sys2Proof.Machine.exec (.unitRetire p) s = .next ⟨e.endItem i cUnitState (k % 4), s.pending⟩) ∧
    (unitExists k u c = true → e.unitIn k u c = true → (k = 0 → (e.core u c).retiring = false) → ∃ f : Dev, Sys2Proof.Machine.exec (.unitRetire p) s = .next ⟨f.endItem i 0 0, s.pending⟩ ∧
      (k = 0 → (e.core u c).tile = none → f.coreIn u c = false) ∧ (k = 0 → (e.core u c).tile ≠ none → (f.core u c).retiring = true) ∧ (k = 1 → (f.clu u).retired = true))) ∧
  (∀ (s : State) (p : Fin 25) (i : Item) (e : Dev) (k u c : Nat), s.dev.dueItem p 0x0141 = some (i, e) → k = numAt i.body 0 1 → u = numAt i.body 2 2 → c = numAt i.body 4 1 →
    ((unitExists k u c = false ∨ e.unitIn k u c = true) → Sys2Proof.Machine.exec (.unitReadmit p) s = .next ⟨e.endItem i cUnitState (k % 4), s.pending⟩) ∧
    (unitExists k u c = true → e.unitIn k u c = false → ∃ f : Dev, Sys2Proof.Machine.exec (.unitReadmit p) s = .next ⟨f, s.pending⟩ ∧ f.readmit = some ⟨i.msg, i.item, k, u, c⟩)) ∧
  (∀ (s : State) (rows : List (Fin 2097152)) (n : Nat), (s.dev.readmit = none → Sys2Proof.Machine.exec (.readmitTestDone rows n) s = .next s) ∧
    (∀ r, s.dev.readmit = some r → s.dev.dom (if r.kind ≤ 1 then r.unit / 10 else if r.kind = 2 then 80 + r.unit else 104 + r.unit / 4) ≠ dsOn →
      Sys2Proof.Machine.exec (.readmitTestDone rows n) s = .next s) ∧
    (∀ r, s.dev.readmit = some r → s.dev.dom (if r.kind ≤ 1 then r.unit / 10 else if r.kind = 2 then 80 + r.unit else 104 + r.unit / 4) = dsOn →
      ∃ (f : Dev) (x m : Nat), Sys2Proof.Machine.exec (.readmitTestDone rows n) s = .next ⟨f.post r.msg r.item x m, s.pending⟩ ∧ (x = 0 ∨ x = cReadmitFailed) ∧
        (r.kind = 0 → r.unit < 800 → r.sub < 32 → (n = 0 → x = 0 ∧ f.coreIn r.unit r.sub = true) ∧ (n ≠ 0 → x = cReadmitFailed ∧ f.coreIn r.unit r.sub = s.dev.coreIn r.unit r.sub)) ∧
        (r.kind = 1 → (n = 0 → x = 0 ∧ (f.clu r.unit).retired = false) ∧ (n ≠ 0 → x = cReadmitFailed ∧ (f.clu r.unit).retired = (s.dev.clu r.unit).retired))))

/-- ROUND_END on a running device counts one round and changes no byte of memory. CLOCK_STEP_APPLY gives the die's clock its step. LEHR_FORCE during a stop changes nothing; without one, on an ACTIVE device, a forced stop begins. LEHR_CLEAR before the stop is complete or calm sets INVALID_WRITE; else the stop is over and every die is at step 16. LEHR_WAIT_EXPIRY before its time changes nothing; after it the partition has no step. LEHR_EVICT changes nothing before the steps are over; then the stop is in its second stage, compute domains go off and stacks to sleep. LEHR_DONE does nothing but in that stage; once no domain is on the stop is complete. GOVERNOR_SAMPLE keeps the last 2,000 samples; one above the peak lowers the governor step by one, to no less than 8. (R388, R389, R391, R393, R396) -/
def Obligations.LehrStopAndGovernor : Prop :=
  (∀ (s : State) (vals : List (Option (BitVec 16))),
    ((s.dev.pwr.up = false ∨ s.dev.boot.released = false) → Sys2Proof.Machine.exec (.roundEnd vals) s = .next s) ∧
    (s.dev.pwr.up = true → s.dev.boot.released = true → s.dev.scrubbed pThm = false →
      ∃ f : Dev, Sys2Proof.Machine.exec (.roundEnd vals) s = .next ⟨f, s.pending⟩ ∧ f.reg pThm 0x60 = s.dev.reg pThm 0x60 + 1 ∧ f.mem = s.dev.mem)) ∧
  (∀ (s : State) (e : Fin 8), ∃ f : Dev, Sys2Proof.Machine.exec (.clockStepApply e) s = .next ⟨f, s.pending⟩ ∧ tgetD f.thm.clock e 16 = s.dev.kOf e ∧ f.mem = s.dev.mem) ∧
  (∀ (s : State) (r : Role), s.dev.Takes r pThm →
    (s.dev.lehr ≠ 0 → Sys2Proof.Machine.exec (.lehrForce r) s = .next ⟨s.dev.answer 0, s.pending⟩) ∧
    (s.dev.lehr = 0 → s.dev.devPower = 0 →
      ∃ f : Dev, Sys2Proof.Machine.exec (.lehrForce r) s = .next ⟨f, s.pending⟩ ∧ f.lehr = 1 ∧ f.thm.lehrStage = 1 ∧ f.thm.lehrCause = 2 ∧ f.thm.lehrAt = s.dev.ao ∧ f.mem = s.dev.mem) ∧
    ((s.dev.lehr ≠ 2 ∨ s.dev.allCalm = false) → Sys2Proof.Machine.exec (.lehrClear r) s = .next ⟨(s.dev.invalid pThm).answer 0, s.pending⟩) ∧
    (s.dev.lehr = 2 → s.dev.allCalm = true →
      ∃ f : Dev, Sys2Proof.Machine.exec (.lehrClear r) s = .next ⟨f.pump.answer 0, s.pending⟩ ∧ f.lehr = 0 ∧ ∀ e < 8, f.thermal e = 16)) ∧
  (∀ (s : State) (p : Fin 24),
    ((s.dev.lehr ≠ 1 ∨ (s.dev.px p).step = none ∨ s.dev.ao < s.dev.thm.lehrAt + s.dev.getF pThm 0x50 23 0) → Sys2Proof.Machine.exec (.lehrWaitExpiry p) s = .next s) ∧
    (s.dev.lehr = 1 → s.dev.thm.lehrStage = 1 → (s.dev.px p).step ≠ none → s.dev.thm.lehrAt + s.dev.getF pThm 0x50 23 0 ≤ s.dev.ao →
      ∃ f : Dev, Sys2Proof.Machine.exec (.lehrWaitExpiry p) s = .next ⟨f, s.pending⟩ ∧ (f.px p).step = none)) ∧
  (∀ (s : State),
    ((s.dev.lehr ≠ 1 ∨ s.dev.thm.lehrStage ≠ 1 ∨ ∃ x ∈ s.dev.ptnx, x.2.step ≠ none) → Sys2Proof.Machine.exec .lehrEvict s = .next s) ∧
    (s.dev.lehr = 1 → s.dev.thm.lehrStage = 1 → (∀ x ∈ s.dev.ptnx, x.2.step = none) →
      ∃ f : Dev, Sys2Proof.Machine.exec .lehrEvict s = .next ⟨(f.each (List.range 80) fun d n => d.powerOff n).lehrStacks, s.pending⟩ ∧ f.thm.lehrStage = 2) ∧
    ((s.dev.lehr ≠ 1 ∨ s.dev.thm.lehrStage ≠ 2) → Sys2Proof.Machine.exec .lehrDone s = .next s) ∧
    (s.dev.lehr = 1 → s.dev.thm.lehrStage = 2 → (∀ n < 104, s.dev.dom n ≠ dsOn ∧ s.dev.dom n ≠ dsWaking) →
      ∃ f : Dev, Sys2Proof.Machine.exec .lehrDone s = .next ⟨f, s.pending⟩ ∧ f.lehr = 2 ∧ f.thm.lehrStage = 0 ∧ f.mem = s.dev.mem)) ∧
  (∀ (s : State) (v1 v2 i1 i2 : BitVec 16) (p : Nat), p = (v1.toNat + v2.toNat) * (i1.toNat + i2.toNat) * 5 →
    ((s.dev.pwr.up = false ∨ s.dev.boot.released = false ∨ s.dev.thm.skip = true) → Sys2Proof.Machine.exec (.governorSample v1 v2 i1 i2) s = .next s) ∧
    (s.dev.pwr.up = true → s.dev.boot.released = true → s.dev.thm.skip = false →
      ∃ f : Dev, Sys2Proof.Machine.exec (.governorSample v1 v2 i1 i2) s = .next ⟨f, s.pending⟩ ∧ f.thm.samples = (p :: s.dev.thm.samples).take 2000 ∧ f.mem = s.dev.mem ∧
        (s.dev.getF pThm 0x54 19 10 * 10000000 < p → f.govStep = if 8 < s.dev.govStep then s.dev.govStep - 1 else s.dev.govStep)))

/-- ANALOGUE_TRIP without supply changes nothing; with it the trip is latched, the first comparator is kept, and starts are held. TRIP_RESET_HOLD_RELEASE without a held start ends the hold alone; with one the start begins. INPUT_LOW is latched at its onset and recorded; INPUT_LOW_END ends it alone. POWER_FAIL takes the supply away: no memory and no register but what resets keep is left, and a start is due at the next supply. POWER_ON brings the supply up and changes nothing else. Power-on reset released, the count starts at 0 and the start begins, unless the device has started, RESET_L is low or a start is held; while a comparator is hot it is held. MODULE_RESET takes every domain down and waits for RESET_L, whose release begins the start unless the device has started, has no supply or a start is held. (R392, R424, R426, R427, R455) -/
def Obligations.SupplyAndResetInputs : Prop :=
  (∀ (s : State) (c : Fin 32), (s.dev.pwr.up = false → Sys2Proof.Machine.exec (.analogueTrip c) s = .next s) ∧
    (s.dev.pwr.up = true → s.dev.tripped = false →
      ∃ f : Dev, Sys2Proof.Machine.exec (.analogueTrip c) s = .next ⟨f.allOff_, s.pending⟩ ∧ f.tripped = true ∧ f.getF pThm 0x5C 4 0 = c.val ∧ f.thm.holding = true ∧ f.thm.report = some c.val ∧ f.devPower = 0)) ∧
  (∀ (s : State),
    (s.dev.boot.waiting = 0 → Sys2Proof.Machine.exec .tripResetHoldRelease s = .next ⟨{ s.dev with thm := { s.dev.thm with holding := false } }, s.pending⟩) ∧
    (s.dev.boot.waiting ≠ 0 → ∃ f : Dev, Sys2Proof.Machine.exec .tripResetHoldRelease s = .next ⟨f.start, s.pending⟩ ∧ f.thm.holding = false ∧ f.ao = (if s.dev.boot.waiting = 1 then s.dev.ao else 0))) ∧
  (∀ (s : State) (mv : BitVec 16), (s.dev.pwr.up = false → Sys2Proof.Machine.exec (.inputLow mv) s = .next s) ∧
    (s.dev.pwr.up = true → s.dev.bit pPwr 0x50 0 = false →
      ∃ f : Dev, Sys2Proof.Machine.exec (.inputLow mv) s = .next ⟨f, s.pending⟩ ∧ f.bit pPwr 0x50 0 = true ∧ f.pwr.lowAt = s.dev.ao ∧
        f.events = s.dev.events ++ [⟨0xFF, s.dev.ao, 0x0148, leBytes 4 mv.toNat⟩]) ∧
    (s.dev.pwr.up = true → s.dev.bit pPwr 0x50 0 = true → s.dev.ao < s.dev.pwr.lowAt + 50000 → Sys2Proof.Machine.exec (.inputLow mv) s = .next s)) ∧
  (∀ (s : State), ∃ f : Dev, Sys2Proof.Machine.exec .inputLowEnd s = .next ⟨f, s.pending⟩ ∧ f.bit pPwr 0x50 0 = false ∧ s.dev.RegsOnly f ∧ f.SameRegsBut s.dev pPwr [0x50]) ∧
  (∀ (s : State), (s.dev.pwr.up = false → Sys2Proof.Machine.exec .powerFail s = .next s) ∧
    (s.dev.pwr.up = true → ∃ f : Dev, Sys2Proof.Machine.exec .powerFail s = .next ⟨f, s.pending⟩ ∧ f.pwr.up = false ∧ f.boot.released = false ∧ f.mem = [] ∧ f.jobs = [] ∧ f.work = [] ∧
      f.boot.images = s.dev.boot.images ∧ f.boot.recs = s.dev.boot.recs) ∧
    (s.dev.pwr.up = true → Sys2Proof.Machine.exec .powerOn s = .next s) ∧
    (s.dev.pwr.up = false → Sys2Proof.Machine.exec .powerOn s = .next ⟨{ s.dev with pwr := { s.dev.pwr with up := true } }, s.pending⟩)) ∧
  (∀ (s : State),
    ((s.dev.pwr.up = false ∨ s.dev.boot.released = true ∨ s.dev.boot.resetLow = true ∨ s.dev.boot.waiting ≠ 0) → Sys2Proof.Machine.exec .powerOnResetRelease s = .next s) ∧
    (∀ d : Dev, s.dev.pwr.up = true → s.dev.boot.released = false → s.dev.boot.resetLow = false → s.dev.boot.waiting = 0 → d = { s.dev with ao := 0, sec := { s.dev.sec with disarmed := false } } →
      (s.dev.thm.holding = false → Sys2Proof.Machine.exec .powerOnResetRelease s = .next ⟨d.start, s.pending⟩) ∧
      (s.dev.thm.holding = true → Sys2Proof.Machine.exec .powerOnResetRelease s = .next ⟨{ d with boot := { d.boot with waiting := 2 } }, s.pending⟩)) ∧
    (s.dev.pwr.up = true → ∃ f : Dev, Sys2Proof.Machine.exec .moduleReset s = .next ⟨f, s.pending⟩ ∧ f.boot.resetLow = true ∧ f.boot.released = false ∧ f.sec.disarmed = true ∧ f.mem = [] ∧
      f.dom 0 = dsOff ∧ f.boot.recs = s.dev.boot.recs) ∧
    (s.dev.boot.resetLow = false → Sys2Proof.Machine.exec .resetLRelease s = .next s) ∧
    (∀ d : Dev, s.dev.boot.resetLow = true → d = { s.dev with boot := { s.dev.boot with resetLow := false } } →
      ((s.dev.pwr.up = false ∨ s.dev.boot.released = true ∨ s.dev.boot.waiting ≠ 0) → Sys2Proof.Machine.exec .resetLRelease s = .next ⟨d, s.pending⟩) ∧
      (s.dev.pwr.up = true → s.dev.boot.released = false → s.dev.boot.waiting = 0 → s.dev.thm.holding = false →
        Sys2Proof.Machine.exec .resetLRelease s = .next ⟨({ d with ao := 0, sec := { d.sec with disarmed := false } } : Dev).start, s.pending⟩)))

/-- Without a start under way STAGE_COMPLETE, STAGE_TIMEOUT and STAGE_FAULT change nothing. A stage other than 4 and 6 runs the images of its kinds: if each has a copy that passes, the next stage begins and STAGE reads its number, else the start fails with the code of the first that has none. Stage 4 waits for the domains. Stage 6 waits for the units; then the start is complete and STAGE reads 7. A stage within its bound does not time out; beyond it, or on a fault, the start fails. A due FRIT_REQUEST sets FRIT_FORCE, is answered 0, and a warm device reset follows. FRIT_EXIT outside frit mode answers UPDATE_INVALID with INFO 6; in it ATTEMPTS and FRIT_FORCE clear and a warm device reset follows. A permitted read of BOOT_REC_WINDOW answers the word of the selected block. (R402, R404, R405, R409, R411, R418) -/
def Obligations.TheStartGoesStageByStage : Prop :=
  (∀ (s : State) (c : BitVec 16), s.dev.stage = none →
    Sys2Proof.Machine.exec .stageComplete s = .next s ∧ Sys2Proof.Machine.exec .stageTimeout s = .next s ∧ Sys2Proof.Machine.exec (.stageFault c) s = .next s) ∧
  (∀ (s : State) (n : Nat), s.dev.stage = some n →
    (n ≠ 6 → (n = 4 → s.dev.bootSettled = true) →
      (∃ (c k : Nat) (f : Dev), Dev.runImages (stageKinds n) s.dev = .error (c, k, f) ∧ Sys2Proof.Machine.exec .stageComplete s = .next ⟨f.startFails c k, s.pending⟩) ∨
      (∃ f g : Dev, Dev.runImages (stageKinds n) s.dev = .ok f ∧ Sys2Proof.Machine.exec .stageComplete s = .next ⟨g, s.pending⟩ ∧ g.getF pBoot 0x40 2 0 = n + 1 ∧ g.mem = f.mem)) ∧
    (n = 4 → s.dev.bootSettled = false → Sys2Proof.Machine.exec .stageComplete s = .next s) ∧
    (n = 6 → (∀ p ∈ allPages, s.dev.st p = stInit → p.blk ≠ .dev → s.dev.initReady p = true) →
      ∃ f : Dev, Sys2Proof.Machine.exec .stageComplete s = .next ⟨f, s.pending⟩ ∧ f.getF pBoot 0x40 2 0 = 7) ∧
    (n = 6 → (∃ p ∈ allPages, s.dev.st p = stInit ∧ p.blk ≠ .dev ∧ s.dev.initReady p = false) → Sys2Proof.Machine.exec .stageComplete s = .next s) ∧
    (s.dev.ao ≤ s.dev.boot.stageAt + stageBound n → Sys2Proof.Machine.exec .stageTimeout s = .next s) ∧
    (s.dev.boot.stageAt + stageBound n < s.dev.ao → Sys2Proof.Machine.exec .stageTimeout s = .next ⟨s.dev.startFails cStageTimeout (stageRunner n), s.pending⟩) ∧
    (∀ c : BitVec 16, Sys2Proof.Machine.exec (.stageFault c) s = .next ⟨s.dev.startFails cStageFault (stageRunner n), s.pending⟩)) ∧
  (∀ (s : State) (p : Fin 25) (i : Item) (e : Dev), s.dev.dueItem p 0x0182 = some (i, e) →
    Sys2Proof.Machine.exec (.fritRequest p) s = .next ⟨((e.writeRec fun r => { r with fritForce := true }).endItem i 0 0).flushEvents.warmReset, s.pending⟩) ∧
  (∀ (s : State), (s.dev.frit = false → Sys2Proof.Machine.exec .fritExit s = .next ⟨{ s.dev with itemResp := (cUpdateInvalid, 6) }, s.pending⟩) ∧
    (s.dev.frit = true → ∃ f : Dev, Sys2Proof.Machine.exec .fritExit s = .next ⟨f.warmReset, s.pending⟩ ∧ f.itemResp = (0, 0) ∧
      (s.dev.boot.recs.length = 2 → ∀ r, s.dev.curRec = some r → f.curRec = some { r with seq := r.seq + 1, attempts := 0, fritForce := false }))) ∧
  (∀ (s : State) (r : Role) (i : Fin 64), s.dev.Gives r pBoot →
    ∃ f : Dev, Sys2Proof.Machine.exec (.bootRecWindowRead r i) s = .next ⟨f, s.pending⟩ ∧ f.resp = BitVec.ofNat 64 (numAt (s.dev.recBlock (s.dev.getF pBoot 0x58 11 0)) (4 * i.val) 4) ∧
      f.boot = s.dev.boot ∧ f.csr = s.dev.csr ∧ f.mem = s.dev.mem)

/-- DOMAIN_ON of a domain that is not WAKING changes nothing; a compute domain or stack that was is ON. A wake within its bound does not time out; the first timeout of one that is not in self-refresh starts it again. AUTO_OFF leaves a pinned domain that no request holds; an idle one in use goes OFF. PWR_DOM with REQ 3 of a domain that is no stack, or in a lehr stop, is INVALID_WRITE; REQ 0 is taken; REQ OFF of an idle compute domain takes it OFF. POWER_REQ during an entry or a wake is refused with reason 9; on the ACTIVE device ACTIVE and IDLE are noted, NAP and DEEP begin the entry or are refused with their reason; one from the management port is answered. AUTO_IDLE enters IDLE when its conditions hold. The last step of an entry reaches its state. A cause wakes from IDLE; NAP and DEEP do not heed any frame. The end of a wake from IDLE is ACTIVE. A detected signal powers the port's domain, and the window's end takes it off. A PLL that loses lock counts and stops its clock; locked again it runs. (R428, R429, R430, R432, R434, R435, R436, R437, R442) -/
def Obligations.PowerDomainsAndDeviceStates : Prop :=
  (∀ (s : State) (n : Fin 112),
    (s.dev.dom n ≠ dsWaking → Sys2Proof.Machine.exec (.domainOn n) s = .next s) ∧
    (s.dev.dom n = dsWaking → ∃ f : Dev, Sys2Proof.Machine.exec (.domainOn n) s = .next ⟨f.resume, s.pending⟩ ∧ (n.val < 104 → f.dom n = dsOn)) ∧
    (∀ t, (tget? s.dev.pwr.wakeAt n = none ∨ (tget? s.dev.pwr.wakeAt n = some t ∧ s.dev.ao < t + 4 * wakeBound n)) → Sys2Proof.Machine.exec (.domainWakeTimeout n) s = .next s) ∧
    (∀ t, tget? s.dev.pwr.wakeAt n = some t → t + 4 * wakeBound n ≤ s.dev.ao →
      (s.dev.pwr.retried.contains n.val = false → s.dev.dom n ≠ dsSelf → ∃ f : Dev, Sys2Proof.Machine.exec (.domainWakeTimeout n) s = .next ⟨f, s.pending⟩ ∧ f.dom n = dsWaking) ∧
      (s.dev.pwr.retried.contains n.val = true → ∃ f : Dev, Sys2Proof.Machine.exec (.domainWakeTimeout n) s = .next ⟨f.bootPower.pump, s.pending⟩)) ∧
    (∀ k, s.dev.getF pPwr (rDom n) 1 0 < 2 →
      ((s.dev.pinned n = true ∨ s.dev.domIdle n = false ∨ k < s.dev.getF pPwr 0x4C 23 0) → Sys2Proof.Machine.exec (.autoOff n k) s = .next s) ∧
      ((n.val < 80 ∨ n.val = 109) → s.dev.bit pPwr (rDom n) 2 = true → s.dev.dom n = dsOn → s.dev.getF pBoot 0x40 2 0 = 7 → s.dev.frit = false → s.dev.pinned n = false → s.dev.domIdle n = true →
        s.dev.getF pPwr 0x4C 23 0 ≤ k → ∃ f : Dev, Sys2Proof.Machine.exec (.autoOff n k) s = .next ⟨f, s.pending⟩ ∧ f.dom n = dsOff)) ∧
    (∀ (r : Role) (v : BitVec 32), s.dev.Takes r pPwr → s.dev.Ranks r pPwr (rDom n) →
      ((s.dev.lehr ≠ 0 ∨ (wfld v 1 0 = 3 ∧ ¬(80 ≤ n.val ∧ n.val < 104))) →
        ∃ f : Dev, Sys2Proof.Machine.exec (.pwrDomReq r n v) s = .next ⟨f, s.pending⟩ ∧ f.bit pPwr 0x10 evInvalid = true ∧ f.reg pPwr (rDom n) = s.dev.reg pPwr (rDom n)) ∧
      (s.dev.lehr = 0 → wfld v 1 0 = 0 → ∃ f : Dev, Sys2Proof.Machine.exec (.pwrDomReq r n v) s = .next ⟨f.pump.answer 0, s.pending⟩ ∧ f.getF pPwr (rDom n) 1 0 = 0) ∧
      (s.dev.lehr = 0 → wfld v 1 0 = 2 → n.val < 80 → s.dev.pinned n = false → s.dev.dom n = dsOn → s.dev.domIdle n = true →
        ∃ f : Dev, Sys2Proof.Machine.exec (.pwrDomReq r n v) s = .next ⟨f.pump.answer 0, s.pending⟩ ∧ f.dom n = dsOff))) ∧
  (∀ (s : State) (r : Role), s.dev.mayAccess r pPwr true = true →
    ((s.dev.devPower = 4 ∨ s.dev.devPower = 5) → ∀ c ∈ [Instr.powerReqActive r none, .powerReqIdle r none, .powerReqNap r none, .powerReqDeep r none],
      Sys2Proof.Machine.exec c s = .next ⟨(s.dev.powerRefused 9).answer 0, s.pending⟩) ∧
    (s.dev.devPower = 0 →
      (∃ f : Dev, Sys2Proof.Machine.exec (.powerReqActive r none) s = .next ⟨f, s.pending⟩ ∧ f.devPower = 0 ∧ f.pwr.entry = 0 ∧ f.getF pPwr 0x44 9 8 = 0) ∧
      (∃ f : Dev, Sys2Proof.Machine.exec (.powerReqIdle r none) s = .next ⟨f, s.pending⟩ ∧ f.devPower = 0 ∧ f.pwr.entry = 1 ∧ f.getF pPwr 0x44 9 8 = 1) ∧
      (s.dev.powerReason 2 = none → ∃ f : Dev, Sys2Proof.Machine.exec (.powerReqNap r none) s = .next ⟨f, s.pending⟩ ∧ f.devPower = 4 ∧ f.pwr.entry = 1 ∧ f.pwr.low = 2 ∧ f.getF pPwr 0x44 9 8 = 2) ∧
      (s.dev.powerReason 3 = none → ∃ f : Dev, Sys2Proof.Machine.exec (.powerReqDeep r none) s = .next ⟨f, s.pending⟩ ∧ f.devPower = 4 ∧ f.pwr.entry = 1 ∧ f.pwr.low = 3 ∧ f.getF pPwr 0x44 9 8 = 3) ∧
      (∀ x, s.dev.powerReason 2 = some x → ∃ f : Dev, Sys2Proof.Machine.exec (.powerReqNap r none) s = .next ⟨f, s.pending⟩ ∧ f.devPower = 0 ∧ f.getF pPwr 0x44 7 4 = x) ∧
      (∀ x, s.dev.powerReason 3 = some x → ∃ f : Dev, Sys2Proof.Machine.exec (.powerReqDeep r none) s = .next ⟨f, s.pending⟩ ∧ f.devPower = 0 ∧ f.getF pPwr 0x44 7 4 = x))) ∧
  (∀ (s : State) (r : Role) (o : Fin 256), s.dev.pwr.up = true → s.dev.bit pMgt 0x44 15 = true →
    ∀ c ∈ [Instr.powerReqActive r (some o), .powerReqIdle r (some o), .powerReqNap r (some o), .powerReqDeep r (some o)],
      ∃ f : Dev, Sys2Proof.Machine.exec c s = .next ⟨f.mgtSend o 0x04 (leBytes 4 (f.reg pPwr 0x44).toNat), s.pending⟩) ∧
  (∀ (s : State) (k : Nat),
    ((s.dev.devPower ≠ 0 ∨ s.dev.quiet = false ∨ k < s.dev.getF pPwr 0x48 31 8) → Sys2Proof.Machine.exec (.autoIdle k) s = .next s) ∧
    (s.dev.devPower = 0 → s.dev.bit pPwr 0x48 4 = true → s.dev.quiet = true → s.dev.getF pPwr 0x48 31 8 ≤ k → ∃ f : Dev, Sys2Proof.Machine.exec (.autoIdle k) s = .next ⟨f, s.pending⟩ ∧ f.devPower = 1) ∧
    (s.dev.devPower = 0 → s.dev.pwr.entry ≠ 1 → Sys2Proof.Machine.exec .powerEntryComplete s = .next s) ∧
    (s.dev.devPower = 0 → s.dev.pwr.entry = 1 → s.dev.quiet = true → ∃ f : Dev, Sys2Proof.Machine.exec .powerEntryComplete s = .next ⟨f, s.pending⟩ ∧ f.devPower = 1) ∧
    (s.dev.devPower = 4 → s.dev.pwr.abandon = false → s.dev.pwr.entry = 3 → s.dev.getF pPwr 0x44 9 8 = 2 → ∃ f : Dev, Sys2Proof.Machine.exec .powerEntryComplete s = .next ⟨f, s.pending⟩ ∧ f.devPower = 2) ∧
    (s.dev.devPower = 4 → s.dev.pwr.abandon = false → s.dev.pwr.entry = 4 → ∃ f : Dev, Sys2Proof.Machine.exec .powerEntryComplete s = .next ⟨f, s.pending⟩ ∧ f.devPower = 3)) ∧
  (∀ (s : State) (k : Fin 4),
    ((s.dev.devPower = 0 ∨ s.dev.devPower = 5) → Sys2Proof.Machine.exec (.wakeCause k) s = .next s) ∧
    (s.dev.devPower = 1 → s.dev.tripped = false → ∃ f : Dev, Sys2Proof.Machine.exec (.wakeCause k) s = .next ⟨f, s.pending⟩ ∧ f.devPower = 5 ∧ f.pwr.low = 1) ∧
    ((s.dev.devPower = 2 ∨ s.dev.devPower = 3) → k = 0 → Sys2Proof.Machine.exec (.wakeCause k) s = .next s) ∧
    ((s.dev.devPower ≠ 5 ∨ s.dev.wakeReady = false) → Sys2Proof.Machine.exec .wakeComplete s = .next s) ∧
    (s.dev.devPower = 5 → s.dev.pwr.low = 1 → ∃ f : Dev, Sys2Proof.Machine.exec .wakeComplete s = .next ⟨f.resumeAll, s.pending⟩ ∧ f.devPower = 0 ∧ f.pwr.low = 0) ∧
    ((s.dev.devPower ≠ 3 ∨ s.dev.pwr.detecting = true) → Sys2Proof.Machine.exec .signalDetect s = .next s) ∧
    (s.dev.devPower = 3 → s.dev.pwr.detecting = false → s.dev.dom (104 + s.dev.getF pPwr 0x48 3 0 / 4) = dsOff →
      ∃ f : Dev, Sys2Proof.Machine.exec .signalDetect s = .next ⟨f, s.pending⟩ ∧ f.pwr.detecting = true ∧ f.dom (104 + s.dev.getF pPwr 0x48 3 0 / 4) = dsWaking) ∧
    (s.dev.pwr.detectAt = none → Sys2Proof.Machine.exec .wakeWindowExpiry s = .next s) ∧
    (∀ t, s.dev.pwr.detectAt = some t → s.dev.devPower = 3 → t + 5000000 ≤ s.dev.ao →
      ∃ f : Dev, Sys2Proof.Machine.exec .wakeWindowExpiry s = .next ⟨f.powerOff (104 + s.dev.getF pPwr 0x48 3 0 / 4), s.pending⟩ ∧ f.pwr.detecting = false ∧ f.pwr.detectAt = none)) ∧
  (∀ (s : State) (k : Fin 118),
    ((s.dev.dom (pllDomain k) = dsOff ∨ s.dev.clockOn k = false) → Sys2Proof.Machine.exec (.pllLockLoss k) s = .next s) ∧
    (s.dev.dom (pllDomain k) ≠ dsOff → s.dev.clockOn k = true → s.dev.scrubbed pClk = false →
      ∃ f : Dev, Sys2Proof.Machine.exec (.pllLockLoss k) s = .next ⟨f, s.pending⟩ ∧ f.clockOn k = false ∧ f.reg pClk 0x58 = s.dev.reg pClk 0x58 + 1 ∧ f.mem = s.dev.mem) ∧
    (∃ f : Dev, Sys2Proof.Machine.exec (.pllRelock k) s = .next ⟨f, s.pending⟩ ∧ f.clockOn k = true ∧ f.mem = s.dev.mem))

/-- Without the always-on supply none of these commands changes anything but for a management event's place in the queue. A message that fails PEC counts alone. The control messages are answered to their source: SET_ENDPOINT_ID assigns the ID or refuses a reserved one, GET_ENDPOINT_ID names it, the others answer the UUID, the versions and the types (formats of DSP0236, log entry 215). Once an ID is assigned, a work message on the ACTIVE device that does not parse is refused and one of the operator role that does is queued; TELEMETRY and BOOT_RECORD are answered. MGT_EVENT_SEND sends the first event, which leaves when acknowledged or after the third attempt. SMB_CLK low for 30 ms releases the interface. IDCODE, EXTEST, SAMPLE_PRELOAD, INTERNAL_SCAN and BYPASS shift out their registers and select their instruction, EXTEST alone drives the pins, TAP_RESET selects IDCODE; CSR_ACCESS shifts out the last access, and, with none pending on the ACTIVE device, performs its own. (R436, R438, R439, R440, R453, R454) -/
def Obligations.ManagementAndJtag : Prop :=
  (∀ (s : State) (x : Fin 256) (op : Fin 4) (e t : BitVec 8) (bs : List (BitVec 8)) (b : Fin 4096),
    (s.dev.pwr.up = true → ∀ c ∈ [Instr.setEndpointId x false op e, .getEndpointId x false, .getEndpointUuid x false, .getMctpVersionSupport x false t, .getMessageTypeSupport x false,
        .mgtWork x false bs, .telemetry x false, .bootRecord x false b], Sys2Proof.Machine.exec c s = .next ⟨s.dev.addCount pMgt 0x58 1, s.pending⟩) ∧
    (s.dev.pwr.up = false → ∀ c ∈ [Instr.setEndpointId x true op e, .getEndpointId x true, .getEndpointUuid x true, .getMctpVersionSupport x true t, .getMessageTypeSupport x true,
        .mgtWork x true bs, .telemetry x true, .bootRecord x true b, .idcode, .extest [] [], .samplePreload [] [], .internalScan [], .bypass e [], .tapReset], Sys2Proof.Machine.exec c s = .next s) ∧
    (s.dev.pwr.up = true →
      ((op.val < 2 ∧ e ≠ 0 ∧ e ≠ 0xFF) → ∃ f : Dev, Sys2Proof.Machine.exec (.setEndpointId x true op e) s = .next ⟨f, s.pending⟩ ∧ f.getF pMgt 0x44 7 0 = e.toNat ∧ f.bit pMgt 0x44 15 = true ∧
        f.sent = .mctp x 0x00 ([0x01, 0x00, 0x00] ++ leBytes 1 e.toNat ++ [0x00]) :: s.dev.sent) ∧
      ((2 ≤ op.val ∨ e = 0 ∨ e = 0xFF) → ∃ f : Dev, Sys2Proof.Machine.exec (.setEndpointId x true op e) s = .next ⟨f, s.pending⟩ ∧ f.getF pMgt 0x44 7 0 = s.dev.getF pMgt 0x44 7 0 ∧
        f.sent = .mctp x 0x00 [0x01, 0x02] :: s.dev.sent) ∧
      (∃ f : Dev, Sys2Proof.Machine.exec (.getEndpointId x true) s = .next ⟨f, s.pending⟩ ∧ f.sent = .mctp x 0x00 ([0x02, 0x00] ++ leBytes 1 (s.dev.getF pMgt 0x44 7 0) ++ [0x00, 0x00]) :: s.dev.sent) ∧
      (∃ f : Dev, Sys2Proof.Machine.exec (.getEndpointUuid x true) s = .next ⟨f, s.pending⟩ ∧ f.sent = .mctp x 0x00 ([0x03, 0x00] ++ leBytes 16 Config.uuid.toNat) :: s.dev.sent) ∧
      (∃ (f : Dev) (l : List Byte), Sys2Proof.Machine.exec (.getMctpVersionSupport x true t) s = .next ⟨f, s.pending⟩ ∧ f.sent = .mctp x 0x00 (0x04 :: l) :: s.dev.sent ∧
        (t.toNat ∉ mctpTypes → l = [0x80]) ∧ (t.toNat ∈ mctpTypes → l.head? = some 0x00)) ∧
      (∃ f : Dev, Sys2Proof.Machine.exec (.getMessageTypeSupport x true) s = .next ⟨f, s.pending⟩ ∧ f.sent = .mctp x 0x00 [0x05, 0x00, 0x01, 0x7F] :: s.dev.sent)) ∧
    (s.dev.pwr.up = true → s.dev.bit pMgt 0x44 15 = true →
      (s.dev.devPower = 0 → bs.length ≤ 65536 →
        (parseWork bs = none → ∃ f : Dev, Sys2Proof.Machine.exec (.mgtWork x true bs) s = .next ⟨f.refuseWork (numAt bs 0x11 1) bs cMsgInvalid (some x.val), s.pending⟩ ∧ f.work = s.dev.work) ∧
        (∀ l, parseWork bs = some l → numAt bs 0x11 1 = 0xFF →
          ∃ f : Dev, ∃ m : WorkMsg, Sys2Proof.Machine.exec (.mgtWork x true bs) s = .next ⟨f.settle 0xFF, s.pending⟩ ∧ f.work = s.dev.work ++ [m] ∧ m.items = l ∧ m.ptn = 0xFF ∧ m.eid = some x.val ∧ m.next = 0)) ∧
      (∃ f : Dev, ∃ l : List Byte, Sys2Proof.Machine.exec (.telemetry x true) s = .next ⟨f, s.pending⟩ ∧ f.sent = .mctp x 0x7F (0x05 :: l) :: s.dev.sent ∧ l.length = 1284) ∧
      (∃ f : Dev, Sys2Proof.Machine.exec (.bootRecord x true b) s = .next ⟨f.mgtSend x 0x06 (f.recBlock b), s.pending⟩ ∧ f.boot = s.dev.boot))) ∧
  (∀ (s : State) (a : Bool) (n : Nat),
    (s.dev.mgtOut = [] → Sys2Proof.Machine.exec (.mgtEventSend a) s = .next s) ∧
    (∀ m l, s.dev.mgtOut = m :: l → s.dev.pwr.up = true → ∃ f : Dev, Sys2Proof.Machine.exec (.mgtEventSend a) s = .next ⟨f, s.pending⟩ ∧
      f.sent = .mctp (s.dev.getF pMgt 0x40 8 1) 0x7F (0x03 :: m) :: s.dev.sent ∧
      ((a = true ∨ 2 ≤ s.dev.mgtTries) → f.mgtOut = l ∧ f.mgtTries = 0) ∧ ((a = false ∧ s.dev.mgtTries < 2) → f.mgtOut = m :: l ∧ f.mgtTries = s.dev.mgtTries + 1)) ∧
    ((s.dev.pwr.up = false ∨ n < 1500000) → Sys2Proof.Machine.exec (.smbusTimeout n) s = .next s) ∧
    (s.dev.pwr.up = true → 1500000 ≤ n → ∃ f : Dev, Sys2Proof.Machine.exec (.smbusTimeout n) s = .next ⟨f, s.pending⟩ ∧ f.sent = .smbRelease :: s.dev.sent ∧ f.csr = s.dev.csr)) ∧
  (∀ (s : State) (pins tdi : List Bool) (c : BitVec 8), s.dev.pwr.up = true →
    (∃ f : Dev, Sys2Proof.Machine.exec .idcode s = .next ⟨f, s.pending⟩ ∧ f.sent = .jtag idcodeWord 32 :: s.dev.sent ∧ f.tap.ir = 0x02 ∧ f.tap.driving = false) ∧
    (∃ f : Dev, Sys2Proof.Machine.exec (.extest pins tdi) s = .next ⟨f, s.pending⟩ ∧ f.sent = .jtag (ofBits pins) pins.length :: s.dev.sent ∧ f.tap.boundary = tdi ∧ f.tap.driving = true ∧ f.csr = s.dev.csr) ∧
    (∃ f : Dev, Sys2Proof.Machine.exec (.samplePreload pins tdi) s = .next ⟨f, s.pending⟩ ∧ f.sent = .jtag (ofBits pins) pins.length :: s.dev.sent ∧ f.tap.boundary = tdi ∧ f.tap.driving = false) ∧
    (s.dev.lc ≠ 0 → ∃ f : Dev, Sys2Proof.Machine.exec (.internalScan tdi) s = .next ⟨f, s.pending⟩ ∧ f.sent = .jtag (2 * ofBits tdi) (tdi.length + 1) :: s.dev.sent ∧ f.csr = s.dev.csr) ∧
    (s.dev.lc = 0 → ∃ (f : Dev) (v : Nat), Sys2Proof.Machine.exec (.internalScan tdi) s = .next ⟨f, s.pending⟩ ∧ f.sent = .jtag v tdi.length :: s.dev.sent ∧ f.tap.ir = 0x20 ∧ v < 2 ^ tdi.length) ∧
    (c.toNat ∉ [0x00, 0x01, 0x02, 0x10, 0x20] → ∃ f : Dev, Sys2Proof.Machine.exec (.bypass c tdi) s = .next ⟨f, s.pending⟩ ∧ f.sent = .jtag (2 * ofBits tdi) (tdi.length + 1) :: s.dev.sent ∧ f.csr = s.dev.csr) ∧
    (∃ f : Dev, Sys2Proof.Machine.exec .tapReset s = .next ⟨f, s.pending⟩ ∧ f.tap = { s.dev.tap with ir := 0x02, driving := false } ∧ f.csr = s.dev.csr ∧ f.sent = s.dev.sent)) ∧
  (∀ (s : State) (a : BitVec 44) (w : Bool) (v : BitVec 32), s.dev.pwr.up = true →
    (s.dev.tap.status = 2 → ∃ f : Dev, Sys2Proof.Machine.exec (.csrAccess a w v) s = .next ⟨f, s.pending⟩ ∧ f.sent = .jtag s.dev.tap.csrWord 80 :: s.dev.sent ∧ f.csr = s.dev.csr ∧ f.mem = s.dev.mem) ∧
    (s.dev.tap.status ≠ 2 → s.dev.devPower = 0 → (∀ x ∈ s.dev.inOps, x.path ≠ jtagPath) →
      ∃ g : Dev, g.sent = .jtag s.dev.tap.csrWord 80 :: s.dev.sent ∧ g.csr = s.dev.csr ∧ g.mem = s.dev.mem ∧ g.inOps = s.dev.inOps ++ [⟨jtagPath, 0, ⟨0, []⟩⟩] ∧
        (∀ f, g.jtagAccess a.toNat w v.toNat = (f, true) →
          Sys2Proof.Machine.exec (.csrAccess a w v) s = .next ⟨{ f with inOps := f.inOps.filter fun x => !(x.path = jtagPath && x.seq = 0) }, s.pending⟩) ∧
        (∀ f, g.jtagAccess a.toNat w v.toNat = (f, false) → Sys2Proof.Machine.exec (.csrAccess a w v) s = .next ⟨f, s.pending⟩)) ∧
    (s.dev.tap.status ≠ 2 → s.dev.devPower = 0 → (∀ x ∈ s.dev.inOps, x.path ≠ jtagPath) → w = false → InMemory a.toNat (a.toNat + 3) → s.dev.memReady a.toNat = true →
      s.dev.memReady (a.toNat + 3) = true → s.dev.errs = [] → ∃ f : Dev, Sys2Proof.Machine.exec (.csrAccess a w v) s = .next ⟨f, s.pending⟩ ∧ f.tap.status = 0 ∧
        f.tap.data = leNat (s.dev.readMem agDevice a.toNat 4) ∧ f.mem = s.dev.mem ∧ f.inOps = s.dev.inOps))

/-- Memory is in canonical form when its addresses rise strictly and no listed byte is zero, so that equal memories are equal data. Let only commands wait by which the device itself writes, moves, clears or leaves memory (the list ownCommand: buffer cycles, write-backs of die-cache lines, granule copies, repairs, history, flips, flags, clocks and PLLs, supply and reset inputs, the management and JTAG ports). Then from every state whose memory is in canonical form each step leads to such a state, with such commands waiting. The form is the model's own (log entry 3). (02 Control Space and Block Pages, R87, R241, R363, R372, R415, R426) -/
def Obligations.MemoryStaysCanonical : Prop :=
  ∀ s t : State, s.MemInv → Sys2Proof.Machine.step s = .next t → t.MemInv
end

