-- ==== Sys2Proof/Laws/State.lean ====
section
/-! SUPPORT. One law for each field of the device under each plain update of it; what an update of a state leaves. -/

namespace Sys2Proof.Machine

/-- Every meaning answers a next state: its device is the meaning's, its queue is untouched. -/
@[simp] theorem State.upd_eq (s : State) (f : Dev → Dev) : s.upd f = .next ⟨f s.dev, s.pending⟩ := rfl

/-! ### setReg -/

@[simp] theorem Dev.setReg_mem (d : Dev) (p : Page) (off : Nat) (v : Word) : (d.setReg p off v).mem = d.mem := rfl
@[simp] theorem Dev.setReg_marks (d : Dev) (p : Page) (off : Nat) (v : Word) : (d.setReg p off v).marks = d.marks := rfl
@[simp] theorem Dev.setReg_ao (d : Dev) (p : Page) (off : Nat) (v : Word) : (d.setReg p off v).ao = d.ao := rfl
@[simp] theorem Dev.setReg_cyc (d : Dev) (p : Page) (off : Nat) (v : Word) : (d.setReg p off v).cyc = d.cyc := rfl
@[simp] theorem Dev.setReg_evSent (d : Dev) (p : Page) (off : Nat) (v : Word) : (d.setReg p off v).evSent = d.evSent := rfl
@[simp] theorem Dev.setReg_resp (d : Dev) (p : Page) (off : Nat) (v : Word) : (d.setReg p off v).resp = d.resp := rfl
@[simp] theorem Dev.setReg_respRefused (d : Dev) (p : Page) (off : Nat) (v : Word) : (d.setReg p off v).respRefused = d.respRefused := rfl
@[simp] theorem Dev.setReg_freeNext (d : Dev) (p : Page) (off : Nat) (v : Word) : (d.setReg p off v).freeNext = d.freeNext := rfl
@[simp] theorem Dev.setReg_lines (d : Dev) (p : Page) (off : Nat) (v : Word) : (d.setReg p off v).lines = d.lines := rfl
@[simp] theorem Dev.setReg_tlb (d : Dev) (p : Page) (off : Nat) (v : Word) : (d.setReg p off v).tlb = d.tlb := rfl
@[simp] theorem Dev.setReg_invals (d : Dev) (p : Page) (off : Nat) (v : Word) : (d.setReg p off v).invals = d.invals := rfl
@[simp] theorem Dev.setReg_clus (d : Dev) (p : Page) (off : Nat) (v : Word) : (d.setReg p off v).clus = d.clus := rfl
@[simp] theorem Dev.setReg_cores (d : Dev) (p : Page) (off : Nat) (v : Word) : (d.setReg p off v).cores = d.cores := rfl
@[simp] theorem Dev.setReg_stks (d : Dev) (p : Page) (off : Nat) (v : Word) : (d.setReg p off v).stks = d.stks := rfl
@[simp] theorem Dev.setReg_dmas (d : Dev) (p : Page) (off : Nat) (v : Word) : (d.setReg p off v).dmas = d.dmas := rfl
@[simp] theorem Dev.setReg_events (d : Dev) (p : Page) (off : Nat) (v : Word) : (d.setReg p off v).events = d.events := rfl
@[simp] theorem Dev.setReg_errs (d : Dev) (p : Page) (off : Nat) (v : Word) : (d.setReg p off v).errs = d.errs := rfl
@[simp] theorem Dev.setReg_injected (d : Dev) (p : Page) (off : Nat) (v : Word) : (d.setReg p off v).injected = d.injected := rfl
@[simp] theorem Dev.setReg_torn (d : Dev) (p : Page) (off : Nat) (v : Word) : (d.setReg p off v).torn = d.torn := rfl
@[simp] theorem Dev.setReg_wkeys (d : Dev) (p : Page) (off : Nat) (v : Word) : (d.setReg p off v).wkeys = d.wkeys := rfl
@[simp] theorem Dev.setReg_jobs (d : Dev) (p : Page) (off : Nat) (v : Word) : (d.setReg p off v).jobs = d.jobs := rfl
@[simp] theorem Dev.setReg_aborts (d : Dev) (p : Page) (off : Nat) (v : Word) : (d.setReg p off v).aborts = d.aborts := rfl
@[simp] theorem Dev.setReg_holdAt (d : Dev) (p : Page) (off : Nat) (v : Word) : (d.setReg p off v).holdAt = d.holdAt := rfl
@[simp] theorem Dev.setReg_pwr (d : Dev) (p : Page) (off : Nat) (v : Word) : (d.setReg p off v).pwr = d.pwr := rfl
@[simp] theorem Dev.setReg_thm (d : Dev) (p : Page) (off : Nat) (v : Word) : (d.setReg p off v).thm = d.thm := rfl
@[simp] theorem Dev.setReg_ports (d : Dev) (p : Page) (off : Nat) (v : Word) : (d.setReg p off v).ports = d.ports := rfl
@[simp] theorem Dev.setReg_paths (d : Dev) (p : Page) (off : Nat) (v : Word) : (d.setReg p off v).paths = d.paths := rfl
@[simp] theorem Dev.setReg_reqs (d : Dev) (p : Page) (off : Nat) (v : Word) : (d.setReg p off v).reqs = d.reqs := rfl
@[simp] theorem Dev.setReg_far (d : Dev) (p : Page) (off : Nat) (v : Word) : (d.setReg p off v).far = d.far := rfl
@[simp] theorem Dev.setReg_nextId (d : Dev) (p : Page) (off : Nat) (v : Word) : (d.setReg p off v).nextId = d.nextId := rfl
@[simp] theorem Dev.setReg_nextTag (d : Dev) (p : Page) (off : Nat) (v : Word) : (d.setReg p off v).nextTag = d.nextTag := rfl
@[simp] theorem Dev.setReg_nextMid (d : Dev) (p : Page) (off : Nat) (v : Word) : (d.setReg p off v).nextMid = d.nextMid := rfl
@[simp] theorem Dev.setReg_routes (d : Dev) (p : Page) (off : Nat) (v : Word) : (d.setReg p off v).routes = d.routes := rfl
@[simp] theorem Dev.setReg_heldOps (d : Dev) (p : Page) (off : Nat) (v : Word) : (d.setReg p off v).heldOps = d.heldOps := rfl
@[simp] theorem Dev.setReg_sigWaits (d : Dev) (p : Page) (off : Nat) (v : Word) : (d.setReg p off v).sigWaits = d.sigWaits := rfl
@[simp] theorem Dev.setReg_inOps (d : Dev) (p : Page) (off : Nat) (v : Word) : (d.setReg p off v).inOps = d.inOps := rfl
@[simp] theorem Dev.setReg_inMsgs (d : Dev) (p : Page) (off : Nat) (v : Word) : (d.setReg p off v).inMsgs = d.inMsgs := rfl
@[simp] theorem Dev.setReg_seen (d : Dev) (p : Page) (off : Nat) (v : Word) : (d.setReg p off v).seen = d.seen := rfl
@[simp] theorem Dev.setReg_outMsgs (d : Dev) (p : Page) (off : Nat) (v : Word) : (d.setReg p off v).outMsgs = d.outMsgs := rfl
@[simp] theorem Dev.setReg_qps (d : Dev) (p : Page) (off : Nat) (v : Word) : (d.setReg p off v).qps = d.qps := rfl
@[simp] theorem Dev.setReg_pulls (d : Dev) (p : Page) (off : Nat) (v : Word) : (d.setReg p off v).pulls = d.pulls := rfl
@[simp] theorem Dev.setReg_evSeq (d : Dev) (p : Page) (off : Nat) (v : Word) : (d.setReg p off v).evSeq = d.evSeq := rfl
@[simp] theorem Dev.setReg_mgtOut (d : Dev) (p : Page) (off : Nat) (v : Word) : (d.setReg p off v).mgtOut = d.mgtOut := rfl
@[simp] theorem Dev.setReg_mgtTries (d : Dev) (p : Page) (off : Nat) (v : Word) : (d.setReg p off v).mgtTries = d.mgtTries := rfl
@[simp] theorem Dev.setReg_dests (d : Dev) (p : Page) (off : Nat) (v : Word) : (d.setReg p off v).dests = d.dests := rfl
@[simp] theorem Dev.setReg_sent (d : Dev) (p : Page) (off : Nat) (v : Word) : (d.setReg p off v).sent = d.sent := rfl
@[simp] theorem Dev.setReg_work (d : Dev) (p : Page) (off : Nat) (v : Word) : (d.setReg p off v).work = d.work := rfl
@[simp] theorem Dev.setReg_replyWaits (d : Dev) (p : Page) (off : Nat) (v : Word) : (d.setReg p off v).replyWaits = d.replyWaits := rfl
@[simp] theorem Dev.setReg_readmit (d : Dev) (p : Page) (off : Nat) (v : Word) : (d.setReg p off v).readmit = d.readmit := rfl
@[simp] theorem Dev.setReg_itemResp (d : Dev) (p : Page) (off : Nat) (v : Word) : (d.setReg p off v).itemResp = d.itemResp := rfl
@[simp] theorem Dev.setReg_ptnx (d : Dev) (p : Page) (off : Nat) (v : Word) : (d.setReg p off v).ptnx = d.ptnx := rfl
@[simp] theorem Dev.setReg_reqTab (d : Dev) (p : Page) (off : Nat) (v : Word) : (d.setReg p off v).reqTab = d.reqTab := rfl
@[simp] theorem Dev.setReg_reqX (d : Dev) (p : Page) (off : Nat) (v : Word) : (d.setReg p off v).reqX = d.reqX := rfl
@[simp] theorem Dev.setReg_batches (d : Dev) (p : Page) (off : Nat) (v : Word) : (d.setReg p off v).batches = d.batches := rfl
@[simp] theorem Dev.setReg_openWaits (d : Dev) (p : Page) (off : Nat) (v : Word) : (d.setReg p off v).openWaits = d.openWaits := rfl
@[simp] theorem Dev.setReg_engCmds (d : Dev) (p : Page) (off : Nat) (v : Word) : (d.setReg p off v).engCmds = d.engCmds := rfl
@[simp] theorem Dev.setReg_streams (d : Dev) (p : Page) (off : Nat) (v : Word) : (d.setReg p off v).streams = d.streams := rfl
@[simp] theorem Dev.setReg_glueRecs (d : Dev) (p : Page) (off : Nat) (v : Word) : (d.setReg p off v).glueRecs = d.glueRecs := rfl
@[simp] theorem Dev.setReg_tap (d : Dev) (p : Page) (off : Nat) (v : Word) : (d.setReg p off v).tap = d.tap := rfl
@[simp] theorem Dev.setReg_boot (d : Dev) (p : Page) (off : Nat) (v : Word) : (d.setReg p off v).boot = d.boot := rfl
@[simp] theorem Dev.setReg_svcUsed (d : Dev) (p : Page) (off : Nat) (v : Word) : (d.setReg p off v).svcUsed = d.svcUsed := rfl
@[simp] theorem Dev.setReg_sram (d : Dev) (p : Page) (off : Nat) (v : Word) : (d.setReg p off v).sram = d.sram := rfl
@[simp] theorem Dev.setReg_sec (d : Dev) (p : Page) (off : Nat) (v : Word) : (d.setReg p off v).sec = d.sec := rfl

/-! ### noteSet -/

@[simp] theorem Dev.noteSet_csr (d : Dev) (p : Page) (off i : Nat) : (d.noteSet p off i).csr = d.csr := rfl
@[simp] theorem Dev.noteSet_mem (d : Dev) (p : Page) (off i : Nat) : (d.noteSet p off i).mem = d.mem := rfl
@[simp] theorem Dev.noteSet_marks (d : Dev) (p : Page) (off i : Nat) : (d.noteSet p off i).marks = d.marks := rfl
@[simp] theorem Dev.noteSet_ao (d : Dev) (p : Page) (off i : Nat) : (d.noteSet p off i).ao = d.ao := rfl
@[simp] theorem Dev.noteSet_evSent (d : Dev) (p : Page) (off i : Nat) : (d.noteSet p off i).evSent = d.evSent := rfl
@[simp] theorem Dev.noteSet_resp (d : Dev) (p : Page) (off i : Nat) : (d.noteSet p off i).resp = d.resp := rfl
@[simp] theorem Dev.noteSet_respRefused (d : Dev) (p : Page) (off i : Nat) : (d.noteSet p off i).respRefused = d.respRefused := rfl
@[simp] theorem Dev.noteSet_freeNext (d : Dev) (p : Page) (off i : Nat) : (d.noteSet p off i).freeNext = d.freeNext := rfl
@[simp] theorem Dev.noteSet_lines (d : Dev) (p : Page) (off i : Nat) : (d.noteSet p off i).lines = d.lines := rfl
@[simp] theorem Dev.noteSet_tlb (d : Dev) (p : Page) (off i : Nat) : (d.noteSet p off i).tlb = d.tlb := rfl
@[simp] theorem Dev.noteSet_invals (d : Dev) (p : Page) (off i : Nat) : (d.noteSet p off i).invals = d.invals := rfl
@[simp] theorem Dev.noteSet_clus (d : Dev) (p : Page) (off i : Nat) : (d.noteSet p off i).clus = d.clus := rfl
@[simp] theorem Dev.noteSet_cores (d : Dev) (p : Page) (off i : Nat) : (d.noteSet p off i).cores = d.cores := rfl
@[simp] theorem Dev.noteSet_stks (d : Dev) (p : Page) (off i : Nat) : (d.noteSet p off i).stks = d.stks := rfl
@[simp] theorem Dev.noteSet_dmas (d : Dev) (p : Page) (off i : Nat) : (d.noteSet p off i).dmas = d.dmas := rfl
@[simp] theorem Dev.noteSet_events (d : Dev) (p : Page) (off i : Nat) : (d.noteSet p off i).events = d.events := rfl
@[simp] theorem Dev.noteSet_errs (d : Dev) (p : Page) (off i : Nat) : (d.noteSet p off i).errs = d.errs := rfl
@[simp] theorem Dev.noteSet_injected (d : Dev) (p : Page) (off i : Nat) : (d.noteSet p off i).injected = d.injected := rfl
@[simp] theorem Dev.noteSet_torn (d : Dev) (p : Page) (off i : Nat) : (d.noteSet p off i).torn = d.torn := rfl
@[simp] theorem Dev.noteSet_wkeys (d : Dev) (p : Page) (off i : Nat) : (d.noteSet p off i).wkeys = d.wkeys := rfl
@[simp] theorem Dev.noteSet_jobs (d : Dev) (p : Page) (off i : Nat) : (d.noteSet p off i).jobs = d.jobs := rfl
@[simp] theorem Dev.noteSet_aborts (d : Dev) (p : Page) (off i : Nat) : (d.noteSet p off i).aborts = d.aborts := rfl
@[simp] theorem Dev.noteSet_holdAt (d : Dev) (p : Page) (off i : Nat) : (d.noteSet p off i).holdAt = d.holdAt := rfl
@[simp] theorem Dev.noteSet_pwr (d : Dev) (p : Page) (off i : Nat) : (d.noteSet p off i).pwr = d.pwr := rfl
@[simp] theorem Dev.noteSet_thm (d : Dev) (p : Page) (off i : Nat) : (d.noteSet p off i).thm = d.thm := rfl
@[simp] theorem Dev.noteSet_ports (d : Dev) (p : Page) (off i : Nat) : (d.noteSet p off i).ports = d.ports := rfl
@[simp] theorem Dev.noteSet_paths (d : Dev) (p : Page) (off i : Nat) : (d.noteSet p off i).paths = d.paths := rfl
@[simp] theorem Dev.noteSet_reqs (d : Dev) (p : Page) (off i : Nat) : (d.noteSet p off i).reqs = d.reqs := rfl
@[simp] theorem Dev.noteSet_far (d : Dev) (p : Page) (off i : Nat) : (d.noteSet p off i).far = d.far := rfl
@[simp] theorem Dev.noteSet_nextId (d : Dev) (p : Page) (off i : Nat) : (d.noteSet p off i).nextId = d.nextId := rfl
@[simp] theorem Dev.noteSet_nextTag (d : Dev) (p : Page) (off i : Nat) : (d.noteSet p off i).nextTag = d.nextTag := rfl
@[simp] theorem Dev.noteSet_nextMid (d : Dev) (p : Page) (off i : Nat) : (d.noteSet p off i).nextMid = d.nextMid := rfl
@[simp] theorem Dev.noteSet_routes (d : Dev) (p : Page) (off i : Nat) : (d.noteSet p off i).routes = d.routes := rfl
@[simp] theorem Dev.noteSet_heldOps (d : Dev) (p : Page) (off i : Nat) : (d.noteSet p off i).heldOps = d.heldOps := rfl
@[simp] theorem Dev.noteSet_sigWaits (d : Dev) (p : Page) (off i : Nat) : (d.noteSet p off i).sigWaits = d.sigWaits := rfl
@[simp] theorem Dev.noteSet_inOps (d : Dev) (p : Page) (off i : Nat) : (d.noteSet p off i).inOps = d.inOps := rfl
@[simp] theorem Dev.noteSet_inMsgs (d : Dev) (p : Page) (off i : Nat) : (d.noteSet p off i).inMsgs = d.inMsgs := rfl
@[simp] theorem Dev.noteSet_seen (d : Dev) (p : Page) (off i : Nat) : (d.noteSet p off i).seen = d.seen := rfl
@[simp] theorem Dev.noteSet_outMsgs (d : Dev) (p : Page) (off i : Nat) : (d.noteSet p off i).outMsgs = d.outMsgs := rfl
@[simp] theorem Dev.noteSet_qps (d : Dev) (p : Page) (off i : Nat) : (d.noteSet p off i).qps = d.qps := rfl
@[simp] theorem Dev.noteSet_pulls (d : Dev) (p : Page) (off i : Nat) : (d.noteSet p off i).pulls = d.pulls := rfl
@[simp] theorem Dev.noteSet_evSeq (d : Dev) (p : Page) (off i : Nat) : (d.noteSet p off i).evSeq = d.evSeq := rfl
@[simp] theorem Dev.noteSet_mgtOut (d : Dev) (p : Page) (off i : Nat) : (d.noteSet p off i).mgtOut = d.mgtOut := rfl
@[simp] theorem Dev.noteSet_mgtTries (d : Dev) (p : Page) (off i : Nat) : (d.noteSet p off i).mgtTries = d.mgtTries := rfl
@[simp] theorem Dev.noteSet_dests (d : Dev) (p : Page) (off i : Nat) : (d.noteSet p off i).dests = d.dests := rfl
@[simp] theorem Dev.noteSet_sent (d : Dev) (p : Page) (off i : Nat) : (d.noteSet p off i).sent = d.sent := rfl
@[simp] theorem Dev.noteSet_work (d : Dev) (p : Page) (off i : Nat) : (d.noteSet p off i).work = d.work := rfl
@[simp] theorem Dev.noteSet_replyWaits (d : Dev) (p : Page) (off i : Nat) : (d.noteSet p off i).replyWaits = d.replyWaits := rfl
@[simp] theorem Dev.noteSet_readmit (d : Dev) (p : Page) (off i : Nat) : (d.noteSet p off i).readmit = d.readmit := rfl
@[simp] theorem Dev.noteSet_itemResp (d : Dev) (p : Page) (off i : Nat) : (d.noteSet p off i).itemResp = d.itemResp := rfl
@[simp] theorem Dev.noteSet_ptnx (d : Dev) (p : Page) (off i : Nat) : (d.noteSet p off i).ptnx = d.ptnx := rfl
@[simp] theorem Dev.noteSet_reqTab (d : Dev) (p : Page) (off i : Nat) : (d.noteSet p off i).reqTab = d.reqTab := rfl
@[simp] theorem Dev.noteSet_reqX (d : Dev) (p : Page) (off i : Nat) : (d.noteSet p off i).reqX = d.reqX := rfl
@[simp] theorem Dev.noteSet_batches (d : Dev) (p : Page) (off i : Nat) : (d.noteSet p off i).batches = d.batches := rfl
@[simp] theorem Dev.noteSet_openWaits (d : Dev) (p : Page) (off i : Nat) : (d.noteSet p off i).openWaits = d.openWaits := rfl
@[simp] theorem Dev.noteSet_engCmds (d : Dev) (p : Page) (off i : Nat) : (d.noteSet p off i).engCmds = d.engCmds := rfl
@[simp] theorem Dev.noteSet_streams (d : Dev) (p : Page) (off i : Nat) : (d.noteSet p off i).streams = d.streams := rfl
@[simp] theorem Dev.noteSet_glueRecs (d : Dev) (p : Page) (off i : Nat) : (d.noteSet p off i).glueRecs = d.glueRecs := rfl
@[simp] theorem Dev.noteSet_tap (d : Dev) (p : Page) (off i : Nat) : (d.noteSet p off i).tap = d.tap := rfl
@[simp] theorem Dev.noteSet_boot (d : Dev) (p : Page) (off i : Nat) : (d.noteSet p off i).boot = d.boot := rfl
@[simp] theorem Dev.noteSet_svcUsed (d : Dev) (p : Page) (off i : Nat) : (d.noteSet p off i).svcUsed = d.svcUsed := rfl
@[simp] theorem Dev.noteSet_sram (d : Dev) (p : Page) (off i : Nat) : (d.noteSet p off i).sram = d.sram := rfl
@[simp] theorem Dev.noteSet_sec (d : Dev) (p : Page) (off i : Nat) : (d.noteSet p off i).sec = d.sec := rfl

/-! ### noteAdd -/

@[simp] theorem Dev.noteAdd_csr (d : Dev) (p : Page) (off n : Nat) : (d.noteAdd p off n).csr = d.csr := rfl
@[simp] theorem Dev.noteAdd_mem (d : Dev) (p : Page) (off n : Nat) : (d.noteAdd p off n).mem = d.mem := rfl
@[simp] theorem Dev.noteAdd_marks (d : Dev) (p : Page) (off n : Nat) : (d.noteAdd p off n).marks = d.marks := rfl
@[simp] theorem Dev.noteAdd_ao (d : Dev) (p : Page) (off n : Nat) : (d.noteAdd p off n).ao = d.ao := rfl
@[simp] theorem Dev.noteAdd_evSent (d : Dev) (p : Page) (off n : Nat) : (d.noteAdd p off n).evSent = d.evSent := rfl
@[simp] theorem Dev.noteAdd_resp (d : Dev) (p : Page) (off n : Nat) : (d.noteAdd p off n).resp = d.resp := rfl
@[simp] theorem Dev.noteAdd_respRefused (d : Dev) (p : Page) (off n : Nat) : (d.noteAdd p off n).respRefused = d.respRefused := rfl
@[simp] theorem Dev.noteAdd_freeNext (d : Dev) (p : Page) (off n : Nat) : (d.noteAdd p off n).freeNext = d.freeNext := rfl
@[simp] theorem Dev.noteAdd_lines (d : Dev) (p : Page) (off n : Nat) : (d.noteAdd p off n).lines = d.lines := rfl
@[simp] theorem Dev.noteAdd_tlb (d : Dev) (p : Page) (off n : Nat) : (d.noteAdd p off n).tlb = d.tlb := rfl
@[simp] theorem Dev.noteAdd_invals (d : Dev) (p : Page) (off n : Nat) : (d.noteAdd p off n).invals = d.invals := rfl
@[simp] theorem Dev.noteAdd_clus (d : Dev) (p : Page) (off n : Nat) : (d.noteAdd p off n).clus = d.clus := rfl
@[simp] theorem Dev.noteAdd_cores (d : Dev) (p : Page) (off n : Nat) : (d.noteAdd p off n).cores = d.cores := rfl
@[simp] theorem Dev.noteAdd_stks (d : Dev) (p : Page) (off n : Nat) : (d.noteAdd p off n).stks = d.stks := rfl
@[simp] theorem Dev.noteAdd_dmas (d : Dev) (p : Page) (off n : Nat) : (d.noteAdd p off n).dmas = d.dmas := rfl
@[simp] theorem Dev.noteAdd_events (d : Dev) (p : Page) (off n : Nat) : (d.noteAdd p off n).events = d.events := rfl
@[simp] theorem Dev.noteAdd_errs (d : Dev) (p : Page) (off n : Nat) : (d.noteAdd p off n).errs = d.errs := rfl
@[simp] theorem Dev.noteAdd_injected (d : Dev) (p : Page) (off n : Nat) : (d.noteAdd p off n).injected = d.injected := rfl
@[simp] theorem Dev.noteAdd_torn (d : Dev) (p : Page) (off n : Nat) : (d.noteAdd p off n).torn = d.torn := rfl
@[simp] theorem Dev.noteAdd_wkeys (d : Dev) (p : Page) (off n : Nat) : (d.noteAdd p off n).wkeys = d.wkeys := rfl
@[simp] theorem Dev.noteAdd_jobs (d : Dev) (p : Page) (off n : Nat) : (d.noteAdd p off n).jobs = d.jobs := rfl
@[simp] theorem Dev.noteAdd_aborts (d : Dev) (p : Page) (off n : Nat) : (d.noteAdd p off n).aborts = d.aborts := rfl
@[simp] theorem Dev.noteAdd_holdAt (d : Dev) (p : Page) (off n : Nat) : (d.noteAdd p off n).holdAt = d.holdAt := rfl
@[simp] theorem Dev.noteAdd_pwr (d : Dev) (p : Page) (off n : Nat) : (d.noteAdd p off n).pwr = d.pwr := rfl
@[simp] theorem Dev.noteAdd_thm (d : Dev) (p : Page) (off n : Nat) : (d.noteAdd p off n).thm = d.thm := rfl
@[simp] theorem Dev.noteAdd_ports (d : Dev) (p : Page) (off n : Nat) : (d.noteAdd p off n).ports = d.ports := rfl
@[simp] theorem Dev.noteAdd_paths (d : Dev) (p : Page) (off n : Nat) : (d.noteAdd p off n).paths = d.paths := rfl
@[simp] theorem Dev.noteAdd_reqs (d : Dev) (p : Page) (off n : Nat) : (d.noteAdd p off n).reqs = d.reqs := rfl
@[simp] theorem Dev.noteAdd_far (d : Dev) (p : Page) (off n : Nat) : (d.noteAdd p off n).far = d.far := rfl
@[simp] theorem Dev.noteAdd_nextId (d : Dev) (p : Page) (off n : Nat) : (d.noteAdd p off n).nextId = d.nextId := rfl
@[simp] theorem Dev.noteAdd_nextTag (d : Dev) (p : Page) (off n : Nat) : (d.noteAdd p off n).nextTag = d.nextTag := rfl
@[simp] theorem Dev.noteAdd_nextMid (d : Dev) (p : Page) (off n : Nat) : (d.noteAdd p off n).nextMid = d.nextMid := rfl
@[simp] theorem Dev.noteAdd_routes (d : Dev) (p : Page) (off n : Nat) : (d.noteAdd p off n).routes = d.routes := rfl
@[simp] theorem Dev.noteAdd_heldOps (d : Dev) (p : Page) (off n : Nat) : (d.noteAdd p off n).heldOps = d.heldOps := rfl
@[simp] theorem Dev.noteAdd_sigWaits (d : Dev) (p : Page) (off n : Nat) : (d.noteAdd p off n).sigWaits = d.sigWaits := rfl
@[simp] theorem Dev.noteAdd_inOps (d : Dev) (p : Page) (off n : Nat) : (d.noteAdd p off n).inOps = d.inOps := rfl
@[simp] theorem Dev.noteAdd_inMsgs (d : Dev) (p : Page) (off n : Nat) : (d.noteAdd p off n).inMsgs = d.inMsgs := rfl
@[simp] theorem Dev.noteAdd_seen (d : Dev) (p : Page) (off n : Nat) : (d.noteAdd p off n).seen = d.seen := rfl
@[simp] theorem Dev.noteAdd_outMsgs (d : Dev) (p : Page) (off n : Nat) : (d.noteAdd p off n).outMsgs = d.outMsgs := rfl
@[simp] theorem Dev.noteAdd_qps (d : Dev) (p : Page) (off n : Nat) : (d.noteAdd p off n).qps = d.qps := rfl
@[simp] theorem Dev.noteAdd_pulls (d : Dev) (p : Page) (off n : Nat) : (d.noteAdd p off n).pulls = d.pulls := rfl
@[simp] theorem Dev.noteAdd_evSeq (d : Dev) (p : Page) (off n : Nat) : (d.noteAdd p off n).evSeq = d.evSeq := rfl
@[simp] theorem Dev.noteAdd_mgtOut (d : Dev) (p : Page) (off n : Nat) : (d.noteAdd p off n).mgtOut = d.mgtOut := rfl
@[simp] theorem Dev.noteAdd_mgtTries (d : Dev) (p : Page) (off n : Nat) : (d.noteAdd p off n).mgtTries = d.mgtTries := rfl
@[simp] theorem Dev.noteAdd_dests (d : Dev) (p : Page) (off n : Nat) : (d.noteAdd p off n).dests = d.dests := rfl
@[simp] theorem Dev.noteAdd_sent (d : Dev) (p : Page) (off n : Nat) : (d.noteAdd p off n).sent = d.sent := rfl
@[simp] theorem Dev.noteAdd_work (d : Dev) (p : Page) (off n : Nat) : (d.noteAdd p off n).work = d.work := rfl
@[simp] theorem Dev.noteAdd_replyWaits (d : Dev) (p : Page) (off n : Nat) : (d.noteAdd p off n).replyWaits = d.replyWaits := rfl
@[simp] theorem Dev.noteAdd_readmit (d : Dev) (p : Page) (off n : Nat) : (d.noteAdd p off n).readmit = d.readmit := rfl
@[simp] theorem Dev.noteAdd_itemResp (d : Dev) (p : Page) (off n : Nat) : (d.noteAdd p off n).itemResp = d.itemResp := rfl
@[simp] theorem Dev.noteAdd_ptnx (d : Dev) (p : Page) (off n : Nat) : (d.noteAdd p off n).ptnx = d.ptnx := rfl
@[simp] theorem Dev.noteAdd_reqTab (d : Dev) (p : Page) (off n : Nat) : (d.noteAdd p off n).reqTab = d.reqTab := rfl
@[simp] theorem Dev.noteAdd_reqX (d : Dev) (p : Page) (off n : Nat) : (d.noteAdd p off n).reqX = d.reqX := rfl
@[simp] theorem Dev.noteAdd_batches (d : Dev) (p : Page) (off n : Nat) : (d.noteAdd p off n).batches = d.batches := rfl
@[simp] theorem Dev.noteAdd_openWaits (d : Dev) (p : Page) (off n : Nat) : (d.noteAdd p off n).openWaits = d.openWaits := rfl
@[simp] theorem Dev.noteAdd_engCmds (d : Dev) (p : Page) (off n : Nat) : (d.noteAdd p off n).engCmds = d.engCmds := rfl
@[simp] theorem Dev.noteAdd_streams (d : Dev) (p : Page) (off n : Nat) : (d.noteAdd p off n).streams = d.streams := rfl
@[simp] theorem Dev.noteAdd_glueRecs (d : Dev) (p : Page) (off n : Nat) : (d.noteAdd p off n).glueRecs = d.glueRecs := rfl
@[simp] theorem Dev.noteAdd_tap (d : Dev) (p : Page) (off n : Nat) : (d.noteAdd p off n).tap = d.tap := rfl
@[simp] theorem Dev.noteAdd_boot (d : Dev) (p : Page) (off n : Nat) : (d.noteAdd p off n).boot = d.boot := rfl
@[simp] theorem Dev.noteAdd_svcUsed (d : Dev) (p : Page) (off n : Nat) : (d.noteAdd p off n).svcUsed = d.svcUsed := rfl
@[simp] theorem Dev.noteAdd_sram (d : Dev) (p : Page) (off n : Nat) : (d.noteAdd p off n).sram = d.sram := rfl
@[simp] theorem Dev.noteAdd_sec (d : Dev) (p : Page) (off n : Nat) : (d.noteAdd p off n).sec = d.sec := rfl

/-! ### noteFault -/

@[simp] theorem Dev.noteFault_csr (d : Dev) (p : Page) (code info : Nat) : (d.noteFault p code info).csr = d.csr := rfl
@[simp] theorem Dev.noteFault_mem (d : Dev) (p : Page) (code info : Nat) : (d.noteFault p code info).mem = d.mem := rfl
@[simp] theorem Dev.noteFault_marks (d : Dev) (p : Page) (code info : Nat) : (d.noteFault p code info).marks = d.marks := rfl
@[simp] theorem Dev.noteFault_ao (d : Dev) (p : Page) (code info : Nat) : (d.noteFault p code info).ao = d.ao := rfl
@[simp] theorem Dev.noteFault_evSent (d : Dev) (p : Page) (code info : Nat) : (d.noteFault p code info).evSent = d.evSent := rfl
@[simp] theorem Dev.noteFault_resp (d : Dev) (p : Page) (code info : Nat) : (d.noteFault p code info).resp = d.resp := rfl
@[simp] theorem Dev.noteFault_respRefused (d : Dev) (p : Page) (code info : Nat) : (d.noteFault p code info).respRefused = d.respRefused := rfl
@[simp] theorem Dev.noteFault_freeNext (d : Dev) (p : Page) (code info : Nat) : (d.noteFault p code info).freeNext = d.freeNext := rfl
@[simp] theorem Dev.noteFault_lines (d : Dev) (p : Page) (code info : Nat) : (d.noteFault p code info).lines = d.lines := rfl
@[simp] theorem Dev.noteFault_tlb (d : Dev) (p : Page) (code info : Nat) : (d.noteFault p code info).tlb = d.tlb := rfl
@[simp] theorem Dev.noteFault_invals (d : Dev) (p : Page) (code info : Nat) : (d.noteFault p code info).invals = d.invals := rfl
@[simp] theorem Dev.noteFault_clus (d : Dev) (p : Page) (code info : Nat) : (d.noteFault p code info).clus = d.clus := rfl
@[simp] theorem Dev.noteFault_cores (d : Dev) (p : Page) (code info : Nat) : (d.noteFault p code info).cores = d.cores := rfl
@[simp] theorem Dev.noteFault_stks (d : Dev) (p : Page) (code info : Nat) : (d.noteFault p code info).stks = d.stks := rfl
@[simp] theorem Dev.noteFault_dmas (d : Dev) (p : Page) (code info : Nat) : (d.noteFault p code info).dmas = d.dmas := rfl
@[simp] theorem Dev.noteFault_events (d : Dev) (p : Page) (code info : Nat) : (d.noteFault p code info).events = d.events := rfl
@[simp] theorem Dev.noteFault_errs (d : Dev) (p : Page) (code info : Nat) : (d.noteFault p code info).errs = d.errs := rfl
@[simp] theorem Dev.noteFault_injected (d : Dev) (p : Page) (code info : Nat) : (d.noteFault p code info).injected = d.injected := rfl
@[simp] theorem Dev.noteFault_torn (d : Dev) (p : Page) (code info : Nat) : (d.noteFault p code info).torn = d.torn := rfl
@[simp] theorem Dev.noteFault_wkeys (d : Dev) (p : Page) (code info : Nat) : (d.noteFault p code info).wkeys = d.wkeys := rfl
@[simp] theorem Dev.noteFault_jobs (d : Dev) (p : Page) (code info : Nat) : (d.noteFault p code info).jobs = d.jobs := rfl
@[simp] theorem Dev.noteFault_aborts (d : Dev) (p : Page) (code info : Nat) : (d.noteFault p code info).aborts = d.aborts := rfl
@[simp] theorem Dev.noteFault_holdAt (d : Dev) (p : Page) (code info : Nat) : (d.noteFault p code info).holdAt = d.holdAt := rfl
@[simp] theorem Dev.noteFault_pwr (d : Dev) (p : Page) (code info : Nat) : (d.noteFault p code info).pwr = d.pwr := rfl
@[simp] theorem Dev.noteFault_thm (d : Dev) (p : Page) (code info : Nat) : (d.noteFault p code info).thm = d.thm := rfl
@[simp] theorem Dev.noteFault_ports (d : Dev) (p : Page) (code info : Nat) : (d.noteFault p code info).ports = d.ports := rfl
@[simp] theorem Dev.noteFault_paths (d : Dev) (p : Page) (code info : Nat) : (d.noteFault p code info).paths = d.paths := rfl
@[simp] theorem Dev.noteFault_reqs (d : Dev) (p : Page) (code info : Nat) : (d.noteFault p code info).reqs = d.reqs := rfl
@[simp] theorem Dev.noteFault_far (d : Dev) (p : Page) (code info : Nat) : (d.noteFault p code info).far = d.far := rfl
@[simp] theorem Dev.noteFault_nextId (d : Dev) (p : Page) (code info : Nat) : (d.noteFault p code info).nextId = d.nextId := rfl
@[simp] theorem Dev.noteFault_nextTag (d : Dev) (p : Page) (code info : Nat) : (d.noteFault p code info).nextTag = d.nextTag := rfl
@[simp] theorem Dev.noteFault_nextMid (d : Dev) (p : Page) (code info : Nat) : (d.noteFault p code info).nextMid = d.nextMid := rfl
@[simp] theorem Dev.noteFault_routes (d : Dev) (p : Page) (code info : Nat) : (d.noteFault p code info).routes = d.routes := rfl
@[simp] theorem Dev.noteFault_heldOps (d : Dev) (p : Page) (code info : Nat) : (d.noteFault p code info).heldOps = d.heldOps := rfl
@[simp] theorem Dev.noteFault_sigWaits (d : Dev) (p : Page) (code info : Nat) : (d.noteFault p code info).sigWaits = d.sigWaits := rfl
@[simp] theorem Dev.noteFault_inOps (d : Dev) (p : Page) (code info : Nat) : (d.noteFault p code info).inOps = d.inOps := rfl
@[simp] theorem Dev.noteFault_inMsgs (d : Dev) (p : Page) (code info : Nat) : (d.noteFault p code info).inMsgs = d.inMsgs := rfl
@[simp] theorem Dev.noteFault_seen (d : Dev) (p : Page) (code info : Nat) : (d.noteFault p code info).seen = d.seen := rfl
@[simp] theorem Dev.noteFault_outMsgs (d : Dev) (p : Page) (code info : Nat) : (d.noteFault p code info).outMsgs = d.outMsgs := rfl
@[simp] theorem Dev.noteFault_qps (d : Dev) (p : Page) (code info : Nat) : (d.noteFault p code info).qps = d.qps := rfl
@[simp] theorem Dev.noteFault_pulls (d : Dev) (p : Page) (code info : Nat) : (d.noteFault p code info).pulls = d.pulls := rfl
@[simp] theorem Dev.noteFault_evSeq (d : Dev) (p : Page) (code info : Nat) : (d.noteFault p code info).evSeq = d.evSeq := rfl
@[simp] theorem Dev.noteFault_mgtOut (d : Dev) (p : Page) (code info : Nat) : (d.noteFault p code info).mgtOut = d.mgtOut := rfl
@[simp] theorem Dev.noteFault_mgtTries (d : Dev) (p : Page) (code info : Nat) : (d.noteFault p code info).mgtTries = d.mgtTries := rfl
@[simp] theorem Dev.noteFault_dests (d : Dev) (p : Page) (code info : Nat) : (d.noteFault p code info).dests = d.dests := rfl
@[simp] theorem Dev.noteFault_sent (d : Dev) (p : Page) (code info : Nat) : (d.noteFault p code info).sent = d.sent := rfl
@[simp] theorem Dev.noteFault_work (d : Dev) (p : Page) (code info : Nat) : (d.noteFault p code info).work = d.work := rfl
@[simp] theorem Dev.noteFault_replyWaits (d : Dev) (p : Page) (code info : Nat) : (d.noteFault p code info).replyWaits = d.replyWaits := rfl
@[simp] theorem Dev.noteFault_readmit (d : Dev) (p : Page) (code info : Nat) : (d.noteFault p code info).readmit = d.readmit := rfl
@[simp] theorem Dev.noteFault_itemResp (d : Dev) (p : Page) (code info : Nat) : (d.noteFault p code info).itemResp = d.itemResp := rfl
@[simp] theorem Dev.noteFault_ptnx (d : Dev) (p : Page) (code info : Nat) : (d.noteFault p code info).ptnx = d.ptnx := rfl
@[simp] theorem Dev.noteFault_reqTab (d : Dev) (p : Page) (code info : Nat) : (d.noteFault p code info).reqTab = d.reqTab := rfl
@[simp] theorem Dev.noteFault_reqX (d : Dev) (p : Page) (code info : Nat) : (d.noteFault p code info).reqX = d.reqX := rfl
@[simp] theorem Dev.noteFault_batches (d : Dev) (p : Page) (code info : Nat) : (d.noteFault p code info).batches = d.batches := rfl
@[simp] theorem Dev.noteFault_openWaits (d : Dev) (p : Page) (code info : Nat) : (d.noteFault p code info).openWaits = d.openWaits := rfl
@[simp] theorem Dev.noteFault_engCmds (d : Dev) (p : Page) (code info : Nat) : (d.noteFault p code info).engCmds = d.engCmds := rfl
@[simp] theorem Dev.noteFault_streams (d : Dev) (p : Page) (code info : Nat) : (d.noteFault p code info).streams = d.streams := rfl
@[simp] theorem Dev.noteFault_glueRecs (d : Dev) (p : Page) (code info : Nat) : (d.noteFault p code info).glueRecs = d.glueRecs := rfl
@[simp] theorem Dev.noteFault_tap (d : Dev) (p : Page) (code info : Nat) : (d.noteFault p code info).tap = d.tap := rfl
@[simp] theorem Dev.noteFault_boot (d : Dev) (p : Page) (code info : Nat) : (d.noteFault p code info).boot = d.boot := rfl
@[simp] theorem Dev.noteFault_svcUsed (d : Dev) (p : Page) (code info : Nat) : (d.noteFault p code info).svcUsed = d.svcUsed := rfl
@[simp] theorem Dev.noteFault_sram (d : Dev) (p : Page) (code info : Nat) : (d.noteFault p code info).sram = d.sram := rfl
@[simp] theorem Dev.noteFault_sec (d : Dev) (p : Page) (code info : Nat) : (d.noteFault p code info).sec = d.sec := rfl

/-! ### record -/

@[simp] theorem Dev.record_csr (d : Dev) (dest kind : Nat) (pl : List Byte) : (d.record dest kind pl).csr = d.csr := rfl
@[simp] theorem Dev.record_mem (d : Dev) (dest kind : Nat) (pl : List Byte) : (d.record dest kind pl).mem = d.mem := rfl
@[simp] theorem Dev.record_marks (d : Dev) (dest kind : Nat) (pl : List Byte) : (d.record dest kind pl).marks = d.marks := rfl
@[simp] theorem Dev.record_ao (d : Dev) (dest kind : Nat) (pl : List Byte) : (d.record dest kind pl).ao = d.ao := rfl
@[simp] theorem Dev.record_cyc (d : Dev) (dest kind : Nat) (pl : List Byte) : (d.record dest kind pl).cyc = d.cyc := rfl
@[simp] theorem Dev.record_evSent (d : Dev) (dest kind : Nat) (pl : List Byte) : (d.record dest kind pl).evSent = d.evSent := rfl
@[simp] theorem Dev.record_resp (d : Dev) (dest kind : Nat) (pl : List Byte) : (d.record dest kind pl).resp = d.resp := rfl
@[simp] theorem Dev.record_respRefused (d : Dev) (dest kind : Nat) (pl : List Byte) : (d.record dest kind pl).respRefused = d.respRefused := rfl
@[simp] theorem Dev.record_freeNext (d : Dev) (dest kind : Nat) (pl : List Byte) : (d.record dest kind pl).freeNext = d.freeNext := rfl
@[simp] theorem Dev.record_lines (d : Dev) (dest kind : Nat) (pl : List Byte) : (d.record dest kind pl).lines = d.lines := rfl
@[simp] theorem Dev.record_tlb (d : Dev) (dest kind : Nat) (pl : List Byte) : (d.record dest kind pl).tlb = d.tlb := rfl
@[simp] theorem Dev.record_invals (d : Dev) (dest kind : Nat) (pl : List Byte) : (d.record dest kind pl).invals = d.invals := rfl
@[simp] theorem Dev.record_clus (d : Dev) (dest kind : Nat) (pl : List Byte) : (d.record dest kind pl).clus = d.clus := rfl
@[simp] theorem Dev.record_cores (d : Dev) (dest kind : Nat) (pl : List Byte) : (d.record dest kind pl).cores = d.cores := rfl
@[simp] theorem Dev.record_stks (d : Dev) (dest kind : Nat) (pl : List Byte) : (d.record dest kind pl).stks = d.stks := rfl
@[simp] theorem Dev.record_dmas (d : Dev) (dest kind : Nat) (pl : List Byte) : (d.record dest kind pl).dmas = d.dmas := rfl
@[simp] theorem Dev.record_errs (d : Dev) (dest kind : Nat) (pl : List Byte) : (d.record dest kind pl).errs = d.errs := rfl
@[simp] theorem Dev.record_injected (d : Dev) (dest kind : Nat) (pl : List Byte) : (d.record dest kind pl).injected = d.injected := rfl
@[simp] theorem Dev.record_torn (d : Dev) (dest kind : Nat) (pl : List Byte) : (d.record dest kind pl).torn = d.torn := rfl
@[simp] theorem Dev.record_wkeys (d : Dev) (dest kind : Nat) (pl : List Byte) : (d.record dest kind pl).wkeys = d.wkeys := rfl
@[simp] theorem Dev.record_jobs (d : Dev) (dest kind : Nat) (pl : List Byte) : (d.record dest kind pl).jobs = d.jobs := rfl
@[simp] theorem Dev.record_aborts (d : Dev) (dest kind : Nat) (pl : List Byte) : (d.record dest kind pl).aborts = d.aborts := rfl
@[simp] theorem Dev.record_holdAt (d : Dev) (dest kind : Nat) (pl : List Byte) : (d.record dest kind pl).holdAt = d.holdAt := rfl
@[simp] theorem Dev.record_pwr (d : Dev) (dest kind : Nat) (pl : List Byte) : (d.record dest kind pl).pwr = d.pwr := rfl
@[simp] theorem Dev.record_thm (d : Dev) (dest kind : Nat) (pl : List Byte) : (d.record dest kind pl).thm = d.thm := rfl
@[simp] theorem Dev.record_ports (d : Dev) (dest kind : Nat) (pl : List Byte) : (d.record dest kind pl).ports = d.ports := rfl
@[simp] theorem Dev.record_paths (d : Dev) (dest kind : Nat) (pl : List Byte) : (d.record dest kind pl).paths = d.paths := rfl
@[simp] theorem Dev.record_reqs (d : Dev) (dest kind : Nat) (pl : List Byte) : (d.record dest kind pl).reqs = d.reqs := rfl
@[simp] theorem Dev.record_far (d : Dev) (dest kind : Nat) (pl : List Byte) : (d.record dest kind pl).far = d.far := rfl
@[simp] theorem Dev.record_nextId (d : Dev) (dest kind : Nat) (pl : List Byte) : (d.record dest kind pl).nextId = d.nextId := rfl
@[simp] theorem Dev.record_nextTag (d : Dev) (dest kind : Nat) (pl : List Byte) : (d.record dest kind pl).nextTag = d.nextTag := rfl
@[simp] theorem Dev.record_nextMid (d : Dev) (dest kind : Nat) (pl : List Byte) : (d.record dest kind pl).nextMid = d.nextMid := rfl
@[simp] theorem Dev.record_routes (d : Dev) (dest kind : Nat) (pl : List Byte) : (d.record dest kind pl).routes = d.routes := rfl
@[simp] theorem Dev.record_heldOps (d : Dev) (dest kind : Nat) (pl : List Byte) : (d.record dest kind pl).heldOps = d.heldOps := rfl
@[simp] theorem Dev.record_sigWaits (d : Dev) (dest kind : Nat) (pl : List Byte) : (d.record dest kind pl).sigWaits = d.sigWaits := rfl
@[simp] theorem Dev.record_inOps (d : Dev) (dest kind : Nat) (pl : List Byte) : (d.record dest kind pl).inOps = d.inOps := rfl
@[simp] theorem Dev.record_inMsgs (d : Dev) (dest kind : Nat) (pl : List Byte) : (d.record dest kind pl).inMsgs = d.inMsgs := rfl
@[simp] theorem Dev.record_seen (d : Dev) (dest kind : Nat) (pl : List Byte) : (d.record dest kind pl).seen = d.seen := rfl
@[simp] theorem Dev.record_outMsgs (d : Dev) (dest kind : Nat) (pl : List Byte) : (d.record dest kind pl).outMsgs = d.outMsgs := rfl
@[simp] theorem Dev.record_qps (d : Dev) (dest kind : Nat) (pl : List Byte) : (d.record dest kind pl).qps = d.qps := rfl
@[simp] theorem Dev.record_pulls (d : Dev) (dest kind : Nat) (pl : List Byte) : (d.record dest kind pl).pulls = d.pulls := rfl
@[simp] theorem Dev.record_evSeq (d : Dev) (dest kind : Nat) (pl : List Byte) : (d.record dest kind pl).evSeq = d.evSeq := rfl
@[simp] theorem Dev.record_mgtOut (d : Dev) (dest kind : Nat) (pl : List Byte) : (d.record dest kind pl).mgtOut = d.mgtOut := rfl
@[simp] theorem Dev.record_mgtTries (d : Dev) (dest kind : Nat) (pl : List Byte) : (d.record dest kind pl).mgtTries = d.mgtTries := rfl
@[simp] theorem Dev.record_dests (d : Dev) (dest kind : Nat) (pl : List Byte) : (d.record dest kind pl).dests = d.dests := rfl
@[simp] theorem Dev.record_sent (d : Dev) (dest kind : Nat) (pl : List Byte) : (d.record dest kind pl).sent = d.sent := rfl
@[simp] theorem Dev.record_work (d : Dev) (dest kind : Nat) (pl : List Byte) : (d.record dest kind pl).work = d.work := rfl
@[simp] theorem Dev.record_replyWaits (d : Dev) (dest kind : Nat) (pl : List Byte) : (d.record dest kind pl).replyWaits = d.replyWaits := rfl
@[simp] theorem Dev.record_readmit (d : Dev) (dest kind : Nat) (pl : List Byte) : (d.record dest kind pl).readmit = d.readmit := rfl
@[simp] theorem Dev.record_itemResp (d : Dev) (dest kind : Nat) (pl : List Byte) : (d.record dest kind pl).itemResp = d.itemResp := rfl
@[simp] theorem Dev.record_ptnx (d : Dev) (dest kind : Nat) (pl : List Byte) : (d.record dest kind pl).ptnx = d.ptnx := rfl
@[simp] theorem Dev.record_reqTab (d : Dev) (dest kind : Nat) (pl : List Byte) : (d.record dest kind pl).reqTab = d.reqTab := rfl
@[simp] theorem Dev.record_reqX (d : Dev) (dest kind : Nat) (pl : List Byte) : (d.record dest kind pl).reqX = d.reqX := rfl
@[simp] theorem Dev.record_batches (d : Dev) (dest kind : Nat) (pl : List Byte) : (d.record dest kind pl).batches = d.batches := rfl
@[simp] theorem Dev.record_openWaits (d : Dev) (dest kind : Nat) (pl : List Byte) : (d.record dest kind pl).openWaits = d.openWaits := rfl
@[simp] theorem Dev.record_engCmds (d : Dev) (dest kind : Nat) (pl : List Byte) : (d.record dest kind pl).engCmds = d.engCmds := rfl
@[simp] theorem Dev.record_streams (d : Dev) (dest kind : Nat) (pl : List Byte) : (d.record dest kind pl).streams = d.streams := rfl
@[simp] theorem Dev.record_glueRecs (d : Dev) (dest kind : Nat) (pl : List Byte) : (d.record dest kind pl).glueRecs = d.glueRecs := rfl
@[simp] theorem Dev.record_tap (d : Dev) (dest kind : Nat) (pl : List Byte) : (d.record dest kind pl).tap = d.tap := rfl
@[simp] theorem Dev.record_boot (d : Dev) (dest kind : Nat) (pl : List Byte) : (d.record dest kind pl).boot = d.boot := rfl
@[simp] theorem Dev.record_svcUsed (d : Dev) (dest kind : Nat) (pl : List Byte) : (d.record dest kind pl).svcUsed = d.svcUsed := rfl
@[simp] theorem Dev.record_sram (d : Dev) (dest kind : Nat) (pl : List Byte) : (d.record dest kind pl).sram = d.sram := rfl
@[simp] theorem Dev.record_sec (d : Dev) (dest kind : Nat) (pl : List Byte) : (d.record dest kind pl).sec = d.sec := rfl

/-! ### answer -/

@[simp] theorem Dev.answer_csr (d : Dev) (v : Word) : (d.answer v).csr = d.csr := rfl
@[simp] theorem Dev.answer_mem (d : Dev) (v : Word) : (d.answer v).mem = d.mem := rfl
@[simp] theorem Dev.answer_marks (d : Dev) (v : Word) : (d.answer v).marks = d.marks := rfl
@[simp] theorem Dev.answer_ao (d : Dev) (v : Word) : (d.answer v).ao = d.ao := rfl
@[simp] theorem Dev.answer_cyc (d : Dev) (v : Word) : (d.answer v).cyc = d.cyc := rfl
@[simp] theorem Dev.answer_evSent (d : Dev) (v : Word) : (d.answer v).evSent = d.evSent := rfl
@[simp] theorem Dev.answer_freeNext (d : Dev) (v : Word) : (d.answer v).freeNext = d.freeNext := rfl
@[simp] theorem Dev.answer_lines (d : Dev) (v : Word) : (d.answer v).lines = d.lines := rfl
@[simp] theorem Dev.answer_tlb (d : Dev) (v : Word) : (d.answer v).tlb = d.tlb := rfl
@[simp] theorem Dev.answer_invals (d : Dev) (v : Word) : (d.answer v).invals = d.invals := rfl
@[simp] theorem Dev.answer_clus (d : Dev) (v : Word) : (d.answer v).clus = d.clus := rfl
@[simp] theorem Dev.answer_cores (d : Dev) (v : Word) : (d.answer v).cores = d.cores := rfl
@[simp] theorem Dev.answer_stks (d : Dev) (v : Word) : (d.answer v).stks = d.stks := rfl
@[simp] theorem Dev.answer_dmas (d : Dev) (v : Word) : (d.answer v).dmas = d.dmas := rfl
@[simp] theorem Dev.answer_events (d : Dev) (v : Word) : (d.answer v).events = d.events := rfl
@[simp] theorem Dev.answer_errs (d : Dev) (v : Word) : (d.answer v).errs = d.errs := rfl
@[simp] theorem Dev.answer_injected (d : Dev) (v : Word) : (d.answer v).injected = d.injected := rfl
@[simp] theorem Dev.answer_torn (d : Dev) (v : Word) : (d.answer v).torn = d.torn := rfl
@[simp] theorem Dev.answer_wkeys (d : Dev) (v : Word) : (d.answer v).wkeys = d.wkeys := rfl
@[simp] theorem Dev.answer_jobs (d : Dev) (v : Word) : (d.answer v).jobs = d.jobs := rfl
@[simp] theorem Dev.answer_aborts (d : Dev) (v : Word) : (d.answer v).aborts = d.aborts := rfl
@[simp] theorem Dev.answer_holdAt (d : Dev) (v : Word) : (d.answer v).holdAt = d.holdAt := rfl
@[simp] theorem Dev.answer_pwr (d : Dev) (v : Word) : (d.answer v).pwr = d.pwr := rfl
@[simp] theorem Dev.answer_thm (d : Dev) (v : Word) : (d.answer v).thm = d.thm := rfl
@[simp] theorem Dev.answer_ports (d : Dev) (v : Word) : (d.answer v).ports = d.ports := rfl
@[simp] theorem Dev.answer_paths (d : Dev) (v : Word) : (d.answer v).paths = d.paths := rfl
@[simp] theorem Dev.answer_reqs (d : Dev) (v : Word) : (d.answer v).reqs = d.reqs := rfl
@[simp] theorem Dev.answer_far (d : Dev) (v : Word) : (d.answer v).far = d.far := rfl
@[simp] theorem Dev.answer_nextId (d : Dev) (v : Word) : (d.answer v).nextId = d.nextId := rfl
@[simp] theorem Dev.answer_nextTag (d : Dev) (v : Word) : (d.answer v).nextTag = d.nextTag := rfl
@[simp] theorem Dev.answer_nextMid (d : Dev) (v : Word) : (d.answer v).nextMid = d.nextMid := rfl
@[simp] theorem Dev.answer_routes (d : Dev) (v : Word) : (d.answer v).routes = d.routes := rfl
@[simp] theorem Dev.answer_heldOps (d : Dev) (v : Word) : (d.answer v).heldOps = d.heldOps := rfl
@[simp] theorem Dev.answer_sigWaits (d : Dev) (v : Word) : (d.answer v).sigWaits = d.sigWaits := rfl
@[simp] theorem Dev.answer_inOps (d : Dev) (v : Word) : (d.answer v).inOps = d.inOps := rfl
@[simp] theorem Dev.answer_inMsgs (d : Dev) (v : Word) : (d.answer v).inMsgs = d.inMsgs := rfl
@[simp] theorem Dev.answer_seen (d : Dev) (v : Word) : (d.answer v).seen = d.seen := rfl
@[simp] theorem Dev.answer_outMsgs (d : Dev) (v : Word) : (d.answer v).outMsgs = d.outMsgs := rfl
@[simp] theorem Dev.answer_qps (d : Dev) (v : Word) : (d.answer v).qps = d.qps := rfl
@[simp] theorem Dev.answer_pulls (d : Dev) (v : Word) : (d.answer v).pulls = d.pulls := rfl
@[simp] theorem Dev.answer_evSeq (d : Dev) (v : Word) : (d.answer v).evSeq = d.evSeq := rfl
@[simp] theorem Dev.answer_mgtOut (d : Dev) (v : Word) : (d.answer v).mgtOut = d.mgtOut := rfl
@[simp] theorem Dev.answer_mgtTries (d : Dev) (v : Word) : (d.answer v).mgtTries = d.mgtTries := rfl
@[simp] theorem Dev.answer_dests (d : Dev) (v : Word) : (d.answer v).dests = d.dests := rfl
@[simp] theorem Dev.answer_sent (d : Dev) (v : Word) : (d.answer v).sent = d.sent := rfl
@[simp] theorem Dev.answer_work (d : Dev) (v : Word) : (d.answer v).work = d.work := rfl
@[simp] theorem Dev.answer_replyWaits (d : Dev) (v : Word) : (d.answer v).replyWaits = d.replyWaits := rfl
@[simp] theorem Dev.answer_readmit (d : Dev) (v : Word) : (d.answer v).readmit = d.readmit := rfl
@[simp] theorem Dev.answer_itemResp (d : Dev) (v : Word) : (d.answer v).itemResp = d.itemResp := rfl
@[simp] theorem Dev.answer_ptnx (d : Dev) (v : Word) : (d.answer v).ptnx = d.ptnx := rfl
@[simp] theorem Dev.answer_reqTab (d : Dev) (v : Word) : (d.answer v).reqTab = d.reqTab := rfl
@[simp] theorem Dev.answer_reqX (d : Dev) (v : Word) : (d.answer v).reqX = d.reqX := rfl
@[simp] theorem Dev.answer_batches (d : Dev) (v : Word) : (d.answer v).batches = d.batches := rfl
@[simp] theorem Dev.answer_openWaits (d : Dev) (v : Word) : (d.answer v).openWaits = d.openWaits := rfl
@[simp] theorem Dev.answer_engCmds (d : Dev) (v : Word) : (d.answer v).engCmds = d.engCmds := rfl
@[simp] theorem Dev.answer_streams (d : Dev) (v : Word) : (d.answer v).streams = d.streams := rfl
@[simp] theorem Dev.answer_glueRecs (d : Dev) (v : Word) : (d.answer v).glueRecs = d.glueRecs := rfl
@[simp] theorem Dev.answer_tap (d : Dev) (v : Word) : (d.answer v).tap = d.tap := rfl
@[simp] theorem Dev.answer_boot (d : Dev) (v : Word) : (d.answer v).boot = d.boot := rfl
@[simp] theorem Dev.answer_svcUsed (d : Dev) (v : Word) : (d.answer v).svcUsed = d.svcUsed := rfl
@[simp] theorem Dev.answer_sram (d : Dev) (v : Word) : (d.answer v).sram = d.sram := rfl
@[simp] theorem Dev.answer_sec (d : Dev) (v : Word) : (d.answer v).sec = d.sec := rfl

/-! ### refuse -/

@[simp] theorem Dev.refuse_csr (d : Dev) : (d.refuse).csr = d.csr := rfl
@[simp] theorem Dev.refuse_mem (d : Dev) : (d.refuse).mem = d.mem := rfl
@[simp] theorem Dev.refuse_marks (d : Dev) : (d.refuse).marks = d.marks := rfl
@[simp] theorem Dev.refuse_ao (d : Dev) : (d.refuse).ao = d.ao := rfl
@[simp] theorem Dev.refuse_cyc (d : Dev) : (d.refuse).cyc = d.cyc := rfl
@[simp] theorem Dev.refuse_evSent (d : Dev) : (d.refuse).evSent = d.evSent := rfl
@[simp] theorem Dev.refuse_freeNext (d : Dev) : (d.refuse).freeNext = d.freeNext := rfl
@[simp] theorem Dev.refuse_lines (d : Dev) : (d.refuse).lines = d.lines := rfl
@[simp] theorem Dev.refuse_tlb (d : Dev) : (d.refuse).tlb = d.tlb := rfl
@[simp] theorem Dev.refuse_invals (d : Dev) : (d.refuse).invals = d.invals := rfl
@[simp] theorem Dev.refuse_clus (d : Dev) : (d.refuse).clus = d.clus := rfl
@[simp] theorem Dev.refuse_cores (d : Dev) : (d.refuse).cores = d.cores := rfl
@[simp] theorem Dev.refuse_stks (d : Dev) : (d.refuse).stks = d.stks := rfl
@[simp] theorem Dev.refuse_dmas (d : Dev) : (d.refuse).dmas = d.dmas := rfl
@[simp] theorem Dev.refuse_events (d : Dev) : (d.refuse).events = d.events := rfl
@[simp] theorem Dev.refuse_errs (d : Dev) : (d.refuse).errs = d.errs := rfl
@[simp] theorem Dev.refuse_injected (d : Dev) : (d.refuse).injected = d.injected := rfl
@[simp] theorem Dev.refuse_torn (d : Dev) : (d.refuse).torn = d.torn := rfl
@[simp] theorem Dev.refuse_wkeys (d : Dev) : (d.refuse).wkeys = d.wkeys := rfl
@[simp] theorem Dev.refuse_jobs (d : Dev) : (d.refuse).jobs = d.jobs := rfl
@[simp] theorem Dev.refuse_aborts (d : Dev) : (d.refuse).aborts = d.aborts := rfl
@[simp] theorem Dev.refuse_holdAt (d : Dev) : (d.refuse).holdAt = d.holdAt := rfl
@[simp] theorem Dev.refuse_pwr (d : Dev) : (d.refuse).pwr = d.pwr := rfl
@[simp] theorem Dev.refuse_thm (d : Dev) : (d.refuse).thm = d.thm := rfl
@[simp] theorem Dev.refuse_ports (d : Dev) : (d.refuse).ports = d.ports := rfl
@[simp] theorem Dev.refuse_paths (d : Dev) : (d.refuse).paths = d.paths := rfl
@[simp] theorem Dev.refuse_reqs (d : Dev) : (d.refuse).reqs = d.reqs := rfl
@[simp] theorem Dev.refuse_far (d : Dev) : (d.refuse).far = d.far := rfl
@[simp] theorem Dev.refuse_nextId (d : Dev) : (d.refuse).nextId = d.nextId := rfl
@[simp] theorem Dev.refuse_nextTag (d : Dev) : (d.refuse).nextTag = d.nextTag := rfl
@[simp] theorem Dev.refuse_nextMid (d : Dev) : (d.refuse).nextMid = d.nextMid := rfl
@[simp] theorem Dev.refuse_routes (d : Dev) : (d.refuse).routes = d.routes := rfl
@[simp] theorem Dev.refuse_heldOps (d : Dev) : (d.refuse).heldOps = d.heldOps := rfl
@[simp] theorem Dev.refuse_sigWaits (d : Dev) : (d.refuse).sigWaits = d.sigWaits := rfl
@[simp] theorem Dev.refuse_inOps (d : Dev) : (d.refuse).inOps = d.inOps := rfl
@[simp] theorem Dev.refuse_inMsgs (d : Dev) : (d.refuse).inMsgs = d.inMsgs := rfl
@[simp] theorem Dev.refuse_seen (d : Dev) : (d.refuse).seen = d.seen := rfl
@[simp] theorem Dev.refuse_outMsgs (d : Dev) : (d.refuse).outMsgs = d.outMsgs := rfl
@[simp] theorem Dev.refuse_qps (d : Dev) : (d.refuse).qps = d.qps := rfl
@[simp] theorem Dev.refuse_pulls (d : Dev) : (d.refuse).pulls = d.pulls := rfl
@[simp] theorem Dev.refuse_evSeq (d : Dev) : (d.refuse).evSeq = d.evSeq := rfl
@[simp] theorem Dev.refuse_mgtOut (d : Dev) : (d.refuse).mgtOut = d.mgtOut := rfl
@[simp] theorem Dev.refuse_mgtTries (d : Dev) : (d.refuse).mgtTries = d.mgtTries := rfl
@[simp] theorem Dev.refuse_dests (d : Dev) : (d.refuse).dests = d.dests := rfl
@[simp] theorem Dev.refuse_sent (d : Dev) : (d.refuse).sent = d.sent := rfl
@[simp] theorem Dev.refuse_work (d : Dev) : (d.refuse).work = d.work := rfl
@[simp] theorem Dev.refuse_replyWaits (d : Dev) : (d.refuse).replyWaits = d.replyWaits := rfl
@[simp] theorem Dev.refuse_readmit (d : Dev) : (d.refuse).readmit = d.readmit := rfl
@[simp] theorem Dev.refuse_itemResp (d : Dev) : (d.refuse).itemResp = d.itemResp := rfl
@[simp] theorem Dev.refuse_ptnx (d : Dev) : (d.refuse).ptnx = d.ptnx := rfl
@[simp] theorem Dev.refuse_reqTab (d : Dev) : (d.refuse).reqTab = d.reqTab := rfl
@[simp] theorem Dev.refuse_reqX (d : Dev) : (d.refuse).reqX = d.reqX := rfl
@[simp] theorem Dev.refuse_batches (d : Dev) : (d.refuse).batches = d.batches := rfl
@[simp] theorem Dev.refuse_openWaits (d : Dev) : (d.refuse).openWaits = d.openWaits := rfl
@[simp] theorem Dev.refuse_engCmds (d : Dev) : (d.refuse).engCmds = d.engCmds := rfl
@[simp] theorem Dev.refuse_streams (d : Dev) : (d.refuse).streams = d.streams := rfl
@[simp] theorem Dev.refuse_glueRecs (d : Dev) : (d.refuse).glueRecs = d.glueRecs := rfl
@[simp] theorem Dev.refuse_tap (d : Dev) : (d.refuse).tap = d.tap := rfl
@[simp] theorem Dev.refuse_boot (d : Dev) : (d.refuse).boot = d.boot := rfl
@[simp] theorem Dev.refuse_svcUsed (d : Dev) : (d.refuse).svcUsed = d.svcUsed := rfl
@[simp] theorem Dev.refuse_sram (d : Dev) : (d.refuse).sram = d.sram := rfl
@[simp] theorem Dev.refuse_sec (d : Dev) : (d.refuse).sec = d.sec := rfl

/-! ### setClu -/

@[simp] theorem Dev.setClu_csr (d : Dev) (n : Nat) (c : Clu) : (d.setClu n c).csr = d.csr := rfl
@[simp] theorem Dev.setClu_mem (d : Dev) (n : Nat) (c : Clu) : (d.setClu n c).mem = d.mem := rfl
@[simp] theorem Dev.setClu_marks (d : Dev) (n : Nat) (c : Clu) : (d.setClu n c).marks = d.marks := rfl
@[simp] theorem Dev.setClu_ao (d : Dev) (n : Nat) (c : Clu) : (d.setClu n c).ao = d.ao := rfl
@[simp] theorem Dev.setClu_cyc (d : Dev) (n : Nat) (c : Clu) : (d.setClu n c).cyc = d.cyc := rfl
@[simp] theorem Dev.setClu_evSent (d : Dev) (n : Nat) (c : Clu) : (d.setClu n c).evSent = d.evSent := rfl
@[simp] theorem Dev.setClu_resp (d : Dev) (n : Nat) (c : Clu) : (d.setClu n c).resp = d.resp := rfl
@[simp] theorem Dev.setClu_respRefused (d : Dev) (n : Nat) (c : Clu) : (d.setClu n c).respRefused = d.respRefused := rfl
@[simp] theorem Dev.setClu_freeNext (d : Dev) (n : Nat) (c : Clu) : (d.setClu n c).freeNext = d.freeNext := rfl
@[simp] theorem Dev.setClu_lines (d : Dev) (n : Nat) (c : Clu) : (d.setClu n c).lines = d.lines := rfl
@[simp] theorem Dev.setClu_tlb (d : Dev) (n : Nat) (c : Clu) : (d.setClu n c).tlb = d.tlb := rfl
@[simp] theorem Dev.setClu_invals (d : Dev) (n : Nat) (c : Clu) : (d.setClu n c).invals = d.invals := rfl
@[simp] theorem Dev.setClu_cores (d : Dev) (n : Nat) (c : Clu) : (d.setClu n c).cores = d.cores := rfl
@[simp] theorem Dev.setClu_stks (d : Dev) (n : Nat) (c : Clu) : (d.setClu n c).stks = d.stks := rfl
@[simp] theorem Dev.setClu_dmas (d : Dev) (n : Nat) (c : Clu) : (d.setClu n c).dmas = d.dmas := rfl
@[simp] theorem Dev.setClu_events (d : Dev) (n : Nat) (c : Clu) : (d.setClu n c).events = d.events := rfl
@[simp] theorem Dev.setClu_errs (d : Dev) (n : Nat) (c : Clu) : (d.setClu n c).errs = d.errs := rfl
@[simp] theorem Dev.setClu_injected (d : Dev) (n : Nat) (c : Clu) : (d.setClu n c).injected = d.injected := rfl
@[simp] theorem Dev.setClu_torn (d : Dev) (n : Nat) (c : Clu) : (d.setClu n c).torn = d.torn := rfl
@[simp] theorem Dev.setClu_wkeys (d : Dev) (n : Nat) (c : Clu) : (d.setClu n c).wkeys = d.wkeys := rfl
@[simp] theorem Dev.setClu_jobs (d : Dev) (n : Nat) (c : Clu) : (d.setClu n c).jobs = d.jobs := rfl
@[simp] theorem Dev.setClu_aborts (d : Dev) (n : Nat) (c : Clu) : (d.setClu n c).aborts = d.aborts := rfl
@[simp] theorem Dev.setClu_holdAt (d : Dev) (n : Nat) (c : Clu) : (d.setClu n c).holdAt = d.holdAt := rfl
@[simp] theorem Dev.setClu_pwr (d : Dev) (n : Nat) (c : Clu) : (d.setClu n c).pwr = d.pwr := rfl
@[simp] theorem Dev.setClu_thm (d : Dev) (n : Nat) (c : Clu) : (d.setClu n c).thm = d.thm := rfl
@[simp] theorem Dev.setClu_ports (d : Dev) (n : Nat) (c : Clu) : (d.setClu n c).ports = d.ports := rfl
@[simp] theorem Dev.setClu_paths (d : Dev) (n : Nat) (c : Clu) : (d.setClu n c).paths = d.paths := rfl
@[simp] theorem Dev.setClu_reqs (d : Dev) (n : Nat) (c : Clu) : (d.setClu n c).reqs = d.reqs := rfl
@[simp] theorem Dev.setClu_far (d : Dev) (n : Nat) (c : Clu) : (d.setClu n c).far = d.far := rfl
@[simp] theorem Dev.setClu_nextId (d : Dev) (n : Nat) (c : Clu) : (d.setClu n c).nextId = d.nextId := rfl
@[simp] theorem Dev.setClu_nextTag (d : Dev) (n : Nat) (c : Clu) : (d.setClu n c).nextTag = d.nextTag := rfl
@[simp] theorem Dev.setClu_nextMid (d : Dev) (n : Nat) (c : Clu) : (d.setClu n c).nextMid = d.nextMid := rfl
@[simp] theorem Dev.setClu_routes (d : Dev) (n : Nat) (c : Clu) : (d.setClu n c).routes = d.routes := rfl
@[simp] theorem Dev.setClu_heldOps (d : Dev) (n : Nat) (c : Clu) : (d.setClu n c).heldOps = d.heldOps := rfl
@[simp] theorem Dev.setClu_sigWaits (d : Dev) (n : Nat) (c : Clu) : (d.setClu n c).sigWaits = d.sigWaits := rfl
@[simp] theorem Dev.setClu_inOps (d : Dev) (n : Nat) (c : Clu) : (d.setClu n c).inOps = d.inOps := rfl
@[simp] theorem Dev.setClu_inMsgs (d : Dev) (n : Nat) (c : Clu) : (d.setClu n c).inMsgs = d.inMsgs := rfl
@[simp] theorem Dev.setClu_seen (d : Dev) (n : Nat) (c : Clu) : (d.setClu n c).seen = d.seen := rfl
@[simp] theorem Dev.setClu_outMsgs (d : Dev) (n : Nat) (c : Clu) : (d.setClu n c).outMsgs = d.outMsgs := rfl
@[simp] theorem Dev.setClu_qps (d : Dev) (n : Nat) (c : Clu) : (d.setClu n c).qps = d.qps := rfl
@[simp] theorem Dev.setClu_pulls (d : Dev) (n : Nat) (c : Clu) : (d.setClu n c).pulls = d.pulls := rfl
@[simp] theorem Dev.setClu_evSeq (d : Dev) (n : Nat) (c : Clu) : (d.setClu n c).evSeq = d.evSeq := rfl
@[simp] theorem Dev.setClu_mgtOut (d : Dev) (n : Nat) (c : Clu) : (d.setClu n c).mgtOut = d.mgtOut := rfl
@[simp] theorem Dev.setClu_mgtTries (d : Dev) (n : Nat) (c : Clu) : (d.setClu n c).mgtTries = d.mgtTries := rfl
@[simp] theorem Dev.setClu_dests (d : Dev) (n : Nat) (c : Clu) : (d.setClu n c).dests = d.dests := rfl
@[simp] theorem Dev.setClu_sent (d : Dev) (n : Nat) (c : Clu) : (d.setClu n c).sent = d.sent := rfl
@[simp] theorem Dev.setClu_work (d : Dev) (n : Nat) (c : Clu) : (d.setClu n c).work = d.work := rfl
@[simp] theorem Dev.setClu_replyWaits (d : Dev) (n : Nat) (c : Clu) : (d.setClu n c).replyWaits = d.replyWaits := rfl
@[simp] theorem Dev.setClu_readmit (d : Dev) (n : Nat) (c : Clu) : (d.setClu n c).readmit = d.readmit := rfl
@[simp] theorem Dev.setClu_itemResp (d : Dev) (n : Nat) (c : Clu) : (d.setClu n c).itemResp = d.itemResp := rfl
@[simp] theorem Dev.setClu_ptnx (d : Dev) (n : Nat) (c : Clu) : (d.setClu n c).ptnx = d.ptnx := rfl
@[simp] theorem Dev.setClu_reqTab (d : Dev) (n : Nat) (c : Clu) : (d.setClu n c).reqTab = d.reqTab := rfl
@[simp] theorem Dev.setClu_reqX (d : Dev) (n : Nat) (c : Clu) : (d.setClu n c).reqX = d.reqX := rfl
@[simp] theorem Dev.setClu_batches (d : Dev) (n : Nat) (c : Clu) : (d.setClu n c).batches = d.batches := rfl
@[simp] theorem Dev.setClu_openWaits (d : Dev) (n : Nat) (c : Clu) : (d.setClu n c).openWaits = d.openWaits := rfl
@[simp] theorem Dev.setClu_engCmds (d : Dev) (n : Nat) (c : Clu) : (d.setClu n c).engCmds = d.engCmds := rfl
@[simp] theorem Dev.setClu_streams (d : Dev) (n : Nat) (c : Clu) : (d.setClu n c).streams = d.streams := rfl
@[simp] theorem Dev.setClu_glueRecs (d : Dev) (n : Nat) (c : Clu) : (d.setClu n c).glueRecs = d.glueRecs := rfl
@[simp] theorem Dev.setClu_tap (d : Dev) (n : Nat) (c : Clu) : (d.setClu n c).tap = d.tap := rfl
@[simp] theorem Dev.setClu_boot (d : Dev) (n : Nat) (c : Clu) : (d.setClu n c).boot = d.boot := rfl
@[simp] theorem Dev.setClu_svcUsed (d : Dev) (n : Nat) (c : Clu) : (d.setClu n c).svcUsed = d.svcUsed := rfl
@[simp] theorem Dev.setClu_sram (d : Dev) (n : Nat) (c : Clu) : (d.setClu n c).sram = d.sram := rfl
@[simp] theorem Dev.setClu_sec (d : Dev) (n : Nat) (c : Clu) : (d.setClu n c).sec = d.sec := rfl

/-! ### setCore -/

@[simp] theorem Dev.setCore_csr (d : Dev) (n k : Nat) (c : Core) : (d.setCore n k c).csr = d.csr := rfl
@[simp] theorem Dev.setCore_mem (d : Dev) (n k : Nat) (c : Core) : (d.setCore n k c).mem = d.mem := rfl
@[simp] theorem Dev.setCore_marks (d : Dev) (n k : Nat) (c : Core) : (d.setCore n k c).marks = d.marks := rfl
@[simp] theorem Dev.setCore_ao (d : Dev) (n k : Nat) (c : Core) : (d.setCore n k c).ao = d.ao := rfl
@[simp] theorem Dev.setCore_cyc (d : Dev) (n k : Nat) (c : Core) : (d.setCore n k c).cyc = d.cyc := rfl
@[simp] theorem Dev.setCore_evSent (d : Dev) (n k : Nat) (c : Core) : (d.setCore n k c).evSent = d.evSent := rfl
@[simp] theorem Dev.setCore_resp (d : Dev) (n k : Nat) (c : Core) : (d.setCore n k c).resp = d.resp := rfl
@[simp] theorem Dev.setCore_respRefused (d : Dev) (n k : Nat) (c : Core) : (d.setCore n k c).respRefused = d.respRefused := rfl
@[simp] theorem Dev.setCore_freeNext (d : Dev) (n k : Nat) (c : Core) : (d.setCore n k c).freeNext = d.freeNext := rfl
@[simp] theorem Dev.setCore_lines (d : Dev) (n k : Nat) (c : Core) : (d.setCore n k c).lines = d.lines := rfl
@[simp] theorem Dev.setCore_tlb (d : Dev) (n k : Nat) (c : Core) : (d.setCore n k c).tlb = d.tlb := rfl
@[simp] theorem Dev.setCore_invals (d : Dev) (n k : Nat) (c : Core) : (d.setCore n k c).invals = d.invals := rfl
@[simp] theorem Dev.setCore_clus (d : Dev) (n k : Nat) (c : Core) : (d.setCore n k c).clus = d.clus := rfl
@[simp] theorem Dev.setCore_stks (d : Dev) (n k : Nat) (c : Core) : (d.setCore n k c).stks = d.stks := rfl
@[simp] theorem Dev.setCore_dmas (d : Dev) (n k : Nat) (c : Core) : (d.setCore n k c).dmas = d.dmas := rfl
@[simp] theorem Dev.setCore_events (d : Dev) (n k : Nat) (c : Core) : (d.setCore n k c).events = d.events := rfl
@[simp] theorem Dev.setCore_errs (d : Dev) (n k : Nat) (c : Core) : (d.setCore n k c).errs = d.errs := rfl
@[simp] theorem Dev.setCore_injected (d : Dev) (n k : Nat) (c : Core) : (d.setCore n k c).injected = d.injected := rfl
@[simp] theorem Dev.setCore_torn (d : Dev) (n k : Nat) (c : Core) : (d.setCore n k c).torn = d.torn := rfl
@[simp] theorem Dev.setCore_wkeys (d : Dev) (n k : Nat) (c : Core) : (d.setCore n k c).wkeys = d.wkeys := rfl
@[simp] theorem Dev.setCore_jobs (d : Dev) (n k : Nat) (c : Core) : (d.setCore n k c).jobs = d.jobs := rfl
@[simp] theorem Dev.setCore_aborts (d : Dev) (n k : Nat) (c : Core) : (d.setCore n k c).aborts = d.aborts := rfl
@[simp] theorem Dev.setCore_holdAt (d : Dev) (n k : Nat) (c : Core) : (d.setCore n k c).holdAt = d.holdAt := rfl
@[simp] theorem Dev.setCore_pwr (d : Dev) (n k : Nat) (c : Core) : (d.setCore n k c).pwr = d.pwr := rfl
@[simp] theorem Dev.setCore_thm (d : Dev) (n k : Nat) (c : Core) : (d.setCore n k c).thm = d.thm := rfl
@[simp] theorem Dev.setCore_ports (d : Dev) (n k : Nat) (c : Core) : (d.setCore n k c).ports = d.ports := rfl
@[simp] theorem Dev.setCore_paths (d : Dev) (n k : Nat) (c : Core) : (d.setCore n k c).paths = d.paths := rfl
@[simp] theorem Dev.setCore_reqs (d : Dev) (n k : Nat) (c : Core) : (d.setCore n k c).reqs = d.reqs := rfl
@[simp] theorem Dev.setCore_far (d : Dev) (n k : Nat) (c : Core) : (d.setCore n k c).far = d.far := rfl
@[simp] theorem Dev.setCore_nextId (d : Dev) (n k : Nat) (c : Core) : (d.setCore n k c).nextId = d.nextId := rfl
@[simp] theorem Dev.setCore_nextTag (d : Dev) (n k : Nat) (c : Core) : (d.setCore n k c).nextTag = d.nextTag := rfl
@[simp] theorem Dev.setCore_nextMid (d : Dev) (n k : Nat) (c : Core) : (d.setCore n k c).nextMid = d.nextMid := rfl
@[simp] theorem Dev.setCore_routes (d : Dev) (n k : Nat) (c : Core) : (d.setCore n k c).routes = d.routes := rfl
@[simp] theorem Dev.setCore_heldOps (d : Dev) (n k : Nat) (c : Core) : (d.setCore n k c).heldOps = d.heldOps := rfl
@[simp] theorem Dev.setCore_sigWaits (d : Dev) (n k : Nat) (c : Core) : (d.setCore n k c).sigWaits = d.sigWaits := rfl
@[simp] theorem Dev.setCore_inOps (d : Dev) (n k : Nat) (c : Core) : (d.setCore n k c).inOps = d.inOps := rfl
@[simp] theorem Dev.setCore_inMsgs (d : Dev) (n k : Nat) (c : Core) : (d.setCore n k c).inMsgs = d.inMsgs := rfl
@[simp] theorem Dev.setCore_seen (d : Dev) (n k : Nat) (c : Core) : (d.setCore n k c).seen = d.seen := rfl
@[simp] theorem Dev.setCore_outMsgs (d : Dev) (n k : Nat) (c : Core) : (d.setCore n k c).outMsgs = d.outMsgs := rfl
@[simp] theorem Dev.setCore_qps (d : Dev) (n k : Nat) (c : Core) : (d.setCore n k c).qps = d.qps := rfl
@[simp] theorem Dev.setCore_pulls (d : Dev) (n k : Nat) (c : Core) : (d.setCore n k c).pulls = d.pulls := rfl
@[simp] theorem Dev.setCore_evSeq (d : Dev) (n k : Nat) (c : Core) : (d.setCore n k c).evSeq = d.evSeq := rfl
@[simp] theorem Dev.setCore_mgtOut (d : Dev) (n k : Nat) (c : Core) : (d.setCore n k c).mgtOut = d.mgtOut := rfl
@[simp] theorem Dev.setCore_mgtTries (d : Dev) (n k : Nat) (c : Core) : (d.setCore n k c).mgtTries = d.mgtTries := rfl
@[simp] theorem Dev.setCore_dests (d : Dev) (n k : Nat) (c : Core) : (d.setCore n k c).dests = d.dests := rfl
@[simp] theorem Dev.setCore_sent (d : Dev) (n k : Nat) (c : Core) : (d.setCore n k c).sent = d.sent := rfl
@[simp] theorem Dev.setCore_work (d : Dev) (n k : Nat) (c : Core) : (d.setCore n k c).work = d.work := rfl
@[simp] theorem Dev.setCore_replyWaits (d : Dev) (n k : Nat) (c : Core) : (d.setCore n k c).replyWaits = d.replyWaits := rfl
@[simp] theorem Dev.setCore_readmit (d : Dev) (n k : Nat) (c : Core) : (d.setCore n k c).readmit = d.readmit := rfl
@[simp] theorem Dev.setCore_itemResp (d : Dev) (n k : Nat) (c : Core) : (d.setCore n k c).itemResp = d.itemResp := rfl
@[simp] theorem Dev.setCore_ptnx (d : Dev) (n k : Nat) (c : Core) : (d.setCore n k c).ptnx = d.ptnx := rfl
@[simp] theorem Dev.setCore_reqTab (d : Dev) (n k : Nat) (c : Core) : (d.setCore n k c).reqTab = d.reqTab := rfl
@[simp] theorem Dev.setCore_reqX (d : Dev) (n k : Nat) (c : Core) : (d.setCore n k c).reqX = d.reqX := rfl
@[simp] theorem Dev.setCore_batches (d : Dev) (n k : Nat) (c : Core) : (d.setCore n k c).batches = d.batches := rfl
@[simp] theorem Dev.setCore_openWaits (d : Dev) (n k : Nat) (c : Core) : (d.setCore n k c).openWaits = d.openWaits := rfl
@[simp] theorem Dev.setCore_engCmds (d : Dev) (n k : Nat) (c : Core) : (d.setCore n k c).engCmds = d.engCmds := rfl
@[simp] theorem Dev.setCore_streams (d : Dev) (n k : Nat) (c : Core) : (d.setCore n k c).streams = d.streams := rfl
@[simp] theorem Dev.setCore_glueRecs (d : Dev) (n k : Nat) (c : Core) : (d.setCore n k c).glueRecs = d.glueRecs := rfl
@[simp] theorem Dev.setCore_tap (d : Dev) (n k : Nat) (c : Core) : (d.setCore n k c).tap = d.tap := rfl
@[simp] theorem Dev.setCore_boot (d : Dev) (n k : Nat) (c : Core) : (d.setCore n k c).boot = d.boot := rfl
@[simp] theorem Dev.setCore_svcUsed (d : Dev) (n k : Nat) (c : Core) : (d.setCore n k c).svcUsed = d.svcUsed := rfl
@[simp] theorem Dev.setCore_sram (d : Dev) (n k : Nat) (c : Core) : (d.setCore n k c).sram = d.sram := rfl
@[simp] theorem Dev.setCore_sec (d : Dev) (n k : Nat) (c : Core) : (d.setCore n k c).sec = d.sec := rfl

/-! ### setStk -/

@[simp] theorem Dev.setStk_csr (d : Dev) (n : Nat) (x : Stk) : (d.setStk n x).csr = d.csr := rfl
@[simp] theorem Dev.setStk_mem (d : Dev) (n : Nat) (x : Stk) : (d.setStk n x).mem = d.mem := rfl
@[simp] theorem Dev.setStk_marks (d : Dev) (n : Nat) (x : Stk) : (d.setStk n x).marks = d.marks := rfl
@[simp] theorem Dev.setStk_ao (d : Dev) (n : Nat) (x : Stk) : (d.setStk n x).ao = d.ao := rfl
@[simp] theorem Dev.setStk_cyc (d : Dev) (n : Nat) (x : Stk) : (d.setStk n x).cyc = d.cyc := rfl
@[simp] theorem Dev.setStk_evSent (d : Dev) (n : Nat) (x : Stk) : (d.setStk n x).evSent = d.evSent := rfl
@[simp] theorem Dev.setStk_resp (d : Dev) (n : Nat) (x : Stk) : (d.setStk n x).resp = d.resp := rfl
@[simp] theorem Dev.setStk_respRefused (d : Dev) (n : Nat) (x : Stk) : (d.setStk n x).respRefused = d.respRefused := rfl
@[simp] theorem Dev.setStk_freeNext (d : Dev) (n : Nat) (x : Stk) : (d.setStk n x).freeNext = d.freeNext := rfl
@[simp] theorem Dev.setStk_lines (d : Dev) (n : Nat) (x : Stk) : (d.setStk n x).lines = d.lines := rfl
@[simp] theorem Dev.setStk_tlb (d : Dev) (n : Nat) (x : Stk) : (d.setStk n x).tlb = d.tlb := rfl
@[simp] theorem Dev.setStk_invals (d : Dev) (n : Nat) (x : Stk) : (d.setStk n x).invals = d.invals := rfl
@[simp] theorem Dev.setStk_clus (d : Dev) (n : Nat) (x : Stk) : (d.setStk n x).clus = d.clus := rfl
@[simp] theorem Dev.setStk_cores (d : Dev) (n : Nat) (x : Stk) : (d.setStk n x).cores = d.cores := rfl
@[simp] theorem Dev.setStk_dmas (d : Dev) (n : Nat) (x : Stk) : (d.setStk n x).dmas = d.dmas := rfl
@[simp] theorem Dev.setStk_events (d : Dev) (n : Nat) (x : Stk) : (d.setStk n x).events = d.events := rfl
@[simp] theorem Dev.setStk_errs (d : Dev) (n : Nat) (x : Stk) : (d.setStk n x).errs = d.errs := rfl
@[simp] theorem Dev.setStk_injected (d : Dev) (n : Nat) (x : Stk) : (d.setStk n x).injected = d.injected := rfl
@[simp] theorem Dev.setStk_torn (d : Dev) (n : Nat) (x : Stk) : (d.setStk n x).torn = d.torn := rfl
@[simp] theorem Dev.setStk_wkeys (d : Dev) (n : Nat) (x : Stk) : (d.setStk n x).wkeys = d.wkeys := rfl
@[simp] theorem Dev.setStk_jobs (d : Dev) (n : Nat) (x : Stk) : (d.setStk n x).jobs = d.jobs := rfl
@[simp] theorem Dev.setStk_aborts (d : Dev) (n : Nat) (x : Stk) : (d.setStk n x).aborts = d.aborts := rfl
@[simp] theorem Dev.setStk_holdAt (d : Dev) (n : Nat) (x : Stk) : (d.setStk n x).holdAt = d.holdAt := rfl
@[simp] theorem Dev.setStk_pwr (d : Dev) (n : Nat) (x : Stk) : (d.setStk n x).pwr = d.pwr := rfl
@[simp] theorem Dev.setStk_thm (d : Dev) (n : Nat) (x : Stk) : (d.setStk n x).thm = d.thm := rfl
@[simp] theorem Dev.setStk_ports (d : Dev) (n : Nat) (x : Stk) : (d.setStk n x).ports = d.ports := rfl
@[simp] theorem Dev.setStk_paths (d : Dev) (n : Nat) (x : Stk) : (d.setStk n x).paths = d.paths := rfl
@[simp] theorem Dev.setStk_reqs (d : Dev) (n : Nat) (x : Stk) : (d.setStk n x).reqs = d.reqs := rfl
@[simp] theorem Dev.setStk_far (d : Dev) (n : Nat) (x : Stk) : (d.setStk n x).far = d.far := rfl
@[simp] theorem Dev.setStk_nextId (d : Dev) (n : Nat) (x : Stk) : (d.setStk n x).nextId = d.nextId := rfl
@[simp] theorem Dev.setStk_nextTag (d : Dev) (n : Nat) (x : Stk) : (d.setStk n x).nextTag = d.nextTag := rfl
@[simp] theorem Dev.setStk_nextMid (d : Dev) (n : Nat) (x : Stk) : (d.setStk n x).nextMid = d.nextMid := rfl
@[simp] theorem Dev.setStk_routes (d : Dev) (n : Nat) (x : Stk) : (d.setStk n x).routes = d.routes := rfl
@[simp] theorem Dev.setStk_heldOps (d : Dev) (n : Nat) (x : Stk) : (d.setStk n x).heldOps = d.heldOps := rfl
@[simp] theorem Dev.setStk_sigWaits (d : Dev) (n : Nat) (x : Stk) : (d.setStk n x).sigWaits = d.sigWaits := rfl
@[simp] theorem Dev.setStk_inOps (d : Dev) (n : Nat) (x : Stk) : (d.setStk n x).inOps = d.inOps := rfl
@[simp] theorem Dev.setStk_inMsgs (d : Dev) (n : Nat) (x : Stk) : (d.setStk n x).inMsgs = d.inMsgs := rfl
@[simp] theorem Dev.setStk_seen (d : Dev) (n : Nat) (x : Stk) : (d.setStk n x).seen = d.seen := rfl
@[simp] theorem Dev.setStk_outMsgs (d : Dev) (n : Nat) (x : Stk) : (d.setStk n x).outMsgs = d.outMsgs := rfl
@[simp] theorem Dev.setStk_qps (d : Dev) (n : Nat) (x : Stk) : (d.setStk n x).qps = d.qps := rfl
@[simp] theorem Dev.setStk_pulls (d : Dev) (n : Nat) (x : Stk) : (d.setStk n x).pulls = d.pulls := rfl
@[simp] theorem Dev.setStk_evSeq (d : Dev) (n : Nat) (x : Stk) : (d.setStk n x).evSeq = d.evSeq := rfl
@[simp] theorem Dev.setStk_mgtOut (d : Dev) (n : Nat) (x : Stk) : (d.setStk n x).mgtOut = d.mgtOut := rfl
@[simp] theorem Dev.setStk_mgtTries (d : Dev) (n : Nat) (x : Stk) : (d.setStk n x).mgtTries = d.mgtTries := rfl
@[simp] theorem Dev.setStk_dests (d : Dev) (n : Nat) (x : Stk) : (d.setStk n x).dests = d.dests := rfl
@[simp] theorem Dev.setStk_sent (d : Dev) (n : Nat) (x : Stk) : (d.setStk n x).sent = d.sent := rfl
@[simp] theorem Dev.setStk_work (d : Dev) (n : Nat) (x : Stk) : (d.setStk n x).work = d.work := rfl
@[simp] theorem Dev.setStk_replyWaits (d : Dev) (n : Nat) (x : Stk) : (d.setStk n x).replyWaits = d.replyWaits := rfl
@[simp] theorem Dev.setStk_readmit (d : Dev) (n : Nat) (x : Stk) : (d.setStk n x).readmit = d.readmit := rfl
@[simp] theorem Dev.setStk_itemResp (d : Dev) (n : Nat) (x : Stk) : (d.setStk n x).itemResp = d.itemResp := rfl
@[simp] theorem Dev.setStk_ptnx (d : Dev) (n : Nat) (x : Stk) : (d.setStk n x).ptnx = d.ptnx := rfl
@[simp] theorem Dev.setStk_reqTab (d : Dev) (n : Nat) (x : Stk) : (d.setStk n x).reqTab = d.reqTab := rfl
@[simp] theorem Dev.setStk_reqX (d : Dev) (n : Nat) (x : Stk) : (d.setStk n x).reqX = d.reqX := rfl
@[simp] theorem Dev.setStk_batches (d : Dev) (n : Nat) (x : Stk) : (d.setStk n x).batches = d.batches := rfl
@[simp] theorem Dev.setStk_openWaits (d : Dev) (n : Nat) (x : Stk) : (d.setStk n x).openWaits = d.openWaits := rfl
@[simp] theorem Dev.setStk_engCmds (d : Dev) (n : Nat) (x : Stk) : (d.setStk n x).engCmds = d.engCmds := rfl
@[simp] theorem Dev.setStk_streams (d : Dev) (n : Nat) (x : Stk) : (d.setStk n x).streams = d.streams := rfl
@[simp] theorem Dev.setStk_glueRecs (d : Dev) (n : Nat) (x : Stk) : (d.setStk n x).glueRecs = d.glueRecs := rfl
@[simp] theorem Dev.setStk_tap (d : Dev) (n : Nat) (x : Stk) : (d.setStk n x).tap = d.tap := rfl
@[simp] theorem Dev.setStk_boot (d : Dev) (n : Nat) (x : Stk) : (d.setStk n x).boot = d.boot := rfl
@[simp] theorem Dev.setStk_svcUsed (d : Dev) (n : Nat) (x : Stk) : (d.setStk n x).svcUsed = d.svcUsed := rfl
@[simp] theorem Dev.setStk_sram (d : Dev) (n : Nat) (x : Stk) : (d.setStk n x).sram = d.sram := rfl
@[simp] theorem Dev.setStk_sec (d : Dev) (n : Nat) (x : Stk) : (d.setStk n x).sec = d.sec := rfl

/-! ### setDma -/

@[simp] theorem Dev.setDma_csr (d : Dev) (e : Nat) (x : Dmac) : (d.setDma e x).csr = d.csr := rfl
@[simp] theorem Dev.setDma_mem (d : Dev) (e : Nat) (x : Dmac) : (d.setDma e x).mem = d.mem := rfl
@[simp] theorem Dev.setDma_marks (d : Dev) (e : Nat) (x : Dmac) : (d.setDma e x).marks = d.marks := rfl
@[simp] theorem Dev.setDma_ao (d : Dev) (e : Nat) (x : Dmac) : (d.setDma e x).ao = d.ao := rfl
@[simp] theorem Dev.setDma_cyc (d : Dev) (e : Nat) (x : Dmac) : (d.setDma e x).cyc = d.cyc := rfl
@[simp] theorem Dev.setDma_evSent (d : Dev) (e : Nat) (x : Dmac) : (d.setDma e x).evSent = d.evSent := rfl
@[simp] theorem Dev.setDma_resp (d : Dev) (e : Nat) (x : Dmac) : (d.setDma e x).resp = d.resp := rfl
@[simp] theorem Dev.setDma_respRefused (d : Dev) (e : Nat) (x : Dmac) : (d.setDma e x).respRefused = d.respRefused := rfl
@[simp] theorem Dev.setDma_freeNext (d : Dev) (e : Nat) (x : Dmac) : (d.setDma e x).freeNext = d.freeNext := rfl
@[simp] theorem Dev.setDma_lines (d : Dev) (e : Nat) (x : Dmac) : (d.setDma e x).lines = d.lines := rfl
@[simp] theorem Dev.setDma_tlb (d : Dev) (e : Nat) (x : Dmac) : (d.setDma e x).tlb = d.tlb := rfl
@[simp] theorem Dev.setDma_invals (d : Dev) (e : Nat) (x : Dmac) : (d.setDma e x).invals = d.invals := rfl
@[simp] theorem Dev.setDma_clus (d : Dev) (e : Nat) (x : Dmac) : (d.setDma e x).clus = d.clus := rfl
@[simp] theorem Dev.setDma_cores (d : Dev) (e : Nat) (x : Dmac) : (d.setDma e x).cores = d.cores := rfl
@[simp] theorem Dev.setDma_stks (d : Dev) (e : Nat) (x : Dmac) : (d.setDma e x).stks = d.stks := rfl
@[simp] theorem Dev.setDma_events (d : Dev) (e : Nat) (x : Dmac) : (d.setDma e x).events = d.events := rfl
@[simp] theorem Dev.setDma_errs (d : Dev) (e : Nat) (x : Dmac) : (d.setDma e x).errs = d.errs := rfl
@[simp] theorem Dev.setDma_injected (d : Dev) (e : Nat) (x : Dmac) : (d.setDma e x).injected = d.injected := rfl
@[simp] theorem Dev.setDma_torn (d : Dev) (e : Nat) (x : Dmac) : (d.setDma e x).torn = d.torn := rfl
@[simp] theorem Dev.setDma_wkeys (d : Dev) (e : Nat) (x : Dmac) : (d.setDma e x).wkeys = d.wkeys := rfl
@[simp] theorem Dev.setDma_jobs (d : Dev) (e : Nat) (x : Dmac) : (d.setDma e x).jobs = d.jobs := rfl
@[simp] theorem Dev.setDma_aborts (d : Dev) (e : Nat) (x : Dmac) : (d.setDma e x).aborts = d.aborts := rfl
@[simp] theorem Dev.setDma_holdAt (d : Dev) (e : Nat) (x : Dmac) : (d.setDma e x).holdAt = d.holdAt := rfl
@[simp] theorem Dev.setDma_pwr (d : Dev) (e : Nat) (x : Dmac) : (d.setDma e x).pwr = d.pwr := rfl
@[simp] theorem Dev.setDma_thm (d : Dev) (e : Nat) (x : Dmac) : (d.setDma e x).thm = d.thm := rfl
@[simp] theorem Dev.setDma_ports (d : Dev) (e : Nat) (x : Dmac) : (d.setDma e x).ports = d.ports := rfl
@[simp] theorem Dev.setDma_paths (d : Dev) (e : Nat) (x : Dmac) : (d.setDma e x).paths = d.paths := rfl
@[simp] theorem Dev.setDma_reqs (d : Dev) (e : Nat) (x : Dmac) : (d.setDma e x).reqs = d.reqs := rfl
@[simp] theorem Dev.setDma_far (d : Dev) (e : Nat) (x : Dmac) : (d.setDma e x).far = d.far := rfl
@[simp] theorem Dev.setDma_nextId (d : Dev) (e : Nat) (x : Dmac) : (d.setDma e x).nextId = d.nextId := rfl
@[simp] theorem Dev.setDma_nextTag (d : Dev) (e : Nat) (x : Dmac) : (d.setDma e x).nextTag = d.nextTag := rfl
@[simp] theorem Dev.setDma_nextMid (d : Dev) (e : Nat) (x : Dmac) : (d.setDma e x).nextMid = d.nextMid := rfl
@[simp] theorem Dev.setDma_routes (d : Dev) (e : Nat) (x : Dmac) : (d.setDma e x).routes = d.routes := rfl
@[simp] theorem Dev.setDma_heldOps (d : Dev) (e : Nat) (x : Dmac) : (d.setDma e x).heldOps = d.heldOps := rfl
@[simp] theorem Dev.setDma_sigWaits (d : Dev) (e : Nat) (x : Dmac) : (d.setDma e x).sigWaits = d.sigWaits := rfl
@[simp] theorem Dev.setDma_inOps (d : Dev) (e : Nat) (x : Dmac) : (d.setDma e x).inOps = d.inOps := rfl
@[simp] theorem Dev.setDma_inMsgs (d : Dev) (e : Nat) (x : Dmac) : (d.setDma e x).inMsgs = d.inMsgs := rfl
@[simp] theorem Dev.setDma_seen (d : Dev) (e : Nat) (x : Dmac) : (d.setDma e x).seen = d.seen := rfl
@[simp] theorem Dev.setDma_outMsgs (d : Dev) (e : Nat) (x : Dmac) : (d.setDma e x).outMsgs = d.outMsgs := rfl
@[simp] theorem Dev.setDma_qps (d : Dev) (e : Nat) (x : Dmac) : (d.setDma e x).qps = d.qps := rfl
@[simp] theorem Dev.setDma_pulls (d : Dev) (e : Nat) (x : Dmac) : (d.setDma e x).pulls = d.pulls := rfl
@[simp] theorem Dev.setDma_evSeq (d : Dev) (e : Nat) (x : Dmac) : (d.setDma e x).evSeq = d.evSeq := rfl
@[simp] theorem Dev.setDma_mgtOut (d : Dev) (e : Nat) (x : Dmac) : (d.setDma e x).mgtOut = d.mgtOut := rfl
@[simp] theorem Dev.setDma_mgtTries (d : Dev) (e : Nat) (x : Dmac) : (d.setDma e x).mgtTries = d.mgtTries := rfl
@[simp] theorem Dev.setDma_dests (d : Dev) (e : Nat) (x : Dmac) : (d.setDma e x).dests = d.dests := rfl
@[simp] theorem Dev.setDma_sent (d : Dev) (e : Nat) (x : Dmac) : (d.setDma e x).sent = d.sent := rfl
@[simp] theorem Dev.setDma_work (d : Dev) (e : Nat) (x : Dmac) : (d.setDma e x).work = d.work := rfl
@[simp] theorem Dev.setDma_replyWaits (d : Dev) (e : Nat) (x : Dmac) : (d.setDma e x).replyWaits = d.replyWaits := rfl
@[simp] theorem Dev.setDma_readmit (d : Dev) (e : Nat) (x : Dmac) : (d.setDma e x).readmit = d.readmit := rfl
@[simp] theorem Dev.setDma_itemResp (d : Dev) (e : Nat) (x : Dmac) : (d.setDma e x).itemResp = d.itemResp := rfl
@[simp] theorem Dev.setDma_ptnx (d : Dev) (e : Nat) (x : Dmac) : (d.setDma e x).ptnx = d.ptnx := rfl
@[simp] theorem Dev.setDma_reqTab (d : Dev) (e : Nat) (x : Dmac) : (d.setDma e x).reqTab = d.reqTab := rfl
@[simp] theorem Dev.setDma_reqX (d : Dev) (e : Nat) (x : Dmac) : (d.setDma e x).reqX = d.reqX := rfl
@[simp] theorem Dev.setDma_batches (d : Dev) (e : Nat) (x : Dmac) : (d.setDma e x).batches = d.batches := rfl
@[simp] theorem Dev.setDma_openWaits (d : Dev) (e : Nat) (x : Dmac) : (d.setDma e x).openWaits = d.openWaits := rfl
@[simp] theorem Dev.setDma_engCmds (d : Dev) (e : Nat) (x : Dmac) : (d.setDma e x).engCmds = d.engCmds := rfl
@[simp] theorem Dev.setDma_streams (d : Dev) (e : Nat) (x : Dmac) : (d.setDma e x).streams = d.streams := rfl
@[simp] theorem Dev.setDma_glueRecs (d : Dev) (e : Nat) (x : Dmac) : (d.setDma e x).glueRecs = d.glueRecs := rfl
@[simp] theorem Dev.setDma_tap (d : Dev) (e : Nat) (x : Dmac) : (d.setDma e x).tap = d.tap := rfl
@[simp] theorem Dev.setDma_boot (d : Dev) (e : Nat) (x : Dmac) : (d.setDma e x).boot = d.boot := rfl
@[simp] theorem Dev.setDma_svcUsed (d : Dev) (e : Nat) (x : Dmac) : (d.setDma e x).svcUsed = d.svcUsed := rfl
@[simp] theorem Dev.setDma_sram (d : Dev) (e : Nat) (x : Dmac) : (d.setDma e x).sram = d.sram := rfl
@[simp] theorem Dev.setDma_sec (d : Dev) (e : Nat) (x : Dmac) : (d.setDma e x).sec = d.sec := rfl

end Sys2Proof.Machine
end

