-- ==== Sys2Proof/Laws/Tbl.lean ====
section
/-! SUPPORT. Laws of the sparse tables: what is read after a put, an erase, a put with an unlisted default; the canonical form. -/

namespace Sys2Proof

variable {α : Type}

/-- What was put is read. -/
@[simp] theorem tget?_tput_same (t : Tbl α) (k : Nat) (v : α) : tget? (tput t k v) k = some v := by
  induction t with
  | nil => simp [tput, tget?]
  | cons e t ih =>
    obtain ⟨j, w⟩ := e
    simp only [tput]
    split
    · simp [tget?]
    · split
      · simp [tget?]
      · simp [tget?, *]

/-- A put leaves every other key alone. -/
theorem tget?_tput_ne (t : Tbl α) {k j : Nat} (v : α) (h : j ≠ k) : tget? (tput t k v) j = tget? t j := by
  induction t with
  | nil => simp [tput, tget?, h]
  | cons e t ih =>
    obtain ⟨i, w⟩ := e
    simp only [tput]
    split
    · simp [tget?, h]
    · split
      · next hk => subst hk; simp [tget?, h]
      · simp [tget?, ih]

@[simp] theorem tgetD_tput_same (t : Tbl α) (k : Nat) (v x : α) : tgetD (tput t k v) k x = v := by simp [tgetD]

theorem tgetD_tput_ne (t : Tbl α) {k j : Nat} (v x : α) (h : j ≠ k) : tgetD (tput t k v) j x = tgetD t j x := by
  simp [tgetD, tget?_tput_ne t v h]

/-- The two cases at once. -/
theorem tgetD_tput (t : Tbl α) (k j : Nat) (v x : α) : tgetD (tput t k v) j x = if j = k then v else tgetD t j x := by
  split
  · next h => subst h; simp
  · next h => exact tgetD_tput_ne t v x h

/-- An erased key is not listed. -/
@[simp] theorem tget?_tdel_same (t : Tbl α) (k : Nat) : tget? (tdel t k) k = none := by
  induction t with
  | nil => rfl
  | cons e t ih =>
    obtain ⟨j, w⟩ := e
    simp only [tdel, List.filter_cons]
    split
    · next h => simp only [ne_eq, decide_not, Bool.not_eq_eq_eq_not, Bool.not_true, decide_eq_false_iff_not] at h
                simp only [tget?, if_neg (Ne.symm h)]; exact ih
    · exact ih

/-- An erase leaves every other key alone. -/
theorem tget?_tdel_ne (t : Tbl α) {k j : Nat} (h : j ≠ k) : tget? (tdel t k) j = tget? t j := by
  induction t with
  | nil => rfl
  | cons e t ih =>
    obtain ⟨i, w⟩ := e
    simp only [tdel, List.filter_cons]
    split
    · simp only [tget?]; split
      · rfl
      · exact ih
    · next hk =>
      simp only [ne_eq, decide_not, Bool.not_eq_eq_eq_not, Bool.not_true, decide_eq_false_iff_not, not_not] at hk
      subst hk
      simp only [tget?, if_neg h]; exact ih

/-- A put of a value over an unlisted default reads back. -/
@[simp] theorem tgetD_tset_same [DecidableEq α] (t : Tbl α) (k : Nat) (v x : α) : tgetD (tset t k v x) k x = v := by
  unfold tset
  split
  · next h => subst h; simp [tgetD]
  · simp

/-- A put over an unlisted default leaves every other key alone. -/
theorem tgetD_tset_ne [DecidableEq α] (t : Tbl α) {k j : Nat} (v x : α) (h : j ≠ k) : tgetD (tset t k v x) j x = tgetD t j x := by
  unfold tset
  split
  · simp [tgetD, tget?_tdel_ne t h]
  · exact tgetD_tput_ne t v x h

/-! ### The canonical form -/

theorem rising_tput {t : Tbl α} (h : Tbl.Rising t) (k : Nat) (v : α) : Tbl.Rising (tput t k v) := by
  induction t with
  | nil => simp [tput, Tbl.Rising]
  | cons e t ih =>
    obtain ⟨j, w⟩ := e
    rw [Tbl.Rising, List.map_cons, List.pairwise_cons] at h
    obtain ⟨hj, ht⟩ := h
    simp only [tput]
    split
    · next hk =>
      rw [Tbl.Rising, List.map_cons, List.map_cons, List.pairwise_cons, List.pairwise_cons]
      refine ⟨?_, hj, ht⟩
      intro a ha
      rw [List.mem_cons] at ha
      rcases ha with rfl | ha
      · exact hk
      · exact Nat.lt_trans hk (hj a ha)
    · next hk =>
      split
      · next he =>
        subst he
        rw [Tbl.Rising, List.map_cons, List.pairwise_cons]
        exact ⟨hj, ht⟩
      · next he =>
        rw [Tbl.Rising, List.map_cons, List.pairwise_cons]
        refine ⟨?_, ih ht⟩
        intro a ha
        have key : ∀ (l : Tbl α), a ∈ (tput l k v).map Prod.fst → a = k ∨ a ∈ l.map Prod.fst := by
          intro l
          induction l with
          | nil => simp [tput]
          | cons e l ihl =>
            obtain ⟨i, u⟩ := e
            simp only [tput]
            split
            · simp
            · split
              · next hh => subst hh; simp
              · intro hm
                simp only [List.map_cons, List.mem_cons] at hm ⊢
                rcases hm with rfl | hm
                · exact .inr (.inl rfl)
                · rcases ihl hm with rfl | hm
                  · exact .inl rfl
                  · exact .inr (.inr hm)
        rcases key t ha with rfl | hm
        · show j < a; omega
        · exact hj a hm

theorem rising_filter {t : Tbl α} (h : Tbl.Rising t) (p : Nat × α → Bool) : Tbl.Rising (t.filter p) :=
  List.Pairwise.sublist (List.Sublist.map _ List.filter_sublist) h

theorem canon_filter {t : Tbl α} {f : Nat → α} (h : Tbl.Canon f t) (p : Nat × α → Bool) : Tbl.Canon f (t.filter p) :=
  ⟨rising_filter h.1 p, fun e he => h.2 e (List.mem_of_mem_filter he)⟩

theorem canon_tdel {t : Tbl α} {f : Nat → α} (h : Tbl.Canon f t) (k : Nat) : Tbl.Canon f (tdel t k) := canon_filter h _

theorem canon_tdelRange {t : Tbl α} {f : Nat → α} (h : Tbl.Canon f t) (lo hi : Nat) : Tbl.Canon f (tdelRange t lo hi) := canon_filter h _

theorem mem_tput {t : Tbl α} {k : Nat} {v : α} {e : Nat × α} (he : e ∈ tput t k v) : e = (k, v) ∨ e ∈ t := by
  induction t with
  | nil => simp [tput] at he; exact .inl he
  | cons a t ih =>
    obtain ⟨i, u⟩ := a
    simp only [tput] at he
    split at he
    · rw [List.mem_cons] at he; exact he
    · split at he
      · rw [List.mem_cons] at he
        rcases he with he | he
        · exact .inl he
        · exact .inr (List.mem_cons_of_mem _ he)
      · rw [List.mem_cons] at he
        rcases he with he | he
        · exact .inr (he ▸ List.mem_cons_self ..)
        · rcases ih he with he | he
          · exact .inl he
          · exact .inr (List.mem_cons_of_mem _ he)

/-- A put over a fixed default keeps the canonical form. -/
theorem canon_tset [DecidableEq α] {t : Tbl α} {x : α} (h : Tbl.Canon (fun _ => x) t) (k : Nat) (v : α) :
    Tbl.Canon (fun _ => x) (tset t k v x) := by
  unfold tset
  split
  · exact canon_tdel h k
  · next hv =>
    refine ⟨rising_tput h.1 k v, fun e he => ?_⟩
    rcases mem_tput he with rfl | he
    · exact hv
    · exact h.2 e he

end Sys2Proof
end

