-- ==== Sys2Proof/Laws/Regs.lean ====
section
/-! SUPPORT. Laws of the register operations: what a register reads after a write, and what each shared operation may change at all. -/

namespace Sys2Proof.Machine

/-! ### Register words -/

/-- A register reads as written. -/
@[simp] theorem Dev.reg_setReg_same (d : Dev) (p : Page) (off : Nat) (v : Word) : (d.setReg p off v).reg p off = v := by
  simp [Dev.reg, Dev.setReg]

/-- Another register reads as before. -/
theorem Dev.reg_setReg_ne (d : Dev) {p q : Page} {off o : Nat} (v : Word) (h : q.base + o ≠ p.base + off) :
    (d.setReg p off v).reg q o = d.reg q o := by
  simp [Dev.reg, Dev.setReg, tgetD_tput_ne _ _ _ h]

/-- Another register of the same page reads as before. -/
@[simp] theorem Dev.reg_setReg_off (d : Dev) (p : Page) {off o : Nat} (v : Word) (h : o ≠ off) :
    (d.setReg p off v).reg p o = d.reg p o := Dev.reg_setReg_ne d v (by omega)

/-- The notes of an ao-cycle are no register. -/
@[simp] theorem Dev.reg_noteSet (d : Dev) (p q : Page) (off i o : Nat) : (d.noteSet p off i).reg q o = d.reg q o := rfl
@[simp] theorem Dev.reg_noteAdd (d : Dev) (p q : Page) (off n o : Nat) : (d.noteAdd p off n).reg q o = d.reg q o := rfl
@[simp] theorem Dev.reg_noteFault (d : Dev) (p q : Page) (c i o : Nat) : (d.noteFault p c i).reg q o = d.reg q o := rfl
@[simp] theorem Dev.reg_record (d : Dev) (a b : Nat) (l : List Byte) (q : Page) (o : Nat) : (d.record a b l).reg q o = d.reg q o := rfl
@[simp] theorem Dev.reg_answer (d : Dev) (v : Word) (q : Page) (o : Nat) : (d.answer v).reg q o = d.reg q o := rfl
@[simp] theorem Dev.reg_refuse (d : Dev) (q : Page) (o : Nat) : d.refuse.reg q o = d.reg q o := rfl

/-- A set bit reads as set; the register's word after it. -/
theorem Dev.reg_setBit (d : Dev) (p : Page) (off i : Nat) (b : Bool) :
    (d.setBit p off i b).reg p off = wputBit (d.reg p off) i b := by
  cases b <;> simp [Dev.setBit]

/-- The register at another place, after a bit is set. -/
theorem Dev.reg_setBit_ne (d : Dev) {p q : Page} {off o : Nat} (i : Nat) (b : Bool) (h : q.base + o ≠ p.base + off) :
    (d.setBit p off i b).reg q o = d.reg q o := by
  cases b <;> simp [Dev.setBit, Dev.reg_setReg_ne _ _ h]

/-- Bit `i` after bit `i` was put. -/
@[simp] theorem wbit_wputBit (w : Word) (i : Nat) (b : Bool) (h : i < 32) : wbit (wputBit w i b) i = b := by
  cases b <;> simp [wbit, wputBit, h]

/-- Bit `j` after bit `i` was put. -/
theorem wbit_wputBit_ne (w : Word) {i j : Nat} (b : Bool) (h : j ≠ i) : wbit (wputBit w i b) j = wbit w j := by
  by_cases hj : j < 32
  · have hs : j < i ∨ ¬j - i = 0 := by omega
    cases b
    · simp [wbit, wputBit, hj, hs]
    · have hn : ¬ (i ≤ j ∧ j - i = 0) := by omega
      simp only [wbit, wputBit, hj, BitVec.getLsbD_eq_getElem, if_true]
      simp
      intro h1 h2
      exact absurd ⟨h1, h2⟩ hn
  · have h1 : wbit (wputBit w i b) j = false := BitVec.getLsbD_of_ge _ _ (by omega)
    have h2 : wbit w j = false := BitVec.getLsbD_of_ge _ _ (by omega)
    rw [h1, h2]

/-- A bit of a register, after it was set. -/
@[simp] theorem Dev.bit_setBit_same (d : Dev) (p : Page) (off i : Nat) (b : Bool) (h : i < 32) :
    (d.setBit p off i b).bit p off i = b := by simp [Dev.bit, Dev.reg_setBit, h]

/-- Another bit of the same register, after a bit was set. -/
theorem Dev.bit_setBit_ne (d : Dev) (p : Page) (off : Nat) {i j : Nat} (b : Bool) (h : j ≠ i) :
    (d.setBit p off i b).bit p off j = d.bit p off j := by simp [Dev.bit, Dev.reg_setBit, wbit_wputBit_ne _ _ h]

/-! ### What an operation may change at all -/

@[refl] theorem Dev.RegsOnly.refl (d : Dev) : d.RegsOnly d := rfl

theorem Dev.RegsOnly.trans {a b c : Dev} (h : a.RegsOnly b) (h' : b.RegsOnly c) : a.RegsOnly c := by
  unfold Dev.RegsOnly at *; rw [h', h]

theorem Dev.regsOnly_setReg (d : Dev) (p : Page) (off : Nat) (v : Word) : d.RegsOnly (d.setReg p off v) := rfl
theorem Dev.regsOnly_setF (d : Dev) (p : Page) (off hi lo v : Nat) : d.RegsOnly (d.setF p off hi lo v) := rfl
theorem Dev.regsOnly_setPair (d : Dev) (p : Page) (lo hi v : Nat) : d.RegsOnly (d.setPair p lo hi v) := rfl
theorem Dev.regsOnly_record (d : Dev) (a b : Nat) (l : List Byte) : d.RegsOnly (d.record a b l) := rfl
theorem Dev.regsOnly_noteSet (d : Dev) (p : Page) (off i : Nat) : d.RegsOnly (d.noteSet p off i) := rfl
theorem Dev.regsOnly_noteAdd (d : Dev) (p : Page) (off n : Nat) : d.RegsOnly (d.noteAdd p off n) := rfl
theorem Dev.regsOnly_noteFault (d : Dev) (p : Page) (c i : Nat) : d.RegsOnly (d.noteFault p c i) := rfl

/-- Counters add to a register, or stand while their page's partition is scrubbed. -/
theorem Dev.regsOnly_addCount (d : Dev) (p : Page) (off n : Nat) : d.RegsOnly (d.addCount p off n) := by
  unfold Dev.addCount; split <;> rfl
theorem Dev.regsOnly_addSat (d : Dev) (p : Page) (off hi lo n : Nat) : d.RegsOnly (d.addSat p off hi lo n) := by
  unfold Dev.addSat; dsimp only; split <;> rfl

theorem Dev.regsOnly_setBit (d : Dev) (p : Page) (off i : Nat) (b : Bool) : d.RegsOnly (d.setBit p off i b) := by
  cases b <;> rfl

/-- A fold of operations that change registers only, over any list. -/
theorem Dev.regsOnly_foldl {α : Type} (f : Dev → α → Dev) (h : ∀ x a, Dev.RegsOnly x (f x a)) (l : List α) (d : Dev) :
    d.RegsOnly (l.foldl f d) := by
  induction l generalizing d with
  | nil => rfl
  | cons a l ih => exact (h d a).trans (ih (f d a))

/-- Reporting EVENT bits adds records and remembers what was reported. -/
theorem Dev.regsOnly_announce (d : Dev) (p : Page) : d.RegsOnly (d.announce p) := by
  unfold Dev.announce
  dsimp only
  split
  · rfl
  · exact (Dev.regsOnly_foldl _ (fun x _ => Dev.regsOnly_record x _ _ _) _ d).trans rfl

/-- Setting an EVENT bit changes registers and event records only. -/
theorem Dev.regsOnly_setEvent (d : Dev) (p : Page) (i : Nat) : d.RegsOnly (d.setEvent p i) :=
  (d.regsOnly_setBit p _ _ _).trans (Dev.regsOnly_announce _ p)

/-- A change of STATE changes registers and event records only. -/
theorem Dev.regsOnly_setSt (d : Dev) (p : Page) (v : Nat) : d.RegsOnly (d.setSt p v) := by
  unfold Dev.setSt
  split
  · rfl
  · exact (d.regsOnly_setF p _ _ _ _).trans (Dev.regsOnly_setEvent _ p _)

/-- Recording a fault changes registers and event records only. -/
theorem Dev.regsOnly_fault (d : Dev) (p : Page) (c i : Nat) : d.RegsOnly (d.fault p c i) := by
  unfold Dev.fault
  dsimp only
  split
  · exact (d.regsOnly_noteFault p c i).trans ((Dev.regsOnly_noteSet _ p _ _).trans (Dev.regsOnly_setBit _ p _ _ _))
  · exact ((d.regsOnly_noteFault p c i).trans ((Dev.regsOnly_setReg _ p _ _).trans (Dev.regsOnly_setReg _ p _ _))).trans
      (Dev.regsOnly_setEvent _ p _)

/-- Adding to a flag changes registers only. -/
theorem Dev.regsOnly_addFlag (d : Dev) (p : Page) (n a : Nat) : d.RegsOnly (d.addFlag p n a) := by
  unfold Dev.addFlag
  dsimp only
  split
  · exact (d.regsOnly_setF p _ _ _ _).trans (Dev.regsOnly_setBit _ p _ _ _)
  · rfl

theorem Dev.regsOnly_subFlag (d : Dev) (p : Page) (n a : Nat) : d.RegsOnly (d.subFlag p n a) := rfl

/-- A fold of operations that change registers only. -/
theorem Dev.regsOnly_each (d : Dev) (l : List Nat) (f : Dev → Nat → Dev) (h : ∀ x n, Dev.RegsOnly x (f x n)) :
    d.RegsOnly (d.each l f) := Dev.regsOnly_foldl f h l d

/-- What changes registers only leaves memory, marks, queues, cores and every other table. -/
theorem Dev.RegsOnly.mem {d d' : Dev} (h : d.RegsOnly d') : d'.mem = d.mem := by rw [h]
theorem Dev.RegsOnly.marks {d d' : Dev} (h : d.RegsOnly d') : d'.marks = d.marks := by rw [h]
theorem Dev.RegsOnly.ao {d d' : Dev} (h : d.RegsOnly d') : d'.ao = d.ao := by rw [h]
theorem Dev.RegsOnly.clus {d d' : Dev} (h : d.RegsOnly d') : d'.clus = d.clus := by rw [h]
theorem Dev.RegsOnly.cores {d d' : Dev} (h : d.RegsOnly d') : d'.cores = d.cores := by rw [h]
theorem Dev.RegsOnly.stks {d d' : Dev} (h : d.RegsOnly d') : d'.stks = d.stks := by rw [h]
theorem Dev.RegsOnly.dmas {d d' : Dev} (h : d.RegsOnly d') : d'.dmas = d.dmas := by rw [h]
theorem Dev.RegsOnly.jobs {d d' : Dev} (h : d.RegsOnly d') : d'.jobs = d.jobs := by rw [h]
theorem Dev.RegsOnly.pwr {d d' : Dev} (h : d.RegsOnly d') : d'.pwr = d.pwr := by rw [h]

/-- A count of readers is a register and a field of its cluster. -/
theorem Dev.setReaders_eq (d : Dev) (n r v : Nat) : ∃ a b, d.setReaders n r v = { d with csr := a, clus := b } := ⟨_, _, rfl⟩

/-- Taking and freeing regions of the scoreboard changes registers and clusters only: memory reads as before. -/
theorem Dev.readersEach_eq (d : Dev) (n : Nat) (l : List Nat) (g : Nat → Nat) :
    ∃ a b, d.each l (fun d r => d.setReaders n r (g (d.readers n r))) = { d with csr := a, clus := b } := by
  unfold Dev.each
  induction l generalizing d with
  | nil => exact ⟨d.csr, d.clus, rfl⟩
  | cons r l ih =>
    obtain ⟨a, b, h⟩ := d.setReaders_eq n r (g (d.readers n r))
    obtain ⟨a', b', h'⟩ := ih { d with csr := a, clus := b }
    exact ⟨a', b', by rw [List.foldl_cons, h, h']⟩

@[simp] theorem Dev.scoreTake_mem (d : Dev) (n rd wr : Nat) : (d.scoreTake n rd wr).mem = d.mem := by
  obtain ⟨a, b, h⟩ := d.readersEach_eq n (readOnly rd wr) (· + 1)
  exact (Dev.regsOnly_each _ _ _ fun x r => x.regsOnly_setBit _ _ _ _).mem.trans (by rw [h])

@[simp] theorem Dev.scoreFree_mem (d : Dev) (n rd wr : Nat) : (d.scoreFree n rd wr).mem = d.mem := by
  obtain ⟨a, b, h⟩ := d.readersEach_eq n (readOnly rd wr) (· - 1)
  exact (Dev.regsOnly_each _ _ _ fun x r => x.regsOnly_setBit _ _ _ _).mem.trans (by rw [h])

/-- Same bytes where only registers change. -/
theorem Dev.RegsOnly.sameBytes {d d' : Dev} (h : d.RegsOnly d') : d.SameBytes d' := by
  intro a
  simp only [Dev.rawByte, Dev.home, Dev.stk, h.mem, h.stks]

end Sys2Proof.Machine
end

