-- ==== Sys2Proof/Laws/Guard.lean ====
section
/-! SUPPORT. Laws of the access checks: what a served access comes to, what a refused one leaves. -/

namespace Sys2Proof.Machine

/-- A device that is not in IDLE stays as it is. -/
theorem Dev.endIdle_eq {d : Dev} (h : d.devPower ≠ 1) : d.endIdle = d := by simp [Dev.endIdle, h]

/-- A write that the page takes acts, and answers zero. -/
theorem Dev.guardWrite_takes {d : Dev} {r : Role} {p : Page} (h : d.Takes r p) (f : Dev → Dev) :
    d.guardWrite r p f = (f d).answer 0 := by
  obtain ⟨h1, h2, h3, h4⟩ := h
  simp [Dev.guardWrite, h1, h2, h3, Dev.endIdle_eq h4]

/-- A write without a right is denied, whatever it would do. -/
theorem Dev.guardWrite_denied {d : Dev} {r : Role} {p : Page} (h1 : d.pwr.up = true) (h2 : d.mayAccess r p true = false) (f : Dev → Dev) :
    d.guardWrite r p f = d.deny p := by
  simp [Dev.guardWrite, h1, h2]

/-- A read that the page answers. -/
theorem Dev.guardRead_gives {d : Dev} {r : Role} {p : Page} (h : d.Gives r p) (hdr : Bool) (f : Dev → Dev × Word) :
    d.guardRead r p hdr f = (f d).1.answer (f d).2 := by
  obtain ⟨h1, h2, h3⟩ := h
  simp [Dev.guardRead, h1, h2, h3]

/-- A write that no role out-ranks keeps its word, and only the notes of the ao-cycle change. -/
theorem Dev.roleOrder_ranks {d : Dev} {r : Role} {p : Page} {off : Nat} (h : d.Ranks r p off) (v : Word) :
    d.roleOrder r p off v =
      ({ d with cyc := { d.now with roles := tput d.now.roles (p.base + off) (max (tgetD d.now.roles (p.base + off) 0) (roleRank r)) } }, v) := by
  simp only [Dev.roleOrder]
  rw [if_neg (by have := h; simp only [Dev.Ranks] at this; omega)]

/-- The order of roles touches the notes of the ao-cycle only. -/
theorem Dev.regsOnly_roleOrder (d : Dev) (r : Role) (p : Page) (off : Nat) (v : Word) : d.RegsOnly (d.roleOrder r p off v).1 := rfl

/-- A write of a register that the page takes and no role out-ranks. -/
theorem Dev.guardPut_takes {d : Dev} {r : Role} {p : Page} {off : Nat} (h : d.Takes r p) (hr : d.Ranks r p off) (v : Word) (f : Dev → Word → Dev) :
    d.guardPut r p off v f =
      (f { d with cyc := { d.now with roles := tput d.now.roles (p.base + off) (max (tgetD d.now.roles (p.base + off) 0) (roleRank r)) } } v).answer 0 := by
  rw [Dev.guardPut, Dev.guardWrite_takes h, Dev.roleOrder_ranks hr]

/-- A denied access leaves everything but registers, event records and the answer. -/
theorem Dev.deny_mem (d : Dev) (p : Page) : (d.deny p).mem = d.mem := (d.regsOnly_setEvent p evDenied).mem

end Sys2Proof.Machine
end

