-- ==== Sys2Proof/Laws/Mem.lean ====
section
/-! SUPPORT. Laws of memory: a byte reads as stored, a store leaves every other byte alone, every operation on memory keeps its canonical form, and a write touches bytes, marks, error patterns and registers only. -/

namespace Sys2Proof.Machine

/-! ### Bytes -/

@[simp] theorem Dev.home_mem (d : Dev) (m : Tbl Byte) (a : Nat) : Dev.home { d with mem := m } a = d.home a := rfl

/-- A byte reads as stored. -/
@[simp] theorem Dev.rawByte_setRawByte_same (d : Dev) (a : Nat) (b : Byte) : (d.setRawByte a b).rawByte a = b := by
  simp [Dev.rawByte, Dev.setRawByte]

/-- A store leaves every byte that is held elsewhere alone. -/
theorem Dev.rawByte_setRawByte_ne (d : Dev) {a c : Nat} (b : Byte) (h : d.home c ≠ d.home a) :
    (d.setRawByte a b).rawByte c = d.rawByte c := by
  simp [Dev.rawByte, Dev.setRawByte, tgetD_tset_ne _ _ _ h]

@[simp] theorem Dev.home_setRawByte (d : Dev) (a c : Nat) (b : Byte) : (d.setRawByte a b).home c = d.home c := rfl

@[simp] theorem Dev.home_setRawBytes (d : Dev) (a c : Nat) (l : List Byte) : (d.setRawBytes a l).home c = d.home c := by
  induction l generalizing d a with
  | nil => rfl
  | cons b l ih => rw [Dev.setRawBytes, ih]; rfl

/-- Bytes stored elsewhere leave a byte alone. -/
theorem Dev.rawByte_setRawBytes_ne (d : Dev) (a c : Nat) (l : List Byte)
    (h : ∀ i < l.length, d.home c ≠ d.home (a + i)) : (d.setRawBytes a l).rawByte c = d.rawByte c := by
  induction l generalizing d a with
  | nil => rfl
  | cons b l ih =>
    rw [Dev.setRawBytes, ih]
    · exact Dev.rawByte_setRawByte_ne d b (by simpa using h 0 (by simp))
    · intro i hi
      have := h (i + 1) (by simpa using hi)
      simpa [Nat.add_assoc, Nat.add_comm 1 i] using this

/-! ### The canonical form -/

theorem Memory.wf_reset : Memory.wf State.reset.dev.mem := by decide

theorem Memory.wf_setRawByte {d : Dev} (h : Memory.wf d.mem) (a : Nat) (b : Byte) : Memory.wf (d.setRawByte a b).mem :=
  canon_tset h _ _

theorem Memory.wf_setRawBytes {d : Dev} (h : Memory.wf d.mem) (a : Nat) (l : List Byte) : Memory.wf (d.setRawBytes a l).mem := by
  induction l generalizing d a with
  | nil => exact h
  | cons b l ih => exact ih (Memory.wf_setRawByte h a b) (a + 1)

theorem Memory.wf_zeroRange {d : Dev} (h : Memory.wf d.mem) (a n : Nat) : Memory.wf (d.zeroRange a n).mem :=
  canon_tdelRange h a (a + n)

theorem Memory.wf_wipeChannel {d : Dev} (h : Memory.wf d.mem) (s c : Nat) : Memory.wf (d.wipeChannel s c).mem :=
  canon_filter h _

/-- Listing values that are not zero keeps the canonical form. -/
theorem Memory.wf_fold_tput (l : List (Nat × Byte)) (g : Nat × Byte → Nat) (hl : ∀ e ∈ l, e.2 ≠ 0) {m : Tbl Byte} (h : Memory.wf m) :
    Memory.wf (l.foldl (fun m e => tput m (g e) e.2) m) := by
  induction l generalizing m with
  | nil => exact h
  | cons e l ih =>
    refine ih (fun x hx => hl x (List.mem_cons_of_mem _ hx)) ⟨rising_tput h.1 _ _, fun x hx => ?_⟩
    rcases mem_tput hx with rfl | hx
    · exact hl e (List.mem_cons_self ..)
    · exact h.2 x hx

theorem Memory.wf_moveBytes {d : Dev} (h : Memory.wf d.mem) (s g t : Nat) : Memory.wf (d.moveBytes s g t).mem :=
  Memory.wf_fold_tput _ _ (fun e he => h.2 e (List.mem_of_mem_filter he)) (canon_tdelRange (canon_tdelRange h _ _) _ _)

/-! ### What marks and error patterns touch -/

@[refl] theorem Dev.BytesOnly.refl (d : Dev) : d.BytesOnly d := rfl

theorem Dev.BytesOnly.trans {a b c : Dev} (h : a.BytesOnly b) (h' : b.BytesOnly c) : a.BytesOnly c := by
  unfold Dev.BytesOnly at *; rw [h', h]

/-- What changes registers only is a case of it. -/
theorem Dev.RegsOnly.bytesOnly {d d' : Dev} (h : d.RegsOnly d') : d.BytesOnly d' := by
  unfold Dev.RegsOnly at h; unfold Dev.BytesOnly; rw [h]

theorem Dev.bytesOnly_setRawByte (d : Dev) (a : Nat) (b : Byte) : d.BytesOnly (d.setRawByte a b) := rfl

theorem Dev.bytesOnly_setRawBytes (d : Dev) (a : Nat) (l : List Byte) : d.BytesOnly (d.setRawBytes a l) := by
  induction l generalizing d a with
  | nil => rfl
  | cons b l ih => exact (d.bytesOnly_setRawByte a b).trans (ih _ _)

theorem Dev.bytesOnly_markWrite (d : Dev) (a n : Nat) (m : Bool) : d.BytesOnly (d.markWrite a n m) := rfl
theorem Dev.bytesOnly_mark (d : Dev) (u : Nat) : d.BytesOnly (d.mark u) := rfl
theorem Dev.bytesOnly_inject (d : Dev) (u : Nat) (l : List Nat) : d.BytesOnly (d.inject u l) := rfl
theorem Dev.bytesOnly_zeroRange (d : Dev) (a n : Nat) : d.BytesOnly (d.zeroRange a n) := rfl
@[simp] theorem Dev.markWrite_mem (d : Dev) (a n : Nat) (m : Bool) : (d.markWrite a n m).mem = d.mem := rfl
@[simp] theorem Dev.mark_mem (d : Dev) (u : Nat) : (d.mark u).mem = d.mem := rfl
@[simp] theorem Dev.inject_mem (d : Dev) (u : Nat) (l : List Nat) : (d.inject u l).mem = d.mem := rfl

/-- A fold of operations each of which is a case of it. -/
theorem Dev.bytesOnly_foldl {α : Type} (f : Dev → α → Dev) (h : ∀ x a, Dev.BytesOnly x (f x a)) (l : List α) (d : Dev) :
    d.BytesOnly (l.foldl f d) := by
  induction l generalizing d with
  | nil => rfl
  | cons a l ih => exact (h d a).trans (ih (f d a))

/-- A fold of operations each of which leaves memory alone. -/
theorem Dev.foldl_mem {α : Type} (f : Dev → α → Dev) (h : ∀ x a, (f x a).mem = x.mem) (l : List α) (d : Dev) : (l.foldl f d).mem = d.mem := by
  induction l generalizing d with
  | nil => rfl
  | cons a l ih => rw [List.foldl_cons, ih, h]

/-- A fold of operations each of which keeps the canonical form. -/
theorem Memory.wf_foldl {α : Type} (f : Dev → α → Dev) (hf : ∀ x a, Memory.wf x.mem → Memory.wf (f x a).mem) (l : List α) {d : Dev}
    (h : Memory.wf d.mem) : Memory.wf (l.foldl f d).mem := by
  induction l generalizing d with
  | nil => exact h
  | cons a l ih => exact ih (hf d a h)

/-- Applying an armed flip mask touches registers, error patterns and nothing of memory. -/
theorem Dev.bytesOnly_flipApply (d : Dev) (u : Nat) : d.BytesOnly (d.flipApply u) := by
  unfold Dev.flipApply
  dsimp only
  split
  · split <;> rfl
  · split <;> rfl
  · rfl

@[simp] theorem Dev.flipApply_mem (d : Dev) (u : Nat) : (d.flipApply u).mem = d.mem := by
  unfold Dev.flipApply
  dsimp only
  split
  · split <;> rfl
  · split <;> rfl
  · rfl

/-- An error pattern that goes takes an INJECTED bit with it at most. -/
theorem Dev.bytesOnly_dropErr (d : Dev) (u : Nat) : d.BytesOnly (d.dropErr u) := by
  unfold Dev.dropErr
  dsimp only
  split <;> (try split) <;> rfl

@[simp] theorem Dev.dropErr_mem (d : Dev) (u : Nat) : (d.dropErr u).mem = d.mem := by
  unfold Dev.dropErr
  dsimp only
  split <;> (try split) <;> rfl

@[simp] theorem Dev.addCount_mem (d : Dev) (p : Page) (off n : Nat) : (d.addCount p off n).mem = d.mem := (d.regsOnly_addCount p off n).mem

theorem Dev.bytesOnly_addCount (d : Dev) (p : Page) (off n : Nat) : d.BytesOnly (d.addCount p off n) := (d.regsOnly_addCount p off n).bytesOnly

/-- What a read finds touches marks, error patterns and counters only. -/
theorem Dev.bytesOnly_noteErr (d : Dev) (u : Nat) : d.BytesOnly (d.noteErr u) := by
  unfold Dev.noteErr
  dsimp only
  split
  · split
    · exact d.bytesOnly_dropErr u
    · split
      · exact (d.bytesOnly_dropErr u).trans (Dev.bytesOnly_addCount _ _ _ _)
      · exact (((d.bytesOnly_dropErr u).trans (Dev.bytesOnly_mark _ u)).trans (Dev.bytesOnly_addCount _ _ _ _)).trans (Dev.bytesOnly_addCount _ _ _ _)
  · refine (d.bytesOnly_dropErr u).trans (Dev.bytesOnly_foldl _ (fun x k => ?_) _ _)
    split
    · rfl
    · split
      · exact x.bytesOnly_addCount _ _ _
      · exact (x.bytesOnly_mark _).trans (Dev.bytesOnly_addCount _ _ _ _)
  · rfl

@[simp] theorem Dev.noteErr_mem (d : Dev) (u : Nat) : (d.noteErr u).mem = d.mem := by
  unfold Dev.noteErr
  dsimp only
  split
  · split
    · simp
    · split <;> simp
  · refine (Dev.foldl_mem _ (fun x k => ?_) _ _).trans (d.dropErr_mem u)
    split
    · rfl
    · split <;> simp
  · rfl

theorem Dev.bytesOnly_overUnit (d : Dev) (a n u : Nat) : d.BytesOnly (d.overUnit a n u) := by
  unfold Dev.overUnit
  refine Dev.BytesOnly.trans ?_ (Dev.bytesOnly_flipApply _ u)
  split
  · rfl
  · split
    · split
      · exact d.bytesOnly_noteErr u
      · dsimp only
        split
        · exact d.bytesOnly_dropErr u
        · rfl
    · split
      · exact d.bytesOnly_dropErr u
      · exact d.bytesOnly_noteErr u

@[simp] theorem Dev.overUnit_mem (d : Dev) (a n u : Nat) : (d.overUnit a n u).mem = d.mem := by
  unfold Dev.overUnit
  refine (Dev.flipApply_mem _ u).trans ?_
  split
  · rfl
  · split
    · split
      · simp
      · dsimp only
        split <;> simp
    · split <;> simp

/-- A write that reaches units touches error patterns, marks and registers, and no byte. -/
theorem Dev.bytesOnly_overUnits (d : Dev) (a n : Nat) : d.BytesOnly (d.overUnits a n) :=
  Dev.bytesOnly_foldl _ (fun x u => x.bytesOnly_overUnit a n u) _ d

@[simp] theorem Dev.overUnits_mem (d : Dev) (a n : Nat) : (d.overUnits a n).mem = d.mem :=
  Dev.foldl_mem _ (fun x u => x.overUnit_mem a n u) _ d

/-! ### Parts of units (12, R245) -/

theorem Dev.bytesOnly_landTorn (d : Dev) (p : Nat → Bool) : d.BytesOnly (d.landTorn p) := by
  unfold Dev.landTorn
  split
  · rfl
  · exact Dev.BytesOnly.trans (b := { d with torn := d.torn.filter fun t => !p t.1 }) rfl
      (Dev.bytesOnly_foldl _ (fun x _ => x.bytesOnly_setRawBytes _ _) _ _)

theorem Memory.wf_landTorn {d : Dev} (h : Memory.wf d.mem) (p : Nat → Bool) : Memory.wf (d.landTorn p).mem := by
  unfold Dev.landTorn
  split
  · exact h
  · exact Memory.wf_foldl _ (fun _ _ hx => Memory.wf_setRawBytes hx _ _) _ h

/-- The parts that land at once, and those that are still to land. -/
theorem Dev.bytesOnly_parts (x : Nat) (l : List ((Nat × List Byte) × Nat)) (d : Dev) :
    d.BytesOnly (l.foldl (fun d e => if bitOf x e.2 then d.setRawBytes e.1.1 e.1.2 else { d with torn := d.torn ++ [e.1] }) d) :=
  Dev.bytesOnly_foldl _ (fun y _ => by
    split
    · exact y.bytesOnly_setRawBytes _ _
    · rfl) l d

theorem Dev.bytesOnly_takeFree (d : Dev) : d.BytesOnly d.takeFree.2 := rfl

theorem Dev.bytesOnly_putUnit (d : Dev) (u : Nat) (w : Bool) (a : Nat) (bs : List Byte) : d.BytesOnly (d.putUnit u w a bs) := by
  have h := d.bytesOnly_landTorn fun t => t / u = a / u
  unfold Dev.putUnit
  dsimp only
  split
  · exact h.trans (Dev.bytesOnly_setRawBytes _ a bs)
  · exact (h.trans (Dev.bytesOnly_takeFree _)).trans (Dev.bytesOnly_parts _ _ _)

theorem Memory.wf_putUnit {d : Dev} (h : Memory.wf d.mem) (u : Nat) (w : Bool) (a : Nat) (bs : List Byte) : Memory.wf (d.putUnit u w a bs).mem := by
  unfold Dev.putUnit
  dsimp only
  split
  · exact Memory.wf_setRawBytes (Memory.wf_landTorn h _) a bs
  · refine Memory.wf_foldl _ (fun x _ hx => ?_) _ (Memory.wf_landTorn h _)
    split
    · exact Memory.wf_setRawBytes hx _ _
    · exact hx

theorem Dev.bytesOnly_putWords (d : Dev) (w : Bool) (a : Nat) (bs : List Byte) : d.BytesOnly (d.putWords w a bs) :=
  Dev.bytesOnly_foldl _ (fun x _ => x.bytesOnly_putUnit _ _ _ _) _ d

theorem Memory.wf_putWords {d : Dev} (h : Memory.wf d.mem) (w : Bool) (a : Nat) (bs : List Byte) : Memory.wf (d.putWords w a bs).mem :=
  Memory.wf_foldl _ (fun _ _ hx => Memory.wf_putUnit hx _ _ _ _) _ h

/-- Where units are whole and nothing is still to land, a unit's bytes are stored at once. -/
theorem Dev.putUnit_whole (d : Dev) (u : Nat) (w : Bool) (a : Nat) (bs : List Byte) (ht : d.torn = []) (hw : w = true ∨ d.weak a = false) :
    d.putUnit u w a bs = d.setRawBytes a bs := by
  have hl : ∀ p, d.landTorn p = d := fun p => by unfold Dev.landTorn; rw [ht]; rfl
  unfold Dev.putUnit
  rw [hl]
  dsimp only
  rcases hw with h | h <;> simp [h]

/-! ### Writes -/

theorem Memory.wf_writeBurst {d : Dev} (h : Memory.wf d.mem) (ag : Agent) (a : Nat) (bs : List Byte) (m w : Bool) :
    Memory.wf (d.writeBurst ag a bs m w).1.mem := by
  unfold Dev.writeBurst
  cases loc a with
  | stack s off =>
    dsimp only
    split
    · exact h
    · split
      · exact h
      · split
        · exact h
        · split <;> exact Memory.wf_putUnit (by simpa using h) _ _ _ _
  | _ => exact h

theorem Dev.bytesOnly_writeBurst (d : Dev) (ag : Agent) (a : Nat) (bs : List Byte) (m w : Bool) :
    d.BytesOnly (d.writeBurst ag a bs m w).1 := by
  unfold Dev.writeBurst
  cases loc a with
  | stack s off =>
    dsimp only
    split
    · exact (d.regsOnly_setBit (pStk s 2) 0x48 1 true).bytesOnly
    · split
      · exact (d.regsOnly_setBit (pStk s 0) 0x4C 0 true).bytesOnly
      · split
        · exact Dev.BytesOnly.refl d
        · split <;> exact ((d.bytesOnly_overUnits _ _).trans (Dev.bytesOnly_markWrite _ _ _ _)).trans (Dev.bytesOnly_putUnit _ _ _ _ _)
  | _ => exact Dev.BytesOnly.refl d

theorem Memory.wf_writeStack (f : Nat) {d : Dev} (h : Memory.wf d.mem) (ag : Agent) (a : Nat) (bs : List Byte) (m w : Bool) :
    Memory.wf (Dev.writeStack f d ag a bs m w).1.mem := by
  induction f generalizing d a bs with
  | zero => exact h
  | succ f ih =>
    unfold Dev.writeStack
    split
    · exact h
    · exact ih (Memory.wf_writeBurst h ag a _ m w) _ _

theorem Dev.bytesOnly_writeStack (f : Nat) (d : Dev) (ag : Agent) (a : Nat) (bs : List Byte) (m w : Bool) :
    d.BytesOnly (Dev.writeStack f d ag a bs m w).1 := by
  induction f generalizing d a bs with
  | zero => rfl
  | succ f ih =>
    unfold Dev.writeStack
    split
    · rfl
    · exact (d.bytesOnly_writeBurst ag a _ m w).trans (ih _ _ _)

theorem Memory.wf_writeBuf {d : Dev} (h : Memory.wf d.mem) (ag : Agent) (n off : Nat) (bs : List Byte) (m w : Bool) :
    Memory.wf (d.writeBuf ag n off bs m w).1.mem := by
  unfold Dev.writeBuf
  refine Memory.wf_putWords ?_ _ _ _
  simp only [Dev.markWrite_mem, Dev.overUnits_mem]
  split
  · rw [(d.regsOnly_setBit (pClu n) 0x41C 1 true).mem]; exact h
  · exact h

theorem Dev.bytesOnly_writeBuf (d : Dev) (ag : Agent) (n off : Nat) (bs : List Byte) (m w : Bool) :
    d.BytesOnly (d.writeBuf ag n off bs m w).1 := by
  unfold Dev.writeBuf
  refine Dev.BytesOnly.trans ?_ (((Dev.bytesOnly_overUnits _ _ _).trans (Dev.bytesOnly_markWrite _ _ _ _)).trans (Dev.bytesOnly_putWords _ _ _ _))
  split
  · exact (d.regsOnly_setBit _ _ _ _).bytesOnly
  · rfl

/-- Every write by DPA keeps the canonical form. -/
theorem Memory.wf_writeMemW {d : Dev} (h : Memory.wf d.mem) (ag : Agent) (a : Nat) (bs : List Byte) (m w : Bool) :
    Memory.wf (d.writeMemW ag a bs m w).1.mem := by
  unfold Dev.writeMemW
  split
  · exact Memory.wf_writeStack _ h ag a bs m w
  · exact Memory.wf_writeBuf h ag _ _ bs m w
  · exact h

theorem Memory.wf_writeMem {d : Dev} (h : Memory.wf d.mem) (ag : Agent) (a : Nat) (bs : List Byte) (m : Bool) :
    Memory.wf (d.writeMem ag a bs m).1.mem := Memory.wf_writeMemW h ag a bs m false

/-- A write by DPA touches bytes, marks, error patterns, parts still to land and registers only. -/
theorem Dev.bytesOnly_writeMemW (d : Dev) (ag : Agent) (a : Nat) (bs : List Byte) (m w : Bool) :
    d.BytesOnly (d.writeMemW ag a bs m w).1 := by
  unfold Dev.writeMemW
  split
  · exact Dev.bytesOnly_writeStack _ d ag a bs m w
  · exact Dev.bytesOnly_writeBuf d ag _ _ bs m w
  · rfl

theorem Dev.bytesOnly_writeMem (d : Dev) (ag : Agent) (a : Nat) (bs : List Byte) (m : Bool) :
    d.BytesOnly (d.writeMem ag a bs m).1 := d.bytesOnly_writeMemW ag a bs m false

theorem Memory.wf_writeNum {d : Dev} (h : Memory.wf d.mem) (a n v : Nat) : Memory.wf (d.writeNum a n v).mem :=
  Memory.wf_writeMem h _ _ _ _

/-! ### Die-cache lines -/

theorem Memory.wf_writeBackLine {d : Dev} (h : Memory.wf d.mem) (l : DieLine) : Memory.wf (d.writeBackLine l).mem := by
  unfold Dev.writeBackLine
  split
  · exact Memory.wf_writeMem h _ _ _ _
  · exact h

theorem Memory.wf_writeBackLines (l : List DieLine) {d : Dev} (h : Memory.wf d.mem) : Memory.wf (l.foldl Dev.writeBackLine d).mem := by
  induction l generalizing d with
  | nil => exact h
  | cons x l ih => exact ih (Memory.wf_writeBackLine h x)

theorem Memory.wf_flushLines {d : Dev} (h : Memory.wf d.mem) (p : DieLine → Bool) : Memory.wf (d.flushLines p).mem :=
  Memory.wf_writeBackLines _ h

theorem Memory.wf_cachedWrite {d : Dev} (h : Memory.wf d.mem) (die ptn : Nat) (ag : Agent) (a : Nat) (bs : List Byte) (m : Bool) :
    Memory.wf (d.cachedWrite die ptn ag a bs m).1.mem := by
  unfold Dev.cachedWrite
  dsimp only
  split
  · exact Memory.wf_writeMem h _ _ _ _
  · split <;> exact Memory.wf_writeMem h _ _ _ _

end Sys2Proof.Machine
end

