-- ==== Sys2Proof/Tests/Slice0.lean ====
section
/-! SUPPORT. The model's own tests: commands whose operands are out of bounds, and for each statement of Certificates/Slice0/Obligations.lean that has hypotheses a state and operands that meet them. -/

namespace Sys2Proof.Tests

open Sys2Proof Sys2Proof.Machine

set_option Elab.async false

/-- A state with an empty queue. -/
def withDev (d : Dev) : State := ⟨d, []⟩

/-- The reset state with some registers set. -/
def withRegs (l : List (Page × Nat × Word)) : State := withDev (l.foldl (fun d e => d.setReg e.1 e.2.1 e.2.2) State.reset.dev)

/-- The reset state with some domains ON. -/
def withDoms (l : List Nat) : State := withDev (l.foldl (fun d n => d.setDom n dsOn) State.reset.dev)

/-- Cluster 0 ACTIVE with commands in queue 0, bound to an eligible job. -/
def withGaf (cmds : List Nat) (regs : List (Page × Nat × Word)) : State :=
  let d := (withRegs ([(pPwr, rDom 0, 0), (pPwr, rDom 80, 0), (pClu 0, 0x0C, 4), (pClu 0, 0x80, 0x1001), (pClu 0, 0x84, 0xFFFFFFFF)] ++ regs)).dev
  withDev { (d.setClu 0 { qs := [{ cmds := cmds.map (BitVec.ofNat 256) }] }).setJob 1 { cls := 2, state := 1, applied := [0] } with
    tlb := [⟨0, 0, 1, 0, mkLeaf 0 true true false false 0 0⟩] }

/-- A control-store swap of one word under way. -/
def swapState : State := withRegs [(pPwr, rDom 80, 0), (pClu 0, 0x60, 0x13), (pClu 0, 0x64, 1), (pClu 0, 0x68, 1)]

/-- The device after the round robin's choice. -/
def gafNext (cmds : List Nat) (regs : List (Page × Nat × Word)) : Dev :=
  match (withGaf cmds regs).dev.gafChoose 0 with | some (_, e) => e | none => {}

/-- A tile, a TILE, a CSLOAD and a MERGE command, a control word with a NEXT code, an AFFINE stream. -/
def aTile : Tile := ⟨1, 0, false, false, 0, 1, 1, 2, [], {}, {}, false, false, [], 0⟩
def tileWord : Nat := 0x01 + 2 ^ 52
def csloadWord : Nat := 0x06 + 2 ^ 20 + 2 ^ 64
def mergeCmd : Nat := 0x07 + 512 * 2 ^ 45 + 2 ^ 64 + 8 * 2 ^ 96 + 2 ^ 112 + 2 ^ 177
def aMerge (c : Nat) : MergeRun := ⟨0, 1, 1, 2, true, 5, 0, BitVec.ofNat 256 mergeCmd, c, []⟩
def nextWord (k : Nat) : W256 := BitVec.ofNat 256 k
def streamCmd : BitVec 256 := BitVec.ofNat 256 (0x02 + 2 ^ 27 + 4 * 2 ^ 32 + 2 ^ 48)
def streamTile : Tile := { aTile with streams := [streamCmd] }


/-- Stack 0 ON, its marver ACTIVE with commands in queue 0, bound to an eligible job; a work list of one COMPACT item of no rows at PVA 0x4000. -/
def withMvr (cmds : List Nat) (regs : List (Page × Nat × Word)) : State :=
  let d := (withRegs ([(pPwr, rDom 80, 0), (pStk 0 1, 0x0C, 4), (pStk 0 1, 0x80, 0x1001)] ++ regs)).dev
  withDev { (d.setStk 0 { qs := [{ cmds := cmds.map (BitVec.ofNat 545) }] }).setJob 1 { cls := 2, state := 1, applied := [0x2000] } with
    tlb := [⟨0x2000, 0, 1, 0, mkLeaf 0 true true false false 0 0⟩], mem := [(0x4006, 2), (0x400E, 1), (0x401E, 1)] }

/-- The device after the round robin's choice. -/
def mvrNext (cmds : List Nat) (regs : List (Page × Nat × Word)) : Dev :=
  match (withMvr cmds regs).dev.mvrChoose 0 with | some (_, e) => e | none => {}

/-- Marver commands: MV of one block in a weight format, ATTN, ATOMIC, COPY, FILL and SCRUB of one unit. -/
def mvCmd (wfmt : Nat) : Nat := 0x01 + wfmt * 2 ^ 64 + 8 * 2 ^ 68 + 2 ^ 80 + 2 ^ 93 + 0x1000 * 2 ^ 112 + 0x2000 * 2 ^ 208 + 0x3000 * 2 ^ 304 + 64 * 2 ^ 352 + 32 * 2 ^ 376
def attnCmd : Nat := 0x02 + 8 * 2 ^ 64 + 0x4000 * 2 ^ 144 + 0x5000 * 2 ^ 192 + 0x6000 * 2 ^ 288
def atomicCmd : Nat := 0x06 + 2 ^ 67 + 0x1000 * 2 ^ 80
def mvrCopyCmd : Nat := 0x03 + 0x10000 * 2 ^ 64 + 0x20000 * 2 ^ 112 + 2 ^ 160
def mvrFillCmd : Nat := 0x04 + 0x20000 * 2 ^ 64 + 2 ^ 112
def mvrScrubCmd : Nat := 0x05 + 0x20000 * 2 ^ 64 + 2 ^ 112

/-- A run with nothing to write, a copier transfer with nothing left to do, a saved one with its record in memory. -/
def aRun : MRun := ⟨0, 1, 1, 0x101, [], [], 0⟩
def aCopy (w : Nat) : CopyRun := ⟨0, 1, 0, BitVec.ofNat 545 w, [(0, 4096)], [(4096, 4096)], 0, 1, 1, []⟩
def savedCopy : State :=
  let d := (withMvr [] [(pPtn 0, 0x200, 0x10000)]).dev
  let d := { d with mem := [(0x10000, 1), (0x10004, 0x11), (0x11000, 15)] }
  withDev ((d.modStk 0 fun x => { x with saved := [(0, aCopy (3 + 2 ^ 544))] }).putPva 0 0 (copyRecord (aCopy (3 + 2 ^ 544))))

/-- A device whose intake is about to perform one item of a partition (255: the operator role), that item, and the device with it under way. -/
def itemDev (d : Dev) (ptn kind : Nat) (body : List Byte) (busy : Bool) : Dev :=
  let d := if ptn = 255 then d else d.setF (pPtn ptn) 0x0C 3 0 4
  { d with work := [⟨1, ptn, 0, 7, 0, [(kind, body)], [], 0, busy, none, none⟩] }
def itemState (d : Dev) (ptn kind : Nat) (body : List Byte) : State := withDev (itemDev d ptn kind body false)
def itemBusy (d : Dev) (ptn kind : Nat) (body : List Byte) : Dev := (itemDev d ptn kind body true).svcRuns ptn (ownService kind)
def itemOf (ptn : Nat) (body : List Byte) : Item := ⟨1, 0, ptn, body, none⟩

/-- Partition 0 with a descriptor table, an allocation table and their translation; a descriptor of 32 BF16 elements in allocation `a`. -/
def descDev : Dev :=
  { (withRegs [(pPwr, rDom 80, 0), (pPtn 0, 0x200, 0x10000), (pPtn 0, 0x300, 0x20000), (pPtn 0, 0x308, 4), (pPtn 0, 0x30C, 0x30000), (pPtn 0, 0x314, 2)]).dev with
    mem := [(0x10000, 1), (0x10004, 0x11), (0x11000, 15), (0x3000B, 0x10), (0x3000E, 3)] }
def goodDesc (a : Nat) : List Byte := leBytes 128 (0x1000 + 8 * 2 ^ 48 + 2 ^ 52 + a * 2 ^ 64 + 32 * 2 ^ 192 + 2 ^ 224) ++ List.replicate 8 0
def badDesc : List Byte := List.replicate 136 0

/-- Compute DMA engine 0 ACTIVE with commands in queue 0, bound to an eligible job; descriptors 0 and 1 of 32 elements with their allocation. -/
def withDmacOf (x : Nat) (cmds : List Nat) (regs : List (Page × Nat × Word)) : State :=
  let d := (withRegs ([(pPwr, rDom 80, 0), (pPwr, rDom 110, 0), (pPwr, rDom 0, 0), (pDmac 0, 0x0C, 4), (pDmac 0, 0x100, 0x1001),
    (pPtn 0, 0x300, 0x20000), (pPtn 0, 0x308, 4), (pPtn 0, 0x30C, 0x30000), (pPtn 0, 0x314, 2)] ++ regs)).dev
  let m (h x : Nat) : Tbl Byte := ((leBytes 128 (leNat ((goodDesc 0).take 128) + 2 ^ 55 + 2 ^ 1023 + x)).zipIdx).map fun x => (0x20000 + 128 * h + x.2, x.1)
  withDev { (d.setDma 0 { qs := [{ cmds := cmds.map (BitVec.ofNat 1024), credit := 1 }] }).setJob 1 { cls := 2, state := 1, applied := [0x4000] } with
    tlb := [⟨0x4000, 0, 1, 0, mkLeaf 0 true true false false 0 0⟩], mem := m 0 x ++ m 1 x ++ [(0x3000B, 0x10), (0x3000E, 3)] }

abbrev withDmac (cmds : List Nat) (regs : List (Page × Nat × Word)) : State := withDmacOf 0 cmds regs

/-- DMA commands: SIGNAL to flag 0 of cluster 0, WAIT on it, COPY of descriptor 0 to 1, a list operation without a list. -/
def dmaSignalCmd : Nat := 0x07 + 5 * 2 ^ 64
def dmaWaitCmd : Nat := 0x06 + 2 * 2 ^ 96 + 2 ^ 112
def dmaCopyCmd : Nat := 0x01 + 2 ^ 80
def dmaFarCmd : Nat := 0x07 + 2 ^ 14 + 3 * 2 ^ 16 + 5 * 2 ^ 64
def dmaStatCmd : Nat := dmaCopyCmd + 2 ^ 15 + 0x2000 * 2 ^ 960
def dmaListCmd (op : Nat) : Nat := op + 2 ^ 80
def dmaOneCmd (op : Nat) : Nat := op + 2 ^ 80 + 2 ^ 144

/-- A transfer of one unit, a performed unit, a transfer on the engine, a saved one with its record in memory. -/
def aXfer (w : Nat) : Xfer :=
  { cmd := BitVec.ofNat 1024 w, job := 1, ptn := 0, src := leBytes 128 (leNat ((goodDesc 0).take 128)), dst := leBytes 128 (leNat ((goodDesc 0).take 128) + 0x1000), total := 1
    next := 0, flight := [], done := 0, zeroed := 0, code := 0, info := 0, stop := 0, saved := false, hold := none }
def aUnit : DUnit := { k := 0, ops := [], list := [], rd := [], wr := [], need := [], got := [], posts := [], performed := true }
def withXfer (x : Xfer) : State := withDev { (withDmac [] []).dev.modDma 0 fun m => { m with xfers := [(0, x)] } with mem := [] }
def savedXfer : State :=
  withDev { (withXfer { aXfer dmaCopyCmd with stop := 1, saved := true }).dev with
    mem := ((progressRecord { aXfer dmaCopyCmd with stop := 1, saved := true }).zipIdx).filterMap fun x => if x.1 = 0 then none else some (x.2, x.1) }

/-- Partition 0 owns stack 0, which holds its translation tables: 1 GiB mapped at PVA 0; an XLATE_MAP and an XLATE_UNMAP of 1 GiB. -/
def mapDev : Dev :=
  { (withRegs [(pPwr, rDom 80, 0), (pStk 0 0, 0x24, 0), (pPtn 0, 0x60, 0x01000100), (pPtn 0, 0x200, 0x200000)]).dev with
    mem := [(0x200000, 1), (0x200004, 1), (0x200005, 2), (0x201000, 15)] }
def mapBody (pva : Nat) : List Byte := leBytes 8 pva ++ leBytes 8 0x40000000 ++ [2, 3, 0, 0, 1, 0, 0, 0]
def unmapBody (pva : Nat) : List Byte := leBytes 8 pva ++ leBytes 8 0 ++ [2, 0, 0, 0, 1, 0, 0, 0]

/-- Partition 0 owns clusters 0 and 1, stack 0 and engine 0; job 1 is general, job 2 reserves. -/
def jobDev : Dev :=
  { (withRegs [(pClu 0, 0x24, 0), (pClu 1, 0x24, 0), (pDmac 0, 0x24, 0), (pPtn 0, 0x44, 1)]).dev with
    jobs := [(1, { cls := 2, weight := 15 }), (2, { cls := 3, weight := 1 })] }

/-- A loaded program of a header at PVA 0, an open batch that runs it; a program image at PVA 0x40000. -/
def openProg : Prog := ⟨0, 256, 0, 0, 0, 0⟩
def progDev (bs : Tbl Batch) : Dev := { State.reset.dev with ptnx := [(0, { progs := [(0, openProg)] })], batches := bs }
def aBatch : Batch := ⟨0, 0, 0, 100, 0, 0, 0, 0, [], 0, 0, 0, 0, 0, true, false⟩
def progMem : Dev :=
  { descDev with mem := descDev.mem ++ [(0x40000, 0x50), (0x40001, 0x53), (0x40002, 0x47), (0x40003, 0x51), (0x40004, 1), (0x40008, 1), (0x4007E, 1), (0x400ED, 1), (0x400FE, 1)] }
def progBody : List Byte := leBytes 8 0 ++ leBytes 8 0x40000 ++ leBytes 4 256 ++ leBytes 4 0

/-- A work message of one item without a body. -/
def workBytes (ptn kind : Nat) : List Byte :=
  leBytes 4 0x51574D31 ++ leBytes 4 72 ++ leBytes 8 7 ++ [0, BitVec.ofNat 8 ptn, 1, 0] ++ List.replicate 44 0 ++ leBytes 8 kind

/-- Cluster 0, stack 0 and engine 0 of partition 0, ACTIVE, queue 1 of each bound to general job 1; an ENQ body of one command for a queue of unit 0. -/
def enqDev : Dev :=
  (withRegs [(pPwr, rDom 0, 0), (pPwr, rDom 80, 0), (pPwr, rDom 110, 0), (pClu 0, 0x24, 0), (pStk 0 1, 0x24, 0), (pDmac 0, 0x24, 0), (pClu 0, 0x0C, 4), (pStk 0 1, 0x0C, 4), (pDmac 0, 0x0C, 4),
    (pClu 0, 0x90, 0x1001), (pStk 0 1, 0x90, 0x1001), (pDmac 0, 0x110, 0x1001)]).dev.setJob 1 { cls := 2, state := 1 }
def enqBody (q n : Nat) : List Byte := leBytes 2 0 ++ leBytes 2 q ++ leBytes 4 1 ++ List.replicate n 1

/-- A device in frit mode. -/
def fritDev : Dev := State.reset.dev.setBit pBoot 0x40 3 true

/-- Job 1 of group 3, bound to queue 1 of cluster 0; group 3 alone has a slice. -/
def sliceDev : Dev := (withRegs [(pClu 0, 0x90, 0x1001), (pPtn 0, 0x390, 500)]).dev.setJob 1 { cls := 2, weight := 1, group := 3, applied := [0] }

/-- Request entry 0 of partition 0 holds `v`; a readable prompt of zeros at PVA 0; an admission image of one prompt token, and its body for entry 0. -/
def reqDev (v : Nat) : Dev :=
  { (withRegs [(pPwr, rDom 80, 0), (pSrv 0, 0x100, 0x1000), (pPtn 0, 0x200, 0x10000)]).dev with
    reqTab := if v = 0 then [] else [(0, BitVec.ofNat 2048 v)], mem := [(0x10000, 1), (0x10004, 0x11), (0x11000, 15)] }
def goodReq : Nat := 2 * 2 ^ 56 + 2 ^ 80 + 2 ^ 224 + 2 ^ 244 + 2 ^ 176 * 65536 + 2 ^ 256 + 0x3F800000 * 2 ^ 480 + 0x3F800000 * 2 ^ 544 + 2 ^ 864
def admitBody (v : Nat) : List Byte := leBytes 256 v ++ List.replicate 8 0

/-- Partition 0 with a live request of one token and a loaded program; a BATCH_OPEN body for it; a step. -/
def openDev (bs : Tbl Batch) (target : Nat) : Dev :=
  { (withRegs [(pPwr, rDom 80, 0), (pPtn 0, 0x200, 0x10000), (pSrv 0, 0x100, 0x1000), (pThm, 0x44, 0x40)]).dev with
    mem := [(0x10000, 1), (0x10004, 0x11), (0x11000, 15)], reqTab := [(0, BitVec.ofNat 2048 (3 + 2 * 2 ^ 56 + 2 ^ 80 + 2 ^ 864 + target * 2 ^ 416))], ptnx := [(0, { progs := [(0, openProg)] })], batches := bs }
def openBody : List Byte := leBytes 12 (2 ^ 16) ++ leBytes 4 1000 ++ List.replicate 24 0 ++ leBytes 4 64 ++ List.replicate 28 0
def aStep : StepRun := { id := 1, batch := 0, k := 0, stage := 0, at_ := 0, mems := [] }
def stepDev (bs : Tbl Batch) (t : Option StepRun) : Dev :=
  { (withRegs [(pPwr, rDom 80, 0), (pPtn 0, 0x200, 0x10000), (pPtn 0, 0x0C, 4)]).dev with mem := [(0x10000, 1), (0x10004, 0x11), (0x11000, 15)], batches := bs, ptnx := [(0, { progs := [(0, openProg)], step := t })] }

/-- Partition 0 with an adapter area of one unit and 1 GiB readable in stack 0; an install of `n` bytes from PVA 0 into slot 5; a device whose handle 0 is valid. -/
def adpDev (l : List AdpVer) : Dev :=
  { (withRegs [(pPwr, rDom 80, 0), (pPtn 0, 0x44, 1), (pPtn 0, 0x34C, 1), (pPtn 0, 0x200, 0x10000)]).dev with
    ptnx := [(0, { adps := l })], mem := [(0x10000, 1), (0x10004, 0x11), (0x11000, 15)] }
def adpBody (n : Nat) : List Byte := leBytes 8 5 ++ leBytes 8 0 ++ leBytes 8 n
def handleDev : Dev := { (withRegs [(pKvp 0, 0x08, 1)]).dev with ptnx := [(0, { poolTables := some (0, 0x200000) })], mem := [(0, 1)] }

/-- Port 0 with power and a clock, in state `st`, with lanes in service; a path to device 1 on it, that is open and routed; a header from device `n`; a frame. -/
def linkDev (st lanes : Nat) : Dev :=
  (withRegs [(pPwr, rDom 104, 0), (pClk, 0x44, 1), (pLink 0, 0x08, 1), (pLink 0, 0x0C, BitVec.ofNat 32 st), (pLink 0, 0x4C, BitVec.ofNat 32 lanes)]).dev
def pathDev (l : List TxFrame) (p : Path) : Dev :=
  let d := ((linkDev 4 15).setReg pDev 0x304 1).setReg pDev 0x10C 0x10000
  let d := (d.setReg pPwr (rDom 80) 0)
  { d with ports := [(0, { waiting := l })], paths := [(1, p)] }
def hdrFrom (n : Nat) : BitVec 512 := BitVec.ofNat 512 (n * 2 ^ 8)
def aFrame : Frame := ⟨hdrFrom 0, [1, 2, 3]⟩
/-- It held for replay. -/
def aHeldFrame : RepFrame := { id := 5, seq := 0, frame := aFrame, at_ := 0 }
/-- The same with a partition 0 whose tables map 1 GiB at PVA 0. -/
def relayDev : Dev :=
  { ((pathDev [] {}).setReg (pPtn 0) 0x24 0).setReg (pPtn 0) 0x200 0x10000 with mem := [(0x10000, 1), (0x10004, 0x11), (0x11000, 15)] }

/-- Port 0 with its bridge, queue pair 1 in RTS for partition 0 of device 2, with requests to the host. -/
def hostDev (l : List HostReq) : Dev :=
  { ((pathDev [] {}).setReg (pHbr 0) 0x40 1) with qps := [(1, { win := [(0, 0x50029#32)], reqs := l })] }
def pullBody : List Byte := List.replicate 12 0 ++ [5, 0, 0, 0] ++ List.replicate 8 0
def pullDev (busy : Bool) : Dev :=
  { (hostDev []).setF (pPtn 0) 0x0C 3 0 4 with work := [⟨1, 0, 0, 7, 0, [(0x0005, pullBody)], [], 0, busy, some (0, 0, 1), none⟩] }

/-- A tokenizer table of 8 zero bytes, and an item over two bytes of zeros. -/
def tokDev : Dev := { descDev with ptnx := [(0, { toks := [(0, (0, 8))] })] }
def tokBody : List Byte := List.replicate 16 0 ++ leBytes 8 2 ++ leBytes 8 0x100 ++ leBytes 8 2

/-- The media domain ON, streams 0 to 15 of partition 0, which owns stack 0 and cluster 0; a SESSION_OPEN body, its stream, a device with a stream open. -/
def medDev : Dev :=
  { (withRegs [(pPwr, rDom 80, 0), (pPwr, rDom 109, 0), (pPtn 0, 0x0C, 4), (pPtn 0, 0x44, 1), (pPtn 0, 0x200, 0x10000), (pClu 0, 0x24, 0), (pMed, 0x100, 0x4000)]).dev with
    mem := [(0x10000, 1), (0x10004, 0x11), (0x11000, 15)] }
def sessionBody : List Byte := [0, 0, 0, 0, 0, 1, 1, 0, 0, 0, 0, 0, 1, 0, 0, 0] ++ List.replicate 35 0 ++ [1] ++ List.replicate 36 0
def aStream : Stream := streamOf 0 sessionBody
def strmDev (x : Stream) : Dev := { medDev with streams := [(0, x)] }

/-- A glue stream whose READY flag has risen, with its template and one prompt token. -/
def glueDev : Dev :=
  { ((strmDev { aStream with glue := true, tmpl := 0x4000, hist := 0x8000 }).setReg (pClu 0) (rFlag 0) 1).setReg (pSrv 0) 0x100 0x1000 with
    mem := [(0x24, 1)] ++ ((leBytes 256 goodReq).zipIdx.filterMap fun x => if x.1 = 0 then none else some (0x4000 + x.2, x.1)) ++ medDev.mem }

/-- Memory cells that hold bytes from an address on. -/
def nzCells (a : Nat) (l : List Byte) : Tbl Byte := (l.zipIdx).filterMap fun x => if x.1 = 0 then none else some (a + x.2, x.1)

/-- Free units for a partition, and a PTN_CREATE body of stack 0 and domain 0; partition 0 with stack 0, ON; partition 0 sealed, its tables in memory, with a package header of one chunk at PVA 0. -/
def freeDev : Dev := (withRegs [(pPwr, rDom 80, 0), (pStk 0 0, 0x40, 0x80000000)]).dev
def createBody : List Byte := [0, 0, 0, 0, 1, 0, 0, 0, 1] ++ List.replicate 25 0 ++ [1, 0, 1] ++ List.replicate 43 0
def ownDev : Dev := (withRegs [(pPwr, rDom 80, 0), (pPtn 0, 0x24, 0), (pPtn 0, 0x0C, 4), (pStk 0 0, 0x24, 0), (pPtn 0, 0x44, 1), (pPtn 0, 0x200, 0x10000)]).dev
def pkgDev : Dev :=
  { ownDev.setReg (pPtn 0) 0x40 1 with
    mem := nzCells 0 (leBytes 8 (0x51504B31 + 2 ^ 32) ++ List.replicate 20 0 ++ leBytes 4 1 ++ leBytes 8 1 ++ leBytes 8 8192 ++ leBytes 8 64) ++
      [(0x10000, 1), (0x10004, 0x11), (0x11000, 15)] }

/-- DEPLOYED, stack 0 ON; an UPDATE_IMAGE chunk of one byte for kind 1; an install of kind `k` at unit `n`. -/
def lcDev : Dev := (withRegs [(pPwr, rDom 80, 0), (pSec, 0x40, 1)]).dev
def updBody (flags : Nat) : List Byte := [1, BitVec.ofNat 8 flags] ++ List.replicate 6 0 ++ [1] ++ List.replicate 8 0
def instDev (k n : Nat) : Dev := { State.reset.dev.setReg pThm 0x0C 4 with boot := { State.reset.dev.boot with inst := some ⟨k, n, 0⟩ } }

/-- A device whose start has begun. -/
def runDev : Dev := { State.reset.dev with boot := { State.reset.dev.boot with released := true } }

/-! ### Operands out of bounds -/

theorem test_wf_access_size : Instr.wf (.rclRead .operator 0 0) = false := by decide
theorem test_wf_write_size : Instr.wf (.registerWrite .operator 0 0 0) = false := by decide
theorem test_wf_payload : Instr.wf (.write 0 0 []) = false := by decide
theorem test_wf_payload_long : Instr.wf (.msg 0 0 (List.replicate 8193 0)) = false := by rw [Instr.wf, payloadOk, List.length_replicate]; decide
theorem test_wf_word : Instr.wf (.remoteAtomic 0 0 [1, 2, 3]) = false := by decide
theorem test_wf_message : Instr.wf (.workMessage (List.replicate (2 ^ 24) 0) none) = false := by rw [Instr.wf, messageOk, List.length_replicate]; decide
theorem test_wf_transfer : Instr.wf (.rdmaReadResponse 0 0 (List.replicate (2 ^ 24 + 1) 0) true false none) = false := by rw [Instr.wf, transferOk, List.length_replicate]; decide
theorem test_wf_record : Instr.wf (.messageDeliver 0 [0]) = false := by decide
theorem test_wf_round : Instr.wf (.roundEnd [none]) = false := by decide
theorem test_wf_fails : Instr.wf (.bgBlockEnd 0 [(5, 288)]) = false := by decide
theorem test_wf_shift : Instr.wf (.extest [true] []) = false := by decide
theorem test_wf_good : Instr.wf (.write 0 0 [1]) = true ∧ Instr.wf (.bgBlockEnd 0 [(32767, 287)]) = true := by decide

/-! ### Values known from outside the model -/

/-- CRC-32 of the nine digits, the check value of its catalogue entry. -/
theorem test_crc32 : crc32 [0x31, 0x32, 0x33, 0x34, 0x35, 0x36, 0x37, 0x38, 0x39] = 0xCBF43926 := by decide +kernel

/-- SHAKE256 of the empty message begins 46 B9 DD 2B (FIPS 202). -/
theorem test_shake : shake256 [] 4 = [0x46, 0xB9, 0xDD, 0x2B] := by decide +kernel

/-! ### Single steps -/

/-- A flag counts up and stays at 65,535 (R76). -/
theorem test_flag_saturates : (let s := withRegs [(pPwr, rDom 0, 0), (pClu 0, rFlag 3, 0xFFFE)]
     ((s.dev.after (.cluFlagAdd .operator 0 0x00010003)).flag (pClu 0) 3, (s.dev.after (.cluFlagAdd .operator 0 0x00020003)).flag (pClu 0) 3)) = (65535, 65535) := by decide +kernel

/-- A register access that is not aligned is refused and reads zero (R26). -/
theorem test_unaligned_refused : (State.reset.dev.after (.rclRead .operator 2 4)).respRefused = true := by decide +kernel

/-- SCRATCH of the DEV page reads as written (R29). -/
theorem test_scratch : ((State.reset.dev.after (.registerWrite .operator 0x28 4 0xCAFE)).after (.rclRead .operator 0x28 4)).resp = 0xCAFE := by decide +kernel

/-- A start that finds FRIT_FORCE in the boot record enters frit mode (R403). -/
theorem test_start_frit : (({ State.reset.dev with boot := { State.reset.dev.boot with recs := [some { fritForce := true }, none] } } : Dev).after .powerOnResetRelease).frit = true := by decide +kernel

theorem test_page_exists : ∃ (i : Fin 0x1410) (p : Page), pageAt i.val = some p := ⟨0, pDev, by decide +kernel⟩

theorem test_access_refused : ∃ (s : State) (r : Role) (i : Fin 0x1410) (p : Page), pageAt i.val = some p ∧ s.dev.pwr.up = true ∧
    s.dev.mayAccess r p true = false ∧ s.dev.mayAccess r p false = false :=
  ⟨State.reset, .partition 3, 1, pPwr, by decide +kernel⟩

theorem test_register_write_size : (∃ (off : BitVec 26) (p : Page), pageOf off.toNat = some p ∧ off.toNat % 8 = 0) ∧
    (∃ (off : BitVec 26) (size : Fin 65), ¬ (size.val = 4 ∧ off.toNat % 4 = 0) ∧ ¬ (size.val = 8 ∧ off.toNat % 8 = 0)) ∧
    (∃ (s : State) (r : Role) (i : Fin 0x1410) (p : Page) (v : BitVec 64), pageAt i.val = some p ∧ s.dev.Takes r p ∧ s.dev.Ranks r p 0x10 ∧ s.dev.setsNow p 0x10 = 0 ∧ v.getLsbD 0 = false) :=
  ⟨⟨0, pDev, by decide +kernel⟩, ⟨4, 8, by decide +kernel⟩, ⟨State.reset, .operator, 6, pMgt, 2, by decide +kernel⟩⟩
theorem test_register_write_hyps : (∃ (s : State) (r : Role) (i : Fin 0x1410) (p : Page), pageAt i.val = some p ∧ s.dev.Takes r p ∧ s.dev.Ranks r p 0x28) ∧
    (∃ (s : State) (r : Role) (i : Fin 0x1410) (p : Page) (k : Fin 1024) (row : RegRow), pageAt i.val = some p ∧
      (p.blk = .clk ∨ p.blk = .die ∨ p.blk = .smp ∨ p.blk = .svc ∨ p.blk = .boot ∨ p.blk = .mgt) ∧ 0x40 ≤ 4 * k.val ∧
      regRow p (4 * k.val) = some row ∧ s.dev.Takes r p ∧ s.dev.Ranks r p (4 * k.val)) :=
  ⟨⟨State.reset, .operator, 6, pMgt, by decide +kernel⟩,
   ⟨State.reset, .operator, 6, pMgt, 0x10, ⟨0x40, 1, 4, 0x1ff, 0, 0, 0, 0, 0⟩, by decide +kernel⟩⟩

theorem test_counter_read_hyps : (∃ (s : State) (r : Role) (i : Fin 0x1410) (p : Page) (k : Fin 1024) (row : RegRow), pageAt i.val = some p ∧ 0x40 ≤ 4 * k.val ∧
      regRow p (4 * k.val) = some row ∧ row.rcl = 0xFFFFFFFF ∧ s.dev.word p (4 * k.val) = s.dev.reg p (4 * k.val) ∧
      uncounted p (4 * k.val) = false ∧ s.dev.scrubHides r p (4 * k.val) = false ∧ p.blk ≠ .boot ∧ s.dev.Gives r p) ∧
    (∃ (s : State) (r : Role), s.dev.Gives r pClk ∧ s.dev.scrubHides r pClk 0x40 = false) ∧
    (∃ (s : State) (r : Role), s.dev.Gives r (pSrv 1) ∧ s.dev.scrubHides r (pSrv 1) 0x100 = false) :=
  ⟨⟨withRegs [(pMgt, 0x50, 7)], .operator, 6, pMgt, 0x14, ⟨0x50, 1, 4, 0, 0, 0, 0xffffffff, 0, 0⟩, by decide +kernel⟩,
   ⟨State.reset, .operator, by decide +kernel⟩, ⟨withDoms [110], .operator, by decide +kernel⟩⟩

theorem test_control_hyps : (∃ (s : State) (r : Role) (i : Fin 0x1410) (p : Page), pageAt i.val = some p ∧ p.blk ≠ .kvp ∧ p.blk ≠ .link ∧ p.blk ≠ .ptn ∧
      s.dev.Takes r p ∧ s.dev.Ranks r p 0x08 ∧ s.dev.enabled p = false ∧ s.dev.st p = stReady ∧ s.dev.quiesce p = false ∧ s.dev.bit p 0x08 3 = false) ∧
    (∃ (s : State) (r : Role) (i : Fin 0x1410) (p : Page), pageAt i.val = some p ∧ p.blk ≠ .kvp ∧ p.blk ≠ .link ∧ p.blk ≠ .ptn ∧
      s.dev.Takes r p ∧ s.dev.Ranks r p 0x08 ∧ s.dev.enabled p = true ∧ s.dev.st p = stActive ∧ s.dev.bit p 0x08 3 = false) ∧
    (∃ (s : State) (r : Role) (i : Fin 0x1410) (p : Page), pageAt i.val = some p ∧ p.blk ≠ .kvp ∧ p.blk ≠ .link ∧ p.blk ≠ .ptn ∧
      s.dev.Takes r p ∧ s.dev.Ranks r p 0x08 ∧ s.dev.quiesce p = true ∧ s.dev.st p = stQuiesced) ∧
    (∃ (s : State) (r : Role) (i : Fin 0x1410) (p : Page), pageAt i.val = some p ∧ p.blk ≠ .kvp ∧ p.blk ≠ .link ∧ p.blk ≠ .ptn ∧
      s.dev.Takes r p ∧ s.dev.Ranks r p 0x08 ∧ s.dev.bit p 0x08 3 = true ∧ s.dev.st p = stTest) ∧
    (∃ (s : State) (i : Fin 0x1410) (p : Page), pageAt i.val = some p ∧ s.dev.st p = stQuiescing ∧ s.dev.inFlight p = false) ∧
    (∃ (s : State) (i : Fin 0x1410) (p : Page), pageAt i.val = some p ∧
      (p.blk = .die ∨ p.blk = .mmu ∨ p.blk = .dmac ∨ p.blk = .srv ∨ p.blk = .smp ∨ p.blk = .hbr) ∧ s.dev.initReady p = true) :=
  ⟨⟨withRegs [(pMgt, 0x0C, 3)], .operator, 6, pMgt, by decide +kernel⟩,
   ⟨withRegs [(pMgt, 0x0C, 4), (pMgt, 0x08, 1)], .operator, 6, pMgt, by decide +kernel⟩,
   ⟨withRegs [(pMgt, 0x0C, 6), (pMgt, 0x08, 2)], .operator, 6, pMgt, by decide +kernel⟩,
   ⟨withRegs [(pMgt, 0x0C, 7), (pMgt, 0x08, 8)], .operator, 6, pMgt, by decide +kernel⟩,
   ⟨withRegs [(pMgt, 0x0C, 5), (pMgt, 0x08, 2)], 6, pMgt, by decide +kernel⟩,
   ⟨withRegs [(pPwr, rDom 110, 0), (pBoot, 0x40, 6), (pDie 0, 0x0C, 2)], 0x200, pDie 0, by decide +kernel⟩⟩

theorem test_reset_hyps : (∃ (s : State) (r : Role) (n : Fin 800), s.dev.Takes r (pClu n) ∧ s.dev.bit (pClu n) 0x08 2 = false ∧ s.dev.coveredReset n = false ∧
      (s.dev.clu n).retired = false) ∧
    (∃ (s : State) (r : Role) (n : Fin 800), s.dev.Takes r (pClu n) ∧ s.dev.bit (pClu n) 0x08 2 = true) ∧
    (∃ (s : State) (r : Role) (n : Fin 16), s.dev.Takes r (pLink n) ∧ s.dev.bit (pLink n) 0x08 2 = false ∧ s.dev.lanesIn n ≠ 0 ∧ s.dev.st (pLink n) ≠ lsTraining) ∧
    (∃ (s : State) (r : Role) (n : Fin 16), s.dev.Takes r (pLink n) ∧ s.dev.bit (pLink n) 0x08 2 = false ∧ s.dev.lanesIn n = 0) ∧
    (∃ (s : State) (r : Role) (p : Fin 24), s.dev.Takes r (pPtn p) ∧ s.dev.ptnExists p = true ∧ s.dev.st (pPtn p) ≠ psScrubbing ∧
      s.dev.st (pPtn p) ≠ stFaulted ∧ (s.dev.sec.run.any fun x => x.ptn = p.val) = false ∧ ∀ n ∈ s.dev.ptnClusters p, s.dev.bit (pClu n) 0x08 2 = false) ∧
    (∃ (s : State) (r : Role) (p : Fin 24), s.dev.Takes r (pPtn p) ∧ s.dev.ptnExists p = true ∧ s.dev.st (pPtn p) ≠ psScrubbing ∧
      s.dev.st (pPtn p) ≠ stFaulted ∧ (s.dev.sec.run.any fun x => x.ptn = p.val) = true) ∧
    (∃ (s : State) (r : Role), s.dev.Takes r pDev ∧ s.dev.boot.waiting = 0 ∧ s.dev.boot.released = true ∧ s.dev.thm.holding = false) :=
  ⟨⟨withRegs [(pPwr, rDom 0, 0), (pClu 0, 0x0C, 4), (pDev, 0x0C, 4)], .operator, 0, by decide +kernel⟩,
   ⟨withRegs [(pPwr, rDom 0, 0), (pClu 0, 0x0C, 2), (pClu 0, 0x08, 4)], .operator, 0, by decide +kernel⟩,
   ⟨withRegs [(pPwr, rDom 104, 0), (pLink 0, 0x4C, 15)], .operator, 0, by decide +kernel⟩,
   ⟨withRegs [(pPwr, rDom 104, 0), (pLink 0, 0x4C, 0)], .operator, 0, by decide +kernel⟩,
   ⟨withRegs [(pPtn 1, 0x24, 1), (pPtn 1, 0x0C, 4)], .operator, 1, by decide +kernel⟩,
   ⟨withDev { (withRegs [(pPtn 1, 0x24, 1), (pPtn 1, 0x0C, 4)]).dev with sec := { run := some ⟨1, 0, 1, 0, 0, 0, 0, [], []⟩ } }, .operator, 1, by decide +kernel⟩,
   ⟨withDev { State.reset.dev with boot := { released := true } }, .operator, by decide +kernel⟩⟩

theorem test_event_waits : (∃ (s : State) (dest : Fin 256) (e : EvRec) (l : List EvRec), (s.dev.events.filter fun x => x.dest = dest.val) = e :: l ∧
      ¬ (dest.val < 24 ∧ s.dev.ptnState dest.val = psScrubbing) ∧ s.dev.isBridge = true) ∧
    (∃ (s : State) (dest : Fin 256) (e : EvRec) (l : List EvRec), (s.dev.events.filter fun x => x.dest = dest.val) = e :: l ∧
      ¬ (dest.val < 24 ∧ s.dev.ptnState dest.val = psScrubbing) ∧ s.dev.isBridge = false) ∧
    (∃ (s : State) (dest : Fin 256), dest.val < 24 ∧ s.dev.ptnState dest.val = psScrubbing) :=
  ⟨⟨withDev (((withRegs [(pDev, 0x80, 0x100)]).dev).record 255 1 []), 255, ⟨255, 0, 1, []⟩, [], by decide +kernel⟩,
   ⟨withDev (((withRegs [(pDev, 0x80, 0x10000)]).dev).record 255 1 []), 255, ⟨255, 0, 1, []⟩, [], by decide +kernel⟩,
   ⟨withRegs [(pPtn 1, 0x0C, 0xC)], 1, by decide +kernel⟩⟩

theorem test_next_codes : (∃ c : Core, cwNext c.word = 0) ∧ (∃ c : Core, cwNext c.word = 1 ∧ 1 < c.lc0) ∧ (∃ c : Core, cwNext c.word = 1 ∧ c.lc0 ≤ 1) ∧
    (∃ c : Core, cwNext c.word = 2 ∧ 1 < c.lc1) ∧ (∃ c : Core, cwNext c.word = 2 ∧ c.lc1 ≤ 1) ∧ (∃ c : Core, cwNext c.word = 3) :=
  ⟨⟨{}, by decide +kernel⟩, ⟨{ store := [(0, nextWord 1)], lc0 := 2 }, by decide +kernel⟩, ⟨{ store := [(0, nextWord 1)] }, by decide +kernel⟩,
   ⟨{ store := [(0, nextWord 2)], lc1 := 2 }, by decide +kernel⟩, ⟨{ store := [(0, nextWord 2)] }, by decide +kernel⟩,
   ⟨{ store := [(0, nextWord 3)] }, by decide +kernel⟩⟩

theorem test_gaffer_nop_served : (withGaf [0x00] []).dev.GafServed 0 0 0x00 1 (gafNext [0x00] []) ∧ fld 0x00 7 0 = 0x00 := by decide +kernel
theorem test_gaffer_signal_served : (withGaf [0x10203] []).dev.GafServed 0 0 0x10203 1 (gafNext [0x10203] []) ∧ fld 0x10203 7 0 = 0x03 := by decide +kernel
theorem test_gaffer_wait_served : (withGaf [0x100010204] [(pClu 0, rFlag 2, 1)]).dev.GafServed 0 0 0x100010204 1 (gafNext [0x100010204] [(pClu 0, rFlag 2, 1)]) ∧
    fld 0x100010204 7 0 = 0x04 := by decide +kernel
theorem test_gaffer_fence_served : (withGaf [0x305] []).dev.GafServed 0 0 0x305 1 (gafNext [0x305] []) ∧ fld 0x305 7 0 = 0x05 := by decide +kernel

theorem test_tile_served : (withGaf [tileWord] []).dev.GafServed 0 0 tileWord 1 (gafNext [tileWord] []) ∧ fld tileWord 7 0 = 0x01 ∧
    (gafNext [tileWord] []).freeCore 0 0 (tlCoreMask tileWord) = some 0 := by decide +kernel
theorem test_tile_ended : ∃ (s : State) (n : Fin 800) (k : Fin 32) (x : Tile), (s.dev.core n k).tile = some x ∧ x.ended = true ∧ x.stopped = false ∧
    (s.dev.core n k).flights = [] ∧ ((s.dev.clu n).writes.all fun b => b.core ≠ k.val) = true ∧ x.sigEn = true ∧ x.sigFlag < 64 :=
  ⟨withDev (State.reset.dev.setCore 0 0 { tile := some { aTile with ended := true, sigEn := true } }), 0, 0, { aTile with ended := true, sigEn := true }, by decide +kernel⟩

theorem test_csload_served : (withGaf [csloadWord] []).dev.GafServed 0 0 csloadWord 1 (gafNext [csloadWord] []) ∧ fld csloadWord 7 0 = 0x06 ∧
    (match (gafNext [csloadWord] []).fetch (some 0) (some (dieOf 0)) (agPtn 0 (some 1)) 0 (clSrc csloadWord) (32 * clCount csloadWord) false with
     | (_, .ok _) => true | _ => false) = true ∧ (gafNext [csloadWord] []).qJob 0 0 = 1 ∧ ((gafNext [csloadWord] []).job 1).ptn = 0 := by decide +kernel
theorem test_load_pends : (∃ (s : State) (n : Fin 800) (q : Fin 8) (l : CsRun), ((s.dev.clu n).loads.find? fun x => x.queue = q.val) = some l ∧ cwFirstBad l.words 0 = none ∧
      bitOf l.mask 0 = true ∧ 0 < l.words.length) ∧
    (∃ (s : State) (n : Fin 800) (q : Fin 8) (l : CsRun), ((s.dev.clu n).loads.find? fun x => x.queue = q.val) = some l ∧ (cwFirstBad l.words 0).isSome = true) :=
  ⟨⟨withDev (State.reset.dev.setClu 0 { loads := [⟨0, 1, 0, 1, [0]⟩] }), 0, 0, ⟨0, 1, 0, 1, [0]⟩, by decide +kernel⟩,
   ⟨withDev (State.reset.dev.setClu 0 { loads := [⟨0, 1, 0, 1, [-1]⟩] }), 0, 0, ⟨0, 1, 0, 1, [-1]⟩, by decide +kernel⟩⟩

theorem test_merge_served : (withGaf [mergeCmd] []).dev.GafServed 0 0 mergeCmd 1 (gafNext [mergeCmd] []) ∧ fld mergeCmd 7 0 = 0x07 := by decide +kernel
theorem test_merge_runs : (∃ (s : State) (n : Fin 800) (m : MergeRun), (s.dev.clu n).merge = some m ∧ m.over = false ∧ (s.dev.clu n).march = none ∧ s.dev.errs = [] ∧
      s.dev.markedAt (wordDpa n m.nextWord) 32 = false ∧ inSecure (32 * m.nextWord) 32 = false ∧ m.got.length + 32 < 32 * mgParts m.w.toNat * mgPwords m.w.toNat) ∧
    (∃ (s : State) (n : Fin 800) (k : Nat) (m : MergeRun), ((Dev.mergeRun n k s.dev).clu n).merge = some m ∧ m.over = true ∧ m.sigEn = true ∧ m.sigFlag < 64) :=
  ⟨⟨withDev (State.reset.dev.setClu 0 { merge := some (aMerge 0) }), 0, aMerge 0, by decide +kernel⟩,
   ⟨withDev (State.reset.dev.setClu 0 { merge := some (aMerge 1) }), 0, 0, aMerge 1, by decide +kernel⟩⟩

theorem test_core_granted : (∃ (s : State) (n : Fin 800) (k : Fin 32) (x : Tile), s.dev.dom (n.val / 10) = dsOn ∧ s.dev.clockOn (n.val / 10) = true ∧ s.dev.parkDue n k = none ∧
      s.dev.scrubbed (pClu n) = false ∧ (s.dev.clu n).turned ≠ [] ∧ (s.dev.clu n).turned.contains k.val = false ∧ (s.dev.core n k).tile = some x ∧ x.ended = false ∧ x.stopped = false ∧
      ((s.dev.clu n).plan.find? fun e => e.1 = k.val) = some (k.val, 0) ∧ (s.dev.core n k).land.lost = [] ∧
      (s.dev.core n k).land.core.storeMarks.contains (s.dev.core n k).next = false ∧ (s.dev.core n k).land.core.consumes = none ∧ s.dev.errs = []) ∧
    (∃ (s : State) (n : Fin 800) (k : Fin 32) (x : Tile), s.dev.dom (n.val / 10) = dsOn ∧ s.dev.clockOn (n.val / 10) = true ∧ s.dev.parkDue n k = none ∧
      s.dev.scrubbed (pClu n) = false ∧ (s.dev.clu n).turned ≠ [] ∧ (s.dev.clu n).turned.contains k.val = false ∧ (s.dev.core n k).tile = some x ∧ x.ended = false ∧ x.stopped = false ∧
      ((s.dev.clu n).plan.find? fun e => e.1 = k.val) = some (k.val, 3)) :=
  ⟨⟨withDev (((withDoms [0]).dev.setClu 0 { turned := [1], plan := [(0, 0), (1, 0)] }).setCore 0 0 { tile := some { aTile with nonpre := true }, flights := [⟨1, 0, .vecV [(0, 5)]⟩] }), 0, 0, { aTile with nonpre := true }, by decide +kernel⟩,
   ⟨withDev (((withDoms [0]).dev.setClu 0 { turned := [1], plan := [(0, 3), (1, 0)] }).setCore 0 0 { tile := some { aTile with nonpre := true } }), 0, 0, { aTile with nonpre := true }, by decide +kernel⟩⟩
theorem test_core_ended : ∃ (s : State) (n : Fin 800) (k : Fin 32) (x : Tile), s.dev.dom (n.val / 10) = dsOn ∧ s.dev.clockOn (n.val / 10) = true ∧
    (s.dev.clu n).turned ≠ [] ∧ (s.dev.clu n).turned.contains k.val = false ∧ (s.dev.core n k).tile = some x ∧ x.ended = true ∧ x.stopped = false ∧
    (s.dev.core n k).land.lost = [] ∧ (s.dev.core n k).flights ≠ [] :=
  ⟨withDev (((withDoms [0]).dev.setClu 0 { turned := [1] }).setCore 0 0 { tile := some { aTile with ended := true }, flights := [⟨1, 0, .vecV [(0, 5)]⟩] }), 0, 0,
   { aTile with ended := true }, by decide +kernel⟩

theorem test_write_due : ∃ (s : State) (n : Fin 800) (b : BufWrite), s.dev.clockOn (n.val / 10) = true ∧
    ((s.dev.clu n).writes.filter fun x => x.land ≤ (s.dev.clu n).cyc + 1) = [b] ∧ b.word < 32768 ∧ (∀ x ∈ (s.dev.clu n).writes, x.word < 32768) ∧
    (63 ≤ regionOf b.word → s.dev.bit (pClu n) 0x400 13 = false) ∧ s.dev.weak (wordDpa n b.word) = false :=
  ⟨withDev (State.reset.dev.setClu 0 { writes := [⟨0, 1, 32767, 7, false⟩] }), 0, ⟨0, 1, 32767, 7, false⟩, by decide +kernel⟩

theorem test_stream_push : ∃ (s : State) (n : Fin 800) (k : Fin 32) (g : Fin 2) (x : Tile) (w : BitVec 256), s.dev.clockOn (n.val / 10) = true ∧ s.dev.dom (n.val / 10) = dsOn ∧
    (s.dev.core n k).tile = some x ∧ x.ended = false ∧ ((s.dev.core n k).fifo g.val).length < 64 ∧ (x.held.any fun h => h.1 = g.val) = false ∧
    x.curStream g.val = some w ∧ smIndirect w.toNat = false ∧ entryAllowed x w.toNat (affineWord w.toNat (x.pos g.val).idx) = true :=
  ⟨withDev ((withDoms [0]).dev.setCore 0 0 { tile := some streamTile }), 0, 0, 0, streamTile, streamCmd, by decide +kernel⟩
theorem test_wait_expires : ∃ (s : State) (n : Fin 800) (q : Fin 8) (w a lim : Nat), s.dev.qHead n q = some w ∧ s.dev.qWaiting n q = some (a, lim) ∧ fld w 7 0 = 0x04 ∧
    s.dev.flag (pClu n) (sgFlag w) < sgAmount w ∧ a + lim ≤ s.dev.ao :=
  ⟨withDev { (State.reset.dev.setClu 0 { qs := [{ cmds := [0x10204], waitAt := some (3, 5) }] }) with ao := 8 }, 0, 0, 0x10204, 3, 5, by decide +kernel⟩
theorem test_abort_waits : ∃ (s : State) (u : Fin 0x4100) (j : Fin 4096), (s.dev.aborts.any fun a => a.job = j.val && a.left.contains u.val) = true :=
  ⟨withDev { State.reset.dev with aborts := [⟨5, [3]⟩] }, 3, 5, by decide +kernel⟩
theorem test_fence_met : ∃ (s : State) (u : Fin 0x4100) (q : Fin 8) (scope : Nat), s.dev.qFence u q = some scope ∧ scope < 3 ∧ s.dev.fenceMet u q scope = true :=
  ⟨withDev (State.reset.dev.setClu 0 { qs := [{ fence := some 1 }] }), 0, 0, 1, by decide +kernel⟩
theorem test_fence_device : ∃ (s : State) (u : Fin 0x4100) (q : Fin 8) (scope : Nat), s.dev.qFence u q = some scope ∧ 3 ≤ scope ∧ (u.val < 0x2000 ∨ 0x4000 ≤ u.val) ∧ s.dev.fenceMet u q scope = true :=
  ⟨withDev (State.reset.dev.setClu 0 { qs := [{ fence := some 3 }] }), 0, 0, 3, by decide +kernel⟩

theorem test_cluster_takes : (∃ (s : State) (n : Fin 800), s.dev.Takes .operator (pClu n) ∧ s.dev.Ranks .operator (pClu n) 0x400 ∧ Role.operator ≠ .security) ∧
    (∃ (s : State) (n : Fin 800) (v : BitVec 32), s.dev.Takes .security (pClu n) ∧ s.dev.Ranks .security (pClu n) 0x400 ∧ wfld v 12 0 ≠ s.dev.getF (pClu n) 0x400 12 0 ∧
      s.dev.dom (n.val / 10) ≠ dsOff) :=
  ⟨⟨withDoms [0], 0, by decide +kernel⟩, ⟨withDoms [0], 0, 0x1005, by decide +kernel⟩⟩
theorem test_march_starts : (∃ (s : State) (r : Role) (n : Fin 800) (v : BitVec 32), s.dev.Takes r (pClu n) ∧ s.dev.Ranks r (pClu n) 0x404 ∧ wbit v 0 = true ∧ wfld v 8 5 ≠ 0 ∧
      s.dev.st (pClu n) = stTest ∧ (s.dev.clu n).march = none) ∧
    (∃ (s : State) (r : Role) (n : Fin 800) (v : BitVec 32), s.dev.Takes r (pClu n) ∧ s.dev.Ranks r (pClu n) 0x404 ∧ wbit v 0 = true ∧ wfld v 8 5 ≠ 0 ∧
      s.dev.st (pClu n) ≠ stInit ∧ s.dev.st (pClu n) ≠ stTest) ∧
    (∃ (s : State) (n : Fin 800) (m : MarchRun), (s.dev.clu n).march = some m) :=
  ⟨⟨withRegs [(pPwr, rDom 0, 0), (pClu 0, 0x0C, 7)], .operator, 0, 0x23, by decide +kernel⟩,
   ⟨withRegs [(pPwr, rDom 0, 0), (pClu 0, 0x0C, 4)], .operator, 0, 0x23, by decide +kernel⟩,
   ⟨withDev (State.reset.dev.setClu 0 { march := some ⟨true, 1⟩ }), 0, ⟨true, 1⟩, by decide +kernel⟩⟩
theorem test_background_block : (∃ (s : State) (n : Fin 800), s.dev.bgRuns n = true ∧ (s.dev.clu n).bgDue ≤ s.dev.ao ∧ s.dev.bit (pClu n) 0x418 24 = true ∧ (s.dev.clu n).bgLate = false ∧ s.dev.errs = []) :=
  ⟨withRegs [(pPwr, rDom 0, 0), (pClu 0, 0x0C, 4), (pClu 0, 0x414, 0x101), (pClu 0, 0x418, 0x1000000)], 0, by decide +kernel⟩
def swapImage : State := withRegs [(pPwr, rDom 0, 0), (pClu 0, 0x60, 3), (pClu 0, 0x58, BitVec.ofNat 32 (bufBase 1)), (pClu 0, 0x5C, BitVec.ofNat 32 (bufBase 1 / 2 ^ 32))]
def swapHead : Dev × List Byte × Bool :=
  swapImage.dev.cachedRead (dieOf (0 : Fin 800)) (swapImage.dev.owner (pClu (0 : Fin 800))) agDevice (swapImage.dev.pair (pClu (0 : Fin 800)) 0x58 0x5C % 2 ^ 44) 4096 false
def swapBody : Dev × List Byte × Bool :=
  swapHead.1.cachedRead (dieOf (0 : Fin 800)) (swapHead.1.owner (pClu (0 : Fin 800))) agDevice (swapImage.dev.pair (pClu (0 : Fin 800)) 0x58 0x5C % 2 ^ 44 + 4096) (min (imgBodyLen swapHead.2.1) (imgRegion 6 - 4096)) false
theorem unmarked_eta {α β : Type} (x : α × β × Bool) (h : x.2.2 = false) : x = (x.1, x.2.1, false) := by rw [← h]
theorem swap_head_good : swapHead = (swapHead.1, swapHead.2.1, false) := unmarked_eta _ (by decide +kernel)
theorem swap_body_good : swapBody = (swapBody.1, swapBody.2.1, false) := unmarked_eta _ (by decide +kernel)
theorem test_swap : (∃ (s : State) (r : Role) (n : Fin 800) (v : BitVec 32), s.dev.Takes r (pClu n) ∧ s.dev.Ranks r (pClu n) 0x60 ∧ wbit v 0 = true ∧
      s.dev.bit (pClu n) 0x60 1 = false ∧ s.dev.st (pClu n) = stQuiesced) ∧
    (∃ (s : State) (n : Fin 800) (a : Fin 8) (j k : Fin 10) (f g : Dev) (h b : List Byte), n = cluAt a j k ∧ s.dev.bit (pClu n) 0x60 1 = true ∧ s.dev.bit (pClu n) 0x60 4 = false ∧
      s.dev.memReady (s.dev.pair (pClu n) 0x58 0x5C % 2 ^ 44) = true ∧
      s.dev.cachedRead (dieOf n) (s.dev.owner (pClu n)) agDevice (s.dev.pair (pClu n) 0x58 0x5C % 2 ^ 44) 4096 false = (f, h, false) ∧
      f.cachedRead (dieOf n) (f.owner (pClu n)) agDevice (s.dev.pair (pClu n) 0x58 0x5C % 2 ^ 44 + 4096) (min (imgBodyLen h) (imgRegion 6 - 4096)) false = (g, b, false)) ∧
    (∃ (s : State) (n : Fin 800) (a : Fin 8) (j k : Fin 10) (f : Dev) (bs : List Byte), n = cluAt a j k ∧ s.dev.bit (pClu n) 0x60 1 = true ∧ s.dev.bit (pClu n) 0x60 4 = true ∧
      s.dev.memReady (s.dev.pair (pClu n) 0x58 0x5C % 2 ^ 44) = true ∧ s.dev.getF (pClu n) 0x68 12 0 = 1 ∧
      s.dev.cachedRead (dieOf n) (s.dev.owner (pClu n)) agDevice (s.dev.pair (pClu n) 0x58 0x5C % 2 ^ 44) 32 false = (f, bs, false) ∧
      cwFirstBad [BitVec.ofNat 256 (numAt bs 0 32)] 0 = none) :=
  ⟨⟨withRegs [(pPwr, rDom 0, 0), (pClu 0, 0x0C, 6)], .operator, 0, 1, by decide +kernel⟩,
   ⟨swapImage, 0, 0, 0, 0, swapHead.1, swapBody.1, swapHead.2.1, swapBody.2.1, rfl, by decide +kernel, by decide +kernel, by decide +kernel,
      swap_head_good, swap_body_good⟩,
   ⟨swapState, 0, 0, 0, 0, (swapState.dev.cachedRead 0 0xFF agDevice 0 32 false).1, List.replicate 32 0, rfl, by decide +kernel⟩⟩

theorem test_marver_nop_served : (withMvr [0x00] []).dev.MvrServed 0 0 0x00 (mvrNext [0x00] []) ∧ fld 0x00 7 0 = 0x00 := by decide +kernel
theorem test_marver_signal_served : (withMvr [0x10207] []).dev.MvrServed 0 0 0x10207 (mvrNext [0x10207] []) ∧ fld 0x10207 7 0 = 0x07 := by decide +kernel
theorem test_marver_wait_served : (withMvr [0x100010208] [(pStk 0 1, rFlag 2, 1)]).dev.MvrServed 0 0 0x100010208 (mvrNext [0x100010208] [(pStk 0 1, rFlag 2, 1)]) ∧
    fld 0x100010208 7 0 = 0x08 := by decide +kernel
theorem test_marver_fence_served : (withMvr [0x309] []).dev.MvrServed 0 0 0x309 (mvrNext [0x309] []) ∧ fld 0x309 7 0 = 0x09 := by decide +kernel
theorem test_marver_flag_add : ∃ (s : State) (r : Role) (sk : Fin 24) (v : BitVec 32), s.dev.Takes r (pStk sk 1) ∧ 65535 < s.dev.flag (pStk sk 1) (wfld v 5 0) + wfld v 31 16 :=
  ⟨withRegs [(pPwr, rDom 80, 0), (pStk 0 1, rFlag 3, 65535)], .operator, 0, 0x10003, by decide +kernel⟩
theorem test_marver_waits_too_long : ∃ (s : State) (sk : Fin 24) (q : Fin 8) (w at_ lim : Nat), s.dev.qHead (mU sk) q = some w ∧ s.dev.qWaiting (mU sk) q = some (at_, lim) ∧
    fld w 7 0 = 0x08 ∧ s.dev.flag (pStk sk 1) (sgFlag w) < sgAmount w ∧ at_ + lim ≤ s.dev.ao :=
  ⟨withDev (({ State.reset.dev with ao := 9 } : Dev).setStk 0 { qs := [{ cmds := [0x10208], waitAt := some (2, 7) }] }), 0, 0, 0x10208, 2, 7, by decide +kernel⟩

theorem test_mv_served : (withMvr [mvCmd 8] []).dev.MvrServed 0 0 (mvCmd 8) (mvrNext [mvCmd 8] []) ∧ fld (mvCmd 8) 7 0 = 0x01 ∧
    mvPair (mvWfmt (mvCmd 8)) (mvVfmt (mvCmd 8)) = true ∧
    (match (mvrNext [mvCmd 8] []).opnds 0 0 1 (mvRanges (mvCmd 8)) with
     | (f, some ls) => (f.opMark (ls.take (3 + mvRows (mvCmd 8)))).2.isNone | _ => false) = true := by decide +kernel
theorem test_mv_pair_refused : (withMvr [mvCmd 10] []).dev.MvrServed 0 0 (mvCmd 10) (mvrNext [mvCmd 10] []) ∧ mvPair (mvWfmt (mvCmd 10)) (mvVfmt (mvCmd 10)) = false := by decide +kernel
theorem test_attn_served : (withMvr [attnCmd] []).dev.MvrServed 0 0 attnCmd (mvrNext [attnCmd] []) ∧ fld attnCmd 7 0 = 0x02 ∧
    (match (mvrNext [attnCmd] []).attnWork 0 0 attnCmd 1 with | .ok _ => true | _ => false) = true := by decide +kernel
theorem test_marver_atomic_served : (withMvr [atomicCmd] []).dev.MvrServed 0 0 atomicCmd (mvrNext [atomicCmd] []) ∧ fld atomicCmd 7 0 = 0x06 ∧ atReturn atomicCmd = false ∧
    (match (mvrNext [atomicCmd] []).opnds 0 0 1 [(atAddr atomicCmd, 32, true, .here 6)] with
     | (f, some [a :: _]) => (match f.atomicAt (agPlain (f.job 1).ptn (some 1)) a.dpa (atOp atomicCmd) (atLanes atomicCmd) (leBytes 32 (atOperand atomicCmd)) with
       | (_, .done _ _) => true | _ => false)
     | _ => false) = true := by decide +kernel
theorem test_copy_served : (withMvr [mvrCopyCmd] []).dev.MvrServed 0 0 mvrCopyCmd (mvrNext [mvrCopyCmd] []) ∧ fld mvrCopyCmd 7 0 = 0x03 ∧ cmdPhys mvrCopyCmd = false ∧
    (match (mvrNext [mvrCopyCmd] []).opnd 0 0 1 (cpSrc mvrCopyCmd) (cpBytes mvrCopyCmd) false (.here 5) 3 with
     | .ok f ls => (match f.opnd 0 0 1 (cpDst mvrCopyCmd) (cpBytes mvrCopyCmd) true .stacks 3 with
       | .ok g ld => (g.copySealBad (pieces ls) (pieces ld) (cpBytes mvrCopyCmd)).isNone && g.freeCopier 0 = some 0 | _ => false)
     | _ => false) = true := by decide +kernel
theorem test_fill_served : (withMvr [mvrFillCmd] []).dev.MvrServed 0 0 mvrFillCmd (mvrNext [mvrFillCmd] []) ∧ fld mvrFillCmd 7 0 = 0x04 ∧
    (match (mvrNext [mvrFillCmd] []).opnd 0 0 1 (cpSrc mvrFillCmd) (cpBytes mvrFillCmd) true .stacks 3 with | .ok f _ => f.freeCopier 0 = some 0 | _ => false) = true := by decide +kernel
theorem test_scrub_served : (withMvr [mvrScrubCmd] []).dev.MvrServed 0 0 mvrScrubCmd (mvrNext [mvrScrubCmd] []) ∧ fld mvrScrubCmd 7 0 = 0x05 ∧
    (match (mvrNext [mvrScrubCmd] []).opnd 0 0 1 (cpSrc mvrScrubCmd) (cpBytes mvrScrubCmd) false (.here 5) 3 with | .ok f _ => f.freeCopier 0 = some 0 | _ => false) = true := by decide +kernel

theorem test_run_to_land : ∃ (s : State) (sk : Fin 24) (r : MRun) (rest : List MRun) (o : Nat × List Byte × Bool), (s.dev.stk sk).runs = r :: rest ∧ r.outs = [o] ∧
    s.dev.memReady o.1 = true ∧ s.dev.slotAt o.1 = 0 ∧ o.1 % 64 + o.2.1.length ≤ 64 ∧ loc o.1 = .stack 0 320 ∧ s.dev.sram = [] ∧ s.dev.PartsFit ∧ (s.dev.job r.job).endedAt = none ∧
    s.dev.errs = [] ∧ s.dev.torn = [] ∧ s.dev.weak o.1 = false ∧ s.dev.lostAt o.1 = false :=
  ⟨withDev ((withDoms [80]).dev.setStk 0 { runs := [{ aRun with outs := [(320, [1, 2, 3], false)] }] }), 0, { aRun with outs := [(320, [1, 2, 3], false)] }, [], (320, [1, 2, 3], false), by decide +kernel⟩
theorem test_copier_to_land : ∃ (s : State) (sk : Fin 24) (e : Fin 4) (r : CopyRun), tget? (s.dev.stk sk).copiers e = some r ∧ s.dev.piecesReady (r.src ++ r.dst) = true ∧
    r.total = r.done ∧ mhSigEn r.cmd.toNat = true ∧ mhSigKind r.cmd.toNat = false := ⟨withDev ((withDoms [80]).dev.setStk 0 { copiers := [(0, aCopy 0x103)] }), 0, 0, aCopy 0x103, by decide +kernel⟩
set_option maxRecDepth 100000 in
theorem test_copy_resumes : (∃ (s : State) (sk : Fin 24) (k : Fin 32), s.dev.eligible (mU sk) (((tget? (s.dev.stk sk).saved k).map CopyRun.job).getD 0) = false) ∧
    (savedCopy.dev.eligible (mU 0) 1 = true ∧ tget? (savedCopy.dev.stk 0).saved 0 = some (aCopy (3 + 2 ^ 544)) ∧ savedCopy.dev.freeCopier 0 = some 0 ∧ savedCopy.dev.mvrRuns 0 = true ∧
    (match savedCopy.dev.readPva 0 (savedCopy.dev.stkSave 0 0) 512 with
     | (_, .ok l) => decide (crc32 (l.take 0x1FC) = numAt l 0x1FC 4) && cmdPhys (numAt l 0 64 + (aCopy (3 + 2 ^ 544)).cmd.toNat / 2 ^ 512 * 2 ^ 512)
     | _ => false) = true) :=
  ⟨⟨State.reset, 0, 0, by decide +kernel⟩, by decide +kernel⟩
theorem test_self_refresh_demanded : ∃ (s : State) (k : Fin 24), s.dev.dom (80 + k.val) = dsSelf ∧ (s.dev.stk k).demand = true ∧ s.dev.lehr = 0 ∧ s.dev.dom 110 = dsOn :=
  ⟨withDev ((withRegs [(pPwr, rDom 80, 0x20), (pPwr, rDom 110, 0)]).dev.setStk 0 { demand := true }), 0, by decide +kernel⟩
theorem test_seal_takes : (∃ (s : State) (sk : Fin 24) (v : BitVec 32), s.dev.Takes .security (pStk sk 0) ∧ wfld v 4 0 ≤ 24) ∧
    (∃ (s : State) (sk : Fin 24), s.dev.Takes .operator (pStk sk 0) ∧ Role.operator ≠ .security) :=
  ⟨⟨withDoms [80], 0, 7, by decide +kernel⟩, ⟨withDoms [80], 0, by decide +kernel⟩⟩

theorem test_descriptor_due : (∃ (s : State) (p : Fin 25) (i : Item) (e : Dev), s.dev.dueItem p 0x0010 = some (i, e) ∧ e.getF (pPtn i.ptn) 0x308 16 0 ≤ numAt i.body 0x80 2) ∧
    (∃ (s : State) (p : Fin 25) (i : Item) (e : Dev), s.dev.dueItem p 0x0011 = some (i, e) ∧ e.getF (pPtn i.ptn) 0x308 16 0 ≤ numAt i.body 0 2) :=
  ⟨⟨itemState {} 0 0x0010 [], 0, itemOf 0 [], itemBusy {} 0 0x0010 [], by decide +kernel⟩,
   ⟨itemState {} 0 0x0011 [], 0, itemOf 0 [], itemBusy {} 0 0x0011 [], by decide +kernel⟩⟩
theorem test_descriptor_refused :
    (numAt badDesc 0x80 2 < (itemBusy descDev 0 0x0010 badDesc).getF (pPtn 0) 0x308 16 0 ∧ dsBadFormat (numAt badDesc 0 128) = true) ∧
    (numAt (goodDesc 9) 0x80 2 < (itemBusy descDev 0 0x0010 (goodDesc 9)).getF (pPtn 0) 0x308 16 0 ∧ dsBadFormat (numAt (goodDesc 9) 0 128) = false ∧
     (itemBusy descDev 0 0x0010 (goodDesc 9)).getF (pPtn 0) 0x314 16 0 ≤ dsAlloc (numAt (goodDesc 9) 0 128)) := by decide +kernel
theorem test_descriptor_created : (itemState descDev 0 0x0010 (goodDesc 0)).dev.dueItem 0 0x0010 = some (itemOf 0 (goodDesc 0), itemBusy descDev 0 0x0010 (goodDesc 0)) ∧
    numAt (goodDesc 0) 0x80 2 < (itemBusy descDev 0 0x0010 (goodDesc 0)).getF (pPtn 0) 0x308 16 0 ∧ dsBadFormat (numAt (goodDesc 0) 0 128) = false ∧
    (match (itemBusy descDev 0 0x0010 (goodDesc 0)).intakeRead 0 ((itemBusy descDev 0 0x0010 (goodDesc 0)).allocPva 0 0) 16 with
     | (f, .ok (bs, false)) => decide (dsCheck (numAt (goodDesc 0) 0 128) (leNat bs) = none) &&
       (match f.intakeWrite 0 (f.descPva 0 0) (leBytes 128 (numAt (goodDesc 0) 0 128 + 2 ^ 1023)) with | (_, .ok ()) => true | _ => false)
     | _ => false) = true := by decide +kernel
theorem test_descriptor_check_fails :
    (match (itemBusy descDev 0 0x0010 (goodDesc 1)).intakeRead 0 ((itemBusy descDev 0 0x0010 (goodDesc 1)).allocPva 0 1) 16 with
     | (_, .ok (bs, false)) => decide (dsCheck (numAt (goodDesc 1) 0 128) (leNat bs) = some (cDescAlloc, 0)) | _ => false) = true := by decide +kernel
theorem test_descriptor_destroyed : (itemState descDev 0 0x0011 []).dev.dueItem 0 0x0011 = some (itemOf 0 [], itemBusy descDev 0 0x0011 []) ∧
    (match (itemBusy descDev 0 0x0011 []).intakeRead 0 ((itemBusy descDev 0 0x0011 []).descPva 0 0 + 120) 8 with
     | (f, .ok (bs, false)) => (match f.intakeWrite 0 ((itemBusy descDev 0 0x0011 []).descPva 0 0 + 120) (leBytes 8 (setFld (leNat bs) 63 63 0)) with | (_, .ok ()) => true | _ => false)
     | _ => false) = true := by decide +kernel

theorem test_dma_nop_served : (withDmac [0x00] []).dev.DmaServed 0 0 0x00 ∧ fld 0x00 7 0 = 0x00 := by decide +kernel
theorem test_dma_signal_served : (withDmac [dmaSignalCmd] [(pClu 0, 0x24, 0)]).dev.DmaServed 0 0 dmaSignalCmd ∧ fld dmaSignalCmd 7 0 = 0x07 ∧
    (withDmac [dmaSignalCmd] [(pClu 0, 0x24, 0)]).dev.sigLocal dmaSignalCmd = true ∧ dmSigKind dmaSignalCmd = false ∧
    (withDmac [dmaSignalCmd] [(pClu 0, 0x24, 0)]).dev.pageOff (pClu 0) = false := by decide +kernel
theorem test_dma_remote_signal_served : (withDmac [dmaFarCmd] []).dev.DmaServed 0 0 dmaFarCmd ∧ fld dmaFarCmd 7 0 = 0x07 ∧
    (withDmac [dmaFarCmd] []).dev.sigLocal dmaFarCmd = false := by decide +kernel
theorem test_dma_wait_served : ((withDmac [dmaWaitCmd] [(pClu 0, 0x24, 0), (pClu 0, rFlag 0, 2)]).dev.DmaServed 0 0 dmaWaitCmd ∧ fld dmaWaitCmd 7 0 = 0x06 ∧
    dmWtThreshold dmaWaitCmd ≤ (withDmac [dmaWaitCmd] [(pClu 0, 0x24, 0), (pClu 0, rFlag 0, 2)]).dev.flag (dmWtPage dmaWaitCmd) (dmWtFlag dmaWaitCmd)) ∧
    ((withDmac [dmaWaitCmd] [(pClu 0, 0x24, 0)]).dev.DmaServed 0 0 dmaWaitCmd ∧
    (withDmac [dmaWaitCmd] [(pClu 0, 0x24, 0)]).dev.flag (dmWtPage dmaWaitCmd) (dmWtFlag dmaWaitCmd) < dmWtThreshold dmaWaitCmd) := by decide +kernel
theorem test_dma_fence_served : (withDmac [0x408] []).dev.DmaServed 0 0 0x408 ∧ fld 0x408 7 0 = 0x08 := by decide +kernel
theorem test_dma_waits_too_long : ∃ (s : State) (e : Fin 256) (q : Fin 2) (w at_ lim : Nat), s.dev.qHead (dU e) q = some w ∧ s.dev.qWaiting (dU e) q = some (at_, lim) ∧
    fld w 7 0 = 0x06 ∧ s.dev.flag (dmWtPage w) (dmWtFlag w) < dmWtThreshold w ∧ at_ + lim ≤ s.dev.ao :=
  ⟨withDev (({ State.reset.dev with ao := 9 } : Dev).setDma 0 { qs := [{ cmds := [BitVec.ofNat 1024 dmaWaitCmd], waitAt := some (2, 7) }] }), 0, 0, dmaWaitCmd, 2, 7, by decide +kernel⟩

theorem test_dma_copy_served : (withDmac [dmaCopyCmd] []).dev.DmaServed 0 0 dmaCopyCmd ∧ fld dmaCopyCmd 7 0 = 0x01 ∧
    (match (withDmac [dmaCopyCmd] []).dev.descAtIssue 0 0 1 (dmSrc dmaCopyCmd) with
     | (f, .ok src) => (match f.descAtIssue 0 0 1 (dmDst dmaCopyCmd) with | (_, .ok dst) => (issueCheck dmaCopyCmd src dst).isNone | _ => false)
     | _ => false) = true := by decide +kernel
theorem test_dma_gather_served : (withDmac [dmaListCmd 2] []).dev.DmaServed 0 0 (dmaListCmd 2) ∧ (withDmac [dmaListCmd 3] []).dev.DmaServed 0 0 (dmaListCmd 3) ∧
    (withDmac [dmaListCmd 4] []).dev.DmaServed 0 0 (dmaListCmd 4) ∧
    (match (withDmac [dmaListCmd 2] []).dev.descAtIssue 0 0 1 (dmSrc (dmaListCmd 2)) with
     | (f, .ok src) => (match f.descAtIssue 0 0 1 (dmDst (dmaListCmd 2)) with | (_, .ok dst) => (issueCheck (dmaListCmd 2) src dst).isSome | _ => false)
     | _ => false) = true := by decide +kernel
theorem test_dma_one_gather_served : (withDmacOf (8 * 2 ^ 576) [dmaOneCmd 2] []).dev.DmaServed 0 0 (dmaOneCmd 2) ∧
    (match (withDmacOf (8 * 2 ^ 576) [dmaOneCmd 2] []).dev.descAtIssue 0 0 1 0 with
     | (f, .ok src) => (match f.descAtIssue 0 0 1 1 with | (_, .ok dst) => (issueCheck (dmaOneCmd 2) src dst).isNone | _ => false)
     | _ => false) = true := by decide +kernel
theorem test_dma_one_scatter_served : (withDmacOf (8 * 2 ^ 576) [dmaOneCmd 3] []).dev.DmaServed 0 0 (dmaOneCmd 3) ∧
    (match (withDmacOf (8 * 2 ^ 576) [dmaOneCmd 3] []).dev.descAtIssue 0 0 1 0 with
     | (f, .ok src) => (match f.descAtIssue 0 0 1 1 with | (_, .ok dst) => (issueCheck (dmaOneCmd 3) src dst).isNone | _ => false)
     | _ => false) = true := by decide +kernel
theorem test_dma_one_scatter_add_served : (withDmacOf (8 * 2 ^ 576 + 2 * 2 ^ 48 + 2 ^ 58) [dmaOneCmd 4] []).dev.DmaServed 0 0 (dmaOneCmd 4) ∧
    (match (withDmacOf (8 * 2 ^ 576 + 2 * 2 ^ 48 + 2 ^ 58) [dmaOneCmd 4] []).dev.descAtIssue 0 0 1 0 with
     | (f, .ok src) => (match f.descAtIssue 0 0 1 1 with | (_, .ok dst) => (issueCheck (dmaOneCmd 4) src dst).isNone | _ => false)
     | _ => false) = true := by decide +kernel
theorem test_dma_bad_descriptor : (withDmac [0x0001 + 3 * 2 ^ 64] []).dev.DmaServed 0 0 (0x0001 + 3 * 2 ^ 64) ∧
    (match (withDmac [0x0001 + 3 * 2 ^ 64] []).dev.descAtIssue 0 0 1 3 with | (_, .bad) => true | _ => false) = true := by decide +kernel
theorem test_dma_atomic_served : (withDmac [0x05 + 2 ^ 67] []).dev.DmaServed 0 0 (0x05 + 2 ^ 67) ∧ fld (0x05 + 2 ^ 67) 7 0 = 0x05 := by decide +kernel

theorem test_dma_unit_issues : (withXfer (aXfer dmaCopyCmd)).dev.dmaRuns 0 = true ∧
    (match (withXfer (aXfer dmaCopyCmd)).dev.dmaChoose 0 with
     | some (0, d) => (match tget? (d.dma 0).xfers 0 with
       | some x =>
         let w := x.cmd.toNat
         let src := leNat x.src
         let dst := leNat x.dst
         (match d.readEntries 0 x (unitEntries w dst x.next) with
          | (d', .ok es _) =>
            let ul := checkEntries (listedOf w src dst) (fun j => ((es.find? fun r => r.1 = j).map Prod.snd).getD []) (es.map Prod.fst)
            let ops := unitOps w src dst ul [] x.next
            (match d'.xlPages 0 x.ptn false (unitPages x ops).1 with
             | (f, .ok rd) => (match f.xlPages 0 x.ptn true (unitPages x ops).2 with
               | (g, .ok wr) => fld w 7 0 = 1 && g.segsReady (rd ++ wr) && !g.leaks 0 x rd wr ops && ops.length = 32 &&
                 !(((srcRuns src dst ops).filterMap fun r => (segAt rd r.1).map fun y => { y with len := r.2 }).any (g.segClosed (agPlain x.ptn (some x.job))))
               | _ => false)
             | _ => false)
          | _ => false)
       | none => false)
     | _ => false) = true := by decide +kernel
theorem test_dma_unit_done : ∃ (s : State) (e : Fin 256) (q : Fin 2) (k : Nat) (x : Xfer) (u : DUnit), tget? (s.dev.dma e).xfers q = some x ∧
    (x.flight.find? fun v => v.k = k) = some u ∧ u.performed = true ∧ u.posts.all s.dev.isHeld = true ∧ x.code = 0 ∧ x.stop = 0 ∧ s.dev.scrubbed (pDmac e) = false :=
  ⟨withXfer { aXfer dmaCopyCmd with flight := [aUnit], next := 1 }, 0, 0, 0, { aXfer dmaCopyCmd with flight := [aUnit], next := 1 }, aUnit, by decide +kernel⟩
theorem test_dma_transfer_ends : (∃ (s : State) (e : Fin 256) (q : Fin 2) (x : Xfer) (w : Nat) (P : Page), tget? (s.dev.dma e).xfers q = some x ∧ x.flight = [] ∧ x.saved = false ∧
      w = x.cmd.toNat ∧ dmStatEn w = false ∧ x.code = 0 ∧ x.total ≤ x.next ∧ dmSigEn w = true ∧ s.dev.sigLocal w = true ∧ P = pClu (dmSigTarget w) ∧ dmSigKind w = false ∧ s.dev.pageOff P = false) ∧
    (∃ (s : State) (e : Fin 256) (q : Fin 2) (x : Xfer), tget? (s.dev.dma e).xfers q = some x ∧ x.flight = [] ∧ x.saved = false ∧ dmStatEn x.cmd.toNat = false ∧ x.code ≠ 0) :=
  ⟨⟨withXfer { aXfer (dmaCopyCmd + 2 ^ 12) with next := 1 }, 0, 0, { aXfer (dmaCopyCmd + 2 ^ 12) with next := 1 }, dmaCopyCmd + 2 ^ 12, pClu 0, by decide +kernel⟩,
   ⟨withXfer { aXfer dmaCopyCmd with code := 0x2001 }, 0, 0, { aXfer dmaCopyCmd with code := 0x2001 }, by decide +kernel⟩⟩
set_option maxRecDepth 100000 in
theorem test_dma_transfer_stores_status :
    (match (withXfer { aXfer dmaStatCmd with next := 1 }).dev.store (some (dU 0)) (some (dieOf (dU 0))) (agPlain 0 (some 1)) 0 (dmStat dmaStatCmd) (statusRecord { aXfer dmaStatCmd with next := 1 }) false with
     | (_, .ok _) => dmStatEn dmaStatCmd | _ => false) = true := by decide +kernel
set_option maxRecDepth 100000 in
theorem test_dma_resumes : savedXfer.dev.dmaRuns 0 = true ∧ savedXfer.dev.eligible (dU 0) 1 = true ∧ tget? (savedXfer.dev.dma 0).xfers 0 = some { aXfer dmaCopyCmd with stop := 1, saved := true } ∧
    (match savedXfer.dev.fetch (some (dU 0)) none (agPlain 0 (some 1)) 0 (savedXfer.dev.dmaSave 0 0) 512 true with
     | (_, .ok bs) => decide (crc32 (bs.take 0x1FC) = numAt bs 0x1FC 4) | _ => false) = true := by decide +kernel
set_option maxRecDepth 100000 in
theorem test_dma_record_altered : (withXfer { aXfer dmaCopyCmd with stop := 1, saved := true }).dev.dmaRuns 0 = true ∧
    (match (withXfer { aXfer dmaCopyCmd with stop := 1, saved := true }).dev.fetch (some (dU 0)) none (agPlain 0 (some 1)) 0 0 512 true with
     | (_, .ok bs) => decide (crc32 (bs.take 0x1FC) ≠ numAt bs 0x1FC 4) | _ => false) = true := by decide +kernel

theorem test_hold_held : (∃ (s : State) (r : Role) (p : Fin 24) (h : Fin 8), s.dev.Takes r (pPtn p) ∧ s.dev.holdValid p h = true ∧
      tgetD s.dev.holdAt (8 * p + h) 0 + (s.dev.reg pMmu 0x40).toNat ≤ s.dev.ao ∧
      (match s.dev.xlate none p (s.dev.holdPva p h) (s.dev.bit (pPtn p) (rHold h) 1) with | (_, .error _) => true | _ => false) = true) ∧
    (∃ (s : State) (r : Role) (p : Fin 24) (h : Fin 8), s.dev.Takes r (pPtn p) ∧ s.dev.holdValid p h = true ∧
      s.dev.ao < tgetD s.dev.holdAt (8 * p + h) 0 + (s.dev.reg pMmu 0x40).toNat ∧
      (match s.dev.xlate none p (s.dev.holdPva p h) (s.dev.bit (pPtn p) (rHold h) 1) with | (_, .ok _) => true | _ => false) = true) :=
  ⟨⟨withDev ((withRegs [(pPtn 0, rHold 1, 1), (pMmu, 0x40, 0)]).dev), .operator, 0, 1, by decide +kernel⟩,
   ⟨withDev (descDev.setReg (pPtn 0) (rHold 1) 1), .operator, 0, 1, by decide +kernel⟩⟩

theorem test_item_under_way : (itemBusy {} 0 0x30 []).work = [⟨1, 0, 0, 7, 0, [(0x30, [])], [], 0, true, none, none⟩] ∧ (1 : Nat) ≠ glueMsg ∧ cMsgInvalid ≠ cItemSkipped ∧
    (itemOf 0 []).item = 0 ∧ bitOf 0 0 = false := by decide +kernel

theorem test_map_due : (∃ (s : State) (p : Fin 25) (i : Item) (e : Dev), s.dev.dueItem p 0x0020 = some (i, e) ∧ e.xaReady i.ptn = true ∧ numAt i.body 0x14 4 = 0) ∧
    (∃ (s : State) (p : Fin 25) (i : Item) (e : Dev), s.dev.dueItem p 0x0020 = some (i, e) ∧ e.xaReady i.ptn = true ∧ numAt i.body 0x10 1 ≤ 2 ∧ numAt i.body 0x14 4 ≠ 0 ∧
      (match Dev.mapPages i.ptn (numAt i.body 0 8) (fld (numAt i.body 8 8) 43 0) (fld (numAt i.body 8 8) 51 44) (numAt i.body 0x10 1) (bitOf (numAt i.body 8 8) 63)
        (bitOf (numAt i.body 0x11 1) 0) (bitOf (numAt i.body 0x11 1) 1) (List.range (numAt i.body 0x14 4)) e with
       | .ok f => decide (∀ h : Fin 8, (f.endItem i 0 0).holdValid i.ptn h = false) | .error _ => false) = true) ∧
    (∃ (s : State) (p : Fin 25) (i : Item) (e : Dev), s.dev.dueItem p 0x0020 = some (i, e) ∧ e.xaReady i.ptn = true ∧ numAt i.body 0x10 1 ≤ 2 ∧ numAt i.body 0x14 4 ≠ 0 ∧
      (match Dev.mapPages i.ptn (numAt i.body 0 8) (fld (numAt i.body 8 8) 43 0) (fld (numAt i.body 8 8) 51 44) (numAt i.body 0x10 1) (bitOf (numAt i.body 8 8) 63)
        (bitOf (numAt i.body 0x11 1) 0) (bitOf (numAt i.body 0x11 1) 1) (List.range (numAt i.body 0x14 4)) e with
       | .ok _ => false | .error (x, _) => decide (x = 2)) = true) :=
  ⟨⟨itemState mapDev 0 0x0020 [], 0, itemOf 0 [], itemBusy mapDev 0 0x0020 [], by decide +kernel⟩,
   ⟨itemState mapDev 0 0x0020 (mapBody 0x40000000), 0, itemOf 0 (mapBody 0x40000000), itemBusy mapDev 0 0x0020 (mapBody 0x40000000), by decide +kernel⟩,
   ⟨itemState mapDev 0 0x0020 (mapBody 0), 0, itemOf 0 (mapBody 0), itemBusy mapDev 0 0x0020 (mapBody 0), by decide +kernel⟩⟩
theorem test_unmap_due : (∃ (s : State) (p : Fin 25) (i : Item) (e : Dev), s.dev.dueItem p 0x0021 = some (i, e) ∧ e.xaReady i.ptn = true ∧ numAt i.body 0x10 1 ≤ 2 ∧
      numAt i.body 0x14 4 = 1 ∧ e.unmapReason i.ptn (numAt i.body 0 8) (numAt i.body 0x10 1) = none) ∧
    (∃ (s : State) (p : Fin 25) (i : Item) (e : Dev), s.dev.dueItem p 0x0021 = some (i, e) ∧ e.xaReady i.ptn = true ∧ numAt i.body 0x10 1 ≤ 2 ∧
      numAt i.body 0x14 4 = 1 ∧ e.unmapReason i.ptn (numAt i.body 0 8) (numAt i.body 0x10 1) = some 6) :=
  ⟨⟨itemState mapDev 0 0x0021 (unmapBody 0), 0, itemOf 0 (unmapBody 0), itemBusy mapDev 0 0x0021 (unmapBody 0), by decide +kernel⟩,
   ⟨itemState mapDev 0 0x0021 (unmapBody 0x40000000), 0, itemOf 0 (unmapBody 0x40000000), itemBusy mapDev 0 0x0021 (unmapBody 0x40000000), by decide +kernel⟩⟩
theorem test_invalidation : (∃ (s : State) (v : Inval), (s.dev.invals.find? fun x => x.id = v.id) = some v ∧ s.dev.invalBusy v = false ∧ v.forItem = none) ∧
    (∃ (s : State) (v : Inval), (s.dev.invals.find? fun x => x.id = v.id) = some v ∧ s.dev.invalBusy v = true) :=
  ⟨⟨withDev { State.reset.dev with invals := [⟨3, 0, [(0, 65536)], none⟩] }, ⟨3, 0, [(0, 65536)], none⟩, by decide +kernel⟩,
   ⟨withDev { (State.reset.dev.setStk 0 { runs := [{ aRun with ranges := [(0, 64)] }] }) with invals := [⟨3, 0, [(0, 65536)], none⟩] }, ⟨3, 0, [(0, 65536)], none⟩, by decide +kernel⟩⟩

theorem test_job_create_due : (∃ (s : State) (p : Fin 25) (i : Item) (e : Dev), s.dev.dueItem p 0x0030 = some (i, e) ∧ e.lehr = 0 ∧ e.ptnSealed i.ptn = false ∧
    numAt i.body 0 1 = 2 ∧ numAt i.body 1 1 ≠ 0 ∧ numAt i.body 1 1 ≤ 15 ∧ numAt i.body 2 1 ≤ 7 ∧ (e.job 0).cls = 0) :=
  ⟨itemState {} 0 0x0030 [2, 15, 7, 0, 0, 0, 0, 0], 0, itemOf 0 [2, 15, 7, 0, 0, 0, 0, 0], itemBusy {} 0 0x0030 [2, 15, 7, 0, 0, 0, 0, 0], by decide +kernel⟩
theorem test_job_bind_due : (∃ (s : State) (p : Fin 25) (i : Item) (e : Dev), s.dev.dueItem p 0x0031 = some (i, e) ∧ e.jobOf i.ptn (numAt i.body 0 2) = true ∧
      (e.job (numAt i.body 0 2)).cls = 2 ∧ numAt i.body 2 2 ≤ 799 ∧ e.owner (pClu (numAt i.body 2 2)) = i.ptn ∧ 1 ≤ numAt i.body 4 1 ∧ numAt i.body 4 1 ≤ 7 ∧
      e.qBound (numAt i.body 2 2) (numAt i.body 4 1) = false ∧ e.reservedBy (numAt i.body 2 2) = none) ∧
    (∃ (s : State) (p : Fin 25) (i : Item) (e : Dev), s.dev.dueItem p 0x0031 = some (i, e) ∧ e.jobOf i.ptn (numAt i.body 0 2) = false) ∧
    (∃ (s : State) (p : Fin 25) (i : Item) (e : Dev), s.dev.dueItem p 0x0032 = some (i, e) ∧ e.jobOf i.ptn (numAt i.body 0 2) = true ∧
      (e.job (numAt i.body 0 2)).cls = 2 ∧ (e.ptnStacks i.ptn).contains (numAt i.body 2 1) = true ∧ 1 ≤ numAt i.body 3 1 ∧ numAt i.body 3 1 ≤ 7 ∧
      e.qBound (0x2000 + numAt i.body 2 1) (numAt i.body 3 1) = false) ∧
    (∃ (s : State) (p : Fin 25) (i : Item) (e : Dev), s.dev.dueItem p 0x0033 = some (i, e) ∧ e.jobOf i.ptn (numAt i.body 0 2) = true ∧
      (e.job (numAt i.body 0 2)).cls = 2 ∧ numAt i.body 2 2 ≤ 255 ∧ e.owner (pDmac (numAt i.body 2 2)) = i.ptn ∧ numAt i.body 4 1 = 1 ∧ e.qBound (0x4000 + numAt i.body 2 2) 1 = false) :=
  ⟨⟨itemState jobDev 0 0x0031 [1, 0, 0, 0, 7, 0, 0, 0, 9, 0, 0, 0, 0, 0, 0, 0], 0, itemOf 0 [1, 0, 0, 0, 7, 0, 0, 0, 9, 0, 0, 0, 0, 0, 0, 0],
     itemBusy jobDev 0 0x0031 [1, 0, 0, 0, 7, 0, 0, 0, 9, 0, 0, 0, 0, 0, 0, 0], by decide +kernel⟩,
   ⟨itemState jobDev 0 0x0031 [], 0, itemOf 0 [], itemBusy jobDev 0 0x0031 [], by decide +kernel⟩,
   ⟨itemState jobDev 0 0x0032 [1, 0, 0, 1, 0, 0, 0, 0], 0, itemOf 0 [1, 0, 0, 1, 0, 0, 0, 0], itemBusy jobDev 0 0x0032 [1, 0, 0, 1, 0, 0, 0, 0], by decide +kernel⟩,
   ⟨itemState jobDev 0 0x0033 [1, 0, 0, 0, 1, 0, 0, 0], 0, itemOf 0 [1, 0, 0, 0, 1, 0, 0, 0], itemBusy jobDev 0 0x0033 [1, 0, 0, 0, 1, 0, 0, 0], by decide +kernel⟩⟩
theorem test_job_unbind_due : (∃ (s : State) (p : Fin 25) (i : Item) (e : Dev), s.dev.dueItem p 0x0034 = some (i, e) ∧ e.jobOf i.ptn (numAt i.body 0 2) = true ∧
      (e.job (numAt i.body 0 2)).cls ≠ 1 ∧ numAt i.body 2 2 < 800 ∧ e.owner (pClu (numAt i.body 2 2)) = i.ptn ∧ numAt i.body 4 1 ≤ 7 ∧
      e.qJob (numAt i.body 2 2) (numAt i.body 4 1) = numAt i.body 0 2 ∧ e.mayUnbind (numAt i.body 2 2) (numAt i.body 4 1) = true) ∧
    (∃ (s : State) (p : Fin 25) (i : Item) (e : Dev), s.dev.dueItem p 0x0035 = some (i, e) ∧ e.jobOf i.ptn (numAt i.body 0 2) = true ∧
      (e.job (numAt i.body 0 2)).cls = 3 ∧ maskBits 800 (numAt i.body 4 100) = [1] ∧ (∀ n ∈ [1], e.reserveBad i.ptn (numAt i.body 0 2) n = false)) ∧
    (∃ (s : State) (p : Fin 25) (i : Item) (e : Dev), s.dev.dueItem p 0x0036 = some (i, e) ∧ e.jobOf i.ptn (numAt i.body 0 2) = true ∧ (e.job (numAt i.body 0 2)).cls ≠ 1) :=
  ⟨⟨itemState (jobDev.setReg (pClu 0) 0xF0 0x1001) 0 0x0034 [1, 0, 0, 0, 7, 0, 0, 0], 0, itemOf 0 [1, 0, 0, 0, 7, 0, 0, 0],
     itemBusy (jobDev.setReg (pClu 0) 0xF0 0x1001) 0 0x0034 [1, 0, 0, 0, 7, 0, 0, 0], by decide +kernel⟩,
   ⟨itemState jobDev 0 0x0035 [2, 0, 0, 0, 2], 0, itemOf 0 [2, 0, 0, 0, 2], itemBusy jobDev 0 0x0035 [2, 0, 0, 0, 2], by decide +kernel⟩,
   ⟨itemState jobDev 0 0x0036 [1, 0], 0, itemOf 0 [1, 0], itemBusy jobDev 0 0x0036 [1, 0], by decide +kernel⟩⟩

theorem test_prog_due : (∃ (s : State) (p : Fin 25) (i : Item) (e : Dev), s.dev.dueItem p 0x0038 = some (i, e) ∧ e.lehr = 0 ∧ (tget? (e.px i.ptn).progs (numAt i.body 0 1)).isSome = true) ∧
    (∃ (s : State) (p : Fin 25) (i : Item) (e : Dev), s.dev.dueItem p 0x0039 = some (i, e) ∧ (tget? (e.px i.ptn).progs (numAt i.body 0 1)).isSome = true ∧
      ((e.ptnBatches i.ptn).any fun b => b.2.prog = numAt i.body 0 1) = false) ∧
    (∃ (s : State) (p : Fin 25) (i : Item) (e : Dev), s.dev.dueItem p 0x0039 = some (i, e) ∧ (tget? (e.px i.ptn).progs (numAt i.body 0 1)).isSome = true ∧
      ((e.ptnBatches i.ptn).any fun b => b.2.prog = numAt i.body 0 1) = true) ∧
    (∃ (s : State) (p : Fin 25) (i : Item) (e : Dev), s.dev.dueItem p 0x0039 = some (i, e) ∧ tget? (e.px i.ptn).progs (numAt i.body 0 1) = none) :=
  ⟨⟨itemState (progDev []) 0 0x0038 [0], 0, itemOf 0 [0], itemBusy (progDev []) 0 0x0038 [0], by decide +kernel⟩,
   ⟨itemState (progDev []) 0 0x0039 [0], 0, itemOf 0 [0], itemBusy (progDev []) 0 0x0039 [0], by decide +kernel⟩,
   ⟨itemState (progDev [(0, aBatch)]) 0 0x0039 [0], 0, itemOf 0 [0], itemBusy (progDev [(0, aBatch)]) 0 0x0039 [0], by decide +kernel⟩,
   ⟨itemState {} 0 0x0039 [0], 0, itemOf 0 [0], itemBusy {} 0 0x0039 [0], by decide +kernel⟩⟩
theorem test_prog_read : (∃ (s : State) (p : Fin 25) (i : Item) (e : Dev), s.dev.dueItem p 0x0038 = some (i, e) ∧ e.lehr = 0 ∧ tget? (e.px i.ptn).progs (numAt i.body 0 1) = none ∧
    e.ptnSealed i.ptn = false ∧ numAt i.body 8 8 % 64 = 0 ∧ 256 ≤ numAt i.body 0x10 4 ∧
    (match e.intakeRead i.ptn (numAt i.body 8 8) (numAt i.body 0x10 4 + if e.ptnSealed i.ptn then 1280 else 0) with
     | (f, .ok (bs, false)) => !f.ptnSealed i.ptn && decide ((⟨0x40000, bytesAt (bytesAt bs 0 256) 0 256⟩ : Image).ends ≤ 256) &&
         decide (f.progCheck i.ptn ⟨0x40000, bytesAt (bytesAt bs 0 256) 0 256⟩ (bytesAt bs 0 256) = none)
     | _ => false) = true) :=
  ⟨itemState progMem 0 0x0038 progBody, 0, itemOf 0 progBody, itemBusy progMem 0 0x0038 progBody, by decide +kernel⟩
theorem test_watchdog : (∃ (s : State) (u : Fin 0x4000) (k : Fin 33) (q j t0 : Nat), (s.dev.watched u k).find? (fun c => c.2.2 + 10000 ≤ s.dev.ao) = some (q, j, t0) ∧ 0x2000 ≤ u.val ∧ u.val < 0x2018) ∧
    (∃ (s : State) (u : Fin 0x4000) (k : Fin 33), s.dev.watched u k ≠ [] ∧ ∀ c ∈ s.dev.watched u k, s.dev.ao < c.2.2 + 10000) :=
  ⟨⟨withDev { (State.reset.dev.setStk 0 { runs := [aRun] }) with ao := 10000 }, 0x2000, 0, 0, 1, 0, by decide +kernel⟩,
   ⟨withDev { (State.reset.dev.setStk 0 { runs := [aRun] }) with ao := 9999 }, 0x2000, 0, by decide +kernel⟩⟩

theorem test_work_refused : (State.reset.dev.pwr.up = true ∧ State.reset.dev.devPower ≠ 1 ∧ parseWork [] = none) ∧
    parseWork (workBytes 24 0x10) = some [(0x10, [])] ∧ numAt (workBytes 24 0x10) 0x11 1 = 24 := by decide +kernel
theorem test_work_taken : (parseWork (workBytes 255 0x100) = some [(0x100, [])] ∧ numAt (workBytes 255 0x100) 0x11 1 = 0xFF ∧ State.reset.dev.work = [] ∧
      State.reset.dev.awake = true ∧ State.reset.dev.frit = false ∧ knownKinds.contains 0x100 = true) ∧
    (∃ d : Dev, d.pwr.up = true ∧ d.devPower ≠ 1 ∧ d.ptnExists (numAt (workBytes 3 0x10) 0x11 1) = true ∧ d.ptnState (numAt (workBytes 3 0x10) 0x11 1) = stFaulted) ∧
    (∃ d : Dev, d.pwr.up = true ∧ d.devPower ≠ 1 ∧ d.ptnExists (numAt (workBytes 3 0x10) 0x11 1) = true ∧ d.ptnState (numAt (workBytes 3 0x10) 0x11 1) = stQuiesced) ∧
    (∃ d : Dev, d.pwr.up = true ∧ d.devPower ≠ 1 ∧ parseWork (workBytes 3 0x10) = some [(0x10, [])] ∧ numAt (workBytes 3 0x10) 0x11 1 = 3 ∧ d.ptnExists 3 = true ∧ d.ptnState 3 = stActive ∧
      d.work = [] ∧ d.awake = true ∧ d.frit = false ∧ knownKinds.contains 0x10 = true) :=
  ⟨by decide +kernel, ⟨(withRegs [(pPtn 3, 0x24, 3), (pPtn 3, 0x0C, 8)]).dev, by decide +kernel⟩,
   ⟨(withRegs [(pPtn 3, 0x24, 3), (pPtn 3, 0x0C, 6)]).dev, by decide +kernel⟩,
   ⟨(withRegs [(pPtn 3, 0x24, 3), (pPtn 3, 0x0C, 4)]).dev, by decide +kernel⟩⟩
theorem test_work_held : State.reset.dev.ptnState 0 ≠ stActive ∧
    (let d := itemDev State.reset.dev 0 0x10 [] false
     d.awake = true ∧ d.ptnState 0 = stActive ∧ d.frit = false ∧ d.work.length = 1 ∧ (∀ m ∈ d.work, m.ptn = 0 ∧ m.busy = false ∧ m.next = 0 ∧ m.items.length = 1 ∧
       m.outs = [] ∧ (∀ x ∈ m.items, knownKinds.contains x.1 = true ∧ x.1 < 0x100))) := by decide +kernel

theorem test_enq_cluster : (∃ (s : State) (p : Fin 25) (i : Item) (e : Dev), s.dev.dueItem p 0x0001 = some (i, e) ∧ p.val < 24 ∧
      e.enqReason i.ptn (numAt i.body 0 2) (numAt i.body 0 2 < 800) (numAt i.body 2 1) (numAt i.body 4 4) (i.body.drop 8).length = 0 ∧ numAt i.body 4 4 ≠ 0 ∧ i.msg ≠ 0 ∧
      e.takesCmds (numAt i.body 0 2) = true ∧ e.qMark (numAt i.body 0 2) (numAt i.body 2 1) = 0 ∧ e.qHeld (numAt i.body 0 2) (numAt i.body 2 1) = []) ∧
    (∃ (s : State) (p : Fin 25) (i : Item) (e : Dev), s.dev.dueItem p 0x0001 = some (i, e) ∧ p.val < 24 ∧
      e.enqReason i.ptn (numAt i.body 0 2) (numAt i.body 0 2 < 800) (numAt i.body 2 1) (numAt i.body 4 4) (i.body.drop 8).length = 2) :=
  ⟨⟨itemState enqDev 0 0x0001 (enqBody 1 32), 0, itemOf 0 (enqBody 1 32), itemBusy enqDev 0 0x0001 (enqBody 1 32), by decide +kernel⟩,
   ⟨itemState enqDev 0 0x0001 (enqBody 0 32), 0, itemOf 0 (enqBody 0 32), itemBusy enqDev 0 0x0001 (enqBody 0 32), by decide +kernel⟩⟩
theorem test_enq_marver : ∃ (s : State) (p : Fin 25) (i : Item) (e : Dev), s.dev.dueItem p 0x0002 = some (i, e) ∧ p.val < 24 ∧
      e.enqReason i.ptn (0x2000 + numAt i.body 0 2) (numAt i.body 0 2 < 24) (numAt i.body 2 1) (numAt i.body 4 4) (i.body.drop 8).length = 0 ∧ numAt i.body 4 4 ≠ 0 ∧ i.msg ≠ 0 ∧
      e.takesCmds (0x2000 + numAt i.body 0 2) = true ∧ e.qMark (0x2000 + numAt i.body 0 2) (numAt i.body 2 1) = 0 ∧ e.qHeld (0x2000 + numAt i.body 0 2) (numAt i.body 2 1) = [] :=
  ⟨itemState enqDev 0 0x0002 (enqBody 1 64), 0, itemOf 0 (enqBody 1 64), itemBusy enqDev 0 0x0002 (enqBody 1 64), by decide +kernel⟩
theorem test_enq_marver_refused : ∃ (s : State) (p : Fin 25) (i : Item) (e : Dev), s.dev.dueItem p 0x0002 = some (i, e) ∧ p.val < 24 ∧
      e.enqReason i.ptn (0x2000 + numAt i.body 0 2) (numAt i.body 0 2 < 24) (numAt i.body 2 1) (numAt i.body 4 4) (i.body.drop 8).length = 5 :=
  ⟨itemState enqDev 0 0x0002 (enqBody 1 32), 0, itemOf 0 (enqBody 1 32), itemBusy enqDev 0 0x0002 (enqBody 1 32), by decide +kernel⟩
theorem test_enq_dma : (∃ (s : State) (p : Fin 25) (i : Item) (e : Dev), s.dev.dueItem p 0x0003 = some (i, e) ∧ p.val < 24 ∧
      e.enqReason i.ptn (0x4000 + numAt i.body 0 2) (numAt i.body 0 2 < 256) (numAt i.body 2 1) (numAt i.body 4 4) (i.body.drop 8).length = 0 ∧ numAt i.body 4 4 ≠ 0 ∧ i.msg ≠ 0 ∧
      e.takesCmds (0x4000 + numAt i.body 0 2) = true ∧ e.qMark (0x4000 + numAt i.body 0 2) (numAt i.body 2 1) = 0 ∧ e.qHeld (0x4000 + numAt i.body 0 2) (numAt i.body 2 1) = []) ∧
    (∃ (s : State) (p : Fin 25) (i : Item) (e : Dev), s.dev.dueItem p 0x0003 = some (i, e) ∧ p.val < 24 ∧
      e.enqReason i.ptn (0x4000 + numAt i.body 0 2) (numAt i.body 0 2 < 256) (numAt i.body 2 1) (numAt i.body 4 4) (i.body.drop 8).length = 2) :=
  ⟨⟨itemState enqDev 0 0x0003 (enqBody 1 128), 0, itemOf 0 (enqBody 1 128), itemBusy enqDev 0 0x0003 (enqBody 1 128), by decide +kernel⟩,
   ⟨itemState enqDev 0 0x0003 (enqBody 2 128), 0, itemOf 0 (enqBody 2 128), itemBusy enqDev 0 0x0003 (enqBody 2 128), by decide +kernel⟩⟩
theorem test_held_append : State.reset.dev.takesCmds 0 = false ∧
    (let d := enqDev.setHeld 0 1 [⟨List.replicate 32 1, 0, 0⟩]
     d.takesCmds 0 = true ∧ d.qMark 0 1 = 0 ∧ (d.qHeld 0 1).length = 1 ∧ (∀ h ∈ d.qHeld 0 1, h.msg = 0 ∧ h.cmd.length = cmdBytes 0)) := by
  decide +kernel

theorem test_csr_item : (∃ (s : State) (p : Fin 25) (i : Item) (e : Dev), s.dev.dueItem p 0x0004 = some (i, e) ∧ numAt i.body 0 4 < 2 ^ 26 ∧ e.frit = false ∧ bitsAt i.body 32 32 = 0 ∧
      (e.readAccess (itemRole i.ptn) (numAt i.body 0 4) 4).respRefused = false) ∧
    (∃ (s : State) (p : Fin 25) (i : Item) (e : Dev), s.dev.dueItem p 0x0004 = some (i, e) ∧ numAt i.body 0 4 < 2 ^ 26 ∧ e.frit = false ∧ bitsAt i.body 32 32 = 0 ∧
      (e.readAccess (itemRole i.ptn) (numAt i.body 0 4) 4).respRefused = true) ∧
    (∃ (s : State) (p : Fin 25) (i : Item) (e : Dev), s.dev.dueItem p 0x0004 = some (i, e) ∧ numAt i.body 0 4 < 2 ^ 26 ∧ e.frit = true ∧
      fritCsr (numAt i.body 0 4) (bitsAt i.body 32 32 = 1) = false) :=
  ⟨⟨itemState {} 255 0x0004 [0x40, 0, 0, 0, 0, 0, 0, 0, 0, 0, 0, 0, 0, 0, 0, 0], 24, itemOf 255 [0x40, 0, 0, 0, 0, 0, 0, 0, 0, 0, 0, 0, 0, 0, 0, 0],
     itemBusy {} 255 0x0004 [0x40, 0, 0, 0, 0, 0, 0, 0, 0, 0, 0, 0, 0, 0, 0, 0], by decide +kernel⟩,
   ⟨itemState {} 255 0x0004 [0x41, 0, 0, 0, 0, 0, 0, 0, 0, 0, 0, 0, 0, 0, 0, 0], 24, itemOf 255 [0x41, 0, 0, 0, 0, 0, 0, 0, 0, 0, 0, 0, 0, 0, 0, 0],
     itemBusy {} 255 0x0004 [0x41, 0, 0, 0, 0, 0, 0, 0, 0, 0, 0, 0, 0, 0, 0, 0], by decide +kernel⟩,
   ⟨itemState fritDev 255 0x0004 [0, 0, 0, 1], 24, itemOf 255 [0, 0, 0, 1], itemBusy fritDev 255 0x0004 [0, 0, 0, 1], by decide +kernel⟩⟩
theorem test_csr_write_item : ∃ (s : State) (p : Fin 25) (i : Item) (e : Dev), s.dev.dueItem p 0x0004 = some (i, e) ∧ numAt i.body 0 4 < 2 ^ 26 ∧ e.frit = false ∧ bitsAt i.body 32 32 = 1 ∧
      (e.writeAccess (itemRole i.ptn) (numAt i.body 0 4) 4 (BitVec.ofNat 64 (numAt i.body 8 4))).respRefused = false :=
  ⟨itemState {} 255 0x0004 [0x34, 0, 0, 0, 1, 0, 0, 0, 0, 0, 0, 0, 0, 0, 0, 0], 24, itemOf 255 [0x34, 0, 0, 0, 1, 0, 0, 0, 0, 0, 0, 0, 0, 0, 0, 0],
     itemBusy {} 255 0x0004 [0x34, 0, 0, 0, 1, 0, 0, 0, 0, 0, 0, 0, 0, 0, 0, 0], by decide +kernel⟩
theorem test_slice_end : (State.reset.dev.setBit (pPtn 0) 0x3A8 3 true).windowOpen 0 = true ∧
    (let d := sliceDev
     d.windowOpen 0 = false ∧ (d.px 0).sliceAt = none ∧ (d.px 0).sliceLeft = 0 ∧ d.nextGroup 0 (d.sliceGroup 0) = some 3) := by decide +kernel
theorem test_eligibility : (let d := sliceDev
     d.qBound 0 1 = true ∧ (d.job (d.qJob 0 1)).cls ≠ 3 ∧ (d.job (d.qJob 0 1)).state ≠ 1 ∧ (d.job (d.qJob 0 1)).applied = [0]) ∧
    (let d := sliceDev.modJob 1 fun x => { x with state := 1, applied := [] }
     d.qBound 0 1 = true ∧ (d.job (d.qJob 0 1)).cls ≠ 3 ∧ (d.job (d.qJob 0 1)).state = 1 ∧ (d.job (d.qJob 0 1)).applied = []) := by
  decide +kernel

set_option maxRecDepth 100000 in
theorem test_admit_due : (∃ (s : State) (p : Fin 25) (i : Item) (e : Dev), s.dev.dueItem p 0x0040 = some (i, e) ∧ e.lehr = 0 ∧ (e.ptnReqs i.ptn).contains (numAt i.body 0x100 2) = true ∧
      rqState (e.rq (numAt i.body 0x100 2)) = rsFree ∧ firstBad (admitFields (numAt i.body 0 256)) = none ∧
      (match e.intakeRead i.ptn (rqPromptPva (numAt i.body 0 256)) (4 * rqPrompt (numAt i.body 0 256)) with
       | (f, .ok (bs, false)) => decide (numAt bs 0 4 < rqVocab (numAt i.body 0 256) ∧ f.liveReqs i.ptn = [])
       | _ => false) = true ∧ rqPrompt (numAt i.body 0 256) = 1 ∧ rqAdpEn (numAt i.body 0 256) = false) ∧
    (∃ (s : State) (p : Fin 25) (i : Item) (e : Dev), s.dev.dueItem p 0x0040 = some (i, e) ∧ e.lehr = 0 ∧ (e.ptnReqs i.ptn).contains (numAt i.body 0x100 2) = true ∧
      rqState (e.rq (numAt i.body 0x100 2)) = rsFree ∧ firstBad (admitFields (numAt i.body 0 256)) = some 244) ∧
    (∃ (s : State) (p : Fin 25) (i : Item) (e : Dev), s.dev.dueItem p 0x0040 = some (i, e) ∧ e.lehr = 0 ∧ rqState (e.rq (numAt i.body 0x100 2)) ≠ rsFree) :=
  ⟨⟨itemState (reqDev 0) 0 0x0040 (admitBody goodReq), 0, itemOf 0 (admitBody goodReq), itemBusy (reqDev 0) 0 0x0040 (admitBody goodReq), by decide +kernel⟩,
   ⟨itemState (reqDev 0) 0 0x0040 (admitBody 0), 0, itemOf 0 (admitBody 0), itemBusy (reqDev 0) 0 0x0040 (admitBody 0), by decide +kernel⟩,
   ⟨itemState (reqDev 1) 0 0x0040 (admitBody 0), 0, itemOf 0 (admitBody 0), itemBusy (reqDev 1) 0 0x0040 (admitBody 0), by decide +kernel⟩⟩
theorem test_release_due : (∃ (s : State) (p : Fin 25) (i : Item) (e : Dev), s.dev.dueItem p 0x0041 = some (i, e) ∧ rqLive (e.rq (numAt i.body 0 2)) = false) ∧
    (∃ (s : State) (p : Fin 25) (i : Item) (e : Dev), s.dev.dueItem p 0x0041 = some (i, e) ∧ (e.ptnReqs i.ptn).contains (numAt i.body 0 2) = true ∧ rqLive (e.rq (numAt i.body 0 2)) = true ∧
      rqGen (e.rq (numAt i.body 0 2)) = numAt i.body 2 2 ∧ rqInBatch (e.rq (numAt i.body 0 2)) = true) ∧
    (∃ (s : State) (p : Fin 25) (i : Item) (e : Dev), s.dev.dueItem p 0x0041 = some (i, e) ∧ (e.ptnReqs i.ptn).contains (numAt i.body 0 2) = true ∧ rqLive (e.rq (numAt i.body 0 2)) = true ∧
      rqGen (e.rq (numAt i.body 0 2)) = numAt i.body 2 2 ∧ rqInBatch (e.rq (numAt i.body 0 2)) = false) :=
  ⟨⟨itemState (reqDev 0) 0 0x0041 [], 0, itemOf 0 [], itemBusy (reqDev 0) 0 0x0041 [], by decide +kernel⟩,
   ⟨itemState (reqDev (2 + 2 ^ 1190)) 0 0x0041 [], 0, itemOf 0 [], itemBusy (reqDev (2 + 2 ^ 1190)) 0 0x0041 [], by decide +kernel⟩,
   ⟨itemState (reqDev 2) 0 0x0041 [], 0, itemOf 0 [], itemBusy (reqDev 2) 0 0x0041 [], by decide +kernel⟩⟩

set_option maxRecDepth 100000 in
theorem test_batch_due : (∃ (s : State) (p : Fin 25) (i : Item) (e : Dev), s.dev.dueItem p 0x0042 = some (i, e) ∧
      (∀ k ∈ e.batchDomains i.ptn (tget? (e.px i.ptn).progs (numAt i.body 8 4)), e.dom k = dsOn) ∧ tget? (e.px i.ptn).progs (numAt i.body 8 4) = some openProg ∧
      (match e.intakeRead i.ptn 0 256 with
       | (f, .ok (bs, false)) => decide (f.OpenChecked i.ptn i.body [0]) && (f.openProof i.ptn [0] (numAt i.body 0x0C 4) (f.openWorst i.ptn i.body [0] ⟨0, bs⟩)).isNone
       | _ => false) = true) ∧
    (∃ (s : State) (p : Fin 25) (i : Item) (e : Dev), s.dev.dueItem p 0x0042 = some (i, e) ∧
      (∀ k ∈ e.batchDomains i.ptn (tget? (e.px i.ptn).progs (numAt i.body 8 4)), e.dom k = dsOn) ∧ tget? (e.px i.ptn).progs (numAt i.body 8 4) = some openProg ∧
      (match e.intakeRead i.ptn 0 256 with
       | (f, .ok (bs, false)) => decide (f.OpenChecked i.ptn i.body [0]) && (f.openProof i.ptn [0] (numAt i.body 0x0C 4) (f.openWorst i.ptn i.body [0] ⟨0, bs⟩)).isSome
       | _ => false) = true) :=
  ⟨⟨itemState (openDev [] 0) 0 0x0042 openBody, 0, itemOf 0 openBody, itemBusy (openDev [] 0) 0 0x0042 openBody, by decide +kernel⟩,
   ⟨itemState (openDev [] 20) 0 0x0042 openBody, 0, itemOf 0 openBody, itemBusy (openDev [] 20) 0 0x0042 openBody, by decide +kernel⟩⟩
set_option maxRecDepth 100000 in
theorem test_batch_waits : (∃ (s : State) (p : Fin 24) (w : OpenWait) (d : Dev), (s.dev.openWaits.find? fun x => x.ptn = p.val) = some w ∧ d = { s.dev with openWaits := s.dev.openWaits.filter fun x => x ≠ w } ∧
      (∀ k ∈ d.batchDomains p (tget? (d.px p).progs (numAt w.body 8 4)), d.dom k = dsOn) ∧ tget? (d.px p).progs (numAt w.body 8 4) = some openProg ∧
      (match d.intakeRead p 0 256 with
       | (f, .ok (bs, false)) => decide (f.OpenChecked p w.body [0]) && (f.openProof p [0] (numAt w.body 0x0C 4) (f.openWorst p w.body [0] ⟨0, bs⟩)).isNone
       | _ => false) = true) ∧
    (∃ (s : State) (p : Fin 25) (i : Item) (e : Dev), s.dev.dueItem p 0x0042 = some (i, e) ∧ e.lehr = 0 ∧ ∃ k ∈ e.batchDomains i.ptn (tget? (e.px i.ptn).progs (numAt i.body 8 4)), e.dom k ≠ dsOn) :=
  ⟨⟨withDev { (openDev [] 0) with openWaits := [⟨1, 0, 0, openBody⟩] }, 0, ⟨1, 0, 0, openBody⟩, { (openDev [] 0) with openWaits := [] }, by decide +kernel⟩,
   ⟨itemState ((openDev [] 0).setReg (pPtn 0) 0x44 2) 0 0x0042 openBody, 0, itemOf 0 openBody, itemBusy ((openDev [] 0).setReg (pPtn 0) 0x44 2) 0 0x0042 openBody, by decide +kernel⟩⟩
theorem test_close_due : (∃ (s : State) (p : Fin 25) (i : Item) (e : Dev), s.dev.dueItem p 0x0043 = some (i, e) ∧ tget? e.batches (numAt i.body 0 2) = none) ∧
    (∃ (s : State) (p : Fin 25) (i : Item) (e : Dev), s.dev.dueItem p 0x0043 = some (i, e) ∧ tget? e.batches (numAt i.body 0 2) = some aBatch ∧ aBatch.ptn = i.ptn ∧ (e.px i.ptn).step = none ∧
      aBatch.mems = []) ∧
    (∃ (s : State) (p : Fin 25) (i : Item) (e : Dev), s.dev.dueItem p 0x0043 = some (i, e) ∧ tget? e.batches (numAt i.body 0 2) = some aBatch ∧ aBatch.ptn = i.ptn ∧
      (e.px i.ptn).step = some aStep ∧ aStep.batch = numAt i.body 0 2) :=
  ⟨⟨itemState {} 0 0x0043 [], 0, itemOf 0 [], itemBusy {} 0 0x0043 [], by decide +kernel⟩,
   ⟨itemState { batches := [(0, aBatch)] } 0 0x0043 [], 0, itemOf 0 [], itemBusy { batches := [(0, aBatch)] } 0 0x0043 [], by decide +kernel⟩,
   ⟨itemState { batches := [(0, aBatch)], ptnx := [(0, { step := some aStep })] } 0 0x0043 [], 0, itemOf 0 [],
     itemBusy { batches := [(0, aBatch)], ptnx := [(0, { step := some aStep })] } 0 0x0043 [], by decide +kernel⟩⟩

theorem test_step_due : (let d := stepDev [] none
     d.lehr = 0 ∧ d.ptnState 0 = stActive ∧ d.stacksOn 0 = true ∧ (d.job (d.px 0).job).faulted = false ∧ (d.px 0).step = none ∧ d.ptnBatches 0 = []) ∧
    (let d := stepDev [(0, aBatch)] none
     let e := (d.openWindow 0).modPx 0 (fun x => { x with nextStep := x.nextStep + 1, step := some aStep })
     d.lehr = 0 ∧ d.ptnState 0 = stActive ∧ d.stacksOn 0 = true ∧ (d.job (d.px 0).job).faulted = false ∧ (d.px 0).step = none ∧ d.ptnBatches 0 = [(0, aBatch)] ∧
     aBatch.opened + aBatch.k * aBatch.period ≤ d.ao ∧ e.batchProg aBatch = some openProg ∧ (match e.image 0 openProg with | (_, .ok _) => true | _ => false) = true) := by decide +kernel
theorem test_stage_two : (let d := stepDev [(0, aBatch)] (some { aStep with stage := 1 })
     (d.px 0).step = some { aStep with stage := 1 } ∧ tget? d.batches 0 = some aBatch ∧ (d.batchProg aBatch).isSome = true ∧ d.stacksOn 0 = true ∧ d.engBusy [] = false ∧
     (d.job (d.px 0).job).faulted = false) ∧
    (let d := stepDev [(0, aBatch)] (some { aStep with stage := 2 })
     (d.px 0).step = some { aStep with stage := 2 } ∧ d.servingQuiet 0 = true ∧ aStep.mems.flatMap (d.sampleRanges aBatch) = [] ∧
     (match Dev.sampleAll aBatch aStep.mems d with | (_, some ms) => ms.isEmpty | _ => false) = true) ∧
    (let d := stepDev [(0, aBatch)] (some { aStep with stage := 3 })
     (d.px 0).step = some { aStep with stage := 3 } ∧ d.servingQuiet 0 = true ∧ d.stepSent 0 = true) := by decide +kernel
theorem test_page_returns : (let d : Dev := { State.reset.dev with ptnx := [(0, { rets := [⟨7, none, 0, 3⟩], pool := [(7, 0)] })] }
     (d.px 0).rets = [⟨7, none, 0, 3⟩] ∧ d.ptnReqs 0 = [] ∧ (d.px 0).adps = [] ∧ d.invals.any (fun v => v.id = 3) = false ∧ d.holders 0 7 = 0 ∧ d.scrubbed (pKvp 0) = false) := by decide +kernel

theorem test_adapter_due : (∃ (s : State) (p : Fin 25) (i : Item) (e : Dev), s.dev.dueItem p 0x0048 = some (i, e) ∧
      (e.px i.ptn).adps.any (fun v => v.slot = numAt i.body 0 1 && v.installing) = true) ∧
    (∃ (s : State) (p : Fin 25) (i : Item) (e : Dev), s.dev.dueItem p 0x0048 = some (i, e) ∧ (e.px i.ptn).adpWaits.any (fun w => w.slot = numAt i.body 0 1) = false ∧
      (e.px i.ptn).adps = [] ∧ numAt i.body 0x10 4 = 0) ∧
    (∃ (s : State) (p : Fin 25) (i : Item) (e : Dev), s.dev.dueItem p 0x0048 = some (i, e) ∧ (e.px i.ptn).adpWaits.any (fun w => w.slot = numAt i.body 0 1) = false ∧
      (e.px i.ptn).adps = [] ∧ numAt i.body 8 8 % 4096 = 0 ∧ numAt i.body 0x10 4 ≠ 0 ∧ numAt i.body 0x10 4 ≤ e.adpUnits i.ptn * 65536 ∧ numAt i.body 8 8 < 2 ^ 48 ∧
      (e.stackRuns i.ptn (numAt i.body 8 8) (numAt i.body 0x10 4)).isSome = true ∧ (e.adpPlace i.ptn (numAt i.body 0 1) (numAt i.body 8 8) (numAt i.body 0x10 4)).isSome = true) ∧
    (∃ (s : State) (p : Fin 25) (i : Item) (e : Dev), s.dev.dueItem p 0x0048 = some (i, e) ∧ (e.px i.ptn).adpWaits.any (fun w => w.slot = numAt i.body 0 1) = false ∧
      numAt i.body 8 8 % 4096 = 0 ∧ numAt i.body 0x10 4 ≠ 0 ∧ numAt i.body 0x10 4 ≤ e.adpUnits i.ptn * 65536 ∧ numAt i.body 8 8 < 2 ^ 48 ∧
      (e.stackRuns i.ptn (numAt i.body 8 8) (numAt i.body 0x10 4)).isSome = true ∧ (e.px i.ptn).adps.any (fun v => v.slot = numAt i.body 0 1 && v.installing) = false ∧
      (e.adpPlace i.ptn (numAt i.body 0 1) (numAt i.body 8 8) (numAt i.body 0x10 4)).isSome = false) :=
  ⟨⟨itemState (adpDev [⟨5, 0, 0, 1, 0, false, true, []⟩]) 0 0x0048 (adpBody 4096), 0, itemOf 0 (adpBody 4096), itemBusy (adpDev [⟨5, 0, 0, 1, 0, false, true, []⟩]) 0 0x0048 (adpBody 4096),
     by decide +kernel⟩,
   ⟨itemState (adpDev []) 0 0x0048 (adpBody 0), 0, itemOf 0 (adpBody 0), itemBusy (adpDev []) 0 0x0048 (adpBody 0), by decide +kernel⟩,
   ⟨itemState (adpDev []) 0 0x0048 (adpBody 4096), 0, itemOf 0 (adpBody 4096), itemBusy (adpDev []) 0 0x0048 (adpBody 4096), by decide +kernel⟩,
   ⟨itemState (adpDev [⟨6, 1, 0, 1, 0, true, false, []⟩]) 0 0x0048 (adpBody 4096), 0, itemOf 0 (adpBody 4096), itemBusy (adpDev [⟨6, 1, 0, 1, 0, true, false, []⟩]) 0 0x0048 (adpBody 4096),
     by decide +kernel⟩⟩
theorem test_install_point : (let d := adpDev [⟨5, 0, 0, 1, 0, false, true, [9]⟩]
     (d.px 0).adps = [⟨5, 0, 0, 1, 0, false, true, [9]⟩] ∧ d.engBusy [9] = false ∧ ({ d with engCmds := [⟨9, 0, 0, 0⟩] } : Dev).engBusy [9] = true) ∧
    (∃ (s : State) (p : Fin 25) (i : Item) (e : Dev), s.dev.dueItem p 0x0049 = some (i, e)) :=
  ⟨by decide +kernel, ⟨itemState {} 0 0x0049 [], 0, itemOf 0 [], itemBusy {} 0 0x0049 [], by decide +kernel⟩⟩
theorem test_punty_due : (∃ (s : State) (p : Fin 25) (i : Item) (e : Dev), s.dev.dueItem p 0x0050 = some (i, e) ∧ rqLive (e.rq (numAt i.body 0 2)) = false) ∧
    (∃ (s : State) (p : Fin 25) (i : Item) (e : Dev), s.dev.dueItem p 0x0050 = some (i, e) ∧ (e.ptnReqs i.ptn).contains (numAt i.body 0 2) = true ∧ rqLive (e.rq (numAt i.body 0 2)) = true ∧
      numAt i.body 4 3 ≤ rqMaxlen (e.rq (numAt i.body 0 2)) ∧ e.cow i.ptn = true) ∧
    (∃ (s : State) (p : Fin 25) (i : Item) (e : Dev), s.dev.dueItem p 0x0051 = some (i, e) ∧ e.handleOk i.ptn (numAt i.body 0 8) = false) ∧
    (∃ (s : State) (p : Fin 25) (i : Item) (e : Dev), s.dev.dueItem p 0x0051 = some (i, e) ∧ e.handleOk i.ptn (numAt i.body 0 8) = true) ∧
    (∃ (s : State) (p : Fin 25) (i : Item) (e : Dev), s.dev.dueItem p 0x0052 = some (i, e) ∧ e.handleOk i.ptn (numAt i.body 0 8) = false) ∧
    (∃ (s : State) (p : Fin 25) (i : Item) (e : Dev), s.dev.dueItem p 0x0052 = some (i, e) ∧ e.handleOk i.ptn (numAt i.body 0 8) = true) :=
  ⟨⟨itemState (reqDev 0) 0 0x0050 [], 0, itemOf 0 [], itemBusy (reqDev 0) 0 0x0050 [], by decide +kernel⟩,
   ⟨itemState ((reqDev (2 + 9 * 2 ^ 56)).setReg (pKvp 0) 0x40 0x20000) 0 0x0050 [0, 0, 0, 0, 5, 0, 0, 0], 0, itemOf 0 [0, 0, 0, 0, 5, 0, 0, 0],
     itemBusy ((reqDev (2 + 9 * 2 ^ 56)).setReg (pKvp 0) 0x40 0x20000) 0 0x0050 [0, 0, 0, 0, 5, 0, 0, 0], by decide +kernel⟩,
   ⟨itemState {} 0 0x0051 [], 0, itemOf 0 [], itemBusy {} 0 0x0051 [], by decide +kernel⟩,
   ⟨itemState handleDev 0 0x0051 [], 0, itemOf 0 [], itemBusy handleDev 0 0x0051 [], by decide +kernel⟩,
   ⟨itemState {} 0 0x0052 [], 0, itemOf 0 [], itemBusy {} 0 0x0052 [], by decide +kernel⟩,
   ⟨itemState handleDev 0 0x0052 [], 0, itemOf 0 [], itemBusy handleDev 0 0x0052 [], by decide +kernel⟩⟩

theorem test_recal : (∃ (s : State) (r : Role) (n : Fin 16) (l : Fin 4), s.dev.Takes r (pLink n) ∧ s.dev.bit (pLink n) 0x50 4 = false ∧ bitOf (s.dev.lanesIn n) l = true ∧
      s.dev.st (pLink n) = stActive) :=
  ⟨withDev (linkDev 4 15), .operator, 0, 3, by decide +kernel⟩
theorem test_training : (linkDev 0xA 15).st (pLink 0) = lsTraining ∧ (linkDev 0xA 15).bit (pLink 0) 0x40 0 = false ∧ ((linkDev 0xA 15).port 0).recal = none ∧ (linkDev 0xA 15).frit = false ∧
    maskOf (((maskBits 4 ((linkDev 0xA 15).lanesIn 0)).filter fun l => (false || bitOf 7 l) && decide (((linkDev 0xA 15).port 0).recal ≠ some l)).filter fun l => !bitOf 1 l) = 6 ∧ laneCount 6 = 2 ∧
    (let d := (linkDev 0xA 15).setReg (pLink 0) 0x40 1
     d.st (pLink 0) = lsTraining ∧ d.bit (pLink 0) 0x40 0 = true ∧ (d.port 0).recal = none ∧ laneCount (maskOf ((maskBits 4 (d.lanesIn 0)).filter fun l => !bitOf 1 l)) = 3) ∧
    (let d : Dev := { (linkDev 0xA 15) with ports := [(0, { trainAt := some 0 })], ao := 2500000 }
     (d.port 0).trainAt = some 0 ∧ (d.port 0).trainOver = false ∧ d.st (pLink 0) = lsTraining ∧ (∀ q < 64, d.pathOpen (pathKey 0 q) = false)) := by decide +kernel
theorem test_ber : bitOf ((linkDev 4 15).lanesIn 0) 3 = true ∧ ((((linkDev 4 15).port 0).bad[3]?).getD 0 < 2) ∧
    (let d : Dev := { (linkDev 4 15) with ports := [(0, { bad := [0, 0, 0, 2] })] }
     bitOf (d.lanesIn 0) 3 = true ∧ ((d.port 0).bad[3]?).getD 0 = 2 ∧ d.st (pLink 0) = stActive ∧ d.lanesIn 0 ≠ 8) := by decide +kernel
theorem test_signal : (linkDev 4 15).pageOn (pLink 0) = true ∧ (linkDev 4 15).st (pLink 0) = stActive ∧ (∀ q < 64, (linkDev 4 15).pathOpen (pathKey 0 q) = false) ∧
    (linkDev 0xB 15).pageOn (pLink 0) = true ∧ (linkDev 0xB 15).st (pLink 0) = lsDown ∧ (linkDev 0xB 15).lanesIn 0 ≠ 0 ∧
    (({ (linkDev 4 15) with ports := [(0, { recal := some 3 })] } : Dev).port 0).recal = some 3 := by decide +kernel

theorem test_transmit : ((linkDev 4 15).port 0).waiting = [] ∧
    (let d := pathDev [⟨5, 1, aFrame⟩] {}
     (d.port 0).waiting = [⟨5, 1, aFrame⟩] ∧ d.portSends 0 = true ∧ d.pathOpen (pathKey 0 1) = true ∧ d.replayBytes 0 + 64 + aFrame.data.length ≤ 2097152) := by decide +kernel
theorem test_ack_replay : (let d := pathDev [] { unacked := 8 }
     d.portSends 0 = true ∧ d.pathOpen (pathKey 0 1) = true ∧ (d.path (pathKey 0 1)).unacked = 8) ∧
    ((pathDev [] {}).path (pathKey 0 1)).unacked = 0 ∧ seqBefore ((pathDev [] {}).path (pathKey 0 1)).doneSent ((pathDev [] {}).doneOf (pathKey 0 1)) = false ∧
    (let d : Dev := { (pathDev [] { replay := [aHeldFrame] }) with ao := 100000 }
     d.portSends 0 = true ∧ d.pathOpen (pathKey 0 1) = true ∧ (d.path (pathKey 0 1)).replay = [aHeldFrame] ∧ aHeldFrame.bad = false ∧ (d.path (pathKey 0 1)).sentAt + d.getF (pLink 0) 0x54 15 0 ≤ d.ao ∧
     (d.path (pathKey 0 1)).resends < d.getF (pLink 0) 0x54 19 16) ∧
    (pathDev [] { sentAt := 9 }).ao < ((pathDev [] { sentAt := 9 }).path (pathKey 0 1)).sentAt + (pathDev [] { sentAt := 9 }).getF (pLink 0) 0x54 15 0 := by decide +kernel
theorem test_route : State.reset.dev.routeSet 1 = 0 ∧
    (let d : Dev := { (pathDev [] {}) with heldOps := [⟨5, 1, 0, aFrame, none⟩] }
     d.routeSet 1 ≠ 0 ∧ d.routeBusy 1 = false ∧ (∀ o ∈ d.heldOps, o.peer = 1 ∧ o.req = none)) := by decide +kernel

theorem test_control_frames : (pathDev [] {}).Hears 0 (wireFrame 1 none (hdrFrom 1) []) ∧ (pathDev [] {}).pathOpen (pathKey 0 (wireFrame 1 none (hdrFrom 2) []).src) = false ∧
    (wireFrame 4 none (hdrFrom 1) []).dst = (pathDev [] {}).devnum ∧ (wireFrame 4 none (hdrFrom (1 + 2 ^ 8)) []).dst ≠ (pathDev [] {}).devnum ∧
    (wireFrame 5 none (hdrFrom 1) []).dst = (pathDev [] {}).devnum ∧
    ((pathDev [] {}).path (pathKey 0 (wireFrame 3 none (hdrFrom 1) []).src)).replay = [] ∧ ((pathDev [] {}).port 0).waiting = [] ∧
    (pathDev [] {}).reqs = [] ∧ (pathDev [] {}).outMsgs = [] ∧ (pathDev [] {}).sigWaits = [] := by decide +kernel
theorem test_nak : (let d := pathDev [] { replay := [aHeldFrame] }
     let fr := wireFrame 2 none (hdrFrom 1) []
     let e := (d.addCount (pLink 0) 0x60 1).heard (pathKey 0 1) fr
     d.Hears 0 fr ∧ (e.path (pathKey 0 1)).replay = [aHeldFrame] ∧ e.portSends 0 = true ∧ (e.path (pathKey 0 1)).resends < e.getF (pLink 0) 0x54 19 16) ∧
    (let e := ((pathDev [] {}).addCount (pLink 0) 0x60 1).heard (pathKey 0 1) (wireFrame 2 none (hdrFrom 1) [])
     (e.path (pathKey 0 1)).replay = []) := by decide +kernel

theorem test_write_accepted : (let d := pathDev [] {}
     let fr := wireFrame 0 (some (opWrite, true)) (hdrFrom (1 + 0xFF * 2 ^ 196)) [7]
     let e : Dev := { d.accepts 0 fr with inOps := (d.accepts 0 fr).inOps ++ [⟨pathKey 0 1, fr.seq, fr⟩] }
     d.Accepts 0 fr e ∧ (match loc fr.addr with | .stack .. => true | _ => false) = true ∧ e.domainOk fr (e.memOwner fr.addr) = true ∧ e.memReady fr.addr = true) ∧
    (let d := pathDev [] {}
     let fr := wireFrame 0 (some (opWrite, true)) (hdrFrom 1) [7]
     let e : Dev := { d.accepts 0 fr with inOps := (d.accepts 0 fr).inOps ++ [⟨pathKey 0 1, fr.seq, fr⟩] }
     d.Accepts 0 fr e ∧ e.domainOk fr (e.memOwner fr.addr) = false) := by decide +kernel
theorem test_read_accepted : (let d := pathDev [] {}
     let fr := wireFrame 0 (some (opRead, false)) (hdrFrom (1 + 0xFF * 2 ^ 196 + 8 * 2 ^ 164)) []
     let e : Dev := { d.accepts 0 fr with inOps := (d.accepts 0 fr).inOps ++ [⟨pathKey 0 1, fr.seq, fr⟩] }
     d.Accepts 0 fr e ∧ e.domainOk fr (e.memOwner fr.addr) = true ∧ e.memReady fr.addr = true ∧ e.memReady (fr.addr + (fr.len - 1)) = true) ∧
    (let d := pathDev [] {}
     let fr := wireFrame 0 (some (opAtomic, true)) (hdrFrom (1 + 0xFF * 2 ^ 196)) (bytesAt [] 0 32)
     let e : Dev := { d.accepts 0 fr with inOps := (d.accepts 0 fr).inOps ++ [⟨pathKey 0 1, fr.seq, fr⟩] }
     d.Accepts 0 fr e ∧ e.domainOk fr (e.memOwner fr.addr) = true ∧ (match (e.atomicAt agDevice (fr.addr / 32 * 32) fr.aop fr.lanes fr.data).2 with | .done .. => true | _ => false) = true) := by
  decide +kernel
theorem test_flag_frame : (let d := pathDev [] {}
     let fr := wireFrame 0 (some (opFlagAdd, true)) (hdrFrom (1 + 0xFF * 2 ^ 196 + flagReg false 799 * 2 ^ 120)) (leBytes 4 0x10000)
     let e : Dev := { d.accepts 0 fr with inOps := (d.accepts 0 fr).inOps ++ [⟨pathKey 0 1, fr.seq, fr⟩] }
     d.Accepts 0 fr e ∧ fr.addr = flagReg false 799 ∧ e.domainOk fr (e.owner (pClu 799)) = true) ∧
    (let d := pathDev [] {}
     let fr := wireFrame 0 (some (opMsg, true)) (hdrFrom 1) [7]
     d.Accepts 0 fr { d.accepts 0 fr with inOps := (d.accepts 0 fr).inOps ++ [⟨pathKey 0 1, fr.seq, fr⟩] } ∧ fr.off = 0 ∧ fr.last = false) := by decide +kernel
theorem test_responses : (let d : Dev := { pathDev [] {} with reqs := [⟨7, noJob, pathKey 0 1, 8, 0, .ring 3⟩] }
     let fr := wireFrame 0 (some (opReadResp, true)) (hdrFrom (1 + 7 * 2 ^ 216)) (List.replicate 8 1)
     let e : Dev := { d.accepts 0 fr with inOps := (d.accepts 0 fr).inOps ++ [⟨pathKey 0 1, fr.seq, fr⟩] }
     d.Accepts 0 fr e ∧ e.reqs = [⟨7, noJob, pathKey 0 1, 8, 0, .ring 3⟩] ∧ fr.tag = 7 ∧ (8 : Nat) ≤ 0 + fr.data.length) ∧
    (let d : Dev := { pathDev [] {} with reqs := [⟨7, noJob, pathKey 0 1, 32, 0, .ring 3⟩] }
     let fr := wireFrame 0 (some (opAtomicResp, true)) (hdrFrom (1 + 7 * 2 ^ 216)) (bytesAt [1] 0 32)
     let e : Dev := { d.accepts 0 fr with inOps := (d.accepts 0 fr).inOps ++ [⟨pathKey 0 1, fr.seq, fr⟩] }
     d.Accepts 0 fr e ∧ e.reqs = [⟨7, noJob, pathKey 0 1, 32, 0, .ring 3⟩] ∧ fr.tag = 7) ∧
    (let d : Dev := { pathDev [] {} with reqs := [⟨7, noJob, pathKey 0 1, 8, 0, .ring 3⟩] }
     let fr := wireFrame 0 (some (opRefuse, false)) (hdrFrom (1 + 7 * 2 ^ 216)) []
     let e : Dev := { d.accepts 0 fr with inOps := (d.accepts 0 fr).inOps ++ [⟨pathKey 0 1, fr.seq, fr⟩] }
     d.Accepts 0 fr e ∧ (d.accepts 0 fr).reqs = [⟨7, noJob, pathKey 0 1, 8, 0, .ring 3⟩] ∧ fr.tag = 7) ∧
    (let d := pathDev [] {}
     let fr := wireFrame 0 (some (opReadResp, true)) (hdrFrom 1) []
     let e : Dev := { d.accepts 0 fr with inOps := (d.accepts 0 fr).inOps ++ [⟨pathKey 0 1, fr.seq, fr⟩] }
     d.Accepts 0 fr e ∧ e.reqs = []) := by decide +kernel
theorem test_relays_accepted : (let d := relayDev
     let fr := wireFrame 0 (some (opPvaWrite, true)) (hdrFrom (1 + 0xFF * 2 ^ 196)) [7]
     let e : Dev := { d.accepts 0 fr with inOps := (d.accepts 0 fr).inOps ++ [⟨pathKey 0 1, fr.seq, fr⟩] }
     d.Accepts 0 fr e ∧ e.ptnExists fr.ptn = true ∧ e.domainOk fr fr.ptn = true ∧
     (match e.xlRange none fr.ptn fr.pva fr.data.length true with
      | (g, .ok l) => e.segsReady l && l.all (fun x => !x.remote) && (g.putPayloadSegs fr (agPtn fr.ptn none) fr.pva l).pulls.isEmpty
      | _ => false) = true) ∧
    (let d := relayDev
     let fr := wireFrame 0 (some (opPvaRead, false)) (hdrFrom (1 + 0xFF * 2 ^ 196 + 8 * 2 ^ 164)) []
     let e : Dev := { d.accepts 0 fr with inOps := (d.accepts 0 fr).inOps ++ [⟨pathKey 0 1, fr.seq, fr⟩] }
     d.Accepts 0 fr e ∧ (match e.xlRange none fr.ptn fr.pva fr.len false with
      | (_, .ok l) => e.segsReady l && l.all (fun x => !x.remote)
      | _ => false) = true) := by decide +kernel
theorem test_path_closed : (pathDev [] {}).portUp 0 = true ∧ (pathDev [] {}).devPower = 0 ∧ (wireFrame 0 (some (opWrite, true)) (hdrFrom 2) []).dst = (pathDev [] {}).devnum ∧
    (pathDev [] {}).pathOpen (pathKey 0 (wireFrame 0 (some (opWrite, true)) (hdrFrom 2) []).src) = false := by decide +kernel

theorem test_host_send : (hostDev []).hbrOn 0 = true ∧ (hostDev []).devPower ≠ 1 ∧ ((hostDev []).qp (qpKey 0 1)).st = qsRts ∧ (0 : BitVec 24).toNat = ((hostDev []).qp (qpKey 0 1)).rqPsn ∧
    (hostDev []).intakeBytes + 3 ≤ 8388608 ∧ ((hostDev []).qp (qpKey 0 1)).rkey = 0 ∧ ((hostDev []).qp (qpKey 0 1)).role = 2 ∧ (1 : BitVec 32).toNat ≠ ((hostDev []).qp (qpKey 0 1)).rkey ∧
    ((hostDev []).qp (qpKey 0 1)).dev ≠ (hostDev []).devnum ∧ (hostDev []).inOps = [] ∧ (hostDev []).scrubbed (pHbr 0) = false ∧ (pathDev [] {}).hbrOn 0 = false ∧
    (let d := (hostDev []).modQp (qpKey 0 1) fun q => { q with win := [(0, 0x50005#32)] }
     (d.qp (qpKey 0 1)).role = 1 ∧ (2 ^ 44 : Nat) / 2 ^ 44 ≠ d.devnum) := by decide +kernel
theorem test_intake_full : ∃ d : Dev, d.hbrOn 0 = true ∧ d.devPower ≠ 1 ∧ (d.qp (qpKey 0 1)).st = qsRts ∧ (d.qp (qpKey 0 1)).rqPsn = 0 ∧ 8388608 < d.intakeBytes + 1 := by
  have h : ∀ n, ∃ l : List Byte, l.length = n := fun n => ⟨List.replicate n 0, List.length_replicate⟩
  obtain ⟨l, hl⟩ := h 8388608
  refine ⟨{ hostDev [] with qps := (hostDev []).qps ++ [(2, { sends := [⟨0, l, [], false, false⟩] })] }, ?_, ?_, ?_, ?_, ?_⟩
  · exact (by decide +kernel : (hostDev []).hbrOn 0 = true)
  · exact (by decide +kernel : (hostDev []).devPower ≠ 1)
  · exact (by decide +kernel : ((hostDev []).qp (qpKey 0 1)).st = qsRts)
  · exact (by decide +kernel : ((hostDev []).qp (qpKey 0 1)).rqPsn = 0)
  · simp [Dev.intakeBytes, hostDev, hl]

theorem test_host_acks : (let d := hostDev [⟨0, 0, 0, 0, .send 2 [1]⟩]
     d.hbrOn 0 = true ∧ (d.qp (qpKey 0 1)).st = qsRts ∧ (d.qp (qpKey 0 1)).reqs ≠ [] ∧ (0 : BitVec 8).toNat < 0x20 ∧ (0x40 : Nat) ≤ (0x63 : BitVec 8).toNat ∧ (0x63 : BitVec 8).toNat ≠ synSeq ∧
     d.ao < 0 + 1024 * 2 ^ wfld ((d.qp (qpKey 0 1)).word 0x14) 4 0 / 5 ∧ (d.qp (qpKey 0 1)).cutAt = none ∧ 1000000 ≤ (d.qp (qpKey 0 1)).rate) ∧
    (let d : Dev := { (hostDev [⟨0, 0, 0, 0, .send 2 [1]⟩]) with ao := 2 ^ 24 }
     (0 : Nat) + 1024 * 2 ^ wfld ((d.qp (qpKey 0 1)).word 0x14) 4 0 / 5 ≤ d.ao ∧ (0 : Nat) < wfld ((d.qp (qpKey 0 1)).word 0x14) 7 5 ∧ wfld ((d.qp (qpKey 0 1)).word 0x14) 7 5 ≤ 7) ∧
    (let d := ((hostDev []).setReg (pHbr 0) 0x40 0x21).modQp (qpKey 0 1) fun q => { q with writes := [⟨0, [], false⟩], rate := 500000, cutAt := some 0 }
     d.hbrOn 0 = true ∧ (d.qp (qpKey 0 1)).writes = [⟨0, [], false⟩] ∧ d.bit (pHbr 0) 0x40 5 = true ∧ (d.qp (qpKey 0 1)).cutAt = some 0 ∧ d.ao < 0 + 2500 ∧
     (d.qp (qpKey 0 1)).rate < 1000000 ∧ (d.qp (qpKey 0 1)).riseAt + 2750 ≤ ({ d with ao := 2750 } : Dev).ao) ∧
    (let d : Dev := { (hostDev []) with heldOps := [⟨3, 1, 0, aFrame, none⟩] }
     [3].all d.isDone = false) := by decide +kernel
theorem test_qp_state : (∃ (s : State) (r : Role) (n : Fin 4) (v : BitVec 32), s.dev.Takes r (pHbr n) ∧ s.dev.Ranks r (pHbr n) 0x80 ∧ v.toNat < 0x2000000 ∧ wfld v 3 2 ≠ 3 ∧ 1 ≤ wfld v 18 16 ∧
      wfld v 18 16 ≤ 5 ∧ wfld v 1 0 = qsReset ∧ wput v 1 0 (s.dev.qp (qpKey n (s.dev.getF (pHbr n) 0x58 5 0))).st = (s.dev.qp (qpKey n (s.dev.getF (pHbr n) 0x58 5 0))).word 0 ∧
      (s.dev.qp (qpKey n (s.dev.getF (pHbr n) 0x58 5 0))).st = qsRts) ∧
    (∃ (s : State) (r : Role) (n : Fin 4) (v : BitVec 32), s.dev.Takes r (pHbr n) ∧ s.dev.Ranks r (pHbr n) 0x80 ∧ v.toNat < 0x2000000 ∧ wfld v 3 2 ≠ 3 ∧ 1 ≤ wfld v 18 16 ∧
      wfld v 18 16 ≤ 5 ∧ wfld v 1 0 = qsRts ∧ (s.dev.qp (qpKey n (s.dev.getF (pHbr n) 0x58 5 0))).st = qsReset ∧ (s.dev.qp (qpKey n (s.dev.getF (pHbr n) 0x58 5 0))).reqs = []) :=
  ⟨⟨withDev ((hostDev []).setReg (pHbr 0) 0x58 1), .operator, 0, 0x50028#32, by decide +kernel⟩, ⟨withDev (hostDev []), .operator, 0, 0x50009#32, by decide +kernel⟩⟩
theorem test_qp_refused : (let d := (hostDev []).setReg (pHbr 0) 0x58 1
     (d.qp 1).st = qsRts ∧ wput 0x50018#32 1 0 (d.qp 1).st ≠ (d.qp 1).word 0 ∧ wfld 0x5000C#32 3 2 = 3 ∧ wfld 0x5000C#32 1 0 = qsReset ∧ ((hostDev []).qp 0).st = qsReset) := by decide +kernel

theorem test_forward : (let d := hostDev []
     [].all d.isDone = true ∧ d.awake = true ∧ qpMaySend (d.qp (qpKey 0 1)) [] = false ∧
     qpMaySend (d.qp (qpKey 0 1)) (List.replicate 16 0 ++ [2, 0]) = true ∧ numAt (List.replicate 16 (0 : Byte) ++ [2, 0]) 0x10 1 ≠ d.devnum) ∧
    (let d := (hostDev []).modQp (qpKey 0 1) fun q => { q with win := [(0, 0x50005#32)] }
     qpMaySend (d.qp (qpKey 0 1)) (List.replicate 16 0 ++ [1, 0]) = true ∧ d.routeSet 1 ≠ 0 ∧ qpMaySend (d.qp (qpKey 0 1)) [] = true ∧ numAt ([] : List Byte) 0x10 1 = d.devnum) := by decide +kernel
theorem test_pull_due : (∃ (s : State) (p : Fin 25) (i : Item) (e : Dev), s.dev.dueItem p 0x0005 = some (i, e) ∧ numAt i.body 0xC 4 = 0) ∧
    (∃ (s : State) (p : Fin 25) (i : Item) (e : Dev), s.dev.dueItem p 0x0005 = some (i, e) ∧ numAt i.body 0xC 4 = 5 ∧ i.qp = some (e.devnum, 0, 1) ∧ (e.qp (qpKey 0 1)).st = qsRts) :=
  ⟨⟨itemState {} 0 0x0005 [], 0, itemOf 0 [], itemBusy {} 0 0x0005 [], by decide +kernel⟩,
   ⟨withDev (pullDev false), 0, ⟨1, 0, 0, pullBody, some (0, 0, 1)⟩, (pullDev true).svcRuns 0 false, by decide +kernel⟩⟩
theorem test_pull_data : (let d : Dev := { hostDev [⟨0, 0, 0, 0, .pull 0 0 5 1 0 0 64⟩] with pulls := [⟨1, 0, 0, 64, 5, 0, []⟩] }
     d.hbrOn 0 = true ∧ (d.qp (qpKey 0 1)).st = qsRts ∧ (d.qp (qpKey 0 1)).reqs = [⟨0, 0, 0, 0, .pull 0 0 5 1 0 0 64⟩] ∧ d.pulls = [⟨1, 0, 0, 64, 5, 0, []⟩]) := by decide +kernel
theorem test_deliver : (let d : Dev := { hostDev [] with dests := [(62, { q := [⟨0, 255, 2, []⟩] })] }
     (tgetD d.dests 62 {}).q = [⟨0, 255, 2, []⟩] ∧ d.devnum = 0 ∧ (d.destRec 62).valid = false) ∧
    (let d := ((hostDev []).setReg pDev 0xA0 0x11).modQp (qpKey 0 1) fun q => { q with win := [(0, 0x50005#32)] }
     (d.destRec 62).valid = true ∧ (d.destRec 62).ring = false ∧ (d.qp (qpKey (d.destRec 62).port (d.destRec 62).slot)).role = 1 ∧
     (d.qp (qpKey (d.destRec 62).port (d.destRec 62).slot)).st = qsRts ∧ d.hbrOn (d.destRec 62).port = true) ∧
    (let d : Dev := { ((hostDev []).setReg pDev 0xA0 0x11).modQp (qpKey 0 1) fun q => { q with win := [(0, 0x50004#32)] } with dests := [(62, { q := [⟨0, 255, 2, []⟩], waitAt := some 0 })] }
     (d.destRec 62).valid = true ∧ (d.qp (qpKey (d.destRec 62).port (d.destRec 62).slot)).role = 1 ∧ (d.qp (qpKey (d.destRec 62).port (d.destRec 62).slot)).st ≠ qsRts ∧
     (tgetD d.dests 62 {}).waitAt ≠ none) ∧
    (let d : Dev := { (((hostDev []).setReg pDev 0xA0 0x2013)).modQp (qpKey 0 1) fun q => { q with win := [(0, 0x50005#32)] } with dests := [(62, { q := [⟨0, 255, 2, []⟩] })] }
     (d.destRec 62).valid = true ∧ (d.destRec 62).ring = true ∧ (d.destRec 62).size = 256 ∧ roundUp (24 + 0) 64 = 64 ∧ (d.qp (qpKey (d.destRec 62).port (d.destRec 62).slot)).st = qsRts ∧
     d.hbrOn (d.destRec 62).port = true) := by decide +kernel

theorem test_tok_load : (∃ (s : State) (p : Fin 25) (i : Item) (e : Dev), s.dev.dueItem p 0x0210 = some (i, e) ∧ numAt i.body 8 8 % 4096 = 0 ∧ numAt i.body 8 8 < 2 ^ 48 ∧
      0x410 ≤ numAt i.body 0x10 4 ∧ (e.px i.ptn).toks.length < 8 ∧
      (match (e.intakeRead i.ptn (numAt i.body 8 8) (numAt i.body 0x10 4)).2 with | .ok (t, false) => tkBad t = some 0 | _ => false) = true) :=
  ⟨itemState descDev 0 0x0210 (List.replicate 16 0 ++ leBytes 8 0x410), 0, itemOf 0 (List.replicate 16 0 ++ leBytes 8 0x410), itemBusy descDev 0 0x0210 (List.replicate 16 0 ++ leBytes 8 0x410),
   by decide +kernel⟩
theorem test_tok_items : (∃ (s : State) (p : Fin 25) (i : Item) (e : Dev), s.dev.dueItem p 0x0211 = some (i, e) ∧ tget? (e.px i.ptn).toks (numAt i.body 0 1) = none) ∧
    (∃ (s : State) (p : Fin 25) (i : Item) (e : Dev), s.dev.dueItem p 0x0212 = some (i, e) ∧ tget? (e.px i.ptn).toks (numAt i.body 0 1) = none) ∧
    (∃ (s : State) (p : Fin 25) (i : Item) (e : Dev), s.dev.dueItem p 0x0211 = some (i, e) ∧ tget? (e.px i.ptn).toks (numAt i.body 0 1) = some (0, 8) ∧
      (match e.intakeRead i.ptn 0 8 with
       | (f, .ok (t, false)) => match f.intakeRead i.ptn (numAt i.body 8 8) 2 with
         | (g, .ok (bs, false)) => decide ((tkEncode t bs).length = 2) && (match (g.intakeWrite i.ptn (numAt i.body 0x18 8) ((tkEncode t bs).flatMap (leBytes 4))).2 with | .ok _ => true | _ => false)
         | _ => false
       | _ => false) = true ∧ numAt i.body 0x20 4 = 2) :=
  ⟨⟨itemState {} 0 0x0211 [], 0, itemOf 0 [], itemBusy {} 0 0x0211 [], by decide +kernel⟩, ⟨itemState {} 0 0x0212 [], 0, itemOf 0 [], itemBusy {} 0 0x0212 [], by decide +kernel⟩,
   ⟨itemState tokDev 0 0x0211 tokBody, 0, itemOf 0 tokBody, itemBusy tokDev 0 0x0211 tokBody, by decide +kernel⟩⟩
theorem test_tok_decode : ∃ (s : State) (p : Fin 25) (i : Item) (e : Dev), s.dev.dueItem p 0x0212 = some (i, e) ∧ tget? (e.px i.ptn).toks (numAt i.body 0 1) = some (0x2000, 0x10) ∧
      (match e.intakeRead i.ptn 0x2000 0x10 with
       | (f, .ok (t, false)) => match f.intakeRead i.ptn (numAt i.body 8 8) 8 with
         | (g, .ok (bs, false)) => decide (tkVocab t = 1) && (List.range 2).all (fun k => decide (numAt bs (4 * k) 4 < 1)) && (match (g.intakeWrite i.ptn (numAt i.body 0x18 8) []).2 with | .ok _ => true | _ => false)
         | _ => false
       | _ => false) = true :=
  ⟨itemState { tokDev with ptnx := [(0, { toks := [(0, (0x2000, 0x10))] })], mem := [(0x2004, 1)] ++ tokDev.mem } 0 0x0212 tokBody, 0, itemOf 0 tokBody,
   itemBusy { tokDev with ptnx := [(0, { toks := [(0, (0x2000, 0x10))] })], mem := [(0x2004, 1)] ++ tokDev.mem } 0 0x0212 tokBody, by decide +kernel⟩

theorem test_session_due : (∃ (s : State) (p : Fin 25) (i : Item) (e : Dev), s.dev.dueItem p 0x0200 = some (i, e) ∧ e.dom 109 = dsOn ∧
      (firstBad (e.sessionFields i.ptn i.body)).isSome = true) ∧
    (∃ (s : State) (p : Fin 25) (i : Item) (e : Dev), s.dev.dueItem p 0x0200 = some (i, e) ∧ e.dom 109 = dsOn ∧ firstBad (e.sessionFields i.ptn i.body) = none ∧
      (match (e.intakeWrite i.ptn (streamOf i.ptn i.body).buf (List.replicate 256 0)).2 with | .ok _ => true | _ => false) = true) ∧
    (∃ (s : State) (p : Fin 25) (i : Item) (e : Dev), s.dev.dueItem p 0x0201 = some (i, e) ∧ e.openStream i.ptn (numAt i.body 0 2) = none) ∧
    (∃ (s : State) (p : Fin 25) (i : Item) (e : Dev), s.dev.dueItem p 0x0201 = some (i, e) ∧ (match e.openStream i.ptn (numAt i.body 0 2) with | some x => x.stage = 0 | none => false) = true) :=
  ⟨⟨itemState medDev 0 0x0200 [], 0, itemOf 0 [], itemBusy medDev 0 0x0200 [], by decide +kernel⟩,
   ⟨itemState medDev 0 0x0200 sessionBody, 0, itemOf 0 sessionBody, itemBusy medDev 0 0x0200 sessionBody, by decide +kernel⟩,
   ⟨itemState medDev 0 0x0201 [], 0, itemOf 0 [], itemBusy medDev 0 0x0201 [], by decide +kernel⟩,
   ⟨itemState (strmDev aStream) 0 0x0201 [], 0, itemOf 0 [], itemBusy (strmDev aStream) 0 0x0201 [], by decide +kernel⟩⟩
theorem test_audio_due : (∃ (s : State) (p : Fin 25) (i : Item) (e : Dev), s.dev.dueItem p 0x0202 = some (i, e) ∧ e.openStream i.ptn (numAt i.body 0 2) = some aStream ∧ numAt i.body 2 2 = 0) ∧
    (∃ (s : State) (p : Fin 25) (i : Item) (e : Dev), s.dev.dueItem p 0x0202 = some (i, e) ∧ e.openStream i.ptn (numAt i.body 0 2) = some aStream ∧ numAt i.body 2 2 = 1 ∧
      8 + audFrame aStream.fmtIn * audBytes aStream.fmtIn ≤ i.body.length ∧ numAt i.body 4 4 = aStream.expect) :=
  ⟨⟨itemState (strmDev aStream) 0 0x0202 [], 0, itemOf 0 [], itemBusy (strmDev aStream) 0 0x0202 [], by decide +kernel⟩,
   ⟨itemState (strmDev aStream) 0 0x0202 (0 :: 0 :: 1 :: List.replicate 1925 0), 0, itemOf 0 (0 :: 0 :: 1 :: List.replicate 1925 0), itemBusy (strmDev aStream) 0 0x0202 (0 :: 0 :: 1 :: List.replicate 1925 0),
    by decide +kernel⟩⟩
theorem test_features : (let d := strmDev aStream
     let x := aStream
     tget? d.streams 0 = some x ∧ d.dom 109 = dsOn ∧ x.closing = false ∧ x.total < x.hop * (audRate x.fmtIn / 100) + audRate x.fmtIn / 40 ∧ d.pvaWait x.ptn x.buf 196608 = none ∧
     d.numPva x.ptn (x.buf + 0x10) 8 = d.numPva x.ptn (x.buf + 0x18) 8 ∧ bitOf (d.numPva x.ptn (x.buf + 0x20) 4) 0 = false) ∧
    (let d := strmDev { aStream with total := 100000 }
     let x := ({ aStream with total := 100000 } : Stream)
     tget? d.streams 0 = some x ∧ x.hop * (audRate x.fmtIn / 100) + audRate x.fmtIn / 40 ≤ x.total ∧ d.pvaWait x.ptn x.buf 65536 = none ∧ x.barge = false ∧ d.glueRecs = []) := by decide +kernel
theorem test_output : (let d : Dev := { strmDev aStream with mem := [(0x11, 8)] ++ (strmDev aStream).mem }
     let x := aStream
     tget? d.streams 0 = some x ∧ d.pvaWait x.ptn x.buf 196608 = none ∧ bitOf (d.numPva x.ptn (x.buf + 0x20) 4) 0 = false ∧
     (match d.engRead x.ptn (x.buf + 0x10) 20 with
      | (c, .ok hd) => decide (x.mayFrames c.ao (numAt hd 0 8 - numAt hd 8 8) = 1) && !bitOf (numAt hd 16 4) 0 && d.mediaHeld 0 == false && c.scrubbed pMed == false &&
        (match (c.ringSamples x (numAt hd 8 8) (1 * audFrame x.fmtOut)).2 with | some (_, false) => true | _ => false)
      | _ => false) = true) := by decide +kernel
theorem test_output_none : (match (strmDev aStream).engRead aStream.ptn (aStream.buf + 0x10) 20 with
    | (_, .ok hd) => numAt hd 0 8 == numAt hd 8 8 && !bitOf (numAt hd 16 4) 0
    | _ => false) = true := by decide +kernel

theorem test_glue_poll : (let d := strmDev { aStream with glue := true }
     let x := ({ aStream with glue := true } : Stream)
     tget? d.streams 0 = some x ∧ x.glue = true ∧ x.closing = false ∧ d.ptnState x.ptn = stActive ∧ d.awake = true ∧ x.stage = 0 ∧ d.flag (pClu x.ready.unit) x.ready.flag ≤ x.polled) := by
  decide +kernel
set_option maxRecDepth 100000 in
theorem test_glue_turn : (let d := glueDev
     let x := ({ aStream with glue := true, tmpl := 0x4000, hist := 0x8000 } : Stream)
     let y : Stream := { x with polled := 1, stage := 2, histLen := d.numPva 0 0x24 4 }
     let b := d.svcRuns x.ptn true
     tget? d.streams 0 = some x ∧ d.ptnState x.ptn = stActive ∧ d.awake = true ∧ x.polled < d.flag (pClu x.ready.unit) x.ready.flag ∧ b.pvaWait x.ptn (x.buf + 0x24) 4 = none ∧
     (match b.engRead x.ptn (x.buf + 0x24) 4 with | (_, .ok l) => leNat l = y.histLen | _ => false) = true ∧
     (match ((b.engRead x.ptn (x.buf + 0x24) 4).1.setStream 0 y).intakeRead x.ptn x.tmpl 320 with
      | (e, .ok (t, false)) => (match tget? ((e.farEnd (svcReader x.ptn)).glueAdmit 0 y t).streams 0 with | some z => z.stage = 3 | none => false) = true
      | _ => false) = true) := by decide +kernel
theorem test_glue_record : (let d : Dev := { strmDev { aStream with histCap := 4 } with glueRecs := [⟨0, 3, 0, [9]⟩] }
     let x := ({ aStream with histCap := 4 } : Stream)
     tget? d.streams 0 = some x ∧ d.glueRecs = [⟨0, 3, 0, [9]⟩] ∧ d.glueWait x = none ∧ x.released = false ∧ x.histLen < x.histCap) ∧
    (∀ r ∈ (strmDev aStream).glueRecs, r.strm ≠ 0) := by decide +kernel

theorem test_create_due : (∃ (s : State) (p : Fin 25) (i : Item) (e : Dev), s.dev.dueItem p 0x0100 = some (i, e) ∧ e.createCheck i.body none = some (cPtnConflict, 4)) ∧
    (∃ (s : State) (p : Fin 25) (i : Item) (e : Dev), s.dev.dueItem p 0x0100 = some (i, e) ∧ e.createCheck i.body none = none ∧
      e.memReady (stkBase (cbXaStack i.body) + cbXaGranule i.body * 2 ^ 21) = true) :=
  ⟨⟨itemState {} 255 0x0100 [], 24, itemOf 255 [], itemBusy {} 255 0x0100 [], by decide +kernel⟩,
   ⟨itemState freeDev 255 0x0100 createBody, 24, itemOf 255 createBody, itemBusy freeDev 255 0x0100 createBody, by decide +kernel⟩⟩
theorem test_ptn_release_due : (∃ (s : State) (p : Fin 25) (i : Item) (e : Dev), s.dev.dueItem p 0x0101 = some (i, e) ∧ e.ptnExists (numAt i.body 0 1) = false) ∧
    (∃ (s : State) (p : Fin 25) (i : Item) (e : Dev), s.dev.dueItem p 0x0101 = some (i, e) ∧ e.ptnExists (numAt i.body 0 1) = true ∧ e.st (pPtn (numAt i.body 0 1)) ≠ psScrubbing ∧
      bitOf (numAt i.body 1 1) 0 = false) :=
  ⟨⟨itemState {} 255 0x0101 [], 24, itemOf 255 [], itemBusy {} 255 0x0101 [], by decide +kernel⟩,
   ⟨itemState ownDev 255 0x0101 [], 24, itemOf 255 [], itemBusy ownDev 255 0x0101 [], by decide +kernel⟩⟩
theorem test_scrub : State.reset.dev.st (pPtn 0) ≠ psScrubbing ∧ (let d := ownDev.setReg (pPtn 0) 0x0C 0xC
     d.st (pPtn 0) = psScrubbing ∧ d.owner (pPtn 0) = 0 ∧ (∀ k ∈ d.ptnStacks 0, d.dom (80 + k) = dsOn) ∧ (d.px 0).successor = none ∧ d.inOps = []) ∧ cbPtn (bytesAt createBody 0 80) = 0 ∧
    (let d := (ownDev.setReg (pPtn 0) 0x0C 0xC).setDom 80 dsSelf
     d.st (pPtn 0) = psScrubbing ∧ ∃ k ∈ d.ptnStacks 0, d.dom (80 + k) ≠ dsOn) := by decide +kernel

theorem test_pkg_load_due : (∃ (s : State) (p : Fin 25) (i : Item) (e : Dev), s.dev.dueItem p 0x0110 = some (i, e) ∧ e.ptnSealed (numAt i.body 0 1) = false) ∧
    (∃ (s : State) (p : Fin 25) (i : Item) (e : Dev), s.dev.dueItem p 0x0110 = some (i, e) ∧ e.ptnExists 0 = true ∧ e.ptnSealed 0 = true ∧ e.st (pPtn 0) = stActive ∧
      e.tamperLatched = false ∧ (e.px 0).pkgs.length < 16 ∧ i.body = [] ∧ e.pvaWait 0 0 256 = none ∧
      (match e.engRead 0 0 256 with
       | (f, .ok h) => decide (pkHeadBad h = none) && (f.pvaWait 0 0 (pkSig h + 1280)).isNone && (match (f.engRead 0 0 (pkSig h + 1280)).2 with | .ok _ => true | _ => false)
       | _ => false) = true) :=
  ⟨⟨itemState {} 255 0x0110 [], 24, itemOf 255 [], itemBusy {} 255 0x0110 [], by decide +kernel⟩,
   ⟨itemState pkgDev 255 0x0110 [], 24, itemOf 255 [], itemBusy pkgDev 255 0x0110 [], by decide +kernel⟩⟩
theorem test_pkg_done : State.reset.dev.sec.run = none ∧ (let r : PkgRun := ⟨1, 0, 0, 0, 8192, 0, 0, [], []⟩
     let d : Dev := { pkgDev with sec := { pkgDev.sec with run := some r } }
     d.pvaWait r.ptn r.pkg r.pkgBytes = none ∧ d.pvaWait r.ptn r.dest r.destBytes = none) := by decide +kernel
theorem test_pkg_unload_due : (∃ (s : State) (p : Fin 25) (i : Item) (e : Dev), s.dev.dueItem p 0x0111 = some (i, e) ∧ e.ptnExists (numAt i.body 0 1) = true ∧ tget? (e.px 0).pkgs 0 = none ∧ i.body = []) ∧
    (∃ (s : State) (p : Fin 25) (i : Item) (e : Dev), s.dev.dueItem p 0x0111 = some (i, e) ∧ e.ptnExists (numAt i.body 0 1) = true ∧ i.body = [] ∧
      tget? (e.px 0).pkgs 0 = some ([], [], [0x200000]) ∧ e.memReady 0x200000 = true) :=
  ⟨⟨itemState ownDev 255 0x0111 [], 24, itemOf 255 [], itemBusy ownDev 255 0x0111 [], by decide +kernel⟩,
   ⟨itemState { ownDev with ptnx := [(0, { pkgs := [(0, ([], [], [0x200000]))] })] } 255 0x0111 [], 24, itemOf 255 [],
    itemBusy { ownDev with ptnx := [(0, { pkgs := [(0, ([], [], [0x200000]))] })] } 255 0x0111 [], by decide +kernel⟩⟩

theorem test_identity_due : (∃ (s : State) (p : Fin 25) (i : Item) (e : Dev), s.dev.dueItem p 0x0121 = some (i, e) ∧ e.hasDevKeys = false) ∧
    (∃ (s : State) (p : Fin 25) (i : Item) (e : Dev), s.dev.dueItem p 0x0121 = some (i, e) ∧ e.hasDevKeys = true ∧ numAt i.body 0 8 = e.devnum * 2 ^ 44 + 0x1000 ∧
      (match loc 0x1000, loc (0x1000 + 8191) with | .stack _ _, .stack _ _ => true | _, _ => false) = true ∧ e.memReady 0x1000 = true) ∧
    (∃ (s : State) (p : Fin 25) (i : Item) (e : Dev), s.dev.dueItem p 0x0121 = some (i, e) ∧ e.hasDevKeys = true ∧ numAt i.body 0 8 % 4096 ≠ 0) ∧
    (∃ (s : State) (p : Fin 25) (i : Item) (e : Dev), s.dev.dueItem p 0x0121 = some (i, e) ∧ e.hasDevKeys = true ∧ numAt i.body 0 8 = 2 ^ 44 ∧ e.devnum = 0) :=
  ⟨⟨itemState {} 255 0x0121 [], 24, itemOf 255 [], itemBusy {} 255 0x0121 [], by decide +kernel⟩,
   ⟨itemState lcDev 255 0x0121 [0, 0x10], 24, itemOf 255 [0, 0x10], itemBusy lcDev 255 0x0121 [0, 0x10], by decide +kernel⟩,
   ⟨itemState lcDev 255 0x0121 [1], 24, itemOf 255 [1], itemBusy lcDev 255 0x0121 [1], by decide +kernel⟩,
   ⟨itemState lcDev 255 0x0121 [0, 0, 0, 0, 0, 0x10], 24, itemOf 255 [0, 0, 0, 0, 0, 0x10], itemBusy lcDev 255 0x0121 [0, 0, 0, 0, 0, 0x10], by decide +kernel⟩⟩
theorem test_attest_due : (∃ (s : State) (p : Fin 25) (i : Item) (e : Dev), s.dev.dueItem p 0x0120 = some (i, e) ∧ e.hasDevKeys = false) ∧
    (∃ (s : State) (p : Fin 25) (i : Item) (e : Dev), s.dev.dueItem p 0x0120 = some (i, e) ∧ e.hasDevKeys = true ∧ e.tamperLatched = true) ∧
    (∃ (s : State) (p : Fin 25) (i : Item) (e : Dev), s.dev.dueItem p 0x0120 = some (i, e) ∧ e.hasDevKeys = true ∧ e.tamperLatched = false ∧ numAt i.body 0 1 ≠ 0xFF ∧ 23 < numAt i.body 0 1) ∧
    (∃ (s : State) (p : Fin 25) (i : Item) (e : Dev), s.dev.dueItem p 0x0120 = some (i, e) ∧ e.hasDevKeys = true ∧ e.tamperLatched = false ∧ numAt i.body 0 1 < 24 ∧
      numAt i.body 0x28 8 = e.devnum * 2 ^ 44 + 0 ∧ (match loc 0, loc 4095 with | .stack _ _, .stack _ _ => true | _, _ => false) = true ∧ e.memReady 0 = true) :=
  ⟨⟨itemState {} 255 0x0120 [], 24, itemOf 255 [], itemBusy {} 255 0x0120 [], by decide +kernel⟩,
   ⟨itemState (lcDev.setReg pSec 0x40 0x101) 255 0x0120 [], 24, itemOf 255 [], itemBusy (lcDev.setReg pSec 0x40 0x101) 255 0x0120 [], by decide +kernel⟩,
   ⟨itemState lcDev 255 0x0120 [30], 24, itemOf 255 [30], itemBusy lcDev 255 0x0120 [30], by decide +kernel⟩,
   ⟨itemState { ownDev.setReg pSec 0x40 1 with ptnx := [(0, { body := createBody })] } 255 0x0120 [], 24, itemOf 255 [],
    itemBusy { ownDev.setReg pSec 0x40 1 with ptnx := [(0, { body := createBody })] } 255 0x0120 [], by decide +kernel⟩⟩
theorem test_life_cycle_due : (∃ (s : State) (p : Fin 25) (i : Item) (e : Dev), s.dev.dueItem p 0x0130 = some (i, e) ∧ ∃ k < 24, e.ptnExists k = true) ∧
    (∃ (s : State) (p : Fin 25) (i : Item) (e : Dev), s.dev.dueItem p 0x0130 = some (i, e) ∧ e.lc = 1 ∧ ∀ k < 24, e.ptnExists k = false) :=
  ⟨⟨itemState ownDev 255 0x0130 [], 24, itemOf 255 [], itemBusy ownDev 255 0x0130 [], by decide +kernel⟩,
   ⟨itemState lcDev 255 0x0130 [], 24, itemOf 255 [], itemBusy lcDev 255 0x0130 [], by decide +kernel⟩⟩
theorem test_tamper : (let d := lcDev
     d.pwr.up = true ∧ d.sec.disarmed = false ∧ d.sec.run = none ∧ ∀ k < 24, d.ptnSealed k = false) ∧ ({ lcDev with pwr := { lcDev.pwr with up := false } } : Dev).pwr.up = false := by decide +kernel

theorem test_update_due : (∃ (s : State) (p : Fin 25) (i : Item) (e : Dev), s.dev.dueItem p 0x0180 = some (i, e) ∧ (e.freshRecord.updRefused i.body).isSome = true) ∧
    (∃ (s : State) (p : Fin 25) (i : Item) (e : Dev), s.dev.dueItem p 0x0180 = some (i, e) ∧ e.freshRecord.updRefused i.body = none ∧ bitOf (numAt i.body 1 1) 1 = false) ∧
    (∃ (s : State) (p : Fin 25) (i : Item) (e : Dev), s.dev.dueItem p 0x0180 = some (i, e) ∧ e.freshRecord.updRefused i.body = none ∧ bitOf (numAt i.body 1 1) 1 = true ∧
      bitOf (numAt i.body 1 1) 2 = false ∧ e.freshRecord.boot.recs.length = 2 ∧ e.freshRecord.curRec.isSome = true) :=
  ⟨⟨itemState {} 255 0x0180 [], 24, itemOf 255 [], itemBusy {} 255 0x0180 [], by decide +kernel⟩,
   ⟨itemState State.reset.dev 255 0x0180 (updBody 1), 24, itemOf 255 (updBody 1), itemBusy State.reset.dev 255 0x0180 (updBody 1), by decide +kernel⟩,
   ⟨itemState State.reset.dev 255 0x0180 (updBody 3), 24, itemOf 255 (updBody 3), itemBusy State.reset.dev 255 0x0180 (updBody 3), by decide +kernel⟩⟩
theorem test_install : State.reset.dev.boot.inst = none ∧ (let d : Dev := (instDev 3 0)
     d.instNext 3 0 = some 0 ∧ d.instWhen 3 0 = true) ∧ (let d : Dev := instDev 3 1
     d.instNext 3 1 = none) ∧
    (let d : Dev := (instDev 7 0).setPx 0 { step := some aStep }
     let d := (((d.setReg (pStk 0 0) 0x24 0).setReg (pStk 0 0) 0x0C 4).setReg pPwr (rDom 80) 0).setReg pPwr (rDom 110) 0
     d.instNext 7 0 = some 0 ∧ d.instWhen 7 0 = false) := by decide +kernel
theorem test_select_due : ∀ op : Fin 4, ∃ (s : State) (p : Fin 25) (i : Item) (e : Dev), s.dev.dueItem p 0x0181 = some (i, e) ∧ numAt i.body 0 1 = 1 ∧ numAt i.body 1 1 = op.val ∧
      e.boot.recs.length = 2 ∧ e.curRec.isSome = true ∧ e.inTrial 1 = false :=
  fun op => ⟨itemState State.reset.dev 255 0x0181 [1, BitVec.ofNat 8 op.val], 24, itemOf 255 [1, BitVec.ofNat 8 op.val], itemBusy State.reset.dev 255 0x0181 [1, BitVec.ofNat 8 op.val],
    by revert op; decide +kernel⟩
theorem test_select_trial : ∃ (s : State) (p : Fin 25) (i : Item) (e : Dev), s.dev.dueItem p 0x0181 = some (i, e) ∧ numAt i.body 0 1 = 1 ∧ numAt i.body 1 1 = 2 ∧ e.curRec.isSome = true ∧ e.inTrial 1 = true :=
  ⟨itemState (State.reset.dev.writeRec fun r => { r with trial := 2 }) 255 0x0181 [1, 2], 24, itemOf 255 [1, 2], itemBusy (State.reset.dev.writeRec fun r => { r with trial := 2 }) 255 0x0181 [1, 2], by decide +kernel⟩

theorem test_reread : (let d := (withDoms [80]).dev
     d.dom (80 + 0) = dsOn ∧ d.chanRead 0 0 0 = true ∧ d.dpaAt (burstDpa 0 0 0) = some 0 ∧ d.markedAt 0 64 = false ∧ d.injected.contains 0 = false ∧ d.scrubbed (pStk 0 2) = false) ∧
    State.reset.dev.dom (80 + 0) ≠ dsOn ∧ ((withRegs [(pStk 0 0, 0x40, 0)]).dev.chanRead 0 0 0 = false) ∧ State.reset.dev.dpaAt (burstDpa 0 0 0) = some 0 ∧ (({ State.reset.dev with marks := [0] } : Dev).markedAt 0 64 = true) := by decide +kernel
theorem test_repairs : (∀ r ∈ (State.reset.dev.stk 0).repairs, ¬(r.column = false ∧ r.chan = 0 ∧ r.num = 0)) ∧
    (∃ r ∈ ((State.reset.dev.setStk 0 { repairs := [⟨false, 0, 0⟩, ⟨true, 0, 1⟩] }).stk 0).repairs, r.column = false ∧ r.chan = 0 ∧ r.num = 0) ∧
    (∃ r ∈ ((State.reset.dev.setStk 0 { repairs := [⟨false, 0, 0⟩, ⟨true, 0, 1⟩] }).stk 0).repairs, r.column = true ∧ r.chan = 0 ∧ r.num = 1) := by decide +kernel
theorem test_copies : (∀ m ∈ (State.reset.dev.stk 0).moving, m.from_ ≠ 5) ∧ (let d := State.reset.dev.setStk 0 { moving := [⟨5, 9⟩] }
     (d.stk 0).moving = [⟨5, 9⟩] ∧ (d.stk 0).toMove = [] ∧ d.errs = []) := by decide +kernel
theorem test_patrol : (withRegs [(pStk 0 2, 0x40, 0)]).dev.bit (pStk 0 2) 0x40 0 = false ∧ (let d := (withRegs [(pPwr, rDom 80, 0), (pStk 0 2, 0x40, 1)]).dev
     d.bit (pStk 0 2) 0x40 0 = true ∧ d.dom (80 + 0) = dsOn ∧ d.chanIn 0 0 = true ∧ d.errs = []) := by decide +kernel
theorem test_flip : ∃ (s : State) (r : Role), s.dev.Takes r (pStk 0 2) ∧ s.dev.Ranks r (pStk 0 2) 0x104 ∧ wbit (0x400000#32) 22 = true ∧ wfld (0x400000#32) 9 0 ≤ 575 ∧
    wbit (0x4003FF#32) 22 = true ∧ 575 < wfld (0x4003FF#32) 9 0 := ⟨withDoms [80], .operator, by decide +kernel⟩
theorem test_flip_buffer : ∃ (s : State) (r : Role), s.dev.Takes r (pClu 0) ∧ s.dev.Ranks r (pClu 0) 0x498 ∧ wbit (0x100000#32) 20 = true ∧ 287 < wfld (0x1001FF#32) 8 0 := ⟨withDoms [0], .operator, by decide +kernel⟩

theorem test_retire_due : (∃ (s : State) (p : Fin 25) (i : Item) (e : Dev), s.dev.dueItem p 0x0140 = some (i, e) ∧ unitExists (numAt i.body 0 1) (numAt i.body 2 2) (numAt i.body 4 1) = true ∧
      e.unitIn 0 0 0 = true ∧ i.body = [] ∧ (e.core 0 0).tile = none) ∧
    (∃ (s : State) (p : Fin 25) (i : Item) (e : Dev), s.dev.dueItem p 0x0140 = some (i, e) ∧ unitExists (numAt i.body 0 1) (numAt i.body 2 2) (numAt i.body 4 1) = true ∧ e.unitIn 1 0 0 = true ∧ i.body = [1]) ∧
    (∃ (s : State) (p : Fin 25) (i : Item) (e : Dev), s.dev.dueItem p 0x0140 = some (i, e) ∧ unitExists (numAt i.body 0 1) (numAt i.body 2 2) (numAt i.body 4 1) = false) :=
  ⟨⟨itemState State.reset.dev 255 0x0140 [], 24, itemOf 255 [], itemBusy State.reset.dev 255 0x0140 [], by decide +kernel⟩,
   ⟨itemState State.reset.dev 255 0x0140 [1], 24, itemOf 255 [1], itemBusy State.reset.dev 255 0x0140 [1], by decide +kernel⟩,
   ⟨itemState State.reset.dev 255 0x0140 [9], 24, itemOf 255 [9], itemBusy State.reset.dev 255 0x0140 [9], by decide +kernel⟩⟩
theorem test_readmit_due : (∃ (s : State) (p : Fin 25) (i : Item) (e : Dev), s.dev.dueItem p 0x0141 = some (i, e) ∧ unitExists (numAt i.body 0 1) (numAt i.body 2 2) (numAt i.body 4 1) = true ∧
      e.unitIn 0 0 0 = true ∧ i.body = []) ∧
    (∃ (s : State) (p : Fin 25) (i : Item) (e : Dev), s.dev.dueItem p 0x0141 = some (i, e) ∧ unitExists (numAt i.body 0 1) (numAt i.body 2 2) (numAt i.body 4 1) = true ∧ e.unitIn 1 0 0 = false ∧ i.body = [1]) :=
  ⟨⟨itemState State.reset.dev 255 0x0141 [], 24, itemOf 255 [], itemBusy State.reset.dev 255 0x0141 [], by decide +kernel⟩,
   ⟨itemState (State.reset.dev.setClu 0 { retired := true }) 255 0x0141 [1], 24, itemOf 255 [1], itemBusy (State.reset.dev.setClu 0 { retired := true }) 255 0x0141 [1], by decide +kernel⟩⟩
theorem test_readmit_done : State.reset.dev.readmit = none ∧ (let d : Dev := { (withDoms [0]).dev with readmit := some ⟨1, 0, 0, 0, 0⟩ }
     d.readmit = some ⟨1, 0, 0, 0, 0⟩ ∧ d.dom 0 = dsOn) ∧ (({ State.reset.dev with readmit := some ⟨1, 0, 0, 0, 0⟩ } : Dev).dom 0 ≠ dsOn) := by decide +kernel

theorem test_round : State.reset.dev.boot.released = false ∧ (let d : Dev := runDev
     d.pwr.up = true ∧ d.boot.released = true ∧ d.scrubbed pThm = false ∧ d.thm.skip = false ∧ d.getF pThm 0x54 19 10 * 10000000 < (0xFFFF + 0xFFFF) * (0xFFFF + 0xFFFF) * 5) := by decide +kernel
theorem test_lehr_writes : (let d := runDev
     d.Takes .operator pThm ∧ d.lehr = 0 ∧ d.devPower = 0) ∧ (let d := runDev.setF pThm 0x44 1 0 1
     d.Takes .operator pThm ∧ d.lehr ≠ 0 ∧ d.lehr ≠ 2) ∧
    (let d : Dev := { runDev.setF pThm 0x44 1 0 2 with thm := { calm := (List.range 256).map fun n => (n, 4) } }
     d.Takes .operator pThm ∧ d.lehr = 2 ∧ d.allCalm = true) := by decide +kernel
theorem test_lehr_stages : (let d : Dev := { (runDev.setF pThm 0x44 1 0 1).setF pThm 0x50 23 0 0 with thm := { lehrStage := 1 }, ptnx := [(0, { step := some aStep })] }
     d.lehr = 1 ∧ d.thm.lehrStage = 1 ∧ (d.px 0).step ≠ none ∧ d.thm.lehrAt + d.getF pThm 0x50 23 0 ≤ d.ao ∧ ∃ x ∈ d.ptnx, x.2.step ≠ none) ∧
    (let d : Dev := { runDev.setF pThm 0x44 1 0 1 with thm := { lehrStage := 1 } }
     d.lehr = 1 ∧ d.thm.lehrStage = 1 ∧ ∀ x ∈ d.ptnx, x.2.step = none) ∧
    (let d : Dev := { runDev.setF pThm 0x44 1 0 1 with thm := { lehrStage := 2 } }
     d.lehr = 1 ∧ d.thm.lehrStage = 2 ∧ ∀ n < 104, d.dom n ≠ dsOn ∧ d.dom n ≠ dsWaking) ∧ runDev.lehr ≠ 1 := by decide +kernel

theorem test_trip : State.reset.dev.pwr.up = true ∧ State.reset.dev.tripped = false ∧ State.reset.dev.boot.waiting = 0 ∧ State.reset.dev.bit pPwr 0x50 0 = false ∧
    ({ State.reset.dev with boot := { State.reset.dev.boot with waiting := 1 } } : Dev).boot.waiting ≠ 0 ∧
    (let d := State.reset.dev.setBit pPwr 0x50 0 true
     d.bit pPwr 0x50 0 = true ∧ d.ao < d.pwr.lowAt + 50000) := by decide +kernel
theorem test_supply : (let d := State.reset.dev
     d.pwr.up = true ∧ d.boot.released = false ∧ d.boot.resetLow = false ∧ d.boot.waiting = 0 ∧ d.thm.holding = false) ∧
    (let d : Dev := { State.reset.dev with thm := { holding := true } }
     d.pwr.up = true ∧ d.boot.released = false ∧ d.boot.resetLow = false ∧ d.boot.waiting = 0 ∧ d.thm.holding = true) ∧ runDev.boot.released = true ∧
    ({ State.reset.dev with boot := { State.reset.dev.boot with resetLow := true } } : Dev).boot.resetLow = true ∧ ({ State.reset.dev with pwr := { up := false } } : Dev).pwr.up = false := by decide +kernel

theorem test_stage : State.reset.dev.stage = none ∧ (let d := runDev.setF pBoot 0x40 2 0 2
     d.stage = some 2 ∧ d.ao ≤ d.boot.stageAt + stageBound 2 ∧ ({ d with ao := 5000001 } : Dev).boot.stageAt + stageBound 2 < ({ d with ao := 5000001 } : Dev).ao) ∧
    (let d := runDev.setF pBoot 0x40 2 0 4
     d.stage = some 4 ∧ d.bootSettled = false) := by decide +kernel
set_option maxRecDepth 100000 in
theorem test_stage_settled : (let d : Dev := { runDev.setF pBoot 0x40 2 0 4 with pwr := { retried := (List.range 256) } }
     d.stage = some 4 ∧ d.bootSettled = true) := by decide +kernel
theorem test_stage_six : (let d := runDev.setF pBoot 0x40 2 0 6
     d.stage = some 6 ∧ ∀ p ∈ allPages, d.st p = stInit → p.blk ≠ .dev → d.initReady p = true) ∧
    (let d := (runDev.setF pBoot 0x40 2 0 6).setSt (pClu 0) stInit
     d.stage = some 6 ∧ ∃ p ∈ allPages, d.st p = stInit ∧ p.blk ≠ .dev ∧ d.initReady p = false) := by decide +kernel
theorem test_frit_due : ∃ (s : State) (p : Fin 25) (i : Item) (e : Dev), s.dev.dueItem p 0x0182 = some (i, e) :=
  ⟨itemState {} 255 0x0182 [], 24, itemOf 255 [], itemBusy {} 255 0x0182 [], by decide +kernel⟩
theorem test_frit_exit : State.reset.dev.frit = false ∧ fritDev.frit = true ∧ fritDev.boot.recs.length = 2 ∧ fritDev.curRec = some {} ∧ State.reset.dev.Gives .operator pBoot := by decide +kernel

theorem test_domains : State.reset.dev.dom 0 ≠ dsWaking ∧ (withRegs [(pPwr, rDom 0, 0x30)]).dev.dom 0 = dsWaking ∧ tget? State.reset.dev.pwr.wakeAt 0 = none ∧
    (let d : Dev := { (withRegs [(pPwr, rDom 0, 0x30)]).dev with pwr := { wakeAt := [(0, 0)] } }
     tget? d.pwr.wakeAt 0 = some 0 ∧ d.ao < 0 + 4 * wakeBound 0 ∧ 0 + 4 * wakeBound 0 ≤ ({ d with ao := 10000 } : Dev).ao ∧ d.pwr.retried.contains 0 = false ∧ d.dom 0 ≠ dsSelf) ∧
    ({ State.reset.dev with pwr := { retried := [0] } } : Dev).pwr.retried.contains 0 = true := by decide +kernel
theorem test_auto_off : (let d := (withRegs [(pPwr, rDom 0, 4), (pBoot, 0x40, 7), (pPwr, 0x4C, 100)]).dev
     d.getF pPwr (rDom 0) 1 0 < 2 ∧ d.bit pPwr (rDom 0) 2 = true ∧ d.dom 0 = dsOn ∧ d.getF pBoot 0x40 2 0 = 7 ∧ d.frit = false ∧ d.pinned 0 = false ∧ d.domIdle 0 = true ∧ d.getF pPwr 0x4C 23 0 ≤ 100 ∧
     d.Takes .operator pPwr ∧ d.Ranks .operator pPwr (rDom 0) ∧ d.lehr = 0) ∧ wfld (0#32) 1 0 = 0 ∧ wfld (2#32) 1 0 = 2 ∧ wfld (3#32) 1 0 = 3 ∧
    (let d := (withRegs [(pPwr, rDom 0, 5), (pThm, 0x44, 0x41)]).dev
     d.getF pPwr (rDom 0) 1 0 < 2 ∧ d.pinned 0 = true ∧ d.lehr ≠ 0 ∧ d.Takes .operator pPwr ∧ d.Ranks .operator pPwr (rDom 0)) := by decide +kernel
theorem test_power_requests : (let d := State.reset.dev
     d.mayAccess .operator pPwr true = true ∧ d.devPower = 0 ∧ d.pwr.up = true) ∧ (State.reset.dev.setF pPwr 0x44 2 0 4).devPower = 4 ∧
    (let d := State.reset.dev
     d.powerReason 2 = none ∧ d.powerReason 3 = none) ∧ (let d := { State.reset.dev with batches := [(0, aBatch)] }
     d.devPower = 0 ∧ d.powerReason 2 = some 1 ∧ d.powerReason 3 = some 1) ∧ (withRegs [(pMgt, 0x44, 0x8009)]).dev.bit pMgt 0x44 15 = true := by decide +kernel
theorem test_idle : (let d := (withRegs [(pPwr, 0x48, 0x6410)]).dev
     d.devPower = 0 ∧ d.bit pPwr 0x48 4 = true ∧ d.quiet = true ∧ d.getF pPwr 0x48 31 8 ≤ 100 ∧ 0 < d.getF pPwr 0x48 31 8 ∧ d.pwr.entry ≠ 1) ∧
    (let d : Dev := { State.reset.dev with pwr := { entry := 1 } }
     d.devPower = 0 ∧ d.pwr.entry = 1 ∧ d.quiet = true) ∧
    (let d : Dev := { State.reset.dev.setReg pPwr 0x44 0x204 with pwr := { entry := 3 } }
     d.devPower = 4 ∧ d.pwr.abandon = false ∧ d.pwr.entry = 3 ∧ d.getF pPwr 0x44 9 8 = 2) ∧
    (let d : Dev := { State.reset.dev.setReg pPwr 0x44 0x304 with pwr := { entry := 4 } }
     d.devPower = 4 ∧ d.pwr.abandon = false ∧ d.pwr.entry = 4) := by decide +kernel
theorem test_wakes : (State.reset.dev.setF pPwr 0x44 2 0 1).devPower = 1 ∧ State.reset.dev.tripped = false ∧ (State.reset.dev.setF pPwr 0x44 2 0 2).devPower = 2 ∧
    (let d : Dev := { State.reset.dev.setF pPwr 0x44 2 0 5 with pwr := { low := 1 } }
     d.devPower = 5 ∧ d.pwr.low = 1) ∧ (let d := (State.reset.dev.setF pPwr 0x44 2 0 3).setDom 104 dsOff
     d.devPower = 3 ∧ d.pwr.detecting = false ∧ d.dom (104 + d.getF pPwr 0x48 3 0 / 4) = dsOff ∧ d.pwr.detectAt = none) ∧
    (let d : Dev := { State.reset.dev.setF pPwr 0x44 2 0 3 with ao := 5000000, pwr := { detecting := true, detectAt := some 0 } }
     d.pwr.detectAt = some 0 ∧ d.devPower = 3 ∧ 0 + 5000000 ≤ d.ao ∧ d.pwr.detecting = true) := by decide +kernel
theorem test_plls : (let d := (withDoms [0]).dev
     d.dom (pllDomain 0) ≠ dsOff ∧ d.clockOn 0 = true ∧ d.scrubbed pClk = false) ∧ State.reset.dev.dom (pllDomain 0) = dsOff := by decide +kernel

theorem test_mgt : (let d := (withRegs [(pMgt, 0x44, 0x8009)]).dev
     d.pwr.up = true ∧ d.bit pMgt 0x44 15 = true ∧ d.devPower = 0) ∧ parseWork [] = none ∧ (parseWork (workBytes 255 0x100)).isSome = true ∧ numAt (workBytes 255 0x100) 0x11 1 = 0xFF ∧
    State.reset.dev.mgtOut = [] ∧ State.reset.dev.mgtTries < 2 ∧ ({ State.reset.dev with mgtOut := [[1]], mgtTries := 2 } : Dev).mgtOut = [1] :: [] := by decide +kernel
theorem test_jtag : State.reset.dev.pwr.up = true ∧ State.reset.dev.lc = 0 ∧ lcDev.lc ≠ 0 ∧ (0xFF#8).toNat ∉ [0x00, 0x01, 0x02, 0x10, 0x20] ∧ State.reset.dev.tap.status ≠ 2 ∧ State.reset.dev.devPower = 0 ∧ State.reset.dev.inOps = [] ∧
    (match loc 0, loc 3 with | .stack _ _, .stack _ _ => true | _, _ => false) = true ∧ (withDoms [80]).dev.memReady 0 = true ∧ (withDoms [80]).dev.memReady 3 = true ∧ (withDoms [80]).dev.errs = [] ∧
    ({ State.reset.dev with tap := { status := 2 } } : Dev).tap.status = 2 := by decide +kernel

theorem test_mem_inv : (⟨{ State.reset.dev with mem := [(5, 1), (9, 255)] }, [.bufferWriteLand 0, .powerFail]⟩ : State).MemInv := by decide +kernel

end Sys2Proof.Tests
end

/-! SUPPORT. Control-space accesses (00, R4–R6; 02, R25–R37): where an access lands, what a write that a page takes stores, and the two statements about them. -/

namespace Sys2Proof.Machine

/-! ### Where an access lands -/

/-- The offset of byte `k` of the page at page index `i` fits the 26 bits of an access (R25). -/
theorem toNat_pageOffset (i : Fin 0x1410) {k : Nat} (hk : k < 0x1000) :
    (BitVec.ofNat 26 (i.val * 0x1000 + k)).toNat = i.val * 0x1000 + k := by
  rw [BitVec.toNat_ofNat]
  omega

theorem pageOf_pageOffset (i : Nat) {k : Nat} (hk : k < 0x1000) : pageOf (i * 0x1000 + k) = pageAt i := by
  rw [pageOf, show (i * 0x1000 + k) / 0x1000 = i by omega]

/-- The upper half of an aligned 8 bytes stands in the page of the lower half. -/
theorem pageOf_add_four {off : Nat} (h : off % 8 = 0) : pageOf (off + 4) = pageOf off := by
  rw [pageOf, pageOf, show (off + 4) / 0x1000 = off / 0x1000 by omega]

/-- Aligned 4-byte and 8-byte accesses are those that pages perform. -/
theorem goodAccess_iff (off size : Nat) :
    goodAccess off size = true ↔ (size = 4 ∧ off % 4 = 0) ∨ (size = 8 ∧ off % 8 = 0) := by
  simp only [goodAccess, Bool.and_eq_true, Bool.or_eq_true, decide_eq_true_eq]
  constructor
  · rintro ⟨rfl | rfl, h⟩
    · exact .inl ⟨rfl, h⟩
    · exact .inr ⟨rfl, h⟩
  · rintro (⟨rfl, h⟩ | ⟨rfl, h⟩)
    · exact ⟨.inl rfl, h⟩
    · exact ⟨.inr rfl, h⟩

/-! ### Accesses by their size -/

/-- An aligned 4-byte write writes a word of the page it falls in. -/
theorem Dev.writeAccess_four (d : Dev) (r : Role) {off : Nat} {p : Page} (v : BitVec 64) (hp : pageOf off = some p) (ha : off % 4 = 0) :
    d.writeAccess r off 4 v = d.writeWord r p (off % 0x1000) (v.setWidth 32) := by
  have hg : goodAccess off 4 = true := (goodAccess_iff _ _).2 (.inl ⟨rfl, ha⟩)
  simp [Dev.writeAccess, hp, hg]

/-- An aligned 8-byte write is two 4-byte writes, the lower first (R25). -/
theorem Dev.writeAccess_eight (d : Dev) (r : Role) {off : Nat} {p : Page} (v : BitVec 64) (hp : pageOf off = some p) (ha : off % 8 = 0) :
    d.writeAccess r off 8 v = (d.writeAccess r off 4 v).writeAccess r (off + 4) 4 (v >>> 32) := by
  have hg : goodAccess off 8 = true := (goodAccess_iff _ _).2 (.inr ⟨rfl, ha⟩)
  have hlo := d.writeAccess_four r v hp (by omega)
  have hhi := (d.writeAccess r off 4 v).writeAccess_four r (v >>> 32) ((pageOf_add_four ha).trans hp) (by omega)
  rw [hhi, hlo, show (off + 4) % 0x1000 = off % 0x1000 + 4 by omega]
  simp [Dev.writeAccess, hp, hg]

/-- A write of another size, or one that is not aligned, is refused, on an assigned page or not (R26). -/
theorem Dev.writeAccess_bad (d : Dev) (r : Role) {off size : Nat} (v : BitVec 64) (hg : goodAccess off size = false) :
    d.writeAccess r off size v = d.refuse := by
  unfold Dev.writeAccess
  cases pageOf off with
  | none => rfl
  | some p => simp [hg]

theorem exec_registerWrite (s : State) (r : Role) (off : BitVec 26) (size : Fin 65) (v : BitVec 64) :
    exec (.registerWrite r off size v) s = .next ⟨s.dev.writeAccess r off.toNat size v, s.pending⟩ := rfl

theorem exec_rclRead (s : State) (r : Role) (off : BitVec 26) (size : Fin 65) :
    exec (.rclRead r off size) s = .next ⟨s.dev.readAccess r off.toNat size, s.pending⟩ := rfl

/-- A 4-byte write at word offset `k` of the page at page index `i`. -/
theorem exec_registerWrite_word (s : State) (r : Role) {i : Fin 0x1410} {p : Page} {k : Nat} (v : BitVec 64) (hp : pageAt i.val = some p)
    (hk : k < 0x1000) (ha : k % 4 = 0) :
    exec (.registerWrite r (BitVec.ofNat 26 (i.val * 0x1000 + k)) 4 v) s = .next ⟨s.dev.writeWord r p k (v.setWidth 32), s.pending⟩ := by
  have hw := s.dev.writeAccess_four r v ((pageOf_pageOffset i.val hk).trans hp) (by omega)
  rw [show (i.val * 0x1000 + k) % 0x1000 = k by omega] at hw
  rw [exec_registerWrite, toNat_pageOffset i hk, ← hw]
  rfl

/-- A 4-byte read at word offset `k` of the page at page index `i`. -/
theorem exec_rclRead_word (s : State) (r : Role) {i : Fin 0x1410} {p : Page} {k : Nat} (hp : pageAt i.val = some p)
    (hk : k < 0x1000) (ha : k % 4 = 0) :
    exec (.rclRead r (BitVec.ofNat 26 (i.val * 0x1000 + k)) 4) s = .next ⟨s.dev.readWord r p k, s.pending⟩ := by
  have hg : goodAccess (i.val * 0x1000 + k) 4 = true := (goodAccess_iff _ _).2 (.inl ⟨rfl, by omega⟩)
  rw [exec_rclRead, toNat_pageOffset i hk]
  simp [Dev.readAccess, (pageOf_pageOffset i.val hk).trans hp, hg, show (i.val * 0x1000 + k) % 0x1000 = k by omega]

/-! ### The note of the writing role (R37) -/

/-- The device with role `r` noted as a writer of a register in this ao-cycle. -/
def Dev.noteRole (d : Dev) (r : Role) (p : Page) (off : Nat) : Dev :=
  { d with cyc := { d.now with roles := tput d.now.roles (p.base + off) (max (tgetD d.now.roles (p.base + off) 0) (roleRank r)) } }

@[simp] theorem Dev.noteRole_csr (d : Dev) (r : Role) (p : Page) (off : Nat) : (d.noteRole r p off).csr = d.csr := rfl
@[simp] theorem Dev.noteRole_mem (d : Dev) (r : Role) (p : Page) (off : Nat) : (d.noteRole r p off).mem = d.mem := rfl
@[simp] theorem Dev.reg_noteRole (d : Dev) (r : Role) (p q : Page) (off o : Nat) : (d.noteRole r p off).reg q o = d.reg q o := rfl

/-- The stamp of what has happened in this ao-cycle is this ao-cycle. -/
theorem Dev.now_at (d : Dev) : d.now.at_ = d.ao := by
  unfold Dev.now
  split
  · assumption
  · rfl

/-- Noting a role notes no bit as set. -/
@[simp] theorem Dev.setsNow_noteRole (d : Dev) (r : Role) (p q : Page) (off o : Nat) : (d.noteRole r p off).setsNow q o = d.setsNow q o := by
  have hn : (d.noteRole r p off).now = (d.noteRole r p off).cyc := if_pos d.now_at
  simp only [Dev.setsNow, hn]
  rfl

/-- A header write that the page's always-on domain and R36 let through, and no role out-ranks. -/
theorem Dev.writeWord_head {d : Dev} {r : Role} {p : Page} {off : Nat} (hoff : off < 0x40) (h : d.Takes r p) (hr : d.Ranks r p off) (v : Word) :
    d.writeWord r p off v = ((d.noteRole r p off).writeHead p off v).answer 0 := by
  obtain ⟨hup, hmay, -, hidle⟩ := h
  simp only [Dev.writeWord, hoff, hup, hmay, Dev.endIdle_eq hidle, Dev.roleOrder_ranks hr]
  rfl

/-- A write of a block register that the page takes and no role out-ranks. -/
theorem Dev.writeWord_block {d : Dev} {r : Role} {p : Page} {off : Nat} (hoff : 0x40 ≤ off) (h : d.Takes r p) (hr : d.Ranks r p off) (v : Word) :
    d.writeWord r p off v = ((d.noteRole r p off).csrWrite r p off v).answer 0 := by
  rw [Dev.writeWord, if_neg (by omega), Dev.guardPut_takes h hr]
  rfl

/-! ### What a write stores (R4) -/

/-- A register whose fields have no reserved values stores by its field types. -/
theorem Dev.storeReg_eq (d : Dev) {p : Page} {off : Nat} {row : RegRow} (h : regRow p off = some row) (hf : fieldRules p off = []) (v : Word) :
    d.storeReg p off v = d.setReg p off (storeWord row (d.setsNow p off) (d.reg p off) v) := by
  simp [Dev.storeReg, h, hf, applyRules]

/-- Every bit of a word is in the mask of all its bits. -/
@[simp] theorem word_and_full (v : Word) : v &&& 0xFFFFFFFF#32 = v := BitVec.and_allOnes

/-- Bit `j` of a stored word, by the type of its field: W1S, then W1C, then RW, then any other. -/
theorem wbit_storeWord (row : RegRow) (fresh old v : Word) {j : Nat} (hj : j < 32) :
    wbit (storeWord row fresh old v) j =
      if row.w1s.testBit j && wbit v j then true
      else if row.w1c.testBit j && wbit v j && !wbit fresh j then false
      else if row.rw.testBit j then wbit v j
      else wbit old j := by
  have hbit : wbit (storeWord row fresh old v) j =
      ((wbit old j && !row.rw.testBit j || wbit v j && row.rw.testBit j) && !(wbit v j && row.w1c.testBit j && !wbit fresh j)
        || wbit v j && row.w1s.testBit j) := by
    simp only [storeWord, wbit, BitVec.getLsbD_or, BitVec.getLsbD_and, BitVec.getLsbD_not, BitVec.getLsbD_ofNat, hj, decide_true, Bool.true_and]
  rw [hbit]
  generalize row.w1s.testBit j = s, row.w1c.testBit j = c, row.rw.testBit j = w, wbit v j = b, wbit fresh j = f, wbit old j = o
  revert s c w b f o
  decide

/-- A register of RW bits alone stores the word written. -/
theorem storeWord_rw {row : RegRow} (hrw : row.rw = 0xFFFFFFFF) (hc : row.w1c = 0) (hs : row.w1s = 0) (fresh old v : Word) :
    storeWord row fresh old v = v := by
  simp [storeWord, hrw, hc, hs]

/-- A device whose register words are those after one was set differs in that one word. -/
theorem Dev.sameRegsBut_of_csr {d t : Dev} {p : Page} {off : Nat} {v : Word} (h : t.csr = (d.setReg p off v).csr) : t.SameRegsBut d p [off] := by
  intro k hk
  rw [h]
  exact (tget?_tput_ne d.csr v (hk off (List.mem_singleton.2 rfl))).symm

/-! ### SCRATCH and EVENT -/

theorem regRow_scratch (p : Page) : regRow p 0x28 = some ⟨0x28, 1, 4, 0xffffffff, 0, 0, 0, 0, 0⟩ := by
  simp [regRow, rowsHdr, RegRow.covers]

/-- No field of SCRATCH has reserved values. -/
theorem fieldRules_scratch (p : Page) : fieldRules p 0x28 = [] := by
  obtain ⟨blk, n⟩ := p
  cases blk <;> simp [fieldRules]

/-- SCRATCH stores the word written (R28). -/
theorem Dev.writeHead_scratch (d : Dev) (p : Page) (v : Word) : d.writeHead p 0x28 v = d.setReg p 0x28 v := by
  rw [← storeWord_rw (row := ⟨0x28, 1, 4, 0xffffffff, 0, 0, 0, 0, 0⟩) rfl rfl rfl (d.setsNow p 0x28) (d.reg p 0x28) v,
    ← d.storeReg_eq (regRow_scratch p) (fieldRules_scratch p), storeWord_rw rfl rfl rfl]
  rfl

/-- A fold of operations that change no register changes none. -/
theorem Dev.foldl_csr {α : Type} (f : Dev → α → Dev) (h : ∀ x a, (f x a).csr = x.csr) (l : List α) (d : Dev) : (l.foldl f d).csr = d.csr := by
  induction l generalizing d with
  | nil => rfl
  | cons a l ih => exact (ih (f d a)).trans (h d a)

/-- Reporting EVENT bits changes no register. -/
@[simp] theorem Dev.announce_csr (d : Dev) (p : Page) : (d.announce p).csr = d.csr := by
  unfold Dev.announce
  dsimp only
  split
  · rfl
  · exact Dev.foldl_csr (fun d _ => d.record (d.evDest p) 0x0001 (d.pageEvent p)) (fun _ _ => rfl) _ d

/-- A write of EVENT without FAULT, of bits none of which was set in this ao-cycle, clears the bits where it carries a 1 (R4, R33). -/
theorem Dev.writeEvent_csr {d : Dev} {p : Page} {v : Word} (hs : d.setsNow p 0x10 = 0) (hv : wbit v 0 = false) :
    (d.writeEvent p v).csr = (d.setReg p 0x10 (d.reg p 0x10 &&& ~~~v)).csr := by
  simp [Dev.writeEvent, hs, hv, Dev.setReg]

/-- A write of EVENT without FAULT leaves memory. -/
theorem Dev.writeEvent_mem {d : Dev} {p : Page} {v : Word} (hv : wbit v 0 = false) : (d.writeEvent p v).mem = d.mem := by
  simp only [Dev.writeEvent, hv]
  exact (Dev.regsOnly_announce _ p).mem

/-! ### Blocks whose registers have no rule of their own -/

/-- The blocks of which every block register is written by its field types alone. -/
def Blk.ByFieldType (b : Blk) : Prop := b = .clk ∨ b = .die ∨ b = .smp ∨ b = .svc ∨ b = .boot ∨ b = .mgt

theorem fieldRules_byFieldType {p : Page} (h : p.blk.ByFieldType) (off : Nat) : fieldRules p off = [] := by
  obtain h | h | h | h | h | h := h <;> simp [fieldRules, h]

theorem Dev.csrWrite_byFieldType (d : Dev) (r : Role) {p : Page} {off : Nat} (h : p.blk.ByFieldType) (hoff : 0x40 ≤ off) (v : Word) :
    d.csrWrite r p off v = d.storeReg p off v := by
  rw [Dev.csrWrite, if_neg (by omega)]
  obtain h | h | h | h | h | h := h <;> simp [cfgQueue, h]

/-- A write of a register of such a block stores the word that its field types make, and changes nothing but that word, the note of the role and the answer. -/
theorem Dev.writeWord_byFieldType {d : Dev} {r : Role} {p : Page} {off : Nat} {row : RegRow} (hb : p.blk.ByFieldType) (hoff : 0x40 ≤ off)
    (hrow : regRow p off = some row) (h : d.Takes r p) (hr : d.Ranks r p off) (v : Word) :
    d.writeWord r p off v =
      ((d.noteRole r p off).setReg p off (storeWord row (d.setsNow p off) (d.reg p off) v)).answer 0 := by
  rw [Dev.writeWord_block hoff h hr, Dev.csrWrite_byFieldType _ _ hb hoff, Dev.storeReg_eq _ hrow (fieldRules_byFieldType hb off)]
  simp

/-! ### WAITS of a destination whose wait goes on (R313) -/

/-- A read of WAITS first adds the ao-cycles of the wait that goes on. -/
theorem Dev.reg_waitsNow {d : Dev} {p : Page} {off k t : Nat} (hk : waitsKey p off = some k)
    (ht : (tgetD d.dests (64 * d.devnum + k) {}).waitAt = some t) :
    (d.waitsNow p off).reg p off = d.reg p off + BitVec.ofNat 32 (d.ao - t) := by
  simp only [Dev.waitsNow, hk, ht]
  exact Dev.reg_setReg_same _ _ _ _

/-- Counting the wait that goes on is no growth noted in this ao-cycle. -/
theorem Dev.now_waitsNow (d : Dev) (p : Page) (off : Nat) : (d.waitsNow p off).now = d.now := by
  unfold Dev.waitsNow
  cases waitsKey p off with
  | none => rfl
  | some k => dsimp only; split <;> rfl

theorem regRow_devDestWaits : regRow pDev 0xBC = some ⟨0xbc, 1, 4, 0, 0, 0, 0xffffffff, 0, 0⟩ := by decide

/-- WAITS of DEV_DEST reads as stored: no other state stands in for it. -/
theorem Dev.word_devDestWaits (d : Dev) : d.word pDev 0xBC = d.reg pDev 0xBC := by
  simp [Dev.word, Dev.deviceWord, Dev.servingWord, Dev.unitWord]

/-- Where the device destination waits since ao-cycle `t`, WAITS of DEV_DEST answers the stored word and the ao-cycles since `t`: no note of the ao-cycle holds them. -/
theorem Dev.csrRead_devDestWaits {d : Dev} {r : Role} {t : Nat} (hs : d.scrubHides r pDev 0xBC = false)
    (ht : (tgetD d.dests (64 * d.devnum + 62) {}).waitAt = some t) (ha : tget? d.now.adds (pDev.base + 0xBC) = none) :
    (d.csrRead r pDev 0xBC).2 = d.reg pDev 0xBC + BitVec.ofNat 32 (d.ao - t) := by
  have hg : ∀ e : Dev, e.grow pDev 0xBC = e := fun e => by simp [Dev.grow, uncounted]
  rw [← Dev.reg_waitsNow (p := pDev) (off := 0xBC) (by decide) ht, ← Dev.word_devDestWaits]
  simp [Dev.csrRead, hs, hg, regRow_devDestWaits, Dev.now_waitsNow, ha]

theorem Dev.resp_readWord_devDestWaits {d : Dev} {r : Role} {t : Nat} (hd : d.Gives r pDev) (hs : d.scrubHides r pDev 0xBC = false)
    (ht : (tgetD d.dests (64 * d.devnum + 62) {}).waitAt = some t) (ha : tget? d.now.adds (pDev.base + 0xBC) = none) :
    (d.readWord r pDev 0xBC).resp = (d.reg pDev 0xBC + BitVec.ofNat 32 (d.ao - t)).setWidth 64 := by
  rw [Dev.readWord, Dev.guardRead_gives hd, ← Dev.csrRead_devDestWaits hs ht ha]
  rfl

end Sys2Proof.Machine

namespace Sys2Proof.Proofs

open Sys2Proof Sys2Proof.Machine

/-- Settles O6: each clause is the word that its write stores (SCRATCH all RW, EVENT all W1C, a block register by `wbit_storeWord`), or the split of an access by its size. -/
theorem registerWriteStoresByFieldType : Obligations.RegisterWriteStoresByFieldType := by
  unfold Obligations.RegisterWriteStoresByFieldType
  refine ⟨?scratch, ?eight, ?bad, ?event, ?block⟩
  case scratch =>
    intro s r i p v hp ht hr
    refine ⟨_, exec_registerWrite_word s r v hp (by omega) (by omega), rfl, ?_⟩
    rw [Dev.writeWord_head (by omega) ht hr, Dev.writeHead_scratch]
    exact ⟨by simp, Dev.sameRegsBut_of_csr rfl, rfl, rfl⟩
  case eight =>
    intro s r off p v hp ha
    have h4 : (off + 4).toNat = off.toNat + 4 := by bv_omega
    have h8 := s.dev.writeAccess_eight r v hp ha
    rw [← h4] at h8
    refine ⟨_, _, exec_registerWrite .., exec_registerWrite .., ?_⟩
    rw [exec_registerWrite]
    exact congrArg (fun d => Host.Outcome.next (State.mk d s.pending)) h8
  case bad =>
    intro s r off size v h4 h8
    have hg : goodAccess off.toNat size.val = false := by
      rw [← Bool.not_eq_true, goodAccess_iff, not_or]
      exact ⟨h4, h8⟩
    refine ⟨_, exec_registerWrite .., rfl, ?_⟩
    rw [Dev.writeAccess_bad _ _ _ hg]
    exact ⟨rfl, rfl, rfl⟩
  case event =>
    intro s r i p v hp ht hr hs hv
    have hv0 : wbit (v.setWidth 32) 0 = false := by simpa [wbit] using hv
    have hcsr := Dev.writeEvent_csr (d := s.dev.noteRole r p 0x10) (v := v.setWidth 32) (by simpa using hs) hv0
    refine ⟨_, exec_registerWrite_word s r v hp (by omega) (by omega), rfl, ?_⟩
    rw [Dev.writeWord_head (by omega) ht hr]
    change Dev.reg ((s.dev.noteRole r p 0x10).writeEvent p _) p 0x10 = _ ∧ _
    refine ⟨?_, Dev.sameRegsBut_of_csr hcsr, Dev.writeEvent_mem hv0, rfl⟩
    rw [Dev.reg, hcsr]
    exact Dev.reg_setReg_same _ _ _ _
  case block =>
    intro s r i p k row v hp hb hoff hrow ht hr
    refine ⟨_, exec_registerWrite_word s r v hp (by omega) (by omega), rfl, ?_⟩
    rw [Dev.writeWord_byFieldType hb hoff hrow ht hr]
    refine ⟨fun j => ?_, Dev.sameRegsBut_of_csr rfl, rfl⟩
    rw [Dev.bit, Dev.reg_answer, Dev.reg_setReg_same, wbit_storeWord _ _ _ _ j.isLt]
    simp [wbit, Dev.bit]

/-- Refutes O7: WAITS of DEV_DEST is RCL as a whole, and a read of it first counts the wait that goes on (R313). The device destination waits since ao-cycle 0 and nothing is counted in ao-cycle 5: the read answers 5, where the statement has the stored word, 0. -/
theorem not_counterReadClears : ¬ Obligations.CounterReadClears := by
  unfold Obligations.CounterReadClears
  rintro ⟨hread, -, -⟩
  obtain ⟨t, ht, -, hresp, -⟩ := hread ⟨{ ao := 5, dests := [(62, { q := [⟨0, 255, 2, []⟩], waitAt := some 0 })] }, []⟩
    .operator 0 pDev 47 ⟨0xbc, 1, 4, 0, 0, 0, 0xffffffff, 0, 0⟩ (by decide) (by decide) regRow_devDestWaits rfl
    (Dev.word_devDestWaits _) (by decide) (by decide) (by decide) (by decide)
  rw [exec_rclRead_word _ _ (p := pDev) (by decide) (by decide) (by decide)] at ht
  obtain rfl := Host.Outcome.next.inj ht
  refine absurd ((Dev.resp_readWord_devDestWaits (r := .operator) (t := 0) ?_ ?_ ?_ ?_).symm.trans hresp) ?_ <;> decide

end Sys2Proof.Proofs

/-! SUPPORT. The header of every page (02, R28–R36): its words after reset, what an event and a change of STATE leave in it, CTRL writes that a page takes, the end of INIT; and the statements about them. -/

namespace Sys2Proof.Machine

/-! ### The header after reset (R28) -/

/-- The header's registers have one reset word on every page. -/
theorem resetWord_header (p : Page) {off : Nat} (h : off < 0x40) : resetWord p off = resetWord pDev off := by
  have h1 : off ≠ 0x44 := by omega
  have h2 : off ≠ 0x48 := by omega
  simp [resetWord, regRow, h, h1, h2]

/-- After reset no register word is listed: each reads its reset word. -/
theorem Dev.reg_reset (p : Page) (off : Nat) : State.reset.dev.reg p off = resetWord p off := rfl

theorem Dev.reg_reset_header (p : Page) {off : Nat} (h : off < 0x40) : State.reset.dev.reg p off = resetWord pDev off := by
  rw [Dev.reg_reset, resetWord_header p h]

/-! ### Events (R33) -/

/-- An event changes the EVENT word of its page alone. -/
theorem Dev.setEvent_csr (d : Dev) (p : Page) (i : Nat) :
    (d.setEvent p i).csr = (d.setReg p 0x10 (wputBit (d.reg p 0x10) i true)).csr := Dev.announce_csr ..

@[simp] theorem Dev.bit_setEvent_same (d : Dev) (p : Page) {i : Nat} (h : i < 32) : (d.setEvent p i).bit p 0x10 i = true := by
  rw [Dev.bit, Dev.reg, Dev.setEvent_csr, ← Dev.reg, Dev.reg_setReg_same, wbit_wputBit _ _ _ h]

@[simp] theorem Dev.reg_setEvent_off (d : Dev) (p : Page) (i : Nat) {o : Nat} (h : o ≠ 0x10) : (d.setEvent p i).reg p o = d.reg p o := by
  rw [Dev.reg, Dev.setEvent_csr, ← Dev.reg, Dev.reg_setReg_off _ _ _ h]

@[simp] theorem Dev.setEvent_mem (d : Dev) (p : Page) (i : Nat) : (d.setEvent p i).mem = d.mem := (d.regsOnly_setEvent p i).mem

/-! ### Refusal by ownership (R36) -/

/-- What a denied access leaves: zero as its answer, refused, ACCESS_DENIED, and every other register and byte as before. -/
theorem Dev.deny_effect (d : Dev) (p : Page) :
    (d.deny p).resp = 0 ∧ (d.deny p).respRefused = true ∧ (d.deny p).bit p 0x10 evDenied = true ∧
      (d.deny p).SameRegsBut d p [0x10] ∧ (d.deny p).mem = d.mem :=
  ⟨rfl, rfl, Dev.bit_setEvent_same d p (by decide), Dev.sameRegsBut_of_csr (d.setEvent_csr p evDenied), d.deny_mem p⟩

/-- A write that R36 forbids is denied, of the header and of a block register alike. -/
theorem Dev.writeWord_denied {d : Dev} {r : Role} {p : Page} (hup : d.pwr.up = true) (h : d.mayAccess r p true = false) (off : Nat) (v : Word) :
    d.writeWord r p off v = d.deny p := by
  unfold Dev.writeWord
  split
  · simp [hup, h]
  · exact Dev.guardWrite_denied hup h _

/-- A read that R36 forbids is denied. -/
theorem Dev.readWord_denied {d : Dev} {r : Role} {p : Page} (hup : d.pwr.up = true) (h : d.mayAccess r p false = false) (off : Nat) :
    d.readWord r p off = d.deny p := by
  simp [Dev.readWord, Dev.guardRead, hup, h]

/-- The housekeeping core, and like it the operator role, may access everything but for writes of SEC. -/
theorem Dev.mayAccess_housekeeping (d : Dev) (p : Page) (w : Bool) :
    d.mayAccess .housekeeping p w = true ↔ ¬ (w = true ∧ p.blk = .sec) := by
  cases w <;> simp [Dev.mayAccess]

/-- A partition has its own pages, and of the device's the reads of four. -/
theorem Dev.mayAccess_partition (d : Dev) (q : Fin 24) (p : Page) (w : Bool) :
    d.mayAccess (.partition q) p w = true ↔
      d.owner p = q.val ∨ (d.owner p = 0xFF ∧ w = false ∧ (p.blk = .dev ∨ p.blk = .clk ∨ p.blk = .thm ∨ p.blk = .sec)) := by
  by_cases hq : d.owner p = q.val
  · simp [Dev.mayAccess, hq]
  · by_cases hd : d.owner p = 0xFF
    · have hne : 255 ≠ q.val := by omega
      simp [Dev.mayAccess, hd, hne, or_assoc]
    · simp [Dev.mayAccess, hq, hd]

/-! ### STATE and the fields of CTRL (R28, R31) -/

/-- The lowest four bits of a word, after they were put. -/
theorem wfld_wput_state (w : Word) {v : Nat} (h : v < 16) : wfld (wput w 3 0 v) 3 0 = v := by
  simp only [wfld, wput, fld, setFld, BitVec.toNat_ofNat]
  omega

@[simp] theorem Dev.st_setSt (d : Dev) (p : Page) {v : Nat} (h : v < 16) : (d.setSt p v).st p = v := by
  unfold Dev.setSt
  split
  · assumption
  · rw [Dev.st, Dev.getF, Dev.reg_setEvent_off _ _ _ (by decide), Dev.setF, Dev.reg_setReg_same, wfld_wput_state _ h]

/-- A change of STATE leaves CTRL. -/
@[simp] theorem Dev.reg_setSt_ctrl (d : Dev) (p : Page) (v : Nat) : (d.setSt p v).reg p 0x08 = d.reg p 0x08 := by
  unfold Dev.setSt
  split
  · rfl
  · rw [Dev.reg_setEvent_off _ _ _ (by decide), Dev.setF, Dev.reg_setReg_off _ _ _ (by decide)]

@[simp] theorem Dev.bit_setSt_ctrl (d : Dev) (p : Page) (v i : Nat) : (d.setSt p v).bit p 0x08 i = d.bit p 0x08 i := by
  simp [Dev.bit]

@[simp] theorem Dev.setSt_mem (d : Dev) (p : Page) (v : Nat) : (d.setSt p v).mem = d.mem := (d.regsOnly_setSt p v).mem

/-- A change of CTRL leaves STATE. -/
@[simp] theorem Dev.st_setBit_ctrl (d : Dev) (p : Page) (i : Nat) (b : Bool) : (d.setBit p 0x08 i b).st p = d.st p := by
  rw [Dev.st, Dev.getF, Dev.reg_setBit_ne d i b (by omega)]
  rfl

@[simp] theorem Dev.setBit_mem (d : Dev) (p : Page) (off i : Nat) (b : Bool) : (d.setBit p off i b).mem = d.mem :=
  (d.regsOnly_setBit p off i b).mem

/-- A field of CTRL is stored and STATE follows: both read as put, and memory stays. -/
theorem Dev.setBit_setSt_effect (d : Dev) (p : Page) {i v : Nat} (b : Bool) (hi : i < 32) (hv : v < 16) :
    ((d.setBit p 0x08 i b).setSt p v).bit p 0x08 i = b ∧ ((d.setBit p 0x08 i b).setSt p v).st p = v ∧
      ((d.setBit p 0x08 i b).setSt p v).mem = d.mem := by
  simp [hi, hv]

/-- A reserved value leaves CTRL, STATE and memory, and sets INVALID_WRITE (00, R6). -/
theorem Dev.invalid_effect (d : Dev) (p : Page) :
    (d.invalid p).reg p 0x08 = d.reg p 0x08 ∧ (d.invalid p).bit p 0x10 evInvalid = true ∧ (d.invalid p).st p = d.st p ∧ (d.invalid p).mem = d.mem :=
  ⟨Dev.reg_setEvent_off _ _ _ (by decide), Dev.bit_setEvent_same _ _ (by decide), congrArg (wfld · 3 0) (Dev.reg_setEvent_off _ _ _ (by decide)),
    Dev.setEvent_mem ..⟩

/-! ### What follows a write of a CTRL field (R31) -/

/-- CTRL takes changes on a page whose domain is not OFF, in a state other than OFF, RESET, FAULTED and RETIRED. -/
theorem Dev.ctrlShut_eq_false {d : Dev} {p : Page} (hoff : d.pageOff p = false) {v : Nat} (h : d.st p = v) (hv : 2 ≤ v ∧ v ≤ 7) : d.ctrlShut p = false := by
  have hout : v ≠ 0 ∧ v ≠ 1 ∧ v ≠ 8 ∧ v ≠ 9 := by omega
  simp [Dev.ctrlShut, hoff, h, hout]

/-- Nothing but a partition has sequences that follow its CTRL. -/
theorem Dev.ctrlFollow_eq {p : Page} (h : p.blk ≠ .ptn) (d : Dev) : d.ctrlFollow p = d := by
  unfold Dev.ctrlFollow
  split
  · contradiction
  · rfl

section CtrlFields

variable {d : Dev} {p : Page} (hoff : d.pageOff p = false)
include hoff

theorem Dev.writeEnable_starts (hk : p.blk ≠ .kvp) (hl : p.blk ≠ .link) (hp : p.blk ≠ .ptn) (h : d.enabled p = false) (hs : d.st p = stReady) :
    d.writeEnable p true = (d.setBit p 0x08 0 true).setSt p stActive := by
  have hc := Dev.ctrlShut_eq_false hoff hs (by decide)
  simp [Dev.writeEnable, h, hc, hk, hl, hs, Dev.ctrlFollow_eq hp]

theorem Dev.writeEnable_stops (hk : p.blk ≠ .kvp) (hl : p.blk ≠ .link) (hp : p.blk ≠ .ptn) (h : d.enabled p = true) (hs : d.st p = stActive) :
    d.writeEnable p false = (d.setBit p 0x08 0 false).setSt p stReady := by
  have hc := Dev.ctrlShut_eq_false hoff hs (by decide)
  simp [Dev.writeEnable, h, hc, hk, hl, hs, Dev.ctrlFollow_eq hp]

theorem Dev.writeQuiesce_begins (hp : p.blk ≠ .ptn) (h : d.quiesce p = false) (hs : d.st p = stReady ∨ d.st p = stActive) :
    d.writeQuiesce p true = (d.setBit p 0x08 1 true).setSt p stQuiescing := by
  have hc : d.ctrlShut p = false := hs.elim (Dev.ctrlShut_eq_false hoff · (by decide)) (Dev.ctrlShut_eq_false hoff · (by decide))
  simp [Dev.writeQuiesce, h, hc, hs, Dev.ctrlFollow_eq hp]

theorem Dev.writeQuiesce_ends (hp : p.blk ≠ .ptn) (h : d.quiesce p = true) (hs : d.st p = stQuiescing ∨ d.st p = stQuiesced) :
    d.writeQuiesce p false = (d.setBit p 0x08 1 false).setSt p (if d.enabled p then stActive else stReady) := by
  have hc : d.ctrlShut p = false := hs.elim (Dev.ctrlShut_eq_false hoff · (by decide)) (Dev.ctrlShut_eq_false hoff · (by decide))
  have he : (d.setBit p 0x08 1 false).enabled p = d.enabled p := Dev.bit_setBit_ne d p 0x08 false (by decide)
  simp [Dev.writeQuiesce, h, hc, hs, he, Dev.ctrlFollow_eq hp]

theorem Dev.writeTest_begins (hp : p.blk ≠ .ptn) (h : d.bit p 0x08 3 = false) (hs : d.st p = stReady ∨ d.st p = stQuiesced) :
    d.writeTest p true = (d.setBit p 0x08 3 true).setSt p stTest := by
  have hc : d.ctrlShut p = false := hs.elim (Dev.ctrlShut_eq_false hoff · (by decide)) (Dev.ctrlShut_eq_false hoff · (by decide))
  simp [Dev.writeTest, h, hc, hs, Dev.ctrlFollow_eq hp]

theorem Dev.writeTest_ends (hp : p.blk ≠ .ptn) (h : d.bit p 0x08 3 = true) (hs : d.st p = stTest) :
    d.writeTest p false = (d.setBit p 0x08 3 false).setSt p stReady := by
  have hc := Dev.ctrlShut_eq_false hoff hs (by decide)
  simp [Dev.writeTest, h, hc, Dev.ctrlFollow_eq hp]

omit hoff in
/-- TEST written in any other state is a reserved value. -/
theorem Dev.writeTest_refused (h : d.bit p 0x08 3 = false) (hr : d.st p ≠ stReady) (hq : d.st p ≠ stQuiesced) :
    d.writeTest p true = d.invalid p := by
  simp [Dev.writeTest, h, hr, hq]

end CtrlFields

/-- A page that takes a write is not OFF, and the note of the writing role leaves it so. -/
theorem Dev.pageOff_of_takes {d : Dev} {r : Role} {p : Page} (h : d.Takes r p) (off : Nat) : (d.noteRole r p off).pageOff p = false := by
  obtain ⟨-, -, hoff, -⟩ := h
  exact hoff

/-- A CTRL field of a page that takes the write: the operation acts on the device with the role noted, and zero is answered. -/
theorem Dev.ctrlWrite_takes {d : Dev} {r : Role} {i : Nat} {p : Page} (hp : pageAt i = some p) (h : d.Takes r p) (hr : d.Ranks r p 0x08)
    {b : Nat} (hb : b < 32) (v : Bool) (f : Dev → Page → Bool → Dev) :
    d.ctrlWrite r i b v f = (f (d.noteRole r p 0x08) p v).answer 0 := by
  obtain ⟨hup, hmay, -, hidle⟩ := h
  have hn := Dev.roleOrder_ranks hr (wputBit (d.reg p 0x08) b v)
  simp only [Dev.ctrlWrite, hp, hup, hmay, Dev.endIdle_eq hidle, hn, wbit_wputBit _ _ v hb]
  rfl

section CtrlCommands

variable (s : State) {r : Role} {i : Fin 0x1410} {p : Page} (hp : pageAt i.val = some p) (h : s.dev.Takes r p) (hr : s.dev.Ranks r p 0x08) (v : Bool)
include hp h hr

theorem exec_ctrlEnable_takes : exec (.ctrlEnable r i v) s = .next ⟨((s.dev.noteRole r p 0x08).writeEnable p v).answer 0, s.pending⟩ :=
  congrArg (fun d => Host.Outcome.next (State.mk d s.pending)) (Dev.ctrlWrite_takes hp h hr (by decide) v _)

theorem exec_ctrlQuiesce_takes : exec (.ctrlQuiesce r i v) s = .next ⟨((s.dev.noteRole r p 0x08).writeQuiesce p v).answer 0, s.pending⟩ :=
  congrArg (fun d => Host.Outcome.next (State.mk d s.pending)) (Dev.ctrlWrite_takes hp h hr (by decide) v _)

theorem exec_ctrlTest_takes : exec (.ctrlTest r i v) s = .next ⟨((s.dev.noteRole r p 0x08).writeTest p v).answer 0, s.pending⟩ :=
  congrArg (fun d => Host.Outcome.next (State.mk d s.pending)) (Dev.ctrlWrite_takes hp h hr (by decide) v _)

end CtrlCommands

theorem exec_quiesceComplete (s : State) {i : Fin 0x1410} {p : Page} (hp : pageAt i.val = some p) :
    exec (.quiesceComplete i) s = .next ⟨s.dev.quiesceEnds p, s.pending⟩ := by
  simp [exec, execQuiesceComplete, State.upd, hp]

theorem exec_unitInitEnd (s : State) {i : Fin 0x1410} {p : Page} (hp : pageAt i.val = some p) (h : s.dev.initReady p = true) :
    exec (.unitInitEnd i) s = .next ⟨s.dev.initEnd p, s.pending⟩ := by
  simp [exec, execUnitInitEnd, State.upd, hp, h]

/-! ### The end of quiescing and of INIT (R31) -/

theorem Dev.quiesceEnds_idle {d : Dev} {p : Page} (hs : d.st p = stQuiescing) (hf : d.inFlight p = false) : d.quiesceEnds p = d.setSt p stQuiesced := by
  simp [Dev.quiesceEnds, hs, hf]

/-- The state in which a unit runs follows QUIESCE and ENABLE. -/
theorem Dev.runState_congr {d e : Dev} {p : Page} (hq : e.quiesce p = d.quiesce p) (he : e.enabled p = d.enabled p) : e.runState p = d.runState p := by
  simp only [Dev.runState, hq, he]

/-- The image of a unit names itself in VERSION.FIRMWARE and nowhere else. -/
theorem Dev.setFirmware_eq (d : Dev) (p : Page) : d.setFirmware p = d ∨ ∃ v, d.setFirmware p = d.setReg p 0x04 v := by
  unfold Dev.setFirmware
  split
  · exact .inl rfl
  · split
    · exact .inr ⟨_, rfl⟩
    · exact .inl rfl

theorem Dev.reg_setFirmware_ctrl (d : Dev) (p : Page) : (d.setFirmware p).reg p 0x08 = d.reg p 0x08 := by
  obtain h | ⟨v, h⟩ := d.setFirmware_eq p <;> simp [h]

theorem Dev.setFirmware_mem (d : Dev) (p : Page) : (d.setFirmware p).mem = d.mem := by
  obtain h | ⟨v, h⟩ := d.setFirmware_eq p <;> simp [h]

theorem Dev.runState_lt (d : Dev) (p : Page) : d.runState p < 16 := by
  unfold Dev.runState
  split
  · decide
  · split <;> decide

/-- A unit that leaves INIT: RESET_REQ reads 0, STATE is the state in which it runs. -/
theorem Dev.leaveInit_effect (d : Dev) (p : Page) :
    (d.leaveInit p).bit p 0x08 2 = false ∧ (d.leaveInit p).st p = d.runState p ∧ (d.leaveInit p).mem = d.mem := by
  have hq := Dev.bit_setBit_ne d p 0x08 false (i := 2) (j := 1) (by decide)
  have he := Dev.bit_setBit_ne d p 0x08 false (i := 2) (j := 0) (by decide)
  have hrun : ((d.setBit p 0x08 2 false).setSt p stReady).runState p = d.runState p :=
    Dev.runState_congr ((Dev.bit_setSt_ctrl ..).trans hq) ((Dev.bit_setSt_ctrl ..).trans he)
  simp [Dev.leaveInit, hrun, d.runState_lt p]

/-- The blocks whose INIT ends without an image to load. -/
theorem Dev.initEnd_plain (d : Dev) {p : Page} (h : p.blk = .die ∨ p.blk = .mmu ∨ p.blk = .dmac ∨ p.blk = .srv ∨ p.blk = .smp ∨ p.blk = .hbr) :
    d.initEnd p = (d.setFirmware p).leaveInit p := by
  obtain h | h | h | h | h | h := h <;> simp [Dev.initEnd, h]

/-! ### Cluster reset (04, R83) -/

theorem exec_clusterReset (s : State) (r : Role) (n : Fin 800) :
    exec (.clusterReset r n) s = .next ⟨s.dev.guardWrite r (pClu n) fun d => d.reqCluReset n, s.pending⟩ := rfl

end Sys2Proof.Machine

namespace Sys2Proof.Proofs

open Sys2Proof Sys2Proof.Machine

/-- Settles O3: the reset state lists no register word, so each header register reads the reset word of R28, which every page shares. -/
theorem resetLeavesEveryPageInReset : Obligations.ResetLeavesEveryPageInReset := by
  unfold Obligations.ResetLeavesEveryPageInReset
  refine ⟨⟨Memory.wf_reset, by simp [State.reset]⟩, fun i p _ => ?_, rfl, rfl, rfl, by decide, by decide, by decide, rfl⟩
  simp only [Dev.st, Dev.owner, Dev.getF, Dev.bit]
  repeat rw [Dev.reg_reset_header p (by decide)]
  decide

/-- Settles O5: R36's table by requester, and a refused access is `Dev.deny`, whatever it would read or write. -/
theorem accessRightsByRequester : Obligations.AccessRightsByRequester := by
  unfold Obligations.AccessRightsByRequester
  refine ⟨fun d p w => ⟨rfl, d.mayAccess_housekeeping p w, d.mayAccess_housekeeping p w, fun q => d.mayAccess_partition q p w⟩, ?_⟩
  intro s r i p k v hp hup
  constructor
  · intro h
    refine ⟨_, exec_registerWrite_word s r v hp (by omega) (by omega), rfl, ?_⟩
    rw [Dev.writeWord_denied hup h]
    exact s.dev.deny_effect p
  · intro h
    refine ⟨_, exec_rclRead_word s r hp (by omega) (by omega), rfl, ?_⟩
    rw [Dev.readWord_denied hup h]
    exact s.dev.deny_effect p

/-- Settles O8: a CTRL field that the page takes is one bit stored and one change of STATE (`Dev.setBit_setSt_effect`), TEST out of place is a reserved value, and INIT ends in the state that ENABLE and QUIESCE name. -/
theorem controlFieldsMoveState : Obligations.ControlFieldsMoveState := by
  unfold Obligations.ControlFieldsMoveState
  refine ⟨?fields, ?quiesced, ?initEnd⟩
  case fields =>
    intro s r i p hp hk hl hpt ht hr
    have hoff := Dev.pageOff_of_takes ht 0x08
    refine ⟨fun h hs => ?_, fun h hs => ?_, fun h hs => ?_, fun h hs => ?_, fun h hs => ?_, fun h hs => ?_, fun h hs => ?_⟩
    · refine ⟨_, exec_ctrlEnable_takes s hp ht hr true, rfl, ?_⟩
      rw [Dev.writeEnable_starts hoff hk hl hpt h hs]
      exact Dev.setBit_setSt_effect _ p true (by decide) (by decide)
    · refine ⟨_, exec_ctrlEnable_takes s hp ht hr false, rfl, ?_⟩
      rw [Dev.writeEnable_stops hoff hk hl hpt h hs]
      exact Dev.setBit_setSt_effect _ p false (by decide) (by decide)
    · refine ⟨_, exec_ctrlQuiesce_takes s hp ht hr true, rfl, ?_⟩
      rw [Dev.writeQuiesce_begins hoff hpt h hs]
      exact Dev.setBit_setSt_effect _ p true (by decide) (by decide)
    · refine ⟨_, exec_ctrlQuiesce_takes s hp ht hr false, rfl, ?_⟩
      rw [Dev.writeQuiesce_ends hoff hpt h hs]
      exact Dev.setBit_setSt_effect _ p false (by decide) (by split <;> decide)
    · refine ⟨_, exec_ctrlTest_takes s hp ht hr true, rfl, ?_⟩
      rw [Dev.writeTest_begins hoff hpt h hs]
      exact Dev.setBit_setSt_effect _ p true (by decide) (by decide)
    · refine ⟨_, exec_ctrlTest_takes s hp ht hr false, rfl, ?_⟩
      rw [Dev.writeTest_ends hoff hpt h hs]
      exact Dev.setBit_setSt_effect _ p false (by decide) (by decide)
    · refine ⟨_, exec_ctrlTest_takes s hp ht hr true, rfl, ?_⟩
      obtain ⟨hready, hquiesced⟩ : s.dev.st p ≠ stReady ∧ s.dev.st p ≠ stQuiesced := by
        obtain hs | hs | hs := hs <;> rw [hs] <;> decide
      rw [Dev.writeTest_refused (d := s.dev.noteRole r p 0x08) h hready hquiesced]
      obtain ⟨hctrl, hinv, hst, hmem⟩ := (s.dev.noteRole r p 0x08).invalid_effect p
      exact ⟨(congrArg (wbit · 3) hctrl).trans h, hinv, hst, hmem⟩
  case quiesced =>
    intro s i p hp hs hf
    refine ⟨_, exec_quiesceComplete s hp, rfl, ?_⟩
    rw [Dev.quiesceEnds_idle hs hf]
    exact ⟨Dev.st_setSt _ p (by decide), Dev.setSt_mem ..⟩
  case initEnd =>
    intro s i p hp hb hi
    refine ⟨_, exec_unitInitEnd s hp hi, rfl, ?_⟩
    rw [Dev.initEnd_plain _ hb]
    have hctrl := s.dev.reg_setFirmware_ctrl p
    obtain ⟨hreq, hst, hmem⟩ := (s.dev.setFirmware p).leaveInit_effect p
    exact ⟨hreq, hst.trans (Dev.runState_congr (congrArg (wbit · 1) hctrl) (congrArg (wbit · 0) hctrl)), hmem.trans (s.dev.setFirmware_mem p)⟩

/-- Refutes O9: a cluster reset clears the places of its buffer, and a DPA is held where the remap table of its stack has it, which need be no granule of the stack in an arbitrary state (no migration makes such an entry). Here granule 0 of stack 0 stands in the buffer of cluster 0: DPA 0, which lies outside the buffer, reads 1 before RESET_REQ and 0 after it. -/
theorem not_resetRequestsAct : ¬ Obligations.ResetRequestsAct := by
  unfold Obligations.ResetRequestsAct
  rintro ⟨hclu, -, -, -⟩
  obtain ⟨hreset, -⟩ := hclu
    ⟨{ csr := [(pDev.base + 0x0C, 3), (pPwr.base + rDom 0, 0)]
       mem := [(bufBase 0, 1)]
       stks := [(0, { remap := [(0, bufBase 0 / 2 ^ 21)] })] }, []⟩
    .security 0 (by decide)
  obtain ⟨t, ht, -, -, -, -, -, -, -, hbytes, -⟩ := hreset (by decide) (by decide) (by decide)
  rw [exec_clusterReset] at ht
  obtain rfl := Host.Outcome.next.inj ht
  exact absurd (hbytes 0 (.inl (by decide))) (by decide +kernel)

end Sys2Proof.Proofs

/-! SUPPORT. Tensor cores (03, R41–R61): the sequencing of words, one cluster cycle of a core, and the loads of the control store with the fault of a job that a bad word is; and the statements about them. -/

namespace Sys2Proof.Machine

/-! ### Sequencing by NEXT (R42) -/

theorem Core.nextIndex_step {c : Core} (h : cwNext c.word = 0) : c.nextIndex = ((c.next + 1) % 4096, c.lc0, c.lc1, false) := by
  simp [Core.nextIndex, h]

theorem Core.nextIndex_loop0 {c : Core} (h : cwNext c.word = 1) :
    c.nextIndex = if 1 < c.lc0 then (cwTarget c.word, c.lc0 - 1, c.lc1, false) else ((c.next + 1) % 4096, c.li0, c.lc1, false) := by
  simp [Core.nextIndex, h]

theorem Core.nextIndex_loop1 {c : Core} (h : cwNext c.word = 2) :
    c.nextIndex = if 1 < c.lc1 then (cwTarget c.word, c.lc0, c.lc1 - 1, false) else ((c.next + 1) % 4096, c.lc0, c.li1, false) := by
  simp [Core.nextIndex, h]

theorem Core.nextIndex_end {c : Core} (h : cwNext c.word = 3) : c.nextIndex = (c.next, c.lc0, c.lc1, true) := by
  simp [Core.nextIndex, h]

/-! ### Registers of one page -/

theorem Dev.SameRegsBut.refl (d : Dev) (p : Page) (offs : List Nat) : d.SameRegsBut d p offs := fun _ _ => rfl

theorem Dev.SameRegsBut.trans {t e d : Dev} {p : Page} {offs offs' : List Nat} (h : t.SameRegsBut e p offs) (h' : e.SameRegsBut d p offs') :
    t.SameRegsBut d p (offs ++ offs') := fun k hk =>
  (h' k fun o ho => hk o (List.mem_append_right _ ho)).trans (h k fun o ho => hk o (List.mem_append_left _ ho))

theorem Dev.SameRegsBut.ite {t e d : Dev} {p : Page} {offs : List Nat} {b : Prop} [Decidable b] (h : t.SameRegsBut d p offs) (h' : e.SameRegsBut d p offs) :
    (if b then t else e).SameRegsBut d p offs := by
  split
  · exact h
  · exact h'

/-- A register of the page that is none of the listed ones reads as before. -/
theorem Dev.SameRegsBut.reg {t d : Dev} {p : Page} {offs : List Nat} (h : t.SameRegsBut d p offs) {off : Nat} (ho : off ∉ offs) :
    t.reg p off = d.reg p off := by
  rw [Dev.reg, Dev.reg, tgetD, tgetD, h _ fun o hm he => ho (by rwa [show off = o by omega])]

/-- Whether the partition of a cluster is scrubbed follows from OWNER of the cluster's page and registers of other pages. -/
theorem Dev.SameRegsBut.scrubbed_clu {t d : Dev} {n : Nat} {offs : List Nat} (h : t.SameRegsBut d (pClu n) offs) (ho : 0x24 ∉ offs) :
    t.scrubbed (pClu n) = d.scrubbed (pClu n) := by
  have howner : t.owner (pClu n) = d.owner (pClu n) := congrArg (wfld · 7 0) (h.reg ho)
  have hst : ∀ q < 24, t.st (pPtn q) = d.st (pPtn q) := fun q hq => by
    have hbase : (pPtn q).base + 0x0C < (pClu n).base := by simp only [Page.base]; omega
    rw [Dev.st, Dev.st, Dev.getF, Dev.getF, Dev.reg, Dev.reg, tgetD, tgetD, h _ fun o _ => by omega]
  unfold Dev.scrubbed
  rw [howner]
  by_cases hq : d.owner (pClu n) < 24
  · rw [hst _ hq]
  · simp [hq]

theorem Dev.sameRegsBut_setReg (d : Dev) (p : Page) (off : Nat) (v : Word) : (d.setReg p off v).SameRegsBut d p [off] :=
  Dev.sameRegsBut_of_csr rfl

theorem Dev.sameRegsBut_setBit (d : Dev) (p : Page) (off i : Nat) (b : Bool) : (d.setBit p off i b).SameRegsBut d p [off] := by
  cases b <;> exact Dev.sameRegsBut_of_csr rfl

theorem Dev.sameRegsBut_addCount (d : Dev) (p : Page) (off n : Nat) : (d.addCount p off n).SameRegsBut d p [off] := by
  unfold Dev.addCount
  split
  · exact Dev.SameRegsBut.refl d p _
  · exact Dev.sameRegsBut_of_csr rfl

/-- A counter of a page that counts grows. -/
theorem Dev.reg_addCount_same {d : Dev} {p : Page} (h : d.scrubbed p = false) (off n : Nat) :
    (d.addCount p off n).reg p off = d.reg p off + BitVec.ofNat 32 n := by
  simp [Dev.addCount, h]

/-! ### What landing leaves of a core (R45) -/

/-- `c'` differs from `c` in what results may be written to only: the accumulator, V, the operand registers, the scales and the latches, with their marks. -/
def Core.ResultsOnly (c c' : Core) : Prop :=
  c' = { c with
    acc := c'.acc, v := c'.v, ops := c'.ops, opMarks := c'.opMarks, sa := c'.sa, sb := c'.sb, saMark := c'.saMark, sbMark := c'.sbMark
    la := c'.la, lb := c'.lb, laMark := c'.laMark, lbMark := c'.lbMark }

theorem Core.ResultsOnly.trans {a b c : Core} (h : a.ResultsOnly b) (h' : b.ResultsOnly c) : a.ResultsOnly c := by
  unfold Core.ResultsOnly at *
  rw [h', h]

theorem Core.resultsOnly_foldl {α : Type} (f : Core → α → Core) (h : ∀ c a, Core.ResultsOnly c (f c a)) (l : List α) (c : Core) :
    c.ResultsOnly (l.foldl f c) := by
  induction l generalizing c with
  | nil => rfl
  | cons a l ih => exact (h c a).trans (ih (f c a))

/-- The results of a core that are still in flight after a counted cycle (R45). -/
def Core.flightsLeft (c : Core) : List Flight := (c.flights.map fun f => { f with left := f.left - 1 }).filter fun f => f.left ≠ 0

/-- Landing takes the results due off those in flight and writes them. -/
theorem Core.land_resultsOnly (c : Core) : ({ c with flights := c.flightsLeft } : Core).ResultsOnly c.land.core := by
  unfold Core.land
  refine Core.ResultsOnly.trans ?acc (Core.resultsOnly_foldl _ ?step _ _)
  case acc => rfl
  case step =>
    intro x f
    split
    case h_5 => split <;> rfl
    all_goals rfl

@[simp] theorem Core.land_flights (c : Core) : c.land.core.flights = c.flightsLeft := by rw [c.land_resultsOnly]
@[simp] theorem Core.land_next (c : Core) : c.land.core.next = c.next := by rw [c.land_resultsOnly]
@[simp] theorem Core.land_lc0 (c : Core) : c.land.core.lc0 = c.lc0 := by rw [c.land_resultsOnly]
@[simp] theorem Core.land_lc1 (c : Core) : c.land.core.lc1 = c.lc1 := by rw [c.land_resultsOnly]
@[simp] theorem Core.land_li0 (c : Core) : c.land.core.li0 = c.li0 := by rw [c.land_resultsOnly]
@[simp] theorem Core.land_li1 (c : Core) : c.land.core.li1 = c.li1 := by rw [c.land_resultsOnly]
@[simp] theorem Core.land_store (c : Core) : c.land.core.store = c.store := by rw [c.land_resultsOnly]
@[simp] theorem Core.land_tile (c : Core) : c.land.core.tile = c.tile := by rw [c.land_resultsOnly]

/-- The word about to issue and what follows it are those from before the landings of the cycle. -/
@[simp] theorem Core.nextIndex_land (c : Core) : c.land.core.nextIndex = c.nextIndex := by
  have hword : c.land.core.word = c.word := by simp only [Core.word, Core.land_store, Core.land_next]
  simp only [Core.nextIndex, hword, Core.land_next, Core.land_lc0, Core.land_lc1, Core.land_li0, Core.land_li1]

/-- A step of a generator moves its FIFO and its address, and no result. -/
theorem Core.agStep_results (c : Core) (g : Nat) : (c.agStep g).acc = c.acc ∧ (c.agStep g).v = c.v := by
  obtain rfl | hg := eq_or_ne g 0
  · simp only [Core.agStep, Core.setFifo]
    split <;> exact ⟨rfl, rfl⟩
  · simp only [Core.agStep, Core.setFifo, hg]
    split <;> exact ⟨rfl, rfl⟩

/-! ### Cores of a device -/

@[simp] theorem Dev.core_setCore_same (d : Dev) (n k : Nat) (c : Core) : (d.setCore n k c).core n k = c := by
  simp [Dev.core, Dev.setCore]

theorem Dev.RegsOnly.core {d d' : Dev} (h : d.RegsOnly d') (n k : Nat) : d'.core n k = d.core n k := by
  rw [Dev.core, Dev.core, h.cores]

theorem Dev.RegsOnly.clu {d d' : Dev} (h : d.RegsOnly d') (n : Nat) : d'.clu n = d.clu n := by
  rw [Dev.clu, Dev.clu, h.clus]


theorem Dev.regsOnly_coreSt (d : Dev) (n k st idx cause : Nat) : d.RegsOnly (d.coreSt n k st idx cause) := rfl
theorem Dev.regsOnly_coreSticky (d : Dev) (n k i : Nat) : d.RegsOnly (d.coreSticky n k i) := d.regsOnly_setBit _ _ _ _

theorem Dev.RegsOnly.ite {d t e : Dev} {b : Prop} [Decidable b] (h : d.RegsOnly t) (h' : d.RegsOnly e) : d.RegsOnly (if b then t else e) := by
  split
  · exact h
  · exact h'

/-- STATE of CORE_STATUS reads as set. -/
theorem Dev.coreState_coreSt (d : Dev) (n k idx cause : Nat) {st : Nat} (h : st < 8) : (d.coreSt n k st idx cause).coreState n k = st := by
  rw [Dev.coreState, Dev.getF, Dev.coreSt, Dev.reg_setReg_same, wfld, fld, BitVec.toNat_ofNat]
  omega

/-! ### The issue of a word (R56, R61) -/

/-- With no error pattern stored, a read meets none. -/
theorem Dev.noteErrs_clean {d : Dev} (h : d.errs = []) (a n : Nat) : d.noteErrs a n = d := by
  simp [Dev.noteErrs, h]

theorem Dev.foldl_noteErrs_clean {d : Dev} (h : d.errs = []) (n : Nat) (l : List Nat) :
    l.foldl (fun d a => d.noteErrs (wordDpa n a) 32) d = d := by
  induction l with
  | nil => rfl
  | cons a l ih => rw [List.foldl_cons, Dev.noteErrs_clean h, ih]

/-- The registers that an issue writes: sticky bits, counters, CORE_STATUS. -/
def Dev.issueRegs (d : Dev) (n k idx : Nat) (early sat nanZero : Bool) (mac : Nat) : Dev :=
  let d := if early then d.coreSticky n k 2 else d
  let d := if sat then d.coreSticky n k 3 else d
  let d := if nanZero then d.coreSticky n k 4 else d
  let d := d.addCount (pClu n) (coreOff k + 0x10) 1
  let d := if mac ≠ 0 then d.addCount (pClu n) (coreOff k + 0x18) 1 else d
  d.coreSt n k csRunning idx 0

theorem Dev.regsOnly_issueRegs (d : Dev) (n k idx : Nat) (early sat nanZero : Bool) (mac : Nat) :
    d.RegsOnly (d.issueRegs n k idx early sat nanZero mac) := by
  have hsticky : ∀ (d : Dev) (b : Bool) (i : Nat), d.RegsOnly (if b then d.coreSticky n k i else d) := fun d b i =>
    (d.regsOnly_coreSticky n k i).ite (Dev.RegsOnly.refl d)
  refine ((hsticky d early 2).trans (hsticky _ sat 3)).trans ((hsticky _ nanZero 4).trans ?_)
  refine (Dev.regsOnly_addCount _ (pClu n) (coreOff k + 0x10) 1).trans ?_
  exact ((Dev.regsOnly_addCount _ (pClu n) (coreOff k + 0x18) 1).ite (Dev.RegsOnly.refl _)).trans (Dev.regsOnly_coreSt _ n k _ _ _)

/-- CORE_ISSUED grows by one. -/
theorem Dev.reg_issueRegs {d : Dev} {n : Nat} (h : d.scrubbed (pClu n) = false) (k idx : Nat) (early sat nanZero : Bool) (mac : Nat) :
    (d.issueRegs n k idx early sat nanZero mac).reg (pClu n) (coreOff k + 0x10) = d.reg (pClu n) (coreOff k + 0x10) + 1 := by
  have hsticky : ∀ (d : Dev) (b : Bool) (i : Nat), (if b then d.coreSticky n k i else d).SameRegsBut d (pClu n) [coreOff k + 4] := fun d b i =>
    (d.sameRegsBut_setBit (pClu n) (coreOff k + 4) i true).ite (.refl d _ _)
  have hbefore := (hsticky _ nanZero 4).trans ((hsticky _ sat 3).trans (hsticky d early 2))
  have hafter : ∀ d : Dev, ((if mac ≠ 0 then d.addCount (pClu n) (coreOff k + 0x18) 1 else d).coreSt n k csRunning idx 0).SameRegsBut d (pClu n)
      ([coreOff k] ++ [coreOff k + 0x18]) := fun d =>
    (Dev.sameRegsBut_setReg _ (pClu n) (coreOff k) _).trans ((d.sameRegsBut_addCount _ _ _).ite (.refl d _ _))
  rw [Dev.issueRegs, (hafter _).reg (by simp), Dev.reg_addCount_same ((hbefore.scrubbed_clu (by simp [coreOff]; omega)).trans h), hbefore.reg (by simp)]
  rfl

/-- A word that meets no mark issues: the core goes on by NEXT, its tile ends with END, and registers and writes of the cluster follow. -/
theorem Dev.issueWord_eq {d : Dev} {n k : Nat} (t : Tile) (hm : (d.core n k).storeMarks.contains (d.core n k).next = false)
    (hc : (d.core n k).consumes = none) (he : d.errs = []) :
    ∃ (c' : Core) (f : Clu → Clu) (early sat nanZero : Bool),
      d.issueWord n k t = ((d.setCore n k c').modClu n f).issueRegs n k (d.core n k).next early sat nanZero (cwMode (d.core n k).word) ∧
      c'.next = (d.core n k).nextIndex.1 ∧ c'.lc0 = (d.core n k).nextIndex.2.1 ∧ c'.lc1 = (d.core n k).nextIndex.2.2.1 ∧
      c'.tile = some { t with ended := (d.core n k).nextIndex.2.2.2 } ∧ c'.acc = (d.core n k).acc ∧ c'.v = (d.core n k).v := by
  unfold Dev.issueWord
  simp only [hm, hc, Dev.foldl_noteErrs_clean he]
  exact ⟨_, _, _, _, _, rfl, rfl, rfl, rfl, rfl, by simp [Core.agStep_results], by simp [Core.agStep_results]⟩

/-! ### One cluster cycle of a core (R44, R45, R56) -/

@[simp] theorem Dev.core_modClu (d : Dev) (n m k : Nat) (f : Clu → Clu) : (d.modClu n f).core m k = d.core m k := rfl
@[simp] theorem Dev.reg_modClu (d : Dev) (n : Nat) (f : Clu → Clu) (p : Page) (o : Nat) : (d.modClu n f).reg p o = d.reg p o := rfl
@[simp] theorem Dev.scrubbed_modClu (d : Dev) (n : Nat) (f : Clu → Clu) (p : Page) : (d.modClu n f).scrubbed p = d.scrubbed p := rfl
@[simp] theorem Dev.reg_setCore (d : Dev) (n k : Nat) (c : Core) (p : Page) (o : Nat) : (d.setCore n k c).reg p o = d.reg p o := rfl
@[simp] theorem Dev.scrubbed_setCore (d : Dev) (n k : Nat) (c : Core) (p : Page) : (d.setCore n k c).scrubbed p = d.scrubbed p := rfl

/-- The device with core `k` of cluster `n` counted among those that have had their turn in the cycle. -/
def Dev.takeTurn (d : Dev) (n k : Nat) : Dev := d.modClu n fun x => { x with turned := addSet x.turned k }

/-- A turn within a cycle under way takes what arbitration has found for the core. -/
theorem Dev.coreTurn_within {d : Dev} {n k : Nat} (hdom : d.dom (n / 10) = dsOn) (hcyc : (d.clu n).turned ≠ [])
    (hk : (d.clu n).turned.contains k = false) :
    d.coreTurn n k =
      (d.takeTurn n k).coreCycle n k (((d.clu n).plan.find? fun e => e.1 = k).map Prod.snd) := by
  have hbegin : d.beginTurn n k = d.takeTurn n k := by
    have hk' : k ∉ (d.clu n).turned := by simpa using hk
    simp [Dev.beginTurn, Dev.takeTurn, hk', hcyc]
  have hplan : ((d.takeTurn n k).clu n).plan = (d.clu n).plan := by
    simp [Dev.takeTurn, Dev.modClu, Dev.setClu, Dev.clu]
  simp only [Dev.coreTurn, hdom, hbegin, hplan, ne_eq, not_true_eq_false, if_false]

/-- A counted cycle of a core that loses no write: the core as its results have landed, and its sticky bits. -/
theorem Dev.landCore_lossless {d : Dev} {n k : Nat} (h : (d.core n k).land.lost = []) :
    (d.setCore n k (d.core n k).land.core).RegsOnly (d.landCore n k) ∧
      (d.landCore n k).SameRegsBut (d.setCore n k (d.core n k).land.core) (pClu n) [coreOff k + 4] := by
  have heq : d.landCore n k = if (d.core n k).land.ovf then (d.setCore n k (d.core n k).land.core).coreSticky n k 5 else d.setCore n k (d.core n k).land.core := by
    simp [Dev.landCore, h]
  rw [heq]
  exact ⟨(Dev.regsOnly_coreSticky _ n k 5).ite (.refl _), (Dev.sameRegsBut_setBit _ (pClu n) (coreOff k + 4) 5 true).ite (.refl _ _ _)⟩

/-- The cycle of a core that lost no write and whose tile has not been stopped ends without more. -/
theorem Dev.cycleEnds_lossless {d : Dev} {n k : Nat} {c : Core} {t : Tile} (ht : (d.core n k).tile = some t) (hs : t.stopped = false) (hl : c.land.lost = []) :
    d.cycleEnds n k c = d := by
  simp [Dev.cycleEnds, ht, hs, hl]

theorem exec_controlWordIssue (s : State) (n : Fin 800) (k : Fin 32) :
    exec (.controlWordIssue n k) s = .next ⟨s.dev.coreStep n k, s.pending⟩ := rfl

theorem exec_resultLand (s : State) (n : Fin 800) (k : Fin 32) :
    exec (.resultLand n k) s = .next ⟨if (s.dev.core n k).running || !s.dev.clockOn (n / 10) then s.dev else s.dev.coreTurn n k, s.pending⟩ := rfl

/-- A core that arbitration lets issue lands what is due and issues its word. -/
theorem Dev.coreCycle_issues {d : Dev} {n k : Nat} {x : Tile} (ht : (d.core n k).tile = some x) (he : x.ended = false) (hs : x.stopped = false)
    (hl : (d.core n k).land.lost = []) (hm : (d.core n k).land.core.storeMarks.contains (d.core n k).next = false)
    (hc : (d.core n k).land.core.consumes = none) (herr : d.errs = []) (hscr : d.scrubbed (pClu n) = false) :
    let e := d.coreCycle n k (some 0)
    (e.core n k).next = (d.core n k).nextIndex.1 ∧ (e.core n k).lc0 = (d.core n k).nextIndex.2.1 ∧ (e.core n k).lc1 = (d.core n k).nextIndex.2.2.1 ∧
      (e.core n k).tile.map Tile.ended = some (d.core n k).nextIndex.2.2.2 ∧
      (e.core n k).acc = (d.core n k).land.core.acc ∧ (e.core n k).v = (d.core n k).land.core.v ∧
      e.reg (pClu n) (coreOff k + 0x10) = d.reg (pClu n) (coreOff k + 0x10) + 1 ∧ e.mem = d.mem := by
  obtain ⟨hregs, hsame⟩ := d.landCore_lossless hl
  have hcore : (d.landCore n k).core n k = (d.core n k).land.core := (hregs.core n k).trans (d.core_setCore_same ..)
  have hnext : (d.core n k).land.core.next = (d.core n k).next := Core.land_next _
  obtain ⟨c', f, early, sat, nanZero, hissue, h1, h2, h3, h4, h5, h6⟩ :=
    Dev.issueWord_eq (d := d.landCore n k) (n := n) (k := k) x (by rw [hcore, hnext, hm]) (by rw [hcore, hc]) (by rw [hregs]; exact herr)
  rw [hcore, Core.nextIndex_land] at h1 h2 h3 h4
  rw [hcore] at h5 h6
  have hafter := Dev.regsOnly_issueRegs (((d.landCore n k).setCore n k c').modClu n f) n k ((d.landCore n k).core n k).next early sat nanZero
    (cwMode ((d.landCore n k).core n k).word)
  rw [← hissue] at hafter
  have hcore' : ((d.landCore n k).issueWord n k x).core n k = c' := (hafter.core n k).trans (by simp)
  have hscr' : (((d.landCore n k).setCore n k c').modClu n f).scrubbed (pClu n) = false := by
    rw [Dev.scrubbed_modClu, Dev.scrubbed_setCore, hsame.scrubbed_clu (by simp [coreOff]; omega), Dev.scrubbed_setCore, hscr]
  have hcyc : d.coreCycle n k (some 0) = (d.landCore n k).issueWord n k x := by
    simp only [Dev.coreCycle, ht, he]
    exact Dev.cycleEnds_lossless (t := { x with ended := (d.core n k).nextIndex.2.2.2 }) (by rw [hcore', h4]) hs hl
  simp only [hcyc, hcore']
  refine ⟨h1, h2, h3, by rw [h4]; rfl, h5, h6, ?_, ?_⟩
  · rw [hissue, Dev.reg_issueRegs hscr', Dev.reg_modClu, Dev.reg_setCore, hsame.reg (by simp), Dev.reg_setCore]
  · rw [hafter.mem, Dev.modClu, Dev.setClu_mem, Dev.setCore_mem, hregs.mem, Dev.setCore_mem]

/-- A core that a bank holds up is frozen with cause 3, and the cycle is counted for it and for its cluster. -/
theorem Dev.coreCycle_contends {d : Dev} {n k : Nat} {x : Tile} (ht : (d.core n k).tile = some x) (he : x.ended = false)
    (hscr : d.scrubbed (pClu n) = false) (hk : k < 32) :
    let e := d.coreCycle n k (some 3)
    e.core n k = d.core n k ∧ e.coreState n k = csFrozen ∧ e.reg (pClu n) (coreOff k + 0x14) = d.reg (pClu n) (coreOff k + 0x14) + 1 ∧
      e.reg (pClu n) 0x420 = d.reg (pClu n) 0x420 + 1 ∧ e.mem = d.mem := by
  have hcyc : d.coreCycle n k (some 3) =
      ((d.coreSt n k csFrozen (d.core n k).next 3).addCount (pClu n) (coreOff k + 0x14) 1).addCount (pClu n) 0x420 1 := by
    simp [Dev.coreCycle, ht, he, Dev.freeze]
  have h1 := Dev.sameRegsBut_setReg d (pClu n) (coreOff k) (BitVec.ofNat 32 (csFrozen % 8 + (d.core n k).next % 4096 * 16 + 3 % 16 * 65536))
  rw [← Dev.coreSt] at h1
  have h2 := (d.coreSt n k csFrozen (d.core n k).next 3).sameRegsBut_addCount (pClu n) (coreOff k + 0x14) 1
  have h3 := ((d.coreSt n k csFrozen (d.core n k).next 3).addCount (pClu n) (coreOff k + 0x14) 1).sameRegsBut_addCount (pClu n) 0x420 1
  have hscr1 := (h1.scrubbed_clu (by simp [coreOff]; omega)).trans hscr
  have hscr2 := (h2.scrubbed_clu (by simp [coreOff]; omega)).trans hscr1
  have hregs := ((d.regsOnly_coreSt n k csFrozen (d.core n k).next 3).trans (Dev.regsOnly_addCount _ (pClu n) (coreOff k + 0x14) 1)).trans
    (Dev.regsOnly_addCount _ (pClu n) 0x420 1)
  simp only [hcyc]
  refine ⟨hregs.core n k, ?state, ?frozen, ?contended, hregs.mem⟩
  case state =>
    rw [Dev.coreState, Dev.getF, h3.reg (by simp [coreOff]; omega), h2.reg (by simp)]
    exact d.coreState_coreSt n k (d.core n k).next 3 (by decide)
  case frozen =>
    rw [h3.reg (by simp [coreOff]; omega), Dev.reg_addCount_same hscr1, h1.reg (by simp)]
    rfl
  case contended =>
    rw [Dev.reg_addCount_same hscr2, h2.reg (by simp [coreOff]; omega), h1.reg (by simp [coreOff]; omega)]
    rfl

/-- A core that issues no further word lands its results. -/
theorem Dev.coreCycle_lands {d : Dev} {n k : Nat} {x : Tile} (ht : (d.core n k).tile = some x) (he : x.ended = true) (hs : x.stopped = false)
    (hl : (d.core n k).land.lost = []) (v : Option Nat) :
    (d.coreCycle n k v).core n k = (d.core n k).land.core ∧ (d.coreCycle n k v).mem = d.mem := by
  obtain ⟨hregs, -⟩ := d.landCore_lossless hl
  have hcore : (d.landCore n k).core n k = (d.core n k).land.core := (hregs.core n k).trans (d.core_setCore_same ..)
  have hcyc : d.coreCycle n k v = d.landCore n k := by
    simp only [Dev.coreCycle, ht, he, if_true]
    exact Dev.cycleEnds_lossless (hcore ▸ (Core.land_tile _).trans ht) hs hl
  rw [hcyc]
  exact ⟨hcore, hregs.mem⟩

theorem Dev.coreStep_eq {d : Dev} {n k : Nat} (hdom : d.dom (n / 10) = dsOn) (hclk : d.clockOn (n / 10) = true) (hpark : d.parkDue n k = none) :
    d.coreStep n k = d.coreTurn n k := by
  simp [Dev.coreStep, hdom, hclk, hpark]

/-! ### What leaves queues, jobs and control stores as they are -/

/-- The offsets of a page's header (R28). -/
def HeaderOff (o : Nat) : Prop := o % 0x1000 < 0x40

/-- The offsets of a page's header and of the queue slots of a cluster (R28, R82). -/
def QueueOff (o : Nat) : Prop := o % 0x1000 < 0x40 ∨ (0x80 ≤ o % 0x1000 ∧ o % 0x1000 < 0x100)

/-- From `d` to `d'` the registers of every page at the offsets `O`, the code and state of every job and the control store of every core stay. -/
structure Dev.KeepsAt (O : Nat → Prop) (d d' : Dev) : Prop where
  csr : ∀ k, O k → tget? d'.csr k = tget? d.csr k
  code : ∀ j, (d'.job j).code = (d.job j).code
  state : ∀ j, (d'.job j).state = (d.job j).state
  store : ∀ n k, (d'.core n k).store = (d.core n k).store

/-- From `d` to `d'` the header and the queue slots of every page stay, with the queues of every cluster, the code and state of every job and the control store of every core. -/
structure Dev.KeepsQueues (d d' : Dev) : Prop extends Dev.KeepsAt QueueOff d d' where
  qs : ∀ n, (d'.clu n).qs = (d.clu n).qs

theorem Dev.KeepsAt.refl (O : Nat → Prop) (d : Dev) : d.KeepsAt O d := ⟨fun _ _ => rfl, fun _ => rfl, fun _ => rfl, fun _ _ => rfl⟩

theorem Dev.KeepsAt.trans {O : Nat → Prop} {a b c : Dev} (h : a.KeepsAt O b) (h' : b.KeepsAt O c) : a.KeepsAt O c :=
  ⟨fun k hk => (h'.csr k hk).trans (h.csr k hk), fun j => (h'.code j).trans (h.code j), fun j => (h'.state j).trans (h.state j),
    fun n k => (h'.store n k).trans (h.store n k)⟩

theorem Dev.KeepsAt.mono {O O' : Nat → Prop} {d d' : Dev} (h : d.KeepsAt O d') (ho : ∀ k, O' k → O k) : d.KeepsAt O' d' :=
  ⟨fun k hk => h.csr k (ho k hk), h.code, h.state, h.store⟩

theorem Dev.KeepsQueues.refl (d : Dev) : d.KeepsQueues d := ⟨.refl _ d, fun _ => rfl⟩

theorem Dev.KeepsQueues.trans {a b c : Dev} (h : a.KeepsQueues b) (h' : b.KeepsQueues c) : a.KeepsQueues c :=
  ⟨h.toKeepsAt.trans h'.toKeepsAt, fun n => (h'.qs n).trans (h.qs n)⟩

theorem Dev.KeepsQueues.header {d d' : Dev} (h : d.KeepsQueues d') : d.KeepsAt HeaderOff d' := h.mono fun _ => .inl

/-- What touches neither registers nor clusters nor jobs nor cores. -/
theorem Dev.KeepsQueues.of_eq {d d' : Dev} (hcsr : d'.csr = d.csr) (hclus : d'.clus = d.clus) (hjobs : d'.jobs = d.jobs) (hcores : d'.cores = d.cores) :
    d.KeepsQueues d' :=
  ⟨⟨fun _ _ => by rw [hcsr], fun j => by rw [Dev.job, Dev.job, hjobs], fun j => by rw [Dev.job, Dev.job, hjobs], fun n k => by rw [Dev.core, Dev.core, hcores]⟩,
    fun n => by rw [Dev.clu, Dev.clu, hclus]⟩

/-- What touches registers only, and none at these offsets. -/
theorem Dev.RegsOnly.keepsAt {O : Nat → Prop} {d d' : Dev} (h : d.RegsOnly d') (hcsr : ∀ k, O k → tget? d'.csr k = tget? d.csr k) : d.KeepsAt O d' :=
  ⟨hcsr, fun j => by rw [Dev.job, Dev.job, h.jobs], fun j => by rw [Dev.job, Dev.job, h.jobs], fun n k => by rw [Dev.core, Dev.core, h.cores]⟩

theorem Dev.RegsOnly.keepsQueues {d d' : Dev} (h : d.RegsOnly d') (hcsr : ∀ k, QueueOff k → tget? d'.csr k = tget? d.csr k) : d.KeepsQueues d' :=
  ⟨h.keepsAt hcsr, fun n => by rw [Dev.clu, Dev.clu, h.clus]⟩

theorem Dev.KeepsQueues.ite {d t e : Dev} {b : Prop} [Decidable b] (h : d.KeepsQueues t) (h' : d.KeepsQueues e) : d.KeepsQueues (if b then t else e) := by
  split
  · exact h
  · exact h'

/-- A property that every step of a fold keeps holds after it. -/
theorem Dev.foldl_holds {α : Type} {P : Dev → Prop} {f : Dev → α → Dev} {l : List α} (h : ∀ d, ∀ a ∈ l, P d → P (f d a)) {d : Dev} (hd : P d) : P (l.foldl f d) :=
  List.foldlRecOn l f hd fun d hd a ha => h d a ha hd

theorem Dev.keepsQueues_foldl {α : Type} {f : Dev → α → Dev} {l : List α} (h : ∀ d, ∀ a ∈ l, Dev.KeepsQueues d (f d a)) (d : Dev) : d.KeepsQueues (l.foldl f d) :=
  Dev.foldl_holds (P := d.KeepsQueues) (fun e a ha he => he.trans (h e a ha)) (.refl d)

/-! ### Registers at other offsets -/

/-- Pages stand at multiples of 4 KiB (R25). -/
theorem Page.base_mod (p : Page) : p.base % 0x1000 = 0 := by
  unfold Page.base
  split
  case h_12 => split <;> omega
  all_goals omega

/-- An offset of a page that holds neither a header register nor a queue slot. -/
abbrev OtherOff (o : Nat) : Prop := 0x40 ≤ o % 0x1000 ∧ (o % 0x1000 < 0x80 ∨ 0x100 ≤ o % 0x1000)

theorem tget?_setReg_other (d : Dev) (p : Page) {off : Nat} (v : Word) (h : OtherOff off) (k : Nat) (hk : QueueOff k) :
    tget? (d.setReg p off v).csr k = tget? d.csr k := by
  refine tget?_tput_ne d.csr v fun he => ?_
  have hb := p.base_mod
  unfold QueueOff at hk
  unfold OtherOff at h
  omega

theorem Dev.keepsQueues_setReg (d : Dev) (p : Page) {off : Nat} (v : Word) (h : OtherOff off) : d.KeepsQueues (d.setReg p off v) :=
  (d.regsOnly_setReg p off v).keepsQueues (tget?_setReg_other d p v h)

theorem Dev.keepsQueues_setF (d : Dev) (p : Page) {off : Nat} (hi lo v : Nat) (h : OtherOff off) : d.KeepsQueues (d.setF p off hi lo v) :=
  d.keepsQueues_setReg p _ h

theorem Dev.keepsQueues_setPair (d : Dev) (p : Page) {lo hi : Nat} (v : Nat) (hl : OtherOff lo) (hh : OtherOff hi) : d.KeepsQueues (d.setPair p lo hi v) :=
  (d.keepsQueues_setReg p _ hl).trans (Dev.keepsQueues_setReg _ p _ hh)

theorem Dev.keepsQueues_setBit (d : Dev) (p : Page) {off : Nat} (i : Nat) (b : Bool) (h : OtherOff off) : d.KeepsQueues (d.setBit p off i b) :=
  (d.regsOnly_setBit p off i b).keepsQueues fun k hk => by
    cases b
    · exact tget?_setReg_other d p _ h k hk
    · exact tget?_setReg_other (d.noteSet p off i) p _ h k hk

theorem Dev.keepsQueues_addCount (d : Dev) (p : Page) {off : Nat} (n : Nat) (h : OtherOff off) : d.KeepsQueues (d.addCount p off n) := by
  unfold Dev.addCount
  exact .ite (.refl d) (.trans (b := d.noteAdd p off n) (.of_eq rfl rfl rfl rfl) (Dev.keepsQueues_setReg _ p _ h))

/-! ### Memory -/

theorem loc_stack_lt {a s off : Nat} (h : loc a = .stack s off) : s < 24 := by
  unfold loc at h
  split at h
  · next ha => simp only [Loc.stack.injEq] at h; omega
  · split at h
    · cases h
    · split at h <;> cases h

theorem chanOf_lt (off : Nat) : chanOf off < 32 := Nat.mod_lt _ (by decide)

theorem otherOff_flip (off : Nat) : OtherOff (0x104 + 8 * chanOf off) := by
  have := chanOf_lt off
  unfold OtherOff
  omega

theorem Dev.keepsQueues_flipApply (d : Dev) (u : Nat) : d.KeepsQueues (d.flipApply u) := by
  unfold Dev.flipApply
  split
  · next s off _ => exact .ite (.trans (d.keepsQueues_setReg (pStk s 2) _ (otherOff_flip off)) (.of_eq rfl rfl rfl rfl)) (.refl d)
  · next n off _ => exact .ite (.trans (d.keepsQueues_setReg (pClu n) _ (by decide)) (.of_eq rfl rfl rfl rfl)) (.refl d)
  · exact .refl d

theorem Dev.keepsQueues_dropErr (d : Dev) (u : Nat) : d.KeepsQueues (d.dropErr u) := by
  have h0 : d.KeepsQueues { d with errs := tdel d.errs u, injected := d.injected.filter (· ≠ u) } := .of_eq rfl rfl rfl rfl
  unfold Dev.dropErr
  refine h0.trans ?_
  dsimp only
  split
  · next s off _ => exact .ite (Dev.keepsQueues_setBit _ (pStk s 2) _ _ (otherOff_flip off)) (.refl _)
  · next n off _ => exact .ite (Dev.keepsQueues_setBit _ (pClu n) _ _ (by decide)) (.refl _)
  · exact .refl _

theorem Dev.keepsQueues_mark (d : Dev) (u : Nat) : d.KeepsQueues (d.mark u) := .of_eq rfl rfl rfl rfl

theorem Dev.keepsQueues_noteErr (d : Dev) (u : Nat) : d.KeepsQueues (d.noteErr u) := by
  have hinj : ∀ (d : Dev) (p : Page) (b : Bool) (o o' : Nat), OtherOff o → OtherOff o' → d.KeepsQueues (d.addCount p (if b then o else o') 1) :=
    fun d p b o o' h h' => d.keepsQueues_addCount p 1 (by cases b; exacts [h', h])
  unfold Dev.noteErr
  split
  · next s _ _ =>
    refine (d.keepsQueues_dropErr u).trans (.ite (.refl _) (.ite (hinj _ _ _ _ _ (by decide) (by decide)) ?_))
    exact (((d.dropErr u).keepsQueues_mark u).trans (hinj _ _ _ _ _ (by decide) (by decide))).trans (Dev.keepsQueues_addCount _ (pStk s 2) 1 (by decide))
  · refine (d.keepsQueues_dropErr u).trans (Dev.keepsQueues_foldl (fun e k _ => .ite (.refl e) (.ite (hinj _ _ _ _ _ (by decide) (by decide)) ?_)) _)
    exact (e.keepsQueues_mark _).trans (hinj _ _ _ _ _ (by decide) (by decide))
  · exact .refl d

theorem Dev.keepsQueues_noteErrs (d : Dev) (a n : Nat) : d.KeepsQueues (d.noteErrs a n) :=
  .ite (.refl d) (Dev.keepsQueues_foldl (fun e u _ => .ite (e.keepsQueues_noteErr u) (.refl e)) d)

theorem Dev.keepsQueues_overUnit (d : Dev) (a n u : Nat) : d.KeepsQueues (d.overUnit a n u) := by
  unfold Dev.overUnit
  refine Dev.KeepsQueues.trans ?_ (Dev.keepsQueues_flipApply _ u)
  split
  · exact .refl d
  · split
    · exact .ite (d.keepsQueues_noteErr u) (.ite (d.keepsQueues_dropErr u) (.of_eq rfl rfl rfl rfl))
    · exact .ite (d.keepsQueues_dropErr u) (d.keepsQueues_noteErr u)

theorem Dev.keepsQueues_overUnits (d : Dev) (a n : Nat) : d.KeepsQueues (d.overUnits a n) :=
  Dev.keepsQueues_foldl (fun e u _ => e.keepsQueues_overUnit a n u) d

theorem Dev.keepsQueues_markWrite (d : Dev) (a n : Nat) (m : Bool) : d.KeepsQueues (d.markWrite a n m) := .of_eq rfl rfl rfl rfl

theorem Dev.keepsQueues_setRawBytes (d : Dev) (a : Nat) (l : List Byte) : d.KeepsQueues (d.setRawBytes a l) := by
  induction l generalizing d a with
  | nil => exact .refl d
  | cons b l ih => exact .trans (b := d.setRawByte a b) (.of_eq rfl rfl rfl rfl) (ih _ _)

theorem Dev.keepsQueues_putUnit (d : Dev) (u : Nat) (w : Bool) (a : Nat) (bs : List Byte) : d.KeepsQueues (d.putUnit u w a bs) := by
  have hland : ∀ p : Nat → Bool, d.KeepsQueues (d.landTorn p) := fun p =>
    .ite (.refl d) (.trans (b := { d with torn := d.torn.filter fun t => !p t.1 }) (.of_eq rfl rfl rfl rfl)
      (Dev.keepsQueues_foldl (fun e _ _ => e.keepsQueues_setRawBytes _ _) _))
  unfold Dev.putUnit
  refine (hland _).trans (.ite (Dev.keepsQueues_setRawBytes _ a bs) (.trans (b := (d.landTorn fun t => t / u = a / u).takeFree.2) (.of_eq rfl rfl rfl rfl) ?_))
  refine Dev.keepsQueues_foldl (fun e part _ => ?_) _
  split
  · exact e.keepsQueues_setRawBytes _ _
  · exact .of_eq rfl rfl rfl rfl

theorem Dev.keepsQueues_writeBurst (d : Dev) (ag : Agent) (a : Nat) (bs : List Byte) (m w : Bool) : d.KeepsQueues (d.writeBurst ag a bs m w).1 := by
  unfold Dev.writeBurst
  split
  · next s _ _ =>
    have hwrite : ∀ b x, d.KeepsQueues (((d.overUnits a bs.length).markWrite a bs.length m).putUnit 64 w b x) := fun b x =>
      ((d.keepsQueues_overUnits _ _).trans (Dev.keepsQueues_markWrite _ _ _ _)).trans (Dev.keepsQueues_putUnit _ _ _ _ _)
    dsimp only
    split
    · exact d.keepsQueues_setBit (pStk s 2) _ _ (by decide)
    · split
      · exact d.keepsQueues_setBit (pStk s 0) _ _ (by decide)
      · split
        · exact .refl d
        · split <;> exact hwrite _ _
  · exact .refl d

theorem Dev.keepsQueues_writeStack (f : Nat) (d : Dev) (ag : Agent) (a : Nat) (bs : List Byte) (m w : Bool) :
    d.KeepsQueues (Dev.writeStack f d ag a bs m w).1 := by
  induction f generalizing d a bs with
  | zero => exact .refl d
  | succ f ih =>
    unfold Dev.writeStack
    split
    · exact .refl d
    · exact (d.keepsQueues_writeBurst ag a _ m w).trans (ih _ _ _)

theorem Dev.keepsQueues_writeBuf (d : Dev) (ag : Agent) (n off : Nat) (bs : List Byte) (m w : Bool) : d.KeepsQueues (d.writeBuf ag n off bs m w).1 :=
  .trans (.ite (d.keepsQueues_setBit (pClu n) _ _ (by decide)) (.refl d))
    (((Dev.keepsQueues_overUnits _ _ _).trans (Dev.keepsQueues_markWrite _ _ _ _)).trans
      (Dev.keepsQueues_foldl (fun e _ _ => e.keepsQueues_putUnit _ _ _ _) _))

/-- A write by DPA leaves queues, jobs and control stores. -/
theorem Dev.keepsQueues_writeMem (d : Dev) (ag : Agent) (a : Nat) (bs : List Byte) (m : Bool) : d.KeepsQueues (d.writeMem ag a bs m).1 := by
  unfold Dev.writeMem Dev.writeMemW
  split
  · exact Dev.keepsQueues_writeStack _ d ag a bs m false
  · exact d.keepsQueues_writeBuf ag _ _ bs m false
  · exact .refl d

/-! ### Wakes (20, R429, R430) -/

theorem loc_buf_lt {a n off : Nat} (h : loc a = .buf n off) : n < 800 := by
  unfold loc at h
  split at h
  · cases h
  · split at h
    · next ha => simp only [Loc.buf.injEq] at h; omega
    · split at h <;> cases h

theorem otherOff_dom {n : Nat} (h : n < 112) : OtherOff (rDom n) := by
  unfold OtherOff rDom
  omega

theorem Dev.keepsQueues_startWake (d : Dev) {n : Nat} (h : n < 112) : d.KeepsQueues (d.startWake n) :=
  .trans ((d.keepsQueues_setF pPwr 6 4 dsWaking (otherOff_dom h)).trans (Dev.keepsQueues_addCount _ pPwr 1 (by decide))) (.of_eq rfl rfl rfl rfl)

theorem Dev.keepsQueues_waitWake (d : Dev) (n : Nat) : d.KeepsQueues (d.waitWake n) := .ite (.refl d) (.of_eq rfl rfl rfl rfl)

theorem Dev.keepsQueues_stkDemand (d : Dev) (s : Nat) : d.KeepsQueues (d.stkDemand s) := by
  unfold Dev.stkDemand
  refine .trans (.ite (.refl d) (d.keepsQueues_startWake (by decide))) (.trans (b := Dev.modStk _ s _) (.of_eq rfl rfl rfl rfl) (.ite (.refl _) ?_))
  exact .of_eq rfl rfl rfl rfl

theorem Dev.keepsQueues_wakeDom (d : Dev) {n : Nat} (h : n < 112) : d.KeepsQueues (d.wakeDom n) := by
  have hwait : ∀ d : Dev, d.KeepsQueues ((d.waitWake n).addCount pPwr 0x5C 1) := fun d =>
    (d.keepsQueues_waitWake n).trans (Dev.keepsQueues_addCount _ pPwr 1 (by decide))
  unfold Dev.wakeDom
  refine .ite (.refl d) (.ite (d.keepsQueues_stkDemand _) (.ite (d.keepsQueues_waitWake n) (.ite ?_ (.ite (hwait d) (d.keepsQueues_startWake h)))))
  exact .trans (.ite (.refl d) (d.keepsQueues_startWake (by decide))) (hwait _)

theorem Dev.keepsQueues_memDemand (d : Dev) (a : Nat) : d.KeepsQueues (d.memDemand a) := by
  unfold Dev.memDemand
  split
  · next s _ hloc =>
    have hs := loc_stack_lt hloc
    exact .ite (.refl d) (.ite ((d.keepsQueues_stkDemand s).trans (Dev.keepsQueues_setF _ pPwr _ _ _ (otherOff_dom (by omega)))) (d.keepsQueues_stkDemand s))
  · next n _ hloc =>
    have hn := loc_buf_lt hloc
    exact .ite (.refl d) (d.keepsQueues_wakeDom (by omega))
  · exact .refl d

/-! ### Reads of partition memory (12, R241; 13, R261–R263) -/

theorem Dev.keepsQueues_keepWalk (d : Dev) (holder : Option Nat) (p pva : Nat) (w : Walk) (hit : Option TlbEntry) (leafToo : Bool) :
    d.KeepsQueues (d.keepWalk holder p pva w hit leafToo) := by
  have hput : ∀ (d : Dev) (t : TlbEntry), d.KeepsQueues (d.tlbPut t) := fun _ _ => .of_eq rfl rfl rfl rfl
  unfold Dev.keepWalk
  cases holder with
  | none => exact .refl d
  | some h =>
    have htouch : d.KeepsQueues (match hit with | some t => d.tlbPut t | none => d) := by
      cases hit
      exacts [.refl d, hput d _]
    refine htouch.trans (.trans (Dev.keepsQueues_foldl (fun e _ _ => hput e _) _) (.ite ?_ (.refl _)))
    exact Dev.keepsQueues_setBit _ (pStk (h - 0x2000) 1) _ _ (by decide)

theorem Dev.keepsQueues_xlate (d : Dev) (holder : Option Nat) (p pva : Nat) (w : Bool) : d.KeepsQueues (d.xlate holder p pva w).1 := by
  have hcount : ∀ l : List (Nat × Nat), d.KeepsQueues (if l.isEmpty then d else d.addCount pMmu 0x44 l.length) := fun l =>
    .ite (.refl d) (d.keepsQueues_addCount pMmu _ (by decide))
  have hlast : ∀ d : Dev, d.KeepsQueues (d.lastFault p pva) := fun d => d.keepsQueues_setPair (pPtn p) (lo := 0x208) (hi := 0x20C) pva (by decide) (by decide)
  unfold Dev.xlate
  dsimp only
  split
  · exact ((hcount _).trans (Dev.keepsQueues_keepWalk _ _ _ _ _ _ _)).trans (hlast _)
  · split
    · exact ((hcount _).trans (Dev.keepsQueues_keepWalk _ _ _ _ _ _ _)).trans (hlast _)
    · split
      · exact ((hcount _).trans (Dev.keepsQueues_keepWalk _ _ _ _ _ _ _)).trans (hlast _)
      · exact (hcount _).trans (Dev.keepsQueues_keepWalk _ _ _ _ _ _ _)

theorem Dev.keepsQueues_xlRange (d : Dev) (holder : Option Nat) (p pva n : Nat) (w : Bool) : d.KeepsQueues (d.xlRange holder p pva n w).1 := by
  have hgo : ∀ (f : Nat) (d : Dev) (pva n : Nat), d.KeepsQueues (Dev.xlRangeGo holder p w f d pva n).1 := by
    intro f
    induction f with
    | zero => exact fun d _ _ => .refl d
    | succ f ih =>
      intro d pva n
      unfold Dev.xlRangeGo
      split
      · exact .refl d
      · have hx := d.keepsQueues_xlate holder p pva w
        dsimp only
        split
        · next e _ heq => rw [heq] at hx; exact hx
        · next e _ heq =>
          rw [heq] at hx
          have hrest := ih e (pva + min n (65536 - pva % 65536)) (n - min n (65536 - pva % 65536))
          split
          · next heq' => rw [heq'] at hrest; exact hx.trans hrest
          · next heq' => rw [heq'] at hrest; exact hx.trans hrest
  exact hgo _ d pva n

theorem Dev.keepsQueues_routeOp (d : Dev) (o : HeldOp) : d.KeepsQueues (d.routeOp o) := by
  unfold Dev.routeOp
  split
  · exact .of_eq rfl rfl rfl rfl
  · cases o.req <;> exact .of_eq rfl rfl rfl rfl

theorem Dev.keepsQueues_sendOp (d : Dev) (o : HeldOp) : d.KeepsQueues (d.sendOp o) := by
  unfold Dev.sendOp
  dsimp only
  split
  · exact .of_eq rfl rfl rfl rfl
  · exact .trans (b := { d with routes := tput d.routes o.peer (d.routeSet o.peer) }) (.of_eq rfl rfl rfl rfl) (Dev.keepsQueues_routeOp _ o)

theorem Dev.keepsQueues_farAsk (d : Dev) (who job domain : Nat) (l : List Seg) : d.KeepsQueues (d.farAsk who job domain l) := by
  have hread : ∀ (d : Dev) (peer a n : Nat) (what : ReqFor), d.KeepsQueues (d.sendRead peer job domain a n what).2 := fun d peer a n what =>
    .trans (b := d.takeId.2.takeTag.2) (.of_eq rfl rfl rfl rfl) (Dev.keepsQueues_sendOp _ _)
  refine Dev.keepsQueues_foldl (fun e s _ => .ite (.refl e) ?_) d
  exact (hread e _ _ _ _).trans (.of_eq rfl rfl rfl rfl)

theorem Dev.keepsQueues_farEnd (d : Dev) (who : Nat) : d.KeepsQueues (d.farEnd who) := .ite (.refl d) (.of_eq rfl rfl rfl rfl)

theorem Dev.keepsQueues_writeBackLine (d : Dev) (l : DieLine) : d.KeepsQueues (d.writeBackLine l) := .ite (d.keepsQueues_writeMem _ _ _ _) (.refl d)

theorem Dev.keepsQueues_shedBad (d : Dev) (die ptn b : Nat) : d.KeepsQueues (d.shedBad die ptn b) := by
  unfold Dev.shedBad
  split
  · next l _ =>
    have hdrop : d.KeepsQueues ((d.writeBackLine l).dropLines fun x => x.die = die && x.ptn = ptn && x.burst = b) :=
      (d.keepsQueues_writeBackLine l).trans (.of_eq rfl rfl rfl rfl)
    exact .ite (hdrop.trans (Dev.keepsQueues_addCount _ (pDie die) _ (by decide))) (.refl d)
  · exact .refl d

theorem Dev.keepsQueues_cleanLine (d : Dev) (die ptn b : Nat) : d.KeepsQueues (d.cleanLine die ptn b) := by
  unfold Dev.cleanLine
  split
  · exact .ite ((d.keepsQueues_writeBackLine _).trans (.of_eq rfl rfl rfl rfl)) (.refl d)
  · exact .refl d

theorem Dev.keepsQueues_cachedBurst (d : Dev) (die ptn : Nat) (ag : Agent) (b : Nat) (vol : Bool) : d.KeepsQueues (d.cachedBurst die ptn ag b vol).1 := by
  have hline : d.KeepsQueues (if vol then (d.shedBad die ptn b).cleanLine die ptn b else d.shedBad die ptn b) :=
    .ite ((d.keepsQueues_shedBad die ptn b).trans (Dev.keepsQueues_cleanLine _ die ptn b)) (d.keepsQueues_shedBad die ptn b)
  unfold Dev.cachedBurst
  dsimp only
  split
  · exact hline
  · exact (hline.trans (Dev.keepsQueues_noteErrs _ _ _)).trans (.ite (.refl _) (.of_eq rfl rfl rfl rfl))

theorem Dev.keepsQueues_cachedRead (d : Dev) (die ptn : Nat) (ag : Agent) (a n : Nat) (vol : Bool) : d.KeepsQueues (d.cachedRead die ptn ag a n vol).1 := by
  unfold Dev.cachedRead
  split
  · exact List.foldlRecOn (motive := fun acc : Dev × List Byte × Bool => d.KeepsQueues acc.1) _ _ (.refl d)
      fun acc h i _ => h.trans (acc.1.keepsQueues_cachedBurst die ptn ag _ vol)
  · exact d.keepsQueues_noteErrs a n

theorem Dev.keepsQueues_segBytes (d : Dev) (die : Option Nat) (who ptn : Nat) (ag : Agent) (vol : Bool) (l : List Seg) :
    d.KeepsQueues (d.segBytes die who ptn ag vol l).1 := by
  induction l generalizing d with
  | nil => exact .refl d
  | cons s l ih =>
    unfold Dev.segBytes
    refine Dev.KeepsQueues.trans ?_ (ih _)
    dsimp only
    split
    · exact .refl d
    · split
      · exact d.keepsQueues_cachedRead _ ptn ag _ _ vol
      · exact d.keepsQueues_noteErrs _ _

/-- A read of partition memory leaves queues, jobs and control stores, whatever it comes to. -/
theorem Dev.keepsQueues_fetch (d : Dev) (holder die : Option Nat) (ag : Agent) (p pva n : Nat) (vol : Bool) :
    d.KeepsQueues (d.fetch holder die ag p pva n vol).1 := by
  have hkeep : d.KeepsQueues (d.fetchKeep holder die ag p pva n vol).1 := by
    have hx := d.keepsQueues_xlRange holder p pva n false
    unfold Dev.fetchKeep
    split
    · next heq => rw [heq] at hx; exact hx
    · next e l heq =>
      rw [heq] at hx
      refine hx.trans ?_
      have hask := e.keepsQueues_farAsk (holder.getD (svcReader p)) (ag.job.getD noJob) (e.linkDomain p) l
      dsimp only
      split
      · exact Dev.keepsQueues_foldl (fun f _ _ => .ite (.refl f) (f.keepsQueues_memDemand _)) e
      · split
        · refine Dev.keepsQueues_foldl (fun f _ _ => .ite ?_ (.refl f)) e
          split
          · exact f.keepsQueues_setBit _ _ _ (by decide)
          · exact .refl f
        · split
          · exact (hask.trans (Dev.keepsQueues_farEnd _ _)).trans (Dev.keepsQueues_setPair _ _ _ (by decide) (by decide))
          · split
            · exact hask
            · have hseg := (e.farAsk (holder.getD (svcReader p)) (ag.job.getD noJob) (e.linkDomain p) l).keepsQueues_segBytes die
                (holder.getD (svcReader p)) p ag vol l
              split <;> next heq' => rw [heq'] at hseg; exact hask.trans hseg
  unfold Dev.fetch
  split
  · next heq => rw [heq] at hkeep; exact hkeep
  · next heq => rw [heq] at hkeep; exact hkeep.trans (Dev.keepsQueues_farEnd _ _)

/-! ### The outcome of an item (14, R303, R304) -/

theorem Dev.keepsQueues_segOps (d : Dev) (peer cls mid domain : Nat) (data : List Byte) (l : List Nat) :
    d.KeepsQueues (d.segOps peer cls mid domain data l).2 := by
  induction l generalizing d with
  | nil => exact .refl d
  | cons i l ih => exact .trans (b := d.takeId.2) (.of_eq rfl rfl rfl rfl) (ih _)

theorem Dev.keepsQueues_sendMsgAs (d : Dev) (peer cls mid domain : Nat) (data : List Byte) : d.KeepsQueues (d.sendMsgAs peer cls mid domain data) := by
  have hops := d.keepsQueues_segOps peer cls mid domain data (List.range (ceilDiv data.length 8192))
  unfold Dev.sendMsgAs
  generalize d.segOps peer cls mid domain data (List.range (ceilDiv data.length 8192)) = r at hops ⊢
  obtain ⟨ops, e⟩ := r
  have hkept : e.KeepsQueues { e with outMsgs := e.outMsgs ++ [⟨mid, peer, cls, data, none, ops.map HeldOp.id, domain⟩] } := .of_eq rfl rfl rfl rfl
  exact (hops.trans hkept).trans (Dev.keepsQueues_foldl (fun f o _ => f.keepsQueues_sendOp o) _)

theorem Dev.keepsQueues_sendMsgTo (d : Dev) (peer cls domain : Nat) (data : List Byte) : d.KeepsQueues (d.sendMsgTo peer cls domain data) :=
  have hnumber : d.KeepsQueues { d with nextMid := (d.nextMid + 1) % 2 ^ 32 } := .of_eq rfl rfl rfl rfl
  hnumber.trans (Dev.keepsQueues_sendMsgAs _ _ _ _ _ _)

theorem Dev.keepsQueues_sendUp (d : Dev) (data : List Byte) : d.KeepsQueues (d.sendUp data) :=
  .ite (.refl d) (.ite (.of_eq rfl rfl rfl rfl) (d.keepsQueues_sendMsgTo _ _ _ _))

theorem Dev.keepsQueues_mgtSend (d : Dev) (eid kind : Nat) (body : List Byte) : d.KeepsQueues (d.mgtSend eid kind body) :=
  have hout : d.KeepsQueues (d.out (.mctp eid 0x7F (leBytes 1 kind ++ body))) := .of_eq rfl rfl rfl rfl
  hout.trans (Dev.keepsQueues_addCount _ pMgt 1 (by decide))

theorem Dev.keepsQueues_finishMsg (d : Dev) (m : WorkMsg) : d.KeepsQueues (d.finishMsg m) := by
  have hgone : d.KeepsQueues { d with work := d.work.filter fun x => x.id ≠ m.id } := .of_eq rfl rfl rfl rfl
  unfold Dev.finishMsg
  refine hgone.trans (.ite ?_ (.refl _))
  split
  · exact Dev.keepsQueues_mgtSend _ _ _ _
  · exact Dev.keepsQueues_sendUp _ _

theorem Dev.keepsQueues_putWork (d : Dev) (m : WorkMsg) : d.KeepsQueues (d.putWork m) := .of_eq rfl rfl rfl rfl

theorem Dev.keepsQueues_settleSeq (f : Nat) (d : Dev) (ptn : Nat) : d.KeepsQueues (Dev.settleSeq f d ptn) := by
  induction f generalizing d with
  | zero => exact .refl d
  | succ f ih =>
    unfold Dev.settleSeq
    split
    · exact .refl d
    · split
      · exact .refl d
      · exact .ite (.refl d) (.ite (d.keepsQueues_putWork _) (.trans (.ite (d.keepsQueues_finishMsg _) (d.keepsQueues_putWork _)) (ih _)))

theorem Dev.keepsQueues_post (d : Dev) (msg item code info : Nat) : d.KeepsQueues (d.post msg item code info) := by
  unfold Dev.post
  split
  · exact .of_eq rfl rfl rfl rfl
  · split
    · exact .refl d
    · exact .ite (.refl d) (.trans (.ite (d.keepsQueues_finishMsg _) (d.keepsQueues_putWork _)) (Dev.keepsQueues_settleSeq _ _ _))

/-! ### The abort of a job in a cluster (04, R80) -/

theorem mem_maskBits {w m i : Nat} : i ∈ maskBits w m ↔ i < w ∧ bitOf m i = true := by
  simp [maskBits]

theorem Dev.clu_modClu (d : Dev) (n m : Nat) (f : Clu → Clu) : (d.modClu n f).clu m = if m = n then f (d.clu n) else d.clu m :=
  tgetD_tput d.clus n m (f (d.clu n)) {}

@[simp] theorem Dev.clu_modClu_same (d : Dev) (n : Nat) (f : Clu → Clu) : (d.modClu n f).clu n = f (d.clu n) := by
  rw [Dev.clu_modClu, if_pos rfl]

/-- A change of a cluster other than of its queues. -/
theorem Dev.keepsQueues_modClu (d : Dev) (n : Nat) {f : Clu → Clu} (hf : ∀ c, (f c).qs = c.qs) : d.KeepsQueues (d.modClu n f) where
  csr _ _ := rfl
  code _ := rfl
  state _ := rfl
  store _ _ := rfl
  qs m := by
    rw [Dev.clu_modClu]
    split
    · next h => rw [h, hf]
    · rfl

/-- A change of a core other than of its control store. -/
theorem Dev.keepsQueues_setCore (d : Dev) (n k : Nat) {c : Core} (hc : c.store = (d.core n k).store) : d.KeepsQueues (d.setCore n k c) where
  csr _ _ := rfl
  code _ := rfl
  state _ := rfl
  store m i := by
    have := tgetD_tput d.cores (32 * n + k) (32 * m + i) c {}
    rw [Dev.core, Dev.setCore, this]
    split
    · next h => rw [hc, Dev.core, Dev.core, h]
    · rfl
  qs _ := rfl

/-- A change of a job other than of its code and state. -/
theorem Dev.keepsQueues_modJob (d : Dev) (j : Nat) {f : Job → Job} (hc : (f (d.job j)).code = (d.job j).code) (hs : (f (d.job j)).state = (d.job j).state) :
    d.KeepsQueues (d.modJob j f) := by
  have hjob : ∀ i, (d.modJob j f).job i = if i = j then f (d.job j) else d.job i := fun i => tgetD_tput d.jobs j i _ {}
  refine ⟨⟨fun _ _ => rfl, fun i => ?_, fun i => ?_, fun _ _ => rfl⟩, fun _ => rfl⟩ <;> rw [hjob] <;> split
  · next h => rw [hc, h]
  · rfl
  · next h => rw [hs, h]
  · rfl

theorem Dev.keepsQueues_scoreFree (d : Dev) (n rd wr : Nat) : d.KeepsQueues (d.scoreFree n rd wr) := by
  have hscore : ∀ m, ∀ r ∈ regions m, OtherOff (rScore r) := fun m r hr => by
    have hlt := (mem_maskBits.1 hr).1
    unfold OtherOff rScore
    omega
  refine (Dev.keepsQueues_foldl (fun e r hr => ?_) d).trans (Dev.keepsQueues_foldl (fun e r hr => ?_) _)
  · exact .trans (e.keepsQueues_modClu n (f := fun c => { c with readers := tset c.readers r (e.readers n r - 1) 0 }) fun _ => rfl)
      (Dev.keepsQueues_setF _ (pClu n) _ _ _ (hscore rd r (List.mem_filter.1 hr).1))
  · exact e.keepsQueues_setBit (pClu n) 8 false (hscore wr r hr)

theorem Dev.keepsQueues_settleOverrun (d : Dev) (j : Nat) : d.KeepsQueues (d.settleOverrun j) := by
  refine .ite (.refl d) ?_
  unfold Dev.chargeOverrun Dev.accrueOverrun
  split
  · exact .refl d
  · exact .trans (d.keepsQueues_modJob j rfl rfl) (Dev.keepsQueues_addCount _ (pPtn _) _ (by decide))

theorem otherOff_core {k : Nat} (h : k < 32) : OtherOff (coreOff k) := by
  unfold OtherOff coreOff
  omega

theorem Dev.keepsQueues_coreSt (d : Dev) (n : Nat) {k : Nat} (h : k < 32) (st idx cause : Nat) : d.KeepsQueues (d.coreSt n k st idx cause) :=
  d.keepsQueues_setReg (pClu n) _ (otherOff_core h)

theorem Dev.keepsQueues_coreIdle (d : Dev) (n : Nat) {k : Nat} (h : k < 32) : d.KeepsQueues (d.coreIdle n k) := by
  unfold Dev.coreIdle
  refine (d.keepsQueues_setCore n k (c := { d.core n k with tile := none, fifo0 := [], fifo1 := [], retiring := false }) rfl).trans
    (.trans ?settled (.ite ?retiring (Dev.keepsQueues_coreSt _ n h _ _ _)))
  case settled =>
    split
    · exact Dev.keepsQueues_settleOverrun _ _
    · exact .refl _
  case retiring =>
    exact (Dev.keepsQueues_setBit _ (pClu n) k false (by decide)).trans (Dev.keepsQueues_coreSt _ n h _ _ _)

theorem Dev.keepsQueues_stopTile (d : Dev) (n : Nat) {k : Nat} (h : k < 32) : d.KeepsQueues (d.stopTile n k) := by
  unfold Dev.stopTile
  dsimp only
  split
  · exact .refl d
  · next t _ =>
    have hfree := d.keepsQueues_scoreFree n t.readR t.writeR
    refine .ite (.refl d) ?_
    have hset := hfree.trans (Dev.keepsQueues_setCore (d.scoreFree n t.readR t.writeR) n k
      (c := { d.core n k with tile := some { t with ended := true, stopped := true }, fifo0 := [], fifo1 := [] }) (hfree.store n k).symm)
    exact .ite (hset.trans (Dev.keepsQueues_coreIdle _ n h)) hset

theorem Dev.keepsQueues_noteSecure (d : Dev) (ag : Agent) (a n : Nat) : d.KeepsQueues (d.noteSecure ag a n) := by
  unfold Dev.noteSecure
  split
  · exact .ite (d.keepsQueues_setBit _ _ _ (by decide)) (.refl d)
  · exact .refl d

/-- The device after an access of the merge unit. -/
def MergeStep.dev : MergeStep → Dev
  | .goes d _ => d
  | .marked d _ => d

theorem MergeStep.dev_goes (d : Dev) (m : MergeRun) : (MergeStep.goes d m).dev = d := rfl
theorem MergeStep.dev_marked (d : Dev) (a : Nat) : (MergeStep.marked d a).dev = d := rfl

theorem Dev.keepsQueues_mergeStep (d : Dev) (n : Nat) (m : MergeRun) : d.KeepsQueues (d.mergeStep n m).dev := by
  have hread := (d.keepsQueues_noteErrs (wordDpa n m.nextWord) 32).trans
    (Dev.keepsQueues_noteSecure _ (agPtn (tgetD d.jobs m.job {}).ptn (some m.job)) (wordDpa n m.nextWord) 32)
  unfold Dev.mergeStep
  dsimp only
  split
  · rw [MergeStep.dev_marked]
    exact hread
  · split
    · rw [MergeStep.dev_goes]
      exact hread
    · rw [MergeStep.dev_goes]
      exact hread.trans (Dev.keepsQueues_writeMem _ _ _ _ _)

/-- The accesses of the merge unit, under a name that the kernel does not evaluate. -/
theorem Dev.mergeStep_named : ∃ step, step = Dev.mergeStep := ⟨_, rfl⟩

/-- What every access of the merge unit keeps, the end of its work on an aborted command keeps. -/
theorem Dev.mergeAbort_holds {P : Dev → Prop} (n : Nat) (h : ∀ d m, P d → P (d.mergeStep n m).dev) (f : Nat) (d : Dev) (m : MergeRun) (hd : P d) :
    P (Dev.mergeAbort n f d m) := by
  obtain ⟨step, hs⟩ := Dev.mergeStep_named
  delta Dev.mergeAbort Dev.mergeAbort._f
  rw [← hs] at h ⊢
  clear hs
  induction f generalizing d m with
  | zero => exact hd
  | succ f ih =>
    have hstep := h d m hd
    change P (if m.over then d else match step d n m with
      | .marked d _ => d
      | .goes d x => if x.c ≠ m.c then d else _)
    split
    · exact hd
    · cases heq : step d n m with
      | goes e x =>
        rw [heq] at hstep
        dsimp only
        split
        · exact hstep
        · exact ih e x hstep
      | marked e a => rw [heq] at hstep; exact hstep

theorem Dev.keepsQueues_mergeAbort (n f : Nat) (d : Dev) (m : MergeRun) : d.KeepsQueues (Dev.mergeAbort n f d m) :=
  Dev.mergeAbort_holds (P := d.KeepsQueues) n (fun e m he => he.trans (e.keepsQueues_mergeStep n m)) f d m (.refl d)

theorem Dev.keepsQueues_abortHolds (d : Dev) (u : UnitKey) (j : Nat) : d.KeepsQueues (d.abortHolds u j) := by
  refine Dev.keepsQueues_foldl (fun e h hh => .ite ?_ (.refl e)) d
  have hlt := List.mem_range.1 hh
  have hoff : ∀ i < 16, OtherOff (rHold h + i) := fun i hi => by
    unfold OtherOff rHold
    omega
  exact ((e.keepsQueues_setReg (pPtn _) 0 (hoff 0 (by decide))).trans (Dev.keepsQueues_setReg _ (pPtn _) 0 (hoff 4 (by decide)))).trans
    (Dev.keepsQueues_setReg _ (pPtn _) 0 (hoff 8 (by decide)))

theorem Dev.keepsQueues_dropHeld (d : Dev) (u : UnitKey) (q reason : Nat) : d.KeepsQueues (d.dropHeld u q reason) :=
  Dev.keepsQueues_foldl (fun e _ _ => e.keepsQueues_post _ _ _ _) d

/-- Queue `q` of cluster `n` has stopped with a fault: it is FAULTED, with the code, and empty (R80, R82). -/
def Dev.QueueStopped (d : Dev) (n q code : Nat) : Prop :=
  d.qMark n q = 5 ∧ d.getF (pClu n) (qOff n q + 0xC) 15 0 = code ∧ d.qCmds n q = []

theorem uPage_clu {n : Nat} (h : n < 0x2000) : uPage n = pClu n := by simp [uPage, h]

theorem qOff_clu {n : Nat} (h : n < 0x2000) (q : Nat) : qOff n q = 0x80 + 16 * q := by
  have hlt : n < 0x4000 := by omega
  simp [qOff, hlt]

theorem Dev.qCmds_clu (d : Dev) {n : Nat} (h : n < 0x2000) (q : Nat) : d.qCmds n q = ((d.clu n).q q).cmds.map BitVec.toNat := by simp [Dev.qCmds, h]

/-- A register of a page at a kept offset reads as before. -/
theorem Dev.KeepsAt.reg {O : Nat → Prop} {d d' : Dev} (h : d.KeepsAt O d') {p : Page} {off : Nat} (ho : O (p.base + off)) : d'.reg p off = d.reg p off := by
  rw [Dev.reg, Dev.reg, tgetD, tgetD, h.csr _ ho]

theorem Dev.KeepsAt.reg_header {d d' : Dev} (h : d.KeepsAt HeaderOff d') (p : Page) {off : Nat} (ho : off < 0x40) : d'.reg p off = d.reg p off :=
  h.reg (by have := p.base_mod; unfold HeaderOff; omega)

theorem Dev.KeepsQueues.reg_slot {d d' : Dev} (h : d.KeepsQueues d') (p : Page) {off : Nat} (ho : 0x80 ≤ off ∧ off < 0x100) : d'.reg p off = d.reg p off :=
  h.toKeepsAt.reg (by have := p.base_mod; unfold QueueOff; omega)

theorem Dev.KeepsQueues.qCmds {d d' : Dev} (h : d.KeepsQueues d') {n : Nat} (hn : n < 0x2000) (q : Nat) : d'.qCmds n q = d.qCmds n q := by
  rw [Dev.qCmds_clu _ hn, Dev.qCmds_clu _ hn, Clu.q, Clu.q, h.qs n]

theorem Dev.KeepsQueues.queueStopped {d d' : Dev} (h : d.KeepsQueues d') {n q code : Nat} (hn : n < 0x2000) (hq : q < 8) (hs : d.QueueStopped n q code) :
    d'.QueueStopped n q code := by
  unfold Dev.QueueStopped Dev.qMark Dev.getF at *
  rwa [h.reg_slot _ (by rw [qOff_clu hn]; omega), h.reg_slot _ (by rw [qOff_clu hn]; omega), h.qCmds hn]

theorem Dev.clu_modGq_q (d : Dev) (n i : Nat) (f : Gq → Gq) {q : Nat} (hq : q < 8) :
    ((d.modGq n i f).clu n).q q = if q = i then f ((d.clu n).q q) else (d.clu n).q q := by
  simp [Dev.modGq, Clu.q, hq]

/-- A field at the low end of a word, after it was put. -/
theorem wfld_wput_low (w : Word) {hi v : Nat} (hhi : hi < 32) (h : v < 2 ^ (hi + 1)) : wfld (wput w hi 0 v) hi 0 = v := by
  have hdvd : 2 ^ (hi + 1) ∣ 2 ^ 32 := Nat.pow_dvd_pow 2 hhi
  simp only [wfld, wput, fld, setFld, BitVec.toNat_ofNat, Nat.sub_zero, pow_zero, Nat.div_one, Nat.mul_one, Nat.mod_one, Nat.add_zero]
  rw [Nat.mod_mod_of_dvd _ hdvd, Nat.mul_comm, Nat.mul_add_mod, Nat.mod_mod, Nat.mod_eq_of_lt h]

/-- The state and the fault code of a queue are written to its slot alone. -/
theorem Dev.sameRegsBut_setQFault (d : Dev) {n : Nat} (hn : n < 0x2000) (q v code : Nat) :
    ((d.setQMark n q v).setQFault n q code).SameRegsBut d (pClu n) ([0x80 + 16 * q + 0xC] ++ [0x80 + 16 * q + 8]) := by
  unfold Dev.setQMark Dev.setQFault
  rw [uPage_clu hn, qOff_clu hn]
  exact (Dev.sameRegsBut_setReg _ (pClu n) _ _).trans (d.sameRegsBut_setReg (pClu n) _ _)

theorem Dev.regsOnly_setQFault (d : Dev) (u : UnitKey) (q v code : Nat) : d.RegsOnly ((d.setQMark u q v).setQFault u q code) :=
  (d.regsOnly_setF (uPage u) _ _ _ _).trans (Dev.regsOnly_setF _ (uPage u) _ _ _ _)

/-- What is written to the slot of a queue leaves headers. -/
theorem Dev.keepsAt_setQFault (d : Dev) {n : Nat} (hn : n < 0x2000) {q : Nat} (hq : q < 8) (v code : Nat) :
    d.KeepsAt HeaderOff ((d.setQMark n q v).setQFault n q code) :=
  (d.regsOnly_setQFault n q v code).keepsAt fun k hk => (Dev.sameRegsBut_setQFault d hn q v code k fun o ho he => by
    have hb := (pClu n).base_mod
    unfold HeaderOff at hk
    simp only [List.cons_append, List.nil_append, List.mem_cons, List.not_mem_nil, or_false] at ho
    omega).symm

/-- A queue that is set FAULTED with a code reads so. -/
theorem Dev.queueFault_set (d : Dev) {n : Nat} (hn : n < 0x2000) (q : Nat) {code : Nat} (hc : code < 2 ^ 16) :
    ((d.setQMark n q 5).setQFault n q code).qMark n q = 5 ∧ ((d.setQMark n q 5).setQFault n q code).getF (pClu n) (qOff n q + 0xC) 15 0 = code := by
  unfold Dev.setQMark Dev.setQFault Dev.qMark Dev.setF Dev.getF
  rw [uPage_clu hn]
  exact ⟨by rw [Dev.reg_setReg_off _ _ _ (by omega), Dev.reg_setReg_same, wfld_wput_low _ (by decide) (by decide)],
    by rw [Dev.reg_setReg_same, wfld_wput_low _ (by decide) hc]⟩

/-- The abort of one queue (R80). -/
def Dev.abortQueue (d : Dev) (u : UnitKey) (fq : Option Nat) (code reason q : Nat) : Dev :=
  let d := (d.dropHeld u q reason).qClear u q
  if fq = some q then (d.setQMark u q 5).setQFault u q code else (d.setQMark u q 6).setQFault u q code

theorem Dev.abortQueues_eq (d : Dev) (u : UnitKey) (j : Nat) (fq : Option Nat) (code reason : Nat) :
    d.abortQueues u j fq code reason = (d.jobQueues u j).foldl (fun d q => d.abortQueue u fq code reason q) d := rfl

theorem Dev.abortQueue_eq (d : Dev) (u : UnitKey) (fq : Option Nat) (code reason q : Nat) :
    d.abortQueue u fq code reason q =
      (((d.dropHeld u q reason).qClear u q).setQMark u q (if fq = some q then 5 else 6)).setQFault u q code := by
  unfold Dev.abortQueue
  split <;> rfl

theorem Dev.qClear_clu (d : Dev) {n : Nat} (hn : n < 0x2000) (q : Nat) :
    d.qClear n q = (d.sramMet (.queue n q)).modGq n q fun x => { x with cmds := [], held := [], waitAt := none, fence := none } := by
  simp [Dev.qClear, hn]

theorem Dev.keepsAt_qClear (O : Nat → Prop) (d : Dev) {n : Nat} (hn : n < 0x2000) (q : Nat) : d.KeepsAt O (d.qClear n q) := by
  rw [Dev.qClear_clu d hn]
  exact ⟨fun _ _ => rfl, fun _ => rfl, fun _ => rfl, fun _ _ => rfl⟩

/-- The abort of a queue leaves the header of every page, the jobs and the control stores. -/
theorem Dev.keepsAt_abortQueue (d : Dev) {n : Nat} (hn : n < 0x2000) (fq : Option Nat) (code reason : Nat) {q : Nat} (hq : q < 8) :
    d.KeepsAt HeaderOff (d.abortQueue n fq code reason q) := by
  rw [Dev.abortQueue_eq]
  exact ((d.keepsQueues_dropHeld n q reason).header.trans (Dev.keepsAt_qClear _ _ hn q)).trans (Dev.keepsAt_setQFault _ hn hq _ code)

/-- The queue that has faulted stops with the code of the fault. -/
theorem Dev.queueStopped_abortQueue_same (d : Dev) {n : Nat} (hn : n < 0x2000) {code : Nat} (hc : code < 2 ^ 16) (reason : Nat) {q : Nat} (hq : q < 8) :
    (d.abortQueue n (some q) code reason q).QueueStopped n q code := by
  rw [Dev.abortQueue_eq, if_pos rfl]
  obtain ⟨hmark, hcode⟩ := Dev.queueFault_set ((d.dropHeld n q reason).qClear n q) hn q hc
  refine ⟨hmark, hcode, ?_⟩
  have hcmds : (((d.dropHeld n q reason).qClear n q).clu n).q q = { ((d.dropHeld n q reason).clu n).q q with cmds := [], held := [], waitAt := none, fence := none } := by
    rw [Dev.qClear_clu _ hn, Dev.clu_modGq_q _ _ _ _ hq, if_pos rfl]
    rfl
  rw [Dev.qCmds_clu _ hn]
  exact congrArg (fun x : Gq => x.cmds.map BitVec.toNat) hcmds

/-- A queue that has stopped stays so when another queue is aborted. -/
theorem Dev.queueStopped_abortQueue_ne {d : Dev} {n q : Nat} {code : Nat} (h : d.QueueStopped n q code) (hn : n < 0x2000) (hq : q < 8)
    (fq : Option Nat) (c reason : Nat) {r : Nat} (hr : r ≠ q) : (d.abortQueue n fq c reason r).QueueStopped n q code := by
  rw [Dev.abortQueue_eq]
  obtain ⟨hmark, hcode, hcmds⟩ := (d.keepsQueues_dropHeld n r reason).queueStopped hn hq h
  generalize d.dropHeld n r reason = e at hmark hcode hcmds ⊢
  have hreg : ∀ off, 0x80 + 16 * q ≤ off → off < 0x80 + 16 * q + 16 → 
      (((e.qClear n r).setQMark n r (if fq = some r then 5 else 6)).setQFault n r c).reg (pClu n) off = e.reg (pClu n) off := fun off h1 h2 =>
    ((Dev.sameRegsBut_setQFault _ hn r _ c).reg (by simp; omega)).trans ((Dev.keepsAt_qClear (fun _ => True) e hn r).reg trivial)
  refine ⟨?_, ?_, ?_⟩
  · unfold Dev.qMark Dev.getF at *
    rw [uPage_clu hn, hreg _ (by rw [qOff_clu hn]; omega) (by rw [qOff_clu hn]; omega), ← hmark, uPage_clu hn]
  · unfold Dev.getF at *
    rw [hreg _ (by rw [qOff_clu hn]; omega) (by rw [qOff_clu hn]; omega), hcode]
  · have hsame : ((e.qClear n r).clu n).q q = (e.clu n).q q := by
      rw [Dev.qClear_clu _ hn, Dev.clu_modGq_q _ _ _ _ hq, if_neg (Ne.symm hr)]
      rfl
    rw [Dev.qCmds_clu _ hn] at hcmds ⊢
    exact (congrArg (fun x : Gq => x.cmds.map BitVec.toNat) hsame).trans hcmds

/-- What one step of a fold makes and every step keeps holds after it. -/
theorem Dev.foldl_makes {α : Type} {P : Dev → Prop} {f : Dev → α → Dev} {a : α} (hmake : ∀ d, P (f d a)) (hkeep : ∀ d b, P d → P (f d b)) {l : List α}
    (ha : a ∈ l) (d : Dev) : P (l.foldl f d) := by
  obtain ⟨l₁, l₂, rfl⟩ := List.append_of_mem ha
  rw [List.foldl_append, List.foldl_cons]
  exact Dev.foldl_holds (fun e b _ he => hkeep e b he) (hmake _)

theorem lt_of_mem_jobQueues {d : Dev} {n q : Nat} {j : Nat} (hn : n < 0x2000) (h : q ∈ d.jobQueues n j) : q < 8 := by
  have hlt := List.mem_range.1 (List.mem_filter.1 h).1
  have h8 : uQueues n = 8 := by
    unfold uQueues
    exact if_pos (Nat.lt_trans hn (by decide))
  rwa [h8] at hlt

theorem Dev.keepsAt_abortQueues (d : Dev) {n : Nat} (hn : n < 0x2000) (j : Nat) (fq : Option Nat) (code reason : Nat) :
    d.KeepsAt HeaderOff (d.abortQueues n j fq code reason) := by
  rw [Dev.abortQueues_eq]
  exact Dev.foldl_holds (P := d.KeepsAt HeaderOff) (fun e q hq he => he.trans (e.keepsAt_abortQueue hn fq code reason (lt_of_mem_jobQueues hn hq))) (.refl _ d)

theorem Dev.queueStopped_abortQueues (d : Dev) {n q j : Nat} (hn : n < 0x2000) (hq : q ∈ d.jobQueues n j) {code : Nat} (hc : code < 2 ^ 16) (reason : Nat) :
    (d.abortQueues n j (some q) code reason).QueueStopped n q code := by
  have h8 := lt_of_mem_jobQueues hn hq
  have hmake : ∀ e : Dev, (e.abortQueue n (some q) code reason q).QueueStopped n q code := fun e => e.queueStopped_abortQueue_same hn hc reason h8
  rw [Dev.abortQueues_eq]
  refine Dev.foldl_makes (P := fun e => e.QueueStopped n q code) hmake (fun e r he => ?_) hq d
  by_cases hr : r = q
  · exact hr ▸ hmake e
  · exact Dev.queueStopped_abortQueue_ne he hn h8 _ _ _ hr

/-- The end of the merge unit's work, under a name that neither elaborator nor kernel evaluates. -/
theorem Dev.mergeAbort_named : ∃ stop, stop = Dev.mergeAbort := ⟨_, rfl⟩

/-- Once its queues have been aborted, the rest of the abort in a cluster stops tiles, loads and the merge unit, and leaves queues. -/
theorem Dev.keepsQueues_abortClu (d : Dev) (n j : Nat) (fq : Option Nat) (code reason : Nat) :
    ((d.abortHolds n j).abortQueues n j fq code reason).KeepsQueues (d.abortClu n j fq code reason) := by
  have hstop := Dev.keepsQueues_mergeAbort
  obtain ⟨stop, hs⟩ := Dev.mergeAbort_named
  unfold Dev.abortClu
  rw [← hs] at hstop ⊢
  clear hs
  refine .trans ?_ (Dev.keepsQueues_modClu _ n fun _ => rfl)
  split
  case' h_1 => refine .trans ?_ (.ite ((hstop _ _ _ _).trans (Dev.keepsQueues_scoreFree _ _ _ _)) (.refl _))
  all_goals
    refine .trans (Dev.keepsQueues_foldl (fun e k hk => ?tiles) _) (Dev.keepsQueues_foldl (fun e p _ => ?parks) _)
    case tiles =>
      split
      · exact .ite (e.keepsQueues_stopTile n (List.mem_range.1 hk)) (.refl e)
      · exact .refl e
    case parks =>
      split
      · exact e.keepsQueues_scoreFree _ _ _
      · exact .refl e

/-- The abort of a job in a cluster leaves headers, jobs and control stores; a queue of the job that has faulted stops with its code. -/
theorem Dev.abortUnit_clu (d : Dev) {n : Nat} (hn : n < 0x2000) (j q : Nat) {code : Nat} (hc : code < 2 ^ 16) (reason : Nat) :
    d.KeepsAt HeaderOff (d.abortUnit n j (some q) code reason) ∧
      (q ∈ d.jobQueues n j → (d.abortUnit n j (some q) code reason).QueueStopped n q code) := by
  have hfar : d.KeepsQueues (if d.far.isEmpty then d else { d with far := d.far.filter fun f => !(f.who = n && f.job = j) }) :=
    .ite (.refl d) (.of_eq rfl rfl rfl rfl)
  have hunit : d.abortUnit n j (some q) code reason =
      (if d.far.isEmpty then d else { d with far := d.far.filter fun f => !(f.who = n && f.job = j) }).abortClu n j (some q) code reason := if_pos hn
  rw [hunit]
  generalize (if d.far.isEmpty then d else { d with far := d.far.filter fun f => !(f.who = n && f.job = j) }) = e at hfar ⊢
  have hholds := hfar.trans (e.keepsQueues_abortHolds n j)
  have hrest := e.keepsQueues_abortClu n j (some q) code reason
  refine ⟨(hholds.header.trans (Dev.keepsAt_abortQueues _ hn j _ _ _)).trans hrest.header, fun hq => ?_⟩
  have h8 := lt_of_mem_jobQueues hn hq
  have hslot : ∀ r, r < 8 → (e.abortHolds n j).reg (uPage n) (qOff n r) = d.reg (uPage n) (qOff n r) := fun r hr =>
    hholds.reg_slot _ (by rw [qOff_clu hn]; omega)
  have hq' : q ∈ (e.abortHolds n j).jobQueues n j := by
    simp only [Dev.jobQueues, below, List.mem_filter, Dev.qBound, Dev.qWeight, Dev.qJob, Dev.getF, hslot q h8] at hq ⊢
    exact hq
  exact hrest.queueStopped hn h8 (Dev.queueStopped_abortQueues _ hn hq' hc reason)

/-! ### The fault of a job in a cluster (R67, R80) -/

/-- The offsets of the queue slots of a cluster (R82). -/
def SlotOff (o : Nat) : Prop := 0x80 ≤ o % 0x1000 ∧ o % 0x1000 < 0x100

/-- A fault is noted in the header alone. -/
theorem Dev.fault_csr_slot (d : Dev) (p : Page) (code info : Nat) (k : Nat) (hk : SlotOff k) : tget? (d.fault p code info).csr k = tget? d.csr k := by
  have hb := p.base_mod
  have hput : ∀ (t : Tbl Word) (o : Nat) (v : Word), o < 0x80 → tget? (tput t (p.base + o) v) k = tget? t k := fun t o v ho =>
    tget?_tput_ne t v (by unfold SlotOff at hk; omega)
  unfold Dev.fault
  dsimp only
  split
  · exact hput _ 0x0C _ (by decide)
  · rw [Dev.setEvent_csr]
    exact (hput _ 0x10 _ (by decide)).trans ((hput _ 0x1C _ (by decide)).trans (hput _ 0x18 _ (by decide)))

/-- A fault is noted: its event stands, and a first fault leaves its code and its information (R33, R34). -/
theorem Dev.fault_noted (d : Dev) (p : Page) (code info : Nat) :
    (d.fault p code info).bit p 0x10 evFault = true ∧
      (d.bit p 0x10 evFault = false → (d.fault p code info).reg p 0x18 = BitVec.ofNat 32 code ∧ (d.fault p code info).reg p 0x1C = BitVec.ofNat 32 info) := by
  have hnote : (d.noteFault p code info).bit p 0x10 evFault = d.bit p 0x10 evFault := rfl
  unfold Dev.fault
  dsimp only
  rw [hnote]
  cases hbit : d.bit p 0x10 evFault with
  | true =>
    refine ⟨?_, nofun⟩
    rw [if_pos rfl, Dev.bit, Dev.setBit, Dev.reg_setReg_off _ _ _ (by decide)]
    exact hbit
  | false =>
    rw [if_neg (by decide)]
    refine ⟨Dev.bit_setEvent_same _ _ (by decide), fun _ => ⟨?_, ?_⟩⟩
    · rw [Dev.reg_setEvent_off _ _ _ (by decide), Dev.reg_setReg_off _ _ _ (by decide), Dev.reg_setReg_same]
    · rw [Dev.reg_setEvent_off _ _ _ (by decide), Dev.reg_setReg_same]

theorem Dev.job_setJob_same (d : Dev) (j : Nat) (x : Job) : (d.setJob j x).job j = x := tgetD_tput_same ..

theorem Job.faulting_code (x : Job) (code : Nat) (members : Option (List FaultName)) : (x.faulting code members).code = code := by
  unfold Job.faulting
  split <;> rfl

/-- Only a job that is no control job is FAULTED. -/
theorem Job.faulting_state (x : Job) (code : Nat) (members : Option (List FaultName)) (h : x.cls ≠ 1) : (x.faulting code members).state = 2 := by
  unfold Job.faulting
  rw [if_neg h]

/-- The queues of a job follow from the slots. -/
theorem mem_jobQueues_of_slots {d d' : Dev} (h : ∀ k, SlotOff k → tget? d'.csr k = tget? d.csr k) {n q j : Nat} (hn : n < 0x2000) (hq : q < 8)
    (hbound : d.qBound n q = true) (hj : d.qJob n q = j) : q ∈ d'.jobQueues n j := by
  have hslot : d'.reg (uPage n) (qOff n q) = d.reg (uPage n) (qOff n q) := by
    rw [Dev.reg, Dev.reg, tgetD, tgetD, h]
    rw [qOff_clu hn]
    have := (uPage n).base_mod
    unfold SlotOff
    omega
  have h8 : q < uQueues n := by
    unfold uQueues
    rwa [if_pos (Nat.lt_trans hn (by decide))]
  unfold Dev.qBound Dev.qWeight Dev.qJob Dev.getF at *
  simp [Dev.jobQueues, below, h8, Dev.qBound, Dev.qWeight, Dev.qJob, Dev.getF, hslot, hbound, hj]

/-- The fault of a job, before its queue is marked or the job aborted: the fault is noted on the unit's page and the job holds its code. -/
def Dev.jobFaulting (d : Dev) (u : UnitKey) (j code info : Nat) (members : Option (List FaultName)) : Dev :=
  (d.fault (uPage u) code info).setJob j (((d.fault (uPage u) code info).job j).faulting code members)

theorem Dev.job_fault (d : Dev) (p : Page) (code info j : Nat) : (d.fault p code info).job j = d.job j := by
  rw [Dev.job, Dev.job, (d.regsOnly_fault p code info).jobs]

theorem Dev.aborting_jobFaulting (d : Dev) (u : UnitKey) (j code info : Nat) (members : Option (List FaultName)) :
    (d.jobFaulting u j code info members).aborting j = d.aborting j := by
  have h : (d.jobFaulting u j code info members).aborts = d.aborts := by
    rw [Dev.jobFaulting, d.regsOnly_fault (uPage u) code info]
    rfl
  rw [Dev.aborting, Dev.aborting, h]

/-- Whether the fault of a job finds its abort under way: it is being aborted, or has faulted already. -/
def Dev.abortBegun (d : Dev) (j : Nat) : Bool := d.aborting j || ((d.job j).cls ≠ 1 && (d.job j).state = 2)

/-- A fault that finds the abort under way marks the queue alone. -/
theorem Dev.jobFaultM_begun {d : Dev} {j : Nat} (h : d.abortBegun j = true) (u : UnitKey) (q code info : Nat) (members : Option (List FaultName)) :
    d.jobFaultM u q j code info members = ((d.jobFaulting u j code info members).setQMark u q 5).setQFault u q code := by
  refine if_pos ?_
  change ((d.jobFaulting u j code info members).aborting j || _) = true
  rwa [Dev.aborting_jobFaulting, Dev.job_fault]

/-- The abort that the first fault of a job begins: at once in the unit, then told to the other units and to the partition (R80). -/
def Dev.faultAbort (d : Dev) (u : UnitKey) (q j code info : Nat) (was : Job) : Dev :=
  let others := (d.jobUnits j).filter (· ≠ u)
  let d := d.abortUnit u j (some q) code 4
  let d := if others.isEmpty then d else { d with aborts := d.aborts ++ [⟨j, others⟩] }
  if was.cls = 1 then d
  else d.record was.ptn 0x0002 (leBytes 4 j ++ leBytes 4 code ++ leBytes 4 info ++ leBytes 4 (uPage u).id)

theorem Dev.jobFaultM_first {d : Dev} {j : Nat} (h : d.abortBegun j = false) (u : UnitKey) (q code info : Nat) (members : Option (List FaultName)) :
    d.jobFaultM u q j code info members = (d.jobFaulting u j code info members).faultAbort u q j code info ((d.fault (uPage u) code info).job j) := by
  refine if_neg ?_
  change ¬((d.jobFaulting u j code info members).aborting j || _) = true
  rw [Dev.aborting_jobFaulting, Dev.job_fault]
  exact Bool.eq_false_iff.1 h

/-- What an abort tells other units and the partition leaves queues. -/
theorem Dev.keepsQueues_faultAbort (d : Dev) (u : UnitKey) (q j code info : Nat) (was : Job) :
    (d.abortUnit u j (some q) code 4).KeepsQueues (d.faultAbort u q j code info was) := by
  have htell : ∀ (e : Dev) (l : List UnitKey), e.KeepsQueues (if l.isEmpty then e else { e with aborts := e.aborts ++ [⟨j, l⟩] }) :=
    fun e l => .ite (.refl e) (.of_eq rfl rfl rfl rfl)
  have hrecord : ∀ (e : Dev) (a b : Nat) (l : List Byte), e.KeepsQueues (e.record a b l) := fun e a b l => .of_eq rfl rfl rfl rfl
  exact .ite (htell _ _) ((htell _ _).trans (hrecord _ _ _ _))

/-- What follows in a cluster leaves headers, jobs and control stores. The job's queue is FAULTED with the code, and empty once an abort of the job begins. -/
theorem Dev.jobFaultM_effect (d : Dev) {n : Nat} (hn : n < 0x2000) {q : Nat} (hq : q < 8) (j : Nat) {code : Nat} (hc : code < 2 ^ 16) (info : Nat)
    (members : Option (List FaultName)) :
    (d.jobFaulting n j code info members).KeepsAt HeaderOff (d.jobFaultM n q j code info members) ∧
      (d.qBound n q = true → d.qJob n q = j → (d.jobFaultM n q j code info members).qMark n q = 5 ∧
        (d.jobFaultM n q j code info members).getF (pClu n) (qOff n q + 0xC) 15 0 = code ∧
        (d.abortBegun j = false → (d.jobFaultM n q j code info members).qCmds n q = [])) := by
  cases hb : d.abortBegun j with
  | true =>
    rw [Dev.jobFaultM_begun hb]
    obtain ⟨hmark, hcode⟩ := Dev.queueFault_set (d.jobFaulting n j code info members) hn q hc
    exact ⟨Dev.keepsAt_setQFault _ hn hq 5 code, fun _ _ => ⟨hmark, hcode, nofun⟩⟩
  | false =>
    have hrest := (d.jobFaulting n j code info members).keepsQueues_faultAbort n q j code info ((d.fault (uPage n) code info).job j)
    rw [← Dev.jobFaultM_first hb] at hrest
    obtain ⟨hkeep, hstop⟩ := (d.jobFaulting n j code info members).abortUnit_clu hn j q hc 4
    refine ⟨hkeep.trans hrest.header, fun hbound hj => ?_⟩
    have hmem : q ∈ (d.jobFaulting n j code info members).jobQueues n j :=
      mem_jobQueues_of_slots (d' := d.jobFaulting n j code info members) (d.fault_csr_slot (uPage n) code info) hn hq hbound hj
    obtain ⟨hmark, hcode, hcmds⟩ := hrest.queueStopped hn hq (hstop hmem)
    exact ⟨hmark, hcode, fun _ => hcmds⟩

/-- What a fault leaves of a job that follows headers and jobs. -/
theorem Dev.jobFaultM_faulted (d : Dev) {n : Nat} (hn : n < 0x2000) {q : Nat} (hq : q < 8) (j : Nat) {code : Nat} (hc : code < 2 ^ 16) (info : Nat)
    (members : Option (List FaultName)) :
    d.JobFaulted (d.jobFaultM n q j code info members) n q j code info := by
  obtain ⟨hkeep, hqueue⟩ := d.jobFaultM_effect hn hq j hc info members
  obtain ⟨hevent, hfirst⟩ := d.fault_noted (uPage n) code info
  have hreg : ∀ off < 0x40, (d.jobFaultM n q j code info members).reg (uPage n) off = (d.fault (uPage n) code info).reg (uPage n) off :=
    fun off ho => hkeep.reg_header (uPage n) ho
  refine ⟨?_, fun h => ?_, ?_, fun hcls => ?_, fun hbound hj _ => ?_⟩
  · rwa [Dev.bit, hreg _ (by decide)]
  · rw [hreg _ (by decide), hreg _ (by decide)]
    exact hfirst h
  · rw [hkeep.code, Dev.jobFaulting, Dev.job_setJob_same, Job.faulting_code]
  · rw [hkeep.state, Dev.jobFaulting, Dev.job_setJob_same, Job.faulting_state _ _ _ (by rwa [Dev.job_fault])]
  · obtain ⟨hmark, hcode, hcmds⟩ := hqueue hbound hj
    refine ⟨hmark, uPage_clu hn ▸ hcode, fun ha hfree => hcmds ?_⟩
    rw [Dev.abortBegun, ha]
    simp only [Bool.false_or, Bool.and_eq_false_iff, decide_eq_false_iff_not, not_not]
    exact hfree

/-- The fault of a job in a cluster leaves every control store. -/
theorem Dev.store_jobFaultM (d : Dev) {n : Nat} (hn : n < 0x2000) {q : Nat} (hq : q < 8) (j : Nat) {code : Nat} (hc : code < 2 ^ 16) (info : Nat)
    (members : Option (List FaultName)) (m k : Nat) : ((d.jobFaultM n q j code info members).core m k).store = (d.core m k).store := by
  obtain ⟨hkeep, -⟩ := d.jobFaultM_effect hn hq j hc info members
  exact (hkeep.store m k).trans (congrArg Core.store ((d.regsOnly_fault (uPage n) code info).core m k))

/-! ### The head of a gaffer queue leaves it (R67, R68) -/

/-- A served head issues on the device that the round robin leaves. -/
theorem Dev.gafServe_served {d e : Dev} {n q w k op : Nat} (h : d.GafServed n q w k e) (hop : fld w 7 0 = op) (f : Dev → Nat → Nat → Dev) :
    d.gafServe n q op f = f e w k := by
  obtain ⟨hruns, hbound, hmark, hfence, helig, hfault, hhead, hcheck, hchoose⟩ := h
  unfold Dev.gafServe
  simp [hruns, hbound, hmark, hfence, helig, Option.isNone_iff_eq_none.1 hfault, hhead, hcheck, hchoose, hop]

/-- The round robin moves credits and its pointer; every queue keeps its commands. -/
theorem Dev.qCmds_of_gafChoose {d e : Dev} {n c : Nat} (hn : n < 0x2000) (h : d.gafChoose n = some (c, e)) {q : Nat} (hq : q < 8) :
    e.qCmds n q = d.qCmds n q := by
  obtain ⟨⟨c', cr, p⟩, -, he⟩ := Option.map_eq_some_iff.1 h
  obtain ⟨rfl, rfl⟩ := Prod.mk.inj he
  rw [Dev.qCmds_clu _ hn, Dev.qCmds_clu _ hn, Dev.clu_modClu_same]
  simp [Clu.q, hq]

/-- A change of a queue leaves memory and the loads of its cluster. -/
theorem Dev.loads_modGq (d : Dev) (n i : Nat) (f : Gq → Gq) : ((d.modGq n i f).clu n).loads = (d.clu n).loads := by
  rw [Dev.modGq, Dev.clu_modClu_same]

/-- The start of a WAIT's count at the head leaves the commands of every queue, and memory and the loads. -/
theorem Dev.qArm_effect (d : Dev) {n q : Nat} (hn : n < 0x2000) (hq : q < 8) :
    (d.qArm n q).qCmds n q = d.qCmds n q ∧ (d.qArm n q).mem = d.mem ∧ ((d.qArm n q).clu n).loads = (d.clu n).loads := by
  unfold Dev.qArm
  split
  · exact ⟨rfl, rfl, rfl⟩
  · dsimp only
    split
    · refine ⟨?_, rfl, Dev.loads_modGq ..⟩
      rw [Dev.qCmds_clu _ hn, Dev.qCmds_clu _ hn, Dev.clu_modGq_q _ _ _ _ hq, if_pos rfl]
    · exact ⟨rfl, rfl, rfl⟩

/-- `k` commands leave the head of their queue; memory and the loads stay. -/
theorem Dev.qPop_effect (d : Dev) {n q : Nat} (hn : n < 0x2000) (hq : q < 8) (k : Nat) :
    (d.qPop n q k).qCmds n q = (d.qCmds n q).drop k ∧ (d.qPop n q k).mem = d.mem ∧ ((d.qPop n q k).clu n).loads = (d.clu n).loads := by
  obtain ⟨hcmds, hmem, hloads⟩ := (d.qDrop n q k).qArm_effect hn hq
  have hdrop : d.qDrop n q k = d.modGq n q fun x => { x with cmds := x.cmds.drop k, waitAt := none } := if_pos hn
  rw [Dev.qPop, hcmds, hmem, hloads, hdrop]
  refine ⟨?_, rfl, Dev.loads_modGq ..⟩
  rw [Dev.qCmds_clu _ hn, Dev.qCmds_clu _ hn, Dev.clu_modGq_q _ _ _ _ hq, if_pos rfl, List.map_drop]

/-! ### The words of a load (R41, R67) -/

/-- Words written from index `dst` up, the first of them at `dst + k`, read so; what stands below reads as before. -/
theorem tgetD_foldl_zipIdx (dst : Nat) (ws : List W256) (k : Nat) (t : Tbl W256) :
    (∀ i < ws.length, tgetD ((ws.zipIdx k).foldl (fun t e => tset t (dst + e.2) e.1 0) t) (dst + (k + i)) 0 = (ws[i]?).getD 0) ∧
      ∀ i < k, tgetD ((ws.zipIdx k).foldl (fun t e => tset t (dst + e.2) e.1 0) t) (dst + i) 0 = tgetD t (dst + i) 0 := by
  induction ws generalizing k t with
  | nil => exact ⟨nofun, fun _ _ => rfl⟩
  | cons w ws ih =>
    obtain ⟨hread, hbelow⟩ := ih (k + 1) (tset t (dst + k) w 0)
    simp only [List.zipIdx_cons, List.foldl_cons]
    refine ⟨fun i hi => ?_, fun i hi => ?_⟩
    · cases i with
      | zero => simpa using hbelow k (by omega)
      | succ i => simpa [Nat.add_assoc, Nat.add_comm 1 i] using hread i (by simpa using hi)
    · rw [hbelow i (by omega), tgetD_tset_ne _ _ _ (by omega)]

theorem Core.store_loadStore (c : Core) (dst : Nat) (ws : List W256) {i : Nat} (hi : i < ws.length) :
    tgetD (c.loadStore dst ws).store (dst + i) 0 = (ws[i]?).getD 0 := by
  simpa [Core.loadStore] using (tgetD_foldl_zipIdx dst ws 0 c.store).1 i hi

theorem Dev.core_modCore (d : Dev) (n k i : Nat) (f : Core → Core) :
    (d.modCore n k f).core n i = if i = k then f (d.core n k) else d.core n i := by
  have hkey : 32 * n + i = 32 * n + k ↔ i = k := by omega
  simp only [Dev.modCore, Dev.setCore, Dev.core, tgetD_tput, hkey]

/-- A load writes cores alone. -/
theorem Dev.loadCores_effect (d : Dev) (n mask dst : Nat) (ws : List W256) :
    (d.loadCores n mask dst ws).csr = d.csr ∧ (d.loadCores n mask dst ws).mem = d.mem ∧ (d.loadCores n mask dst ws).clu n = d.clu n := by
  unfold Dev.loadCores Dev.each
  refine Dev.foldl_holds (P := fun e => e.csr = d.csr ∧ e.mem = d.mem ∧ e.clu n = d.clu n) (fun _ _ _ h => ?_) ⟨rfl, rfl, rfl⟩
  exact h

/-- Every core of the mask holds the words. -/
theorem Dev.store_loadCores (d : Dev) (n mask dst : Nat) (ws : List W256) {k i : Nat} (hk : k < 32) (hmask : bitOf mask k = true) (hi : i < ws.length) :
    tgetD ((d.loadCores n mask dst ws).core n k).store (dst + i) 0 = (ws[i]?).getD 0 := by
  have hmake : ∀ e : Dev, tgetD ((e.modCore n k (·.loadStore dst ws)).core n k).store (dst + i) 0 = (ws[i]?).getD 0 := fun e => by
    rw [Dev.core_modCore, if_pos rfl, Core.store_loadStore _ _ _ hi]
  refine Dev.foldl_makes (P := fun e => tgetD (e.core n k).store (dst + i) 0 = (ws[i]?).getD 0) (f := fun e b => e.modCore n b (·.loadStore dst ws)) hmake
    (fun e b he => ?_) (mem_maskBits.2 ⟨hk, hmask⟩) d
  by_cases hb : k = b
  · exact hb ▸ hmake e
  · rwa [Dev.core_modCore, if_neg hb]

/-- What a CSLOAD whose words are read leaves: its queue's head gone, its load pending behind those that pend, memory as the read left it. -/
theorem Dev.csload_effect (f : Dev) {n q : Nat} (hn : n < 0x2000) (hq : q < 8) (k : Nat) (l : CsRun) :
    let t := (f.qPop n q k).modClu n fun c => { c with loads := c.loads ++ [l] }
    t.qCmds n q = (f.qCmds n q).drop k ∧ t.mem = f.mem ∧ (t.clu n).loads = (f.clu n).loads ++ [l] := by
  obtain ⟨hcmds, hmem, hloads⟩ := f.qPop_effect hn hq k
  refine ⟨?_, hmem, ?_⟩
  · rw [← hcmds, Dev.qCmds_clu _ hn, Dev.qCmds_clu _ hn, Dev.clu_modClu_same]
    rfl
  · rw [Dev.clu_modClu_same, hloads]

/-! ### CSLOAD and its completion (R67) -/

theorem exec_csload (n : Fin 800) (q : Fin 8) (s : State) : Sys2Proof.Machine.exec (.csload n q) s = execCsload n q s := rfl

theorem exec_csloadComplete (n : Fin 800) (q : Fin 8) (s : State) : Sys2Proof.Machine.exec (.csloadComplete n q) s = execCsloadComplete n q s := rfl

/-- A CSLOAD that is served and whose words are read. -/
theorem execCsload_served {s : State} {n : Fin 800} {q : Fin 8} {w k : Nat} {e f : Dev} {bs : List Byte} (h : s.dev.GafServed n q w k e) (hop : fld w 7 0 = 0x06)
    (hfetch : e.fetch (some n) (some (dieOf n)) (agPtn (e.job (e.qJob n q)).ptn (some (e.qJob n q))) (e.job (e.qJob n q)).ptn (clSrc w) (32 * clCount w) false = (f, .ok bs)) :
    execCsload n q s = .next ⟨(f.qPop n q k).modClu n fun c => { c with loads := c.loads ++
      [⟨q, e.qJob n q, clDst w, clMask w, (List.range (clCount w)).map fun i => BitVec.ofNat 256 (numAt bs (32 * i) 32)⟩] }, s.pending⟩ := by
  rw [execCsload, State.upd_eq, Dev.gafServe_served h hop]
  dsimp only
  rw [hfetch]

/-- The completion of a load whose words all pass. -/
theorem execCsloadComplete_good {s : State} {n : Fin 800} {q : Fin 8} {l : CsRun} (h : ((s.dev.clu n).loads.find? fun x => x.queue = q.val) = some l)
    (hgood : cwFirstBad l.words 0 = none) :
    execCsloadComplete n q s =
      .next ⟨(s.dev.modClu n fun c => { c with loads := c.loads.erase l }).loadCores n l.mask l.dst l.words, s.pending⟩ := by
  rw [execCsloadComplete, State.upd_eq, h]
  dsimp only
  rw [hgood]

/-- The completion of a load with a word that fails. -/
theorem execCsloadComplete_bad {s : State} {n : Fin 800} {q : Fin 8} {l : CsRun} (h : ((s.dev.clu n).loads.find? fun x => x.queue = q.val) = some l)
    {i b : Nat} (hbad : cwFirstBad l.words 0 = some (i, b)) :
    execCsloadComplete n q s =
      .next ⟨(s.dev.modClu n fun c => { c with loads := c.loads.erase l }).jobFault n q l.job 0x5004 (cwInfo (l.dst + i) b l.mask), s.pending⟩ := by
  rw [execCsloadComplete, State.upd_eq, h]
  dsimp only
  rw [hbad]

/-! ### The landing of buffer writes (R46) -/

theorem exec_bufferWriteLand (s : State) (n : Fin 800) :
    exec (.bufferWriteLand n) s = .next ⟨if s.dev.clockOn (n / 10) then s.dev.nextCycle n else s.dev, s.pending⟩ := rfl

end Sys2Proof.Machine

namespace Sys2Proof.Proofs

open Sys2Proof Sys2Proof.Machine

/-- Settles O14: a served head leaves its queue with its load pending; a good load is written core by core of its mask; a bad word is the fault of a job, whose abort leaves every control store. -/
theorem controlStoreLoad : Obligations.ControlStoreLoad := by
  unfold Obligations.ControlStoreLoad
  refine ⟨fun s n q w k e f bs hserved hop hfetch => ?issue, fun s n q l hl => ⟨fun hgood => ?good, fun i b hbad => ?bad⟩⟩
  case issue =>
    have hn : n.val < 0x2000 := n.isLt.trans (by decide)
    have hkeep : e.KeepsQueues f := by
      have h := e.keepsQueues_fetch (some n) (some (dieOf n)) (agPtn (e.job (e.qJob n q)).ptn (some (e.qJob n q))) (e.job (e.qJob n q)).ptn (clSrc w)
        (32 * clCount w) false
      rwa [hfetch] at h
    obtain ⟨-, -, -, -, -, -, -, -, hchoose⟩ := id hserved
    have hcmds : f.qCmds n q = s.dev.qCmds n q := (hkeep.qCmds hn q).trans (Dev.qCmds_of_gafChoose hn hchoose q.isLt)
    rw [exec_csload, execCsload_served hserved hop hfetch, ← hcmds]
    exact ⟨_, rfl, rfl, f.csload_effect hn q.isLt k _⟩
  case good =>
    rw [exec_csloadComplete, execCsloadComplete_good hl hgood]
    obtain ⟨hcsr, hmem, hclu⟩ := (s.dev.modClu n fun c => { c with loads := c.loads.erase l }).loadCores_effect n l.mask l.dst l.words
    refine ⟨_, rfl, rfl, hcsr, hmem, ?_, fun c i hmask hi => Dev.store_loadCores _ n _ _ _ c.isLt hmask hi⟩
    rw [hclu, Dev.clu_modClu_same]
  case bad =>
    have hn : n.val < 0x2000 := n.isLt.trans (by decide)
    rw [exec_csloadComplete, execCsloadComplete_bad hl hbad]
    have hfault := (s.dev.modClu n fun c => { c with loads := c.loads.erase l }).jobFaultM_faulted hn q.isLt l.job (code := 0x5004) (by decide)
      (cwInfo (l.dst + i) b l.mask) none
    exact ⟨_, rfl, rfl, hfault, fun c => Dev.store_jobFaultM _ hn q.isLt l.job (by decide) _ none n c⟩

/-- Settles O16: within a cycle under way a turn is `Dev.coreCycle` with what arbitration found, and each finding has its effect. -/
theorem coreCycleIssuesAndLands : Obligations.CoreCycleIssuesAndLands := by
  unfold Obligations.CoreCycleIssuesAndLands
  constructor
  · intro s n k x hdom hclk hpark hscr hcyc hk ht he hs
    have hturn := (Dev.coreStep_eq hdom hclk hpark).trans (Dev.coreTurn_within hdom hcyc hk)
    constructor
    · intro hplan hl hm hc herr
      refine ⟨_, exec_controlWordIssue s n k, rfl, ?_⟩
      rw [hturn, hplan]
      exact Dev.coreCycle_issues (d := s.dev.takeTurn n k) ht he hs hl hm hc herr hscr
    · intro hplan
      refine ⟨_, exec_controlWordIssue s n k, rfl, ?_⟩
      rw [hturn, hplan]
      exact Dev.coreCycle_contends (d := s.dev.takeTurn n k) ht he hscr k.isLt
  · intro s n k x hdom hclk hcyc hk ht he hs hl
    have hrun : (s.dev.core n k).running = false := by simp [Core.running, ht, he]
    have hturn := Dev.coreTurn_within hdom hcyc hk
    obtain ⟨hcore, hmem⟩ := Dev.coreCycle_lands (d := s.dev.takeTurn n k) ht he hs hl (((s.dev.clu n).plan.find? fun e => e.1 = k.val).map Prod.snd)
    refine ⟨_, exec_resultLand s n k, rfl, ?_⟩
    rw [if_neg (by simp [hrun, hclk]), hturn]
    exact ⟨hcore, (congrArg Core.flights hcore).trans (Core.land_flights _), hmem⟩

/-- Refutes O17: the write lands at its word, and a byte of a stack is held where the stack's remap table has it, which need be no granule of the stack in an arbitrary state (no migration makes such an entry). Here granule 0 of stack 0 stands in the buffer of cluster 0, and one write of that cluster is due, to its word 0: DPA 0, which lies outside the word, reads 0 before BUFFER_WRITE_LAND and 1 after it. -/
theorem not_bufferWritesLand : ¬ Obligations.BufferWritesLand := by
  unfold Obligations.BufferWritesLand
  intro h
  obtain ⟨t, ht, -, -, -, -, hbytes, -⟩ := h
    ⟨{ clus := [(0, { writes := [⟨0, 1, 0, 1, false⟩] })]
       stks := [(0, { remap := [(0, bufBase 0 / 2 ^ 21)] })] }, []⟩ 0 (by decide)
  rw [exec_bufferWriteLand] at ht
  obtain rfl := Host.Outcome.next.inj ht
  exact absurd (hbytes 0 (by decide) (by decide) (by decide)) (by decide +kernel)

/-- Settles O11: one equation of `Core.nextIndex` for each value of NEXT; a count of 0 and a count of 1 both fall short of another pass. -/
theorem loopSequencingFollowsNext : Obligations.LoopSequencingFollowsNext := by
  unfold Obligations.LoopSequencingFollowsNext
  intro c
  refine ⟨Core.nextIndex_step, fun h hc => ?_, fun h hc => ?_, fun h hc => ?_, fun h hc => ?_, Core.nextIndex_end, fun h => ?_, fun h => ?_⟩
  · rw [Core.nextIndex_loop0 h, if_pos hc]
  · rw [Core.nextIndex_loop0 h, if_neg (by omega)]
  · rw [Core.nextIndex_loop1 h, if_pos hc]
  · rw [Core.nextIndex_loop1 h, if_neg (by omega)]
  · rw [Core.nextIndex_loop0 (c := { c with lc0 := 0 }) h, Core.nextIndex_loop0 (c := { c with lc0 := 1 }) h]
    rfl
  · rw [Core.nextIndex_loop1 (c := { c with lc1 := 0 }) h, Core.nextIndex_loop1 (c := { c with lc1 := 1 }) h]
    rfl

end Sys2Proof.Proofs

/-! SUPPORT. The gaffer and its neighbours (04, R62–R82; 05, R93; 14, R303): the head that leaves its queue, flags, the scoreboard, the placement and the completion of a tile, what the outcome of an item leaves; and the statements about them. -/

namespace Sys2Proof.Machine

/-! ### What a served head leaves as it is (R67, R68) -/

/-- `d'` differs from `d` in what its clusters hold beside their registers only. -/
def Dev.ClusOnly (d d' : Dev) : Prop := d' = { d with clus := d'.clus }

theorem Dev.ClusOnly.trans {a b c : Dev} (h : a.ClusOnly b) (h' : b.ClusOnly c) : a.ClusOnly c := by
  unfold Dev.ClusOnly at *
  rw [h', h]

theorem Dev.ClusOnly.csr {d d' : Dev} (h : d.ClusOnly d') : d'.csr = d.csr := by rw [h]
theorem Dev.ClusOnly.mem {d d' : Dev} (h : d.ClusOnly d') : d'.mem = d.mem := by rw [h]
theorem Dev.ClusOnly.cores {d d' : Dev} (h : d.ClusOnly d') : d'.cores = d.cores := by rw [h]
theorem Dev.ClusOnly.jobs {d d' : Dev} (h : d.ClusOnly d') : d'.jobs = d.jobs := by rw [h]
theorem Dev.ClusOnly.flag {d d' : Dev} (h : d.ClusOnly d') (p : Page) (n : Nat) : d'.flag p n = d.flag p n := by rw [h]; rfl
theorem Dev.ClusOnly.qJob {d d' : Dev} (h : d.ClusOnly d') (u : UnitKey) (q : Nat) : d'.qJob u q = d.qJob u q := by rw [h]; rfl

theorem Dev.clusOnly_modClu (d : Dev) (n : Nat) (f : Clu → Clu) : d.ClusOnly (d.modClu n f) := rfl

/-- The round robin moves credits and its pointer. -/
theorem Dev.clusOnly_gafChoose {d e : Dev} {n c : Nat} (h : d.gafChoose n = some (c, e)) : d.ClusOnly e := by
  obtain ⟨⟨c', cr, p⟩, -, he⟩ := Option.map_eq_some_iff.1 h
  obtain ⟨-, rfl⟩ := Prod.mk.inj he
  exact d.clusOnly_modClu n _

theorem Dev.qDrop_clu (d : Dev) {n : Nat} (hn : n < 0x2000) (q k : Nat) :
    d.qDrop n q k = d.modGq n q fun x => { x with cmds := x.cmds.drop k, waitAt := none } := if_pos hn

/-- A WAIT at the head starts to be timed, or nothing changes. -/
theorem Dev.qArm_cases (d : Dev) {n : Nat} (hn : n < 0x2000) (q : Nat) :
    d.qArm n q = d ∨ ∃ v, d.qArm n q = d.modGq n q fun x => { x with waitAt := v } := by
  unfold Dev.qArm
  split
  · exact .inl rfl
  · dsimp only
    split
    · exact .inr ⟨_, rfl⟩
    · exact .inl rfl

/-- What a queue holds once `k` commands have left its head. -/
theorem Dev.qPop_q (d : Dev) {n q : Nat} (hn : n < 0x2000) (hq : q < 8) (k : Nat) :
    ∃ v, ((d.qPop n q k).clu n).q q = { (d.clu n).q q with cmds := ((d.clu n).q q).cmds.drop k, waitAt := v } := by
  have hdrop := d.clu_modGq_q n q (fun x => { x with cmds := x.cmds.drop k, waitAt := none }) hq
  rw [if_pos rfl, ← Dev.qDrop_clu d hn] at hdrop
  obtain h | ⟨v, h⟩ := (d.qDrop n q k).qArm_cases hn q
  · exact ⟨none, by rw [Dev.qPop, h, hdrop]⟩
  · exact ⟨v, by rw [Dev.qPop, h, Dev.clu_modGq_q _ _ _ _ hq, if_pos rfl, hdrop]⟩

theorem Dev.clusOnly_qPop (d : Dev) {n : Nat} (hn : n < 0x2000) (q k : Nat) : d.ClusOnly (d.qPop n q k) := by
  have hdrop : d.ClusOnly (d.qDrop n q k) := d.qDrop_clu hn q k ▸ d.clusOnly_modClu n _
  obtain h | ⟨v, h⟩ := (d.qDrop n q k).qArm_cases hn q
  · rwa [Dev.qPop, h]
  · exact hdrop.trans (by rw [Dev.qPop, h]; exact Dev.clusOnly_modClu _ n _)

/-- The `k` commands of a served head leave its queue, and nothing but clusters changes. -/
theorem Dev.served_qPop {d e : Dev} {n q w k : Nat} (h : d.GafServed n q w k e) (hn : n < 0x2000) (hq : q < 8) :
    d.ClusOnly (e.qPop n q k) ∧ (e.qPop n q k).qCmds n q = (d.qCmds n q).drop k := by
  obtain ⟨-, -, -, -, -, -, -, -, hchoose⟩ := h
  obtain ⟨hcmds, -, -⟩ := e.qPop_effect hn hq k
  exact ⟨(Dev.clusOnly_gafChoose hchoose).trans (e.clusOnly_qPop hn q k), hcmds.trans (by rw [Dev.qCmds_of_gafChoose hn hchoose hq])⟩

/-! ### The chosen head is issuable (R67, R68) -/

/-- The round robin chooses a queue that is ready. -/
theorem wrr_ready {n ptr q p : Nat} {weight credit cr : Nat → Nat} {bound ready : Nat → Bool}
    (h : wrr n weight credit bound ready ptr = some (q, cr, p)) : ready q = true := by
  unfold wrr at h
  dsimp only at h
  split at h
  · cases h
  · split at h
    · cases h
    · next i hi =>
      have hfound := List.find?_some hi
      obtain ⟨rfl, -⟩ := Prod.mk.inj (Option.some.inj h)
      exact (Bool.and_eq_true_iff.1 hfound).1

theorem Dev.gafIssuable_of_served {d e : Dev} {n q w k : Nat} (h : d.GafServed n q w k e) : d.gafIssuable n q w = true := by
  obtain ⟨-, -, -, -, -, -, hhead, hcheck, hchoose⟩ := h
  obtain ⟨⟨c, cr, p⟩, hwrr, he⟩ := Option.map_eq_some_iff.1 hchoose
  obtain ⟨rfl, -⟩ := Prod.mk.inj he
  have hready := wrr_ready hwrr
  rw [Dev.gafReady, hcheck, hhead] at hready
  exact (Bool.and_eq_true_iff.1 hready).2

/-- A WAIT is served with its flag at or above THRESHOLD. -/
theorem Dev.threshold_of_served {d e : Dev} {n q w k : Nat} (h : d.GafServed n q w k e) (hop : fld w 7 0 = 0x04) :
    sgAmount w ≤ d.flag (pClu n) (sgFlag w) := by
  simpa [Dev.gafIssuable, hop] using Dev.gafIssuable_of_served h

/-! ### Flags (R76) -/

theorem Dev.flag_le (d : Dev) (p : Page) (n : Nat) : d.flag p n ≤ 65535 := by
  simp only [Dev.flag, Dev.getF, wfld, fld]
  omega

/-- A flag reads as set. -/
theorem Dev.flag_setF (d : Dev) (p : Page) (n : Nat) {v : Nat} (h : v ≤ 65535) : (d.setF p (rFlag n) 15 0 v).flag p n = v := by
  rw [Dev.flag, Dev.getF, Dev.setF, Dev.reg_setReg_same, wfld_wput_low _ (by decide) (by omega)]

/-- An addition to a flag stays at 65,535. -/
theorem Dev.flag_addFlag (d : Dev) (p : Page) (n amount : Nat) : (d.addFlag p n amount).flag p n = min 65535 (d.flag p n + amount) := by
  unfold Dev.addFlag
  dsimp only
  split
  · next h =>
    rw [Dev.flag, Dev.getF, Dev.reg_setBit_ne _ _ _ (by unfold rFlag; omega)]
    exact (d.flag_setF p n (Nat.le_refl _)).trans (Nat.min_eq_left (by omega)).symm
  · next h => rw [Dev.flag_setF _ _ _ (by omega), Nat.min_eq_right (by omega)]

/-- An addition beyond 65,535 sets FLAG_SATURATED. -/
theorem Dev.bit_addFlag_saturated {d : Dev} {p : Page} {n amount : Nat} (h : 65535 < d.flag p n + amount) :
    (d.addFlag p n amount).bit p 0x48 0 = true := by
  rw [Dev.addFlag, if_pos h, Dev.bit_setBit_same _ _ _ _ _ (by decide)]

theorem Dev.SameRegsBut.mono {t d : Dev} {p : Page} {offs offs' : List Nat} (h : t.SameRegsBut d p offs) (hsub : offs ⊆ offs') : t.SameRegsBut d p offs' :=
  fun k hk => h k fun o ho => hk o (hsub ho)

/-- The registers that an operation writes are those that it writes on a device with the same registers. -/
theorem Dev.SameRegsBut.of_csr {t e d : Dev} {p : Page} {offs : List Nat} (h : t.SameRegsBut e p offs) (hcsr : e.csr = d.csr) : t.SameRegsBut d p offs :=
  fun k hk => hcsr ▸ h k hk

/-- An addition writes its flag and the sticky register. -/
theorem Dev.sameRegsBut_addFlag (d : Dev) (p : Page) (n amount : Nat) : (d.addFlag p n amount).SameRegsBut d p [rFlag n, 0x48] := by
  unfold Dev.addFlag
  dsimp only
  split
  · exact ((Dev.sameRegsBut_setBit _ p 0x48 0 true).trans (d.sameRegsBut_setReg p (rFlag n) _)).mono (by simp)
  · exact (d.sameRegsBut_setReg p (rFlag n) _).mono (by simp)

theorem Dev.flag_subFlag (d : Dev) (p : Page) (n amount : Nat) : (d.subFlag p n amount).flag p n = d.flag p n - amount :=
  d.flag_setF p n (Nat.sub_le_of_le_add (Nat.le_add_right_of_le (d.flag_le p n)))

theorem Dev.sameRegsBut_subFlag (d : Dev) (p : Page) (n amount : Nat) : (d.subFlag p n amount).SameRegsBut d p [rFlag n] :=
  d.sameRegsBut_setReg p (rFlag n) _

theorem Dev.RegsOnly.qCmds_clu {d d' : Dev} (h : d.RegsOnly d') {n : Nat} (hn : n < 0x2000) (q : Nat) : d'.qCmds n q = d.qCmds n q := by
  rw [Dev.qCmds_clu _ hn, Dev.qCmds_clu _ hn, h.clu n]

/-! ### NOP, SIGNAL, WAIT, FENCE of a served queue (R65, R76, R77; 12, R247) -/

section Served

variable {s : State} {n : Fin 800} {q : Fin 8} {w k : Nat} {e : Dev} (h : s.dev.GafServed n q w k e)
include h

theorem exec_gafferNop_served (hop : fld w 7 0 = 0x00) : exec (.gafferNop n q) s = .next ⟨e.qPop n q k, s.pending⟩ := by
  change execGafferNop n q s = _
  rw [execGafferNop, State.upd_eq, Dev.gafServe_served h hop]

theorem exec_gafferSignal_served (hop : fld w 7 0 = 0x03) :
    exec (.gafferSignal n q) s = .next ⟨(e.qPop n q k).addFlag (pClu n) (sgFlag w) (sgAmount w), s.pending⟩ := by
  change execGafferSignal n q s = _
  rw [execGafferSignal, State.upd_eq, Dev.gafServe_served h hop]

theorem exec_gafferWait_served (hop : fld w 7 0 = 0x04) :
    exec (.gafferWait n q) s =
      .next ⟨if wtConsume w then (e.qPop n q k).subFlag (pClu n) (sgFlag w) (sgAmount w) else e.qPop n q k, s.pending⟩ := by
  change execGafferWait n q s = _
  rw [execGafferWait, State.upd_eq, Dev.gafServe_served h hop]

theorem exec_gafferFence_served (hop : fld w 7 0 = 0x05) :
    exec (.gafferFence n q) s = .next ⟨(e.setFence n q (some (fnScope w))).qPop n q k, s.pending⟩ := by
  change execGafferFence n q s = _
  rw [execGafferFence, State.upd_eq, Dev.gafServe_served h hop]

theorem exec_tile_served (hop : fld w 7 0 = 0x01) {c : Nat} (hc : e.freeCore n q (tlCoreMask w) = some c) :
    exec (.tile n q) s =
      .next ⟨(e.qPop n q k).placeTile n q w ((((e.clu n).q q).cmds.drop 1).take (tlStreams w)) c, s.pending⟩ := by
  change execTile n q s = _
  rw [execTile, State.upd_eq, Dev.gafServe_served h hop]
  dsimp only
  rw [hc]

end Served

/-- A FENCE at the head leaves its queue and holds it; nothing but clusters changes. -/
theorem Dev.fence_effect (d : Dev) {n q : Nat} (hn : n < 0x2000) (hq : q < 8) (k scope : Nat) :
    let t := (d.setFence n q (some scope)).qPop n q k
    d.ClusOnly t ∧ t.qCmds n q = (d.qCmds n q).drop k ∧ t.qFence n q = some scope := by
  have hset : d.setFence n q (some scope) = d.modGq n q fun x => { x with fence := some scope } := if_pos hn
  have hq' : ((d.setFence n q (some scope)).clu n).q q = { (d.clu n).q q with fence := some scope } := by
    rw [hset, Dev.clu_modGq_q _ _ _ _ hq, if_pos rfl]
  obtain ⟨v, hpop⟩ := (d.setFence n q (some scope)).qPop_q hn hq k
  rw [hq'] at hpop
  refine ⟨.trans (b := d.setFence n q (some scope)) (hset ▸ d.clusOnly_modClu n _) (Dev.clusOnly_qPop _ hn q k), ?_, ?_⟩
  · rw [Dev.qCmds_clu _ hn, Dev.qCmds_clu _ hn, hpop, List.map_drop]
  · rw [Dev.qFence, if_pos hn, hpop]

/-! ### What leaves flags as they are (R74, R82) -/

/-- The offsets of the flags of a cluster's page (R82). -/
def FlagOff (o : Nat) : Prop := 0x100 ≤ o % 0x1000 ∧ o % 0x1000 < 0x200

/-- From `d` to `d'` the registers of every page at the places of flags stay, with the queues of every cluster, the cores and memory. -/
structure Dev.KeepsFlags (d d' : Dev) : Prop where
  flags : ∀ k, FlagOff k → tget? d'.csr k = tget? d.csr k
  qs : ∀ n, (d'.clu n).qs = (d.clu n).qs
  cores : d'.cores = d.cores
  mem : d'.mem = d.mem

theorem Dev.KeepsFlags.refl (d : Dev) : d.KeepsFlags d := ⟨fun _ _ => rfl, fun _ => rfl, rfl, rfl⟩

theorem Dev.KeepsFlags.of_eq {d d' : Dev} (hcsr : d'.csr = d.csr) (hclus : d'.clus = d.clus) (hcores : d'.cores = d.cores) (hmem : d'.mem = d.mem) :
    d.KeepsFlags d' :=
  ⟨fun _ _ => by rw [hcsr], fun n => by rw [Dev.clu, Dev.clu, hclus], hcores, hmem⟩

theorem Dev.KeepsFlags.trans {a b c : Dev} (h : a.KeepsFlags b) (h' : b.KeepsFlags c) : a.KeepsFlags c :=
  ⟨fun k hk => (h'.flags k hk).trans (h.flags k hk), fun n => (h'.qs n).trans (h.qs n), h'.cores.trans h.cores, h'.mem.trans h.mem⟩

theorem Dev.KeepsFlags.ite {d t e : Dev} {b : Prop} [Decidable b] (h : d.KeepsFlags t) (h' : d.KeepsFlags e) : d.KeepsFlags (if b then t else e) := by
  split
  · exact h
  · exact h'

theorem Dev.keepsFlags_foldl {α : Type} {f : Dev → α → Dev} {l : List α} (h : ∀ d, ∀ a ∈ l, Dev.KeepsFlags d (f d a)) (d : Dev) : d.KeepsFlags (l.foldl f d) :=
  Dev.foldl_holds (P := d.KeepsFlags) (fun e a ha he => he.trans (h e a ha)) (.refl d)

theorem Dev.KeepsFlags.core {d d' : Dev} (h : d.KeepsFlags d') (n k : Nat) : d'.core n k = d.core n k := by
  rw [Dev.core, Dev.core, h.cores]

theorem Dev.KeepsFlags.qCmds {d d' : Dev} (h : d.KeepsFlags d') {n : Nat} (hn : n < 0x2000) (q : Nat) : d'.qCmds n q = d.qCmds n q := by
  rw [Dev.qCmds_clu _ hn, Dev.qCmds_clu _ hn, Clu.q, Clu.q, h.qs n]

theorem Dev.KeepsFlags.flag {d d' : Dev} (h : d.KeepsFlags d') (p : Page) {n : Nat} (hn : n < 64) : d'.flag p n = d.flag p n := by
  have hplace : FlagOff (p.base + rFlag n) := by
    have hb := p.base_mod
    unfold FlagOff rFlag
    omega
  rw [Dev.flag, Dev.flag, Dev.getF, Dev.getF, Dev.reg, Dev.reg, tgetD, tgetD, h.flags _ hplace]

/-- What touches registers only, and no flag. -/
theorem Dev.RegsOnly.keepsFlags {d d' : Dev} (h : d.RegsOnly d') (hflags : ∀ k, FlagOff k → tget? d'.csr k = tget? d.csr k) : d.KeepsFlags d' :=
  ⟨hflags, fun n => congrArg Clu.qs (h.clu n), h.cores, h.mem⟩

theorem Dev.keepsFlags_setReg (d : Dev) (p : Page) {off : Nat} (v : Word) (h : ¬ FlagOff off) : d.KeepsFlags (d.setReg p off v) :=
  (d.regsOnly_setReg p off v).keepsFlags fun k hk => tget?_tput_ne d.csr v fun he => h (by
    have hb := p.base_mod
    unfold FlagOff at hk ⊢
    omega)

theorem Dev.keepsFlags_setBit (d : Dev) (p : Page) {off : Nat} (i : Nat) (b : Bool) (h : ¬ FlagOff off) : d.KeepsFlags (d.setBit p off i b) := by
  cases b
  · exact d.keepsFlags_setReg p _ h
  · exact .trans (b := d.noteSet p off i) (.of_eq rfl rfl rfl rfl) (Dev.keepsFlags_setReg _ p _ h)

theorem Dev.keepsFlags_addCount (d : Dev) (p : Page) {off : Nat} (n : Nat) (h : ¬ FlagOff off) : d.KeepsFlags (d.addCount p off n) := by
  unfold Dev.addCount
  exact .ite (.refl d) (.trans (b := d.noteAdd p off n) (.of_eq rfl rfl rfl rfl) (Dev.keepsFlags_setReg _ p _ h))

/-- A change of a cluster other than of its queues. -/
theorem Dev.keepsFlags_modClu (d : Dev) (n : Nat) {f : Clu → Clu} (hf : ∀ c, (f c).qs = c.qs) : d.KeepsFlags (d.modClu n f) :=
  ⟨fun _ _ => rfl, (d.keepsQueues_modClu n hf).qs, rfl, rfl⟩

/-- The scoreboard stands behind the flags. -/
theorem not_flagOff_score {m r : Nat} (h : r ∈ regions m) : ¬ FlagOff (rScore r) := by
  have hlt := (mem_maskBits.1 h).1
  unfold FlagOff rScore
  omega

theorem not_flagOff_core {k : Nat} (h : k < 32) : ¬ FlagOff (coreOff k) := by
  unfold FlagOff coreOff
  omega

/-- A change of the counts of readers and of the writer bits of the regions of two masks. -/
theorem Dev.keepsFlags_score (d : Dev) (n rd wr : Nat) (g : Nat → Nat) (b : Bool) :
    d.KeepsFlags ((d.each (readOnly rd wr) fun d r => d.setReaders n r (g (d.readers n r))).each (regions wr) fun d r => d.setBit (pClu n) (rScore r) 8 b) := by
  refine (Dev.keepsFlags_foldl (fun e r hr => ?_) d).trans (Dev.keepsFlags_foldl (fun e r hr => ?_) _)
  · exact .trans (e.keepsFlags_modClu n (f := fun c => { c with readers := tset c.readers r (g (e.readers n r)) 0 }) fun _ => rfl)
      (Dev.keepsFlags_setReg _ (pClu n) _ (not_flagOff_score (List.mem_filter.1 hr).1))
  · exact e.keepsFlags_setBit (pClu n) 8 b (not_flagOff_score hr)

theorem Dev.keepsFlags_scoreTake (d : Dev) (n rd wr : Nat) : d.KeepsFlags (d.scoreTake n rd wr) := d.keepsFlags_score n rd wr (· + 1) true
theorem Dev.keepsFlags_scoreFree (d : Dev) (n rd wr : Nat) : d.KeepsFlags (d.scoreFree n rd wr) := d.keepsFlags_score n rd wr (· - 1) false

theorem Dev.keepsFlags_coreSt (d : Dev) (n : Nat) {k : Nat} (h : k < 32) (st idx cause : Nat) : d.KeepsFlags (d.coreSt n k st idx cause) :=
  d.keepsFlags_setReg (pClu n) _ (not_flagOff_core h)

theorem Dev.keepsFlags_settleOverrun (d : Dev) (j : Nat) : d.KeepsFlags (d.settleOverrun j) := by
  refine .ite (.refl d) ?_
  unfold Dev.chargeOverrun Dev.accrueOverrun
  split
  · exact .refl d
  · exact .trans (b := d.modJob j _) (.of_eq rfl rfl rfl rfl) (Dev.keepsFlags_addCount _ (pPtn _) _ (by unfold FlagOff; omega))

/-! ### The placement of a tile (R69) -/

theorem lt_of_freeCore {d : Dev} {n q m c : Nat} (h : d.freeCore n q m = some c) : c < 32 :=
  List.mem_range.1 (List.mem_filter.1 (List.mem_of_find?_eq_some h)).1

/-- The tile that a TILE command places. -/
def Dev.newTile (d : Dev) (n q w : Nat) (streams : List (BitVec 256)) : Tile :=
  { job := d.qJob n q, queue := q, nonpre := tlNonpre w, sigEn := tlSigEn w, sigFlag := tlSigFlag w
    coreMask := tlCoreMask w, readR := tlRead w, writeR := tlWrite w, streams := streams, at_ := d.ao }

/-- The core on which a TILE command has placed its tile. -/
def Core.withTile (c : Core) (w : Nat) (t : Tile) (check : Bool) : Core :=
  { c with
    lc0 := tlLoopA w, li0 := tlLoopA w, lc1 := tlLoopB w, li1 := tlLoopB w
    fifo0 := [], fifo1 := [], cur0 := 0, cur1 := 0, popped0 := false, popped1 := false
    next := tlStart w, tile := some t, hcheck := check }

/-- The tile stands on its core, which runs; the queues of the cluster and memory stay. -/
theorem Dev.placeTile_effect (d : Dev) {n k : Nat} (hn : n < 0x2000) (hk : k < 32) (q w : Nat) (streams : List (BitVec 256)) :
    let t := d.placeTile n q w streams k
    t.core n k = (d.core n k).withTile w (d.newTile n q w streams) (d.bit (pClu n) 0x7C0 0) ∧
      t.coreState n k = csRunning ∧ (∀ r, t.qCmds n r = d.qCmds n r) ∧ t.mem = d.mem := by
  have hplace : d.placeTile n q w streams k =
      ((d.modCore n k (·.withTile w (d.newTile n q w streams) (d.bit (pClu n) 0x7C0 0))).scoreTake n (tlRead w) (tlWrite w)).coreSt n k csRunning (tlStart w) 0 := rfl
  have hkeep := (Dev.keepsFlags_scoreTake (d.modCore n k (·.withTile w (d.newTile n q w streams) (d.bit (pClu n) 0x7C0 0))) n (tlRead w) (tlWrite w)).trans
    (Dev.keepsFlags_coreSt _ n hk csRunning (tlStart w) 0)
  simp only [hplace]
  refine ⟨(hkeep.core n k).trans ?_, Dev.coreState_coreSt _ n k _ _ (by decide), fun r => hkeep.qCmds hn r, hkeep.mem⟩
  rw [Dev.core_modCore, if_pos rfl]

/-! ### The completion of a tile (R43, R74, R76) -/

/-- A core that has lost its tile holds none, and its FIFOs are empty. -/
theorem Dev.coreIdle_effect (d : Dev) (n : Nat) {k : Nat} (hk : k < 32) :
    (d.setCore n k { d.core n k with tile := none, fifo0 := [], fifo1 := [], retiring := false }).KeepsFlags (d.coreIdle n k) := by
  unfold Dev.coreIdle
  refine .trans ?settled (.ite ?retiring (Dev.keepsFlags_coreSt _ n hk _ _ _))
  case settled =>
    split
    · exact Dev.keepsFlags_settleOverrun _ _
    · exact .refl _
  case retiring =>
    exact (Dev.keepsFlags_setBit _ (pClu n) k false (by unfold FlagOff; omega)).trans (Dev.keepsFlags_coreSt _ n hk _ _ _)

/-- Core `k` without the tile `t` that has completed, its regions freed; `left`: stream entries were left over (R81). -/
def Dev.tileGone (d : Dev) (n k : Nat) (t : Tile) (left : Bool) : Dev :=
  ((if left then d.setBit (pClu n) 0x48 1 true else d).scoreFree n t.readR t.writeR).coreIdle n k

theorem exec_tileComplete_done {s : State} {n : Fin 800} {k : Fin 32} {x : Tile} (ht : (s.dev.core n k).tile = some x) (he : x.ended = true)
    (hs : x.stopped = false) (hf : (s.dev.core n k).flights = []) (hw : ((s.dev.clu n).writes.all fun b => b.core ≠ k.val) = true) :
    ∃ left, exec (.tileComplete n k) s =
      .next ⟨if x.sigEn then (s.dev.tileGone n k x left).addFlag (pClu n) x.sigFlag 1 else s.dev.tileGone n k x left, s.pending⟩ := by
  change ∃ left, execTileComplete n k s = _
  simp only [execTileComplete, State.upd_eq, ht, he, hs, hf, hw, List.isEmpty_nil, Bool.not_false, Bool.and_self, if_true]
  exact ⟨_, rfl⟩

/-- A completed tile leaves its core empty, and flags and memory as they were. -/
theorem Dev.tileGone_effect (d : Dev) (n : Nat) {k : Nat} (hk : k < 32) (x : Tile) (left : Bool) :
    ((d.tileGone n k x left).core n k).tile = none ∧ ((d.tileGone n k x left).core n k).fifo0 = [] ∧ (d.tileGone n k x left).mem = d.mem ∧
      ∀ f, f < 64 → (d.tileGone n k x left).flag (pClu n) f = d.flag (pClu n) f := by
  have hleft : d.KeepsFlags (if left then d.setBit (pClu n) 0x48 1 true else d) :=
    .ite (d.keepsFlags_setBit (pClu n) 1 true (by unfold FlagOff; omega)) (.refl d)
  have hfree := hleft.trans (Dev.keepsFlags_scoreFree _ n x.readR x.writeR)
  have hidle := Dev.coreIdle_effect ((if left then d.setBit (pClu n) 0x48 1 true else d).scoreFree n x.readR x.writeR) n hk
  have hcore := (hidle.core n k).trans (Dev.core_setCore_same ..)
  exact ⟨congrArg Core.tile hcore, congrArg Core.fifo0 hcore, hidle.mem.trans hfree.mem, fun f hf => (hidle.flag _ hf).trans (hfree.flag _ hf)⟩

/-! ### What the outcome of an item asks of other devices (14, R303, R304) -/

theorem Dev.far_addCount (d : Dev) (p : Page) (off n : Nat) : (d.addCount p off n).far = d.far := by rw [d.regsOnly_addCount p off n]

theorem Dev.far_routeOp (d : Dev) (o : HeldOp) : (d.routeOp o).far = d.far := by
  unfold Dev.routeOp
  split
  · rfl
  · cases o.req <;> rfl

theorem Dev.far_sendOp (d : Dev) (o : HeldOp) : (d.sendOp o).far = d.far := by
  unfold Dev.sendOp
  dsimp only
  split
  · rfl
  · exact Dev.far_routeOp _ o

theorem Dev.far_segOps (d : Dev) (peer cls mid domain : Nat) (data : List Byte) (l : List Nat) : (d.segOps peer cls mid domain data l).2.far = d.far := by
  induction l generalizing d with
  | nil => rfl
  | cons i l ih => exact ih d.takeId.2

theorem Dev.far_sendMsgAs (d : Dev) (peer cls mid domain : Nat) (data : List Byte) : (d.sendMsgAs peer cls mid domain data).far = d.far := by
  have hops := d.far_segOps peer cls mid domain data (List.range (ceilDiv data.length 8192))
  unfold Dev.sendMsgAs
  exact Dev.foldl_holds (P := fun e => e.far = d.far) (fun e o _ he => (e.far_sendOp o).trans he) hops

theorem Dev.far_sendUp (d : Dev) (data : List Byte) : (d.sendUp data).far = d.far := by
  unfold Dev.sendUp
  split
  · rfl
  · split
    · rfl
    · exact Dev.far_sendMsgAs ..

theorem Dev.far_finishMsg (d : Dev) (m : WorkMsg) : (d.finishMsg m).far = d.far := by
  unfold Dev.finishMsg
  dsimp only
  split
  · split
    · exact Dev.far_addCount ..
    · exact Dev.far_sendUp ..
  · rfl

/-- A message that is complete ends, another one is put back. -/
theorem Dev.far_endOrPut (d : Dev) (m : WorkMsg) : (if m.complete then d.finishMsg m else d.putWork m).far = d.far := by
  split
  · exact d.far_finishMsg m
  · rfl

theorem Dev.far_settleSeq (f : Nat) (d : Dev) (ptn : Nat) : (Dev.settleSeq f d ptn).far = d.far := by
  induction f generalizing d with
  | zero => rfl
  | succ f ih =>
    unfold Dev.settleSeq
    split
    · rfl
    · split
      · rfl
      · split
        · rfl
        · dsimp only
          split
          · rfl
          · exact (ih _).trans (Dev.far_endOrPut ..)

/-- The outcome of an item neither asks other devices for bytes nor drops what was asked. -/
theorem Dev.far_post (d : Dev) (msg item code info : Nat) : (d.post msg item code info).far = d.far := by
  unfold Dev.post
  split
  · rfl
  · split
    · rfl
    · split
      · rfl
      · exact (Dev.far_settleSeq _ _ _).trans (Dev.far_endOrPut ..)

/-- An item that ends by `Dev.endItem` leaves no read of other devices for the services of its partition. -/
theorem Dev.ne_endItem_of_far {d : Dev} {i : Item} (h : ∃ r ∈ d.far, r.who = 0x8000 + i.ptn) (f : Dev) (code info : Nat) : d ≠ f.endItem i code info := by
  rintro rfl
  obtain ⟨r, hr, hwho⟩ := h
  rw [Dev.endItem, Dev.far_post] at hr
  exact of_decide_eq_true (List.mem_filter.1 hr).2 hwho

theorem exec_enqCluster (p : Fin 25) (s : State) :
    exec (.enqCluster p) s = .next ⟨s.dev.serveItem p 0x0001 fun d i => d.enq 0 800 i, s.pending⟩ := rfl

/-! ### The secure region (05, R93) -/

theorem exec_cluBufSecureWrite (s : State) (r : Role) (n : Fin 800) (v : BitVec 32) :
    exec (.cluBufSecureWrite r n v) s = .next ⟨s.dev.guardPut r (pClu n) 0x400 v fun d v => d.writeSecure r n v, s.pending⟩ := rfl

end Sys2Proof.Machine

namespace Sys2Proof.Proofs

open Sys2Proof Sys2Proof.Machine

/-- Settles O12: a served head issues on the device that the round robin leaves, which differs in its clusters only; each command then acts on its flag or on its queue. -/
theorem gafferQueueCommandsComplete : Obligations.GafferQueueCommandsComplete := by
  unfold Obligations.GafferQueueCommandsComplete
  intro s n q w k e hserved
  have hn : n.val < 0x2000 := n.isLt.trans (by decide)
  obtain ⟨hclus, hcmds⟩ := Dev.served_qPop hserved hn q.isLt
  refine ⟨fun hop => ?nop, fun hop => ?signal, fun hop => ⟨Dev.threshold_of_served hserved hop, ?wait⟩, fun hop => ?fence⟩
  case nop => exact ⟨_, exec_gafferNop_served hserved hop, rfl, hcmds, hclus.csr, hclus.mem, hclus.cores, hclus.jobs⟩
  case signal =>
    have hregs := (e.qPop n q k).regsOnly_addFlag (pClu n) (sgFlag w) (sgAmount w)
    refine ⟨_, exec_gafferSignal_served hserved hop, rfl, (hregs.qCmds_clu hn q).trans hcmds, ?_, fun hsat => ?_,
      Dev.SameRegsBut.of_csr (Dev.sameRegsBut_addFlag _ _ _ _) hclus.csr, hregs.mem.trans hclus.mem, hregs.cores.trans hclus.cores, hregs.jobs.trans hclus.jobs⟩
    · exact (Dev.flag_addFlag ..).trans (by rw [hclus.flag])
    · exact Dev.bit_addFlag_saturated (by rwa [hclus.flag])
  case wait =>
    refine ⟨_, exec_gafferWait_served hserved hop, rfl, ?_⟩
    cases hconsume : wtConsume w with
    | true =>
      have hregs := (e.qPop n q k).regsOnly_subFlag (pClu n) (sgFlag w) (sgAmount w)
      exact ⟨(hregs.qCmds_clu hn q).trans hcmds, (Dev.flag_subFlag ..).trans (by rw [hclus.flag]; rfl), Dev.SameRegsBut.of_csr (Dev.sameRegsBut_subFlag _ _ _ _) hclus.csr, nofun,
        hregs.mem.trans hclus.mem, hregs.cores.trans hclus.cores, hregs.jobs.trans hclus.jobs⟩
    | false =>
      exact ⟨hcmds, hclus.flag _ _, Dev.SameRegsBut.of_csr (.refl _ _ _) hclus.csr, fun _ => hclus.csr, hclus.mem, hclus.cores, hclus.jobs⟩
  case fence =>
    obtain ⟨-, -, -, -, -, -, -, -, hchoose⟩ := id hserved
    obtain ⟨hpop, hleft, hfence⟩ := e.fence_effect hn q.isLt k (fnScope w)
    have hall := (Dev.clusOnly_gafChoose hchoose).trans hpop
    exact ⟨_, exec_gafferFence_served hserved hop, rfl, hleft.trans (by rw [Dev.qCmds_of_gafChoose hn hchoose q.isLt]), hfence, hall.csr, hall.mem, hall.cores, hall.jobs⟩

/-- Settles O13: a placement writes the core of its tile, the scoreboard and CORE_STATUS; a completion clears the core and writes no flag before the signal's own. -/
theorem tilePlacementAndCompletion : Obligations.TilePlacementAndCompletion := by
  unfold Obligations.TilePlacementAndCompletion
  refine ⟨fun s n q w k c e hserved hop hc => ?placement, fun s n k x ht he hs hf hw => ?completion⟩
  case placement =>
    have hn : n.val < 0x2000 := n.isLt.trans (by decide)
    obtain ⟨hclus, hcmds⟩ := Dev.served_qPop hserved hn q.isLt
    obtain ⟨-, -, -, -, -, -, -, -, hchoose⟩ := id hserved
    obtain ⟨hcore, hstate, hqueues, hmem⟩ :=
      (e.qPop n q k).placeTile_effect hn (lt_of_freeCore hc) q w ((((e.clu n).q q).cmds.drop 1).take (tlStreams w))
    have hlength : ((((e.clu n).q q).cmds.drop 1).take (tlStreams w)).length = min (tlStreams w) ((s.dev.qCmds n q).length - 1) := by
      rw [← Dev.qCmds_of_gafChoose hn hchoose q.isLt, Dev.qCmds_clu _ hn, List.length_take, List.length_drop, List.length_map]
    refine ⟨_, (e.qPop n q k).newTile n q w ((((e.clu n).q q).cmds.drop 1).take (tlStreams w)), exec_tile_served hserved hop hc, rfl, (hqueues q).trans hcmds, ?_⟩
    rw [hcore]
    exact ⟨rfl, hclus.qJob n q, rfl, rfl, rfl, rfl, rfl, hlength, rfl, rfl, rfl, rfl, rfl, hstate, hmem.trans hclus.mem⟩
  case completion =>
    obtain ⟨left, hexec⟩ := exec_tileComplete_done ht he hs hf hw
    obtain ⟨htile, hfifo, hmem, hflag⟩ := s.dev.tileGone_effect n k.isLt x left
    refine ⟨_, hexec, rfl, ?_⟩
    cases hsig : x.sigEn with
    | false => exact ⟨htile, hfifo, hmem, nofun⟩
    | true =>
      have hregs := (s.dev.tileGone n k x left).regsOnly_addFlag (pClu n) x.sigFlag 1
      have hcore := hregs.core n k
      exact ⟨(congrArg Core.tile hcore).trans htile, (congrArg Core.fifo0 hcore).trans hfifo, hregs.mem.trans hmem,
        fun _ hlt => (Dev.flag_addFlag ..).trans (by rw [hflag _ hlt])⟩

/-- Refutes O19: the wipe of the secure region clears the places of the region, and a DPA is held where the remap table of its stack has it, which need be no granule of the stack in an arbitrary state (no migration makes such an entry). Here granule 0 of stack 0 stands in the buffer of cluster 0: DPA 0xFC000, which lies outside the region, reads 1 before the security core's change of JOB and 0 after it. -/
theorem not_clusterBufferControl : ¬ Obligations.ClusterBufferControl := by
  unfold Obligations.ClusterBufferControl
  rintro ⟨-, hsecure, -⟩
  obtain ⟨-, hwipe⟩ := hsecure
    ⟨{ csr := [(pDev.base + 0x0C, 3), (pPwr.base + rDom 0, 0)]
       mem := [(bufBase 0 + 0xFC000, 1)]
       stks := [(0, { remap := [(0, bufBase 0 / 2 ^ 21)] })] }, []⟩
    .security 0 1 (by decide) (by decide)
  obtain ⟨t, ht, -, -, -, -, hbytes⟩ := hwipe rfl (by decide) (by decide)
  rw [exec_cluBufSecureWrite] at ht
  obtain rfl := Host.Outcome.next.inj ht
  exact absurd (hbytes 0xFC000 (.inl (by decide))) (by decide +kernel)

/-- Refutes O33: an ENQ item whose commands are appended answers 0 by the append (`Dev.drainHeld`), which does not drop what the services of its partition have asked of other devices; `Dev.endItem`, by which the statement has the item end, does. Here partition 0 has one such read under way, and its ENQ item appends one command to queue 1 of cluster 0: the read is still there after the answer, and there is no device on which `Dev.endItem` leaves it. -/
theorem not_enqItemsFillTheQueues : ¬ Obligations.EnqItemsFillTheQueues := by
  unfold Obligations.EnqItemsFillTheQueues
  rintro ⟨hcluster, -, -, -⟩
  obtain ⟨-, happend⟩ := hcluster
    ⟨{ csr := [(pPwr.base + rDom 0, 0), ((pPtn 0).base + 0x0C, 4), ((pClu 0).base + 0x0C, 4), ((pClu 0).base + 0x24, 0), ((pClu 0).base + 0x90, 0x1001)]
       jobs := [(1, { cls := 2, state := 1 })]
       far := [⟨0x8000, 1, 1, 0, 32, [], false, none⟩]
       work := [⟨1, 0, 0, 7, 0, [(0x0001, [0, 0, 1, 0, 1, 0, 0, 0] ++ List.replicate 32 1)], [], 0, false, none, none⟩] }, []⟩
    0 _ _ 0 1 1 (List.replicate 32 1) rfl (by decide) (by decide) (by decide) (by decide) (by decide)
  obtain ⟨f, hexec, -⟩ := happend (by decide +kernel) (by decide) (by decide) (by decide +kernel) (by decide +kernel) (by decide +kernel) (by decide +kernel)
  rw [exec_enqCluster] at hexec
  obtain ⟨hdev, -⟩ := State.mk.inj (Host.Outcome.next.inj hexec)
  refine Dev.ne_endItem_of_far ?_ f 0 0 hdev
  decide +kernel

end Sys2Proof.Proofs

/-! SUPPORT. Memory in its canonical form (12, R241), the operations that a step is made of: registers, events, queues, wakes, frames, work items, error patterns, die-cache lines, translation, stack copies, MERGE, the abort of a job, the units of a transfer. One lemma for each, named after it; its proof follows the operation's body, so that `.setEvent (.setReg h)` reads as `(d.setReg ..).setEvent ..` does. -/

namespace Sys2Proof.Machine

/-! ### Choice and repetition -/

theorem Memory.wf.ite {c : Prop} [Decidable c] {a b : Dev} (ha : Memory.wf a.mem) (hb : Memory.wf b.mem) : Memory.wf (if c then a else b).mem := by
  split
  · exact ha
  · exact hb

/-- A device with one more change where a condition holds. -/
theorem Memory.wf.iteLeft {c : Prop} [Decidable c] {a b : Dev} (f : Memory.wf b.mem → Memory.wf a.mem) (hb : Memory.wf b.mem) :
    Memory.wf (if c then a else b).mem := .ite (f hb) hb

/-- A device with one more change where a condition fails. -/
theorem Memory.wf.iteRight {c : Prop} [Decidable c] {a b : Dev} (f : Memory.wf a.mem → Memory.wf b.mem) (ha : Memory.wf a.mem) :
    Memory.wf (if c then a else b).mem := .ite ha (f ha)

theorem Memory.wf.fst {α : Type} {r : Dev × α} {d : Dev} {x : α} (e : r = (d, x)) (h : Memory.wf r.1.mem) : Memory.wf d.mem := by
  subst e; exact h

theorem Memory.wf.snd {α : Type} {r : α × Dev} {d : Dev} {x : α} (e : r = (x, d)) (h : Memory.wf r.2.mem) : Memory.wf d.mem := by
  subst e; exact h

theorem Memory.wf.foldl {α : Type} {f : Dev → α → Dev} {l : List α} {d : Dev} (hf : ∀ x a, Memory.wf x.mem → Memory.wf (f x a).mem)
    (h : Memory.wf d.mem) : Memory.wf (l.foldl f d).mem := Memory.wf_foldl f hf l h

theorem Memory.wf.foldlFst {α β : Type} {f : Dev × β → α → Dev × β} {l : List α} {r : Dev × β}
    (hf : ∀ x a, Memory.wf x.1.mem → Memory.wf (f x a).1.mem) (h : Memory.wf r.1.mem) : Memory.wf (l.foldl f r).1.mem := by
  induction l generalizing r with
  | nil => exact h
  | cons a l ih => exact ih (hf r a h)

theorem Memory.wf.foldlSnd {α β : Type} {f : β × Dev → α → β × Dev} {l : List α} {r : β × Dev}
    (hf : ∀ x a, Memory.wf x.2.mem → Memory.wf (f x a).2.mem) (h : Memory.wf r.2.mem) : Memory.wf (l.foldl f r).2.mem := by
  induction l generalizing r with
  | nil => exact h
  | cons a l ih => exact ih (hf r a h)

theorem Memory.wf.each {d : Dev} {l : List Nat} {f : Dev → Nat → Dev} (hf : ∀ x n, Memory.wf x.mem → Memory.wf (f x n).mem)
    (h : Memory.wf d.mem) : Memory.wf (d.each l f).mem := .foldl hf h

/-! ### Registers, events and faults (02, R28–R34) -/

theorem Memory.wf.setReg {d : Dev} {p : Page} {off : Nat} {v : Word} (h : Memory.wf d.mem) : Memory.wf (d.setReg p off v).mem := h
theorem Memory.wf.setF {d : Dev} {p : Page} {off hi lo v : Nat} (h : Memory.wf d.mem) : Memory.wf (d.setF p off hi lo v).mem := h
theorem Memory.wf.noteSet {d : Dev} {p : Page} {off i : Nat} (h : Memory.wf d.mem) : Memory.wf (d.noteSet p off i).mem := h
theorem Memory.wf.noteAdd {d : Dev} {p : Page} {off n : Nat} (h : Memory.wf d.mem) : Memory.wf (d.noteAdd p off n).mem := h

theorem Memory.wf.setBit {d : Dev} {p : Page} {off i : Nat} {b : Bool} (h : Memory.wf d.mem) : Memory.wf (d.setBit p off i b).mem :=
  .setReg (.ite (.noteSet h) h)

theorem Memory.wf.clearBit {d : Dev} {p : Page} {off i : Nat} (h : Memory.wf d.mem) : Memory.wf (d.clearBit p off i).mem := .ite h (.setBit h)

theorem Memory.wf.addCount {d : Dev} {p : Page} {off n : Nat} (h : Memory.wf d.mem) : Memory.wf (d.addCount p off n).mem :=
  .ite h (.setReg (.noteAdd h))

theorem Memory.wf.sramMet {d : Dev} {e : SramErr} (h : Memory.wf d.mem) : Memory.wf (d.sramMet e).mem := h
theorem Memory.wf.setPair {d : Dev} {p : Page} {lo hi v : Nat} (h : Memory.wf d.mem) : Memory.wf (d.setPair p lo hi v).mem := h
theorem Memory.wf.takeFree {d : Dev} (h : Memory.wf d.mem) : Memory.wf d.takeFree.2.mem := h
theorem Memory.wf.record {d : Dev} {dest kind : Nat} {payload : List Byte} (h : Memory.wf d.mem) : Memory.wf (d.record dest kind payload).mem := h
theorem Memory.wf.announce {d : Dev} {p : Page} (h : Memory.wf d.mem) : Memory.wf (d.announce p).mem := .ite h (.foldl (fun _ _ h => .record h) h)
theorem Memory.wf.setEvent {d : Dev} {p : Page} {i : Nat} (h : Memory.wf d.mem) : Memory.wf (d.setEvent p i).mem := .announce (.setBit h)
theorem Memory.wf.setSt {d : Dev} {p : Page} {v : Nat} (h : Memory.wf d.mem) : Memory.wf (d.setSt p v).mem := .ite h (.setEvent (.setF h))

theorem Memory.wf.fault {d : Dev} {p : Page} {code info : Nat} (h : Memory.wf d.mem) : Memory.wf (d.fault p code info).mem :=
  .ite (.setBit (.noteSet h)) (.setEvent (.setReg (.setReg h)))

theorem Memory.wf.answer {d : Dev} {v : Word} (h : Memory.wf d.mem) : Memory.wf (d.answer v).mem := h
theorem Memory.wf.refuse {d : Dev} (h : Memory.wf d.mem) : Memory.wf d.refuse.mem := h
theorem Memory.wf.invalid {d : Dev} {p : Page} (h : Memory.wf d.mem) : Memory.wf (d.invalid p).mem := .setEvent h
theorem Memory.wf.deny {d : Dev} {p : Page} (h : Memory.wf d.mem) : Memory.wf (d.deny p).mem := .refuse (.setEvent h)
theorem Memory.wf.setDom {d : Dev} {n v : Nat} (h : Memory.wf d.mem) : Memory.wf (d.setDom n v).mem := .setF h
theorem Memory.wf.out {d : Dev} {o : Sent} (h : Memory.wf d.mem) : Memory.wf (d.out o).mem := h

/-! ### The tables of the units -/

theorem Memory.wf.setClu {d : Dev} {n : Nat} {c : Clu} (h : Memory.wf d.mem) : Memory.wf (d.setClu n c).mem := h
theorem Memory.wf.modClu {d : Dev} {n : Nat} {f : Clu → Clu} (h : Memory.wf d.mem) : Memory.wf (d.modClu n f).mem := h
theorem Memory.wf.setCore {d : Dev} {n k : Nat} {c : Core} (h : Memory.wf d.mem) : Memory.wf (d.setCore n k c).mem := h
theorem Memory.wf.modCore {d : Dev} {n k : Nat} {f : Core → Core} (h : Memory.wf d.mem) : Memory.wf (d.modCore n k f).mem := h
theorem Memory.wf.modStk {d : Dev} {s : Nat} {f : Stk → Stk} (h : Memory.wf d.mem) : Memory.wf (d.modStk s f).mem := h
theorem Memory.wf.modDma {d : Dev} {e : Nat} {f : Dmac → Dmac} (h : Memory.wf d.mem) : Memory.wf (d.modDma e f).mem := h
theorem Memory.wf.modGq {d : Dev} {n i : Nat} {f : Gq → Gq} (h : Memory.wf d.mem) : Memory.wf (d.modGq n i f).mem := h
theorem Memory.wf.modMq {d : Dev} {s i : Nat} {f : Mq → Mq} (h : Memory.wf d.mem) : Memory.wf (d.modMq s i f).mem := h
theorem Memory.wf.modDq {d : Dev} {e i : Nat} {f : Dq → Dq} (h : Memory.wf d.mem) : Memory.wf (d.modDq e i f).mem := h
theorem Memory.wf.setJob {d : Dev} {j : Nat} {x : Job} (h : Memory.wf d.mem) : Memory.wf (d.setJob j x).mem := h
theorem Memory.wf.modJob {d : Dev} {j : Nat} {f : Job → Job} (h : Memory.wf d.mem) : Memory.wf (d.modJob j f).mem := h
theorem Memory.wf.modPx {d : Dev} {p : Nat} {f : PtnX → PtnX} (h : Memory.wf d.mem) : Memory.wf (d.modPx p f).mem := h
theorem Memory.wf.setRq {d : Dev} {i v : Nat} (h : Memory.wf d.mem) : Memory.wf (d.setRq i v).mem := h
theorem Memory.wf.modRx {d : Dev} {i : Nat} {f : ReqX → ReqX} (h : Memory.wf d.mem) : Memory.wf (d.modRx i f).mem := h
theorem Memory.wf.modPort {d : Dev} {n : Nat} {f : Port → Port} (h : Memory.wf d.mem) : Memory.wf (d.modPort n f).mem := h
theorem Memory.wf.setPath {d : Dev} {k : Nat} {p : Path} (h : Memory.wf d.mem) : Memory.wf (d.setPath k p).mem := h
theorem Memory.wf.modPath {d : Dev} {k : Nat} {f : Path → Path} (h : Memory.wf d.mem) : Memory.wf (d.modPath k f).mem := h
theorem Memory.wf.setQp {d : Dev} {k : Nat} {q : Qp} (h : Memory.wf d.mem) : Memory.wf (d.setQp k q).mem := h
theorem Memory.wf.modQp {d : Dev} {k : Nat} {f : Qp → Qp} (h : Memory.wf d.mem) : Memory.wf (d.modQp k f).mem := h
theorem Memory.wf.takeId {d : Dev} (h : Memory.wf d.mem) : Memory.wf d.takeId.2.mem := h
theorem Memory.wf.takeTag {d : Dev} (h : Memory.wf d.mem) : Memory.wf d.takeTag.2.mem := h
theorem Memory.wf.enqueue {d : Dev} {port peer id : Nat} {f : Frame} (h : Memory.wf d.mem) : Memory.wf (d.enqueue port peer id f).mem := h

theorem Memory.wf.addFlag {d : Dev} {p : Page} {n amount : Nat} (h : Memory.wf d.mem) : Memory.wf (d.addFlag p n amount).mem :=
  .ite (.setBit (.setF h)) (.setF h)

theorem Memory.wf.setReaders {d : Dev} {n r v : Nat} (h : Memory.wf d.mem) : Memory.wf (d.setReaders n r v).mem := .setF (.modClu h)

theorem Memory.wf.scoreFree {d : Dev} {n rd wr : Nat} (h : Memory.wf d.mem) : Memory.wf (d.scoreFree n rd wr).mem :=
  .each (fun _ _ h => .setBit h) (.each (fun _ _ h => .setReaders h) h)

/-! ### Wakes (20, R429, R430) -/

theorem Memory.wf.startWake {d : Dev} {n : Nat} (h : Memory.wf d.mem) : Memory.wf (d.startWake n).mem := .addCount (.setDom h)
theorem Memory.wf.waitWake {d : Dev} {n : Nat} (h : Memory.wf d.mem) : Memory.wf (d.waitWake n).mem := .ite h h

theorem Memory.wf.stkDemand {d : Dev} {s : Nat} (h : Memory.wf d.mem) : Memory.wf (d.stkDemand s).mem := by
  unfold Dev.stkDemand
  extract_lets d₁ d₂
  have h₂ : Memory.wf d₂.mem := .modStk (.ite h (.startWake h))
  exact .ite h₂ h₂

theorem Memory.wf.wakeDom {d : Dev} {n : Nat} (h : Memory.wf d.mem) : Memory.wf (d.wakeDom n).mem :=
  .ite h (.ite (.stkDemand h) (.ite (.waitWake h)
    (.ite (.addCount (.waitWake (.ite h (.startWake h)))) (.ite (.addCount (.waitWake h)) (.startWake h)))))

theorem Memory.wf.demand {d : Dev} {n : Nat} (h : Memory.wf d.mem) : Memory.wf (d.demand n).mem := .ite h (.wakeDom h)

theorem Memory.wf.startDevWake {d : Dev} {low : Nat} (h : Memory.wf d.mem) : Memory.wf (d.startDevWake low).mem := by
  unfold Dev.startDevWake
  extract_lets e pwr d₁ d₂
  have h₁ : Memory.wf d₁.mem := h
  have h₂ : Memory.wf d₂.mem := .ite (.setDom h₁) (.wakeDom (.wakeDom h₁))
  exact .ite h₁ (.each (fun _ _ h => .wakeDom h) h₂)

theorem Memory.wf.wakeCause {d : Dev} (h : Memory.wf d.mem) : Memory.wf d.wakeCause.mem := .ite h (.ite (.startDevWake h) (.ite h h))
theorem Memory.wf.endIdle {d : Dev} (h : Memory.wf d.mem) : Memory.wf d.endIdle.mem := .iteLeft .wakeCause h

theorem Memory.wf.memDemand {d : Dev} {a : Nat} (h : Memory.wf d.mem) : Memory.wf (d.memDemand a).mem := by
  unfold Dev.memDemand
  split
  · exact .ite h (.ite (.setF (.stkDemand h)) (.stkDemand h))
  · exact .demand h
  · exact h

/-! ### Frames and messages to other devices (14) -/

theorem Memory.wf.routeOp {d : Dev} {o : HeldOp} (h : Memory.wf d.mem) : Memory.wf (d.routeOp o).mem := by
  unfold Dev.routeOp
  split
  · exact h
  · refine .enqueue ?_
    split <;> exact h

theorem Memory.wf.sendOp {d : Dev} {o : HeldOp} (h : Memory.wf d.mem) : Memory.wf (d.sendOp o).mem := .ite h (.routeOp h)

theorem Memory.wf.sendWrite1 {d : Dev} {peer job domain a : Nat} {bs : List Byte} {marks : List Bool} (h : Memory.wf d.mem) :
    Memory.wf (d.sendWrite1 peer job domain a bs marks).2.mem := .sendOp (.takeId h)

theorem Memory.wf.sendAtomic {d : Dev} {peer job domain a aop lanes scope : Nat} {operand : List Byte} {ret : Option ReqFor} (h : Memory.wf d.mem) :
    Memory.wf (d.sendAtomic peer job domain a aop lanes scope operand ret).2.2.mem := .sendOp (.takeTag (.takeId h))

theorem Memory.wf.toDest {d : Dev} {data : List Byte} (h : Memory.wf d.mem) : Memory.wf (d.toDest data).mem := h

theorem Memory.wf.segOps {d : Dev} {peer cls mid domain : Nat} {data : List Byte} {l : List Nat} (h : Memory.wf d.mem) :
    Memory.wf (d.segOps peer cls mid domain data l).2.mem := by
  induction l generalizing d with
  | nil => exact h
  | cons i l ih => exact ih (.takeId h)

theorem Memory.wf.sendMsgAs {d : Dev} {peer cls mid domain : Nat} {data : List Byte} (h : Memory.wf d.mem) :
    Memory.wf (d.sendMsgAs peer cls mid domain data).mem := by
  unfold Dev.sendMsgAs
  exact .foldl (fun _ _ h => .sendOp h) (Memory.wf.segOps h)

theorem Memory.wf.sendMsgTo {d : Dev} {peer cls domain : Nat} {data : List Byte} (h : Memory.wf d.mem) :
    Memory.wf (d.sendMsgTo peer cls domain data).mem := .sendMsgAs h

theorem Memory.wf.sendUp {d : Dev} {data : List Byte} (h : Memory.wf d.mem) : Memory.wf (d.sendUp data).mem :=
  .ite h (.ite (.toDest h) (.sendMsgTo h))

theorem Memory.wf.mgtSend {d : Dev} {eid kind : Nat} {body : List Byte} (h : Memory.wf d.mem) : Memory.wf (d.mgtSend eid kind body).mem :=
  .addCount (.out h)

theorem Memory.wf.sentFar {d : Dev} {data : List Byte} (h : Memory.wf d.mem) : Memory.wf (d.sentFar data).mem := .addCount (.addCount (.takeFree h))

theorem Memory.wf.afterDone {d : Dev} (h : Memory.wf d.mem) : Memory.wf d.afterDone.mem := by
  unfold Dev.afterDone
  extract_lets out d₁ d₂ ready d₃
  have h₂ : Memory.wf d₂.mem := .foldl (fun _ _ h => .sentFar h) h
  exact .foldl (fun _ _ h => .sendOp h) h₂

theorem Memory.wf.toGlue {d : Dev} {p : Nat} {l : List Rec} (h : Memory.wf d.mem) : Memory.wf (d.toGlue p l).1.mem := h

/-! ### Outcomes of work items (14, R303, R304) -/

theorem Memory.wf.putWork {d : Dev} {m : WorkMsg} (h : Memory.wf d.mem) : Memory.wf (d.putWork m).mem := h

theorem Memory.wf.finishMsg {d : Dev} {m : WorkMsg} (h : Memory.wf d.mem) : Memory.wf (d.finishMsg m).mem := by
  unfold Dev.finishMsg
  extract_lets d₁
  split
  · split
    · exact .mgtSend h
    · exact .sendUp h
  · exact h

theorem Memory.wf.settleSeq {f : Nat} {d : Dev} {ptn : Nat} (h : Memory.wf d.mem) : Memory.wf (Dev.settleSeq f d ptn).mem := by
  induction f generalizing d with
  | zero => exact h
  | succ f ih =>
    unfold Dev.settleSeq
    split
    · exact h
    · split
      · exact h
      · exact .ite h (.ite (.putWork h) (ih (.ite (.finishMsg h) (.putWork h))))

theorem Memory.wf.settle {d : Dev} {ptn : Nat} (h : Memory.wf d.mem) : Memory.wf (d.settle ptn).mem := .settleSeq h

theorem Memory.wf.post {d : Dev} {msg item code info : Nat} (h : Memory.wf d.mem) : Memory.wf (d.post msg item code info).mem := by
  unfold Dev.post
  split
  · exact h
  · split
    · exact h
    · exact .ite h (.settle (.ite (.finishMsg h) (.putWork h)))

/-! ### Error patterns and marks (17) -/

theorem Memory.wf.mark {d : Dev} {u : Nat} (h : Memory.wf d.mem) : Memory.wf (d.mark u).mem := h
theorem Memory.wf.dropErr {d : Dev} {u : Nat} (h : Memory.wf d.mem) : Memory.wf (d.dropErr u).mem := by rw [d.dropErr_mem u]; exact h
theorem Memory.wf.noteErr {d : Dev} {u : Nat} (h : Memory.wf d.mem) : Memory.wf (d.noteErr u).mem := by rw [d.noteErr_mem u]; exact h

theorem Memory.wf.noteErrs {d : Dev} {a n : Nat} (h : Memory.wf d.mem) : Memory.wf (d.noteErrs a n).mem :=
  .ite h (.foldl (fun _ _ h => .iteLeft .noteErr h) h)

theorem Memory.wf.noteSecure {d : Dev} {ag : Agent} {a n : Nat} (h : Memory.wf d.mem) : Memory.wf (d.noteSecure ag a n).mem := by
  unfold Dev.noteSecure
  split
  · exact .ite (.setBit h) h
  · exact h

/-! ### Die-cache lines (12, R251) -/

theorem Memory.wf.setLine {d : Dev} {l : DieLine} (h : Memory.wf d.mem) : Memory.wf (d.setLine l).mem := h
theorem Memory.wf.writeBackLine {d : Dev} {l : DieLine} (h : Memory.wf d.mem) : Memory.wf (d.writeBackLine l).mem := Memory.wf_writeBackLine h l
theorem Memory.wf.dropLines {d : Dev} {p : DieLine → Bool} (h : Memory.wf d.mem) : Memory.wf (d.dropLines p).mem := h

theorem Memory.wf.shedBad {d : Dev} {die ptn b : Nat} (h : Memory.wf d.mem) : Memory.wf (d.shedBad die ptn b).mem := by
  unfold Dev.shedBad
  split
  · exact .ite (.addCount (.dropLines (.writeBackLine h))) h
  · exact h

theorem Memory.wf.cleanLine {d : Dev} {die ptn b : Nat} (h : Memory.wf d.mem) : Memory.wf (d.cleanLine die ptn b).mem := by
  unfold Dev.cleanLine
  split
  · exact .ite (.setLine (.writeBackLine h)) h
  · exact h

theorem Memory.wf.cachedBurst {d : Dev} {die ptn : Nat} {ag : Agent} {b : Nat} {vol : Bool} (h : Memory.wf d.mem) :
    Memory.wf (d.cachedBurst die ptn ag b vol).1.mem := by
  unfold Dev.cachedBurst
  extract_lets d₁ d₂
  have h₁ : Memory.wf d₁.mem := .shedBad h
  have h₂ : Memory.wf d₂.mem := .ite (.cleanLine h₁) h₁
  split
  · exact h₂
  · exact .ite (.noteErrs h₂) (.setLine (.noteErrs h₂))

theorem Memory.wf.cachedRead {d : Dev} {die ptn : Nat} {ag : Agent} {a n : Nat} {vol : Bool} (h : Memory.wf d.mem) :
    Memory.wf (d.cachedRead die ptn ag a n vol).1.mem := by
  unfold Dev.cachedRead
  split
  · exact .foldlFst (fun _ _ h => .cachedBurst h) h
  · exact .noteErrs h

/-! ### Translation (13, R261–R263) -/

theorem Memory.wf.tlbPut {d : Dev} {t : TlbEntry} (h : Memory.wf d.mem) : Memory.wf (d.tlbPut t).mem := h

theorem Memory.wf.keepWalk {d : Dev} {holder : Option Nat} {p pva : Nat} {w : Walk} {hit : Option TlbEntry} {leafToo : Bool} (h : Memory.wf d.mem) :
    Memory.wf (d.keepWalk holder p pva w hit leafToo).mem := by
  unfold Dev.keepWalk
  split
  · exact h
  · refine .iteLeft .setBit (.foldl (fun _ _ h => .tlbPut h) ?_)
    split
    · exact .tlbPut h
    · exact h

theorem Memory.wf.lastFault {d : Dev} {p pva : Nat} (h : Memory.wf d.mem) : Memory.wf (d.lastFault p pva).mem := .setPair h

theorem Memory.wf.xlate {d : Dev} {holder : Option Nat} {p pva : Nat} {write : Bool} (h : Memory.wf d.mem) :
    Memory.wf (d.xlate holder p pva write).1.mem := by
  unfold Dev.xlate
  split
  extract_lets d₁
  have h₁ : Memory.wf d₁.mem := .ite h (.addCount h)
  split
  · exact .lastFault (.keepWalk h₁)
  · split
    · exact .lastFault (.keepWalk h₁)
    · split
      · exact .lastFault (.keepWalk h₁)
      · exact .keepWalk h₁

theorem Memory.wf.xlRangeGo {holder : Option Nat} {p : Nat} {write : Bool} {f : Nat} {d : Dev} {pva n : Nat} (h : Memory.wf d.mem) :
    Memory.wf (Dev.xlRangeGo holder p write f d pva n).1.mem := by
  induction f generalizing d pva n with
  | zero => exact h
  | succ f ih =>
    unfold Dev.xlRangeGo
    split
    · exact h
    · split
      next e => exact .fst e (.xlate h)
      next e =>
        have h₁ := Memory.wf.fst e (.xlate h)
        extract_lets k
        split <;> next e' => exact .fst e' (ih h₁)

theorem Memory.wf.xlRange {d : Dev} {holder : Option Nat} {p pva n : Nat} {write : Bool} (h : Memory.wf d.mem) :
    Memory.wf (d.xlRange holder p pva n write).1.mem := .xlRangeGo h

theorem Memory.wf.segsDemand {d : Dev} {l : List Seg} (h : Memory.wf d.mem) : Memory.wf (d.segsDemand l).mem :=
  .foldl (fun _ _ h => .ite h (.memDemand h)) h

theorem Memory.wf.poisonLast {d : Dev} {p dpa : Nat} (h : Memory.wf d.mem) : Memory.wf (d.poisonLast p dpa).mem := .addCount (.setPair h)
theorem Memory.wf.freeBytes {d : Dev} {n : Nat} (h : Memory.wf d.mem) : Memory.wf (d.freeBytes n).1.mem := h

/-! ### Copier transfers (07, R138; 13, R274) -/

theorem Memory.wf.copyBurst {d : Dev} {ag : Agent} {a b : Nat} (h : Memory.wf d.mem) : Memory.wf (d.copyBurst ag a b).1.mem :=
  Memory.wf_writeMem (.noteErrs h) _ _ _ _

theorem Memory.wf.copyUnit {d : Dev} {r : CopyRun} {k : Nat} (h : Memory.wf d.mem) : Memory.wf (d.copyUnit r k).1.mem := by
  unfold Dev.copyUnit
  refine .foldlFst (fun x i h => ?_) h
  obtain ⟨d, y⟩ := x
  dsimp only
  split
  · exact .noteErrs h
  · split
    · exact Memory.wf_writeMem h _ _ _ _
    · split
      · exact Memory.wf_writeMem (.freeBytes h) _ _ _ _
      · exact .copyBurst h

theorem Memory.wf.copyUnits {s n : Nat} {d : Dev} {r : CopyRun} {k : Nat} (h : Memory.wf d.mem) : Memory.wf (Dev.copyUnits s n d r k).1.mem := by
  induction n generalizing d k with
  | zero => exact h
  | succ n ih =>
    unfold Dev.copyUnits
    split
    next e => exact .fst e (.copyUnit h)
    next e => exact ih (.modStk (.addCount (.fst e (.copyUnit h))))

theorem Memory.wf.copyAbort {d : Dev} {s : Nat} {r : CopyRun} (h : Memory.wf d.mem) : Memory.wf (d.copyAbort s r).mem :=
  .ite h (.copyUnits (.takeFree h))

/-! ### MERGE (08, R165–R168) -/

theorem Memory.wf.mergeStep {d : Dev} {n : Nat} {m : MergeRun} (h : Memory.wf d.mem) : Memory.wf (d.mergeStep n m).dev.mem := by
  have hread (ag : Agent) (a : Nat) : Memory.wf ((d.noteErrs a 32).noteSecure ag a 32).mem := .noteSecure (.noteErrs h)
  unfold Dev.mergeStep
  dsimp only
  split
  · rw [MergeStep.dev_marked]
    exact hread _ _
  · split
    · rw [MergeStep.dev_goes]
      exact hread _ _
    · rw [MergeStep.dev_goes]
      exact Memory.wf_writeMem (hread _ _) _ _ _ _

theorem Memory.wf.mergeAbort {n f : Nat} {d : Dev} {m : MergeRun} (h : Memory.wf d.mem) : Memory.wf (Dev.mergeAbort n f d m).mem :=
  Dev.mergeAbort_holds (P := fun e => Memory.wf e.mem) n (fun _ _ he => .mergeStep he) f d m h

/-! ### The boot record and void causes of a step (19, R401; 11, R229, R230) -/

theorem Memory.wf.setRec {d : Dev} {i : Nat} {r : Option BootRec} (h : Memory.wf d.mem) : Memory.wf (d.setRec i r).mem := h

theorem Memory.wf.writeRec {d : Dev} {f : BootRec → BootRec} (h : Memory.wf d.mem) : Memory.wf (d.writeRec f).mem := by
  unfold Dev.writeRec
  split
  · exact h
  · exact .setRec h

theorem Memory.wf.noteRec {d : Dev} (h : Memory.wf d.mem) : Memory.wf d.noteRec.mem := .writeRec h
theorem Memory.wf.voidStep {d : Dev} {p c map : Nat} (h : Memory.wf d.mem) : Memory.wf (d.voidStep p c map).mem := .modPx h
theorem Memory.wf.voidOnset {d : Dev} {p c map : Nat} (h : Memory.wf d.mem) : Memory.wf (d.voidOnset p c map).mem := .record (.setBit (.voidStep h))
theorem Memory.wf.voidOn {d : Dev} {p c map : Nat} (h : Memory.wf d.mem) : Memory.wf (d.voidOn p c map).mem := .ite (.voidStep h) (.voidOnset h)

theorem Memory.wf.voidOff {d : Dev} {p c : Nat} (h : Memory.wf d.mem) : Memory.wf (d.voidOff p c).mem :=
  .ite h (.ite (.record (.setBit h)) (.setBit h))

theorem Memory.wf.hcheckOn {d : Dev} {p n : Nat} (h : Memory.wf d.mem) : Memory.wf (d.hcheckOn p n).mem := .ite h (.voidOnset h)
theorem Memory.wf.hcheckOff {d : Dev} {p : Nat} (h : Memory.wf d.mem) : Memory.wf (d.hcheckOff p).mem := .ite h (.voidOff h)

theorem Memory.wf.parkOnset {d : Dev} {p : Nat} (h : Memory.wf d.mem) : Memory.wf (d.parkOnset p).mem := by
  unfold Dev.parkOnset
  split
  · exact h
  · split
    · exact h
    · exact .ite (.voidOn h) h

/-! ### Queues (04, R62–R68; 13, R265) -/

theorem Memory.wf.setQMark {d : Dev} {u : UnitKey} {q v : Nat} (h : Memory.wf d.mem) : Memory.wf (d.setQMark u q v).mem := .setF h
theorem Memory.wf.setQFault {d : Dev} {u : UnitKey} {q code : Nat} (h : Memory.wf d.mem) : Memory.wf (d.setQFault u q code).mem := .setF h

theorem Memory.wf.qClear {d : Dev} {u : UnitKey} {q : Nat} (h : Memory.wf d.mem) : Memory.wf (d.qClear u q).mem :=
  .ite (.modGq (.sramMet h)) (.ite (.modMq (.sramMet h)) (.modDq (.sramMet h)))

theorem Memory.wf.qCredit {d : Dev} {u : UnitKey} {q c : Nat} (h : Memory.wf d.mem) : Memory.wf (d.qCredit u q c).mem :=
  .ite (.modGq h) (.ite (.modMq h) (.modDq h))

theorem Memory.wf.bindQ {d : Dev} {u : UnitKey} {q job weight : Nat} (h : Memory.wf d.mem) : Memory.wf (d.bindQ u q job weight).mem :=
  .qCredit (.qClear (.setQFault (.setQMark (.setReg h))))

theorem Memory.wf.dropHeld {d : Dev} {u : UnitKey} {q reason : Nat} (h : Memory.wf d.mem) : Memory.wf (d.dropHeld u q reason).mem :=
  .foldl (fun _ _ h => .post h) h

theorem Memory.wf.unbindQ {d : Dev} {u : UnitKey} {q : Nat} (h : Memory.wf d.mem) : Memory.wf (d.unbindQ u q).mem :=
  .qClear (.setQMark (.setReg (.dropHeld h)))

theorem Memory.wf.qPush {d : Dev} {u : UnitKey} {q : Nat} {cmds : List Nat} (h : Memory.wf d.mem) : Memory.wf (d.qPush u q cmds).mem :=
  .ite (.modGq h) (.ite (.modMq h) (.modDq h))

theorem Memory.wf.qArm {d : Dev} {u : UnitKey} {q : Nat} (h : Memory.wf d.mem) : Memory.wf (d.qArm u q).mem := by
  unfold Dev.qArm
  split
  · exact h
  · exact .ite (.ite (.modGq h) (.ite (.modMq h) (.modDq h))) h

theorem Memory.wf.qAppend {d : Dev} {u : UnitKey} {q : Nat} {cmds : List Nat} (h : Memory.wf d.mem) : Memory.wf (d.qAppend u q cmds).mem :=
  .qArm (.qPush h)

theorem Memory.wf.setHeld {d : Dev} {u : UnitKey} {q : Nat} {l : List HeldCmd} (h : Memory.wf d.mem) : Memory.wf (d.setHeld u q l).mem :=
  .ite (.modGq h) (.ite (.modMq h) (.modDq h))

theorem Memory.wf.drainHeld {d : Dev} {u : UnitKey} {q : Nat} (h : Memory.wf d.mem) : Memory.wf (d.drainHeld u q).mem :=
  .ite h (.foldl (fun _ _ h => .ite h (.post h)) (.setHeld (.qAppend h)))

theorem Memory.wf.feed {d : Dev} {u : UnitKey} {q : Nat} {cmds : List (List Byte)} {msg item : Nat} (h : Memory.wf d.mem) :
    Memory.wf (d.feed u q cmds msg item).mem := .drainHeld (.setHeld (.ite h (.demand h)))

theorem Memory.wf.engIssue {d : Dev} {p s cmd : Nat} {phys : Bool} (h : Memory.wf d.mem) : Memory.wf (d.engIssue p s cmd phys).2.mem := .feed h

/-! ### Abort and fault of a job (04, R80) -/

theorem Memory.wf.coreSt {d : Dev} {n k st idx cause : Nat} (h : Memory.wf d.mem) : Memory.wf (d.coreSt n k st idx cause).mem := .setReg h

theorem Memory.wf.accrueOverrun {d : Dev} {j : Nat} {still : Option Nat} (h : Memory.wf d.mem) : Memory.wf (d.accrueOverrun j still).mem := by
  unfold Dev.accrueOverrun
  split
  · exact h
  · exact .addCount (.modJob h)

theorem Memory.wf.chargeOverrun {d : Dev} {j : Nat} (h : Memory.wf d.mem) : Memory.wf (d.chargeOverrun j).mem := .accrueOverrun h
theorem Memory.wf.settleOverrun {d : Dev} {j : Nat} (h : Memory.wf d.mem) : Memory.wf (d.settleOverrun j).mem := .ite h (.chargeOverrun h)

theorem Memory.wf.coreIdle {d : Dev} {n k : Nat} (h : Memory.wf d.mem) : Memory.wf (d.coreIdle n k).mem := by
  unfold Dev.coreIdle
  extract_lets c d₁ d₂
  have h₂ : Memory.wf d₂.mem := by
    unfold d₂
    split
    · exact .settleOverrun h
    · exact h
  exact .ite (.coreSt (.setBit h₂)) (.coreSt h₂)

theorem Memory.wf.stopTile {d : Dev} {n k : Nat} (h : Memory.wf d.mem) : Memory.wf (d.stopTile n k).mem := by
  unfold Dev.stopTile
  dsimp only
  split
  · exact h
  · exact .ite h (.iteLeft .coreIdle (.setCore (.scoreFree h)))

theorem Memory.wf.holdFree {d : Dev} {p i : Nat} (h : Memory.wf d.mem) : Memory.wf (d.holdFree p i).mem := .setReg (.setReg (.setReg h))

theorem Memory.wf.abortQueues {d : Dev} {u : UnitKey} {j : Nat} {fq : Option Nat} {code : Nat} {reason : Nat} (h : Memory.wf d.mem) :
    Memory.wf (d.abortQueues u j fq code reason).mem := by
  unfold Dev.abortQueues
  refine .each (fun e q h => ?_) h
  have hclear : Memory.wf ((e.dropHeld u q reason).qClear u q).mem := .qClear (.dropHeld h)
  exact .ite (.setQFault (.setQMark hclear)) (.setQFault (.setQMark hclear))

theorem Memory.wf.abortHolds {d : Dev} {u : UnitKey} {j : Nat} (h : Memory.wf d.mem) : Memory.wf (d.abortHolds u j).mem :=
  .each (fun _ _ h => .ite (.holdFree h) h) h

theorem Memory.wf.abortClu {d : Dev} {n j : Nat} {fq : Option Nat} {code reason : Nat} (h : Memory.wf d.mem) :
    Memory.wf (d.abortClu n j fq code reason).mem := by
  unfold Dev.abortClu
  extract_lets d₁ d₂ d₃ c mine d₄ d₅
  have h₂ : Memory.wf d₂.mem := .abortQueues (.abortHolds h)
  have h₃ : Memory.wf d₃.mem := .each (fun _ _ h => by
    split
    · exact .ite (.stopTile h) h
    · exact h) h₂
  have h₄ : Memory.wf d₄.mem := .foldl (fun _ _ h => by
    split
    · exact .scoreFree h
    · exact h) h₃
  have h₅ : Memory.wf d₅.mem := by
    unfold d₅
    split
    · exact .ite (.scoreFree (.mergeAbort h₄)) h₄
    · exact h₄
  exact .modClu h₅

theorem Memory.wf.abortStk {d : Dev} {s j : Nat} {fq : Option Nat} {code reason : Nat} (h : Memory.wf d.mem) :
    Memory.wf (d.abortStk s j fq code reason).mem := by
  unfold Dev.abortStk
  extract_lets u d₁ mine d₂ d₃
  have h₂ : Memory.wf d₂.mem := .foldl (fun _ _ h => .foldl (fun _ _ h => Memory.wf_writeMem h _ _ _ _) (.takeFree h)) (.abortQueues h)
  have h₃ : Memory.wf d₃.mem := .foldl (fun _ _ h => .copyAbort h) h₂
  exact .modStk h₃

theorem Memory.wf.abortDma {d : Dev} {e j : Nat} {fq : Option Nat} {code reason : Nat} (h : Memory.wf d.mem) :
    Memory.wf (d.abortDma e j fq code reason).mem := .modDma (.iteRight .addCount (.abortQueues (.abortHolds h)))

theorem Memory.wf.abortUnit {d : Dev} {u : UnitKey} {j : Nat} {fq : Option Nat} {code reason : Nat} (h : Memory.wf d.mem) :
    Memory.wf (d.abortUnit u j fq code reason).mem := by
  unfold Dev.abortUnit
  extract_lets d₁
  have h₁ : Memory.wf d₁.mem := .ite h h
  exact .ite (.abortClu h₁) (.ite (.abortStk h₁) (.abortDma h₁))

theorem Memory.wf.jobFaultM {d : Dev} {u : UnitKey} {q : Nat} {j code info : Nat} {members : Option (List FaultName)} (h : Memory.wf d.mem) :
    Memory.wf (d.jobFaultM u q j code info members).mem := by
  unfold Dev.jobFaultM
  extract_lets d₁ was d₂ others d₃ d₄
  have h₂ : Memory.wf d₂.mem := .setJob (.fault h)
  have h₃ : Memory.wf d₃.mem := .abortUnit h₂
  have h₄ : Memory.wf d₄.mem := .ite h₃ h₃
  exact .ite (.setQFault (.setQMark h₂)) (.ite h₄ (.record h₄))

theorem Memory.wf.jobFault {d : Dev} {u : UnitKey} {q : Nat} {j code info : Nat} (h : Memory.wf d.mem) : Memory.wf (d.jobFault u q j code info).mem :=
  .jobFaultM h

theorem Memory.wf.jobStop {d : Dev} {u : UnitKey} {j code : Nat} (h : Memory.wf d.mem) : Memory.wf (d.jobStop u j code).mem := by
  unfold Dev.jobStop
  extract_lets was qs d₁ others d₂ d₃ d₄
  have h₃ : Memory.wf d₃.mem := .each (fun _ _ h => .setQFault h) (.abortUnit (.setJob h))
  have h₄ : Memory.wf d₄.mem := .ite h₃ h₃
  exact .ite h₄ (.record h₄)

theorem Memory.wf.jobAbortAll {d : Dev} {j code info : Nat} {pg : Page} (h : Memory.wf d.mem) : Memory.wf (d.jobAbortAll j code info pg).mem := by
  unfold Dev.jobAbortAll
  extract_lets x d₁ d₂
  have h₂ : Memory.wf d₂.mem := .setJob (.foldl (fun _ _ h => .each (fun _ _ h => .setQFault h) (.abortUnit h)) h)
  exact .ite h (.ite h₂ (.record h₂))

theorem Memory.wf.poisonFault {d : Dev} {u : UnitKey} {q j dpa consumer : Nat} {members : Option (List FaultName)} (h : Memory.wf d.mem) :
    Memory.wf (d.poisonFault u q j dpa consumer members).mem := .jobFaultM (.poisonLast h)

theorem Memory.wf.unitRetired {d : Dev} {owner kind unit sub : Nat} {reason : Option Nat} {moved lost : Nat} (h : Memory.wf d.mem) :
    Memory.wf (d.unitRetired owner kind unit sub reason moved lost).mem := by
  unfold Dev.unitRetired
  exact .ite (.record (.noteRec (.takeFree h))) (.record (.record (.noteRec (.takeFree h))))

/-! ### Atomics and flags (12, R247; 04, R76; 07, R130) -/

theorem Memory.wf.atomicAt {d : Dev} {ag : Agent} {a op lanes : Nat} {operand : List Byte} (h : Memory.wf d.mem) :
    Memory.wf (d.atomicAt ag a op lanes operand).1.mem := by
  unfold Dev.atomicAt
  extract_lets d₁ m old new d₂ keep d₃
  have h₁ : Memory.wf d₁.mem := .noteErrs h
  have h₂ : Memory.wf d₂.mem := by
    unfold d₂
    split
    · exact .addCount h₁
    · exact h₁
  have h₃ : Memory.wf d₃.mem := Memory.wf_writeMemW h₂ _ _ _ _ _
  split
  · exact Memory.wf_writeMem h₁ _ _ _ _
  · split
    · exact h₁
    · split
      · exact h₂
      · exact .ite h₃ h₃

theorem Memory.wf.signalClu {d : Dev} {n f amount : Nat} (h : Memory.wf d.mem) : Memory.wf (d.signalClu n f amount).mem :=
  .ite (.setEvent h) (.addFlag h)

theorem Memory.wf.signalStk {d : Dev} {s f amount : Nat} (h : Memory.wf d.mem) : Memory.wf (d.signalStk s f amount).mem :=
  .ite (.setEvent h) (.addFlag h)

/-! ### Units of a transfer of the compute DMA (06, R101–R117; 13, R272) -/

theorem Memory.wf.readPiece {d : Dev} {die : Nat} {p j : Nat} {vol : Bool} {rd : List Seg} {got : List (Nat × List Byte × Bool)} {r : Range}
    (h : Memory.wf d.mem) : Memory.wf (d.readPiece die p j vol rd got r).1.mem := by
  unfold Dev.readPiece
  split
  · exact h
  · split
    · exact h
    · exact Memory.wf.cachedRead h

theorem Memory.wf.readRuns {d : Dev} {die p j : Nat} {vol : Bool} {rd : List Seg} {got : List (Nat × List Byte × Bool)}
    {l : List (Nat × Range)} (h : Memory.wf d.mem) : Memory.wf (d.readRuns die p j vol rd got l).1.mem := by
  induction l generalizing d with
  | nil => exact h
  | cons r l ih =>
    unfold Dev.readRuns
    exact ih (.foldlFst (fun _ _ h => .readPiece h) h)

theorem Memory.wf.unitBits {d : Dev} {src dst : Desc} {ops : List ElOp} {l : List RRun} (h : Memory.wf d.mem) :
    Memory.wf (d.unitBits src dst ops l).1.mem := by
  unfold Dev.unitBits
  refine .foldlFst (fun x o h => ?_) h
  obtain ⟨d, els, scs⟩ := x
  dsimp only
  split
  · exact h
  · exact h
  · exact .takeFree h

theorem Memory.wf.lineLanes {d : Dev} {die p a op lanes : Nat} {new : List Byte} (h : Memory.wf d.mem) :
    Memory.wf (d.lineLanes die p a op lanes new).mem := h

theorem Memory.wf.dmaAtom {d : Dev} {e p j scope : Nat} {s : Seg} {op lanes : Nat} {operand : List Byte} {ret : Option ReqFor}
    (h : Memory.wf d.mem) : Memory.wf (d.dmaAtom e p j scope s op lanes operand ret).1.mem := by
  unfold Dev.dmaAtom
  split
  · exact Memory.wf.sendAtomic h
  · extract_lets die ag d₁ line
    have h₁ : Memory.wf d₁.mem := .shedBad h
    split
    · split
      · exact h₁
      · exact .setLine h₁
    · split
      next r => exact .fst r (.atomicAt h₁)
      next r => exact .fst r (.atomicAt h₁)
      next r => exact .lineLanes (.fst r (.atomicAt h₁))

theorem Memory.wf.noteSent {d : Dev} {e q k : Nat} {ids : List (Nat × Nat)} (h : Memory.wf d.mem) : Memory.wf (d.noteSent e q k ids).mem := .modDma h

theorem Memory.wf.addAll {e q k p j scope op : Nat} {wr : List Seg} {d : Dev} {l : List (Nat × Nat × List Byte × Option Nat)}
    (h : Memory.wf d.mem) : Memory.wf (Dev.addAll e q k p j scope op wr d l).mem := by
  induction l generalizing d with
  | nil => exact h
  | cons x l ih =>
    obtain ⟨a, lanes, operand, m⟩ := x
    unfold Dev.addAll
    split
    · exact .poisonFault h
    · split
      · exact ih h
      · split
        next r => exact .poisonFault (.fst r (.dmaAtom h))
        next r => exact .jobFault (.fst r (.dmaAtom h))
        next r => exact ih (.fst r (.dmaAtom h))
        next r => exact ih (.noteSent (.fst r (.dmaAtom h)))

theorem Memory.wf.unitPiece {u : UnitWrite} {die p j : Nat} {wr : List Seg} {a : Nat} {bs : List Byte} {marked : Bool}
    (h : Memory.wf u.d.mem) : Memory.wf (u.piece die p j wr a bs marked).d.mem := by
  unfold UnitWrite.piece
  split
  · exact h
  · exact Memory.wf_cachedWrite h _ _ _ _ _ _

/-- A fold of writes of a unit. -/
theorem Memory.wf.unitFoldl {α : Type} {f : UnitWrite → α → UnitWrite} {l : List α} {u : UnitWrite}
    (hf : ∀ x a, Memory.wf x.d.mem → Memory.wf (f x a).d.mem) (h : Memory.wf u.d.mem) : Memory.wf (l.foldl f u).d.mem := by
  induction l generalizing u with
  | nil => exact h
  | cons a l ih => exact ih (hf u a h)

theorem Memory.wf.unitRun {u : UnitWrite} {die p j : Nat} {wr : List Seg} {r : BitRun} (h : Memory.wf u.d.mem) :
    Memory.wf (u.run die p j wr r).d.mem := by
  unfold UnitWrite.run
  extract_lets a n old lo hi v bs part u₁ mkd
  have h₁ : Memory.wf u₁.d.mem := by
    unfold u₁
    split <;> exact h
  refine .unitFoldl (fun x c h => ?_) h₁
  split
  · exact h
  · extract_lets x
    split
    · exact .sendWrite1 h
    · split
      · exact .unitFoldl (fun _ _ h => .unitPiece h) h
      · exact .unitPiece h

theorem Memory.wf.putRet {d : Dev} {e q k p j : Nat} {wr : List Seg} {ret : Nat} {old : List Byte} {marked : Bool} (h : Memory.wf d.mem) :
    Memory.wf (d.putRet e q k p j wr ret old marked).mem := .iteLeft .jobFault (.noteSent (Memory.wf.unitRun h))

theorem Memory.wf.performUnit {d : Dev} {e q : Nat} {x : Xfer} {u : DUnit} (h : Memory.wf d.mem) : Memory.wf (d.performUnit e q x u).1.mem := by
  unfold Dev.performUnit
  extract_lets w src dst die same
  split
  · split
    · exact h
    · split
      · split
        · exact .putRet h
        · exact h
      · split
        next r => exact .poisonFault (.fst r (.dmaAtom h))
        next r => exact .jobFault (.fst r (.dmaAtom h))
        next r => exact .iteLeft .putRet (.fst r (.dmaAtom h))
        next r => exact .fst r (.dmaAtom h)
  · split
    next r =>
    have h₁ := Memory.wf.fst r (.readRuns h)
    extract_lets l keep
    split
    · exact .addAll h₁
    · split
      next r =>
      have h₂ := Memory.wf.fst r (.unitBits h₁)
      exact .iteLeft .jobFault (.noteSent (.unitFoldl (fun _ _ h => .unitRun h) h₂))

theorem Memory.wf.performReady {f : Nat} {d : Dev} {e q : Nat} (h : Memory.wf d.mem) : Memory.wf (Dev.performReady f d e q).mem := by
  induction f generalizing d with
  | zero => exact h
  | succ f ih =>
    unfold Dev.performReady
    split
    · exact h
    · split
      · exact h
      · split
        · exact h
        · exact ih (.modDma (.performUnit (.modDma h)))

theorem Memory.wf.dmaGot {d : Dev} {e q k pva tag : Nat} {last : Bool} {data : List Byte} {poison : Nat → Bool} (h : Memory.wf d.mem) :
    Memory.wf (d.dmaGot e q k pva tag last data poison).mem := by
  unfold Dev.dmaGot
  extract_lets pieces upd has d₁
  have h₁ : Memory.wf d₁.mem := .modDma h
  split
  · extract_lets x
    split
    · exact .modDma h₁
    · exact .foldlFst (fun _ _ h => .ite (.performUnit h) (.addCount (.performUnit h))) h₁
  · exact .performReady (.modDma h)

/-! ### Holds (13, R271–R273) -/

theorem Memory.wf.holdRelease {d : Dev} {p i : Nat} (h : Memory.wf d.mem) : Memory.wf (d.holdRelease p i).mem := by
  unfold Dev.holdRelease
  extract_lets u d₁ mine drop d₂
  have h₁ : Memory.wf d₁.mem := .holdFree h
  exact .ite (.modClu (.each (fun _ _ h => .modCore h) h₁)) (.modDma h₁)

theorem Memory.wf.holdRetry {d : Dev} {p i : Nat} (h : Memory.wf d.mem) : Memory.wf (d.holdRetry p i).mem := by
  unfold Dev.holdRetry
  split
  · exact h
  · extract_lets write
    split
    next e => exact .holdRelease (.fst e (.xlate h))
    next e => exact .setBit (.setF (.fst e (.xlate h)))

theorem Memory.wf.holdFault {d : Dev} {p i : Nat} {expired : Bool} (h : Memory.wf d.mem) : Memory.wf (d.holdFault p i expired).mem :=
  .ite h (.holdFree (.jobFault (.ite (.addCount h) h)))

theorem Memory.wf.writeHoldCtrl {d : Dev} {p i : Nat} {v : Word} (h : Memory.wf d.mem) : Memory.wf (d.writeHoldCtrl p i v).mem :=
  .ite (.holdFault h) (.ite (.holdRetry h) h)

end Sys2Proof.Machine

/-! SUPPORT. Memory in its canonical form (12, R241), what the units do: tables of translation, the pool, requests, sealed keys, ports and paths, domains, resets, accesses to control space, operations of other devices. -/

namespace Sys2Proof.Machine

/-! ### Translation tables (13, R262–R265) -/

/-- Where room for a table is found, the device with the table zeroed. -/
theorem Memory.wf.newTable {d : Dev} {p l : Nat} {r : Nat × Dev} (e : d.newTable p l = some r) (h : Memory.wf d.mem) : Memory.wf r.2.mem := by
  unfold Dev.newTable at e
  extract_lets n at e
  split at e
  · cases e
  · cases e
    exact .modPx (Memory.wf_zeroRange h _ _)

theorem Memory.wf.writeNum {d : Dev} {a n v : Nat} (h : Memory.wf d.mem) : Memory.wf (d.writeNum a n v).mem := Memory.wf_writeNum h a n v
theorem Memory.wf.zeroRange {d : Dev} {a n : Nat} (h : Memory.wf d.mem) : Memory.wf (d.zeroRange a n).mem := Memory.wf_zeroRange h a n
theorem Memory.wf.putEntry {d : Dev} {a v : Nat} (h : Memory.wf d.mem) : Memory.wf (d.putEntry a v).mem := .writeNum h
theorem Memory.wf.freeTable {d : Dev} {p a : Nat} (h : Memory.wf d.mem) : Memory.wf (d.freeTable p a).mem := .modPx h

theorem Memory.wf.freeTree {p l : Nat} {d : Dev} {a : Nat} (h : Memory.wf d.mem) : Memory.wf (Dev.freeTree p l d a).mem := by
  induction l generalizing d a with
  | zero => exact .freeTable h
  | succ l ih => exact .freeTable (.foldl (fun _ _ h => ih h) h)

theorem Memory.wf.splitLeaf {d : Dev} {p l x : Nat} {r : Nat × Dev} (e : d.splitLeaf p l x = some r) (h : Memory.wf d.mem) : Memory.wf r.2.mem := by
  unfold Dev.splitLeaf at e
  split at e
  · cases e
  next e' =>
    cases e
    exact .each (fun _ _ h => .putEntry h) (Memory.wf.newTable e' h)

theorem Memory.wf.putLeafGo {p pva l leaf f : Nat} {d : Dev} {t : Nat} {r : Dev} (e : Dev.putLeafGo p pva l leaf f d t = some r)
    (h : Memory.wf d.mem) : Memory.wf r.mem := by
  induction f generalizing d t with
  | zero =>
    cases e
    exact .putEntry h
  | succ f ih =>
    unfold Dev.putLeafGo at e
    extract_lets a x at e
    split at e
    · cases e
      exact .putEntry (.ite (.freeTree h) h)
    · split at e
      · exact ih e h
      · split at e
        · cases e
        next e' =>
          refine ih e (.putEntry ?_)
          split at e'
          · exact Memory.wf.splitLeaf e' h
          · exact Memory.wf.newTable e' h

theorem Memory.wf.putLeaf {d : Dev} {p pva l leaf : Nat} {r : Dev} (e : d.putLeaf p pva l leaf = some r) (h : Memory.wf d.mem) :
    Memory.wf r.mem := .putLeafGo e h

theorem Memory.wf.dropLeafGo {p pva l f : Nat} {d : Dev} {t : Nat} (h : Memory.wf d.mem) : Memory.wf (Dev.dropLeafGo p pva l f d t).mem := by
  induction f generalizing d t with
  | zero => exact .putEntry h
  | succ f ih =>
    unfold Dev.dropLeafGo
    exact .ite (.putEntry h) (.ite (.ite (.freeTable (.putEntry (ih h))) (ih h)) h)

theorem Memory.wf.dropLeaf {d : Dev} {p pva l : Nat} (h : Memory.wf d.mem) : Memory.wf (d.dropLeaf p pva l).mem := .dropLeafGo h

theorem Memory.wf.startInval {d : Dev} {p : Nat} {rs : List Range} {item : Option (Nat × Nat)} (h : Memory.wf d.mem) :
    Memory.wf (d.startInval p rs item).2.mem := h

theorem Memory.wf.invalEnds {d : Dev} {v : Inval} (h : Memory.wf d.mem) : Memory.wf (d.invalEnds v).mem := by
  unfold Dev.invalEnds
  extract_lets d₁ d₂
  have h₂ : Memory.wf d₂.mem := .addCount h
  split
  · exact .post h₂
  · exact h₂

/-! ### Serving queues, slices and windows (11, R219–R234) -/

theorem Memory.wf.bindServing {d : Dev} {n j : Nat} (h : Memory.wf d.mem) : Memory.wf (d.bindServing n j).mem :=
  .setReg (.bindQ (.ite (.unbindQ h) h))

theorem Memory.wf.rebindServing {d : Dev} {p : Nat} (h : Memory.wf d.mem) : Memory.wf (d.rebindServing p).mem :=
  .foldl (fun _ _ h => .feed h) (.modJob (.each (fun _ _ h => .bindQ (.ite (.unbindQ h) h)) (.each (fun _ _ h => .bindServing h) h)))

theorem Memory.wf.setElig {d : Dev} {j : Nat} {on : Bool} (h : Memory.wf d.mem) : Memory.wf (d.setElig j on).mem :=
  .ite h (.ite (.modJob (.chargeOverrun h)) (.ite (.modJob h) h))

theorem Memory.wf.allOff {d : Dev} {p : Nat} (h : Memory.wf d.mem) : Memory.wf (d.allOff p).mem := .foldl (fun _ _ h => .setElig h) h

theorem Memory.wf.settleSlice {d : Dev} {p : Nat} (h : Memory.wf d.mem) : Memory.wf (d.settleSlice p).mem := by
  unfold Dev.settleSlice
  split
  · exact h
  · exact .modPx (.foldl (fun _ _ h => .modJob (.accrueOverrun h)) h)

theorem Memory.wf.sliceJobsOn {d : Dev} {p : Nat} (h : Memory.wf d.mem) : Memory.wf (d.sliceJobsOn p).mem :=
  .foldl (fun _ _ h => .ite (.setElig h) h) h

theorem Memory.wf.beginSlice {d : Dev} {p : Nat} (h : Memory.wf d.mem) : Memory.wf (d.beginSlice p).mem := by
  unfold Dev.beginSlice
  extract_lets resume
  split
  · exact .sliceJobsOn (.modPx h)
  · split
    · exact .modPx h
    · exact .sliceJobsOn (.modPx (.setF h))

theorem Memory.wf.schedule {d : Dev} {p : Nat} (h : Memory.wf d.mem) : Memory.wf (d.schedule p).mem := by
  unfold Dev.schedule
  split
  · exact h
  · split
    · exact .beginSlice h
    · have h₁ := Memory.wf.settleSlice (p := p) h
      exact .ite (.sliceJobsOn h₁) (.beginSlice (.modPx (.setF (.allOff h₁))))

theorem Memory.wf.closeWindow {d : Dev} {p : Nat} (h : Memory.wf d.mem) : Memory.wf (d.closeWindow p).mem := .schedule (.setBit (.setElig h))

theorem Memory.wf.dropStep {d : Dev} {p : Nat} (h : Memory.wf d.mem) : Memory.wf (d.dropStep p).mem :=
  .ite h (.closeWindow (.voidOff (.voidOff (.voidOff (.modPx h)))))

/-! ### Pages of the pool and punty handles (09, R174–R190) -/

theorem Memory.wf.poolLeaf {d : Dev} {p pva l leaf : Nat} {r : Dev} (e : d.poolLeaf p pva l leaf = some r) (h : Memory.wf d.mem) :
    Memory.wf r.mem := by
  unfold Dev.poolLeaf at e
  extract_lets had at e
  split at e
  · cases e
  next e' =>
    cases e
    have h₁ := Memory.wf.putLeaf e' h
    exact .ite (.startInval h₁) h₁

theorem Memory.wf.subHolder {d : Dev} {p k : Nat} (h : Memory.wf d.mem) : Memory.wf (d.subHolder p k).mem := .modPx h

theorem Memory.wf.unmapPages {d : Dev} {p : Nat} {pages : List (Nat × Nat)} {region sregion : Nat} {w16 : Bool} {req : Option Nat} {step : Nat}
    (h : Memory.wf d.mem) :
    Memory.wf (d.unmapPages p pages region sregion w16 req step).mem := by
  unfold Dev.unmapPages
  split
  · exact h
  · exact .modPx (.startInval (.foldl (fun _ _ h => .subHolder (.iteRight .dropLeaf (.dropLeaf h))) h))

theorem Memory.wf.releasePages {d : Dev} {p i : Nat} {f : Nat → Bool} (h : Memory.wf d.mem) : Memory.wf (d.releasePages p i f).mem :=
  .unmapPages (.modRx h)

theorem Memory.wf.setHrec {d : Dev} {p i v : Nat} (h : Memory.wf d.mem) : Memory.wf (d.setHrec p i v).mem := by
  unfold Dev.setHrec
  split
  · exact .writeNum h
  · exact h

theorem Memory.wf.detach {d : Dev} {p i : Nat} (h : Memory.wf d.mem) : Memory.wf (d.detach p i).mem := by
  unfold Dev.detach
  split
  · exact h
  · exact .modRx (.setHrec h)

theorem Memory.wf.publishLost {d : Dev} {p i : Nat} (h : Memory.wf d.mem) : Memory.wf (d.publishLost p i).mem :=
  .foldl (fun _ _ h => .post h) (.modPx h)

theorem Memory.wf.poolEnable {d : Dev} {p : Nat} {r : Dev} (e : d.poolEnable p = some r) (h : Memory.wf d.mem) : Memory.wf r.mem := by
  unfold Dev.poolEnable at e
  split at e
  · cases e
  · split at e
    · cases e
    · extract_lets a b d₁ at e
      have h₁ : Memory.wf d₁.mem := .modPx (.zeroRange (.zeroRange h))
      split at e
      · exact Option.some.inj e ▸ h₁
      · split at e
        · cases e
        next e' => exact .poolLeaf e (.poolLeaf e' h₁)

theorem Memory.wf.poolEmpty {d : Dev} {p : Nat} (h : Memory.wf d.mem) : Memory.wf (d.poolEmpty p).mem := .modPx h

theorem Memory.wf.poolDisable {d : Dev} {p : Nat} (h : Memory.wf d.mem) : Memory.wf (d.poolDisable p).mem :=
  .modPx (.ite h (.dropLeaf (.dropLeaf (.startInval h))))

/-! ### Requests that end (10, R192–R206; adapters R212) -/

theorem Memory.wf.adpBind {d : Dev} {p slot ver : Nat} {f : Nat → Nat} (h : Memory.wf d.mem) : Memory.wf (d.adpBind p slot ver f).mem := .modPx h

theorem Memory.wf.adpPlace {d : Dev} {p slot src bytes : Nat} {r : Dev} (e : d.adpPlace p slot src bytes = some r) (h : Memory.wf d.mem) :
    Memory.wf r.mem := by
  unfold Dev.adpPlace at e
  extract_lets units at e
  split at e
  · cases e
  · cases e
    exact .modPx (.foldlSnd (fun _ _ h => .engIssue h) h)

theorem Memory.wf.adpSweep {d : Dev} {p : Nat} (h : Memory.wf d.mem) : Memory.wf (d.adpSweep p).mem := by
  unfold Dev.adpSweep
  extract_lets dead d₁
  have h₁ : Memory.wf d₁.mem := .modPx h
  refine .ite h (.foldl (fun d w h => ?_) h₁)
  split
  · exact h
  next e => exact .modPx (.adpPlace e h)

theorem Memory.wf.recBytes {d : Dev} {c : Rec} (h : Memory.wf d.mem) : Memory.wf (d.recBytes c).2.mem := by
  unfold Dev.recBytes
  extract_lets r
  split
  next e =>
  refine .snd e ?_
  split
  · exact h
  · exact .takeFree h

theorem Memory.wf.sendRecords {d : Dev} {p batch step e : Nat} {l : List Rec} (h : Memory.wf d.mem) :
    Memory.wf (d.sendRecords p batch step e l).mem := by
  unfold Dev.sendRecords
  split
  next e =>
  have h₁ := Memory.wf.fst e (.toGlue h)
  split
  · exact h₁
  · exact .sendUp (.foldlSnd (fun _ _ h => .recBytes h) h₁)

theorem Memory.wf.recordNow {d : Dev} {p : Nat} {c : Rec} (h : Memory.wf d.mem) : Memory.wf (d.recordNow p c).mem := .sendRecords h

theorem Memory.wf.endReq {d : Dev} {p i state cause : Nat} (h : Memory.wf d.mem) : Memory.wf (d.endReq p i state cause).mem :=
  .releasePages (.modRx (.publishLost (.detach h)))

theorem Memory.wf.freeEnded {d : Dev} {p : Nat} (h : Memory.wf d.mem) : Memory.wf (d.freeEnded p).mem :=
  .adpSweep (.each (fun _ _ h => .setRq (.iteLeft .adpBind h)) h)

theorem Memory.wf.endNow {d : Dev} {p i state cause code : Nat} (h : Memory.wf d.mem) : Memory.wf (d.endNow p i state cause code).mem :=
  .freeEnded (.recordNow (.endReq h))

/-! ### Weight keys that are lost (16; 17, R368) -/

theorem Memory.wf.wipeSecure {d : Dev} {n : Nat} (h : Memory.wf d.mem) : Memory.wf (d.wipeSecure n).mem :=
  .ite h (.setBit (.zeroRange (.iteLeft .setDom h)))

theorem Memory.wf.keyLost {d : Dev} {p : Nat} (h : Memory.wf d.mem) : Memory.wf (d.keyLost p).mem := by
  unfold Dev.keyLost
  split
  · exact h
  · extract_lets g d₁ d₂ d₃
    have h₁ : Memory.wf d₁.mem := .foldl (fun _ _ h => .jobAbortAll h) h
    have h₃ : Memory.wf d₃.mem := .foldl (fun _ _ h => .endNow h) (.dropStep h₁)
    exact .record (.setSt (.fault h₃))

theorem Memory.wf.keyErrors {d : Dev} (h : Memory.wf d.mem) : Memory.wf d.keyErrors.mem :=
  .foldl (fun _ _ h => by
    split
    · exact .keyLost (.each (fun _ _ h => .wipeSecure h) h)
    · exact h) h

/-! ### Registers of clusters and stacks (05, R93–R100; 17, R369) -/

theorem Memory.wf.writeSeal {d : Dev} {r : Role} {s : Nat} {v : Word} (h : Memory.wf d.mem) : Memory.wf (d.writeSeal r s v).mem :=
  .ite (.setEvent h) (.ite (.invalid h) (.modStk (.setF h)))

theorem Memory.wf.writeSecure {d : Dev} {r : Role} {n : Nat} {v : Word} (h : Memory.wf d.mem) : Memory.wf (d.writeSecure r n v).mem :=
  .ite (.setEvent h) (.ite h (.wipeSecure (.setReg h)))

theorem Memory.wf.startMarch {d : Dev} {n : Nat} {preserving : Bool} {mask : Nat} (h : Memory.wf d.mem) :
    Memory.wf (d.startMarch n preserving mask).mem := .modClu (.setBit h)

theorem Memory.wf.writeMarch {d : Dev} {n : Nat} {v : Word} (h : Memory.wf d.mem) : Memory.wf (d.writeMarch n v).mem := by
  unfold Dev.writeMarch
  extract_lets p d₁ d₂ d₃ d₄ d₅
  have h₂ : Memory.wf d₂.mem := .ite (.invalid (.setF h)) (.setF (.setF h))
  have h₃ : Memory.wf d₃.mem := .iteLeft .clearBit h₂
  have h₄ : Memory.wf d₄.mem := .clearBit h₃
  have h₅ : Memory.wf d₅.mem := .ite (.iteLeft .setReg h₄) h₃
  exact .ite (.ite (.invalid h₅) (.ite h₅ (.startMarch (.setBit h₅)))) h₅

theorem Memory.wf.writeUcode {d : Dev} {n : Nat} {v : Word} (h : Memory.wf d.mem) : Memory.wf (d.writeUcode n v).mem := by
  unfold Dev.writeUcode
  extract_lets p d₁ d₂ d₃
  have h₃ : Memory.wf d₃.mem := .iteLeft .clearBit (.iteLeft .clearBit (.setF h))
  exact .ite (.ite (.setBit (.setBit h₃)) (.invalid h₃)) h₃

theorem Memory.wf.dropInjected {d : Dev} {f : Nat → Bool} (h : Memory.wf d.mem) : Memory.wf (d.dropInjected f).mem :=
  .foldl (fun _ _ h => .dropErr h) h

theorem Memory.wf.writeFlipStk {d : Dev} {s c : Nat} {v : Word} (h : Memory.wf d.mem) : Memory.wf (d.writeFlipStk s c v).mem := by
  unfold Dev.writeFlipStk
  extract_lets p off bad d₁ d₂ d₃ d₄
  have h₂ : Memory.wf d₂.mem := .iteRight .setF (.iteLeft .invalid h)
  have h₄ : Memory.wf d₄.mem := .setBit (.setBit (.iteRight .setF h₂))
  exact .ite (.setBit (.dropInjected h₄)) h₄

theorem Memory.wf.writeFlipClu {d : Dev} {n : Nat} {v : Word} (h : Memory.wf d.mem) : Memory.wf (d.writeFlipClu n v).mem := by
  unfold Dev.writeFlipClu
  extract_lets p bad d₁ d₂ d₃ d₄
  have h₂ : Memory.wf d₂.mem := .iteRight .setF (.iteLeft .invalid h)
  have h₄ : Memory.wf d₄.mem := .setBit (.setBit (.iteRight .setF h₂))
  exact .ite (.setBit (.dropInjected h₄)) h₄

/-! ### Ports and paths (14, R280–R290) -/

theorem Memory.wf.setPortSt {d : Dev} {n v : Nat} (h : Memory.wf d.mem) : Memory.wf (d.setPortSt n v).mem := .ite h (.record (.setSt h))
theorem Memory.wf.setLanes {d : Dev} {n act rate : Nat} (h : Memory.wf d.mem) : Memory.wf (d.setLanes n act rate).mem := .setF (.setF h)
theorem Memory.wf.putFrame {d : Dev} {n peer : Nat} {f : Frame} (h : Memory.wf d.mem) : Memory.wf (d.putFrame n peer f).mem := .addCount (.out h)
theorem Memory.wf.sendCtrl {d : Dev} {n peer : Nat} (h : Memory.wf d.mem) : Memory.wf (d.sendCtrl n peer).mem := .putFrame h

theorem Memory.wf.linkFault {d : Dev} {j : Nat} {ids : List Nat} {code info : Nat} (h : Memory.wf d.mem) :
    Memory.wf (d.linkFault j ids code info).mem := by
  unfold Dev.linkFault
  split
  · exact .jobFault h
  · exact .modJob h

theorem Memory.wf.pathEvent {d : Dev} {k : Nat} {up : Bool} {lost : Nat} (h : Memory.wf d.mem) : Memory.wf (d.pathEvent k up lost).mem := .record h
theorem Memory.wf.answerPathDown {d : Dev} {data : List Byte} (h : Memory.wf d.mem) : Memory.wf (d.answerPathDown data).mem := .toDest h

theorem Memory.wf.resendMsgs {d : Dev} {gone : List Nat} (h : Memory.wf d.mem) : Memory.wf (d.resendMsgs gone).mem :=
  .foldl (fun _ _ h => .ite (.answerPathDown h) (.sendMsgAs h)) h

theorem Memory.wf.unroute {d : Dev} {k : Nat} {w : TxFrame} (h : Memory.wf d.mem) : Memory.wf (d.unroute k w).mem := by
  unfold Dev.unroute
  split
  · exact h
  · extract_lets r d₁ sel
    clear_value r
    have h₁ : Memory.wf d₁.mem := by
      unfold d₁
      split
      · exact h
      · exact h
    exact h₁

theorem Memory.wf.pathDown {d : Dev} {k : Nat} (h : Memory.wf d.mem) : Memory.wf (d.pathDown k).mem := by
  unfold Dev.pathDown
  split
  · exact h
  · extract_lets n peer p waiting gone lost d₁ d₂ d₃ mine d₄ d₅ d₆ jobs d₇
    have h₃ : Memory.wf d₃.mem := .foldl (fun _ _ h => .unroute h) (.modPort (.setBit (.setPath h)))
    have h₄ : Memory.wf d₄.mem := h₃
    have h₇ : Memory.wf d₇.mem := .foldl (fun _ _ h => .linkFault h) (.pathEvent (.fault h₄))
    exact .afterDone (.resendMsgs h₇)

theorem Memory.wf.portPathsDown {d : Dev} {n : Nat} (h : Memory.wf d.mem) : Memory.wf (d.portPathsDown n).mem := .each (fun _ _ h => .pathDown h) h

theorem Memory.wf.portDown {d : Dev} {n : Nat} (h : Memory.wf d.mem) : Memory.wf (d.portDown n).mem :=
  .portPathsDown (.modPort (.setBit (.setPortSt (.setLanes h))))

theorem Memory.wf.portTrain {d : Dev} {n : Nat} (h : Memory.wf d.mem) : Memory.wf (d.portTrain n).mem := by
  unfold Dev.portTrain
  exact .iteRight .modPort (.setPortSt (.setLanes h))

theorem Memory.wf.writeRecal {d : Dev} {n : Nat} {v : Word} (h : Memory.wf d.mem) : Memory.wf (d.writeRecal n v).mem := by
  unfold Dev.writeRecal
  extract_lets p d₁
  have h₁ : Memory.wf d₁.mem := .iteLeft .clearBit h
  split
  · exact h₁
  · split
    · exact .invalid h₁
    · extract_lets d₂ d₃
      have h₃ : Memory.wf d₃.mem := .modPort (.setBit (.setBit (.iteRight .invalid h₁)))
      exact .iteLeft .portTrain h₃

theorem Memory.wf.askOpen {d : Dev} {n peer : Nat} (h : Memory.wf d.mem) : Memory.wf (d.askOpen n peer).mem := .iteLeft .sendCtrl h

/-! ### Host bridges (14, R296–R300) -/

theorem Memory.wf.qpError {d : Dev} {n slot syn : Nat} (h : Memory.wf d.mem) : Memory.wf (d.qpError n slot syn).mem := .record (.modQp h)

theorem Memory.wf.hostNak {d : Dev} {n slot psn syn : Nat} (h : Memory.wf d.mem) : Memory.wf (d.hostNak n slot psn syn).mem :=
  .iteLeft .qpError (.addCount (.out h))

theorem Memory.wf.putReq {d : Dev} {n slot : Nat} {what : HostOut} (h : Memory.wf d.mem) : Memory.wf (d.putReq n slot what).mem :=
  .addCount (.out (.setQp h))

theorem Memory.wf.sendKept {d : Dev} {n slot : Nat} (h : Memory.wf d.mem) : Memory.wf (d.sendKept n slot).mem :=
  .foldl (fun _ _ h => .putReq h) (.modQp h)

theorem Memory.wf.writeQp {d : Dev} {n off : Nat} {v : Word} (h : Memory.wf d.mem) : Memory.wf (d.writeQp n off v).mem := by
  unfold Dev.writeQp
  extract_lets slot k q old w want q' pm bad w' d₁ d₂
  have h₂ : Memory.wf d₂.mem := .setQp (.iteLeft .invalid h)
  exact .ite h (.ite (.ite (.invalid h) (.ite (.setQp h) (.ite h (.invalid h)))) (.ite (.setQp h) (.iteLeft .sendKept h₂)))

theorem Memory.wf.destRestart {d : Dev} {key : Nat} (h : Memory.wf d.mem) : Memory.wf (d.destRestart key).mem := h

/-! ### Pages, clusters and ports after a reset (02, R31; 04, R83) -/

theorem Memory.wf.resetPage {d : Dev} {p : Page} (h : Memory.wf d.mem) : Memory.wf (d.resetPage p).mem := by
  unfold Dev.resetPage
  exact .iteLeft .setF (.setBit h)

theorem Memory.wf.putSt {d : Dev} {p : Page} {v : Nat} (h : Memory.wf d.mem) : Memory.wf (d.putSt p v).mem := .setF h
theorem Memory.wf.leaveInit {d : Dev} {p : Page} (h : Memory.wf d.mem) : Memory.wf (d.leaveInit p).mem := .setSt (.setSt (.setBit h))

theorem Memory.wf.ctrlFollow {d : Dev} {p : Page} (h : Memory.wf d.mem) : Memory.wf (d.ctrlFollow p).mem := by
  unfold Dev.ctrlFollow
  split
  · exact .settle (.ite h (.ite (.voidOn h) (.voidOff h)))
  · exact h

theorem Memory.wf.writePoolEnable {d : Dev} {p : Page} {v : Bool} (h : Memory.wf d.mem) : Memory.wf (d.writePoolEnable p v).mem := by
  unfold Dev.writePoolEnable
  split
  · split
    next e => exact .setSt (.setBit (.poolEnable e h))
    · exact .invalid h
  · exact .ite (.invalid h) (.setSt (.setBit (.poolDisable h)))

theorem Memory.wf.writeEnable {d : Dev} {p : Page} {v : Bool} (h : Memory.wf d.mem) : Memory.wf (d.writeEnable p v).mem := by
  unfold Dev.writeEnable
  extract_lets d₁ d₂
  have h₁ : Memory.wf d₁.mem := .setBit h
  have h₂ : Memory.wf d₂.mem := .ite (.ite (.setPortSt h₁) (.setSt h₁)) (.ite (.ite (.setPortSt h₁) (.setSt h₁)) h₁)
  exact .ite h (.ite (.invalid h) (.ite (.writePoolEnable h) (.ctrlFollow h₂)))

theorem Memory.wf.writeQuiesce {d : Dev} {p : Page} {v : Bool} (h : Memory.wf d.mem) : Memory.wf (d.writeQuiesce p v).mem := by
  unfold Dev.writeQuiesce
  extract_lets d₁ s d₂
  have h₁ : Memory.wf d₁.mem := .setBit h
  have h₂ : Memory.wf d₂.mem := .ite (.setSt h₁) (.ite (.setSt h₁) h₁)
  exact .ite h (.ite (.invalid h) (.ctrlFollow h₂))

theorem Memory.wf.writeTest {d : Dev} {p : Page} {v : Bool} (h : Memory.wf d.mem) : Memory.wf (d.writeTest p v).mem :=
  .ite h (.ite (.invalid h) (.ite (.ite (.ctrlFollow (.setSt (.setBit h))) (.invalid h)) (.ctrlFollow (.setSt (.setBit h)))))

theorem Memory.wf.clearCores {d : Dev} {n : Nat} (h : Memory.wf d.mem) : Memory.wf (d.clearCores n).mem := by
  unfold Dev.clearCores
  extract_lets d₁
  have h₁ : Memory.wf d₁.mem := .each (fun _ _ h => .ite (.setBit h) h) h
  dsimp only
  exact h₁

theorem Memory.wf.freshClu {d : Dev} {n : Nat} (h : Memory.wf d.mem) : Memory.wf (d.freshClu n).mem := .clearCores (.setClu h)

theorem Memory.wf.resetClu {d : Dev} {n v : Nat} (h : Memory.wf d.mem) : Memory.wf (d.resetClu n v).mem :=
  .hcheckOff (.setSt (.zeroRange (.freshClu (.resetPage h))))

theorem Memory.wf.initClu {d : Dev} {n : Nat} (h : Memory.wf d.mem) : Memory.wf (d.initClu n).mem := .ite h (.startMarch (.wipeSecure (.setSt h)))

theorem Memory.wf.clusterReset {d : Dev} {n : Nat} (h : Memory.wf d.mem) : Memory.wf (d.clusterReset n).mem := by
  unfold Dev.clusterReset
  extract_lets used js d₁ others d₂ d₃
  have h₃ : Memory.wf d₃.mem := .foldl (fun _ _ h => .setQFault h) (.resetClu (.foldl (fun _ _ h => .jobStop h) h))
  exact .ite (.putSt h₃) (.initClu h₃)

theorem Memory.wf.reqCluReset {d : Dev} {n : Nat} (h : Memory.wf d.mem) : Memory.wf (d.reqCluReset n).mem :=
  .ite h (.iteLeft .setBit (.clusterReset h))

theorem Memory.wf.portReset {d : Dev} {n : Nat} (h : Memory.wf d.mem) : Memory.wf (d.portReset n).mem := by
  unfold Dev.portReset
  extract_lets p was d₁ d₂ x d₃
  have h₁ : Memory.wf d₁.mem := .modPort (.resetPage h)
  have h₃ : Memory.wf d₃.mem := .portTrain (.iteRight .setSt h₁)
  exact .ite (.portDown h₁) (.ite (.modPort h₃) h₃)

theorem Memory.wf.reqPortReset {d : Dev} {n : Nat} (h : Memory.wf d.mem) : Memory.wf (d.reqPortReset n).mem :=
  .ite h (.ite (.resetPage h) (.iteLeft .setBit (.portReset h)))

theorem Memory.wf.pageDark {d : Dev} {p : Page} (h : Memory.wf d.mem) : Memory.wf (d.pageDark p).mem := .resetPage (.setSt h)

/-! ### Domains and device power (20, R429–R437) -/

theorem Memory.wf.domLoses {d : Dev} {n : Nat} (h : Memory.wf d.mem) : Memory.wf (d.domLoses n).mem := by
  unfold Dev.domLoses
  split
  · exact .each (fun _ _ h => .hcheckOff (.foldl (fun _ _ h => .settleOverrun h) (.zeroRange (.freshClu h)))) h
  · split
    · exact .modStk (.zeroRange h)
    · split
      · extract_lets d₁
        have h₁ : Memory.wf d₁.mem := .each (fun _ _ h => .modPort (.setLanes (.portPathsDown h))) h
        exact .ite h₁ h₁
      · exact .ite h (.ite h h)

theorem Memory.wf.powerOff {d : Dev} {n : Nat} (h : Memory.wf d.mem) : Memory.wf (d.powerOff n).mem := by
  unfold Dev.powerOff
  split
  · exact h
  · extract_lets d₁ d₂ e
    have he : Memory.wf e.mem := .setDom (.foldl (fun _ _ h => .pageDark (.iteLeft .setPortSt h)) (.domLoses h))
    exact he

theorem Memory.wf.pumpWakes {f : Nat} {d : Dev} (h : Memory.wf d.mem) : Memory.wf (Dev.pumpWakes f d).mem := by
  induction f generalizing d with
  | zero => exact h
  | succ f ih =>
    unfold Dev.pumpWakes
    split
    · exact h
    · exact ih (.startWake h)

theorem Memory.wf.pump {d : Dev} (h : Memory.wf d.mem) : Memory.wf d.pump.mem := .pumpWakes h
theorem Memory.wf.stackSleeps {d : Dev} {s : Nat} (h : Memory.wf d.mem) : Memory.wf (d.stackSleeps s).mem := .iteLeft .setDom h

theorem Memory.wf.reqApply {d : Dev} {n : Nat} (h : Memory.wf d.mem) : Memory.wf (d.reqApply n).mem :=
  .ite (.ite (.powerOff h) (.ite (.stackSleeps h) h)) h

theorem Memory.wf.writeDom {d : Dev} {n : Nat} {v : Word} (h : Memory.wf d.mem) : Memory.wf (d.writeDom n v).mem := by
  unfold Dev.writeDom
  extract_lets r offOk d₁ d₂ d₃
  have h₃ : Memory.wf d₃.mem := .iteLeft .demand (.iteLeft .setBit (.setF h))
  exact .ite (.invalid h) (.pump (.reqApply h₃))

theorem Memory.wf.enterIdle {d : Dev} (h : Memory.wf d.mem) : Memory.wf d.enterIdle.mem := by
  unfold Dev.enterIdle
  extract_lets on d₁ d₂ e
  have he : Memory.wf e.mem := .setF (.setF (.each (fun _ _ h => .setDom h) (.each (fun _ _ h => .setDom h) h)))
  exact he

theorem Memory.wf.powerRefused {d : Dev} {reason : Nat} (h : Memory.wf d.mem) : Memory.wf (d.powerRefused reason).mem := .invalid (.setF h)
theorem Memory.wf.napPorts {d : Dev} (h : Memory.wf d.mem) : Memory.wf d.napPorts.mem := .each (fun _ _ h => .portTrain h) h

theorem Memory.wf.wakeAll {d : Dev} (h : Memory.wf d.mem) : Memory.wf d.wakeAll.mem := by
  unfold Dev.wakeAll
  extract_lets st d₁ e
  have h₁ : Memory.wf d₁.mem := .wakeCause h
  have he : Memory.wf e.mem := .napPorts h₁
  exact .ite he h₁

theorem Memory.wf.powerReq {d : Dev} {target : Nat} (h : Memory.wf d.mem) : Memory.wf (d.powerReq target).mem := by
  unfold Dev.powerReq
  extract_lets st pwr d₁
  have h₁ : Memory.wf d₁.mem := h
  split
  · exact .powerRefused h
  · split
    · exact .ite (.wakeAll h) (.powerRefused (.wakeAll h))
    · split
      · exact .setF h₁
      · split
        · exact h₁
        · split
          · exact .powerRefused h₁
          · exact h₁

/-! ### Clocks and the lehr stop (18, R384–R396) -/

theorem Memory.wf.clockCause {d : Dev} (h : Memory.wf d.mem) : Memory.wf d.clockCause.mem := .each (fun _ _ h => .ite (.voidOn h) (.voidOff h)) h
theorem Memory.wf.stepsChange {d : Dev} (h : Memory.wf d.mem) : Memory.wf d.stepsChange.mem := .clockCause (.each (fun _ _ h => .setF h) h)

theorem Memory.wf.lehrBegin {d : Dev} {cause : Nat} (h : Memory.wf d.mem) : Memory.wf (d.lehrBegin cause).mem := by
  unfold Dev.lehrBegin
  split
  · exact h
  · extract_lets thm d₁ d₂ d₃ thm'
    have h₃ : Memory.wf d₃.mem := .each (fun _ _ h => .record h) (.record h)
    exact .ite (.record (.setF h₃)) (.setF h₃)

theorem Memory.wf.lehrClear {d : Dev} (h : Memory.wf d.mem) : Memory.wf d.lehrClear.mem :=
  .ite (.invalid h) (.pump (.stepsChange (.each (fun _ _ h => .setF h) (.setF h))))

theorem Memory.wf.writeThmCtrl {d : Dev} {v : Word} (h : Memory.wf d.mem) : Memory.wf (d.writeThmCtrl v).mem :=
  .iteLeft .lehrClear (.iteLeft .lehrBegin h)

/-! ### Reset of a partition (16, R334) -/

theorem Memory.wf.dropJob {d : Dev} {j : Nat} (h : Memory.wf d.mem) : Memory.wf (d.dropJob j).mem := by
  unfold Dev.dropJob
  extract_lets x d₁ sv d₂
  have h₁ : Memory.wf d₁.mem := .foldl (fun _ _ h => .foldl (fun _ _ h => .unbindQ h) (.abortUnit h)) h
  have h₂ : Memory.wf d₂.mem := by
    dsimp only [d₂]
    exact h₁
  exact .ite (.each (fun _ _ h => .bindServing h) h₂) h₂

theorem Memory.wf.makeServing {d : Dev} {p j : Nat} (h : Memory.wf d.mem) : Memory.wf (d.makeServing p j).mem := .rebindServing (.modPx (.setJob h))
theorem Memory.wf.drawSalt {d : Dev} {p : Nat} (h : Memory.wf d.mem) : Memory.wf (d.drawSalt p).mem := .takeFree h

theorem Memory.wf.dropServing {d : Dev} {p : Nat} (h : Memory.wf d.mem) : Memory.wf (d.dropServing p).mem := by
  unfold Dev.dropServing
  extract_lets d₁ d₂ waiting d₃ d₄
  have h₂ : Memory.wf d₂.mem := .foldl (fun _ _ h => .publishLost h) (.dropStep h)
  have h₄ : Memory.wf d₄.mem := h₂
  exact .foldl (fun _ _ h => .setRq h) h₄

theorem Memory.wf.dropPoolLeaves {d : Dev} {p : Nat} (h : Memory.wf d.mem) : Memory.wf (d.dropPoolLeaves p).1.mem := by
  unfold Dev.dropPoolLeaves
  extract_lets mine held
  refine .foldlFst (fun x l h => ?_) h
  dsimp only
  split
  · exact .dropLeaf h
  · exact .dropLeaf (.dropLeaf h)

theorem Memory.wf.resetInval {d : Dev} {p : Nat} {rs : List Range} (h : Memory.wf d.mem) : Memory.wf (d.resetInval p rs).mem := by
  unfold Dev.resetInval
  split
  · exact h
  · split
    next e =>
    have h₁ := Memory.wf.snd e (.startInval h)
    split
    · exact h₁
    · exact .ite (.modPx h₁) (.invalEnds h₁)

theorem Memory.wf.idleClu {d : Dev} {n : Nat} (h : Memory.wf d.mem) : Memory.wf (d.idleClu n).mem := by
  unfold Dev.idleClu
  exact .foldl (fun _ _ h => h) (.freshClu h)

theorem Memory.wf.pageReset {d : Dev} {g : Page} (h : Memory.wf d.mem) : Memory.wf (d.pageReset g).mem := by
  unfold Dev.pageReset
  extract_lets lanes recal d₁ d₂
  have h₁ : Memory.wf d₁.mem := .resetPage h
  have h₂ : Memory.wf d₂.mem := .ite (.setReg (.setReg h₁)) h₁
  exact .iteLeft .setSt h₂

theorem Memory.wf.ptnReset {d : Dev} {p : Nat} (h : Memory.wf d.mem) : Memory.wf (d.ptnReset p).mem := by
  unfold Dev.ptnReset
  extract_lets g sv d₁ d₂ d₃
  have h₃ : Memory.wf d₃.mem := .foldl (fun _ _ h => .abortUnit h) (.foldl (fun _ _ h => .dropJob h) (.setSt h))
  split
  next e =>
  have h₄ := Memory.wf.fst e (.dropPoolLeaves h₃)
  extract_lets d₅ d₆ d₇ d₈ d₉ share d₁₀ d₁₁ d₁₂ d₁₃
  have h₆ : Memory.wf d₆.mem := .modPx (.poolEmpty (.dropServing (.resetInval h₄)))
  have h₇ : Memory.wf d₇.mem := h₆
  have h₉ : Memory.wf d₉.mem := .foldl (fun _ _ h => .modStk h) (.each (fun _ _ h => .idleClu h) (.dropLines h₇))
  have h₁₁ : Memory.wf d₁₁.mem := .each (fun _ _ h => .voidOff h) (.setBit (.foldl (fun _ _ h => .pageReset h) h₉))
  have h₁₂ : Memory.wf d₁₂.mem := .each (fun _ _ h => .wipeSecure h) (.drawSalt (.makeServing h₁₁))
  have h₁₃ : Memory.wf d₁₃.mem := by
    unfold d₁₃
    split
    · split
      next e => exact .poolEnable e h₁₂
      · exact h₁₂
    · exact h₁₂
  exact .ctrlFollow (.leaveInit (.setSt h₁₃))

theorem Memory.wf.ptnResetTry {d : Dev} {p : Nat} (h : Memory.wf d.mem) : Memory.wf (d.ptnResetTry p).mem := .iteLeft .ptnReset h
theorem Memory.wf.reqPtnReset {d : Dev} {p : Nat} (h : Memory.wf d.mem) : Memory.wf (d.reqPtnReset p).mem := .ite h (.ptnResetTry (.setBit h))

/-! ### Reset and start of the device (19, R413, R416) -/

theorem Memory.wf_nil : Memory.wf [] := Memory.wf_reset

/-- A cold start and a warm reset leave no byte listed. -/
theorem Memory.wf.coldDev {d : Dev} {warm : Bool} : Memory.wf (d.coldDev warm).mem := Memory.wf_nil

theorem Memory.wf.enterFrit {d : Dev} {reason : Nat} (h : Memory.wf d.mem) : Memory.wf (d.enterFrit reason).mem := by
  unfold Dev.enterFrit
  split
  extract_lets d₁ d₂ d₃
  have h₂ : Memory.wf d₂.mem := .iteLeft .fault (.setReg (.setReg h))
  exact .startWake (.setBit (.setBit (.setBit (.record h₂))))

theorem Memory.wf.beginStage {d : Dev} {n : Nat} (h : Memory.wf d.mem) : Memory.wf (d.beginStage n).mem := h

theorem Memory.wf.start {d : Dev} (h : Memory.wf d.mem) : Memory.wf d.start.mem := by
  unfold Dev.start
  extract_lets boot d₁ d₂ d₃
  have h₂ : Memory.wf d₂.mem := .beginStage (.foldl (fun _ _ h => .putSt h) h)
  split
  · exact .enterFrit (.fault h₂)
  · split
    · exact .enterFrit h₂
    · split
      · exact .enterFrit h₂
      · have h₃ : Memory.wf d₃.mem := .writeRec h₂
        split
        · exact .enterFrit h₃
        · exact .setF h₃

theorem Memory.wf.startOrHold {d : Dev} {kind : Nat} (h : Memory.wf d.mem) : Memory.wf (d.startOrHold kind).mem := .ite h (.start h)
theorem Memory.wf.warmReset {d : Dev} (h : Memory.wf d.mem) : Memory.wf d.warmReset.mem := .ite h (.startOrHold .coldDev)

/-! ### Accesses to control space (00, R4–R6; 02) -/

theorem Memory.wf.guardWrite {d : Dev} {r : Role} {p : Page} {f : Dev → Dev} (hf : ∀ x, Memory.wf x.mem → Memory.wf (f x).mem)
    (h : Memory.wf d.mem) : Memory.wf (d.guardWrite r p f).mem :=
  .ite (.refuse h) (.ite (.deny h) (.ite (.answer (.setEvent (.endIdle h))) (.answer (hf _ (.endIdle h)))))

theorem Memory.wf.guardPut {d : Dev} {r : Role} {p : Page} {off : Nat} {v : Word} {f : Dev → Word → Dev}
    (hf : ∀ x w, Memory.wf x.mem → Memory.wf (f x w).mem) (h : Memory.wf d.mem) : Memory.wf (d.guardPut r p off v f).mem :=
  .guardWrite (fun _ hx => hf _ _ hx) h

theorem Memory.wf.guardRead {d : Dev} {r : Role} {p : Page} {hdr : Bool} {f : Dev → Dev × Word}
    (hf : ∀ x, Memory.wf x.mem → Memory.wf (f x).1.mem) (h : Memory.wf d.mem) : Memory.wf (d.guardRead r p hdr f).mem :=
  .ite (.refuse h) (.ite (.deny h) (.ite (.answer h) (.answer (hf _ h))))

theorem Memory.wf.grow {d : Dev} {p : Page} {off : Nat} (h : Memory.wf d.mem) : Memory.wf (d.grow p off).mem :=
  .ite (.ite (.modStk (.setReg (.takeFree h))) (.setReg (.takeFree h))) h

theorem Memory.wf.waitsNow {d : Dev} {p : Page} {off : Nat} (h : Memory.wf d.mem) : Memory.wf (d.waitsNow p off).mem := by
  unfold Dev.waitsNow
  split
  · exact h
  · extract_lets key
    split
    · exact h
    · exact h

theorem Memory.wf.csrRead {d : Dev} {r : Role} {p : Page} {off : Nat} (h : Memory.wf d.mem) : Memory.wf (d.csrRead r p off).1.mem := by
  unfold Dev.csrRead
  split
  · exact h
  · extract_lets d₁ d₂ d₃ d₄ v c
    have h₂ : Memory.wf d₂.mem := .waitsNow (.ite (.setReg h) h)
    have h₃ : Memory.wf d₃.mem := .iteLeft (.each fun _ _ h => .setReg h) h₂
    have h₄ : Memory.wf d₄.mem := .grow h₃
    split
    · exact Memory.wf.takeFree h₄
    · split
      · split
        · exact h₄
        · split
          · exact .setReg h₄
          · exact h₄
      · exact h₄

theorem Memory.wf.storeReg {d : Dev} {p : Page} {off : Nat} {v : Word} (h : Memory.wf d.mem) : Memory.wf (d.storeReg p off v).mem := by
  unfold Dev.storeReg
  split
  · exact h
  · extract_lets old
    split
    exact .iteLeft .invalid (.setReg h)

theorem Memory.wf.clearFault {d : Dev} {p : Page} (h : Memory.wf d.mem) : Memory.wf (d.clearFault p).mem := by
  unfold Dev.clearFault
  split
  · exact .setF (.setReg (.setReg h))
  · exact .iteLeft .setReg (.setBit (.setReg (.setReg h)))

theorem Memory.wf.writeEvent {d : Dev} {p : Page} {v : Word} (h : Memory.wf d.mem) : Memory.wf (d.writeEvent p v).mem := by
  unfold Dev.writeEvent
  extract_lets fresh again gone c pre e d₁
  have h₁ : Memory.wf d₁.mem := h
  exact .announce (.iteLeft .clearFault h₁)

theorem Memory.wf.resetReq {d : Dev} {p : Page} (h : Memory.wf d.mem) : Memory.wf (d.resetReq p).mem := by
  unfold Dev.resetReq
  split
  · exact .reqCluReset h
  · exact .reqPortReset h
  · exact .reqPtnReset h
  · exact .warmReset h
  · exact h

theorem Memory.wf.writeCtrl {d : Dev} {p : Page} {v : Word} (h : Memory.wf d.mem) : Memory.wf (d.writeCtrl p v).mem := by
  unfold Dev.writeCtrl
  extract_lets changes d₁
  have h₁ : Memory.wf d₁.mem := .ite (.ite (.invalid h) h) (.writeTest (.writeQuiesce (.writeEnable h)))
  exact .iteLeft .resetReq h₁

theorem Memory.wf.writeHead {d : Dev} {p : Page} {off : Nat} {v : Word} (h : Memory.wf d.mem) : Memory.wf (d.writeHead p off v).mem :=
  .ite (.writeCtrl h) (.ite (.writeEvent h) (.ite (.announce (.storeReg h)) (.storeReg h)))

theorem Memory.wf.writeRange {d : Dev} {p : Page} {me cb top limit : Nat} {used : Nat → Bool} {v : Word} (h : Memory.wf d.mem) :
    Memory.wf (d.writeRange p me cb top limit used v).mem := .ite (.invalid h) (.setReg h)

theorem Memory.wf.writeCluReg {d : Dev} {r : Role} {p : Page} {off : Nat} {v : Word} (h : Memory.wf d.mem) :
    Memory.wf (d.writeCluReg r p off v).mem := by
  unfold Dev.writeCluReg
  extract_lets n was d₁ was' o d₂
  have h₁ : Memory.wf d₁.mem := .storeReg h
  refine .ite (.ite h (.addFlag h)) (.ite (.writeUcode h) (.ite (.writeSecure h) (.ite (.writeMarch h) (.ite (.writeFlipClu h) ?_))))
  refine .ite (.iteLeft .modClu h₁) (.ite (.iteLeft .setReg h₁) (.ite (.ite h₁ (.ite (.hcheckOff h₁) (.hcheckOn h₁))) ?_))
  exact .ite (.iteLeft .setReg (.iteLeft .setReg h₁)) h₁

theorem Memory.wf.writeQCfg {d : Dev} {u : UnitKey} {q : Nat} {v : Word} (h : Memory.wf d.mem) : Memory.wf (d.writeQCfg u q v).mem :=
  .ite (.setReg (.ite (.unbindQ h) h)) (.ite (.setReg h) (.bindQ h))

theorem Memory.wf.writeStkReg {d : Dev} {r : Role} {p : Page} {off : Nat} {v : Word} (h : Memory.wf d.mem) :
    Memory.wf (d.writeStkReg r p off v).mem :=
  .ite (.ite (.setEvent h) (.storeReg h)) (.ite (.writeSeal h) (.ite (.ite h (.addFlag h)) (.ite (.writeFlipStk h) (.storeReg h))))

theorem Memory.wf.writeDest {d : Dev} {p : Page} {off key : Nat} {v : Word} (h : Memory.wf d.mem) : Memory.wf (d.writeDest p off key v).mem :=
  .destRestart (.iteLeft .invalid (.storeReg h))

theorem Memory.wf.writePtnReg {d : Dev} {r : Role} {p : Page} {off : Nat} {v : Word} (h : Memory.wf d.mem) :
    Memory.wf (d.writePtnReg r p off v).mem := by
  unfold Dev.writePtnReg
  extract_lets n
  refine .ite (.writeHoldCtrl h) (.ite (.ite (.storeReg h) (.invalid h)) (.ite (.writeDest h) (.ite (.writeDest h) (.ite ?_ (.storeReg h)))))
  split
  · exact .setEvent h
  · exact .storeReg h

theorem Memory.wf.writeKvpReg {d : Dev} {p : Page} {off : Nat} {v : Word} (h : Memory.wf d.mem) : Memory.wf (d.writeKvpReg p off v).mem :=
  .ite (.invalid h) (.storeReg h)

theorem Memory.wf.writeThmReg {d : Dev} {off : Nat} {v : Word} (h : Memory.wf d.mem) : Memory.wf (d.writeThmReg off v).mem :=
  .ite (.writeThmCtrl h) (.ite (.ite (.storeReg h) (.invalid h)) (.ite (.iteLeft .invalid (.storeReg h)) (.storeReg h)))

theorem Memory.wf.writeDevReg {d : Dev} {off : Nat} {v : Word} (h : Memory.wf d.mem) : Memory.wf (d.writeDevReg off v).mem :=
  .ite (.ite (.invalid h) (.storeReg h)) (.ite (.writeDest h)
    (.ite (.iteRight (.each fun _ _ h => .askOpen h) (.storeReg h)) (.storeReg h)))

theorem Memory.wf.writeHbrReg {d : Dev} {p : Page} {off : Nat} {v : Word} (h : Memory.wf d.mem) : Memory.wf (d.writeHbrReg p off v).mem :=
  .ite (.writeQp h) (.ite (.invalid h) (.storeReg h))

theorem Memory.wf.csrWrite {d : Dev} {r : Role} {p : Page} {off : Nat} {v : Word} (h : Memory.wf d.mem) : Memory.wf (d.csrWrite r p off v).mem := by
  unfold Dev.csrWrite
  split
  · exact .writeHead h
  · split
    · exact .writeQCfg h
    · split
      case h_1 => exact .writeCluReg h
      case h_2 => exact .writeStkReg h
      case h_3 => exact .writePtnReg h
      case h_4 => exact .writeKvpReg h
      case h_5 => exact .writeThmReg h
      case h_6 => exact .writeDevReg h
      case h_7 => exact .writeHbrReg h
      case h_8 => exact .ite (.powerReq h) (.ite (.writeDom h) (.storeReg h))
      case h_9 => exact .ite (.writeRecal h) (.storeReg h)
      case h_10 =>
        extract_lets d₁
        have h₁ : Memory.wf d₁.mem := .storeReg h
        exact .ite (.writeRange h) (.ite h₁ h₁)
      case h_11 => exact .ite (.writeRange h) (.storeReg h)
      case h_12 => exact .storeReg h

theorem Memory.wf.readWord {d : Dev} {r : Role} {p : Page} {off : Nat} (h : Memory.wf d.mem) : Memory.wf (d.readWord r p off).mem :=
  .guardRead (fun _ h => .csrRead h) h

theorem Memory.wf.writeWord {d : Dev} {r : Role} {p : Page} {off : Nat} {v : Word} (h : Memory.wf d.mem) : Memory.wf (d.writeWord r p off v).mem :=
  .ite (.ite (.refuse h) (.ite (.deny h) (.answer (.writeHead (.endIdle h))))) (.guardPut (fun _ _ h => .csrWrite h) h)

theorem Memory.wf.readAccess {d : Dev} {r : Role} {off size : Nat} (h : Memory.wf d.mem) : Memory.wf (d.readAccess r off size).mem := by
  unfold Dev.readAccess
  split
  · exact .refuse h
  · split
    · exact .refuse h
    · split
      · exact .readWord h
      · extract_lets d₁ lo d₂
        have h₂ : Memory.wf d₂.mem := .readWord (.readWord h)
        exact h₂

theorem Memory.wf.writeAccess {d : Dev} {r : Role} {off size : Nat} {v : BitVec 64} (h : Memory.wf d.mem) :
    Memory.wf (d.writeAccess r off size v).mem := by
  unfold Dev.writeAccess
  split
  · exact .refuse h
  · exact .ite (.refuse h) (.ite (.writeWord h) (.writeWord (.writeWord h)))

/-! ### Operations of other devices (14, R286–R293, R301–R304) -/

theorem Memory.wf.refuseWork {d : Dev} {ptn : Nat} {bs : List Byte} {code : Nat} {eid : Option Nat} (h : Memory.wf d.mem) :
    Memory.wf (d.refuseWork ptn bs code eid).mem := by
  unfold Dev.refuseWork
  extract_lets n c
  split
  · exact .mgtSend h
  · exact .sendUp h

theorem Memory.wf.arriveBy {d : Dev} {bs : List Byte} {qp : Option (Nat × Nat × Nat)} {eid : Option Nat} (h : Memory.wf d.mem) :
    Memory.wf (d.arriveBy bs qp eid).mem := by
  unfold Dev.arriveBy
  extract_lets ptn
  split
  · exact .refuseWork h
  · exact .ite (.refuseWork h) (.ite (.refuseWork h) (.ite (.refuseWork h) (.settle h)))

theorem Memory.wf.arrive {d : Dev} {bs : List Byte} {qp : Option (Nat × Nat × Nat)} (h : Memory.wf d.mem) : Memory.wf (d.arrive bs qp).mem :=
  .arriveBy h

theorem Memory.wf.poisonEgress {d : Dev} {n slot dpa : Nat} (h : Memory.wf d.mem) : Memory.wf (d.poisonEgress n slot dpa).mem := by
  unfold Dev.poisonEgress
  exact .ite (.record h) (.ite (.record (.record h)) (.toDest (.takeFree (.record h))))

theorem Memory.wf.relayData {d : Dev} {n slot rid off : Nat} {data : List Byte} {poison : Option Nat} (h : Memory.wf d.mem) :
    Memory.wf (d.relayData n slot rid off data poison).mem := by
  unfold Dev.relayData
  extract_lets k q
  split
  · exact h
  · split
    · extract_lets here
      clear_value here
      split
      next e =>
      split
      next e' =>
      refine .hostNak (.poisonEgress (.iteLeft .poisonLast (.snd e' ?_)))
      split
      · exact h
      · exact .snd e (.takeFree h)
    · exact .addCount (.out (.modQp h))

theorem Memory.wf.relayRefused {d : Dev} {n slot psn : Nat} (h : Memory.wf d.mem) : Memory.wf (d.relayRefused n slot psn).mem := .iteLeft .hostNak h

theorem Memory.wf.itemWriteRefused {d : Dev} {id code : Nat} (h : Memory.wf d.mem) : Memory.wf (d.itemWriteRefused id code).mem := by
  unfold Dev.itemWriteRefused
  extract_lets info
  split
  · exact .post h
  · split
    · exact .post h
    · exact h

theorem Memory.wf.postedRefused {d : Dev} {id code : Nat} (h : Memory.wf d.mem) : Memory.wf (d.postedRefused id code).mem := by
  unfold Dev.postedRefused
  split
  · split
    · exact .relayRefused h
    · exact h
  · exact .itemWriteRefused h

theorem Memory.wf.ringRead {d : Dev} {key : Nat} {v : Option Nat} (h : Memory.wf d.mem) : Memory.wf (d.ringRead key v).mem := h
theorem Memory.wf.farGot {d : Dev} {who dev dpa : Nat} {f : FarRead → FarRead} (h : Memory.wf d.mem) : Memory.wf (d.farGot who dev dpa f).mem := h

theorem Memory.wf.takeResp {d : Dev} {k : Nat} {f : Frame} (h : Memory.wf d.mem) : Memory.wf (d.takeResp k f).mem := by
  unfold Dev.takeResp
  split
  · exact h
  · extract_lets got last this left d₁
    have h₁ : Memory.wf d₁.mem := h
    split
    · exact .dmaGot h₁
    · exact .relayData h₁
    · exact .ringRead h₁
    · exact .farGot h₁

theorem Memory.wf.takeRefuse {d : Dev} {k : Nat} {openIds : List Nat} {f : Frame} (h : Memory.wf d.mem) :
    Memory.wf (d.takeRefuse k openIds f).mem := by
  unfold Dev.takeRefuse
  extract_lets req d₁ code
  clear_value req
  have h₁ : Memory.wf d₁.mem := h
  split
  · split
    · exact .ite (.jobFault (.iteLeft .lastFault h₁)) (.linkFault (.iteLeft .lastFault h₁))
    · split
      · exact .relayRefused h₁
      · exact h₁
    · exact .ringRead h₁
    · exact .farGot h₁
  · split
    · split
      · exact .linkFault h₁
      · exact .linkFault h₁
    · split
      · exact .postedRefused h₁
      · exact h₁

theorem Memory.wf.respond {d : Dev} {o : InOp} {op : Nat} {fields : List (Nat × Nat)} {data : List Byte} (h : Memory.wf d.mem) :
    Memory.wf (d.respond o op fields data).mem := .ite h (.ite (.takeResp h) (.enqueue (.takeId h)))

theorem Memory.wf.refuseOp {d : Dev} {o : InOp} {code : Nat} (h : Memory.wf d.mem) : Memory.wf (d.refuseOp o code).mem :=
  .ite (.postedRefused h) (.ite (.takeRefuse h) (.ite h (.enqueue (.takeId h))))

theorem Memory.wf.putPayload {f : Frame} {k : Nat} {d : Dev} {ag : Agent} {a o n : Nat} (h : Memory.wf d.mem) :
    Memory.wf (Dev.putPayload f k d ag a o n).mem := by
  induction k generalizing d a o n with
  | zero => exact h
  | succ k ih =>
    unfold Dev.putPayload
    exact .ite h (ih (Memory.wf_writeMem h _ _ _ _))

theorem Memory.wf.putPayloadSegs {d : Dev} {f : Frame} {ag : Agent} {pva : Nat} {l : List Seg} (h : Memory.wf d.mem) :
    Memory.wf (d.putPayloadSegs f ag pva l).mem := .foldl (fun _ _ h => .putPayload h) h

theorem Memory.wf.respondData {d : Dev} {o : InOp} {bs : List Byte} {marked : Nat → Bool} (h : Memory.wf d.mem) :
    Memory.wf (d.respondData o bs marked).mem := .foldl (fun _ _ h => .respond h) h

theorem Memory.wf.ctlOp {d : Dev} {o : InOp} {off : Nat} (h : Memory.wf d.mem) : Memory.wf (d.ctlOp o off).mem := by
  unfold Dev.ctlOp
  extract_lets f d₁ d₂
  have h₁ : Memory.wf d₁.mem := .writeAccess h
  have h₂ : Memory.wf d₂.mem := .readAccess h
  exact .ite (.refuseOp h) (.ite (.ite (.refuseOp h₁) h₁) (.ite (.ite (.refuseOp h₂) (.respondData h₂)) (.refuseOp h)))

theorem Memory.wf.dpaOp {d : Dev} {o : InOp} (h : Memory.wf d.mem) : Memory.wf (d.dpaOp o).1.mem := by
  unfold Dev.dpaOp
  extract_lets f n a d₁
  have h₁ : Memory.wf d₁.mem := .noteSecure (.noteErrs h)
  split
  case h_1 => exact .ctlOp h
  case h_2 | h_3 =>
    split
    · exact .refuseOp h
    · split
      · exact .memDemand h
      · split
        · exact .memDemand h
        · split
          · exact .putPayload h
          · split
            · dsimp only
              exact .respondData h₁
            · split
              next e => exact .refuseOp (.iteLeft .poisonLast (.fst e (.atomicAt h)))
              next e => exact .iteLeft .respond (.fst e (.atomicAt h))
              next e => exact .iteLeft .respond (.fst e (.atomicAt h))
  case h_4 => exact .refuseOp h

theorem Memory.wf.flagAddOp {d : Dev} {o : InOp} (h : Memory.wf d.mem) : Memory.wf (d.flagAddOp o).mem := by
  unfold Dev.flagAddOp
  extract_lets f
  split
  · exact .refuseOp h
  · exact .ite (.refuseOp h) (.ite (.signalStk h) (.signalClu h))

theorem Memory.wf.pullArrived {d : Dev} {ptn pva n : Nat} (h : Memory.wf d.mem) : Memory.wf (d.pullArrived ptn pva n).mem := by
  unfold Dev.pullArrived
  split
  · exact h
  · exact .ite (.post h) h

theorem Memory.wf.pullRefused {d : Dev} {ptn pva n : Nat} {x : XFault} (h : Memory.wf d.mem) : Memory.wf (d.pullRefused ptn pva n x).mem := by
  unfold Dev.pullRefused
  split
  · exact h
  · exact .post h

theorem Memory.wf.pvaOp {d : Dev} {o : InOp} (h : Memory.wf d.mem) : Memory.wf (d.pvaOp o).1.mem := by
  unfold Dev.pvaOp
  extract_lets f write n refuse perm
  have hrefuse : ∀ {e : Dev} {x : XFault}, Memory.wf e.mem → Memory.wf (refuse e x).mem := fun he => .refuseOp (.iteLeft .pullRefused he)
  split
  · exact hrefuse h
  · split
    next e => exact hrefuse (.fst e (.xlRange h))
    next e =>
      have h₁ := Memory.wf.fst e (.xlRange h)
      split
      · exact hrefuse h₁
      · split
        · exact .segsDemand h
        · split
          · exact .iteRight .pullArrived (.putPayloadSegs h₁)
          · dsimp only
            exact .respondData (.foldl (fun _ _ h => .noteSecure (.noteErrs h)) h₁)

theorem Memory.wf.msgWhole {d : Dev} {k src : Nat} {m : InMsg} (h : Memory.wf d.mem) : Memory.wf (d.msgWhole k src m).mem := by
  unfold Dev.msgWhole
  extract_lets l d₁
  have h₁ : Memory.wf d₁.mem := h
  exact .ite (.addCount h) (.ite (.arrive h₁) (.ite (.toDest h₁) h₁))

theorem Memory.wf.segment {d : Dev} {o : InOp} (h : Memory.wf d.mem) : Memory.wf (d.segment o).mem := by
  unfold Dev.segment
  extract_lets f mine m d₁
  have h₁ : Memory.wf d₁.mem := h
  clear_value m
  split
  · exact h₁
  · exact .ite h₁ (.ite (.iteLeft .msgWhole h₁) h₁)

theorem Memory.wf.jtagAccess {d : Dev} {a : Nat} {write : Bool} {v : Nat} (h : Memory.wf d.mem) : Memory.wf (d.jtagAccess a write v).1.mem := by
  unfold Dev.jtagAccess
  extract_lets done d₁
  have hdone : ∀ {e : Dev} {st data : Nat}, Memory.wf e.mem → Memory.wf (done e st data).mem := fun he => he
  clear_value done
  have h₁ : Memory.wf d₁.mem := .noteSecure (.noteErrs h)
  split
  case h_1 => exact hdone (.ite (.writeAccess h) (.readAccess h))
  case h_2 | h_3 =>
    split
    · exact .memDemand h
    · split
      · exact .memDemand h
      · split
        · exact hdone (Memory.wf_writeMem h _ _ _ _)
        · exact hdone h₁
  case h_4 => exact hdone h

theorem Memory.wf.performOp {d : Dev} {o : InOp} (h : Memory.wf d.mem) : Memory.wf (d.performOp o).1.mem := by
  unfold Dev.performOp
  extract_lets op
  split
  · exact .jtagAccess h
  · split
    · exact .dpaOp h
    · split
      · exact .pvaOp h
      · split
        · dsimp only
          exact .flagAddOp h
        · split
          · exact .segment h
          · split
            · exact .takeResp h
            · split
              · exact .takeRefuse h
              · exact h

theorem Memory.wf.replyDone {d : Dev} (h : Memory.wf d.mem) : Memory.wf d.replyDone.mem := by
  unfold Dev.replyDone
  exact .foldl (fun _ _ h => .post h) h

/-- A frame that is performed, and one that is held back, keep the canonical form. -/
theorem Memory.wf.performFirst {d : Dev} {k : Nat} (h : Memory.wf d.mem) :
    Memory.wf (d.performFirst k).2.mem ∧ ∀ e, (d.performFirst k).1 = some e → Memory.wf e.mem := by
  unfold Dev.performFirst
  split
  · exact ⟨h, fun _ e => nomatch e⟩
  · split
    · exact ⟨h, fun _ e => nomatch e⟩
    · split
      next r => exact ⟨.fst r (.performOp h), fun _ e => nomatch e⟩
      next r =>
        have hop := Memory.wf.fst r (.performOp h)
        extract_lets was d₁ d₂
        have h₁ : Memory.wf d₁.mem := hop
        have h₂ : Memory.wf d₂.mem := .iteLeft .modPath h₁
        exact ⟨h₂, fun _ e => Option.some.inj e ▸ .ite (.replyDone (.afterDone h₂)) h₂⟩

theorem Memory.wf.performOrder {l held : List Nat} {d : Dev} (h : Memory.wf d.mem) : Memory.wf (Dev.performOrder l held d).mem := by
  induction l generalizing held d with
  | nil => exact h
  | cons k l ih =>
    obtain ⟨hheld, hdone⟩ := Memory.wf.performFirst (k := k) h
    unfold Dev.performOrder
    split
    · exact ih h
    · split
      next e => exact ih (.snd e hheld)
      next e => exact ih (hdone _ (congrArg Prod.fst e))

theorem Memory.wf.resume {d : Dev} (h : Memory.wf d.mem) : Memory.wf d.resume.mem := .performOrder h

end Sys2Proof.Machine

/-! SUPPORT. Memory in its canonical form (12, R241), the steps: an ao-cycle without a command, the device's own commands; and the statement about them. -/

namespace Sys2Proof.Machine

/-! ### An ao-cycle without a command (20, R433) -/

theorem Memory.wf.landTorn {d : Dev} {p : Nat → Bool} (h : Memory.wf d.mem) : Memory.wf (d.landTorn p).mem := Memory.wf_landTorn h p

theorem Memory.wf.tick {d : Dev} (h : Memory.wf d.mem) : Memory.wf d.tick.mem := by
  unfold Dev.tick
  extract_lets e'
  have h₁ : Memory.wf e'.mem := Memory.wf.landTorn h
  exact .keyErrors (.each (fun _ _ h => .parkOnset h) h₁)

/-! ### A cycle of a cluster's buffer (05, R87) -/

theorem Memory.wf.landWrite {d : Dev} {n : Nat} {b : BufWrite} (h : Memory.wf d.mem) : Memory.wf (d.landWrite n b).mem := by
  have hmark (a : Nat) : Memory.wf ((d.overUnits a 32).markWrite a 32 b.marked).mem := by simpa using h
  unfold Dev.landWrite
  dsimp only
  exact .ite h (Memory.wf_putUnit (hmark _) _ _ _ _)

theorem Memory.wf.landDue {d : Dev} {n c : Nat} (h : Memory.wf d.mem) : Memory.wf (d.landDue n c).mem := by
  unfold Dev.landDue
  extract_lets due hit d₁ byCore d₂
  have h₂ : Memory.wf d₂.mem := .foldl (fun _ _ h => .landWrite h) (.modClu h)
  exact .iteLeft .setBit h₂

theorem Memory.wf.nextCycle {d : Dev} {n : Nat} (h : Memory.wf d.mem) : Memory.wf (d.nextCycle n).mem := .landDue (.modClu h)
theorem Memory.wf.cluFlagAdd {d : Dev} {n : Nat} {v : Word} (h : Memory.wf d.mem) : Memory.wf (d.cluFlagAdd n v).mem := .addFlag h

/-! ### Granule copies and repairs of a stack (17, R363, R372) -/

theorem Memory.wf.markHeld {d : Dev} {a : Nat} (h : Memory.wf d.mem) : Memory.wf (d.markHeld a).mem := by
  unfold Dev.markHeld
  split
  · exact .mark h
  · exact h

/-- Marks at the addresses that `g` gives; for a `g` left open, the kernel does not compute an address. -/
theorem Memory.wf.markHeldAll {g : Nat → Nat} {l : List Nat} {d : Dev} (h : Memory.wf d.mem) :
    Memory.wf (l.foldl (fun d i => d.markHeld (g i)) d).mem := .foldl (fun _ _ h => .markHeld h) h

theorem Memory.wf.retsEnd {d : Dev} {s : Nat} (h : Memory.wf d.mem) : Memory.wf (d.retsEnd s).mem := .foldl (fun _ _ h => .unitRetired h) (.modStk h)

theorem Memory.wf.startMoves {s f : Nat} {d : Dev} (h : Memory.wf d.mem) : Memory.wf (Dev.startMoves s f d).mem := by
  induction f generalizing d with
  | zero => exact h
  | succ f ih =>
    unfold Dev.startMoves
    extract_lets x
    split
    · exact h
    · split
      · exact h
      · refine ih ?_
        split
        · exact .modStk (.modStk h)
        · exact .modStk (.setBit (.modStk h))

theorem Memory.wf.migrate {d : Dev} {s : Nat} (h : Memory.wf d.mem) : Memory.wf (d.migrate s).mem := .retsEnd (.startMoves h)

theorem Memory.wf.copyDone {d : Dev} {s g : Nat} {unread : List Nat} (h : Memory.wf d.mem) : Memory.wf (d.copyDone s g unread).mem := by
  unfold Dev.copyDone
  split
  · exact h
  · extract_lets a bad d₁ d₂ d₃
    have h₁ : Memory.wf d₁.mem := .foldl (fun _ _ h => .noteErr h) h
    have h₂ : Memory.wf d₂.mem := Memory.wf_moveBytes (.markHeldAll h₁) _ _ _
    have h₃ : Memory.wf d₃.mem := .modStk h₂
    exact .migrate h₃

theorem Memory.wf.rowRepaired {d : Dev} {s c row bank how : Nat} (h : Memory.wf d.mem) : Memory.wf (d.rowRepaired s c row bank how).mem := .record h

theorem Memory.wf.repairReads {d : Dev} {s c num : Nat} {column : Bool} {bad : List Nat} (h : Memory.wf d.mem) :
    Memory.wf (d.repairReads s c num column bad).mem := by
  unfold Dev.repairReads
  extract_lets mine d₁
  have h₁ : Memory.wf d₁.mem := .foldl (fun _ _ h => .noteErr h) h
  exact .markHeldAll h₁

theorem Memory.wf.repairDone {d : Dev} {s c num : Nat} {column : Bool} {bad : List Nat} (h : Memory.wf d.mem) :
    Memory.wf (d.repairDone s c num column bad).mem := .ite h (.rowRepaired (.noteRec (.modStk (.repairReads h))))

/-! ### The management and JTAG ports (20, R438–R440; 21, R453, R454) -/

theorem Memory.wf.mgtRx {d : Dev} {f : Dev → Dev} (hf : ∀ x, Memory.wf x.mem → Memory.wf (f x).mem) (h : Memory.wf d.mem) :
    Memory.wf (d.mgtRx f).mem := .ite h (.ite (hf _ (.addCount h)) (.endIdle (.addCount h)))

theorem Memory.wf.ctlRx {d : Dev} {pec : Bool} {f : Dev → Dev} (hf : ∀ x, Memory.wf x.mem → Memory.wf (f x).mem) (h : Memory.wf d.mem) :
    Memory.wf (d.ctlRx pec f).mem := .ite h (.ite (.addCount h) (hf _ (.addCount (.endIdle h))))

theorem Memory.wf.vendorRx {d : Dev} {pec : Bool} {f : Dev → Dev} (hf : ∀ x, Memory.wf x.mem → Memory.wf (f x).mem) (h : Memory.wf d.mem) :
    Memory.wf (d.vendorRx pec f).mem := .ite h (.ite (.addCount h) (.mgtRx hf h))

theorem Memory.wf.tapDo {d : Dev} {f : Dev → Dev} (hf : ∀ x, Memory.wf x.mem → Memory.wf (f x).mem) (h : Memory.wf d.mem) :
    Memory.wf (d.tapDo f).mem := .ite (hf _ h) h

theorem Memory.wf.ctlReply {d : Dev} {eid cmd code : Nat} {fields : List Byte} (h : Memory.wf d.mem) :
    Memory.wf (d.ctlReply eid cmd code fields).mem := .addCount (.out h)

theorem Memory.wf.tapShift {d : Dev} {ir bits len : Nat} (h : Memory.wf d.mem) : Memory.wf (d.tapShift ir bits len).mem := .out h
theorem Memory.wf.tapBypass {d : Dev} {ir : Nat} {tdi : List Bool} (h : Memory.wf d.mem) : Memory.wf (d.tapBypass ir tdi).mem := .tapShift h

/-! ### Every step of the device's own commands -/

/-- Each of them leaves a device whose memory is in canonical form, and the queue as it is. -/
theorem exec_ownCommand {c : Instr} {s : State} (hc : ownCommand c = true) (h : Memory.wf s.dev.mem) :
    ∃ e : Dev, exec c s = .next ⟨e, s.pending⟩ ∧ Memory.wf e.mem := by
  cases c with
  -- what the device writes, moves and clears
  | bufferWriteLand n => exact ⟨_, rfl, .iteLeft .nextCycle h⟩
  | lineReplacement die ptn burst => exact ⟨_, rfl, Memory.wf_flushLines h _⟩
  | granuleCopyDone k g => exact ⟨_, rfl, .resume (.copyDone h)⟩
  | repairDone k ch num r => exact ⟨_, rfl, .resume (.repairDone h)⟩
  | powerFail => exact ⟨_, rfl, .ite h Memory.wf_nil⟩
  | moduleReset => exact ⟨_, rfl, .ite h Memory.wf_nil⟩
  -- flags, flips, errors and history
  | secureWipeEnd n => exact ⟨_, rfl, .setBit h⟩
  | bgBlockStart n => exact ⟨_, rfl, .ite (.ite (.modClu (.setBit (.modClu h))) (.setBit (.modClu h))) h⟩
  | cluFlagAdd r n v => exact ⟨_, rfl, .guardWrite (fun _ h => .cluFlagAdd h) h⟩
  | stkMvrFlagAdd r k v => exact ⟨_, rfl, .guardWrite (fun _ h => .addFlag h) h⟩
  | rowHistoryExpiry k ch => exact ⟨_, rfl, .modStk h⟩
  | flipArm r t v =>
    exact ⟨_, rfl, .ite (.guardPut (fun _ _ h => .writeFlipStk h) h) (.guardPut (fun _ _ h => .writeFlipClu h) h)⟩
  -- clocks, supply and inputs
  | clockStepApply k => exact ⟨_, rfl, .clockCause h⟩
  | pllLockLoss k => exact ⟨_, rfl, .ite h (.clockCause (.addCount h))⟩
  | pllRelock k => exact ⟨_, rfl, .clockCause h⟩
  | powerOn => exact ⟨_, rfl, .ite h h⟩
  | inputLowEnd => exact ⟨_, rfl, .setBit h⟩
  | signalDetect => exact ⟨_, rfl, .ite h (.ite (.startWake h) h)⟩
  | autoIdle idle => exact ⟨_, rfl, .iteLeft .enterIdle h⟩
  -- the management port
  | smbusTimeout low => exact ⟨_, rfl, .iteLeft .out h⟩
  | setEndpointId src pec op eid =>
    exact ⟨_, rfl, .ctlRx (fun _ h => .ite (.ctlReply h) (.ctlReply (.setBit (.setF h)))) h⟩
  | getEndpointId src pec => exact ⟨_, rfl, .ctlRx (fun _ h => .ctlReply h) h⟩
  | getEndpointUuid src pec => exact ⟨_, rfl, .ctlRx (fun _ h => .ctlReply h) h⟩
  | getMctpVersionSupport src pec typ => exact ⟨_, rfl, .ctlRx (fun _ h => .ite (.ctlReply h) (.ctlReply h)) h⟩
  | getMessageTypeSupport src pec => exact ⟨_, rfl, .ctlRx (fun _ h => .ctlReply h) h⟩
  | telemetry src pec => exact ⟨_, rfl, .vendorRx (fun _ h => .mgtSend (.endIdle h)) h⟩
  | bootRecord src pec block => exact ⟨_, rfl, .vendorRx (fun _ h => .mgtSend (.endIdle h)) h⟩
  -- the JTAG port
  | idcode => exact ⟨_, rfl, .tapDo (fun _ h => .tapShift h) h⟩
  | extest pins tdi => exact ⟨_, rfl, .tapDo (fun _ h => h) h⟩
  | samplePreload pins tdi => exact ⟨_, rfl, .tapDo (fun _ h => h) h⟩
  | internalScan tdi => exact ⟨_, rfl, .tapDo (fun _ h => .ite (.tapShift (.takeFree h)) (.tapBypass h)) h⟩
  | bypass code tdi => exact ⟨_, rfl, .tapDo (fun _ h => .iteRight .tapBypass h) h⟩
  | tapReset => exact ⟨_, rfl, .tapDo (fun _ h => h) h⟩
  | _ => exact absurd hc Bool.false_ne_true

theorem State.memInv_idle {s : State} (h : s.MemInv) : (idle s).MemInv := by
  obtain ⟨hmem, hqueue⟩ := h
  exact ⟨.tick hmem, hqueue⟩

theorem State.memInv_step {s t : State} (h : s.MemInv) (e : step s = .next t) : t.MemInv := by
  obtain ⟨hmem, hqueue⟩ := h
  unfold step at e
  split at e
  · cases e
    exact State.memInv_idle ⟨hmem, hqueue⟩
  next c rest hp =>
    rw [hp] at hqueue
    obtain ⟨f, hexec, hf⟩ := exec_ownCommand (s := { s with pending := rest }) (hqueue c List.mem_cons_self) hmem
    cases hexec.symm.trans e
    exact ⟨hf, fun x hx => hqueue x (List.mem_cons_of_mem c hx)⟩

end Sys2Proof.Machine

namespace Sys2Proof.Proofs

open Sys2Proof Sys2Proof.Machine

/-- Settles O60, by one lemma for each operation that a step can come to: it leaves memory in its canonical form. -/
theorem memoryStaysCanonical : Obligations.MemoryStaysCanonical := by
  unfold Obligations.MemoryStaysCanonical
  exact fun _ _ h e => State.memInv_step h e

end Sys2Proof.Proofs

/-! SUPPORT. Descriptor items (06, R106, R108): what a read of the intake leaves of the tables, DESC_CREATE and DESC_DESTROY by their checks; and the statement about them. -/

namespace Sys2Proof.Machine

/-! ### What leaves registers and compute DMA engines as they are -/

/-- From `d` to `d'` the registers of every page at the offsets `O` stay, with the compute DMA engines. -/
structure Dev.KeepsDma (O : Nat → Prop) (d d' : Dev) : Prop where
  csr : ∀ k, O k → tget? d'.csr k = tget? d.csr k
  dmas : d'.dmas = d.dmas

section Keeps
variable {O : Nat → Prop}

theorem Dev.KeepsDma.refl (d : Dev) : d.KeepsDma O d := ⟨fun _ _ => rfl, rfl⟩

theorem Dev.KeepsDma.trans {a b c : Dev} (h : a.KeepsDma O b) (h' : b.KeepsDma O c) : a.KeepsDma O c :=
  ⟨fun k hk => (h'.csr k hk).trans (h.csr k hk), h'.dmas.trans h.dmas⟩

/-- What touches neither registers nor engines. -/
theorem Dev.KeepsDma.of_eq {d d' : Dev} (hcsr : d'.csr = d.csr) (hdmas : d'.dmas = d.dmas) : d.KeepsDma O d' := ⟨fun _ _ => by rw [hcsr], hdmas⟩

theorem Dev.KeepsDma.ite {d t e : Dev} {b : Prop} [Decidable b] (h : d.KeepsDma O t) (h' : d.KeepsDma O e) : d.KeepsDma O (if b then t else e) := by
  split
  · exact h
  · exact h'

theorem Dev.keepsDma_foldl {α : Type} {f : Dev → α → Dev} {l : List α} (h : ∀ d, ∀ a ∈ l, Dev.KeepsDma O d (f d a)) (d : Dev) : d.KeepsDma O (l.foldl f d) :=
  Dev.foldl_holds (P := d.KeepsDma O) (fun e a ha he => he.trans (h e a ha)) (.refl d)

theorem Dev.KeepsDma.reg {d d' : Dev} (h : d.KeepsDma O d') {p : Page} {off : Nat} (ho : O (p.base + off)) : d'.reg p off = d.reg p off := by
  rw [Dev.reg, Dev.reg, tgetD, tgetD, h.csr _ ho]

theorem Dev.KeepsDma.dma {d d' : Dev} (h : d.KeepsDma O d') (e : Nat) : d'.dma e = d.dma e := by rw [Dev.dma, Dev.dma, h.dmas]

/-- What touches the listed registers of a page only, none of them at these offsets. -/
theorem Dev.SameRegsBut.keepsDma {d d' : Dev} {p : Page} {offs : List Nat} (h : d'.SameRegsBut d p offs) (hdmas : d'.dmas = d.dmas)
    (ho : ∀ o ∈ offs, ¬ O (p.base + o)) : d.KeepsDma O d' :=
  ⟨fun k hk => (h k fun o hm he => ho o hm (he ▸ hk)).symm, hdmas⟩

theorem Dev.keepsDma_setReg (d : Dev) {p : Page} {off : Nat} (v : Word) (h : ¬ O (p.base + off)) : d.KeepsDma O (d.setReg p off v) :=
  (d.sameRegsBut_setReg p off v).keepsDma rfl (by simpa using h)

theorem Dev.keepsDma_setBit (d : Dev) {p : Page} {off : Nat} (i : Nat) (b : Bool) (h : ¬ O (p.base + off)) : d.KeepsDma O (d.setBit p off i b) :=
  (d.sameRegsBut_setBit p off i b).keepsDma (d.regsOnly_setBit p off i b).dmas (by simpa using h)

theorem Dev.keepsDma_addCount (d : Dev) {p : Page} {off : Nat} (n : Nat) (h : ¬ O (p.base + off)) : d.KeepsDma O (d.addCount p off n) :=
  (d.sameRegsBut_addCount p off n).keepsDma (d.regsOnly_addCount p off n).dmas (by simpa using h)

/-! ### Frames, messages and the outcome of an item (14, R303, R304) -/

theorem Dev.keepsDma_sendOp (d : Dev) (o : HeldOp) : d.KeepsDma O (d.sendOp o) := by
  have hroute : ∀ e : Dev, e.KeepsDma O (e.routeOp o) := fun e => by
    unfold Dev.routeOp
    split
    · exact .of_eq rfl rfl
    · cases o.req <;> exact .of_eq rfl rfl
  have hput : d.KeepsDma O { d with routes := tput d.routes o.peer (d.routeSet o.peer) } := .of_eq rfl rfl
  exact .ite (.of_eq rfl rfl) (hput.trans (hroute _))

theorem Dev.keepsDma_farAsk (d : Dev) (who job domain : Nat) (l : List Seg) : d.KeepsDma O (d.farAsk who job domain l) := by
  have hread : ∀ (d : Dev) (peer a n : Nat) (what : ReqFor), d.KeepsDma O (d.sendRead peer job domain a n what).2 := fun d peer a n what =>
    .trans (b := d.takeId.2.takeTag.2) (.of_eq rfl rfl) (Dev.keepsDma_sendOp _ _)
  refine Dev.keepsDma_foldl (fun e s _ => .ite (.refl e) ?_) d
  exact (hread e _ _ _ _).trans (.of_eq rfl rfl)

theorem Dev.keepsDma_segOps (d : Dev) (peer cls mid domain : Nat) (data : List Byte) (l : List Nat) : d.KeepsDma O (d.segOps peer cls mid domain data l).2 := by
  induction l generalizing d with
  | nil => exact .refl d
  | cons i l ih => exact .trans (b := d.takeId.2) (.of_eq rfl rfl) (ih _)

theorem Dev.keepsDma_sendMsgTo (d : Dev) (peer cls domain : Nat) (data : List Byte) : d.KeepsDma O (d.sendMsgTo peer cls domain data) := by
  have hnumber : d.KeepsDma O { d with nextMid := (d.nextMid + 1) % 2 ^ 32 } := .of_eq rfl rfl
  have hops := hnumber.trans (Dev.keepsDma_segOps _ peer cls d.nextMid domain data (List.range (ceilDiv data.length 8192)))
  unfold Dev.sendMsgTo Dev.sendMsgAs
  exact Dev.foldl_holds (P := d.KeepsDma O) (fun e o _ he => he.trans (e.keepsDma_sendOp o)) (hops.trans (.of_eq rfl rfl))

theorem Dev.keepsDma_sendUp (d : Dev) (data : List Byte) : d.KeepsDma O (d.sendUp data) :=
  .ite (.refl d) (.ite (.of_eq rfl rfl) (d.keepsDma_sendMsgTo _ _ _ _))

section Post
variable (hcount : ¬ O (pMgt.base + 0x50))
include hcount

theorem Dev.keepsDma_finishMsg (d : Dev) (m : WorkMsg) : d.KeepsDma O (d.finishMsg m) := by
  have hgone : d.KeepsDma O { d with work := d.work.filter fun x => x.id ≠ m.id } := .of_eq rfl rfl
  have hsend : ∀ (e : Dev) (eid kind : Nat) (body : List Byte), e.KeepsDma O (e.mgtSend eid kind body) := fun e eid kind body =>
    .trans (b := e.out _) (.of_eq rfl rfl) (Dev.keepsDma_addCount _ 1 hcount)
  unfold Dev.finishMsg
  refine hgone.trans (.ite ?_ (.refl _))
  split
  · exact hsend _ _ _ _
  · exact Dev.keepsDma_sendUp _ _

/-- A message that is complete ends, another one is put back. -/
theorem Dev.keepsDma_endOrPut (d : Dev) (m : WorkMsg) : d.KeepsDma O (if m.complete then d.finishMsg m else d.putWork m) :=
  .ite (d.keepsDma_finishMsg hcount m) (.of_eq rfl rfl)

theorem Dev.keepsDma_settleSeq (f : Nat) (d : Dev) (ptn : Nat) : d.KeepsDma O (Dev.settleSeq f d ptn) := by
  induction f generalizing d with
  | zero => exact .refl d
  | succ f ih =>
    unfold Dev.settleSeq
    split
    · exact .refl d
    · split
      · exact .refl d
      · exact .ite (.refl d) (.ite (.of_eq rfl rfl) ((d.keepsDma_endOrPut hcount _).trans (ih _)))

/-- The outcome of an item leaves the engines, and every register but the count of the management port. -/
theorem Dev.keepsDma_post (d : Dev) (msg item code info : Nat) : d.KeepsDma O (d.post msg item code info) := by
  unfold Dev.post
  split
  · exact .of_eq rfl rfl
  · split
    · exact .refl d
    · exact .ite (.refl d) ((d.keepsDma_endOrPut hcount _).trans (Dev.keepsDma_settleSeq hcount _ _ _))

end Post

end Keeps

/-! ### The tables of descriptors and allocations stay under a read (R106, R107) -/

/-- The offsets of a partition's descriptor and allocation tables (R106). -/
abbrev TableOff (o : Nat) : Prop := 0x300 ≤ o % 0x1000 ∧ o % 0x1000 < 0x318

/-- A register outside the tables, by its offset in its page. -/
theorem Page.not_tableOff (p : Page) {off : Nat} (h : ¬ TableOff off) : ¬ TableOff (p.base + off) := by
  have hb := p.base_mod
  omega

theorem Dev.keepsTables_dropErr (d : Dev) (u : Nat) : d.KeepsDma TableOff (d.dropErr u) := by
  have h0 : d.KeepsDma TableOff { d with errs := tdel d.errs u, injected := d.injected.filter (· ≠ u) } := .of_eq rfl rfl
  unfold Dev.dropErr
  refine h0.trans ?_
  dsimp only
  split
  · next s off _ =>
    have hc := chanOf_lt off
    exact .ite (Dev.keepsDma_setBit _ _ _ (Page.not_tableOff _ (by omega))) (.refl _)
  · exact .ite (Dev.keepsDma_setBit _ _ _ (Page.not_tableOff _ (by decide))) (.refl _)
  · exact .refl _

theorem Dev.keepsTables_noteErr (d : Dev) (u : Nat) : d.KeepsDma TableOff (d.noteErr u) := by
  have hcount : ∀ (e : Dev) (p : Page) (b : Bool) (o o' : Nat), ¬ TableOff o → ¬ TableOff o' → e.KeepsDma TableOff (e.addCount p (if b then o else o') 1) :=
    fun e p b o o' h h' => e.keepsDma_addCount 1 (p.not_tableOff (by cases b; exacts [h', h]))
  have hmark : ∀ (e : Dev) (a : Nat), e.KeepsDma TableOff (e.mark a) := fun e a => .of_eq rfl rfl
  have hdrop := d.keepsTables_dropErr u
  unfold Dev.noteErr
  split
  · refine hdrop.trans (.ite (.refl _) (.ite (hcount _ _ _ _ _ (by decide) (by decide)) ?_))
    exact ((hmark _ _).trans (hcount _ _ _ _ _ (by decide) (by decide))).trans (Dev.keepsDma_addCount _ 1 (Page.not_tableOff _ (by decide)))
  · refine hdrop.trans (Dev.keepsDma_foldl (fun e k _ => .ite (.refl e) (.ite (hcount _ _ _ _ _ (by decide) (by decide)) ?_)) _)
    exact (hmark _ _).trans (hcount _ _ _ _ _ (by decide) (by decide))
  · exact .refl d

theorem Dev.keepsTables_noteErrs (d : Dev) (a n : Nat) : d.KeepsDma TableOff (d.noteErrs a n) :=
  .ite (.refl d) (Dev.keepsDma_foldl (fun e u _ => .ite (e.keepsTables_noteErr u) (.refl e)) d)

/-- The bytes of an uncached read. -/
theorem Dev.keepsTables_segBytes (d : Dev) (who ptn : Nat) (ag : Agent) (vol : Bool) (l : List Seg) :
    d.KeepsDma TableOff (d.segBytes none who ptn ag vol l).1 := by
  induction l generalizing d with
  | nil => exact .refl d
  | cons s l ih =>
    unfold Dev.segBytes
    refine .trans ?_ (ih _)
    dsimp only
    split
    · exact .refl d
    · exact d.keepsTables_noteErrs _ _

theorem Dev.keepsTables_noteClosed (d : Dev) (ag : Agent) (l : List Seg) : d.KeepsDma TableOff (d.noteClosed ag l) := by
  refine Dev.keepsDma_foldl (fun e s _ => .ite ?_ (.refl e)) d
  split
  · exact e.keepsDma_setBit _ _ (Page.not_tableOff _ (by decide))
  · exact .refl e

/-- A translation that keeps no walk counts its reads alone. -/
theorem Dev.keepsTables_xlate {d e : Dev} {p pva : Nat} {w : Bool} {x : Xl} (h : d.xlate none p pva w = (e, .ok x)) : d.KeepsDma TableOff e := by
  have hcount : ∀ l : List (Nat × Nat), d.KeepsDma TableOff (if l.isEmpty then d else d.addCount pMmu 0x44 l.length) := fun l =>
    .ite (.refl d) (d.keepsDma_addCount _ (Page.not_tableOff _ (by decide)))
  unfold Dev.xlate at h
  dsimp only at h
  split at h
  · cases h
  · split at h
    · cases h
    · split at h
      · cases h
      · obtain ⟨rfl, -⟩ := Prod.mk.inj h
        exact hcount _

theorem Dev.keepsTables_xlRangeGo {p : Nat} {w : Bool} {f : Nat} {d e : Dev} {pva n : Nat} {l : List Seg} (h : Dev.xlRangeGo none p w f d pva n = (e, .ok l)) :
    d.KeepsDma TableOff e := by
  induction f generalizing d pva n l with
  | zero =>
    obtain ⟨rfl, -⟩ := Prod.mk.inj h
    exact .refl d
  | succ f ih =>
    unfold Dev.xlRangeGo at h
    split at h
    · obtain ⟨rfl, -⟩ := Prod.mk.inj h
      exact .refl d
    · dsimp only at h
      split at h
      · cases h
      · next hx =>
        split at h
        · cases h
        · next hrest =>
          obtain ⟨rfl, -⟩ := Prod.mk.inj h
          exact (Dev.keepsTables_xlate hx).trans (ih hrest)

/-- A read that gives unmarked bytes, or none because they are sealed, leaves the tables of every partition. -/
theorem Dev.keepsTables_fetchKeep {d f : Dev} {ag : Agent} {p pva n : Nat} {vol : Bool} {r : Fetch} (h : d.fetchKeep none none ag p pva n vol = (f, r))
    (hr : r = .sealed ∨ ∃ bs, r = .ok bs) : d.KeepsDma TableOff f := by
  unfold Dev.fetchKeep at h
  split at h
  · cases h
    simp at hr
  · next e l hx =>
    refine (Dev.keepsTables_xlRangeGo hx).trans ?_
    dsimp only at h
    split at h
    · cases h
      simp at hr
    · split at h
      · cases h
        exact e.keepsTables_noteClosed ag l
      · have hask := e.keepsDma_farAsk (O := TableOff) (svcReader p) (ag.job.getD noJob) (e.linkDomain p) l
        have hseg := (e.farAsk (svcReader p) (ag.job.getD noJob) (e.linkDomain p) l).keepsTables_segBytes (svcReader p) p ag vol l
        split at h
        · cases h
          simp at hr
        · split at h
          · cases h
            simp at hr
          · split at h
            · cases h
              simp at hr
            · next heq =>
              cases h
              rw [Option.getD_none] at heq
              rw [heq] at hseg
              exact hask.trans hseg

/-- A read of the intake that gives unmarked bytes leaves the tables of every partition. -/
theorem Dev.keepsTables_intakeRead {d f : Dev} {p pva n : Nat} {bs : List Byte} (h : d.intakeRead p pva n = (f, .ok (bs, false))) : d.KeepsDma TableOff f := by
  unfold Dev.intakeRead at h
  split at h <;> cases h
  case h_3 hread => exact Dev.keepsTables_fetchKeep hread (.inl rfl)
  case h_5 hread => exact Dev.keepsTables_fetchKeep hread (.inr ⟨_, rfl⟩)

/-- The descriptor table stands where it stood before such a read. -/
theorem Dev.descPva_intakeRead {d f : Dev} {p pva n : Nat} {bs : List Byte} (h : d.intakeRead p pva n = (f, .ok (bs, false))) (k : Nat) : f.descPva p k = d.descPva p k := by
  have hkeep := Dev.keepsTables_intakeRead h
  have hb := (pPtn p).base_mod
  rw [Dev.descPva, Dev.descPva, Dev.pair, Dev.pair, hkeep.reg (by omega), hkeep.reg (by omega)]

/-! ### Descriptor items (R106, R108) -/

/-- A due item is served on the device that its taking leaves. -/
theorem Dev.serveItem_due {d e : Dev} {i : Item} {p k : Nat} (h : d.dueItem p k = some (i, e)) (f : Dev → Item → Dev) : d.serveItem p k f = f e i := by
  unfold Dev.dueItem at h
  unfold Dev.serveItem
  split at h
  · cases h
  · next i' e' hnext =>
    split at h
    · cases h
    · next hbad =>
      obtain ⟨rfl, rfl⟩ := Prod.mk.inj (Option.some.inj h)
      rw [Option.not_isSome_iff_eq_none.1 hbad]

theorem exec_descCreate_due {s : State} {p : Fin 25} {i : Item} {e : Dev} (h : s.dev.dueItem p 0x0010 = some (i, e)) :
    exec (.descCreate p) s = .next ⟨e.descCreate i, s.pending⟩ :=
  congrArg (fun d => Host.Outcome.next (State.mk d s.pending)) (Dev.serveItem_due h _)

theorem exec_descDestroy_due {s : State} {p : Fin 25} {i : Item} {e : Dev} (h : s.dev.dueItem p 0x0011 = some (i, e)) :
    exec (.descDestroy p) s = .next ⟨e.descDestroy i, s.pending⟩ :=
  congrArg (fun d => Host.Outcome.next (State.mk d s.pending)) (Dev.serveItem_due h _)

section Create
variable {d : Dev} {i : Item}

theorem Dev.descCreate_badHandle (hh : d.getF (pPtn i.ptn) 0x308 16 0 ≤ numAt i.body 0x80 2) :
    d.descCreate i = d.descRefused i cDescHandle (numAt i.body 0x80 2) := if_pos hh

variable (hh : numAt i.body 0x80 2 < d.getF (pPtn i.ptn) 0x308 16 0)
include hh

theorem Dev.descCreate_badFormat (hf : dsBadFormat (numAt i.body 0 128) = true) :
    d.descCreate i = d.descRefused i cDescFormat (numAt i.body 0x80 2) := by
  unfold Dev.descCreate
  dsimp only
  rw [if_neg (Nat.not_le.2 hh), if_pos hf]
  rfl

variable (hf : dsBadFormat (numAt i.body 0 128) = false)
include hf

theorem Dev.descCreate_badAlloc (ha : d.getF (pPtn i.ptn) 0x314 16 0 ≤ dsAlloc (numAt i.body 0 128)) :
    d.descCreate i = d.descRefused i cDescAlloc (numAt i.body 0x80 2) := by
  unfold Dev.descCreate
  dsimp only
  rw [if_neg (Nat.not_le.2 hh), if_neg (Bool.eq_false_iff.1 hf), if_pos ha]
  rfl

variable (ha : dsAlloc (numAt i.body 0 128) < d.getF (pPtn i.ptn) 0x314 16 0) {f : Dev} {bs : List Byte}
  (hread : d.intakeRead i.ptn (d.allocPva i.ptn (dsAlloc (numAt i.body 0 128))) 16 = (f, .ok (bs, false)))
include ha hread

theorem Dev.descCreate_badCheck {c k : Nat} (hc : dsCheck (numAt i.body 0 128) (leNat bs) = some (c, k)) :
    d.descCreate i = f.descRefused i c (numAt i.body 0x80 2 + k * 65536) := by
  unfold Dev.descCreate
  dsimp only
  rw [if_neg (Nat.not_le.2 hh), if_neg (Bool.eq_false_iff.1 hf), if_neg (Nat.not_le.2 ha), hread]
  dsimp only
  rw [hc]

theorem Dev.descCreate_stored (hc : dsCheck (numAt i.body 0 128) (leNat bs) = none) {g : Dev}
    (hwrite : f.intakeWrite i.ptn (f.descPva i.ptn (numAt i.body 0x80 2)) (leBytes 128 (numAt i.body 0 128 + 2 ^ 1023)) = (g, .ok ())) :
    d.descCreate i = (g.addSat (pPtn i.ptn) 0x318 15 0 1).endItem i 0 0 := by
  unfold Dev.descCreate
  dsimp only
  rw [if_neg (Nat.not_le.2 hh), if_neg (Bool.eq_false_iff.1 hf), if_neg (Nat.not_le.2 ha), hread]
  dsimp only
  rw [hc]
  dsimp only
  rw [hwrite]

end Create

theorem Dev.descDestroy_badHandle {d : Dev} {i : Item} (hh : d.getF (pPtn i.ptn) 0x308 16 0 ≤ numAt i.body 0 2) :
    d.descDestroy i = d.endItem i cDescHandle (numAt i.body 0 2) := if_pos hh

theorem Dev.descDestroy_cleared {d f g : Dev} {i : Item} {bs : List Byte} (hh : numAt i.body 0 2 < d.getF (pPtn i.ptn) 0x308 16 0)
    (hread : d.intakeRead i.ptn (d.descPva i.ptn (numAt i.body 0 2) + 120) 8 = (f, .ok (bs, false)))
    (hwrite : f.intakeWrite i.ptn (d.descPva i.ptn (numAt i.body 0 2) + 120) (leBytes 8 (setFld (leNat bs) 63 63 0)) = (g, .ok ())) :
    d.descDestroy i = g.endItem i 0 0 := by
  unfold Dev.descDestroy
  dsimp only
  rw [if_neg (Nat.not_le.2 hh), hread]
  dsimp only
  rw [Dev.descPva_intakeRead hread, hwrite]

end Sys2Proof.Machine

namespace Sys2Proof.Proofs

open Sys2Proof Sys2Proof.Machine

/-- Settles O23: each clause is the branch of DESC_CREATE or DESC_DESTROY that its checks choose. -/
theorem descriptorItems : Obligations.DescriptorItems := by
  unfold Obligations.DescriptorItems
  refine ⟨fun s p i e hdue => ?create, fun s p i e hdue => ?destroy⟩
  case create =>
    rw [exec_descCreate_due hdue]
    refine ⟨fun hh => ⟨_, rfl, rfl, Dev.descCreate_badHandle hh⟩, fun hh hf => ⟨_, rfl, rfl, Dev.descCreate_badFormat hh hf⟩,
      fun hh hf ha => ⟨_, rfl, rfl, Dev.descCreate_badAlloc hh hf ha⟩, fun f bs hh hf ha hread => ⟨fun c k hc => ?_, fun g hc hwrite => ?_⟩⟩
    · exact ⟨_, rfl, rfl, Dev.descCreate_badCheck hh hf ha hread hc⟩
    · exact ⟨_, rfl, rfl, Dev.descCreate_stored hh hf ha hread hc hwrite⟩
  case destroy =>
    rw [exec_descDestroy_due hdue]
    exact ⟨fun hh => ⟨_, rfl, rfl, Dev.descDestroy_badHandle hh⟩,
      fun f g bs hh hread hwrite => ⟨_, rfl, rfl, Dev.descDestroy_cleared hh hread hwrite⟩⟩

end Sys2Proof.Proofs

/-! SUPPORT. The compute DMA engines (06, R107, R112; 13, R265–R268): their queues, the fault of a job in one, what a transfer that begins leaves; and the statement about them. -/

namespace Sys2Proof.Machine

/-! ### Queues of an engine (R24, R265) -/

theorem not_dU_lt (e : Nat) {k : Nat} (h : k ≤ 0x4000) : ¬ dU e < k := Nat.not_lt.2 (Nat.le_trans h (Nat.le_add_right _ _))

theorem dU_sub (e : Nat) : dU e - 0x4000 = e := Nat.add_sub_cancel_left _ _

theorem uPage_dma (e : Nat) : uPage (dU e) = pDmac e := by
  rw [uPage, if_neg (not_dU_lt e (by decide)), if_neg (not_dU_lt e (by decide)), dU_sub]

theorem qOff_dma (e q : Nat) : qOff (dU e) q = dslot e + 16 * q := by
  rw [qOff, if_neg (not_dU_lt e (by decide)), dU_sub]

theorem uQueues_dma (e : Nat) : uQueues (dU e) = 2 := if_neg (not_dU_lt e (by decide))

theorem Dev.qCmds_dma (d : Dev) (e q : Nat) : d.qCmds (dU e) q = ((d.dma e).q q).cmds.map BitVec.toNat := by
  rw [Dev.qCmds, if_neg (not_dU_lt e (by decide)), if_neg (not_dU_lt e (by decide)), dU_sub]

theorem Dev.dma_modDma_same (d : Dev) (e : Nat) (f : Dmac → Dmac) : (d.modDma e f).dma e = f (d.dma e) := tgetD_tput_same ..

theorem Dev.dma_modDq_q (d : Dev) (e i : Nat) (f : Dq → Dq) {q : Nat} (hq : q < 2) :
    ((d.modDq e i f).dma e).q q = if q = i then f ((d.dma e).q q) else (d.dma e).q q := by
  rw [Dev.modDq, Dev.dma_modDma_same]
  simp [Dmac.q, hq]

/-- A change of an engine other than of its queues leaves their commands. -/
theorem Dev.qCmds_modDma (d : Dev) (e q : Nat) {f : Dmac → Dmac} (hf : ∀ x, (f x).qs = x.qs) : (d.modDma e f).qCmds (dU e) q = d.qCmds (dU e) q := by
  rw [Dev.qCmds_dma, Dev.qCmds_dma, Dev.dma_modDma_same, Dmac.q, Dmac.q, hf]

theorem Dev.qCmds_setReg_dma (d : Dev) (p : Page) (off : Nat) (v : Word) (e q : Nat) : (d.setReg p off v).qCmds (dU e) q = d.qCmds (dU e) q := by
  rw [Dev.qCmds_dma, Dev.qCmds_dma]
  rfl

theorem Dev.qDrop_dma (d : Dev) (e q k : Nat) : d.qDrop (dU e) q k = d.modDq e q fun x => { x with cmds := x.cmds.drop k, waitAt := none } := by
  rw [Dev.qDrop, if_neg (not_dU_lt e (by decide)), if_neg (not_dU_lt e (by decide)), dU_sub]

theorem Dev.qClear_dma (d : Dev) (e q : Nat) :
    d.qClear (dU e) q = (d.sramMet (.queue (dU e) q)).modDq e q fun x => { x with cmds := [], held := [], waitAt := none, fence := none } := by
  unfold Dev.qClear
  dsimp only
  rw [if_neg (not_dU_lt e (by decide)), if_neg (not_dU_lt e (by decide)), dU_sub]

theorem Dev.qCmds_qDrop_dma (d : Dev) (e : Nat) {q : Nat} (hq : q < 2) (k : Nat) : (d.qDrop (dU e) q k).qCmds (dU e) q = (d.qCmds (dU e) q).drop k := by
  rw [Dev.qDrop_dma, Dev.qCmds_dma, Dev.qCmds_dma, Dev.dma_modDq_q _ _ _ _ hq, if_pos rfl, List.map_drop]

/-- The clearing of a queue leaves the others. -/
theorem Dev.qCmds_qClear_dma (d : Dev) (e r : Nat) {q : Nat} (hq : q < 2) : (d.qClear (dU e) r).qCmds (dU e) q = if q = r then [] else d.qCmds (dU e) q := by
  rw [Dev.qClear_dma, Dev.qCmds_dma, Dev.qCmds_dma, Dev.dma_modDq_q _ _ _ _ hq]
  split <;> rfl

/-! ### The slots of an engine (R265) -/

/-- The offsets of the queue slots of the four engines of a page. -/
abbrev DmaSlotOff (o : Nat) : Prop := 0x100 ≤ o % 0x1000 ∧ (o % 0x1000 - 0x100) % 0x380 < 0x20

/-- A register outside the slots, by its offset in its page. -/
theorem Page.not_dmaSlotOff (p : Page) {off : Nat} (h : ¬ DmaSlotOff off) : ¬ DmaSlotOff (p.base + off) := by
  have hb := p.base_mod
  omega

/-- A word of the slot of a queue stands at such an offset. -/
theorem dmaSlotOff_slot (e : Nat) {q i : Nat} (hq : q < 2) (hi : i < 16) : DmaSlotOff ((pDmac e).base + (dslot e + 16 * q + i)) := by
  have hb := (pDmac e).base_mod
  have hoff : ((pDmac e).base + (dslot e + 16 * q + i)) % 0x1000 = dslot e + 16 * q + i := by
    unfold dslot
    omega
  unfold DmaSlotOff dslot at *
  omega

/-- The state and the fault code of a queue are written to its slot alone. -/
theorem Dev.sameRegsBut_setQFault_unit (d : Dev) (u : UnitKey) (q v code : Nat) :
    ((d.setQMark u q v).setQFault u q code).SameRegsBut d (uPage u) ([qOff u q + 0xC] ++ [qOff u q + 8]) :=
  (Dev.sameRegsBut_setReg _ (uPage u) _ _).trans (d.sameRegsBut_setReg (uPage u) _ _)

/-- Queue `q` of engine `e` has stopped with a fault: it is FAULTED, with the code, and empty (R80, R265). -/
def Dev.DmaQueueStopped (d : Dev) (e q code : Nat) : Prop :=
  d.qMark (dU e) q = 5 ∧ d.getF (uPage (dU e)) (qOff (dU e) q + 0xC) 15 0 = code ∧ d.qCmds (dU e) q = []

/-- A queue that has stopped stays so while its slot and its commands stay. -/
theorem Dev.DmaQueueStopped.of_same {d d' : Dev} {e q code : Nat} (h : d.DmaQueueStopped e q code)
    (hreg : ∀ i < 16, d'.reg (pDmac e) (dslot e + 16 * q + i) = d.reg (pDmac e) (dslot e + 16 * q + i)) (hcmds : d'.qCmds (dU e) q = d.qCmds (dU e) q) :
    d'.DmaQueueStopped e q code := by
  unfold Dev.DmaQueueStopped Dev.qMark Dev.getF at *
  rw [uPage_dma, qOff_dma] at *
  rwa [hreg 8 (by decide), hreg 0xC (by decide), hcmds]

theorem Dev.KeepsDma.dmaQueueStopped {d d' : Dev} (h : d.KeepsDma DmaSlotOff d') {e q code : Nat} (hq : q < 2) (hs : d.DmaQueueStopped e q code) :
    d'.DmaQueueStopped e q code :=
  hs.of_same (fun _ hi => h.reg (dmaSlotOff_slot e hq hi)) (by rw [Dev.qCmds_dma, Dev.qCmds_dma, h.dma])

/-- A change of the engine other than of its queues leaves a queue that has stopped. -/
theorem Dev.DmaQueueStopped.modDma {d : Dev} {e q code : Nat} (h : d.DmaQueueStopped e q code) {f : Dmac → Dmac} (hf : ∀ x, (f x).qs = x.qs) :
    (d.modDma e f).DmaQueueStopped e q code :=
  h.of_same (fun _ _ => rfl) (d.qCmds_modDma e q hf)

/-- A queue that is set FAULTED with a code reads so. -/
theorem Dev.queueFault_set_unit (d : Dev) (u : UnitKey) (q : Nat) {code : Nat} (hc : code < 2 ^ 16) :
    ((d.setQMark u q 5).setQFault u q code).qMark u q = 5 ∧ ((d.setQMark u q 5).setQFault u q code).getF (uPage u) (qOff u q + 0xC) 15 0 = code := by
  unfold Dev.setQMark Dev.setQFault Dev.qMark Dev.setF Dev.getF
  exact ⟨by rw [Dev.reg_setReg_off _ _ _ (by omega), Dev.reg_setReg_same, wfld_wput_low _ (by decide) (by decide)],
    by rw [Dev.reg_setReg_same, wfld_wput_low _ (by decide) hc]⟩

/-! ### The abort of a job in an engine (04, R80; 13, R272) -/

/-- What is written to the slot of a queue leaves headers. -/
theorem Dev.keepsAt_setQFault_dma (d : Dev) (e q v code : Nat) (hq : q < 2) : d.KeepsAt HeaderOff ((d.setQMark (dU e) q v).setQFault (dU e) q code) :=
  (d.regsOnly_setQFault (dU e) q v code).keepsAt fun k hk => (d.sameRegsBut_setQFault_unit (dU e) q v code k fun o ho he => by
    have hb := (pDmac e).base_mod
    rw [uPage_dma] at he
    rw [qOff_dma] at ho
    unfold HeaderOff at hk
    unfold dslot at ho
    simp only [List.cons_append, List.nil_append, List.mem_cons, List.not_mem_nil, or_false] at ho
    omega).symm

/-- The abort of a queue leaves the header of every page, the jobs and the control stores. -/
theorem Dev.keepsAt_abortQueue_dma (d : Dev) (e : Nat) (fq : Option Nat) (code reason : Nat) {q : Nat} (hq : q < 2) :
    d.KeepsAt HeaderOff (d.abortQueue (dU e) fq code reason q) := by
  have hclear : ∀ b : Dev, b.KeepsAt HeaderOff (b.qClear (dU e) q) := fun b => by
    rw [Dev.qClear_dma]
    exact ⟨fun _ _ => rfl, fun _ => rfl, fun _ => rfl, fun _ _ => rfl⟩
  rw [Dev.abortQueue_eq]
  exact ((d.keepsQueues_dropHeld (dU e) q reason).header.trans (hclear _)).trans (Dev.keepsAt_setQFault_dma _ e q _ code hq)

theorem Dev.keepsSlots_dropHeld (d : Dev) (u : UnitKey) (q reason : Nat) : d.KeepsDma DmaSlotOff (d.dropHeld u q reason) :=
  Dev.keepsDma_foldl (fun e _ _ => e.keepsDma_post (pMgt.not_dmaSlotOff (by decide)) _ _ _ _) d

/-- The queue that has faulted stops with the code of the fault. -/
theorem Dev.dmaQueueStopped_abortQueue_same (d : Dev) (e : Nat) {code : Nat} (hc : code < 2 ^ 16) (reason : Nat) {q : Nat} (hq : q < 2) :
    (d.abortQueue (dU e) (some q) code reason q).DmaQueueStopped e q code := by
  rw [Dev.abortQueue_eq, if_pos rfl]
  obtain ⟨hmark, hcode⟩ := ((d.dropHeld (dU e) q reason).qClear (dU e) q).queueFault_set_unit (dU e) q hc
  refine ⟨hmark, hcode, ?_⟩
  have hcmds := (d.dropHeld (dU e) q reason).qCmds_qClear_dma e q hq
  rwa [if_pos rfl] at hcmds

/-- A queue that has stopped stays so when another queue is aborted. -/
theorem Dev.dmaQueueStopped_abortQueue_ne {d : Dev} {e q code : Nat} (h : d.DmaQueueStopped e q code) (hq : q < 2) (fq : Option Nat) (c reason : Nat) {r : Nat}
    (hr : r ≠ q) : (d.abortQueue (dU e) fq c reason r).DmaQueueStopped e q code := by
  rw [Dev.abortQueue_eq]
  have hdrop := (d.keepsSlots_dropHeld (dU e) r reason).dmaQueueStopped hq h
  refine hdrop.of_same (fun i hi => ?_) ?_
  · have hset := Dev.sameRegsBut_setQFault_unit ((d.dropHeld (dU e) r reason).qClear (dU e) r) (dU e) r (if fq = some r then 5 else 6) c
    rw [uPage_dma, qOff_dma] at hset
    refine (hset.reg (by simp; omega)).trans ?_
    rw [Dev.qClear_dma]
    rfl
  · exact ((d.dropHeld (dU e) r reason).qCmds_qClear_dma e r hq).trans (if_neg hr.symm)

theorem lt_of_mem_jobQueues_dma {d : Dev} {e q j : Nat} (h : q ∈ d.jobQueues (dU e) j) : q < 2 := by
  have hlt := List.mem_range.1 (List.mem_filter.1 h).1
  rwa [uQueues_dma] at hlt

theorem Dev.keepsAt_abortQueues_dma (d : Dev) (e j : Nat) (fq : Option Nat) (code reason : Nat) :
    d.KeepsAt HeaderOff (d.abortQueues (dU e) j fq code reason) := by
  rw [Dev.abortQueues_eq]
  exact Dev.foldl_holds (P := d.KeepsAt HeaderOff) (fun b q hq hb => hb.trans (b.keepsAt_abortQueue_dma e fq code reason (lt_of_mem_jobQueues_dma hq))) (.refl _ d)

theorem Dev.dmaQueueStopped_abortQueues (d : Dev) {e q j : Nat} (hq : q ∈ d.jobQueues (dU e) j) {code : Nat} (hc : code < 2 ^ 16) (reason : Nat) :
    (d.abortQueues (dU e) j (some q) code reason).DmaQueueStopped e q code := by
  have h2 := lt_of_mem_jobQueues_dma hq
  have hmake : ∀ b : Dev, (b.abortQueue (dU e) (some q) code reason q).DmaQueueStopped e q code := fun b => b.dmaQueueStopped_abortQueue_same e hc reason h2
  rw [Dev.abortQueues_eq]
  refine Dev.foldl_makes (P := fun b => b.DmaQueueStopped e q code) hmake (fun b r hb => ?_) hq d
  by_cases hr : r = q
  · exact hr ▸ hmake b
  · exact Dev.dmaQueueStopped_abortQueue_ne hb h2 _ _ _ hr

theorem Dev.keepsSlots_abortHolds (d : Dev) (u : UnitKey) (j : Nat) : d.KeepsDma DmaSlotOff (d.abortHolds u j) := by
  refine Dev.keepsDma_foldl (fun e h hh => .ite ?_ (.refl e)) d
  have hlt := List.mem_range.1 hh
  have hoff : ∀ i < 16, ¬ DmaSlotOff ((pPtn (d.job j).ptn).base + (rHold h + i)) := fun i hi => Page.not_dmaSlotOff _ (by unfold rHold; omega)
  exact ((e.keepsDma_setReg 0 (hoff 0 (by decide))).trans (Dev.keepsDma_setReg _ 0 (hoff 4 (by decide)))).trans (Dev.keepsDma_setReg _ 0 (hoff 8 (by decide)))

/-- The count of an engine's units is no word of a slot, and none of a header. -/
theorem Dev.keeps_unitCount (d : Dev) (e n : Nat) :
    d.KeepsDma DmaSlotOff (d.addCount (pDmac e) (dslot e + 0x30) n) ∧ d.KeepsAt HeaderOff (d.addCount (pDmac e) (dslot e + 0x30) n) :=
  ⟨d.keepsDma_addCount n (Page.not_dmaSlotOff _ (by unfold dslot; omega)),
    (d.keepsQueues_addCount (pDmac e) n (by unfold OtherOff dslot; omega)).header⟩

/-- A change of an engine leaves headers, jobs and control stores. -/
theorem Dev.keepsAt_modDma (O : Nat → Prop) (d : Dev) (e : Nat) (f : Dmac → Dmac) : d.KeepsAt O (d.modDma e f) :=
  ⟨fun _ _ => rfl, fun _ => rfl, fun _ => rfl, fun _ _ => rfl⟩

/-- The queues of a job follow from the slots. -/
theorem Dev.KeepsDma.mem_jobQueues {d d' : Dev} (h : d.KeepsDma DmaSlotOff d') {e q j : Nat} (hq : q ∈ d.jobQueues (dU e) j) : q ∈ d'.jobQueues (dU e) j := by
  have hslot : d'.reg (uPage (dU e)) (qOff (dU e) q) = d.reg (uPage (dU e)) (qOff (dU e) q) := by
    rw [uPage_dma, qOff_dma]
    exact h.reg (dmaSlotOff_slot e (i := 0) (lt_of_mem_jobQueues_dma hq) (by decide))
  simp only [Dev.jobQueues, below, List.mem_filter, Dev.qBound, Dev.qWeight, Dev.qJob, Dev.getF, hslot] at hq ⊢
  exact hq

/-- The abort of a job in an engine leaves headers, jobs and control stores; a queue of the job that has faulted stops with its code. -/
theorem Dev.abortDma_effect (d : Dev) (e j q : Nat) {code : Nat} (hc : code < 2 ^ 16) (reason : Nat) :
    d.KeepsAt HeaderOff (d.abortDma e j (some q) code reason) ∧
      (q ∈ d.jobQueues (dU e) j → (d.abortDma e j (some q) code reason).DmaQueueStopped e q code) := by
  have hheader := (d.keepsQueues_abortHolds (dU e) j).header.trans ((d.abortHolds (dU e) j).keepsAt_abortQueues_dma e j (some q) code reason)
  have hstop : q ∈ d.jobQueues (dU e) j → ((d.abortHolds (dU e) j).abortQueues (dU e) j (some q) code reason).DmaQueueStopped e q code := fun hq =>
    Dev.dmaQueueStopped_abortQueues _ ((d.keepsSlots_abortHolds (dU e) j).mem_jobQueues hq) hc reason
  unfold Dev.abortDma
  extract_lets u d₁ d₂ units d₃
  have hcount : d₂.KeepsDma DmaSlotOff d₃ ∧ d₂.KeepsAt HeaderOff d₃ := by
    unfold d₃
    split
    · exact ⟨.refl _, .refl _ _⟩
    · exact d₂.keeps_unitCount e units
  obtain ⟨hslots, hhead⟩ := hcount
  refine ⟨(hheader.trans hhead).trans (d₃.keepsAt_modDma _ e _), fun hq => ?_⟩
  refine (hslots.dmaQueueStopped (lt_of_mem_jobQueues_dma hq) (hstop hq)).modDma ?_
  exact fun _ => rfl

/-- An abort in an engine first drops what its job asked of other devices. -/
theorem Dev.abortUnit_dma_cases (d : Dev) (e j : Nat) (fq : Option Nat) (code reason : Nat) :
    ∃ b : Dev, d.KeepsQueues b ∧ d.KeepsDma DmaSlotOff b ∧ d.abortUnit (dU e) j fq code reason = b.abortDma e j fq code reason := by
  refine ⟨if d.far.isEmpty then d else { d with far := d.far.filter fun f => !(f.who = dU e && f.job = j) }, .ite (.refl d) (.of_eq rfl rfl rfl rfl),
    .ite (.refl d) (.of_eq rfl rfl), ?_⟩
  unfold Dev.abortUnit
  rw [if_neg (not_dU_lt e (by decide)), if_neg (not_dU_lt e (by decide)), dU_sub]

theorem Dev.abortUnit_dma (d : Dev) (e j q : Nat) {code : Nat} (hc : code < 2 ^ 16) (reason : Nat) :
    d.KeepsAt HeaderOff (d.abortUnit (dU e) j (some q) code reason) ∧
      (q ∈ d.jobQueues (dU e) j → (d.abortUnit (dU e) j (some q) code reason).DmaQueueStopped e q code) := by
  obtain ⟨b, hkeep, hslots, hunit⟩ := d.abortUnit_dma_cases e j (some q) code reason
  obtain ⟨hheader, hstop⟩ := b.abortDma_effect e j q hc reason
  rw [hunit]
  exact ⟨hkeep.header.trans hheader, fun hq => hstop (hslots.mem_jobQueues hq)⟩

/-! ### The fault of a job in an engine (04, R80; 13, R265) -/

/-- A fault is noted in the header alone. -/
theorem Dev.keepsSlots_jobFaulting (d : Dev) (u : UnitKey) (j code info : Nat) (members : Option (List FaultName)) :
    d.KeepsDma DmaSlotOff (d.jobFaulting u j code info members) := by
  have hregs : ∀ (b : Dev) (off : Nat) (v : Word), off < 0x100 → b.KeepsDma DmaSlotOff (b.setReg (uPage u) off v) := fun b off v ho =>
    b.keepsDma_setReg v (Page.not_dmaSlotOff _ (by unfold DmaSlotOff; omega))
  have hevent : ∀ b : Dev, b.KeepsDma DmaSlotOff (b.setEvent (uPage u) evFault) := fun b =>
    ⟨fun k hk => by rw [Dev.setEvent_csr]; exact (hregs b 0x10 _ (by decide)).csr k hk, (b.regsOnly_setEvent _ _).dmas⟩
  have hnote : d.KeepsDma DmaSlotOff (d.noteFault (uPage u) code info) := .of_eq rfl rfl
  have hagain : ∀ b : Dev, b.KeepsDma DmaSlotOff ((b.noteSet (uPage u) 0x10 evFault).setBit (uPage u) 0x0C 4 true) := fun b =>
    .trans (b := b.noteSet (uPage u) 0x10 evFault) (.of_eq rfl rfl) (Dev.keepsDma_setBit _ _ _ (Page.not_dmaSlotOff _ (by decide)))
  have hfault : d.KeepsDma DmaSlotOff (d.fault (uPage u) code info) :=
    hnote.trans (.ite (hagain _) (((hregs _ 0x18 _ (by decide)).trans (hregs _ 0x1C _ (by decide))).trans (hevent _)))
  exact hfault.trans (.of_eq rfl rfl)

/-- What an abort tells other units and the partition leaves registers and engines. -/
theorem Dev.keepsDma_faultAbort (O : Nat → Prop) (d : Dev) (u : UnitKey) (q j code info : Nat) (was : Job) :
    (d.abortUnit u j (some q) code 4).KeepsDma O (d.faultAbort u q j code info was) := by
  have htell : ∀ (e : Dev) (l : List UnitKey), e.KeepsDma O (if l.isEmpty then e else { e with aborts := e.aborts ++ [⟨j, l⟩] }) :=
    fun e l => .ite (.refl e) (.of_eq rfl rfl)
  have hrecord : ∀ (e : Dev) (a b : Nat) (l : List Byte), e.KeepsDma O (e.record a b l) := fun e a b l => .of_eq rfl rfl
  exact .ite (htell _ _) ((htell _ _).trans (hrecord _ _ _ _))

/-- What follows in an engine leaves headers, jobs and control stores. The job's queue is FAULTED with the code, and empty once an abort of the job begins. -/
theorem Dev.jobFaultM_effect_dma (d : Dev) (e : Nat) {q : Nat} (hq : q < 2) (j : Nat) {code : Nat} (hc : code < 2 ^ 16) (info : Nat) (members : Option (List FaultName)) :
    (d.jobFaulting (dU e) j code info members).KeepsAt HeaderOff (d.jobFaultM (dU e) q j code info members) ∧
      (q ∈ d.jobQueues (dU e) j → (d.jobFaultM (dU e) q j code info members).qMark (dU e) q = 5 ∧
        (d.jobFaultM (dU e) q j code info members).getF (uPage (dU e)) (qOff (dU e) q + 0xC) 15 0 = code ∧
        (d.abortBegun j = false → (d.jobFaultM (dU e) q j code info members).qCmds (dU e) q = [])) := by
  cases hb : d.abortBegun j with
  | true =>
    rw [Dev.jobFaultM_begun hb]
    obtain ⟨hmark, hcode⟩ := (d.jobFaulting (dU e) j code info members).queueFault_set_unit (dU e) q hc
    exact ⟨Dev.keepsAt_setQFault_dma _ e q 5 code hq, fun _ => ⟨hmark, hcode, nofun⟩⟩
  | false =>
    rw [Dev.jobFaultM_first hb]
    have htell := (d.jobFaulting (dU e) j code info members).keepsQueues_faultAbort (dU e) q j code info ((d.fault (uPage (dU e)) code info).job j)
    have hslots := (d.jobFaulting (dU e) j code info members).keepsDma_faultAbort DmaSlotOff (dU e) q j code info ((d.fault (uPage (dU e)) code info).job j)
    obtain ⟨hheader, hstop⟩ := (d.jobFaulting (dU e) j code info members).abortUnit_dma e j q hc 4
    refine ⟨hheader.trans htell.header, fun hmem => ?_⟩
    obtain ⟨hmark, hcode, hcmds⟩ := hslots.dmaQueueStopped hq (hstop ((d.keepsSlots_jobFaulting (dU e) j code info members).mem_jobQueues hmem))
    exact ⟨hmark, hcode, fun _ => hcmds⟩

/-- What a fault leaves of a job in an engine follows from headers and jobs. -/
theorem Dev.jobFault_dma (d : Dev) (e : Nat) {q : Nat} (hq : q < 2) (j : Nat) {code : Nat} (hc : code < 2 ^ 16) (info : Nat) :
    d.JobFaulted (d.jobFault (dU e) q j code info) (dU e) q j code info := by
  obtain ⟨hkeep, hqueue⟩ := d.jobFaultM_effect_dma e hq j hc info none
  obtain ⟨hevent, hfirst⟩ := d.fault_noted (uPage (dU e)) code info
  have hreg : ∀ off < 0x40, (d.jobFault (dU e) q j code info).reg (uPage (dU e)) off = (d.fault (uPage (dU e)) code info).reg (uPage (dU e)) off :=
    fun off ho => hkeep.reg_header (uPage (dU e)) ho
  refine ⟨?_, fun h => ?_, ?_, fun hcls => ?_, fun hbound hj hlt => ?_⟩
  · rwa [Dev.bit, hreg _ (by decide)]
  · rw [hreg _ (by decide), hreg _ (by decide)]
    exact hfirst h
  · rw [Dev.jobFault, hkeep.code, Dev.jobFaulting, Dev.job_setJob_same, Job.faulting_code]
  · rw [Dev.jobFault, hkeep.state, Dev.jobFaulting, Dev.job_setJob_same, Job.faulting_state _ _ _ (by rwa [Dev.job_fault])]
  · have hmem : q ∈ d.jobQueues (dU e) j := List.mem_filter.2 ⟨List.mem_range.2 hlt, by simp [hbound, hj]⟩
    obtain ⟨hmark, hcode, hcmds⟩ := hqueue hmem
    refine ⟨hmark, hcode, fun ha hfree => hcmds ?_⟩
    rw [Dev.abortBegun, ha]
    simp only [Bool.false_or, Bool.and_eq_false_iff, decide_eq_false_iff_not, not_not]
    exact hfree

/-! ### The issue of a transfer (06, R107, R112; 13, R266–R268) -/

/-- A served head is executed on its word, its job and the job's partition. -/
theorem Dev.dmaServe_served {d : Dev} {e q w op : Nat} (h : d.DmaServed e q w) (hop : fld w 7 0 = op) (f : Dev → Nat → Nat → Nat → Dev) :
    d.dmaServe e q op f = f d w (d.qJob (dU e) q) (d.job (d.qJob (dU e) q)).ptn := by
  obtain ⟨hopen, hhead, hcheck, hbad, hsig⟩ := h
  unfold Dev.dmaServe
  simp [hopen, hhead, hcheck, hbad, hsig, hop]

/-- The four commands that read descriptors, each with its opcode (R266). -/
abbrev moves (e : Fin 256) (q : Fin 2) : List (Nat × Instr) := [(1, .dmaCopy e q), (2, .gather e q), (3, .scatter e q), (4, .scatterAdd e q)]

/-- The four commands that read descriptors issue alike. -/
theorem exec_move_served {s : State} {e : Fin 256} {q : Fin 2} {w : Nat} {c : Instr} (h : s.dev.DmaServed e q w) (hc : (fld w 7 0, c) ∈ moves e q) :
    exec c s = .next ⟨s.dev.issueMove e q w (s.dev.qJob (dU e) q) (s.dev.job (s.dev.qJob (dU e) q)).ptn, s.pending⟩ := by
  have hserve : ∀ op, fld w 7 0 = op → s.dev.dmaServe e q op (fun d w j p => d.issueMove e q w j p) =
      s.dev.issueMove e q w (s.dev.qJob (dU e) q) (s.dev.job (s.dev.qJob (dU e) q)).ptn := fun op hop => Dev.dmaServe_served h hop _
  simp only [moves, List.mem_cons, Prod.mk.injEq, List.not_mem_nil, or_false] at hc
  obtain ⟨hop, rfl⟩ | ⟨hop, rfl⟩ | ⟨hop, rfl⟩ | ⟨hop, rfl⟩ := hc <;> rw [← hserve _ hop] <;> rfl

theorem exec_dmaAtomic_served {s : State} {e : Fin 256} {q : Fin 2} {w : Nat} (h : s.dev.DmaServed e q w) (hop : fld w 7 0 = 0x05) :
    exec (.dmaAtomic e q) s = .next ⟨s.dev.startXfer e q w (s.dev.qJob (dU e) q) (s.dev.job (s.dev.qJob (dU e) q)).ptn (List.replicate 128 0) (List.replicate 128 0) 1,
      s.pending⟩ :=
  congrArg (fun d => Host.Outcome.next (State.mk d s.pending)) (Dev.dmaServe_served h hop _)

/-- A transfer that has issued nothing. -/
def freshXfer (w j p : Nat) (src dst : List Byte) (total : Nat) : Xfer where
  cmd := BitVec.ofNat 1024 w
  job := j
  ptn := p
  src := src
  dst := dst
  total := total
  next := 0
  flight := []
  done := 0
  zeroed := 0
  code := 0
  info := 0
  stop := 0
  saved := false
  hold := none

/-- A transfer that begins: its command leaves the queue, it stands with nothing issued, PROGRESS reads 0, memory stays. -/
theorem Dev.startXfer_effect (d : Dev) (e : Nat) {q : Nat} (hq : q < 2) (w j p : Nat) (src dst : List Byte) (total : Nat) :
    tget? ((d.startXfer e q w j p src dst total).dma e).xfers q = some (freshXfer w j p src dst total) ∧
      (d.startXfer e q w j p src dst total).reg (pDmac e) (dslot e + 0x28 + 4 * q) = 0 ∧
      (d.startXfer e q w j p src dst total).qCmds (dU e) q = (d.qCmds (dU e) q).drop 1 ∧ (d.startXfer e q w j p src dst total).mem = d.mem := by
  have hdrop : (d.qDrop (dU e) q 1).mem = d.mem := by
    rw [Dev.qDrop_dma]
    rfl
  unfold Dev.startXfer
  dsimp only
  refine ⟨?_, Dev.reg_setReg_same _ _ _ _, ?_, hdrop⟩
  · rw [Dev.dma_modDma_same]
    exact tget?_tput_same _ _ _
  · rw [Dev.qCmds_modDma, Dev.qCmds_setReg_dma, Dev.qCmds_qDrop_dma _ _ hq]
    exact fun _ => rfl

/-- A transfer between two descriptors stands once it has begun. -/
theorem Dev.xferStands_startXfer (d : Dev) (e : Nat) {q : Nat} (hq : q < 2) (w j p : Nat) (src dst : Desc) :
    (d.startXfer e q w j p (leBytes 128 src) (leBytes 128 dst) (ceilDiv (xferElems w dst) (unitElems dst))).XferStands e q w j src dst := by
  obtain ⟨hx, hreg, -, -⟩ := d.startXfer_effect e hq w j p (leBytes 128 src) (leBytes 128 dst) (ceilDiv (xferElems w dst) (unitElems dst))
  exact ⟨_, hx, rfl, rfl, rfl, rfl, rfl, rfl, rfl, rfl, hreg⟩

section Issue
variable {d f g : Dev} {e q w j p : Nat} {src dst : Desc}

theorem Dev.issueMove_badSource (hsrc : d.descAtIssue e p j (dmSrc w) = (f, .bad)) : d.issueMove e q w j p = f.jobFault (dU e) q j cDescInvalid (dmSrc w) := by
  rw [Dev.issueMove, hsrc]

variable (hsrc : d.descAtIssue e p j (dmSrc w) = (f, .ok src)) (hdst : f.descAtIssue e p j (dmDst w) = (g, .ok dst))
include hsrc hdst

theorem Dev.issueMove_refused {k i : Nat} (hc : issueCheck w src dst = some (k, i)) : d.issueMove e q w j p = g.jobFault (dU e) q j k i := by
  rw [Dev.issueMove, hsrc]
  dsimp only
  rw [hdst]
  dsimp only
  rw [hc]

theorem Dev.issueMove_started (hc : issueCheck w src dst = none) :
    d.issueMove e q w j p = g.startXfer e q w j p (leBytes 128 src) (leBytes 128 dst) (ceilDiv (xferElems w dst) (unitElems dst)) := by
  rw [Dev.issueMove, hsrc]
  dsimp only
  rw [hdst]
  dsimp only
  rw [hc]

end Issue

/-- The codes of the issue checks fit the field of a queue's fault. -/
theorem issueCheck_code_lt {w : Nat} {src dst : Desc} {k i : Nat} (h : issueCheck w src dst = some (k, i)) : k < 2 ^ 16 := by
  have hcode : k = cDescFormat ∨ k = cListFormat ∨ k = cDescBlock := by
    unfold issueCheck at h
    dsimp only at h
    split_ifs at h <;> cases h <;> simp
  obtain rfl | rfl | rfl := hcode <;> decide

end Sys2Proof.Machine

namespace Sys2Proof.Proofs

open Sys2Proof Sys2Proof.Machine

/-- Settles O25: the four commands that read descriptors issue alike; what they come to is `Dev.startXfer_effect` or the fault of a job in an engine (`Dev.jobFault_dma`). -/
theorem dmaTransfersIssue : Obligations.DmaTransfersIssue := by
  unfold Obligations.DmaTransfersIssue
  intro s e q w hserved
  refine ⟨fun f g src dst hsrc hdst => ⟨fun hc => ?starts, fun k i c hc hmove => ?refused⟩, fun f c hsrc hmove => ?badSource, fun hop => ?atomic⟩
  case starts =>
    have hstart : ∀ c, (fld w 7 0, c) ∈ moves e q → ∃ t, exec c s = .next t ∧ t.pending = s.pending ∧
        t.dev.XferStands e q w (s.dev.qJob (dU e) q) src dst ∧ t.dev.qCmds (dU e) q = (g.qCmds (dU e) q).drop 1 ∧ t.dev.mem = g.mem := fun c hmove => by
      obtain ⟨-, -, hcmds, hmem⟩ := g.startXfer_effect e q.isLt w (s.dev.qJob (dU e) q) (s.dev.job (s.dev.qJob (dU e) q)).ptn (leBytes 128 src) (leBytes 128 dst)
        (ceilDiv (xferElems w dst) (unitElems dst))
      rw [exec_move_served hserved hmove, Dev.issueMove_started hsrc hdst hc]
      exact ⟨_, rfl, rfl, g.xferStands_startXfer e q.isLt w _ _ src dst, hcmds, hmem⟩
    exact ⟨fun hop => hstart _ (by simp [moves, hop]), fun hop => hstart _ (by simp [moves, hop]), fun hop => hstart _ (by simp [moves, hop]),
      fun hop => hstart _ (by simp [moves, hop])⟩
  case refused =>
    rw [exec_move_served hserved hmove, Dev.issueMove_refused hsrc hdst hc]
    exact ⟨_, rfl, rfl, g.jobFault_dma e q.isLt _ (issueCheck_code_lt hc) i⟩
  case badSource =>
    rw [exec_move_served hserved hmove, Dev.issueMove_badSource hsrc]
    exact ⟨_, rfl, rfl, f.jobFault_dma e q.isLt _ (by decide) _⟩
  case atomic =>
    obtain ⟨hx, -, hcmds, hmem⟩ := s.dev.startXfer_effect e q.isLt w (s.dev.qJob (dU e) q) (s.dev.job (s.dev.qJob (dU e) q)).ptn (List.replicate 128 0)
      (List.replicate 128 0) 1
    exact ⟨_, _, exec_dmaAtomic_served hserved hop, rfl, hx, rfl, rfl, rfl, rfl, rfl, hcmds, hmem⟩

end Sys2Proof.Proofs

/-! SUPPORT. The marver engines (07, R124–R146): their queues, the heads that are served, the abort and the fault of a job in one, its flags; and the statement about them. -/

namespace Sys2Proof.Machine

/-! ### Queues of a marver (07, R127, R146) -/

theorem not_mU_lt (k : Nat) : ¬ mU k < 0x2000 := Nat.not_lt.2 (Nat.le_add_right _ _)

theorem mU_lt {k : Nat} (h : k < 24) : mU k < 0x4000 := Nat.lt_of_lt_of_le (Nat.add_lt_add_left h _) (by decide)

theorem mU_sub (k : Nat) : mU k - 0x2000 = k := Nat.add_sub_cancel_left _ _

theorem uPage_mvr {k : Nat} (h : k < 24) : uPage (mU k) = pStk k 1 := by
  rw [uPage, if_neg (not_mU_lt k), if_pos (mU_lt h), mU_sub]

theorem qOff_mvr {k : Nat} (h : k < 24) (q : Nat) : qOff (mU k) q = 0x80 + 16 * q := by
  rw [qOff, if_pos (mU_lt h)]

theorem uQueues_mvr {k : Nat} (h : k < 24) : uQueues (mU k) = 8 := by
  rw [uQueues, if_pos (mU_lt h)]

theorem Dev.qCmds_mvr (d : Dev) {k : Nat} (h : k < 24) (q : Nat) : d.qCmds (mU k) q = ((d.stk k).q q).cmds.map BitVec.toNat := by
  rw [Dev.qCmds, if_neg (not_mU_lt k), if_pos (mU_lt h), mU_sub]

theorem Dev.qFence_mvr (d : Dev) {k : Nat} (h : k < 24) (q : Nat) : d.qFence (mU k) q = ((d.stk k).q q).fence := by
  rw [Dev.qFence, if_neg (not_mU_lt k), if_pos (mU_lt h), mU_sub]

theorem Dev.qDrop_mvr (d : Dev) {k : Nat} (h : k < 24) (q n : Nat) :
    d.qDrop (mU k) q n = d.modMq k q fun x => { x with cmds := x.cmds.drop n, waitAt := none } := by
  rw [Dev.qDrop, if_neg (not_mU_lt k), if_pos (mU_lt h), mU_sub]

theorem Dev.setFence_mvr (d : Dev) {k : Nat} (h : k < 24) (q : Nat) (v : Option Nat) :
    d.setFence (mU k) q v = d.modMq k q fun x => { x with fence := v } := by
  rw [Dev.setFence, if_neg (not_mU_lt k), if_pos (mU_lt h), mU_sub]

theorem Dev.qClear_mvr (d : Dev) {k : Nat} (h : k < 24) (q : Nat) :
    d.qClear (mU k) q = (d.sramMet (.queue (mU k) q)).modMq k q fun x => { x with cmds := [], held := [], waitAt := none, fence := none } := by
  unfold Dev.qClear
  dsimp only
  rw [if_neg (not_mU_lt k), if_pos (mU_lt h), mU_sub]

theorem Dev.stk_modStk (d : Dev) (k i : Nat) (f : Stk → Stk) : (d.modStk k f).stk i = if i = k then f (d.stk k) else d.stk i :=
  tgetD_tput d.stks k i (f (d.stk k)) {}

@[simp] theorem Dev.stk_modStk_same (d : Dev) (k : Nat) (f : Stk → Stk) : (d.modStk k f).stk k = f (d.stk k) := by
  rw [Dev.stk_modStk, if_pos rfl]

theorem Dev.stk_modMq_q (d : Dev) (k i : Nat) (f : Mq → Mq) {q : Nat} (hq : q < 8) :
    ((d.modMq k i f).stk k).q q = if q = i then f ((d.stk k).q q) else (d.stk k).q q := by
  simp [Dev.modMq, Stk.q, hq]

theorem Dev.RegsOnly.qCmds_mvr {d d' : Dev} (h : d.RegsOnly d') {k : Nat} (hk : k < 24) (q : Nat) : d'.qCmds (mU k) q = d.qCmds (mU k) q := by
  rw [Dev.qCmds_mvr _ hk, Dev.qCmds_mvr _ hk, Dev.stk, Dev.stk, h.stks]

/-- `d'` differs from `d` in what its stacks hold beside their registers only. -/
def Dev.StksOnly (d d' : Dev) : Prop := d' = { d with stks := d'.stks }

theorem Dev.StksOnly.trans {a b c : Dev} (h : a.StksOnly b) (h' : b.StksOnly c) : a.StksOnly c := by
  unfold Dev.StksOnly at *
  rw [h', h]

theorem Dev.StksOnly.csr {d d' : Dev} (h : d.StksOnly d') : d'.csr = d.csr := by rw [h]
theorem Dev.StksOnly.mem {d d' : Dev} (h : d.StksOnly d') : d'.mem = d.mem := by rw [h]
theorem Dev.StksOnly.jobs {d d' : Dev} (h : d.StksOnly d') : d'.jobs = d.jobs := by rw [h]
theorem Dev.StksOnly.flag {d d' : Dev} (h : d.StksOnly d') (p : Page) (n : Nat) : d'.flag p n = d.flag p n := by rw [h]; rfl

theorem Dev.stksOnly_modStk (d : Dev) (k : Nat) (f : Stk → Stk) : d.StksOnly (d.modStk k f) := rfl

/-- A WAIT at the head starts to be timed, or nothing changes. -/
theorem Dev.qArm_mvr_cases (d : Dev) {k : Nat} (h : k < 24) (q : Nat) :
    d.qArm (mU k) q = d ∨ ∃ v, d.qArm (mU k) q = d.modMq k q fun x => { x with waitAt := v } := by
  unfold Dev.qArm
  split
  · exact .inl rfl
  · dsimp only
    split
    · exact .inr ⟨_, by rw [if_neg (not_mU_lt k), if_pos (mU_lt h), mU_sub]⟩
    · exact .inl rfl

/-- What a queue holds once `n` commands have left its head; nothing but the stack's queues changes. -/
theorem Dev.qPop_mvr (d : Dev) {k q : Nat} (h : k < 24) (hq : q < 8) (n : Nat) :
    d.StksOnly (d.qPop (mU k) q n) ∧ ∃ v, ((d.qPop (mU k) q n).stk k).q q = { (d.stk k).q q with cmds := ((d.stk k).q q).cmds.drop n, waitAt := v } := by
  have hdrop := d.stk_modMq_q k q (fun x => { x with cmds := x.cmds.drop n, waitAt := none }) hq
  rw [if_pos rfl, ← Dev.qDrop_mvr d h] at hdrop
  have honly : d.StksOnly (d.qDrop (mU k) q n) := d.qDrop_mvr h q n ▸ d.stksOnly_modStk k _
  obtain harm | ⟨v, harm⟩ := (d.qDrop (mU k) q n).qArm_mvr_cases h q
  · exact ⟨by rwa [Dev.qPop, harm], none, by rw [Dev.qPop, harm, hdrop]⟩
  · exact ⟨honly.trans (by rw [Dev.qPop, harm]; exact Dev.stksOnly_modStk _ k _),
      v, by rw [Dev.qPop, harm, Dev.stk_modMq_q _ _ _ _ hq, if_pos rfl, hdrop]⟩

/-- The round robin moves credits and its pointer; every queue keeps its commands. -/
theorem Dev.mvrChoose_effect {d e : Dev} {k c : Nat} (h : d.mvrChoose k = some (c, e)) :
    d.StksOnly e ∧ ∀ q < 8, ((e.stk k).q q).cmds = ((d.stk k).q q).cmds := by
  obtain ⟨⟨c', cr, p⟩, -, he⟩ := Option.map_eq_some_iff.1 h
  obtain ⟨-, rfl⟩ := Prod.mk.inj he
  refine ⟨d.stksOnly_modStk k _, fun q hq => ?_⟩
  simp [Stk.q, hq]

/-! ### Served heads (R127–R131) -/

/-- A served head is dispatched on the device that the round robin leaves. -/
theorem Dev.mvrServe_served {d e : Dev} {k q w op : Nat} (h : d.MvrServed k q w e) (hop : fld w 7 0 = op) (f : Dev → Nat → Nat → Dev) :
    d.mvrServe k q op f = f e w (d.qJob (mU k) q) := by
  obtain ⟨hopen, hhead, hcheck, hbad, howner, hon, hchoose⟩ := h
  have hsignal : ¬ (mvrSignals (fld w 7 0) && mhSigEn w && mhSigKind w && decide (d.owner (pClu (mhSigClu w)) ≠ (d.job (d.qJob (mU k) q)).ptn)) = true := by
    simp only [Bool.and_eq_true, decide_eq_true_eq, not_and, and_imp, not_not]
    exact howner
  unfold Dev.mvrServe
  simp only [hopen, hhead, hbad, hcheck, Bool.not_true, Bool.false_eq_true, if_false]
  rw [if_neg hsignal, if_neg (not_not.2 hon), hchoose]
  exact if_pos (by simp [hop])

/-- The head leaves a served queue, and nothing but stacks changes. -/
theorem Dev.mvrServed_qPop {d e : Dev} {k q w : Nat} (h : d.MvrServed k q w e) (hk : k < 24) (hq : q < 8) :
    d.StksOnly (e.qPop (mU k) q 1) ∧ (e.qPop (mU k) q 1).qCmds (mU k) q = (d.qCmds (mU k) q).drop 1 := by
  obtain ⟨-, -, -, -, -, -, hchoose⟩ := h
  obtain ⟨honly, hcmds⟩ := Dev.mvrChoose_effect hchoose
  obtain ⟨hpop, v, hleft⟩ := e.qPop_mvr hk hq 1
  refine ⟨honly.trans hpop, ?_⟩
  rw [Dev.qCmds_mvr _ hk, Dev.qCmds_mvr _ hk, hleft, hcmds q hq, List.map_drop]

/-- A WAIT is served with its flag at or above THRESHOLD. -/
theorem Dev.threshold_of_mvrServed {d e : Dev} {k q w : Nat} (h : d.MvrServed k q w e) (hop : fld w 7 0 = 0x08) : sgAmount w ≤ d.flag (pStk k 1) (sgFlag w) := by
  obtain ⟨-, hhead, -, -, -, -, hchoose⟩ := h
  obtain ⟨⟨c, cr, p⟩, hwrr, he⟩ := Option.map_eq_some_iff.1 hchoose
  obtain ⟨rfl, -⟩ := Prod.mk.inj he
  have hready := wrr_ready hwrr
  simp only [Dev.mvrReady, hhead, Bool.and_eq_true] at hready
  obtain ⟨-, -, hissue⟩ := hready
  simp only [Dev.mvrIssuable, hop] at hissue
  simpa using (Bool.and_eq_true_iff.1 hissue).2

/-- A FENCE at the head leaves its queue and holds it; nothing but stacks changes. -/
theorem Dev.fence_mvr (d : Dev) {k q : Nat} (h : k < 24) (hq : q < 8) (scope : Nat) :
    let t := (d.setFence (mU k) q (some scope)).qPop (mU k) q 1
    d.StksOnly t ∧ t.qCmds (mU k) q = (d.qCmds (mU k) q).drop 1 ∧ t.qFence (mU k) q = some scope := by
  have hset := d.setFence_mvr h q (some scope)
  have hheld : ((d.setFence (mU k) q (some scope)).stk k).q q = { (d.stk k).q q with fence := some scope } := by
    rw [hset, Dev.stk_modMq_q _ _ _ _ hq, if_pos rfl]
  obtain ⟨hpop, v, hleft⟩ := (d.setFence (mU k) q (some scope)).qPop_mvr h hq 1
  rw [hheld] at hleft
  refine ⟨.trans (hset ▸ d.stksOnly_modStk k _) hpop, ?_, ?_⟩
  · rw [Dev.qCmds_mvr _ h, Dev.qCmds_mvr _ h, hleft, List.map_drop]
  · rw [Dev.qFence_mvr _ h, hleft]

section Served

variable {s : State} {k : Fin 24} {q : Fin 8} {w : Nat} {e : Dev} (h : s.dev.MvrServed k q w e)
include h

theorem exec_marverNop_served (hop : fld w 7 0 = 0x00) : exec (.marverNop k q) s = .next ⟨e.qPop (mU k) q 1, s.pending⟩ := by
  change execMarverNop k q s = _
  rw [execMarverNop, State.upd_eq, Dev.mvrServe_served h hop]

theorem exec_marverSignal_served (hop : fld w 7 0 = 0x07) :
    exec (.marverSignal k q) s = .next ⟨(e.qPop (mU k) q 1).addFlag (pStk k 1) (sgFlag w) (sgAmount w), s.pending⟩ := by
  change execMarverSignal k q s = _
  rw [execMarverSignal, State.upd_eq, Dev.mvrServe_served h hop]

theorem exec_marverWait_served (hop : fld w 7 0 = 0x08) :
    exec (.marverWait k q) s =
      .next ⟨if wtConsume w then (e.qPop (mU k) q 1).subFlag (pStk k 1) (sgFlag w) (sgAmount w) else e.qPop (mU k) q 1, s.pending⟩ := by
  change execMarverWait k q s = _
  rw [execMarverWait, State.upd_eq, Dev.mvrServe_served h hop]

theorem exec_marverFence_served (hop : fld w 7 0 = 0x09) :
    exec (.marverFence k q) s = .next ⟨(e.setFence (mU k) q (some (fnScope w))).qPop (mU k) q 1, s.pending⟩ := by
  change execMarverFence k q s = _
  rw [execMarverFence, State.upd_eq, Dev.mvrServe_served h hop]

end Served

theorem exec_marverFlagWaitTimeout_passed {s : State} {k : Fin 24} {q : Fin 8} {w at_ lim : Nat} (hhead : s.dev.qHead (mU k) q = some w)
    (hwait : s.dev.qWaiting (mU k) q = some (at_, lim)) (hop : fld w 7 0 = 0x08) (hflag : s.dev.flag (pStk k 1) (sgFlag w) < sgAmount w)
    (hlim : at_ + lim ≤ s.dev.ao) :
    exec (.marverFlagWaitTimeout k q) s = .next ⟨s.dev.jobFault (mU k) q (s.dev.qJob (mU k) q) 0x5001
      (sgFlag w + q.val * 256 + s.dev.flag (pStk k 1) (sgFlag w) * 65536), s.pending⟩ := by
  change execMarverFlagWaitTimeout k q s = _
  rw [execMarverFlagWaitTimeout, State.upd_eq, hhead, hwait]
  simp [hop, hflag, hlim]

theorem exec_stkMvrFlagAdd_takes {s : State} {r : Role} {k : Fin 24} (h : s.dev.Takes r (pStk k 1)) (v : BitVec 32) :
    exec (.stkMvrFlagAdd r k v) s = .next ⟨(s.dev.addFlag (pStk k 1) (wfld v 5 0) (wfld v 31 16)).answer 0, s.pending⟩ := by
  change execStkMvrFlagAdd r k v s = _
  rw [execStkMvrFlagAdd, State.upd_eq, Dev.guardWrite_takes h]

/-! ### The outcome of an item leaves stacks (14, R303, R304) -/

theorem Dev.stks_routeOp (d : Dev) (o : HeldOp) : (d.routeOp o).stks = d.stks := by
  unfold Dev.routeOp
  split
  · rfl
  · cases o.req <;> rfl

theorem Dev.stks_sendOp (d : Dev) (o : HeldOp) : (d.sendOp o).stks = d.stks := by
  unfold Dev.sendOp
  dsimp only
  split
  · rfl
  · exact Dev.stks_routeOp _ o

theorem Dev.stks_segOps (d : Dev) (peer cls mid domain : Nat) (data : List Byte) (l : List Nat) : (d.segOps peer cls mid domain data l).2.stks = d.stks := by
  induction l generalizing d with
  | nil => rfl
  | cons i l ih => exact ih d.takeId.2

theorem Dev.stks_sendUp (d : Dev) (data : List Byte) : (d.sendUp data).stks = d.stks := by
  have hmsg : ∀ (d : Dev) (peer cls mid domain : Nat), (d.sendMsgAs peer cls mid domain data).stks = d.stks := fun d peer cls mid domain =>
    Dev.foldl_holds (P := fun e => e.stks = d.stks) (fun e o _ he => (e.stks_sendOp o).trans he)
      (d.stks_segOps peer cls mid domain data (List.range (ceilDiv data.length 8192)))
  unfold Dev.sendUp
  split
  · rfl
  · split
    · rfl
    · exact hmsg ..

/-- A message that is complete ends, another one is put back. -/
theorem Dev.stks_endOrPut (d : Dev) (m : WorkMsg) : (if m.complete then d.finishMsg m else d.putWork m).stks = d.stks := by
  unfold Dev.finishMsg
  dsimp only
  split
  · split
    · split
      · exact (Dev.regsOnly_addCount _ _ _ _).stks
      · exact Dev.stks_sendUp ..
    · rfl
  · rfl

theorem Dev.stks_settleSeq (f : Nat) (d : Dev) (ptn : Nat) : (Dev.settleSeq f d ptn).stks = d.stks := by
  induction f generalizing d with
  | zero => rfl
  | succ f ih =>
    unfold Dev.settleSeq
    split
    · rfl
    · split
      · rfl
      · split
        · rfl
        · dsimp only
          split
          · rfl
          · exact (ih _).trans (Dev.stks_endOrPut ..)

theorem Dev.stks_post (d : Dev) (msg item code info : Nat) : (d.post msg item code info).stks = d.stks := by
  unfold Dev.post
  split
  · rfl
  · split
    · rfl
    · split
      · rfl
      · exact (Dev.stks_settleSeq _ _ _).trans (Dev.stks_endOrPut ..)

theorem Dev.stks_dropHeld (d : Dev) (u : UnitKey) (q reason : Nat) : (d.dropHeld u q reason).stks = d.stks :=
  Dev.foldl_holds (P := fun e => e.stks = d.stks) (fun e _ _ he => (e.stks_post _ _ _ _).trans he) rfl

theorem Dev.stk_of_stks {d d' : Dev} (h : d'.stks = d.stks) (k : Nat) : d'.stk k = d.stk k := by rw [Dev.stk, Dev.stk, h]

/-! ### What a copier transfer leaves (07, R138, R142; 13, R274) -/

/-- From `d` to `d'` queues, jobs and aborts stay, and of each stack everything but which of its counts have run. -/
structure Dev.KeepsWork (d d' : Dev) : Prop extends Dev.KeepsQueues d d' where
  jobs : d'.jobs = d.jobs
  aborts : d'.aborts = d.aborts
  stk : ∀ k, ∃ l, d'.stk k = { d.stk k with ran := l }

theorem Dev.KeepsWork.refl (d : Dev) : d.KeepsWork d := ⟨.refl d, rfl, rfl, fun k => ⟨(d.stk k).ran, rfl⟩⟩

theorem Dev.KeepsWork.trans {a b c : Dev} (h : a.KeepsWork b) (h' : b.KeepsWork c) : a.KeepsWork c :=
  ⟨h.toKeepsQueues.trans h'.toKeepsQueues, h'.jobs.trans h.jobs, h'.aborts.trans h.aborts, fun k => by
    obtain ⟨l, hl⟩ := h.stk k
    obtain ⟨l', hl'⟩ := h'.stk k
    exact ⟨l', by rw [hl', hl]⟩⟩

theorem Dev.KeepsWork.foldl {α : Type} {f : Dev → α → Dev} {l : List α} (h : ∀ d, ∀ a ∈ l, Dev.KeepsWork d (f d a)) (d : Dev) : d.KeepsWork (l.foldl f d) :=
  Dev.foldl_holds (P := d.KeepsWork) (fun e a ha he => he.trans (h e a ha)) (.refl d)

theorem Dev.KeepsWork.stkQs {d d' : Dev} (h : d.KeepsWork d') (k : Nat) : (d'.stk k).qs = (d.stk k).qs := by
  obtain ⟨l, hl⟩ := h.stk k
  rw [hl]

theorem Dev.KeepsWork.copiers {d d' : Dev} (h : d.KeepsWork d') (k : Nat) : (d'.stk k).copiers = (d.stk k).copiers := by
  obtain ⟨l, hl⟩ := h.stk k
  rw [hl]

theorem Dev.RegsOnly.aborts {d d' : Dev} (h : d.RegsOnly d') : d'.aborts = d.aborts := by rw [h]
theorem Dev.BytesOnly.stks {d d' : Dev} (h : d.BytesOnly d') : d'.stks = d.stks := by rw [h]

/-- What touches memory, and no queue. -/
theorem Dev.BytesOnly.keepsWork {d d' : Dev} (h : d.BytesOnly d') (hq : d.KeepsQueues d') : d.KeepsWork d' :=
  ⟨hq, by rw [h], by rw [h], fun k => ⟨(d.stk k).ran, Dev.stk_of_stks h.stks k⟩⟩

theorem Dev.bytesOnly_noteErrs (d : Dev) (a n : Nat) : d.BytesOnly (d.noteErrs a n) := by
  unfold Dev.noteErrs
  split
  · rfl
  · refine Dev.bytesOnly_foldl _ (fun e u => ?_) _ d
    split
    · exact e.bytesOnly_noteErr u
    · rfl

theorem Dev.keepsWork_noteErrs (d : Dev) (a n : Nat) : d.KeepsWork (d.noteErrs a n) := (d.bytesOnly_noteErrs a n).keepsWork (d.keepsQueues_noteErrs a n)

theorem Dev.keepsWork_writeMem (d : Dev) (ag : Agent) (a : Nat) (bs : List Byte) (m : Bool) : d.KeepsWork (d.writeMem ag a bs m).1 :=
  (d.bytesOnly_writeMem ag a bs m).keepsWork (d.keepsQueues_writeMem ag a bs m)

theorem Dev.keepsWork_takeFree (d : Dev) : d.KeepsWork d.takeFree.2 := ⟨.of_eq rfl rfl rfl rfl, rfl, rfl, fun k => ⟨(d.stk k).ran, rfl⟩⟩

theorem Dev.keepsWork_freeBytes (d : Dev) (n : Nat) : d.KeepsWork (d.freeBytes n).1 := ⟨.of_eq rfl rfl rfl rfl, rfl, rfl, fun k => ⟨(d.stk k).ran, rfl⟩⟩

theorem Dev.keepsWork_copyUnit (d : Dev) (r : CopyRun) (n : Nat) : d.KeepsWork (d.copyUnit r n).1 := by
  unfold Dev.copyUnit
  refine List.foldlRecOn (motive := fun acc : Dev × Option Nat => d.KeepsWork acc.1) _ _ (.refl d) fun acc h i _ => ?_
  obtain ⟨e, x⟩ := acc
  refine h.trans ?_
  dsimp only
  split
  · exact e.keepsWork_noteErrs _ _
  · split
    · exact e.keepsWork_writeMem _ _ _ _
    · split
      · exact (e.keepsWork_freeBytes 64).trans (Dev.keepsWork_writeMem _ _ _ _ _)
      · exact (e.keepsWork_noteErrs _ 64).trans (Dev.keepsWork_writeMem _ _ _ _ _)

/-- The count of a unit, and that its slots have run. -/
theorem Dev.keepsWork_unitDone (d : Dev) (k : Nat) :
    d.KeepsWork ((d.addCount (pStk k 3) 0x4C 1).modStk k fun x => { x with ran := addSet x.ran 0x58 }) := by
  have hregs := d.regsOnly_addCount (pStk k 3) 0x4C 1
  refine ⟨(d.keepsQueues_addCount (pStk k 3) 1 (by decide)).trans (.of_eq rfl rfl rfl rfl), hregs.jobs, hregs.aborts, fun i => ?_⟩
  rw [Dev.stk_modStk, Dev.stk_of_stks hregs.stks, Dev.stk_of_stks hregs.stks]
  split
  · next hi => exact ⟨_, by rw [hi]⟩
  · exact ⟨(d.stk i).ran, rfl⟩

theorem Dev.keepsWork_copyUnits (k n : Nat) (d : Dev) (r : CopyRun) (i : Nat) : d.KeepsWork (Dev.copyUnits k n d r i).1 := by
  induction n generalizing d i with
  | zero => exact .refl d
  | succ n ih =>
    have hunit := d.keepsWork_copyUnit r i
    unfold Dev.copyUnits
    split
    · next heq => rwa [heq] at hunit
    · next e heq =>
      rw [heq] at hunit
      exact (hunit.trans (e.keepsWork_unitDone k)).trans (ih _ _)

theorem Dev.keepsWork_copyAbort (d : Dev) (k : Nat) (r : CopyRun) : d.KeepsWork (d.copyAbort k r) := by
  unfold Dev.copyAbort
  split
  · exact .refl d
  · exact d.keepsWork_takeFree.trans (Dev.keepsWork_copyUnits ..)

/-- The outputs that an aborted run has written. -/
def Dev.abortRun (d : Dev) (j : Nat) (r : MRun) : Dev :=
  (r.outs.take (d.takeFree.1 % (r.outs.length + 1))).foldl (fun d o => (d.writeMem (agPlain (d.job j).ptn (some j)) o.1 o.2.1 o.2.2).1) d.takeFree.2

theorem Dev.keepsWork_abortRun (d : Dev) (j : Nat) (r : MRun) : d.KeepsWork (d.abortRun j r) :=
  d.keepsWork_takeFree.trans (.foldl (fun e _ _ => e.keepsWork_writeMem _ _ _ _) _)

/-- Once its queues have been aborted, the runs and transfers of the job stop and are forgotten. -/
theorem Dev.abortStk_cases (d : Dev) (k j : Nat) (fq : Option Nat) (code reason : Nat) :
    ∃ b f, (d.abortQueues (mU k) j fq code reason).KeepsWork b ∧ (∀ x, (f x : Stk).qs = x.qs) ∧ (∀ x, (f x : Stk).copiers = x.copiers.filter fun e => e.2.job ≠ j) ∧
      d.abortStk k j fq code reason = b.modStk k f := by
  let d₁ := d.abortQueues (mU k) j fq code reason
  let d₂ := ((d₁.stk k).runs.filter fun r => r.job = j).foldl (fun d r => d.abortRun j r) d₁
  have hruns : d₁.KeepsWork d₂ := .foldl (fun e r _ => e.keepsWork_abortRun j r) d₁
  have hcopies := Dev.KeepsWork.foldl (l := (d₂.stk k).copiers.filter fun e => e.2.job = j) (fun e c _ => e.keepsWork_copyAbort k c.2) d₂
  refine ⟨_, fun x => { x with runs := x.runs.filter fun r => r.job ≠ j, copiers := x.copiers.filter fun e => e.2.job ≠ j, saved := x.saved.filter fun e => e.2.job ≠ j },
    hruns.trans hcopies, fun _ => rfl, fun _ => rfl, rfl⟩

/-! ### The abort of a job in a marver (07, R142) -/

/-- Queue `q` of the marver of stack `k` has stopped with a fault: it is FAULTED, with the code, and empty (R80, R131). -/
def Dev.MvrQueueStopped (d : Dev) (k q code : Nat) : Prop :=
  d.qMark (mU k) q = 5 ∧ d.getF (uPage (mU k)) (qOff (mU k) q + 0xC) 15 0 = code ∧ d.qCmds (mU k) q = []

section Marver
variable {k : Nat} (hk : k < 24)
include hk

/-- A queue that has stopped stays so while its slot and its commands stay. -/
theorem Dev.MvrQueueStopped.of_same {d d' : Dev} {q code : Nat} (h : d.MvrQueueStopped k q code)
    (hreg : ∀ i < 16, d'.reg (pStk k 1) (0x80 + 16 * q + i) = d.reg (pStk k 1) (0x80 + 16 * q + i)) (hcmds : d'.qCmds (mU k) q = d.qCmds (mU k) q) :
    d'.MvrQueueStopped k q code := by
  unfold Dev.MvrQueueStopped Dev.qMark Dev.getF at *
  rw [uPage_mvr hk, qOff_mvr hk] at *
  rwa [hreg 8 (by decide), hreg 0xC (by decide), hcmds]

theorem Dev.KeepsQueues.mvrQueueStopped {d d' : Dev} (h : d.KeepsQueues d') {q code : Nat} (hq : q < 8) (hs : d.MvrQueueStopped k q code)
    (hqs : (d'.stk k).qs = (d.stk k).qs) : d'.MvrQueueStopped k q code :=
  hs.of_same hk (fun _ hi => h.reg_slot _ (by omega)) (by rw [Dev.qCmds_mvr _ hk, Dev.qCmds_mvr _ hk, Stk.q, Stk.q, hqs])

/-- The abort of a queue leaves the header of every page, the jobs and the control stores. -/
theorem Dev.keepsAt_abortQueue_mvr (d : Dev) (fq : Option Nat) (code reason : Nat) {q : Nat} (hq : q < 8) :
    d.KeepsAt HeaderOff (d.abortQueue (mU k) fq code reason q) := by
  have hclear : ∀ b : Dev, b.KeepsAt HeaderOff (b.qClear (mU k) q) := fun b => by
    rw [Dev.qClear_mvr _ hk]
    exact ⟨fun _ _ => rfl, fun _ => rfl, fun _ => rfl, fun _ _ => rfl⟩
  have hset : ∀ (b : Dev) (v : Nat), b.KeepsAt HeaderOff ((b.setQMark (mU k) q v).setQFault (mU k) q code) := fun b v =>
    (b.regsOnly_setQFault (mU k) q v code).keepsAt fun i hi => (b.sameRegsBut_setQFault_unit (mU k) q v code i fun o ho he => by
      have hb := (pStk k 1).base_mod
      rw [uPage_mvr hk] at he
      rw [qOff_mvr hk] at ho
      unfold HeaderOff at hi
      simp only [List.cons_append, List.nil_append, List.mem_cons, List.not_mem_nil, or_false] at ho
      omega).symm
  rw [Dev.abortQueue_eq]
  exact ((d.keepsQueues_dropHeld (mU k) q reason).header.trans (hclear _)).trans (hset _ _)

/-- The abort of a queue empties it, and changes nothing of its stack but its queues. -/
theorem Dev.stk_abortQueue_mvr (d : Dev) (fq : Option Nat) (code reason r : Nat) :
    ((d.abortQueue (mU k) fq code reason r).stk k).copiers = (d.stk k).copiers ∧
      ∀ q < 8, (d.abortQueue (mU k) fq code reason r).qCmds (mU k) q = if q = r then [] else d.qCmds (mU k) q := by
  have hdrop := Dev.stk_of_stks (d.stks_dropHeld (mU k) r reason) k
  have hset : (d.abortQueue (mU k) fq code reason r).stk k = ((d.dropHeld (mU k) r reason).qClear (mU k) r).stk k := by
    rw [Dev.abortQueue_eq]
    exact Dev.stk_of_stks (Dev.regsOnly_setQFault ..).stks k
  have hmet : ((d.dropHeld (mU k) r reason).sramMet (.queue (mU k) r)).stk k = d.stk k := hdrop
  rw [Dev.qClear_mvr _ hk] at hset
  refine ⟨?_, fun q hq => ?_⟩
  · rw [hset, Dev.modMq, Dev.stk_modStk_same, hmet]
  · rw [Dev.qCmds_mvr _ hk, Dev.qCmds_mvr _ hk, hset, Dev.stk_modMq_q _ _ _ _ hq, hmet]
    split <;> rfl

/-- The queue that has faulted stops with the code of the fault. -/
theorem Dev.mvrQueueStopped_abortQueue_same (d : Dev) {code : Nat} (hc : code < 2 ^ 16) (reason : Nat) {q : Nat} (hq : q < 8) :
    (d.abortQueue (mU k) (some q) code reason q).MvrQueueStopped k q code := by
  obtain ⟨-, hcmds⟩ := d.stk_abortQueue_mvr hk (some q) code reason q
  have hempty := hcmds q hq
  rw [Dev.abortQueue_eq, if_pos rfl] at hempty ⊢
  rw [if_pos rfl] at hempty
  obtain ⟨hmark, hcode⟩ := ((d.dropHeld (mU k) q reason).qClear (mU k) q).queueFault_set_unit (mU k) q hc
  exact ⟨hmark, hcode, hempty⟩

/-- A queue that has stopped stays so when another queue is aborted. -/
theorem Dev.mvrQueueStopped_abortQueue_ne {d : Dev} {q code : Nat} (h : d.MvrQueueStopped k q code) (hq : q < 8) (fq : Option Nat) (c reason : Nat) {r : Nat}
    (hr : r ≠ q) : (d.abortQueue (mU k) fq c reason r).MvrQueueStopped k q code := by
  obtain ⟨-, hcmds⟩ := d.stk_abortQueue_mvr hk fq c reason r
  refine h.of_same hk (fun i hi => ?_) ((hcmds q hq).trans (if_neg hr.symm))
  have hset := Dev.sameRegsBut_setQFault_unit ((d.dropHeld (mU k) r reason).qClear (mU k) r) (mU k) r (if fq = some r then 5 else 6) c
  rw [uPage_mvr hk, qOff_mvr hk] at hset
  rw [Dev.abortQueue_eq]
  refine (hset.reg (by simp; omega)).trans ?_
  rw [Dev.qClear_mvr _ hk]
  exact (d.keepsQueues_dropHeld (mU k) r reason).reg_slot _ (by omega)

theorem lt_of_mem_jobQueues_mvr {d : Dev} {q j : Nat} (h : q ∈ d.jobQueues (mU k) j) : q < 8 := by
  have hlt := List.mem_range.1 (List.mem_filter.1 h).1
  rwa [uQueues_mvr hk] at hlt

/-- The abort of the queues of a job leaves headers, jobs, control stores and copiers; a queue of the job that has faulted stops with its code. -/
theorem Dev.abortQueues_mvr (d : Dev) (j q : Nat) {code : Nat} (hc : code < 2 ^ 16) (reason : Nat) :
    d.KeepsAt HeaderOff (d.abortQueues (mU k) j (some q) code reason) ∧ ((d.abortQueues (mU k) j (some q) code reason).stk k).copiers = (d.stk k).copiers ∧
      (q ∈ d.jobQueues (mU k) j → (d.abortQueues (mU k) j (some q) code reason).MvrQueueStopped k q code) := by
  rw [Dev.abortQueues_eq]
  refine ⟨?_, ?_, fun hq => ?_⟩
  · exact Dev.foldl_holds (P := d.KeepsAt HeaderOff) (fun b r hr hb => hb.trans (b.keepsAt_abortQueue_mvr hk _ code reason (lt_of_mem_jobQueues_mvr hk hr))) (.refl _ d)
  · exact Dev.foldl_holds (P := fun b => (b.stk k).copiers = (d.stk k).copiers) (fun b r _ hb => (b.stk_abortQueue_mvr hk (some q) code reason r).1.trans hb) rfl
  · have h8 := lt_of_mem_jobQueues_mvr hk hq
    have hmake : ∀ b : Dev, (b.abortQueue (mU k) (some q) code reason q).MvrQueueStopped k q code := fun b => b.mvrQueueStopped_abortQueue_same hk hc reason h8
    refine Dev.foldl_makes (P := fun b => b.MvrQueueStopped k q code) hmake (fun b r hb => ?_) hq d
    by_cases hr : r = q
    · exact hr ▸ hmake b
    · exact Dev.mvrQueueStopped_abortQueue_ne hk hb h8 _ _ _ hr

omit hk in
/-- From `d` to `t` job `j` has been aborted in the marver of stack `k`, where it has faulted in queue `q`: headers, jobs and control stores stay, and the copiers of other jobs; a queue of the job stops with its code (R80, R142). -/
structure Dev.MvrAborted (d t : Dev) (k j q code : Nat) : Prop where
  header : d.KeepsAt HeaderOff t
  copiers : (t.stk k).copiers = (d.stk k).copiers.filter fun e => e.2.job ≠ j
  stopped : q ∈ d.jobQueues (mU k) j → t.MvrQueueStopped k q code

theorem Dev.mvrAborted_abortStk (d : Dev) (j q : Nat) {code : Nat} (hc : code < 2 ^ 16) (reason : Nat) :
    d.MvrAborted (d.abortStk k j (some q) code reason) k j q code := by
  obtain ⟨hheader, hcopiers, hstop⟩ := d.abortQueues_mvr hk j q hc reason
  obtain ⟨b, f, hwork, hf, hcf, heq⟩ := d.abortStk_cases k j (some q) code reason
  have hlast : b.KeepsQueues (b.modStk k f) := .of_eq rfl rfl rfl rfl
  rw [heq]
  refine ⟨(hheader.trans hwork.header).trans hlast.header, ?_, fun hq => ?_⟩
  · rw [Dev.stk_modStk_same, hcf, hwork.copiers k, hcopiers]
  · refine (hwork.toKeepsQueues.trans hlast).mvrQueueStopped hk (lt_of_mem_jobQueues_mvr hk hq) (hstop hq) ?_
    rw [Dev.stk_modStk_same, hf]
    exact hwork.stkQs k

/-- An abort in a marver first drops what its job asked of other devices. -/
theorem Dev.mvrAborted_abortUnit (d : Dev) (j q : Nat) {code : Nat} (hc : code < 2 ^ 16) (reason : Nat) :
    d.MvrAborted (d.abortUnit (mU k) j (some q) code reason) k j q code := by
  have hfar : ∀ (l : List FarRead) (t : Dev), Dev.MvrAborted { d with far := l } t k j q code → d.MvrAborted t k j q code := fun l t h =>
    ⟨⟨h.header.csr, h.header.code, h.header.state, h.header.store⟩, h.copiers, h.stopped⟩
  unfold Dev.abortUnit
  rw [if_neg (not_mU_lt k), if_pos (mU_lt hk), mU_sub]
  split
  · exact d.mvrAborted_abortStk hk j q hc reason
  · exact hfar _ _ (Dev.mvrAborted_abortStk hk _ j q hc reason)

end Marver

/-! ### The fault of a job in a marver (04, R80; 07, R131) -/

/-- A job has faulted once its fault is noted and its queue has stopped. -/
theorem Dev.jobFaulted_of_noted {d t : Dev} {u : UnitKey} {q j code info : Nat}
    (hreg : ∀ off < 0x40, t.reg (uPage u) off = (d.jobFaulting u j code info none).reg (uPage u) off)
    (hcode : (t.job j).code = ((d.jobFaulting u j code info none).job j).code) (hstate : (t.job j).state = ((d.jobFaulting u j code info none).job j).state)
    (hqueue : q ∈ d.jobQueues u j → t.qMark u q = 5 ∧ t.getF (uPage u) (qOff u q + 0xC) 15 0 = code ∧ (d.abortBegun j = false → t.qCmds u q = [])) :
    d.JobFaulted t u q j code info := by
  obtain ⟨hevent, hfirst⟩ := d.fault_noted (uPage u) code info
  refine ⟨?_, fun h => ?_, ?_, fun hcls => ?_, fun hbound hj hlt => ?_⟩
  · rw [Dev.bit, hreg _ (by decide)]
    exact hevent
  · rw [hreg _ (by decide), hreg _ (by decide)]
    exact hfirst h
  · rw [hcode, Dev.jobFaulting, Dev.job_setJob_same, Job.faulting_code]
  · rw [hstate, Dev.jobFaulting, Dev.job_setJob_same, Job.faulting_state _ _ _ (by rwa [Dev.job_fault])]
  · obtain ⟨hmark, hcode, hcmds⟩ := hqueue (List.mem_filter.2 ⟨List.mem_range.2 hlt, by simp [hbound, hj]⟩)
    refine ⟨hmark, hcode, fun ha hfree => hcmds ?_⟩
    rw [Dev.abortBegun, ha]
    simp only [Bool.false_or, Bool.and_eq_false_iff, decide_eq_false_iff_not, not_not]
    exact hfree

/-- A fault is noted in the header of the page, which holds no slot of a queue. -/
theorem Dev.mem_jobQueues_jobFaulting_mvr (d : Dev) {k : Nat} (hk : k < 24) {q j : Nat} (code info : Nat) (hq : q ∈ d.jobQueues (mU k) j) :
    q ∈ (d.jobFaulting (mU k) j code info none).jobQueues (mU k) j := by
  have h8 := lt_of_mem_jobQueues_mvr hk hq
  have hb := (uPage (mU k)).base_mod
  have hplace : SlotOff ((uPage (mU k)).base + qOff (mU k) q) := by
    rw [qOff_mvr hk]
    unfold SlotOff
    omega
  have hslot : (d.jobFaulting (mU k) j code info none).reg (uPage (mU k)) (qOff (mU k) q) = d.reg (uPage (mU k)) (qOff (mU k) q) :=
    congrArg (Option.getD · _) (d.fault_csr_slot (uPage (mU k)) code info _ hplace)
  simp only [Dev.jobQueues, below, List.mem_filter, Dev.qBound, Dev.qWeight, Dev.qJob, Dev.getF, hslot] at hq ⊢
  exact hq

/-- What an abort tells other units and the partition leaves stacks. -/
theorem Dev.stks_faultAbort (d : Dev) (u : UnitKey) (q j code info : Nat) (was : Job) :
    (d.faultAbort u q j code info was).stks = (d.abortUnit u j (some q) code 4).stks := by
  unfold Dev.faultAbort
  dsimp only
  split <;> split <;> rfl

theorem Dev.stk_jobFaulting (d : Dev) (u : UnitKey) (j code info : Nat) (k : Nat) : (d.jobFaulting u j code info none).stk k = d.stk k :=
  Dev.stk_of_stks (d.regsOnly_fault (uPage u) code info).stks k

/-- A fault of a job in a marver stops its queue, and its copiers at most. -/
theorem Dev.jobFault_mvr (d : Dev) {k : Nat} (hk : k < 24) (q j : Nat) {code : Nat} (hc : code < 2 ^ 16) (info : Nat) :
    d.JobFaulted (d.jobFault (mU k) q j code info) (mU k) q j code info ∧
      ∃ p, ((d.jobFault (mU k) q j code info).stk k).copiers = (d.stk k).copiers.filter p := by
  rw [Dev.jobFault]
  cases hb : d.abortBegun j with
  | true =>
    have hregs := (d.jobFaulting (mU k) j code info none).regsOnly_setQFault (mU k) q 5 code
    have hset := (d.jobFaulting (mU k) j code info none).sameRegsBut_setQFault_unit (mU k) q 5 code
    obtain ⟨hmark, hcode⟩ := (d.jobFaulting (mU k) j code info none).queueFault_set_unit (mU k) q hc
    rw [Dev.jobFaultM_begun hb]
    refine ⟨Dev.jobFaulted_of_noted (fun off ho => hset.reg ?_) ?_ ?_ fun _ => ⟨hmark, hcode, fun h => ?_⟩, fun _ => true, ?_⟩
    · rw [qOff_mvr hk]
      simp
      omega
    · rw [Dev.job, hregs.jobs, ← Dev.job]
    · rw [Dev.job, hregs.jobs, ← Dev.job]
    · rw [hb] at h
      cases h
    · rw [Dev.stk_of_stks hregs.stks, Dev.stk_jobFaulting, List.filter_true]
  | false =>
    have htell := (d.jobFaulting (mU k) j code info none).keepsQueues_faultAbort (mU k) q j code info ((d.fault (uPage (mU k)) code info).job j)
    have hstks := Dev.stk_of_stks ((d.jobFaulting (mU k) j code info none).stks_faultAbort (mU k) q j code info ((d.fault (uPage (mU k)) code info).job j)) k
    have habort := (d.jobFaulting (mU k) j code info none).mvrAborted_abortUnit hk j q hc 4
    rw [Dev.jobFaultM_first hb]
    refine ⟨Dev.jobFaulted_of_noted (fun off ho => (habort.header.trans htell.header).reg_header _ ho) ((habort.header.trans htell.header).code j)
      ((habort.header.trans htell.header).state j) fun hq => ?_, _, by rw [hstks, habort.copiers, Dev.stk_jobFaulting]⟩
    have h8 := lt_of_mem_jobQueues_mvr hk hq
    obtain ⟨hmark, hcode, hcmds⟩ := htell.mvrQueueStopped hk h8 (habort.stopped (d.mem_jobQueues_jobFaulting_mvr hk code info hq)) (by rw [hstks])
    exact ⟨hmark, hcode, fun _ => hcmds⟩

end Sys2Proof.Machine

namespace Sys2Proof.Proofs

open Sys2Proof Sys2Proof.Machine

/-- Settles O20: a served head is dispatched on the device that the round robin leaves, which differs in its stacks only; each command then acts on its flag or on its queue, and a WAIT beyond its limit is the fault of a job in a marver (`Dev.jobFault_mvr`). -/
theorem marverFlagCommandsComplete : Obligations.MarverFlagCommandsComplete := by
  unfold Obligations.MarverFlagCommandsComplete
  refine ⟨fun s k q w e hserved => ?served, fun s r k v htakes => ?flagAdd, fun s k q w at_ lim hhead hwait hop hflag hlim => ?timeout⟩
  case served =>
    obtain ⟨hstks, hcmds⟩ := Dev.mvrServed_qPop hserved k.isLt q.isLt
    refine ⟨fun hop => ?nop, fun hop => ?signal, fun hop => ⟨Dev.threshold_of_mvrServed hserved hop, ?wait⟩, fun hop => ?fence⟩
    case nop => exact ⟨_, exec_marverNop_served hserved hop, rfl, hcmds, hstks.csr, hstks.mem, hstks.jobs⟩
    case signal =>
      have hregs := (e.qPop (mU k) q 1).regsOnly_addFlag (pStk k 1) (sgFlag w) (sgAmount w)
      exact ⟨_, exec_marverSignal_served hserved hop, rfl, (hregs.qCmds_mvr k.isLt q).trans hcmds, (Dev.flag_addFlag ..).trans (by rw [hstks.flag]),
        Dev.SameRegsBut.of_csr (Dev.sameRegsBut_addFlag _ _ _ _) hstks.csr, hregs.mem.trans hstks.mem, hregs.jobs.trans hstks.jobs⟩
    case wait =>
      refine ⟨_, exec_marverWait_served hserved hop, rfl, ?_⟩
      cases hconsume : wtConsume w with
      | true =>
        have hregs := (e.qPop (mU k) q 1).regsOnly_subFlag (pStk k 1) (sgFlag w) (sgAmount w)
        exact ⟨(hregs.qCmds_mvr k.isLt q).trans hcmds, (Dev.flag_subFlag ..).trans (by rw [hstks.flag]; rfl),
          Dev.SameRegsBut.of_csr (Dev.sameRegsBut_subFlag _ _ _ _) hstks.csr, hregs.mem.trans hstks.mem, hregs.jobs.trans hstks.jobs⟩
      | false => exact ⟨hcmds, hstks.flag _ _, Dev.SameRegsBut.of_csr (.refl _ _ _) hstks.csr, hstks.mem, hstks.jobs⟩
    case fence =>
      obtain ⟨-, -, -, -, -, -, hchoose⟩ := id hserved
      obtain ⟨hchosen, hkept⟩ := Dev.mvrChoose_effect hchoose
      obtain ⟨hpop, hleft, hfence⟩ := e.fence_mvr k.isLt q.isLt (fnScope w)
      have hall := hchosen.trans hpop
      refine ⟨_, exec_marverFence_served hserved hop, rfl, hleft.trans ?_, hfence, hall.csr, hall.mem, hall.jobs⟩
      rw [Dev.qCmds_mvr _ k.isLt, Dev.qCmds_mvr _ k.isLt, hkept q q.isLt]
  case flagAdd =>
    have hregs := s.dev.regsOnly_addFlag (pStk k 1) (wfld v 5 0) (wfld v 31 16)
    exact ⟨_, exec_stkMvrFlagAdd_takes htakes v, rfl, Dev.flag_addFlag .., Dev.bit_addFlag_saturated, s.dev.sameRegsBut_addFlag _ _ _, hregs.mem⟩
  case timeout =>
    obtain ⟨hfault, -⟩ := s.dev.jobFault_mvr k.isLt q (s.dev.qJob (mU k) q) (code := 0x5001) (by decide)
      (sgFlag w + q.val * 256 + s.dev.flag (pStk k 1) (sgFlag w) * 65536)
    exact ⟨_, exec_marverFlagWaitTimeout_passed hhead hwait hop hflag hlim, rfl, hfault⟩

end Sys2Proof.Proofs

/-! SUPPORT. Marver work (07, R124–R128, R138; 13, R274): bytes that a write leaves alone, outputs that read as written, transfers that end and resume, self-refresh and the seal map; and the statement about them. -/

namespace Sys2Proof.Machine

/-! ### Addresses of one burst (07, R120; 17, R372) -/

theorem Dev.home_of_stks {d d' : Dev} (h : d'.stks = d.stks) (a : Nat) : d'.home a = d.home a := by
  simp only [Dev.home, Dev.stk, h]

/-- The addresses of a stack. -/
theorem loc_stack_iff {a s off : Nat} : loc a = .stack s off ↔ a < 0x30000000000 ∧ s = a / 2 ^ 37 ∧ off = a % 2 ^ 37 := by
  unfold loc
  split
  · simp_all [eq_comm]
  · split
    · simp_all
    · split <;> simp_all

theorem loc_buf_iff {a n off : Nat} :
    loc a = .buf n off ↔ (0x80000000000 ≤ a ∧ a < 0x80032000000) ∧ n = (a - 0x80000000000) / 2 ^ 20 ∧ off = (a - 0x80000000000) % 2 ^ 20 := by
  unfold loc
  split
  · next hlow =>
    refine ⟨(fun h => by cases h), fun ⟨⟨hlo, _⟩, _⟩ => ?_⟩
    have := Nat.lt_of_lt_of_le hlow (by decide : 0x30000000000 ≤ 0x80000000000)
    exact absurd hlo (Nat.not_le.2 this)
  · split
    · simp_all [eq_comm]
    · split <;> simp_all

/-- A byte of a cluster buffer by its place. -/
theorem eq_bufBase_add {a n off : Nat} (h : loc a = .buf n off) : a = bufBase n + off := by
  obtain ⟨⟨hlo, -⟩, hn, hoff⟩ := loc_buf_iff.1 h
  unfold bufBase
  omega

/-- The bytes of a burst are held side by side. -/
theorem Dev.home_add (d : Dev) {a i : Nat} (h : a % 64 + i < 64) : d.home (a + i) = d.home a + i := by
  by_cases ha : a < 0x30000000000
  · have hlow : loc a = .stack (a / 2 ^ 37) (a % 2 ^ 37) := loc_stack_iff.2 ⟨ha, rfl, rfl⟩
    have hhigh : loc (a + i) = .stack (a / 2 ^ 37) (a % 2 ^ 37 + i) := loc_stack_iff.2 (by omega)
    have hg : granuleOf (a % 2 ^ 37 + i) = granuleOf (a % 2 ^ 37) := by
      unfold granuleOf
      omega
    unfold Dev.home
    rw [hlow, hhigh]
    dsimp only
    rw [hg]
    split
    · omega
    · rfl
  · have hout : ∀ b, ¬ b < 0x30000000000 → d.home b = b := fun b hb => by
      unfold Dev.home
      split
      · next hloc => exact absurd (loc_stack_iff.1 hloc).1 hb
      · rfl
    rw [hout _ ha, hout _ (by omega)]

/-- The bytes of a burst stand in one stack or buffer. -/
theorem loc_add {a i : Nat} (h : a % 64 + i < 64) :
    (∀ {s off}, loc a = .stack s off → loc (a + i) = .stack s (off + i)) ∧ (∀ {n off}, loc a = .buf n off → loc (a + i) = .buf n (off + i)) := by
  refine ⟨fun hs => ?_, fun hb => ?_⟩
  · obtain ⟨ha, rfl, rfl⟩ := loc_stack_iff.1 hs
    exact loc_stack_iff.2 (by omega)
  · obtain ⟨ha, hn, hoff⟩ := loc_buf_iff.1 hb
    exact loc_buf_iff.2 (by omega)

/-- A stack address by the first byte of its burst. -/
theorem loc_burst {a s off : Nat} (h : loc a = .stack s off) : loc (a / 64 * 64) = .stack s (off / 64 * 64) := by
  obtain ⟨ha, rfl, rfl⟩ := loc_stack_iff.1 h
  exact loc_stack_iff.2 (by omega)

theorem granuleOf_burst (off : Nat) : granuleOf (off / 64 * 64) = granuleOf off := by
  unfold granuleOf
  omega

/-- A burst has the key slot of its bytes, and is lost with them. -/
theorem Dev.slotAt_burst (d : Dev) {a s off : Nat} (h : loc a = .stack s off) : d.slotAt (a / 64 * 64) = d.slotAt a ∧ d.lostAt (a / 64 * 64) = d.lostAt a := by
  simp only [Dev.slotAt, Dev.lostAt, loc_burst h, h, granuleOf_burst, and_self]

theorem Dev.slotAt_of_stks {d d' : Dev} (h : d'.stks = d.stks) (a : Nat) : d'.slotAt a = d.slotAt a := by
  simp only [Dev.slotAt, Dev.stk, h]

/-! ### Bytes that a write leaves alone (12, R244, R245) -/

/-- A piece begins at or behind its bytes, in an aligned part that they reach, and does not leave that part. -/
theorem mem_piecesOf {k a : Nat} (hk : k = 8 ∨ k = 32) {bs : List Byte} {e : Nat × List Byte} (h : e ∈ piecesOf k a bs) :
    a ≤ e.1 ∧ e.1 / k * k < a + bs.length ∧ e.1 % k + e.2.length ≤ k := by
  obtain ⟨i, hi, rfl⟩ := List.mem_map.1 h
  have hlt := List.mem_range.1 hi
  dsimp only
  rw [List.length_take, List.length_drop]
  obtain rfl | rfl := hk <;> omega

theorem partSize_eq (a : Nat) : partSize a = 8 ∨ partSize a = 32 := by
  unfold partSize
  split
  · exact .inl rfl
  · exact .inr rfl

theorem Dev.stks_setRawBytes (d : Dev) (a : Nat) (bs : List Byte) : (d.setRawBytes a bs).stks = d.stks := (d.bytesOnly_setRawBytes a bs).stks

/-- A property of the bytes at one address, for a device with these stacks. -/
abbrev Dev.SameAt (d : Dev) (c : Nat) (e : Dev) : Prop := e.stks = d.stks ∧ e.rawByte c = d.rawByte c

/-- Parts of units that land are bytes within these units. -/
theorem Dev.sameAt_landTorn (d : Dev) (hfit : d.PartsFit) {u x c : Nat} (hu : u = 32 ∨ u = 64) (hout : ∀ b, b / u = x → d.home c ≠ d.home b) :
    d.SameAt c (d.landTorn fun t => t / u = x) := by
  unfold Dev.landTorn
  split
  · exact ⟨rfl, rfl⟩
  · refine Dev.foldl_holds (P := d.SameAt c) (fun e t ht he => ?_) ⟨rfl, rfl⟩
    obtain ⟨hmem, hx⟩ := List.mem_filter.1 ht
    have hx := of_decide_eq_true hx
    have hpart := hfit t hmem
    obtain ⟨hstks, hbyte⟩ := he
    refine ⟨(e.stks_setRawBytes _ _).trans hstks, (e.rawByte_setRawBytes_ne _ _ _ fun i hi => ?_).trans hbyte⟩
    rw [Dev.home_of_stks hstks, Dev.home_of_stks hstks]
    exact hout _ (by obtain rfl | rfl := hu <;> omega)

theorem Dev.torn_setRawBytes (d : Dev) (a : Nat) (bs : List Byte) : (d.setRawBytes a bs).torn = d.torn := by
  induction bs generalizing d a with
  | nil => rfl
  | cons b l ih => exact ih (d.setRawByte a b) (a + 1)

theorem Dev.torn_landTorn (d : Dev) (p : Nat → Bool) : (d.landTorn p).torn ⊆ d.torn := by
  unfold Dev.landTorn
  split
  · exact List.Subset.refl _
  · exact Dev.foldl_holds (P := fun e => e.torn ⊆ d.torn) (fun e t _ he => (e.torn_setRawBytes _ _).symm ▸ he) (List.filter_subset_self _)

/-- Parts that are still to land fit after the bytes of a unit. -/
theorem Dev.partsFit_putUnit (d : Dev) (hfit : d.PartsFit) (u : Nat) (w : Bool) (a : Nat) (bs : List Byte) : (d.putUnit u w a bs).PartsFit := by
  have hleft : (d.landTorn fun t => t / u = a / u).PartsFit := fun t ht => hfit t (d.torn_landTorn _ ht)
  unfold Dev.putUnit
  extract_lets d₁ ps
  split
  · exact fun t ht => hleft t ((d₁.torn_setRawBytes a bs) ▸ ht)
  · dsimp only
    refine Dev.foldl_holds (P := Dev.PartsFit) (fun e p hp hfits => ?_) hleft
    have hpiece : p.1 ∈ ps := (List.mem_zipIdx' hp).2 ▸ List.getElem_mem _
    split
    · exact fun t ht => hfits t ((e.torn_setRawBytes _ _) ▸ ht)
    · intro t ht
      obtain ht | ht := List.mem_append.1 ht
      · exact hfits t ht
      · obtain rfl := List.mem_singleton.1 ht
        have hk := partSize_eq a
        obtain ⟨-, -, hlen⟩ := mem_piecesOf hk hpiece
        obtain hk | hk := hk <;> rw [hk] at hlen <;> omega

/-- The bytes of a unit leave a byte that is held elsewhere. -/
theorem Dev.sameAt_putUnit (d : Dev) (hfit : d.PartsFit) {u : Nat} (hu : u = 32 ∨ u = 64) (w : Bool) {a c : Nat} {bs : List Byte} (hin : a % u + bs.length ≤ u)
    (hout : ∀ b, b / u = a / u → d.home c ≠ d.home b) : d.SameAt c (d.putUnit u w a bs) := by
  have hland := d.sameAt_landTorn hfit hu hout
  have hput : ∀ (e : Dev) (x : Nat) (l : List Byte), d.SameAt c e → (∀ i < l.length, (x + i) / u = a / u) → d.SameAt c (e.setRawBytes x l) := fun e x l he hx => by
    obtain ⟨hstks, hbyte⟩ := he
    refine ⟨(e.stks_setRawBytes _ _).trans hstks, (e.rawByte_setRawBytes_ne _ _ _ fun i hi => ?_).trans hbyte⟩
    rw [Dev.home_of_stks hstks, Dev.home_of_stks hstks]
    exact hout _ (hx i hi)
  unfold Dev.putUnit
  extract_lets d₁ ps
  split
  · exact hput d₁ a bs hland fun i hi => by obtain rfl | rfl := hu <;> omega
  · dsimp only
    refine Dev.foldl_holds (P := d.SameAt c) (fun e p hp hsame => ?_) hland
    have hpiece : p.1 ∈ ps := (List.mem_zipIdx' hp).2 ▸ List.getElem_mem _
    have hk := partSize_eq a
    obtain ⟨hlo, hpart, hlen⟩ := mem_piecesOf hk hpiece
    split
    · refine hput e _ _ hsame fun i hi => ?_
      obtain hk | hk := hk <;> rw [hk] at hpart hlen <;> obtain rfl | rfl := hu <;> omega
    · exact hsame

/-! ### What a write does to error patterns (17, R355, R378) leaves flags and parts of units as they are -/

/-- The register words of the marver page of the stacks (02, R23). -/
abbrev MvrPlace (k : Nat) : Prop := 0x100000 ≤ k ∧ k < 0x200000 ∧ k / 0x1000 % 4 = 1

theorem not_mvrPlace_pStk {s off : Nat} (ho : off < 0x1000) : ¬ MvrPlace ((pStk s 2).base + off) := by
  have hbase : (pStk s 2).base = 0x100000 + (4 * s + 2) * 0x1000 := rfl
  omega

theorem not_mvrPlace_pClu {n off : Nat} : ¬ MvrPlace ((pClu n).base + off) := by
  have hbase : (pClu n).base = 0x1000000 + n * 0x1000 := rfl
  omega

theorem mvrPlace_flag {k f : Nat} (hk : k < 24) (hf : f < 64) : MvrPlace ((pStk k 1).base + rFlag f) := by
  have hbase : (pStk k 1).base + rFlag f = 0x100000 + (4 * k + 1) * 0x1000 + (0x100 + 4 * f) := rfl
  omega

theorem Dev.KeepsDma.mvrFlag {d d' : Dev} (h : d.KeepsDma MvrPlace d') {k f : Nat} (hk : k < 24) (hf : f < 64) :
    d'.flag (pStk k 1) f = d.flag (pStk k 1) f := by
  rw [Dev.flag, Dev.flag, Dev.getF, Dev.getF, h.reg (mvrPlace_flag hk hf)]

theorem Dev.RegsOnly.torn {d d' : Dev} (h : d.RegsOnly d') : d'.torn = d.torn := by rw [h]

/-- From `d` to `d'` the marver pages stay, with the parts of units that are still to land. -/
structure Dev.Meets (d d' : Dev) : Prop extends Dev.KeepsDma MvrPlace d d' where
  torn : d'.torn = d.torn

theorem Dev.Meets.refl (d : Dev) : d.Meets d := ⟨.refl d, rfl⟩

theorem Dev.Meets.trans {a b c : Dev} (h : a.Meets b) (h' : b.Meets c) : a.Meets c := ⟨h.toKeepsDma.trans h'.toKeepsDma, h'.torn.trans h.torn⟩

theorem Dev.Meets.of_eq {d d' : Dev} (hcsr : d'.csr = d.csr) (hdmas : d'.dmas = d.dmas) (htorn : d'.torn = d.torn) : d.Meets d' := ⟨.of_eq hcsr hdmas, htorn⟩

theorem Dev.Meets.ite {d t e : Dev} {b : Prop} [Decidable b] (h : d.Meets t) (h' : d.Meets e) : d.Meets (if b then t else e) := by
  split
  · exact h
  · exact h'

theorem Dev.Meets.foldl {α : Type} {f : Dev → α → Dev} {l : List α} (h : ∀ d, ∀ a ∈ l, Dev.Meets d (f d a)) (d : Dev) : d.Meets (l.foldl f d) :=
  Dev.foldl_holds (P := d.Meets) (fun e a ha he => he.trans (h e a ha)) (.refl d)

theorem Dev.meets_setReg (d : Dev) {p : Page} {off : Nat} (v : Word) (h : ¬ MvrPlace (p.base + off)) : d.Meets (d.setReg p off v) := ⟨d.keepsDma_setReg v h, rfl⟩

theorem Dev.meets_setBit (d : Dev) {p : Page} {off : Nat} (i : Nat) (b : Bool) (h : ¬ MvrPlace (p.base + off)) : d.Meets (d.setBit p off i b) :=
  ⟨d.keepsDma_setBit i b h, (d.regsOnly_setBit p off i b).torn⟩

theorem Dev.meets_addCount (d : Dev) {p : Page} {off : Nat} (n : Nat) (h : ¬ MvrPlace (p.base + off)) : d.Meets (d.addCount p off n) :=
  ⟨d.keepsDma_addCount n h, (d.regsOnly_addCount p off n).torn⟩

theorem Dev.meets_flipApply (d : Dev) (u : Nat) : d.Meets (d.flipApply u) := by
  unfold Dev.flipApply
  split
  · next s off _ =>
    have hc := chanOf_lt off
    exact .ite (.trans (d.meets_setReg (p := pStk s 2) _ (not_mvrPlace_pStk (by omega))) (.of_eq rfl rfl rfl)) (.refl d)
  · next n off _ => exact .ite (.trans (d.meets_setReg (p := pClu n) _ not_mvrPlace_pClu) (.of_eq rfl rfl rfl)) (.refl d)
  · exact .refl d

theorem Dev.meets_dropErr (d : Dev) (u : Nat) : d.Meets (d.dropErr u) := by
  have h0 : d.Meets { d with errs := tdel d.errs u, injected := d.injected.filter (· ≠ u) } := .of_eq rfl rfl rfl
  unfold Dev.dropErr
  refine h0.trans ?_
  dsimp only
  split
  · next s off _ =>
    have hc := chanOf_lt off
    exact .ite (Dev.meets_setBit _ _ _ (not_mvrPlace_pStk (by omega))) (.refl _)
  · exact .ite (Dev.meets_setBit _ _ _ not_mvrPlace_pClu) (.refl _)
  · exact .refl _

theorem Dev.meets_mark (d : Dev) (u : Nat) : d.Meets (d.mark u) := .of_eq rfl rfl rfl

theorem Dev.meets_noteErr (d : Dev) (u : Nat) : d.Meets (d.noteErr u) := by
  have hstk : ∀ (e : Dev) (s off : Nat), off < 0x1000 → e.Meets (e.addCount (pStk s 2) off 1) := fun e s off ho => e.meets_addCount 1 (not_mvrPlace_pStk ho)
  have hclu : ∀ (e : Dev) (n off : Nat), e.Meets (e.addCount (pClu n) off 1) := fun e n off => e.meets_addCount 1 not_mvrPlace_pClu
  have hdrop := d.meets_dropErr u
  unfold Dev.noteErr
  split
  · refine hdrop.trans (.ite (.refl _) (.ite (hstk _ _ _ (by split <;> decide)) ?_))
    exact ((Dev.meets_mark _ _).trans (hstk _ _ _ (by split <;> decide))).trans (hstk _ _ _ (by decide))
  · refine hdrop.trans (Dev.Meets.foldl (fun e k _ => .ite (.refl e) (.ite (hclu _ _ _) ?_)) _)
    exact (Dev.meets_mark _ _).trans (hclu _ _ _)
  · exact .refl d

theorem Dev.meets_overUnit (d : Dev) (a n u : Nat) : d.Meets (d.overUnit a n u) := by
  unfold Dev.overUnit
  refine Dev.Meets.trans ?_ (Dev.meets_flipApply _ u)
  split
  · exact .refl d
  · split
    · exact .ite (d.meets_noteErr u) (.ite (d.meets_dropErr u) (.of_eq rfl rfl rfl))
    · exact .ite (d.meets_dropErr u) (d.meets_noteErr u)

/-- A write reaches the units of its range: errors in them are met, its marks are set, and no byte is stored yet. -/
def Dev.reached (d : Dev) (a n : Nat) (m : Bool) : Dev := (d.overUnits a n).markWrite a n m

theorem Dev.meets_reached (d : Dev) (a n : Nat) (m : Bool) : d.Meets (d.reached a n m) :=
  (Dev.Meets.foldl (fun e u _ => e.meets_overUnit a n u) d).trans (.of_eq rfl rfl rfl)

theorem Dev.bytesOnly_reached (d : Dev) (a n : Nat) (m : Bool) : d.BytesOnly (d.reached a n m) := (d.bytesOnly_overUnits a n).trans (Dev.bytesOnly_markWrite _ a n m)

theorem Dev.keepsQueues_reached (d : Dev) (a n : Nat) (m : Bool) : d.KeepsQueues (d.reached a n m) :=
  (d.keepsQueues_overUnits a n).trans (Dev.keepsQueues_markWrite _ a n m)

theorem Dev.rawByte_of_same {d d' : Dev} (hstks : d'.stks = d.stks) (hmem : d'.mem = d.mem) (c : Nat) : d'.rawByte c = d.rawByte c := by
  rw [Dev.rawByte, Dev.rawByte, hmem, Dev.home_of_stks hstks]

theorem Dev.sameAt_reached (d : Dev) (a n : Nat) (m : Bool) (c : Nat) : d.SameAt c (d.reached a n m) :=
  have hstks := (d.bytesOnly_reached a n m).stks
  ⟨hstks, Dev.rawByte_of_same hstks (d.overUnits_mem a n) c⟩

/-! ### The bytes of units touch no register -/

theorem Dev.csr_setRawBytes (d : Dev) (a : Nat) (bs : List Byte) : (d.setRawBytes a bs).csr = d.csr ∧ (d.setRawBytes a bs).dmas = d.dmas := by
  induction bs generalizing d a with
  | nil => exact ⟨rfl, rfl⟩
  | cons b l ih => exact ih (d.setRawByte a b) (a + 1)

theorem Dev.keepsDma_setRawBytes {O : Nat → Prop} (d : Dev) (a : Nat) (bs : List Byte) : d.KeepsDma O (d.setRawBytes a bs) :=
  .of_eq (d.csr_setRawBytes a bs).1 (d.csr_setRawBytes a bs).2

theorem Dev.keepsDma_putUnit {O : Nat → Prop} (d : Dev) (u : Nat) (w : Bool) (a : Nat) (bs : List Byte) : d.KeepsDma O (d.putUnit u w a bs) := by
  have hland : ∀ p : Nat → Bool, d.KeepsDma O (d.landTorn p) := fun p =>
    .ite (.refl d) (.trans (b := { d with torn := d.torn.filter fun t => !p t.1 }) (.of_eq rfl rfl)
      (Dev.keepsDma_foldl (fun e _ _ => e.keepsDma_setRawBytes _ _) _))
  unfold Dev.putUnit
  refine (hland _).trans (.ite (Dev.keepsDma_setRawBytes _ a bs) (.trans (b := (d.landTorn fun t => t / u = a / u).takeFree.2) (.of_eq rfl rfl) ?_))
  refine Dev.keepsDma_foldl (fun e part _ => ?_) _
  split
  · exact e.keepsDma_setRawBytes _ _
  · exact .of_eq rfl rfl

/-! ### A write that nothing denies (07, R126; 05, R93) -/

/-- The `n` bytes at `a` lie in one burst of unsealed stack memory, or in one of a buffer before region 63. -/
abbrev Dev.Open (d : Dev) (a n : Nat) : Prop :=
  d.slotAt a = 0 ∧ a % 64 + n ≤ 64 ∧ ((∃ k x, loc a = .stack k x) ∨ (∃ i x, loc a = .buf i x ∧ x + n ≤ 0xFC000))

/-- Bytes into one unsealed burst that is not lost are merged into it. -/
theorem Dev.writeBurst_open (d : Dev) (ag : Agent) {a s x : Nat} (bs : List Byte) (m w : Bool) (hloc : loc a = .stack s x) (hslot : d.slotAt a = 0) :
    d.writeBurst ag a bs m w = (if d.lostAt a then d.setBit (pStk s 2) 0x48 1 true else (d.reached a bs.length m).putUnit 64 w a bs, false) := by
  obtain ⟨hslots, hlost⟩ := d.slotAt_burst hloc
  unfold Dev.writeBurst
  simp only [hloc, hslots, hlost, hslot]
  split
  · rfl
  · rfl

theorem Dev.writeStack_nil (f : Nat) (d : Dev) (ag : Agent) (a : Nat) (m w : Bool) : Dev.writeStack f d ag a [] m w = (d, false) := by
  cases f with
  | zero => rfl
  | succ f => rfl

/-- What a write that nothing denies does: nothing without bytes or where the burst is lost but for its sticky bit, else its bytes reach one burst of a stack or the words of a buffer. -/
theorem Dev.writeMem_open (d : Dev) (ag : Agent) {a : Nat} {bs : List Byte} (m : Bool) (h : d.Open a bs.length) :
    ∃ e, d.writeMem ag a bs m = (e, false) ∧ (bs = [] ∧ e = d ∨ (d.lostAt a = true ∧ ∃ s, e = d.setBit (pStk s 2) 0x48 1 true) ∨
      (bs ≠ [] ∧ e = (d.reached a bs.length m).putUnit 64 false a bs) ∨ ((∃ i x, loc a = .buf i x) ∧ e = (d.reached a bs.length m).putWords false a bs)) := by
  obtain ⟨hslot, hlen, ⟨s, x, hloc⟩ | ⟨i, x, hloc, hx⟩⟩ := h
  · unfold Dev.writeMem Dev.writeMemW
    simp only [hloc]
    by_cases hbs : bs = []
    · exact ⟨d, by rw [hbs, Dev.writeStack_nil], .inl ⟨hbs, rfl⟩⟩
    · have htake : bs.take (64 - a % 64) = bs := List.take_of_length_le (by omega)
      have hdrop : bs.drop (64 - a % 64) = [] := List.drop_of_length_le (by omega)
      have hwrite : Dev.writeStack (bs.length + 1) d ag a bs m false = d.writeBurst ag a bs m false := by
        unfold Dev.writeStack
        simp [hbs, htake, hdrop, Dev.writeStack_nil]
      refine ⟨_, hwrite.trans (d.writeBurst_open ag bs m false hloc hslot), ?_⟩
      split
      · next hlost => exact .inr (.inl ⟨hlost, s, rfl⟩)
      · exact .inr (.inr (.inl ⟨hbs, rfl⟩))
  · have hin : inSecure x bs.length = false := by simp [inSecure]; omega
    refine ⟨_, ?_, .inr (.inr (.inr ⟨⟨i, x, hloc⟩, rfl⟩))⟩
    unfold Dev.writeMem Dev.writeMemW Dev.writeBuf
    simp only [hloc, hin, ← eq_bufBase_add hloc]
    rfl

/-- The words of a buffer under a write leave parts that are still to land within their units. -/
theorem Dev.partsFit_putWords (d : Dev) (hfit : d.PartsFit) (w : Bool) (a : Nat) (bs : List Byte) : (d.putWords w a bs).PartsFit :=
  Dev.foldl_holds (P := Dev.PartsFit) (fun e _ _ he => e.partsFit_putUnit he _ _ _ _) hfit

/-- The words of a buffer under a write leave a byte that is held elsewhere. -/
theorem Dev.sameAt_putWords (d : Dev) (hfit : d.PartsFit) (w : Bool) {a c : Nat} {bs : List Byte}
    (hout : ∀ b, a / 64 ≤ b / 64 → b / 64 * 64 < a + bs.length → d.home c ≠ d.home b) : d.SameAt c (d.putWords w a bs) := by
  have hboth : d.SameAt c (d.putWords w a bs) ∧ (d.putWords w a bs).PartsFit := by
    refine Dev.foldl_holds (P := fun e => d.SameAt c e ∧ e.PartsFit) (fun e p hp he => ?_) ⟨⟨rfl, rfl⟩, hfit⟩
    obtain ⟨⟨hstks, hbyte⟩, hfits⟩ := he
    obtain ⟨hlo, hreach, hlen⟩ := mem_piecesOf (.inr rfl) hp
    have hsame := e.sameAt_putUnit hfits (.inl rfl) (w || p.1 % 8 ≠ 0 || (p.1 + p.2.length) % 8 ≠ 0) hlen (c := c) fun b hb => by
      rw [Dev.home_of_stks hstks, Dev.home_of_stks hstks]
      exact hout b (by omega) (by omega)
    exact ⟨⟨hsame.1.trans hstks, hsame.2.trans hbyte⟩, e.partsFit_putUnit hfits _ _ _ _⟩
  exact hboth.1

/-- A write that nothing denies leaves the marver pages alone, and parts that are still to land within their units. -/
theorem Dev.writeMem_keeps (d : Dev) (hfit : d.PartsFit) (ag : Agent) {a : Nat} {bs : List Byte} (m : Bool) (h : d.Open a bs.length) :
    (d.writeMem ag a bs m).2 = false ∧ d.KeepsDma MvrPlace (d.writeMem ag a bs m).1 ∧ (d.writeMem ag a bs m).1.PartsFit := by
  obtain ⟨e, he, hcase⟩ := d.writeMem_open ag m h
  have hreach := d.meets_reached a bs.length m
  have hfit' : (d.reached a bs.length m).PartsFit := fun t ht => hfit t (hreach.torn ▸ ht)
  rw [he]
  refine ⟨rfl, ?_⟩
  obtain ⟨-, rfl⟩ | ⟨-, s, rfl⟩ | ⟨-, rfl⟩ | ⟨-, rfl⟩ := hcase
  · exact ⟨.refl _, hfit⟩
  · exact ⟨d.keepsDma_setBit 1 true (not_mvrPlace_pStk (by decide)), fun t ht => hfit t ((d.regsOnly_setBit (pStk s 2) 0x48 1 true).torn ▸ ht)⟩
  · exact ⟨hreach.toKeepsDma.trans (Dev.keepsDma_putUnit _ _ _ _ _), Dev.partsFit_putUnit _ hfit' _ _ _ _⟩
  · exact ⟨hreach.toKeepsDma.trans (Dev.keepsDma_foldl (fun e _ _ => e.keepsDma_putUnit _ _ _ _) _), Dev.partsFit_putWords _ hfit' _ _ _⟩

/-- A write that nothing denies leaves every byte outside its bursts. -/
theorem Dev.sameAt_writeMem (d : Dev) (hfit : d.PartsFit) (ag : Agent) {a c : Nat} {bs : List Byte} (m : Bool) (h : d.Open a bs.length)
    (hout : ∀ b, a / 64 ≤ b / 64 → b / 64 * 64 < a + bs.length → d.home c ≠ d.home b) : d.SameAt c (d.writeMem ag a bs m).1 := by
  obtain ⟨e, he, hcase⟩ := d.writeMem_open ag m h
  obtain ⟨-, hlen, -⟩ := h
  obtain ⟨hstks, hbyte⟩ := d.sameAt_reached a bs.length m c
  have hfit' : (d.reached a bs.length m).PartsFit := fun t ht => hfit t ((d.meets_reached a bs.length m).torn ▸ ht)
  have hthen : ∀ {f : Dev}, (d.reached a bs.length m).SameAt c f → d.SameAt c f := fun hf => ⟨hf.1.trans hstks, hf.2.trans hbyte⟩
  have hout' : ∀ b, a / 64 ≤ b / 64 → b / 64 * 64 < a + bs.length → (d.reached a bs.length m).home c ≠ (d.reached a bs.length m).home b := fun b hlo hhi => by
    rw [Dev.home_of_stks hstks, Dev.home_of_stks hstks]
    exact hout b hlo hhi
  rw [he]
  obtain ⟨-, rfl⟩ | ⟨-, s, rfl⟩ | ⟨hbs, rfl⟩ | ⟨-, rfl⟩ := hcase
  · exact ⟨rfl, rfl⟩
  · exact ⟨(d.regsOnly_setBit (pStk s 2) 0x48 1 true).stks, (d.regsOnly_setBit (pStk s 2) 0x48 1 true).sameBytes c⟩
  · have hpos := List.length_pos_iff.2 hbs
    exact hthen (Dev.sameAt_putUnit _ hfit' (.inr rfl) _ hlen fun b hb => hout' b (by omega) (by omega))
  · exact hthen (Dev.sameAt_putWords _ hfit' _ hout')

/-! ### A write that nothing denies reads as written -/

theorem Dev.setRawBytes_append (d : Dev) (a : Nat) (l m : List Byte) : d.setRawBytes a (l ++ m) = (d.setRawBytes a l).setRawBytes (a + l.length) m := by
  induction l generalizing d a with
  | nil => rfl
  | cons b l ih =>
    rw [List.cons_append, Dev.setRawBytes, ih, List.length_cons, Dev.setRawBytes]
    congr 1
    omega

/-- Bytes stored within a burst read as stored. -/
theorem Dev.rawBytes_setRawBytes (d : Dev) {a : Nat} {bs : List Byte} (h : a % 64 + bs.length ≤ 64) : (d.setRawBytes a bs).rawBytes a bs.length = bs := by
  induction bs generalizing d a with
  | nil => rfl
  | cons b l ih =>
    have hfirst : ((d.setRawByte a b).setRawBytes (a + 1) l).rawByte a = b := by
      refine (Dev.rawByte_setRawBytes_ne _ _ _ _ fun i hi => ?_).trans (d.rawByte_setRawByte_same a b)
      rw [List.length_cons] at h
      have hnext := (d.setRawByte a b).home_add (a := a) (i := 1 + i) (by omega)
      rw [Nat.add_assoc, hnext]
      omega
    have hrest : ((d.setRawByte a b).setRawBytes (a + 1) l).rawBytes (a + 1) l.length = l := by
      by_cases hl : l = []
      · rw [hl]; rfl
      · have hpos := List.length_pos_iff.2 hl
        rw [List.length_cons] at h
        exact ih _ (by omega)
    rw [Dev.setRawBytes, List.length_cons, Dev.rawBytes, List.range_succ_eq_map, List.map_cons, List.map_map]
    refine congrArg₂ List.cons hfirst (Eq.trans ?_ hrest)
    refine List.map_congr_left fun i _ => ?_
    rw [Function.comp, Nat.succ_eq_one_add, Nat.add_assoc]

theorem Dev.KeepsQueues.weak {d d' : Dev} (h : d.KeepsQueues d') (a : Nat) : d'.weak a = d.weak a := by
  have hst : ∀ p, d'.st p = d.st p := fun p => by rw [Dev.st, Dev.st, Dev.getF, Dev.getF, h.header.reg_header p (by decide)]
  have howner : ∀ p, d'.owner p = d.owner p := fun p => by rw [Dev.owner, Dev.owner, Dev.getF, Dev.getF, h.header.reg_header p (by decide)]
  have hmem : d'.memOwner a = d.memOwner a := by simp only [Dev.memOwner, howner]
  simp only [Dev.weak, hmem, hst]

/-- The units of a buffer's burst are small together. -/
theorem Dev.weak_add (d : Dev) {a n x i : Nat} (hloc : loc a = .buf n x) (h : a % 64 + i < 64) : d.weak (a + i) = d.weak a := by
  have howner : d.memOwner (a + i) = d.memOwner a := by simp only [Dev.memOwner, (loc_add h).2 hloc, hloc]
  simp only [Dev.weak, howner]

/-- Piece `i` of the bytes from `a`, cut at the multiples of `k`. -/
def pieceOf (k a : Nat) (bs : List Byte) (i : Nat) : Nat × List Byte :=
  (max a ((a / k + i) * k), (bs.drop (max a ((a / k + i) * k) - a)).take ((a / k + i + 1) * k - max a ((a / k + i) * k)))

theorem piecesOf_eq (k a : Nat) (bs : List Byte) : piecesOf k a bs = (List.range ((a + bs.length + k - 1) / k - a / k)).map (pieceOf k a bs) := rfl

/-- A piece of bytes reaches its word of a buffer. -/
def Dev.putWord (w : Bool) (d : Dev) (e : Nat × List Byte) : Dev := d.putUnit 32 (w || e.1 % 8 ≠ 0 || (e.1 + e.2.length) % 8 ≠ 0) e.1 e.2

theorem Dev.putWords_eq (d : Dev) (w : Bool) (a : Nat) (bs : List Byte) : d.putWords w a bs = (piecesOf 32 a bs).foldl (Dev.putWord w) d := rfl

section Words
variable {d : Dev} {a n x : Nat} (ht : d.torn = []) (hw : d.weak a = false) (hloc : loc a = .buf n x)
include ht hw hloc

/-- Where units are whole and nothing is still to land, the first `k` pieces are stored at once. -/
theorem Dev.foldl_putWord {bs : List Byte} (hlen : a % 64 + bs.length ≤ 64) (w : Bool) (k : Nat) (hk : ∀ i < k, (a / 32 + i) * 32 < a + bs.length) (hbs : bs ≠ []) :
    ((List.range k).map (pieceOf 32 a bs)).foldl (Dev.putWord w) d = d.setRawBytes a (bs.take ((a / 32 + k) * 32 - a)) := by
  induction k with
  | zero =>
    have hzero : (a / 32 + 0) * 32 - a = 0 := by omega
    rw [hzero]
    rfl
  | succ k ih =>
    rw [List.range_succ, List.map_append, List.foldl_append, ih fun i hi => hk i (Nat.lt_succ_of_lt hi)]
    have hlast := hk k (Nat.lt_succ_self k)
    have hpos := List.length_pos_iff.2 hbs
    obtain ⟨y, hy⟩ : ∃ y, (a / 32 + k) * 32 - a = y := ⟨_, rfl⟩
    have hplace : max a ((a / 32 + k) * 32) = a + y := by omega
    have hend : (a / 32 + (k + 1)) * 32 - a = y + ((a / 32 + k + 1) * 32 - (a + y)) := by omega
    have hnone : (d.setRawBytes a (bs.take y)).torn = [] := (d.torn_setRawBytes _ _).trans ht
    have hweak : (d.setRawBytes a (bs.take y)).weak (a + y) = false :=
      ((d.keepsQueues_setRawBytes _ _).weak _).trans ((d.weak_add hloc (by omega)).trans hw)
    have hstart : (bs.take y).length = y := List.length_take_of_le (by omega)
    rw [hy, hend, List.take_add, Dev.setRawBytes_append, hstart]
    simp only [List.map_cons, List.map_nil, List.foldl_cons, List.foldl_nil, Dev.putWord, pieceOf, hplace, Nat.add_sub_cancel_left]
    exact Dev.putUnit_whole _ _ _ _ _ hnone (.inr hweak)

/-- There the words of a buffer take their bytes at once. -/
theorem Dev.putWords_whole {bs : List Byte} (hlen : a % 64 + bs.length ≤ 64) (hbs : bs ≠ []) (w : Bool) : d.putWords w a bs = d.setRawBytes a bs := by
  rw [Dev.putWords_eq, piecesOf_eq, Dev.foldl_putWord ht hw hloc hlen w _ (fun i hi => by omega) hbs, List.take_of_length_le (by omega)]

end Words

/-- Where units are whole, nothing is still to land and the burst is not lost, a write that nothing denies reads as written. -/
theorem Dev.rawBytes_writeMem (d : Dev) (ag : Agent) {a : Nat} {bs : List Byte} (m : Bool) (h : d.Open a bs.length) (ht : d.torn = []) (hw : d.weak a = false)
    (hl : d.lostAt a = false) : (d.writeMem ag a bs m).1.rawBytes a bs.length = bs := by
  obtain ⟨e, he, hcase⟩ := d.writeMem_open ag m h
  obtain ⟨-, hlen, -⟩ := h
  have hnone := (d.meets_reached a bs.length m).torn.trans ht
  have hweak := ((d.keepsQueues_reached a bs.length m).weak a).trans hw
  by_cases hbs : bs = []
  · subst hbs
    rfl
  rw [he]
  obtain ⟨h, -⟩ | ⟨h, -⟩ | ⟨-, rfl⟩ | ⟨⟨i, x, hloc⟩, rfl⟩ := hcase
  · exact absurd h hbs
  · simp [hl] at h
  · rw [Dev.putUnit_whole _ _ _ _ _ hnone (.inr hweak)]
    exact Dev.rawBytes_setRawBytes _ hlen
  · rw [Dev.putWords_whole hnone hweak hloc hlen hbs]
    exact Dev.rawBytes_setRawBytes _ hlen

/-! ### The signal of a marver command (07, R129) -/

theorem mhSigFlag_lt (w : Nat) : mhSigFlag w < 64 := Nat.mod_lt _ (by decide)

theorem Dev.regsOnly_mvrSignal (d : Dev) (k w : Nat) : d.RegsOnly (d.mvrSignal k w) := by
  unfold Dev.mvrSignal Dev.signalClu
  exact .ite (.refl d) (.ite (.ite (d.regsOnly_setEvent _ _) (d.regsOnly_addFlag _ _ _)) (d.regsOnly_addFlag _ _ _))

/-- A signal to the marver adds one to its flag. -/
theorem Dev.flag_mvrSignal (d : Dev) (k : Nat) {w : Nat} (hen : mhSigEn w = true) (hkind : mhSigKind w = false) :
    (d.mvrSignal k w).flag (pStk k 1) (mhSigFlag w) = min 65535 (d.flag (pStk k 1) (mhSigFlag w) + 1) := by
  simp only [Dev.mvrSignal, hen, hkind]
  exact d.flag_addFlag _ _ _

/-! ### The outputs of a run land (07, R128) -/

/-- One output of a run lands; the DPA of the first write denied stays. -/
def Dev.landOut (ag : Agent) (acc : Dev × Option Nat) (o : Nat × List Byte × Bool) : Dev × Option Nat :=
  ((acc.1.writeMem ag o.1 o.2.1 o.2.2).1, if acc.2.isNone && (acc.1.writeMem ag o.1 o.2.1 o.2.2).2 then some o.1 else acc.2)

theorem Dev.BytesOnly.job {d d' : Dev} (h : d.BytesOnly d') (j : Nat) : d'.job j = d.job j := by
  rw [h]
  rfl

/-- The runs of a stack are those named. -/
abbrev Dev.leaveRuns (d : Dev) (k : Nat) (rest : List MRun) : Dev := d.modStk k fun x => { x with runs := rest }

/-- The oldest run of a stack whose memory answers: its outputs land, then it leaves, faults where a write was denied, and signals otherwise. -/
theorem Dev.runEnds_ready {d : Dev} {k : Nat} {r : MRun} {rest : List MRun} (hruns : (d.stk k).runs = r :: rest) (hready : ∀ o ∈ r.outs, d.memReady o.1 = true)
    (hsram : d.sram = []) {f : Dev} (hland : r.outs.foldl (Dev.landOut (agPlain (d.job r.job).ptn (some r.job))) (d, none) = (f, none))
    (hended : (f.job r.job).endedAt = none) :
    ∃ g : Dev, d.runEnds k = g.mvrSignal k r.cmd.toNat ∧
      (g = f.leaveRuns k rest ∨ g = (f.leaveRuns k rest).addCount (pStk k 1) 0x208 1) := by
  have hall : (r.outs.all fun o => d.memReady o.1) = true := List.all_eq_true.2 hready
  have hsettle : (f.leaveRuns k rest).settleOverrun r.job = f.leaveRuns k rest := by
    have hended' : ((f.leaveRuns k rest).job r.job).endedAt = none := hended
    simp only [Dev.settleOverrun, Dev.chargeOverrun, Dev.accrueOverrun, hended', ite_self]
  unfold Dev.landOut at hland
  unfold Dev.runEnds
  simp only [hruns, hall, hsram, hland, hsettle]
  by_cases hop : r.op = 6
  · exact ⟨_, by simp [hop], .inl rfl⟩
  · exact ⟨_, by simp [hop], .inr rfl⟩

/-- From `d` to `f` the outputs `outs` have landed: bytes within their bursts have changed at most, and no marver page. -/
structure Dev.Landed (d : Dev) (outs : List (Nat × List Byte × Bool)) (f : Dev) : Prop where
  bytes : d.BytesOnly f
  mvr : d.KeepsDma MvrPlace f
  fits : f.PartsFit
  same : ∀ a, d.Outside outs a → f.rawByte a = d.rawByte a

/-- Outputs that nothing denies land. -/
theorem Dev.landed_outs (d : Dev) (hfit : d.PartsFit) (ag : Agent) {outs : List (Nat × List Byte × Bool)} (hopen : ∀ o ∈ outs, d.Open o.1 o.2.1.length) :
    ∃ f, outs.foldl (Dev.landOut ag) (d, none) = (f, none) ∧ d.Landed outs f := by
  have hmotive : (outs.foldl (Dev.landOut ag) (d, none)).2 = none ∧ d.Landed outs (outs.foldl (Dev.landOut ag) (d, none)).1 := by
    refine List.foldlRecOn (motive := fun (acc : Dev × Option Nat) => acc.2 = none ∧ d.Landed outs acc.1) outs _ ⟨rfl, .refl d, .refl d, hfit, fun _ _ => rfl⟩ ?_
    rintro ⟨e, bad⟩ ⟨rfl, hland⟩ o ho
    have hstks := hland.bytes.stks
    obtain ⟨hslot, hplace⟩ := hopen o ho
    have hopen' : e.Open o.1 o.2.1.length := ⟨(Dev.slotAt_of_stks hstks o.1).trans hslot, hplace⟩
    obtain ⟨hgood, hmvr, hfits⟩ := e.writeMem_keeps hland.fits ag o.2.2 hopen'
    refine ⟨by simp [Dev.landOut, hgood], hland.bytes.trans (e.bytesOnly_writeMem ag _ _ _), hland.mvr.trans hmvr, hfits, fun a ha => ?_⟩
    refine Eq.trans ?_ (hland.same a ha)
    exact (e.sameAt_writeMem hland.fits ag o.2.2 hopen' fun b hlo hhi => by
      rw [Dev.home_of_stks hstks, Dev.home_of_stks hstks]
      exact ha o ho b hlo hhi).2
  exact ⟨_, Prod.ext rfl hmotive.1, hmotive.2⟩

/-- Bytes read as before a change of a stack that leaves its remap table. -/
theorem Dev.rawByte_modStk (d : Dev) (k : Nat) {f : Stk → Stk} (hf : ∀ x, (f x).remap = x.remap) (a : Nat) : (d.modStk k f).rawByte a = d.rawByte a := by
  have hremap : ∀ i, ((d.modStk k f).stk i).remap = (d.stk i).remap := fun i => by
    rw [Dev.stk_modStk]
    split
    · next h => rw [h, hf]
    · rfl
  have hhome : (d.modStk k f).home a = d.home a := by simp only [Dev.home, hremap]
  rw [Dev.rawByte, hhome]
  rfl

/-- What the end of a run does after its outputs have landed leaves every byte, and its flag but for the signal. -/
theorem Dev.endOfRun {f g : Dev} {k w : Nat} {rest : List MRun}
    (hg : g = f.leaveRuns k rest ∨ g = (f.leaveRuns k rest).addCount (pStk k 1) 0x208 1) :
    ((g.mvrSignal k w).stk k).runs = rest ∧ (g.mvrSignal k w).mem = f.mem ∧ f.SameBytes (g.mvrSignal k w) ∧
      (mhSigEn w = true → mhSigKind w = false → (g.mvrSignal k w).flag (pStk k 1) (mhSigFlag w) = min 65535 (f.flag (pStk k 1) (mhSigFlag w) + 1)) := by
  have hregs : (f.leaveRuns k rest).RegsOnly g ∧ (f.leaveRuns k rest).KeepsFlags g := by
    obtain rfl | rfl := hg
    · exact ⟨.refl _, .refl _⟩
    · exact ⟨Dev.regsOnly_addCount _ _ _ _, Dev.keepsFlags_addCount _ _ _ (by unfold FlagOff; decide)⟩
  have hsignal := hregs.1.trans (g.regsOnly_mvrSignal k w)
  refine ⟨?_, hsignal.mem, fun a => (hsignal.sameBytes a).trans (f.rawByte_modStk k (f := fun x => { x with runs := rest }) (fun _ => rfl) a), fun hen hkind => (g.flag_mvrSignal k hen hkind).trans ?_⟩
  · rw [Dev.stk_of_stks hsignal.stks, Dev.stk_modStk_same]
  · rw [hregs.2.flag (pStk k 1) (mhSigFlag_lt w)]
    rfl

/-! ### A copier transfer ends (07, R128, R138; 13, R274) -/

/-- What the end of an overrun leaves: stacks, aborts, and the class of every job. -/
theorem Dev.settleOverrun_keeps (d : Dev) (j : Nat) :
    (d.settleOverrun j).stks = d.stks ∧ (d.settleOverrun j).aborts = d.aborts ∧ ∀ i, ((d.settleOverrun j).job i).cls = (d.job i).cls := by
  have hcharge : ∀ (f : Job → Job) (p : Page) (n : Nat), (∀ x, (f x).cls = x.cls) →
      ((d.modJob j f).addCount p 0x3AC n).stks = d.stks ∧ ((d.modJob j f).addCount p 0x3AC n).aborts = d.aborts ∧
        ∀ i, (((d.modJob j f).addCount p 0x3AC n).job i).cls = (d.job i).cls := fun f p n hf => by
    have hregs := (d.modJob j f).regsOnly_addCount p 0x3AC n
    refine ⟨hregs.stks, hregs.aborts, fun i => ?_⟩
    have hjob : (d.modJob j f).job i = if i = j then f (d.job j) else d.job i := tgetD_tput d.jobs j i _ {}
    rw [Dev.job, hregs.jobs, ← Dev.job, hjob]
    split
    · next h => rw [hf, h]
    · rfl
  unfold Dev.settleOverrun Dev.chargeOverrun Dev.accrueOverrun
  split
  · exact ⟨rfl, rfl, fun _ => rfl⟩
  · split
    · exact ⟨rfl, rfl, fun _ => rfl⟩
    · exact hcharge _ _ _ fun _ => rfl

/-- A fault of a job found after other work that keeps queues, jobs and aborts is a fault from before it. -/
theorem Dev.JobFaulted.of_kept {d g t : Dev} {k q j code info : Nat} (hk : k < 24) (hkeeps : d.KeepsQueues g) (hcls : (g.job j).cls = (d.job j).cls)
    (haborts : g.aborts = d.aborts) (h : g.JobFaulted t (mU k) q j code info) : d.JobFaulted t (mU k) q j code info := by
  obtain ⟨hevent, hfirst, hcode, hstate, hqueue⟩ := h
  have hbit : g.bit (uPage (mU k)) 0x10 evFault = d.bit (uPage (mU k)) 0x10 evFault := by rw [Dev.bit, Dev.bit, hkeeps.header.reg_header _ (by decide)]
  have habort : g.aborting j = d.aborting j := by rw [Dev.aborting, Dev.aborting, haborts]
  rw [hbit] at hfirst
  rw [hcls] at hstate
  refine ⟨hevent, hfirst, hcode, hstate, fun hbound hjob hq => ?_⟩
  have h8 : q < 8 := by rwa [uQueues_mvr hk] at hq
  have hslot : g.reg (uPage (mU k)) (qOff (mU k) q) = d.reg (uPage (mU k)) (qOff (mU k) q) := hkeeps.reg_slot _ (by rw [qOff_mvr hk]; omega)
  have hboundG : g.qBound (mU k) q = true := by rw [Dev.qBound, Dev.qWeight, Dev.getF, hslot]; exact hbound
  have hjobG : g.qJob (mU k) q = j := by rw [Dev.qJob, Dev.getF, hslot]; exact hjob
  obtain ⟨hmark, hwhy, hcmds⟩ := hqueue hboundG hjobG hq
  exact ⟨hmark, hwhy, fun ha hfree => hcmds (habort.trans ha) (by rwa [hcls, hkeeps.state])⟩

/-- A transfer leaves its engine. -/
abbrev Dev.freeEngine (d : Dev) (k e : Nat) : Dev := d.modStk k fun x => { x with copiers := tdel x.copiers e }

/-- A transfer leaves its engine, and its job's overrun may end with it. -/
abbrev Dev.dropCopier (d : Dev) (k e j : Nat) : Dev := (d.freeEngine k e).settleOverrun j

/-- A command of the serving engine's own has completed. -/
abbrev Dev.engDone (d : Dev) (w : Nat) : Dev := { d with engCmds := d.engCmds.filter fun c => c.tag ≠ cmdTag w }

/-- What a transfer that leaves its engine leaves alone. -/
theorem Dev.dropCopier_keeps (f : Dev) (k e j : Nat) :
    ((f.dropCopier k e j).stk k).copiers = tdel (f.stk k).copiers e ∧ f.KeepsQueues (f.dropCopier k e j) ∧ f.KeepsFlags (f.dropCopier k e j) ∧
      (f.dropCopier k e j).aborts = f.aborts ∧ ∀ i, ((f.dropCopier k e j).job i).cls = (f.job i).cls := by
  obtain ⟨hstks, haborts, hcls⟩ := (f.freeEngine k e).settleOverrun_keeps j
  refine ⟨?_, .trans (b := f.freeEngine k e) (.of_eq rfl rfl rfl rfl) (Dev.keepsQueues_settleOverrun _ j),
    .trans (b := f.freeEngine k e) (.of_eq rfl rfl rfl rfl) (Dev.keepsFlags_settleOverrun _ j), haborts, hcls⟩
  rw [Dev.stk_of_stks hstks, Dev.stk_modStk_same]

/-- What a table does not list, no part of it lists. -/
theorem tget?_filter_none {α : Type} {l : Tbl α} {k : Nat} (h : tget? l k = none) (p : Nat × α → Bool) : tget? (l.filter p) k = none := by
  induction l with
  | nil => rfl
  | cons e l ih =>
    obtain ⟨i, v⟩ := e
    rw [tget?] at h
    split at h
    · cases h
    · next hne =>
      rw [List.filter_cons]
      split
      · rw [tget?, if_neg hne]
        exact ih h
      · exact ih h

section Ends
variable {d f : Dev} {k e : Nat} {r : CopyRun} (hrun : tget? (d.stk k).copiers e = some r) (hready : d.piecesReady (r.src ++ r.dst) = true)
include hrun hready

theorem Dev.copyEnds_denied {a : Nat} (hunits : Dev.copyUnits k (r.total - r.done) d r r.done = (f, some a)) :
    d.copyEnds k e = (f.dropCopier k e r.job).jobFault (mU k) r.queue r.job 0x7001 (deniedInfo r.queue a) := by
  unfold Dev.copyEnds
  simp only [hrun, hready, hunits, Bool.not_true, Bool.false_eq_true, if_false]

theorem Dev.copyEnds_done (hunits : Dev.copyUnits k (r.total - r.done) d r r.done = (f, none)) :
    d.copyEnds k e = ((f.dropCopier k e r.job).engDone r.cmd.toNat).mvrSignal k r.cmd.toNat := by
  unfold Dev.copyEnds
  simp only [hrun, hready, hunits, Bool.not_true, Bool.false_eq_true, if_false]

/-- A denied write of the transfer is a fault of its job. -/
theorem Dev.copyEnds_faults (hk : k < 24) {a : Nat} (hunits : Dev.copyUnits k (r.total - r.done) d r r.done = (f, some a)) :
    d.JobFaulted (d.copyEnds k e) (mU k) r.queue r.job 0x7001 (deniedInfo r.queue a) ∧ tget? ((d.copyEnds k e).stk k).copiers e = none := by
  have hunit := Dev.keepsWork_copyUnits k (r.total - r.done) d r r.done
  rw [hunits] at hunit
  obtain ⟨hcopiers, hqueues, -, haborts, hcls⟩ := f.dropCopier_keeps k e r.job
  obtain ⟨hfault, p, hleft⟩ := (f.dropCopier k e r.job).jobFault_mvr hk r.queue r.job (code := 0x7001) (by decide) (deniedInfo r.queue a)
  rw [Dev.copyEnds_denied hrun hready hunits]
  refine ⟨hfault.of_kept hk (hunit.toKeepsQueues.trans hqueues) (by rw [hcls, Dev.job, hunit.jobs, ← Dev.job]) (haborts.trans hunit.aborts), ?_⟩
  rw [hleft, hcopiers]
  exact tget?_filter_none (tget?_tdel_same _ _) p

/-- A transfer whose units are done leaves its engine and signals. -/
theorem Dev.copyEnds_signals (hunits : Dev.copyUnits k (r.total - r.done) d r r.done = (f, none)) :
    tget? ((d.copyEnds k e).stk k).copiers e = none ∧ (d.copyEnds k e).mem = f.mem ∧
      (mhSigEn r.cmd.toNat = true → mhSigKind r.cmd.toNat = false →
        (d.copyEnds k e).flag (pStk k 1) (mhSigFlag r.cmd.toNat) = min 65535 (f.flag (pStk k 1) (mhSigFlag r.cmd.toNat) + 1)) := by
  obtain ⟨hcopiers, -, hflags, -, -⟩ := f.dropCopier_keeps k e r.job
  have hsignal := ((f.dropCopier k e r.job).engDone r.cmd.toNat).regsOnly_mvrSignal k r.cmd.toNat
  rw [Dev.copyEnds_done hrun hready hunits]
  refine ⟨?_, hsignal.mem.trans hflags.mem, fun hen hkind => (Dev.flag_mvrSignal _ k hen hkind).trans ?_⟩
  · rw [Dev.stk_of_stks hsignal.stks]
    exact (congrArg (tget? · e) hcopiers).trans (tget?_tdel_same _ _)
  · rw [← hflags.flag (pStk k 1) (mhSigFlag_lt _)]
    rfl

end Ends

/-- Of the completions of a marver, the first four are those of its stack DMA engines. -/
theorem exec_marverCommandComplete_copier (s : State) (k : Fin 24) (e : Fin 4) :
    exec (.marverCommandComplete k e.castSucc) s = .next ⟨s.dev.copyEnds k e, s.pending⟩ := by
  have hne : ¬ (e.castSucc : Fin 5).val = 4 := Nat.ne_of_lt e.isLt
  change execMarverCommandComplete k e.castSucc s = _
  rw [execMarverCommandComplete, State.upd_eq, if_neg hne]
  rfl

/-! ### A saved transfer goes on (13, R270, R274) -/

/-- A translation that keeps no walk touches registers only. -/
theorem Dev.regsOnly_xlate (d : Dev) (p pva : Nat) (w : Bool) : d.RegsOnly (d.xlate none p pva w).1 := by
  have hcount : ∀ l : List (Nat × Nat), d.RegsOnly (if l.isEmpty then d else d.addCount pMmu 0x44 l.length) := fun l =>
    .ite (.refl d) (d.regsOnly_addCount _ _ _)
  have hlast : ∀ e : Dev, e.RegsOnly (e.lastFault p pva) := fun e => e.regsOnly_setPair _ _ _ _
  unfold Dev.xlate
  dsimp only
  split
  · exact (hcount _).trans (hlast _)
  · split
    · exact (hcount _).trans (hlast _)
    · split
      · exact (hcount _).trans (hlast _)
      · exact hcount _

theorem Dev.regsOnly_xlRangeGo (p : Nat) (w : Bool) (f : Nat) (d : Dev) (pva n : Nat) : d.RegsOnly (Dev.xlRangeGo none p w f d pva n).1 := by
  induction f generalizing d pva n with
  | zero => exact .refl d
  | succ f ih =>
    unfold Dev.xlRangeGo
    split
    · exact .refl d
    · have hx := d.regsOnly_xlate p pva w
      dsimp only
      split
      · next heq => rwa [heq] at hx
      · next e _ heq =>
        rw [heq] at hx
        have hrest := ih e (pva + min n (65536 - pva % 65536)) (n - min n (65536 - pva % 65536))
        split
        · next heq' =>
          rw [heq'] at hrest
          exact hx.trans hrest
        · next heq' =>
          rw [heq'] at hrest
          exact hx.trans hrest

/-- A read of partition memory by its PVA leaves stacks as they are. -/
theorem Dev.stks_readPva (d : Dev) (p pva n : Nat) : (d.readPva p pva n).1.stks = d.stks := by
  have hx := (d.regsOnly_xlRangeGo p false (n / 65536 + 2) pva n).stks
  unfold Dev.readPva Dev.xlRange
  split
  · next heq => rwa [heq] at hx
  · next heq => rwa [heq] at hx

/-- A save slot is free. -/
abbrev Dev.freeSave (d : Dev) (k i : Nat) : Dev := d.modStk k fun x => { x with saved := tdel x.saved i }

theorem exec_stackDmaResume_ineligible {s : State} {k : Fin 24} {i : Fin 32}
    (h : s.dev.eligible (mU k) (((tget? (s.dev.stk k).saved i).map CopyRun.job).getD 0) = false) : exec (.stackDmaResume k i) s = .next s := by
  change execStackDmaResume k i s = _
  rw [execStackDmaResume, State.upd_eq]
  cases hsaved : tget? (s.dev.stk k).saved i with
  | none => rfl
  | some r =>
    rw [hsaved] at h
    have hjob : s.dev.eligible (mU k) r.job = false := h
    simp [hjob]

section Resume
variable {s : State} {k : Fin 24} {i : Fin 32} {r : CopyRun} {c : Nat} {f : Dev} {l : List Byte}

theorem exec_stackDmaResume_good (hsaved : tget? (s.dev.stk k).saved i = some r) (heligible : s.dev.eligible (mU k) r.job = true)
    (hfree : s.dev.freeCopier k = some c) (hruns : s.dev.mvrRuns k = true) (hread : s.dev.readPva r.ptn (s.dev.stkSave k i) 512 = (f, .ok l))
    (hcrc : crc32 (l.take 0x1FC) = numAt l 0x1FC 4) : exec (.stackDmaResume k i) s = .next ⟨(f.freeSave k i).copyResume k r l, s.pending⟩ := by
  change execStackDmaResume k i s = _
  rw [execStackDmaResume, State.upd_eq]
  simp only [hsaved, heligible, hfree, hruns, hread, hcrc, Option.isNone_some, Bool.not_true, Bool.or_self, Bool.false_eq_true, if_false, ne_eq, not_true_eq_false]

end Resume

/-- The physical transfer that record `l` of the saved transfer `r` names, from its next unit on, under command `w`. -/
def CopyRun.resumed (r : CopyRun) (l : List Byte) (w : Nat) : CopyRun where
  queue := r.queue
  job := numAt l 0x198 2 % 4096
  ptn := numAt l 0x19A 1 % 32
  cmd := BitVec.ofNat 545 w
  src := [(cpSrc w + 4096 * (numAt l 0x180 8 % 2 ^ 40), 4096 * (numAt l 0x188 8 % 2 ^ 40 - numAt l 0x180 8 % 2 ^ 40))]
  dst := [(cpDst w + 4096 * (numAt l 0x180 8 % 2 ^ 40), 4096 * (numAt l 0x188 8 % 2 ^ 40 - numAt l 0x180 8 % 2 ^ 40))]
  first := numAt l 0x180 8 % 2 ^ 40
  done := numAt l 0x180 8 % 2 ^ 40
  total := numAt l 0x188 8 % 2 ^ 40
  ranges := []

/-- A physical transfer goes on at the first free engine. -/
theorem Dev.copyResume_phys (d : Dev) {k c w : Nat} {r : CopyRun} {l : List Byte} (hw : w = numAt l 0 64 + r.cmd.toNat / 2 ^ 512 * 2 ^ 512) (hphys : cmdPhys w = true)
    (hfree : d.freeCopier k = some c) : d.copyResume k r l = d.modStk k fun x => { x with copiers := tput x.copiers c (r.resumed l w) } := by
  unfold Dev.copyResume
  rw [← hw]
  dsimp only
  rw [if_pos hphys, Dev.startCopy, hfree]
  rfl

/-- The engines of a stack are as free after one of its save slots is freed. -/
theorem Dev.freeCopier_freeSave {d f : Dev} (h : f.stks = d.stks) (k i : Nat) : (f.freeSave k i).freeCopier k = d.freeCopier k := by
  simp only [Dev.freeCopier, Dev.stk_modStk_same, Dev.stk_of_stks h]

/-! ### A stack leaves self-refresh (07, R124; 20, R442) -/

theorem wfld_wput_domain (w : Word) {v : Nat} (h : v < 8) : wfld (wput w 6 4 v) 6 4 = v := by
  simp only [wfld, wput, fld, setFld, BitVec.toNat_ofNat]
  omega

theorem Dev.stackExits_regs (d : Dev) (k : Nat) : (d.stackExits k).SameRegsBut d pPwr [rDom (80 + k), 0x54] :=
  (((d.setDom (80 + k) dsOn).sameRegsBut_addCount pPwr 0x54 1).trans (d.sameRegsBut_setReg pPwr (rDom (80 + k)) _)).mono (by simp)

theorem Dev.stackExits_dom (d : Dev) (k : Nat) : (d.stackExits k).dom (80 + k) = dsOn := by
  have hcount := ((d.setDom (80 + k) dsOn).sameRegsBut_addCount pPwr 0x54 1).reg (off := rDom (80 + k)) (by simp only [List.mem_singleton, rDom]; omega)
  change wfld (((d.setDom (80 + k) dsOn).addCount pPwr 0x54 1).reg pPwr (rDom (80 + k))) 6 4 = dsOn
  rw [hcount, Dev.setDom, Dev.setF, Dev.reg_setReg_same, wfld_wput_domain _ (by decide)]

theorem Dev.stackExits_demand (d : Dev) (k : Nat) : ((d.stackExits k).stk k).demand = false :=
  congrArg Stk.demand (((d.setDom (80 + k) dsOn).addCount pPwr 0x54 1).stk_modStk_same k fun x => { x with demand := false })

theorem Dev.stackExits_mem (d : Dev) (k : Nat) : (d.stackExits k).mem = d.mem := ((d.setDom (80 + k) dsOn).regsOnly_addCount pPwr 0x54 1).mem

theorem Dev.stackExits_inOps (d : Dev) (k : Nat) : (d.stackExits k).inOps = d.inOps := by
  have hregs := (d.setDom (80 + k) dsOn).regsOnly_addCount pPwr 0x54 1
  change ((d.setDom (80 + k) dsOn).addCount pPwr 0x54 1).inOps = d.inOps
  rw [hregs]
  rfl

/-- With no operation taken in, nothing is performed. -/
theorem Dev.resume_nil {d : Dev} (h : d.inOps = []) : d.resume = d := by
  rw [Dev.resume, Dev.performAll, h]
  rfl

theorem exec_stackSelfRefreshExit_demanded {s : State} {k : Fin 24} (hself : s.dev.dom (80 + k.val) = dsSelf) (hdemand : (s.dev.stk k).demand = true)
    (hlehr : s.dev.lehr = 0) (hon : s.dev.dom 110 = dsOn) : exec (.stackSelfRefreshExit k) s = .next ⟨(s.dev.stackExits k).resume, s.pending⟩ := by
  change execStackSelfRefreshExit k s = _
  rw [execStackSelfRefreshExit, State.upd_eq]
  simp [hself, hdemand, hlehr, hon]

/-! ### The seal map (07, R125) -/

theorem exec_sealMapWrite_takes {s : State} {r : Role} {k : Fin 24} (h : s.dev.Takes r (pStk k 0)) (v : BitVec 32) :
    exec (.sealMapWrite r k v) s = .next ⟨(s.dev.writeSeal r k v).answer 0, s.pending⟩ := by
  change execSealMapWrite r k v s = _
  rw [execSealMapWrite, State.upd_eq, Dev.guardWrite_takes h]

/-- The security core's write of a slot sets the slot of the granule that the index names. -/
theorem Dev.writeSeal_security (d : Dev) (k : Nat) {v : Word} (h : wfld v 4 0 ≤ 24) :
    d.writeSeal .security k v =
      (d.setF (pStk k 0) 0x48 4 0 (wfld v 4 0)).modStk k fun x => { x with sealMap := tset x.sealMap (d.getF (pStk k 0) 0x44 15 0) (wfld v 4 0) 0 } := by
  have hindex : (d.setF (pStk k 0) 0x48 4 0 (wfld v 4 0)).getF (pStk k 0) 0x44 15 0 = d.getF (pStk k 0) 0x44 15 0 := by
    rw [Dev.getF, Dev.getF, Dev.setF, Dev.reg_setReg_off _ _ _ (by decide)]
  unfold Dev.writeSeal
  simp [Nat.not_lt.2 h, hindex]

theorem Dev.writeSeal_other (d : Dev) {r : Role} (h : r ≠ .security) (k : Nat) (v : Word) : d.writeSeal r k v = d.setEvent (pStk k 0) evDenied := by
  unfold Dev.writeSeal
  rw [if_pos h]

end Sys2Proof.Machine

namespace Sys2Proof.Proofs

open Sys2Proof Sys2Proof.Machine

/-- Settles O22: the outputs of a run land each in its own burst (`Dev.landed_outs`), where a single one reads as written (`Dev.rawBytes_writeMem`); a transfer that ends keeps queues, jobs and aborts, so that a denied write is the fault of a job in a marver (`Dev.jobFault_mvr`); a saved transfer's record is read without touching stacks. -/
theorem marverWorkLands : Obligations.MarverWorkLands := by
  unfold Obligations.MarverWorkLands
  refine ⟨fun s k r rest hruns houts hsram hfit hended => ?run, fun s k e r hcopier hready => ?copy, fun s k i hineligible => ?stays,
    fun s k i r c w f l hsaved heligible hfree hruns hread hcrc hw hphys => ?resume, fun s k hself hdemand hlehr hon => ?refresh, fun s r k v htakes => ?slot⟩
  case run =>
    obtain ⟨f, hfold, hland⟩ := s.dev.landed_outs hfit (agPlain (s.dev.job r.job).ptn (some r.job)) (outs := r.outs) fun o ho => (houts o ho).2
    have hjob : (f.job r.job).endedAt = none := (congrArg Job.endedAt (hland.bytes.job r.job)).trans hended
    obtain ⟨g, hends, hg⟩ := Dev.runEnds_ready hruns (fun o ho => (houts o ho).1) hsram hfold hjob
    obtain ⟨hrest, hmem, hbytes, hflag⟩ := Dev.endOfRun (w := r.cmd.toNat) hg
    refine ⟨⟨s.dev.runEnds k, s.pending⟩, rfl, rfl, ?_⟩
    dsimp only
    rw [hends]
    refine ⟨hrest, fun a ha => (hbytes a).trans (hland.same a ha), fun hnone => ?_, fun o ho _ htorn hweak hlost => ?_, fun hen hkind _ => ?_⟩
    · rw [hnone] at hfold
      cases hfold
      exact hmem
    · have hopen := (houts o (by simp [ho])).2
      rw [ho] at hfold
      obtain rfl : _ = f := congrArg Prod.fst hfold
      refine Eq.trans ?_ (s.dev.rawBytes_writeMem (agPlain (s.dev.job r.job).ptn (some r.job)) o.2.2 hopen htorn hweak hlost)
      exact List.map_congr_left fun i _ => hbytes _
    · rw [hflag hen hkind, hland.mvr.mvrFlag k.isLt (mhSigFlag_lt _)]
  case copy =>
    obtain ⟨f, bad, hunits⟩ : ∃ f bad, Dev.copyUnits k (r.total - r.done) s.dev r r.done = (f, bad) := ⟨_, _, rfl⟩
    have hnone : r.total ≤ r.done → f = s.dev ∧ bad = none := fun hdone => by
      rw [Nat.sub_eq_zero_of_le hdone] at hunits
      cases hunits
      exact ⟨rfl, rfl⟩
    refine ⟨_, f, bad, exec_marverCommandComplete_copier s k e, rfl, hunits, ?_⟩
    dsimp only
    cases bad with
    | some a =>
      obtain ⟨hfault, hfree⟩ := Dev.copyEnds_faults hcopier hready k.isLt hunits
      refine ⟨hfree, (fun h => by cases h), fun b hb => ?_, fun h => absurd (hnone h).2 (by simp), fun h => absurd (hnone h).2 (by simp)⟩
      cases hb
      exact hfault
    | none =>
      obtain ⟨hfree, hmem, hflag⟩ := Dev.copyEnds_signals hcopier hready hunits
      refine ⟨hfree, fun _ => hmem, (fun a h => by cases h), fun h => hmem.trans (by rw [(hnone h).1]), fun h hen hkind => ?_⟩
      rw [hflag hen hkind, (hnone h).1]
  case stays => exact ⟨_, exec_stackDmaResume_ineligible hineligible, rfl⟩
  case resume =>
    have hstks : f.stks = s.dev.stks := by
      have hstks := s.dev.stks_readPva r.ptn (s.dev.stkSave k i) 512
      rwa [hread] at hstks
    have hfree' := (Dev.freeCopier_freeSave hstks k i).trans hfree
    refine ⟨_, r.resumed l w, exec_stackDmaResume_good hsaved heligible hfree hruns hread hcrc, rfl, ?_⟩
    rw [Dev.copyResume_phys _ hw hphys hfree']
    simp only [Dev.stk_modStk_same]
    exact ⟨tget?_tdel_same _ _, tget?_tput_same _ _ _, rfl, rfl, rfl, rfl, rfl, rfl, rfl, rfl⟩
  case refresh =>
    refine ⟨_, exec_stackSelfRefreshExit_demanded hself hdemand hlehr hon, rfl, s.dev.stackExits_dom k, fun hops => ?_⟩
    dsimp only
    rw [Dev.resume_nil ((s.dev.stackExits_inOps k).trans hops)]
    exact ⟨s.dev.stackExits_dom k, s.dev.stackExits_demand k, s.dev.stackExits_mem k, s.dev.stackExits_regs k⟩
  case slot =>
    refine ⟨fun hsecurity hslot => ?security, fun hother => ?other⟩
    case security =>
      subst hsecurity
      refine ⟨_, exec_sealMapWrite_takes htakes v, rfl, ?_⟩
      dsimp only
      rw [Dev.writeSeal_security _ _ hslot]
      have hstk := (s.dev.setF (pStk k 0) 0x48 4 0 (wfld v 4 0)).stk_modStk_same k fun x =>
        { x with sealMap := tset x.sealMap (s.dev.getF (pStk k 0) 0x44 15 0) (wfld v 4 0) 0 }
      exact ⟨(congrArg (fun x : Stk => tgetD x.sealMap _ 0) hstk).trans (tgetD_tset_same _ _ _ _),
        fun g hg => (congrArg (fun x : Stk => tgetD x.sealMap g 0) hstk).trans (tgetD_tset_ne _ _ _ hg), rfl⟩
    case other =>
      refine ⟨_, exec_sealMapWrite_takes htakes v, rfl, ?_⟩
      dsimp only
      rw [Dev.writeSeal_other _ hother]
      have hregs := s.dev.regsOnly_setEvent (pStk k 0) evDenied
      exact ⟨Dev.bit_setEvent_same _ _ (by decide), hregs.stks, Dev.sameRegsBut_of_csr (s.dev.setEvent_csr _ _), hregs.mem⟩

end Sys2Proof.Proofs

/-! SUPPORT. The merge unit (08, R166–R168): what a served MERGE leaves, one access of the unit, the end of its last merge; and the statement about them. -/

namespace Sys2Proof.Machine

/-! ### MERGE takes the merge unit (R168) -/

theorem exec_merge_served {s : State} {n : Fin 800} {q : Fin 8} {w k : Nat} {e : Dev} (h : s.dev.GafServed n q w k e) (hop : fld w 7 0 = 0x07) :
    exec (.merge n q) s = .next ⟨((e.qPop n q k).scoreTake n (mgRead w) (mgWrite w)).modClu n fun c =>
      { c with merge := some ⟨q, e.qJob n q, mgRead w, mgWrite w, mgSigEn w, mgSigFlag w, e.ao, BitVec.ofNat 256 w, 0, []⟩ }, s.pending⟩ := by
  change execMerge n q s = _
  rw [execMerge, State.upd_eq, Dev.gafServe_served h hop]

theorem Dev.ClusOnly.ao {d d' : Dev} (h : d.ClusOnly d') : d'.ao = d.ao := by rw [h]

/-! ### One access of the merge unit (R168) -/

/-- A word that lies before region 63 stands in the cluster's own buffer. -/
theorem loc_wordDpa {n w : Nat} (hn : n < 800) (h : inSecure (32 * w) 32 = false) : loc (wordDpa n w) = .buf n (32 * w) := by
  have hw : 32 * w + 32 ≤ 0xFC000 := by simpa [inSecure] using h
  rw [loc_buf_iff, wordDpa, bufBase]
  omega

theorem Dev.length_readMem_buf (d : Dev) (ag : Agent) {a c off : Nat} (h : loc a = .buf c off) (n : Nat) : (d.readMem ag a n).length = n := by
  rw [Dev.readMem, h]
  simp

/-- An access to an unmarked word, with no error pattern in memory and another word of its merge still to come. -/
theorem Dev.mergeStep_reads {d : Dev} {n : Nat} {m : MergeRun} (hn : n < 800) (herrs : d.errs = []) (hmark : d.markedAt (wordDpa n m.nextWord) 32 = false)
    (hopen : inSecure (32 * m.nextWord) 32 = false) (hmore : m.got.length + 32 < 32 * mgParts m.w.toNat * mgPwords m.w.toNat) :
    d.mergeStep n m = .goes d { m with got := m.got ++ d.readMem (agPtn (d.job m.job).ptn (some m.job)) (wordDpa n m.nextWord) 32 } := by
  have hloc := loc_wordDpa hn hopen
  have hsecure (ag : Agent) : d.noteSecure ag (wordDpa n m.nextWord) 32 = d := by
    rw [Dev.noteSecure, hloc]
    simp [hopen]
  have hlength : (m.got ++ d.readMem (agPtn (d.job m.job).ptn (some m.job)) (wordDpa n m.nextWord) 32).length < 32 * mgParts m.w.toNat * mgPwords m.w.toNat := by
    rwa [List.length_append, d.length_readMem_buf _ hloc]
  rw [Dev.mergeStep, Dev.noteErrs_clean herrs, hsecure, hmark]
  exact (if_neg Bool.false_ne_true).trans (if_pos hlength)

theorem Dev.mergeRun_zero (n : Nat) (d : Dev) : Dev.mergeRun n 0 d = d := rfl

/-- An access of a merge unit that holds an unfinished command, in a buffer that no march tests: the accesses left go on from what it did. (The number of accesses is a variable, so that the kernel evaluates none.) -/
theorem Dev.mergeRun_goes {d e : Dev} {n : Nat} {m x : MergeRun} (hm : (d.clu n).merge = some m) (hover : m.over = false) (hmarch : (d.clu n).march = none)
    (hstep : d.mergeStep n m = .goes e x) {k f : Nat} (hk : k = f + 1) :
    Dev.mergeRun n k d = Dev.mergeRun n f (e.modClu n fun c => { c with merge := some x }) := by
  obtain ⟨step, hs⟩ := Dev.mergeStep_named
  have hgo : (m.over || (d.clu n).march.isSome) = false := by rw [hover, hmarch]; rfl
  delta Dev.mergeRun Dev.mergeRun._f
  rw [← hs] at hstep ⊢
  clear hs
  subst hk
  change (match (d.clu n).merge with
    | none => d
    | some m =>
      if m.over || (d.clu n).march.isSome then d
      else match step d n m with
        | .goes _ _ => _
        | .marked _ _ => _) = _
  rw [hm]
  dsimp only
  rw [hgo, hstep]
  rfl

/-! ### MERGE_COMPLETE (R168, R74, R76) -/

theorem exec_mergeComplete (s : State) (t : MergeTurn) : exec (.mergeComplete t) s = execMergeComplete t s := rfl

theorem execMergeComplete_unfinished {s : State} {t : MergeTurn} {m : MergeRun} (hm : ((Dev.mergeRun t.clu t.reads s.dev).clu t.clu).merge = some m)
    (hover : m.over = false) : execMergeComplete t s = .next ⟨Dev.mergeRun t.clu t.reads s.dev, s.pending⟩ := by
  rw [execMergeComplete, State.upd_eq]
  dsimp only
  rw [hm]
  dsimp only
  rw [hover]
  rfl

/-- Cluster `n` once its merge unit has left command `m`: its regions freed, the unit empty, the overrun of its job ended with it. -/
def Dev.mergeGone (d : Dev) (n : Nat) (m : MergeRun) : Dev :=
  ((d.scoreFree n m.readR m.writeR).modClu n fun c => { c with merge := none }).settleOverrun m.job

theorem execMergeComplete_over {s : State} {t : MergeTurn} {m : MergeRun} (hm : ((Dev.mergeRun t.clu t.reads s.dev).clu t.clu).merge = some m)
    (hover : m.over = true) :
    execMergeComplete t s = .next ⟨if m.sigEn then ((Dev.mergeRun t.clu t.reads s.dev).mergeGone t.clu m).addFlag (pClu t.clu) m.sigFlag 1
      else (Dev.mergeRun t.clu t.reads s.dev).mergeGone t.clu m, s.pending⟩ := by
  rw [execMergeComplete, State.upd_eq]
  dsimp only
  rw [hm]
  dsimp only
  rw [hover]
  rfl

theorem Dev.clus_settleOverrun (d : Dev) (j : Nat) : (d.settleOverrun j).clus = d.clus := by
  unfold Dev.settleOverrun Dev.chargeOverrun Dev.accrueOverrun
  split
  · rfl
  · split
    · rfl
    · exact (Dev.regsOnly_addCount (d.modJob j _) _ _ _).clus

/-- A merge unit that its command has left is empty; memory and every flag stay. -/
theorem Dev.mergeGone_effect (d : Dev) (n : Nat) (m : MergeRun) :
    ((d.mergeGone n m).clu n).merge = none ∧ d.KeepsFlags (d.mergeGone n m) := by
  refine ⟨?_, ((d.keepsFlags_scoreFree n m.readR m.writeR).trans (Dev.keepsFlags_modClu _ n (f := fun c => { c with merge := none }) fun _ => rfl)).trans
    (Dev.keepsFlags_settleOverrun _ m.job)⟩
  rw [Dev.mergeGone, Dev.clu, Dev.clus_settleOverrun, ← Dev.clu, Dev.clu_modClu_same]

end Sys2Proof.Machine

namespace Sys2Proof.Proofs

open Sys2Proof Sys2Proof.Machine

/-- Settles O15: a served head gives the unit its command; one access of an unfinished command is one step of the unit; the end frees regions and unit before the signal's own write. -/
theorem mergeUnitRuns : Obligations.MergeUnitRuns := by
  unfold Obligations.MergeUnitRuns
  refine ⟨fun s n q w k e hserved hop => ?issue, fun s n m hm hover hmarch herrs hmark hopen hmore => ?access, fun s n k m hm hover => ?ends⟩
  case issue =>
    have hn : n.val < 0x2000 := n.isLt.trans (by decide)
    obtain ⟨-, -, -, -, -, -, -, -, hchoose⟩ := id hserved
    obtain ⟨hclus, hcmds⟩ := Dev.served_qPop hserved hn q.isLt
    have hkeep := ((e.qPop n q k).keepsFlags_scoreTake n (mgRead w) (mgWrite w)).trans
      (Dev.keepsFlags_modClu _ n (f := fun c => { c with merge := some ⟨q, e.qJob n q, mgRead w, mgWrite w, mgSigEn w, mgSigFlag w, e.ao, BitVec.ofNat 256 w, 0, []⟩ })
        fun _ => rfl)
    refine ⟨_, exec_merge_served hserved hop, rfl, hkeep.mem.trans hclus.mem, (hkeep.qCmds hn q).trans hcmds, ?_⟩
    rw [Dev.clu_modClu_same, (Dev.clusOnly_gafChoose hchoose).ao]
  case access =>
    have hrun := Dev.mergeRun_goes hm hover hmarch (Dev.mergeStep_reads n.isLt herrs hmark hopen hmore) (k := 1) rfl
    rw [Dev.mergeRun_zero] at hrun
    have hunit := congrArg (fun d : Dev => (d.clu n).merge) hrun
    simp only [Dev.clu_modClu_same] at hunit
    refine ⟨_, (exec_mergeComplete s ⟨n, 1⟩).trans (execMergeComplete_unfinished (t := ⟨n, 1⟩) hunit hover), rfl, ?_, hunit⟩
    rw [hrun]
    rfl
  case ends =>
    obtain ⟨hempty, hkeep⟩ := (Dev.mergeRun n k s.dev).mergeGone_effect n m
    refine ⟨_, (exec_mergeComplete s ⟨n, k⟩).trans (execMergeComplete_over (t := ⟨n, k⟩) hm hover), rfl, ?_⟩
    cases hsig : m.sigEn with
    | false => exact ⟨hempty, hkeep.mem, nofun⟩
    | true =>
      have hregs := ((Dev.mergeRun n k s.dev).mergeGone n m).regsOnly_addFlag (pClu n) m.sigFlag 1
      exact ⟨(congrArg Clu.merge (hregs.clu n)).trans hempty, hregs.mem.trans hkeep.mem,
        fun _ hlt => (Dev.flag_addFlag ..).trans (by rw [hkeep.flag _ hlt])⟩

end Sys2Proof.Proofs

/-! SUPPORT. The steps of a partition (10, R200–R211; 09, R179–R183; 11, R223–R233): what leaves the returns of pages and the step under way, what leaves a serving window, the stages of a step one by one; and the statement about them. -/

namespace Sys2Proof.Machine

/-! ### What leaves memory, page returns and the step under way -/

/-- From `d` to `d'` memory, every partition's pages that wait for their return and its step stay, with the registers of every page at the offset of KVP_RETURNS (09, R190). -/
structure Dev.KeepsReturns (d d' : Dev) : Prop where
  mem : d'.mem = d.mem
  csr : ∀ k, k % 0x1000 = 0x6C → tget? d'.csr k = tget? d.csr k
  rets : ∀ p, (d'.px p).rets = (d.px p).rets
  step : ∀ p, (d'.px p).step = (d.px p).step

theorem Dev.px_modPx (d : Dev) (q p : Nat) (f : PtnX → PtnX) : (d.modPx q f).px p = if p = q then f (d.px q) else d.px p :=
  tgetD_tput d.ptnx q p _ {}

@[simp] theorem Dev.px_modPx_same (d : Dev) (p : Nat) (f : PtnX → PtnX) : (d.modPx p f).px p = f (d.px p) := by
  rw [Dev.px_modPx, if_pos rfl]

section Keeps
variable {c d : Dev}

theorem Dev.KeepsReturns.refl (d : Dev) : d.KeepsReturns d := ⟨rfl, fun _ _ => rfl, fun _ => rfl, fun _ => rfl⟩

/-- What touches neither memory nor registers nor partitions. -/
theorem Dev.KeepsReturns.same (h : c.KeepsReturns d) {e : Dev} (hmem : e.mem = d.mem) (hcsr : e.csr = d.csr) (hptnx : e.ptnx = d.ptnx) : c.KeepsReturns e :=
  ⟨hmem.trans h.mem, fun k hk => hcsr ▸ h.csr k hk, fun p => by rw [Dev.px, hptnx]; exact h.rets p, fun p => by rw [Dev.px, hptnx]; exact h.step p⟩

theorem Dev.KeepsReturns.ite {b : Prop} [Decidable b] {e : Dev} (h : c.KeepsReturns d) (h' : c.KeepsReturns e) : c.KeepsReturns (if b then d else e) := by
  split
  · exact h
  · exact h'

theorem Dev.KeepsReturns.foldl {α : Type} {f : Dev → α → Dev} {l : List α} (hf : ∀ e, ∀ a ∈ l, c.KeepsReturns e → c.KeepsReturns (f e a)) (h : c.KeepsReturns d) :
    c.KeepsReturns (l.foldl f d) := Dev.foldl_holds (P := c.KeepsReturns) hf h

theorem Dev.KeepsReturns.reg_returns (h : c.KeepsReturns d) (p : Nat) : d.reg (pKvp p) 0x6C = c.reg (pKvp p) 0x6C := by
  have hb := (pKvp p).base_mod
  rw [Dev.reg, Dev.reg, tgetD, tgetD, h.csr _ (by omega)]

/-- A change of what a partition holds other than its step and the pages that wait for their return. -/
theorem Dev.KeepsReturns.modPx (h : c.KeepsReturns d) (q : Nat) {f : PtnX → PtnX} (hrets : ∀ x, (f x).rets = x.rets) (hstep : ∀ x, (f x).step = x.step) :
    c.KeepsReturns (d.modPx q f) := by
  refine ⟨h.mem, h.csr, fun p => ?_, fun p => ?_⟩
  · rw [Dev.px_modPx, ← h.rets]
    split
    · next hp => rw [hrets, hp]
    · rfl
  · rw [Dev.px_modPx, ← h.step]
    split
    · next hp => rw [hstep, hp]
    · rfl

theorem Dev.KeepsReturns.setReg (h : c.KeepsReturns d) (p : Page) {off : Nat} (v : Word) (hoff : off % 0x1000 ≠ 0x6C) : c.KeepsReturns (d.setReg p off v) := by
  refine ⟨h.mem, fun k hk => (tget?_tput_ne d.csr v ?_).trans (h.csr k hk), h.rets, h.step⟩
  have hb := p.base_mod
  omega

theorem Dev.KeepsReturns.addCount (h : c.KeepsReturns d) (p : Page) {off : Nat} (n : Nat) (hoff : off % 0x1000 ≠ 0x6C) : c.KeepsReturns (d.addCount p off n) := by
  unfold Dev.addCount
  exact .ite h (.setReg (h.same (e := d.noteAdd p off n) rfl rfl rfl) p _ hoff)

/-! ### Messages and the outcome of an item (14, R303, R304) -/

theorem Dev.KeepsReturns.sendOp (h : c.KeepsReturns d) (o : HeldOp) : c.KeepsReturns (d.sendOp o) := by
  have hroute : ∀ e : Dev, c.KeepsReturns e → c.KeepsReturns (e.routeOp o) := fun e he => by
    unfold Dev.routeOp
    split
    · exact he.same rfl rfl rfl
    · cases o.req <;> exact he.same rfl rfl rfl
  unfold Dev.sendOp
  exact .ite (h.same rfl rfl rfl) (hroute _ (h.same rfl rfl rfl))

theorem Dev.KeepsReturns.segOps (peer cls mid domain : Nat) (data : List Byte) {d : Dev} (h : c.KeepsReturns d) (l : List Nat) :
    c.KeepsReturns (d.segOps peer cls mid domain data l).2 := by
  induction l generalizing d with
  | nil => exact h
  | cons i l ih => exact ih (h.same (e := d.takeId.2) rfl rfl rfl)

theorem Dev.KeepsReturns.sendUp (h : c.KeepsReturns d) (data : List Byte) : c.KeepsReturns (d.sendUp data) := by
  have hmsg : ∀ (e : Dev) (peer cls mid domain : Nat), c.KeepsReturns e → c.KeepsReturns (e.sendMsgAs peer cls mid domain data) := fun e peer cls mid domain he =>
    .foldl (fun _ o _ ho => ho.sendOp o) ((he.segOps peer cls mid domain data (List.range (ceilDiv data.length 8192))).same rfl rfl rfl)
  unfold Dev.sendUp
  exact .ite h (.ite (h.same rfl rfl rfl) (hmsg _ _ _ _ _ (h.same rfl rfl rfl)))

/-- A message that is complete ends, another one is put back. -/
theorem Dev.KeepsReturns.endOrPut (h : c.KeepsReturns d) (m : WorkMsg) : c.KeepsReturns (if m.complete then d.finishMsg m else d.putWork m) := by
  have hgone : c.KeepsReturns { d with work := d.work.filter fun x => x.id ≠ m.id } := h.same rfl rfl rfl
  have hsend (e : Dev) (he : c.KeepsReturns e) (eid kind : Nat) (body : List Byte) : c.KeepsReturns (e.mgtSend eid kind body) :=
    .addCount (he.same (e := e.out _) rfl rfl rfl) pMgt 1 (by decide)
  refine .ite ?_ (h.same rfl rfl rfl)
  unfold Dev.finishMsg
  refine .ite ?_ hgone
  split
  · exact hsend _ hgone _ _ _
  · exact hgone.sendUp _

theorem Dev.KeepsReturns.settleSeq (f : Nat) {d : Dev} (h : c.KeepsReturns d) (ptn : Nat) : c.KeepsReturns (Dev.settleSeq f d ptn) := by
  induction f generalizing d with
  | zero => exact h
  | succ f ih =>
    unfold Dev.settleSeq
    split
    · exact h
    · split
      · exact h
      · exact .ite h (.ite (h.same rfl rfl rfl) (ih (h.endOrPut _)))

theorem Dev.KeepsReturns.post (h : c.KeepsReturns d) (msg item code info : Nat) : c.KeepsReturns (d.post msg item code info) := by
  unfold Dev.post
  split
  · exact h.same rfl rfl rfl
  · split
    · exact h
    · exact .ite h (.settleSeq _ (h.endOrPut _) _)

/-! ### A command of the serving engine's own (09, R180; 20, R429, R430) -/

theorem Dev.KeepsReturns.startWake (h : c.KeepsReturns d) {n : Nat} (hn : n < 112) : c.KeepsReturns (d.startWake n) := by
  have hdom : c.KeepsReturns (d.setDom n dsWaking) := h.setReg pPwr _ (by unfold rDom; omega)
  exact (hdom.addCount pPwr 1 (by decide)).same rfl rfl rfl

theorem Dev.KeepsReturns.waitWake (h : c.KeepsReturns d) (n : Nat) : c.KeepsReturns (d.waitWake n) := .ite h (h.same rfl rfl rfl)

/-- A demand on a domain moves registers of the power page alone. -/
theorem Dev.KeepsReturns.demand (h : c.KeepsReturns d) {n : Nat} (hn : n < 112) : c.KeepsReturns (d.demand n) := by
  have hwait : ∀ e : Dev, c.KeepsReturns e → c.KeepsReturns ((e.waitWake n).addCount pPwr 0x5C 1) := fun e he => (he.waitWake n).addCount pPwr 1 (by decide)
  have hpd110 (b : Prop) [Decidable b] : c.KeepsReturns (if b then d else d.startWake 110) := .ite h (h.startWake (by decide))
  have hself : c.KeepsReturns (d.stkDemand (n - 80)) := by
    unfold Dev.stkDemand
    extract_lets d₁ d₂
    have h₂ : c.KeepsReturns d₂ := (hpd110 _).same (d := d₁) rfl rfl rfl
    exact .ite h₂ (h₂.same rfl rfl rfl)
  unfold Dev.demand Dev.wakeDom
  exact .ite h (.ite h (.ite hself (.ite (h.waitWake n) (.ite (hwait _ (hpd110 _)) (.ite (hwait _ h) (h.startWake hn))))))

theorem Dev.KeepsReturns.setHeld (h : c.KeepsReturns d) (u : UnitKey) (q : Nat) (l : List HeldCmd) : c.KeepsReturns (d.setHeld u q l) :=
  .ite (h.same rfl rfl rfl) (.ite (h.same rfl rfl rfl) (h.same rfl rfl rfl))

theorem Dev.KeepsReturns.qAppend (h : c.KeepsReturns d) (u : UnitKey) (q : Nat) (cmds : List Nat) : c.KeepsReturns (d.qAppend u q cmds) := by
  have hpush : c.KeepsReturns (d.qPush u q cmds) := .ite (h.same rfl rfl rfl) (.ite (h.same rfl rfl rfl) (h.same rfl rfl rfl))
  unfold Dev.qAppend Dev.qArm
  split
  · exact hpush
  · exact .ite (.ite (hpush.same rfl rfl rfl) (.ite (hpush.same rfl rfl rfl) (hpush.same rfl rfl rfl))) hpush

/-- Commands put before a queue of a unit: they join it or wait, their domain wakes, and items that end have their outcome. -/
theorem Dev.KeepsReturns.feed (h : c.KeepsReturns d) {u : UnitKey} (hu : (uPage u).domain < 112) (q : Nat) (cmds : List (List Byte)) (msg item : Nat) :
    c.KeepsReturns (d.feed u q cmds msg item) := by
  have hdrain : ∀ e : Dev, c.KeepsReturns e → c.KeepsReturns (e.drainHeld u q) := fun e he => by
    unfold Dev.drainHeld
    exact .ite he (.foldl (fun f _ _ hf => .ite hf (hf.post _ _ _ _)) ((he.qAppend u q _).setHeld u q _))
  unfold Dev.feed
  exact hdrain _ (.setHeld (.ite h (h.demand hu)) u q _)

theorem domain_stack {s : Nat} (hs : s < 24) : (uPage (mU s)).domain < 112 := by
  rw [uPage_mvr hs]
  change 80 + (4 * s + 1) / 4 < 112
  omega

theorem Dev.KeepsReturns.engIssue (h : c.KeepsReturns d) (p : Nat) {s : Nat} (hs : s < 24) (cmd : Nat) (phys : Bool) : c.KeepsReturns (d.engIssue p s cmd phys).2 := by
  unfold Dev.engIssue
  extract_lets t w d₁
  have h₁ : c.KeepsReturns d₁ := h.same rfl rfl rfl
  exact h₁.feed (domain_stack hs) 0 _ 0 0

/-! ### Ended requests go back to FREE (09, R183; 10, R194, R212) -/

theorem lt_of_mem_ptnStacks {d : Dev} {p s : Nat} (h : s ∈ d.ptnStacks p) : s < 24 := (mem_maskBits.1 h).1

/-- The pieces of a range in stack memory name stacks of the device. -/
theorem lt_of_mem_stackRuns {d : Dev} {p pva n : Nat} {runs : List (Nat × Nat × Nat)} (h : d.stackRuns p pva n = some runs) : ∀ r ∈ runs, r.1 < 24 := by
  unfold Dev.stackRuns at h
  split at h
  · cases h
  · next segs _ =>
    split at h
    · next hall =>
      obtain rfl := Option.some.inj h
      have hseg : ∀ g ∈ segs, g.dpa / 2 ^ 37 < 24 := fun g hg =>
        lt_of_mem_ptnStacks (List.contains_iff_mem.1 (Bool.and_eq_true_iff.1 (List.all_eq_true.1 hall g hg)).2)
      intro r hr
      refine List.foldlRecOn (motive := fun l : List (Nat × Nat × Nat) => ∀ r ∈ l, r.1 < 24) segs _ (by simp) (fun l hl g hg => ?_) r (List.mem_reverse.1 hr)
      rcases l with _ | ⟨⟨k, a, m⟩, l⟩
      · simpa using hseg g hg
      · dsimp only
        have htop : k < 24 := hl (k, a, m) (List.mem_cons_self ..)
        have hrest : ∀ r ∈ l, r.1 < 24 := fun r hr => hl r (List.mem_cons_of_mem _ hr)
        split
        · exact List.forall_mem_cons.2 ⟨htop, hrest⟩
        · exact List.forall_mem_cons.2 ⟨hseg g hg, hl⟩
    · cases h

/-- The pieces that the copies of an install read: those of its source, or the whole source by the lowest stack. -/
theorem lt_of_mem_copyRuns {d : Dev} {p src bytes : Nat} {r : Nat × Nat × Nat}
    (hr : r ∈ (d.stackRuns p src bytes).getD [(((d.ptnStacks p).head?).getD 0, src, bytes)]) : r.1 < 24 := by
  cases hruns : d.stackRuns p src bytes with
  | some runs =>
    rw [hruns] at hr
    exact lt_of_mem_stackRuns hruns r hr
  | none =>
    rw [hruns] at hr
    obtain rfl := List.mem_singleton.1 hr
    cases hstacks : d.ptnStacks p with
    | nil => exact (by decide : 0 < 24)
    | cons s l => exact lt_of_mem_ptnStacks (hstacks ▸ List.mem_cons_self ..)

theorem Dev.KeepsReturns.adpPlace {p slot src bytes : Nat} {e : Dev} (he : d.adpPlace p slot src bytes = some e) (h : c.KeepsReturns d) : c.KeepsReturns e := by
  unfold Dev.adpPlace at he
  extract_lets units at he
  split at he
  · cases he
  · obtain rfl := Option.some.inj he
    refine .modPx ?_ p (fun _ => rfl) fun _ => rfl
    refine List.foldlRecOn (motive := fun a : List Nat × Dev => c.KeepsReturns a.2) _ _ h fun a ha r hr => ha.engIssue p (lt_of_mem_copyRuns hr) _ false

theorem Dev.KeepsReturns.adpSweep (h : c.KeepsReturns d) (p : Nat) : c.KeepsReturns (d.adpSweep p) := by
  unfold Dev.adpSweep
  extract_lets dead d₁
  refine .ite h (.foldl (fun e w _ he => ?_) (h.modPx p (fun _ => rfl) fun _ => rfl))
  split
  · exact he
  · next hplace => exact .modPx (.adpPlace hplace he) p (fun _ => rfl) fun _ => rfl

theorem Dev.KeepsReturns.freeEnded (h : c.KeepsReturns d) (p : Nat) : c.KeepsReturns (d.freeEnded p) := by
  unfold Dev.freeEnded
  refine .adpSweep (.foldl (fun e i _ he => ?_) h) p
  extract_lets r e₁
  have h₁ : c.KeepsReturns e₁ := .ite (he.modPx p (fun _ => rfl) fun _ => rfl) he
  exact h₁.same rfl rfl rfl

end Keeps

/-! ### What leaves a serving window and the step under way (11, R231–R234) -/

/-- From `d` to `d'` partition `p` keeps its step and PTN_SLICE.WINDOW. -/
structure Dev.KeepsWindow (p : Nat) (d d' : Dev) : Prop where
  step : (d'.px p).step = (d.px p).step
  window : d'.windowOpen p = d.windowOpen p

/-- The bits above a field at [2:0] stay. -/
theorem wbit_wput_group (w : Word) (v : Nat) : wbit (wput w 2 0 v) 3 = wbit w 3 := by
  simp only [wbit, wput, setFld, BitVec.getLsbD, BitVec.toNat_ofNat, Nat.testBit_eq_decide_div_mod_eq, decide_eq_decide]
  omega

section Window
variable {p : Nat} {c d : Dev}

theorem Dev.KeepsWindow.refl (p : Nat) (d : Dev) : d.KeepsWindow p d := ⟨rfl, rfl⟩

/-- What touches neither registers nor partitions. -/
theorem Dev.KeepsWindow.same (h : c.KeepsWindow p d) {e : Dev} (hcsr : e.csr = d.csr) (hptnx : e.ptnx = d.ptnx) : c.KeepsWindow p e :=
  ⟨by rw [Dev.px, hptnx]; exact h.step, by rw [Dev.windowOpen, Dev.bit, Dev.reg, hcsr]; exact h.window⟩

theorem Dev.KeepsWindow.ite {b : Prop} [Decidable b] {e : Dev} (h : c.KeepsWindow p d) (h' : c.KeepsWindow p e) : c.KeepsWindow p (if b then d else e) := by
  split
  · exact h
  · exact h'

theorem Dev.KeepsWindow.foldl {α : Type} {f : Dev → α → Dev} {l : List α} (hf : ∀ e a, c.KeepsWindow p e → c.KeepsWindow p (f e a)) (h : c.KeepsWindow p d) :
    c.KeepsWindow p (l.foldl f d) := Dev.foldl_holds (P := c.KeepsWindow p) (fun e a _ => hf e a) h

theorem Dev.KeepsWindow.modPx (h : c.KeepsWindow p d) (q : Nat) {f : PtnX → PtnX} (hstep : ∀ x, (f x).step = x.step) : c.KeepsWindow p (d.modPx q f) := by
  refine ⟨?_, h.window⟩
  rw [Dev.px_modPx, ← h.step]
  split
  · next hp => rw [hstep, hp]
  · rfl

theorem Dev.KeepsWindow.addCount (h : c.KeepsWindow p d) (q : Page) {off : Nat} (n : Nat) (hoff : off % 0x1000 ≠ 0x3A8) : c.KeepsWindow p (d.addCount q off n) := by
  refine ⟨by rw [d.regsOnly_addCount q off n]; exact h.step, ?_⟩
  have hplace : (pPtn p).base + 0x3A8 ≠ q.base + off := by
    have hq := q.base_mod
    have hp := (pPtn p).base_mod
    omega
  rw [← h.window, Dev.windowOpen, Dev.bit, Dev.addCount]
  split
  · rfl
  · rw [Dev.reg_setReg_ne _ _ hplace]
    rfl

/-- The group that holds the slice stands below WINDOW in its register. -/
theorem Dev.KeepsWindow.setGroup (h : c.KeepsWindow p d) (g : Nat) : c.KeepsWindow p (d.setF (pPtn p) 0x3A8 2 0 g) := by
  refine ⟨h.step, ?_⟩
  rw [← h.window, Dev.windowOpen, Dev.bit, Dev.setF, Dev.reg_setReg_same, wbit_wput_group]
  rfl

theorem Dev.KeepsWindow.modJob (h : c.KeepsWindow p d) (j : Nat) (f : Job → Job) : c.KeepsWindow p (d.modJob j f) := h.same rfl rfl

theorem Dev.KeepsWindow.accrueOverrun (h : c.KeepsWindow p d) (j : Nat) (still : Option Nat) : c.KeepsWindow p (d.accrueOverrun j still) := by
  unfold Dev.accrueOverrun
  split
  · exact h
  · exact (h.modJob j _).addCount _ _ (by decide)

theorem Dev.KeepsWindow.setElig (h : c.KeepsWindow p d) (j : Nat) (on : Bool) : c.KeepsWindow p (d.setElig j on) :=
  .ite h (.ite ((h.accrueOverrun j none).modJob j _) (.ite (h.modJob j _) h))

theorem Dev.KeepsWindow.allOff (h : c.KeepsWindow p d) (q : Nat) : c.KeepsWindow p (d.allOff q) := .foldl (fun _ j he => he.setElig j false) h

theorem Dev.KeepsWindow.settleSlice (h : c.KeepsWindow p d) : c.KeepsWindow p (d.settleSlice p) := by
  unfold Dev.settleSlice
  split
  · exact h
  · exact .modPx (.foldl (fun _ j he => (he.accrueOverrun j _).modJob j _) h) p fun _ => rfl

theorem Dev.KeepsWindow.sliceJobsOn (h : c.KeepsWindow p d) : c.KeepsWindow p (d.sliceJobsOn p) := .foldl (fun _ j he => .ite (he.setElig j true) he) h

theorem Dev.KeepsWindow.beginSlice (h : c.KeepsWindow p d) : c.KeepsWindow p (d.beginSlice p) := by
  unfold Dev.beginSlice
  extract_lets resume
  split
  · exact .sliceJobsOn (h.modPx p fun _ => rfl)
  · split
    · exact h.modPx p fun _ => rfl
    · exact .sliceJobsOn ((h.setGroup _).modPx p fun _ => rfl)

theorem Dev.KeepsWindow.schedule (h : c.KeepsWindow p d) : c.KeepsWindow p (d.schedule p) := by
  unfold Dev.schedule
  split
  · exact h
  · split
    · exact h.beginSlice
    · exact .ite h.settleSlice.sliceJobsOn (.beginSlice (((h.settleSlice.allOff p).setGroup _).modPx p fun _ => rfl))

end Window

/-- A serving window is open once it opens (R231). -/
theorem Dev.windowOpen_openWindow (d : Dev) (p : Nat) : (d.openWindow p).windowOpen p = true := by
  unfold Dev.openWindow
  extract_lets had d₁ g d₂ d₃
  have hwindow : d₃.windowOpen p = true := (d₂.allOff p).bit_setBit_same (pPtn p) 0x3A8 3 true (by decide)
  have hkeep : d₃.KeepsWindow p ((d₃.modPx p fun x => { x with sliceAt := none, windowAt := d₃.ao }).setElig (d₃.px p).job true) :=
    (((Dev.KeepsWindow.refl p d₃).modPx p (f := fun x => { x with sliceAt := none, windowAt := d₃.ao }) fun _ => rfl)).setElig _ true
  exact hkeep.window.trans hwindow

/-- The serving window is closed once it closes, and the step is as it was (R231). -/
theorem Dev.closeWindow_effect (d : Dev) (p : Nat) : ((d.closeWindow p).px p).step = (d.px p).step ∧ (d.closeWindow p).windowOpen p = false := by
  have helig := (Dev.KeepsWindow.refl p d).setElig (d.px p).job false
  have hsched := (Dev.KeepsWindow.refl p ((d.setElig (d.px p).job false).setBit (pPtn p) 0x3A8 3 false)).schedule
  exact ⟨hsched.step.trans helig.step, hsched.window.trans ((d.setElig (d.px p).job false).bit_setBit_same (pPtn p) 0x3A8 3 false (by decide))⟩

/-! ### A partition without a step stays without one (10, R195, R199; 09, R183) -/

/-- No step of partition `p` is in flight. -/
def Dev.NoStep (d : Dev) (p : Nat) : Prop := (d.px p).step = none

section NoStep
variable {p : Nat} {d : Dev}

/-- What leaves what the partitions hold beside their registers. -/
theorem Dev.NoStep.same (h : d.NoStep p) {e : Dev} (hptnx : e.ptnx = d.ptnx) : e.NoStep p := by
  rw [Dev.NoStep, Dev.px, hptnx]
  exact h

theorem Dev.NoStep.of_returns (h : d.NoStep p) {e : Dev} (hkeep : d.KeepsReturns e) : e.NoStep p := (hkeep.step p).trans h

theorem Dev.NoStep.ite {b : Prop} [Decidable b] {e : Dev} (h : d.NoStep p) (h' : e.NoStep p) : (if b then d else e).NoStep p := by
  split
  · exact h
  · exact h'

theorem Dev.NoStep.foldl {α : Type} {f : Dev → α → Dev} {l : List α} (hf : ∀ e a, e.NoStep p → (f e a).NoStep p) (h : d.NoStep p) : (l.foldl f d).NoStep p :=
  Dev.foldl_holds (P := fun e => e.NoStep p) (fun e a _ => hf e a) h

theorem Dev.NoStep.modPx (h : d.NoStep p) (q : Nat) {f : PtnX → PtnX} (hstep : ∀ x, (f x).step = x.step) : (d.modPx q f).NoStep p := by
  rw [Dev.NoStep, Dev.px_modPx]
  split
  · next hp => rw [hstep, ← hp]; exact h
  · exact h

theorem Dev.NoStep.regs (h : d.NoStep p) {e : Dev} (hregs : d.RegsOnly e) : e.NoStep p := h.same (by rw [hregs])

theorem Dev.NoStep.writeNum (h : d.NoStep p) (a n v : Nat) : (d.writeNum a n v).NoStep p := h.same (by
  have hbytes := d.bytesOnly_writeMem agDevice a (leBytes n v) false
  rw [Dev.writeNum, hbytes])

/-! #### Pages and handles that are released (09, R172, R187, R188) -/

theorem Dev.NoStep.dropLeafGo (q pva l f : Nat) (h : d.NoStep p) (t : Nat) : (Dev.dropLeafGo q pva l f d t).NoStep p := by
  induction f generalizing t with
  | zero => exact h.writeNum _ 8 0
  | succ f ih =>
    unfold Dev.dropLeafGo
    exact .ite (h.writeNum _ 8 0) (.ite (.ite (.modPx ((ih _).writeNum _ 8 0) q fun _ => rfl) (ih _)) h)

theorem Dev.NoStep.dropLeaf (h : d.NoStep p) (q pva l : Nat) : (d.dropLeaf q pva l).NoStep p := h.dropLeafGo q pva l 3 _

theorem Dev.NoStep.unmapPages (h : d.NoStep p) (q : Nat) (pages : List (Nat × Nat)) (region sregion : Nat) (w16 : Bool) (req : Option Nat) (step : Nat) :
    (d.unmapPages q pages region sregion w16 req step).NoStep p := by
  unfold Dev.unmapPages
  refine .ite h ?_
  extract_lets d₁
  have h₁ : d₁.NoStep p := .foldl (fun e x he => by
    have hleaf := he.dropLeaf q (region + x.1 * 2 ^ 21) 1
    exact .modPx (.ite hleaf (hleaf.dropLeaf q _ 0)) q fun _ => rfl) h
  change (Dev.modPx (d₁.startInval q _ none).2 q _).NoStep p
  refine .modPx ?_ q ?_
  · exact h₁.same rfl
  · exact fun _ => rfl

theorem Dev.NoStep.releasePages (h : d.NoStep p) (q i : Nat) (f : Nat → Bool) : (d.releasePages q i f).NoStep p := by
  unfold Dev.releasePages
  extract_lets r l d₁
  have h₁ : d₁.NoStep p := h.same rfl
  exact h₁.unmapPages q l _ _ _ _ _

theorem Dev.NoStep.setHrec (h : d.NoStep p) (q i v : Nat) : (d.setHrec q i v).NoStep p := by
  unfold Dev.setHrec
  split
  · exact h.writeNum _ 64 v
  · exact h

theorem Dev.NoStep.detach (h : d.NoStep p) (q i : Nat) : (d.detach q i).NoStep p := by
  unfold Dev.detach
  split
  · exact h
  · exact (h.setHrec q _ _).same rfl

theorem Dev.NoStep.post (h : d.NoStep p) (msg item code info : Nat) : (d.post msg item code info).NoStep p :=
  h.of_returns ((Dev.KeepsReturns.refl d).post msg item code info)

theorem Dev.NoStep.publishLost (h : d.NoStep p) (q i : Nat) : (d.publishLost q i).NoStep p :=
  .foldl (fun _ b he => he.post b.msg b.item cPrefixUnreached 0) (h.modPx q fun _ => rfl)

theorem Dev.NoStep.endReq (h : d.NoStep p) (q i state cause : Nat) : (d.endReq q i state cause).NoStep p := by
  unfold Dev.endReq
  extract_lets r d₁ d₂
  have h₂ : d₂.NoStep p := h.same rfl
  have h₃ := (h₂.detach q i).publishLost q i
  exact .releasePages (d := Dev.modRx _ i _) (h₃.same rfl) q i _

/-! #### Records, batches that close, guarantees (10, R199, R204; 11, R229, R230) -/

theorem Dev.NoStep.recBytes (h : d.NoStep p) (c : Rec) : (d.recBytes c).2.NoStep p := by
  unfold Dev.recBytes
  cases c.attach <;> exact h.same rfl

theorem Dev.NoStep.sendUp (h : d.NoStep p) (data : List Byte) : (d.sendUp data).NoStep p := h.of_returns ((Dev.KeepsReturns.refl d).sendUp data)

theorem Dev.NoStep.sendRecords (h : d.NoStep p) (q batch step e : Nat) (l : List Rec) : (d.sendRecords q batch step e l).NoStep p := by
  unfold Dev.sendRecords Dev.toGlue
  refine .ite (h.same rfl) (.sendUp ?_ _)
  exact List.foldlRecOn (motive := fun a : List Byte × Dev => a.2.NoStep p) _ _ (h.same rfl) fun a ha c _ => ha.recBytes c

theorem Dev.NoStep.freeEnded (h : d.NoStep p) (q : Nat) : (d.freeEnded q).NoStep p := h.of_returns ((Dev.KeepsReturns.refl d).freeEnded q)

theorem Dev.NoStep.endNow (h : d.NoStep p) (q i state cause code : Nat) : (d.endNow q i state cause code).NoStep p :=
  .freeEnded ((h.endReq q i state cause).sendRecords q _ _ _ _) q

theorem Dev.NoStep.voidOff (h : d.NoStep p) (q c : Nat) : (d.voidOff q c).NoStep p := by
  have hbit : (d.setBit (pPtn q) 0x3A4 c false).NoStep p := h.regs (d.regsOnly_setBit _ _ _ _)
  exact .ite h (.ite (hbit.same rfl) hbit)

theorem Dev.NoStep.closeBatch (h : d.NoStep p) (n : Nat) : (d.closeBatch n).NoStep p := by
  unfold Dev.closeBatch
  split
  · exact h
  · extract_lets q d₁ d₂ d₃ m
    have h₁ : d₁.NoStep p := .foldl (fun _ _ he => he.same rfl) (h.same rfl)
    have h₂ : d₂.NoStep p := h₁.same rfl
    have h₃ : d₃.NoStep p := .foldl (fun _ m he => .ite (he.endNow q m.2 rsDone rcReleased 0) he) h₂
    exact .ite (h₃.voidOff q 9) h₃

end NoStep

/-! ### STEP_RELEASE (11, R228; 10, R200) -/

/-- A fold that takes the next element when it is the first or comes before the one it has: an element before every other is chosen. -/
theorem foldl_takeFirst {α : Type} {time : α → Nat} {f : Option α → α → Option α} (hnone : ∀ b, f none b = some b)
    (hsome : ∀ x b, f (some x) b = if time b < time x then some b else some x) {l : List α} {b : α} (hb : b ∈ l) (hfirst : ∀ x ∈ l, x ≠ b → time b < time x) :
    l.foldl f none = some b := by
  have hgo : ∀ (l : List α) (a : Option α), (∀ x ∈ l, x ≠ b → time b < time x) → a = some b ∨ b ∈ l ∧ (∀ x, a = some x → time b < time x) →
      l.foldl f a = some b := by
    intro l
    induction l with
    | nil =>
      rintro a - (rfl | ⟨hb, -⟩)
      · rfl
      · cases hb
    | cons y l ih =>
      intro a hfirst ha
      refine ih _ (fun x hx => hfirst x (List.mem_cons_of_mem _ hx)) ?_
      by_cases hy : y = b
      · subst hy
        refine .inl ?_
        obtain rfl | ⟨-, hlater⟩ := ha
        · simp [hsome]
        · cases a with
          | none => exact hnone y
          | some x => exact (hsome x y).trans (if_pos (hlater x rfl))
      · have hlate := hfirst y (List.mem_cons_self ..) hy
        obtain rfl | ⟨hmem, hlater⟩ := ha
        · exact .inl ((hsome b y).trans (if_neg (by omega)))
        · refine .inr ⟨(List.mem_cons.1 hmem).resolve_left (Ne.symm hy), fun x hx => ?_⟩
          cases a with
          | none => exact Option.some.inj ((hnone y).symm.trans hx) ▸ hlate
          | some z =>
            rw [hsome] at hx
            split at hx
            · exact Option.some.inj hx ▸ hlate
            · exact hlater x hx
  exact hgo l none hfirst (.inr ⟨hb, nofun⟩)

section Release
variable {d : Dev} {p : Nat} (hlehr : d.lehr = 0) (hactive : d.ptnState p = stActive) (hon : d.stacksOn p = true) (hjob : (d.job (d.px p).job).faulted = false)
  (hidle : (d.px p).step = none)
include hlehr hactive hon hjob hidle

/-- The time at which a batch is due, in release order. -/
abbrev dueTime (b : Nat × Batch) : Nat := max (b.2.opened + b.2.k * b.2.period) b.2.ready

/-- Without a due batch nothing is released. -/
theorem Dev.stepRelease_none (hdue : ∀ b ∈ d.ptnBatches p, d.ao < b.2.opened + b.2.k * b.2.period) : d.stepRelease p = d := by
  have hnone : (d.ptnBatches p).filter (fun b => b.2.opened + b.2.k * b.2.period ≤ d.ao) = [] := by
    rw [List.filter_eq_nil_iff]
    intro b hb
    have := hdue b hb
    simp only [decide_eq_true_eq]
    omega
  unfold Dev.stepRelease
  extract_lets d₁ start due time
  have h₁ : d₁ = d := if_neg (by simp [hjob])
  clear_value start d₁
  subst h₁
  rw [if_neg (by simp [hlehr, hactive]), if_neg (by simp [hon]), hidle]
  dsimp only
  rw [show due = [] from hnone]
  rfl

/-- The step of batch `b` of number `n` as it is released (R228). -/
abbrev Dev.newStep (d : Dev) (p n : Nat) (b : Batch) : StepRun :=
  { id := (d.px p).nextStep, batch := n, k := b.k, stage := 0, at_ := d.ao, mems := [], voids := d.voidsAtStart p b }

/-- The window opens and the new step stands, before its stage 1 (R228, R231). -/
abbrev Dev.stepOpens (d : Dev) (p n : Nat) (b : Batch) : Dev :=
  (d.openWindow p).modPx p fun x => { x with nextStep := x.nextStep + 1, step := some (d.newStep p n b) }

/-- The batch that is due before every other, whose members await no fill and whose image is read, has its stage 1 done. -/
theorem Dev.stepRelease_starts {n : Nat} {b : Batch} {g : Prog} {e f : Dev} {im : Image} {ms : List Member} {cs : List Nat} (hmem : (n, b) ∈ d.ptnBatches p)
    (hdue : b.opened + b.k * b.period ≤ d.ao)
    (hfirst : ∀ x ∈ d.ptnBatches p, x.2.opened + x.2.k * x.2.period ≤ d.ao → x ≠ (n, b) → dueTime (n, b) < dueTime x)
    (hprog : (d.stepOpens p n b).batchProg b = some g) (hfill : ∀ m ∈ b.mems, ((d.stepOpens p n b).rx m.2).fill = none)
    (himage : (d.stepOpens p n b).image p g = (e, .ok im)) (hstage : e.stage1 b im = (f, ms, cs)) :
    d.stepRelease p = f.modPx p fun x => { x with step := some { d.newStep p n b with stage := 1, mems := ms, copies := cs } } := by
  have hmem : (n, b) ∈ (d.ptnBatches p).filter fun b => b.2.opened + b.2.k * b.2.period ≤ d.ao := List.mem_filter.2 ⟨hmem, decide_eq_true hdue⟩
  have hfirst : ∀ x ∈ (d.ptnBatches p).filter fun b => b.2.opened + b.2.k * b.2.period ≤ d.ao, x ≠ (n, b) → dueTime (n, b) < dueTime x := fun x hx hne =>
    hfirst x (List.mem_filter.1 hx).1 (of_decide_eq_true (List.mem_filter.1 hx).2) hne
  unfold Dev.stepRelease
  extract_lets d₁ start due time
  have h₁ : d₁ = d := if_neg (by simp [hjob])
  have hstart : start (d.stepOpens p n b) n b (d.newStep p n b) =
      f.modPx p fun x => { x with step := some { d.newStep p n b with stage := 1, mems := ms, copies := cs } } := by
    unfold start
    rw [hprog]
    dsimp only
    split
    · next hfilling =>
      obtain ⟨m, hm, hbusy⟩ := List.any_eq_true.1 hfilling
      rw [hfill m hm] at hbusy
      cases hbusy
    · rw [himage]
      dsimp only
      rw [hstage]
  clear_value start d₁
  subst h₁
  rw [if_neg (by simp [hlehr, hactive]), if_neg (by simp [hon]), hidle]
  dsimp only
  split
  · next hnone => cases hnone.symm.trans (foldl_takeFirst (fun _ => rfl) (fun _ _ => rfl) hmem hfirst)
  · next hsome =>
    cases hsome.symm.trans (foldl_takeFirst (fun _ => rfl) (fun _ _ => rfl) hmem hfirst)
    exact hstart

end Release

theorem exec_stepRelease (s : State) (p : Fin 24) : exec (.stepRelease p) s = .next ⟨s.dev.stepRelease p, s.pending⟩ := rfl
theorem exec_stage2Start (s : State) (p : Fin 24) : exec (.stage2Start p) s = .next ⟨s.dev.stage2Start p, s.pending⟩ := rfl
theorem exec_samplingStart (s : State) (p : Fin 24) : exec (.samplingStart p) s = .next ⟨s.dev.samplingStart p, s.pending⟩ := rfl
theorem exec_commitPublish (s : State) (p : Fin 24) : exec (.commitPublish p) s = .next ⟨s.dev.commitPublish p, s.pending⟩ := rfl
theorem exec_pageReturn (s : State) (p : Fin 24) : exec (.pageReturn p) s = .next ⟨s.dev.pageReturn p, s.pending⟩ := rfl

/-! ### STAGE2_START (09, R180; 11, R224; 12, R253) -/

/-- The step stands in stage 2 with its number, its batch and its batch's step number. -/
def Dev.InStage2 (d : Dev) (p : Nat) (t : StepRun) : Prop := ∃ u, (d.px p).step = some u ∧ u.stage = 2 ∧ u.batch = t.batch ∧ u.k = t.k ∧ u.id = t.id

/-- Whether the program's segments are issued or its members fail, the step stands in stage 2. -/
theorem Dev.stage2_inStage2 (d : Dev) (b : Batch) (g : Prog) (t : StepRun) : (d.stage2 b g t).InStage2 b.ptn t := by
  have hstands : ∀ (e : Dev) (ms : List Member), (e.modPx b.ptn fun y => { y with step := some { t with stage := 2, mems := ms } }).InStage2 b.ptn t := fun e ms =>
    ⟨{ t with stage := 2, mems := ms }, congrArg PtnX.step (Dev.px_modPx_same ..), rfl, rfl, rfl, rfl⟩
  unfold Dev.stage2
  extract_lets p d₁ ms lost
  split
  · exact hstands _ _
  · split
    · exact hstands _ _
    · exact hstands _ t.mems

/-- A step in stage 1 whose copies have completed has its stage 2. -/
theorem Dev.stage2Start_eq_stage2 {d : Dev} {p : Nat} {t : StepRun} {b : Batch} {g : Prog} (hstep : (d.px p).step = some t) (hbatch : tget? d.batches t.batch = some b)
    (hprog : d.batchProg b = some g) (hon : d.stacksOn p = true) (hstage : t.stage = 1) (hjob : (d.job (d.px p).job).faulted = false)
    (hcopies : d.engBusy t.copies = false) : d.stage2Start p = d.stage2 b g t := by
  rw [Dev.stage2Start, hstep]
  dsimp only
  rw [hbatch]
  dsimp only
  rw [hprog]
  dsimp only
  rw [if_neg (by simp [hstage]), if_neg (by simp [hon]), if_neg (by simp [hjob]), if_neg (by simp [hstage, hcopies])]

/-! ### SAMPLING_START (09, R165; 10, R195, R206) -/

@[simp] theorem Member.req_failWith (m : Member) (c : Nat) : (m.failWith c).req = m.req := by
  unfold Member.failWith
  split <;> rfl

/-- Once every member is drawn the step stands in stage 3 with them; a member that waits for a COMPACT list that cannot be issued fails in place. -/
theorem Dev.samplingStart_inStage3 {d f : Dev} {p : Nat} {t : StepRun} {b : Batch} {ms : List Member} (hstep : (d.px p).step = some t) (hbatch : tget? d.batches t.batch = some b)
    (hon : d.stacksOn p = true) (hstage : t.stage = 2) (hquiet : d.servingQuiet p = true)
    (hwait : ∀ x ∈ t.mems.flatMap (d.sampleRanges b), d.pvaWait p x.1 x.2 = none) (hdrawn : Dev.sampleAll b t.mems d = (f, some ms)) :
    ∃ (e : Dev) (mems : List Member), d.samplingStart p = (e.modPx p fun y => { y with step := some { t with stage := 3, mems := mems } }) ∧
      mems.map Member.req = ms.map Member.req ∧ ((∀ m ∈ ms, m.fail.isSome = true ∨ m.path = []) → mems = ms) := by
  rw [Dev.samplingStart, hstep]
  dsimp only
  rw [hbatch]
  dsimp only
  rw [if_neg (by simp [hstage, hquiet]), if_neg (by simp [hon]), List.findSome?_eq_none_iff.2 hwait]
  dsimp only
  rw [hdrawn]
  dsimp only
  split
  · exact ⟨_, ms, rfl, rfl, fun _ => rfl⟩
  · split
    · exact ⟨_, ms, rfl, rfl, fun _ => rfl⟩
    · next hpaths =>
      split
      · next c _ =>
        refine ⟨_, _, rfl, ?_, fun hnone => absurd (List.all_eq_true.2 fun m hm => ?_) hpaths⟩
        · rw [List.map_map]
          refine List.map_congr_left fun m _ => ?_
          dsimp only [Function.comp_apply]
          split
          · rfl
          · exact m.req_failWith c
        · simpa using hnone m hm
      · exact ⟨_, ms, rfl, rfl, fun _ => rfl⟩

/-! ### COMMIT_PUBLISH (09, R171; 10, R195, R199) -/

/-- The end of a step: its batch goes on or closes, its causes of R229 end, and the window closes (R171, R195, R231). -/
def Dev.stepOver (d : Dev) (p : Nat) (t : StepRun) (e : Nat) : Dev :=
  let d := (d.modPx p fun y => { y with step := none }).freeEnded p
  let d := { d with batches := tmap d.batches fun k x => if k = t.batch then { x with k := x.k + 1, ready := e } else x }
  let d := (((d.ptnBatches p).filter fun x => x.2.mems.isEmpty || (x.1 = t.batch && x.2.closing)).map Prod.fst).foldl Dev.closeBatch d
  (((d.voidOff p 4).voidOff p 6).voidOff p 7).closeWindow p

/-- Whatever its members come to, a commit ends the step. -/
theorem Dev.commit_stepOver (d : Dev) (p : Nat) (t : StepRun) : ∃ e : Dev, d.commit p t = e.stepOver p t d.ao := ⟨_, rfl⟩

/-- No step is in flight and the window is closed. -/
theorem Dev.stepOver_effect (d : Dev) (p : Nat) (t : StepRun) (e : Nat) : ((d.stepOver p t e).px p).step = none ∧ (d.stepOver p t e).windowOpen p = false := by
  unfold Dev.stepOver
  extract_lets d₁ d₂ d₃
  have h₁ : d₁.NoStep p := by
    refine .freeEnded ?_ p
    rw [Dev.NoStep, Dev.px_modPx_same]
  have h₃ : d₃.NoStep p := .foldl (fun _ n he => he.closeBatch n) (h₁.same (e := d₂) rfl)
  obtain ⟨hstep, hwindow⟩ := (((d₃.voidOff p 4).voidOff p 6).voidOff p 7).closeWindow_effect p
  exact ⟨hstep.trans (((h₃.voidOff p 4).voidOff p 6).voidOff p 7), hwindow⟩

/-- A step in stage 3 whose commands have completed and whose writes have left commits. -/
theorem Dev.commitPublish_eq_commit {d : Dev} {p : Nat} {t : StepRun} {b : Batch} (hstep : (d.px p).step = some t) (hbatch : tget? d.batches t.batch = some b)
    (hon : d.stacksOn p = true) (hstage : t.stage = 3) (hquiet : d.servingQuiet p = true) (hsent : d.stepSent p = true) : d.commitPublish p = d.commit p t := by
  rw [Dev.commitPublish, hstep]
  dsimp only
  rw [if_neg (by simp [hbatch, hstage, hquiet, hsent]), if_neg (by simp [hon])]

/-! ### PAGE_RETURN (09, R172, R183, R190) -/

/-- The return of a page is over: its entry is invalidated and its step has ended. -/
def Dev.pageBack (d : Dev) (p : Nat) (r : PageRet) : Bool := !(d.invals.any fun v => v.id = r.inval) && (r.step = 0 || d.stepId p ≠ r.step)

/-- The pages that are over leave the list of those awaited, and the pool when no holder is left. -/
def Dev.takeBack (d : Dev) (p : Nat) : Dev :=
  d.modPx p fun x => { x with
    rets := x.rets.filter fun r => !d.pageBack p r
    pool := ((d.px p).rets.filter (d.pageBack p)).foldl (fun t r => if tgetD t r.page 0 = 0 then tdel t r.page else t) x.pool }

/-- The pages that return, counted in KVP_RETURNS. -/
def Dev.countBack (d : Dev) (p : Nat) : Dev :=
  if ((d.px p).rets.filter (d.pageBack p)).isEmpty then d.takeBack p else (d.takeBack p).addCount (pKvp p) 0x6C ((d.px p).rets.filter (d.pageBack p)).length

theorem Dev.pageReturn_eq (d : Dev) (p : Nat) : d.pageReturn p = (d.countBack p).freeEnded p := rfl

theorem Dev.regsOnly_countBack (d : Dev) (p : Nat) : (d.takeBack p).RegsOnly (d.countBack p) := by
  unfold Dev.countBack
  split
  · exact .refl _
  · exact Dev.regsOnly_addCount _ _ _ _

theorem Dev.px_countBack (d : Dev) (p : Nat) : (d.countBack p).px p = (d.takeBack p).px p := by
  rw [Dev.regsOnly_countBack d p]
  rfl

/-- KVP_RETURNS counts the pages that return. -/
theorem Dev.reg_countBack {d : Dev} {p : Nat} (h : d.scrubbed (pKvp p) = false) :
    (d.countBack p).reg (pKvp p) 0x6C = d.reg (pKvp p) 0x6C + BitVec.ofNat 32 ((d.px p).rets.filter (d.pageBack p)).length := by
  unfold Dev.countBack
  split
  · next hnone =>
    rw [List.isEmpty_iff.1 hnone]
    exact (BitVec.add_zero _).symm
  · exact Dev.reg_addCount_same (d := d.takeBack p) h _ _

/-- Without requests and adapter versions nothing is freed. -/
theorem Dev.freeEnded_idle {d : Dev} {p : Nat} (hreqs : d.ptnReqs p = []) (hadps : (d.px p).adps = []) : d.freeEnded p = d := by
  unfold Dev.freeEnded Dev.adpSweep
  rw [hreqs, List.filter_nil]
  exact if_pos (by simp [Dev.each, hadps])

/-- The table of requests is cut by registers of the serving engine, which no page return moves. -/
theorem Dev.ptnReqs_countBack (d : Dev) {p : Nat} (hp : p < 24) : (d.countBack p).ptnReqs p = d.ptnReqs p := by
  have hreg : (d.countBack p).reg (pSrv 0) (0x100 + 4 * p) = d.reg (pSrv 0) (0x100 + 4 * p) := by
    have hplace : (pSrv 0).base + (0x100 + 4 * p) ≠ (pKvp p).base + 0x6C := by
      have hsrv := (pSrv 0).base_mod
      have hkvp := (pKvp p).base_mod
      omega
    unfold Dev.countBack Dev.addCount
    split
    · rfl
    · split
      · rfl
      · exact Dev.reg_setReg_ne _ _ hplace
  unfold Dev.ptnReqs Dev.reqCount Dev.reqFirst Dev.getF
  rw [hreg]

/-- One page without holders returns: it alone leaves the pool. -/
theorem Dev.pool_pageReturn_one {d : Dev} {p : Nat} {r : PageRet} (hp : p < 24) (hrets : (d.px p).rets = [r]) (hback : d.pageBack p r = true) (hfree : d.holders p r.page = 0)
    (hreqs : d.ptnReqs p = []) (hadps : (d.px p).adps = []) : ((d.pageReturn p).px p).pool = tdel (d.px p).pool r.page := by
  have hpx : (d.countBack p).px p = _ := (d.px_countBack p).trans (Dev.px_modPx_same ..)
  rw [Dev.pageReturn_eq, Dev.freeEnded_idle ((d.ptnReqs_countBack hp).trans hreqs) ((congrArg PtnX.adps hpx).trans hadps), hpx, hrets]
  simp only [List.filter_cons, hback, if_true, List.filter_nil, List.foldl_cons, List.foldl_nil]
  exact if_pos hfree

/-- The pages that are over return and are counted; memory and the others stay. -/
theorem Dev.pageReturn_effect (d : Dev) (p : Nat) : ((d.pageReturn p).px p).rets = (d.px p).rets.filter (fun r => !d.pageBack p r) ∧ (d.pageReturn p).mem = d.mem ∧
    (d.scrubbed (pKvp p) = false → (d.pageReturn p).reg (pKvp p) 0x6C = d.reg (pKvp p) 0x6C + BitVec.ofNat 32 ((d.px p).rets.filter (d.pageBack p)).length) := by
  have hfreed := (Dev.KeepsReturns.refl (d.countBack p)).freeEnded p
  refine ⟨?_, hfreed.mem.trans (Dev.regsOnly_countBack d p).mem, fun h => (hfreed.reg_returns p).trans (Dev.reg_countBack h)⟩
  rw [Dev.pageReturn_eq, hfreed.rets, Dev.px_countBack, Dev.takeBack, Dev.px_modPx_same]

end Sys2Proof.Machine

namespace Sys2Proof.Proofs

open Sys2Proof Sys2Proof.Machine

/-- Settles O37: each release or stage is the branch of its function that the state selects; what it does besides (segments issued, members drawn and ended, requests freed) leaves the step, the window and the pages that wait as stated. -/
theorem stepsRunTheirStages : Obligations.StepsRunTheirStages := by
  unfold Obligations.StepsRunTheirStages
  refine ⟨fun s p hlehr hactive hon hjob hidle => ⟨?nothing, ?release⟩, fun s p t b g hstep hbatch hptn hprog hon => ⟨?stage2, ?sampling, ?commit⟩, fun s p back hback => ?pages⟩
  case nothing =>
    intro hdue
    rw [exec_stepRelease, Dev.stepRelease_none hlehr hactive hon hjob hidle hdue]
  case release =>
    rintro n b g d e f im ms cs t hmem - hdue hfirst rfl rfl hprog hfill himage hstage
    have hrun := Dev.stepRelease_starts hlehr hactive hon hjob hidle hmem hdue hfirst hprog hfill himage hstage
    rw [exec_stepRelease, hrun]
    exact ⟨_, { s.dev.newStep p n b with stage := 1, mems := ms, copies := cs }, rfl, rfl, s.dev.windowOpen_openWindow p,
      congrArg PtnX.step (Dev.px_modPx_same ..), rfl, rfl, rfl, rfl, rfl, rfl, rfl, rfl, rfl⟩
  case stage2 =>
    intro hstage hjob hcopies
    obtain ⟨u, hu⟩ := s.dev.stage2_inStage2 b g t
    rw [exec_stage2Start, Dev.stage2Start_eq_stage2 hstep hbatch hprog hon hstage hjob hcopies]
    exact ⟨_, u, rfl, hptn ▸ hu⟩
  case sampling =>
    intro hstage hquiet hwait f ms hdrawn
    obtain ⟨e, mems, hrun, hreqs, hsame⟩ := Dev.samplingStart_inStage3 hstep hbatch hon hstage hquiet hwait hdrawn
    rw [exec_samplingStart, hrun]
    exact ⟨_, { t with stage := 3, mems := mems }, rfl, congrArg PtnX.step (Dev.px_modPx_same ..), rfl, rfl, rfl, hreqs, hsame⟩
  case commit =>
    intro hstage hquiet hsent
    obtain ⟨e, hover⟩ := s.dev.commit_stepOver p t
    rw [exec_commitPublish, Dev.commitPublish_eq_commit hstep hbatch hon hstage hquiet hsent, hover]
    exact ⟨_, rfl, e.stepOver_effect p t s.dev.ao⟩
  case pages =>
    obtain rfl : back = s.dev.pageBack p := funext hback
    obtain ⟨hrets, hmem, hcount⟩ := s.dev.pageReturn_effect p
    refine ⟨_, exec_pageReturn s p, rfl, hrets, hmem, hcount, fun r hone hback hfree hreqs hadps => ?_⟩
    dsimp only
    rw [Dev.pool_pageReturn_one p.isLt hone hback hfree hreqs hadps]
    exact ⟨tget?_tdel_same _ _, fun k hk => tget?_tdel_ne _ hk⟩

end Sys2Proof.Proofs

/-! SUPPORT. Adapters and punty handles (09, R186–R189; 10, R212–R214): what leaves the tables of the partitions, the versions of an adapter slot, the items and the install point branch by branch; and the statement about them. -/

namespace Sys2Proof.Machine

/-! ### What leaves the tables of the partitions as they are -/

theorem Dev.RegsOnly.ptnx {d d' : Dev} (h : d.RegsOnly d') : d'.ptnx = d.ptnx := by rw [h]

@[simp] theorem Dev.ptnx_addCount (d : Dev) (p : Page) (off n : Nat) : (d.addCount p off n).ptnx = d.ptnx := (d.regsOnly_addCount p off n).ptnx

@[simp] theorem Dev.ptnx_sendOp (d : Dev) (o : HeldOp) : (d.sendOp o).ptnx = d.ptnx := by
  have hroute (e : Dev) : (e.routeOp o).ptnx = e.ptnx := by
    unfold Dev.routeOp
    split
    · rfl
    · cases o.req <;> rfl
  unfold Dev.sendOp
  dsimp only
  split
  · rfl
  · exact hroute _

@[simp] theorem Dev.ptnx_segOps (d : Dev) (peer cls mid domain : Nat) (data : List Byte) (l : List Nat) : (d.segOps peer cls mid domain data l).2.ptnx = d.ptnx := by
  induction l generalizing d with
  | nil => rfl
  | cons i l ih => exact ih d.takeId.2

theorem Dev.ptnx_sendMsgAs (d : Dev) (peer cls mid domain : Nat) (data : List Byte) : (d.sendMsgAs peer cls mid domain data).ptnx = d.ptnx :=
  Dev.foldl_holds (P := fun e => e.ptnx = d.ptnx) (fun e o _ he => (e.ptnx_sendOp o).trans he)
    (d.ptnx_segOps peer cls mid domain data (List.range (ceilDiv data.length 8192)))

@[simp] theorem Dev.ptnx_sendUp (d : Dev) (data : List Byte) : (d.sendUp data).ptnx = d.ptnx := by
  unfold Dev.sendUp
  split
  · rfl
  · split
    · rfl
    · exact Dev.ptnx_sendMsgAs ..

/-- A message that is complete ends, another one is put back. -/
theorem Dev.ptnx_endOrPut (d : Dev) (m : WorkMsg) : (if m.complete then d.finishMsg m else d.putWork m).ptnx = d.ptnx := by
  unfold Dev.finishMsg
  dsimp only
  split
  · split
    · split
      · exact Dev.ptnx_addCount ..
      · exact Dev.ptnx_sendUp ..
    · rfl
  · rfl

theorem Dev.ptnx_settleSeq (f : Nat) (d : Dev) (ptn : Nat) : (Dev.settleSeq f d ptn).ptnx = d.ptnx := by
  induction f generalizing d with
  | zero => rfl
  | succ f ih =>
    unfold Dev.settleSeq
    split
    · rfl
    · split
      · rfl
      · split
        · rfl
        · dsimp only
          split
          · rfl
          · exact (ih _).trans (Dev.ptnx_endOrPut ..)

@[simp] theorem Dev.ptnx_post (d : Dev) (msg item code info : Nat) : (d.post msg item code info).ptnx = d.ptnx := by
  unfold Dev.post
  split
  · rfl
  · split
    · rfl
    · split
      · rfl
      · exact (Dev.ptnx_settleSeq _ _ _).trans (Dev.ptnx_endOrPut ..)

/-! #### Wakes and queues (04, R62; 20, R429, R430) -/

@[simp] theorem Dev.ptnx_startWake (d : Dev) (n : Nat) : (d.startWake n).ptnx = d.ptnx := Dev.ptnx_addCount _ pPwr 0x54 1

@[simp] theorem Dev.ptnx_waitWake (d : Dev) (n : Nat) : (d.waitWake n).ptnx = d.ptnx := by
  unfold Dev.waitWake
  split <;> rfl

theorem Dev.ptnx_stkDemand (d : Dev) (s : Nat) : (d.stkDemand s).ptnx = d.ptnx := by
  unfold Dev.stkDemand
  extract_lets d₁ d₂
  have h₁ : d₁.ptnx = d.ptnx := by
    dsimp only [d₁]
    split
    · rfl
    · exact d.ptnx_startWake 110
  split <;> exact h₁

@[simp] theorem Dev.ptnx_demand (d : Dev) (n : Nat) : (d.demand n).ptnx = d.ptnx := by
  unfold Dev.demand Dev.wakeDom
  dsimp only
  split_ifs <;> simp [Dev.ptnx_stkDemand]

@[simp] theorem Dev.ptnx_setHeld (d : Dev) (u : UnitKey) (q : Nat) (l : List HeldCmd) : (d.setHeld u q l).ptnx = d.ptnx := by
  unfold Dev.setHeld
  split_ifs <;> rfl

@[simp] theorem Dev.ptnx_qAppend (d : Dev) (u : UnitKey) (q : Nat) (cmds : List Nat) : (d.qAppend u q cmds).ptnx = d.ptnx := by
  have hpush : (d.qPush u q cmds).ptnx = d.ptnx := by
    unfold Dev.qPush
    split_ifs <;> rfl
  unfold Dev.qAppend Dev.qArm
  split
  · exact hpush
  · dsimp only
    split_ifs <;> exact hpush

theorem Dev.ptnx_drainHeld (d : Dev) (u : UnitKey) (q : Nat) : (d.drainHeld u q).ptnx = d.ptnx := by
  unfold Dev.drainHeld
  split
  · rfl
  · refine Dev.foldl_holds (P := fun e => e.ptnx = d.ptnx) (fun e x _ he => ?_) (by simp)
    split
    · exact he
    · exact (e.ptnx_post ..).trans he

theorem Dev.ptnx_feed (d : Dev) (u : UnitKey) (q : Nat) (cmds : List (List Byte)) (msg item : Nat) : (d.feed u q cmds msg item).ptnx = d.ptnx := by
  unfold Dev.feed
  rw [Dev.ptnx_drainHeld, Dev.ptnx_setHeld]
  split
  · rfl
  · exact d.ptnx_demand _

/-- A command of the serving engine's own touches no table of a partition. -/
theorem Dev.ptnx_engIssue (d : Dev) (p s cmd : Nat) (phys : Bool) : (d.engIssue p s cmd phys).2.ptnx = d.ptnx := Dev.ptnx_feed ..

/-! ### The versions of a slot (10, R212, R213) -/

theorem find?_eq_self {α : Type} [DecidableEq α] {l : List α} {a : α} (h : a ∈ l) : l.find? (fun b => b = a) = some a := by
  obtain ⟨b, hb⟩ := Option.isSome_iff_exists.1 (List.find?_isSome (p := fun b => decide (b = a)).2 ⟨a, h, decide_eq_true rfl⟩)
  rw [hb, of_decide_eq_true (List.find?_some (p := fun b => decide (b = a)) hb)]

/-- A version that is chosen among those of a slot stands in the slot. -/
theorem slot_of_find? {l : List AdpVer} {k : Nat} {sel : AdpVer → Bool} {v : AdpVer} (h : l.find? (fun w => w.slot = k && sel w) = some v) : v.slot = k :=
  of_decide_eq_true (Bool.and_eq_true_iff.1 (List.find?_some (p := fun w : AdpVer => decide (w.slot = k) && sel w) h)).1

/-- A version of slot `k` is no longer current; the others stay. -/
def AdpVer.notCurrent (k : Nat) (v : AdpVer) : AdpVer := if v.slot = k then { v with current := false } else v

@[simp] theorem AdpVer.slot_notCurrent (k : Nat) (v : AdpVer) : (v.notCurrent k).slot = v.slot := by
  unfold AdpVer.notCurrent
  split <;> rfl

theorem AdpVer.notCurrent_slot {k : Nat} {v : AdpVer} (h : v.slot = k) : (v.notCurrent k).current = false := by rw [AdpVer.notCurrent, if_pos h]

theorem AdpVer.notCurrent_other {k : Nat} {v : AdpVer} (h : v.slot ≠ k) : v.notCurrent k = v := if_neg h

section Versions
variable {d e : Dev} {p : Nat}

theorem Dev.adpCurrent_of_adps (h : (e.px p).adps = (d.px p).adps) (k : Nat) : e.adpCurrent p k = d.adpCurrent p k := by
  rw [Dev.adpCurrent, Dev.adpCurrent, h]

/-- A placed version joins the partition's list behind the others, and is not yet current. -/
theorem Dev.adps_adpPlace {slot src bytes : Nat} (he : d.adpPlace p slot src bytes = some e) :
    ∃ v : AdpVer, (e.px p).adps = (d.px p).adps ++ [v] ∧ v.current = false := by
  unfold Dev.adpPlace at he
  extract_lets units at he
  split at he
  · cases he
  · next k _ =>
    dsimp only at he
    generalize hissued : List.foldl _ _ _ = issued at he
    have hptnx : issued.2.ptnx = d.ptnx :=
      hissued ▸ List.foldlRecOn (motive := fun a : List Nat × Dev => a.2.ptnx = d.ptnx) _ _ rfl fun a ha r _ => (a.2.ptnx_engIssue ..).trans ha
    obtain rfl := Option.some.inj he
    refine ⟨⟨slot, 0, k, units, 0, false, true, issued.1⟩, ?_, rfl⟩
    rw [Dev.px_modPx_same, Dev.px, hptnx]
    rfl

theorem Dev.adpCurrent_adpPlace {slot src bytes : Nat} (he : d.adpPlace p slot src bytes = some e) (k : Nat) : e.adpCurrent p k = d.adpCurrent p k := by
  obtain ⟨v, hadps, hv⟩ := Dev.adps_adpPlace he
  simp [Dev.adpCurrent, hadps, List.find?_append, hv]

/-- A sweep frees no current version, and what it places is not current. -/
theorem Dev.adpCurrent_adpSweep (d : Dev) (p k : Nat) : (d.adpSweep p).adpCurrent p k = d.adpCurrent p k := by
  unfold Dev.adpSweep
  extract_lets dead d₁
  have hfiltered : d₁.adpCurrent p k = d.adpCurrent p k := by
    rw [Dev.adpCurrent, Dev.px_modPx_same, List.find?_filter, Dev.adpCurrent]
    congr 1
    funext v
    cases hv : v.current <;> simp [dead, hv]
  split
  · rfl
  · refine Dev.foldl_holds (P := fun f => f.adpCurrent p k = d.adpCurrent p k) (fun f w _ hf => ?_) hfiltered
    split
    · exact hf
    · next hplace => exact (Dev.adpCurrent_of_adps (by rw [Dev.px_modPx_same]) k).trans ((Dev.adpCurrent_adpPlace hplace k).trans hf)

end Versions

/-! ### Items that are due (14, R303) -/

/-- A command that serves its due item leaves what its function makes of the item. -/
theorem State.upd_serveItem_due {s : State} {p k : Nat} {i : Item} {e : Dev} (h : s.dev.dueItem p k = some (i, e)) (f : Dev → Item → Dev) :
    (s.upd fun d => d.serveItem p k f) = .next ⟨f e i, s.pending⟩ :=
  congrArg (fun d => Host.Outcome.next (State.mk d s.pending)) (Dev.serveItem_due h f)

/-! ### ADAPTER_INSTALL (10, R213) -/

section Install
variable {d : Dev} {i : Item}

theorem Dev.adapterInstall_installing (h : (d.px i.ptn).adps.any (fun v => v.slot = numAt i.body 0 1 && v.installing) = true) :
    d.adapterInstall i = d.endItem i cAdapterInvalid (numAt i.body 0 1 + 512) := by
  unfold Dev.adapterInstall
  exact if_pos (by rw [h, Bool.or_true])

variable (hwait : (d.px i.ptn).adpWaits.any (fun w => w.slot = numAt i.body 0 1) = false)
  (hinst : (d.px i.ptn).adps.any (fun v => v.slot = numAt i.body 0 1 && v.installing) = false)
include hwait hinst

theorem Dev.adapterInstall_badSource (h : numAt i.body 8 8 % 4096 ≠ 0 ∨ numAt i.body 0x10 4 = 0 ∨ d.adpUnits i.ptn * 65536 < numAt i.body 0x10 4) :
    d.adapterInstall i = d.endItem i cAdapterInvalid (numAt i.body 0 1 + 768) := by
  unfold Dev.adapterInstall
  dsimp only
  rw [hwait, hinst, if_neg (by decide), if_pos]
  rcases h with h | h | h <;> simp [h]

variable (halign : numAt i.body 8 8 % 4096 = 0) (hsome : numAt i.body 0x10 4 ≠ 0) (hfits : numAt i.body 0x10 4 ≤ d.adpUnits i.ptn * 65536)
  (hpva : numAt i.body 8 8 < 2 ^ 48) (hruns : (d.stackRuns i.ptn (numAt i.body 8 8) (numAt i.body 0x10 4)).isSome = true)
include halign hsome hfits hpva hruns

/-- An install whose source is good is placed, or joins those that wait for room. -/
theorem Dev.adapterInstall_good :
    (∀ f, d.adpPlace i.ptn (numAt i.body 0 1) (numAt i.body 8 8) (numAt i.body 0x10 4) = some f → d.adapterInstall i = f.endItem i 0 0) ∧
    (d.adpPlace i.ptn (numAt i.body 0 1) (numAt i.body 8 8) (numAt i.body 0x10 4) = none →
      d.adapterInstall i = (d.modPx i.ptn fun x => { x with adpWaits := x.adpWaits ++ [⟨numAt i.body 0 1, numAt i.body 8 8, numAt i.body 0x10 4⟩] }).endItem i
        cAdapterBusy (numAt i.body 0 1)) := by
  have hgood : ¬ (decide (numAt i.body 8 8 % 4096 ≠ 0) || decide (numAt i.body 0x10 4 = 0) || decide (d.adpUnits i.ptn * 65536 < numAt i.body 0x10 4) ||
      decide (2 ^ 48 ≤ numAt i.body 8 8) || (d.stackRuns i.ptn (numAt i.body 8 8) (numAt i.body 0x10 4)).isNone) = true := by
    simpa [halign, hsome, hfits, Option.isSome_iff_ne_none.1 hruns] using hpva
  unfold Dev.adapterInstall
  dsimp only
  rw [hwait, hinst, if_neg (by decide), if_neg hgood]
  exact ⟨fun f hplace => by rw [hplace], fun hplace => by rw [hplace]⟩

end Install

/-! ### ADAPTER_INSTALL_POINT (10, R213) -/

section InstallPoint
variable {d : Dev} {p k : Nat} {v : AdpVer}

/-- The version that follows in a slot: the counter wraps after 65,535 to 1. -/
def Dev.nextVer (d : Dev) (p k : Nat) : Nat := if 65535 ≤ tgetD (d.px p).adpVers k 0 then 1 else tgetD (d.px p).adpVers k 0 + 1

/-- A version at its install point. -/
def Dev.installed (d : Dev) (p k : Nat) (v : AdpVer) : AdpVer := { v with ver := d.nextVer p k, current := true, installing := false, copies := [] }

/-- What the install point of `v` makes of a version: `v` is installed, the others of its slot are not current. -/
def Dev.afterInstall (d : Dev) (p k : Nat) (v w : AdpVer) : AdpVer :=
  if w = v then d.installed p k w else w.notCurrent k

/-- The versions and the counter of the slot at the install point of `v`. -/
def Dev.atInstallPoint (d : Dev) (p k : Nat) (v : AdpVer) : Dev :=
  d.modPx p fun x => { x with adpVers := tput x.adpVers k (d.nextVer p k), adps := x.adps.map (d.afterInstall p k v) }

variable (hv : ((d.px p).adps.find? fun x => x.slot = k && x.installing) = some v)
include hv

theorem Dev.adpInstallPoint_busy (hbusy : d.engBusy v.copies = true) : d.adpInstallPoint p k = d := by
  unfold Dev.adpInstallPoint
  rw [hv]
  exact if_pos hbusy

theorem Dev.adpInstallPoint_done (hbusy : d.engBusy v.copies = false) :
    d.adpInstallPoint p k = ((d.atInstallPoint p k v).record p 0x0004 (leBytes 2 k ++ leBytes 2 (d.nextVer p k))).adpSweep p := by
  unfold Dev.adpInstallPoint
  rw [hv]
  exact if_neg (Bool.eq_false_iff.1 hbusy)

/-- The first current version of the slot is now the installed one: the others of the slot are retiring. -/
theorem Dev.adpCurrent_atInstallPoint : (d.atInstallPoint p k v).adpCurrent p k = some (d.installed p k v) := by
  have honly : (fun w : AdpVer => decide (w.slot = k) && w.current) ∘ d.afterInstall p k v = fun w => decide (w = v) := by
    funext w
    dsimp only [Function.comp, Dev.afterInstall]
    split_ifs with hw
    · simp [hw, Dev.installed, slot_of_find? hv]
    · by_cases hk : w.slot = k <;> simp [hw, hk, AdpVer.notCurrent_slot]
  rw [Dev.adpCurrent, Dev.atInstallPoint, Dev.px_modPx_same, List.find?_map, honly, find?_eq_self (List.mem_of_find?_eq_some hv), Option.map_some,
    Dev.afterInstall, if_pos rfl]

end InstallPoint

theorem exec_adapterInstallPoint (s : State) (p : Fin 24) (k : Fin 256) : exec (.adapterInstallPoint p k) s = .next ⟨s.dev.adpInstallPoint p k, s.pending⟩ := rfl

/-! ### ADAPTER_REMOVE (10, R214) -/

/-- The slot without a current version and without an install that waits. -/
def Dev.adpRemoved (d : Dev) (p slot : Nat) : Dev :=
  d.modPx p fun x => { x with
    adpWaits := x.adpWaits.filter fun w => w.slot ≠ slot
    adps := x.adps.map (AdpVer.notCurrent slot) }

theorem Dev.adapterRemove_eq (d : Dev) (i : Item) : d.adapterRemove i = ((d.adpRemoved i.ptn (numAt i.body 0 1)).adpSweep i.ptn).endItem i 0 0 := rfl

theorem Dev.adpCurrent_adpRemoved (d : Dev) (p slot k : Nat) : (d.adpRemoved p slot).adpCurrent p k = if k = slot then none else d.adpCurrent p k := by
  rw [Dev.adpCurrent, Dev.adpRemoved, Dev.px_modPx_same, List.find?_map]
  split
  · next hk =>
    rw [Option.map_eq_none_iff, List.find?_eq_none]
    intro v _
    by_cases hv : v.slot = slot <;> simp [hv, hk, AdpVer.notCurrent_slot]
  · next hk =>
    have hsame : (fun v : AdpVer => decide (v.slot = k) && v.current) ∘ AdpVer.notCurrent slot = fun v => decide (v.slot = k) && v.current := by
      funext v
      by_cases hv : v.slot = slot
      · simp [hv, Ne.symm hk]
      · simp [AdpVer.notCurrent_other hv]
    rw [hsame, Dev.adpCurrent]
    cases hfind : (d.px p).adps.find? fun v => decide (v.slot = k) && v.current with
    | none => rfl
    | some v => rw [Option.map_some, AdpVer.notCurrent_other (slot_of_find? hfind ▸ hk)]

theorem Dev.adpWaits_adpRemoved (d : Dev) (p slot : Nat) : ((d.adpRemoved p slot).px p).adpWaits.any (fun w => w.slot = slot) = false := by
  rw [Dev.adpRemoved, Dev.px_modPx_same]
  simp

/-! ### Punty items (09, R187, R189) -/

section Punty
variable {d : Dev} {i : Item}

theorem Dev.puntyPublish_unreached (h : rqLive (d.rq (numAt i.body 0 2)) = false ∨ rqMaxlen (d.rq (numAt i.body 0 2)) < numAt i.body 4 3) :
    d.puntyPublish i = d.endItem i cPrefixUnreached 0 := by
  unfold Dev.puntyPublish
  refine if_pos ?_
  rcases h with h | h <;> simp [h]

theorem Dev.puntyPublish_registered (howned : (d.ptnReqs i.ptn).contains (numAt i.body 0 2) = true) (hlive : rqLive (d.rq (numAt i.body 0 2)) = true)
    (hmax : numAt i.body 4 3 ≤ rqMaxlen (d.rq (numAt i.body 0 2))) (hmode : d.cow i.ptn = true ∨ rqT (d.rq (numAt i.body 0 2)) ≤ numAt i.body 4 3) :
    d.puntyPublish i = (d.modPx i.ptn fun x => { x with
      pubs := x.pubs ++ [⟨numAt i.body 0 2, rqGen (d.rq (numAt i.body 0 2)), numAt i.body 4 3, i.msg, i.item⟩] }).itemGoesOn i.msg := by
  unfold Dev.puntyPublish
  dsimp only
  rw [howned, hlive, if_neg (by simp [hmax]), if_neg]
  rcases hmode with h | h <;> simp [h]

theorem Dev.puntyRelease_invalid (h : d.handleOk i.ptn (numAt i.body 0 8) = false) : d.puntyRelease i = d.endItem i cHandleInvalid 0 := if_pos (by rw [h]; rfl)

theorem Dev.puntyRelease_valid (h : d.handleOk i.ptn (numAt i.body 0 8) = true) : d.puntyRelease i =
    ((d.dropHandle i.ptn (hdIndex (numAt i.body 0 8))).setHrec i.ptn (hdIndex (numAt i.body 0 8)) ((hdGen (numAt i.body 0 8) + 1) % 65536 * 2 ^ 16)).endItem i 0 0 :=
  if_neg (by simp [h])

theorem Dev.puntyPin_invalid (h : d.handleOk i.ptn (numAt i.body 0 8) = false) : d.puntyPin i = d.endItem i cHandleInvalid 0 := if_pos (by rw [h]; rfl)

theorem Dev.puntyPin_valid (h : d.handleOk i.ptn (numAt i.body 0 8) = true) : d.puntyPin i =
    (d.setHrec i.ptn (hdIndex (numAt i.body 0 8)) (setFld (d.hrec i.ptn (hdIndex (numAt i.body 0 8))) 2 2 (numAt i.body 8 1))).endItem i 0 0 :=
  if_neg (by simp [h])

end Punty

end Sys2Proof.Machine

namespace Sys2Proof.Proofs

open Sys2Proof Sys2Proof.Machine

/-- Settles O38: each item is the branch of its function that the device selects; an install point makes its version the slot's first current one, and the sweep after it frees no current version and places none. -/
theorem adaptersAndHandles : Obligations.AdaptersAndHandles := by
  unfold Obligations.AdaptersAndHandles
  refine ⟨?install, fun s p k v hv => ⟨fun hbusy => ?busy, fun hbusy => ?point⟩, fun s p i e hdue => ?remove, ?publish, ?release, ?pin⟩
  case install =>
    rintro s p i e _ _ _ hdue rfl rfl rfl
    have hrun : exec (.adapterInstall p) s = .next ⟨e.adapterInstall i, s.pending⟩ := State.upd_serveItem_due hdue _
    rw [hrun]
    refine ⟨fun hinst => by rw [Dev.adapterInstall_installing hinst], fun hwait hinst => ⟨fun hbad => by rw [Dev.adapterInstall_badSource hwait hinst hbad], ?_⟩⟩
    intro halign hsome hfits hpva hruns
    obtain ⟨hplaced, hwaits⟩ := Dev.adapterInstall_good hwait hinst halign hsome hfits hpva hruns
    refine ⟨fun f hplace => by rw [hplaced f hplace], fun hfull => ⟨_, by rw [hwaits hfull], ?_, ?_⟩⟩ <;> rw [Dev.px_modPx_same]
  case busy => rw [exec_adapterInstallPoint, Dev.adpInstallPoint_busy hv hbusy]
  case point =>
    rw [exec_adapterInstallPoint, Dev.adpInstallPoint_done hv hbusy]
    exact ⟨_, rfl, (Dev.adpCurrent_adpSweep ..).trans (Dev.adpCurrent_atInstallPoint hv), ((Dev.KeepsReturns.refl _).adpSweep p).mem.trans rfl⟩
  case remove =>
    have hrun : exec (.adapterRemove p) s = .next ⟨e.adapterRemove i, s.pending⟩ := State.upd_serveItem_due hdue _
    rw [hrun, Dev.adapterRemove_eq]
    exact ⟨_, rfl, by rw [Dev.adpCurrent_adpRemoved, if_pos rfl], fun k hk => by rw [Dev.adpCurrent_adpRemoved, if_neg hk], e.adpWaits_adpRemoved _ _⟩
  case publish =>
    rintro s p i e _ _ hdue rfl rfl
    have hrun : exec (.puntyPublish p) s = .next ⟨e.puntyPublish i, s.pending⟩ := State.upd_serveItem_due hdue _
    rw [hrun]
    refine ⟨fun h => by rw [Dev.puntyPublish_unreached h], fun howned hlive hmax hmode => ?_⟩
    rw [Dev.puntyPublish_registered howned hlive hmax hmode]
    exact ⟨_, rfl, congrArg PtnX.pubs (Dev.px_modPx_same ..), rfl, rfl⟩
  case release =>
    rintro s p i e _ hdue rfl
    have hrun : exec (.puntyRelease p) s = .next ⟨e.puntyRelease i, s.pending⟩ := State.upd_serveItem_due hdue _
    rw [hrun]
    exact ⟨fun h => by rw [Dev.puntyRelease_invalid h], fun h => by rw [Dev.puntyRelease_valid h]⟩
  case pin =>
    rintro s p i e _ hdue rfl
    have hrun : exec (.puntyPin p) s = .next ⟨e.puntyPin i, s.pending⟩ := State.upd_serveItem_due hdue _
    rw [hrun]
    exact ⟨fun h => by rw [Dev.puntyPin_invalid h], fun h => by rw [Dev.puntyPin_valid h]⟩

end Sys2Proof.Proofs

/-! SUPPORT. The request table (10, R193): fields of an entry, what leaves the requests and the open batches, the end of a request. -/

namespace Sys2Proof.Machine

/-! ### Fields of an entry (00, R3; 10, R193) -/

theorem testBit_fld (v hi lo j : Nat) : (fld v hi lo).testBit j = (decide (j < hi + 1 - lo) && v.testBit (j + lo)) := by
  rw [fld, Nat.testBit_mod_two_pow, Nat.testBit_div_two_pow]

theorem testBit_setFld (v : Nat) {hi lo : Nat} (hlo : lo ≤ hi) (x j : Nat) :
    (setFld v hi lo x).testBit j = if lo ≤ j ∧ j ≤ hi then x.testBit (j - lo) else v.testBit j := by
  have hlow : v % 2 ^ lo < 2 ^ lo := Nat.mod_lt _ (Nat.two_pow_pos lo)
  have hpow : 2 ^ (hi + 1) = 2 ^ lo * 2 ^ (hi + 1 - lo) := by rw [← pow_add]; congr 1; omega
  have hsplit : setFld v hi lo x = 2 ^ lo * (2 ^ (hi + 1 - lo) * (v / 2 ^ (hi + 1)) + x % 2 ^ (hi + 1 - lo)) + v % 2 ^ lo := by
    rw [setFld, hpow]
    ring
  rw [hsplit, Nat.testBit_two_pow_mul_add _ hlow, Nat.testBit_two_pow_mul_add _ (Nat.mod_lt _ (Nat.two_pow_pos _)), Nat.testBit_mod_two_pow,
    Nat.testBit_mod_two_pow, Nat.testBit_div_two_pow]
  by_cases hbelow : j < lo
  · simp [hbelow, Nat.not_le.2 hbelow]
  · by_cases habove : j ≤ hi
    · simp [hbelow, Nat.not_lt.1 hbelow, habove, show j - lo < hi + 1 - lo by omega]
    · simp [hbelow, habove, show ¬ j - lo < hi + 1 - lo by omega, show j - lo - (hi + 1 - lo) + (hi + 1) = j by omega]

theorem fld_setFld_same (v : Nat) {hi lo : Nat} (hlo : lo ≤ hi) (x : Nat) : fld (setFld v hi lo x) hi lo = x % 2 ^ (hi + 1 - lo) := by
  refine Nat.eq_of_testBit_eq fun j => ?_
  rw [testBit_fld, testBit_setFld v hlo, Nat.testBit_mod_two_pow]
  by_cases hj : j < hi + 1 - lo
  · rw [if_pos (by omega), Nat.add_sub_cancel]
  · simp [hj]

theorem fld_setFld_ne (v x : Nat) {hi lo hi' lo' : Nat} (h : lo ≤ hi ∧ (hi < lo' ∨ hi' < lo)) : fld (setFld v hi lo x) hi' lo' = fld v hi' lo' := by
  refine Nat.eq_of_testBit_eq fun j => ?_
  rw [testBit_fld, testBit_fld, testBit_setFld v h.1]
  by_cases hj : j < hi' + 1 - lo'
  · rw [if_neg (by omega)]
  · simp [hj]

/-- A bit is a field of one bit. -/
theorem bitOf_eq_fld (v i : Nat) : bitOf v i = decide (fld v i i = 1) := by
  rw [bitOf, fld, Nat.add_sub_cancel_left, pow_one]

theorem bitOf_setFld_ne (v x : Nat) {hi lo i : Nat} (h : lo ≤ hi ∧ (hi < i ∨ i < lo)) : bitOf (setFld v hi lo x) i = bitOf v i := by
  rw [bitOf_eq_fld, bitOf_eq_fld, fld_setFld_ne v x h]

theorem bitOf_setFld_same (v x i : Nat) : bitOf (setFld v i i x) i = decide (x % 2 = 1) := by
  rw [bitOf_eq_fld, fld_setFld_same v le_rfl, Nat.add_sub_cancel_left, pow_one]

theorem fld_ofNat (v : Nat) {n hi : Nat} (lo : Nat) (h : hi < n) : fld (BitVec.ofNat n v).toNat hi lo = fld v hi lo := by
  refine Nat.eq_of_testBit_eq fun j => ?_
  rw [BitVec.toNat_ofNat, testBit_fld, testBit_fld, Nat.testBit_mod_two_pow]
  by_cases hj : j < hi + 1 - lo
  · simp [hj, show j + lo < n by omega]
  · simp [hj]

theorem bitOf_ofNat (v : Nat) {n i : Nat} (h : i < n) : bitOf (BitVec.ofNat n v).toNat i = bitOf v i := by
  rw [bitOf_eq_fld, bitOf_eq_fld, fld_ofNat v i h]

@[simp] theorem Dev.rq_setRq_same (d : Dev) (i v : Nat) : (d.setRq i v).rq i = (BitVec.ofNat 2048 v).toNat :=
  congrArg BitVec.toNat (tgetD_tput_same d.reqTab i _ 0)

theorem Dev.rq_setRq_ne (d : Dev) {i k : Nat} (v : Nat) (h : k ≠ i) : (d.setRq i v).rq k = d.rq k := by
  rw [Dev.rq, Dev.setRq, tgetD_tput_ne _ _ _ h, Dev.rq]

@[simp] theorem Dev.setRq_mem (d : Dev) (i v : Nat) : (d.setRq i v).mem = d.mem := rfl
@[simp] theorem Dev.setRq_csr (d : Dev) (i v : Nat) : (d.setRq i v).csr = d.csr := rfl
@[simp] theorem Dev.setRx_mem (d : Dev) (i : Nat) (x : ReqX) : (d.setRx i x).mem = d.mem := rfl
@[simp] theorem Dev.setRx_csr (d : Dev) (i : Nat) (x : ReqX) : (d.setRx i x).csr = d.csr := rfl
@[simp] theorem Dev.rx_setRx_same (d : Dev) (i : Nat) (x : ReqX) : (d.setRx i x).rx i = x := tgetD_tput_same ..
@[simp] theorem Dev.rq_setRx (d : Dev) (i k : Nat) (x : ReqX) : (d.setRx i x).rq k = d.rq k := rfl

/-- A request that is in no batch stays so when its entry, or another, changes elsewhere. -/
theorem Dev.rqInBatch_setRq (d : Dev) {i k v : Nat} (hk : rqInBatch (d.rq k) = false) (hv : rqInBatch (d.rq i) = false → rqInBatch v = false) :
    rqInBatch ((d.setRq i v).rq k) = false := by
  by_cases hki : k = i
  · subst hki
    rw [Dev.rq_setRq_same, rqInBatch, bitOf_ofNat _ (by decide)]
    exact hv hk
  · rw [d.rq_setRq_ne v hki, hk]

/-! ### What leaves the requests and the open batches as they are -/

/-- From `d` to `d'` the request table, the open batches and the openings that wait stay. -/
structure Dev.KeepsRequests (d d' : Dev) : Prop where
  reqTab : d'.reqTab = d.reqTab
  batches : d'.batches = d.batches
  openWaits : d'.openWaits = d.openWaits

section Keeps
variable {c d : Dev}

theorem Dev.KeepsRequests.refl (d : Dev) : d.KeepsRequests d := ⟨rfl, rfl, rfl⟩

theorem Dev.KeepsRequests.same (h : c.KeepsRequests d) {e : Dev} (hreq : e.reqTab = d.reqTab) (hbat : e.batches = d.batches) (hwait : e.openWaits = d.openWaits) :
    c.KeepsRequests e := ⟨hreq.trans h.reqTab, hbat.trans h.batches, hwait.trans h.openWaits⟩

theorem Dev.KeepsRequests.ite {b : Prop} [Decidable b] {e : Dev} (h : c.KeepsRequests d) (h' : c.KeepsRequests e) : c.KeepsRequests (if b then d else e) := by
  split
  · exact h
  · exact h'

theorem Dev.KeepsRequests.foldl {α : Type} {f : Dev → α → Dev} {l : List α} (hf : ∀ e a, c.KeepsRequests e → c.KeepsRequests (f e a)) (h : c.KeepsRequests d) :
    c.KeepsRequests (l.foldl f d) := Dev.foldl_holds (P := c.KeepsRequests) (fun e a _ => hf e a) h

theorem Dev.KeepsRequests.rq (h : c.KeepsRequests d) (k : Nat) : d.rq k = c.rq k := by rw [Dev.rq, Dev.rq, h.reqTab]

theorem Dev.KeepsRequests.regs (h : c.KeepsRequests d) {e : Dev} (hregs : d.RegsOnly e) : c.KeepsRequests e := by
  rw [hregs]
  exact h.same rfl rfl rfl

theorem Dev.KeepsRequests.addCount (h : c.KeepsRequests d) (p : Page) (off n : Nat) : c.KeepsRequests (d.addCount p off n) := h.regs (d.regsOnly_addCount p off n)

theorem Dev.KeepsRequests.modPx (h : c.KeepsRequests d) (q : Nat) (f : PtnX → PtnX) : c.KeepsRequests (d.modPx q f) := h.same rfl rfl rfl

theorem Dev.KeepsRequests.modRx (h : c.KeepsRequests d) (i : Nat) (f : ReqX → ReqX) : c.KeepsRequests (d.modRx i f) := h.same rfl rfl rfl

/-! #### Messages and the outcome of an item (14, R303, R304) -/

theorem Dev.KeepsRequests.sendOp (h : c.KeepsRequests d) (o : HeldOp) : c.KeepsRequests (d.sendOp o) := by
  have hroute (e : Dev) (he : c.KeepsRequests e) : c.KeepsRequests (e.routeOp o) := by
    unfold Dev.routeOp
    split
    · exact he.same rfl rfl rfl
    · cases o.req <;> exact he.same rfl rfl rfl
  exact .ite (h.same rfl rfl rfl) (hroute _ (h.same rfl rfl rfl))

theorem Dev.KeepsRequests.segOps (peer cls mid domain : Nat) (data : List Byte) {d : Dev} (h : c.KeepsRequests d) (l : List Nat) :
    c.KeepsRequests (d.segOps peer cls mid domain data l).2 := by
  induction l generalizing d with
  | nil => exact h
  | cons i l ih => exact ih (h.same (e := d.takeId.2) rfl rfl rfl)

theorem Dev.KeepsRequests.sendUp (h : c.KeepsRequests d) (data : List Byte) : c.KeepsRequests (d.sendUp data) := by
  have hmsg (e : Dev) (peer cls mid domain : Nat) (he : c.KeepsRequests e) : c.KeepsRequests (e.sendMsgAs peer cls mid domain data) :=
    .foldl (fun _ o ho => ho.sendOp o) ((he.segOps peer cls mid domain data (List.range (ceilDiv data.length 8192))).same rfl rfl rfl)
  unfold Dev.sendUp
  exact .ite h (.ite (h.same rfl rfl rfl) (hmsg _ _ _ _ _ (h.same rfl rfl rfl)))

/-- A message that is complete ends, another one is put back. -/
theorem Dev.KeepsRequests.endOrPut (h : c.KeepsRequests d) (m : WorkMsg) : c.KeepsRequests (if m.complete then d.finishMsg m else d.putWork m) := by
  have hgone : c.KeepsRequests { d with work := d.work.filter fun x => x.id ≠ m.id } := h.same rfl rfl rfl
  have hsend (e : Dev) (he : c.KeepsRequests e) (eid kind : Nat) (body : List Byte) : c.KeepsRequests (e.mgtSend eid kind body) :=
    .addCount (he.same (e := e.out _) rfl rfl rfl) pMgt 0x50 1
  refine .ite ?_ (h.same rfl rfl rfl)
  unfold Dev.finishMsg
  refine .ite ?_ hgone
  split
  · exact hsend _ hgone _ _ _
  · exact hgone.sendUp _

theorem Dev.KeepsRequests.settleSeq (f : Nat) {d : Dev} (h : c.KeepsRequests d) (ptn : Nat) : c.KeepsRequests (Dev.settleSeq f d ptn) := by
  induction f generalizing d with
  | zero => exact h
  | succ f ih =>
    unfold Dev.settleSeq
    refine .ite h ?_
    split
    · exact h
    · exact .ite h (.ite (h.same rfl rfl rfl) (ih (h.endOrPut _)))

theorem Dev.KeepsRequests.post (h : c.KeepsRequests d) (msg item code info : Nat) : c.KeepsRequests (d.post msg item code info) := by
  unfold Dev.post
  refine .ite (h.same rfl rfl rfl) ?_
  split
  · exact h
  · exact .ite h (.settleSeq _ (h.endOrPut _) _)

/-! #### Wakes, and commands of the serving engine's own (09, R180; 20, R429, R430) -/

theorem Dev.KeepsRequests.startWake (h : c.KeepsRequests d) (n : Nat) : c.KeepsRequests (d.startWake n) := by
  have hdom : c.KeepsRequests (d.setDom n dsWaking) := h.same rfl rfl rfl
  exact (hdom.addCount pPwr 0x54 1).same rfl rfl rfl

theorem Dev.KeepsRequests.demand (h : c.KeepsRequests d) (n : Nat) : c.KeepsRequests (d.demand n) := by
  have hwait (e : Dev) (he : c.KeepsRequests e) : c.KeepsRequests (e.waitWake n) := .ite he (he.same rfl rfl rfl)
  have hpd110 (b : Prop) [Decidable b] : c.KeepsRequests (if b then d else d.startWake 110) := .ite h (h.startWake 110)
  have hself : c.KeepsRequests (d.stkDemand (n - 80)) := by
    unfold Dev.stkDemand
    extract_lets d₁ d₂
    have h₂ : c.KeepsRequests d₂ := (hpd110 _).same (d := d₁) rfl rfl rfl
    exact .ite h₂ (h₂.same rfl rfl rfl)
  exact .ite h (.ite h (.ite hself (.ite (hwait _ h) (.ite ((hwait _ (hpd110 _)).addCount _ _ _) (.ite ((hwait _ h).addCount _ _ _) (h.startWake n))))))

theorem Dev.KeepsRequests.setHeld (h : c.KeepsRequests d) (u : UnitKey) (q : Nat) (l : List HeldCmd) : c.KeepsRequests (d.setHeld u q l) :=
  .ite (h.same rfl rfl rfl) (.ite (h.same rfl rfl rfl) (h.same rfl rfl rfl))

theorem Dev.KeepsRequests.drainHeld (h : c.KeepsRequests d) (u : UnitKey) (q : Nat) : c.KeepsRequests (d.drainHeld u q) := by
  have hpush (l : List Nat) : c.KeepsRequests (d.qPush u q l) := .ite (h.same rfl rfl rfl) (.ite (h.same rfl rfl rfl) (h.same rfl rfl rfl))
  have happend (l : List Nat) : c.KeepsRequests (d.qAppend u q l) := by
    unfold Dev.qAppend Dev.qArm
    split
    · exact hpush l
    · exact .ite (.ite ((hpush l).same rfl rfl rfl) (.ite ((hpush l).same rfl rfl rfl) ((hpush l).same rfl rfl rfl))) (hpush l)
  unfold Dev.drainHeld
  refine .ite h (.foldl (fun _ _ he => .ite he (he.post _ _ _ _)) ?_)
  exact (happend _).setHeld u q _

theorem Dev.KeepsRequests.engIssue (h : c.KeepsRequests d) (p s cmd : Nat) (phys : Bool) : c.KeepsRequests (d.engIssue p s cmd phys).2 := by
  have hfeed (e : Dev) (he : c.KeepsRequests e) (u : UnitKey) (l : List (List Byte)) : c.KeepsRequests (e.feed u 0 l 0 0) := by
    unfold Dev.feed
    exact .drainHeld (.setHeld (.ite he (he.demand _)) u 0 _) u 0
  unfold Dev.engIssue
  extract_lets t w d₁
  exact hfeed d₁ (h.same rfl rfl rfl) _ _

/-! #### Adapter versions that retire (10, R212, R213) -/

theorem Dev.KeepsRequests.adpPlace {p slot src bytes : Nat} {e : Dev} (he : d.adpPlace p slot src bytes = some e) (h : c.KeepsRequests d) : c.KeepsRequests e := by
  unfold Dev.adpPlace at he
  extract_lets units at he
  split at he
  · cases he
  · obtain rfl := Option.some.inj he
    refine .modPx ?_ p _
    exact List.foldlRecOn (motive := fun a : List Nat × Dev => c.KeepsRequests a.2) _ _ h fun a ha r _ => ha.engIssue p r.1 _ false

theorem Dev.KeepsRequests.adpSweep (h : c.KeepsRequests d) (p : Nat) : c.KeepsRequests (d.adpSweep p) := by
  unfold Dev.adpSweep
  extract_lets dead d₁
  have h₁ : c.KeepsRequests d₁ := h.same rfl rfl rfl
  refine .ite h (.foldl (fun e w he => ?_) h₁)
  split
  · exact he
  · next hplace => exact (he.adpPlace hplace).same rfl rfl rfl

/-! #### Pages, handles and publishes of a request that ends (09, R172, R187, R188) -/

theorem Dev.KeepsRequests.writeNum (h : c.KeepsRequests d) (a n v : Nat) : c.KeepsRequests (d.writeNum a n v) := by
  have hbytes := d.bytesOnly_writeMem agDevice a (leBytes n v) false
  rw [Dev.writeNum, hbytes]
  exact h.same rfl rfl rfl

theorem Dev.KeepsRequests.dropLeaf (h : c.KeepsRequests d) (q pva l : Nat) : c.KeepsRequests (d.dropLeaf q pva l) := by
  have hgo (f t : Nat) : c.KeepsRequests (Dev.dropLeafGo q pva l f d t) := by
    induction f generalizing t with
    | zero => exact h.writeNum _ 8 0
    | succ f ih =>
      unfold Dev.dropLeafGo
      exact .ite (h.writeNum _ 8 0) (.ite (.ite (.modPx ((ih _).writeNum _ 8 0) q _) (ih _)) h)
  exact hgo 3 _

theorem Dev.KeepsRequests.unmapPages (h : c.KeepsRequests d) (q : Nat) (pages : List (Nat × Nat)) (region sregion : Nat) (w16 : Bool) (req : Option Nat) (step : Nat) :
    c.KeepsRequests (d.unmapPages q pages region sregion w16 req step) := by
  unfold Dev.unmapPages
  refine .ite h ?_
  extract_lets d₁
  have h₁ : c.KeepsRequests d₁ := .foldl (fun e x he => by
    have hleaf := he.dropLeaf q (region + x.1 * 2 ^ 21) 1
    exact .same (.ite hleaf (hleaf.dropLeaf q _ 0)) rfl rfl rfl) h
  exact h₁.same rfl rfl rfl

theorem Dev.KeepsRequests.releasePages (h : c.KeepsRequests d) (q i : Nat) (f : Nat → Bool) : c.KeepsRequests (d.releasePages q i f) := by
  unfold Dev.releasePages
  exact (h.modRx i _).unmapPages ..

theorem Dev.KeepsRequests.detach (h : c.KeepsRequests d) (q i : Nat) : c.KeepsRequests (d.detach q i) := by
  have hrec (k v : Nat) : c.KeepsRequests (d.setHrec q k v) := by
    unfold Dev.setHrec
    split
    · exact h.writeNum _ 64 v
    · exact h
  unfold Dev.detach
  split
  · exact h
  · exact (hrec _ _).modRx i _

theorem Dev.KeepsRequests.publishLost (h : c.KeepsRequests d) (q i : Nat) : c.KeepsRequests (d.publishLost q i) :=
  .foldl (fun _ _ he => he.post _ _ _ _) (h.same rfl rfl rfl)

/-! #### Records and guarantees (10, R204; 11, R229, R230) -/

theorem Dev.KeepsRequests.sendRecords (h : c.KeepsRequests d) (q batch step e : Nat) (l : List Rec) : c.KeepsRequests (d.sendRecords q batch step e l) := by
  have hbytes (a : Dev) (ha : c.KeepsRequests a) (x : Rec) : c.KeepsRequests (a.recBytes x).2 := by
    unfold Dev.recBytes
    cases x.attach <;> exact ha.same rfl rfl rfl
  have hglue : c.KeepsRequests (d.toGlue q l).1 := h.same rfl rfl rfl
  refine .ite hglue (.sendUp ?_ _)
  exact List.foldlRecOn (motive := fun a : List Byte × Dev => c.KeepsRequests a.2) _ _ hglue fun a ha x _ => hbytes a.2 ha x

theorem Dev.KeepsRequests.voidOff (h : c.KeepsRequests d) (q n : Nat) : c.KeepsRequests (d.voidOff q n) := by
  have hbit : c.KeepsRequests (d.setBit (pPtn q) 0x3A4 n false) := h.regs (d.regsOnly_setBit _ _ _ _)
  exact .ite h (.ite (hbit.same rfl rfl rfl) hbit)

end Keeps

end Sys2Proof.Machine

/-! SUPPORT. Request items (10, R194–R197): an entry that leaves the live states, REQ_ADMIT and REQ_RELEASE by their checks; and the statement about them. -/

namespace Sys2Proof.Machine

/-! ### The end of a request (10, R194) -/

/-- The entry of a request that leaves the live states, and its batch. -/
def endedEntry (r state cause : Nat) : Nat := setFld (setFld (setFld r 3 0 state) 15 12 cause) 1190 1190 0

/-- A live request has left the live states and its batch; its handle, its publishes and its pages are still held. -/
def Dev.leaveLive (d : Dev) (i state cause : Nat) : Dev :=
  { d.setRq i (endedEntry (d.rq i) state cause) with batches := tmap d.batches fun _ b => { b with mems := b.mems.filter fun m => m.2 ≠ i } }

/-- What else ends with a request touches neither the request table nor the batches. -/
theorem Dev.keepsRequests_endReq (d : Dev) (p i state cause : Nat) : (d.leaveLive i state cause).KeepsRequests (d.endReq p i state cause) := by
  unfold Dev.endReq
  extract_lets r d₁ d₂
  exact ((((Dev.KeepsRequests.refl d₂).detach p i).publishLost p i).modRx i _).releasePages p i _

section EndReq
variable (d : Dev) (p i state cause : Nat)

theorem Dev.rq_endReq_same : (d.endReq p i state cause).rq i = (BitVec.ofNat 2048 (endedEntry (d.rq i) state cause)).toNat :=
  ((d.keepsRequests_endReq p i state cause).rq i).trans (Dev.rq_setRq_same ..)

theorem Dev.rq_endReq_ne {k : Nat} (h : k ≠ i) : (d.endReq p i state cause).rq k = d.rq k :=
  ((d.keepsRequests_endReq p i state cause).rq k).trans (Dev.rq_setRq_ne _ _ h)

theorem Dev.rqState_endReq (h : state < 16) : rqState ((d.endReq p i state cause).rq i) = state := by
  rw [Dev.rq_endReq_same, rqState, fld_ofNat _ _ (by decide), endedEntry]
  simp (disch := decide) only [fld_setFld_ne, fld_setFld_same]
  exact Nat.mod_eq_of_lt h

theorem Dev.cause_endReq (h : cause < 16) : fld ((d.endReq p i state cause).rq i) 15 12 = cause := by
  rw [Dev.rq_endReq_same, fld_ofNat _ _ (by decide), endedEntry]
  simp (disch := decide) only [fld_setFld_ne, fld_setFld_same]
  exact Nat.mod_eq_of_lt h

end EndReq

/-! ### REQ_ADMIT (10, R196) -/

theorem firstBad_eq_none {l : List (Nat × Bool)} (h : firstBad l = none) : ∀ f ∈ l, f.2 = false := fun f hf =>
  Bool.eq_false_iff.2 (List.find?_eq_none.1 (Option.map_eq_none_iff.1 h) f hf)

/-- An image whose fields are good gives no committed length. -/
theorem rqLength_of_goodFields {v : Nat} (h : firstBad (admitFields v) = none) : rqLength v = 0 := by
  have hlength : (32, decide (rqLength v ≠ 0)) ∈ admitFields v := by simp [admitFields, admitZeroLow]
  simpa using firstBad_eq_none h _ hlength

/-- The entry that an image becomes: ADMITTED, with its generation, the version of its adapter, and the ao-cycle of its admission. -/
def admittedEntry (v gen ver ao : Nat) : Nat :=
  setFld (setFld (setFld (setFld (setFld v 3 0 rsAdmitted) 31 16 gen) 319 304 ver) 959 896 ao) 1023 960 ao

/-- What the admission sets in an entry (R193, R196). -/
theorem admittedEntry_set (v gen ver ao : Nat) :
    let r := (BitVec.ofNat 2048 (admittedEntry v gen ver ao)).toNat
    rqState r = rsAdmitted ∧ rqGen r = gen % 65536 ∧ rqAdmitAo r = ao % 2 ^ 64 ∧ rqLastEmit r = ao % 2 ^ 64 ∧ rqAdpVer r = ver % 65536 := by
  simp (disch := decide) only [rqState, rqGen, rqAdmitAo, rqLastEmit, rqAdpVer, fld_ofNat, admittedEntry, fld_setFld_ne, fld_setFld_same]
  exact ⟨rfl, rfl, trivial, trivial, rfl⟩

/-- The fields that the entry takes from the image. -/
theorem admittedEntry_image (v gen ver ao : Nat) :
    let r := (BitVec.ofNat 2048 (admittedEntry v gen ver ao)).toNat
    rqLength r = rqLength v ∧ rqPrompt r = rqPrompt v ∧ rqMaxlen r = rqMaxlen v ∧ rqRegion r = rqRegion v ∧ rqHandle r = rqHandle v := by
  simp (disch := decide) only [rqLength, rqPrompt, rqMaxlen, rqRegion, rqHandle, fld_ofNat, admittedEntry, fld_setFld_ne, and_self]

/-- The version of an adapter to which an image binds its request. -/
def Dev.admitVer (d : Dev) (p v : Nat) : Nat := if rqAdpEn v then (match d.adpCurrent p (rqAdpSlot v) with | some a => a.ver | none => 0) else 0

/-- The adapter of an image has one binder more. -/
def Dev.admitBind (d : Dev) (p v : Nat) : Dev := if rqAdpEn v then d.adpBind p (rqAdpSlot v) (d.admitVer p v) (· + 1) else d

/-- The FILL that clears the count table at `a`, where there is one (R210): its tag, and the device that has issued it to stack `st`. -/
def Dev.fillTable (d : Dev) (p st a : Nat) : Option Nat × Dev :=
  if a = 0 then (none, d) else (some (d.engIssue p st (fillCmd a 64 0) false).1, (d.engIssue p st (fillCmd a 64 0) false).2)

/-- Image `v` has been admitted into entry `k` of partition `p`. -/
def Dev.admitted (d : Dev) (p k v : Nat) : Dev :=
  let b := d.admitBind p v
  let t := b.fillTable p (d.tableStack p (rqPenTable v)) (rqPenTable v)
  (t.2.setRq k (admittedEntry v ((rqGen (b.rq k) + 1) % 65536) (d.admitVer p v) b.ao)).setRx k { fill := t.1 }

section Admit
variable {d : Dev} {i : Item}

theorem Dev.reqAdmit_notFree (hlehr : d.lehr = 0) (hfree : rqState (d.rq (numAt i.body 0x100 2)) ≠ rsFree) :
    d.reqAdmit i = d.serveRefused i cReqState (numAt i.body 0x100 2 % 4096 + rqState (d.rq (numAt i.body 0x100 2)) * 4096) := by
  unfold Dev.reqAdmit
  dsimp only
  rw [if_neg (by simp [hlehr]), if_pos (by simp [hfree])]

variable (hlehr : d.lehr = 0) (hown : (d.ptnReqs i.ptn).contains (numAt i.body 0x100 2) = true) (hfree : rqState (d.rq (numAt i.body 0x100 2)) = rsFree)
include hlehr hown hfree

theorem Dev.reqAdmit_badField {b : Nat} (hbad : firstBad (admitFields (numAt i.body 0 256)) = some b) : d.reqAdmit i = d.serveRefused i cReqInvalid b := by
  unfold Dev.reqAdmit
  dsimp only
  rw [if_neg (by simp [hlehr]), if_neg (by simp [List.contains_iff_mem.1 hown, hfree]), hbad]

theorem Dev.reqAdmit_good {f : Dev} {bs : List Byte} (hgood : firstBad (admitFields (numAt i.body 0 256)) = none)
    (hread : d.intakeRead i.ptn (rqPromptPva (numAt i.body 0 256)) (4 * rqPrompt (numAt i.body 0 256)) = (f, .ok (bs, false)))
    (hvocab : ∀ j < rqPrompt (numAt i.body 0 256), numAt bs (4 * j) 4 < rqVocab (numAt i.body 0 256))
    (hregion : ∀ o ∈ f.liveReqs i.ptn, ∀ a ∈ rqRegions (numAt i.body 0 256), ∀ b ∈ rqRegions (f.rq o), meets a b = false)
    (hadp : rqAdpEn (numAt i.body 0 256) = true → (f.adpCurrent i.ptn (rqAdpSlot (numAt i.body 0 256))).isSome = true) :
    d.reqAdmit i = (f.admitted i.ptn (numAt i.body 0x100 2) (numAt i.body 0 256)).endItem i 0 0 := by
  have htokens : (lowest (rqPrompt (numAt i.body 0 256)) fun j => rqVocab (numAt i.body 0 256) ≤ numAt bs (4 * j) 4) = none := by
    refine List.find?_eq_none.2 fun j hj => ?_
    simpa using hvocab j (List.mem_range.1 hj)
  have hclear : ((f.liveReqs i.ptn).find? fun o => (rqRegions (numAt i.body 0 256)).any fun a => (rqRegions (f.rq o)).any (meets a)) = none := by
    refine List.find?_eq_none.2 fun o ho => ?_
    simpa using hregion o ho
  unfold Dev.reqAdmit
  dsimp only
  rw [if_neg (by simp [hlehr]), if_neg (by simp [List.contains_iff_mem.1 hown, hfree]), hgood]
  dsimp only
  rw [hread]
  dsimp only
  rw [htokens]
  dsimp only
  rw [hclear]
  dsimp only
  rw [if_neg]
  · rfl
  · simpa [Option.isSome_iff_ne_none] using hadp

end Admit

/-! #### What an admission leaves -/

section Admitted
variable (d : Dev) (p k v : Nat)

theorem Dev.tableStack_lt (a : Nat) : d.tableStack p a < 24 := by
  have hhead : ((d.ptnStacks p).head?).getD 0 < 24 := by
    cases hstacks : d.ptnStacks p with
    | nil => exact (by decide : 0 < 24)
    | cons s l => exact lt_of_mem_ptnStacks (hstacks ▸ List.mem_cons_self ..)
  unfold Dev.tableStack Dev.oneStack
  split
  · next s _ _ hrun => exact lt_of_mem_stackRuns hrun _ (List.mem_singleton.2 rfl)
  · exact hhead

theorem Dev.keepsRequests_admitBind : d.KeepsRequests (d.admitBind p v) := .ite ((Dev.KeepsRequests.refl d).modPx ..) (.refl d)

theorem Dev.admitBind_effect : (d.admitBind p v).mem = d.mem ∧ (d.admitBind p v).csr = d.csr ∧ (d.admitBind p v).ao = d.ao := by
  unfold Dev.admitBind
  split <;> exact ⟨rfl, rfl, rfl⟩

theorem Dev.keepsRequests_fillTable (st a : Nat) : d.KeepsRequests (d.fillTable p st a).2 := by
  unfold Dev.fillTable
  split
  · exact .refl d
  · exact (Dev.KeepsRequests.refl d).engIssue ..

theorem Dev.mem_fillTable {st : Nat} (hst : st < 24) (a : Nat) : (d.fillTable p st a).2.mem = d.mem := by
  unfold Dev.fillTable
  split
  · rfl
  · exact ((Dev.KeepsReturns.refl d).engIssue p hst _ false).mem

theorem Dev.rq_admitted_same : (d.admitted p k v).rq k =
    (BitVec.ofNat 2048 (admittedEntry v ((rqGen (d.rq k) + 1) % 65536) (d.admitVer p v) d.ao)).toNat := by
  obtain ⟨-, -, hao⟩ := d.admitBind_effect p v
  rw [Dev.admitted, Dev.rq_setRx, Dev.rq_setRq_same, (d.keepsRequests_admitBind p v).rq, hao]

theorem Dev.rq_admitted_ne {k' : Nat} (h : k' ≠ k) : (d.admitted p k v).rq k' = d.rq k' := by
  rw [Dev.admitted, Dev.rq_setRx, Dev.rq_setRq_ne _ _ h, (Dev.keepsRequests_fillTable ..).rq, (d.keepsRequests_admitBind p v).rq]

theorem Dev.mem_admitted : (d.admitted p k v).mem = d.mem := by
  obtain ⟨hmem, -, -⟩ := d.admitBind_effect p v
  rw [Dev.admitted, Dev.setRx_mem, Dev.setRq_mem, Dev.mem_fillTable _ p (d.tableStack_lt p _), hmem]

theorem Dev.rx_admitted : (d.admitted p k v).rx k = { fill := ((d.admitBind p v).fillTable p (d.tableStack p (rqPenTable v)) (rqPenTable v)).1 } := by
  rw [Dev.admitted, Dev.rx_setRx_same]

/-- Without a count table nothing is filled, and no register moves. -/
theorem Dev.admitted_noTable (h : rqPenTable v = 0) : (d.admitted p k v).rx k = {} ∧ (d.admitted p k v).csr = d.csr := by
  have hfill (b : Dev) (st : Nat) : b.fillTable p st (rqPenTable v) = (none, b) := if_pos h
  obtain ⟨-, hcsr, -⟩ := d.admitBind_effect p v
  exact ⟨by rw [Dev.rx_admitted, hfill], by rw [Dev.admitted, Dev.setRx_csr, Dev.setRq_csr, hfill, hcsr]⟩

/-- With one the entry awaits its FILL. -/
theorem Dev.admitted_table (h : rqPenTable v ≠ 0) : ((d.admitted p k v).rx k).fill.isSome = true := by
  rw [Dev.rx_admitted, Dev.fillTable, if_neg h]
  rfl

theorem Dev.admitVer_current {a : AdpVer} (hen : rqAdpEn v = true) (ha : d.adpCurrent p (rqAdpSlot v) = some a) : d.admitVer p v = a.ver := by
  rw [Dev.admitVer, if_pos hen, ha]

end Admitted

/-! ### REQ_RELEASE (10, R197) -/

section Release
variable {d : Dev} {i : Item}

theorem Dev.reqRelease_refused (h : rqLive (d.rq (numAt i.body 0 2)) = false ∨ rqGen (d.rq (numAt i.body 0 2)) ≠ numAt i.body 2 2) :
    d.reqRelease i = d.endItem i cReqState (numAt i.body 0 2 % 4096 + rqState (d.rq (numAt i.body 0 2)) * 4096) := by
  unfold Dev.reqRelease
  refine if_pos ?_
  rcases h with h | h <;> simp [h]

variable (hown : (d.ptnReqs i.ptn).contains (numAt i.body 0 2) = true) (hlive : rqLive (d.rq (numAt i.body 0 2)) = true)
  (hgen : rqGen (d.rq (numAt i.body 0 2)) = numAt i.body 2 2)
include hown hlive hgen

theorem Dev.reqRelease_member (hin : rqInBatch (d.rq (numAt i.body 0 2)) = true) :
    d.reqRelease i = (d.modRx (numAt i.body 0 2) fun x => { x with release := true }).endItem i 0 0 := by
  unfold Dev.reqRelease
  dsimp only
  rw [if_neg (by simp [List.contains_iff_mem.1 hown, hlive, hgen]), if_pos hin]

theorem Dev.reqRelease_ends (hin : rqInBatch (d.rq (numAt i.body 0 2)) = false) :
    d.reqRelease i = (d.endNow i.ptn (numAt i.body 0 2) rsDone rcReleased 0).endItem i 0 0 := by
  unfold Dev.reqRelease
  dsimp only
  rw [if_neg (by simp [List.contains_iff_mem.1 hown, hlive, hgen]), if_neg (Bool.eq_false_iff.1 hin)]

end Release

end Sys2Proof.Machine

namespace Sys2Proof.Proofs

open Sys2Proof Sys2Proof.Machine

/-- Settles O35: each clause is the branch of REQ_ADMIT or REQ_RELEASE that its checks choose; the count table's FILL and the end of a request leave every other entry. -/
theorem requestItems : Obligations.RequestItems := by
  unfold Obligations.RequestItems
  refine ⟨?admission, ?release⟩
  case admission =>
    rintro s p i e _ _ hdue hlehr rfl rfl
    have hrun : exec (.reqAdmit p) s = .next ⟨e.reqAdmit i, s.pending⟩ := State.upd_serveItem_due hdue _
    rw [hrun]
    refine ⟨fun hfree => by rw [Dev.reqAdmit_notFree hlehr hfree]; rfl, fun b hown hfree hbad => by rw [Dev.reqAdmit_badField hlehr hown hfree hbad]; rfl, ?_⟩
    intro f bs hown hfree hgood hread hvocab hregion hadp
    rw [Dev.reqAdmit_good hlehr hown hfree hgood hread hvocab hregion hadp]
    refine ⟨_, rfl, ?_⟩
    rw [Dev.rq_admitted_same]
    obtain ⟨hstate, hgen, hadmit, hemit, hver⟩ := admittedEntry_set (numAt i.body 0 256) ((rqGen (f.rq (numAt i.body 0x100 2)) + 1) % 65536)
      (f.admitVer i.ptn (numAt i.body 0 256)) f.ao
    obtain ⟨hlength, hprompt, hmaxlen, hreg, hhandle⟩ := admittedEntry_image (numAt i.body 0 256) ((rqGen (f.rq (numAt i.body 0x100 2)) + 1) % 65536)
      (f.admitVer i.ptn (numAt i.body 0 256)) f.ao
    refine ⟨hstate, hgen.trans (Nat.mod_mod ..), hadmit, hemit, hlength.trans (rqLength_of_goodFields hgood), hprompt, hmaxlen, hreg, hhandle,
      fun a hen ha => hver.trans (by rw [f.admitVer_current _ _ hen ha]), fun k' hk => f.rq_admitted_ne _ _ _ hk, f.mem_admitted ..,
      f.admitted_noTable _ _ _, f.admitted_table _ _ _⟩
  case release =>
    rintro s p i e _ hdue rfl
    have hrun : exec (.reqRelease p) s = .next ⟨e.reqRelease i, s.pending⟩ := State.upd_serveItem_due hdue _
    rw [hrun]
    refine ⟨fun h => by rw [Dev.reqRelease_refused h], fun hown hlive hgen hin => ?member, fun hown hlive hgen hin => ?ends⟩
    case member =>
      rw [Dev.reqRelease_member hown hlive hgen hin]
      exact ⟨_, rfl, congrArg ReqX.release (Dev.rx_setRx_same ..), rfl, rfl, rfl⟩
    case ends =>
      rw [Dev.reqRelease_ends hown hlive hgen hin]
      exact ⟨_, _, rfl, rfl, e.rqState_endReq _ _ _ _ (by decide), e.cause_endReq _ _ _ _ (by decide), fun k' hk => e.rq_endReq_ne _ _ _ _ hk⟩

end Sys2Proof.Proofs

/-! SUPPORT. Batch items (10, R198, R199; 11, R226–R228): BATCH_OPEN by its reads, its checks and its proof, the batch that stands, the openings that wait, and BATCH_CLOSE; and the statement about them. -/

namespace Sys2Proof.Machine

/-- A fold in which every element brings something about that no other element undoes has brought it about for each. -/
theorem foldl_establishes {α β : Type} {f : β → α → β} {P : α → β → Prop} (hset : ∀ d a, P a (f d a)) (hkeep : ∀ d a b, P b d → P b (f d a)) {l : List α} {a : α}
    (ha : a ∈ l) (d : β) : P a (l.foldl f d) := by
  induction l generalizing d with
  | nil => cases ha
  | cons x l ih =>
    obtain rfl | ha := List.mem_cons.1 ha
    · exact List.foldlRecOn (motive := P a) l f (hset d a) fun e he b _ => hkeep e b a he
    · exact ih ha _

/-! ### BATCH_OPEN after its checks (10, R198; 11, R226, R228) -/

/-- The batch that a BATCH_OPEN opens (R198). -/
def Dev.newBatch (d : Dev) (i : Item) (idx : List Nat) (g : Image) : Batch :=
  { ptn := i.ptn, model := numAt i.body 4 1, prog := numAt i.body 8 4, period := numAt i.body 0x0C 4, draft := numAt i.body 0x10 8, base := numAt i.body 0x18 8,
    logits := numAt i.body 0x20 8, lstride := numAt i.body 0x28 4, mems := (List.range idx.length).zip idx, opened := d.ao, k := 0,
    wc := d.openWorst i.ptn i.body idx g, reread := d.getF (pPtn i.ptn) 0x380 15 0, np := d.hasGeneral i.ptn, closing := false }

/-- The entry of request `k` says that it is in batch `n`. -/
def Dev.joinBatch (n : Nat) (d : Dev) (k : Nat) : Dev := (d.setRqF k 1189 1184 n).setRqF k 1190 1190 1

/-- The batch stands, and its members are in it. -/
def Dev.openBatch (d : Dev) (i : Item) (idx : List Nat) (g : Image) : Dev :=
  let e := idx.foldl (Dev.joinBatch (numAt i.body 0 2)) d
  { e with batches := tput e.batches (numAt i.body 0 2) (d.newBatch i idx g) }

/-- The outcome of an opening that has passed the checks of R198: R228's proof opens it or refuses it. -/
def Dev.openOrOverload (d : Dev) (i : Item) (idx : List Nat) (g : Image) : Dev :=
  match d.openProof i.ptn idx (numAt i.body 0x0C 4) (d.openWorst i.ptn i.body idx g) with
  | some (c, m, x) => d.serveRefused i 0xA003 (c + m % 256 * 4 + min x (2 ^ 22 - 1) * 1024)
  | none => (d.openBatch i idx g).endItem i 0 0

/-- No position holds a request of another model or another vocabulary. -/
theorem Dev.lowest_otherModel {d : Dev} {idx : List Nat} {model vocab : Nat} (h : ∀ k ∈ idx, rqModel (d.rq k) = model ∧ rqVocab (d.rq k) = vocab) :
    (lowest idx.length fun m => rqModel (d.rq ((idx[m]?).getD 0)) ≠ model || rqVocab (d.rq ((idx[m]?).getD 0)) ≠ vocab) = none := by
  refine List.find?_eq_none.2 fun m hm => ?_
  have hlt := List.mem_range.1 hm
  obtain ⟨hmodel, hvocab⟩ := h _ (List.getElem_mem hlt)
  rw [List.getElem?_eq_getElem hlt, Option.getD_some, hmodel, hvocab]
  simp

theorem Dev.proveOpen_checked {d : Dev} {i : Item} {idx : List Nat} (h : d.OpenChecked i.ptn i.body idx) (g : Image) :
    d.proveOpen i (some g) = d.openOrOverload i idx g := by
  obtain ⟨hlehr, hgov, hnew, hfields, rfl, hmembers, hmodel, hstride⟩ := h
  unfold Dev.proveOpen
  dsimp only
  rw [if_neg (by simp [hlehr]), if_neg (Nat.not_lt.2 hgov), if_neg (by simpa using hnew), if_neg (by simp [hfields]), hmembers]
  dsimp only
  rw [Dev.lowest_otherModel hmodel]
  dsimp only
  rw [if_neg (Nat.not_lt.2 hstride)]
  rfl

theorem Dev.openOrOverload_opens {d : Dev} {i : Item} {idx : List Nat} {g : Image}
    (h : d.openProof i.ptn idx (numAt i.body 0x0C 4) (d.openWorst i.ptn i.body idx g) = none) : d.openOrOverload i idx g = (d.openBatch i idx g).endItem i 0 0 := by
  rw [Dev.openOrOverload, h]

theorem Dev.openOrOverload_refuses {d : Dev} {i : Item} {idx : List Nat} {g : Image} {c m x : Nat}
    (h : d.openProof i.ptn idx (numAt i.body 0x0C 4) (d.openWorst i.ptn i.body idx g) = some (c, m, x)) :
    d.openOrOverload i idx g = d.serveRefused i 0xA003 (c + m % 256 * 4 + min x (2 ^ 22 - 1) * 1024) := by
  rw [Dev.openOrOverload, h]

/-! #### The batch that stands -/

/-- Request `k` is in batch `n`. -/
def Dev.Joined (d : Dev) (n k : Nat) : Prop := rqInBatch (d.rq k) = true ∧ rqBatch (d.rq k) = n

theorem Dev.rq_joinBatch_ne (d : Dev) (n : Nat) {i k : Nat} (h : k ≠ i) : (Dev.joinBatch n d i).rq k = d.rq k := by
  rw [Dev.joinBatch, Dev.setRqF, Dev.rq_setRq_ne _ _ h, Dev.setRqF, Dev.rq_setRq_ne _ _ h]

theorem Dev.joined_joinBatch (d : Dev) {n : Nat} (hn : n ≤ 63) (k : Nat) : (Dev.joinBatch n d k).Joined n k := by
  rw [Dev.Joined, Dev.joinBatch, Dev.setRqF, Dev.rq_setRq_same, Dev.setRqF, Dev.rq_setRq_same]
  constructor
  · rw [rqInBatch, bitOf_ofNat _ (by decide), bitOf_setFld_same]
    rfl
  · simp (disch := decide) only [rqBatch, fld_ofNat, fld_setFld_ne, fld_setFld_same]
    omega

theorem Dev.Joined.joinBatch {d : Dev} {n k : Nat} (h : d.Joined n k) (hn : n ≤ 63) (i : Nat) : (Dev.joinBatch n d i).Joined n k := by
  by_cases hk : k = i
  · exact hk ▸ d.joined_joinBatch hn k
  · rw [Dev.Joined, d.rq_joinBatch_ne n hk]
    exact h

/-- The members of a batch join it; nothing else changes. -/
theorem Dev.joinAll_effect (d : Dev) {n : Nat} (hn : n ≤ 63) (idx : List Nat) :
    let e := idx.foldl (Dev.joinBatch n) d
    (∀ k ∈ idx, e.Joined n k) ∧ (∀ k, k ∉ idx → e.rq k = d.rq k) ∧ e.batches = d.batches ∧ e.mem = d.mem ∧ e.csr = d.csr := by
  refine ⟨fun k hk => foldl_establishes (P := fun k e => e.Joined n k) (fun e k => e.joined_joinBatch hn k) (fun e i k he => he.joinBatch hn i) hk d,
    fun k hk => Dev.foldl_holds (P := fun e => e.rq k = d.rq k) (fun e i hi he => ?_) rfl,
    Dev.foldl_holds (f := Dev.joinBatch n) (P := fun e => e.batches = d.batches ∧ e.mem = d.mem ∧ e.csr = d.csr) (fun _ _ _ he => he) ⟨rfl, rfl, rfl⟩⟩
  rw [e.rq_joinBatch_ne n fun hki => hk (by rwa [hki]), he]

theorem number_of_openFieldsOk {l : List Byte} (h : openFieldsOk l = true) : numAt l 0 2 ≤ 63 := by
  simp only [openFieldsOk, Bool.and_eq_true, decide_eq_true_eq] at h
  omega

theorem Dev.batchStands_openBatch {d : Dev} {i : Item} {idx : List Nat} (hfields : openFieldsOk i.body = true) (g : Image) :
    (d.openBatch i idx g).BatchStands d i.ptn i.body idx g := by
  obtain ⟨hin, hout, hbatches, hmem, hcsr⟩ := d.joinAll_effect (number_of_openFieldsOk hfields) idx
  refine ⟨⟨d.newBatch i idx g, tget?_tput_same .., rfl, rfl, rfl, rfl, rfl, rfl, rfl, rfl⟩, fun n hn => ?_, hin, hout, hmem, hcsr⟩
  rw [← hbatches]
  exact tget?_tput_ne _ _ hn

/-! ### BATCH_OPEN and BATCH_OPEN_PROVE (10, R198; 20, R431) -/

theorem Dev.openRead_reads {d f : Dev} {i : Item} {g : Image} (h : d.OpenReads i.ptn i.body g f) : d.openRead i = f.proveOpen i (some g) := by
  obtain ⟨prog, hprog, hpva, hread⟩ := h
  rw [Dev.openRead, hprog]
  dsimp only
  rw [hread]
  dsimp only
  rw [← hpva]

/-- The domains that the body of an opening pins (20, R431). -/
abbrev Dev.openDomains (d : Dev) (p : Nat) (l : List Byte) : List Nat := d.batchDomains p (tget? (d.px p).progs (numAt l 8 4))

theorem Dev.batchOpen_on {d : Dev} {i : Item} (hon : ∀ k ∈ d.openDomains i.ptn i.body, d.dom k = dsOn) :
    d.batchOpen i = d.openRead i := by
  unfold Dev.batchOpen
  refine if_pos ?_
  simpa using .inr hon

/-- The item of an opening that waits in partition `p`. -/
abbrev OpenWait.toItem (w : OpenWait) (p : Nat) : Item := ⟨w.msg, w.item, p, w.body, none⟩

theorem Dev.batchOpenProve_on {d : Dev} {p : Nat} {w : OpenWait} (hw : (d.openWaits.find? fun x => x.ptn = p) = some w)
    (hon : ∀ k ∈ d.openDomains p w.body, d.dom k = dsOn) :
    d.batchOpenProve p = ({ d with openWaits := d.openWaits.filter fun x => x ≠ w } : Dev).openRead (w.toItem p) := by
  rw [Dev.batchOpenProve, hw]
  refine if_pos ?_
  simpa using .inr hon

theorem Dev.batchOpenProve_opens {d f : Dev} {p : Nat} {w : OpenWait} {idx : List Nat} {g : Image} (hw : (d.openWaits.find? fun x => x.ptn = p) = some w)
    (hon : ∀ k ∈ d.openDomains p w.body, d.dom k = dsOn)
    (hread : ({ d with openWaits := d.openWaits.filter fun x => x ≠ w } : Dev).OpenReads p w.body g f) (hcheck : f.OpenChecked p w.body idx)
    (hproof : f.openProof p idx (numAt w.body 0x0C 4) (f.openWorst p w.body idx g) = none) :
    d.batchOpenProve p = (f.openBatch (w.toItem p) idx g).endItem (w.toItem p) 0 0 := by
  rw [Dev.batchOpenProve_on hw hon, Dev.openRead_reads (i := w.toItem p) hread, Dev.proveOpen_checked (i := w.toItem p) hcheck,
    Dev.openOrOverload_opens (i := w.toItem p) hproof]

theorem exec_batchOpenProve (s : State) (p : Fin 24) : exec (.batchOpenProve p) s = .next ⟨s.dev.batchOpenProve p, s.pending⟩ := rfl

/-- The domains that a batch pins are compute domains and stacks. -/
theorem lt_of_mem_batchDomains {d : Dev} {p k : Nat} {g : Option Prog} (h : k ∈ d.batchDomains p g) : k < 112 := by
  obtain h | h := List.mem_append.1 h
  · cases g with
    | none => cases h
    | some g =>
      obtain ⟨n, hn, rfl⟩ := List.mem_map.1 (List.mem_eraseDups.1 h)
      have hlt := List.mem_range.1 (List.mem_filter.1 hn).1
      omega
  · obtain ⟨s, hs, rfl⟩ := List.mem_map.1 h
    have hlt := lt_of_mem_ptnStacks hs
    omega

/-- The device that has woken the domains of a batch. -/
def Dev.demandAll (d : Dev) (doms : List Nat) : Dev := d.each doms fun d k => d.demand k

theorem Dev.batchOpen_waits {d : Dev} {i : Item} (hlehr : d.lehr = 0)
    (hoff : ∃ k ∈ d.openDomains i.ptn i.body, d.dom k ≠ dsOn) :
    d.batchOpen i = { d.demandAll (d.openDomains i.ptn i.body) with openWaits := (d.demandAll (d.openDomains i.ptn i.body)).openWaits ++ [⟨i.msg, i.item, i.ptn, i.body⟩] } := by
  unfold Dev.batchOpen
  refine if_neg ?_
  simpa [hlehr] using hoff

theorem Dev.demandAll_effect (d : Dev) {doms : List Nat} (h : ∀ k ∈ doms, k < 112) : d.KeepsRequests (d.demandAll doms) ∧ (d.demandAll doms).mem = d.mem := by
  have hreturns : d.KeepsReturns (d.demandAll doms) := .foldl (fun _ k hk he => he.demand (h k hk)) (.refl d)
  exact ⟨.foldl (fun _ k he => he.demand k) (.refl d), hreturns.mem⟩

/-! ### A batch that closes (10, R199) -/

theorem tget?_tmap {α : Type} (t : Tbl α) (f : Nat → α → α) (k : Nat) : tget? (tmap t f) k = (tget? t k).map (f k) := by
  induction t with
  | nil => rfl
  | cons e t ih =>
    simp only [tmap, List.map_cons, tget?]
    split
    · next hk => rw [hk, Option.map_some]
    · exact ih

/-- Batch `n` does not stand, and the requests `ks` are in no batch. -/
structure Dev.BatchGone (d : Dev) (n : Nat) (ks : List Nat) : Prop where
  batch : tget? d.batches n = none
  out : ∀ k ∈ ks, rqInBatch (d.rq k) = false

section Gone
variable {d : Dev} {n : Nat} {ks : List Nat}

theorem Dev.BatchGone.keeps (h : d.BatchGone n ks) {e : Dev} (hkeep : d.KeepsRequests e) : e.BatchGone n ks :=
  ⟨hkeep.batches ▸ h.batch, fun k hk => (hkeep.rq k).symm ▸ h.out k hk⟩

theorem Dev.BatchGone.setRq (h : d.BatchGone n ks) {i v : Nat} (hv : rqInBatch (d.rq i) = false → rqInBatch v = false) : (d.setRq i v).BatchGone n ks :=
  ⟨h.batch, fun k hk => d.rqInBatch_setRq (h.out k hk) hv⟩

theorem Dev.BatchGone.endReq (h : d.BatchGone n ks) (p i state cause : Nat) : (d.endReq p i state cause).BatchGone n ks := by
  refine .keeps ?_ (d.keepsRequests_endReq p i state cause)
  have hset : (d.setRq i (endedEntry (d.rq i) state cause)).BatchGone n ks := h.setRq fun _ => bitOf_setFld_same _ _ _
  exact ⟨by rw [Dev.leaveLive, tget?_tmap, h.batch, Option.map_none], hset.out⟩

/-- A request that goes back to FREE is in no batch that it was not in before. -/
theorem Dev.BatchGone.freeEnded (h : d.BatchGone n ks) (p : Nat) : (d.freeEnded p).BatchGone n ks := by
  unfold Dev.freeEnded
  refine .keeps ?_ ((Dev.KeepsRequests.refl _).adpSweep p)
  refine Dev.foldl_holds (P := fun e => e.BatchGone n ks) (fun e i _ he => ?_) h
  extract_lets r e₁
  have hkeep : e.KeepsRequests e₁ := .ite ((Dev.KeepsRequests.refl e).modPx ..) (.refl e)
  refine Dev.BatchGone.setRq (d := { e₁ with reqX := tdel e₁.reqX i }) (.keeps he (hkeep.same rfl rfl rfl)) fun hi => ?_
  have hi : rqInBatch (e₁.rq i) = false := hi
  rw [hkeep.rq i] at hi
  rw [rqInBatch, bitOf_setFld_ne _ _ (by decide), bitOf_setFld_ne _ _ (by decide)]
  exact hi

theorem Dev.BatchGone.endNow (h : d.BatchGone n ks) (p i state cause code : Nat) : (d.endNow p i state cause code).BatchGone n ks :=
  .freeEnded ((h.endReq p i state cause).keeps ((Dev.KeepsRequests.refl _).sendRecords ..)) p

end Gone

/-- The entry of a member says that it is in no batch. -/
def Dev.leaveBatch (d : Dev) (m : Nat × Nat) : Dev := d.setRqF m.2 1190 1190 0

theorem Dev.rqInBatch_leaveBatch (d : Dev) (m : Nat × Nat) : rqInBatch ((d.leaveBatch m).rq m.2) = false := by
  rw [Dev.leaveBatch, Dev.setRqF, Dev.rq_setRq_same, rqInBatch, bitOf_ofNat _ (by decide)]
  exact bitOf_setFld_same _ _ _

/-- The members of a batch leave it; the batches stay. -/
theorem Dev.leaveAll_effect (d : Dev) (ms : List (Nat × Nat)) :
    (ms.foldl Dev.leaveBatch d).batches = d.batches ∧ ∀ m ∈ ms, rqInBatch ((ms.foldl Dev.leaveBatch d).rq m.2) = false := by
  refine ⟨Dev.foldl_holds (f := Dev.leaveBatch) (P := fun e => e.batches = d.batches) (fun _ _ _ he => he) rfl, fun m hm => ?_⟩
  exact foldl_establishes (P := fun (m : Nat × Nat) e => rqInBatch (e.rq m.2) = false) Dev.rqInBatch_leaveBatch
    (fun e _ _ he => e.rqInBatch_setRq he fun _ => bitOf_setFld_same _ _ _) hm d

section Close
variable {d : Dev} {n : Nat} {b : Batch} (hbatch : tget? d.batches n = some b)
include hbatch

/-- A batch that closes does not stand, and those who were its members are in no batch. -/
theorem Dev.batchGone_closeBatch : (d.closeBatch n).BatchGone n (b.mems.map Prod.snd) := by
  unfold Dev.closeBatch
  split
  · next hnone => cases hnone.symm.trans hbatch
  next b' hb' =>
  obtain rfl : b' = b := Option.some.inj (hb'.symm.trans hbatch)
  extract_lets p d₁ d₂ d₃ m
  have h₁ : d₁.BatchGone n (b'.mems.map Prod.snd) := by
    obtain ⟨hbatches, hout⟩ := Dev.leaveAll_effect { d with batches := tdel d.batches n } b'.mems
    refine ⟨(congrArg (tget? · n) hbatches).trans (tget?_tdel_same ..), fun k hk => ?_⟩
    obtain ⟨m, hm, rfl⟩ := List.mem_map.1 hk
    exact hout m hm
  have h₂ : d₂.BatchGone n (b'.mems.map Prod.snd) := h₁.keeps ((Dev.KeepsRequests.refl d₁).same rfl rfl rfl)
  have h₃ : d₃.BatchGone n (b'.mems.map Prod.snd) := by
    refine Dev.foldl_holds (P := fun e => e.BatchGone n (b'.mems.map Prod.snd)) (fun e m _ he => ?_) h₂
    split
    · exact he.endNow p m.2 rsDone rcReleased 0
    · exact he
  split
  · exact h₃.keeps ((Dev.KeepsRequests.refl d₃).voidOff p 9)
  · exact h₃

/-- A batch without members closes without a change to requests and memory. -/
theorem Dev.closeBatch_empty (hmems : b.mems = []) : (d.closeBatch n).reqTab = d.reqTab ∧ (d.closeBatch n).mem = d.mem := by
  have hvoid (e : Dev) : (e.voidOff b.ptn 9).reqTab = e.reqTab ∧ (e.voidOff b.ptn 9).mem = e.mem := by
    refine ⟨((Dev.KeepsRequests.refl e).voidOff b.ptn 9).reqTab, ?_⟩
    unfold Dev.voidOff
    dsimp only
    split_ifs <;> rfl
  rw [Dev.closeBatch, hbatch]
  dsimp only
  rw [hmems]
  split
  · exact hvoid _
  · exact ⟨rfl, rfl⟩

end Close

/-! ### BATCH_CLOSE (10, R199) -/

section BatchClose
variable {d : Dev} {i : Item}

theorem Dev.batchClose_notOpen (h : tget? d.batches (numAt i.body 0 2) = none) : d.batchClose i = d.endItem i cBatchInvalid 1 := by
  rw [Dev.batchClose, h]

variable {b : Batch} (hbatch : tget? d.batches (numAt i.body 0 2) = some b) (hptn : b.ptn = i.ptn)
include hbatch hptn

theorem Dev.batchClose_atOnce (hstep : ∀ t, (d.px i.ptn).step = some t → t.batch ≠ numAt i.body 0 2) :
    d.batchClose i = (d.closeBatch (numAt i.body 0 2)).endItem i 0 0 := by
  rw [Dev.batchClose, hbatch]
  dsimp only
  rw [if_neg (not_not.2 hptn)]
  cases hrun : (d.px i.ptn).step with
  | none => exact if_neg Bool.false_ne_true
  | some t => exact if_neg (by simpa using hstep t hrun)

theorem Dev.batchClose_atCommit {t : StepRun} (hstep : (d.px i.ptn).step = some t) (hrun : t.batch = numAt i.body 0 2) :
    d.batchClose i = ({ d with batches := tput d.batches (numAt i.body 0 2) { b with closing := true } } : Dev).endItem i 0 0 := by
  rw [Dev.batchClose, hbatch]
  dsimp only
  rw [if_neg (not_not.2 hptn), hstep]
  exact if_pos (decide_eq_true hrun)

end BatchClose

end Sys2Proof.Machine

namespace Sys2Proof.Proofs

open Sys2Proof Sys2Proof.Machine

/-- Settles O36: an opening that has passed its reads and its checks is opened or refused by R228's proof alone; the batch stands by the puts of its opening; and whatever members a closing batch releases, it is gone and they are in no batch. -/
theorem batchItems : Obligations.BatchItems := by
  unfold Obligations.BatchItems
  refine ⟨?opens, ?proves, ?closes⟩
  case opens =>
    rintro s p i e hdue
    have hrun : exec (.batchOpen p) s = .next ⟨e.batchOpen i, s.pending⟩ := State.upd_serveItem_due hdue _
    rw [hrun]
    refine ⟨fun f idx g hread hcheck hon => ?now, fun hlehr hoff => ?waits⟩
    case now =>
      rw [Dev.batchOpen_on hon, Dev.openRead_reads hread, Dev.proveOpen_checked hcheck]
      obtain ⟨-, -, -, hfields, -⟩ := hcheck
      exact ⟨fun hproof => ⟨_, by rw [Dev.openOrOverload_opens hproof], Dev.batchStands_openBatch hfields g⟩,
        fun c m x hproof => by rw [Dev.openOrOverload_refuses hproof]; rfl⟩
    case waits =>
      obtain ⟨hkeep, hmem⟩ := e.demandAll_effect (doms := e.openDomains i.ptn i.body) fun k hk => lt_of_mem_batchDomains hk
      rw [Dev.batchOpen_waits hlehr hoff, hkeep.openWaits]
      exact ⟨_, rfl, rfl, rfl, hkeep.batches, hkeep.reqTab, hmem⟩
  case proves =>
    rintro s p w d f idx g hw rfl hread hcheck hon hproof
    rw [exec_batchOpenProve, Dev.batchOpenProve_opens hw hon hread hcheck hproof]
    obtain ⟨-, -, -, hfields, -⟩ := hcheck
    exact ⟨_, rfl, Dev.batchStands_openBatch (i := w.toItem p) hfields g⟩
  case closes =>
    rintro s p i e _ hdue rfl
    have hrun : exec (.batchClose p) s = .next ⟨e.batchClose i, s.pending⟩ := State.upd_serveItem_due hdue _
    rw [hrun]
    refine ⟨fun hnone => by rw [Dev.batchClose_notOpen hnone], fun b hbatch hptn hidle hmems => ?_, fun b hbatch hptn hother => ?_,
      fun b t hbatch hptn hstep hthis => by rw [Dev.batchClose_atCommit hbatch hptn hstep hthis]⟩
    · rw [Dev.batchClose_atOnce hbatch hptn fun t ht => by rw [hidle] at ht; cases ht]
      obtain ⟨hreqs, hmem⟩ := Dev.closeBatch_empty hbatch hmems
      exact ⟨_, rfl, (Dev.batchGone_closeBatch hbatch).batch, hreqs, hmem⟩
    · rw [Dev.batchClose_atOnce hbatch hptn hother]
      exact ⟨_, rfl, (Dev.batchGone_closeBatch hbatch).batch, fun m hm => (Dev.batchGone_closeBatch hbatch).out _ (List.mem_map_of_mem hm)⟩

end Sys2Proof.Proofs

/-! SUPPORT. Job items, programs and the watchdog (11, R219–R225, R232, R235; 16, R341): the queues of a cluster around the outcome of an item; PROG_LOAD check by check and PROG_UNLOAD; the fault of a job by the watchdog; and the statements about them. -/

namespace Sys2Proof.Machine

/-! ### The outcome of an item leaves the queues of clusters (14, R303, R304) -/

theorem Dev.keepsQueues_endItem (d : Dev) (i : Item) (code info : Nat) : d.KeepsQueues (d.endItem i code info) :=
  .trans (b := { d with far := d.far.filter fun f => f.who ≠ 0x8000 + i.ptn }) (.of_eq rfl rfl rfl rfl) (Dev.keepsQueues_post ..)

/-- The queues of a cluster that are bound after an item are those that were bound before its outcome. -/
theorem Dev.qBound_endItem (d : Dev) (i : Item) (code info : Nat) {n q : Nat} (hn : n < 0x2000) (hq : q < 8) :
    (d.endItem i code info).qBound n q = d.qBound n q := by
  have hslot : (d.endItem i code info).reg (uPage n) (qOff n q) = d.reg (uPage n) (qOff n q) :=
    (d.keepsQueues_endItem i code info).reg_slot _ (by rw [qOff_clu hn]; omega)
  unfold Dev.qBound Dev.qWeight Dev.getF
  rw [hslot]

theorem exec_jobReserve (p : Fin 25) (s : State) : exec (.jobReserve p) s = .next ⟨s.dev.serveItem p 0x0035 Dev.jobReserve, s.pending⟩ := rfl

/-! ### PROG_LOAD (11, R225; 16, R341) -/

/-- The device that keeps the program of a PROG_LOAD under its handle; a sealed partition has measured it. -/
def Dev.progKept (d : Dev) (i : Item) (g : Image) (img : List Byte) : Dev :=
  let d := if d.ptnSealed i.ptn then d.extendMeas i.ptn (3#8 :: BitVec.ofNat 8 (numAt i.body 0 1) :: shake256 img 32) else d
  d.modPx i.ptn fun y => { y with
    progs := tput y.progs (numAt i.body 0 1)
      { pva := numAt i.body 8 8, len := numAt i.body 0x10 4, clusters := g.clusters, ports := g.ports, lanesMin := g.lanesMin, voids := 0 } }

/-- The outcome of a PROG_LOAD whose image `bs` has been read (R225): its areas, its checks, its signature. -/
def Dev.progRead (d : Dev) (i : Item) (bs : List Byte) (g : Image) (img : List Byte) : Dev :=
  if numAt i.body 0x10 4 < g.ends then d.endItem i cProgInvalid (numAt i.body 0x10 4)
  else match d.progCheck i.ptn g img with
  | some (c, x) => d.endItem i c x
  | none => match (if d.ptnSealed i.ptn then d.progSigned i.ptn img (bytesAt bs (numAt i.body 0x10 4) 1280) else none) with
  | some (c, x) => d.endItem i c x
  | none => (d.progKept i g img).endItem i 0 0

section ProgLoad
variable {d : Dev} {i : Item} (hlehr : d.lehr = 0)
include hlehr

theorem Dev.progLoad_inUse (h : (tget? (d.px i.ptn).progs (numAt i.body 0 1)).isSome = true) : d.progLoad i = d.endItem i cProgBusy (numAt i.body 0 1) := by
  unfold Dev.progLoad
  exact (if_neg (not_not.2 hlehr)).trans (if_pos h)

variable (hfree : tget? (d.px i.ptn).progs (numAt i.body 0 1) = none)
include hfree

theorem Dev.progLoad_unaligned (h : numAt i.body 8 8 % 64 ≠ 0) : d.progLoad i = d.endItem i cProgInvalid 0 := by
  unfold Dev.progLoad
  dsimp only
  rw [if_neg (not_not.2 hlehr), hfree, if_neg (by decide)]
  exact if_pos h

variable (halign : numAt i.body 8 8 % 64 = 0)
include halign

theorem Dev.progLoad_short (h : numAt i.body 0x10 4 < 256) : d.progLoad i = d.endItem i cProgInvalid (numAt i.body 0x10 4) := by
  unfold Dev.progLoad
  dsimp only
  rw [if_neg (not_not.2 hlehr), hfree, if_neg (by decide), if_neg (not_not.2 halign)]
  exact if_pos h

theorem Dev.progLoad_reads {f : Dev} {bs : List Byte} (hlen : 256 ≤ numAt i.body 0x10 4)
    (hread : d.intakeRead i.ptn (numAt i.body 8 8) (numAt i.body 0x10 4 + if d.ptnSealed i.ptn then 1280 else 0) = (f, .ok (bs, false))) :
    d.progLoad i = f.progRead i bs ⟨numAt i.body 8 8, bytesAt (bytesAt bs 0 (numAt i.body 0x10 4)) 0 256⟩ (bytesAt bs 0 (numAt i.body 0x10 4)) := by
  unfold Dev.progLoad
  dsimp only
  rw [if_neg (not_not.2 hlehr), hfree, if_neg (by decide), if_neg (not_not.2 halign), if_neg (Nat.not_lt.2 hlen), hread]
  rfl

end ProgLoad

section ProgRead
variable {d : Dev} {i : Item} {bs img : List Byte} {g : Image}

theorem Dev.progRead_overlong (h : numAt i.body 0x10 4 < g.ends) : d.progRead i bs g img = d.endItem i cProgInvalid (numAt i.body 0x10 4) := if_pos h

variable (hends : g.ends ≤ numAt i.body 0x10 4)
include hends

theorem Dev.progRead_fails {c x : Nat} (h : d.progCheck i.ptn g img = some (c, x)) : d.progRead i bs g img = d.endItem i c x := by
  rw [Dev.progRead, if_neg (Nat.not_lt.2 hends), h]

theorem Dev.progRead_passes (hcheck : d.progCheck i.ptn g img = none)
    (hsigned : (if d.ptnSealed i.ptn then d.progSigned i.ptn img (bytesAt bs (numAt i.body 0x10 4) 1280) else none) = none) :
    d.progRead i bs g img = (d.progKept i g img).endItem i 0 0 := by
  rw [Dev.progRead, if_neg (Nat.not_lt.2 hends), hcheck]
  dsimp only
  rw [hsigned]

end ProgRead

theorem Dev.regsOnly_extendMeas (d : Dev) (p : Nat) (bs : List Byte) : d.RegsOnly (d.extendMeas p bs) :=
  d.regsOnly_each _ _ fun e _ => e.regsOnly_setReg ..

/-- The program stands under its handle; beside it a sealed partition's measurement changes at most. -/
theorem Dev.progKept_effect (d : Dev) (i : Item) (g : Image) (img : List Byte) :
    tget? ((d.progKept i g img).px i.ptn).progs (numAt i.body 0 1) =
        some { pva := numAt i.body 8 8, len := numAt i.body 0x10 4, clusters := g.clusters, ports := g.ports, lanesMin := g.lanesMin, voids := 0 } ∧
      (d.progKept i g img).mem = d.mem ∧ (d.progKept i g img).jobs = d.jobs ∧ (d.ptnSealed i.ptn = false → (d.progKept i g img).csr = d.csr) := by
  have hmeas : d.RegsOnly (if d.ptnSealed i.ptn then d.extendMeas i.ptn (3#8 :: BitVec.ofNat 8 (numAt i.body 0 1) :: shake256 img 32) else d) :=
    .ite (d.regsOnly_extendMeas ..) (.refl d)
  refine ⟨by rw [Dev.progKept, Dev.px_modPx_same, tget?_tput_same], hmeas.mem, hmeas.jobs, fun h => ?_⟩
  rw [Dev.progKept, h]
  rfl

/-! ### PROG_UNLOAD (11, R225, R229) -/

section ProgUnload
variable {d : Dev} {i : Item}

/-- The device without the program; the causes that only it carried have ended. -/
def Dev.progGone (d : Dev) (i : Item) : Dev := (d.modPx i.ptn fun x => { x with progs := tdel x.progs (numAt i.body 0 1) }).voidUnload i.ptn

theorem Dev.progUnload_none (h : tget? (d.px i.ptn).progs (numAt i.body 0 1) = none) : d.progUnload i = d.endItem i cProgInvalid 0 :=
  if_pos (by rw [h]; rfl)

variable (hsome : (tget? (d.px i.ptn).progs (numAt i.body 0 1)).isSome = true)
include hsome

theorem Dev.progUnload_busy (h : ((d.ptnBatches i.ptn).any fun b => b.2.prog = numAt i.body 0 1) = true) : d.progUnload i = d.endItem i cProgBusy (numAt i.body 0 1) :=
  (if_neg (by simpa [Option.isSome_iff_ne_none] using hsome)).trans (if_pos h)

theorem Dev.progUnload_free (h : ((d.ptnBatches i.ptn).any fun b => b.2.prog = numAt i.body 0 1) = false) : d.progUnload i = (d.progGone i).endItem i 0 0 :=
  (if_neg (by simpa [Option.isSome_iff_ne_none] using hsome)).trans (if_neg (Bool.eq_false_iff.1 h))

end ProgUnload

theorem Dev.regsOnly_voidOff (d : Dev) (p c : Nat) : d.RegsOnly (d.voidOff p c) := by
  have hbit := d.regsOnly_setBit (pPtn p) 0x3A4 c false
  exact .ite (.refl d) (.ite (hbit.trans (Dev.regsOnly_record ..)) hbit)

theorem Dev.regsOnly_voidUnload (d : Dev) (p : Nat) : d.RegsOnly (d.voidUnload p) :=
  d.regsOnly_foldl _ (fun e c => .ite (.refl e) (e.regsOnly_voidOff p c)) _

theorem Dev.progGone_effect (d : Dev) (i : Item) :
    tget? ((d.progGone i).px i.ptn).progs (numAt i.body 0 1) = none ∧ (d.progGone i).mem = d.mem ∧ (d.progGone i).jobs = d.jobs := by
  have hvoid := Dev.regsOnly_voidUnload (d.modPx i.ptn fun x => { x with progs := tdel x.progs (numAt i.body 0 1) }) i.ptn
  refine ⟨?_, hvoid.mem, hvoid.jobs⟩
  rw [Dev.progGone, Dev.px, hvoid.ptnx, ← Dev.px, Dev.px_modPx_same, tget?_tdel_same]

/-! ### The watchdog (11, R235) -/

/-- A fault of a job in a cluster, whatever queue it names. -/
theorem Dev.jobFault_clu (d : Dev) {n : Nat} (hn : n < 0x2000) (q j : Nat) {code : Nat} (hc : code < 2 ^ 16) (info : Nat) :
    d.JobFaulted (d.jobFault n q j code info) n q j code info := by
  rw [Dev.jobFault]
  obtain hq | hq := Nat.lt_or_ge q 8
  · exact d.jobFaultM_faulted hn hq j hc info none
  have hnot : q ∉ d.jobQueues n j := fun hmem => Nat.not_lt.2 hq (lt_of_mem_jobQueues hn hmem)
  cases hb : d.abortBegun j with
  | true =>
    have hjobs := ((d.jobFaulting n j code info none).regsOnly_setQFault n q 5 code).jobs
    have hset := (d.jobFaulting n j code info none).sameRegsBut_setQFault_unit n q 5 code
    rw [Dev.jobFaultM_begun hb]
    refine Dev.jobFaulted_of_noted (fun off ho => hset.reg ?_) (by rw [Dev.job, hjobs, ← Dev.job]) (by rw [Dev.job, hjobs, ← Dev.job]) fun h => absurd h hnot
    rw [qOff_clu hn]
    simp
    omega
  | false =>
    obtain ⟨habort, -⟩ := (d.jobFaulting n j code info none).abortUnit_clu hn j q hc 4
    have hkeep := habort.trans ((d.jobFaulting n j code info none).keepsQueues_faultAbort n q j code info ((d.fault (uPage n) code info).job j)).header
    rw [Dev.jobFaultM_first hb]
    exact Dev.jobFaulted_of_noted (fun off ho => hkeep.reg_header _ ho) (hkeep.code j) (hkeep.state j) fun h => absurd h hnot

/-- The watchdog's code is that of a fault in a cluster or in a marver. -/
theorem Dev.jobFault_watched (d : Dev) {u : UnitKey} (hu : u < 800 ∨ 0x2000 ≤ u ∧ u < 0x2018) (q j info : Nat) :
    d.JobFaulted (d.jobFault u q j 0x5002 info) u q j 0x5002 info := by
  obtain hclu | ⟨hle, hlt⟩ := hu
  · exact d.jobFault_clu (hclu.trans (by decide)) q j (by decide) info
  · obtain ⟨k, rfl⟩ := Nat.exists_eq_add_of_le hle
    exact (d.jobFault_mvr (Nat.lt_of_add_lt_add_left hlt) q j (by decide) info).1

section Watchdog
variable {s : State} {u : Fin 0x4000} {k : Fin 33}

theorem exec_nonpreemptWatchdog_expired {q j t : Nat} (h : (s.dev.watched u k).find? (fun c => c.2.2 + 10000 ≤ s.dev.ao) = some (q, j, t)) :
    exec (.nonpreemptWatchdog u k) s = .next ⟨s.dev.jobFault u q j 0x5002 ((s.dev.ao - t - 10000) % 65536), s.pending⟩ := by
  change execNonpreemptWatchdog u k s = _
  rw [execNonpreemptWatchdog, State.upd_eq, h]

theorem exec_nonpreemptWatchdog_none (h : ∀ c ∈ s.dev.watched u k, s.dev.ao < c.2.2 + 10000) : exec (.nonpreemptWatchdog u k) s = .next s := by
  have hnone : (s.dev.watched u k).find? (fun c => c.2.2 + 10000 ≤ s.dev.ao) = none := List.find?_eq_none.2 fun c hc => by simpa using h c hc
  change execNonpreemptWatchdog u k s = _
  rw [execNonpreemptWatchdog, State.upd_eq, hnone]

end Watchdog

end Sys2Proof.Machine

namespace Sys2Proof.Proofs

open Sys2Proof Sys2Proof.Machine

/-- Refutes O30: JOB_RESERVE binds the queues of a cluster with the weight of its job, and weight 0 is unbound; a job of an arbitrary state may hold it (JOB_CREATE makes none). Here reserved job 1 of partition 0 has weight 0, and its JOB_RESERVE item lists cluster 0: nothing refuses the cluster, and queue 0 of it is not bound after the item. -/
theorem not_jobItems : ¬ Obligations.JobItems := by
  unfold Obligations.JobItems
  rintro ⟨-, -, -, -, -, hreserve, -⟩
  obtain ⟨hreserved, -⟩ := hreserve
    ⟨{ csr := [(pPwr.base + rDom 0, 0), ((pPtn 0).base + 0x0C, 4), ((pClu 0).base + 0x24, 0)]
       jobs := [(1, { cls := 3 })]
       work := [⟨1, 0, 0, 7, 0, [(0x0035, [1, 0, 0, 0, 1] ++ List.replicate 99 0)], [], 0, false, none, none⟩] }, []⟩
    0 _ _ 1 _ rfl (by decide) rfl (by decide +kernel) (by decide +kernel)
  obtain ⟨f, hexec, hqueues, -⟩ := hreserved (by decide +kernel)
  rw [exec_jobReserve] at hexec
  obtain ⟨hdev, -⟩ := State.mk.inj (Host.Outcome.next.inj hexec)
  obtain ⟨-, hbound⟩ := hqueues 0 (by decide +kernel)
  obtain ⟨hbound, -⟩ := hbound 0
  rw [← Dev.qBound_endItem f _ 0 0 (by decide) (by decide), ← hdev] at hbound
  exact absurd hbound (by decide +kernel)

/-- Settles O31: each clause of the items is the branch of PROG_LOAD or PROG_UNLOAD that its checks choose; the watchdog is the fault of a job in a cluster (`Dev.jobFault_clu`) or in a marver (`Dev.jobFault_mvr`). -/
theorem programItemsAndWatchdog : Obligations.ProgramItemsAndWatchdog := by
  unfold Obligations.ProgramItemsAndWatchdog
  refine ⟨?load, ?unload, fun s u k => ⟨fun q j t h => ?expired, exec_nonpreemptWatchdog_none⟩⟩
  case load =>
    intro s p i e hdue hlehr
    have hrun : exec (.progLoad p) s = .next ⟨e.progLoad i, s.pending⟩ := State.upd_serveItem_due hdue _
    rw [hrun]
    refine ⟨fun h => by rw [Dev.progLoad_inUse hlehr h], fun hfree h => by rw [Dev.progLoad_unaligned hlehr hfree h],
      fun hfree halign h => by rw [Dev.progLoad_short hlehr hfree halign h], ?_⟩
    rintro f bs g _ hfree rfl halign hlen hread rfl
    rw [Dev.progLoad_reads hlehr hfree halign hlen hread]
    refine ⟨fun h => by rw [Dev.progRead_overlong h], fun hends hcheck hsigned => ?_, fun c x hends h => by rw [Dev.progRead_fails hends h]⟩
    obtain ⟨hkept, hmem, hjobs, hcsr⟩ := f.progKept_effect i ⟨numAt i.body 8 8, bytesAt (bytesAt bs 0 (numAt i.body 0x10 4)) 0 256⟩ (bytesAt bs 0 (numAt i.body 0x10 4))
    exact ⟨_, _, by rw [Dev.progRead_passes hends hcheck hsigned], hkept, rfl, rfl, rfl, rfl, rfl, rfl, hmem, hjobs, hcsr⟩
  case unload =>
    intro s p i e hdue
    have hrun : exec (.progUnload p) s = .next ⟨e.progUnload i, s.pending⟩ := State.upd_serveItem_due hdue _
    rw [hrun]
    exact ⟨fun h => by rw [Dev.progUnload_none h], fun hsome h => by rw [Dev.progUnload_busy hsome h],
      fun hsome h => ⟨_, by rw [Dev.progUnload_free hsome h], e.progGone_effect i⟩⟩
  case expired => exact ⟨_, exec_nonpreemptWatchdog_expired h, rfl, fun hu => s.dev.jobFault_watched hu q j _⟩

end Sys2Proof.Proofs

/-! SUPPORT. A step of the model (02; log entry 1): every command is an update of the device, a step with a command at the front performs it, and the queue drains in order. -/

namespace Sys2Proof.Machine

/-- The meaning of every command is an update of the device: it answers a next state, and neither reads nor changes the queue. -/
theorem exec_isUpd (c : Instr) : ∃ f : Dev → Dev, ∀ s, exec c s = s.upd f := by
  cases c <;> simp only [exec] <;> exact ⟨_, fun _ => rfl⟩

theorem exec_eq_after (c : Instr) (s : State) : exec c s = .next ⟨s.dev.after c, s.pending⟩ := by
  obtain ⟨f, hf⟩ := exec_isUpd c
  simp [Dev.after, hf]

/-- A step with a command at the front performs it and takes it off the queue. -/
theorem step_cons (d : Dev) (c : Instr) (rest : List Instr) : step ⟨d, c :: rest⟩ = .next ⟨d.after c, rest⟩ :=
  exec_eq_after c ⟨d, rest⟩

/-- As many steps as the queue holds commands perform them in order and leave the queue empty. -/
theorem runs_pending (l : List Instr) (d : Dev) : State.Runs l.length ⟨d, l⟩ ⟨l.foldl Dev.after d, []⟩ := by
  induction l generalizing d with
  | nil => rfl
  | cons c rest ih => exact ⟨_, step_cons d c rest, ih (d.after c)⟩

end Sys2Proof.Machine

namespace Sys2Proof.Proofs

open Sys2Proof Sys2Proof.Machine

/-- Settles O1: the front command is taken off the queue before it is performed. -/
theorem stepPerformsFrontCommand : Obligations.StepPerformsFrontCommand := fun _ _ _ => rfl

/-- Settles O4: every meaning is an update of the device (`exec_eq_after`), so that the queue drains by induction on its length. -/
theorem queueDrainsInOrder : Obligations.QueueDrainsInOrder :=
  ⟨fun c s => ⟨_, exec_eq_after c s, rfl⟩, fun s => ⟨_, runs_pending s.pending s.dev, rfl, rfl⟩⟩

end Sys2Proof.Proofs

/-! SUPPORT. The queue commands of the compute DMA engines (12, R247; 13, R265–R267): what a command that leaves its queue touches, a signal to a flag of this device or of another; and the statement about them. -/

namespace Sys2Proof.Machine

/-! ### What leaves everything but the engines and the link as it is -/

/-- `d'` differs from `d` in what its compute DMA engines hold beside their registers only. -/
def Dev.DmasOnly (d d' : Dev) : Prop := d' = { d with dmas := d'.dmas }

theorem Dev.DmasOnly.trans {a b c : Dev} (h : a.DmasOnly b) (h' : b.DmasOnly c) : a.DmasOnly c := by
  unfold Dev.DmasOnly at *
  rw [h', h]

theorem Dev.DmasOnly.csr {d d' : Dev} (h : d.DmasOnly d') : d'.csr = d.csr := by rw [h]
theorem Dev.DmasOnly.mem {d d' : Dev} (h : d.DmasOnly d') : d'.mem = d.mem := by rw [h]
theorem Dev.DmasOnly.jobs {d d' : Dev} (h : d.DmasOnly d') : d'.jobs = d.jobs := by rw [h]
theorem Dev.DmasOnly.flag {d d' : Dev} (h : d.DmasOnly d') (p : Page) (n : Nat) : d'.flag p n = d.flag p n := by rw [h]; rfl
theorem Dev.DmasOnly.dom {d d' : Dev} (h : d.DmasOnly d') (n : Nat) : d'.dom n = d.dom n := by rw [h]; rfl
theorem Dev.DmasOnly.sigLocal {d d' : Dev} (h : d.DmasOnly d') (w : Nat) : d'.sigLocal w = d.sigLocal w := by rw [h]; rfl

theorem Dev.dmasOnly_modDma (d : Dev) (e : Nat) (f : Dmac → Dmac) : d.DmasOnly (d.modDma e f) := rfl

theorem Dev.RegsOnly.qCmds_dma {d d' : Dev} (h : d.RegsOnly d') (e q : Nat) : d'.qCmds (dU e) q = d.qCmds (dU e) q := by
  rw [Dev.qCmds_dma, Dev.qCmds_dma, Dev.dma, Dev.dma, h.dmas]

theorem Dev.qFence_dma (d : Dev) (e q : Nat) : d.qFence (dU e) q = ((d.dma e).q q).fence := by
  rw [Dev.qFence, if_neg (not_dU_lt e (by decide)), if_neg (not_dU_lt e (by decide)), dU_sub]

theorem Dev.setFence_dma (d : Dev) (e q : Nat) (v : Option Nat) : d.setFence (dU e) q v = d.modDq e q fun x => { x with fence := v } := by
  rw [Dev.setFence, if_neg (not_dU_lt e (by decide)), if_neg (not_dU_lt e (by decide)), dU_sub]

/-! ### A command leaves the head of its queue (R265) -/

/-- A WAIT at the head starts to be timed, or nothing changes. -/
theorem Dev.qArm_dma_cases (d : Dev) (e q : Nat) : d.qArm (dU e) q = d ∨ ∃ v, d.qArm (dU e) q = d.modDq e q fun x => { x with waitAt := v } := by
  unfold Dev.qArm
  split
  · exact .inl rfl
  · dsimp only
    split
    · exact .inr ⟨_, by rw [if_neg (not_dU_lt e (by decide)), if_neg (not_dU_lt e (by decide)), dU_sub]⟩
    · exact .inl rfl

/-- What a queue holds once `n` commands have left its head; nothing but the engine's queues changes. -/
theorem Dev.qPop_dma (d : Dev) (e : Nat) {q : Nat} (hq : q < 2) (n : Nat) :
    d.DmasOnly (d.qPop (dU e) q n) ∧ ∃ v, ((d.qPop (dU e) q n).dma e).q q = { (d.dma e).q q with cmds := ((d.dma e).q q).cmds.drop n, waitAt := v } := by
  have hdrop := d.dma_modDq_q e q (fun x => { x with cmds := x.cmds.drop n, waitAt := none }) hq
  rw [if_pos rfl, ← Dev.qDrop_dma d] at hdrop
  have honly : d.DmasOnly (d.qDrop (dU e) q n) := d.qDrop_dma e q n ▸ d.dmasOnly_modDma e _
  obtain harm | ⟨v, harm⟩ := (d.qDrop (dU e) q n).qArm_dma_cases e q
  · exact ⟨by rwa [Dev.qPop, harm], none, by rw [Dev.qPop, harm, hdrop]⟩
  · exact ⟨honly.trans (by rw [Dev.qPop, harm]; exact Dev.dmasOnly_modDma _ e _),
      v, by rw [Dev.qPop, harm, Dev.dma_modDq_q _ _ _ _ hq, if_pos rfl, hdrop]⟩

theorem Dev.qCmds_qPop_dma (d : Dev) (e : Nat) {q : Nat} (hq : q < 2) (n : Nat) : (d.qPop (dU e) q n).qCmds (dU e) q = (d.qCmds (dU e) q).drop n := by
  obtain ⟨-, v, hleft⟩ := d.qPop_dma e hq n
  rw [Dev.qCmds_dma, Dev.qCmds_dma, hleft, List.map_drop]

/-- A FENCE at the head leaves its queue and holds it; nothing but engines changes. -/
theorem Dev.fence_dma (d : Dev) (e : Nat) {q : Nat} (hq : q < 2) (scope : Nat) :
    let t := (d.setFence (dU e) q (some scope)).qPop (dU e) q 1
    d.DmasOnly t ∧ t.qCmds (dU e) q = (d.qCmds (dU e) q).drop 1 ∧ t.qFence (dU e) q = some scope := by
  have hset := d.setFence_dma e q (some scope)
  have hheld : ((d.setFence (dU e) q (some scope)).dma e).q q = { (d.dma e).q q with fence := some scope } := by
    rw [hset, Dev.dma_modDq_q _ _ _ _ hq, if_pos rfl]
  obtain ⟨hpop, v, hleft⟩ := (d.setFence (dU e) q (some scope)).qPop_dma e hq 1
  rw [hheld] at hleft
  refine ⟨.trans (hset ▸ d.dmasOnly_modDma e _) hpop, ?_, ?_⟩
  · rw [Dev.qCmds_dma, Dev.qCmds_dma, hleft, List.map_drop]
  · rw [Dev.qFence_dma, hleft]

/-! ### Signals (R267) -/

/-- What sending an operation may touch: routes, the operations that wait, responses asked for, the frames of ports. -/
theorem Dev.sendOp_eq (d : Dev) (o : HeldOp) :
    d.sendOp o = { d with heldOps := (d.sendOp o).heldOps, routes := (d.sendOp o).routes, reqs := (d.sendOp o).reqs, ports := (d.sendOp o).ports } := by
  unfold Dev.sendOp
  dsimp only
  split
  · rfl
  · unfold Dev.routeOp
    split
    · rfl
    · cases o.req <;> rfl

/-- A signal to a flag of a page with power adds to it. -/
theorem Dev.signalLocal_on {d : Dev} {P : Page} {stack : Bool} {t : Nat} (hP : P = if stack then pStk t 1 else pClu t) (hon : d.pageOff P = false) (f amount : Nat) :
    d.signalLocal stack t f amount = d.addFlag P f amount := by
  subst hP
  have hdom : d.dom (if stack then 80 + t else t / 10) ≠ dsOff := by
    cases stack
    · exact of_decide_eq_false hon
    · have hdomain : (pStk t 1).domain = 80 + t := by
        show 80 + (4 * t + 1) / 4 = 80 + t
        omega
      rw [if_pos rfl, Dev.pageOff, hdomain] at hon
      exact of_decide_eq_false hon
  cases stack
  · exact if_neg hdom
  · exact if_neg hdom

section Served
variable {s : State} {e : Fin 256} {q : Fin 2} {w : Nat} (h : s.dev.DmaServed e q w)
include h

theorem exec_dmaNop_served (hop : fld w 7 0 = 0x00) : exec (.dmaNop e q) s = .next ⟨s.dev.qPop (dU e) q 1, s.pending⟩ :=
  congrArg (fun d => Host.Outcome.next (State.mk d s.pending)) (Dev.dmaServe_served h hop _)

theorem exec_dmaFence_served (hop : fld w 7 0 = 0x08) :
    exec (.dmaFence e q) s = .next ⟨(s.dev.setFence (dU e) q (some (dmScope w))).qPop (dU e) q 1, s.pending⟩ :=
  congrArg (fun d => Host.Outcome.next (State.mk d s.pending)) (Dev.dmaServe_served h hop _)

theorem exec_dmaWait_served (hop : fld w 7 0 = 0x06) :
    exec (.dmaWait e q) s = .next ⟨if dmWtThreshold w ≤ s.dev.flag (dmWtPage w) (dmWtFlag w) then
      if dmWtConsume w then (s.dev.qPop (dU e) q 1).subFlag (dmWtPage w) (dmWtFlag w) (dmWtThreshold w) else s.dev.qPop (dU e) q 1 else s.dev, s.pending⟩ :=
  congrArg (fun d => Host.Outcome.next (State.mk d s.pending)) (Dev.dmaServe_served h hop _)

theorem exec_dmaSignal_local (hop : fld w 7 0 = 0x07) (hlocal : s.dev.sigLocal w = true) :
    exec (.dmaSignal e q) s = .next ⟨(s.dev.qPop (dU e) q 1).signalLocal (dmSigKind w) (dmSigTarget w) (dmSigFlag w) (dmAmount w), s.pending⟩ := by
  obtain ⟨hpop, -⟩ := s.dev.qPop_dma e q.isLt 1
  refine congrArg (fun d => Host.Outcome.next (State.mk d s.pending)) ((Dev.dmaServe_served h hop _).trans (if_pos ?_))
  rw [hpop.sigLocal, hlocal]

/-- A signal to another device leaves its queue and is sent: nothing but engines and the link's sending side changes. -/
theorem exec_dmaSignal_remote (hop : fld w 7 0 = 0x07) (hremote : s.dev.sigLocal w = false) :
    ∃ f o, f = { s.dev.qPop (dU e) q 1 with nextId := f.nextId } ∧ exec (.dmaSignal e q) s = .next ⟨Dev.sendOp f o, s.pending⟩ := by
  obtain ⟨hpop, -⟩ := s.dev.qPop_dma e q.isLt 1
  refine ⟨(s.dev.qPop (dU e) q 1).takeId.2, _, rfl,
    congrArg (fun d => Host.Outcome.next (State.mk d s.pending)) ((Dev.dmaServe_served h hop _).trans (if_neg ?_))⟩
  rw [hpop.sigLocal, hremote]
  decide

end Served

theorem exec_dmaWaitTimeout_passed {s : State} {e : Fin 256} {q : Fin 2} {w at_ lim : Nat} (hhead : s.dev.qHead (dU e) q = some w)
    (hwait : s.dev.qWaiting (dU e) q = some (at_, lim)) (hop : fld w 7 0 = 0x06) (hflag : s.dev.flag (dmWtPage w) (dmWtFlag w) < dmWtThreshold w)
    (hlim : at_ + lim ≤ s.dev.ao) :
    exec (.dmaWaitTimeout e q) s = .next ⟨s.dev.jobFault (dU e) q (s.dev.qJob (dU e) q) 0x5001
      (dmWtFlag w + q.val * 256 + s.dev.flag (dmWtPage w) (dmWtFlag w) * 65536), s.pending⟩ := by
  change execDmaWaitTimeout e q s = _
  rw [execDmaWaitTimeout, State.upd_eq, hhead, hwait]
  simp [hop, hflag, hlim]

end Sys2Proof.Machine

namespace Sys2Proof.Proofs

open Sys2Proof Sys2Proof.Machine

/-- Settles O24: a served head leaves its queue, which touches engines alone, and acts on its flag, on another device's or on the queue; a WAIT beyond its limit is the fault of a job in an engine (`Dev.jobFault_dma`). -/
theorem dmaQueueCommandsComplete : Obligations.DmaQueueCommandsComplete := by
  unfold Obligations.DmaQueueCommandsComplete
  refine ⟨fun s e q w hserved => ?served, fun s e q w at_ lim hhead hwait hop hflag hlim => ?timeout⟩
  case served =>
    obtain ⟨hdmas, -⟩ := s.dev.qPop_dma e q.isLt 1
    have hcmds := s.dev.qCmds_qPop_dma e q.isLt 1
    refine ⟨fun hop => ?nop, fun P hop hlocal hP hon => ?signal, fun hop hremote => ?remote, fun hop hready => ?wait, fun hop hlow => ?waits, fun hop => ?fence⟩
    case nop => exact ⟨_, exec_dmaNop_served hserved hop, rfl, hcmds, hdmas.csr, hdmas.mem, hdmas.jobs⟩
    case signal =>
      have hregs := (s.dev.qPop (dU e) q 1).regsOnly_addFlag P (dmSigFlag w) (dmAmount w)
      refine ⟨_, exec_dmaSignal_local hserved hop hlocal, rfl, ?_⟩
      rw [Dev.signalLocal_on hP (by rw [Dev.pageOff, hdmas.dom]; exact hon)]
      exact ⟨(hregs.qCmds_dma e q).trans hcmds, (Dev.flag_addFlag ..).trans (by rw [hdmas.flag]),
        Dev.SameRegsBut.of_csr (Dev.sameRegsBut_addFlag _ _ _ _) hdmas.csr, hregs.mem.trans hdmas.mem, hregs.jobs.trans hdmas.jobs⟩
    case remote =>
      obtain ⟨f, o, hf, hexec⟩ := exec_dmaSignal_remote hserved hop hremote
      refine ⟨_, hexec, rfl, ?_⟩
      rw [Dev.sendOp_eq, hf]
      exact ⟨hcmds, fun p n => hdmas.flag p n, hdmas.mem, hdmas.jobs⟩
    case wait =>
      refine ⟨_, exec_dmaWait_served hserved hop, rfl, ?_⟩
      rw [if_pos hready]
      cases hconsume : dmWtConsume w with
      | true =>
        have hregs := (s.dev.qPop (dU e) q 1).regsOnly_subFlag (dmWtPage w) (dmWtFlag w) (dmWtThreshold w)
        exact ⟨(hregs.qCmds_dma e q).trans hcmds, (Dev.flag_subFlag ..).trans (by rw [hdmas.flag]; rfl),
          Dev.SameRegsBut.of_csr (Dev.sameRegsBut_subFlag _ _ _ _) hdmas.csr, hregs.mem.trans hdmas.mem, hregs.jobs.trans hdmas.jobs⟩
      | false => exact ⟨hcmds, hdmas.flag _ _, Dev.SameRegsBut.of_csr (.refl _ _ _) hdmas.csr, hdmas.mem, hdmas.jobs⟩
    case waits => exact ⟨s, (exec_dmaWait_served hserved hop).trans (by rw [if_neg (Nat.not_le.2 hlow)]), rfl⟩
    case fence =>
      obtain ⟨honly, hleft, hheld⟩ := s.dev.fence_dma e q.isLt (dmScope w)
      exact ⟨_, exec_dmaFence_served hserved hop, rfl, hleft, hheld, honly.csr, honly.mem, honly.jobs⟩
  case timeout =>
    exact ⟨_, exec_dmaWaitTimeout_passed hhead hwait hop hflag hlim, rfl, s.dev.jobFault_dma e q.isLt _ (by decide) _⟩

end Sys2Proof.Proofs

/-! SUPPORT. Messages that leave this device (14, R295, R298, R306): what sending one touches; event messages; and the statements about the intake that fail. -/

namespace Sys2Proof.Machine

/-! ### What sending an operation or a message touches (13, R286; 14, R298) -/

/-- `d'` differs from `d` in what its link layer holds to be sent only: the operations, requests and messages, their numbers, the routes and the ports; and the destinations of the bridge. -/
def Dev.SendsOnly (d d' : Dev) : Prop :=
  d' = { d with
    heldOps := d'.heldOps, reqs := d'.reqs, ports := d'.ports, routes := d'.routes, outMsgs := d'.outMsgs
    nextId := d'.nextId, nextMid := d'.nextMid, dests := d'.dests }

theorem Dev.SendsOnly.trans {a b c : Dev} (h : a.SendsOnly b) (h' : b.SendsOnly c) : a.SendsOnly c := by
  unfold Dev.SendsOnly at *
  rw [h', h]

theorem Dev.SendsOnly.mem {d d' : Dev} (h : d.SendsOnly d') : d'.mem = d.mem := by rw [h]
theorem Dev.SendsOnly.csr {d d' : Dev} (h : d.SendsOnly d') : d'.csr = d.csr := by rw [h]
theorem Dev.SendsOnly.evSeq {d d' : Dev} (h : d.SendsOnly d') : d'.evSeq = d.evSeq := by rw [h]
theorem Dev.SendsOnly.events {d d' : Dev} (h : d.SendsOnly d') : d'.events = d.events := by rw [h]

theorem Dev.sendsOnly_sendOp (d : Dev) (o : HeldOp) : d.SendsOnly (d.sendOp o) := by
  unfold Dev.SendsOnly
  rw [Dev.sendOp_eq]

/-- An operation joins those held or the frames of a port: the messages under way stay. -/
theorem Dev.outMsgs_sendOp (d : Dev) (o : HeldOp) : (d.sendOp o).outMsgs = d.outMsgs := by rw [Dev.sendOp_eq]

theorem Dev.sendsOnly_segOps (d : Dev) (peer cls mid domain : Nat) (data : List Byte) (l : List Nat) : d.SendsOnly (d.segOps peer cls mid domain data l).2 := by
  induction l generalizing d with
  | nil => rfl
  | cons i t ih => exact .trans (b := d.takeId.2) rfl (ih _)

/-- Sending a message adds it to the messages under way. -/
theorem Dev.sendMsgAs_effect (d : Dev) (peer cls mid domain : Nat) (data : List Byte) :
    d.SendsOnly (d.sendMsgAs peer cls mid domain data) ∧
      ∃ ids, ⟨mid, peer, cls, data, none, ids, domain⟩ ∈ (d.sendMsgAs peer cls mid domain data).outMsgs := by
  unfold Dev.sendMsgAs
  generalize hsegs : d.segOps peer cls mid domain data (List.range (ceilDiv data.length 8192)) = r
  have hsegs : d.SendsOnly r.2 := hsegs ▸ d.sendsOnly_segOps ..
  have hops : ∀ (l : List HeldOp) (e : Dev), e.SendsOnly (l.foldl Dev.sendOp e) ∧ (l.foldl Dev.sendOp e).outMsgs = e.outMsgs := fun l => by
    induction l with
    | nil => exact fun e => ⟨rfl, rfl⟩
    | cons o t ih => exact fun e => ⟨(e.sendsOnly_sendOp o).trans (ih _).1, (ih _).2.trans (e.outMsgs_sendOp o)⟩
  obtain ⟨honly, hout⟩ := hops r.1 { r.2 with outMsgs := r.2.outMsgs ++ [⟨mid, peer, cls, data, none, r.1.map HeldOp.id, domain⟩] }
  refine ⟨hsegs.trans (.trans (b := { r.2 with outMsgs := _ }) rfl honly), r.1.map HeldOp.id, ?_⟩
  dsimp only
  rw [hout]
  exact List.mem_append_right _ (List.mem_singleton_self _)

theorem Dev.sendMsgTo_effect (d : Dev) (peer cls domain : Nat) (data : List Byte) :
    d.SendsOnly (d.sendMsgTo peer cls domain data) ∧ ∃ m ∈ (d.sendMsgTo peer cls domain data).outMsgs, m.dev = peer ∧ m.cls = cls ∧ m.data = data := by
  obtain ⟨honly, ids, hmem⟩ := Dev.sendMsgAs_effect { d with nextMid := (d.nextMid + 1) % 2 ^ 32 } peer cls d.nextMid domain data
  exact ⟨.trans (b := { d with nextMid := (d.nextMid + 1) % 2 ^ 32 }) rfl honly, _, hmem, rfl, rfl, rfl⟩

theorem Dev.sendsOnly_sendUp (d : Dev) (data : List Byte) : d.SendsOnly (d.sendUp data) := by
  unfold Dev.sendUp
  split
  · rfl
  · split
    · rfl
    · exact (d.sendMsgTo_effect ..).1

/-! ### Event messages (14, R306) -/

theorem leBytes_length (n v : Nat) : (leBytes n v).length = n := by
  induction n generalizing v with
  | zero => rfl
  | succ n ih => exact congrArg (· + 1) (ih _)

theorem bytesAt_length (l : List Byte) (off n : Nat) : (bytesAt l off n).length = n := by
  unfold bytesAt
  simp only [List.length_append, List.length_replicate, List.length_take]
  omega

theorem EvRec.bytes_length (e : EvRec) : e.bytes.length = 64 := by
  simp [EvRec.bytes, leBytes_length, bytesAt_length]

/-- The oldest records of a list that leave together: at most 16, all within 500 ao-cycles of time `t`. -/
def evRun (t : Nat) (l : List EvRec) : List EvRec := (l.takeWhile fun e => e.at_ ≤ t + 500).take 16

/-- The event message of a run of records, the last one numbered before it being `seq` (R306). -/
def Dev.evData (d : Dev) (dest seq : Nat) (l : List EvRec) : List Byte :=
  leBytes 4 (16 + 64 * l.length) ++ leBytes 1 clsEvent ++ leBytes 1 d.devnum ++ leBytes 1 dest ++ leBytes 1 l.length
    ++ leBytes 8 (seq + 1) ++ l.flatMap EvRec.bytes

theorem Dev.evData_length (d : Dev) (dest seq : Nat) (l : List EvRec) : (d.evData dest seq l).length = 16 + 64 * l.length := by
  have hflat : (l.flatMap EvRec.bytes).length = 64 * l.length := by
    induction l with
    | nil => rfl
    | cons e t ih => simp only [List.flatMap_cons, List.length_append, EvRec.bytes_length, List.length_cons, ih]; omega
  simp only [Dev.evData, List.length_append, leBytes_length, hflat]

/-- The class of an event message and its destination stand in its header. -/
theorem Dev.evData_header (d : Dev) (dest seq : Nat) (l : List EvRec) (h : dest < 256) :
    numAt (d.evData dest seq l) 4 1 = clsEvent ∧ numAt (d.evData dest seq l) 6 1 = dest := by
  refine ⟨rfl, ?_⟩
  show (BitVec.ofNat 8 dest).toNat + 256 * 0 = dest
  rw [BitVec.toNat_ofNat, Nat.mul_zero, Nat.add_zero]
  exact Nat.mod_eq_of_lt h

/-- What stands behind the longest run at the front that meets a condition does not meet it. -/
theorem not_of_getElem?_takeWhile {α : Type} {p : α → Bool} {l : List α} {x : α} (h : l[(l.takeWhile p).length]? = some x) : ¬ p x = true := by
  induction l with
  | nil => simp at h
  | cons a t ih =>
    cases ha : p a with
    | true => exact ih (by simpa [ha] using h)
    | false =>
      obtain rfl : a = x := by simpa [ha] using h
      simp [ha]

/-- The records that leave from those waiting for a destination: at least one, at most 16, and the longest such run. -/
theorem evRun_spec (e : EvRec) (l : List EvRec) : ∃ n, n = (evRun e.at_ (e :: l)).length ∧ evRun e.at_ (e :: l) = (e :: l).take n ∧ 1 ≤ n ∧ n ≤ 16 ∧
    (∀ x ∈ (e :: l).take n, x.at_ ≤ e.at_ + 500) ∧ (∀ x, (e :: l)[n]? = some x → n < 16 → e.at_ + 500 < x.at_) := by
  have hlen : (evRun e.at_ (e :: l)).length = min 16 ((e :: l).takeWhile fun x => x.at_ ≤ e.at_ + 500).length := List.length_take ..
  have hpre : evRun e.at_ (e :: l) = (e :: l).take (evRun e.at_ (e :: l)).length :=
    List.prefix_iff_eq_take.1 ((List.take_prefix ..).trans (List.takeWhile_prefix _))
  have hhead : 1 ≤ ((e :: l).takeWhile fun x => x.at_ ≤ e.at_ + 500).length := by
    rw [List.takeWhile_cons_of_pos (by simp)]
    exact Nat.succ_pos _
  refine ⟨_, rfl, hpre, by omega, by omega, fun x hx => ?_, fun x hx hn => ?_⟩
  · rw [← hpre] at hx
    simpa using List.mem_takeWhile_imp (List.mem_of_mem_take hx)
  · have hall : (evRun e.at_ (e :: l)).length = ((e :: l).takeWhile fun x => x.at_ ≤ e.at_ + 500).length := by omega
    have hnot := not_of_getElem?_takeWhile (hall ▸ hx)
    rwa [decide_eq_true_eq, Nat.not_le] at hnot

/-- The device whose first `n` records for a destination have been taken into a message and numbered. -/
def Dev.evTaken (d : Dev) (dest n : Nat) : Dev :=
  { d with
    events := (d.events.filter fun (e : EvRec) => e.dest ≠ dest) ++ (d.events.filter fun e => e.dest = dest).drop n
    evSeq := tput d.evSeq dest (tgetD d.evSeq dest 0 + n) }

/-- The message also goes to the management port for the operator, when that is enabled or in frit mode (20, R439). -/
def Dev.evToMgt (d : Dev) (dest : Nat) (data : List Byte) : Dev :=
  if dest = 0xFF && (d.bit pMgt 0x40 0 || d.frit) then { d with mgtOut := d.mgtOut ++ [data] } else d

theorem Dev.evToMgt_eq (d : Dev) (dest : Nat) (data : List Byte) : d.evToMgt dest data = { d with mgtOut := (d.evToMgt dest data).mgtOut } := by
  unfold Dev.evToMgt
  split <;> rfl

theorem exec_eventMessageSend_records {s : State} {dest : Fin 256} {e : EvRec} {l : List EvRec} (h : (s.dev.events.filter fun x => x.dest = dest.val) = e :: l)
    (hscrub : ¬ (dest.val < 24 ∧ s.dev.ptnState dest.val = psScrubbing)) :
    exec (.eventMessageSend dest) s = .next ⟨((s.dev.evTaken dest (evRun e.at_ (e :: l)).length).evToMgt dest
      (s.dev.evData dest (tgetD s.dev.evSeq dest 0) (evRun e.at_ (e :: l)))).sendUp (s.dev.evData dest (tgetD s.dev.evSeq dest 0) (evRun e.at_ (e :: l))), s.pending⟩ := by
  have hcond : (decide (dest.val < 24) && decide (s.dev.ptnState dest = 0xC)) = false := by
    rw [← Bool.not_eq_true, Bool.and_eq_true, decide_eq_true_eq, decide_eq_true_eq]
    exact hscrub
  show Host.Outcome.next _ = _
  simp only [hcond, Bool.false_eq_true, if_false, h, Dev.evTaken]
  rfl

theorem exec_eventMessageSend_scrubbing {s : State} {dest : Fin 256} (hlt : dest.val < 24) (hscrub : s.dev.ptnState dest.val = psScrubbing) :
    exec (.eventMessageSend dest) s = .next ⟨{ s.dev with events := s.dev.events.filter fun x => x.dest ≠ dest.val }, s.pending⟩ := by
  have hcond : (decide (dest.val < 24) && decide (s.dev.ptnState dest = 0xC)) = true := by
    rw [Bool.and_eq_true, decide_eq_true_eq, decide_eq_true_eq]
    exact ⟨hlt, hscrub⟩
  show Host.Outcome.next _ = _
  simp only [hcond, if_true]

/-- An event message of a destination that is not scrubbing goes to the bridge, by way of its destination's queue or of the link. -/
theorem Dev.sendUp_evData {d e : Dev} {dest seq : Nat} {l : List EvRec} (hdest : dest < 256) (hcsr : d.csr = e.csr)
    (hscrub : ¬ (dest < 24 ∧ e.ptnState dest = psScrubbing)) :
    d.sendUp (e.evData dest seq l) = if d.isBridge then d.toDest (e.evData dest seq l)
      else d.sendMsgTo (d.getF pDev 0x80 21 16) clsEvent (if toDevice (e.evData dest seq l) then opDomain else d.linkDomain dest) (e.evData dest seq l) := by
  obtain ⟨hcls, hto⟩ := e.evData_header dest seq l hdest
  have hstate : d.st (pPtn dest) = e.ptnState dest := by
    rw [Dev.ptnState, Dev.st, Dev.st, Dev.getF, Dev.getF, Dev.reg, Dev.reg, hcsr]
  unfold Dev.sendUp
  rw [hcls, hto, if_neg]
  rw [Bool.and_eq_true, Bool.and_eq_true, decide_eq_true_eq, decide_eq_true_eq, hstate]
  exact fun ⟨⟨_, hlt⟩, hsc⟩ => hscrub ⟨hlt, hsc⟩

theorem Dev.filter_evTaken_same (d : Dev) (dest n : Nat) :
    ((d.evTaken dest n).events.filter fun x => x.dest = dest) = (d.events.filter fun x => x.dest = dest).drop n := by
  have hmine : ∀ l : List EvRec, (∀ x ∈ l, x.dest = dest) → (l.filter fun x => x.dest = dest) = l := fun l h =>
    List.filter_eq_self.2 fun x hx => by simp [h x hx]
  rw [Dev.evTaken, List.filter_append, hmine ((d.events.filter _).drop n) fun x hx => by simpa using (List.mem_filter.1 (List.mem_of_mem_drop hx)).2,
    List.filter_filter]
  simp

theorem Dev.filter_evTaken_off (d : Dev) (dest n : Nat) :
    ((d.evTaken dest n).events.filter fun x => x.dest ≠ dest) = d.events.filter fun x => x.dest ≠ dest := by
  have hmine : (((d.events.filter fun x => x.dest = dest).drop n).filter fun x => x.dest ≠ dest) = [] := by
    refine List.filter_eq_nil_iff.2 fun x hx => ?_
    simpa using (List.mem_filter.1 (List.mem_of_mem_drop hx)).2
  rw [Dev.evTaken, List.filter_append, hmine, List.append_nil, List.filter_filter]
  simp

end Sys2Proof.Machine

namespace Sys2Proof.Proofs

open Sys2Proof Sys2Proof.Machine

/-- Settles O10: the records taken are the oldest of those that wait (`evRun_spec`), and sending their message changes what the link layer or the bridge holds to be sent only (`Dev.SendsOnly`). -/
theorem eventRecordsAreNumbered : Obligations.EventRecordsAreNumbered := by
  unfold Obligations.EventRecordsAreNumbered
  refine ⟨fun s dest e l h hscrub => ?records, fun s dest hlt hscrub => ⟨_, exec_eventMessageSend_scrubbing hlt hscrub, rfl, rfl⟩⟩
  case records =>
    obtain ⟨n, hn, hrun, hpos, hmax, hin, hout⟩ := evRun_spec e l
    have hlen := s.dev.evData_length dest (tgetD s.dev.evSeq dest 0) (evRun e.at_ (e :: l))
    have hexec := exec_eventMessageSend_records h hscrub
    rw [← hn] at hexec hlen
    generalize hdata : s.dev.evData dest (tgetD s.dev.evSeq dest 0) (evRun e.at_ (e :: l)) = data at hexec hlen
    generalize hd : (s.dev.evTaken dest n).evToMgt dest data = d at hexec
    have hd : d = { s.dev.evTaken dest n with mgtOut := d.mgtOut } := by rw [← hd]; exact Dev.evToMgt_eq ..
    have hsend := Dev.sendsOnly_sendUp d data
    have hup := Dev.sendUp_evData (d := d) (seq := tgetD s.dev.evSeq dest 0) (l := evRun e.at_ (e :: l)) dest.isLt (by rw [hd]; rfl) hscrub
    rw [hdata] at hup
    have hbridge : d.isBridge = s.dev.isBridge := by rw [hd]; rfl
    refine ⟨_, n, hexec, rfl, hpos, hmax, hin, hout, ?_, hsend.mem.trans (by rw [hd]; rfl), fun hb => ?own, fun hb => ?far⟩
    · rw [hsend.evSeq, hd]
      exact tgetD_tput_same ..
    case own =>
      have hevents : (d.sendUp data).events = (s.dev.evTaken dest n).events := hsend.events.trans (by rw [hd])
      refine ⟨by rw [hevents, Dev.filter_evTaken_same, h], by rw [hevents, Dev.filter_evTaken_off], destKey data, ⟨numAt data 5 1, numAt data 6 1, numAt data 4 1, data⟩, ?_, hlen⟩
      rw [hup, hbridge, if_pos hb, hd]
      exact congrArg DestState.q (tgetD_tput_same ..)
    case far =>
      rw [hup, hbridge, if_neg (by simp [hb])]
      obtain ⟨-, m, hm, hdev, hcls, hmdata⟩ := d.sendMsgTo_effect (d.getF pDev 0x80 21 16) clsEvent (if toDevice data then opDomain else d.linkDomain dest) data
      exact ⟨m, hm, hdev.trans (by rw [hd]; rfl), hcls, hmdata ▸ hlen⟩

/-- Refutes O28: the outcome of an item also drops what the services of its partition have asked of other devices (`Dev.endItem`), so that it changes more than the list of messages. Here message 1 has its item under way, and partition 0 has such a read: an outcome for message 2 drops the read, and the device is not as before. -/
theorem not_itemOutcomeAndCompletion : ¬ Obligations.ItemOutcomeAndCompletion := by
  unfold Obligations.ItemOutcomeAndCompletion
  intro h
  obtain ⟨-, -, hother⟩ := h
    { far := [⟨0x8000, 1, 1, 0, 32, [], false, none⟩]
      work := [⟨1, 0, 0, 7, 0, [(0x0010, [])], [], 0, true, none, none⟩] }
    ⟨1, 0, 0, 7, 0, [(0x0010, [])], [], 0, true, none, none⟩ ⟨2, 0, 0, [], none⟩ 0 0 0x0010 [] rfl rfl rfl rfl rfl (by decide) (by decide) rfl
  exact Dev.ne_endItem_of_far ⟨_, List.mem_singleton_self _, rfl⟩ _ 0 0 (hother (by decide) (by decide)).symm

/-- Refutes O32: while an install is swapping a service core, no item is due (19, R412; `Dev.dueMsg`), whatever its partition's state. Here partition 0 is ACTIVE with one message of one known item, and an install of kind 4 is at its first core: the message is not due. -/
theorem not_workMessagesArrive : ¬ Obligations.WorkMessagesArrive := by
  unfold Obligations.WorkMessagesArrive
  rintro ⟨-, -, hheld⟩
  obtain ⟨-, hdue⟩ := hheld 0
    ⟨{ csr := [(pPwr.base + rDom 108, 0), ((pPtn 0).base + 0x0C, 4), ((pSvc 0).base + 0x0C, 4)]
       boot := { inst := some ⟨4, 0, 0⟩ }
       work := [⟨1, 0, 0, 7, 0, [(0x0010, [])], [], 0, false, none, none⟩] }, []⟩
    _ (by decide) (by decide) rfl rfl rfl rfl rfl (by decide) (by decide) rfl
  exact absurd hdue (by decide)

end Sys2Proof.Proofs

/-! SUPPORT. Registers that an operation leaves (02, R28, R32, R33), a device after every domain was off (19, R416); and the statement about the supply and the reset inputs (18, R392; 20, R424–R427; 21, R455). -/

namespace Sys2Proof.Machine

/-- Equal devices make equal outcomes. -/
theorem State.upd_congr (s : State) {d e : Dev} (h : d = e) : (.next ⟨d, s.pending⟩ : Out) = .next ⟨e, s.pending⟩ := by rw [h]

/-! ### Registers that an event, a state change or a fault leaves -/

/-- Registers of another page, or at another offset, after an operation on one page. -/
theorem Dev.SameRegsBut.reg_of_ne {t d : Dev} {p q : Page} {offs : List Nat} {off : Nat} (h : t.SameRegsBut d p offs)
    (hne : ∀ o ∈ offs, q.base + off ≠ p.base + o) : t.reg q off = d.reg q off := by
  rw [Dev.reg, Dev.reg, tgetD, tgetD, h _ hne]

theorem Dev.sameRegsBut_setF (d : Dev) (p : Page) (off hi lo v : Nat) : (d.setF p off hi lo v).SameRegsBut d p [off] := d.sameRegsBut_setReg p off _

theorem Dev.sameRegsBut_setEvent (d : Dev) (p : Page) (i : Nat) : (d.setEvent p i).SameRegsBut d p [0x10] := by
  intro k hk
  rw [Dev.setEvent, Dev.announce_csr]
  exact d.sameRegsBut_setBit p 0x10 i true k hk

theorem Dev.sameRegsBut_setSt (d : Dev) (p : Page) (v : Nat) : (d.setSt p v).SameRegsBut d p [0x10, 0x0C] := by
  unfold Dev.setSt
  exact .ite (.refl _ _ _) ((Dev.sameRegsBut_setEvent _ p evState).trans (d.sameRegsBut_setF p 0x0C 3 0 v))

/-- The registers of a page that a fault writes. -/
abbrev faultOffs : List Nat := [0x0C, 0x10, 0x1C, 0x18]

theorem Dev.sameRegsBut_fault (d : Dev) (p : Page) (code info : Nat) : (d.fault p code info).SameRegsBut d p faultOffs := by
  unfold Dev.fault
  refine .ite ?_ ?_
  · exact ((Dev.sameRegsBut_setBit _ p 0x0C 4 true).of_csr rfl).mono (by simp)
  · have hregs := (Dev.sameRegsBut_setReg ((d.noteFault p code info).setReg p 0x18 (BitVec.ofNat 32 code)) p 0x1C (BitVec.ofNat 32 info)).trans
      ((d.noteFault p code info).sameRegsBut_setReg p 0x18 (BitVec.ofNat 32 code))
    have hevent := (Dev.sameRegsBut_setEvent (((d.noteFault p code info).setReg p 0x18 (BitVec.ofNat 32 code)).setReg p 0x1C (BitVec.ofNat 32 info)) p evFault).trans hregs
    exact Dev.SameRegsBut.mono hevent (by decide)

/-! ### Fields of a register after one was set -/

theorem wfld_wput (w : Word) {hi lo : Nat} (x : Nat) (h : lo ≤ hi ∧ hi < 32) : wfld (wput w hi lo x) hi lo = x % 2 ^ (hi + 1 - lo) := by
  rw [wfld, wput, fld_ofNat _ _ h.2, fld_setFld_same _ h.1]

theorem wfld_wput_ne (w : Word) {hi lo hi' lo' : Nat} (x : Nat) (h : lo ≤ hi ∧ (hi < lo' ∨ hi' < lo)) (hhi : hi' < 32) :
    wfld (wput w hi lo x) hi' lo' = wfld w hi' lo' := by
  rw [wfld, wput, fld_ofNat _ _ hhi, fld_setFld_ne _ _ h, wfld]

theorem Dev.getF_setF_same (d : Dev) (p : Page) (off : Nat) {hi lo : Nat} (x : Nat) (h : lo ≤ hi ∧ hi < 32) :
    (d.setF p off hi lo x).getF p off hi lo = x % 2 ^ (hi + 1 - lo) := by
  rw [Dev.getF, Dev.setF, Dev.reg_setReg_same, wfld_wput _ _ h]

theorem Dev.getF_setF_ne (d : Dev) (p : Page) (off : Nat) {hi lo hi' lo' : Nat} (x : Nat) (h : lo ≤ hi ∧ (hi < lo' ∨ hi' < lo)) (hhi : hi' < 32) :
    (d.setF p off hi lo x).getF p off hi' lo' = d.getF p off hi' lo' := by
  rw [Dev.getF, Dev.setF, Dev.reg_setReg_same, wfld_wput_ne _ _ h hhi, Dev.getF]

theorem wfld_wputBit_ne (w : Word) {i hi lo : Nat} (b : Bool) (h : i < lo ∨ hi < i) : wfld (wputBit w i b) hi lo = wfld w hi lo := by
  refine Nat.eq_of_testBit_eq fun j => ?_
  rw [wfld, wfld, testBit_fld, testBit_fld]
  by_cases hj : j < hi + 1 - lo
  · exact congrArg (decide (j < hi + 1 - lo) && ·) (wbit_wputBit_ne w b (by omega))
  · simp [hj]

theorem wbit_wput_ne (w : Word) {hi lo i : Nat} (x : Nat) (h : lo ≤ hi ∧ (hi < i ∨ i < lo)) : wbit (wput w hi lo x) i = wbit w i := by
  by_cases hi : i < 32
  · rw [wbit, wput, BitVec.getLsbD, BitVec.toNat_ofNat, Nat.testBit_mod_two_pow, testBit_setFld _ h.1, if_neg (by omega)]
    simp only [hi, decide_true, Bool.true_and]
    rfl
  · rw [wbit, wbit, BitVec.getLsbD_of_ge _ _ (by omega), BitVec.getLsbD_of_ge _ _ (by omega)]

theorem Dev.getF_setBit_ne (d : Dev) (p : Page) (off : Nat) {i hi lo : Nat} (b : Bool) (h : i < lo ∨ hi < i) :
    (d.setBit p off i b).getF p off hi lo = d.getF p off hi lo := by
  rw [Dev.getF, Dev.reg_setBit, wfld_wputBit_ne _ _ h, Dev.getF]

theorem Dev.bit_setF_ne (d : Dev) (p : Page) (off : Nat) {hi lo i : Nat} (x : Nat) (h : lo ≤ hi ∧ (hi < i ∨ i < lo)) :
    (d.setF p off hi lo x).bit p off i = d.bit p off i := by
  rw [Dev.bit, Dev.setF, Dev.reg_setReg_same, wbit_wput_ne _ _ h, Dev.bit]

/-! ### The device after every domain was off (R416) -/

theorem Dev.regsOnly_retireNow (d : Dev) : d.RegsOnly d.retireNow := by
  unfold Dev.retireNow
  exact Dev.regsOnly_foldl _ (fun x _ => x.regsOnly_setBit _ _ _ _) _ d

theorem tget?_eq_none {α : Type} {t : Tbl α} {k : Nat} (h : ∀ e ∈ t, e.1 ≠ k) : tget? t k = none := by
  induction t with
  | nil => rfl
  | cons e t ih =>
    have hne : k ≠ e.1 := fun hk => h e (List.mem_cons_self ..) hk.symm
    exact (if_neg hne).trans (ih fun x hx => h x (List.mem_cons_of_mem _ hx))

/-- A register of which a reset of every domain keeps nothing reads its reset word. -/
theorem Dev.reg_coldDev {d : Dev} {p : Page} {off : Nat} (warm : Bool) (h : ∀ v, keptWord (p.base + off) v = none) : (d.coldDev warm).reg p off = resetWord p off := by
  have hnone : tget? (d.coldDev warm).csr (p.base + off) = none := by
    refine tget?_eq_none fun e he hk => ?_
    obtain ⟨x, -, hx⟩ := List.mem_filterMap.1 he
    cases hw : keptWord x.1 x.2 with
    | none => simp [hw] at hx
    | some w =>
      obtain rfl : (x.1, w) = e := by simpa [hw] using hx
      have hk : x.1 = p.base + off := hk
      rw [hk, h] at hw
      cases hw
  rw [Dev.reg, tgetD, hnone]
  rfl

/-- After a reset of every domain the domains other than the always-on one are OFF. -/
theorem Dev.dom_coldDev (d : Dev) (warm : Bool) : (d.coldDev warm).dom 0 = dsOff := by
  have hreg : (d.coldDev warm).reg pPwr (rDom 0) = resetWord pPwr (rDom 0) := Dev.reg_coldDev warm fun v => rfl
  rw [Dev.dom, Dev.getF, hreg]
  rfl

/-- What a reset of every domain keeps of the start and of the supply. -/
theorem Dev.boot_coldDev (d : Dev) (warm : Bool) : (d.coldDev warm).boot =
    { recs := d.boot.recs, images := d.boot.images, svnMin := d.boot.svnMin, revoked := d.boot.revoked, resetLow := d.boot.resetLow, released := d.boot.released && warm } := by
  have h : d.retireNow.boot = d.boot := by rw [d.regsOnly_retireNow]
  rw [← h]
  rfl

/-! ### The supply and the reset inputs (18, R392; 20, R424–R427; 21, R455) -/

/-- The first trip, noted by comparator `c` (R392); the domains are still to go off. -/
def Dev.tripNoted (d : Dev) (c : Nat) : Dev :=
  let t := (d.setReg pThm 0x5C (BitVec.ofNat 32 (c + 32))).fault pThm 0x8004 c
  ({ t with
    thm := { t.thm with holding := true, report := some c }
    pwr := { t.pwr with waits := [], entry := 0, low := 0, abandon := false, detecting := false, detectAt := none } } : Dev).setF pPwr 0x44 2 0 0

theorem exec_analogueTrip_first {s : State} {c : Fin 32} (hup : s.dev.pwr.up = true) (ht : s.dev.tripped = false) :
    exec (.analogueTrip c) s = .next ⟨(s.dev.tripNoted c).allOff_, s.pending⟩ := by
  show execAnalogueTrip c s = _
  simp only [execAnalogueTrip, State.upd_eq, hup, ht, Bool.not_true, Bool.not_false, Bool.false_eq_true, if_true, if_false]
  rfl

/-- The register of the trip: the latch and the comparator. -/
theorem Dev.reg_tripNoted (d : Dev) (c : Nat) : (d.tripNoted c).reg pThm 0x5C = BitVec.ofNat 32 (c + 32) := by
  have hpwr : (d.tripNoted c).reg pThm 0x5C = ((d.setReg pThm 0x5C (BitVec.ofNat 32 (c + 32))).fault pThm 0x8004 c).reg pThm 0x5C :=
    (Dev.sameRegsBut_setF _ pPwr 0x44 2 0 0).reg_of_ne (by decide)
  rw [hpwr, (Dev.sameRegsBut_fault _ pThm 0x8004 c).reg (by decide), Dev.reg_setReg_same]

theorem Dev.devPower_tripNoted (d : Dev) (c : Nat) : (d.tripNoted c).devPower = 0 := Dev.getF_setF_same _ pPwr 0x44 0 (by decide)

/-- INPUT_LOW at its onset (20, R424) latches the bit, notes its time and is recorded. -/
theorem exec_inputLow_onset {s : State} {mv : BitVec 16} (hup : s.dev.pwr.up = true) (hbit : s.dev.bit pPwr 0x50 0 = false) :
    ∃ f : Dev, exec (.inputLow mv) s = .next ⟨f, s.pending⟩ ∧ f.bit pPwr 0x50 0 = true ∧ f.pwr.lowAt = s.dev.ao ∧
      f.events = s.dev.events ++ [⟨0xFF, s.dev.ao, 0x0148, leBytes 4 mv.toNat⟩] := by
  have hrun : exec (.inputLow mv) s = .next ⟨({ s.dev.setBit pPwr 0x50 0 true with pwr := { s.dev.pwr with lowAt := s.dev.ao } } : Dev).record 0xFF 0x0148 (leBytes 4 mv.toNat), s.pending⟩ := by
    show execInputLow mv s = _
    simp [execInputLow, hup, hbit]
  exact ⟨_, hrun, Dev.bit_setBit_same s.dev pPwr 0x50 0 true (by decide), rfl, rfl⟩

theorem exec_powerFail {s : State} (hup : s.dev.pwr.up = true) : exec .powerFail s =
    .next ⟨{ s.dev.coldDev false with thm := { holding := (s.dev.coldDev false).thm.holding }, pwr := { up := false }, sec := { disarmed := true } }, s.pending⟩ := by
  show execPowerFail s = _
  simp [execPowerFail, hup]

theorem exec_moduleReset {s : State} (hup : s.dev.pwr.up = true) : exec .moduleReset s =
    .next ⟨{ s.dev.coldDev false with
      boot := { (s.dev.coldDev false).boot with resetLow := true }, sec := { (s.dev.coldDev false).sec with disarmed := true } }, s.pending⟩ := by
  show execModuleReset s = _
  simp [execModuleReset, hup]

theorem exec_tripResetHoldRelease {s : State} (hwait : s.dev.boot.waiting ≠ 0) : exec .tripResetHoldRelease s =
    .next ⟨Dev.start { s.dev with thm := { s.dev.thm with holding := false }, ao := if s.dev.boot.waiting = 1 then s.dev.ao else 0 }, s.pending⟩ := by
  show execTripResetHoldRelease s = _
  by_cases hwarm : s.dev.boot.waiting = 1 <;> simp [execTripResetHoldRelease, hwait, hwarm]

theorem exec_resetLRelease {s : State} (hlow : s.dev.boot.resetLow = true) : exec .resetLRelease s =
    .next ⟨Dev.porRelease { s.dev with boot := { s.dev.boot with resetLow := false } }, s.pending⟩ := by
  show execResetLRelease s = _
  simp [execResetLRelease, hlow]

/-- Power-on reset is not released, or not yet, while one of its conditions fails. -/
theorem Dev.porRelease_none {d : Dev} (h : d.pwr.up = false ∨ d.boot.released = true ∨ d.boot.resetLow = true ∨ d.boot.waiting ≠ 0) : d.porRelease = d := by
  refine if_pos ?_
  rcases h with h | h | h | h <;> simp [h]

/-- Power-on reset is released: the count starts at 0, and the start begins or is held. -/
theorem Dev.porRelease_free {d : Dev} (hup : d.pwr.up = true) (hrel : d.boot.released = false) (hlow : d.boot.resetLow = false) (hwait : d.boot.waiting = 0) :
    d.porRelease = ({ d with ao := 0, sec := { d.sec with disarmed := false } } : Dev).startOrHold 2 :=
  if_neg (by simp [hup, hrel, hlow, hwait])

end Sys2Proof.Machine

namespace Sys2Proof.Proofs
open Sys2Proof Sys2Proof.Machine

/-- Settles O56: each command by its condition; a reset of every domain is `Dev.coldDev`, and a release is `Dev.porRelease`. -/
theorem supplyAndResetInputs : Obligations.SupplyAndResetInputs := by
  refine ⟨fun s c => ⟨fun hup => ?trip0, fun hup ht => ?trip⟩, fun s => ⟨fun hwait => ?hold0, fun hwait => ?hold⟩,
    fun s mv => ⟨fun hup => ?low0, exec_inputLow_onset, fun hup hbit ht => ?lowEarly⟩, fun s => ?lowEnd,
    fun s => ⟨fun hup => ?fail0, fun hup => ?fail, fun hup => ?on0, fun hup => ?on⟩,
    fun s => ⟨fun h => ?por0, fun d hup hrel hlow hwait hd => ⟨fun hhold => ?por, fun hhold => ?porHeld⟩, fun hup => ?module, fun hlow => ?rst0,
      fun d hlow hd => ⟨fun h => ?rstWaits, fun hup hrel hwait hhold => ?rst⟩⟩⟩
  case trip0 =>
    show execAnalogueTrip c s = _
    simp [execAnalogueTrip, hup]
  case trip =>
    refine ⟨_, exec_analogueTrip_first hup ht, ?_, ?_, rfl, rfl, s.dev.devPower_tripNoted c⟩
    · rw [Dev.tripped, Dev.bit, Dev.reg_tripNoted]
      revert c
      decide
    · rw [Dev.getF, Dev.reg_tripNoted]
      revert c
      decide
  case hold0 =>
    show execTripResetHoldRelease s = _
    simp [execTripResetHoldRelease, hwait]
  case hold => exact ⟨_, exec_tripResetHoldRelease hwait, rfl, rfl⟩
  case low0 =>
    show execInputLow mv s = _
    simp [execInputLow, hup]
  case lowEarly =>
    show execInputLow mv s = _
    simp [execInputLow, hup, hbit, Nat.not_le.2 ht]
  case lowEnd =>
    exact ⟨_, rfl, s.dev.bit_setBit_same pPwr 0x50 0 false (by decide), s.dev.regsOnly_setBit pPwr 0x50 0 false, s.dev.sameRegsBut_setBit pPwr 0x50 0 false⟩
  case fail0 =>
    show execPowerFail s = _
    simp [execPowerFail, hup]
  case fail =>
    have hboot := s.dev.boot_coldDev false
    refine ⟨_, exec_powerFail hup, rfl, ?_, rfl, rfl, rfl, ?_, ?_⟩
    · exact (congrArg Boot.released hboot).trans (Bool.and_false _)
    · exact (congrArg Boot.images hboot :)
    · exact (congrArg Boot.recs hboot :)
  case on0 =>
    show execPowerOn s = _
    simp [execPowerOn, hup]
  case on =>
    show execPowerOn s = _
    simp [execPowerOn, hup]
  case por0 => exact s.upd_congr (Dev.porRelease_none h)
  case por =>
    subst hd
    have hrun : exec .powerOnResetRelease s = .next ⟨s.dev.porRelease, s.pending⟩ := rfl
    rw [hrun, Dev.porRelease_free hup hrel hlow hwait, Dev.startOrHold, if_neg (by simp [hhold])]
  case porHeld =>
    subst hd
    have hrun : exec .powerOnResetRelease s = .next ⟨s.dev.porRelease, s.pending⟩ := rfl
    rw [hrun, Dev.porRelease_free hup hrel hlow hwait, Dev.startOrHold, if_pos (by simp [hhold])]
  case module =>
    have hboot := s.dev.boot_coldDev false
    refine ⟨_, exec_moduleReset hup, rfl, ?_, rfl, rfl, s.dev.dom_coldDev false, ?_⟩
    · exact (congrArg Boot.released hboot).trans (Bool.and_false _)
    · exact (congrArg Boot.recs hboot :)
  case rst0 =>
    show execResetLRelease s = _
    simp [execResetLRelease, hlow]
  case rstWaits =>
    have hnot : d.pwr.up = false ∨ d.boot.released = true ∨ d.boot.resetLow = true ∨ d.boot.waiting ≠ 0 := by
      rw [hd]
      exact h.imp_right fun h => h.imp_right .inr
    rw [exec_resetLRelease hlow, ← hd, Dev.porRelease_none hnot]
  case rst =>
    have hfree := Dev.porRelease_free (d := d) (by rw [hd]; exact hup) (by rw [hd]; exact hrel) (by rw [hd]) (by rw [hd]; exact hwait)
    have hstart : d.thm.holding = false := by rw [hd]; exact hhold
    rw [exec_resetLRelease hlow, ← hd, hfree, Dev.startOrHold, if_neg (by simp [hstart])]

end Sys2Proof.Proofs

/-! SUPPORT. The boot record (19, R403, R408): what a write of it makes current; UPDATE_IMAGE, installs and BOOT_SELECT by their conditions; and the statement about them (19, R410–R412). -/

namespace Sys2Proof.Machine

/-! ### The boot record -/

/-- The newer of two records, of which either may be lost. -/
def newerRec (a b : Option BootRec) : Option BootRec :=
  match a, b with
  | some a, some b => if a.seq < b.seq then some b else some a
  | some a, none => some a
  | none, b => b

theorem Dev.curRec_of_recs {d : Dev} {a b : Option BootRec} (h : d.boot.recs = [a, b]) : d.curRec = newerRec a b := by
  rw [Dev.curRec, h]
  rfl

theorem seq_le_of_newerRec {a b : Option BootRec} {r : BootRec} (h : newerRec a b = some r) : (∀ x, a = some x → x.seq ≤ r.seq) ∧ ∀ x, b = some x → x.seq ≤ r.seq := by
  unfold newerRec at h
  split at h
  next x y =>
    split at h <;> obtain rfl := Option.some.inj h <;> simp only [Option.some.injEq] <;> exact ⟨fun z hz => by subst hz; omega, fun z hz => by subst hz; omega⟩
  next => simp [Option.some.inj h]
  next => simp [h]

theorem newerRec_left {a : BootRec} {b : Option BootRec} (h : ∀ x, b = some x → x.seq < a.seq) : newerRec (some a) b = some a := by
  cases b with
  | none => rfl
  | some b => exact if_neg (by have := h b rfl; omega)

theorem newerRec_right {a : Option BootRec} {b : BootRec} (h : ∀ x, a = some x → x.seq < b.seq) : newerRec a (some b) = some b := by
  cases a with
  | none => rfl
  | some a => exact if_pos (h a rfl)

/-- A record that is written is the current one: its sequence number is one above that of the record which was. -/
theorem Dev.curRec_writeRec {d : Dev} {r : BootRec} (f : BootRec → BootRec) (hlen : d.boot.recs.length = 2) (hcur : d.curRec = some r) :
    (d.writeRec f).curRec = some { f r with seq := r.seq + 1 } := by
  obtain ⟨a, b, hrecs⟩ := List.length_eq_two.1 hlen
  obtain ⟨ha, hb⟩ := seq_le_of_newerRec ((Dev.curRec_of_recs hrecs).symm.trans hcur)
  have hnew : (d.writeRec f).boot.recs = modAt [a, b] ((r.seq + 1) % 2) fun _ => some { f r with seq := r.seq + 1 } := by
    rw [Dev.writeRec, hcur, ← hrecs]
    rfl
  rcases Nat.mod_two_eq_zero_or_one (r.seq + 1) with hp | hp <;> rw [hp] at hnew
  · exact (Dev.curRec_of_recs hnew).trans (newerRec_left fun x hx => Nat.lt_succ_of_le (hb x hx))
  · exact (Dev.curRec_of_recs hnew).trans (newerRec_right fun x hx => Nat.lt_succ_of_le (ha x hx))

/-- A write of the boot record changes the two copies of it only. -/
theorem Dev.writeRec_eq (d : Dev) (f : BootRec → BootRec) :
    d.writeRec f = { d with boot := { d.boot with recs := (d.writeRec f).boot.recs }, sec := { d.sec with bootRec := (d.writeRec f).sec.bootRec } } := by
  unfold Dev.writeRec
  split <;> rfl

theorem Dev.activeCopy_of_curRec {d : Dev} {r : BootRec} (h : d.curRec = some r) (k : Nat) : d.activeCopy k = fld r.active k k := by rw [Dev.activeCopy, h]
theorem Dev.inTrial_of_curRec {d : Dev} {r : BootRec} (h : d.curRec = some r) (k : Nat) : d.inTrial k = bitOf r.trial k := by rw [Dev.inTrial, h]

/-- A record is written that makes copy `c` of image `k` the active one, in trial or not. -/
theorem Dev.curRec_choose {d : Dev} {c : Nat} (k t : Nat) (hlen : d.boot.recs.length = 2) (hcur : d.curRec.isSome = true) (hc : c < 2) (ht : t < 2) (f : BootRec → BootRec)
    (hf : f = fun r => { r with active := setFld r.active k k c, trial := setFld r.trial k k t }) :
    (d.writeRec f).activeCopy k = c ∧ (d.writeRec f).inTrial k = decide (t = 1) := by
  obtain ⟨r, hr⟩ := Option.isSome_iff_exists.1 hcur
  have hnew := Dev.curRec_writeRec f hlen hr
  rw [Dev.activeCopy_of_curRec hnew, Dev.inTrial_of_curRec hnew, hf]
  refine ⟨?_, ?_⟩
  · show fld (setFld r.active k k c) k k = c
    rw [fld_setFld_same _ le_rfl, Nat.add_sub_cancel_left, pow_one, Nat.mod_eq_of_lt hc]
  · show bitOf (setFld r.trial k k t) k = _
    rw [bitOf_setFld_same, Nat.mod_eq_of_lt ht]

/-! ### UPDATE_IMAGE (R410) -/

/-- The chunk's bytes join the inactive copy. -/
def Dev.chunkWritten (d : Dev) (b : List Byte) : Dev :=
  let at_ := 16 * (1 - d.activeCopy (numAt b 0 1)) + numAt b 0 1
  let old := if bitOf (numAt b 1 1) 0 then [] else tgetD d.boot.images at_ []
  { d with boot := { d.boot with images := tput d.boot.images at_ (old ++ bytesAt b 16 (numAt b 8 4)) } }

section Update
variable {d : Dev} {i : Item}

theorem Dev.updateImage_refused {x : Nat × Nat} (h : d.freshRecord.updRefused i.body = some x) : d.updateImage i = d.freshRecord.endItem i x.1 x.2 := by
  unfold Dev.updateImage
  simp only [h]

theorem Dev.updateImage_more (h : d.freshRecord.updRefused i.body = none) (hmore : bitOf (numAt i.body 1 1) 1 = false) :
    d.updateImage i = ((d.freshRecord.chunkWritten i.body).setUpd (some ⟨numAt i.body 0 1, numAt i.body 4 4 + numAt i.body 8 4⟩)).endItem i 0 0 := by
  unfold Dev.updateImage
  simp only [h, hmore]
  rfl

theorem Dev.updateImage_last (h : d.freshRecord.updRefused i.body = none) (hlast : bitOf (numAt i.body 1 1) 1 = true) (hinst : bitOf (numAt i.body 1 1) 2 = false) :
    d.updateImage i = (d.freshRecord.chunkWritten i.body).updLast i (numAt i.body 0 1) false := by
  unfold Dev.updateImage
  simp only [h, hlast, hinst]
  rfl

/-- The check of an image fails with one of two codes. -/
theorem Dev.imgCheck_code {c k : Nat} {x : Nat × Nat} (h : d.imgCheck c k = some x) : x.1 = cImageBad ∨ x.1 = cImageRollback := by
  obtain ⟨n, -, rfl⟩ := Option.map_eq_some_iff.1 h
  split
  · exact .inr rfl
  · exact .inl rfl

/-- The last chunk without INSTALL: the image is refused by its checks, or it is active and in trial. -/
theorem Dev.updLast_spec (k : Nat) (hlen : d.boot.recs.length = 2) (hcur : d.curRec.isSome = true) :
    ∃ (f : Dev) (x n : Nat), d.updLast i k false = f.endItem i x n ∧ f.boot.upd = none ∧
      ((x = 0 ∧ f.activeCopy k = 1 - d.activeCopy k ∧ f.inTrial k = true) ∨ ((x = cImageBad ∨ x = cImageRollback) ∧ f.curRec = d.curRec)) := by
  have hshut : (d.setUpd none).boot.recs = d.boot.recs ∧ (d.setUpd none).boot.upd = none := ⟨rfl, rfl⟩
  cases hcheck : (d.setUpd none).imgCheck (1 - d.activeCopy k) k with
  | some x =>
    refine ⟨d.setUpd none, x.1, x.2, ?_, hshut.2, .inr ⟨Dev.imgCheck_code hcheck, rfl⟩⟩
    unfold Dev.updLast
    simp only [hcheck]
  | none =>
    obtain ⟨hcopy, htrial⟩ := Dev.curRec_choose (d := d.setUpd none) (c := 1 - d.activeCopy k) k 1 hlen hcur (by omega) (by decide) _ rfl
    let kept := leBytes 2 k ++ leBytes 2 (imgVersion ((d.setUpd none).imageAt (1 - d.activeCopy k) k)) ++ leBytes 4 (1 - d.activeCopy k)
    refine ⟨Dev.record _ 0xFF 0x0182 kept, 0, 0, ?run, ?upd, .inl ⟨rfl, hcopy, htrial⟩⟩
    case run =>
      unfold Dev.updLast
      simp only [hcheck, Bool.false_eq_true, if_false]
      rfl
    case upd =>
      show (Dev.writeRec _ _).boot.upd = none
      rw [Dev.writeRec_eq]
      exact hshut.2

end Update

/-! ### Installs (R412) -/

theorem exec_installUnitSwap_none {s : State} (l : List (Fin 320)) (h : s.dev.boot.inst = none) : exec (.installUnitSwap l) s = .next s := by
  show execInstallUnitSwap l s = _
  simp only [execInstallUnitSwap, State.upd_eq, h]

theorem exec_installUnitSwap_over {s : State} {i : Install} (l : List (Fin 320)) (h : s.dev.boot.inst = some i) (hnext : s.dev.instNext i.kind i.next = none) :
    exec (.installUnitSwap l) s = .next ⟨s.dev.endInstall i, s.pending⟩ := by
  show execInstallUnitSwap l s = _
  simp only [execInstallUnitSwap, State.upd_eq, h, hnext]

theorem exec_installUnitSwap_waits {s : State} {i : Install} {n : Nat} (l : List (Fin 320)) (h : s.dev.boot.inst = some i) (hnext : s.dev.instNext i.kind i.next = some n)
    (hwhen : s.dev.instWhen i.kind n = false) : exec (.installUnitSwap l) s = .next s := by
  show execInstallUnitSwap l s = _
  simp [execInstallUnitSwap, h, hnext, hwhen]

theorem exec_installUnitSwap_swaps {s : State} {i : Install} {n : Nat} {f : Dev} (l : List (Fin 320)) (h : s.dev.boot.inst = some i) (hnext : s.dev.instNext i.kind i.next = some n)
    (hwhen : s.dev.instWhen i.kind n = true) (hf : f = (s.dev.swapUnit i.kind n l).setInst (some ⟨i.kind, n + 1, i.swapped + 1⟩)) :
    exec (.installUnitSwap l) s = .next ⟨if (f.instNext i.kind (n + 1)).isSome then f else f.endInstall ⟨i.kind, n + 1, i.swapped + 1⟩, s.pending⟩ := by
  show execInstallUnitSwap l s = _
  simp [execInstallUnitSwap, h, hnext, hwhen, hf]

/-! ### BOOT_SELECT (R411) -/

theorem mem_addSet_self (l : List Nat) (n : Nat) : n ∈ addSet l n := by
  induction l with
  | nil => exact List.mem_singleton_self n
  | cons m t ih =>
    unfold addSet
    split
    · exact List.mem_cons_self ..
    · split
      · next h => exact h ▸ List.mem_cons_self ..
      · exact List.mem_cons_of_mem _ ih

theorem imgRegion_ne_zero {k : Nat} (h : k ≤ 10) (h0 : k ≠ 0) : imgRegion k ≠ 0 := by
  have hall : ∀ k ≤ 10, k ≠ 0 → imgRegion k ≠ 0 := by decide
  exact hall k h h0

theorem Dev.dueOp_of_dueItem {d e : Dev} {p k : Nat} {i : Item} (h : d.dueItem p k = some (i, e)) : d.dueOp p = numAt i.body 1 1 := by
  unfold Dev.dueItem Dev.nextItem at h
  unfold Dev.dueOp
  cases hm : d.dueMsg p with
  | none => simp [hm] at h
  | some m =>
    cases hx : m.items[m.next]? with
    | none => simp [hm, hx] at h
    | some x =>
      by_cases hk : x.1 = k
      · simp only [hm, hx, hk, ne_eq, not_true_eq_false, if_false] at h ⊢
        split at h
        · cases h
        · cases h
          rfl
      · simp [hm, hx, hk] at h

/-- The end of a BOOT_SELECT item whose operation is refused, or leaves a device. -/
def Dev.selectEnd (e : Dev) (i : Item) : Option Dev → Dev
  | none => e.endItem i cUpdateInvalid 4
  | some d => d.endItem i 0 0

/-- A due BOOT_SELECT of an operation that the command performs, on a kind that it takes. -/
theorem State.upd_bootSelect {s : State} {p op : Nat} {i : Item} {e : Dev} (h : s.dev.dueItem p 0x0181 = some (i, e)) {ops : Nat → Bool} (f : Dev → Nat → Option Dev)
    (hop : numAt i.body 1 1 = op) (hops : ops op = true) (hle : op ≤ 3) (hk : op = 3 ∨ imgRegion (numAt i.body 0 1) ≠ 0) :
    (s.upd fun d => d.bootSelect p ops f) = .next ⟨e.selectEnd i (f e (numAt i.body 0 1)), s.pending⟩ := by
  have hrun : s.dev.bootSelect p ops f = e.selectEnd i (f e (numAt i.body 0 1)) := by
    unfold Dev.bootSelect
    have hkind : (decide (3 < op) || decide (op ≠ 3) && decide (imgRegion (numAt i.body 0 1) = 0)) = false := by
      rcases hk with rfl | hk <;> simp [*]
    rw [Dev.dueOp_of_dueItem h, hop, hops, Dev.serveItem_due h]
    simp only [hop, hkind, Bool.not_true, Bool.false_eq_true, if_false]
    cases f e (numAt i.body 0 1) <;> rfl
  exact s.upd_congr hrun

end Sys2Proof.Machine

namespace Sys2Proof.Proofs
open Sys2Proof Sys2Proof.Machine

/-- Settles O52: each item by its condition; what makes a copy the active one is a write of the boot record (`Dev.curRec_writeRec`). -/
theorem imagesAreUpdated : Obligations.ImagesAreUpdated := by
  refine ⟨fun s p i e g k c hdue hg hk hc => ?update, fun s l => ⟨exec_installUnitSwap_none l, fun i => exec_installUnitSwap_over l, fun i n => exec_installUnitSwap_waits l,
    fun i n h hnext hwhen => ?swaps⟩, fun s p i e k hdue hk hk10 hlen hcur => ⟨fun hop hk0 => ?commit, fun hop hk0 => ?revert, fun hop hk0 => ?raise, fun hop => ?revoke⟩⟩
  case update =>
    subst hg hk hc
    have hrun : exec (.updateImage p) s = .next ⟨e.updateImage i, s.pending⟩ := State.upd_serveItem_due hdue _
    rw [hrun]
    refine ⟨fun x hx => by rw [Dev.updateImage_refused hx], fun hok hmore => ?_, fun hok hlast hinst hlen hcur => ?_⟩
    · rw [Dev.updateImage_more hok hmore]
      exact ⟨_, rfl, rfl, tget?_tput_same .., rfl⟩
    · obtain ⟨f, x, n, hlast', hf⟩ := Dev.updLast_spec (d := e.freshRecord.chunkWritten i.body) (i := i) (numAt i.body 0 1) hlen hcur
      exact ⟨f, x, n, by rw [Dev.updateImage_last hok hlast hinst, hlast'], hf⟩
  case swaps =>
    refine ⟨(s.dev.swapUnit i.kind n l).setInst (some ⟨i.kind, n + 1, i.swapped + 1⟩), rfl, ?_⟩
    rw [exec_installUnitSwap_swaps l h hnext hwhen rfl]
    split
    · exact .inl rfl
    · exact .inr rfl
  case commit =>
    subst hk
    obtain ⟨r, hr⟩ := Option.isSome_iff_exists.1 hcur
    have hnew := Dev.curRec_writeRec (fun r => { r with trial := setFld r.trial (numAt i.body 0 1) (numAt i.body 0 1) 0 }) hlen hr
    refine ⟨_, State.upd_bootSelect hdue _ hop rfl (by decide) (.inr (imgRegion_ne_zero hk10 hk0)), ?_, ?_⟩
    · exact (Dev.inTrial_of_curRec hnew _).trans (bitOf_setFld_same ..)
    · exact (Dev.activeCopy_of_curRec hnew _).trans (Dev.activeCopy_of_curRec hr _).symm
  case revert =>
    subst hk
    have hrun : exec (.bootSelectRevert p) s = _ := State.upd_bootSelect hdue _ hop rfl (by decide) (.inr (imgRegion_ne_zero hk10 hk0))
    rw [hrun]
    cases hcheck : e.imgCheck (1 - e.activeCopy (numAt i.body 0 1)) (numAt i.body 0 1) with
    | some x => exact .inl ⟨x, rfl, by simp [hcheck, Dev.selectEnd]⟩
    | none =>
      obtain ⟨hcopy, htrial⟩ := Dev.curRec_choose (c := 1 - e.activeCopy (numAt i.body 0 1)) (numAt i.body 0 1) 0 hlen hcur (by omega) (by decide) _ rfl
      simp only [hcheck, Option.isSome_none, Bool.false_eq_true, if_false]
      exact .inr ⟨_, trivial, rfl, htrial, hcopy⟩
  case raise =>
    subst hk
    have hrun : exec (.bootSelectRaiseSvn p) s = _ := State.upd_bootSelect hdue _ hop rfl (by decide) (.inr (imgRegion_ne_zero hk10 hk0))
    rw [hrun]
    refine ⟨fun htrial => by simp [htrial, Dev.selectEnd], fun htrial => ?_⟩
    simp only [htrial, Bool.false_eq_true, if_false]
    exact ⟨_, rfl, tgetD_tput_same ..⟩
  case revoke =>
    have hrun : exec (.bootSelectRevokeKey0 p) s = _ := State.upd_bootSelect hdue _ hop rfl (by decide) (.inl rfl)
    rw [hrun]
    cases hany : (List.range 10).any fun j => keySlotIs (e.imageAt (e.activeCopy (j + 1)) (j + 1)) 0 with
    | true =>
      obtain ⟨j, hj, hkey⟩ := List.any_eq_true.1 hany
      exact .inl ⟨j, List.mem_range.1 hj, hkey, by simp [Dev.selectEnd]⟩
    | false =>
      have hnone : ∀ j < 10, keySlotIs (e.imageAt (e.activeCopy (j + 1)) (j + 1)) 0 = false := fun j hj =>
        Bool.eq_false_iff.2 (List.any_eq_false.1 hany j (List.mem_range.2 hj))
      simp only [Bool.false_eq_true, if_false]
      exact .inr ⟨_, hnone, rfl, mem_addSet_self ..⟩

end Sys2Proof.Proofs

/-! SUPPORT. The start (19, R402–R405): what a wake of a domain leaves, the next stage, a stage's bound; and the statement about it. -/

namespace Sys2Proof.Machine

/-! ### Waking a domain (20, R427) -/

theorem Dev.sameRegsBut_startWake (d : Dev) (n : Nat) : (d.startWake n).SameRegsBut d pPwr [0x54, rDom n] :=
  ((d.setDom n dsWaking).sameRegsBut_addCount pPwr 0x54 1).trans (d.sameRegsBut_setF pPwr (rDom n) 6 4 dsWaking)

/-- What a wake leaves but the power state. -/
theorem Dev.regsOnly_startWake (d : Dev) (n : Nat) : ({ d with pwr := (d.startWake n).pwr } : Dev).RegsOnly (d.startWake n) := by
  have h := (Dev.regsOnly_setF d pPwr (rDom n) 6 4 dsWaking).trans (Dev.regsOnly_addCount _ pPwr 0x54 1)
  unfold Dev.startWake Dev.setDom
  rw [h]
  rfl

theorem Dev.startWake_mem (d : Dev) (n : Nat) : (d.startWake n).mem = d.mem := (d.regsOnly_startWake n).mem

/-- The wakes of the start touch domains only: the start's register and memory stay. -/
theorem Dev.bootPower_keeps (d : Dev) : d.bootPower.reg pBoot 0x40 = d.reg pBoot 0x40 ∧ d.bootPower.mem = d.mem := by
  have hdoms : ∀ g ∈ bootGroups, ∀ n ∈ g, pBoot.base + 0x40 ≠ pPwr.base + 0x54 ∧ pBoot.base + 0x40 ≠ pPwr.base + rDom n := by decide
  unfold Dev.bootPower
  split
  · exact ⟨rfl, rfl⟩
  · split
    · exact ⟨rfl, rfl⟩
    · next g hg =>
      refine Dev.foldl_holds (P := fun e => e.reg pBoot 0x40 = d.reg pBoot 0x40 ∧ e.mem = d.mem) (fun e n hn he => ?_) ⟨rfl, rfl⟩
      split
      · have hoff := hdoms g (List.mem_of_find?_eq_some hg) n hn
        exact ⟨((e.sameRegsBut_startWake n).reg_of_ne (by simpa using hoff)).trans he.1, (e.startWake_mem n).trans he.2⟩
      · exact he

/-! ### Stages (R402, R404) -/

theorem Dev.stage_range {d : Dev} {n : Nat} (h : d.stage = some n) : n ≠ 0 ∧ n < 7 := by
  have hlt : d.getF pBoot 0x40 2 0 < 8 := Nat.mod_lt _ (by decide)
  unfold Dev.stage at h
  dsimp only at h
  split at h
  · cases h
  · next hno =>
    obtain rfl := Option.some.inj h
    simp only [Bool.or_eq_true, decide_eq_true_eq, not_or] at hno
    omega

theorem Dev.beginStage_reads (d : Dev) {n : Nat} (h : n < 8) : (d.beginStage n).getF pBoot 0x40 2 0 = n :=
  (Dev.getF_setF_same d pBoot 0x40 n (by decide)).trans (Nat.mod_eq_of_lt h)

/-- Stage 4 begins: STAGE reads 4, and no memory changes. -/
theorem Dev.beginStage4_keeps (d : Dev) : d.beginStage4.getF pBoot 0x40 2 0 = 4 ∧ d.beginStage4.mem = d.mem := by
  have hlinks : ∀ n ∈ List.range 16, pBoot.base + 0x40 ≠ (pLink n).base + 0x08 := by decide
  have hports : ((d.beginStage 4).each (List.range 16) fun d n => d.setBit (pLink n) 0x08 0 true).reg pBoot 0x40 = (d.beginStage 4).reg pBoot 0x40 :=
    Dev.foldl_holds (P := fun e => e.reg pBoot 0x40 = (d.beginStage 4).reg pBoot 0x40)
      (fun e n hn he => (e.reg_setBit_ne 0 true (hlinks n hn)).trans he) rfl
  have hmem : ((d.beginStage 4).each (List.range 16) fun d n => d.setBit (pLink n) 0x08 0 true).mem = d.mem :=
    (Dev.regsOnly_each (d.beginStage 4) (List.range 16) _ fun x n => x.regsOnly_setBit (pLink n) 0x08 0 true).mem
  obtain ⟨hreg, hkeep⟩ := Dev.bootPower_keeps ((d.beginStage 4).each (List.range 16) fun d n => d.setBit (pLink n) 0x08 0 true)
  refine ⟨?_, hkeep.trans hmem⟩
  rw [Dev.getF, Dev.beginStage4, hreg, hports]
  exact d.beginStage_reads (by decide)

/-- The stage after `n` begins: STAGE reads its number, and no memory changes. -/
def Dev.nextStage (d : Dev) (n : Nat) : Dev := if n = 3 then (d.fillVault d.lc).beginStage4 else d.beginStage (n + 1)

theorem Dev.nextStage_keeps (d : Dev) {n : Nat} (h : n < 6) : (d.nextStage n).getF pBoot 0x40 2 0 = n + 1 ∧ (d.nextStage n).mem = d.mem := by
  unfold Dev.nextStage
  split
  · next h3 =>
    subst h3
    exact Dev.beginStage4_keeps (d.fillVault d.lc)
  · exact ⟨d.beginStage_reads (by omega), rfl⟩

section Stages
variable {d : Dev} {n : Nat} (hn : d.stage = some n)
include hn

/-- A stage other than 6, whose domains are settled, runs its images. -/
theorem Dev.stageDone_images (h6 : n ≠ 6) (h4 : n = 4 → d.bootSettled = true) :
    (∃ (c k : Nat) (f : Dev), Dev.runImages (stageKinds n) d = .error (c, k, f) ∧ d.stageDone = f.startFails c k) ∨
      ∃ f : Dev, Dev.runImages (stageKinds n) d = .ok f ∧ d.stageDone = f.nextStage n := by
  have hsettled : (decide (n = 4) && !d.bootSettled) = false := by
    by_cases hn4 : n = 4
    · simp [h4 hn4]
    · simp [hn4]
  unfold Dev.stageDone
  simp only [hn, hsettled, Bool.false_eq_true, if_false, h6]
  cases hrun : Dev.runImages (stageKinds n) d with
  | error x => exact .inl ⟨x.1, x.2.1, x.2.2, rfl, rfl⟩
  | ok f => exact .inr ⟨f, rfl, rfl⟩

theorem Dev.stageDone_unsettled (h4 : n = 4) (h : d.bootSettled = false) : d.stageDone = d := by
  unfold Dev.stageDone
  simp only [hn, h4, h, decide_true, Bool.not_false, Bool.and_true, if_true]

theorem Dev.stageDone_six (h6 : n = 6) (h : ∀ p ∈ allPages, d.st p = stInit → p.blk ≠ .dev → d.initReady p = true) : d.stageDone = d.startDone := by
  have hnone : (allPages.any fun p => d.st p = stInit && p.blk ≠ .dev && !d.initReady p) = false := by
    rw [List.any_eq_false]
    intro p hp
    simp only [Bool.and_eq_true, decide_eq_true_eq, Bool.not_eq_true', not_and, Bool.not_eq_false]
    exact fun hst => h p hp hst.1 hst.2
  unfold Dev.stageDone
  simp only [hn, h6, hnone]
  rfl

theorem Dev.stageDone_sixWaits (h6 : n = 6) (h : ∃ p ∈ allPages, d.st p = stInit ∧ p.blk ≠ .dev ∧ d.initReady p = false) : d.stageDone = d := by
  obtain ⟨p, hp, hst, hblk, hready⟩ := h
  have hany : (allPages.any fun p => d.st p = stInit && p.blk ≠ .dev && !d.initReady p) = true :=
    List.any_eq_true.2 ⟨p, hp, by simp [hst, hblk, hready]⟩
  unfold Dev.stageDone
  simp only [hn, h6, hany]
  rfl

end Stages

/-- The start is complete: STAGE reads 7. -/
theorem Dev.startDone_reads (d : Dev) : d.startDone.getF pBoot 0x40 2 0 = 7 := by
  unfold Dev.startDone
  dsimp only
  rw [Dev.writeRec_eq]
  exact Dev.getF_setF_same _ pBoot 0x40 7 (by decide)

/-! ### A word of a block -/

theorem leNat_lt (l : List Byte) : leNat l < 256 ^ l.length := by
  induction l with
  | nil => decide
  | cons b t ih =>
    have hb := b.isLt
    rw [leNat, List.length_cons, pow_succ]
    omega

theorem numAt_lt (l : List Byte) (off n : Nat) : numAt l off n < 256 ^ n := by
  have h := leNat_lt (bytesAt l off n)
  rwa [bytesAt_length] at h

/-- Four bytes answered as a word. -/
theorem setWidth_numAt_four (l : List Byte) (off : Nat) : (BitVec.ofNat 32 (numAt l off 4)).setWidth 64 = BitVec.ofNat 64 (numAt l off 4) := by
  have h : numAt l off 4 < 2 ^ 32 := numAt_lt l off 4
  refine BitVec.eq_of_toNat_eq ?_
  rw [BitVec.toNat_setWidth, BitVec.toNat_ofNat, BitVec.toNat_ofNat, Nat.mod_eq_of_lt h]

end Sys2Proof.Machine

namespace Sys2Proof.Proofs
open Sys2Proof Sys2Proof.Machine

/-- Settles O57: STAGE_COMPLETE by the stage, whose images run or fail, the others by their conditions. -/
theorem theStartGoesStageByStage : Obligations.TheStartGoesStageByStage := by
  refine ⟨fun s c hnone => ?idle, fun s n hn => ⟨fun h6 h4 => ?images, fun h4 hset => ?unsettled, fun h6 hall => ?six, fun h6 hany => ?sixWaits, fun ht => ?early, fun ht => ?late, fun c => ?fault⟩,
    fun s p i e hdue => State.upd_serveItem_due hdue _, fun s => ⟨fun hfrit => ?noFrit, fun hfrit => ?frit⟩, fun s r i hgives => ?window⟩
  case idle =>
    refine ⟨?_, ?_, ?_⟩
    · show (s.upd Dev.stageDone) = _
      simp only [State.upd_eq, Dev.stageDone, hnone]
    · show execStageTimeout s = _
      simp only [execStageTimeout, State.upd_eq, hnone]
    · show execStageFault c s = _
      simp only [execStageFault, State.upd_eq, hnone]
  case images =>
    have hlt := Dev.stage_range hn
    rcases Dev.stageDone_images hn h6 h4 with ⟨c, k, f, hrun, hdone⟩ | ⟨f, hrun, hdone⟩
    · exact .inl ⟨c, k, f, hrun, s.upd_congr hdone⟩
    · exact .inr ⟨f, f.nextStage n, hrun, s.upd_congr hdone, f.nextStage_keeps (by omega)⟩
  case unsettled => exact s.upd_congr (Dev.stageDone_unsettled hn h4 hset)
  case six => exact ⟨_, s.upd_congr (Dev.stageDone_six hn h6 hall), Dev.startDone_reads _⟩
  case sixWaits => exact s.upd_congr (Dev.stageDone_sixWaits hn h6 hany)
  case early =>
    show execStageTimeout s = _
    simp only [execStageTimeout, State.upd_eq, hn, if_pos ht]
  case late =>
    show execStageTimeout s = _
    simp only [execStageTimeout, State.upd_eq, hn, if_neg (Nat.not_le.2 ht)]
  case fault =>
    show execStageFault c s = _
    simp only [execStageFault, State.upd_eq, hn]
  case noFrit =>
    show execFritExit s = _
    simp [execFritExit, hfrit]
  case frit =>
    have hrun : exec .fritExit s = .next ⟨Dev.warmReset { (s.dev.writeRec fun r => { r with attempts := 0, fritForce := false }) with itemResp := (0, 0) }, s.pending⟩ := by
      show execFritExit s = _
      simp [execFritExit, hfrit]
    exact ⟨_, hrun, rfl, fun hlen r hcur => Dev.curRec_writeRec (fun r => { r with attempts := 0, fritForce := false }) hlen hcur⟩
  case window =>
    have hrun : exec (.bootRecWindowRead r i) s = .next ⟨s.dev.answer (BitVec.ofNat 32 (numAt (s.dev.recBlock (s.dev.getF pBoot 0x58 11 0)) (4 * i) 4)), s.pending⟩ :=
      s.upd_congr (Dev.guardRead_gives hgives false _)
    exact ⟨_, hrun, setWidth_numAt_four .., rfl, rfl, rfl⟩

end Sys2Proof.Proofs

/-! SUPPORT. The management and JTAG ports (20, R438–R440; 21, R453, R454): the end of IDLE and what it leaves, the boot record's bytes, what each message answers, an access of CSR_ACCESS; and the statement about them. -/

namespace Sys2Proof.Machine

/-! ### The end of IDLE (20, R436) -/

/-- A cause that ends IDLE touches the power state only: STATE reads WAKING. -/
theorem Dev.endIdle_cases (d : Dev) : d.endIdle = d ∨ d.endIdle = { d.setF pPwr 0x44 2 0 5 with pwr := { d.pwr with low := 1 } } := by
  unfold Dev.endIdle
  split
  · next h1 =>
    unfold Dev.wakeCause
    simp only [h1]
    split
    · exact .inl rfl
    · exact .inr rfl
  · exact .inl rfl

/-- What the end of IDLE leaves. -/
theorem Dev.endIdle_only (d : Dev) : d.endIdle = { d with csr := d.endIdle.csr, pwr := d.endIdle.pwr } := by
  rcases d.endIdle_cases with h | h
  · rw [h]
  · rw [h]
    rfl

theorem Dev.sameRegsBut_endIdle (d : Dev) : d.endIdle.SameRegsBut d pPwr [0x44] := by
  rcases d.endIdle_cases with h | h <;> rw [h]
  · exact .refl _ _ _
  · exact d.sameRegsBut_setF pPwr 0x44 2 0 5

theorem Dev.endIdle_sent (d : Dev) : d.endIdle.sent = d.sent := by rw [Dev.endIdle_only]
theorem Dev.endIdle_boot (d : Dev) : d.endIdle.boot = d.boot := by rw [Dev.endIdle_only]

/-! ### Bytes of the boot record (19, R418) -/

/-- The record is read from its copies and from what the units report of themselves. -/
theorem Dev.recBody_congr {d e : Dev} (hclu : ∀ n, e.reg (pClu n) 0x7C4 = d.reg (pClu n) 0x7C4) (hstk : ∀ n, e.reg (pStk n 0) 0x40 = d.reg (pStk n 0) 0x40)
    (hlink : ∀ n, e.reg (pLink n) 0x4C = d.reg (pLink n) 0x4C) (hclus : e.clus = d.clus) (hstks : e.stks = d.stks) : e.recBody = d.recBody := by
  have hlanes : e.lanesIn = d.lanesIn := funext fun n => congrArg (wfld · 3 0) (hlink n)
  have hspare : e.spareEntry = d.spareEntry := by
    funext n b j
    simp only [Dev.spareEntry, Dev.clu, hclus]
  have hsoft : e.softEntry = d.softEntry := by
    funext s c j
    simp only [Dev.softEntry, Dev.stk, hstks]
  funext r i
  simp only [Dev.recBody, Dev.clu, hclu, hstk, hlanes, hspare, hsoft, hclus]

theorem Dev.recBlock_endIdle (d : Dev) (b : Nat) : d.endIdle.recBlock b = d.recBlock b := by
  have hregs := d.sameRegsBut_endIdle
  have hbody : d.endIdle.recBody = d.recBody := by
    refine Dev.recBody_congr (fun n => hregs.reg_of_ne ?_) (fun n => hregs.reg_of_ne ?_) (fun n => hregs.reg_of_ne ?_) (by rw [Dev.endIdle_only]) (by rw [Dev.endIdle_only]) <;>
      simp only [Page.base, List.forall_mem_singleton, ne_eq] <;> omega
  have hcur : d.endIdle.curRec = d.curRec := by rw [Dev.curRec, Dev.endIdle_boot, Dev.curRec]
  unfold Dev.recBlock Dev.recByteAt
  rw [hbody, hcur]

/-! ### Messages of the management port (R438, R439) -/

section Messages
variable {d : Dev} (hup : d.pwr.up = true)
include hup

theorem Dev.ctlRx_bad (f : Dev → Dev) : d.ctlRx false f = d.addCount pMgt 0x58 1 := by simp [Dev.ctlRx, hup]
theorem Dev.vendorRx_bad (f : Dev → Dev) : d.vendorRx false f = d.addCount pMgt 0x58 1 := by simp [Dev.vendorRx, hup]
theorem Dev.ctlRx_good (f : Dev → Dev) : d.ctlRx true f = f (d.endIdle.addCount pMgt 0x4C 1) := by simp [Dev.ctlRx, hup]

/-- A Decewell message of a device with an endpoint ID. -/
theorem Dev.vendorRx_good (heid : d.bit pMgt 0x44 15 = true) (f : Dev → Dev) : d.vendorRx true f = f (d.addCount pMgt 0x4C 1) := by
  have hbit : (d.addCount pMgt 0x4C 1).bit pMgt 0x44 15 = true := by
    rw [Dev.bit, (d.sameRegsBut_addCount pMgt 0x4C 1).reg (by decide)]
    exact heid
  simp [Dev.vendorRx, Dev.mgtRx, hup, hbit]

end Messages

theorem Dev.ctlRx_down {d : Dev} (h : d.pwr.up = false) (pec : Bool) (f : Dev → Dev) : d.ctlRx pec f = d := by simp [Dev.ctlRx, h]
theorem Dev.vendorRx_down {d : Dev} (h : d.pwr.up = false) (pec : Bool) (f : Dev → Dev) : d.vendorRx pec f = d := by simp [Dev.vendorRx, h]
theorem Dev.tapDo_down {d : Dev} (h : d.pwr.up = false) (f : Dev → Dev) : d.tapDo f = d := by simp [Dev.tapDo, h]
theorem Dev.tapDo_up {d : Dev} (h : d.pwr.up = true) (f : Dev → Dev) : d.tapDo f = f d := by simp [Dev.tapDo, h]

/-- A message that counts is put on no wire and changes no register but its count. -/
theorem Dev.addCount_sent (d : Dev) (p : Page) (off n : Nat) : (d.addCount p off n).sent = d.sent := by rw [d.regsOnly_addCount p off n]
theorem Dev.addCount_mgtOut (d : Dev) (p : Page) (off n : Nat) : (d.addCount p off n).mgtOut = d.mgtOut := by rw [d.regsOnly_addCount p off n]
theorem Dev.addCount_mgtTries (d : Dev) (p : Page) (off n : Nat) : (d.addCount p off n).mgtTries = d.mgtTries := by rw [d.regsOnly_addCount p off n]
theorem Dev.addCount_boot (d : Dev) (p : Page) (off n : Nat) : (d.addCount p off n).boot = d.boot := by rw [d.regsOnly_addCount p off n]
theorem Dev.addCount_work (d : Dev) (p : Page) (off n : Nat) : (d.addCount p off n).work = d.work := by rw [d.regsOnly_addCount p off n]

/-- The device as a control message finds it: not in IDLE, the message counted. -/
def Dev.ctlHeard (d : Dev) : Dev := d.endIdle.addCount pMgt 0x4C 1

theorem Dev.ctlHeard_sent (d : Dev) : d.ctlHeard.sent = d.sent := (Dev.addCount_sent ..).trans d.endIdle_sent

/-- The register of the endpoint ID, on a device that has heard a control message. -/
theorem Dev.reg_ctlHeard (d : Dev) : d.ctlHeard.reg pMgt 0x44 = d.reg pMgt 0x44 :=
  ((d.endIdle.sameRegsBut_addCount pMgt 0x4C 1).reg (by decide)).trans (d.sameRegsBut_endIdle.reg_of_ne (by decide))

theorem Dev.ctlReply_sent (d : Dev) (eid cmd code : Nat) (l : List Byte) : (d.ctlReply eid cmd code l).sent = .mctp eid 0x00 (leBytes 1 cmd ++ leBytes 1 code ++ l) :: d.sent :=
  Dev.addCount_sent ..

theorem Dev.reg_ctlReply (d : Dev) (eid cmd code : Nat) (l : List Byte) : (d.ctlReply eid cmd code l).reg pMgt 0x44 = d.reg pMgt 0x44 :=
  ((d.out (.mctp eid 0x00 (leBytes 1 cmd ++ leBytes 1 code ++ l))).sameRegsBut_addCount pMgt 0x50 1).reg (by decide)

theorem Dev.mgtSend_sent (d : Dev) (eid kind : Nat) (l : List Byte) : (d.mgtSend eid kind l).sent = .mctp eid 0x7F (leBytes 1 kind ++ l) :: d.sent :=
  Dev.addCount_sent ..

/-- The endpoint ID is assigned, and reads as assigned. -/
theorem Dev.eidAssigned_reads (d : Dev) (e : BitVec 8) :
    ((d.setF pMgt 0x44 7 0 e.toNat).setBit pMgt 0x44 15 true).getF pMgt 0x44 7 0 = e.toNat ∧ ((d.setF pMgt 0x44 7 0 e.toNat).setBit pMgt 0x44 15 true).bit pMgt 0x44 15 = true := by
  refine ⟨?_, Dev.bit_setBit_same _ pMgt 0x44 15 true (by decide)⟩
  rw [Dev.getF_setBit_ne _ _ _ _ (by decide), Dev.getF_setF_same _ _ _ _ (by decide)]
  exact Nat.mod_eq_of_lt e.isLt

/-- The message of the operator that work bytes make. -/
def Dev.operatorMsg (d : Dev) (bs : List Byte) (items : List (Nat × List Byte)) (eid : Option Nat) : WorkMsg :=
  ⟨d.nextId + 1, 0xFF, d.devnum, numAt bs 8 8, numAt bs 0x14 1, items, [], 0, false, none, eid⟩

theorem Dev.arriveBy_operator {d : Dev} {bs : List Byte} {items : List (Nat × List Byte)} (hparse : parseWork bs = some items) (hop : numAt bs 0x11 1 = 0xFF) (eid : Option Nat) :
    d.arriveBy bs none eid = ({ d with nextId := d.nextId + 1, work := d.work ++ [d.operatorMsg bs items eid] } : Dev).settle 0xFF := by
  unfold Dev.arriveBy
  simp only [hparse, hop]
  rfl

/-- A work message on the ACTIVE device with an endpoint ID arrives at the intake. -/
theorem exec_mgtWork_awake {s : State} {x : Fin 256} {bs : List (BitVec 8)} (hup : s.dev.pwr.up = true) (heid : s.dev.bit pMgt 0x44 15 = true) (hawake : s.dev.devPower = 0)
    (hlen : bs.length ≤ 65536) : exec (.mgtWork x true bs) s = .next ⟨(s.dev.addCount pMgt 0x4C 1).arriveBy bs none (some x.val), s.pending⟩ := by
  have hpower : (s.dev.addCount pMgt 0x4C 1).devPower = 0 := by
    rw [Dev.devPower, Dev.getF, (s.dev.sameRegsBut_addCount pMgt 0x4C 1).reg_of_ne (by decide)]
    exact hawake
  refine s.upd_congr ((Dev.vendorRx_good hup heid _).trans ?_)
  simp [hpower, Nat.not_lt.2 hlen]

/-! ### Events of the management port (R439) -/

section Events
variable {s : State} {m : List Byte} {l : List (List Byte)} (a : Bool) (hout : s.dev.mgtOut = m :: l) (hup : s.dev.pwr.up = true)
include hout hup

/-- The device that has put its first event on the wire. -/
def Dev.eventTried (d : Dev) (m : List Byte) : Dev := d.mgtSend (d.getF pMgt 0x40 8 1) 0x03 m

theorem exec_mgtEventSend (f : Dev) (hf : f = s.dev.eventTried m) : exec (.mgtEventSend a) s =
    .next ⟨if a then { f with mgtOut := l, mgtTries := 0 }
      else if 2 ≤ s.dev.mgtTries then ({ f with mgtOut := l, mgtTries := 0 } : Dev).addCount pMgt 0x54 1
      else { f with mgtTries := s.dev.mgtTries + 1 }, s.pending⟩ := by
  have htries : f.mgtTries = s.dev.mgtTries := by
    rw [hf]
    exact Dev.addCount_mgtTries ..
  show execMgtEventSend a s = _
  unfold execMgtEventSend State.upd
  simp only [hout, hup, Bool.not_true, Bool.false_eq_true, if_false, Dev.eventTried, hf] at htries ⊢
  rw [htries]

theorem exec_mgtEventSend_spec : ∃ f : Dev, exec (.mgtEventSend a) s = .next ⟨f, s.pending⟩ ∧
    f.sent = .mctp (s.dev.getF pMgt 0x40 8 1) 0x7F (0x03 :: m) :: s.dev.sent ∧
    ((a = true ∨ 2 ≤ s.dev.mgtTries) → f.mgtOut = l ∧ f.mgtTries = 0) ∧ ((a = false ∧ s.dev.mgtTries < 2) → f.mgtOut = m :: l ∧ f.mgtTries = s.dev.mgtTries + 1) := by
  have hsent : (s.dev.eventTried m).sent = .mctp (s.dev.getF pMgt 0x40 8 1) 0x7F (0x03 :: m) :: s.dev.sent := Dev.mgtSend_sent ..
  have hkept : (s.dev.eventTried m).mgtOut = m :: l := (Dev.addCount_mgtOut ..).trans hout
  refine ⟨_, exec_mgtEventSend a hout hup _ rfl, ?_⟩
  cases a with
  | true => exact ⟨hsent, fun _ => ⟨rfl, rfl⟩, fun h => nomatch h.1⟩
  | false =>
    by_cases hlast : 2 ≤ s.dev.mgtTries
    · simp only [hlast, Bool.false_eq_true, if_true, if_false, Dev.addCount_sent, Dev.addCount_mgtOut, Dev.addCount_mgtTries]
      exact ⟨hsent, fun _ => ⟨trivial, trivial⟩, fun h => absurd h.2 (Nat.not_lt.2 hlast)⟩
    · simp only [hlast, Bool.false_eq_true, if_false]
      exact ⟨hsent, fun h => by simp at h, fun _ => ⟨hkept, trivial⟩⟩

end Events

/-! ### An access of CSR_ACCESS (R440) -/

/-- The device whose JTAG port has shifted out the last access and holds a new one. -/
def Dev.csrUpdated (d : Dev) (a : Nat) (w : Bool) (v : Nat) : Dev :=
  { d.tapShift 0x10 d.tap.csrWord 80 with
    tap := { (d.tapShift 0x10 d.tap.csrWord 80).tap with dpa := a, write := w, data := v, status := 2 }
    inOps := d.inOps ++ [⟨jtagPath, 0, ⟨0, []⟩⟩] }

/-- The accesses that wait, without the one of CSR_ACCESS. -/
def Dev.csrDone (f : Dev) : Dev := { f with inOps := f.inOps.filter fun x => !(x.path = jtagPath && x.seq = 0) }

/-- The access of CSR_ACCESS, alone on its path, is performed or waits. -/
theorem Dev.performPath_csrUpdated {d : Dev} (a : Nat) (w : Bool) (v : Nat) (hawake : d.devPower = 0) (hnone : ∀ x ∈ d.inOps, x.path ≠ jtagPath) (f : Dev) (ok : Bool)
    (h : (d.csrUpdated a w v).jtagAccess a w v = (f, ok)) : Dev.performPath 1 (d.csrUpdated a w v) jtagPath = if ok then f.csrDone else f := by
  have hfind : (d.csrUpdated a w v).inOps.find? (fun o => o.path = jtagPath) = some ⟨jtagPath, 0, ⟨0, []⟩⟩ := by
    have hold : d.inOps.find? (fun o => o.path = jtagPath) = none := List.find?_eq_none.2 fun x hx => by simpa using hnone x hx
    show (d.inOps ++ _).find? _ = _
    rw [List.find?_append, hold]
    rfl
  have hup : (d.csrUpdated a w v).awake = true := decide_eq_true hawake
  have hop : (d.csrUpdated a w v).performOp ⟨jtagPath, 0, ⟨0, []⟩⟩ = (f, ok) := h
  unfold Dev.performPath Dev.performFirst
  simp only [hup, hfind, hop]
  cases ok <;> rfl

theorem exec_csrAccess {s : State} (a : BitVec 44) (w : Bool) (v : BitVec 32) (hup : s.dev.pwr.up = true) (hstat : s.dev.tap.status ≠ 2) (hawake : s.dev.devPower = 0) :
    exec (.csrAccess a w v) s = .next ⟨Dev.performPath 1 (s.dev.csrUpdated a.toNat w v.toNat) jtagPath, s.pending⟩ := by
  have hpower : ¬ (decide (1 ≤ s.dev.devPower) && decide (s.dev.devPower ≤ 4)) = true := by simp [hawake]
  refine s.upd_congr ((Dev.tapDo_up hup _).trans ((if_neg hstat).trans ?_))
  exact congrArg (fun d : Dev => Dev.performPath 1 { d with inOps := s.dev.inOps ++ [⟨jtagPath, 0, ⟨0, []⟩⟩] } jtagPath) (if_neg hpower)

/-- A read of memory that answers, of bytes without stored errors. -/
theorem Dev.jtagAccess_read {d : Dev} {a : Nat} (hin : InMemory a (a + 3)) (h0 : d.memReady a = true) (h3 : d.memReady (a + 3) = true) (herrs : d.errs = []) (v : Nat) :
    d.jtagAccess a false v = ({ d.noteSecure agDevice a 4 with tap := { d.tap with status := 0, data := leNat ((d.noteSecure agDevice a 4).readMem agDevice a 4) } }, true) := by
  have hnote : d.noteErrs a 4 = d := by simp [Dev.noteErrs, herrs]
  have htap : (d.noteSecure agDevice a 4).tap = d.tap := by
    unfold Dev.noteSecure
    split
    · split <;> rfl
    · rfl
  unfold Dev.jtagAccess
  rcases hin with ⟨k, x, k', x', ha, hb⟩ | ⟨c, x, c', x', ha, hb⟩ <;> simp [ha, hb, h0, h3, hnote, htap]

/-- What changes registers only, and none that seals a region 63, changes no read. -/
theorem Dev.readMem_regsOnly {d e : Dev} (h : d.RegsOnly e) (hseal : ∀ c, e.reg (pClu c) 0x400 = d.reg (pClu c) 0x400) (ag : Agent) (a n : Nat) :
    e.readMem ag a n = d.readMem ag a n := by
  have hdenied : ∀ c, e.secDenied ag c = d.secDenied ag c := fun c => by simp only [Dev.secDenied, hseal]
  unfold Dev.readMem
  simp only [hdenied]
  rw [h]
  rfl

/-- Noting that a closed region 63 was read (05, R93) changes no read. -/
theorem Dev.readMem_noteSecure (d : Dev) (ag ag' : Agent) (a n a' n' : Nat) : (d.noteSecure ag a n).readMem ag' a' n' = d.readMem ag' a' n' := by
  unfold Dev.noteSecure
  split
  · split
    · refine Dev.readMem_regsOnly (d.regsOnly_setBit _ _ _ _) (fun c => d.reg_setBit_ne _ _ ?_) ag' a' n'
      simp only [Page.base]
      omega
    · rfl
  · rfl

theorem Dev.noteSecure_regsOnly (d : Dev) (ag : Agent) (a n : Nat) : d.RegsOnly (d.noteSecure ag a n) := by
  unfold Dev.noteSecure
  split
  · split
    · exact d.regsOnly_setBit _ _ _ _
    · rfl
  · rfl

end Sys2Proof.Machine

namespace Sys2Proof.Proofs
open Sys2Proof Sys2Proof.Machine

/-- Settles O59: a message is refused, heard or answered on the device as it finds it; an access of CSR_ACCESS is the first of its path. -/
theorem managementAndJtag : Obligations.ManagementAndJtag := by
  refine ⟨fun s x op e t bs b => ⟨fun hup => ?bad, fun hdown => ?down, fun hup => ⟨fun h => ?assign, fun h => ?reserved, ?getId, ?uuid, ?versions, ?types⟩,
      fun hup heid => ⟨fun hawake hlen => ⟨fun hparse => ?workBad, fun l hparse hop => ?work⟩, ?telemetry, ?record⟩⟩,
    fun s a n => ⟨fun hout => ?noEvent, fun m l hout hup => exec_mgtEventSend_spec a hout hup, fun h => ?smbShort, fun hup hn => ?smb⟩,
    fun s pins tdi c hup => ⟨?idcode, ?extest, ?sample, fun hlc => ?scanBypass, fun hlc => ?scan, fun hc => ?bypass, ?reset⟩,
    fun s a w v hup => ⟨fun hstat => ?pending, fun hstat hawake hnone => ?access, fun hstat hawake hnone hw hin h0 h3 herrs => ?read⟩⟩
  case bad =>
    have hctl (f : Dev → Dev) := s.upd_congr (Dev.ctlRx_bad hup f)
    have hvendor (f : Dev → Dev) := s.upd_congr (Dev.vendorRx_bad hup f)
    simp only [List.forall_mem_cons, List.not_mem_nil, false_imp_iff, implies_true, and_true]
    exact ⟨hctl _, hctl _, hctl _, hctl _, hctl _, hvendor _, hvendor _, hvendor _⟩
  case down =>
    have hctl (f : Dev → Dev) := s.upd_congr (Dev.ctlRx_down hdown true f)
    have hvendor (f : Dev → Dev) := s.upd_congr (Dev.vendorRx_down hdown true f)
    have htap (f : Dev → Dev) := s.upd_congr (Dev.tapDo_down hdown f)
    simp only [List.forall_mem_cons, List.not_mem_nil, false_imp_iff, implies_true, and_true]
    exact ⟨hctl _, hctl _, hctl _, hctl _, hctl _, hvendor _, hvendor _, hvendor _, htap _, htap _, htap _, htap _, htap _, htap _⟩
  case assign =>
    have hrun : exec (.setEndpointId x true op e) s =
        .next ⟨((s.dev.ctlHeard.setF pMgt 0x44 7 0 e.toNat).setBit pMgt 0x44 15 true).ctlReply x 0x01 0x00 (leBytes 1 0 ++ leBytes 1 e.toNat ++ leBytes 1 0), s.pending⟩ := by
      have hok : ¬ (decide (2 ≤ op.val) || decide (e = 0) || decide (e = 0xFF)) = true := by simpa [Nat.not_le.2 h.1] using h.2
      exact s.upd_congr ((Dev.ctlRx_good hup _).trans (if_neg hok))
    obtain ⟨hid, hset⟩ := s.dev.ctlHeard.eidAssigned_reads e
    refine ⟨_, hrun, ?_, ?_, ?_⟩
    · rw [Dev.getF, Dev.reg_ctlReply]
      exact hid
    · rw [Dev.bit, Dev.reg_ctlReply]
      exact hset
    · rw [Dev.ctlReply_sent, (Dev.regsOnly_setBit _ pMgt 0x44 15 true)]
      exact congrArg (_ :: ·) s.dev.ctlHeard_sent
  case reserved =>
    have hrun : exec (.setEndpointId x true op e) s = .next ⟨s.dev.ctlHeard.ctlReply x 0x01 0x02 [], s.pending⟩ := by
      have hbad : (decide (2 ≤ op.val) || decide (e = 0) || decide (e = 0xFF)) = true := by simpa [or_assoc] using h
      exact s.upd_congr ((Dev.ctlRx_good hup _).trans (if_pos hbad))
    refine ⟨_, hrun, ?_, ?_⟩
    · rw [Dev.getF, Dev.reg_ctlReply, Dev.reg_ctlHeard, Dev.getF]
    · rw [Dev.ctlReply_sent, Dev.ctlHeard_sent]
      rfl
  case getId =>
    refine ⟨_, s.upd_congr (Dev.ctlRx_good hup _), (Dev.ctlReply_sent ..).trans ?_⟩
    rw [show s.dev.endIdle.addCount pMgt 0x4C 1 = s.dev.ctlHeard from rfl, Dev.ctlHeard_sent, Dev.getF, Dev.reg_ctlHeard]
    rfl
  case uuid =>
    refine ⟨_, s.upd_congr (Dev.ctlRx_good hup _), (Dev.ctlReply_sent ..).trans ?_⟩
    exact congrArg (_ :: ·) s.dev.ctlHeard_sent
  case versions =>
    have hrun : exec (.getMctpVersionSupport x true t) s = .next ⟨if mctpTypes.contains t.toNat then
        s.dev.ctlHeard.ctlReply x 0x04 0x00 (leBytes 1 (Config.mctpVersions t.toNat).length ++ (Config.mctpVersions t.toNat).flatMap fun v => leBytes 4 v.toNat)
      else s.dev.ctlHeard.ctlReply x 0x04 0x80 [], s.pending⟩ := s.upd_congr (Dev.ctlRx_good hup _)
    by_cases hmem : t.toNat ∈ mctpTypes
    · rw [if_pos (List.contains_iff_mem.2 hmem)] at hrun
      exact ⟨_, _, hrun, (Dev.ctlReply_sent ..).trans (congrArg (_ :: ·) s.dev.ctlHeard_sent), fun h => absurd hmem h, fun _ => rfl⟩
    · rw [if_neg (fun h => hmem (List.contains_iff_mem.1 h))] at hrun
      exact ⟨_, _, hrun, (Dev.ctlReply_sent ..).trans (congrArg (_ :: ·) s.dev.ctlHeard_sent), fun _ => rfl, fun h => absurd h hmem⟩
  case types =>
    refine ⟨_, s.upd_congr (Dev.ctlRx_good hup _), (Dev.ctlReply_sent ..).trans ?_⟩
    exact congrArg (_ :: ·) s.dev.ctlHeard_sent
  case workBad =>
    refine ⟨s.dev.addCount pMgt 0x4C 1, (exec_mgtWork_awake hup heid hawake hlen).trans (s.upd_congr ?_), Dev.addCount_work ..⟩
    unfold Dev.arriveBy
    simp only [hparse]
  case work =>
    refine ⟨_, (s.dev.addCount pMgt 0x4C 1).operatorMsg bs l (some x.val),
      (exec_mgtWork_awake hup heid hawake hlen).trans (s.upd_congr (Dev.arriveBy_operator hparse hop _)), ?_, rfl, rfl, rfl, rfl⟩
    exact congrArg (· ++ [_]) (Dev.addCount_work s.dev pMgt 0x4C 1)
  case telemetry =>
    refine ⟨_, _, s.upd_congr (Dev.vendorRx_good hup heid _), (Dev.mgtSend_sent ..).trans (congrArg (_ :: ·) ((Dev.endIdle_sent _).trans (Dev.addCount_sent ..))), ?_⟩
    show (List.flatMap _ (List.range 320) ++ leBytes 4 _).length = 1284
    rw [List.length_append, List.length_flatMap]
    simp only [leBytes_length, List.map_const', List.length_range, List.sum_replicate]
    rfl
  case record =>
    refine ⟨(s.dev.addCount pMgt 0x4C 1).endIdle, ?_, (Dev.endIdle_boot _).trans (Dev.addCount_boot ..)⟩
    rw [Dev.recBlock_endIdle]
    exact s.upd_congr (Dev.vendorRx_good hup heid _)
  case noEvent =>
    show execMgtEventSend a s = _
    simp [execMgtEventSend, hout]
  case smbShort =>
    show execSmbusTimeout n s = _
    have hno : ¬ (s.dev.pwr.up = true ∧ 1500000 ≤ n) := by
      rintro ⟨h1, h2⟩
      rcases h with h | h
      · rw [h] at h1
        cases h1
      · omega
    simp [execSmbusTimeout, hno]
  case smb =>
    have hrun : exec (.smbusTimeout n) s = .next ⟨s.dev.out .smbRelease, s.pending⟩ := by
      show execSmbusTimeout n s = _
      simp [execSmbusTimeout, hup, hn]
    exact ⟨_, hrun, rfl, rfl⟩
  case idcode => exact ⟨_, s.upd_congr (Dev.tapDo_up hup _), rfl, rfl, rfl⟩
  case extest => exact ⟨_, s.upd_congr (Dev.tapDo_up hup _), rfl, rfl, rfl, rfl⟩
  case sample => exact ⟨_, s.upd_congr (Dev.tapDo_up hup _), rfl, rfl, rfl⟩
  case scanBypass => exact ⟨_, s.upd_congr ((Dev.tapDo_up hup _).trans (if_neg hlc)), rfl, rfl⟩
  case scan =>
    exact ⟨_, _, s.upd_congr ((Dev.tapDo_up hup _).trans (if_pos hlc)), rfl, rfl, Nat.mod_lt _ (Nat.two_pow_pos _)⟩
  case bypass =>
    have hno : ¬ [0x00, 0x01, 0x02, 0x10, 0x20].contains c.toNat = true := fun h => hc (List.contains_iff_mem.1 h)
    exact ⟨_, s.upd_congr ((Dev.tapDo_up hup _).trans (if_neg hno)), rfl, rfl⟩
  case reset => exact ⟨_, s.upd_congr (Dev.tapDo_up hup _), rfl, rfl, rfl⟩
  case pending => exact ⟨_, s.upd_congr ((Dev.tapDo_up hup _).trans (if_pos hstat)), rfl, rfl, rfl⟩
  case access =>
    refine ⟨s.dev.csrUpdated a.toNat w v.toNat, rfl, rfl, rfl, rfl, fun f hf => ?_, fun f hf => ?_⟩
    · rw [exec_csrAccess a w v hup hstat hawake, Dev.performPath_csrUpdated _ _ _ hawake hnone _ _ hf]
      rfl
    · rw [exec_csrAccess a w v hup hstat hawake, Dev.performPath_csrUpdated _ _ _ hawake hnone _ _ hf]
      rfl
  case read =>
    subst hw
    have hread := Dev.jtagAccess_read (d := s.dev.csrUpdated a.toNat false v.toNat) hin h0 h3 herrs v.toNat
    have hmem : ((s.dev.csrUpdated a.toNat false v.toNat).noteSecure agDevice a.toNat 4).mem = s.dev.mem := (Dev.noteSecure_regsOnly _ agDevice a.toNat 4).mem
    refine ⟨_, (exec_csrAccess a false v hup hstat hawake).trans (s.upd_congr (Dev.performPath_csrUpdated _ _ _ hawake hnone _ _ hread)), rfl, ?_, hmem, ?_⟩
    · exact congrArg leNat (Dev.readMem_noteSecure ..)
    · have hops : ((s.dev.csrUpdated a.toNat false v.toNat).noteSecure agDevice a.toNat 4).inOps = s.dev.inOps ++ [⟨jtagPath, 0, ⟨0, []⟩⟩] := by
        rw [Dev.noteSecure_regsOnly (s.dev.csrUpdated a.toNat false v.toNat) agDevice a.toNat 4]
        rfl
      have hkeep : s.dev.inOps.filter (fun x => !(x.path = jtagPath && x.seq = 0)) = s.dev.inOps := List.filter_eq_self.2 fun x hx => by simp [hnone x hx]
      show List.filter _ (Dev.noteSecure _ _ _ _).inOps = _
      rw [hops, List.filter_append, hkeep]
      exact List.append_nil _

end Sys2Proof.Proofs

/-! SUPPORT. Tokenizer items (15, R316, R317, R327): what a hart's read and write leave to an item, the table of an item; and the statement about them. -/

namespace Sys2Proof.Machine

/-! ### The lowest number with a property -/

theorem lowest_eq_some {n k : Nat} {q : Nat → Bool} (hk : k < n) (hq : q k = true) (hmin : ∀ j < k, q j = false) : lowest n q = some k :=
  List.find?_range_eq_some.2 ⟨hq, List.mem_range.2 hk, fun j hj => by simp [hmin j hj]⟩

theorem lowest_eq_none {n : Nat} {q : Nat → Bool} (h : ∀ j < n, q j = false) : lowest n q = none :=
  List.find?_range_eq_none.2 fun j hj => by simp [h j hj]

/-! ### Reads and writes of an item by a hart (17, R367) -/

section Hart
variable {d f : Dev} {i : Item} {pva n : Nat}

theorem Dev.hartRead_ok {bs : List Byte} (h : d.intakeRead i.ptn pva n = (f, .ok (bs, false))) (g : Dev → List Byte → Dev) : d.hartRead i pva n g = g f bs := by
  simp [Dev.hartRead, h]

theorem Dev.hartWrite_ok {bs : List Byte} {b : Unit} (h : d.intakeWrite i.ptn pva bs = (f, .ok b)) (g : Dev → Dev) : d.hartWrite i pva bs g = g f := by
  simp [Dev.hartWrite, h]

/-! ### The table of an item -/

theorem Dev.withTable_bad (unit : Nat) (g : Dev → List Byte → List Byte → Dev)
    (h : tget? (d.px i.ptn).toks (numAt i.body 0 1) = none ∨ numAt i.body 0x10 4 = 0 ∨ 1048576 < numAt i.body 0x10 4) : d.withTable i unit g = d.endItem i cTokInvalid 0 := by
  unfold Dev.withTable
  cases htab : tget? (d.px i.ptn).toks (numAt i.body 0 1) with
  | none => rfl
  | some x =>
    have hlen : numAt i.body 0x10 4 = 0 ∨ 1048576 < numAt i.body 0x10 4 := h.resolve_left (by simp [htab])
    exact if_pos (by rcases hlen with h | h <;> simp [h])

theorem Dev.withTable_good {len unit : Nat} {f' : Dev} {t bs : List Byte} (g : Dev → List Byte → List Byte → Dev)
    (htab : tget? (d.px i.ptn).toks (numAt i.body 0 1) = some (pva, len)) (h0 : numAt i.body 0x10 4 ≠ 0) (hmax : numAt i.body 0x10 4 ≤ 1048576)
    (halign : unit = 1 → numAt i.body 0x18 8 % 4 = 0) (ht : d.intakeRead i.ptn pva len = (f, .ok (t, false)))
    (hin : f.intakeRead i.ptn (numAt i.body 8 8) (unit * numAt i.body 0x10 4) = (f', .ok (bs, false))) : d.withTable i unit g = g f' t bs := by
  have hok : ¬ (decide (numAt i.body 0x10 4 = 0) || decide (1048576 < numAt i.body 0x10 4) || decide (unit = 1) && decide (numAt i.body 0x18 8 % 4 ≠ 0)) = true := by
    simpa [h0, Nat.not_lt.2 hmax] using halign
  unfold Dev.withTable
  simp only [htab, if_neg hok]
  rw [Dev.hartRead_ok ht, Dev.hartRead_ok hin]

end Hart

/-- TOK_LOAD of an aligned table with room for its model reads the table. -/
theorem Dev.tokLoad_read {d f : Dev} {i : Item} {t : List Byte} (halign : numAt i.body 8 8 % 4096 = 0) (hpva : numAt i.body 8 8 < 2 ^ 48) (hlen : 0x410 ≤ numAt i.body 0x10 4)
    (hroom : (d.px i.ptn).toks.length < 8) (hread : d.intakeRead i.ptn (numAt i.body 8 8) (numAt i.body 0x10 4) = (f, .ok (t, false))) :
    (∀ o, tkBad t = some o → d.tokLoad i = f.endItem i cTokInvalid (min o (2 ^ 24 - 1))) ∧
    (tkBad t = none → d.tokLoad i = (f.modPx i.ptn fun x => { x with toks := tput x.toks (numAt i.body 0 1) (numAt i.body 8 8, numAt i.body 0x10 4) }).endItem i 0 0) := by
  have hok : ¬ (decide (numAt i.body 8 8 % 4096 ≠ 0) || decide (2 ^ 48 ≤ numAt i.body 8 8) || decide (numAt i.body 0x10 4 < 0x410)
      || !(tget? (d.px i.ptn).toks (numAt i.body 0 1)).isSome && decide (8 ≤ (d.px i.ptn).toks.length)) = true := by
    simp [halign, Nat.not_lt.2 hlen, Nat.not_le.2 hroom]
    exact hpva
  unfold Dev.tokLoad
  simp only [if_neg hok]
  rw [Dev.hartRead_ok hread]
  exact ⟨fun o ho => by simp only [ho], fun hnone => by simp only [hnone]⟩

/-- Without a token outside the vocabulary none is the first; otherwise the first is. -/
theorem lowest_outside_none {toks : List Nat} {v : Nat} (h : ∀ x ∈ toks, x < v) : (lowest toks.length fun k => v ≤ (toks[k]?).getD 0) = none :=
  lowest_eq_none fun j hj => by simpa [List.getElem?_eq_getElem hj] using h _ (List.getElem_mem hj)

theorem lowest_outside_some {toks : List Nat} {v k x : Nat} (hk : toks[k]? = some x) (hx : v ≤ x) (hmin : ∀ j < k, ∀ y, toks[j]? = some y → y < v) :
    (lowest toks.length fun k => v ≤ (toks[k]?).getD 0) = some k := by
  obtain ⟨hlen, -⟩ := List.getElem?_eq_some_iff.1 hk
  refine lowest_eq_some hlen (by simpa [hk] using hx) fun j hj => ?_
  have hget := List.getElem?_eq_getElem (hj.trans hlen)
  simpa [hget] using hmin j hj _ hget

end Sys2Proof.Machine

namespace Sys2Proof.Proofs
open Sys2Proof Sys2Proof.Machine

/-- Settles O46: each item reads its table and its input (`Dev.withTable_good`), and ends by what they hold. -/
theorem tokenizerItems : Obligations.TokenizerItems := by
  refine ⟨fun s p i e f t hdue halign hpva hlen hroom hread => ?load, fun s p i e hdue => ?encode, fun s p i e hdue => ?decode⟩
  case load =>
    have hrun : exec (.tokLoad p) s = .next ⟨e.tokLoad i, s.pending⟩ := State.upd_serveItem_due hdue _
    obtain ⟨hbad, hgood⟩ := Dev.tokLoad_read halign hpva hlen hroom hread
    refine ⟨fun o ho => hrun.trans (s.upd_congr (hbad o ho)), fun hnone => ⟨_, hrun.trans (s.upd_congr (hgood hnone)), ?_, rfl⟩⟩
    rw [Dev.px_modPx_same]
    exact tget?_tput_same ..
  case encode =>
    have hrun : exec (.tokEncode p) s = .next ⟨e.tokEncode i, s.pending⟩ := State.upd_serveItem_due hdue _
    refine ⟨fun hbad => hrun.trans (s.upd_congr (Dev.withTable_bad 1 _ hbad)), fun pva len n f g h t bs sq b htab hn h0 hmax halign ht hin hsq => ?_⟩
    subst hn hsq
    have hgo (k : Dev → List Byte → List Byte → Dev) := Dev.withTable_good (unit := 1) k htab h0 hmax (fun _ => halign) ht ((Nat.one_mul (numAt i.body 0x10 4)).symm ▸ hin)
    refine ⟨fun hlong => hrun.trans (s.upd_congr ((hgo _).trans (if_pos hlong))), fun hfits hout => hrun.trans (s.upd_congr ((hgo _).trans ((if_neg (Nat.not_lt.2 hfits)).trans ?_)))⟩
    exact Dev.hartWrite_ok hout _
  case decode =>
    have hrun : exec (.tokDecode p) s = .next ⟨e.tokDecode i, s.pending⟩ := State.upd_serveItem_due hdue _
    refine ⟨fun hbad => hrun.trans (s.upd_congr (Dev.withTable_bad 4 _ hbad)), fun pva len n f g h t bs toks out b htab hn h0 hmax ht hin htoks hout => ?_⟩
    subst hn
    have hgo (k : Dev → List Byte → List Byte → Dev) := Dev.withTable_good (unit := 4) k htab h0 hmax (fun h => nomatch h) ht hin
    refine ⟨fun hvoc hfits hwrite => hrun.trans (s.upd_congr ((hgo _).trans ?_)), fun hvoc hlong => hrun.trans (s.upd_congr ((hgo _).trans ?_)),
      fun k x hk hx hmin => hrun.trans (s.upd_congr ((hgo _).trans ?_))⟩
    · simp only [← htoks, lowest_outside_none hvoc, ← hout, if_neg (Nat.not_lt.2 hfits)]
      exact Dev.hartWrite_ok hwrite _
    · simp only [← htoks, lowest_outside_none hvoc, ← hout, if_pos hlong]
      rfl
    · simp only [← htoks, lowest_outside_some hk hx hmin]

end Sys2Proof.Proofs

/-! SUPPORT. What an access to memory touches (05, R86–R97; 12, R241; 13, R261–R263; 20, R430): bytes, marks and errors, translations kept, frames to other devices, demands on domains, and registers of the memory's own pages. -/

namespace Sys2Proof.Machine

/-! ### The relation -/

/-- The places of STATUS, OWNER and PTN_XLATE_EXPIRED on the pages of the partitions. -/
abbrev Head (k : Nat) : Prop := 0x60000 ≤ k ∧ k < 0x80000 ∧ (k % 4096 = 0xC ∨ k % 4096 = 0x24 ∨ k % 4096 = 0x214)

/-- The places of registers that no access to memory changes: every page before those of the partitions, but PWR, and these of the partitions. -/
abbrev Quiet (k : Nat) : Prop := k < 0x1000 ∨ 0x2000 ≤ k ∧ k < 0x60000 ∨ Head k

/-- `d'` differs from `d` in what an access to memory may touch only. -/
structure Dev.Access (d d' : Dev) : Prop where
  only : d' = { d with
    csr := d'.csr, cyc := d'.cyc, events := d'.events, evSent := d'.evSent, mem := d'.mem, marks := d'.marks, errs := d'.errs, injected := d'.injected
    torn := d'.torn, freeNext := d'.freeNext, tlb := d'.tlb, far := d'.far, heldOps := d'.heldOps, reqs := d'.reqs, ports := d'.ports, routes := d'.routes
    outMsgs := d'.outMsgs, nextId := d'.nextId, nextMid := d'.nextMid, nextTag := d'.nextTag, dests := d'.dests, pwr := d'.pwr, stks := d'.stks }
  csr : ∀ k, Quiet k → tget? d'.csr k = tget? d.csr k

theorem Dev.Access.refl (d : Dev) : d.Access d := ⟨rfl, fun _ _ => rfl⟩

theorem Dev.Access.trans {a b c : Dev} (h : a.Access b) (h' : b.Access c) : a.Access c :=
  ⟨by rw [h'.only, h.only], fun k hk => (h'.csr k hk).trans (h.csr k hk)⟩

theorem Dev.Access.ite {d t e : Dev} {b : Prop} [Decidable b] (h : d.Access t) (h' : d.Access e) : d.Access (if b then t else e) := by
  split
  · exact h
  · exact h'

theorem Dev.access_foldl {α : Type} {f : Dev → α → Dev} {l : List α} (h : ∀ d, ∀ a ∈ l, Dev.Access d (f d a)) (d : Dev) : d.Access (l.foldl f d) :=
  Dev.foldl_holds (P := d.Access) (fun e a ha he => he.trans (h e a ha)) (.refl d)

theorem Dev.Access.reg {d d' : Dev} (h : d.Access d') {p : Page} {off : Nat} (hq : Quiet (p.base + off)) : d'.reg p off = d.reg p off := by
  rw [Dev.reg, Dev.reg, tgetD, tgetD, h.csr _ hq]

theorem Dev.RegsOnly.access {d d' : Dev} (h : d.RegsOnly d') (hcsr : ∀ k, Quiet k → tget? d'.csr k = tget? d.csr k) : d.Access d' := ⟨by rw [h], hcsr⟩
theorem Dev.SendsOnly.access {d d' : Dev} (h : d.SendsOnly d') : d.Access d' := ⟨by rw [h], fun _ _ => by rw [h]⟩

/-! ### Registers of the pages from the partitions on, and of PWR -/

theorem Dev.SameRegsBut.access {d d' : Dev} {p : Page} {offs : List Nat} (h : d'.SameRegsBut d p offs) (hregs : d.RegsOnly d') (hq : ∀ o ∈ offs, ¬ Quiet (p.base + o)) :
    d.Access d' := hregs.access fun k hk => (h k fun o ho he => hq o ho (he ▸ hk)).symm

theorem not_quiet_of_le {k : Nat} (h : 0x80000 ≤ k) : ¬ Quiet k := by omega

theorem not_quiet_stk (s u off : Nat) : ¬ Quiet ((pStk s u).base + off) := not_quiet_of_le (by simp only [Page.base]; omega)
theorem not_quiet_clu (n off : Nat) : ¬ Quiet ((pClu n).base + off) := not_quiet_of_le (by simp only [Page.base]; omega)
theorem not_quiet_ptn (p : Nat) {off : Nat} (h : off < 0x1000 ∧ off ≠ 0xC ∧ off ≠ 0x24 ∧ off ≠ 0x214) : ¬ Quiet ((pPtn p).base + off) := by
  simp only [Page.base]
  omega
theorem not_quiet_pwr {off : Nat} (h : off < 0x1000) : ¬ Quiet (pPwr.base + off) := by
  simp only [Page.base, Quiet]
  omega

section Registers
variable (d : Dev) {p : Page} {off : Nat} (hq : ¬ Quiet (p.base + off))
include hq

theorem Dev.access_setF (hi lo v : Nat) : d.Access (d.setF p off hi lo v) := (d.sameRegsBut_setF p off hi lo v).access (d.regsOnly_setF ..) (by simpa using hq)
theorem Dev.access_setReg (v : Word) : d.Access (d.setReg p off v) := (d.sameRegsBut_setReg p off v).access (d.regsOnly_setReg ..) (by simpa using hq)
theorem Dev.access_setBit (i : Nat) (b : Bool) : d.Access (d.setBit p off i b) := (d.sameRegsBut_setBit p off i b).access (d.regsOnly_setBit ..) (by simpa using hq)
theorem Dev.access_addCount (n : Nat) : d.Access (d.addCount p off n) := (d.sameRegsBut_addCount p off n).access (d.regsOnly_addCount ..) (by simpa using hq)

end Registers

/-! ### Errors, marks and bytes (05, R86–R93; 12, R244, R245; 17, R365–R368) -/

theorem Dev.access_dropErr (d : Dev) (u : Nat) : d.Access (d.dropErr u) := by
  have h0 : d.Access { d with errs := tdel d.errs u, injected := d.injected.filter (· ≠ u) } := ⟨rfl, fun _ _ => rfl⟩
  unfold Dev.dropErr
  refine h0.trans ?_
  dsimp only
  split
  · exact .ite (Dev.access_setBit _ (not_quiet_stk _ _ _) _ _) (.refl _)
  · exact .ite (Dev.access_setBit _ (not_quiet_clu _ _) _ _) (.refl _)
  · exact .refl _

theorem Dev.access_mark (d : Dev) (u : Nat) : d.Access (d.mark u) := ⟨rfl, fun _ _ => rfl⟩

theorem Dev.access_noteErr (d : Dev) (u : Nat) : d.Access (d.noteErr u) := by
  have hstk (e : Dev) (s off : Nat) : e.Access (e.addCount (pStk s 2) off 1) := e.access_addCount (not_quiet_stk _ _ _) 1
  have hclu (e : Dev) (n off : Nat) : e.Access (e.addCount (pClu n) off 1) := e.access_addCount (not_quiet_clu _ _) 1
  unfold Dev.noteErr
  split
  · exact (d.access_dropErr u).trans (.ite (.refl _) (.ite (hstk ..) (((Dev.access_mark _ _).trans (hstk ..)).trans (hstk ..))))
  · exact (d.access_dropErr u).trans (Dev.access_foldl (fun e k _ => .ite (.refl e) (.ite (hclu ..) ((e.access_mark _).trans (hclu ..)))) _)
  · exact .refl d

theorem Dev.access_noteErrs (d : Dev) (a n : Nat) : d.Access (d.noteErrs a n) :=
  .ite (.refl d) (Dev.access_foldl (fun e u _ => .ite (e.access_noteErr u) (.refl e)) d)

theorem Dev.access_inject (d : Dev) (u : Nat) (bits : List Nat) : d.Access (d.inject u bits) := ⟨rfl, fun _ _ => rfl⟩

theorem Dev.access_flipApply (d : Dev) (u : Nat) : d.Access (d.flipApply u) := by
  unfold Dev.flipApply
  split
  · exact .ite ((d.access_setReg (not_quiet_stk _ _ _) _).trans (Dev.access_inject ..)) (.refl d)
  · exact .ite ((d.access_setReg (not_quiet_clu _ _) _).trans (Dev.access_inject ..)) (.refl d)
  · exact .refl d

theorem Dev.access_overUnit (d : Dev) (a n u : Nat) : d.Access (d.overUnit a n u) := by
  unfold Dev.overUnit
  refine Dev.Access.trans ?_ (Dev.access_flipApply _ u)
  split
  · exact .refl d
  · split
    · exact .ite (d.access_noteErr u) (.ite (d.access_dropErr u) ⟨rfl, fun _ _ => rfl⟩)
    · exact .ite (d.access_dropErr u) (d.access_noteErr u)

theorem Dev.access_overUnits (d : Dev) (a n : Nat) : d.Access (d.overUnits a n) := Dev.access_foldl (fun e u _ => e.access_overUnit a n u) d

theorem Dev.access_markWrite (d : Dev) (a n : Nat) (m : Bool) : d.Access (d.markWrite a n m) := ⟨rfl, fun _ _ => rfl⟩

theorem Dev.access_setRawBytes (d : Dev) (a : Nat) (l : List Byte) : d.Access (d.setRawBytes a l) := by
  induction l generalizing d a with
  | nil => exact .refl d
  | cons b l ih => exact .trans (b := d.setRawByte a b) ⟨rfl, fun _ _ => rfl⟩ (ih _ _)

theorem Dev.access_putUnit (d : Dev) (u : Nat) (w : Bool) (a : Nat) (bs : List Byte) : d.Access (d.putUnit u w a bs) := by
  have hland : ∀ p : Nat → Bool, d.Access (d.landTorn p) := fun p =>
    .ite (.refl d) (.trans (b := { d with torn := d.torn.filter fun t => !p t.1 }) ⟨rfl, fun _ _ => rfl⟩ (Dev.access_foldl (fun e _ _ => e.access_setRawBytes _ _) _))
  unfold Dev.putUnit
  refine (hland _).trans (.ite (Dev.access_setRawBytes _ a bs) (.trans (b := (d.landTorn fun t => t / u = a / u).takeFree.2) ⟨rfl, fun _ _ => rfl⟩ ?_))
  refine Dev.access_foldl (fun e part _ => .ite (e.access_setRawBytes _ _) ?_) _
  exact ⟨rfl, fun _ _ => rfl⟩

theorem Dev.access_writeBurst (d : Dev) (ag : Agent) (a : Nat) (bs : List Byte) (m w : Bool) : d.Access (d.writeBurst ag a bs m w).1 := by
  have hwrite : ∀ b x, d.Access (((d.overUnits a bs.length).markWrite a bs.length m).putUnit 64 w b x) := fun b x =>
    ((d.access_overUnits _ _).trans (Dev.access_markWrite _ _ _ _)).trans (Dev.access_putUnit _ _ _ _ _)
  unfold Dev.writeBurst
  split
  · dsimp only
    split
    · exact d.access_setBit (not_quiet_stk _ _ _) _ _
    · split
      · exact d.access_setBit (not_quiet_stk _ _ _) _ _
      · split
        · exact .refl d
        · split <;> exact hwrite _ _
  · exact .refl d

theorem Dev.access_writeStack (f : Nat) (d : Dev) (ag : Agent) (a : Nat) (bs : List Byte) (m w : Bool) : d.Access (Dev.writeStack f d ag a bs m w).1 := by
  induction f generalizing d a bs with
  | zero => exact .refl d
  | succ f ih =>
    unfold Dev.writeStack
    split
    · exact .refl d
    · exact (d.access_writeBurst ag a _ m w).trans (ih _ _ _)

theorem Dev.access_writeBuf (d : Dev) (ag : Agent) (n off : Nat) (bs : List Byte) (m w : Bool) : d.Access (d.writeBuf ag n off bs m w).1 :=
  .trans (.ite (d.access_setBit (not_quiet_clu _ _) _ _) (.refl d))
    (((Dev.access_overUnits _ _ _).trans (Dev.access_markWrite _ _ _ _)).trans (Dev.access_foldl (fun e _ _ => e.access_putUnit _ _ _ _) _))

theorem Dev.access_writeMemW (d : Dev) (ag : Agent) (a : Nat) (bs : List Byte) (m w : Bool) : d.Access (d.writeMemW ag a bs m w).1 := by
  unfold Dev.writeMemW
  split
  · exact Dev.access_writeStack _ d ag a bs m w
  · exact d.access_writeBuf ag _ _ bs m w
  · exact .refl d

theorem Dev.access_writeMem (d : Dev) (ag : Agent) (a : Nat) (bs : List Byte) (m : Bool) : d.Access (d.writeMem ag a bs m).1 := d.access_writeMemW ag a bs m false

/-! ### Demands on domains (20, R429, R430) -/

theorem Dev.access_setDom (d : Dev) {n : Nat} (v : Nat) (h : n < 112) : d.Access (d.setDom n v) := d.access_setF (not_quiet_pwr (by unfold rDom; omega)) _ _ _

theorem Dev.access_startWake (d : Dev) {n : Nat} (h : n < 112) : d.Access (d.startWake n) :=
  ((d.access_setDom dsWaking h).trans (Dev.access_addCount _ (not_quiet_pwr (by decide)) 1)).trans ⟨rfl, fun _ _ => rfl⟩

theorem Dev.access_waitWake (d : Dev) (n : Nat) : d.Access (d.waitWake n) := .ite (.refl d) ⟨rfl, fun _ _ => rfl⟩

theorem Dev.access_stkDemand (d : Dev) (s : Nat) : d.Access (d.stkDemand s) := by
  unfold Dev.stkDemand
  refine .trans (.ite (.refl d) (d.access_startWake (by decide))) (.trans (b := Dev.modStk _ s _) ⟨rfl, fun _ _ => rfl⟩ (.ite (.refl _) ?_))
  exact ⟨rfl, fun _ _ => rfl⟩

/-! ### Translation (13, R261–R263) -/

theorem Dev.access_keepWalk (d : Dev) (holder : Option Nat) (p pva : Nat) (w : Walk) (hit : Option TlbEntry) (leafToo : Bool) : d.Access (d.keepWalk holder p pva w hit leafToo) := by
  have hput : ∀ (d : Dev) (t : TlbEntry), d.Access (d.tlbPut t) := fun _ _ => ⟨rfl, fun _ _ => rfl⟩
  unfold Dev.keepWalk
  cases holder with
  | none => exact .refl d
  | some h =>
    have htouch : d.Access (match hit with | some t => d.tlbPut t | none => d) := by
      cases hit
      exacts [.refl d, hput d _]
    refine htouch.trans (.trans (Dev.access_foldl (fun e _ _ => hput e _) _) (.ite ?_ (.refl _)))
    exact Dev.access_setBit _ (not_quiet_stk _ _ _) _ _

theorem Dev.access_lastFault (d : Dev) (p pva : Nat) : d.Access (d.lastFault p pva) :=
  (d.access_setReg (not_quiet_ptn _ (by decide)) _).trans (Dev.access_setReg _ (not_quiet_ptn _ (by decide)) _)

theorem Dev.access_xlate (d : Dev) (holder : Option Nat) (p pva : Nat) (w : Bool) : d.Access (d.xlate holder p pva w).1 := by
  have hcount : ∀ l : List (Nat × Nat), d.Access (if l.isEmpty then d else d.addCount pMmu 0x44 l.length) := fun l => .ite (.refl d) (d.access_addCount (by decide) _)
  have hfault (e : Dev) (k : Walk) (hit : Option TlbEntry) : e.Access ((e.keepWalk holder p pva k hit false).lastFault p pva) :=
    (e.access_keepWalk ..).trans (Dev.access_lastFault ..)
  unfold Dev.xlate
  dsimp only
  split
  · exact (hcount _).trans (hfault ..)
  · split
    · exact (hcount _).trans (hfault ..)
    · split
      · exact (hcount _).trans (hfault ..)
      · exact (hcount _).trans (Dev.access_keepWalk ..)

theorem Dev.access_xlRangeGo (holder : Option Nat) (p : Nat) (w : Bool) (f : Nat) (d : Dev) (pva n : Nat) : d.Access (Dev.xlRangeGo holder p w f d pva n).1 := by
  induction f generalizing d pva n with
  | zero => exact .refl d
  | succ f ih =>
    unfold Dev.xlRangeGo
    split
    · exact .refl d
    · dsimp only
      have hone := d.access_xlate holder p pva w
      split
      · next h => rw [h] at hone; exact hone
      · next e x h =>
        rw [h] at hone
        have hrest := ih e (pva + min n (65536 - pva % 65536)) (n - min n (65536 - pva % 65536))
        split <;> next h => rw [h] at hrest; exact hone.trans hrest

theorem Dev.access_xlRange (d : Dev) (holder : Option Nat) (p pva n : Nat) (w : Bool) : d.Access (d.xlRange holder p pva n w).1 := Dev.access_xlRangeGo ..

/-! ### Memory of another device (12, R256) -/

theorem Dev.access_sendOp (d : Dev) (o : HeldOp) : d.Access (d.sendOp o) := (d.sendsOnly_sendOp o).access

theorem Dev.access_sendWrite (f : Nat) (d : Dev) (peer job domain a : Nat) (bs : List Byte) (m : Bool) : d.Access (Dev.sendWrite f d peer job domain a bs m).2 := by
  induction f generalizing d a bs with
  | zero => exact .refl d
  | succ f ih =>
    unfold Dev.sendWrite
    split
    · exact .refl d
    · exact (Dev.Access.trans (b := d.takeId.2) ⟨rfl, fun _ _ => rfl⟩ (Dev.access_sendOp _ _)).trans (ih _ _ _)

theorem Dev.access_farWrite (d : Dev) (ag : Agent) (s : Seg) (bs : List Byte) (m : Bool) : d.Access (d.farWrite ag s bs m).2 := by
  unfold Dev.farWrite
  exact Dev.access_sendWrite ..

theorem Dev.access_farEnd (d : Dev) (who : Nat) : d.Access (d.farEnd who) := .ite (.refl d) ⟨rfl, fun _ _ => rfl⟩

/-! ### Memory of a partition (12, R241) -/

theorem Dev.access_writeSegs (d : Dev) (ag : Agent) (l : List Seg) (bs : List Byte) (m : Bool) : d.Access (Dev.writeSegs d ag l bs m).1 := by
  induction l generalizing d bs with
  | nil => exact .refl d
  | cons s t ih =>
    unfold Dev.writeSegs
    refine .trans ?_ (ih _ _)
    split
    · exact d.access_farWrite ..
    · exact d.access_writeMem ..

theorem Dev.access_writePva (d : Dev) (p pva : Nat) (bs : List Byte) : d.Access (d.writePva p pva bs).1 := by
  have h := d.access_xlRange none p pva bs.length true
  unfold Dev.writePva
  split
  · next hx => rw [hx] at h; exact h
  · next hx => rw [hx] at h; exact h.trans (Dev.access_writeSegs ..)

theorem Dev.access_putPva (d : Dev) (p pva : Nat) (bs : List Byte) : d.Access (d.putPva p pva bs) := d.access_writePva p pva bs

theorem Dev.access_poisonLast (d : Dev) (p dpa : Nat) : d.Access (d.poisonLast p dpa) :=
  ((d.access_setReg (not_quiet_ptn _ (by decide)) _).trans (Dev.access_setReg _ (not_quiet_ptn _ (by decide)) _)).trans (Dev.access_addCount _ (not_quiet_ptn _ (by decide)) 1)

theorem Dev.access_engRead (d : Dev) (p pva n : Nat) : d.Access (d.engRead p pva n).1 := by
  have h := d.access_xlRange none p pva n false
  unfold Dev.engRead
  split
  · next hx => rw [hx] at h; exact h
  · next e l hx =>
    rw [hx] at h
    have hnote := h.trans (Dev.access_foldl (f := fun (d : Dev) (s : Seg) => if s.remote then d else d.noteErrs s.dpa s.len) (l := l) (fun e s _ => .ite (.refl e) (e.access_noteErrs _ _)) e)
    dsimp only
    split
    · exact hnote.trans (Dev.access_poisonLast ..)
    · exact hnote

end Sys2Proof.Machine

/-! SUPPORT. The voice-session glue (15, R326): what a poll does by the stage of a turn, what a record's tokens make of a stream; and the statement about it. -/

namespace Sys2Proof.Machine

/-! ### Signals of services -/

theorem Dev.access_setEvent (d : Dev) {p : Page} (i : Nat) (hq : ¬ Quiet (p.base + 0x10)) : d.Access (d.setEvent p i) :=
  (d.sameRegsBut_setEvent p i).access (d.regsOnly_setEvent p i) (by simpa using hq)

theorem Dev.access_addFlag (d : Dev) {p : Page} (n amount : Nat) (hq : ∀ off, ¬ Quiet (p.base + off)) : d.Access (d.addFlag p n amount) :=
  (d.sameRegsBut_addFlag p n amount).access (d.regsOnly_addFlag p n amount) fun o _ => hq o

theorem Dev.access_signalTo (d : Dev) (t : FlagTo) (amount : Nat) : d.Access (d.signalTo t amount) := by
  unfold Dev.signalTo Dev.signalStk Dev.signalClu
  exact .ite (.ite (d.access_setEvent _ (not_quiet_stk _ _ _)) (d.access_addFlag _ _ (not_quiet_stk _ _)))
    (.ite (d.access_setEvent _ (not_quiet_clu _ _)) (d.access_addFlag _ _ (not_quiet_clu _)))

theorem Dev.access_signalFree (d : Dev) (t : FlagTo) : d.Access (d.signalFree t) :=
  .trans (b := d.takeFree.2) ⟨rfl, fun _ _ => rfl⟩ (Dev.access_signalTo ..)

/-! ### What an access leaves of the streams -/

theorem Dev.Access.streams {d d' : Dev} (h : d.Access d') : d'.streams = d.streams := by rw [h.only]
theorem Dev.Access.glueRecs {d d' : Dev} (h : d.Access d') : d'.glueRecs = d.glueRecs := by rw [h.only]

/-! ### Records (R326) -/

/-- A stream whose history and synthesis ring have taken `n` tokens more. -/
def Stream.took (x : Stream) (n : Nat) : Stream := { x with histLen := x.histLen + n, synthCount := x.synthCount + n }

/-- A token joins the history while it has room. -/
theorem Dev.glueTok_room {d : Dev} {k : Nat} {x : Stream} (hx : tget? d.streams k = some x) (hrel : x.released = false) (hroom : x.histLen < x.histCap) (t : Nat) :
    tget? (d.glueTok k t).streams k = some (x.took 1) ∧ (d.glueTok k t).glueRecs = d.glueRecs := by
  have hput := (d.access_putPva x.ptn (x.hist + 4 * x.histLen) (leBytes 4 t)).trans (Dev.access_putPva _ x.ptn (x.synth + 4 * (x.synthCount % 4096)) (leBytes 4 t))
  have hopen : ¬ x.released = true := by simp [hrel]
  unfold Dev.glueTok
  rw [hx]
  dsimp only
  rw [if_neg hopen, if_neg (Nat.not_le.2 hroom)]
  exact ⟨tget?_tput_same .., hput.glueRecs⟩

/-- The tokens of a record join the history, which has room for them. -/
theorem Dev.glueToks_room (l : List Nat) {d : Dev} {k : Nat} {x : Stream} (hx : tget? d.streams k = some x) (hrel : x.released = false) (hroom : x.histLen + l.length ≤ x.histCap) :
    tget? (l.foldl (fun (d : Dev) t => d.glueTok k t) d).streams k = some (x.took l.length) ∧ (l.foldl (fun (d : Dev) t => d.glueTok k t) d).glueRecs = d.glueRecs := by
  induction l generalizing d x with
  | nil => exact ⟨hx, rfl⟩
  | cons t l ih =>
    rw [List.length_cons] at hroom
    obtain ⟨hstream, hrecs⟩ := Dev.glueTok_room hx hrel (by omega) t
    obtain ⟨hstream', hrecs'⟩ := ih hstream hrel (by show x.histLen + 1 + l.length ≤ x.histCap; omega)
    refine ⟨hstream'.trans (congrArg some ?_), hrecs'.trans hrecs⟩
    simp only [Stream.took, List.length_cons, Nat.add_assoc, Nat.add_comm 1]

/-- The device whose first record of stream `k` has been taken for stream `x`. -/
def Dev.recordTaken (d : Dev) (k : Nat) (x : Stream) : Dev :=
  ({ d with glueRecs := (d.glueRecs.filter fun (y : GlueRec) => y.strm = k).drop 1 ++ d.glueRecs.filter fun (y : GlueRec) => y.strm ≠ k } : Dev).svcRuns x.ptn true

theorem Dev.recordTaken_recs (d : Dev) (k : Nat) (x : Stream) :
    ((d.recordTaken k x).glueRecs.filter fun y => y.strm = k) = (d.glueRecs.filter fun y => y.strm = k).drop 1 := by
  show List.filter _ (List.drop 1 _ ++ List.filter _ _) = _
  rw [List.filter_append, List.filter_filter]
  have hmine : ((d.glueRecs.filter fun y => y.strm = k).drop 1).filter (fun y => decide (y.strm = k)) = (d.glueRecs.filter fun y => y.strm = k).drop 1 :=
    List.filter_eq_self.2 fun y hy => (List.mem_filter.1 (List.mem_of_mem_drop hy)).2
  have hothers : d.glueRecs.filter (fun y => decide (y.strm = k) && decide (y.strm ≠ k)) = [] := List.filter_eq_nil_iff.2 fun y _ => by simp
  rw [hmine, hothers, List.append_nil]

/-- The first record of a stream, of a live request, is taken while the history has room. -/
theorem Dev.glueRecord_room {d : Dev} {k : Nat} {x : Stream} {r : GlueRec} (hx : tget? d.streams k = some x) (hr : (d.glueRecs.find? fun y => y.strm = k) = some r)
    (hlive : r.state < 5) (hwait : d.glueWait x = none) (hrel : x.released = false) (hroom : x.histLen + r.toks.length ≤ x.histCap) :
    tget? (d.glueRecord k).streams k = some (x.took r.toks.length) ∧ ((d.glueRecord k).glueRecs.filter fun y => y.strm = k) = (d.glueRecs.filter fun y => y.strm = k).drop 1 := by
  have hx' : tget? (d.recordTaken k x).streams k = some x := hx
  obtain ⟨hstream, hrecs⟩ := Dev.glueToks_room r.toks hx' hrel hroom
  have hflag (b : Prop) [Decidable b] (e : Dev) : e.Access (if b then e else e.signalFree x.synthF) := .ite (.refl e) (e.access_signalFree _)
  have hrun : d.glueRecord k = if (r.toks.isEmpty || x.released) = true then r.toks.foldl (fun (d : Dev) t => d.glueTok k t) (d.recordTaken k x)
      else (r.toks.foldl (fun (d : Dev) t => d.glueTok k t) (d.recordTaken k x)).signalFree x.synthF := by
    unfold Dev.glueRecord
    simp only [hx, hr, hwait, Nat.not_le.2 hlive, if_false]
    rfl
  rw [hrun, (hflag ..).streams, (hflag ..).glueRecs]
  exact ⟨hstream, by rw [hrecs, Dev.recordTaken_recs]⟩

/-! ### Polls (R326) -/

section Poll
variable {d : Dev} {k : Nat} {x : Stream} (hx : tget? d.streams k = some x)
include hx

theorem Dev.gluePoll_unserved (h : x.glue = false ∨ x.closing = true ∨ d.ptnState x.ptn ≠ stActive ∨ d.awake = false) : d.gluePoll k = d := by
  unfold Dev.gluePoll
  simp only [hx]
  refine if_pos ?_
  rcases h with h | h | h | h <;> simp [h]

variable (hglue : x.glue = true) (hopen : x.closing = false) (hact : d.ptnState x.ptn = stActive) (hawake : d.awake = true)
include hglue hopen hact hawake

/-- A turn whose batch is open waits for its records. -/
theorem Dev.gluePoll_turn (hstage : x.stage = 4) : d.gluePoll k = d.svcRuns x.ptn true := by
  unfold Dev.gluePoll
  simp [hx, hglue, hopen, hact, hawake, hstage]

/-- READY has not risen. -/
theorem Dev.gluePoll_same (hstage : x.stage = 0) (hflag : d.flag (pClu x.ready.unit) x.ready.flag ≤ x.polled) :
    d.gluePoll k = (d.svcRuns x.ptn true).setStream k { x with polled := d.flag (pClu x.ready.unit) x.ready.flag } := by
  have hnow : (d.svcRuns x.ptn true).flag (pClu x.ready.unit) x.ready.flag = d.flag (pClu x.ready.unit) x.ready.flag := rfl
  unfold Dev.gluePoll
  simp [hx, hglue, hopen, hact, hawake, hstage, hnow, hflag]

/-- READY has risen: the turn's request is admitted, and its batch is opened. -/
theorem Dev.gluePoll_admits {b c e f : Dev} {l t : List Byte} {y z : Stream} (hstage : x.stage = 0) (hflag : x.polled < d.flag (pClu x.ready.unit) x.ready.flag)
    (hb : b = d.svcRuns x.ptn true) (hwait : b.pvaWait x.ptn (x.buf + 0x24) 4 = none) (hread : b.engRead x.ptn (x.buf + 0x24) 4 = (c, .ok l))
    (hy : y = { x with polled := d.flag (pClu x.ready.unit) x.ready.flag, stage := 2, histLen := leNat l })
    (htmpl : (c.setStream k y).intakeRead x.ptn x.tmpl 320 = (e, .ok (t, false))) (hf : f = (e.farEnd (svcReader x.ptn)).glueAdmit k y t)
    (hz : tget? f.streams k = some z) (hadm : z.stage = 3) : d.gluePoll k = f.glueBatch k z t := by
  subst hb
  have hnow : (d.svcRuns x.ptn true).flag (pClu x.ready.unit) x.ready.flag = d.flag (pClu x.ready.unit) x.ready.flag := rfl
  have hserved : (!x.glue || x.closing || decide (d.ptnState x.ptn ≠ stActive) || !d.awake) = false := by simp [hglue, hopen, hact, hawake]
  have hstays : y.stage = 2 ∧ y.ptn = x.ptn ∧ y.tmpl = x.tmpl := by
    rw [hy]
    exact ⟨rfl, rfl, rfl⟩
  unfold Dev.gluePoll
  simp only [hx, hserved, hstage, hnow, Nat.not_le.2 hflag, hwait, hread, Bool.false_eq_true, if_false, ne_eq, not_true_eq_false, ← hy]
  simp [hstays, htmpl, ← hf, hz, hadm]

end Poll

end Sys2Proof.Machine

namespace Sys2Proof.Proofs
open Sys2Proof Sys2Proof.Machine

/-- Settles O48: a poll by the stage of the turn and the READY flag; a record by its tokens, one by one. -/
theorem voiceSessionGlue : Obligations.VoiceSessionGlue := by
  refine ⟨fun s k x hx hglue hopen hact hawake hstage => ⟨fun hflag => ?same, fun b c l y z e f t hflag hb hwait hread hy htmpl hf hz hadm => ?admits⟩,
    fun s k => ⟨fun hnone => ?none, fun x hx h => ?unserved, fun x hx hglue hopen hact hawake hstage => ?turn⟩, fun s k x hx => ⟨fun hno => ?noRecord, fun r hr hlive hwait hrel hroom => ?record⟩⟩
  case same => exact s.upd_congr (Dev.gluePoll_same hx hglue hopen hact hawake hstage hflag)
  case admits => exact s.upd_congr (Dev.gluePoll_admits hx hglue hopen hact hawake hstage hflag hb hwait hread hy htmpl hf hz hadm)
  case none =>
    refine s.upd_congr ?_
    unfold Dev.gluePoll
    simp only [hnone]
  case unserved => exact s.upd_congr (Dev.gluePoll_unserved hx h)
  case turn => exact s.upd_congr (Dev.gluePoll_turn hx hglue hopen hact hawake hstage)
  case noRecord =>
    have hnone : (s.dev.glueRecs.find? fun r => r.strm = k.val) = none := List.find?_eq_none.2 fun r hr => by simpa using hno r hr
    refine s.upd_congr ?_
    unfold Dev.glueRecord
    simp only [hx, hnone]
  case record =>
    obtain ⟨hstream, hrecs⟩ := Dev.glueRecord_room hx hr hlive hwait hrel hroom
    exact ⟨s.dev.glueRecord k, rfl, hstream, hrecs⟩

end Sys2Proof.Proofs

/-! SUPPORT. Voided guarantees (09, R200): what they touch; a round of temperatures, the lehr stop and the governor (18, R385–R396); and the statement about them. -/

namespace Sys2Proof.Machine

/-! ### Voided guarantees (09, R200) -/

/-- `d'` differs from `d` in what the voiding of guarantees may touch only: steps and programs of partitions, registers of their pages, records. -/
structure Dev.Voids (d d' : Dev) : Prop where
  only : d' = { d with csr := d'.csr, cyc := d'.cyc, events := d'.events, evSent := d'.evSent, ptnx := d'.ptnx }
  csr : ∀ k < 0x60000, tget? d'.csr k = tget? d.csr k

theorem Dev.Voids.refl (d : Dev) : d.Voids d := ⟨rfl, fun _ _ => rfl⟩

theorem Dev.Voids.trans {a b c : Dev} (h : a.Voids b) (h' : b.Voids c) : a.Voids c :=
  ⟨by rw [h'.only, h.only], fun k hk => (h'.csr k hk).trans (h.csr k hk)⟩

theorem Dev.Voids.ite {d t e : Dev} {b : Prop} [Decidable b] (h : d.Voids t) (h' : d.Voids e) : d.Voids (if b then t else e) := by
  split
  · exact h
  · exact h'

theorem Dev.voids_foldl {α : Type} {f : Dev → α → Dev} {l : List α} (h : ∀ d, ∀ a ∈ l, Dev.Voids d (f d a)) (d : Dev) : d.Voids (l.foldl f d) :=
  Dev.foldl_holds (P := d.Voids) (fun e a ha he => he.trans (h e a ha)) (.refl d)

theorem Dev.Voids.reg {d d' : Dev} (h : d.Voids d') {p : Page} {off : Nat} (hk : p.base + off < 0x60000) : d'.reg p off = d.reg p off := by
  rw [Dev.reg, Dev.reg, tgetD, tgetD, h.csr _ hk]

theorem Dev.Voids.mem {d d' : Dev} (h : d.Voids d') : d'.mem = d.mem := by rw [h.only]
theorem Dev.Voids.thm {d d' : Dev} (h : d.Voids d') : d'.thm = d.thm := by rw [h.only]

theorem Dev.RegsOnly.voids {d d' : Dev} (h : d.RegsOnly d') {p : Page} {offs : List Nat} (hregs : d'.SameRegsBut d p offs) (hp : 0x60000 ≤ p.base) : d.Voids d' :=
  ⟨by rw [h], fun k hk => (hregs k fun o _ he => by omega).symm⟩

theorem base_ptn_le (p : Nat) : 0x60000 ≤ (pPtn p).base := by simp only [Page.base]; omega

theorem Dev.voids_setBit (d : Dev) (p off i : Nat) (b : Bool) : d.Voids (d.setBit (pPtn p) off i b) :=
  (d.regsOnly_setBit ..).voids (d.sameRegsBut_setBit (pPtn p) off i b) (base_ptn_le p)

theorem Dev.voids_modPx (d : Dev) (p : Nat) (f : PtnX → PtnX) : d.Voids (d.modPx p f) := ⟨rfl, fun _ _ => rfl⟩
theorem Dev.voids_record (d : Dev) (p k : Nat) (l : List Byte) : d.Voids (d.record p k l) := ⟨rfl, fun _ _ => rfl⟩

theorem Dev.voids_voidOnset (d : Dev) (p c map : Nat) : d.Voids (d.voidOnset p c map) :=
  ((d.voids_modPx p _).trans (Dev.voids_setBit _ p 0x3A4 c true)).trans (Dev.voids_record _ p 0x0005 _)

theorem Dev.voids_voidOn (d : Dev) (p c map : Nat) : d.Voids (d.voidOn p c map) := .ite (d.voids_modPx p _) (d.voids_voidOnset p c map)

theorem Dev.voids_voidOff (d : Dev) (p c : Nat) : d.Voids (d.voidOff p c) :=
  .ite (.refl d) (.ite ((d.voids_setBit p 0x3A4 c false).trans (Dev.voids_record _ p 0x0006 _)) (d.voids_setBit p 0x3A4 c false))

theorem Dev.voids_voidProgs (d : Dev) (p c : Nat) (f : Prog → Bool) : d.Voids (d.voidProgs p c f) :=
  .ite (.refl d) ((d.voids_modPx p _).trans (Dev.voids_voidOnset ..))

theorem Dev.voids_clockCause (d : Dev) : d.Voids d.clockCause :=
  Dev.voids_foldl (fun e _ _ => .ite (e.voids_voidOn ..) (e.voids_voidOff ..)) d

/-! ### The thermal page (18, R384–R396) -/

/-- `d'` differs from `d` in what a round, a fall of the governor or the begin of a lehr stop may touch only: the thermal state, records, and registers of the thermal page but OWNER and the count of rounds. -/
structure Dev.Heats (d d' : Dev) : Prop where
  only : d' = { d with csr := d'.csr, cyc := d'.cyc, events := d'.events, evSent := d'.evSent, thm := d'.thm }
  csr : ∀ k, (k < 0x3000 ∨ 0x4000 ≤ k ∨ k = 0x3024 ∨ k = 0x3060) → tget? d'.csr k = tget? d.csr k

theorem Dev.Heats.refl (d : Dev) : d.Heats d := ⟨rfl, fun _ _ => rfl⟩

theorem Dev.Heats.trans {a b c : Dev} (h : a.Heats b) (h' : b.Heats c) : a.Heats c :=
  ⟨by rw [h'.only, h.only], fun k hk => (h'.csr k hk).trans (h.csr k hk)⟩

theorem Dev.Heats.ite {d t e : Dev} {b : Prop} [Decidable b] (h : d.Heats t) (h' : d.Heats e) : d.Heats (if b then t else e) := by
  split
  · exact h
  · exact h'

theorem Dev.heats_foldl {α : Type} {f : Dev → α → Dev} {l : List α} (h : ∀ d, ∀ a ∈ l, Dev.Heats d (f d a)) (d : Dev) : d.Heats (l.foldl f d) :=
  Dev.foldl_holds (P := d.Heats) (fun e a ha he => he.trans (h e a ha)) (.refl d)

theorem Dev.Heats.mem {d d' : Dev} (h : d.Heats d') : d'.mem = d.mem := by rw [h.only]

/-- Offsets of the thermal page that a round may write. -/
abbrev HeatOff (off : Nat) : Prop := off < 0x1000 ∧ off ≠ 0x24 ∧ off ≠ 0x60

theorem Dev.SameRegsBut.heats {d d' : Dev} {offs : List Nat} (h : d'.SameRegsBut d pThm offs) (hregs : d.RegsOnly d') (hoff : ∀ o ∈ offs, HeatOff o) : d.Heats d' :=
  ⟨by rw [hregs], fun k hk => (h k fun o ho he => by have := hoff o ho; change k = 0x3000 + o at he; omega).symm⟩

theorem Dev.heats_setReg (d : Dev) {off : Nat} (v : Word) (h : HeatOff off) : d.Heats (d.setReg pThm off v) := (d.sameRegsBut_setReg pThm off v).heats (d.regsOnly_setReg ..) (by simpa using h)
theorem Dev.heats_setF (d : Dev) {off : Nat} (hi lo v : Nat) (h : HeatOff off) : d.Heats (d.setF pThm off hi lo v) := d.heats_setReg _ h
theorem Dev.heats_fault (d : Dev) (code info : Nat) : d.Heats (d.fault pThm code info) := (d.sameRegsBut_fault pThm code info).heats (d.regsOnly_fault ..) (by decide)
theorem Dev.heats_record (d : Dev) (dest k : Nat) (l : List Byte) : d.Heats (d.record dest k l) := ⟨rfl, fun _ _ => rfl⟩
theorem Dev.heats_thm (d : Dev) (x : Thm) : d.Heats { d with thm := x } := ⟨rfl, fun _ _ => rfl⟩

/-! ### The begin of a lehr stop (R389) -/

/-- A stop that begins on a device which is not in NAP or DEEP. -/
def Dev.lehrBegun (d : Dev) (cause : Nat) : Dev :=
  let t : Dev := { d with thm := { d.thm with lehrCause := cause, lehrAt := d.ao, lehrStage := 1, evicted := 0 } }
  (t.record 0xFF 0x0142 (leBytes 4 cause)).each (below 24 (t.record 0xFF 0x0142 (leBytes 4 cause)).ptnExists) fun d p => d.record p 0x0142 (leBytes 4 cause)

/-- The begin of a stop touches the thermal state, registers of its page and records, and keeps the governor's samples. -/
theorem Dev.lehrBegun_only (d : Dev) (cause : Nat) :
    d.lehrBegun cause = { d with events := (d.lehrBegun cause).events, thm := { d.thm with lehrCause := cause, lehrAt := d.ao, lehrStage := 1, evicted := 0 } } :=
  Dev.foldl_holds (P := fun e => e = { d with events := e.events, thm := { d.thm with lehrCause := cause, lehrAt := d.ao, lehrStage := 1, evicted := 0 } })
    (fun e p _ he => by rw [he]; rfl) rfl

theorem Dev.lehrBegin_started {d : Dev} (h : d.lehr ≠ 0) (cause : Nat) : d.lehrBegin cause = d := if_pos h

theorem Dev.lehrBegin_eq {d : Dev} (h : d.lehr = 0) (cause : Nat) : d.lehrBegin cause =
    if (decide (d.devPower = 2) || decide (d.devPower = 3)) = true then
      (({ d.lehrBegun cause with thm := { (d.lehrBegun cause).thm with lehrStage := 0 } } : Dev).setF pThm 0x44 1 0 2).record 0xFF 0x0143 (leBytes 4 0)
    else (d.lehrBegun cause).setF pThm 0x44 1 0 1 := by
  have hpower : (d.lehrBegun cause).devPower = d.devPower := by rw [d.lehrBegun_only cause]; rfl
  rw [← hpower]
  exact if_neg (not_not.2 h)

/-- The begin of a stop keeps the rest of the device, the samples and the governor step. -/
theorem Dev.lehrBegin_keeps (d : Dev) (cause : Nat) :
    d.Heats (d.lehrBegin cause) ∧ (d.lehrBegin cause).thm.samples = d.thm.samples ∧ (d.lehrBegin cause).govStep = d.govStep := by
  by_cases h : d.lehr = 0
  · have hbegun : d.Heats (d.lehrBegun cause) := ⟨by rw [d.lehrBegun_only cause], fun k _ => by rw [d.lehrBegun_only cause]⟩
    have hsamples : (d.lehrBegun cause).thm.samples = d.thm.samples := by rw [d.lehrBegun_only cause]
    have hgov : (d.lehrBegun cause).govStep = d.govStep := by rw [d.lehrBegun_only cause]; rfl
    have hset (e : Dev) (v : Nat) : (e.setF pThm 0x44 1 0 v).govStep = e.govStep := e.getF_setF_ne pThm 0x44 v (by decide) (by decide)
    rw [Dev.lehrBegin_eq h]
    split
    · exact ⟨((hbegun.trans (Dev.heats_thm _ _)).trans (Dev.heats_setF _ 1 0 2 (by decide))).trans (Dev.heats_record ..), hsamples, (hset ..).trans hgov⟩
    · exact ⟨hbegun.trans (Dev.heats_setF _ 1 0 1 (by decide)), hsamples, (hset ..).trans hgov⟩
  · rw [Dev.lehrBegin_started h]
    exact ⟨.refl d, rfl, rfl⟩

/-! ### The round (R385–R388) -/

theorem Dev.heats_takeReading (d : Dev) {n : Nat} (hn : n < 320) (v : Option (BitVec 16)) : d.Heats (d.takeReading n v).1 := by
  have hoff : HeatOff (0x400 + 4 * n) := by omega
  unfold Dev.takeReading
  dsimp only
  split
  · exact (d.heats_thm _).trans (Dev.heats_setReg _ _ hoff)
  · split
    · exact d.heats_setReg _ hoff
    · exact (d.heats_thm _).trans (Dev.heats_setReg _ _ hoff)

theorem Dev.chDies_lt {d : Dev} {n e : Nat} (h : e ∈ d.chDies n) : e < 8 := by
  unfold Dev.chDies at h
  split at h
  · obtain rfl := List.mem_singleton.1 h
    omega
  · split at h
    · dsimp only at h
      split at h
      · cases h
      · exact List.mem_range.1 (List.mem_filter.1 h).1
    · exact List.mem_range.1 h

theorem Dev.heats_actOn (d : Dev) (x : Reading) (was : Nat) (fell : List Nat) : d.Heats (d.actOn x was fell).1 := by
  have hbegin (e : Dev) (b : Prop) [Decidable b] (code info : Nat) : e.Heats (if b then (e.fault pThm code info).lehrBegin 0 else e) :=
    .ite ((e.heats_fault ..).trans (Dev.lehrBegin_keeps ..).1) (.refl e)
  unfold Dev.actOn
  extract_lets lev ceil calm x₁ d₁ d₂ dies new d₃ steps
  have h₂ : d.Heats d₂ := .trans (b := d₁) (d.heats_thm _) (hbegin ..)
  have h₃ : d₂.Heats d₃ := Dev.heats_foldl (fun e k hk => e.heats_setF 9 5 _ (by have := Dev.chDies_lt (List.mem_filter.1 hk).1; omega)) d₂
  split
  · exact h₂.trans (.ite (Dev.heats_record ..) (.refl _))
  · split
    · exact (h₂.trans h₃).trans (Dev.heats_record ..)
    · exact h₂

/-- What a fold over a state that carries a device does to the device. -/
theorem Dev.heats_foldl_fst {α β : Type} {f : Dev × β → α → Dev × β} {l : List α} (h : ∀ x, ∀ a ∈ l, Dev.Heats x.1 (f x a).1) (x : Dev × β) : x.1.Heats (l.foldl f x).1 :=
  List.foldlRecOn l f (motive := fun y => x.1.Heats y.1) (.refl _) fun y hy a ha => hy.trans (h y a ha)

/-- A round reads its channels and acts on them, is counted, and then the clocks follow. -/
theorem Dev.roundEnd_eq (d : Dev) (vals : List (Option (BitVec 16))) : ∃ e, d.Heats e ∧ d.roundEnd vals = (e.addCount pThm 0x60 1).stepsChange := by
  unfold Dev.roundEnd
  generalize hread : List.foldl _ (d, []) _ = r
  have hread : d.Heats r.1 := hread ▸ Dev.heats_foldl_fst (β := List (Reading × Nat)) (fun x n hn => x.1.heats_takeReading (List.mem_range.1 hn) _) (d, [])
  obtain ⟨d₁, xs⟩ := r
  dsimp only at hread ⊢
  generalize hact : List.foldl _ (d₁, []) _ = r
  have hact : d₁.Heats r.1 := hact ▸ Dev.heats_foldl_fst (fun x a _ => x.1.heats_actOn ..) (d₁, [])
  obtain ⟨d₂, fell⟩ := r
  dsimp only at hact ⊢
  refine ⟨_, (hread.trans hact).trans (.trans ?rise (.trans (.ite (Dev.heats_record ..) (.refl _)) (Dev.heats_thm _ _))), rfl⟩
  exact Dev.heats_foldl (fun e k hk => .ite (e.heats_setF 9 5 _ (by have := List.mem_range.1 hk; omega)) (.refl e)) d₂

/-- The steps of the dies change, and with them what guarantees are void. -/
theorem Dev.stepsChange_keeps (d : Dev) : d.stepsChange.mem = d.mem ∧ d.stepsChange.thm = d.thm ∧ d.stepsChange.reg pThm 0x60 = d.reg pThm 0x60 ∧ d.stepsChange.reg pThm 0x44 = d.reg pThm 0x44 := by
  have hset : ∀ e ∈ List.range 8, ∀ b : Dev, (b.setF pThm (0x80 + 4 * e) 4 0 (min (b.thermal e) b.govStep)).reg pThm 0x60 = b.reg pThm 0x60 ∧
      (b.setF pThm (0x80 + 4 * e) 4 0 (min (b.thermal e) b.govStep)).reg pThm 0x44 = b.reg pThm 0x44 := fun e _ b =>
    ⟨(b.sameRegsBut_setF pThm (0x80 + 4 * e) 4 0 _).reg (by simp; omega), (b.sameRegsBut_setF pThm (0x80 + 4 * e) 4 0 _).reg (by simp; omega)⟩
  have hdies := Dev.foldl_holds (l := List.range 8) (f := fun (b : Dev) e => b.setF pThm (0x80 + 4 * e) 4 0 (min (b.thermal e) b.govStep))
    (P := fun b => b.mem = d.mem ∧ b.thm = d.thm ∧ b.reg pThm 0x60 = d.reg pThm 0x60 ∧ b.reg pThm 0x44 = d.reg pThm 0x44)
    (fun b e he ⟨hmem, hthm, h60, h44⟩ => ⟨hmem, hthm, (hset e he b).1.trans h60, (hset e he b).2.trans h44⟩) ⟨rfl, rfl, rfl, rfl⟩
  obtain ⟨hmem, hthm, h60, h44⟩ := hdies
  have hvoid := Dev.voids_clockCause (d.each (List.range 8) fun b e => b.setF pThm (0x80 + 4 * e) 4 0 (min (b.thermal e) b.govStep))
  exact ⟨hvoid.mem.trans hmem, hvoid.thm.trans hthm, (hvoid.reg (by decide)).trans h60, (hvoid.reg (by decide)).trans h44⟩

/-- A round is counted once, and touches no byte. -/
theorem Dev.roundEnd_counts (d : Dev) (vals : List (Option (BitVec 16))) (hs : d.scrubbed pThm = false) :
    (d.roundEnd vals).reg pThm 0x60 = d.reg pThm 0x60 + 1 ∧ (d.roundEnd vals).mem = d.mem := by
  obtain ⟨e, hheat, hrun⟩ := d.roundEnd_eq vals
  have hreg : ∀ {p : Page} {off : Nat}, (p.base + off < 0x3000 ∨ 0x4000 ≤ p.base + off ∨ p.base + off = 0x3024 ∨ p.base + off = 0x3060) → e.reg p off = d.reg p off := fun h => by
    rw [Dev.reg, Dev.reg, tgetD, tgetD, hheat.csr _ h]
  have howner : e.owner pThm = d.owner pThm := congrArg (wfld · 7 0) (hreg (by decide))
  have hst : ∀ p, e.st (pPtn p) = d.st (pPtn p) := fun p => congrArg (wfld · 3 0) (hreg (by have := base_ptn_le p; omega))
  have hs' : e.scrubbed pThm = false := by rw [Dev.scrubbed, howner, hst]; exact hs
  obtain ⟨hmem, -, h60, -⟩ := (e.addCount pThm 0x60 1).stepsChange_keeps
  rw [hrun]
  refine ⟨h60.trans ?_, hmem.trans ((Dev.addCount_mem ..).trans hheat.mem)⟩
  rw [Dev.reg_addCount_same hs', hreg (by decide)]
  rfl

/-! ### The governor (R393, R394) -/

theorem Dev.govStep_lt (d : Dev) : d.govStep < 32 := Nat.mod_lt _ (by decide)

theorem Dev.govStep_of_csr {d e : Dev} (h : e.csr = d.csr) : e.govStep = d.govStep := by
  simp only [Dev.govStep, Dev.getF, Dev.reg, h]

theorem Dev.stepsChange_govStep (d : Dev) : d.stepsChange.govStep = d.govStep := by
  obtain ⟨-, -, -, h44⟩ := d.stepsChange_keeps
  rw [Dev.govStep, Dev.getF, h44, Dev.govStep, Dev.getF]

/-- The governor step falls by one, to no less than 8. -/
theorem Dev.govFall_spec (d : Dev) : d.govFall.thm = d.thm ∧ d.govFall.mem = d.mem ∧ d.govFall.govStep = if 8 < d.govStep then d.govStep - 1 else d.govStep := by
  unfold Dev.govFall
  extract_lets g d₁ d₂
  split
  · next hg => exact ⟨rfl, rfl, (if_neg (Nat.not_lt.2 hg)).symm⟩
  · next hg =>
    have hcount := (d.setF pThm 0x44 6 2 (g - 1)).regsOnly_addCount pThm 0x64 1
    have hstep : d₁.govStep = g - 1 := by
      have hreg : d₁.reg pThm 0x44 = (d.setF pThm 0x44 6 2 (g - 1)).reg pThm 0x44 := (Dev.sameRegsBut_addCount _ pThm 0x64 1).reg (by decide)
      have hlt : g < 32 := d.govStep_lt
      rw [Dev.govStep, Dev.getF, hreg]
      exact (Dev.getF_setF_same d pThm 0x44 (g - 1) (by decide)).trans (Nat.mod_eq_of_lt (by omega))
    have hrec : d₂.thm = d₁.thm ∧ d₂.mem = d₁.mem ∧ d₂.govStep = d₁.govStep := by
      show Dev.thm (ite _ _ _) = _ ∧ Dev.mem (ite _ _ _) = _ ∧ Dev.govStep (ite _ _ _) = _
      split <;> exact ⟨rfl, rfl, rfl⟩
    have hthm : d₁.thm = d.thm := by
      show (Dev.addCount _ _ _ _).thm = _
      rw [hcount]
      rfl
    obtain ⟨hmem', hthm', -, -⟩ := d₂.stepsChange_keeps
    rw [if_pos (Nat.not_le.1 hg), Dev.stepsChange_govStep]
    exact ⟨hthm'.trans (hrec.1.trans hthm), hmem'.trans (hrec.2.1.trans hcount.mem), hrec.2.2.trans hstep⟩

/-- The governor step moves down or up. -/
def Dev.govMoves (d : Dev) (falls rises : Bool) : Dev :=
  if falls then d.govFall else if rises then (d.setF pThm 0x44 6 2 (d.govStep + 1)).stepsChange else d

theorem Dev.govMoves_keeps (d : Dev) (falls rises : Bool) : (d.govMoves falls rises).thm = d.thm ∧ (d.govMoves falls rises).mem = d.mem := by
  unfold Dev.govMoves
  split
  · exact ⟨d.govFall_spec.1, d.govFall_spec.2.1⟩
  · split
    · obtain ⟨hmem, hthm, -, -⟩ := (d.setF pThm 0x44 6 2 (d.govStep + 1)).stepsChange_keeps
      exact ⟨hthm, hmem⟩
    · exact ⟨rfl, rfl⟩

/-- The means of the samples are published. -/
def Dev.govPublish (d : Dev) (a b : Nat) : Dev := (d.setF pThm 0x58 31 16 a).setF pThm 0x58 15 0 b

theorem Dev.govStep_govPublish (d : Dev) (a b : Nat) : (d.govPublish a b).govStep = d.govStep := by
  have hreg : (d.govPublish a b).reg pThm 0x44 = d.reg pThm 0x44 :=
    ((Dev.sameRegsBut_setF _ pThm 0x58 15 0 _).reg (by decide)).trans ((d.sameRegsBut_setF pThm 0x58 31 16 _).reg (by decide))
  rw [Dev.govStep, Dev.getF, hreg, Dev.govStep, Dev.getF]

/-- A sample: the means are published, the sample kept, the governor step moves, and a stop may begin. -/
def Dev.govStepped (d : Dev) (a b : Nat) (x : Thm) (falls rises stop : Bool) : Dev :=
  let t : Dev := ({ d.govPublish a b with thm := x } : Dev).govMoves falls rises
  if stop then t.lehrBegin 1 else t

theorem Dev.govStepped_spec (d : Dev) (a b : Nat) (x : Thm) (falls rises stop : Bool) : (d.govStepped a b x falls rises stop).thm.samples = x.samples ∧
    (d.govStepped a b x falls rises stop).mem = d.mem ∧ (falls = true → (d.govStepped a b x falls rises stop).govStep = if 8 < d.govStep then d.govStep - 1 else d.govStep) := by
  unfold Dev.govStepped
  extract_lets e t
  obtain ⟨hthm, hmem⟩ := Dev.govMoves_keeps ({ d.govPublish a b with thm := x } : Dev) falls rises
  have hsamples : t.thm.samples = x.samples := congrArg Thm.samples hthm
  have hstep : falls = true → t.govStep = if 8 < d.govStep then d.govStep - 1 else d.govStep := fun h => by
    subst h
    have hfall := (Dev.govFall_spec ({ d.govPublish a b with thm := x } : Dev)).2.2
    rwa [Dev.govStep_of_csr (e := { d.govPublish a b with thm := x }) (d := d.govPublish a b) rfl, d.govStep_govPublish] at hfall
  split
  · obtain ⟨hheat, hsamples', hstep'⟩ := t.lehrBegin_keeps 1
    exact ⟨hsamples'.trans hsamples, hheat.mem.trans hmem, fun h => hstep'.trans (hstep h)⟩
  · exact ⟨hsamples, hmem, hstep⟩

theorem Dev.governor_eq (d : Dev) (p : Nat) : ∃ a b x falls rises stop, d.governor p = d.govStepped a b x falls rises stop ∧
    x.samples = (p :: d.thm.samples).take 2000 ∧ (d.getF pThm 0x54 19 10 * 10000000 < p → falls = true) := by
  unfold Dev.governor
  extract_lets l have_ sum sus peak d₁ x run meanOver byMean falls rises mrun d₂ d₃
  have hpeak : peak < p → falls = true := fun h => by simp only [falls, h, decide_true, Bool.true_or]
  clear_value falls
  exact ⟨_, _, _, falls, rises, decide (mrun = 20000), by simp only [Dev.govStepped, decide_eq_true_eq]; rfl, rfl, hpeak⟩

/-- A sample joins the last 2,000; above the peak the governor step falls. -/
theorem Dev.governor_spec (d : Dev) (p : Nat) : (d.governor p).thm.samples = (p :: d.thm.samples).take 2000 ∧ (d.governor p).mem = d.mem ∧
    (d.getF pThm 0x54 19 10 * 10000000 < p → (d.governor p).govStep = if 8 < d.govStep then d.govStep - 1 else d.govStep) := by
  obtain ⟨a, b, x, falls, rises, stop, hrun, hsamples, hpeak⟩ := d.governor_eq p
  obtain ⟨hkeep, hmem, hstep⟩ := d.govStepped_spec a b x falls rises stop
  rw [hrun]
  exact ⟨hkeep.trans hsamples, hmem, fun h => hstep (hpeak h)⟩

/-! ### The end of a lehr stop (R389–R391) -/

/-- Without a stack that may sleep none does. -/
theorem Dev.lehrStacks_none {d : Dev} (h : ∀ n < 104, d.dom n ≠ dsOn ∧ d.dom n ≠ dsWaking) : d.lehrStacks = d := by
  have hnone : below 24 d.lehrSleeps = [] := List.filter_eq_nil_iff.2 fun s hs => by
    have hoff := (h (80 + s) (by have := List.mem_range.1 hs; omega)).1
    simp [Dev.lehrSleeps, hoff]
  rw [Dev.lehrStacks, hnone]
  rfl

/-- The device of a stop that is complete. -/
def Dev.lehrOver (d : Dev) : Dev := (({ d with thm := { d.thm with lehrStage := 0 } } : Dev).setF pThm 0x44 1 0 2).record 0xFF 0x0143 (leBytes 4 d.thm.evicted)

theorem exec_lehrDone_over {s : State} (h1 : s.dev.lehr = 1) (h2 : s.dev.thm.lehrStage = 2) (h : ∀ n < 104, s.dev.dom n ≠ dsOn ∧ s.dev.dom n ≠ dsWaking) :
    exec .lehrDone s = .next ⟨s.dev.lehrOver, s.pending⟩ := by
  have hdue : ¬ (decide (s.dev.lehr ≠ 1) || decide (s.dev.thm.lehrStage ≠ 2)) = true := by simp [h1, h2]
  have hnone : ¬ ((List.range 104).any fun n => decide (s.dev.dom n = dsOn) || decide (s.dev.dom n = dsWaking)) = true := by
    rw [Bool.not_eq_true, List.any_eq_false]
    intro n hn
    simp [h n (List.mem_range.1 hn)]
  refine s.upd_congr ((if_neg hdue).trans ?_)
  rw [Dev.lehrStacks_none h]
  exact if_neg hnone

theorem Dev.lehr_lehrOver (d : Dev) : d.lehrOver.lehr = 2 := Dev.getF_setF_same _ pThm 0x44 2 (by decide)

/-- A stop that is over: every die at step 16, STATE clear. -/
def Dev.lehrCleared (d : Dev) : Dev := (((d.setF pThm 0x44 1 0 0).each (List.range 8) fun d e => d.setF pThm (0x80 + 4 * e) 9 5 16)).stepsChange

/-- The steps that change keep the thermal steps. -/
theorem Dev.stepsChange_thermal (d : Dev) {e : Nat} (he : e < 8) : d.stepsChange.thermal e = d.thermal e := by
  have hdies := Dev.foldl_holds (l := List.range 8) (f := fun (b : Dev) e => b.setF pThm (0x80 + 4 * e) 4 0 (min (b.thermal e) b.govStep))
    (P := fun b => b.thermal e = d.thermal e) (fun b k _ hb => ?_) (d := d) rfl
  · have hvoid := Dev.voids_clockCause (d.each (List.range 8) fun b e => b.setF pThm (0x80 + 4 * e) 4 0 (min (b.thermal e) b.govStep))
    exact (congrArg (wfld · 9 5) (hvoid.reg (by simp only [Page.base]; omega))).trans hdies
  · by_cases hk : k = e
    · subst hk
      exact (b.getF_setF_ne pThm _ _ (by decide) (by decide)).trans hb
    · exact (congrArg (wfld · 9 5) ((b.sameRegsBut_setF pThm (0x80 + 4 * k) 4 0 _).reg (by simp; omega))).trans hb

theorem Dev.lehrCleared_spec (d : Dev) : d.lehrCleared.lehr = 0 ∧ ∀ e < 8, d.lehrCleared.thermal e = 16 := by
  obtain ⟨-, -, -, h44⟩ := ((d.setF pThm 0x44 1 0 0).each (List.range 8) fun d e => d.setF pThm (0x80 + 4 * e) 9 5 16).stepsChange_keeps
  refine ⟨?_, fun e he => (Dev.stepsChange_thermal _ he).trans ?_⟩
  · have hdies := Dev.foldl_holds (l := List.range 8) (f := fun (b : Dev) e => b.setF pThm (0x80 + 4 * e) 9 5 16)
      (P := fun b => b.reg pThm 0x44 = (d.setF pThm 0x44 1 0 0).reg pThm 0x44) (fun b k _ hb => ((b.sameRegsBut_setF pThm (0x80 + 4 * k) 9 5 16).reg (by simp; omega)).trans hb) rfl
    rw [Dev.lehr, Dev.getF, Dev.lehrCleared, h44, Dev.each, hdies]
    exact Dev.getF_setF_same d pThm 0x44 0 (by decide)
  · refine Dev.foldl_makes (P := fun b => b.thermal e = 16) (f := fun b k => b.setF pThm (0x80 + 4 * k) 9 5 16) (a := e) (fun b => Dev.getF_setF_same b pThm (0x80 + 4 * e) 16 (by decide)) (fun b k hb => ?_) (List.mem_range.2 he) _
    by_cases hk : k = e
    · subst hk
      exact Dev.getF_setF_same b pThm _ 16 (by decide)
    · exact (congrArg (wfld · 9 5) ((b.sameRegsBut_setF pThm (0x80 + 4 * k) 9 5 16).reg (by simp; omega))).trans hb

/-- A step that is given up is none. -/
theorem Dev.dropStep_step (d : Dev) (p : Nat) : ((d.dropStep p).px p).step = none := by
  unfold Dev.dropStep
  split
  · next h => exact Option.isNone_iff_eq_none.1 h
  · have hdrop : (d.modPx p fun x => { x with step := none }).NoStep p := by rw [Dev.NoStep, Dev.px_modPx_same]
    exact (Dev.closeWindow_effect ..).1.trans (((hdrop.voidOff p 4).voidOff p 6).voidOff p 7)

end Sys2Proof.Machine

namespace Sys2Proof.Machine

/-! ### The commands of the round and the stop -/

theorem exec_roundEnd_off {s : State} (h : s.dev.pwr.up = false ∨ s.dev.boot.released = false) (vals : List (Option (BitVec 16))) :
    exec (.roundEnd vals) s = .next s :=
  s.upd_congr (if_pos (by rcases h with h | h <;> simp [h]))

theorem exec_roundEnd_on {s : State} (hup : s.dev.pwr.up = true) (hrel : s.dev.boot.released = true) (vals : List (Option (BitVec 16))) :
    exec (.roundEnd vals) s = .next ⟨if s.dev.thm.skip then ({ s.dev with thm := { s.dev.thm with skip := false } } : Dev).roundEnd [] else s.dev.roundEnd vals, s.pending⟩ :=
  s.upd_congr (if_neg (by simp [hup, hrel]))

/-- A write of THM_CTRL that begins a stop. -/
theorem exec_lehrForce_takes {s : State} {r : Role} (h : s.dev.Takes r pThm) :
    exec (.lehrForce r) s = .next ⟨(s.dev.lehrBegin 2).answer 0, s.pending⟩ :=
  s.upd_congr (Dev.guardWrite_takes h _)

/-- The clock of a die takes the die's step. -/
def Dev.clockStep (d : Dev) (e : Nat) : Dev := { d with thm := { d.thm with clock := tset d.thm.clock e (d.kOf e) 16 } }

theorem Dev.clockStep_cause (d : Dev) (e : Nat) : tgetD (d.clockStep e).clockCause.thm.clock e 16 = d.kOf e ∧ (d.clockStep e).clockCause.mem = d.mem := by
  have hvoid := Dev.voids_clockCause (d.clockStep e)
  rw [hvoid.thm, hvoid.mem]
  exact ⟨tgetD_tset_same .., rfl⟩

theorem exec_lehrClear_takes {s : State} {r : Role} (h : s.dev.Takes r pThm) :
    exec (.lehrClear r) s = .next ⟨s.dev.lehrClear.answer 0, s.pending⟩ :=
  s.upd_congr (Dev.guardWrite_takes h _)

/-- What a stop that begins on an ACTIVE device holds. -/
theorem Dev.lehrBegin_active {d : Dev} (h : d.lehr = 0) (hpower : d.devPower = 0) (cause : Nat) :
    (d.lehrBegin cause).lehr = 1 ∧ (d.lehrBegin cause).thm = { d.thm with lehrCause := cause, lehrAt := d.ao, lehrStage := 1, evicted := 0 } ∧ (d.lehrBegin cause).mem = d.mem := by
  have hrun : d.lehrBegin cause = (d.lehrBegun cause).setF pThm 0x44 1 0 1 := (Dev.lehrBegin_eq h cause).trans (if_neg (by simp [hpower]))
  have hthm : (d.lehrBegun cause).thm = { d.thm with lehrCause := cause, lehrAt := d.ao, lehrStage := 1, evicted := 0 } := by rw [d.lehrBegun_only cause]
  have hmem : (d.lehrBegun cause).mem = d.mem := by rw [d.lehrBegun_only cause]
  rw [hrun]
  exact ⟨Dev.getF_setF_same _ pThm 0x44 1 (by decide), hthm, hmem⟩

theorem exec_lehrWaitExpiry_early {s : State} {p : Fin 24} (h : s.dev.lehr ≠ 1 ∨ (s.dev.px p).step = none ∨ s.dev.ao < s.dev.thm.lehrAt + s.dev.getF pThm 0x50 23 0) :
    exec (.lehrWaitExpiry p) s = .next s :=
  s.upd_congr (if_pos (by rcases h with h | h | h <;> simp [h]))

theorem exec_lehrWaitExpiry_due {s : State} {p : Fin 24} (h1 : s.dev.lehr = 1) (h2 : s.dev.thm.lehrStage = 1) (h3 : (s.dev.px p).step ≠ none)
    (h4 : s.dev.thm.lehrAt + s.dev.getF pThm 0x50 23 0 ≤ s.dev.ao) :
    exec (.lehrWaitExpiry p) s = .next ⟨(s.dev.lehrAbort (s.dev.px p).job).dropStep p, s.pending⟩ :=
  s.upd_congr (if_neg (by simp [h1, h2, h3, h4]))

theorem exec_lehrEvict_early {s : State} (h : s.dev.lehr ≠ 1 ∨ s.dev.thm.lehrStage ≠ 1 ∨ ∃ x ∈ s.dev.ptnx, x.2.step ≠ none) :
    exec .lehrEvict s = .next s := by
  refine s.upd_congr (if_pos ?_)
  rcases h with h | h | ⟨x, hx, hstep⟩
  · simp [h]
  · simp [h]
  · have : (s.dev.ptnx.any fun x => x.2.step.isSome) = true := List.any_eq_true.2 ⟨x, hx, Option.isSome_iff_ne_none.2 hstep⟩
    simp only [this, Bool.or_true]

theorem exec_lehrEvict_due {s : State} (h1 : s.dev.lehr = 1) (h2 : s.dev.thm.lehrStage = 1) (h3 : ∀ x ∈ s.dev.ptnx, x.2.step = none) :
    ∃ f : Dev, exec .lehrEvict s = .next ⟨(f.each (List.range 80) fun d n => d.powerOff n).lehrStacks, s.pending⟩ ∧ f.thm.lehrStage = 2 := by
  have hnone : (s.dev.ptnx.any fun x => x.2.step.isSome) = false := List.any_eq_false.2 fun x hx => by simp [h3 x hx]
  exact ⟨_, s.upd_congr (if_neg (by simp [h1, h2, hnone])), rfl⟩

theorem exec_lehrDone_early {s : State} (h : s.dev.lehr ≠ 1 ∨ s.dev.thm.lehrStage ≠ 2) : exec .lehrDone s = .next s :=
  s.upd_congr (if_pos (by rcases h with h | h <;> simp [h]))

theorem exec_governorSample_off {s : State} (h : s.dev.pwr.up = false ∨ s.dev.boot.released = false ∨ s.dev.thm.skip = true) (v1 v2 i1 i2 : BitVec 16) :
    exec (.governorSample v1 v2 i1 i2) s = .next s :=
  s.upd_congr (if_neg (by rcases h with h | h | h <;> simp [h]))

end Sys2Proof.Machine

namespace Sys2Proof.Proofs
open Sys2Proof Sys2Proof.Machine

/-- Settles O55: a round is a reading of the channels, which touches registers of the thermal page, before the count; a stop's begin
keeps the governor, and the clearing of a stop sets the dies one by one. -/
theorem lehrStopAndGovernor : Obligations.LehrStopAndGovernor := by
  unfold Obligations.LehrStopAndGovernor
  refine ⟨fun s vals => ⟨fun h => exec_roundEnd_off h vals, fun hup hrel hs => ?_⟩,
    fun s e => ⟨(s.dev.clockStep e).clockCause, rfl, s.dev.clockStep_cause e⟩,
    fun s r h => ⟨fun hl => ?forceAgain, fun hl hp => ?force, fun hl => ?clearEarly, fun hl hc => ?clear⟩,
    fun s p => ⟨exec_lehrWaitExpiry_early, fun h1 h2 h3 h4 => ⟨_, exec_lehrWaitExpiry_due h1 h2 h3 h4, Dev.dropStep_step ..⟩⟩,
    fun s => ⟨exec_lehrEvict_early, exec_lehrEvict_due, exec_lehrDone_early, fun h1 h2 h3 => ⟨_, exec_lehrDone_over h1 h2 h3, s.dev.lehr_lehrOver, rfl, rfl⟩⟩,
    fun s v1 v2 i1 i2 p hp => ⟨fun h => exec_governorSample_off h v1 v2 i1 i2, fun hup hrel hskip => ?_⟩⟩
  · refine ⟨_, exec_roundEnd_on hup hrel vals, ?_⟩
    split
    · exact ({ s.dev with thm := { s.dev.thm with skip := false } } : Dev).roundEnd_counts [] hs
    · exact s.dev.roundEnd_counts vals hs

  case forceAgain => rw [exec_lehrForce_takes h, Dev.lehrBegin_started hl]
  case force =>
    obtain ⟨hlehr, hthm, hmem⟩ := Dev.lehrBegin_active hl hp 2
    exact ⟨_, exec_lehrForce_takes h, hlehr, congrArg Thm.lehrStage hthm, congrArg Thm.lehrCause hthm, congrArg Thm.lehrAt hthm, hmem⟩
  case clearEarly =>
    rw [exec_lehrClear_takes h, Dev.lehrClear, if_pos (by rcases hl with hl | hl <;> simp [hl])]
  case clear =>
    refine ⟨s.dev.lehrCleared, (exec_lehrClear_takes h).trans (s.upd_congr (congrArg (Dev.answer · 0) (if_neg ?_))), s.dev.lehrCleared_spec⟩
    simp [hl, hc]
  · have hrun : exec (.governorSample v1 v2 i1 i2) s = .next ⟨s.dev.governor p, s.pending⟩ := by
      rw [hp]
      exact s.upd_congr (if_pos (by simp [hup, hrel, hskip]))
    exact ⟨_, hrun, s.dev.governor_spec p⟩

end Sys2Proof.Proofs

/-! SUPPORT. Packages (18, R339–R341): the checks of a load, the end of its chunks, the granules of a package that goes. -/

namespace Sys2Proof.Machine

/-! ### The load of a package (R339) -/

/-- The codes with which a package that reads is refused. -/
def PkgRefusal (c : Nat) : Prop := c = cPkgInvalid ∨ c = cPkgNotMember ∨ c = cSignatureBad ∨ c = cOwnerKey

/-- A device that loads the package of item `i`, whose bytes are `all`, for partition `p`. -/
def Dev.Loads (d t : Dev) (i : Item) (p : Nat) (all : List Byte) : Prop :=
  (∃ v ∈ [leNat (shake256 (bytesAt all 0x100 1793) 32)], Config.falconVerify v (all.take (pkSig (bytesAt all 0 256))) (bytesAt all (pkSig (bytesAt all 0 256)) 1280) = true ∧
      (d.ownerKey p = 0 ∨ v = d.ownerKey p)) ∧
    ∃ r, t.sec.run = some r ∧ r.msg = i.msg ∧ r.item = i.item ∧ r.ptn = p ∧ r.pkg = numAt i.body 8 8 ∧ r.dest = numAt i.body 0x18 8 ∧ r.signed = all.take (pkSig (bytesAt all 0 256))

/-- A package that reads is refused with one of four codes, or its signature and its owner's key are good and it loads. -/
theorem Dev.pkgChecks_outcome (d : Dev) (i : Item) (p : Nat) (all : List Byte) :
    (∃ c n, PkgRefusal c ∧ d.pkgChecks i p all = d.endItem i c n) ∨ d.Loads (d.pkgChecks i p all) i p all := by
  have hinvalid : PkgRefusal cPkgInvalid := .inl rfl
  have hmember : PkgRefusal cPkgNotMember := .inr (.inl rfl)
  unfold Dev.pkgChecks
  extract_lets b h t fail key dest n gs d₁ d₂ sec
  split
  · exact .inl ⟨_, _, hinvalid, rfl⟩
  split
  · exact .inl ⟨_, _, hinvalid, rfl⟩
  split
  · exact .inl ⟨_, _, hinvalid, rfl⟩
  split
  · exact .inl ⟨_, _, hmember, rfl⟩
  split
  · exact .inl ⟨_, _, .inr (.inr (.inl rfl)), rfl⟩
  next hsig =>
  split
  · exact .inl ⟨_, _, .inr (.inr (.inr rfl)), rfl⟩
  next howner =>
  split
  · exact .inl ⟨_, _, hinvalid, rfl⟩
  split
  · exact .inl ⟨_, _, hinvalid, rfl⟩
  split
  · exact .inl ⟨_, _, hmember, rfl⟩
  · have howner' : d.ownerKey p = 0 ∨ leNat key = d.ownerKey p := by simpa [imp_iff_or_not, or_comm] using howner
    exact .inr ⟨⟨leNat key, List.mem_singleton_self _, by simpa using hsig, howner'⟩, _, rfl, rfl, rfl, rfl, rfl, rfl, rfl⟩

/-- A read of a staged package that its memory answers. -/
theorem Dev.pkRead_ok {d g : Dev} {i : Item} {p pva n : Nat} {bs : List Byte} (hwait : d.pvaWait p pva n = none) (hread : d.engRead p pva n = (g, .ok bs))
    (f : Dev → List Byte → Dev) : d.pkRead i p pva n f = f g bs := by
  rw [Dev.pkRead, hwait]
  dsimp only
  rw [hread]

/-- The chunks of a load end with a tag that fails or a ciphertext that is marked. -/
theorem Dev.pkgChunks_fails (r : PkgRun) (id t : List Byte) (off n : Nat) (d : Dev) (i : Nat) {e : Nat × Nat} (h : (Dev.pkgChunks r id t off n d i).2 = some e) :
    e.1 = cPkgChunkBad ∨ e.1 = cPoison := by
  induction n generalizing d i with
  | zero => cases h
  | succ n ih =>
    rw [Dev.pkgChunks] at h
    generalize d.engRead _ _ _ = x at h
    obtain ⟨d₁, x⟩ := x
    have hopen (ct : List Byte) (g : Dev) {pt : List Byte → Dev} (h : (match Config.gcmOpen r.key (leBytes 4 i ++ List.replicate 8 0) id ct (bytesAt t (32 * i + 16) 16) with
        | none => (g, some (cPkgChunkBad, i)) | some l => Dev.pkgChunks r id t off n (pt l) (i + 1)).2 = some e) : e.1 = cPkgChunkBad ∨ e.1 = cPoison := by
      split at h
      · cases h
        exact .inl rfl
      · exact ih _ _ h
    rcases x with c | l
    · dsimp only at h
      split at h
      · cases h
        exact .inr rfl
      · exact hopen _ _ h
    · exact hopen _ _ h

theorem Dev.setRegBytes_ptnx (d : Dev) (p : Page) (off n : Nat) (bs : List Byte) : (d.setRegBytes p off n bs).ptnx = d.ptnx :=
  Dev.foldl_holds (f := fun e k => e.setReg p (off + 4 * k) (BitVec.ofNat 32 (numAt bs (4 * k) 4))) (P := fun e => e.ptnx = d.ptnx) (fun _ _ _ h => h) rfl

/-- What a partition keeps of a package is read back after its measurement and its record. -/
theorem Dev.px_pkgKept (d : Dev) (p n : Nat) (f : PtnX → PtnX) (l ev : List Byte) :
    ((((d.modPx p f).setF (pPtn p) 0x40 16 13 n).extendMeas p l).record 0xFF 0x01C1 ev).px p = f (d.px p) := by
  have hmeas : (((d.modPx p f).setF (pPtn p) 0x40 16 13 n).extendMeas p l).ptnx = (d.modPx p f).ptnx := Dev.setRegBytes_ptnx ..
  rw [← Dev.px_modPx_same d p f, Dev.px, Dev.px, ← hmeas]
  rfl

/-- A load whose memory answers ends with its slot filled, or with the chunk that ends it. -/
theorem Dev.pkgLoadDone_outcome {d : Dev} {r : PkgRun} (hrun : d.sec.run = some r) (hpkg : d.pvaWait r.ptn r.pkg r.pkgBytes = none) (hdest : d.pvaWait r.ptn r.dest r.destBytes = none) :
    ∃ (f : Dev) (c n : Nat), d.pkgLoadDone = f.pkgEnds r c n ∧ (c = cPkgChunkBad ∨ c = cPoison ∨ (c = 0 ∧ (tget? (f.px r.ptn).pkgs n).isSome = true)) := by
  simp only [Dev.pkgLoadDone, hrun, hpkg, hdest]
  split
  · next d₁ e hchunks =>
    have hcode := Dev.pkgChunks_fails _ _ _ _ _ _ _ (congrArg Prod.snd hchunks)
    exact ⟨_, _, _, rfl, hcode.imp_right .inl⟩
  · next d₁ _ =>
    refine ⟨_, _, _, rfl, .inr (.inr ⟨rfl, ?_⟩)⟩
    rw [Dev.px_pkgKept, tget?_tput_same, Option.isSome_some]

/-! ### A package goes (R340) -/

theorem Dev.setSlots_ptnx (d : Dev) (l : List Nat) (slot : Nat) : (d.setSlots l slot).ptnx = d.ptnx := by
  unfold Dev.setSlots
  refine Dev.foldl_holds (P := fun e => e.ptnx = d.ptnx) (fun e a _ h => ?_) rfl
  split <;> exact h

/-- The granules of a package are cleared and its slot is empty. -/
def Dev.pkgCleared (d : Dev) (p k : Nat) (gs : List Nat) : Dev :=
  let d := ((gs.foldl (fun (d : Dev) a => (d.writeMem (agPlain p none) a (List.replicate (2 ^ 21) 0) false).1) d).setSlots gs 0).modPx p fun x => { x with pkgs := tdel x.pkgs k }
  d.setF (pPtn p) 0x40 16 13 (d.px p).pkgs.length

theorem Dev.px_pkgCleared (d : Dev) (p k : Nat) (gs : List Nat) : (d.pkgCleared p k gs).px p = { d.px p with pkgs := tdel (d.px p).pkgs k } := by
  have hwrites := Dev.foldl_holds (l := gs) (f := fun (d : Dev) a => (d.writeMem (agPlain p none) a (List.replicate (2 ^ 21) 0) false).1)
    (P := fun e => e.ptnx = d.ptnx) (fun e a _ h => (congrArg Dev.ptnx (e.bytesOnly_writeMem ..)).trans h) rfl
  have hcleared := (Dev.setSlots_ptnx (gs.foldl (fun (d : Dev) a => (d.writeMem (agPlain p none) a (List.replicate (2 ^ 21) 0) false).1) d) gs 0).trans hwrites
  refine (Dev.px_modPx_same _ p fun x => { x with pkgs := tdel x.pkgs k }).trans ?_
  rw [Dev.px, hcleared, Dev.px]

end Sys2Proof.Machine

namespace Sys2Proof.Proofs
open Sys2Proof Sys2Proof.Machine

/-- Settles O50: the checks of a package end it with one of four codes or leave a good signature and the owner's key before the load begins. -/
theorem packagesLoad : Obligations.PackagesLoad := by
  unfold Obligations.PackagesLoad
  refine ⟨fun s p i e q hdue hq => ⟨fun h => ?absent, fun f g h all h1 h2 h3 h4 h5 h6 h7 h8 h9 h10 h11 h12 h13 => ?load⟩,
    fun s => ⟨fun h => ?idle, fun r hr h1 h2 => ?done⟩,
    fun s p i e q k hdue hq hk => ⟨fun h => ?none, fun h1 h2 => ?empty, fun id hash gs h1 h2 h3 => ?unload⟩⟩
  case absent =>
    subst hq
    refine (State.upd_serveItem_due hdue _).trans (s.upd_congr (if_pos ?_))
    rcases h with h | h <;> simp [h]
  case load =>
    have hrun : exec (.pkgLoad p) s = .next ⟨g.pkgChecks i q all, s.pending⟩ := by
      subst hq
      refine (State.upd_serveItem_due hdue _).trans (s.upd_congr ?_)
      rw [Dev.pkgLoad]
      dsimp only
      rw [if_neg (by rcases h3 with h3 | h3 | h3 <;> simp [h1, h2, h3]), if_neg (by simp [h4]), if_neg (by omega), if_neg (by omega), if_neg (by omega), if_neg (by omega), Dev.pkRead_ok h9 h10]
      simp only [h11]
      exact Dev.pkRead_ok h12 h13 _
    refine ⟨_, hrun, ?_⟩
    rcases g.pkgChecks_outcome i q all with ⟨c, n, hc, heq⟩ | h
    · exact .inl ⟨c, n, hc, heq⟩
    · exact .inr h
  case idle =>
    exact s.upd_congr (by rw [Dev.pkgLoadDone, h])
  case done =>
    obtain ⟨f, c, n, hrun, hcode⟩ := Dev.pkgLoadDone_outcome hr h1 h2
    exact ⟨f, c, n, s.upd_congr hrun, hcode⟩
  case none =>
    subst hq
    exact (State.upd_serveItem_due hdue _).trans (s.upd_congr (if_pos (by simp [h])))
  case empty =>
    subst hq hk
    refine (State.upd_serveItem_due hdue _).trans (s.upd_congr ((if_neg (by simp [h1])).trans ?_))
    rw [h2]
  case unload =>
    subst hq hk
    have hready : gs.all e.memReady = true := List.all_eq_true.2 h3
    have hpx := e.px_pkgCleared (numAt i.body 0 1) (numAt i.body 1 1) gs
    refine ⟨e.pkgCleared (numAt i.body 0 1) (numAt i.body 1 1) gs, (State.upd_serveItem_due hdue _).trans (s.upd_congr ((if_neg (by simp [h1])).trans ?_)), ?_, fun j hj => ?_⟩
    · rw [h2]
      exact if_neg (by simp [hready])
    · exact (congrArg (fun x : PtnX => tget? x.pkgs _) hpx).trans (tget?_tdel_same _ _)
    · exact (congrArg (fun x : PtnX => tget? x.pkgs _) hpx).trans (tget?_tdel_ne _ hj)

end Sys2Proof.Proofs

/-! SUPPORT. Identity, attestation, life cycle and tamper (18, R337–R351): the length of a hash and of a report, a write at a group address, what the wipe of the vault and of secure areas touches, what an outcome touches. -/

namespace Sys2Proof.Machine

/-! ### Lengths -/

theorem length_modAt {α : Type} (l : List α) (n : Nat) (f : α → α) : (modAt l n f).length = l.length := by
  induction l generalizing n with
  | nil => rfl
  | cons a l ih =>
    cases n with
    | zero => rfl
    | succ n => exact congrArg (· + 1) (ih n)

theorem length_fromLanes (f : Nat → Nat → Nat) : (fromLanes f).length = 25 := by simp [fromLanes]

/-- A Keccak round gives 25 lanes. -/
theorem length_keccakRounds (f r : Nat) (a : List Nat) (h : a.length = 25) : (keccakRounds f r a).length = 25 := by
  induction f generalizing r a with
  | zero => exact h
  | succ f ih => exact ih _ _ ((length_modAt ..).trans (length_fromLanes _))

theorem length_spongeIn (n : Nat) (bs : List Byte) (a : List Nat) (h : a.length = 25) : (spongeIn n bs a).length = 25 := by
  induction n generalizing bs a with
  | zero => exact h
  | succ n ih => exact ih _ _ (length_keccakRounds _ _ _ (by rw [List.length_mapIdx, h]))

theorem length_flatMap_of_const {α β : Type} {f : α → List β} {n : Nat} (h : ∀ a, (f a).length = n) (l : List α) : (l.flatMap f).length = n * l.length := by
  rw [List.length_flatMap, List.map_congr_left (g := fun _ => n) fun a _ => h a, List.map_const', List.sum_replicate, smul_eq_mul, Nat.mul_comm]

theorem length_shake256 (bs : List Byte) {n : Nat} (h0 : 0 < n) (hn : n ≤ 136) : (shake256 bs n).length = n := by
  have hblocks : ceilDiv n 136 = 1 := by
    unfold ceilDiv
    omega
  unfold shake256
  extract_lets k m m'
  have hlanes : (spongeIn k m' (List.replicate 25 0)).length = 25 := length_spongeIn _ _ _ (List.length_replicate ..)
  rw [hblocks, List.length_take, spongeOut, List.length_append, length_flatMap_of_const (leBytes_length 8), List.length_take, hlanes]
  omega

theorem Dev.regBytes_length (d : Dev) (p : Page) (off n : Nat) : (d.regBytes p off n).length = 4 * (n / 4) := by
  rw [Dev.regBytes, length_flatMap_of_const fun k => leBytes_length 4 _, List.length_range]

theorem Dev.deviceHash_length (d : Dev) : d.deviceHash.length = 32 := length_shake256 _ (by decide) (by decide)

/-- A report is 2,048 bytes (R347). -/
theorem Dev.report_length (d : Dev) (p : Nat) {nonce : List Byte} (h : nonce.length = 32) : (d.report p nonce).length = 2048 := by
  have hslots : ∀ f : Nat → List Byte, (∀ k, (f k).length = 48) → ((List.range 16).flatMap f).length = 768 := fun f hf => by
    rw [length_flatMap_of_const hf, List.length_range]
  unfold Dev.report
  extract_lets ptn z pg
  have hz : ∀ n, (z n).length = n := fun n => List.length_replicate ..
  have hptn : ∀ (n : Nat) (l : List Byte), l.length = n → (if ptn then l else z n).length = n := fun n l hl => by
    split
    · exact hl
    · exact hz n
  simp only [List.length_append, leBytes_length, h, Dev.deviceHash_length, Dev.regBytes_length, hz]
  rw [hptn 128, hptn 768]
  · refine hslots _ fun k => ?_
    split
    · simp only [List.length_append, bytesAt_length]
    · exact hz 48
  · simp only [List.length_append, Dev.regBytes_length, bytesAt_length, hz]

/-- A report holds its nonce in bytes 8 to 39. -/
theorem Dev.report_nonce (d : Dev) (p : Nat) {nonce : List Byte} (h : nonce.length = 32) (l : List Byte) : bytesAt (d.report p nonce ++ l) 8 32 = nonce := by
  obtain ⟨t, ht⟩ : ∃ t, d.report p nonce ++ l = (leBytes 4 0x51415431 ++ leBytes 4 1) ++ (nonce ++ t) := by
    unfold Dev.report
    exact ⟨_, by simp only [List.append_assoc]; rfl⟩
  rw [ht, bytesAt, List.drop_left' (by simp only [List.length_append, leBytes_length]), List.take_left' h, h]
  exact List.append_nil _

/-! ### Bytes of a list -/

theorem bytesAt_eq_take (l : List Byte) (off n : Nat) : bytesAt l off n = (l.drop off ++ List.replicate n 0).take n := by
  rw [bytesAt, List.take_append, List.take_replicate, List.length_take]
  congr 2
  omega

/-- What a longer extract begins with. -/
theorem bytesAt_bytesAt (l : List Byte) (off : Nat) {n m : Nat} (h : n ≤ m) : bytesAt (bytesAt l off m) 0 n = bytesAt l off n := by
  rw [bytesAt_eq_take, bytesAt_eq_take l off m, bytesAt_eq_take l off n, List.drop_zero, List.take_append_of_le_length (by simp; omega), List.take_take, Nat.min_eq_left h,
    List.take_append, List.take_append, List.take_replicate, List.take_replicate]
  congr 2
  omega

theorem bytesAt_append_left {l : List Byte} (t : List Byte) {n : Nat} (h : n ≤ l.length) : bytesAt (l ++ t) 0 n = bytesAt l 0 n := by
  rw [bytesAt_eq_take, bytesAt_eq_take, List.drop_zero, List.drop_zero, List.append_assoc, List.take_append_of_le_length h, List.take_append_of_le_length h]

theorem bytesAt_append_right (l t : List Byte) (n : Nat) : bytesAt (l ++ t) l.length n = bytesAt t 0 n := by
  rw [bytesAt_eq_take, bytesAt_eq_take, List.drop_left, List.drop_zero]

/-! ### What the outcome of an item touches (14, R303) -/

/-- `d'` differs from `d` in what the outcome of an item may touch only: the intake's messages, what is sent, and the count of management packets. -/
structure Dev.Posts (d d' : Dev) : Prop where
  only : d' = { d with
    csr := d'.csr, cyc := d'.cyc, work := d'.work, itemResp := d'.itemResp, sent := d'.sent, heldOps := d'.heldOps, reqs := d'.reqs, ports := d'.ports
    routes := d'.routes, outMsgs := d'.outMsgs, nextId := d'.nextId, nextMid := d'.nextMid, dests := d'.dests, far := d'.far }
  csr : ∀ k, k ≠ 0x6050 → tget? d'.csr k = tget? d.csr k

theorem Dev.Posts.refl (d : Dev) : d.Posts d := ⟨rfl, fun _ _ => rfl⟩

theorem Dev.Posts.trans {a b c : Dev} (h : a.Posts b) (h' : b.Posts c) : a.Posts c :=
  ⟨by rw [h'.only, h.only], fun k hk => (h'.csr k hk).trans (h.csr k hk)⟩

theorem Dev.Posts.reg {d d' : Dev} (h : d.Posts d') {p : Page} {off : Nat} (hk : p.base + off ≠ 0x6050) : d'.reg p off = d.reg p off := by
  rw [Dev.reg, Dev.reg, tgetD, tgetD, h.csr _ hk]

theorem Dev.SendsOnly.posts {d d' : Dev} (h : d.SendsOnly d') : d.Posts d' := ⟨by rw [h], fun _ _ => by rw [h]⟩

/-- A count touches registers alone. -/
theorem Dev.addCount_only (d : Dev) (p : Page) (off n : Nat) : d.addCount p off n = { d with csr := (d.addCount p off n).csr, cyc := (d.addCount p off n).cyc } := by
  unfold Dev.addCount
  split <;> rfl

theorem Dev.posts_mgtSend (d : Dev) (eid kind : Nat) (body : List Byte) : d.Posts (d.mgtSend eid kind body) := by
  have hcount := (d.out (.mctp eid 0x7F (leBytes 1 kind ++ body))).addCount_only pMgt 0x50 1
  refine ⟨?_, fun k hk => ((Dev.sameRegsBut_addCount _ pMgt 0x50 1) k (by simpa [Page.base] using hk)).symm⟩
  rw [Dev.mgtSend, hcount]
  rfl

theorem Dev.posts_finishMsg (d : Dev) (m : WorkMsg) : d.Posts (d.finishMsg m) := by
  unfold Dev.finishMsg
  extract_lets e
  have hgone : d.Posts e := ⟨rfl, fun _ _ => rfl⟩
  split
  · split
    · exact hgone.trans (e.posts_mgtSend ..)
    · exact hgone.trans (e.sendsOnly_sendUp _).posts
  · exact hgone

theorem Dev.posts_endOrPut (d : Dev) (m : WorkMsg) : d.Posts (if m.complete then d.finishMsg m else d.putWork m) := by
  split
  · exact d.posts_finishMsg m
  · exact ⟨rfl, fun _ _ => rfl⟩

theorem Dev.posts_settleSeq (f : Nat) (d : Dev) (ptn : Nat) : d.Posts (Dev.settleSeq f d ptn) := by
  induction f generalizing d with
  | zero => exact .refl d
  | succ f ih =>
    unfold Dev.settleSeq
    split
    · exact .refl d
    split
    · exact .refl d
    split
    · exact .refl d
    extract_lets m
    split
    · exact ⟨rfl, fun _ _ => rfl⟩
    · exact (d.posts_endOrPut m).trans (ih _)

theorem Dev.posts_post (d : Dev) (msg item code info : Nat) : d.Posts (d.post msg item code info) := by
  unfold Dev.post
  split
  · exact ⟨rfl, fun _ _ => rfl⟩
  split
  · exact .refl d
  split
  · exact .refl d
  · exact (d.posts_endOrPut _).trans (Dev.posts_settleSeq ..)

/-! ### Writes at a group address (R337, R347) -/

/-- The security core writes an aligned block of this device's memory that answers. -/
theorem Dev.groupWrite_here {d : Dev} {i : Item} {ga a : Nat} {bs : List Byte} (hga : ga = d.devnum * 2 ^ 44 + a) (ha : a < 2 ^ 44) (halign : a % 4096 = 0)
    (hin : InMemory a (a + bs.length - 1)) (hready : d.memReady a = true) (f : Dev → Dev) :
    d.groupWrite i ga bs f = (f (d.writeMem agDevice a bs false).1).endItem i 0 0 := by
  have hdev : d.devnum < 64 := Nat.mod_lt _ (by decide)
  have hquot : ga / 2 ^ 44 = d.devnum := by omega
  have hrem : ga % 2 ^ 44 = a := by omega
  unfold Dev.groupWrite
  dsimp only
  rw [hquot, hrem, if_neg (by simp [halign, Nat.not_lt.2 (Nat.le_of_lt_succ hdev)]), if_neg (not_not.2 rfl)]
  rcases hin with ⟨k, x, k', x', h, h'⟩ | ⟨c, x, c', x', h, h'⟩
  · rw [h, h']
    exact if_neg (by simp [hready])
  · rw [h, h']
    exact if_neg (by simp [hready])

theorem Dev.groupWrite_unaligned {d : Dev} {i : Item} {ga : Nat} (h : ga % 4096 ≠ 0) (bs : List Byte) (f : Dev → Dev) :
    d.groupWrite i ga bs f = d.endItem i cXlatePerm 0 := by
  have hrem : ga % 2 ^ 44 % 4096 ≠ 0 := by omega
  exact if_pos (by rw [decide_eq_true hrem, Bool.true_or])

theorem Dev.sendsOnly_sendWrite (f : Nat) (d : Dev) (peer job domain a : Nat) (bs : List Byte) (m : Bool) : d.SendsOnly (Dev.sendWrite f d peer job domain a bs m).2 := by
  induction f generalizing d a bs with
  | zero => rfl
  | succ f ih =>
    unfold Dev.sendWrite
    split
    · rfl
    · exact (Dev.SendsOnly.trans (b := d.takeId.2) rfl (Dev.sendsOnly_sendOp _ _)).trans (ih _ _ _)

/-- A write to another device waits for its frames. -/
theorem Dev.groupWrite_far {d : Dev} {i : Item} {ga : Nat} (halign : ga % 4096 = 0) (hdev : ga / 2 ^ 44 < 64) (hne : ga / 2 ^ 44 ≠ d.devnum) (bs : List Byte) :
    ∃ l, (d.groupWrite i ga bs id).replyWaits = d.replyWaits ++ [(l, i.msg, i.item)] ∧ (d.groupWrite i ga bs id).mem = d.mem := by
  have hsend := Dev.sendsOnly_sendWrite (bs.length / 64 + 2) d (ga / 2 ^ 44) noJob opDomain (ga % 2 ^ 44) bs false
  have hrem : ga % 2 ^ 44 % 4096 = 0 := by omega
  have hcond : ¬ (decide (ga % 2 ^ 44 % 4096 ≠ 0) || decide (63 < ga / 2 ^ 44)) = true := by
    rw [hrem, decide_eq_false (Nat.not_lt.2 (Nat.le_of_lt_succ hdev))]
    simp
  have hrun : d.groupWrite i ga bs id = { (Dev.sendWrite (bs.length / 64 + 2) d (ga / 2 ^ 44) noJob opDomain (ga % 2 ^ 44) bs false).2 with
      replyWaits := (Dev.sendWrite (bs.length / 64 + 2) d (ga / 2 ^ 44) noJob opDomain (ga % 2 ^ 44) bs false).2.replyWaits ++ [((Dev.sendWrite (bs.length / 64 + 2) d (ga / 2 ^ 44) noJob opDomain (ga % 2 ^ 44) bs false).1, i.msg, i.item)] } :=
    (if_neg hcond).trans (if_pos hne)
  rw [hrun]
  exact ⟨_, by rw [hsend], hsend.mem⟩

/-- What SEC_IDENTITY writes. -/
def Dev.identityBlock (d : Dev) : List Byte :=
  bytesAt (bytesAt d.deriveKeys.sigPub 0 1793) 0 2048 ++ bytesAt (bytesAt d.deriveKeys.kemPub 0 1568) 0 2048 ++
    leBytes 4 (Config.certificate.take 4092).length ++ bytesAt (Config.certificate.take 4092) 0 4092

/-- What ATTEST writes: the report and its signature. -/
def Dev.signedReport (d : Dev) (p : Nat) (nonce : List Byte) : List Byte :=
  d.report p nonce ++ bytesAt (Config.falconSign (d.sec.keys.getD {}).sigPriv (d.report p nonce)) 0 1280 ++ List.replicate 768 0

/-! ### The wipe of the vault and of the secure areas (R349, R350) -/

/-- `d'` differs from `d` in what the wipe of a cluster's secure area may touch only: bytes, and registers of the power page and of clusters. -/
structure Dev.Wipes (d d' : Dev) : Prop where
  only : d' = { d with csr := d'.csr, cyc := d'.cyc, mem := d'.mem, marks := d'.marks, torn := d'.torn, errs := d'.errs, injected := d'.injected }
  csr : ∀ k, (k < 0x1000 ∨ 0x2000 ≤ k ∧ k < 0x1000000) → tget? d'.csr k = tget? d.csr k

theorem Dev.Wipes.refl (d : Dev) : d.Wipes d := ⟨rfl, fun _ _ => rfl⟩

theorem Dev.Wipes.trans {a b c : Dev} (h : a.Wipes b) (h' : b.Wipes c) : a.Wipes c :=
  ⟨by rw [h'.only, h.only], fun k hk => (h'.csr k hk).trans (h.csr k hk)⟩

theorem Dev.Wipes.reg {d d' : Dev} (h : d.Wipes d') {p : Page} {off : Nat} (hk : p.base + off < 0x1000 ∨ 0x2000 ≤ p.base + off ∧ p.base + off < 0x1000000) :
    d'.reg p off = d.reg p off := by
  rw [Dev.reg, Dev.reg, tgetD, tgetD, h.csr _ hk]

theorem Dev.wipes_wipeSecure (d : Dev) {n : Nat} (hn : n < 800) : d.Wipes (d.wipeSecure n) := by
  unfold Dev.wipeSecure
  split
  · exact .refl d
  extract_lets e
  have hdom : d.Wipes e := by
    show d.Wipes (ite _ _ _)
    split
    · refine ⟨rfl, fun k hk => ((d.sameRegsBut_setF pPwr (rDom (n / 10)) 6 4 dsOn) k fun o ho => ?_).symm⟩
      obtain rfl := List.mem_singleton.1 ho
      simp only [Page.base, rDom]
      omega
    · exact .refl d
  have hzero : e.Wipes (e.zeroRange (bufBase n + 0xFC000) 0x4000) := ⟨rfl, fun _ _ => rfl⟩
  refine (hdom.trans hzero).trans ⟨rfl, fun k hk => (Dev.sameRegsBut_setBit _ (pClu n) 0x400 13 true k fun o ho => ?_).symm⟩
  obtain rfl := List.mem_singleton.1 ho
  simp only [Page.base]
  omega

theorem Dev.wipes_clusters (d : Dev) : d.Wipes (d.each (List.range 800) fun d n => d.wipeSecure n) :=
  Dev.foldl_holds (P := d.Wipes) (fun e _ hn he => he.trans (e.wipes_wipeSecure (List.mem_range.1 hn))) (.refl d)

/-- The vault and the key slots are empty. -/
def Dev.vaultEmpty (d : Dev) : Dev :=
  { d with
    wkeys := [], sec := { d.sec with keys := none, rng := 0, bootRec := none, run := none }
    sram := d.sram.filter fun e => (match e with | .weightKey _ | .deviceKey => false | _ => true) }

theorem Dev.wipeVault_idle {d : Dev} (h : d.sec.run = none) : d.wipeVault = d.vaultEmpty := by
  rw [Dev.wipeVault, h]
  rfl

theorem Dev.wipeVault_loading {d : Dev} {r : PkgRun} (h : d.sec.run = some r) :
    d.wipeVault = (d.vaultEmpty.setReg pSec 0x48 0).post r.msg r.item cKeyLost r.ptn := by
  rw [Dev.wipeVault, h]
  rfl

/-- A vault that is wiped holds no keys; the life cycle stays. -/
theorem Dev.wipeVault_empty (d : Dev) : d.wipeVault.wkeys = [] ∧ d.wipeVault.sec.keys = none ∧ d.wipeVault.reg pSec 0x40 = d.reg pSec 0x40 := by
  rcases hrun : d.sec.run with _ | r
  · rw [Dev.wipeVault_idle hrun]
    exact ⟨rfl, rfl, rfl⟩
  · have hpost := (d.vaultEmpty.setReg pSec 0x48 0).posts_post r.msg r.item cKeyLost r.ptn
    rw [Dev.wipeVault_loading hrun]
    exact ⟨by rw [hpost.only]; rfl, by rw [hpost.only]; rfl, (hpost.reg (by decide)).trans (d.vaultEmpty.reg_setReg_ne _ (by decide))⟩

/-- The wipe of a life-cycle step (R351). -/
def Dev.lcWiped (d : Dev) : Dev :=
  let e := d.wipeVault.each (List.range 800) fun d n => d.wipeSecure n
  (if d.lc = 0 then e.fuseSeed else e).setF pSec 0x40 1 0 (d.lc + 1)

theorem Dev.lcWiped_spec {d : Dev} (h : d.lc < 3) : d.lcWiped.lc = d.lc + 1 ∧ d.lcWiped.wkeys = [] ∧ d.lcWiped.sec.keys = none := by
  obtain ⟨hw, hk, -⟩ := d.wipeVault_empty
  have hwipe := d.wipeVault.wipes_clusters
  have hlc : d.lcWiped.lc = (d.lc + 1) % 4 := Dev.getF_setF_same _ pSec 0x40 (d.lc + 1) (by decide)
  have hkeys : ∀ b : Prop, ∀ [Decidable b] (e : Dev), (if b then e.fuseSeed else e).wkeys = e.wkeys ∧ (if b then e.fuseSeed else e).sec.keys = e.sec.keys := fun b _ e => by
    split <;> exact ⟨rfl, rfl⟩
  obtain ⟨hw', hk'⟩ := hkeys (d.lc = 0) (d.wipeVault.each (List.range 800) fun d n => d.wipeSecure n)
  exact ⟨hlc.trans (Nat.mod_eq_of_lt (by omega)), hw'.trans (by rw [hwipe.only]; exact hw), hk'.trans (by rw [hwipe.only]; exact hk)⟩

/-- A partition that is not sealed loses no key. -/
theorem Dev.keyLost_unsealed {d : Dev} {p : Nat} (h : d.ptnSealed p = false) : d.keyLost p = d := if_pos (by simp [h])

/-- A tamper event of source `src` is latched and recorded (R349). -/
def Dev.tamperLatch (d : Dev) (src : Nat) : Dev :=
  let d := (d.setBit pSec 0x40 8 true).setF pSec 0x44 4 0 (d.getF pSec 0x44 4 0 ||| src)
  let d := d.writeRec fun r => { r with tamper := min 255 (r.tamper + 1) }
  d.record 0xFF 0x01C0 (leBytes 4 src)

theorem Dev.tamperLatch_only (d : Dev) (src : Nat) : (d.tamperLatch src).wkeys = d.wkeys ∧ (d.tamperLatch src).sec.keys = d.sec.keys ∧
    (d.tamperLatch src).csr = ((d.setBit pSec 0x40 8 true).setF pSec 0x44 4 0 (d.getF pSec 0x44 4 0 ||| src)).csr := by
  have hrec := ((d.setBit pSec 0x40 8 true).setF pSec 0x44 4 0 (d.getF pSec 0x44 4 0 ||| src)).writeRec_eq fun r => { r with tamper := min 255 (r.tamper + 1) }
  show (Dev.writeRec _ _).wkeys = _ ∧ (Dev.writeRec _ _).sec.keys = _ ∧ (Dev.writeRec _ _).csr = _
  rw [hrec]
  exact ⟨rfl, rfl, rfl⟩

theorem Dev.tamperLatched_tamperLatch (d : Dev) (src : Nat) : (d.tamperLatch src).tamperLatched = true := by
  have hreg : (d.tamperLatch src).reg pSec 0x40 = (d.setBit pSec 0x40 8 true).reg pSec 0x40 := by
    rw [Dev.reg, (d.tamperLatch_only src).2.2]
    exact (Dev.sameRegsBut_setF _ pSec 0x44 4 0 _).reg (by decide)
  rw [Dev.tamperLatched, Dev.bit, hreg]
  exact Dev.bit_setBit_same d pSec 0x40 8 true (by decide)

theorem Dev.sources_tamperLatch (d : Dev) {src : Nat} (h : src < 32) : (d.tamperLatch src).getF pSec 0x44 4 0 = d.getF pSec 0x44 4 0 ||| src := by
  have hlt : d.getF pSec 0x44 4 0 ||| src < 2 ^ 5 := Nat.or_lt_two_pow (Nat.mod_lt _ (by decide)) h
  rw [Dev.getF, Dev.reg, (d.tamperLatch_only src).2.2]
  exact (Dev.getF_setF_same _ pSec 0x44 _ (by decide)).trans (Nat.mod_eq_of_lt hlt)

theorem Dev.ptnSealed_tamperLatch (d : Dev) (src p : Nat) : (d.tamperLatch src).ptnSealed p = d.ptnSealed p := by
  have hne : ∀ k < 0x1000, ∀ o ∈ [k], (pPtn p).base + 0x40 ≠ pSec.base + o := fun k hk o ho => by
    obtain rfl := List.mem_singleton.1 ho
    have hptn := base_ptn_le p
    have hsec : pSec.base = 0x4000 := rfl
    omega
  rw [Dev.ptnSealed, Dev.bit, Dev.reg, (d.tamperLatch_only src).2.2]
  exact congrArg (wbit · 0) (((Dev.sameRegsBut_setF _ pSec 0x44 4 0 _).reg_of_ne (hne _ (by decide))).trans ((d.sameRegsBut_setBit pSec 0x40 8 true).reg_of_ne (hne _ (by decide))))

/-- A device whose vault and secure areas are wiped. -/
def Dev.wiped (d : Dev) : Dev := d.wipeVault.each (List.range 800) fun d n => d.wipeSecure n

/-- Without a load the wipe takes the keys, and registers but those of the power page and of clusters stay. -/
theorem Dev.wiped_idle {d : Dev} (h : d.sec.run = none) : d.wiped.wkeys = [] ∧ d.wiped.sec.keys = none ∧
    ∀ {p : Page} {off : Nat}, (p.base + off < 0x1000 ∨ 0x2000 ≤ p.base + off ∧ p.base + off < 0x1000000) → d.wiped.reg p off = d.reg p off := by
  have hwipe : d.wipeVault.Wipes d.wiped := d.wipeVault.wipes_clusters
  rw [Dev.wipeVault_idle h] at hwipe
  exact ⟨by rw [hwipe.only]; rfl, by rw [hwipe.only]; rfl, fun hk => hwipe.reg hk⟩

/-- A tamper event without a load latches its source; no keys are left, and the partitions stay sealed as they are. -/
theorem Dev.tampered_spec {d : Dev} {src : Nat} (hrun : d.sec.run = none) (hsrc : src < 32) :
    (d.wiped.tamperLatch src).wkeys = [] ∧ (d.wiped.tamperLatch src).sec.keys = none ∧
      (d.wiped.tamperLatch src).getF pSec 0x44 4 0 = d.getF pSec 0x44 4 0 ||| src ∧ ∀ p < 24, (d.wiped.tamperLatch src).ptnSealed p = d.ptnSealed p := by
  obtain ⟨hw, hk, hreg⟩ := Dev.wiped_idle hrun
  obtain ⟨hw', hk', -⟩ := d.wiped.tamperLatch_only src
  refine ⟨hw'.trans hw, hk'.trans hk, ?_, fun p hp => ?_⟩
  · rw [Dev.sources_tamperLatch _ hsrc, Dev.getF, hreg (by decide), Dev.getF]
  · have hbase : 0x60000 ≤ (pPtn p).base ∧ (pPtn p).base + 0x40 < 0x1000000 := ⟨base_ptn_le p, by simp only [Page.base]; omega⟩
    rw [Dev.ptnSealed_tamperLatch, Dev.ptnSealed, Dev.bit, hreg (by omega), Dev.ptnSealed, Dev.bit]

/-- A tamper event of no source, or without supply. -/
theorem Dev.tamperEvent_none {d : Dev} {src : Nat} (h : src = 0 ∨ d.pwr.up = false) : d.tamperEvent src = d := by
  refine if_pos ?_
  rcases h with h | h <;> simp [h]

/-- A tamper event where no partition is sealed. -/
theorem Dev.tamperEvent_spec {d : Dev} {src : Nat} (hsrc : src ≠ 0) (hlt : src < 32) (hup : d.pwr.up = true) (harmed : d.sec.disarmed = false) (hrun : d.sec.run = none)
    (hplain : ∀ p < 24, d.ptnSealed p = false) : d.tamperEvent src = d.wiped.tamperLatch src := by
  obtain ⟨-, -, -, hsealed⟩ := Dev.tampered_spec hrun hlt
  have hfire : d.tamperEvent src = (d.wiped.tamperLatch src).each (List.range 24) fun d p => d.keyLost p := by
    unfold Dev.tamperEvent
    rw [harmed, if_neg Bool.false_ne_true]
    exact if_neg (by simp [hsrc, hup])
  rw [hfire]
  exact Dev.foldl_holds (P := fun e => e = d.wiped.tamperLatch src) (fun e p hp he => by
    rw [he]
    exact Dev.keyLost_unsealed ((hsealed p (List.mem_range.1 hp)).trans (hplain p (List.mem_range.1 hp)))) rfl

end Sys2Proof.Machine

namespace Sys2Proof.Proofs
open Sys2Proof Sys2Proof.Machine

/-- Settles O51: a report and an identity have the length of their blocks; the wipes touch no register of the security page and no partition. -/
theorem identityAndLifeCycle : Obligations.IdentityAndLifeCycle := by
  unfold Obligations.IdentityAndLifeCycle
  refine ⟨fun s p i e hdue => ⟨fun h => ?_, fun a hk hga ha halign hin hready => ?_, fun hk halign => ?_, fun hk halign hdev hne => ?_⟩,
    fun s p i e q hdue hq => ⟨fun h => ?_, fun hk ht => ?_, fun hk ht h1 h2 => ?_, fun g a hk ht hq' hg hga ha halign hin hready => ?_⟩,
    fun s p i e hdue => ⟨fun h => ?_, fun hl hnone hsig => ?_, fun hl hnone hsig => ?_⟩,
    fun s src => ⟨fun h => ?_, fun hsrc hup harmed hrun hplain => ?_⟩⟩
  · exact (State.upd_serveItem_due hdue _).trans (s.upd_congr (if_pos (by simp [h])))
  · have hblock : e.identityBlock.length = 8192 := by simp only [Dev.identityBlock, List.length_append, bytesAt_length, leBytes_length]
    refine ⟨e.identityBlock, hblock, ?_, ?_, ?_⟩
    · rw [Dev.identityBlock, List.append_assoc, List.append_assoc, bytesAt_append_left _ (by simp [bytesAt_length]), bytesAt_bytesAt _ _ (by decide), bytesAt_bytesAt _ _ (by decide)]
    · have hright := bytesAt_append_right (bytesAt (bytesAt e.deriveKeys.sigPub 0 1793) 0 2048)
      rw [bytesAt_length] at hright
      rw [Dev.identityBlock, List.append_assoc, List.append_assoc, hright, bytesAt_append_left _ (by simp [bytesAt_length]), bytesAt_bytesAt _ _ (by decide), bytesAt_bytesAt _ _ (by decide)]
    · refine (State.upd_serveItem_due hdue _).trans (s.upd_congr ((if_neg (by simp [hk])).trans ?_))
      exact Dev.groupWrite_here (f := id) (bs := e.identityBlock) hga ha halign (by rw [hblock]; exact hin) hready
  · exact (State.upd_serveItem_due hdue _).trans (s.upd_congr ((if_neg (by simp [hk])).trans (Dev.groupWrite_unaligned halign _ _)))
  · obtain ⟨l, hwait, hmem⟩ := Dev.groupWrite_far (d := e) (i := i) halign hdev hne _
    exact ⟨_, l, (State.upd_serveItem_due hdue _).trans (s.upd_congr (if_neg (by simp [hk]))), hwait, hmem⟩
  · exact (State.upd_serveItem_due hdue _).trans (s.upd_congr (if_pos (by simp [h])))
  · exact (State.upd_serveItem_due hdue _).trans (s.upd_congr ((if_neg (by simp [hk])).trans (if_pos ht)))
  · subst hq
    exact (State.upd_serveItem_due hdue _).trans (s.upd_congr ((if_neg (by simp [hk])).trans ((if_neg (by simp [ht])).trans (if_pos (by simp [h1, h2])))))
  · subst hq hg
    have hnonce : (bytesAt i.body 8 32).length = 32 := bytesAt_length ..
    have hlen := e.freshKeys.report_length (numAt i.body 0 1) hnonce
    have hblock : (e.freshKeys.signedReport (numAt i.body 0 1) (bytesAt i.body 8 32)).length = 4096 := by
      simp only [Dev.signedReport, List.length_append, hlen, bytesAt_length, List.length_replicate]
    refine ⟨e.freshKeys.signedReport (numAt i.body 0 1) (bytesAt i.body 8 32), hblock, ?_, ?_⟩
    · rw [Dev.signedReport, List.append_assoc]
      exact Dev.report_nonce _ _ hnonce _
    · refine (State.upd_serveItem_due hdue _).trans (s.upd_congr ((if_neg (by simp [hk])).trans ((if_neg (by simp [ht])).trans ((if_neg ?_).trans ?_))))
      · rcases hq' with h | h
        · simp [h]
        · simp [Nat.le_of_lt_succ h]
      · exact Dev.groupWrite_here (bs := e.freshKeys.signedReport (numAt i.body 0 1) (bytesAt i.body 8 32)) hga ha halign (by rw [hblock]; exact hin) hready _
  · refine (State.upd_serveItem_due hdue _).trans (s.upd_congr (if_pos ?_))
    rcases h with h | ⟨k, hk, h⟩
    · simp [h]
    · rw [List.any_eq_true.2 ⟨k, List.mem_range.2 hk, h⟩, Bool.or_true]
  · have hfree : (List.range 24).any e.ptnExists = false := List.any_eq_false.2 fun k hk => by simp [hnone k (List.mem_range.1 hk)]
    exact (State.upd_serveItem_due hdue _).trans (s.upd_congr ((if_neg (by simp [hl, hfree])).trans (if_pos (by simp [hl, hsig]))))
  · have hfree : (List.range 24).any e.ptnExists = false := List.any_eq_false.2 fun k hk => by simp [hnone k (List.mem_range.1 hk)]
    obtain ⟨hlc, hw, hk⟩ := Dev.lcWiped_spec hl
    refine ⟨e.lcWiped.record 0xFF 0x01C5 (leBytes 1 (e.lc + 1)), (State.upd_serveItem_due hdue _).trans (s.upd_congr ((if_neg ?_).trans (if_neg ?_))), hlc, hw, hk⟩
    · simp [hfree, Nat.ne_of_lt hl]
    · simpa using hsig
  · exact s.upd_congr (Dev.tamperEvent_none (h.imp_left (congrArg BitVec.toNat)))
  · obtain ⟨h1, h2, h3, -⟩ := Dev.tampered_spec hrun src.isLt
    refine ⟨_, s.upd_congr (Dev.tamperEvent_spec ?_ src.isLt hup harmed hrun hplain), Dev.tamperLatched_tamperLatch .., h1, h2, h3⟩
    exact fun h => hsrc (BitVec.eq_of_toNat_eq h)

end Sys2Proof.Proofs

/-! SUPPORT. Frames that leave (13, R286–R290): the ports a route set names, what putting a frame on the wire touches; and the statement about it. -/

namespace Sys2Proof.Machine

/-! ### Masks -/

theorem bitOf_eq_testBit (m i : Nat) : bitOf m i = m.testBit i := by rw [bitOf, Nat.testBit_eq_decide_div_mod_eq]

/-- A mask takes up a bit. -/
theorem testBit_addBit (m i j : Nat) : (if bitOf m i then m else m + 2 ^ i).testBit j = (decide (j = i) || m.testBit j) := by
  split
  · next h =>
    rw [bitOf_eq_testBit] at h
    by_cases hj : j = i
    · rw [hj, h, Bool.or_true]
    · rw [decide_eq_false hj, Bool.false_or]
  · next h =>
    have hclear : m / 2 ^ i % 2 = 0 := by simpa [bitOf] using h
    have hset : m + 2 ^ i = setFld m i i 1 := by
      have hsplit := Nat.div_add_mod m (2 ^ (i + 1))
      rw [Nat.mod_pow_succ, hclear, Nat.mul_zero, Nat.add_zero] at hsplit
      rw [setFld, Nat.add_sub_cancel_left, pow_one, Nat.mod_eq_of_lt (by decide : 1 < 2), Nat.mul_comm (m / _)]
      omega
    rw [hset, testBit_setFld m (Nat.le_refl i)]
    by_cases hj : j = i
    · rw [if_pos ⟨hj.ge, hj.le⟩, decide_eq_true hj, hj, Nat.sub_self, Bool.true_or]
      rfl
    · rw [if_neg (by omega), decide_eq_false hj, Bool.false_or]

theorem testBit_maskOf (l : List Nat) (j : Nat) : (maskOf l).testBit j = decide (j ∈ l) := by
  have hfold : ∀ m, (l.foldl (fun m i => if bitOf m i then m else m + 2 ^ i) m).testBit j = (decide (j ∈ l) || m.testBit j) := by
    induction l with
    | nil => exact fun m => by simp
    | cons i t ih =>
      intro m
      rw [List.foldl_cons, ih, testBit_addBit, ← Bool.or_assoc]
      congr 1
      by_cases hj : j = i <;> simp [hj]
  exact (hfold 0).trans (by rw [Nat.zero_testBit, Bool.or_false])

/-- Of a mask of 16 ports that is not empty a selector picks one. -/
theorem exists_pickPort {set : Nat} (h0 : set ≠ 0) (hlt : set < 2 ^ 16) (sel : Nat) : ∃ n, pickPort set sel = some n := by
  have hpos : maskBits 16 set ≠ [] := fun hnil => h0 (Nat.eq_of_testBit_eq fun j => by
    rw [Nat.zero_testBit]
    by_cases hj : j < 16
    · have hout : j ∉ maskBits 16 set := by rw [hnil]; exact List.not_mem_nil
      rw [mem_maskBits, bitOf_eq_testBit, not_and] at hout
      exact Bool.not_eq_true _ ▸ hout hj
    · exact Nat.testBit_lt_two_pow (hlt.trans_le (Nat.pow_le_pow_right (by decide) (Nat.not_lt.1 hj))))
  exact ⟨_, List.getElem?_eq_getElem (Nat.mod_lt _ (List.length_pos_of_ne_nil hpos))⟩

theorem Dev.routeSet_lt (d : Dev) (peer : Nat) : d.routeSet peer < 2 ^ 16 := by
  unfold Dev.routeSet
  extract_lets set up
  have hset : set < 2 ^ 16 := Nat.and_lt_two_pow _ (Nat.mod_lt _ (by decide))
  have hup : up < 2 ^ 16 := by
    refine Nat.lt_pow_two_of_testBit _ fun j hj => ?_
    rw [testBit_maskOf, decide_eq_false_iff_not]
    exact fun hmem => absurd (mem_maskBits.1 (List.mem_filter.1 hmem).1).1 (Nat.not_lt.2 hj)
  split
  · exact hset
  · exact hup

/-! ### Headers -/

theorem setFld_lt {v hi lo n : Nat} (hv : v < 2 ^ n) (hlo : lo ≤ hi) (hn : hi < n) (x : Nat) : setFld v hi lo x < 2 ^ n := by
  refine Nat.lt_pow_two_of_testBit _ fun j hj => ?_
  rw [testBit_setFld v hlo, if_neg (by omega)]
  exact Nat.testBit_lt_two_pow (hv.trans_le (Nat.pow_le_pow_right (by decide) hj))

/-- The header of a frame as it goes on a path: its sequence number `tx`, the one expected, and DONE_SEQ. -/
def pathHeader (v tx expect done : Nat) : Nat := setFld (setFld (setFld v 63 32 tx) 95 64 expect) 127 96 done

/-- A header is as wide as the frame's own. -/
theorem toNat_pathHeader {w : Nat} (hw : 127 < w) (v : BitVec w) (tx expect done : Nat) :
    (BitVec.ofNat w (pathHeader v.toNat tx expect done)).toNat = pathHeader v.toNat tx expect done := by
  have hlt : pathHeader v.toNat tx expect done < 2 ^ w :=
    setFld_lt (setFld_lt (setFld_lt v.isLt (by decide) (by omega) _) (by decide) (by omega) _) (by decide) hw _
  rw [BitVec.toNat_ofNat, Nat.mod_eq_of_lt hlt]

/-! ### Frames on the wire -/

theorem Dev.port_modPort (d : Dev) (n : Nat) (f : Port → Port) : (d.modPort n f).port n = f (d.port n) := tgetD_tput_same ..

/-- A frame on the wire is sent and counted. -/
theorem Dev.putFrame_only (d : Dev) (n peer : Nat) (f : Frame) :
    d.putFrame n peer f = { d with csr := (d.putFrame n peer f).csr, cyc := (d.putFrame n peer f).cyc, sent := .frame n (d.eth n peer) f :: d.sent } :=
  Dev.addCount_only (d.out _) ..

theorem Dev.reg_putFrame {d : Dev} {n : Nat} (h : d.scrubbed (pLink n) = false) (peer : Nat) (f : Frame) :
    (d.putFrame n peer f).reg (pLink n) 0x5C = d.reg (pLink n) 0x5C + 1 := Dev.reg_addCount_same (d := d.out _) h 0x5C 1

/-- A port that sends is not one of a partition that is SCRUBBING. -/
theorem Dev.scrubbed_of_portSends {d : Dev} {n : Nat} (h : d.portSends n = true) : d.scrubbed (pLink n) = false := by
  have hports := (Bool.and_eq_true _ _ ▸ h).2
  simpa [Dev.scrubbed, imp_iff_not_or] using hports

/-- The path of a frame that goes on it: it is held for replay. -/
def Dev.pathTakes (d : Dev) (k : Nat) (w : TxFrame) (f : Frame) : Path :=
  let p := d.path k
  { p with
    tx := seqNext p.tx
    replay := p.replay ++ [{ id := w.id, seq := p.tx, frame := f, at_ := d.ao }]
    openIds := p.openIds ++ [(w.id, p.tx)]
    sentAt := if p.replay.isEmpty then d.ao else p.sentAt
    unacked := 0
    doneSent := d.doneOf k }

/-- The frame that goes on the wire for a waiting one. -/
def Dev.framed (d : Dev) (k : Nat) (w : TxFrame) : Frame := ⟨BitVec.ofNat 512 (pathHeader w.frame.num (d.path k).tx (d.path k).expect (d.doneOf k)), w.frame.data⟩

theorem Dev.framed_num (d : Dev) (k : Nat) (w : TxFrame) : (d.framed k w).num = pathHeader w.frame.num (d.path k).tx (d.path k).expect (d.doneOf k) := by
  rw [Dev.framed, Frame.num, Frame.num, toNat_pathHeader (by decide)]

theorem Dev.framed_data (d : Dev) (k : Nat) (w : TxFrame) : (d.framed k w).data = w.frame.data := by rw [Dev.framed]

/-- A waiting frame that goes on the wire. -/
def Dev.transmits (d : Dev) (n : Nat) (w : TxFrame) (rest : List TxFrame) : Dev :=
  ((d.modPort n fun x => { x with waiting := rest }).setPath (pathKey n w.peer) (d.pathTakes (pathKey n w.peer) w (d.framed (pathKey n w.peer) w))).putFrame n w.peer (d.framed (pathKey n w.peer) w)

theorem Dev.transmits_only (d : Dev) (n : Nat) (w : TxFrame) (rest : List TxFrame) : d.transmits n w rest = { d with
    csr := (d.transmits n w rest).csr, cyc := (d.transmits n w rest).cyc, sent := .frame n (d.eth n w.peer) (d.framed (pathKey n w.peer) w) :: d.sent
    ports := tput d.ports n { d.port n with waiting := rest }
    paths := tput d.paths (pathKey n w.peer) (d.pathTakes (pathKey n w.peer) w (d.framed (pathKey n w.peer) w)) } :=
  Dev.putFrame_only ..

theorem Dev.path_transmits (d : Dev) (n : Nat) (w : TxFrame) (rest : List TxFrame) :
    (d.transmits n w rest).path (pathKey n w.peer) = d.pathTakes (pathKey n w.peer) w (d.framed (pathKey n w.peer) w) := by
  rw [d.transmits_only]
  exact tgetD_tput_same ..

theorem Dev.port_transmits (d : Dev) (n : Nat) (w : TxFrame) (rest : List TxFrame) : (d.transmits n w rest).port n = { d.port n with waiting := rest } := by
  rw [d.transmits_only]
  exact tgetD_tput_same ..

theorem exec_frameTransmit {s : State} {n : Fin 16} {w : TxFrame} {rest : List TxFrame} (hwait : (s.dev.port n).waiting = w :: rest) (hsend : s.dev.portSends n = true)
    (hopen : s.dev.pathOpen (pathKey n w.peer) = true) (hroom : s.dev.replayBytes n + 64 + w.frame.data.length ≤ 2097152) :
    exec (.frameTransmit n) s = .next ⟨s.dev.transmits n w rest, s.pending⟩ := by
  have hgo : ¬ (!s.dev.portSends n || !s.dev.pathOpen (pathKey n w.peer) || decide (2097152 < s.dev.replayBytes n + 64 + w.frame.data.length)) = true := by
    simp [hsend, hopen, Nat.not_lt.2 hroom]
  refine s.upd_congr ?_
  dsimp only
  rw [hwait]
  exact if_neg hgo

/-! ### Acknowledgements (R286) -/

/-- The ACK or NAK frame of a path. -/
def Dev.ackFrame (d : Dev) (k typ : Nat) : Frame := ⟨hdrOf [(4, typ), (8, d.devnum), (16, k % 64), (64, (d.path k).expect), (96, d.doneOf k)], []⟩

/-- An acknowledgement is of the type given and for the path's peer. -/
theorem Dev.ackFrame_header (d : Dev) (k : Nat) {typ : Nat} (h : typ < 16) : (d.ackFrame k typ).typ = typ ∧ (d.ackFrame k typ).dst = k % 64 := by
  have hdev : d.devnum < 64 := Nat.mod_lt _ (by decide)
  have hnum : ∀ {hi lo : Nat}, hi < 512 → fld (d.ackFrame k typ).num hi lo = fld (1 + typ * 2 ^ 4 + d.devnum * 2 ^ 8 + k % 64 * 2 ^ 16 + (d.path k).expect * 2 ^ 64 + d.doneOf k * 2 ^ 96) hi lo :=
    fun h => by rw [Dev.ackFrame, Frame.num, hdrOf, fld_ofNat _ _ h, List.foldl_cons, List.foldl_cons, List.foldl_cons, List.foldl_cons, List.foldl_cons, List.foldl_nil]
  constructor
  · rw [Frame.typ, hnum (by decide), fld]
    omega
  · rw [Frame.dst, hnum (by decide), fld]
    omega

theorem Dev.sendAck_only (d : Dev) (k typ : Nat) : ∃ c y, d.sendAck k typ = { d with
    csr := c, cyc := y, sent := .frame (k / 64) (d.eth (k / 64) (k % 64)) (d.ackFrame k typ) :: d.sent
    paths := tput d.paths k { d.path k with unacked := 0, doneSent := d.doneOf k } } := by
  refine ⟨_, _, (congrArg (fun e : Dev => e.setPath k { d.path k with unacked := 0, doneSent := d.doneOf k }) (d.putFrame_only (k / 64) (k % 64) (d.ackFrame k typ))).trans rfl⟩

/-! ### Replay (R286, R287) -/

/-- The frames of a path, held for replay, go on the wire again in order. -/
theorem Dev.out_replay (d : Dev) (n q : Nat) (l : List RepFrame) :
    l.foldl (fun (d : Dev) r => d.out (.frame n (d.eth n q) r.frame)) d = { d with sent := (l.reverse.map fun r => .frame n (d.eth n q) r.frame) ++ d.sent } := by
  induction l generalizing d with
  | nil => rfl
  | cons r l ih =>
    rw [List.foldl_cons, ih, List.reverse_cons, List.map_append, List.append_assoc]
    rfl

/-- The path of frames that are sent again. -/
def Dev.pathResent (d : Dev) (k : Nat) : Path :=
  let p := d.path k
  { p with replay := p.replay.map fun r => { r with at_ := d.ao }, sentAt := d.ao, resends := p.resends + 1 }

theorem Dev.resend_only (d : Dev) (k : Nat) : ∃ c y, d.resend k = { d with
    csr := c, cyc := y, sent := ((d.path k).replay.reverse.map fun r => .frame (k / 64) (d.eth (k / 64) (k % 64)) r.frame) ++ d.sent
    paths := tput d.paths k (d.pathResent k) } := by
  unfold Dev.resend
  dsimp only
  rw [Dev.out_replay, Dev.addCount_only]
  exact ⟨_, _, rfl⟩

theorem exec_replayTimeout_early {s : State} {n : Fin 16} {q : Fin 64}
    (h : s.dev.ao < (s.dev.path (pathKey n q)).sentAt + s.dev.getF (pLink n) 0x54 15 0) : exec (.replayTimeout n q) s = .next s :=
  s.upd_congr (if_neg (by simp [h]))

theorem exec_replayTimeout_due {s : State} {n : Fin 16} {q : Fin 64} (hsend : s.dev.portSends n = true) (hopen : s.dev.pathOpen (pathKey n q) = true)
    (hheld : (s.dev.path (pathKey n q)).replay ≠ []) (hgood : ∀ r ∈ (s.dev.path (pathKey n q)).replay, r.bad = false)
    (htime : (s.dev.path (pathKey n q)).sentAt + s.dev.getF (pLink n) 0x54 15 0 ≤ s.dev.ao)
    (hlimit : (s.dev.path (pathKey n q)).resends < s.dev.getF (pLink n) 0x54 19 16) :
    exec (.replayTimeout n q) s = .next ⟨s.dev.resend (pathKey n q), s.pending⟩ := by
  have hport : pathKey n q / 64 = n := by simp only [pathKey]; omega
  have hbad : (s.dev.path (pathKey n q)).replay.any RepFrame.bad = false := List.any_eq_false.2 fun r hr => by simp [hgood r hr]
  refine s.upd_congr ((if_pos ?_).trans (if_neg ?_))
  · simp [hsend, hopen, hheld, htime]
  · simp [hbad, hport, Nat.not_le.2 hlimit]

/-! ### Routes (R290) -/

/-- A held operation that is not a request joins the port that its selector picks. -/
theorem Dev.routeOp_held {d : Dev} {o : HeldOp} {n : Nat} (hreq : o.req = none) (hport : pickPort (tgetD d.routes o.peer 0) o.sel = some n) :
    d.routeOp o = d.enqueue n o.peer o.id o.frame := by
  rw [Dev.routeOp, hport]
  dsimp only
  rw [hreq]

/-- A frame that waits for a port still waits when another one joins. -/
theorem Dev.waiting_enqueue (d : Dev) {n m peer id : Nat} {f : Frame} {w : TxFrame} (h : w ∈ (d.port m).waiting) : w ∈ ((d.enqueue n peer id f).port m).waiting := by
  by_cases hm : m = n
  · subst hm
    rw [Dev.enqueue, Dev.port_modPort]
    exact List.mem_append_left _ h
  · rwa [Dev.enqueue, Dev.port, Dev.modPort, tgetD_tput_ne _ _ _ hm]

/-- `d'` differs from `d` in the ports alone, and lost no waiting frame. -/
def Dev.PortsGrow (d d' : Dev) : Prop := d' = { d with ports := d'.ports } ∧ ∀ m w, w ∈ (d.port m).waiting → w ∈ (d'.port m).waiting

theorem Dev.PortsGrow.trans {a b c : Dev} (h : a.PortsGrow b) (h' : b.PortsGrow c) : a.PortsGrow c :=
  ⟨by rw [h'.1, h.1], fun m w hw => h'.2 m w (h.2 m w hw)⟩

theorem Dev.portsGrow_enqueue (d : Dev) (n peer id : Nat) (f : Frame) : d.PortsGrow (d.enqueue n peer id f) := ⟨rfl, fun _ _ hw => d.waiting_enqueue hw⟩

/-- The held operations of a peer with a route go to the ports that their selectors pick. -/
theorem Dev.routeOps_go {d : Dev} {l : List HeldOp} (hreq : ∀ o ∈ l, o.req = none) (hroute : ∀ o ∈ l, tgetD d.routes o.peer 0 ≠ 0 ∧ tgetD d.routes o.peer 0 < 2 ^ 16) :
    d.PortsGrow (l.foldl Dev.routeOp d) ∧
      ∀ o ∈ l, ∀ n, pickPort (tgetD d.routes o.peer 0) o.sel = some n → ⟨o.id, o.peer, o.frame⟩ ∈ ((l.foldl Dev.routeOp d).port n).waiting := by
  induction l generalizing d with
  | nil => exact ⟨⟨rfl, fun _ _ h => h⟩, fun o ho => absurd ho List.not_mem_nil⟩
  | cons o l ih =>
    obtain ⟨h0, hlt⟩ := hroute o List.mem_cons_self
    obtain ⟨n, hn⟩ := exists_pickPort h0 hlt o.sel
    rw [List.foldl_cons, Dev.routeOp_held (hreq o List.mem_cons_self) hn]
    obtain ⟨hgrow, hgo⟩ := ih (d := d.enqueue n o.peer o.id o.frame) (fun o' ho' => hreq o' (List.mem_cons_of_mem _ ho')) fun o' ho' => hroute o' (List.mem_cons_of_mem _ ho')
    refine ⟨(d.portsGrow_enqueue ..).trans hgrow, fun o' ho' m hm => ?_⟩
    rcases List.mem_cons.1 ho' with rfl | ho'
    · obtain rfl := Option.some.inj (hn.symm.trans hm)
      refine hgrow.2 n _ ?_
      rw [Dev.enqueue, Dev.port_modPort]
      exact List.mem_append_right _ (List.mem_singleton_self _)
    · exact hgo o' ho' m hm

end Sys2Proof.Machine

namespace Sys2Proof.Proofs
open Sys2Proof Sys2Proof.Machine

/-- Settles O40: what a frame takes of its path is written to the path before the frame is counted, and a route set that is not empty picks a port for every held operation. -/
theorem framesLeave : Obligations.FramesLeave := by
  unfold Obligations.FramesLeave
  refine ⟨fun s n => ⟨fun h => ?idle, fun w rest k hwait hk hpeer hsend hopen hroom => ?transmit⟩,
    fun s n q k hk => ⟨fun hsend hopen hcount => ?ack, fun h1 h2 => ?quiet, fun hsend hopen hheld hgood htime hlimit => ?replay, fun h => ?early⟩,
    fun s q => ⟨fun h => s.upd_congr (if_pos (by simp [h])), fun h0 hbusy hreq => ?route⟩⟩
  case idle =>
    refine s.upd_congr ?_
    dsimp only
    rw [h]
  case transmit =>
    subst hk
    have hpath := s.dev.path_transmits n w rest
    have honly := s.dev.transmits_only n w rest
    refine ⟨_, s.dev.framed (pathKey n w.peer) w, exec_frameTransmit hwait hsend hopen hroom, ?_, s.dev.framed_data _ w, ?_, ?_, ?_, ?_, ?_, ?_, ?_⟩
    · rw [Dev.port_transmits]
    · rw [Dev.framed_num, pathHeader]
    · rw [hpath, Dev.pathTakes, seqNext]
    · rw [hpath]
      exact ⟨_, rfl, rfl, rfl, rfl, rfl⟩
    · rw [hpath, Dev.pathTakes]
    · rw [honly]
    · exact Dev.reg_putFrame (d := (s.dev.modPort n fun x => { x with waiting := rest }).setPath _ _) (Dev.scrubbed_of_portSends hsend) _ _
    · rw [honly]
  case ack =>
    obtain ⟨c, y, honly⟩ := s.dev.sendAck_only (pathKey n q) 1
    obtain ⟨htyp, hdst⟩ := s.dev.ackFrame_header (pathKey n q) (by decide : 1 < 16)
    have hkey : pathKey n q / 64 = n ∧ pathKey n q % 64 = q := by
      simp only [pathKey]
      omega
    have hpath : (s.dev.sendAck (pathKey n q) 1).path (pathKey n q) = { s.dev.path (pathKey n q) with unacked := 0, doneSent := s.dev.doneOf (pathKey n q) } := by
      rw [honly]
      exact tgetD_tput_same ..
    subst hk
    refine ⟨s.dev.sendAck (pathKey n q) 1, s.dev.ackFrame (pathKey n q) 1, s.upd_congr (if_pos ?_), ?_, htyp, hdst.trans hkey.2, ?_, ?_, ?_⟩
    · simp [hsend, hopen, hcount]
    · rw [honly, hkey.1, hkey.2]
    · rw [hpath]
    · rw [hpath]
    · rw [honly]
  case quiet =>
    subst hk
    exact s.upd_congr (if_neg (by simp [h1, h2]))
  case replay =>
    obtain ⟨c, y, honly⟩ := s.dev.resend_only (pathKey n q)
    have hkey : pathKey n q / 64 = n ∧ pathKey n q % 64 = q := by
      simp only [pathKey]
      omega
    have hpath : (s.dev.resend (pathKey n q)).path (pathKey n q) = s.dev.pathResent (pathKey n q) := by
      rw [honly]
      exact tgetD_tput_same ..
    subst hk
    refine ⟨_, exec_replayTimeout_due hsend hopen hheld hgood htime hlimit, ?_, ?_, ?_, ?_, ?_⟩
    · rw [honly, hkey.1, hkey.2]
    · rw [hpath]
      rfl
    · rw [hpath]
      rfl
    · rw [hpath]
      rfl
    · rw [honly]
  case early =>
    subst hk
    exact exec_replayTimeout_early h
  case route =>
    have hroutes : ∀ o ∈ s.dev.heldOps.filter (fun o => o.peer = q.val), tgetD (tput s.dev.routes q (s.dev.routeSet q)) o.peer 0 = s.dev.routeSet q := fun o ho => by
      rw [of_decide_eq_true (List.mem_filter.1 ho).2, tgetD_tput_same]
    obtain ⟨⟨honly, -⟩, hgo⟩ := Dev.routeOps_go (d := { s.dev with routes := tput s.dev.routes q (s.dev.routeSet q), heldOps := s.dev.heldOps.filter fun o => o.peer ≠ q.val })
      (l := s.dev.heldOps.filter fun o => o.peer = q.val) (fun o ho => hreq o (List.mem_filter.1 ho).1 (of_decide_eq_true (List.mem_filter.1 ho).2))
      (fun o ho => by rw [hroutes o ho]; exact ⟨h0, s.dev.routeSet_lt q⟩)
    refine ⟨_, s.upd_congr (if_neg ?_), ?_, ?_, fun o ho hpeer n hn => ?_, ?_, ?_⟩
    · simp only [Bool.or_eq_true, Bool.and_eq_true, decide_eq_true_eq, not_or, not_and, Bool.not_eq_true]
      exact ⟨h0, fun hne => hbusy.resolve_right hne⟩
    · rw [honly]
      exact tget?_tput_same ..
    · rw [honly]
    · have hmine : o ∈ s.dev.heldOps.filter fun o => o.peer = q.val := List.mem_filter.2 ⟨ho, decide_eq_true hpeer⟩
      exact hgo o hmine n (by rw [hroutes o hmine]; exact hn)
    · rw [honly]
    · rw [honly]

end Sys2Proof.Proofs

/-! SUPPORT. Control frames that arrive (13, R285–R287; 20, R436): what taking an ACK_SEQ touches, a path that goes down with nothing outstanding; and the statement about them. -/

namespace Sys2Proof.Machine

/-! ### Frames for this device -/

/-- An ACTIVE device is not woken by a frame. -/
theorem Dev.frameWakes_active {d : Dev} (h : d.devPower = 0) (n : Nat) (data : Bool) : d.frameWakes n data = d := by
  unfold Dev.frameWakes
  simp [h]

theorem Dev.rxFrame_here {d : Dev} {n dst : Nat} (hup : d.portUp n = true) (hpower : d.devPower = 0) (hdst : dst = d.devnum) (data : Bool) (f : Dev → Dev) :
    d.rxFrame n dst data f = f d := by
  rw [Dev.rxFrame, if_neg (by simp [hup]), Dev.frameWakes_active hpower]
  exact if_neg (not_not.2 hdst)

theorem Dev.rxFrame_other {d : Dev} {n dst : Nat} (hup : d.portUp n = true) (hpower : d.devPower = 0) (hdst : dst ≠ d.devnum) (data : Bool) (f : Dev → Dev) :
    d.rxFrame n dst data f = d.addCount (pLink n) 0x68 1 := by
  rw [Dev.rxFrame, if_neg (by simp [hup]), Dev.frameWakes_active hpower]
  exact if_pos hdst

theorem Dev.rxCtl_hears {d : Dev} {n : Nat} {f : Frame} (h : d.Hears n f) (g : Dev → Nat → Dev) :
    d.rxCtl n f g = g ((d.addCount (pLink n) 0x60 1).heard (pathKey n f.src) f) (pathKey n f.src) := by
  obtain ⟨hup, hpower, hdst, hopen⟩ := h
  rw [Dev.rxCtl, Dev.rxFrame_here hup hpower hdst]
  exact if_neg (by simp [hopen])

theorem Dev.rxCtl_closed {d : Dev} {n : Nat} {f : Frame} (hup : d.portUp n = true) (hpower : d.devPower = 0) (hdst : f.dst = d.devnum)
    (hclosed : d.pathOpen (pathKey n f.src) = false) (g : Dev → Nat → Dev) : d.rxCtl n f g = d.addCount (pLink n) 0x68 1 := by
  rw [Dev.rxCtl, Dev.rxFrame_here hup hpower hdst]
  exact if_pos (by simp [hclosed])

theorem Frame.src_lt (f : Frame) : f.src < 64 := Nat.mod_lt _ (by decide)

theorem pathKey_port {n q : Nat} (h : q < 64) : pathKey n q / 64 = n ∧ pathKey n q % 64 = q := by
  simp only [pathKey]
  omega

/-! ### What acknowledgements touch (R286, R293) -/

theorem Dev.ao_addCount (d : Dev) (p : Page) (off n : Nat) : (d.addCount p off n).ao = d.ao := by rw [Dev.addCount_only]

/-- The count of accepted frames is of a port: the registers of the path, of the Ethernet header and of the power state stay. -/
theorem Dev.reg_accepted (d : Dev) (n : Nat) {p : Page} {off : Nat} (h : p.base + off ≠ (pLink n).base + 0x60) : (d.addCount (pLink n) 0x60 1).reg p off = d.reg p off :=
  (d.sameRegsBut_addCount (pLink n) 0x60 1).reg_of_ne (by simpa using h)

theorem Dev.pathOpen_accepted (d : Dev) (n k : Nat) : (d.addCount (pLink n) 0x60 1).pathOpen k = d.pathOpen k :=
  congrArg (wbit · (k / 64)) (d.reg_accepted n (by simp only [Page.base]; omega))

theorem Dev.devPower_accepted (d : Dev) (n : Nat) : (d.addCount (pLink n) 0x60 1).devPower = d.devPower :=
  congrArg (wfld · 2 0) (d.reg_accepted n (by simp only [Page.base]; omega))

theorem Dev.eth_accepted (d : Dev) (n : Nat) {q : Nat} (hq : q < 64) : (d.addCount (pLink n) 0x60 1).eth n q = d.eth n q := by
  have hlink : ∀ off, off ≠ 0x60 → (d.addCount (pLink n) 0x60 1).reg (pLink n) off = d.reg (pLink n) off := fun off h => d.reg_accepted n (by omega)
  have hdev : ∀ off, off < 0x10000 → (d.addCount (pLink n) 0x60 1).reg pDev off = d.reg pDev off := fun off h => d.reg_accepted n (by simp only [Page.base]; omega)
  simp only [Dev.eth, Dev.getF]
  rw [hlink 0x40 (by decide), hlink 0x44 (by decide), hlink 0x48 (by decide), hlink 0x58 (by decide), hdev _ (by omega), hdev _ (by omega)]

theorem Dev.ao_sentFar (d : Dev) (l : List Byte) : (d.sentFar l).ao = d.ao := (Dev.ao_addCount ..).trans (Dev.ao_addCount ..)

theorem Dev.SendsOnly.ao {d d' : Dev} (h : d.SendsOnly d') : d'.ao = d.ao := by rw [h]
theorem Dev.Posts.ao {d d' : Dev} (h : d.Posts d') : d'.ao = d.ao := by rw [h.only]

theorem Dev.ao_afterDone (d : Dev) : d.afterDone.ao = d.ao := by
  unfold Dev.afterDone
  extract_lets out d₁ d₂ ready d₃
  have h₂ : d₂.ao = d.ao := Dev.foldl_holds (P := fun e => e.ao = d.ao) (fun e m _ he => (e.ao_sentFar _).trans he) rfl
  exact Dev.foldl_holds (P := fun e => e.ao = d.ao) (fun e w _ he => (e.sendsOnly_sendOp w.op).ao.trans he) h₂

theorem Dev.ao_heard (d : Dev) (k : Nat) (f : Frame) : (d.heard k f).ao = d.ao := by
  unfold Dev.heard Dev.replyDone
  extract_lets ready e
  have he : e.ao = d.ao := (Dev.ao_afterDone _).trans rfl
  exact Dev.foldl_holds (P := fun e => e.ao = d.ao) (fun e w _ h => (e.posts_post ..).ao.trans h) he

/-! ### A path goes down with nothing outstanding (R287) -/

theorem Dev.resendMsgs_none {d : Dev} (h : d.outMsgs = []) (gone : List Nat) : d.resendMsgs gone = d := by
  unfold Dev.resendMsgs
  simp only [h, List.filter_nil, List.foldl_nil]
  rw [← h]

/-- Without a message or a signal that waits a DONE_SEQ only frees transfers of the copiers. -/
theorem Dev.afterDone_none {d : Dev} (hout : d.outMsgs = []) (hsig : d.sigWaits = []) : d.afterDone = { d with dmas := d.afterDone.dmas, outMsgs := [], sigWaits := [] } := by
  unfold Dev.afterDone
  simp only [hout, hsig, List.filter_nil, List.foldl_nil]

/-- A path with nothing outstanding that goes down: its fault is of the port, and nothing is sent again. -/
theorem Dev.pathDown_quiet {d : Dev} {k : Nat} (hopen : d.pathOpen k = true) (hreplay : (d.path k).replay = [])
    (hwait : (d.port (k / 64)).waiting = []) (hreqs : d.reqs = []) (hout : d.outMsgs = []) (hsig : d.sigWaits = []) :
    ∃ (e : Dev) (c i l : Nat) (g : List Nat), d.pathDown k = (((e.fault (pLink (k / 64)) c i).pathEvent k false l).resendMsgs g).afterDone ∧
      e.csr = (d.setBit pDev (0x300 + 4 * (k % 64)) (k / 64) false).csr ∧ e.paths = tput d.paths k {} ∧ e.mem = d.mem ∧ e.outMsgs = [] ∧ e.sigWaits = [] := by
  rw [Dev.pathDown, if_neg (by simp [hopen])]
  extract_lets n peer p waiting gone lost d₁ d₂ d₃ mine d₄ d₅ d₆ jobs d₇
  have hwaiting : waiting = [] := List.filter_eq_nil_iff.2 fun w hw => absurd (hwait ▸ hw) List.not_mem_nil
  have h₃ : d₃ = d₂ := by simp only [d₃, hwaiting, List.foldl_nil]
  have hmine : mine = [] := List.filter_eq_nil_iff.2 fun r hr => by
    have hr' : r ∈ d₃.reqs := hr
    rw [h₃] at hr'
    exact absurd (hreqs ▸ hr') List.not_mem_nil
  have hjobs : jobs = [] := by simp only [jobs, hmine, p, hreplay, List.filter_nil, List.map_nil, List.append_nil]
  have h₇ : d₇ = d₆ := by simp only [d₇, hjobs, List.eraseDups_nil, List.filter_nil, List.foldl_nil]
  refine ⟨d₄, 0x6001, peer + n * 256 + min lost 65535 * 65536, lost, gone ++ waiting.map TxFrame.id, ?_, ?_, ?_, ?_, ?_, ?_⟩
  · rw [h₇]
  · exact (congrArg Dev.csr h₃).trans rfl
  · exact (congrArg Dev.paths h₃).trans rfl
  · exact (congrArg Dev.mem h₃).trans rfl
  · exact (congrArg Dev.outMsgs h₃).trans hout
  · refine List.filter_eq_nil_iff.2 fun w hw => ?_
    rw [h₃] at hw
    exact absurd (hsig ▸ hw) List.not_mem_nil

/-- What a fault of a port leaves. -/
theorem Dev.pathDown_closed {d : Dev} {k : Nat} (hk : k / 64 < 16) (hopen : d.pathOpen k = true) (hreplay : (d.path k).replay = [])
    (hwait : (d.port (k / 64)).waiting = []) (hreqs : d.reqs = []) (hout : d.outMsgs = []) (hsig : d.sigWaits = []) :
    (d.pathDown k).pathOpen k = false ∧ (d.pathDown k).path k = {} ∧ (d.pathDown k).bit (pLink (k / 64)) 0x10 evFault = true ∧ (d.pathDown k).mem = d.mem := by
  obtain ⟨e, c, i, l, g, hrun, hcsr, hpaths, hmem, hout', hsig'⟩ := Dev.pathDown_quiet hopen hreplay hwait hreqs hout hsig
  have hfault := e.regsOnly_fault (pLink (k / 64)) c i
  have hkeep : ∀ t : Dev, t.outMsgs = [] → t.sigWaits = [] → ((t.pathEvent k false l).resendMsgs g).afterDone.csr = t.csr ∧
      ((t.pathEvent k false l).resendMsgs g).afterDone.paths = t.paths ∧ ((t.pathEvent k false l).resendMsgs g).afterDone.mem = t.mem := fun t ho hs => by
    rw [Dev.resendMsgs_none (d := t.pathEvent k false l) ho, Dev.afterDone_none (d := t.pathEvent k false l) ho hs]
    exact ⟨rfl, rfl, rfl⟩
  obtain ⟨hcsr', hpaths', hmem'⟩ := hkeep (e.fault (pLink (k / 64)) c i) (by rw [hfault]; exact hout') (by rw [hfault]; exact hsig')
  have hopened : ((e.fault (pLink (k / 64)) c i).bit pDev (0x300 + 4 * (k % 64)) (k / 64)) = false := by
    have hreg : (e.fault (pLink (k / 64)) c i).reg pDev (0x300 + 4 * (k % 64)) = e.reg pDev (0x300 + 4 * (k % 64)) :=
      (e.sameRegsBut_fault (pLink (k / 64)) c i).reg_of_ne fun o _ => by
        simp only [Page.base]
        omega
    rw [Dev.bit, hreg, Dev.reg, hcsr]
    exact d.bit_setBit_same pDev (0x300 + 4 * (k % 64)) (k / 64) false (by omega)
  rw [hrun]
  refine ⟨?_, ?_, ?_, hmem'.trans (hfault.mem.trans hmem)⟩
  · rw [Dev.pathOpen, Dev.bit, Dev.reg, hcsr']
    exact hopened
  · rw [Dev.path, hpaths', show (e.fault (pLink (k / 64)) c i).paths = e.paths by rw [hfault], hpaths]
    exact tgetD_tput_same ..
  · rw [Dev.bit, Dev.reg, hcsr']
    exact (e.fault_noted (pLink (k / 64)) c i).1

/-! ### Opening a path (R287) -/

/-- The LINK_CTRL frame to a peer. -/
def Dev.ctrlFrame (d : Dev) (peer : Nat) : Frame := ⟨hdrOf [(4, 3), (8, d.devnum), (16, peer)], []⟩

theorem Dev.ctrlFrame_typ (d : Dev) (peer : Nat) : (d.ctrlFrame peer).typ = 3 := by
  have hdev : d.devnum < 64 := Nat.mod_lt _ (by decide)
  rw [Frame.typ, Dev.ctrlFrame, Frame.num, hdrOf, fld_ofNat _ _ (by decide), List.foldl_cons, List.foldl_cons, List.foldl_cons, List.foldl_nil, fld]
  dsimp only
  omega

/-- A path that opens answers, and starts at sequence number 0. -/
theorem Dev.openPath_answered (d : Dev) {n q : Nat} (hn : n < 16) (hq : q < 64) :
    ((d.sendCtrl n q).openPath (pathKey n q)).pathOpen (pathKey n q) = true ∧ ((d.sendCtrl n q).openPath (pathKey n q)).path (pathKey n q) = {} ∧
      ((d.sendCtrl n q).openPath (pathKey n q)).sent = .frame n (d.eth n q) (d.ctrlFrame q) :: d.sent ∧ ((d.sendCtrl n q).openPath (pathKey n q)).mem = d.mem := by
  have honly := d.putFrame_only n q (d.ctrlFrame q)
  refine ⟨?_, tgetD_tput_same .., ?_, ?_⟩
  · exact Dev.bit_setBit_same ((d.sendCtrl n q).setPath _ {}) pDev _ _ true (by rw [(pathKey_port hq).1]; omega)
  · exact (congrArg Dev.sent honly : (d.putFrame n q (d.ctrlFrame q)).sent = _)
  · exact (congrArg Dev.mem honly : (d.putFrame n q (d.ctrlFrame q)).mem = _)

end Sys2Proof.Machine

namespace Sys2Proof.Proofs
open Sys2Proof Sys2Proof.Machine

/-- Settles O41: an ACTIVE device is not woken by a frame, taking an ACK_SEQ passes no time, and with nothing outstanding a path that goes down has no job to fault and nothing to send again. -/
theorem controlFramesArrive : Obligations.ControlFramesArrive := by
  unfold Obligations.ControlFramesArrive
  refine fun s n hdr fr => ⟨fun hfr h => ?_, fun hfr hup hpower hdst hclosed => ?_, fun e hfr h he => ⟨fun hnone => ?nakIdle, fun hheld hgood hsend hlimit => ?nak⟩,
    fun hfr hup hpower hdst => ⟨fun hopen => ?_, fun hclosed => ?_, fun hopen h1 h2 h3 h4 h5 h6 => ?close, fun hclosed => ?opened⟩,
    fun hfr hup hpower => ⟨fun hdst => ?_, fun hdst => ?_⟩, fun hfr hup hpower hdst => ?wake⟩
  all_goals subst hfr
  · exact s.upd_congr (Dev.rxCtl_hears h _)
  · exact s.upd_congr (Dev.rxCtl_closed hup hpower hdst hclosed _)
  case nakIdle =>
    subst he
    exact s.upd_congr ((Dev.rxCtl_hears h _).trans (if_pos (by simp [hnone])))
  case nak =>
    subst he
    obtain ⟨hport, hpeer⟩ := pathKey_port (n := n) (wireFrame 2 none hdr []).src_lt
    have hbad : ((((s.dev.addCount (pLink n) 0x60 1).heard (pathKey n (wireFrame 2 none hdr []).src) (wireFrame 2 none hdr [])).path (pathKey n (wireFrame 2 none hdr []).src)).replay.any RepFrame.bad) = false :=
      List.any_eq_false.2 fun r hr => by simp [hgood r hr]
    have hao := (Dev.ao_heard (s.dev.addCount (pLink n) 0x60 1) (pathKey n (wireFrame 2 none hdr []).src) (wireFrame 2 none hdr [])).trans (Dev.ao_addCount ..)
    generalize hg : (s.dev.addCount (pLink n) 0x60 1).heard (pathKey n (wireFrame 2 none hdr []).src) (wireFrame 2 none hdr []) = g at *
    have hrun : exec (.nak n hdr) s = .next ⟨g.resend (pathKey n (wireFrame 2 none hdr []).src), s.pending⟩ := by
      refine s.upd_congr ((Dev.rxCtl_hears h _).trans ?_)
      rw [hg]
      refine (if_neg ?_).trans (if_neg ?_)
      · simp [hheld, hsend]
      · rw [hbad, hport]
        simp [Nat.not_le.2 hlimit]
    obtain ⟨c, y, honly⟩ := g.resend_only (pathKey n (wireFrame 2 none hdr []).src)
    have hpath : (g.resend (pathKey n (wireFrame 2 none hdr []).src)).path (pathKey n (wireFrame 2 none hdr []).src) = g.pathResent (pathKey n (wireFrame 2 none hdr []).src) := by
      rw [honly]
      exact tgetD_tput_same ..
    refine ⟨_, hrun, ?_, ?_, ?_, ?_⟩
    · rw [honly, hport, hpeer]
    · rw [hpath]
      rfl
    · rw [hpath]
      exact hao
    · rw [honly]
  · exact s.upd_congr ((Dev.rxFrame_here hup hpower hdst _ _).trans ((if_pos rfl).trans (if_pos ((Dev.pathOpen_accepted ..).trans hopen))))
  · exact s.upd_congr ((Dev.rxFrame_here hup hpower hdst _ _).trans ((if_neg Bool.false_ne_true).trans (if_pos (by rw [Dev.pathOpen_accepted, hclosed]; rfl))))
  case close =>
    obtain ⟨hport, -⟩ := pathKey_port (n := n) (wireFrame 3 none hdr []).src_lt
    have honly := s.dev.addCount_only (pLink n) 0x60 1
    obtain ⟨hclosed, hpath, hfault, hmem⟩ := Dev.pathDown_closed (d := s.dev.addCount (pLink n) 0x60 1) (k := pathKey n (wireFrame 3 none hdr []).src) (by rw [hport]; exact n.isLt)
      ((Dev.pathOpen_accepted ..).trans hopen) (by rw [honly]; exact h1) (by rw [honly, hport]; exact h3) (by rw [honly]; exact h4) (by rw [honly]; exact h5) (by rw [honly]; exact h6)
    rw [hport] at hfault
    exact ⟨_, s.upd_congr (Dev.rxFrame_here hup hpower hdst _ _), hclosed, hpath, hfault, hmem.trans (Dev.addCount_mem ..)⟩
  case opened =>
    obtain ⟨h1, h2, h3, h4⟩ := (s.dev.addCount (pLink n) 0x60 1).openPath_answered n.isLt (wireFrame 3 none hdr []).src_lt
    refine ⟨_, _, s.upd_congr ((Dev.rxFrame_here hup hpower hdst _ _).trans ((if_pos rfl).trans (if_neg ?_))), h1, ?_, ?_, ?_, Dev.ctrlFrame_typ (s.dev.addCount (pLink n) 0x60 1) (wireFrame 3 none hdr []).src, ?_⟩
    · rw [Dev.pathOpen_accepted, hclosed]
      exact Bool.false_ne_true
    · rw [h2]
    · rw [h2]
    · rw [h3, Dev.eth_accepted _ _ (wireFrame 3 none hdr []).src_lt, Dev.addCount_only]
    · exact h4.trans (Dev.addCount_mem ..)
  · exact s.upd_congr (Dev.rxFrame_here hup hpower hdst _ _)
  · exact s.upd_congr (Dev.rxFrame_other hup hpower hdst _ _)
  case wake =>
    exact s.upd_congr ((Dev.rxFrame_here hup hpower hdst _ _).trans (if_neg (by rw [Dev.devPower_accepted, hpower]; simp)))

end Sys2Proof.Proofs

/-! SUPPORT. Queue pairs of the host bridge (14, R296–R299, R311): words of the window, what sending on a queue pair touches; and the statement about answers and recovery. -/

namespace Sys2Proof.Machine

/-! ### Words of a queue pair -/

theorem Dev.qp_of_qps {d e : Dev} (h : e.qps = d.qps) (k : Nat) : e.qp k = d.qp k := by rw [Dev.qp, h, Dev.qp]

theorem Dev.qp_setQp (d : Dev) (k : Nat) (q : Qp) : (d.setQp k q).qp k = q := tgetD_tput_same ..

theorem Dev.qp_setQp_ne (d : Dev) {k j : Nat} (q : Qp) (h : j ≠ k) : (d.setQp k q).qp j = d.qp j := tgetD_tput_ne _ _ _ h

theorem Qp.word_setWord (q : Qp) (off : Nat) (w : Word) : (q.setWord off w).word off = w := tgetD_tput_same ..

theorem Qp.word_setWord_ne (q : Qp) {off o : Nat} (w : Word) (h : o ≠ off) : (q.setWord off w).word o = q.word o := tgetD_tput_ne _ _ _ h

/-- A queue pair in ERROR: the syndrome stands, and what it had received is not answered. -/
def Qp.failed (q : Qp) (syn : Nat) : Qp := { (q.setSt qsError).setWord 0x30 (BitVec.ofNat 32 (syn % 65536)) with writes := [], reads := [] }

theorem Qp.failed_spec (q : Qp) {syn : Nat} (h : syn < 65536) : (q.failed syn).st = qsError ∧ (q.failed syn).word 0x30 = BitVec.ofNat 32 syn ∧ (q.failed syn).writes = [] := by
  have hst : (q.failed syn).word 0 = wput (q.word 0) 1 0 qsError := ((q.setSt qsError).word_setWord_ne _ (by decide)).trans (q.word_setWord ..)
  refine ⟨?_, ?_, rfl⟩
  · exact (congrArg (wfld · 1 0) hst).trans (wfld_wput _ _ (by decide))
  · exact ((q.setSt qsError).word_setWord ..).trans (by rw [Nat.mod_eq_of_lt h])

/-! ### Packets that the bridge sends (R296) -/

/-- The encapsulation rests on the window's words but the PSNs, and on addresses of the port. -/
theorem Dev.roce_of_words {d e : Dev} {n slot : Nat} (hword : ∀ off, off ≠ 8 ∧ off ≠ 0xC → (e.qp (qpKey n slot)).word off = (d.qp (qpKey n slot)).word off)
    (hreg : ∀ off < 0x58, e.reg (pHbr n) off = d.reg (pHbr n) off) (psn : Nat) : e.roce n slot psn = d.roce n slot psn := by
  have haddr : ∀ {b : Bool} {i : Nat}, i < 4 → e.reg (pHbr n) ((if b then 0x48 else 0x44) + 4 * i) = d.reg (pHbr n) ((if b then 0x48 else 0x44) + 4 * i) := fun {b i} hi =>
    hreg _ (by cases b <;> simp <;> omega)
  have hpeer : ∀ i, (e.qp (qpKey n slot)).word (0x20 + 4 * i) = (d.qp (qpKey n slot)).word (0x20 + 4 * i) := fun i => hword _ (by omega)
  simp only [Dev.roce, hword 0 (by decide), hword 4 (by decide), hword 0x18 (by decide), hword 0x1C (by decide), hpeer,
    haddr (by decide : 0 < 4), haddr (by decide : 1 < 4), haddr (by decide : 2 < 4), haddr (by decide : 3 < 4)]

theorem Dev.roce_congr {d e : Dev} {n slot : Nat} (hwin : (e.qp (qpKey n slot)).win = (d.qp (qpKey n slot)).win)
    (hreg : ∀ off < 0x58, e.reg (pHbr n) off = d.reg (pHbr n) off) (psn : Nat) : e.roce n slot psn = d.roce n slot psn :=
  Dev.roce_of_words (fun off _ => congrArg (tgetD · off (qpReset off)) hwin) hreg psn

/-- `d'` differs from `d` in what a packet on the wire may touch only: what is sent, and the port's counts. -/
structure Dev.Packets (d d' : Dev) (n : Nat) : Prop where
  only : d' = { d with csr := d'.csr, cyc := d'.cyc, sent := d'.sent }
  reg : ∀ off < 0x58, d'.reg (pHbr n) off = d.reg (pHbr n) off

theorem Dev.packets_sent (d : Dev) (n : Nat) (o : Sent) (off c : Nat) (h : 0x58 ≤ off) : d.Packets ((d.out o).addCount (pHbr n) off c) n :=
  ⟨by rw [Dev.addCount_only]; rfl, fun o' ho' => ((d.out o).sameRegsBut_addCount (pHbr n) off c).reg (by simp; omega)⟩

theorem Dev.Packets.trans {a b c : Dev} {n : Nat} (h : a.Packets b n) (h' : b.Packets c n) : a.Packets c n :=
  ⟨by rw [h'.only, h.only], fun off ho => (h'.reg off ho).trans (h.reg off ho)⟩

theorem Dev.Packets.roce {d d' : Dev} {n : Nat} (h : d.Packets d' n) (slot psn : Nat) : d'.roce n slot psn = d.roce n slot psn :=
  Dev.roce_congr (by rw [h.only]; rfl) h.reg psn

theorem Dev.sent_out_addCount (d : Dev) (o : Sent) (p : Page) (off c : Nat) : ((d.out o).addCount p off c).sent = o :: d.sent := by
  rw [Dev.addCount_only]
  rfl

/-- The requests of a list go on the wire with their numbers. -/
theorem Dev.out_reqs (d : Dev) (n slot : Nat) (l : List HostReq) :
    d.Packets (l.foldl (fun (d : Dev) r => (d.out (.host n slot (d.roce n slot r.psn) r.what)).addCount (pHbr n) 0x60 1) d) n ∧
      (l.foldl (fun (d : Dev) r => (d.out (.host n slot (d.roce n slot r.psn) r.what)).addCount (pHbr n) 0x60 1) d).sent =
        (l.reverse.map fun r => .host n slot (d.roce n slot r.psn) r.what) ++ d.sent := by
  induction l generalizing d with
  | nil => exact ⟨⟨rfl, fun _ _ => rfl⟩, rfl⟩
  | cons r l ih =>
    have hone := d.packets_sent n (.host n slot (d.roce n slot r.psn) r.what) 0x60 1 (by decide)
    obtain ⟨hrest, hsent⟩ := ih ((d.out (.host n slot (d.roce n slot r.psn) r.what)).addCount (pHbr n) 0x60 1)
    rw [List.foldl_cons, hsent, Dev.sent_out_addCount, List.reverse_cons, List.map_append, List.append_assoc]
    refine ⟨hone.trans hrest, ?_⟩
    simp only [hone.roce, List.map_cons, List.map_nil, List.singleton_append]

/-- The requests are sent again. -/
theorem Dev.resendReqs_effect (d : Dev) (n slot : Nat) (f : HostReq → HostReq) :
    (d.resendReqs n slot f).qps = (d.setQp (qpKey n slot) { d.qp (qpKey n slot) with reqs := modAt ((d.qp (qpKey n slot)).reqs.map fun r => { r with sentAt := d.ao }) 0 f }).qps ∧
      (d.resendReqs n slot f).sent = ((d.qp (qpKey n slot)).reqs.reverse.map fun r => .host n slot (d.roce n slot r.psn) r.what) ++ d.sent ∧ (d.resendReqs n slot f).mem = d.mem := by
  unfold Dev.resendReqs
  extract_lets l now e
  obtain ⟨hpackets, hsent⟩ := e.out_reqs n slot l
  have hroce : ∀ psn, e.roce n slot psn = d.roce n slot psn := Dev.roce_congr (by rw [show e.qp (qpKey n slot) = _ from Dev.qp_setQp ..]) fun _ _ => rfl
  refine ⟨?_, ?_, ?_⟩
  · rw [hpackets.only]
    rfl
  · rw [hsent]
    simp only [hroce]
    rfl
  · rw [hpackets.only]
    rfl

/-- The queue pair of a request that goes on the wire. -/
def Qp.asks (q : Qp) (now : Nat) (what : HostOut) : Qp :=
  { q.setWord 8 (BitVec.ofNat 32 ((q.sqPsn + q.packets what.len) % 2 ^ 24)) with reqs := q.reqs ++ [⟨q.sqPsn, 0, 0, now, what⟩] }

/-- A request goes on the wire with the next PSN, behind those of its queue pair. -/
theorem Dev.putReq_effect (d : Dev) (n slot : Nat) (what : HostOut) :
    d.putReq n slot what = { d with
      csr := (d.putReq n slot what).csr, cyc := (d.putReq n slot what).cyc
      sent := .host n slot (d.roce n slot (d.qp (qpKey n slot)).sqPsn) what :: d.sent
      qps := tput d.qps (qpKey n slot) ((d.qp (qpKey n slot)).asks d.ao what) } := by
  have hroce : ∀ psn, (d.setQp (qpKey n slot) ((d.qp (qpKey n slot)).asks d.ao what)).roce n slot psn = d.roce n slot psn :=
    Dev.roce_of_words (fun off hoff => (congrArg (Qp.word · off) (Dev.qp_setQp ..)).trans (Qp.word_setWord_ne _ _ hoff.1)) fun _ _ => rfl
  rw [← hroce]
  exact Dev.addCount_only (Dev.out (d.setQp (qpKey n slot) ((d.qp (qpKey n slot)).asks d.ao what)) _) ..

theorem Dev.qp_putReq (d : Dev) (n slot : Nat) (what : HostOut) : (d.putReq n slot what).qp (qpKey n slot) = (d.qp (qpKey n slot)).asks d.ao what := by
  rw [d.putReq_effect]
  exact tgetD_tput_same ..

theorem Dev.hostSend_rts {d : Dev} {n slot : Nat} (h : (d.qp (qpKey n slot)).st = qsRts) (what : HostOut) : d.hostSend n slot what = d.putReq n slot what := if_pos h

/-- The requests that a queue pair kept go on the wire in order. -/
theorem Dev.sendKept_effect (d : Dev) (n slot : Nat) :
    (d.sendKept n slot).sent.length = d.sent.length + (d.qp (qpKey n slot)).reqs.length ∧ (d.sendKept n slot).mem = d.mem ∧
      ((d.sendKept n slot).qp (qpKey n slot)).word 0 = (d.qp (qpKey n slot)).word 0 ∧
      ((d.sendKept n slot).qp (qpKey n slot)).reqs.map HostReq.what = (d.qp (qpKey n slot)).reqs.map HostReq.what := by
  have hput : ∀ (l : List HostReq) (e : Dev), (l.foldl (fun (d : Dev) r => d.putReq n slot r.what) e).sent.length = e.sent.length + l.length ∧
      (l.foldl (fun (d : Dev) r => d.putReq n slot r.what) e).mem = e.mem ∧
      ((l.foldl (fun (d : Dev) r => d.putReq n slot r.what) e).qp (qpKey n slot)).word 0 = (e.qp (qpKey n slot)).word 0 ∧
      ((l.foldl (fun (d : Dev) r => d.putReq n slot r.what) e).qp (qpKey n slot)).reqs.map HostReq.what = (e.qp (qpKey n slot)).reqs.map HostReq.what ++ l.map HostReq.what := fun l => by
    induction l with
    | nil => exact fun e => ⟨rfl, rfl, rfl, (List.append_nil _).symm⟩
    | cons r l ih =>
      intro e
      obtain ⟨hlen, hmem, hword, hwhat⟩ := ih (e.putReq n slot r.what)
      rw [Dev.qp_putReq] at hword hwhat
      refine ⟨?_, ?_, hword.trans (Qp.word_setWord_ne _ _ (by decide)), ?_⟩
      · rw [List.foldl_cons, hlen, e.putReq_effect, List.length_cons, List.length_cons]
        omega
      · rw [List.foldl_cons, hmem, e.putReq_effect]
      · rw [List.foldl_cons, hwhat, Qp.asks, List.map_append, List.append_assoc]
        rfl
  have hempty := d.qp_setQp (qpKey n slot) { d.qp (qpKey n slot) with reqs := [] }
  obtain ⟨hlen, hmem, hword, hwhat⟩ := hput (d.qp (qpKey n slot)).reqs (d.setQp (qpKey n slot) { d.qp (qpKey n slot) with reqs := [] })
  rw [hempty] at hword hwhat
  exact ⟨hlen, hmem, hword, hwhat⟩

/-! ### Writes of STATE (R297, R311) -/

/-- A value without bits beyond the fields of the first word is stored whole. -/
theorem and_qpMask {v : Word} (h : v.toNat < 0x2000000) : v &&& BitVec.ofNat 32 (qpMask 0) = v := by
  refine BitVec.eq_of_toNat_eq ?_
  show v.toNat &&& 2 ^ 25 - 1 = v.toNat
  rw [Nat.and_two_pow_sub_one_eq_mod, Nat.mod_eq_of_lt h]

/-- The fields of the first word that a write in RESET finds reserved keep their values (R6). -/
def Qp.resetWord (q : Qp) (v : Word) : Word :=
  [(1, 0, decide (2 ≤ wfld v 1 0)), (3, 2, decide (wfld v 3 2 = 3)), (18, 16, decide (wfld v 18 16 = 0) || decide (5 < wfld v 18 16))].foldl
    (fun w (b : Nat × Nat × Bool) => if b.2.2 then wput w b.1 b.2.1 (wfld (q.word 0) b.1 b.2.1) else w) v

theorem Qp.resetWord_good (q : Qp) {v : Word} (hst : wfld v 1 0 < 2) (hmtu : 1 ≤ wfld v 18 16 ∧ wfld v 18 16 ≤ 5) :
    q.resetWord v = if wfld v 3 2 = 3 then wput v 3 2 q.role else v := by
  have h1 : ¬ 2 ≤ wfld v 1 0 := by omega
  have h2 : ¬ (decide (wfld v 18 16 = 0) || decide (5 < wfld v 18 16)) = true := by simp; omega
  simp [Qp.resetWord, h1, h2, Qp.role]

/-- A write of the first word in RESET stores what is not reserved; RTS sends what the queue pair kept. -/
theorem Dev.writeQp_reset {d : Dev} {n : Nat} {v : Word} {q : Qp} (hv : v.toNat < 0x2000000) (hq : q = d.qp (qpKey n (d.getF (pHbr n) 0x58 5 0))) (hreset : q.st = qsReset)
    (hst : wfld v 1 0 < 2) (hmtu : 1 ≤ wfld v 18 16 ∧ wfld v 18 16 ≤ 5) :
    d.writeQp n 0 v =
      let e := (if wfld v 3 2 = 3 then d.invalid (pHbr n) else d).setQp (qpKey n (d.getF (pHbr n) 0x58 5 0)) (q.setWord 0 (q.resetWord v))
      if wfld (q.resetWord v) 1 0 = qsRts then e.sendKept n (d.getF (pHbr n) 0x58 5 0) else e := by
  have h1 : ¬ 2 ≤ wfld v 1 0 := by omega
  have h2 : ¬ (wfld v 18 16 = 0 ∨ 5 < wfld v 18 16) := by omega
  subst hq
  unfold Dev.writeQp
  extract_lets slot k q old w want q' pm bad w' e₁ e₂ e
  have hw : w = v := and_qpMask hv
  have hbad : (bad.any fun b => b.2.2) = decide (wfld v 3 2 = 3) := by
    simp only [bad, want, pm, hw, List.any_cons, List.any_nil]
    simp [h1, h2]
  have hw' : w' = q.resetWord v := by
    simp only [w', bad, want, pm, hw]
    rfl
  have he₁ : e₁ = if wfld v 3 2 = 3 then d.invalid (pHbr n) else d := by
    simp only [e₁, hbad, decide_eq_true_eq]
  have he₂ : e₂ = e := by
    simp only [e₂, e, he₁, hw']
    rfl
  rw [if_neg (by decide), if_neg (not_not.2 hreset), if_neg (by decide), hw', he₂]

/-- A queue pair whose first word becomes `v` with STATE RESET: its traffic is cleared, but for what it owes the host. -/
def Qp.drained (q : Qp) (v : Word) : Qp :=
  { q.setWord 0 v with writes := [], reads := [], sends := q.sends.filter (!·.lost), rate := 1000000, cnpAt := none, cutAt := none }

/-- Outside RESET a write of STATE to RESET clears the traffic, and the numbers of its other fields must be those that stand. -/
theorem Dev.writeQp_toReset {d : Dev} {n : Nat} {v : Word} {q : Qp} (hv : v.toNat < 0x2000000) (hq : q = d.qp (qpKey n (d.getF (pHbr n) 0x58 5 0))) (hst : q.st ≠ qsReset)
    (hwant : wfld v 1 0 = qsReset) (hsame : wput v 1 0 q.st = q.word 0) :
    d.writeQp n 0 v = d.setQp (qpKey n (d.getF (pHbr n) 0x58 5 0)) (q.drained v) := by
  subst hq
  unfold Dev.writeQp
  extract_lets slot k q old w want q' pm bad w' e₁ e₂
  have hw : w = v := and_qpMask hv
  have hwant' : want = qsReset := by simp only [want, hw, hwant]
  rw [if_neg (by decide), if_pos hst, if_neg (by rw [hw]; simpa using hsame), if_pos hwant']
  simp only [q', hw, Qp.drained]
  rfl

theorem Dev.writeQp_refused {d : Dev} {n : Nat} {v : Word} {q : Qp} (hv : v.toNat < 0x2000000) (hq : q = d.qp (qpKey n (d.getF (pHbr n) 0x58 5 0))) (hst : q.st ≠ qsReset)
    (hbad : wput v 1 0 q.st ≠ q.word 0 ∨ (wfld v 1 0 ≠ qsReset ∧ wfld v 1 0 ≠ q.st)) : d.writeQp n 0 v = d.invalid (pHbr n) := by
  subst hq
  unfold Dev.writeQp
  extract_lets slot k q old w want q' pm bad w' e₁ e₂
  have hw : w = v := and_qpMask hv
  have hwant : want = wfld v 1 0 := by simp only [want, hw]
  rw [if_neg (by decide), if_pos hst]
  split
  · rfl
  next hsame =>
    obtain ⟨hreset, hkeep⟩ := hbad.resolve_left fun h => hsame (by rw [hw]; simpa using h)
    rw [if_neg (hwant ▸ hreset), if_neg (hwant ▸ hkeep)]

end Sys2Proof.Machine

namespace Sys2Proof.Machine

/-- The device whose registers keep the roles that wrote in this cycle. -/
def Dev.ranked (d : Dev) (r : Role) (k : Nat) : Dev := { d with cyc := { d.now with roles := tput d.now.roles k (max (tgetD d.now.roles k 0) (roleRank r)) } }

theorem exec_qpStateWrite_takes {s : State} {r : Role} {n : Fin 4} (h : s.dev.Takes r (pHbr n)) (hr : s.dev.Ranks r (pHbr n) 0x80) (v : BitVec 32) :
    exec (.qpStateWrite r n v) s = .next ⟨((s.dev.ranked r ((pHbr n).base + 0x80)).writeQp n 0 v).answer 0, s.pending⟩ :=
  s.upd_congr (Dev.guardPut_takes h hr v _)

/-! ### Answers of the host (R297) -/

theorem Dev.sent_addCount (d : Dev) (p : Page) (off n : Nat) : (d.addCount p off n).sent = d.sent := by rw [Dev.addCount_only]
theorem Dev.events_addCount (d : Dev) (p : Page) (off n : Nat) : (d.addCount p off n).events = d.events := by rw [Dev.addCount_only]
theorem Dev.qp_addCount (d : Dev) (p : Page) (off n k : Nat) : (d.addCount p off n).qp k = d.qp k := Dev.qp_of_qps (by rw [Dev.addCount_only]) k

/-- A queue pair whose SENDs and RDMA WRITEs up to a PSN are acknowledged. -/
def Qp.acked (q : Qp) (psn : Nat) : Qp :=
  { q with reqs := q.reqs.filter fun r => match r.what with
    | .pull .. => true
    | _ => !psnLe (r.psn + q.packets r.what.len - 1) psn }

theorem exec_roceAck_ack {s : State} {n : Fin 4} {slot : Fin 64} (hon : s.dev.hbrOn n = true) (hst : (s.dev.qp (qpKey n slot)).st = qsRts) (psn : BitVec 24) {syn : BitVec 8}
    (h : syn.toNat < 0x20) : exec (.roceAck n slot psn syn) s = .next ⟨(s.dev.addCount (pHbr n) 0x5C 1).setQp (qpKey n slot) ((s.dev.qp (qpKey n slot)).acked psn.toNat), s.pending⟩ := by
  refine s.upd_congr ((if_neg (by simp [hon, hst])).trans ((if_pos h).trans ?_))
  rfl

theorem exec_roceAck_nak {s : State} {n : Fin 4} {slot : Fin 64} (hon : s.dev.hbrOn n = true) (hst : (s.dev.qp (qpKey n slot)).st = qsRts) {psn : BitVec 24} {syn : BitVec 8}
    (h : 0x40 ≤ syn.toNat) (hseq : syn.toNat ≠ synSeq) (hreqs : (s.dev.qp (qpKey n slot)).reqs ≠ []) :
    exec (.roceAck n slot psn syn) s = .next ⟨(s.dev.addCount (pHbr n) 0x5C 1).qpError n slot syn.toNat, s.pending⟩ := by
  refine s.upd_congr ((if_neg (by simp [hon, hst])).trans ((if_neg (by omega)).trans ?_))
  rcases hq : (s.dev.qp (qpKey n slot)).reqs with _ | ⟨r, rest⟩
  · exact absurd hq hreqs
  · exact (if_neg (by omega)).trans (if_neg hseq)

/-- A queue pair that enters ERROR. -/
theorem Dev.qpError_effect {d : Dev} {n slot syn : Nat} (h : syn < 65536) :
    ((d.qpError n slot syn).qp (qpKey n slot)).st = qsError ∧ ((d.qpError n slot syn).qp (qpKey n slot)).word 0x30 = BitVec.ofNat 32 syn ∧
      ((d.qpError n slot syn).qp (qpKey n slot)).writes = [] := by
  have hqp : (d.qpError n slot syn).qp (qpKey n slot) = (d.qp (qpKey n slot)).failed syn := Dev.qp_setQp ..
  rw [hqp]
  exact Qp.failed_spec _ h

theorem Dev.events_qpError (d : Dev) (n slot syn : Nat) :
    (d.qpError n slot syn).events = d.events ++ [⟨0xFF, d.ao, 0x000A, leBytes 1 n ++ leBytes 1 slot ++ leBytes 2 0 ++ leBytes 4 syn⟩] := rfl

/-- The acknowledgement of a request, as its queue pair changes. -/
theorem Dev.hostAck_effect {d : Dev} {n slot : Nat} {q : Qp} (hwin : q.win = (d.qp (qpKey n slot)).win) (psn : Nat) :
    ((d.setQp (qpKey n slot) q).hostAck n slot psn).sent = .hostAck n slot (d.roce n slot psn) :: d.sent ∧
      ((d.setQp (qpKey n slot) q).hostAck n slot psn).qps = (d.setQp (qpKey n slot) q).qps ∧ ((d.setQp (qpKey n slot) q).hostAck n slot psn).mem = d.mem := by
  have hroce : (d.setQp (qpKey n slot) q).roce n slot psn = d.roce n slot psn := Dev.roce_congr ((congrArg Qp.win (Dev.qp_setQp ..)).trans hwin) (fun _ _ => rfl) _
  rw [Dev.hostAck, hroce]
  exact ⟨Dev.sent_out_addCount .., by rw [Dev.addCount_only]; rfl, Dev.addCount_mem ..⟩

/-! ### Congestion (R296) -/

/-- The rate of a queue pair that a CNP meets: halved, unless it was in the last 50 µs. -/
def Qp.congested (q : Qp) (now : Nat) : Qp :=
  let due := match q.cutAt with | none => true | some t => t + 2500 ≤ now
  { q with rate := if due then q.rate / 2 else q.rate, cutAt := if due then some now else q.cutAt, riseAt := now }

theorem Qp.congested_due {q : Qp} {now : Nat} (h : q.cutAt = none ∨ ∃ t, q.cutAt = some t ∧ t + 2500 ≤ now) :
    q.congested now = { q with rate := q.rate / 2, cutAt := some now, riseAt := now } := by
  rcases h with h | ⟨t, h, ht⟩
  · simp [Qp.congested, h]
  · simp [Qp.congested, h, ht]

theorem Qp.congested_held {q : Qp} {now t : Nat} (h : q.cutAt = some t) (ht : now < t + 2500) : q.congested now = { q with riseAt := now } := by
  simp [Qp.congested, h, Nat.not_le.2 ht]

/-- A CNP is counted; with congestion control on the queue pair's rate takes it. -/
theorem exec_cnpReceive_on {s : State} {n : Fin 4} (hon : s.dev.hbrOn n = true) (slot : Fin 64) :
    exec (.cnpReceive n slot) s = .next ⟨if s.dev.bit (pHbr n) 0x40 5 then (s.dev.addCount (pHbr n) 0x5C 1).setQp (qpKey n slot) ((s.dev.qp (qpKey n slot)).congested s.dev.ao)
      else s.dev.addCount (pHbr n) 0x5C 1, s.pending⟩ := by
  have hbit : (s.dev.addCount (pHbr n) 0x5C 1).bit (pHbr n) 0x40 5 = s.dev.bit (pHbr n) 0x40 5 :=
    congrArg (wbit · 5) ((s.dev.sameRegsBut_addCount (pHbr n) 0x5C 1).reg (by decide))
  refine s.upd_congr ((if_neg (by simp [hon])).trans ?_)
  dsimp only
  rw [hbit, Dev.qp_addCount, Dev.ao_addCount]
  cases s.dev.bit (pHbr n) 0x40 5
  · rfl
  · rfl

end Sys2Proof.Machine

namespace Sys2Proof.Proofs
open Sys2Proof Sys2Proof.Machine

/-- Settles O44: what is sent on a queue pair leaves the words that its packets are built from, so a resend repeats every request as it was. -/
theorem queuePairsAnswerAndRecover : Obligations.QueuePairsAnswerAndRecover := by
  unfold Obligations.QueuePairsAnswerAndRecover
  refine ⟨fun s n slot k q hk hq hon hst => ⟨fun psn syn => ⟨fun h => ?ack, fun h hseq hreqs => ?nak⟩, fun r rest hreqs => ⟨fun h => ?early, fun h htries => ?again, fun h htries => ?gaveUp⟩,
      fun w rest hw hlost => ⟨fun h => ?written, fun h => ?open_⟩, fun h => ?noCc, fun h => ⟨fun hcut => ?cut, fun t hcut ht => ?uncut⟩, fun hrate ht => ?rise, fun h => ?flat⟩,
    fun s r n v k q htakes hranks hk hq hv => ⟨fun hwant hst' hsame => ?toReset, fun hst' hbad => ?refused, fun hwant hst' hrole hm1 hm5 => ?stored, fun hwant hst' hrole hm1 hm5 => ?toRts,
      fun hwant hst' hrole hm1 hm5 => ?reserved⟩⟩
  all_goals subst hk; subst hq
  case ack =>
    have hqp := (s.dev.addCount (pHbr n) 0x5C 1).qp_setQp (qpKey n slot) ((s.dev.qp (qpKey n slot)).acked psn.toNat)
    refine ⟨_, exec_roceAck_ack hon hst psn h, ?_, ?_, Dev.sent_addCount .., Dev.addCount_mem ..⟩
    · rw [hqp]
      rfl
    · rw [hqp]
      rfl
  case nak =>
    obtain ⟨hst', hsyn, -⟩ := (s.dev.addCount (pHbr n) 0x5C 1).qpError_effect (n := n) (slot := slot) (syn := syn.toNat) (by omega)
    refine ⟨_, exec_roceAck_nak hon hst h hseq hreqs, hst', hsyn, ?_, Dev.addCount_mem ..⟩
    rw [Dev.events_qpError, Dev.events_addCount, Dev.ao_addCount]
  case early =>
    refine s.upd_congr ?_
    dsimp only
    rw [hreqs]
    exact if_neg (by simp [h])
  case again =>
    obtain ⟨hqps, hsent, hmem⟩ := s.dev.resendReqs_effect n slot fun x => { x with tries := x.tries + 1 }
    have hrun : exec (.qpAckTimeout n slot) s = .next ⟨s.dev.resendReqs n slot fun x => { x with tries := x.tries + 1 }, s.pending⟩ := by
      refine s.upd_congr ?_
      dsimp only
      rw [hreqs]
      exact (if_pos (by simp [hon, hst, h])).trans (if_neg (Nat.not_le.2 htries))
    have hqp := (Dev.qp_of_qps hqps (qpKey n slot)).trans (Dev.qp_setQp ..)
    refine ⟨_, hrun, ?_, hsent, ?_, hmem⟩
    · rw [hqp, hreqs]
      rfl
    · rw [hqp]
      exact hst
  case gaveUp =>
    obtain ⟨hst', -, hwrites⟩ := s.dev.qpError_effect (n := n) (slot := slot) (syn := 0) (by decide)
    refine ⟨s.dev.qpError n slot 0, s.upd_congr ?_, hst', hwrites, rfl⟩
    dsimp only
    rw [hreqs]
    exact (if_pos (by simp [hon, hst, h])).trans (if_pos htries)
  case written =>
    obtain ⟨hsent, hqps, hmem⟩ := Dev.hostAck_effect (d := s.dev) (n := n) (slot := slot) (q := { s.dev.qp (qpKey n slot) with writes := rest }) rfl w.psn
    have hrun : exec (.rdmaWriteAck n slot) s = .next ⟨(s.dev.setQp (qpKey n slot) { s.dev.qp (qpKey n slot) with writes := rest }).hostAck n slot w.psn, s.pending⟩ := by
      refine s.upd_congr ?_
      dsimp only
      rw [hw]
      exact if_pos (by simp [hon, hst, hlost, h])
    refine ⟨_, hrun, ?_, hsent, fun x hx => (Dev.qp_of_qps hqps x).trans (Dev.qp_setQp_ne _ _ hx), hmem⟩
    rw [Dev.qp_of_qps hqps, Dev.qp_setQp]
  case open_ =>
    refine s.upd_congr ?_
    dsimp only
    rw [hw]
    exact if_neg (by simp [h])
  case noCc =>
    rw [exec_cnpReceive_on hon, h]
    rfl
  case cut =>
    rw [exec_cnpReceive_on hon, h, Qp.congested_due hcut]
    rfl
  case uncut =>
    rw [exec_cnpReceive_on hon, h, Qp.congested_held hcut ht]
    rfl
  case rise => exact s.upd_congr (if_pos (by simp [hrate, ht]))
  case flat => exact s.upd_congr (if_neg (by simp; omega))
  case toReset =>
    have hwrite := Dev.writeQp_toReset (d := s.dev.ranked r ((pHbr n).base + 0x80)) (q := s.dev.qp (qpKey n (s.dev.getF (pHbr n) 0x58 5 0))) hv rfl hst' hwant hsame
    have hqp : ((((s.dev.ranked r ((pHbr n).base + 0x80)).writeQp n 0 v).answer 0).qp (qpKey n (s.dev.getF (pHbr n) 0x58 5 0))) =
        (s.dev.qp (qpKey n (s.dev.getF (pHbr n) 0x58 5 0))).drained v := by
      rw [hwrite]
      exact Dev.qp_setQp ..
    refine ⟨_, exec_qpStateWrite_takes htakes hranks v, rfl, ?_⟩
    rw [hqp, hwrite]
    exact ⟨Qp.word_setWord .., rfl, rfl, rfl, rfl, rfl, rfl⟩
  case refused =>
    have hwrite := Dev.writeQp_refused (d := s.dev.ranked r ((pHbr n).base + 0x80)) (q := s.dev.qp (qpKey n (s.dev.getF (pHbr n) 0x58 5 0))) hv rfl hst' hbad
    obtain ⟨-, hinvalid, -, hmem⟩ := (s.dev.ranked r ((pHbr n).base + 0x80)).invalid_effect (pHbr n)
    refine ⟨_, (exec_qpStateWrite_takes htakes hranks v).trans (s.upd_congr (congrArg (Dev.answer · 0) hwrite)), rfl, ?_, hinvalid, hmem⟩
    show ((s.dev.ranked r ((pHbr n).base + 0x80)).setEvent (pHbr n) evInvalid).qps = _
    rw [(s.dev.ranked r ((pHbr n).base + 0x80)).regsOnly_setEvent (pHbr n) evInvalid]
    rfl
  case stored =>
    have hwrite := Dev.writeQp_reset (d := s.dev.ranked r ((pHbr n).base + 0x80)) (q := s.dev.qp (qpKey n (s.dev.getF (pHbr n) 0x58 5 0))) hv rfl hst' (by rw [hwant]; decide) ⟨hm1, hm5⟩
    rw [Qp.resetWord_good _ (by rw [hwant]; decide) ⟨hm1, hm5⟩, if_neg hrole, if_neg hrole] at hwrite
    refine ⟨_, (exec_qpStateWrite_takes htakes hranks v).trans (s.upd_congr (congrArg (Dev.answer · 0) (hwrite.trans (if_neg (by rw [hwant]; decide))))), rfl, ?_, rfl⟩
    exact Dev.qp_setQp ..
  case toRts =>
    have hwrite := Dev.writeQp_reset (d := s.dev.ranked r ((pHbr n).base + 0x80)) (q := s.dev.qp (qpKey n (s.dev.getF (pHbr n) 0x58 5 0))) hv rfl hst' (by rw [hwant]; decide) ⟨hm1, hm5⟩
    rw [Qp.resetWord_good _ (by rw [hwant]; decide) ⟨hm1, hm5⟩, if_neg hrole, if_neg hrole] at hwrite
    obtain ⟨hlen, hmem, hword, hwhat⟩ := ((s.dev.ranked r ((pHbr n).base + 0x80)).setQp (qpKey n (s.dev.getF (pHbr n) 0x58 5 0))
      ((s.dev.qp (qpKey n (s.dev.getF (pHbr n) 0x58 5 0))).setWord 0 v)).sendKept_effect n (s.dev.getF (pHbr n) 0x58 5 0)
    rw [Dev.qp_setQp] at hlen hword hwhat
    have hword' := hword.trans (Qp.word_setWord ..)
    refine ⟨_, (exec_qpStateWrite_takes htakes hranks v).trans (s.upd_congr (congrArg (Dev.answer · 0) (hwrite.trans (if_pos hwant)))), rfl, hword', ?_, hlen, hwhat, hmem⟩
    exact (congrArg (wfld · 1 0) hword').trans hwant
  case reserved =>
    have hwrite := Dev.writeQp_reset (d := s.dev.ranked r ((pHbr n).base + 0x80)) (q := s.dev.qp (qpKey n (s.dev.getF (pHbr n) 0x58 5 0))) hv rfl hst' (by rw [hwant]; decide) ⟨hm1, hm5⟩
    rw [Qp.resetWord_good _ (by rw [hwant]; decide) ⟨hm1, hm5⟩, if_pos hrole, if_pos hrole] at hwrite
    obtain ⟨-, hinvalid, -, hmem⟩ := (s.dev.ranked r ((pHbr n).base + 0x80)).invalid_effect (pHbr n)
    have hst0 : wfld (wput v 3 2 (s.dev.qp (qpKey n (s.dev.getF (pHbr n) 0x58 5 0))).role) 1 0 ≠ qsRts := by
      rw [wfld_wput_ne _ _ (by decide) (by decide), hwant]
      decide
    refine ⟨_, (exec_qpStateWrite_takes htakes hranks v).trans (s.upd_congr (congrArg (Dev.answer · 0) (hwrite.trans (if_neg hst0)))), rfl, ?_, hinvalid, hmem⟩
    exact (congrArg (Qp.word · 0) (Dev.qp_setQp ..)).trans (Qp.word_setWord ..)

end Sys2Proof.Proofs

/-! SUPPORT. The host bridge toward the group (14, R298–R308): messages that go on, pulls, messages for the host; and the statement about them. -/

namespace Sys2Proof.Machine

/-! ### Messages to another device -/

theorem Dev.nextMid_segOps (d : Dev) (peer cls mid domain : Nat) (data : List Byte) (l : List Nat) : (d.segOps peer cls mid domain data l).2.nextMid = d.nextMid := by
  induction l generalizing d with
  | nil => rfl
  | cons i t ih => exact ih d.takeId.2

theorem Dev.nextMid_sendMsgAs (d : Dev) (peer cls mid domain : Nat) (data : List Byte) : (d.sendMsgAs peer cls mid domain data).nextMid = d.nextMid :=
  Dev.foldl_holds (P := fun e => e.nextMid = d.nextMid) (fun e o _ he => by rw [e.sendOp_eq]; exact he) (d.nextMid_segOps ..)

/-- A message to a device takes the next number. -/
theorem Dev.sendMsgTo_numbered (d : Dev) (peer cls domain : Nat) (data : List Byte) : d.SendsOnly (d.sendMsgTo peer cls domain data) ∧
    (d.sendMsgTo peer cls domain data).nextMid = (d.nextMid + 1) % 2 ^ 32 ∧ ∃ ids, ⟨d.nextMid, peer, cls, data, none, ids, domain⟩ ∈ (d.sendMsgTo peer cls domain data).outMsgs := by
  obtain ⟨hsend, -⟩ := d.sendMsgTo_effect peer cls domain data
  obtain ⟨-, hmem⟩ := Dev.sendMsgAs_effect { d with nextMid := (d.nextMid + 1) % 2 ^ 32 } peer cls d.nextMid domain data
  exact ⟨hsend, Dev.nextMid_sendMsgAs .., hmem⟩

/-! ### Work messages of the host go on (R300) -/

/-- What becomes of a work message that may go on; `e` is the device without it. -/
def Dev.forwards (e : Dev) (n slot : Nat) (q : Qp) (m : HostSend) : Dev :=
  let dev := numAt m.data 0x10 1
  if m.marked then e.bridgeRefuses m.data dev cPoison
  else if !qpMaySend q m.data then e.bridgeRefuses m.data e.devnum cMsgRole
  else if dev = e.devnum then e.arrive m.data (some (e.devnum, n, slot))
  else if 64 ≤ dev || e.routeSet dev = 0 then e.answerPathDown m.data
  else if q.role = 1 then e.sendMsgTo dev clsWork opDomain m.data else e.takeFree.2.sendMsgTo dev clsWork (e.takeFree.1 % 256) m.data

section Forwards
variable {e : Dev} {n slot : Nat} {q : Qp} {m : HostSend}

theorem Dev.forwards_marked (hmark : m.marked = true) : e.forwards n slot q m = e.bridgeRefuses m.data (numAt m.data 0x10 1) cPoison := if_pos hmark

variable (hmark : m.marked = false)
include hmark

theorem Dev.forwards_role (hmay : qpMaySend q m.data = false) : e.forwards n slot q m = e.bridgeRefuses m.data e.devnum cMsgRole :=
  (if_neg (by simp [hmark])).trans (if_pos (by simp [hmay]))

theorem Dev.forwards_here (hmay : qpMaySend q m.data = true) (hdev : numAt m.data 0x10 1 = e.devnum) :
    e.forwards n slot q m = e.arrive m.data (some (e.devnum, n, slot)) :=
  (if_neg (by simp [hmark])).trans ((if_neg (by simp [hmay])).trans (if_pos hdev))

end Forwards

theorem exec_sendForward_waits {s : State} {n : Fin 4} {slot : Fin 64} {m : HostSend} {rest : List HostSend} (hq : (s.dev.qp (qpKey n slot)).sends = m :: rest)
    (h : m.lost = true ∨ m.ids.all s.dev.isDone = false ∨ s.dev.awake = false) : exec (.sendForward n slot) s = .next s := by
  refine s.upd_congr ?_
  dsimp only
  rw [hq]
  refine if_pos ?_
  rcases h with h | h | h <;> simp [h]

theorem exec_sendForward_goes {s : State} {n : Fin 4} {slot : Fin 64} {m : HostSend} {rest : List HostSend} (hq : (s.dev.qp (qpKey n slot)).sends = m :: rest)
    (hlost : m.lost = false) (hids : m.ids.all s.dev.isDone = true) (hawake : s.dev.awake = true) :
    exec (.sendForward n slot) s = .next ⟨Dev.forwards (s.dev.setQp (qpKey n slot) { s.dev.qp (qpKey n slot) with sends := rest }) n slot (s.dev.qp (qpKey n slot)) m, s.pending⟩ := by
  have hgo : ¬ (m.lost || !m.ids.all s.dev.isDone || !s.dev.awake) = true := by simp [hlost, hids, hawake]
  refine s.upd_congr ?_
  dsimp only
  rw [hq]
  exact if_neg hgo

/-- A message to a device with a route leaves under the next number, with the domain of the operator where its queue pair is the operator's. -/
theorem Dev.forwards_sent {e : Dev} {n slot : Nat} {q : Qp} {m : HostSend} (hmark : m.marked = false) (hmay : qpMaySend q m.data = true)
    (hdev : numAt m.data 0x10 1 ≠ e.devnum) (hlt : numAt m.data 0x10 1 < 64) (hroute : e.routeSet (numAt m.data 0x10 1) ≠ 0) :
    ∃ x : OutMsg, (e.forwards n slot q m).qps = e.qps ∧ x ∈ (e.forwards n slot q m).outMsgs ∧ x.mid = e.nextMid ∧ x.dev = numAt m.data 0x10 1 ∧ x.cls = clsWork ∧ x.data = m.data ∧
      (q.role = 1 → x.domain = opDomain) ∧ (e.forwards n slot q m).nextMid = (e.nextMid + 1) % 2 ^ 32 ∧ (e.forwards n slot q m).mem = e.mem := by
  have hgo : e.forwards n slot q m = if q.role = 1 then e.sendMsgTo (numAt m.data 0x10 1) clsWork opDomain m.data
      else e.takeFree.2.sendMsgTo (numAt m.data 0x10 1) clsWork (e.takeFree.1 % 256) m.data :=
    (if_neg (by simp [hmark])).trans ((if_neg (by simp [hmay])).trans ((if_neg hdev).trans (if_neg (by simp [hroute, hlt]))))
  rw [hgo]
  split
  · next hrole =>
    obtain ⟨hsend, hmid, ids, hmem⟩ := e.sendMsgTo_numbered (numAt m.data 0x10 1) clsWork opDomain m.data
    exact ⟨_, by rw [hsend], hmem, rfl, rfl, rfl, rfl, fun _ => rfl, hmid, hsend.mem⟩
  · next hrole =>
    obtain ⟨hsend, hmid, ids, hmem⟩ := e.takeFree.2.sendMsgTo_numbered (numAt m.data 0x10 1) clsWork (e.takeFree.1 % 256) m.data
    exact ⟨_, (congrArg Dev.qps hsend).trans rfl, hmem, rfl, rfl, rfl, rfl, fun h => absurd h hrole, hmid, hsend.mem⟩

/-! ### Pulls (R302) -/

/-- A request that asks the host for bytes. -/
def HostReq.isPull (r : HostReq) : Bool := match r.what with | .pull .. => true | _ => false

/-- Data of a pull that is not yet whole are relayed behind what has come. -/
theorem Dev.pullData_more {d g : Dev} {n slot : Nat} {data : List Byte} {r : HostReq} {x : Pull} {va key len : Nat} {ids : List Nat}
    (hreq : (d.qp (qpKey n slot)).reqs.find? HostReq.isPull = some r)
    (hwhat : r.what = .pull va key len x.msg x.item x.ptn x.pva) (hpull : (d.pulls.find? fun y => y.msg = x.msg && y.item = x.item) = some x)
    (hlen : x.got + data.length < len) (hrelay : Dev.relayWrite (data.length + 1) d (.pva d.devnum x.ptn (d.linkDomain x.ptn)) (x.pva + x.got) data = (ids, g)) :
    d.pullData n slot data =
      ({ g with pulls := g.pulls.filter (fun y => !(y.msg = x.msg && y.item = x.item)) ++ [{ x with got := x.got + data.length, ids := x.ids ++ ids }] } : Dev).runLocal := by
  obtain ⟨psn, tries, rnr, sentAt, what⟩ := r
  dsimp only at hwhat
  subst hwhat
  have htake : data.take (len - x.got) = data := List.take_of_length_le (by omega)
  unfold Dev.pullData
  extract_lets what?
  have hwhat : what? = some ⟨psn, tries, rnr, sentAt, .pull va key len x.msg x.item x.ptn x.pva⟩ := hreq
  rw [hwhat]
  dsimp only
  rw [hpull]
  dsimp only
  rw [htake, hrelay]
  exact if_neg (by omega)

/-! ### Messages for the host (R307, R308) -/

theorem tgetD_tmod {α : Type} (t : Tbl α) (k : Nat) (x : α) (f : α → α) : tgetD (tmod t k x f) k x = f (tgetD t k x) := tgetD_tput_same ..

/-- The state of a destination that does not wait. -/
def DestState.unwaited (x : DestState) : DestState := if x.waitAt = none then x else { x with waitAt := none, ringFull := false }

/-- A destination's wait is counted by this device where the destination is its own. -/
def Dev.waitCounted (d : Dev) (key t : Nat) : Dev :=
  if key / 64 = d.devnum then d.addCount (destPlace key).1 ((destPlace key).2 + 0x1C) (d.ao - t) else d

theorem Dev.waitCounted_only (d : Dev) (key t : Nat) : d.waitCounted key t = { d with csr := (d.waitCounted key t).csr, cyc := (d.waitCounted key t).cyc } ∧
    ∀ p : Page, ∀ off, p.base + off ≠ (destPlace key).1.base + ((destPlace key).2 + 0x1C) → (d.waitCounted key t).reg p off = d.reg p off := by
  unfold Dev.waitCounted
  split
  · exact ⟨Dev.addCount_only .., fun p off hne => (d.sameRegsBut_addCount (destPlace key).1 ((destPlace key).2 + 0x1C) (d.ao - t)).reg_of_ne (by simpa using hne)⟩
  · exact ⟨rfl, fun _ _ _ => rfl⟩

theorem Dev.waitEnds_waiting {d : Dev} {key t : Nat} (h : (tgetD d.dests key {}).waitAt = some t) :
    d.waitEnds key = { d.waitCounted key t with dests := tmod (d.waitCounted key t).dests key {} fun y => { y with waitAt := none, ringFull := false } } := by
  unfold Dev.waitEnds
  rw [h]
  rfl

/-- The end of a wait touches the destination and the count of its page. -/
theorem Dev.waitEnds_effect (d : Dev) (key : Nat) : d.waitEnds key = { d with csr := (d.waitEnds key).csr, cyc := (d.waitEnds key).cyc, dests := (d.waitEnds key).dests } ∧
    tgetD (d.waitEnds key).dests key {} = (tgetD d.dests key {}).unwaited ∧
    ∀ p : Page, ∀ off, p.base + off ≠ (destPlace key).1.base + ((destPlace key).2 + 0x1C) → (d.waitEnds key).reg p off = d.reg p off := by
  rcases h : (tgetD d.dests key {}).waitAt with _ | t
  · have hnone : d.waitEnds key = d := by
      unfold Dev.waitEnds
      rw [h]
    rw [hnone, DestState.unwaited, if_pos h]
    exact ⟨rfl, rfl, fun _ _ _ => rfl⟩
  · obtain ⟨honly, hreg⟩ := d.waitCounted_only key t
    rw [Dev.waitEnds_waiting h]
    refine ⟨by rw [honly], ?_, hreg⟩
    dsimp only
    rw [tgetD_tmod, honly, DestState.unwaited, if_neg (by rw [h]; exact Option.some_ne_none t)]

/-- A message that was delivered is gone, and its destination does not wait. -/
theorem Dev.delivered_effect (d : Dev) (key : Nat) : (d.delivered key).sent = d.sent ∧ (d.delivered key).mem = d.mem ∧
    tgetD (d.delivered key).dests key {} = { (tgetD d.dests key {}).unwaited with q := ((tgetD d.dests key {}).unwaited).q.drop 1 } := by
  obtain ⟨honly, hdest, -⟩ := d.waitEnds_effect key
  have hpop : tgetD ((d.waitEnds key).destPop key).dests key {} = { (tgetD d.dests key {}).unwaited with q := ((tgetD d.dests key {}).unwaited).q.drop 1 } := by
    rw [Dev.destPop, tgetD_tmod, hdest]
  unfold Dev.delivered
  dsimp only
  split
  · rw [Dev.addCount_only]
    exact ⟨(congrArg Dev.sent honly).trans rfl, (congrArg Dev.mem honly).trans rfl, hpop⟩
  · exact ⟨(congrArg Dev.sent honly).trans rfl, (congrArg Dev.mem honly).trans rfl, hpop⟩

/-- The record of a destination: this device's, or the one that its own device gives. -/
def Dev.destOf (d : Dev) (key : Nat) (words : List (BitVec 32)) : Dest := if key / 64 = d.devnum then d.destRec key else ⟨words⟩

/-- A queue pair is bound to a destination. -/
def Qp.serves (q : Qp) (key : Nat) : Bool := decide (if key % 64 = 62 then q.role = 1 else (q.role = 2 && q.dev = key / 64 && q.ptn = key % 64 / 2) = true)

theorem Qp.serves_iff (q : Qp) (key : Nat) : q.serves key = true ↔ if key % 64 = 62 then q.role = 1 else q.role = 2 ∧ q.dev = key / 64 ∧ q.ptn = key % 64 / 2 := by
  rw [Qp.serves, decide_eq_true_iff]
  split <;> simp [and_assoc]

/-- A message that is not dropped. -/
theorem DestState.kept {st : DestState} {key : Nat} {x : Dest} {q : Qp} (hvalid : x.valid = true) (hserves : q.serves key = true) (hreset : q.st = qsReset → st.waitAt ≠ none) :
    ¬ ((!x.valid || !q.serves key || (decide (q.st = qsReset) && st.waitAt.isNone)) = true) := by
  simp only [hvalid, hserves, Bool.not_true, Bool.false_or, Bool.and_eq_true, decide_eq_true_eq, not_and, Option.isNone_iff_eq_none]
  exact hreset

/-- A destination's ring holds an entry more. -/
def Dev.ringGrows (d : Dev) (key seq written : Nat) : Dev :=
  { d with dests := tmod d.dests key {} fun y => { y with ringSeq := seq, written := written } }

/-- The end of a wait keeps what the destination holds. -/
theorem DestState.unwaited_keeps (x : DestState) : x.unwaited.q = x.q ∧ x.unwaited.waitAt = none ∧ x.unwaited.ringSeq = x.ringSeq ∧ x.unwaited.written = x.written := by
  unfold DestState.unwaited
  split
  · next h => exact ⟨rfl, h, rfl, rfl⟩
  · exact ⟨rfl, rfl, rfl, rfl⟩

/-- The count of waits of a destination is none of the first registers of a page. -/
theorem base_ne_destPlace (p : Page) (key : Nat) {off : Nat} (hoff : off < 0xBC) : p.base + off ≠ (destPlace key).1.base + ((destPlace key).2 + 0x1C) := by
  have hp := p.base_mod
  unfold destPlace
  split
  · have hd := pDev.base_mod
    dsimp only
    omega
  · have hd := (pPtn (key % 64 / 2)).base_mod
    dsimp only
    split <;> omega

/-- A message that is dropped is counted on the port, and leaves its destination without a wait. -/
theorem Dev.dropped_effect (d : Dev) (key n : Nat) (hscr : d.scrubbed (pHbr n) = false) {f : Dev}
    (hf : f = ((d.destPop key).waitEnds key).addCount (pHbr n) 0x70 1) :
    (tgetD f.dests key {}).q = (tgetD d.dests key {}).q.drop 1 ∧ f.sent = d.sent ∧ f.reg (pHbr n) 0x70 = d.reg (pHbr n) 0x70 + 1 ∧ f.mem = d.mem := by
  obtain ⟨honly, hdest, hreg⟩ := (d.destPop key).waitEnds_effect key
  have hscr' : ((d.destPop key).waitEnds key).scrubbed (pHbr n) = false := by
    have hlow : ∀ p : Page, ∀ off < 0xBC, ((d.destPop key).waitEnds key).reg p off = d.reg p off := fun p off hoff => hreg p off (base_ne_destPlace p key hoff)
    rw [Dev.scrubbed, Dev.owner, Dev.getF, hlow _ _ (by decide), Dev.st, Dev.getF, hlow _ _ (by decide)]
    exact hscr
  have hcount : f.reg (pHbr n) 0x70 = d.reg (pHbr n) 0x70 + 1 := by
    rw [hf, Dev.reg_addCount_same hscr', hreg _ _ (base_ne_destPlace _ key (by decide))]
    rfl
  refine ⟨?_, ?_, hcount, ?_⟩
  · rw [hf, Dev.addCount_only]
    dsimp only
    rw [hdest, (DestState.unwaited_keeps _).1, Dev.destPop, tgetD_tmod]
  · rw [hf, Dev.addCount_only, honly]
    rfl
  · rw [hf, Dev.addCount_only, honly]
    rfl

section Deliver
variable {s : State} {key : Fin 4096} {words : List (BitVec 32)} {m : DMsg} {rest : List DMsg} (hfirst : (tgetD s.dev.dests key {}).q = m :: rest)
include hfirst

theorem exec_messageDeliver_dropped {x : Dest} {q : Qp} (hx : x = s.dev.destOf key words) (hq : q = s.dev.qp (qpKey x.port x.slot))
    (h : x.valid = false ∨ q.serves key = false ∨ (q.st = qsReset ∧ (tgetD s.dev.dests key {}).waitAt = none)) :
    exec (.messageDeliver key words) s = .next ⟨((s.dev.destPop key).waitEnds key).addCount (pHbr x.port) 0x70 1, s.pending⟩ := by
  subst hq hx
  refine s.upd_congr ?_
  dsimp only
  rw [hfirst]
  refine if_pos ?_
  rcases h with h | h | ⟨h, hw⟩
  · exact Bool.or_eq_true_iff.2 (.inl (Bool.or_eq_true_iff.2 (.inl (congrArg not h))))
  · exact Bool.or_eq_true_iff.2 (.inl (Bool.or_eq_true_iff.2 (.inr (congrArg not h))))
  · exact Bool.or_eq_true_iff.2 (.inr (Bool.and_eq_true_iff.2 ⟨decide_eq_true h, by rw [hw]; rfl⟩))

theorem exec_messageDeliver_waits {x : Dest} {q : Qp} (hx : x = s.dev.destOf key words) (hq : q = s.dev.qp (qpKey x.port x.slot)) (hvalid : x.valid = true) (hserves : q.serves key = true)
    (hreset : q.st = qsReset → (tgetD s.dev.dests key {}).waitAt ≠ none) (h : s.dev.hbrOn x.port = false ∨ q.st ≠ qsRts) :
    exec (.messageDeliver key words) s = .next ⟨s.dev.destWait key, s.pending⟩ := by
  have hkept := DestState.kept (st := tgetD s.dev.dests key {}) hvalid hserves hreset
  have hshut : (!s.dev.hbrOn x.port || decide (q.st ≠ qsRts)) = true := by rcases h with h | h <;> simp [h]
  subst hq hx
  refine s.upd_congr ?_
  dsimp only
  rw [hfirst]
  exact (if_neg hkept).trans (if_pos hshut)

theorem exec_messageDeliver_sent {x : Dest} {q : Qp} (hx : x = s.dev.destOf key words) (hq : q = s.dev.qp (qpKey x.port x.slot)) (hvalid : x.valid = true) (hserves : q.serves key = true)
    (hst : q.st = qsRts) (hon : s.dev.hbrOn x.port = true) (hring : x.ring = false) :
    exec (.messageDeliver key words) s = .next ⟨(s.dev.putReq x.port x.slot (.send m.cls m.data)).delivered key, s.pending⟩ := by
  have hkept := DestState.kept (st := tgetD s.dev.dests key {}) hvalid hserves fun h => absurd (hst.symm.trans h) (by decide)
  have hopen : ¬ (!s.dev.hbrOn x.port || decide (q.st ≠ qsRts)) = true := by simp [hon, hst]
  have hplain : (!x.ring) = true := congrArg not hring
  subst hq hx
  rw [← Dev.hostSend_rts hst]
  refine s.upd_congr ?_
  dsimp only
  rw [hfirst]
  exact (if_neg hkept).trans ((if_neg hopen).trans (if_pos hplain))

/-- A message that fits the ring behind what stands there, without a gap to its end. -/
theorem exec_messageDeliver_ring {x : Dest} {q : Qp} {st : DestState} (hx : x = s.dev.destOf key words) (hq : q = s.dev.qp (qpKey x.port x.slot)) (hvalid : x.valid = true)
    (hserves : q.serves key = true) (hst : q.st = qsRts) (hon : s.dev.hbrOn x.port = true) (hring : x.ring = true) (hstate : st = tgetD s.dev.dests key {})
    (hfit : st.written % x.size + roundUp (24 + m.data.length) 64 ≤ x.size) (hroom : st.written - st.consumed + roundUp (24 + m.data.length) 64 ≤ x.size) :
    exec (.messageDeliver key words) s = .next ⟨((s.dev.putReq x.port x.slot (.write (x.va + st.written % x.size) (x.w 1).toNat
        (ringEntry (roundUp (24 + m.data.length) 64) m.cls (st.ringSeq + 1) m.data))).ringGrows key (st.ringSeq + 1) (st.written + roundUp (24 + m.data.length) 64)).delivered key, s.pending⟩ := by
  have hkept := DestState.kept (st := tgetD s.dev.dests key {}) hvalid hserves fun h => absurd (hst.symm.trans h) (by decide)
  have hopen : ¬ (!s.dev.hbrOn x.port || decide (q.st ≠ qsRts)) = true := by simp [hon, hst]
  have hplain : ¬ (!x.ring) = true := by simp [hring]
  have hpad : (if x.size < st.written % x.size + roundUp (24 + m.data.length) 64 then x.size - st.written % x.size else 0) = 0 := if_neg (Nat.not_lt.2 hfit)
  subst hq hstate
  refine s.upd_congr ?_
  dsimp only
  rw [hfirst]
  dsimp only
  rw [show (if key.val / 64 = s.dev.devnum then s.dev.destRec key else ⟨words⟩ : Dest) = x from hx.symm]
  refine (if_neg hkept).trans ((if_neg hopen).trans ((if_neg hplain).trans ?_))
  rw [hpad]
  refine (if_neg (by omega)).trans ?_
  rw [if_pos rfl, if_pos rfl]
  simp only [Nat.add_zero]
  rw [Dev.hostSend_rts hst]
  rfl

end Deliver

/-- A request to the host changes no destination and no memory. -/
theorem Dev.delivered_putReq (d : Dev) (n slot key : Nat) (what : HostOut) {f : Dev} (hf : f = (d.putReq n slot what).delivered key) :
    (tgetD f.dests key {}).q = (tgetD d.dests key {}).q.drop 1 ∧ (tgetD f.dests key {}).waitAt = none ∧
      f.sent = .host n slot (d.roce n slot (d.qp (qpKey n slot)).sqPsn) what :: d.sent ∧ f.mem = d.mem := by
  obtain ⟨hsent, hmem, hdest⟩ := (d.putReq n slot what).delivered_effect key
  have hput := d.putReq_effect n slot what
  obtain ⟨hq, hwait, -, -⟩ := (tgetD (d.putReq n slot what).dests key {}).unwaited_keeps
  have hdests : (d.putReq n slot what).dests = d.dests := by rw [hput]
  rw [hf, hdest, hsent, hmem]
  refine ⟨?_, hwait, by rw [hput], by rw [hput]⟩
  dsimp only
  rw [hq, hdests]

/-- An entry written to the ring of a destination. -/
theorem Dev.delivered_ringGrows (d : Dev) (n slot key seq written : Nat) (what : HostOut) {f : Dev} (hf : f = ((d.putReq n slot what).ringGrows key seq written).delivered key) :
    (tgetD f.dests key {}).q = (tgetD d.dests key {}).q.drop 1 ∧ (tgetD f.dests key {}).ringSeq = seq ∧ (tgetD f.dests key {}).written = written ∧
      f.sent = .host n slot (d.roce n slot (d.qp (qpKey n slot)).sqPsn) what :: d.sent ∧ f.mem = d.mem := by
  obtain ⟨hsent, hmem, hdest⟩ := ((d.putReq n slot what).ringGrows key seq written).delivered_effect key
  have hput := d.putReq_effect n slot what
  have hdests : tgetD ((d.putReq n slot what).ringGrows key seq written).dests key {} = { tgetD d.dests key {} with ringSeq := seq, written := written } := by
    rw [Dev.ringGrows, tgetD_tmod, hput]
  obtain ⟨hq, -, hseq, hwritten⟩ := (tgetD ((d.putReq n slot what).ringGrows key seq written).dests key {}).unwaited_keeps
  rw [hdests] at hq hseq hwritten
  rw [hf, hdest, hsent, hmem, hdests]
  exact ⟨congrArg (List.drop 1) hq, hseq, hwritten, (congrArg Dev.sent hput).trans rfl, (congrArg Dev.mem hput).trans rfl⟩

/-! ### HOST_PULL (R302) -/

/-- The device with the pull that a HOST_PULL item begins. -/
def Dev.pulling (e : Dev) (i : Item) : Dev := { e with pulls := e.pulls ++ [⟨i.msg, i.item, i.ptn, numAt i.body 0x10 8, numAt i.body 0xC 4, 0, []⟩] }

theorem Dev.hostPull_invalid {e : Dev} {i : Item} (h : numAt i.body 0xC 4 = 0 ∨ 16777216 < numAt i.body 0xC 4) : e.hostPull i = e.endItem i cMsgInvalid 0xC :=
  if_pos (by simpa using h)

section Pull
variable {e : Dev} {i : Item} (hlen : numAt i.body 0xC 4 ≠ 0) (hmax : numAt i.body 0xC 4 ≤ 16777216)
include hlen hmax

theorem Dev.hostPull_asks {n slot : Nat} (hqp : i.qp = some ((e.pulling i).devnum, n, slot)) (hst : ((e.pulling i).qp (qpKey n slot)).st = qsRts) :
    e.hostPull i = (e.pulling i).putReq n slot (.pull (numAt i.body 0 8) (numAt i.body 8 4) (numAt i.body 0xC 4) i.msg i.item i.ptn (numAt i.body 0x10 8)) := by
  unfold Dev.hostPull
  extract_lets len pva
  refine (if_neg (by simp [len, hlen, hmax])).trans ?_
  rw [hqp]
  exact (if_pos rfl).trans (Dev.hostSend_rts hst _)

theorem Dev.hostPull_far (hqp : ∀ n slot, i.qp ≠ some ((e.pulling i).devnum, n, slot)) : e.hostPull i = e.pulling i := by
  unfold Dev.hostPull
  extract_lets len pva
  refine (if_neg (by simp [len, hlen, hmax])).trans ?_
  rcases hq : i.qp with _ | ⟨dev, n, slot⟩
  · rfl
  · refine if_neg fun h => hqp n slot (hq.trans ?_)
    rw [h]
    rfl

end Pull

/-! ### Data of a read (R302, R304) -/

/-- A counter other than the device's number leaves the number. -/
theorem Dev.devnum_addCount (d : Dev) {p : Page} {off : Nat} (hne : pDev.base + 0x80 ≠ p.base + off) (n : Nat) : (d.addCount p off n).devnum = d.devnum := by
  rw [Dev.devnum, Dev.devnum, Dev.getF, Dev.getF, (d.sameRegsBut_addCount p off n).reg_of_ne (by simpa using hne)]

section ReadData
variable {s : State} {n : Fin 4} {slot : Fin 64} {data : List (BitVec 8)} (hon : s.dev.hbrOn n = true)
include hon

theorem exec_rdmaReadResponse_badIcrc : exec (.rdmaReadResponse n slot data false false none) s = .next ⟨s.dev.addCount (pHbr n) 0x6C 1, s.pending⟩ :=
  s.upd_congr ((if_neg (by simp [hon])).trans (if_pos rfl))

variable {e : Dev} {far : Option (Fin 64 × Fin 24 × BitVec 8 × BitVec 48)} (he : e = s.dev.addCount (pHbr n) 0x5C ((s.dev.qp (qpKey n slot)).packets data.length))
include he

theorem exec_rdmaReadResponse_unready (hst : (s.dev.qp (qpKey n slot)).st ≠ qsRts) : exec (.rdmaReadResponse n slot data true false far) s = .next ⟨e, s.pending⟩ := by
  subst he
  exact s.upd_congr ((if_neg (by simp [hon])).trans ((if_neg (by simp)).trans (if_pos hst)))

theorem exec_rdmaReadResponse_far {dev : Fin 64} {p : Fin 24} {dom : BitVec 8} {pva : BitVec 48} (hst : (s.dev.qp (qpKey n slot)).st = qsRts) (hdev : dev.val ≠ e.devnum) :
    exec (.rdmaReadResponse n slot data true false (some (dev, p, dom, pva))) s =
      .next ⟨(Dev.relayWrite (data.length + 1) e (.pva dev p dom.toNat) pva.toNat data).2, s.pending⟩ := by
  subst he
  exact s.upd_congr ((if_neg (by simp [hon])).trans ((if_neg (by simp)).trans ((if_neg (not_not.2 hst)).trans (if_neg hdev))))

theorem exec_rdmaReadResponse_own (hst : (s.dev.qp (qpKey n slot)).st = qsRts) : exec (.rdmaReadResponse n slot data true false none) s = .next ⟨e.pullData n slot data, s.pending⟩ := by
  subst he
  exact s.upd_congr ((if_neg (by simp [hon])).trans ((if_neg (by simp)).trans (if_neg (not_not.2 hst))))

end ReadData

end Sys2Proof.Machine

namespace Sys2Proof.Proofs
open Sys2Proof Sys2Proof.Machine

/-- Settles O45: each message and each answer of the host goes its one way; a destination's count, its ring and its wait end with the message that leaves it. -/
theorem bridgeForwardsAndDelivers : Obligations.BridgeForwardsAndDelivers := by
  refine ⟨?_, ?_, ?_, ?_⟩
  · intro s n slot k q m rest e hk hq hsends he
    subst hk hq
    refine ⟨exec_sendForward_waits hsends, fun hlost hids hawake => ?_⟩
    have hgo := exec_sendForward_goes hsends hlost hids hawake
    rw [← he] at hgo
    have hnum : e.devnum = s.dev.devnum := by rw [he]; rfl
    refine ⟨fun hmark => hgo.trans ?_, fun hmark hmay => hgo.trans ?_, fun hmark hmay hdev => hgo.trans ?_, fun hmark hmay hdev hlt hroute => ?_⟩
    · rw [Dev.forwards_marked hmark]
    · rw [Dev.forwards_role hmark hmay]
    · rw [Dev.forwards_here hmark hmay (hdev.trans hnum.symm), hnum]
    · obtain ⟨x, hqps, hmem, hmid, hto, hcls, hdata, hdom, hnext, hkeep⟩ := Dev.forwards_sent (n := n) (slot := slot) (e := e) hmark hmay
        (fun h => hdev (h.trans hnum)) hlt (by rw [he]; exact hroute)
      refine ⟨_, x, hgo, ?_, hmem, hmid.trans (by rw [he]; rfl), hto, hcls, hdata, hdom, hnext.trans (by rw [he]; rfl), hkeep.trans (by rw [he]; rfl)⟩
      rw [Dev.qp_of_qps hqps, he, Dev.qp_setQp]
  · intro s p i e hdue
    have hserve := s.upd_serveItem_due hdue Dev.hostPull
    refine ⟨fun h => hserve.trans (by rw [Dev.hostPull_invalid h]), fun n slot hlen hmax hqp hst => ?_, fun hlen hmax hqp => hserve.trans (by rw [Dev.hostPull_far hlen hmax hqp]; rfl)⟩
    refine ⟨_, hserve.trans (by rw [Dev.hostPull_asks hlen hmax hqp hst]), ?_⟩
    rw [Dev.putReq_effect]
    exact ⟨rfl, rfl, rfl, rfl⟩
  · intro s n slot data q r x va key len e g ids hon hq he
    subst hq
    refine ⟨exec_rdmaReadResponse_badIcrc hon, fun hst => exec_rdmaReadResponse_unready hon he hst, fun dev p dom pva hst hdev hrelay => ?_,
      fun hst hreq hwhat hpull hlen hrelay => (exec_rdmaReadResponse_own hon he hst).trans ?_⟩
    · rw [exec_rdmaReadResponse_far hon he hst (by rw [he, Dev.devnum_addCount _ (by simp only [Page.base]; omega)]; exact hdev), hrelay]
    · have hreqs : (e.qp (qpKey n slot)).reqs.find? HostReq.isPull = some r := by
        rw [he, Dev.qp_addCount]
        exact hreq
      rw [Dev.pullData_more hreqs hwhat (by rw [he, Dev.addCount_only]; exact hpull) hlen hrelay]
  · intro s key words m rest x st q bound hst hfirst hx hq hbound
    subst hst
    have hbound : q.serves key = true ↔ bound := by
      rw [hbound]
      exact q.serves_iff key
    refine ⟨fun h hscr => ?_, fun hvalid hb hshut hreset => ?_, fun hvalid hb hrts hon => ?_⟩
    · have hdrop := exec_messageDeliver_dropped hfirst hx hq (h.imp_right (.imp_left fun hb => Bool.eq_false_iff.2 (mt hbound.1 hb)))
      obtain ⟨hrest, hsent, hcount, hmem⟩ := s.dev.dropped_effect key x.port hscr rfl
      exact ⟨_, hdrop, hrest.trans (congrArg (List.drop 1) hfirst), hsent, hcount, hmem⟩
    · exact ⟨_, exec_messageDeliver_waits hfirst hx hq hvalid (hbound.2 hb) hreset hshut, by rw [Dev.destWait, tgetD_tmod], rfl, rfl, rfl⟩
    · refine ⟨fun hring => ?_, fun len pos hring hlen hpos hfit hroom => ?_⟩
      · obtain ⟨hrest, hwait, hsent, hmem⟩ := s.dev.delivered_putReq x.port x.slot key (.send m.cls m.data) rfl
        subst hq
        exact ⟨_, exec_messageDeliver_sent hfirst hx rfl hvalid (hbound.2 hb) hrts hon hring, hrest.trans (congrArg (List.drop 1) hfirst), hwait, hsent, hmem⟩
      · subst hlen hpos hq
        have hput := exec_messageDeliver_ring hfirst hx rfl hvalid (hbound.2 hb) hrts hon hring rfl hfit hroom
        obtain ⟨hrest, hseq, hwritten, hsent, hmem⟩ := Dev.delivered_ringGrows s.dev x.port x.slot key _ _ _ rfl
        exact ⟨_, hput, hrest.trans (congrArg (List.drop 1) hfirst), hseq, hwritten, hsent, hmem⟩

end Sys2Proof.Proofs

/-! SUPPORT. Requests of the host (14, R296–R299): their turn, relays to another device; and the statement about them. -/

namespace Sys2Proof.Machine

/-! ### Relays to another device (R298) -/

/-- `d'` differs from `d` in what relays to another device touch only. -/
def Dev.Relays (d d' : Dev) : Prop :=
  d' = { d with
    heldOps := d'.heldOps, reqs := d'.reqs, ports := d'.ports, routes := d'.routes, outMsgs := d'.outMsgs
    nextId := d'.nextId, nextMid := d'.nextMid, nextTag := d'.nextTag, dests := d'.dests }

theorem Dev.Relays.trans {a b c : Dev} (h : a.Relays b) (h' : b.Relays c) : a.Relays c := by
  unfold Dev.Relays at *
  rw [h', h]

theorem Dev.SendsOnly.relays {d d' : Dev} (h : d.SendsOnly d') : d.Relays d' := by
  unfold Dev.Relays
  rw [h]

theorem Dev.Relays.csr {d d' : Dev} (h : d.Relays d') : d'.csr = d.csr := by rw [h]
theorem Dev.Relays.mem {d d' : Dev} (h : d.Relays d') : d'.mem = d.mem := by rw [h]
theorem Dev.Relays.qps {d d' : Dev} (h : d.Relays d') : d'.qps = d.qps := by rw [h]
theorem Dev.Relays.inOps {d d' : Dev} (h : d.Relays d') : d'.inOps = d.inOps := by rw [h]
theorem Dev.Relays.devnum {d d' : Dev} (h : d.Relays d') : d'.devnum = d.devnum := by rw [Dev.devnum, Dev.getF, Dev.reg, h.csr]; rfl

theorem Dev.relays_putRelay {d : Dev} {dev : Nat} (hdev : dev ≠ d.devnum) (op domain : Nat) (fields : List (Nat × Nat)) (a : Nat) (bs : List Byte) (len : Nat) (what : Option ReqFor) :
    d.Relays (d.putRelay dev op domain fields a bs len what).2 := by
  cases what with
  | none =>
    have hgo : d.putRelay dev op domain fields a bs len none = (d.nextId, d.takeId.2.sendOp
      ⟨d.nextId, dev, addrSel (a % 2 ^ 44), d.takeId.2.dataFrame dev op noJob domain ([(128, a % 2 ^ 44), (172, len), (224, 0)] ++ fields) bs, none⟩) := if_neg hdev
    rw [hgo]
    exact Dev.Relays.trans (b := d.takeId.2) rfl (Dev.sendsOnly_sendOp ..).relays
  | some w =>
    have hgo : d.putRelay dev op domain fields a bs len (some w) = (d.nextId, d.takeId.2.takeTag.2.sendOp
      ⟨d.nextId, dev, addrSel (a % 2 ^ 44), d.takeId.2.takeTag.2.dataFrame dev op noJob domain ([(128, a % 2 ^ 44), (172, len), (224, d.takeId.2.takeTag.1)] ++ fields) bs,
        some ⟨d.takeId.2.takeTag.1, noJob, 0, len, 0, w⟩⟩) := if_neg hdev
    rw [hgo]
    exact Dev.Relays.trans (b := d.takeId.2.takeTag.2) rfl (Dev.sendsOnly_sendOp ..).relays

theorem Dev.relays_relay1 {d : Dev} {t : RelayTo} {a : Nat} (hdev : t.dev a ≠ d.devnum) (bs : List Byte) (len : Nat) (what : Option ReqFor) : d.Relays (d.relay1 t a bs len what).2 := by
  cases t with
  | pva dev ptn domain => exact Dev.relays_putRelay hdev ..
  | group => exact Dev.relays_putRelay hdev ..

theorem Dev.relays_relayWrite {fuel : Nat} {d : Dev} {t : RelayTo} {a : Nat} {bs : List Byte} (hdev : ∀ x, a ≤ x → x < a + bs.length → t.dev x ≠ d.devnum) :
    d.Relays (Dev.relayWrite fuel d t a bs).2 := by
  induction fuel generalizing d a bs with
  | zero => rfl
  | succ fuel ih =>
    unfold Dev.relayWrite
    split
    · rfl
    · next hne =>
      have hpos : 0 < bs.length := List.length_pos_iff.2 fun h => hne (by rw [h]; rfl)
      have hone := Dev.relays_relay1 (hdev a (Nat.le_refl _) (by omega)) (bs.take (min bs.length (4096 - a % 4096))) (min bs.length (4096 - a % 4096)) none
      refine hone.trans (ih fun x hx hlt => ?_)
      rw [hone.devnum]
      rw [List.length_drop] at hlt
      exact hdev x (by omega) (by omega)

theorem Dev.relays_relayRead {fuel : Nat} {d : Dev} {t : RelayTo} {a off n : Nat} {what : Nat → ReqFor} (hdev : ∀ x, a ≤ x → x < a + n → t.dev x ≠ d.devnum) :
    d.Relays (Dev.relayRead fuel d t a off n what) := by
  induction fuel generalizing d a off n with
  | zero => rfl
  | succ fuel ih =>
    unfold Dev.relayRead
    split
    · rfl
    · next hne =>
      have hone := Dev.relays_relay1 (hdev a (Nat.le_refl _) (by omega)) [] (min n (4096 - a % 4096)) (some (what off))
      refine hone.trans (ih fun x hx hlt => ?_)
      rw [hone.devnum]
      exact hdev x (by omega) (by omega)

/-- Without an operation on the local path nothing is performed there. -/
theorem Dev.runLocal_idle {d : Dev} (h : ∀ o ∈ d.inOps, o.path ≠ localPath) : d.runLocal = d := by
  have hnone : (d.inOps.find? fun o => o.path = localPath) = none := List.find?_eq_none.2 fun o ho => by simpa using h o ho
  have hfirst : d.performFirst localPath = (none, d) := by
    unfold Dev.performFirst
    split
    · rfl
    · rw [hnone]
  unfold Dev.runLocal Dev.performPath
  rw [hfirst]

/-- A range that does not pass a device's 16 TiB but once lies in the first and the last device. -/
theorem dev_of_range {a n x dev : Nat} (hn : n ≤ 2 ^ 44) (hlo : a ≤ x) (hhi : x < a + n) (hfirst : a / 2 ^ 44 ≠ dev) (hlast : (a + n - 1) / 2 ^ 44 ≠ dev) : x / 2 ^ 44 ≠ dev := by
  omega

/-! ### A request in its turn (R299) -/

theorem Dev.scrubbed_addCount (d : Dev) (p q : Page) {off : Nat} (hoff : off < 4096 ∧ off ≠ 0x24 ∧ off ≠ 0xC) (n : Nat) : (d.addCount q off n).scrubbed p = d.scrubbed p := by
  have hreg : ∀ (r : Page) (o : Nat), o = 0x24 ∨ o = 0xC → (d.addCount q off n).reg r o = d.reg r o := fun r o ho =>
    (d.sameRegsBut_addCount q off n).reg_of_ne (by have := q.base_mod; have := r.base_mod; simp only [List.mem_singleton, forall_eq]; omega)
  rw [Dev.scrubbed, Dev.owner, Dev.getF, hreg _ _ (.inl rfl), Dev.st, Dev.getF, hreg _ _ (.inr rfl)]
  rfl

theorem Dev.endIdle_awake {d : Dev} (h : d.devPower ≠ 1) : d.endIdle = d := if_neg h

theorem Dev.rxHost_off {d : Dev} {n : Nat} (h : d.hbrOn n = false) (slot : Nat) (p : HostPkt) (first again : Dev → Dev) : d.rxHost n slot p first again = d :=
  if_pos (by simp [h])

section Turn
variable {d : Dev} {n slot psn : Nat} (hon : d.hbrOn n = true) (hpower : d.devPower ≠ 1)
include hon hpower

theorem Dev.rxHost_badIcrc (count : Nat) (ce known : Bool) (first again : Dev → Dev) : d.rxHost n slot ⟨psn, count, false, ce, known⟩ first again = d.addCount (pHbr n) 0x6C 1 := by
  unfold Dev.rxHost
  rw [Dev.endIdle_awake hpower]
  exact (if_neg (by simp [hon])).trans (if_pos rfl)

variable (hst : (d.qp (qpKey n slot)).st = qsRts) (hpsn : psn = (d.qp (qpKey n slot)).rqPsn)
include hst hpsn

theorem Dev.rxHost_turn (count : Nat) (known : Bool) (first again : Dev → Dev) : d.rxHost n slot ⟨psn, count, true, false, known⟩ first again =
    if known then first (d.addCount (pHbr n) 0x5C count) else (d.addCount (pHbr n) 0x5C count).hostNak n slot psn synInvalid := by
  unfold Dev.rxHost
  rw [Dev.endIdle_awake hpower]
  exact (if_neg (by simp [hon])).trans ((if_neg (by simp)).trans ((if_neg (not_not.2 hst)).trans (if_pos hpsn)))

end Turn

/-- The port's count of packets that came in touches no word of the encapsulation. -/
theorem Dev.packets_count (d : Dev) (n off c : Nat) (h : 0x58 ≤ off) : d.Packets (d.addCount (pHbr n) off c) n :=
  ⟨by rw [Dev.addCount_only], fun o' ho' => (d.sameRegsBut_addCount (pHbr n) off c).reg (by simp; omega)⟩

/-! ### Answers (R299) -/

/-- A NAK of a request that cannot be served, after the count of its packets: the queue pair is in ERROR. -/
theorem Dev.hostNak_fails (d : Dev) {n slot psn c syn : Nat} (h : syn = synInvalid ∨ syn = synAccess) {f : Dev} (hf : f = (d.addCount (pHbr n) 0x5C c).hostNak n slot psn syn) :
    (f.qp (qpKey n slot)).st = qsError ∧ f.sent = .hostNak n slot (d.roce n slot psn) syn :: d.sent ∧ f.mem = d.mem := by
  have hcount := d.packets_count n 0x5C c (by decide)
  have hsyn : syn < 65536 := by rcases h with rfl | rfl <;> decide
  have hgo : f = (((d.addCount (pHbr n) 0x5C c).out (.hostNak n slot (d.roce n slot psn) syn)).addCount (pHbr n) 0x60 1).qpError n slot syn := by
    rw [hf, Dev.hostNak, hcount.roce]
    exact if_pos (by simpa using h)
  refine ⟨hgo ▸ (Dev.qpError_effect hsyn).1, ?_, ?_⟩
  · rw [hgo]
    exact (Dev.sent_out_addCount ..).trans (by rw [Dev.sent_addCount])
  · rw [hgo]
    exact (Dev.addCount_mem ..).trans (Dev.addCount_mem ..)

/-- An RNR NAK, after the count of the request's packets: it is counted, and no queue pair changes. -/
theorem Dev.hostRnr_counts {d : Dev} {n : Nat} (hscr : d.scrubbed (pHbr n) = false) (slot psn c : Nat) {f : Dev} (hf : f = (d.addCount (pHbr n) 0x5C c).hostRnr n slot psn) :
    f.qps = d.qps ∧ f.sent = .hostNak n slot (d.roce n slot psn) (0x20 + d.getF (pHbr n) 0x40 10 6) :: d.sent ∧ f.reg (pHbr n) 0x64 = d.reg (pHbr n) 0x64 + 1 ∧ f.mem = d.mem := by
  have hcount := d.packets_count n 0x5C c (by decide)
  have htimer : (d.addCount (pHbr n) 0x5C c).getF (pHbr n) 0x40 10 6 = d.getF (pHbr n) 0x40 10 6 := by rw [Dev.getF, Dev.getF, hcount.reg _ (by decide)]
  rw [hf, Dev.hostRnr, hcount.roce, htimer]
  generalize ho : Sent.hostNak n slot (d.roce n slot psn) (0x20 + d.getF (pHbr n) 0x40 10 6) = o
  have hscr' : ((((d.addCount (pHbr n) 0x5C c).out o).addCount (pHbr n) 0x60 1)).scrubbed (pHbr n) = false :=
    (Dev.scrubbed_addCount _ _ _ (by decide) _).trans ((Dev.scrubbed_addCount _ _ _ (by decide) _).trans hscr)
  have h60 : (((d.addCount (pHbr n) 0x5C c).out o).addCount (pHbr n) 0x60 1).reg (pHbr n) 0x64 = (d.addCount (pHbr n) 0x5C c).reg (pHbr n) 0x64 :=
    (Dev.sameRegsBut_addCount ((d.addCount (pHbr n) 0x5C c).out o) (pHbr n) 0x60 1).reg (by decide)
  have h5C : (d.addCount (pHbr n) 0x5C c).reg (pHbr n) 0x64 = d.reg (pHbr n) 0x64 := (d.sameRegsBut_addCount (pHbr n) 0x5C c).reg (by decide)
  have hall := (hcount.trans ((d.addCount (pHbr n) 0x5C c).packets_sent n o 0x60 1 (by decide))).trans (Dev.packets_count _ n 0x64 1 (by decide))
  refine ⟨by rw [hall.only], ?_, by rw [Dev.reg_addCount_same hscr', h60, h5C]; rfl, by rw [hall.only]⟩
  rw [Dev.sent_addCount, Dev.sent_out_addCount, Dev.sent_addCount]

/-! ### The next PSN expected -/

theorem wfld_ofNat24 {v : Nat} : wfld (BitVec.ofNat 32 (v % 2 ^ 24)) 23 0 = v % 2 ^ 24 := by
  simp only [wfld, fld, BitVec.toNat_ofNat]
  omega

/-- A queue pair that expects the PSN `v`. -/
def Qp.expecting (q : Qp) (v : Nat) : Qp := q.setWord 0xC (BitVec.ofNat 32 (v % 2 ^ 24))

theorem Qp.rqPsn_expecting (q : Qp) (v : Nat) : (q.expecting v).rqPsn = v % 2 ^ 24 := (congrArg (wfld · 23 0) (q.word_setWord ..)).trans wfld_ofNat24

theorem Qp.word_expecting (q : Qp) (v : Nat) {off : Nat} (h : off ≠ 0xC) : (q.expecting v).word off = q.word off := q.word_setWord_ne _ h

theorem Dev.qp_psnTo (d : Dev) (n slot v : Nat) : (d.psnTo n slot v).qp (qpKey n slot) = (d.qp (qpKey n slot)).expecting v := Dev.qp_setQp ..

theorem Dev.roce_psnTo (d : Dev) (n slot v psn : Nat) : (d.psnTo n slot v).roce n slot psn = d.roce n slot psn :=
  Dev.roce_of_words (d := d) (e := d.psnTo n slot v) (fun off hoff => by rw [Dev.qp_psnTo, Qp.word_expecting _ _ hoff.2]) (fun _ _ => rfl) psn

/-! ### SENDs (R296, R299) -/

/-- A queue pair that has brought a message. -/
def Qp.brings (q : Qp) (psn : Nat) (data : List Byte) (bad : Bool) : Qp :=
  { q with sends := q.sends ++ [⟨psn, data, q.writes.flatMap HostWrite.ids, bad, q.writes.any HostWrite.lost⟩] }

/-- A SEND that the intake buffer holds. -/
def Dev.takesSend (d : Dev) (n slot psn c : Nat) (data : List Byte) (bad : Bool) : Dev :=
  ((d.modQp (qpKey n slot) fun q => q.brings psn data bad).psnTo n slot (psn + c)).hostAck n slot ((psn + c - 1) % 2 ^ 24)

theorem Dev.takesSend_effect (d : Dev) (n slot psn c : Nat) (data : List Byte) (bad : Bool) {f : Dev} (hf : f = d.takesSend n slot psn c data bad) :
    f.qp (qpKey n slot) = ((d.qp (qpKey n slot)).brings psn data bad).expecting (psn + c) ∧ (∀ k, k ≠ qpKey n slot → f.qp k = d.qp k) ∧
      f.sent = .hostAck n slot (d.roce n slot ((psn + c - 1) % 2 ^ 24)) :: d.sent ∧ f.mem = d.mem := by
  have hqp : (d.modQp (qpKey n slot) fun q => q.brings psn data bad).qp (qpKey n slot) = (d.qp (qpKey n slot)).brings psn data bad := Dev.qp_setQp ..
  have hroce : ∀ psn', (d.modQp (qpKey n slot) fun q => q.brings psn data bad).roce n slot psn' = d.roce n slot psn' :=
    Dev.roce_congr (by rw [hqp]; rfl) fun _ _ => rfl
  have hgo : f = (((d.modQp (qpKey n slot) fun q => q.brings psn data bad).psnTo n slot (psn + c)).out (.hostAck n slot (d.roce n slot ((psn + c - 1) % 2 ^ 24)))).addCount (pHbr n) 0x60 1 := by
    rw [hf, Dev.takesSend, Dev.hostAck, Dev.roce_psnTo, hroce]
  have hqps : f.qps = ((d.setQp (qpKey n slot) ((d.qp (qpKey n slot)).brings psn data bad)).psnTo n slot (psn + c)).qps := by
    rw [hgo, Dev.addCount_only]
    rfl
  refine ⟨?_, fun k hk => ?_, ?_, ?_⟩
  · rw [Dev.qp_of_qps hqps, Dev.qp_psnTo, Dev.qp_setQp]
  · rw [Dev.qp_of_qps hqps, Dev.psnTo, Dev.modQp, Dev.qp_setQp_ne _ _ hk, Dev.qp_setQp_ne _ _ hk]
  · rw [hgo, Dev.sent_out_addCount]
    rfl
  · rw [hgo, Dev.addCount_mem]
    rfl

section Send
variable {s : State} {n : Fin 4} {slot : Fin 64} {psn : BitVec 24} {data : List (BitVec 8)} {c : Nat} (hon : s.dev.hbrOn n = true) (hpower : s.dev.devPower ≠ 1)
  (hc : c = (s.dev.qp (qpKey n slot)).packets data.length) (hst : (s.dev.qp (qpKey n slot)).st = qsRts) (hpsn : psn.toNat = (s.dev.qp (qpKey n slot)).rqPsn)
include hon hpower hc hst hpsn

theorem exec_roceSend_unknown : exec (.roceSend n slot psn data true false false false) s = .next ⟨(s.dev.addCount (pHbr n) 0x5C c).hostNak n slot psn.toNat synInvalid, s.pending⟩ := by
  subst hc
  exact s.upd_congr ((Dev.rxHost_turn hon hpower hst hpsn _ _ _ _).trans (if_neg (by decide)))

variable (hlen : data.length ≤ 1048576)
include hlen

theorem exec_roceSend_full (hfull : 8388608 < s.dev.intakeBytes + data.length) :
    exec (.roceSend n slot psn data true false true false) s = .next ⟨(s.dev.addCount (pHbr n) 0x5C c).hostRnr n slot psn.toNat, s.pending⟩ := by
  subst hc
  refine s.upd_congr ((Dev.rxHost_turn hon hpower hst hpsn _ _ _ _).trans ((if_pos rfl).trans ((if_neg (Nat.not_lt.2 hlen)).trans (if_pos ?_))))
  rw [Dev.addCount_only]
  exact hfull

theorem exec_roceSend_taken (hroom : s.dev.intakeBytes + data.length ≤ 8388608) :
    exec (.roceSend n slot psn data true false true false) s = .next ⟨(s.dev.addCount (pHbr n) 0x5C c).takesSend n slot psn.toNat c data false, s.pending⟩ := by
  subst hc
  refine s.upd_congr ((Dev.rxHost_turn hon hpower hst hpsn _ _ _ _).trans ((if_pos rfl).trans ((if_neg (Nat.not_lt.2 hlen)).trans (if_neg ?_))))
  rw [Dev.addCount_only]
  exact Nat.not_lt.2 hroom

end Send

/-! ### RDMA requests (R298, R299) -/

theorem rdmaBad_key {q : Qp} {rkey : Nat} (h : rkey ≠ q.rkey) (va : Nat) : rdmaBad q rkey va = true := by simp [rdmaBad, h]

theorem rdmaBad_good {q : Qp} {rkey va : Nat} (hkey : rkey = q.rkey) (hrole : q.role ≠ 0) (hva : va < if q.role = 1 then 2 ^ 50 else 2 ^ 48) : rdmaBad q rkey va = false := by
  by_cases h1 : q.role = 1
  · rw [if_pos h1] at hva
    have hlt : va < 1125899906842624 := hva
    simp [rdmaBad, hkey, h1, hlt]
  · rw [if_neg h1] at hva
    have hlt : va < 281474976710656 := hva
    simp [rdmaBad, hkey, hrole, h1, hlt]

/-- Where a queue pair relays rests on the device's number and the link domains. -/
theorem Dev.relayTo_psnTo_addCount (d : Dev) {n : Nat} (hn : n < 4) (c slot v : Nat) (q : Qp) (domain : Nat) :
    ((d.addCount (pHbr n) 0x5C c).psnTo n slot v).relayTo q domain = d.relayTo q domain := by
  have hnum : ((d.addCount (pHbr n) 0x5C c).psnTo n slot v).devnum = d.devnum := d.devnum_addCount (by simp only [Page.base]; omega) c
  have hdom : ((d.addCount (pHbr n) 0x5C c).psnTo n slot v).linkDomain q.ptn = d.linkDomain q.ptn :=
    congrArg (wfld · 7 0) ((d.sameRegsBut_addCount (pHbr n) 0x5C c).reg_of_ne (by
      have := (pHbr n).base_mod
      have := (pPtn q.ptn).base_mod
      simp only [List.mem_singleton, forall_eq]
      omega))
  rw [Dev.relayTo, hnum, hdom]
  rfl

/-- An RDMA WRITE relayed, and waiting for its acknowledgement. -/
def Dev.writeWaits (g : Dev) (n slot last : Nat) (ids : List Nat) : Dev :=
  (g.modQp (qpKey n slot) fun x => { x with writes := x.writes ++ [⟨last, ids, false⟩] }).runLocal

section Rdma
variable {s : State} {n : Fin 4} {slot : Fin 64} {psn : BitVec 24} {rkey : BitVec 32} {va : BitVec 64} {dom : BitVec 8} {q : Qp}
  (hon : s.dev.hbrOn n = true) (hpower : s.dev.devPower ≠ 1) (hq : q = s.dev.qp (qpKey n slot)) (hst : q.st = qsRts) (hpsn : psn.toNat = q.rqPsn)
include hon hpower hq hst hpsn

section Write
variable {data : List (BitVec 8)} {c : Nat} (hc : c = q.packets data.length) (hlen : data.length ≤ 16777216)
include hc hlen

theorem exec_rdmaWrite_bad (hbad : rdmaBad q rkey.toNat va.toNat = true) :
    exec (.rdmaWrite n slot psn rkey va data true false dom) s = .next ⟨(s.dev.addCount (pHbr n) 0x5C c).hostNak n slot psn.toNat synAccess, s.pending⟩ := by
  subst hc hq
  exact s.upd_congr ((Dev.rxHost_turn hon hpower hst hpsn _ _ _ _).trans ((if_pos rfl).trans ((if_neg (Nat.not_lt.2 hlen)).trans (if_pos hbad))))

theorem exec_rdmaWrite_good (hgood : rdmaBad q rkey.toNat va.toNat = false) {e g : Dev} {ids : List Nat} (he : e = (s.dev.addCount (pHbr n) 0x5C c).psnTo n slot (psn.toNat + c))
    (hrelay : Dev.relayWrite (data.length + 1) e (e.relayTo q dom.toNat) va.toNat data = (ids, g)) :
    exec (.rdmaWrite n slot psn rkey va data true false dom) s = .next ⟨g.writeWaits n slot ((psn.toNat + c - 1) % 2 ^ 24) ids, s.pending⟩ := by
  subst hc hq he
  refine s.upd_congr ((Dev.rxHost_turn hon hpower hst hpsn _ _ _ _).trans ((if_pos rfl).trans ((if_neg (Nat.not_lt.2 hlen)).trans ((if_neg (by simp [hgood])).trans ?_))))
  dsimp only
  rw [hrelay]
  rfl

end Write

theorem exec_rdmaRead_good {len : BitVec 32} (hlen : len.toNat ≤ 16777216) (hgood : rdmaBad q rkey.toNat va.toNat = false) :
    exec (.rdmaRead n slot psn rkey va len true false dom) s =
      .next ⟨((s.dev.addCount (pHbr n) 0x5C 1).psnTo n slot (psn.toNat + q.packets len.toNat)).startRead n slot psn.toNat va.toNat len.toNat dom.toNat, s.pending⟩ := by
  subst hq
  exact s.upd_congr ((Dev.rxHost_turn hon hpower hst hpsn _ _ _ _).trans ((if_pos rfl).trans ((if_neg (Nat.not_lt.2 hlen)).trans (if_neg (by simp [hgood])))))

end Rdma

/-- A device that has counted a request's packets and expects the next one. -/
def Dev.turned (d : Dev) (n slot c v : Nat) : Dev := (d.addCount (pHbr n) 0x5C c).psnTo n slot v

theorem Dev.qp_turned (d : Dev) (n slot c v : Nat) : (d.turned n slot c v).qp (qpKey n slot) = (d.qp (qpKey n slot)).expecting v := by
  rw [Dev.turned, Dev.qp_psnTo, Dev.qp_addCount]

theorem Dev.turned_keeps (d : Dev) {n : Nat} (hn : n < 4) (slot c v : Nat) : (d.turned n slot c v).mem = d.mem ∧ (d.turned n slot c v).inOps = d.inOps ∧ (d.turned n slot c v).sent = d.sent ∧
    (d.turned n slot c v).devnum = d.devnum := by
  refine ⟨Dev.addCount_mem .., ?_, d.sent_addCount .., d.devnum_addCount (by simp only [Page.base]; omega) c⟩
  rw [Dev.turned, Dev.addCount_only]
  rfl

/-- A WRITE relayed to another device waits behind the writes of its queue pair. -/
theorem Dev.writeWaits_far {e g : Dev} (h : e.Relays g) (hlocal : ∀ o ∈ e.inOps, o.path ≠ localPath) (n slot last : Nat) (ids : List Nat) :
    (g.writeWaits n slot last ids).qp (qpKey n slot) = { e.qp (qpKey n slot) with writes := (e.qp (qpKey n slot)).writes ++ [⟨last, ids, false⟩] } ∧
      (g.writeWaits n slot last ids).mem = e.mem := by
  have hidle : g.writeWaits n slot last ids = g.modQp (qpKey n slot) fun x => { x with writes := x.writes ++ [⟨last, ids, false⟩] } :=
    Dev.runLocal_idle (d := g.modQp (qpKey n slot) _) (by
      have hin : (g.modQp (qpKey n slot) fun x => { x with writes := x.writes ++ [⟨last, ids, false⟩] }).inOps = e.inOps := h.inOps
      rw [hin]
      exact hlocal)
  rw [hidle]
  refine ⟨?_, h.mem⟩
  rw [Dev.modQp, Dev.qp_setQp, Dev.qp_of_qps h.qps]

theorem Dev.startRead_empty (d : Dev) (n slot psn va domain : Nat) : d.startRead n slot psn va 0 domain = (d.out (.hostData n slot (d.roce n slot psn) 0 [])).addCount (pHbr n) 0x60 1 := by
  unfold Dev.startRead
  exact if_pos rfl

theorem Dev.relayTo_expecting (d : Dev) (q : Qp) (v domain : Nat) : d.relayTo (q.expecting v) domain = d.relayTo q domain := by
  have hword : (q.expecting v).word 0 = q.word 0 := q.word_expecting v (by decide)
  have hrole : (q.expecting v).role = q.role := congrArg (wfld · 3 2) hword
  have hdev : (q.expecting v).dev = q.dev := congrArg (wfld · 9 4) hword
  have hptn : (q.expecting v).ptn = q.ptn := congrArg (wfld · 14 10) hword
  rw [Dev.relayTo, hrole, hdev, hptn]
  rfl

/-- A queue pair of the operator or of a partition relays nothing of a range to this device whose ends lie in other devices. -/
theorem Dev.relayTo_far {d : Dev} {q : Qp} {va len x dev : Nat} (domain : Nat) (hlen : len ≤ 2 ^ 44) (hrole : q.role = 1 ∨ q.role = 2)
    (h1 : q.role = 1 → va / 2 ^ 44 ≠ dev ∧ (va + len - 1) / 2 ^ 44 ≠ dev) (h2 : q.role = 2 → q.dev ≠ dev) (hlo : va ≤ x) (hhi : x < va + len) : (d.relayTo q domain).dev x ≠ dev := by
  rcases hrole with h | h
  · rw [Dev.relayTo, if_pos h]
    exact dev_of_range hlen hlo hhi (h1 h).1 (h1 h).2
  · rw [Dev.relayTo, if_neg (by omega)]
    exact h2 h

/-- A READ relayed to another device stays open. -/
theorem Dev.startRead_far {d : Dev} {n slot psn va len domain : Nat} (hlen : len ≠ 0)
    (hdev : ∀ x, va ≤ x → x < va + len → (d.relayTo (d.qp (qpKey n slot)) domain).dev x ≠ d.devnum) (hlocal : ∀ o ∈ d.inOps, o.path ≠ localPath) :
    ∃ rid, (d.startRead n slot psn va len domain).qp (qpKey n slot) = { d.qp (qpKey n slot) with reads := (d.qp (qpKey n slot)).reads ++ [⟨rid, psn, va, len, 0⟩] } ∧
      (d.startRead n slot psn va len domain).mem = d.mem := by
  generalize he : (d.takeId.2.modQp (qpKey n slot) fun q => { q with reads := q.reads ++ [⟨d.nextId, psn, va, len, 0⟩] }) = e
  have hqp : e.qp (qpKey n slot) = { d.qp (qpKey n slot) with reads := (d.qp (qpKey n slot)).reads ++ [⟨d.nextId, psn, va, len, 0⟩] } := by
    rw [← he]
    exact Dev.qp_setQp ..
  have hgo : d.startRead n slot psn va len domain = (Dev.relayRead (len + 1) e (e.relayTo (d.qp (qpKey n slot)) domain) va 0 len fun off => .relay n slot d.nextId off).runLocal := by
    rw [← he]
    exact if_neg hlen
  have hto : e.relayTo (d.qp (qpKey n slot)) domain = d.relayTo (d.qp (qpKey n slot)) domain := by
    rw [← he]
    rfl
  have hnum : e.devnum = d.devnum := by
    rw [← he]
    rfl
  have hrelays : e.Relays (Dev.relayRead (len + 1) e (e.relayTo (d.qp (qpKey n slot)) domain) va 0 len fun off => .relay n slot d.nextId off) :=
    Dev.relays_relayRead (by rw [hto, hnum]; exact hdev)
  rw [hgo, Dev.runLocal_idle (by rw [hrelays.inOps, ← he]; exact hlocal)]
  refine ⟨d.nextId, (Dev.qp_of_qps hrelays.qps _).trans hqp, hrelays.mem.trans ?_⟩
  rw [← he]
  rfl

end Sys2Proof.Machine

namespace Sys2Proof.Proofs
open Sys2Proof Sys2Proof.Machine

/-- Settles O43: a request in its turn reaches its own work (`Dev.rxHost_turn`); relays to another device leave queue pairs and memory (`Dev.Relays`). -/
theorem hostRequestsArrive : Obligations.HostRequestsArrive := by
  refine ⟨?_, ?_, ?_, ?_⟩
  · intro s n slot psn rkey len va data dom syn icrc ce known bad hoff
    exact ⟨s.upd_congr (Dev.rxHost_off hoff ..), s.upd_congr (Dev.rxHost_off hoff ..), s.upd_congr (Dev.rxHost_off hoff ..), s.upd_congr (if_pos (by simp [hoff])),
      s.upd_congr (if_pos (by simp [hoff])), s.upd_congr (if_pos (by simp [hoff]))⟩
  · intro s n slot psn data q c hon hpower hscr hq hc
    subst hq
    refine ⟨s.upd_congr (Dev.rxHost_badIcrc hon hpower ..), fun hst hpsn hlen => ⟨fun hroom => ?_, fun hfull => ?_, ?_⟩⟩
    · obtain ⟨hqp, hother, hsent, hmem⟩ := Dev.takesSend_effect (s.dev.addCount (pHbr n) 0x5C c) n slot psn.toNat c data false rfl
      rw [Dev.qp_addCount] at hqp
      refine ⟨_, exec_roceSend_taken hon hpower hc hst hpsn hlen hroom, by rw [hqp]; rfl, by rw [hqp, Qp.rqPsn_expecting], ?_, ?_, fun k hk => (hother k hk).trans (Dev.qp_addCount ..), ?_⟩
      · rw [hqp]
        exact (congrArg (wfld · 1 0) (Qp.word_expecting _ _ (by decide))).trans hst
      · rw [hsent, (s.dev.packets_count n 0x5C c (by decide)).roce, Dev.sent_addCount]
      · rw [hmem, Dev.addCount_mem]
    · exact ⟨_, exec_roceSend_full hon hpower hc hst hpsn hlen hfull, Dev.hostRnr_counts hscr slot psn.toNat c rfl⟩
    · exact ⟨_, exec_roceSend_unknown hon hpower hc hst hpsn, s.dev.hostNak_fails (.inl rfl) rfl⟩
  · intro s n slot psn rkey va data dom q c e g ids hon hpower hq hc hst hpsn hlen
    refine ⟨fun hkey => ?_, fun hkey hrole0 hrole3 hva he hrelay => ?_, fun hkey hrole hva hdev hlocal => ?_⟩
    · exact ⟨_, exec_rdmaWrite_bad hon hpower hq hst hpsn hc hlen (rdmaBad_key hkey _), s.dev.hostNak_fails (.inr rfl) rfl⟩
    · refine exec_rdmaWrite_good hon hpower hq hst hpsn hc hlen (rdmaBad_good hkey hrole0 hva) he ?_
      rw [← hrelay, he, s.dev.relayTo_psnTo_addCount n.isLt]
    · have hrole1 : q.role ≠ 1 := by omega
      have hgood := rdmaBad_good (va := va.toNat) hkey (by omega) (by rw [if_neg hrole1]; exact hva)
      obtain ⟨hmem, hin, -, hnum⟩ := s.dev.turned_keeps n.isLt slot c (psn.toNat + c)
      generalize hr : Dev.relayWrite (data.length + 1) (s.dev.turned n slot c (psn.toNat + c)) ((s.dev.turned n slot c (psn.toNat + c)).relayTo q dom.toNat) va.toNat data = r
      have hrelays : (s.dev.turned n slot c (psn.toNat + c)).Relays r.2 := by
        rw [← hr]
        refine Dev.relays_relayWrite fun x _ _ => ?_
        rw [hnum, Dev.relayTo, if_neg hrole1]
        exact hdev
      obtain ⟨hqp, hkeep⟩ := Dev.writeWaits_far hrelays (by rw [hin]; exact hlocal) n slot ((psn.toNat + c - 1) % 2 ^ 24) r.1
      rw [Dev.qp_turned, ← hq] at hqp
      refine ⟨_, r.1, exec_rdmaWrite_good hon hpower hq hst hpsn hc hlen hgood rfl hr, by rw [hqp]; rfl, ?_, hkeep.trans hmem⟩
      rw [hqp]
      exact q.rqPsn_expecting _
  · intro s n slot psn rkey va len dom q hon hpower hq hst hpsn hlen hkey hrole hva
    have hgo := exec_rdmaRead_good (va := va) (dom := dom) hon hpower hq hst hpsn hlen (rdmaBad_good hkey (by omega) hva)
    obtain ⟨hmem, hin, hsent, hnum⟩ := s.dev.turned_keeps n.isLt slot 1 (psn.toNat + q.packets len.toNat)
    have hqp := s.dev.qp_turned n slot 1 (psn.toNat + q.packets len.toNat)
    rw [← hq] at hqp
    refine ⟨fun h0 => ?_, fun hne h1 h2 hlocal => ?_⟩
    · rw [h0] at hqp
      rw [h0, Dev.startRead_empty] at hgo
      refine ⟨_, hgo, ?_, ?_, (Dev.addCount_mem ..).trans (Dev.addCount_mem ..)⟩
      · rw [Dev.sent_out_addCount, Dev.roce_psnTo, (s.dev.packets_count n 0x5C 1 (by decide)).roce]
        exact congrArg _ (Dev.sent_addCount ..)
      · rw [Dev.qp_addCount]
        exact (congrArg Qp.reads hqp).trans rfl
    · obtain ⟨rid, hreads, hkeep⟩ := Dev.startRead_far (d := s.dev.turned n slot 1 (psn.toNat + q.packets len.toNat)) (n := n) (slot := slot) (psn := psn.toNat) (domain := dom.toNat) hne
        (fun x hlo hhi => by
          rw [hqp, Dev.relayTo_expecting, hnum]
          exact Dev.relayTo_far _ (by omega) hrole h1 h2 hlo hhi) (by rw [hin]; exact hlocal)
      rw [hqp] at hreads
      refine ⟨_, rid, hgo, (congrArg Qp.reads hreads).trans rfl, ?_, hkeep.trans hmem⟩
      exact (congrArg Qp.rqPsn hreads).trans (q.rqPsn_expecting _)

end Sys2Proof.Proofs

/-! SUPPORT. Training and lanes of a port (14, R281–R283; 17, R374): what each touches; and the statement about them. -/

namespace Sys2Proof.Machine

/-! ### What the lanes of a port touch -/

/-- `d'` keeps of `d` memory, time, the ports, and the registers below the partitions' pages but the named ones of port `n`. -/
structure Dev.LinkKeeps (d d' : Dev) (n : Nat) (offs : List Nat) : Prop where
  mem : d'.mem = d.mem
  ao : d'.ao = d.ao
  ports : d'.ports = d.ports
  csr : ∀ k < 0x60000, (∀ o ∈ offs, k ≠ (pLink n).base + o) → tget? d'.csr k = tget? d.csr k

theorem Dev.LinkKeeps.refl (d : Dev) (n : Nat) (offs : List Nat) : d.LinkKeeps d n offs := ⟨rfl, rfl, rfl, fun _ _ _ => rfl⟩

theorem Dev.LinkKeeps.mono {d d' : Dev} {n : Nat} {offs offs' : List Nat} (h : d.LinkKeeps d' n offs) (hsub : offs ⊆ offs') : d.LinkKeeps d' n offs' :=
  ⟨h.mem, h.ao, h.ports, fun k hk ho => h.csr k hk fun o hoff => ho o (hsub hoff)⟩

theorem Dev.LinkKeeps.trans {a b c : Dev} {n : Nat} {offs : List Nat} (h : a.LinkKeeps b n offs) (h' : b.LinkKeeps c n offs) : a.LinkKeeps c n offs :=
  ⟨h'.mem.trans h.mem, h'.ao.trans h.ao, h'.ports.trans h.ports, fun k hk ho => (h'.csr k hk ho).trans (h.csr k hk ho)⟩

theorem Dev.LinkKeeps.foldl {α : Type} {n : Nat} {offs : List Nat} {f : Dev → α → Dev} (h : ∀ d a, Dev.LinkKeeps d (f d a) n offs) (l : List α) (d : Dev) : d.LinkKeeps (l.foldl f d) n offs :=
  Dev.foldl_holds (P := fun e => d.LinkKeeps e n offs) (fun e a _ he => he.trans (h e a)) (.refl d n offs)

theorem Dev.Voids.linkKeeps {d d' : Dev} (h : d.Voids d') (n : Nat) (offs : List Nat) : d.LinkKeeps d' n offs :=
  ⟨h.mem, by rw [h.only], by rw [h.only], fun k hk _ => h.csr k hk⟩

theorem Dev.RegsOnly.linkKeeps {d d' : Dev} (h : d.RegsOnly d') {n : Nat} {offs : List Nat} (hregs : d'.SameRegsBut d (pLink n) offs) : d.LinkKeeps d' n offs :=
  ⟨by rw [h], by rw [h], by rw [h], fun k _ ho => (hregs k ho).symm⟩

section Link
variable {d d' : Dev} {n : Nat} {offs : List Nat} (h : d.LinkKeeps d' n offs)
include h

theorem Dev.LinkKeeps.reg (hn : n < 16) {off : Nat} (hoff : off < 4096) (ho : off ∉ offs) : d'.reg (pLink n) off = d.reg (pLink n) off := by
  have hlow : (pLink n).base + off < 0x60000 := by simp only [Page.base]; omega
  have hne : ∀ o ∈ offs, (pLink n).base + off ≠ (pLink n).base + o := fun o hmem heq => ho (Nat.add_left_cancel heq ▸ hmem)
  rw [Dev.reg, Dev.reg, tgetD, tgetD, h.csr _ hlow hne]

theorem Dev.LinkKeeps.pageOn (hn : n < 16) : d'.pageOn (pLink n) = d.pageOn (pLink n) := by
  have hdom : (pLink n).domain = 104 + n / 4 := rfl
  have hreg : d'.reg pPwr (rDom (104 + n / 4)) = d.reg pPwr (rDom (104 + n / 4)) := by
    have hlow : pPwr.base + rDom (104 + n / 4) < 0x10000 := by simp only [Page.base, rDom]; omega
    rw [Dev.reg, Dev.reg, tgetD, tgetD, h.csr _ (by omega) fun o _ => by simp only [Page.base, rDom]; omega]
  rw [Dev.pageOn, Dev.pageOn, hdom, Dev.dom, Dev.dom, Dev.getF, Dev.getF, hreg]

theorem Dev.LinkKeeps.port : d'.port n = d.port n := by rw [Dev.port, h.ports, Dev.port]

end Link

/-! ### The state of a port (R282) -/

theorem Dev.st_setPortSt (d : Dev) (n : Nat) {v : Nat} (hv : v < 16) : (d.setPortSt n v).st (pLink n) = v := by
  unfold Dev.setPortSt
  dsimp only
  split
  · assumption
  · exact d.st_setSt (pLink n) hv

theorem Dev.regsOnly_setPortSt (d : Dev) (n v : Nat) : d.RegsOnly (d.setPortSt n v) := by
  unfold Dev.setPortSt
  dsimp only
  split
  · exact rfl
  · exact (d.regsOnly_setSt (pLink n) v).trans (Dev.regsOnly_record ..)

theorem Dev.sameRegsBut_setPortSt (d : Dev) (n v : Nat) : (d.setPortSt n v).SameRegsBut d (pLink n) [0x10, 0x0C] := by
  unfold Dev.setPortSt
  dsimp only
  split
  · exact .refl _ _ _
  · exact d.sameRegsBut_setSt (pLink n) v

/-- A port with its lanes and its state set. -/
def Dev.setLink (d : Dev) (n act rate v : Nat) : Dev := (d.setLanes n act rate).setPortSt n v

theorem Dev.linkKeeps_setLink (d : Dev) (n act rate v : Nat) : d.LinkKeeps (d.setLink n act rate v) n [0x10, 0x0C, 0x4C] :=
  ((Dev.RegsOnly.trans (d.regsOnly_setF ..) (Dev.regsOnly_setF ..)).trans (Dev.regsOnly_setPortSt (d.setLanes n act rate) n v)).linkKeeps
    (((Dev.sameRegsBut_setPortSt (d.setLanes n act rate) n v).trans ((Dev.sameRegsBut_setF (d.setF (pLink n) 0x4C 7 4 act) (pLink n) 0x4C 10 8 rate).trans (d.sameRegsBut_setF (pLink n) 0x4C 7 4 act))).mono (by simp))

/-- ACTIVE, RATE and STATE as they were set; INSERVICE stays. -/
theorem Dev.setLink_reads (d : Dev) (n : Nat) {act rate v : Nat} (hact : act < 16) (hrate : rate < 8) (hv : v < 16) {f : Dev} (hf : f = d.setLink n act rate v) :
    f.st (pLink n) = v ∧ f.getF (pLink n) 0x4C 7 4 = act ∧ f.getF (pLink n) 0x4C 10 8 = rate ∧ f.lanesIn n = d.lanesIn n := by
  have hreg : f.reg (pLink n) 0x4C = (d.setLanes n act rate).reg (pLink n) 0x4C := by
    rw [hf]
    exact (Dev.sameRegsBut_setPortSt (d.setLanes n act rate) n v).reg (by decide)
  have hget : ∀ hi lo, f.getF (pLink n) 0x4C hi lo = (d.setLanes n act rate).getF (pLink n) 0x4C hi lo := fun hi lo => congrArg (wfld · hi lo) hreg
  refine ⟨hf ▸ Dev.st_setPortSt _ n hv, (hget 7 4).trans ?_, (hget 10 8).trans ?_, (hget 3 0).trans ?_⟩
  · rw [Dev.setLanes, Dev.getF_setF_ne _ _ _ _ (by decide) (by decide), Dev.getF_setF_same _ _ _ _ (by decide)]
    exact Nat.mod_eq_of_lt hact
  · rw [Dev.setLanes, Dev.getF_setF_same _ _ _ _ (by decide)]
    exact Nat.mod_eq_of_lt hrate
  · rw [Dev.setLanes, Dev.getF_setF_ne _ _ _ _ (by decide) (by decide), Dev.getF_setF_ne _ _ _ _ (by decide) (by decide)]
    rfl

/-! ### A port begins to train, or is down (R282) -/

/-- A port that was not training begins to. -/
theorem Dev.portTrain_begins {d : Dev} {n : Nat} (h : d.st (pLink n) ≠ lsTraining) :
    d.portTrain n = (d.setLink n 0 0 lsTraining).modPort n fun x => { x with trainAt := some (d.setLink n 0 0 lsTraining).ao, trainOver := false } :=
  if_neg (by simp [h])

/-- A port that trains: its lanes are out, and of what it counts its failures and its recalibration stay. -/
theorem Dev.portTrain_cases (d : Dev) (n : Nat) : ∃ f : Port → Port, (∀ x, (f x).fails = x.fails ∧ (f x).recal = x.recal) ∧ d.portTrain n = (d.setLink n 0 0 lsTraining).modPort n f ∨
    d.portTrain n = d.setLink n 0 0 lsTraining := by
  unfold Dev.portTrain
  extract_lets goes e
  split
  · exact ⟨id, .inr rfl⟩
  · exact ⟨fun x => { x with trainAt := some e.ao, trainOver := false }, .inl ⟨fun _ => ⟨rfl, rfl⟩, rfl⟩⟩

/-- A port that begins to train keeps memory, paths and lanes in service. -/
theorem Dev.portTrain_trains {d : Dev} {n : Nat} (h : d.st (pLink n) ≠ lsTraining) {f : Dev} (hf : f = d.portTrain n) :
    f.Trains n ∧ f.mem = d.mem ∧ f.paths = d.paths ∧ f.lanesIn n = d.lanesIn n := by
  obtain ⟨hst, hact, hrate, hin⟩ := d.setLink_reads n (act := 0) (rate := 0) (v := lsTraining) (by decide) (by decide) (by decide) rfl
  have hpaths : (d.setLink n 0 0 lsTraining).paths = d.paths := by
    rw [Dev.setLink, Dev.regsOnly_setPortSt]
    rfl
  rw [hf, Dev.portTrain_begins h]
  refine ⟨⟨hst, hact, hrate, ?_, ?_⟩, (d.linkKeeps_setLink ..).mem, hpaths, hin⟩
  · rw [Dev.port_modPort]
    rfl
  · rw [Dev.port_modPort]

theorem Dev.portPathsDown_closed {d : Dev} {n : Nat} (h : ∀ q < 64, d.pathOpen (pathKey n q) = false) : d.portPathsDown n = d := by
  have hnone : (below 64 fun peer => d.pathOpen (pathKey n peer)) = [] := List.filter_eq_nil_iff.2 fun q hq => by simp [h q (List.mem_range.1 hq)]
  rw [Dev.portPathsDown, hnone]
  rfl

/-- A port as it is down, but for its paths. -/
def Dev.linkDown (d : Dev) (n : Nat) : Dev := ((d.setLink n 0 0 lsDown).setBit (pLink n) 0x08 2 false).modPort n fun x => { x with trainAt := none }

theorem Dev.portDown_closed {d : Dev} {n : Nat} (h : ∀ q < 64, d.pathOpen (pathKey n q) = false) : d.portDown n = d.linkDown n :=
  Dev.portPathsDown_closed (d := d.linkDown n) fun q hq => by
    have hreg : (d.linkDown n).reg pDev (0x300 + 4 * (pathKey n q % 64)) = d.reg pDev (0x300 + 4 * (pathKey n q % 64)) := by
      have hset := (Dev.sameRegsBut_setBit (d.setLink n 0 0 lsDown) (pLink n) 0x08 2 false).reg_of_ne (q := pDev) (off := 0x300 + 4 * (pathKey n q % 64))
        (by simp only [List.mem_singleton, forall_eq, Page.base]; omega)
      have hlink := (d.linkKeeps_setLink n 0 0 lsDown).csr (pDev.base + (0x300 + 4 * (pathKey n q % 64))) (by simp only [Page.base]; omega) fun o _ => by
        simp only [Page.base]
        omega
      exact hset.trans (congrArg (Option.getD · _) hlink)
    exact (congrArg (wbit · (pathKey n q / 64)) hreg).trans (h q hq)

theorem wfld_join (w : Word) : wfld w 10 4 = wfld w 7 4 + 16 * wfld w 10 8 := by
  simp only [wfld, fld]
  omega

/-- What reads of a port that is down. -/
theorem Dev.linkDown_reads (d : Dev) (n : Nat) {f : Dev} (hf : f = d.linkDown n) : f.st (pLink n) = lsDown ∧ f.getF (pLink n) 0x4C 10 4 = 0 ∧ f.mem = d.mem := by
  obtain ⟨hst, hact, hrate, -⟩ := d.setLink_reads n (act := 0) (rate := 0) (v := lsDown) (by decide) (by decide) (by decide) rfl
  have hreg : ∀ off, off ≠ 8 → f.reg (pLink n) off = (d.setLink n 0 0 lsDown).reg (pLink n) off := fun off hoff => by
    rw [hf]
    exact (Dev.sameRegsBut_setBit (d.setLink n 0 0 lsDown) (pLink n) 0x08 2 false).reg (by simpa using hoff)
  refine ⟨(congrArg (wfld · 3 0) (hreg 0x0C (by decide))).trans hst, ?_, ?_⟩
  · have hsum := wfld_join ((d.setLink n 0 0 lsDown).reg (pLink n) 0x4C)
    rw [Dev.getF, hreg 0x4C (by decide), hsum]
    exact congrArg₂ (fun a b => a + 16 * b) hact hrate
  · rw [hf]
    exact (d.linkKeeps_setLink n 0 0 lsDown).mem

/-! ### A lane retires (17, R374) -/

theorem Dev.linkKeeps_unitRetired (d : Dev) (n : Nat) (offs : List Nat) (owner kind unit sub : Nat) (reason : Option Nat) (moved lost : Nat) :
    d.LinkKeeps (d.unitRetired owner kind unit sub reason moved lost) n offs := by
  have hnote : d.LinkKeeps d.takeFree.2.noteRec n offs := by
    rw [Dev.noteRec, Dev.writeRec_eq]
    exact ⟨rfl, rfl, rfl, fun _ _ _ => rfl⟩
  unfold Dev.unitRetired
  dsimp only
  split
  · exact hnote.trans ⟨rfl, rfl, rfl, fun _ _ _ => rfl⟩
  · exact hnote.trans ⟨rfl, rfl, rfl, fun _ _ _ => rfl⟩

theorem Dev.linkKeeps_voids (d : Dev) (n : Nat) (offs : List Nat) (l : List Nat) (c : Nat) (f : Prog → Bool) : d.LinkKeeps (d.each l fun d p => d.voidProgs p c f) n offs :=
  .foldl (fun e p => (e.voids_voidProgs p c f).linkKeeps n offs) l d

/-- A lane that retires leaves INSERVICE; below the partitions' pages no other register changes. -/
theorem Dev.retireLane_out {d : Dev} {n l : Nat} (h : bitOf (d.lanesIn n) l = true) : (d.setBit (pLink n) 0x4C l false).LinkKeeps (d.retireLane n l) n [] := by
  unfold Dev.retireLane
  rw [if_neg (by simp [h])]
  exact (Dev.linkKeeps_unitRetired _ n [] ..).trans (Dev.linkKeeps_voids ..)

theorem Dev.linkKeeps_retireLane (d : Dev) (n l : Nat) : d.LinkKeeps (d.retireLane n l) n [0x4C] := by
  by_cases h : bitOf (d.lanesIn n) l = true
  · exact ((d.regsOnly_setBit ..).linkKeeps (d.sameRegsBut_setBit (pLink n) 0x4C l false)).trans ((Dev.retireLane_out h).mono (by simp))
  · have hsame : d.retireLane n l = d := if_pos (by simpa using h)
    rw [hsame]
    exact .refl _ _ _

/-- A bit of the lanes in service is one of LINK_STATE. -/
theorem Dev.bitOf_lanesIn (d : Dev) (n : Nat) {l : Nat} (h : l < 4) : bitOf (d.lanesIn n) l = d.bit (pLink n) 0x4C l := by
  rw [bitOf_eq_testBit, Dev.lanesIn, Dev.getF, wfld, testBit_fld]
  simp [h, Dev.bit, wbit, BitVec.getLsbD]

theorem Dev.lanesIn_retireLane {d : Dev} {n l : Nat} (hn : n < 16) (h : bitOf (d.lanesIn n) l = true) {k : Nat} (hk : k < 4) :
    bitOf ((d.retireLane n l).lanesIn n) k = (decide (k ≠ l) && bitOf (d.lanesIn n) k) := by
  have hreg := (Dev.retireLane_out h).reg hn (off := 0x4C) (by decide) (by simp)
  have hbit : (d.retireLane n l).bit (pLink n) 0x4C k = (d.setBit (pLink n) 0x4C l false).bit (pLink n) 0x4C k := congrArg (wbit · k) hreg
  rw [Dev.bitOf_lanesIn _ _ hk, Dev.bitOf_lanesIn _ _ hk, hbit]
  by_cases hkl : k = l
  · rw [hkl, Dev.bit_setBit_same _ _ _ _ _ (by omega : l < 32)]
    simp
  · rw [Dev.bit_setBit_ne _ _ _ _ hkl]
    simp [hkl]

/-- A port with a lane in service but `l` has one when `l` has retired. -/
theorem Dev.retireLane_leaves {d : Dev} {n l : Nat} (hn : n < 16) (h : bitOf (d.lanesIn n) l = true) (hmore : d.lanesIn n ≠ 2 ^ l) : (d.retireLane n l).lanesIn n ≠ 0 := by
  intro hzero
  refine hmore (Nat.eq_of_testBit_eq fun k => ?_)
  rw [Nat.testBit_two_pow]
  by_cases hk : k < 4
  · have hout := Dev.lanesIn_retireLane hn h hk
    rw [hzero, bitOf_eq_testBit, Nat.zero_testBit, bitOf_eq_testBit] at hout
    by_cases hkl : l = k
    · rw [← hkl, ← bitOf_eq_testBit, h]
      simp
    · simpa [Ne.symm hkl, hkl] using hout.symm
  · have hlt : d.lanesIn n < 2 ^ 4 := Nat.mod_lt _ (by decide)
    have hl : l < 4 := Nat.lt_of_not_le fun hge => by
      rw [bitOf_eq_testBit, Nat.testBit_lt_two_pow (hlt.trans_le (Nat.pow_le_pow_right (by decide) hge))] at h
      cases h
    rw [Nat.testBit_lt_two_pow (hlt.trans_le (Nat.pow_le_pow_right (by decide) (Nat.not_lt.1 hk)))]
    exact (decide_eq_false (by omega)).symm

/-! ### The end of a training (R281, R283) -/

/-- The lanes that a training tries: those in service that the peer names or, on a SWITCHED port, all; but the one that is recalibrated; in frit mode the first. -/
def Dev.triedLanes (d : Dev) (n peer : Nat) : List Nat :=
  let cand := (maskBits 4 (d.lanesIn n)).filter fun l => (d.bit (pLink n) 0x40 0 || bitOf peer l) && decide ((d.port n).recal ≠ some l)
  if d.frit then cand.take 1 else cand

/-- The lanes that trained. -/
def Dev.goodLanes (d : Dev) (n peer failed : Nat) : List Nat := (d.triedLanes n peer).filter fun l => !bitOf failed l

/-- The lanes that did not. -/
def Dev.badLanes (d : Dev) (n peer failed : Nat) : List Nat := (d.triedLanes n peer).filter fun l => bitOf failed l

/-- The failed trainings of each lane in a row. -/
def laneFails (x : Port) (bad good : List Nat) : List Nat := (List.range 4).map fun l =>
  let k := (x.fails[l]?).getD 0
  if bad.contains l then k + 1 else if good.contains l then 0 else k

theorem bitOf_two_pow (l k : Nat) : bitOf (2 ^ l) k = decide (l = k) := by rw [bitOf_eq_testBit, Nat.testBit_two_pow]

theorem maskOf_maskBits {w m : Nat} (h : m < 2 ^ w) : maskOf (maskBits w m) = m := by
  refine Nat.eq_of_testBit_eq fun k => ?_
  rw [testBit_maskOf]
  by_cases hk : k < w
  · simp [mem_maskBits, hk, bitOf_eq_testBit]
  · rw [Nat.testBit_lt_two_pow (h.trans_le (Nat.pow_le_pow_right (by decide) (Nat.not_lt.1 hk)))]
    exact decide_eq_false fun hmem => hk (mem_maskBits.1 hmem).1

theorem maskOf_lt {w : Nat} {l : List Nat} (h : ∀ k ∈ l, k < w) : maskOf l < 2 ^ w :=
  Nat.lt_pow_two_of_testBit _ fun k hk => by
    rw [testBit_maskOf]
    exact decide_eq_false fun hmem => absurd (h k hmem) (Nat.not_lt.2 hk)

theorem laneCount_le (m : Nat) : laneCount m ≤ 4 := List.length_filter_le _ (List.range 4)

/-- ACTIVE and RATE of a training whose good lanes make the mask `m`. -/
theorem rateOf_eq {sw : Bool} {m act rate : Nat} (hm : m < 16) (hplain : sw = false ∨ laneCount m ≠ 3 → act = m ∧ rate = laneCount m)
    (hthree : sw = true → laneCount m = 3 → act = maskOf ((maskBits 4 m).take 2) ∧ rate = 2) : rateOf sw m = (act, rate) ∧ act < 16 ∧ rate < 8 := by
  by_cases h : sw = true ∧ laneCount m = 3
  · obtain ⟨hact, hrate⟩ := hthree h.1 h.2
    refine ⟨by rw [hact, hrate, h.1]; exact if_pos (by simpa [laneCount] using h.2), ?_, by omega⟩
    rw [hact]
    exact maskOf_lt (w := 4) fun k hk => (mem_maskBits.1 (List.mem_of_mem_take hk)).1
  · have hor : sw = false ∨ laneCount m ≠ 3 := by
      rw [not_and_or] at h
      exact h.imp_left Bool.eq_false_iff.2
    obtain ⟨hact, hrate⟩ := hplain hor
    have hcount := laneCount_le m
    refine ⟨?_, by omega, by omega⟩
    rw [hact, hrate]
    refine (if_neg ?_).trans (by rw [maskOf_maskBits hm]; rfl)
    rcases hor with h | h
    · simp [h]
    · simp only [Bool.and_eq_true, decide_eq_true_eq, not_and]
      exact fun _ => h

theorem Dev.linkKeeps_narrowed (d : Dev) (n : Nat) (offs : List Nat) : d.LinkKeeps (d.narrowed n) n offs := Dev.linkKeeps_voids ..

theorem Dev.linkKeeps_sendCtrl (d : Dev) (n peer : Nat) : d.LinkKeeps (d.sendCtrl n peer) n [0x5C] := by
  refine ⟨?_, ?_, ?_, fun k _ ho => ?_⟩
  · rw [Dev.sendCtrl, Dev.putFrame_only]
  · rw [Dev.sendCtrl, Dev.putFrame_only]
  · rw [Dev.sendCtrl, Dev.putFrame_only]
  · exact (Dev.sameRegsBut_addCount (d.out _) (pLink n) 0x5C 1 k ho).symm

theorem Dev.linkKeeps_detectEnd (d : Dev) (n : Nat) (offs : List Nat) : d.LinkKeeps (d.detectEnd n) n offs := by
  unfold Dev.detectEnd
  split
  · exact ⟨rfl, rfl, rfl, fun _ _ _ => rfl⟩
  · exact .refl _ _ _

/-- The replay timers of a port, which stood still from `began` on (R282). -/
def Dev.timersMoved (d : Dev) (n began : Nat) : Dev :=
  { d with paths := tmap d.paths fun k p => if k / 64 = n then
    { p with sentAt := p.sentAt + (d.ao - began), replay := p.replay.map fun (r : RepFrame) => { r with at_ := r.at_ + (d.ao - began) } } else p }

theorem Dev.linkKeeps_timersMoved (d : Dev) (n began : Nat) (offs : List Nat) : d.LinkKeeps (d.timersMoved n began) n offs := ⟨rfl, rfl, rfl, fun _ _ _ => rfl⟩

/-- A port that is up opens the paths of its peers. -/
def Dev.opensPaths (d : Dev) (n : Nat) : Dev :=
  if d.portUp n then (d.portPeers n).foldl (fun (d : Dev) q => if d.pathOpen (pathKey n q) then d else d.sendCtrl n q) d else d

theorem Dev.linkKeeps_opensPaths (d : Dev) (n : Nat) : d.LinkKeeps (d.opensPaths n) n [0x5C] := by
  unfold Dev.opensPaths
  split
  · refine .foldl (fun x q => ?_) _ d
    split
    · exact .refl _ _ _
    · exact x.linkKeeps_sendCtrl n q
  · exact .refl _ _ _

/-- A port that has trained on good lanes: it runs, programs that need more lanes are voided, its replay timers go on, and it opens its paths. -/
def Dev.trained (d : Dev) (n act rate began : Nat) : Dev :=
  (((d.setLink n act rate (d.portRuns n)).narrowed n).timersMoved n began).opensPaths n

theorem Dev.linkKeeps_trained (d : Dev) (n act rate began : Nat) : (d.setLink n act rate (d.portRuns n)).LinkKeeps (d.trained n act rate began) n [0x5C] :=
  ((Dev.linkKeeps_narrowed _ n _).trans (Dev.linkKeeps_timersMoved _ n began _)).trans (Dev.linkKeeps_opensPaths _ n)

/-- The lanes that have failed a training are counted, those that failed the third one retire, and the training is over. -/
def Dev.trainedLanes (d : Dev) (n : Nat) (fails gone : List Nat) : Dev :=
  (((d.modPort n fun y => { y with fails := fails, trainAt := none, trainOver := false }).each gone fun d l => d.retireLane n l).setBit (pLink n) 0x08 2 false).detectEnd n

theorem Dev.linkKeeps_trainedLanes (d : Dev) (n : Nat) (fails gone : List Nat) :
    (d.modPort n fun y => { y with fails := fails, trainAt := none, trainOver := false }).LinkKeeps (d.trainedLanes n fails gone) n [0x4C, 0x08] := by
  have hgone : (d.modPort n fun y => { y with fails := fails, trainAt := none, trainOver := false }).LinkKeeps
      ((d.modPort n fun y => { y with fails := fails, trainAt := none, trainOver := false }).each gone fun d l => d.retireLane n l) n [0x4C, 0x08] :=
    .foldl (fun e l => (e.linkKeeps_retireLane n l).mono (by simp)) gone _
  exact (hgone.trans ((Dev.regsOnly_setBit ..).linkKeeps ((Dev.sameRegsBut_setBit _ (pLink n) 0x08 2 false).mono (by simp)))).trans (Dev.linkKeeps_detectEnd _ n _)

/-- After a training's lanes are counted, the port's TRAINING bit of CTRL is clear and ENABLE stands as it did. -/
theorem Dev.trainedLanes_ctrl (d : Dev) {n : Nat} (hn : n < 16) (fails gone : List Nat) :
    (d.trainedLanes n fails gone).bit (pLink n) 0x08 2 = false ∧ (d.trainedLanes n fails gone).enabled (pLink n) = d.enabled (pLink n) := by
  generalize he : ((d.modPort n fun y => { y with fails := fails, trainAt := none, trainOver := false }).each gone fun d l => d.retireLane n l) = e
  have hgone : (d.modPort n fun y => { y with fails := fails, trainAt := none, trainOver := false }).LinkKeeps e n [0x4C] :=
    he ▸ .foldl (fun e l => e.linkKeeps_retireLane n l) gone _
  have hreg : (d.trainedLanes n fails gone).reg (pLink n) 0x08 = (e.setBit (pLink n) 0x08 2 false).reg (pLink n) 0x08 := by
    rw [Dev.trainedLanes, he]
    exact (Dev.linkKeeps_detectEnd _ n []).reg hn (by decide) (by simp)
  refine ⟨(congrArg (wbit · 2) hreg).trans (Dev.bit_setBit_same _ _ _ _ _ (by decide)), (congrArg (wbit · 0) hreg).trans ?_⟩
  exact (Dev.bit_setBit_ne e (pLink n) 0x08 (i := 2) (j := 0) false (by decide)).trans (congrArg (wbit · 0) (hgone.reg hn (off := 0x08) (by decide) (by decide)))

theorem Dev.mem_goodLanes {d : Dev} {n peer failed k : Nat} (h : k ∈ d.goodLanes n peer failed) : k < 4 := by
  have htried := (List.mem_filter.1 h).1
  have hcand : k ∈ (maskBits 4 (d.lanesIn n)).filter fun l => (d.bit (pLink n) 0x40 0 || bitOf peer l) && decide ((d.port n).recal ≠ some l) := by
    unfold Dev.triedLanes at htried
    dsimp only at htried
    split at htried
    · exact List.mem_of_mem_take htried
    · exact htried
  exact (mem_maskBits.1 (List.mem_filter.1 hcand).1).1

theorem Dev.portRuns_lt (d : Dev) (n : Nat) : d.portRuns n < 16 := by
  unfold Dev.portRuns
  split <;> decide

/-- What reads of a port that has trained. -/
theorem Dev.trained_reads (d : Dev) {n act rate : Nat} (hn : n < 16) (fails gone : List Nat) (hact : act < 16) (hrate : rate < 8) (began : Nat) {f : Dev}
    (hf : f = (d.trainedLanes n fails gone).trained n act rate began) :
    f.st (pLink n) = (if d.enabled (pLink n) then stActive else stReady) ∧ f.getF (pLink n) 0x4C 7 4 = act ∧ f.getF (pLink n) 0x4C 10 8 = rate ∧ f.bit (pLink n) 0x08 2 = false ∧
      (f.port n).trainAt = none ∧ f.mem = d.mem := by
  obtain ⟨hctrl, hen⟩ := d.trainedLanes_ctrl hn fails gone
  have hlanes := d.linkKeeps_trainedLanes n fails gone
  generalize he : d.trainedLanes n fails gone = e at hctrl hen hlanes hf
  obtain ⟨hst, hact', hrate', -⟩ := e.setLink_reads n hact hrate (e.portRuns_lt n) rfl
  have hset := e.linkKeeps_setLink n act rate (e.portRuns n)
  have hend := e.linkKeeps_trained n act rate began
  rw [← hf] at hend
  have hreg : ∀ off, off < 0x5C → f.reg (pLink n) off = (e.setLink n act rate (e.portRuns n)).reg (pLink n) off := fun off ho => hend.reg hn (by omega) (by simp; omega)
  refine ⟨(congrArg (wfld · 3 0) (hreg 0x0C (by decide))).trans (hst.trans ?_), (congrArg (wfld · 7 4) (hreg 0x4C (by decide))).trans hact',
    (congrArg (wfld · 10 8) (hreg 0x4C (by decide))).trans hrate', (congrArg (wbit · 2) ((hreg 0x08 (by decide)).trans (hset.reg hn (by decide) (by decide)))).trans hctrl, ?_,
    hend.mem.trans (hset.mem.trans hlanes.mem)⟩
  · rw [Dev.portRuns, hen]
  · rw [hend.port, hset.port, hlanes.port, Dev.port_modPort]

/-- The mask of a lane that is recalibrated. -/
def recalMask (r : Option Nat) : Nat := match r with | some l => 2 ^ l | none => 0

theorem bitOf_recalMask (r : Option Nat) (l : Nat) : (!bitOf (recalMask r) l) = decide (r ≠ some l) := by
  cases r with
  | none => simp [recalMask, bitOf]
  | some k => simp [recalMask, bitOf_two_pow]

theorem exec_trainingEnd_idle {s : State} {n : Fin 16} (h : s.dev.st (pLink n) ≠ lsTraining) (peer failed : BitVec 4) : exec (.trainingEnd n peer failed) s = .next s :=
  s.upd_congr (if_pos h)

/-- A training that leaves good lanes. -/
theorem exec_trainingEnd_good {s : State} {n : Fin 16} {peer failed : BitVec 4} (hst : s.dev.st (pLink n) = lsTraining) (hrecal : s.dev.bit (pLink n) 0x40 0 = true → (s.dev.port n).recal = none)
    {good bad fails : List Nat} (hgood : good = s.dev.goodLanes n peer.toNat failed.toNat) (hsome : good ≠ []) (hbad : bad = s.dev.badLanes n peer.toNat failed.toNat)
    (hfails : fails = laneFails (s.dev.port n) bad good) {act rate : Nat} (hrate : rateOf (s.dev.bit (pLink n) 0x40 0) (maskOf good) = (act, rate)) :
    exec (.trainingEnd n peer failed) s =
      .next ⟨(s.dev.trainedLanes n fails (bad.filter fun l => 3 ≤ (fails[l]?).getD 0)).trained n act rate ((s.dev.port n).trainAt.getD s.dev.ao), s.pending⟩ := by
  refine s.upd_congr ((if_neg (not_not.2 hst)).trans ?_)
  extract_lets x sw out cand0 cand bad' good' fails' gone began e e1 e2
  have hrec : ¬ (sw && x.recal.isSome) = true := by
    cases hsw : sw
    · simp
    · have hnone : x.recal = none := hrecal hsw
      simp [hnone]
  have hcand : cand0 = (maskBits 4 (s.dev.lanesIn n)).filter fun l => (s.dev.bit (pLink n) 0x40 0 || bitOf peer.toNat l) && decide ((s.dev.port n).recal ≠ some l) :=
    List.filter_congr fun l _ => congrArg ((sw || bitOf peer.toNat l) && ·) (bitOf_recalMask (s.dev.port n).recal l)
  have htried : cand = s.dev.triedLanes n peer.toNat := by
    rw [Dev.triedLanes, ← hcand]
  have hgood' : good' = good := by rw [hgood, Dev.goodLanes, ← htried]
  have hbad' : bad' = bad := by rw [hbad, Dev.badLanes, ← htried]
  have hfails' : fails' = fails := by
    rw [hfails, ← hgood', ← hbad']
    rfl
  refine (if_neg hrec).trans ((if_neg (by simpa [hgood'] using hsome)).trans ?_)
  rw [hgood', hrate]
  have hlanes : e2 = s.dev.trainedLanes n fails (bad.filter fun l => 3 ≤ (fails[l]?).getD 0) := by
    rw [← hfails', ← hbad']
    rfl
  rw [hlanes]
  rfl

/-! ### Recalibration (R283) -/

theorem Dev.port_portTrain (d : Dev) (n : Nat) : ((d.portTrain n).port n).fails = (d.port n).fails ∧ ((d.portTrain n).port n).recal = (d.port n).recal := by
  have hport := (d.linkKeeps_setLink n 0 0 lsTraining).port
  obtain ⟨f, ⟨hf, h⟩ | h⟩ := d.portTrain_cases n
  · rw [h, Dev.port_modPort, (hf _).1, (hf _).2, hport]
    exact ⟨rfl, rfl⟩
  · rw [h, hport]
    exact ⟨rfl, rfl⟩

theorem Dev.reg_portTrain (d : Dev) {n : Nat} (hn : n < 16) {off : Nat} (hoff : off < 4096) (ho : off ∉ [0x10, 0x0C, 0x4C]) : (d.portTrain n).reg (pLink n) off = d.reg (pLink n) off := by
  have hreg := (d.linkKeeps_setLink n 0 0 lsTraining).reg hn hoff ho
  obtain ⟨f, ⟨-, h⟩ | h⟩ := d.portTrain_cases n
  · rw [h]
    exact hreg
  · rw [h, hreg]

theorem Dev.mem_portTrain (d : Dev) (n : Nat) : (d.portTrain n).mem = d.mem := by
  have hmem := (d.linkKeeps_setLink n 0 0 lsTraining).mem
  obtain ⟨f, ⟨-, h⟩ | h⟩ := d.portTrain_cases n
  · rw [h]
    exact hmem
  · rw [h, hmem]

theorem Dev.st_portTrain (d : Dev) (n : Nat) : (d.portTrain n).st (pLink n) = lsTraining := by
  have hst : (d.setLink n 0 0 lsTraining).st (pLink n) = lsTraining := Dev.st_setPortSt _ n (by decide)
  obtain ⟨f, ⟨-, h⟩ | h⟩ := d.portTrain_cases n
  · rw [h]
    exact hst
  · rw [h, hst]

/-- The recalibration of a lane begins. -/
def Dev.recalBegins (d : Dev) (n l : Nat) : Dev := ((d.setBit (pLink n) 0x50 4 true).setBit (pLink n) 0x50 l true).modPort n fun x => { x with recal := some l }

theorem Dev.reg_recalBegins (d : Dev) (n l : Nat) {off : Nat} (h : off ≠ 0x50) : (d.recalBegins n l).reg (pLink n) off = d.reg (pLink n) off :=
  ((Dev.sameRegsBut_setBit (d.setBit (pLink n) 0x50 4 true) (pLink n) 0x50 l true).reg (by simpa using h)).trans ((d.sameRegsBut_setBit (pLink n) 0x50 4 true).reg (by simpa using h))

theorem maskBits_two_pow (l : Fin 4) : maskBits 4 (wfld (BitVec.ofNat 32 (2 ^ l.val)) 3 0) = [l.val] ∧ wbit (BitVec.ofNat 32 (2 ^ l.val)) 5 = false := by
  revert l
  decide

theorem Dev.writeRecal_begins {d : Dev} {n : Nat} {l : Fin 4} (hbusy : d.bit (pLink n) 0x50 4 = false) (hin : bitOf (d.lanesIn n) l = true) (hst : d.st (pLink n) = stActive) :
    d.writeRecal n (BitVec.ofNat 32 (2 ^ l.val)) = (d.recalBegins n l).portTrain n := by
  obtain ⟨hmask, hdone⟩ := maskBits_two_pow l
  have hst' : (d.recalBegins n l).st (pLink n) = stActive := (congrArg (wfld · 3 0) (d.reg_recalBegins n l (by decide))).trans hst
  unfold Dev.writeRecal
  dsimp only
  rw [hdone, hmask]
  refine (if_neg (by simp [hbusy, hin])).trans ?_
  exact if_pos (by
    refine Bool.or_eq_true_iff.2 (.inl (decide_eq_true ?_))
    exact hst')

/-- The end of a recalibration: BUSY clears, DONE is set, and the lane's failures count. -/
def Dev.recalEnds (d : Dev) (n l k : Nat) : Dev :=
  (((d.setF (pLink n) 0x50 3 0 0).setBit (pLink n) 0x50 4 false).setBit (pLink n) 0x50 5 true).modPort n fun x => { x with recal := none, fails := setLane x.fails l k }

theorem Dev.linkKeeps_recalRegs (d : Dev) (n : Nat) : d.LinkKeeps (((d.setF (pLink n) 0x50 3 0 0).setBit (pLink n) 0x50 4 false).setBit (pLink n) 0x50 5 true) n [0x50] :=
  (((d.regsOnly_setF ..).linkKeeps (d.sameRegsBut_setF (pLink n) 0x50 3 0 0)).trans ((Dev.regsOnly_setBit ..).linkKeeps (Dev.sameRegsBut_setBit _ (pLink n) 0x50 4 false))).trans
    ((Dev.regsOnly_setBit ..).linkKeeps (Dev.sameRegsBut_setBit _ (pLink n) 0x50 5 true))

theorem setLane_get (x : List Nat) {l : Nat} (h : l < 4) (k : Nat) : ((setLane x l k)[l]?).getD 0 = k := by simp [setLane, h]

theorem wfld_low5 (w : Word) : wfld w 4 0 = wfld w 3 0 + 16 * wfld w 4 4 := by
  simp only [wfld, fld]
  omega

theorem wfld_bit_false {w : Word} {i : Nat} (h : wbit w i = false) : wfld w i i = 0 := by
  rw [wbit, BitVec.getLsbD, Nat.testBit_eq_decide_div_mod_eq, decide_eq_false_iff_not] at h
  simp only [wfld, fld]
  rw [Nat.add_sub_cancel_left, pow_one]
  omega

theorem Dev.recalEnds_reads (d : Dev) (n l k : Nat) : (d.recalEnds n l k).getF (pLink n) 0x50 4 0 = 0 ∧ (d.recalEnds n l k).bit (pLink n) 0x50 5 = true ∧
    ∀ off, off ≠ 0x50 → (d.recalEnds n l k).reg (pLink n) off = d.reg (pLink n) off := by
  generalize he : (d.setF (pLink n) 0x50 3 0 0).setBit (pLink n) 0x50 4 false = e
  have hlow : e.getF (pLink n) 0x50 3 0 = 0 := by
    rw [← he, Dev.getF_setBit_ne _ _ _ _ (by decide), Dev.getF_setF_same _ _ _ _ (by decide), Nat.zero_mod]
  have hbusy : e.bit (pLink n) 0x50 4 = false := he ▸ Dev.bit_setBit_same _ _ _ _ _ (by decide)
  have hjoin : e.getF (pLink n) 0x50 4 0 = 0 := (wfld_low5 _).trans (by
    have h44 := wfld_bit_false hbusy
    have h30 : wfld (e.reg (pLink n) 0x50) 3 0 = 0 := hlow
    omega)
  have hf : d.recalEnds n l k = (e.setBit (pLink n) 0x50 5 true).modPort n fun x => { x with recal := none, fails := setLane x.fails l k } := by
    rw [← he]
    rfl
  rw [hf]
  refine ⟨(Dev.getF_setBit_ne _ _ _ _ (by decide)).trans hjoin, Dev.bit_setBit_same _ _ _ _ _ (by decide), fun off ho => ?_⟩
  refine ((e.sameRegsBut_setBit (pLink n) 0x50 5 true).reg (by simpa using ho)).trans ?_
  rw [← he]
  exact ((Dev.sameRegsBut_setBit (d.setF (pLink n) 0x50 3 0 0) (pLink n) 0x50 4 false).reg (by simpa using ho)).trans ((d.sameRegsBut_setF (pLink n) 0x50 3 0 0).reg (by simpa using ho))

/-- A port with lanes in service retrains while its domain is ON. -/
def Dev.retrains (d : Dev) (n : Nat) : Dev := if d.pageOn (pLink n) && d.lanesIn n ≠ 0 then d.portTrain n else d

theorem Dev.retrains_keeps (d : Dev) {n : Nat} (hn : n < 16) {f : Dev} (hf : f = d.retrains n) :
    f.reg (pLink n) 0x50 = d.reg (pLink n) 0x50 ∧ (f.port n).fails = (d.port n).fails ∧ (f.port n).recal = (d.port n).recal ∧ f.mem = d.mem := by
  rw [hf]
  unfold Dev.retrains
  split
  · exact ⟨d.reg_portTrain hn (by decide) (by decide), (d.port_portTrain n).1, (d.port_portTrain n).2, d.mem_portTrain n⟩
  · exact ⟨rfl, rfl, rfl, rfl⟩

theorem exec_laneRecalEnd {s : State} {n : Fin 16} {l : Nat} (h : (s.dev.port n).recal = some l) (ok : Bool) {k : Nat} (hk : k = if ok then 0 else ((s.dev.port n).fails[l]?).getD 0 + 1) :
    exec (.laneRecalEnd n ok) s = .next ⟨(if k < 3 then s.dev.recalEnds n l k else (s.dev.recalEnds n l k).retireLane n l).retrains n, s.pending⟩ := by
  subst hk
  refine s.upd_congr ?_
  dsimp only
  rw [h]
  rfl

/-- The end of a recalibration, whatever follows it. -/
theorem Dev.recalEnds_after (d : Dev) {n l k : Nat} (hn : n < 16) (hl : l < 4) {f : Dev} (hf : f = (if k < 3 then d.recalEnds n l k else (d.recalEnds n l k).retireLane n l).retrains n) :
    f.getF (pLink n) 0x50 4 0 = 0 ∧ f.bit (pLink n) 0x50 5 = true ∧ (f.port n).recal = none ∧ f.mem = d.mem ∧ ((f.port n).fails[l]?).getD 0 = k := by
  obtain ⟨hlow, hdone, -⟩ := d.recalEnds_reads n l k
  have hport : (d.recalEnds n l k).port n = { d.port n with recal := none, fails := setLane (d.port n).fails l k } := Dev.port_modPort ..
  have hmem : (d.recalEnds n l k).mem = d.mem := by
    rw [Dev.recalEnds, Dev.modPort, Dev.regsOnly_setBit, Dev.regsOnly_setBit (d.setF ..)]
    rfl
  have hkeep : (d.recalEnds n l k).LinkKeeps (if k < 3 then d.recalEnds n l k else (d.recalEnds n l k).retireLane n l) n [0x4C] := by
    split
    · exact .refl _ _ _
    · exact Dev.linkKeeps_retireLane ..
  obtain ⟨hreg, hfails, hrecal, hm⟩ := Dev.retrains_keeps _ hn hf
  have hreg := hreg.trans (hkeep.reg hn (by decide) (by decide))
  rw [hkeep.port, hport] at hfails hrecal
  refine ⟨(congrArg (wfld · 4 0) hreg).trans hlow, (congrArg (wbit · 5) hreg).trans hdone, hrecal, hm.trans (hkeep.mem.trans hmem), ?_⟩
  rw [hfails]
  exact setLane_get _ hl k

/-- A lane that is recalibrated well leaves its port training. -/
theorem Dev.recalEnds_trains {d : Dev} {n l : Nat} (hn : n < 16) (hon : d.pageOn (pLink n) = true) (hin : d.lanesIn n ≠ 0) {f : Dev} (hf : f = (d.recalEnds n l 0).retrains n) :
    f.st (pLink n) = lsTraining ∧ (d.st (pLink n) ≠ lsTraining → f.Trains n) := by
  obtain ⟨-, -, hreg⟩ := d.recalEnds_reads n l 0
  have hlanes : (d.recalEnds n l 0).lanesIn n = d.lanesIn n := congrArg (wfld · 3 0) (hreg 0x4C (by decide))
  have hst : (d.recalEnds n l 0).st (pLink n) = d.st (pLink n) := congrArg (wfld · 3 0) (hreg 0x0C (by decide))
  have hpage : (d.recalEnds n l 0).pageOn (pLink n) = d.pageOn (pLink n) := (d.linkKeeps_recalRegs n).pageOn hn
  have hgo : f = (d.recalEnds n l 0).portTrain n := hf.trans (if_pos (by simp [hlanes, hpage, hon, hin]))
  exact ⟨hgo ▸ Dev.st_portTrain .., fun hne => (Dev.portTrain_trains (hst ▸ hne) hgo).1⟩

end Sys2Proof.Machine

namespace Sys2Proof.Proofs
open Sys2Proof Sys2Proof.Machine

/-- Settles O39: what the lanes of a port touch is framed by `Dev.LinkKeeps`, what a training sets by `Dev.setLink_reads`. -/
theorem portsTrainAndLanesRetire : Obligations.PortsTrainAndLanesRetire := by
  refine ⟨?_, ?_, ?_, ?_, ?_, ?_⟩
  · intro s r n l htakes hbusy hin hst
    have hne : (s.dev.recalBegins n l).st (pLink n) ≠ lsTraining := by
      have hst' : (s.dev.recalBegins n l).st (pLink n) = stActive := (congrArg (wfld · 3 0) (s.dev.reg_recalBegins n l (by decide))).trans hst
      rw [hst']
      decide
    obtain ⟨htrains, hmem, -, -⟩ := Dev.portTrain_trains hne rfl
    have hreg := (s.dev.recalBegins n l).reg_portTrain n.isLt (off := 0x50) (by decide) (by decide)
    have hbegin : (s.dev.recalBegins n l).bit (pLink n) 0x50 4 = true ∧ (s.dev.recalBegins n l).bit (pLink n) 0x50 l = true :=
      ⟨(Dev.bit_setBit_ne (s.dev.setBit (pLink n) 0x50 4 true) (pLink n) 0x50 (i := l) (j := 4) true (by omega)).trans (Dev.bit_setBit_same _ _ _ _ _ (by decide)),
        Dev.bit_setBit_same _ _ _ _ _ (by omega)⟩
    refine ⟨⟨((s.dev.recalBegins n l).portTrain n).answer 0, s.pending⟩, s.upd_congr ((Dev.guardWrite_takes htakes _).trans (by rw [Dev.writeRecal_begins hbusy hin hst])), rfl,
      (congrArg (wbit · 4) hreg).trans hbegin.1, (congrArg (wbit · l.val) hreg).trans hbegin.2, ?_, htrains, hmem.trans ?_⟩
    · refine ((s.dev.recalBegins n l).port_portTrain n).2.trans ?_
      rw [Dev.recalBegins, Dev.port_modPort]
    · rw [Dev.recalBegins, Dev.modPort, Dev.regsOnly_setBit, Dev.regsOnly_setBit s.dev]
  · intro s n peer failed
    refine ⟨fun h => exec_trainingEnd_idle h peer failed, fun sw cand m act rate hst hsw hrecal hcand hm hne hplain hthree => ?_⟩
    subst hsw hcand
    obtain ⟨hrate, hact, hlt⟩ := rateOf_eq (hm ▸ maskOf_lt (w := 4) fun k hk => Dev.mem_goodLanes hk) hplain hthree
    have hsome : s.dev.goodLanes n peer.toNat failed.toNat ≠ [] := fun hnil => hne (hm.trans (congrArg maskOf hnil))
    rw [hm] at hrate
    exact ⟨_, exec_trainingEnd_good hst hrecal rfl hsome rfl rfl hrate, s.dev.trained_reads n.isLt _ _ hact hlt _ rfl⟩
  · intro s n t ht
    refine ⟨fun hearly => s.upd_congr ?_, fun hst hover hlate hclosed => s.upd_congr ?_⟩
    · dsimp only
      rw [ht]
      exact if_neg (by simp [Nat.not_le.2 hearly])
    · dsimp only
      rw [ht]
      refine (if_pos (by simp [hst, hover, hlate])).trans (Dev.portPathsDown_closed fun q hq => hclosed q hq)
  · intro s n l hin
    refine ⟨s.upd_congr ?_, fun hfew => s.upd_congr ?_, fun hmany hst hmore => ?_⟩
    · exact (if_neg (by simp [hin])).trans (if_pos (Nat.zero_lt_succ 2))
    · exact (if_neg (by simp [hin])).trans (if_pos (Nat.succ_lt_succ hfew))
    · generalize he : (s.dev.modPort n fun x => { x with bad := setLane x.bad l (((s.dev.port n).bad[l.val]?).getD 0 + 1) }) = e
      have hlanes : e.lanesIn n = s.dev.lanesIn n := by rw [← he]; rfl
      have hmem : e.mem = s.dev.mem := by rw [← he]; rfl
      have hin' : bitOf (e.lanesIn n) l = true := hlanes ▸ hin
      have hst' : (e.retireLane n l).st (pLink n) = stActive := by
        refine (congrArg (wfld · 3 0) ((e.linkKeeps_retireLane n l).reg n.isLt (off := 0x0C) (by decide) (by decide))).trans ?_
        rw [← he]
        exact hst
      obtain ⟨htrains, hm, -, hout⟩ := Dev.portTrain_trains (d := e.retireLane n l) (n := n) (by rw [hst']; decide) rfl
      have hbits : ∀ k : Fin 4, bitOf (((e.retireLane n l).portTrain n).lanesIn n) k = (decide (k ≠ l) && bitOf (s.dev.lanesIn n) k) := fun k => by
        rw [hout, Dev.lanesIn_retireLane n.isLt hin' k.isLt, hlanes]
        simp only [ne_eq, Fin.val_inj]
      refine ⟨(e.retireLane n l).portTrain n, s.upd_congr ((if_neg (by simp [hin])).trans ((if_neg ?_).trans ?_)), by simp [hbits], fun k hk => by simp [hbits, hk], htrains,
        hm.trans ((e.linkKeeps_retireLane n l).mem.trans hmem)⟩
      · exact Nat.not_lt.2 (Nat.succ_le_succ hmany)
      · subst he
        exact (if_pos (Bool.or_eq_true_iff.2 (.inl (decide_eq_true hst')))).trans (if_neg (Dev.retireLane_leaves n.isLt hin' hmore))
  · intro s n hon
    refine ⟨fun hst => ?_, fun hst hclosed => ?_, fun hst hin => ?_⟩
    · have hne : s.dev.st (pLink n) ≠ lsTraining := by rcases hst with h | h <;> rw [h] <;> decide
      obtain ⟨htrains, hmem, hpaths, -⟩ := Dev.portTrain_trains hne rfl
      refine ⟨_, s.upd_congr ((if_pos ?_).trans (if_pos (by simp [hne]))), htrains, hmem, hpaths⟩
      rcases hst with h | h <;> simp [hon, h]
    · refine ⟨_, s.upd_congr ((if_pos ?_).trans ((if_neg (by simp)).trans (Dev.portDown_closed hclosed))), s.dev.linkDown_reads n rfl⟩
      rcases hst with h | h <;> simp [hon, h]
    · have hne : s.dev.st (pLink n) ≠ lsTraining := by rw [hst]; decide
      obtain ⟨htrains, hmem, hpaths, -⟩ := Dev.portTrain_trains hne rfl
      exact ⟨_, s.upd_congr (if_pos (by simp [hon, hst, hin])), htrains, hmem, hpaths⟩
  · intro s n ok l hrecal
    obtain ⟨hlow, hdone, hnone, hmem, hfails⟩ := s.dev.recalEnds_after (n := n) (l := l) (k := if ok then 0 else ((s.dev.port n).fails[l.val]?).getD 0 + 1) n.isLt l.isLt rfl
    refine ⟨_, exec_laneRecalEnd hrecal ok rfl, hlow, hdone, hnone, hmem, hfails, fun hok hon hin => ?_⟩
    subst hok
    exact Dev.recalEnds_trains n.isLt hon hin rfl

end Sys2Proof.Proofs

/-! SUPPORT. Memory errors (17, R359–R378): what a mark, a decided read, a repair, a copy and a flip register touch; and the statement about them. -/

namespace Sys2Proof.Machine

/-! ### Marks (R359) -/

theorem unitSize_eq (a : Nat) : unitSize a = 8 ∨ unitSize a = 64 := by
  unfold unitSize
  split
  · exact .inl rfl
  · exact .inr rfl

/-- A marked unit marks the burst that begins at it. -/
theorem Dev.markedAt_of_mem {d : Dev} {x : Nat} (hmark : x ∈ d.marks) (halign : x % 64 = 0) : d.markedAt x 64 = true := by
  refine List.any_eq_true.2 ⟨x, ?_, Bool.or_eq_true_iff.2 (.inl (List.contains_iff_mem.2 hmark))⟩
  refine List.mem_map.2 ⟨0, List.mem_range.2 ?_, ?_⟩
  · rcases unitSize_eq x with h | h <;> rw [h] <;> omega
  · rcases unitSize_eq x with h | h <;> rw [h] <;> omega

/-- The burst that an array's burst holds is aligned. -/
theorem Dev.dpaAt_aligned {d : Dev} {a x : Nat} (ha : a % 64 = 0) (h : d.dpaAt a = some x) : x % 64 = 0 := by
  have hloc : ∀ s off, loc a = .stack s off → off % 64 = 0 := fun s off hl => by
    unfold loc at hl
    split at hl
    · cases hl
      omega
    · split at hl
      · cases hl
      · split at hl <;> cases hl
  unfold Dev.dpaAt at h
  split at h
  · next s off hl =>
    have hoff := hloc s off hl
    split at h
    · cases h
      simp only [stkBase]
      omega
    · split at h
      · cases h
      · cases h
        exact ha
  · cases h
    exact ha

theorem burstDpa_aligned (s c q : Nat) : burstDpa s c q % 64 = 0 := by
  simp only [burstDpa, stkBase, burstOff]
  omega

/-- The remap of granules rests on the stacks alone. -/
theorem Dev.dpaAt_of_stks {d e : Dev} (h : e.stks = d.stks) (a : Nat) : e.dpaAt a = d.dpaAt a := by
  have hstks : ∀ d : Dev, d.dpaAt a = ({ stks := d.stks } : Dev).dpaAt a := fun _ => rfl
  rw [hstks e, hstks d, h]

theorem Dev.mem_marks_mark (d : Dev) (u : Nat) : u ∈ (d.mark u).marks := mem_addSet_self ..

theorem mem_addSet_of_mem {l : List Nat} {x : Nat} (h : x ∈ l) (n : Nat) : x ∈ addSet l n := by
  induction l with
  | nil => cases h
  | cons m t ih =>
    unfold addSet
    split
    · exact List.mem_cons_of_mem _ h
    · split
      · exact h
      · rcases List.mem_cons.1 h with rfl | ht
        · exact List.mem_cons_self ..
        · exact List.mem_cons_of_mem _ (ih ht)

/-- A mark of what a burst holds changes marks alone. -/
theorem Dev.markHeld_only (d : Dev) (a : Nat) : d.markHeld a = { d with marks := (d.markHeld a).marks } := by
  unfold Dev.markHeld
  split <;> rfl

theorem Dev.markHeld_marks {d : Dev} {a x : Nat} (h : d.dpaAt a = some x) : x ∈ (d.markHeld a).marks := by
  rw [Dev.markHeld, h]
  exact d.mem_marks_mark x

theorem Dev.markHeld_keeps {d : Dev} {x : Nat} (h : x ∈ d.marks) (a : Nat) : x ∈ (d.markHeld a).marks := by
  unfold Dev.markHeld
  split
  · exact mem_addSet_of_mem h _
  · exact h

/-- Marks of a list of bursts change marks alone, and mark every one of them. -/
theorem Dev.markHelds_effect {α : Type} (d : Dev) (place : α → Nat) (l : List α) {f : Dev} (hf : f = l.foldl (fun d q => d.markHeld (place q)) d) :
    f = { d with marks := f.marks } ∧ (∀ q ∈ l, ∀ x, d.dpaAt (place q) = some x → x ∈ f.marks) := by
  induction l generalizing d f with
  | nil => exact ⟨by rw [hf]; rfl, fun q hq => by cases hq⟩
  | cons q l ih =>
    obtain ⟨honly, hmarks⟩ := ih (d.markHeld (place q)) hf
    have hstks : (d.markHeld (place q)).stks = d.stks := by rw [Dev.markHeld_only]
    refine ⟨by rw [honly, Dev.markHeld_only], fun q' hq' x hx => ?_⟩
    rcases List.mem_cons.1 hq' with rfl | hmem
    · rw [hf, List.foldl_cons]
      exact Dev.foldl_holds (P := fun e => x ∈ e.marks) (fun e b _ he => Dev.markHeld_keeps he _) (Dev.markHeld_marks hx)
    · exact hmarks q' hmem x ((Dev.dpaAt_of_stks hstks _).trans hx)

/-! ### Decided reads (R359) -/

/-- Pages from the stacks on keep their registers when a guarantee is voided. -/
theorem Dev.reg_voidOn (d : Dev) {p : Nat} (hp : p < 24) (c map : Nat) {q : Page} (hq : 0x100000 ≤ q.base) (off : Nat) : (d.voidOn p c map).reg q off = d.reg q off := by
  have hne : q.base + off ≠ (pPtn p).base + 0x3A4 := by simp only [Page.base] at hq ⊢; omega
  unfold Dev.voidOn
  split
  · rfl
  · exact Dev.reg_setBit_ne (d.voidStep p c map) c true hne

/-- Re-reads count in a running step: a guarantee may be void. -/
theorem Dev.countRereads_keeps (d : Dev) (p n : Nat) : d.Voids (d.countRereads p n) ∧ ∀ q : Page, 0x100000 ≤ q.base → ∀ off, (d.countRereads p n).reg q off = d.reg q off := by
  unfold Dev.countRereads
  split
  · exact ⟨.refl d, fun _ _ _ => rfl⟩
  · next t ht =>
    have hp : p < 24 := by
      by_contra hge
      rw [if_neg hge] at ht
      cases ht
    extract_lets e
    have he : d.Voids e := d.voids_modPx p _
    split
    · split
      · exact ⟨he.trans (e.voids_voidOn ..), fun q hq off => e.reg_voidOn hp _ _ hq off⟩
      · exact ⟨he, fun _ _ _ => rfl⟩
    · exact ⟨he, fun _ _ _ => rfl⟩

/-- An uncorrectable read is counted with its re-reads. -/
def Dev.rereadsCounted (d : Dev) (s n : Nat) : Dev := ((d.addCount (pStk s 2) 0x50 1).addCount (pStk s 0) 0x5C n).countRereads (d.owner (pStk s 0)) n

/-- What becomes of a read that found an error without an injected pattern. -/
def Dev.decided (d : Dev) (s c q found : Nat) (good : Option (Fin 3)) : Dev :=
  if found < 3 then (d.addCount (pStk s 2) 0x4C 1).errEvent s c q (found = 2)
  else match good with
    | some i => (d.rereadsCounted s (i.val + 1)).errEvent s c q false
    | none => (((d.rereadsCounted s 3).markHeld (burstDpa s c q)).addCount (pStk s 2) 0x5C 1).errEvent s c q true

section Decide
variable {d : Dev} {s c q found : Nat} {good : Option (Fin 3)}

theorem Dev.decideRead_idle (h : found = 0 ∨ d.dom (80 + s) ≠ dsOn ∨ d.chanRead s c q = false ∨ ∃ x, d.dpaAt (burstDpa s c q) = some x ∧ d.markedAt x 64 = true) :
    d.decideRead s c q found good = d := by
  refine if_pos ?_
  rcases h with h | h | h | ⟨x, hx, hm⟩
  · simp [h]
  · simp [h]
  · simp [h]
  · simp [hx, hm]

variable (hon : d.dom (80 + s) = dsOn) (hread : d.chanRead s c q = true)
  (hclean : ∀ x, d.dpaAt (burstDpa s c q) = some x → d.markedAt x 64 = false ∧ d.injected.contains x = false)
include hon hread hclean

theorem Dev.decideRead_found (h : found ≠ 0) : d.decideRead s c q found good = d.decided s c q found good := by
  unfold Dev.decideRead
  extract_lets a x p
  have hheld : ((d.dpaAt a).isSome && d.markedAt x 64) = false ∧ ((d.dpaAt a).isSome && d.injected.contains x) = false := by
    rcases hx : d.dpaAt a with _ | y
    · exact ⟨rfl, rfl⟩
    · have hxy : x = y := congrArg (Option.getD · a) hx
      rw [hxy]
      exact hclean y hx
  refine (if_neg ?_).trans ((if_neg ?_).trans ?_)
  · simp [h, hon, hread, hheld.1]
  · rw [hheld.2]
    exact Bool.false_ne_true
  · cases good <;> rfl

end Decide

theorem Dev.decided_corrected (d : Dev) (s c q : Nat) {found : Nat} (h : found < 3) (good : Option (Fin 3)) :
    d.decided s c q found good = (d.addCount (pStk s 2) 0x4C 1).errEvent s c q (decide (found = 2)) := if_pos h

theorem Dev.decided_good (d : Dev) (s c q : Nat) (i : Fin 3) : d.decided s c q 3 (some i) = (d.rereadsCounted s (i.val + 1)).errEvent s c q false := if_neg (by decide)

theorem Dev.decided_bad (d : Dev) (s c q : Nat) :
    d.decided s c q 3 none = (((d.rereadsCounted s 3).markHeld (burstDpa s c q)).addCount (pStk s 2) 0x5C 1).errEvent s c q true := if_neg (by decide)

/-- The counts of an uncorrectable read. -/
theorem Dev.rereadsCounted_effect (d : Dev) {s : Nat} (n : Nat) {f : Dev} (hf : f = d.rereadsCounted s n) :
    f.mem = d.mem ∧ f.marks = d.marks ∧ f.stks = d.stks ∧ (d.scrubbed (pStk s 2) = false → f.reg (pStk s 2) 0x50 = d.reg (pStk s 2) 0x50 + 1) := by
  obtain ⟨hvoids, hreg⟩ := ((d.addCount (pStk s 2) 0x50 1).addCount (pStk s 0) 0x5C n).countRereads_keeps (d.owner (pStk s 0)) n
  rw [← Dev.rereadsCounted, ← hf] at hvoids hreg
  refine ⟨?_, ?_, ?_, fun hscr => ?_⟩
  · rw [hvoids.only, Dev.addCount_only, d.addCount_only]
  · rw [hvoids.only, Dev.addCount_only, d.addCount_only]
  · rw [hvoids.only, Dev.addCount_only, d.addCount_only]
  · have hpage : 0x100000 ≤ (pStk s 2).base := by simp only [Page.base]; omega
    have hother := (Dev.sameRegsBut_addCount (d.addCount (pStk s 2) 0x50 1) (pStk s 0) 0x5C n).reg_of_ne (q := pStk s 2) (off := 0x50) (by simp only [List.mem_singleton, forall_eq, Page.base]; omega)
    rw [hreg _ hpage, hother, Dev.reg_addCount_same hscr]
    rfl

/-- An uncorrectable burst that is poisoned and counted. -/
theorem Dev.poisoned_effect (d : Dev) (s a : Nat) {f : Dev} (hf : f = (d.markHeld a).addCount (pStk s 2) 0x5C 1) :
    f.mem = d.mem ∧ (∀ x, d.dpaAt a = some x → x ∈ f.marks) ∧ f.reg (pStk s 2) 0x50 = d.reg (pStk s 2) 0x50 := by
  have hmark := d.markHeld_only a
  refine ⟨?_, fun x hx => ?_, ?_⟩
  · rw [hf, Dev.addCount_only, hmark]
  · rw [hf, Dev.addCount_only]
    exact Dev.markHeld_marks hx
  · rw [hf, (Dev.sameRegsBut_addCount (d.markHeld a) (pStk s 2) 0x5C 1).reg (by decide), hmark]
    rfl

/-! ### Repairs (R363) -/

theorem Dev.resume_idle {d : Dev} (h : d.inOps = []) : d.resume = d := by
  rw [Dev.resume, Dev.performAll, h]
  rfl

theorem Dev.noteRec_only (d : Dev) : d.noteRec = { d with boot := d.noteRec.boot, sec := d.noteRec.sec } := by
  unfold Dev.noteRec Dev.writeRec
  split
  · rfl
  · rfl

theorem Dev.repairDone_idle {d : Dev} {s c num : Nat} {column : Bool} (h : ∀ r ∈ (d.stk s).repairs, ¬(r.column = column ∧ r.chan = c ∧ r.num = num)) (bad : List Nat) :
    d.repairDone s c num column bad = d := by
  refine if_pos ?_
  rw [Bool.not_eq_true', List.any_eq_false]
  intro r hr
  simpa [and_assoc] using h r hr

/-- The bursts of a list that stand in the repaired row or bank. -/
def repairedBursts (num : Nat) (column : Bool) (bad : List Nat) : List Nat := bad.filter fun q => if column then bankOf (rowOf q) = num else rowOf q = num

/-- A stack whose repair of a row or column is over. -/
def Stk.repaired (y : Stk) (c num : Nat) (column : Bool) : Stk := { y with
  repairs := y.repairs.filter fun r => !(r.column = column && r.chan = c && r.num = num)
  rowsFixed := if column then y.rowsFixed else y.rowsFixed ++ [(c, num)]
  colsFixed := if column then y.colsFixed ++ [(c, num)] else y.colsFixed }

/-- A repair that ends where no error pattern stands. -/
theorem Dev.repairDone_ends {d : Dev} {s c num : Nat} {column : Bool} (h : ∃ r ∈ (d.stk s).repairs, r.column = column ∧ r.chan = c ∧ r.num = num) (herrs : d.errs = []) (bad : List Nat)
    {e f : Dev} (he : e = (repairedBursts num column bad).foldl (fun (d : Dev) q => d.markHeld (burstDpa s c q)) d) (hf : f = d.repairDone s c num column bad) :
    f.stks = (e.modStk s fun y => y.repaired c num column).stks ∧ f.mem = e.mem ∧ f.marks = e.marks ∧ f.csr = e.csr ∧ f.inOps = e.inOps := by
  have hany : ((d.stk s).repairs.any fun r => r.column = column && r.chan = c && r.num = num) = true := by
    obtain ⟨r, hr, h1, h2, h3⟩ := h
    exact List.any_eq_true.2 ⟨r, hr, by simp [h1, h2, h3]⟩
  have hreads : d.repairReads s c num column bad = e := by
    unfold Dev.repairReads
    extract_lets mine g
    have hg : g = d := by
      have hnil : (d.errs.map Prod.fst).filter mine = [] := by rw [herrs]; rfl
      exact (congrArg (List.foldl Dev.noteErr d) hnil).trans rfl
    rw [hg, he]
    rfl
  have hgo : ∃ row bank how, f = (e.modStk s fun y => y.repaired c num column).noteRec.rowRepaired s c row bank how := by
    rw [hf, ← hreads]
    exact ⟨_, _, _, if_neg (by simp [hany])⟩
  obtain ⟨row, bank, how, hgo⟩ := hgo
  have hnote := (e.modStk s fun y => y.repaired c num column).noteRec_only
  rw [hgo]
  exact ⟨(congrArg Dev.stks hnote).trans rfl, (congrArg Dev.mem hnote).trans rfl, (congrArg Dev.marks hnote).trans rfl, (congrArg Dev.csr hnote).trans rfl, (congrArg Dev.inOps hnote).trans rfl⟩

/-! ### Copies of granules (R372) -/

theorem Dev.copyDone_idle {d : Dev} {s g : Nat} (h : ∀ m ∈ (d.stk s).moving, m.from_ ≠ g) (unread : List Nat) : d.copyDone s g unread = d := by
  have hnone : ((d.stk s).moving.find? fun m => m.from_ = g) = none := List.find?_eq_none.2 fun m hm => by simpa using h m hm
  unfold Dev.copyDone
  rw [hnone]

/-- A stack whose granule `g` has moved to `t`. -/
def Stk.moved (y : Stk) (g t : Nat) : Stk := { y with
  moving := y.moving.filter fun x => x.from_ ≠ g
  remap := tput (tmap y.remap fun _ v => if v = g then t else v) g t
  rets := y.rets.map fun r => if r.chan = granChan g then { r with migrated := r.migrated + 1 } else r }

theorem Dev.unitRetired_only (d : Dev) (owner kind unit sub : Nat) (reason : Option Nat) (moved lost : Nat) :
    d.unitRetired owner kind unit sub reason moved lost = { d with
      freeNext := (d.unitRetired owner kind unit sub reason moved lost).freeNext, boot := (d.unitRetired owner kind unit sub reason moved lost).boot
      sec := (d.unitRetired owner kind unit sub reason moved lost).sec, events := (d.unitRetired owner kind unit sub reason moved lost).events } := by
  have hnote := d.takeFree.2.noteRec_only
  unfold Dev.unitRetired
  dsimp only
  split
  · rw [hnote]
    rfl
  · rw [hnote]
    rfl

theorem Dev.stk_retsEnd (d : Dev) (s : Nat) : (((d.retsEnd s).stk s).remap = (d.stk s).remap ∧ ((d.retsEnd s).stk s).moving = (d.stk s).moving) ∧ (d.retsEnd s).inOps = d.inOps := by
  unfold Dev.retsEnd
  extract_lets x left done e
  have hfold : (done.foldl (fun (d : Dev) r => d.unitRetired (d.owner (pStk s 0)) 2 s r.chan (some 0x3002) r.migrated r.lost) e).stks = e.stks ∧
      (done.foldl (fun (d : Dev) r => d.unitRetired (d.owner (pStk s 0)) 2 s r.chan (some 0x3002) r.migrated r.lost) e).inOps = e.inOps :=
    Dev.foldl_holds (P := fun g => g.stks = e.stks ∧ g.inOps = e.inOps) (fun g r _ hg => by rw [Dev.unitRetired_only]; exact hg) ⟨rfl, rfl⟩
  have hstk : (done.foldl (fun (d : Dev) r => d.unitRetired (d.owner (pStk s 0)) 2 s r.chan (some 0x3002) r.migrated r.lost) e).stk s = e.stk s := by rw [Dev.stk, hfold.1, Dev.stk]
  rw [hstk, hfold.2, Dev.stk_modStk_same]
  exact ⟨⟨rfl, rfl⟩, rfl⟩

/-- Without a granule that waits, migration only ends retirements. -/
theorem Dev.migrate_rest {d : Dev} {s : Nat} (h : (d.stk s).toMove = []) : d.migrate s = d.retsEnd s := by
  have hstart : Dev.startMoves s 1 d = d := by
    unfold Dev.startMoves
    dsimp only
    rw [h]
  rw [Dev.migrate, h]
  exact congrArg (Dev.retsEnd · s) hstart

/-- The one copy that runs ends, where no granule waits and no error pattern stands. -/
theorem Dev.copyDone_ends {d : Dev} {s g : Nat} {m : Migration} (hmoving : (d.stk s).moving = [m]) (hfrom : m.from_ = g) (hmove : (d.stk s).toMove = []) (herrs : d.errs = []) (unread : List Nat)
    {f : Dev} (hf : f = d.copyDone s g unread) : tget? (f.stk s).remap g = some m.to_ ∧ (f.stk s).moving = [] ∧ f.inOps = d.inOps := by
  have hfind : ((d.stk s).moving.find? fun x => x.from_ = g) = some m := by
    rw [hmoving, List.find?_cons_of_pos (by simpa using hfrom)]
  generalize he : unread.foldl (fun (d : Dev) i => d.markHeld (stkBase s + g * 2 ^ 21 + 64 * (i % 32768))) d = e
  obtain ⟨honly, -⟩ := d.markHelds_effect (fun i => stkBase s + g * 2 ^ 21 + 64 * (i % 32768)) unread he.symm
  have hgo : f = ((e.moveBytes s g m.to_).modStk s fun y => y.moved g m.to_).migrate s := by
    rw [hf, Dev.copyDone, hfind, ← he]
    dsimp only
    rw [herrs]
    rfl
  have hstk : ((e.moveBytes s g m.to_).modStk s fun y => y.moved g m.to_).stk s = (d.stk s).moved g m.to_ := by
    rw [Dev.stk_modStk_same]
    have hstks : e.stks = d.stks := by rw [honly]
    have hsame : (e.moveBytes s g m.to_).stk s = d.stk s := Dev.stk_of_stks hstks s
    rw [hsame]
  obtain ⟨⟨hremap, hmov⟩, hin⟩ := ((e.moveBytes s g m.to_).modStk s fun y => y.moved g m.to_).stk_retsEnd s
  rw [hgo, Dev.migrate_rest (by rw [hstk]; exact hmove), hremap, hmov, hin, hstk]
  have hin' : e.inOps = d.inOps := by rw [honly]
  refine ⟨tget?_tput_same .., ?_, hin'⟩
  rw [Stk.moved, hmoving]
  simp [hfrom]

/-! ### Flip registers (R378) -/

/-- `e` keeps of `d` memory, the field [w:0] of a flip register and the events of its page. -/
structure Dev.FlipKeeps (d e : Dev) (p : Page) (off w : Nat) : Prop where
  mem : e.mem = d.mem
  field : e.getF p off w 0 = d.getF p off w 0
  event : e.reg p 0x10 = d.reg p 0x10

theorem Dev.FlipKeeps.refl (d : Dev) (p : Page) (off w : Nat) : d.FlipKeeps d p off w := ⟨rfl, rfl, rfl⟩

theorem Dev.FlipKeeps.trans {a b c : Dev} {p : Page} {off w : Nat} (h : a.FlipKeeps b p off w) (h' : b.FlipKeeps c p off w) : a.FlipKeeps c p off w :=
  ⟨h'.mem.trans h.mem, h'.field.trans h.field, h'.event.trans h.event⟩

theorem Dev.flipKeeps_setBit_other (d : Dev) {p q : Page} {off o w : Nat} (i : Nat) (b : Bool) (h : p.base + off ≠ q.base + o) (h10 : p.base + 0x10 ≠ q.base + o) :
    d.FlipKeeps (d.setBit q o i b) p off w :=
  ⟨by rw [d.regsOnly_setBit], by rw [Dev.getF, Dev.reg_setBit_ne _ _ _ h, Dev.getF], Dev.reg_setBit_ne _ _ _ h10⟩

theorem Dev.flipKeeps_setBit_high (d : Dev) (p : Page) {off i w : Nat} (b : Bool) (hoff : off ≠ 0x10) (hi : w < i) : d.FlipKeeps (d.setBit p off i b) p off w :=
  ⟨by rw [d.regsOnly_setBit], Dev.getF_setBit_ne _ _ _ _ (.inr hi), Dev.reg_setBit_ne _ _ _ (by omega)⟩

/-- A pattern that goes touches one flip register at most, in a bit above its fields. -/
theorem Dev.dropErr_cases (d : Dev) (u : Nat) : ∃ e : Dev, e.mem = d.mem ∧ e.csr = d.csr ∧ (d.dropErr u = e ∨ (∃ s c, c < 32 ∧ d.dropErr u = e.setBit (pStk s 2) (0x104 + 8 * c) 23 false) ∨
    ∃ n, d.dropErr u = e.setBit (pClu n) 0x498 21 false) := by
  refine ⟨{ d with errs := tdel d.errs u, injected := d.injected.filter (· ≠ u) }, rfl, rfl, ?_⟩
  unfold Dev.dropErr
  dsimp only
  split
  · split
    · exact .inr (.inl ⟨_, _, chanOf_lt _, rfl⟩)
    · exact .inl rfl
  · split
    · exact .inr (.inr ⟨_, rfl⟩)
    · exact .inl rfl
  · exact .inl rfl

theorem Dev.flipKeeps_of_csr {d e : Dev} (hmem : e.mem = d.mem) (hcsr : e.csr = d.csr) (p : Page) (off w : Nat) : d.FlipKeeps e p off w :=
  ⟨hmem, by rw [Dev.getF, Dev.reg, hcsr, Dev.getF, Dev.reg], by rw [Dev.reg, hcsr, Dev.reg]⟩

theorem Dev.flipKeeps_dropErr_stk (d : Dev) (u s : Nat) {c : Nat} (hs : s < 24) (hc : c < 32) : d.FlipKeeps (d.dropErr u) (pStk s 2) (0x104 + 8 * c) 9 := by
  obtain ⟨e, hmem, hcsr, h | ⟨s', c', hc', h⟩ | ⟨n, h⟩⟩ := d.dropErr_cases u
  · exact h ▸ Dev.flipKeeps_of_csr hmem hcsr _ _ _
  · rw [h]
    refine (Dev.flipKeeps_of_csr hmem hcsr _ _ _).trans ?_
    by_cases hsame : s' = s ∧ c' = c
    · obtain ⟨rfl, rfl⟩ := hsame
      exact Dev.flipKeeps_setBit_high _ _ _ (by omega) (by decide)
    · exact Dev.flipKeeps_setBit_other _ _ _ (by simp only [Page.base]; omega) (by simp only [Page.base]; omega)
  · rw [h]
    exact (Dev.flipKeeps_of_csr hmem hcsr _ _ _).trans (Dev.flipKeeps_setBit_other _ _ _ (by simp only [Page.base]; omega) (by simp only [Page.base]; omega))

theorem Dev.flipKeeps_dropErr_clu (d : Dev) (u n : Nat) : d.FlipKeeps (d.dropErr u) (pClu n) 0x498 8 := by
  obtain ⟨e, hmem, hcsr, h | ⟨s', c', hc', h⟩ | ⟨n', h⟩⟩ := d.dropErr_cases u
  · exact h ▸ Dev.flipKeeps_of_csr hmem hcsr _ _ _
  · rw [h]
    exact (Dev.flipKeeps_of_csr hmem hcsr _ _ _).trans (Dev.flipKeeps_setBit_other _ _ _ (by simp only [Page.base]; omega) (by simp only [Page.base]; omega))
  · rw [h]
    refine (Dev.flipKeeps_of_csr hmem hcsr _ _ _).trans ?_
    by_cases hsame : n' = n
    · rw [hsame]
      exact Dev.flipKeeps_setBit_high _ _ _ (by decide) (by decide)
    · exact Dev.flipKeeps_setBit_other _ _ _ (by simp only [Page.base]; omega) (by simp only [Page.base]; omega)

/-- A write of a flip register whose bit numbers have `w` + 1 bits and end at `last`: both numbers, their enables, and the arming. -/
def Dev.writeFlip (d : Dev) (p : Page) (off w last : Nat) (v : Word) (f : Nat → Bool) : Dev :=
  let bad := last < wfld v w 0 || last < wfld v (2 * w + 2) (w + 2)
  let d := if bad then d.invalid p else d
  let d := if last < wfld v w 0 then d else d.setF p off w 0 (wfld v w 0)
  let d := if last < wfld v (2 * w + 2) (w + 2) then d else d.setF p off (2 * w + 2) (w + 2) (wfld v (2 * w + 2) (w + 2))
  let d := (d.setBit p off (w + 1) (wbit v (w + 1))).setBit p off (2 * w + 3) (wbit v (2 * w + 3))
  if wbit v (2 * w + 4) then (d.dropInjected f).setBit p off (2 * w + 4) true else d

/-- What reads after the write of a flip register. -/
theorem Dev.writeFlip_reads (d : Dev) {p : Page} {off w last : Nat} (hoff : off ≠ 0x10) (hw : w < 10) (hdrop : ∀ d u, Dev.FlipKeeps d (d.dropErr u) p off w) (v : Word) (f : Nat → Bool)
    {e : Dev} (he : e = d.writeFlip p off w last v f) : (wbit v (2 * w + 4) = true → e.bit p off (2 * w + 4) = true) ∧ e.mem = d.mem ∧
      (wfld v w 0 ≤ last → e.getF p off w 0 = wfld v w 0) ∧ (last < wfld v w 0 → e.getF p off w 0 = d.getF p off w 0 ∧ e.bit p 0x10 evInvalid = true) := by
  unfold Dev.writeFlip at he
  revert he
  extract_lets bad d1 d2 d3 d4
  intro he
  have h3 : d2.FlipKeeps d3 p off w := by
    unfold d3
    split
    · exact .refl _ _ _ _
    · exact ⟨rfl, Dev.getF_setF_ne _ _ _ _ (by omega) (by omega), Dev.reg_setReg_ne _ _ (by omega)⟩
  have h4 : d2.FlipKeeps d4 p off w :=
    h3.trans ((d3.flipKeeps_setBit_high p _ hoff (by omega)).trans (Dev.flipKeeps_setBit_high _ p _ hoff (by omega)))
  have hend : d2.FlipKeeps e p off w := by
    rw [he]
    split
    · have hall : d4.FlipKeeps (d4.dropInjected f) p off w := Dev.foldl_holds (P := fun x => d4.FlipKeeps x p off w) (fun x u _ hx => hx.trans (hdrop x u)) (.refl _ _ _ _)
      exact h4.trans (hall.trans (Dev.flipKeeps_setBit_high _ p _ hoff (by omega)))
    · exact h4
  have hlt : wfld v w 0 < 2 ^ (w + 1 - 0) := Nat.mod_lt _ (Nat.two_pow_pos _)
  refine ⟨fun harm => ?_, hend.mem.trans ?_, fun hle => ?_, fun hgt => ?_⟩
  · rw [he, if_pos harm]
    exact Dev.bit_setBit_same _ _ _ _ _ (by omega)
  · have h1 : d1.mem = d.mem := by
      unfold d1
      split
      · exact (d.invalid_effect p).2.2.2
      · rfl
    unfold d2
    split
    · exact h1
    · exact h1
  · rw [hend.field]
    unfold d2
    rw [if_neg (Nat.not_lt.2 hle), Dev.getF_setF_same _ _ _ _ (by omega)]
    exact Nat.mod_eq_of_lt hlt
  · have h12 : d2 = d.invalid p := by
      unfold d2 d1
      rw [if_pos hgt]
      exact if_pos (by simp [bad, hgt])
    refine ⟨?_, ?_⟩
    · rw [hend.field, h12]
      exact congrArg (wfld · w 0) (Dev.reg_setEvent_off d p evInvalid hoff)
    · exact (congrArg (wbit · evInvalid) (hend.event.trans (by rw [h12]))).trans (d.invalid_effect p).2.1

end Sys2Proof.Machine

namespace Sys2Proof.Proofs
open Sys2Proof Sys2Proof.Machine

/-- Settles O53: a decided read counts before it is an error event; repairs and copies mark what stays bad and touch their own stack; a pattern that goes leaves the fields of the flip registers. -/
theorem memoryErrorsAreHandled : Obligations.MemoryErrorsAreHandled := by
  refine ⟨?_, ?_, ?_, ?_, ?_, ?_, ?_⟩
  · intro s k c q n o h hh
    subst hh
    refine ⟨fun hidle => s.upd_congr (Dev.decideRead_idle ?_), fun hon hread hclean => ⟨fun hn => ?_, fun hn => ?_⟩⟩
    · exact hidle.imp_left fun h0 => congrArg Fin.val h0
    · have hlt : n.val < 3 := by rcases hn with rfl | rfl <;> decide
      have hfound := Dev.decideRead_found (good := o) hon hread hclean (found := n.val) (by rcases hn with rfl | rfl <;> decide)
      have hperm : decide (n.val = 2) = decide (n = 2) := by rcases hn with rfl | rfl <;> rfl
      refine ⟨s.dev.addCount (pStk k 2) 0x4C 1, s.upd_congr (hfound.trans ((Dev.decided_corrected _ _ _ _ hlt o).trans ?_)), Dev.addCount_mem .., by rw [Dev.addCount_only],
        fun hscr => Dev.reg_addCount_same hscr _ _⟩
      rw [hperm]
    · subst hn
      have hfound := Dev.decideRead_found (found := 3) (good := o) hon hread hclean (by decide)
      cases o with
      | some i =>
        obtain ⟨hmem, hmarks, -, hreg⟩ := s.dev.rereadsCounted_effect (s := k) (i.val + 1) rfl
        exact ⟨s.dev.rereadsCounted k (i.val + 1), s.upd_congr (hfound.trans (Dev.decided_good ..)), hmem, (fun h => by cases h), (fun _ => hmarks), hreg⟩
      | none =>
        obtain ⟨hmem, -, hstks, hreg⟩ := s.dev.rereadsCounted_effect (s := k) 3 rfl
        obtain ⟨hmem', hmarks, hreg'⟩ := (s.dev.rereadsCounted k 3).poisoned_effect k (burstDpa k c q.toNat) rfl
        exact ⟨_, s.upd_congr (hfound.trans (Dev.decided_bad ..)), hmem'.trans hmem,
          (fun _ x hx => Dev.markedAt_of_mem (hmarks x ((Dev.dpaAt_of_stks hstks _).trans hx)) (Dev.dpaAt_aligned (burstDpa_aligned ..) hx)),
          (fun h => absurd rfl h), fun hscr => hreg'.trans (hreg hscr)⟩
  · intro s k c n col l hin
    refine ⟨fun hnone => s.upd_congr ((congrArg Dev.resume (Dev.repairDone_idle hnone _)).trans (Dev.resume_idle hin)), fun hsome herrs => ?_⟩
    generalize he : (repairedBursts n.toNat col (l.map BitVec.toNat)).foldl (fun (d : Dev) q => d.markHeld (burstDpa k c q)) s.dev = e
    obtain ⟨honly, hmarks⟩ := s.dev.markHelds_effect (fun q => burstDpa k c q) _ he.symm
    obtain ⟨hstks, hmem, hmk, hcsr, hops⟩ := Dev.repairDone_ends hsome herrs (l.map BitVec.toNat) he.symm rfl
    have hesame : e.stk k = s.dev.stk k := Dev.stk_of_stks (by rw [honly]) k
    have hstk : ((s.dev.repairDone k c n.toNat col (l.map BitVec.toNat)).stk k) = (s.dev.stk k).repaired c n.toNat col := by
      rw [Dev.stk_of_stks hstks, Dev.stk_modStk_same, hesame]
    refine ⟨_, s.upd_congr (Dev.resume_idle ((hops.trans (by rw [honly])).trans hin)), ?_, ?_, ?_, hmem.trans (by rw [honly]), hcsr.trans (by rw [honly]), ?_, ?_⟩
    · rw [hstk]
      rintro r hr ⟨h1, h2, h3⟩
      simpa [h1, h2, h3] using (List.mem_filter.1 hr).2
    · rintro rfl
      rw [hstk]
      exact ⟨rfl, rfl⟩
    · rintro rfl
      rw [hstk]
      exact ⟨rfl, rfl⟩
    · intro q hq hrow x hx
      refine Dev.markedAt_of_mem ?_ (Dev.dpaAt_aligned (burstDpa_aligned ..) hx)
      rw [hmk]
      refine hmarks q.toNat (List.mem_filter.2 ⟨List.mem_map_of_mem hq, ?_⟩) x hx
      cases col
      · exact decide_eq_true hrow
      · exact decide_eq_true hrow
    · rintro rfl
      rw [hmk, ← he]
      rfl
  · intro s k g l hin
    refine ⟨fun hnone => s.upd_congr ((congrArg Dev.resume (Dev.copyDone_idle hnone _)).trans (Dev.resume_idle hin)), fun m hmoving hfrom hmove herrs => ?_⟩
    obtain ⟨hremap, hmov, hops⟩ := Dev.copyDone_ends hmoving hfrom hmove herrs (l.map Fin.val) rfl
    exact ⟨_, s.upd_congr (Dev.resume_idle (hops.trans hin)), hremap, hmov⟩
  · intro s k c
    refine ⟨_, s.upd_congr rfl, rfl, rfl, fun h => ?_⟩
    rw [Dev.stk_modStk_same]
    simp only [List.mem_filter, Bool.not_eq_true', Bool.and_eq_false_iff, decide_eq_false_iff_not, Nat.not_le, imp_iff_not_or]
  · intro s k c o
    refine ⟨fun n hoff => s.upd_congr (if_pos (by simp [hoff])), fun hrun hon hin herrs => ?_⟩
    generalize he : (s.dev.modStk k fun y => { y with patrol := tput y.patrol c ((tgetD (s.dev.stk k).patrol c 0 + 1) % 2 ^ 26) }) = e
    have hclean : ∀ q, e.decideRead k c q 0 o = e := fun q => Dev.decideRead_idle (.inl rfl)
    refine ⟨e, s.upd_congr ((if_neg (by simp [hrun, hon, hin])).trans ?_), ?_, by rw [← he]; rfl, by rw [← he]; rfl, by rw [← he]; rfl⟩
    · have hnil : e.errs = [] := by rw [← he]; exact herrs
      dsimp only
      rw [he]
      split
      · rw [hnil]
        exact (if_neg (by simp [tget?])).trans (hclean _)
      · exact hclean _
    · rw [← he, Dev.stk_modStk_same]
      exact tgetD_tput_same ..
  · intro s die p b
    refine ⟨_, s.upd_congr rfl, fun l => ?_⟩
    simp only [Dev.flushLines, List.mem_filter, Bool.not_eq_true', Bool.and_eq_false_iff, decide_eq_false_iff_not]
    tauto
  · intro s r t v pg off hi arm last hpg htakes hranks
    rcases hpg with ⟨ht, rfl, rfl, rfl, rfl, rfl⟩ | ⟨ht, rfl, rfl, rfl, rfl, rfl⟩
    · obtain ⟨harm, hmem, hlow, hhigh⟩ := Dev.writeFlip_reads _ (p := pStk (t.val / 32) 2) (off := 0x104 + 8 * (t.val % 32)) (w := 9) (last := 575) (by omega) (by decide)
        (fun d u => d.flipKeeps_dropErr_stk u (t.val / 32) (by omega) (by omega)) v _ rfl
      exact ⟨_, s.upd_congr ((if_pos ht).trans (Dev.guardPut_takes htakes hranks v _)), harm, hmem, hlow, hhigh⟩
    · obtain ⟨harm, hmem, hlow, hhigh⟩ := Dev.writeFlip_reads _ (p := pClu (t.val - 768)) (off := 0x498) (w := 8) (last := 287) (by decide) (by decide)
        (fun d u => d.flipKeeps_dropErr_clu u (t.val - 768)) v _ rfl
      exact ⟨_, s.upd_congr ((if_neg (Nat.not_lt.2 ht)).trans (Dev.guardPut_takes htakes hranks v _)), harm, hmem, hlow, hhigh⟩

end Sys2Proof.Proofs

/-! SUPPORT. Retirement and re-admission of units (17, R375–R377): what keeps a cluster's retirement; and the statement about them. -/

namespace Sys2Proof.Machine

/-! ### What keeps a cluster retired or in service -/

/-- Every cluster is as far in service in `e` as in `d`. -/
def Dev.KeepsRetired (d e : Dev) : Prop := ∀ u, (e.clu u).retired = (d.clu u).retired

theorem Dev.KeepsRetired.refl (d : Dev) : d.KeepsRetired d := fun _ => rfl

theorem Dev.KeepsRetired.trans {a b c : Dev} (h : a.KeepsRetired b) (h' : b.KeepsRetired c) : a.KeepsRetired c := fun u => (h' u).trans (h u)

theorem Dev.keepsRetired_of_clus {d e : Dev} (h : e.clus = d.clus) : d.KeepsRetired e := fun u => by rw [Dev.clu, h, Dev.clu]

theorem Dev.keepsRetired_modClu (d : Dev) (n : Nat) {f : Clu → Clu} (h : ∀ c, (f c).retired = c.retired) : d.KeepsRetired (d.modClu n f) := fun u => by
  rw [Dev.clu_modClu]
  split
  · next hu => rw [h, hu]
  · rfl

theorem Dev.RegsOnly.keepsRetired {d e : Dev} (h : d.RegsOnly e) : d.KeepsRetired e := Dev.keepsRetired_of_clus (by rw [h])
theorem Dev.BytesOnly.keepsRetired {d e : Dev} (h : d.BytesOnly e) : d.KeepsRetired e := Dev.keepsRetired_of_clus (by rw [h])
theorem Dev.Posts.keepsRetired {d e : Dev} (h : d.Posts e) : d.KeepsRetired e := Dev.keepsRetired_of_clus (by rw [h.only])

theorem Dev.keepsRetired_foldl {α : Type} {f : Dev → α → Dev} (h : ∀ d a, Dev.KeepsRetired d (f d a)) (l : List α) (d : Dev) : d.KeepsRetired (l.foldl f d) :=
  Dev.foldl_holds (P := d.KeepsRetired) (fun e a _ he => he.trans (h e a)) (.refl d)

theorem Dev.keepsRetired_qClear (d : Dev) (u : UnitKey) (q : Nat) : d.KeepsRetired (d.qClear u q) := by
  unfold Dev.qClear
  dsimp only
  split
  · exact (Dev.keepsRetired_of_clus rfl).trans (Dev.keepsRetired_modClu (d.sramMet (.queue u q)) u fun _ => rfl)
  · split
    · exact Dev.keepsRetired_of_clus rfl
    · exact Dev.keepsRetired_of_clus rfl

theorem Dev.keepsRetired_qCredit (d : Dev) (u : UnitKey) (q c : Nat) : d.KeepsRetired (d.qCredit u q c) := by
  unfold Dev.qCredit
  split
  · exact d.keepsRetired_modClu u fun _ => rfl
  · split
    · exact Dev.keepsRetired_of_clus rfl
    · exact Dev.keepsRetired_of_clus rfl

theorem Dev.keepsRetired_unbindQ (d : Dev) (u : UnitKey) (q : Nat) : d.KeepsRetired (d.unbindQ u q) :=
  ((Dev.keepsRetired_foldl (fun e h => (e.posts_post h.msg h.item 0x500F 2).keepsRetired) (d.qHeld u q) d).trans (Dev.keepsRetired_of_clus rfl)).trans (Dev.keepsRetired_qClear _ u q)

theorem Dev.keepsRetired_bindQ (d : Dev) (u : UnitKey) (q job weight : Nat) : d.KeepsRetired (d.bindQ u q job weight) :=
  ((Dev.keepsRetired_of_clus (e := ((d.setReg (uPage u) (qOff u q) (BitVec.ofNat 32 (job % 4096 + weight % 16 * 4096))).setQMark u q 0).setQFault u q 0) rfl).trans
    (Dev.keepsRetired_qClear _ u q)).trans (Dev.keepsRetired_qCredit _ u q weight)

theorem Dev.keepsRetired_bindServing (d : Dev) (n j : Nat) : d.KeepsRetired (d.bindServing n j) := by
  unfold Dev.bindServing
  extract_lets e
  have he : d.KeepsRetired e := by
    unfold e
    split
    · exact d.keepsRetired_unbindQ n 0
    · exact .refl d
  exact (he.trans (e.keepsRetired_bindQ n 0 j 15)).trans (Dev.keepsRetired_of_clus rfl)

/-! ### The test of a cluster (R377) -/

theorem Dev.keepsRetired_endMarch {d : Dev} {n mask : Nat} (h : (d.clu n).march = some ⟨false, mask⟩) : d.KeepsRetired (d.endMarch n []) := by
  unfold Dev.endMarch
  split
  · exact .refl d
  · next m hm =>
    obtain rfl : m = ⟨false, mask⟩ := Option.some.inj (hm.symm.trans h)
    extract_lets p e1 e2 e3 e4
    have h1 : d.KeepsRetired e1 := (d.bytesOnly_zeroRange (bufBase n) 0x100000).keepsRetired
    have h2 : e1.KeepsRetired e2 := e1.keepsRetired_modClu n fun _ => rfl
    have h3 : e2.KeepsRetired e3 := (((e2.regsOnly_setBit p 0x404 0 false).trans (Dev.regsOnly_setBit _ p 0x404 2 false)).trans (Dev.regsOnly_setBit _ p 0x404 3 true)).keepsRetired
    exact h1.trans (h2.trans h3)

/-- A march that begins and ends at once leaves the cluster as it was in service. -/
theorem Dev.keepsRetired_testMarch (d : Dev) (n fails : Nat) : d.KeepsRetired (d.testMarch n fails) := by
  have hstart : d.KeepsRetired (d.startMarch n false 15) := (d.regsOnly_setBit (pClu n) 0x404 2 true).keepsRetired.trans (Dev.keepsRetired_modClu _ n fun _ => rfl)
  have hmarch : ((d.startMarch n false 15).clu n).march = some ⟨false, 15⟩ := congrArg Clu.march (Dev.clu_modClu_same ..)
  unfold Dev.testMarch
  extract_lets e
  have he : d.KeepsRetired e := hstart.trans (Dev.keepsRetired_endMarch hmarch)
  split
  · exact he
  · exact (he.trans (Dev.regsOnly_setBit ..).keepsRetired).trans (Dev.regsOnly_addSat ..).keepsRetired

/-! ### A cluster rejoins (R377) -/

theorem Dev.keepsRetired_withCores (d : Dev) (t : Tbl Core) : d.KeepsRetired { d with cores := t } := Dev.keepsRetired_of_clus rfl

theorem Dev.keepsRetired_clearCores (d : Dev) (n : Nat) : d.KeepsRetired (d.clearCores n) := by
  have hall : d.KeepsRetired (d.each (List.range 32) fun d k => if (d.core n k).retiring then d.setBit (pClu n) 0x7C4 k false else d) :=
    Dev.keepsRetired_foldl (fun e k => by
      split
      · exact (e.regsOnly_setBit ..).keepsRetired
      · exact .refl e) _ d
  exact hall.trans (Dev.keepsRetired_withCores _ _)

theorem Dev.keepsRetired_modCores (d : Dev) (n : Nat) (l : List Nat) (f : Core → Core) : d.KeepsRetired (d.each l fun d k => d.modCore n k f) :=
  Dev.keepsRetired_foldl (f := fun d k => d.modCore n k f) (fun _ _ => Dev.keepsRetired_of_clus rfl) l d

theorem Dev.keepsRetired_loadStores (d : Dev) (n : Nat) : d.KeepsRetired (d.loadStores n) := by
  unfold Dev.loadStores Dev.loadCores
  extract_lets b ws e
  have he : d.KeepsRetired e := d.keepsRetired_modCores n _ _
  split
  · exact he
  · exact he.trans (e.keepsRetired_modCores n _ _)

theorem Dev.keepsRetired_setFirmware (d : Dev) (p : Page) : d.KeepsRetired (d.setFirmware p) := by
  rcases d.setFirmware_eq p with h | ⟨v, h⟩
  · rw [h]
    exact .refl d
  · rw [h]
    exact (d.regsOnly_setReg ..).keepsRetired

theorem Dev.regsOnly_leaveInit (d : Dev) (p : Page) : d.RegsOnly (d.leaveInit p) := ((d.regsOnly_setBit ..).trans (Dev.regsOnly_setSt ..)).trans (Dev.regsOnly_setSt ..)

/-- A cluster that passed its test is in service. -/
theorem Dev.rejoin_cluster (d : Dev) (u c : Nat) : ((d.rejoin 1 u c).clu u).retired = false := by
  unfold Dev.rejoin
  rw [if_neg (by decide), if_pos rfl]
  extract_lets e1 e2 o
  have h1 : (e1.clu u).retired = false := congrArg Clu.retired (Dev.clu_modClu_same ..)
  have h2 : e1.KeepsRetired e2 := ((e1.keepsRetired_clearCores u).trans (Dev.keepsRetired_loadStores _ u)).trans
    ((Dev.keepsRetired_setFirmware _ (pClu u)).trans (Dev.regsOnly_leaveInit _ (pClu u)).keepsRetired)
  split
  · exact (e2.keepsRetired_bindServing u _ u).trans ((h2 u).trans h1)
  · exact (h2 u).trans h1

/-- A core that passed its test is in service. -/
theorem Dev.rejoin_core (d : Dev) (u : Nat) {c : Nat} (hc : c < 32) : (d.rejoin 0 u c).coreIn u c = true := by
  have hne : (pClu u).base + 0x7C4 ≠ (pClu u).base + coreOff c := by simp only [coreOff]; omega
  unfold Dev.rejoin
  rw [if_pos rfl]
  exact (congrArg (wbit · c) (Dev.reg_setReg_ne _ _ hne)).trans (Dev.bit_setBit_same _ _ _ _ _ hc)

/-! ### Retirement by command (R375, R376) -/

theorem Dev.voids_voidUnit (d : Dev) (n : Nat) : d.Voids (d.voidUnit n) := by
  unfold Dev.voidUnit
  dsimp only
  split
  · exact d.voids_voidProgs ..
  · exact .refl d

/-- A core in service retires: at once where it has no tile, at the end of its tile else. -/
theorem Dev.retireCore_effect {d : Dev} {n k : Nat} (hk : k < 32) (hin : d.coreIn n k = true) (hgoes : (d.core n k).retiring = false) {f : Dev} (hf : f = d.retireCore n k) :
    ((d.core n k).tile = none → f.coreIn n k = false) ∧ ((d.core n k).tile ≠ none → (f.core n k).retiring = true) := by
  generalize he : (d.unitRetired (d.owner (pClu n)) 0 n k none 0 0).voidUnit n = e
  have hcore : e.core n k = d.core n k := by
    rw [← he, Dev.core, Dev.core, (Dev.voids_voidUnit _ n).only, Dev.unitRetired_only]
  have hgo : f = if (e.core n k).tile.isSome then e.modCore n k fun c => { c with retiring := true } else (e.setBit (pClu n) 0x7C4 k false).coreSt n k 5 (e.coreIdx n k) 0 := by
    rw [hf, ← he]
    exact if_neg (by simp [hin, hgoes])
  have hne : (pClu n).base + 0x7C4 ≠ (pClu n).base + coreOff k := by simp only [coreOff]; omega
  rw [hgo, hcore]
  refine ⟨fun hnone => ?_, fun hsome => ?_⟩
  · rw [if_neg (by simp [hnone])]
    exact (congrArg (wbit · k) (Dev.reg_setReg_ne _ _ hne)).trans (Dev.bit_setBit_same _ _ _ _ _ hk)
  · rw [if_pos (Option.isSome_iff_ne_none.2 hsome)]
    exact congrArg Core.retiring (Dev.core_setCore_same ..)

theorem Dev.retireCluster_retires (d : Dev) (n : Nat) : ((d.retireCluster n none).clu n).retired = true := by
  unfold Dev.retireCluster
  split
  · assumption
  · extract_lets js e
    have hmod : ((e.modClu n fun c => { c with retired := true }).clu n).retired = true := congrArg Clu.retired (Dev.clu_modClu_same ..)
    have hst : (e.modClu n fun c => { c with retired := true }).KeepsRetired ((e.modClu n fun c => { c with retired := true }).setSt (pClu n) stRetired) := (Dev.regsOnly_setSt ..).keepsRetired
    have hrest : ∀ x : Dev, ∀ o, x.KeepsRetired ((x.unitRetired o 1 n 0 none 0 0).voidUnit n) := fun x o =>
      Dev.keepsRetired_of_clus (by rw [(Dev.voids_voidUnit _ n).only, Dev.unitRetired_only])
    exact (hrest _ _ n).trans ((hst n).trans hmod)

/-- The unit of a kind that retires. -/
def Dev.retires (d : Dev) (k u c : Nat) : Dev :=
  if k = 0 then d.retireCore u c else if k = 1 then d.retireCluster u none else if k = 2 then d.retireChannel u c else (d.retireLane u c).portLanes u

theorem Dev.unitRetire_refused {d : Dev} {i : Item} {k u c : Nat} (hk : k = numAt i.body 0 1) (hu : u = numAt i.body 2 2) (hc : c = numAt i.body 4 1)
    (h : unitExists k u c = false ∨ d.unitIn k u c = false ∨ (k = 0 ∧ (d.core u c).retiring = true)) : d.unitRetire i = d.endItem i cUnitState (k % 4) := by
  subst hk hu hc
  refine if_pos ?_
  rcases h with h | h | ⟨h, h'⟩
  · simp [h]
  · simp [h]
  · simp [h, h']

theorem Dev.unitRetire_retires {d : Dev} {i : Item} {k u c : Nat} (hk : k = numAt i.body 0 1) (hu : u = numAt i.body 2 2) (hc : c = numAt i.body 4 1)
    (hexists : unitExists k u c = true) (hin : d.unitIn k u c = true) (hgoes : k = 0 → (d.core u c).retiring = false) : d.unitRetire i = (d.retires k u c).endItem i 0 0 := by
  subst hk hu hc
  refine if_neg ?_
  simpa [hexists, hin] using hgoes

theorem unitExists_core {u c : Nat} (h : unitExists 0 u c = true) : c < 32 := by
  simp only [unitExists, decide_true, Bool.true_and, Bool.or_eq_true, Bool.and_eq_true, decide_eq_true_eq] at h
  omega

/-! ### Re-admission by command (R377) -/

theorem Dev.unitReadmit_refused {d : Dev} {i : Item} {k u c : Nat} (hk : k = numAt i.body 0 1) (hu : u = numAt i.body 2 2) (hc : c = numAt i.body 4 1)
    (h : unitExists k u c = false ∨ d.unitIn k u c = true) : d.unitReadmit i = d.endItem i cUnitState (k % 4) := by
  subst hk hu hc
  refine if_pos ?_
  rcases h with h | h <;> simp [h]

theorem Dev.unitReadmit_tests {d : Dev} {i : Item} {k u c : Nat} (hk : k = numAt i.body 0 1) (hu : u = numAt i.body 2 2) (hc : c = numAt i.body 4 1)
    (hexists : unitExists k u c = true) (hout : d.unitIn k u c = false) : (d.unitReadmit i).readmit = some ⟨i.msg, i.item, k, u, c⟩ := by
  subst hk hu hc
  exact (congrArg Dev.readmit (if_neg (by simp [hexists, hout]))).trans rfl

/-! ### The end of a test (R377) -/

/-- The domain of a unit under test. -/
def Readmit.dom (r : Readmit) : Nat := if r.kind ≤ 1 then r.unit / 10 else if r.kind = 2 then 80 + r.unit else 104 + r.unit / 4

/-- The device after the test of a unit. -/
def Dev.tested (d : Dev) (r : Readmit) (fails : Nat) : Dev :=
  if r.kind = 2 then (d.clearSoft r.unit r.sub).wipeChannel r.unit r.sub
  else if r.kind = 0 then d.setCore r.unit r.sub {}
  else if r.kind = 1 then d.testMarch r.unit fails else d

/-- Whether a tested unit passed, and the device after its repairs. -/
def Dev.passes (d : Dev) (r : Readmit) (rows : List (Fin 2097152)) (fails : Nat) : Bool × Dev :=
  if r.kind = 2 then (d.tested r fails).repairRows r.unit r.sub (rows.map Fin.val) else (decide (fails = 0), d.tested r fails)

/-- A unit that passed is back in service, and reported. -/
def Dev.readmits (d : Dev) (r : Readmit) : Dev :=
  let d := (d.rejoin r.kind r.unit r.sub).noteRec.record 0xFF 0x0102 (leBytes 2 r.kind ++ leBytes 2 r.unit ++ leBytes 2 r.sub)
  if r.kind = 3 then d.portLanes r.unit else d

theorem Dev.readmitDone_none {d : Dev} (h : d.readmit = none) (rows : List (Fin 2097152)) (fails : Nat) : d.readmitDone rows fails = d := by
  unfold Dev.readmitDone
  rw [h]

theorem Dev.readmitDone_off {d : Dev} {r : Readmit} (h : d.readmit = some r) (hoff : d.dom r.dom ≠ dsOn) (rows : List (Fin 2097152)) (fails : Nat) : d.readmitDone rows fails = d := by
  unfold Dev.readmitDone
  rw [h]
  exact if_pos hoff

theorem Dev.readmitDone_on {d e : Dev} {r : Readmit} (h : d.readmit = some r) (hon : d.dom r.dom = dsOn) {rows : List (Fin 2097152)} {fails : Nat} {ok : Bool}
    (hpass : Dev.passes { d with readmit := none } r rows fails = (ok, e)) :
    d.readmitDone rows fails = if ok then (e.readmits r).post r.msg r.item 0 0
      else e.noteRec.post r.msg r.item cReadmitFailed (min (if r.kind = 2 then rows.length else fails) (2 ^ 32 - 1)) := by
  unfold Dev.readmitDone
  rw [h]
  refine (if_neg (not_not.2 hon)).trans ?_
  extract_lets d1 d2
  have hmatch : (if r.kind = 2 then d2.repairRows r.unit r.sub (rows.map Fin.val) else (decide (fails = 0), d2)) = (ok, e) := hpass
  rw [hmatch]
  cases ok <;> rfl

/-- A core that has rejoined, after its report. -/
theorem Dev.readmits_core (d : Dev) {r : Readmit} (hkind : r.kind = 0) (hsub : r.sub < 32) : (d.readmits r).coreIn r.unit r.sub = true := by
  have hne : ¬ r.kind = 3 := by omega
  have hgo : d.readmits r = (d.rejoin 0 r.unit r.sub).noteRec.record 0xFF 0x0102 (leBytes 2 r.kind ++ leBytes 2 r.unit ++ leBytes 2 r.sub) := by
    rw [← hkind]
    exact if_neg hne
  rw [hgo, Dev.noteRec_only]
  exact d.rejoin_core r.unit hsub

/-- A cluster that has rejoined, after its report. -/
theorem Dev.readmits_cluster (d : Dev) {r : Readmit} (hkind : r.kind = 1) : ((d.readmits r).clu r.unit).retired = false := by
  have hne : ¬ r.kind = 3 := by omega
  have hgo : d.readmits r = (d.rejoin 1 r.unit r.sub).noteRec.record 0xFF 0x0102 (leBytes 2 r.kind ++ leBytes 2 r.unit ++ leBytes 2 r.sub) := by
    rw [← hkind]
    exact if_neg hne
  rw [hgo, Dev.noteRec_only]
  exact d.rejoin_cluster r.unit r.sub

theorem Dev.passes_core (d : Dev) {r : Readmit} (hkind : r.kind = 0) (rows : List (Fin 2097152)) (fails : Nat) : d.passes r rows fails = (decide (fails = 0), d.setCore r.unit r.sub {}) := by
  have hne : ¬ r.kind = 2 := by omega
  rw [Dev.passes, if_neg hne, Dev.tested, if_neg hne, if_pos hkind]

theorem Dev.passes_cluster (d : Dev) {r : Readmit} (hkind : r.kind = 1) (rows : List (Fin 2097152)) (fails : Nat) : d.passes r rows fails = (decide (fails = 0), d.testMarch r.unit fails) := by
  have hne : ¬ r.kind = 2 := by omega
  have hne0 : ¬ r.kind = 0 := by omega
  rw [Dev.passes, if_neg hne, Dev.tested, if_neg hne, if_neg hne0, if_pos hkind]

end Sys2Proof.Machine

namespace Sys2Proof.Proofs
open Sys2Proof Sys2Proof.Machine

/-- Settles O54: a retirement takes its unit out of service after its report; the test of a unit ends in its rejoining or leaves it as it was. -/
theorem unitsRetireAndReturn : Obligations.UnitsRetireAndReturn := by
  refine ⟨?_, ?_, ?_⟩
  · intro s p i e k u c hdue hk hu hc
    have hserve := s.upd_serveItem_due hdue Dev.unitRetire
    refine ⟨fun hno => hserve.trans (by rw [Dev.unitRetire_refused hk hu hc hno]), fun hexists hin hgoes => ?_⟩
    refine ⟨_, hserve.trans (by rw [Dev.unitRetire_retires hk hu hc hexists hin hgoes]), fun h0 htile => ?_, fun h0 htile => ?_, fun h1 => ?_⟩
    · rw [h0] at hexists hin
      rw [Dev.retires, if_pos h0]
      exact (Dev.retireCore_effect (unitExists_core hexists) hin (hgoes h0) rfl).1 htile
    · rw [h0] at hexists hin
      rw [Dev.retires, if_pos h0]
      exact (Dev.retireCore_effect (unitExists_core hexists) hin (hgoes h0) rfl).2 htile
    · rw [Dev.retires, if_neg (by omega), if_pos h1]
      exact Dev.retireCluster_retires ..
  · intro s p i e k u c hdue hk hu hc
    have hserve := s.upd_serveItem_due hdue Dev.unitReadmit
    exact ⟨fun hno => hserve.trans (by rw [Dev.unitReadmit_refused hk hu hc hno]), fun hexists hout => ⟨_, hserve, Dev.unitReadmit_tests hk hu hc hexists hout⟩⟩
  · intro s rows n
    refine ⟨fun hnone => s.upd_congr (Dev.readmitDone_none hnone rows n), fun r hr hoff => s.upd_congr (Dev.readmitDone_off hr hoff rows n), fun r hr hon => ?_⟩
    generalize hbase : ({ s.dev with readmit := none } : Dev) = b
    have hcores : ∀ u c, b.coreIn u c = s.dev.coreIn u c := fun u c => by rw [← hbase]; rfl
    have hclus : ∀ u, b.clu u = s.dev.clu u := fun u => by rw [← hbase]; rfl
    rcases hpass : b.passes r rows n with ⟨ok, e⟩
    have hdone := Dev.readmitDone_on hr hon (rows := rows) (fails := n) (hbase ▸ hpass)
    cases ok with
    | true =>
      refine ⟨e.readmits r, 0, 0, s.upd_congr hdone, .inl rfl, fun hkind hu hc => ?_, fun hkind => ?_⟩
      · have hzero : n = 0 := of_decide_eq_true (congrArg Prod.fst ((b.passes_core hkind rows n).symm.trans hpass))
        exact ⟨fun _ => ⟨rfl, e.readmits_core hkind hc⟩, fun hn => absurd hzero hn⟩
      · have hzero : n = 0 := of_decide_eq_true (congrArg Prod.fst ((b.passes_cluster hkind rows n).symm.trans hpass))
        exact ⟨fun _ => ⟨rfl, e.readmits_cluster hkind⟩, fun hn => absurd hzero hn⟩
    | false =>
      refine ⟨e.noteRec, cReadmitFailed, _, s.upd_congr hdone, .inr rfl, fun hkind hu hc => ?_, fun hkind => ?_⟩
      · have hpair := (b.passes_core hkind rows n).symm.trans hpass
        have hsome : n ≠ 0 := of_decide_eq_false (congrArg Prod.fst hpair)
        have he : b.setCore r.unit r.sub {} = e := congrArg Prod.snd hpair
        refine ⟨fun hn => absurd hn hsome, fun _ => ⟨rfl, ?_⟩⟩
        rw [Dev.noteRec_only, ← he]
        exact hcores ..
      · have hpair := (b.passes_cluster hkind rows n).symm.trans hpass
        have hsome : n ≠ 0 := of_decide_eq_false (congrArg Prod.fst hpair)
        have he : b.testMarch r.unit n = e := congrArg Prod.snd hpair
        refine ⟨fun hn => absurd hn hsome, fun _ => ⟨rfl, ?_⟩⟩
        rw [Dev.noteRec_only, ← he, ← hclus]
        exact b.keepsRetired_testMarch r.unit n r.unit

end Sys2Proof.Proofs

/-! SUPPORT. Power domains, clocks and the power states of the device (20, R428–R437, R442): what keeps a domain ON, what reads after each step; and the statement about them. -/

namespace Sys2Proof.Machine

/-! ### A domain's state (R428) -/

theorem Dev.dom_setDom (d : Dev) (n : Nat) {v : Nat} (hv : v < 8) : (d.setDom n v).dom n = v := (d.getF_setF_same pPwr (rDom n) v (by decide)).trans (Nat.mod_eq_of_lt hv)

theorem Dev.dom_setDom_ne (d : Dev) {n m : Nat} (v : Nat) (h : m ≠ n) : (d.setDom n v).dom m = d.dom m :=
  congrArg (wfld · 6 4) (Dev.reg_setReg_ne _ _ (by simp only [rDom]; omega))

/-- A page whose registers lie beyond the power page keeps every domain. -/
theorem Dev.SameRegsBut.dom {d e : Dev} {p : Page} {offs : List Nat} (h : e.SameRegsBut d p offs) (hp : 0x10000 ≤ p.base) {n : Nat} (hn : n < 1000) : e.dom n = d.dom n :=
  congrArg (wfld · 6 4) (h.reg_of_ne fun o _ => by simp only [Page.base, rDom] at hp ⊢; omega)

theorem Dev.SameRegsBut.dom_pwr {d e : Dev} {offs : List Nat} (h : e.SameRegsBut d pPwr offs) {n : Nat} (hn : ∀ o ∈ offs, o < 0x100) : e.dom n = d.dom n :=
  congrArg (wfld · 6 4) (h.reg_of_ne fun o ho => by have := hn o ho; simp only [rDom]; omega)

theorem Dev.dom_startWake (d : Dev) (n : Nat) : (d.startWake n).dom n = dsWaking := by
  have hcount : ((d.setDom n dsWaking).addCount pPwr 0x54 1).dom n = (d.setDom n dsWaking).dom n := (Dev.sameRegsBut_addCount _ pPwr 0x54 1).dom_pwr (by decide)
  exact hcount.trans (d.dom_setDom n (by decide))

theorem Dev.detecting_startWake (d : Dev) (n : Nat) : (d.startWake n).pwr.detecting = d.pwr.detecting := by
  have hcount : ((d.setDom n dsWaking).addCount pPwr 0x54 1).pwr.detecting = d.pwr.detecting := congrArg Pwr.detecting (Dev.regsOnly_addCount ..).pwr
  exact hcount

theorem Dev.dom_startWake_ne (d : Dev) {n m : Nat} (h : m ≠ n) : (d.startWake n).dom m = d.dom m := by
  have hcount : ((d.setDom n dsWaking).addCount pPwr 0x54 1).dom m = (d.setDom n dsWaking).dom m := (Dev.sameRegsBut_addCount _ pPwr 0x54 1).dom_pwr (by decide)
  exact hcount.trans (d.dom_setDom_ne _ h)

/-- A domain that powers off is OFF. -/
theorem Dev.dom_powerOff (d : Dev) {n : Nat} (h : n < 111) : (d.powerOff n).dom n = dsOff := by
  unfold Dev.powerOff
  split
  · next hoff =>
    simp only [Bool.or_eq_true, decide_eq_true_eq] at hoff
    rcases hoff with h' | h'
    · exact h'
    · omega
  · exact Dev.dom_setDom _ n (by decide)

/-! ### What is idle (R430) -/

/-- Work in a domain rests on no register. -/
theorem Dev.RegsOnly.domIdle {d e : Dev} (h : d.RegsOnly e) (n : Nat) : e.domIdle n = d.domIdle n := by
  rw [h]
  rfl

/-! ### A domain that is ON stays so (R429) -/

theorem mem_of_firstWait {l : List (Nat × Nat)} {w : Nat × Nat} (h : firstWait l = some w) : w ∈ l := by
  have hall : ∀ (l' : List (Nat × Nat)) (m : Option (Nat × Nat)), (∀ x, m = some x → x ∈ l) → l' ⊆ l →
      ∀ w, l'.foldl (fun (m : Option (Nat × Nat)) w => match m with | none => some w | some x => if w.1 < x.1 || (w.1 = x.1 && w.2 < x.2) then some w else some x) m = some w → w ∈ l := by
    intro l'
    induction l' with
    | nil => exact fun m hm _ w hw => hm w hw
    | cons y t ih =>
      intro m hm hsub w hw
      refine ih _ (fun x hx => ?_) (fun z hz => hsub (List.mem_cons_of_mem _ hz)) w hw
      cases m with
      | none =>
        cases hx
        exact hsub (List.mem_cons_self ..)
      | some x' =>
        dsimp only at hx
        split at hx
        · cases hx
          exact hsub (List.mem_cons_self ..)
        · exact hm x hx
  exact hall l none (fun x hx => nomatch hx) (List.Subset.refl l) w h

/-- A wake starts only of a domain that is OFF or gated. -/
theorem Dev.dom_pumpWakes_on (f : Nat) {d : Dev} {n : Nat} (h : d.dom n = dsOn) : (Dev.pumpWakes f d).dom n = dsOn := by
  induction f generalizing d with
  | zero => exact h
  | succ f ih =>
    unfold Dev.pumpWakes
    split
    · exact h
    · next w hw =>
      have hmay := (List.mem_filter.1 (mem_of_firstWait hw)).2
      have hne : n ≠ w.2 := by
        rintro rfl
        simp [Dev.mayWake, h] at hmay
      exact ih ((d.dom_startWake_ne hne).trans h)

theorem Dev.dom_pump_on {d : Dev} {n : Nat} (h : d.dom n = dsOn) : d.pump.dom n = dsOn := Dev.dom_pumpWakes_on _ h

theorem Dev.dom_bootPower_on {d : Dev} {n : Nat} (h : d.dom n = dsOn) : d.bootPower.dom n = dsOn := by
  unfold Dev.bootPower
  split
  · exact h
  · split
    · exact h
    · next g hg =>
      refine Dev.foldl_holds (P := fun e => e.dom n = dsOn) (fun e m _ he => ?_) h
      split
      · next hoff =>
        have hne : n ≠ m := by
          rintro rfl
          simp [he] at hoff
        exact (e.dom_startWake_ne hne).trans he
      · exact he

theorem Dev.dom_setSt (d : Dev) {p : Page} (hp : 0x10000 ≤ p.base) (v : Nat) {n : Nat} (hn : n < 1000) : (d.setSt p v).dom n = d.dom n := (d.sameRegsBut_setSt p v).dom hp hn

theorem Dev.dom_initClu_on {d : Dev} {m : Nat} (hm : m < 1000) (h : d.dom m = dsOn) (n : Nat) : (d.initClu n).dom m = dsOn := by
  have hbase : 0x10000 ≤ (pClu n).base := by simp only [Page.base]; omega
  have hwipe : ∀ e : Dev, e.dom m = dsOn → (e.wipeSecure n).dom m = dsOn := fun e he => by
    unfold Dev.wipeSecure
    split
    · exact he
    · refine (Dev.sameRegsBut_setBit _ (pClu n) 0x400 13 true).dom hbase hm |>.trans ?_
      show (if e.dom (n / 10) = dsGated then e.setDom (n / 10) dsOn else e).dom m = dsOn
      split
      · by_cases hmn : m = n / 10
        · rw [hmn]
          exact e.dom_setDom _ (by decide)
        · exact (e.dom_setDom_ne _ hmn).trans he
      · exact he
  unfold Dev.initClu
  split
  · exact h
  · refine (Dev.sameRegsBut_setBit _ (pClu n) 0x404 2 true).dom hbase hm |>.trans ?_
    exact hwipe _ ((d.dom_setSt hbase _ hm).trans h)

/-- A page of a cluster or a stack that lights leaves a domain that is ON so. -/
theorem Dev.dom_pageLight_on {d : Dev} {m : Nat} (hm : m < 1000) (h : d.dom m = dsOn) {p : Page} (hp : p.blk = .clu ∨ p.blk = .stk) : (d.pageLight p).dom m = dsOn := by
  have hbase : 0x10000 ≤ p.base := by
    obtain ⟨blk, k⟩ := p
    rcases hp with hp | hp <;> (simp only at hp; rw [hp]; simp only [Page.base]; omega)
  have hset : ∀ v, (d.setSt p v).dom m = dsOn := fun v => (d.dom_setSt hbase v hm).trans h
  unfold Dev.pageLight
  split
  · exact h
  · rcases hp with hp | hp
    · rw [hp]
      dsimp only
      split
      · exact hset _
      · exact Dev.dom_initClu_on hm h _
    · rw [hp]
      dsimp only
      split
      · exact hset _
      · exact hset _

theorem domPages_blk {n : Nat} (h : n < 104) : ∀ p ∈ domPages n, p.blk = .clu ∨ p.blk = .stk := by
  intro p hp
  unfold domPages at hp
  split at hp
  · obtain ⟨i, -, rfl⟩ := List.mem_map.1 hp
    exact .inl rfl
  · obtain ⟨i, -, rfl⟩ := List.mem_map.1 hp
    exact .inr rfl

/-- A compute domain or stack that reaches ON is ON. -/
theorem Dev.dom_domainOn (d : Dev) {n : Nat} (h : n < 104) : (d.domainOn n).dom n = dsOn := by
  unfold Dev.domainOn
  extract_lets a b e1 e2 t e3
  have h1 : e1.dom n = dsOn := d.dom_setDom n (by decide)
  have h2 : e2.dom n = dsOn := Dev.foldl_holds (P := fun e => e.dom n = dsOn) (fun e p hp he => Dev.dom_pageLight_on (by omega) he (domPages_blk h p hp)) h1
  refine Dev.dom_pump_on (?_ : e3.dom n = dsOn)
  unfold e3
  split
  · split
    · exact h2
    · exact h2
  · exact h2

/-! ### Requests of a domain (R430, R442) -/

section Write
variable {d : Dev} {n : Nat} {v : Word}

theorem Dev.writeDom_invalid (h : d.lehr ≠ 0 ∨ (wfld v 1 0 = 3 ∧ ¬(80 ≤ n ∧ n < 104))) : d.writeDom n v = d.invalid pPwr := by
  refine if_pos ?_
  rcases h with h | ⟨h, hn⟩
  · simp [h]
  · have hout : (decide (80 ≤ n) && decide (n < 104)) = false := by simpa using hn
    simp [h, hout]

/-- A request that is kept: REQ, and ENABLE of a domain that turns itself off. -/
def Dev.reqKept (d : Dev) (n : Nat) (v : Word) : Dev :=
  if n < 80 || n = 109 then (d.setF pPwr (rDom n) 1 0 (wfld v 1 0)).setBit pPwr (rDom n) 2 (wbit v 2) else d.setF pPwr (rDom n) 1 0 (wfld v 1 0)

theorem Dev.reqKept_reads (d : Dev) (n : Nat) (v : Word) : (d.reqKept n v).getF pPwr (rDom n) 1 0 = wfld v 1 0 ∧ (d.reqKept n v).dom n = d.dom n ∧ d.RegsOnly (d.reqKept n v) := by
  have hreq : (d.setF pPwr (rDom n) 1 0 (wfld v 1 0)).getF pPwr (rDom n) 1 0 = wfld v 1 0 :=
    (d.getF_setF_same _ _ _ (by decide)).trans (Nat.mod_eq_of_lt (Nat.mod_lt _ (by decide)))
  have hdom : (d.setF pPwr (rDom n) 1 0 (wfld v 1 0)).dom n = d.dom n := d.getF_setF_ne _ _ _ (by decide) (by decide)
  unfold Dev.reqKept
  split
  · exact ⟨(Dev.getF_setBit_ne _ _ _ _ (by decide)).trans hreq, (Dev.getF_setBit_ne _ _ _ _ (by decide)).trans hdom, (d.regsOnly_setF ..).trans (Dev.regsOnly_setBit ..)⟩
  · exact ⟨hreq, hdom, d.regsOnly_setF ..⟩

theorem Dev.writeDom_kept (hlehr : d.lehr = 0) (h : wfld v 1 0 = 0 ∨ (wfld v 1 0 = 2 ∧ n < 80 ∧ d.pinned n = false)) : d.writeDom n v = ((d.reqKept n v).reqApply n).pump := by
  unfold Dev.writeDom
  extract_lets r offOk e1 e2 e3
  have hok : ¬ (decide (d.lehr ≠ 0) || decide (r = 2) && !offOk || decide (r = 3) && !(decide (80 ≤ n) && decide (n < 104))) = true := by
    rcases h with h | ⟨h, hn, hpin⟩
    · have hr : r = 0 := h
      simp [hlehr, hr]
    · have hr : r = 2 := h
      have hnl : ¬ 104 ≤ n := by omega
      simp [hlehr, hr, offOk, hn, hpin, hnl]
  have hr1 : r ≠ 1 := by
    have hr : r = wfld v 1 0 := rfl
    omega
  refine (if_neg hok).trans ?_
  have he3 : e3 = d.reqKept n v := (if_neg hr1).trans rfl
  rw [he3]

theorem Dev.reqApply_zero (h : d.getF pPwr (rDom n) 1 0 = 0) : d.reqApply n = d := by
  unfold Dev.reqApply
  rw [h]
  dsimp only
  split
  · rfl
  · rfl

theorem Dev.reqApply_off (h : d.getF pPwr (rDom n) 1 0 = 2) (hon : d.dom n = dsOn) (hidle : d.domIdle n = true) : d.reqApply n = d.powerOff n := by
  unfold Dev.reqApply
  rw [h]
  exact (if_pos (by simp [hon, hidle])).trans (if_pos rfl)

end Write

/-! ### States of the device (R434, R435, R437) -/

theorem Dev.powerRefused_reads (d : Dev) {x : Nat} (hx : x < 16) : (d.powerRefused x).devPower = d.devPower ∧ (d.powerRefused x).getF pPwr 0x44 7 4 = x := by
  have hreg : (d.powerRefused x).reg pPwr 0x44 = (d.setF pPwr 0x44 7 4 x).reg pPwr 0x44 := Dev.reg_setEvent_off _ _ _ (by decide)
  refine ⟨(congrArg (wfld · 2 0) hreg).trans (d.getF_setF_ne _ _ _ (by decide) (by decide)), (congrArg (wfld · 7 4) hreg).trans ?_⟩
  exact (d.getF_setF_same _ _ _ (by decide)).trans (Nat.mod_eq_of_lt hx)

theorem Dev.powerReason_lt {d : Dev} {target x : Nat} (h : d.powerReason target = some x) : x < 16 := by
  unfold Dev.powerReason at h
  grind

/-- A device with no entry asked for. -/
def Dev.entryNone (d : Dev) : Dev := { d with pwr := { d.pwr with entry := 0 } }

section Active
variable {d : Dev} (h : d.devPower = 0)
include h

theorem Dev.powerReq_active : d.powerReq 0 = d.entryNone.setF pPwr 0x44 9 8 0 := by
  unfold Dev.powerReq
  rw [h]
  rfl

theorem Dev.powerReq_idle : d.powerReq 1 = { d.entryNone.setF pPwr 0x44 9 8 1 with pwr := { d.pwr with entry := 1, low := 1 } } := by
  unfold Dev.powerReq
  rw [h]
  rfl

theorem Dev.powerReq_refused {target x : Nat} (ht : 2 ≤ target) (hx : d.powerReason target = some x) : d.powerReq target = d.entryNone.powerRefused x := by
  unfold Dev.powerReq
  rw [h]
  refine (if_neg (by decide)).trans ((if_neg (by decide)).trans ((if_neg (by omega)).trans ((if_neg (by omega)).trans ?_)))
  split
  · next y hy => rw [Option.some.inj (hy.symm.trans hx)]; rfl
  · next hy => exact nomatch hy.symm.trans hx

/-- The entry of NAP or DEEP begins. -/
def Dev.entryBegins (d : Dev) (target : Nat) : Dev :=
  let e := ((d.entryNone.setF pPwr 0x44 2 0 4).setF pPwr 0x44 9 8 target).record 0xFF 0x0147 (leBytes 1 0 ++ leBytes 1 target)
  { e with pwr := { e.pwr with entry := 1, low := target, abandon := false } }

theorem Dev.powerReq_begins {target : Nat} (ht : 2 ≤ target) (hx : d.powerReason target = none) : d.powerReq target = d.entryBegins target := by
  unfold Dev.powerReq
  rw [h]
  refine (if_neg (by decide)).trans ((if_neg (by decide)).trans ((if_neg (by omega)).trans ((if_neg (by omega)).trans ?_)))
  split
  · next y hy => exact nomatch hy.symm.trans hx
  · rfl

end Active

theorem Dev.entryBegins_reads (d : Dev) {target : Nat} (ht : target < 4) : (d.entryBegins target).devPower = 4 ∧ (d.entryBegins target).pwr.entry = 1 ∧ (d.entryBegins target).pwr.low = target ∧
    (d.entryBegins target).getF pPwr 0x44 9 8 = target := by
  refine ⟨?_, rfl, rfl, ?_⟩
  · exact (Dev.getF_setF_ne (d.entryNone.setF pPwr 0x44 2 0 4) _ _ _ (by decide) (by decide)).trans (Dev.getF_setF_same _ _ _ _ (by decide))
  · exact (Dev.getF_setF_same (d.entryNone.setF pPwr 0x44 2 0 4) _ _ _ (by decide)).trans (Nat.mod_eq_of_lt ht)

theorem Dev.powerReq_busy {d : Dev} (h : d.devPower = 4 ∨ d.devPower = 5) (target : Nat) : d.powerReq target = d.powerRefused 9 := by
  unfold Dev.powerReq
  rcases h with h | h
  · rw [h]
    rfl
  · rw [h]
    rfl

theorem Dev.powerAsk_role {d : Dev} {r : Role} (h : d.mayAccess r pPwr true = true) (target : Nat) : d.powerAsk r none target = (d.powerReq target).answer 0 := if_neg (by simp [h])

/-- A message of the management port asks for a state and is answered. -/
theorem Dev.powerAsk_message {d : Dev} (hup : d.pwr.up = true) (heid : d.bit pMgt 0x44 15 = true) (r : Role) (o : Fin 256) (target : Nat) :
    ∃ f : Dev, d.powerAsk r (some o) target = f.mgtSend o 0x04 (leBytes 4 (f.reg pPwr 0x44).toNat) := by
  have hbit : (d.addCount pMgt 0x4C 1).bit pMgt 0x44 15 = true := (congrArg (wbit · 15) ((d.sameRegsBut_addCount pMgt 0x4C 1).reg (by decide))).trans heid
  exact ⟨(d.addCount pMgt 0x4C 1).powerReq target, (if_neg (by simp [hup])).trans (if_pos hbit)⟩

/-- IDLE is entered. -/
theorem Dev.devPower_enterIdle (d : Dev) : d.enterIdle.devPower = 1 := by
  unfold Dev.enterIdle
  extract_lets on e1 e2
  exact (Dev.getF_setF_ne (e2.setF pPwr 0x44 2 0 1) _ _ _ (by decide) (by decide)).trans (Dev.getF_setF_same _ _ _ _ (by decide))

/-- The last step of an entry of NAP. -/
theorem Dev.entryGoes_nap {d : Dev} (h : d.devPower = 4) (hab : d.pwr.abandon = false) (hentry : d.pwr.entry = 3) (ht : d.getF pPwr 0x44 9 8 = 2) : d.entryGoes.devPower = 2 := by
  have hgo : d.entryGoes = d.entryStep := (if_neg (by simp [h])).trans ((if_neg (by simp [h])).trans (if_neg (by simp [hab])))
  rw [hgo]
  unfold Dev.entryStep
  rw [hentry, ht]
  exact Dev.getF_setF_same _ _ _ _ (by decide)

/-- The last step of an entry of DEEP. -/
theorem Dev.entryGoes_deep {d : Dev} (h : d.devPower = 4) (hab : d.pwr.abandon = false) (hentry : d.pwr.entry = 4) : d.entryGoes.devPower = 3 := by
  have hgo : d.entryGoes = d.entryStep := (if_neg (by simp [h])).trans ((if_neg (by simp [h])).trans (if_neg (by simp [hab])))
  rw [hgo]
  unfold Dev.entryStep
  rw [hentry]
  exact Dev.getF_setF_same _ _ _ _ (by decide)

/-! ### Wakes (R436) -/

/-- A wake of a stack or of a domain leaves the device's state. -/
theorem Dev.status_stkDemand (d : Dev) (s : Nat) : (d.stkDemand s).reg pPwr 0x44 = d.reg pPwr 0x44 := by
  have hwake : (d.startWake 110).reg pPwr 0x44 = d.reg pPwr 0x44 := (d.sameRegsBut_startWake 110).reg (by decide)
  have hfirst : (if d.dom 110 = dsOn || d.dom 110 = dsWaking then d else d.startWake 110).reg pPwr 0x44 = d.reg pPwr 0x44 := by
    split
    · rfl
    · exact hwake
  unfold Dev.stkDemand
  extract_lets e1 e2
  split
  · exact hfirst
  · exact hfirst

theorem Dev.status_setDom (d : Dev) (n v : Nat) : (d.setDom n v).reg pPwr 0x44 = d.reg pPwr 0x44 := Dev.reg_setReg_ne _ _ (by simp only [rDom]; omega)

/-- The end of a wake from IDLE. -/
theorem Dev.wakeEnds_idle {d : Dev} (h : d.pwr.low = 1) : d.wakeEnds.devPower = 0 ∧ d.wakeEnds.pwr.low = 0 := by
  unfold Dev.wakeEnds
  rw [h]
  extract_lets low e1 e2 e3
  have h1 : e1.devPower = 0 := (Dev.getF_setF_ne (d.setF pPwr 0x44 2 0 0) _ _ _ (by decide) (by decide)).trans (d.getF_setF_same _ _ _ (by decide))
  have h2 : e2.reg pPwr 0x44 = e1.reg pPwr 0x44 := Dev.foldl_holds (P := fun e => e.reg pPwr 0x44 = e1.reg pPwr 0x44) (fun e n _ he => (e.status_setDom n _).trans he) rfl
  have h3 : e3.reg pPwr 0x44 = e1.reg pPwr 0x44 := Dev.foldl_holds (P := fun e => e.reg pPwr 0x44 = e1.reg pPwr 0x44) (fun e s _ he => by
    split
    · exact (e.status_stkDemand s).trans he
    · exact he) h2
  exact ⟨(congrArg (wfld · 2 0) h3).trans h1, rfl⟩

/-- A wake of the device begins. -/
theorem Dev.startDevWake_idle (d : Dev) : (d.startDevWake 1).devPower = 5 ∧ (d.startDevWake 1).pwr.low = 1 := ⟨d.getF_setF_same _ _ _ (by decide), rfl⟩

theorem Dev.wakeAll_idle {d : Dev} (h : d.devPower = 1) (htrip : d.tripped = false) : d.wakeAll = d.startDevWake 1 := by
  unfold Dev.wakeAll Dev.wakeCause
  simp [h, htrip]

/-! ### Clocks (R432) -/

theorem Dev.pwr_clockCause (d : Dev) : d.clockCause.pwr = d.pwr := by rw [d.voids_clockCause.only]

theorem delSet_contains (l : List Nat) (k : Nat) : (delSet l k).contains k = false := by
  simp [delSet]

end Sys2Proof.Machine

namespace Sys2Proof.Proofs
open Sys2Proof Sys2Proof.Machine

section Domains
variable (s : State) (n : Fin 112)

theorem domainOn_ends (h : s.dev.dom n = dsWaking) : ∃ f : Dev, exec (.domainOn n) s = .next ⟨f.resume, s.pending⟩ ∧ (n.val < 104 → f.dom n = dsOn) := by
  refine ⟨_, s.upd_congr (if_neg (not_not.2 h)), fun hn => ?_⟩
  have hne : n.val ≠ 108 := by omega
  simp only [hne, decide_false, Bool.false_and]
  exact Dev.dom_bootPower_on (s.dev.dom_domainOn hn)

theorem domainWakeTimeout_early {t : Nat} (h : tget? s.dev.pwr.wakeAt n = none ∨ (tget? s.dev.pwr.wakeAt n = some t ∧ s.dev.ao < t + 4 * wakeBound n)) : exec (.domainWakeTimeout n) s = .next s := by
  refine s.upd_congr (?_ : s.dev.wakeTimeout n = s.dev)
  unfold Dev.wakeTimeout
  rcases h with h | ⟨h, hearly⟩
  · rw [h]
  · rw [h]
    exact if_pos hearly

theorem domainWakeTimeout_first {t : Nat} (h : tget? s.dev.pwr.wakeAt n = some t) (hdue : t + 4 * wakeBound n ≤ s.dev.ao) (hfirst : s.dev.pwr.retried.contains n.val = false) (hself : s.dev.dom n ≠ dsSelf) :
    ∃ f : Dev, exec (.domainWakeTimeout n) s = .next ⟨f, s.pending⟩ ∧ f.dom n = dsWaking := by
  refine ⟨s.dev.wakeTimeout n, rfl, ?_⟩
  unfold Dev.wakeTimeout
  rw [h]
  dsimp only
  rw [if_neg (not_lt.2 hdue), if_pos (by rw [hfirst]; rfl)]
  exact (congrArg (fun e : Dev => e.dom n) (if_neg hself)).trans (Dev.dom_startWake _ _)

theorem domainWakeTimeout_again {t : Nat} (h : tget? s.dev.pwr.wakeAt n = some t) (hdue : t + 4 * wakeBound n ≤ s.dev.ao) (hfirst : s.dev.pwr.retried.contains n.val = true) :
    ∃ f : Dev, exec (.domainWakeTimeout n) s = .next ⟨f.bootPower.pump, s.pending⟩ := by
  have hagain : ∃ f : Dev, s.dev.wakeTimeout n = f.bootPower.pump := by
    unfold Dev.wakeTimeout
    rw [h]
    dsimp only
    rw [if_neg (not_lt.2 hdue), if_neg (by rw [hfirst]; decide)]
    exact ⟨_, rfl⟩
  exact hagain.imp fun f hf => s.upd_congr hf

theorem autoOff_stays {k : Nat} (hreq : s.dev.getF pPwr (rDom n) 1 0 < 2) (h : s.dev.pinned n = true ∨ s.dev.domIdle n = false ∨ k < s.dev.getF pPwr 0x4C 23 0) : exec (.autoOff n k) s = .next s := by
  refine s.upd_congr ((if_neg (not_le.2 hreq)).trans (if_neg fun hall => ?_))
  simp only [Bool.and_eq_true, decide_eq_true_eq, Bool.not_eq_true'] at hall
  obtain ⟨⟨⟨-, hpin⟩, hidle⟩, hk⟩ := hall
  rcases h with h | h | h
  · exact Bool.false_ne_true (hpin.symm.trans h)
  · exact Bool.false_ne_true (h.symm.trans hidle)
  · omega

theorem autoOff_goes {k : Nat} (hreq : s.dev.getF pPwr (rDom n) 1 0 < 2) (hn : n.val < 80 ∨ n.val = 109) (hen : s.dev.bit pPwr (rDom n) 2 = true) (hon : s.dev.dom n = dsOn) (hboot : s.dev.getF pBoot 0x40 2 0 = 7)
    (hfrit : s.dev.frit = false) (hpin : s.dev.pinned n = false) (hidle : s.dev.domIdle n = true) (hk : s.dev.getF pPwr 0x4C 23 0 ≤ k) :
    ∃ f : Dev, exec (.autoOff n k) s = .next ⟨f, s.pending⟩ ∧ f.dom n = dsOff := by
  refine ⟨_, s.upd_congr ((if_neg (not_le.2 hreq)).trans (if_pos ?_)), ?_⟩
  · simp [hn, hen, hon, hboot, hfrit, hpin, hidle, hk]
  · exact ((Dev.sameRegsBut_addCount _ pPwr 0x58 1).dom_pwr (by decide)).trans (s.dev.dom_powerOff (by omega))

section Request
variable {s n} {r : Role} {v : BitVec 32} (htakes : s.dev.Takes r pPwr) (hranks : s.dev.Ranks r pPwr (rDom n))
include htakes hranks

theorem pwrDomReq_invalid (h : s.dev.lehr ≠ 0 ∨ (wfld v 1 0 = 3 ∧ ¬(80 ≤ n.val ∧ n.val < 104))) :
    ∃ f : Dev, exec (.pwrDomReq r n v) s = .next ⟨f, s.pending⟩ ∧ f.bit pPwr 0x10 evInvalid = true ∧ f.reg pPwr (rDom n) = s.dev.reg pPwr (rDom n) := by
  refine ⟨_, s.upd_congr ((Dev.guardPut_takes htakes hranks v _).trans (congrArg (Dev.answer · 0) (Dev.writeDom_invalid h))), ?_, ?_⟩
  · exact (Dev.invalid_effect _ pPwr).2.1
  · exact Dev.reg_setEvent_off _ _ _ (by simp only [rDom]; omega)

theorem pwrDomReq_zero (hlehr : s.dev.lehr = 0) (h : wfld v 1 0 = 0) : ∃ f : Dev, exec (.pwrDomReq r n v) s = .next ⟨f.pump.answer 0, s.pending⟩ ∧ f.getF pPwr (rDom n) 1 0 = 0 := by
  refine ⟨_, s.upd_congr ((Dev.guardPut_takes htakes hranks v _).trans (congrArg (Dev.answer · 0) (Dev.writeDom_kept hlehr (.inl h)))), ?_⟩
  have hreq := fun e : Dev => (e.reqKept_reads n v).1.trans h
  rw [Dev.reqApply_zero (hreq _)]
  exact hreq _

theorem pwrDomReq_off (hlehr : s.dev.lehr = 0) (h : wfld v 1 0 = 2) (hn : n.val < 80) (hpin : s.dev.pinned n = false) (hon : s.dev.dom n = dsOn) (hidle : s.dev.domIdle n = true) :
    ∃ f : Dev, exec (.pwrDomReq r n v) s = .next ⟨f.pump.answer 0, s.pending⟩ ∧ f.dom n = dsOff := by
  refine ⟨_, s.upd_congr ((Dev.guardPut_takes htakes hranks v _).trans (congrArg (Dev.answer · 0) (Dev.writeDom_kept hlehr (.inr ⟨h, hn, hpin⟩)))), ?_⟩
  obtain ⟨hreq, hdom, hregs⟩ := Dev.reqKept_reads { s.dev with cyc := { s.dev.now with roles := tput s.dev.now.roles (pPwr.base + rDom n) (max (tgetD s.dev.now.roles (pPwr.base + rDom n) 0) (roleRank r)) } } n v
  rw [Dev.reqApply_off (hreq.trans h) (hdom.trans hon) ((hregs.domIdle n).trans hidle)]
  exact Dev.dom_powerOff _ (by omega)

end Request
end Domains

section States
variable {s : State}

theorem powerReq_role {r : Role} (h : s.dev.mayAccess r pPwr true = true) :
    exec (.powerReqActive r none) s = .next ⟨(s.dev.powerReq 0).answer 0, s.pending⟩ ∧ exec (.powerReqIdle r none) s = .next ⟨(s.dev.powerReq 1).answer 0, s.pending⟩ ∧
      exec (.powerReqNap r none) s = .next ⟨(s.dev.powerReq 2).answer 0, s.pending⟩ ∧ exec (.powerReqDeep r none) s = .next ⟨(s.dev.powerReq 3).answer 0, s.pending⟩ :=
  ⟨s.upd_congr (Dev.powerAsk_role h 0), s.upd_congr (Dev.powerAsk_role h 1), s.upd_congr (Dev.powerAsk_role h 2), s.upd_congr (Dev.powerAsk_role h 3)⟩

/-- NAP or DEEP of the ACTIVE device: the entry begins, or is refused with its reason. -/
theorem powerReq_low (h : s.dev.devPower = 0) {target : Nat} (hlow : 2 ≤ target) (ht : target < 4) :
    (s.dev.powerReason target = none → ((s.dev.powerReq target).answer 0).devPower = 4 ∧ ((s.dev.powerReq target).answer 0).pwr.entry = 1 ∧ ((s.dev.powerReq target).answer 0).pwr.low = target ∧
      ((s.dev.powerReq target).answer 0).getF pPwr 0x44 9 8 = target) ∧
    ∀ x, s.dev.powerReason target = some x → ((s.dev.powerReq target).answer 0).devPower = 0 ∧ ((s.dev.powerReq target).answer 0).getF pPwr 0x44 7 4 = x := by
  refine ⟨fun hx => ?_, fun x hx => ?_⟩
  · rw [Dev.powerReq_begins h hlow hx]
    exact s.dev.entryBegins_reads ht
  · rw [Dev.powerReq_refused h hlow hx]
    obtain ⟨hpower, hreason⟩ := s.dev.entryNone.powerRefused_reads (Dev.powerReason_lt hx)
    exact ⟨hpower.trans h, hreason⟩

theorem powerReq_answers {r : Role} (hmay : s.dev.mayAccess r pPwr true = true) (h : s.dev.devPower = 0) :
    (∃ f : Dev, exec (.powerReqActive r none) s = .next ⟨f, s.pending⟩ ∧ f.devPower = 0 ∧ f.pwr.entry = 0 ∧ f.getF pPwr 0x44 9 8 = 0) ∧
    (∃ f : Dev, exec (.powerReqIdle r none) s = .next ⟨f, s.pending⟩ ∧ f.devPower = 0 ∧ f.pwr.entry = 1 ∧ f.getF pPwr 0x44 9 8 = 1) ∧
    (s.dev.powerReason 2 = none → ∃ f : Dev, exec (.powerReqNap r none) s = .next ⟨f, s.pending⟩ ∧ f.devPower = 4 ∧ f.pwr.entry = 1 ∧ f.pwr.low = 2 ∧ f.getF pPwr 0x44 9 8 = 2) ∧
    (s.dev.powerReason 3 = none → ∃ f : Dev, exec (.powerReqDeep r none) s = .next ⟨f, s.pending⟩ ∧ f.devPower = 4 ∧ f.pwr.entry = 1 ∧ f.pwr.low = 3 ∧ f.getF pPwr 0x44 9 8 = 3) ∧
    (∀ x, s.dev.powerReason 2 = some x → ∃ f : Dev, exec (.powerReqNap r none) s = .next ⟨f, s.pending⟩ ∧ f.devPower = 0 ∧ f.getF pPwr 0x44 7 4 = x) ∧
    (∀ x, s.dev.powerReason 3 = some x → ∃ f : Dev, exec (.powerReqDeep r none) s = .next ⟨f, s.pending⟩ ∧ f.devPower = 0 ∧ f.getF pPwr 0x44 7 4 = x) := by
  obtain ⟨hactive, hidle, hnap, hdeep⟩ := powerReq_role hmay
  have hnoted : ∀ m < 4, (s.dev.entryNone.setF pPwr 0x44 9 8 m).devPower = 0 ∧ (s.dev.entryNone.setF pPwr 0x44 9 8 m).getF pPwr 0x44 9 8 = m := fun m hm =>
    ⟨(Dev.getF_setF_ne _ _ _ _ (by decide) (by decide)).trans h, (Dev.getF_setF_same _ _ _ _ (by decide)).trans (Nat.mod_eq_of_lt hm)⟩
  obtain ⟨hnapOk, hnapNo⟩ := powerReq_low h (target := 2) (by decide) (by decide)
  obtain ⟨hdeepOk, hdeepNo⟩ := powerReq_low h (target := 3) (by decide) (by decide)
  refine ⟨⟨_, hactive, ?_⟩, ⟨_, hidle, ?_⟩, fun hx => ⟨_, hnap, hnapOk hx⟩, fun hx => ⟨_, hdeep, hdeepOk hx⟩, fun x hx => ⟨_, hnap, hnapNo x hx⟩, fun x hx => ⟨_, hdeep, hdeepNo x hx⟩⟩
  · rw [Dev.powerReq_active h]
    exact ⟨(hnoted 0 (by decide)).1, rfl, (hnoted 0 (by decide)).2⟩
  · rw [Dev.powerReq_idle h]
    exact ⟨(hnoted 1 (by decide)).1, rfl, (hnoted 1 (by decide)).2⟩

theorem powerReq_underWay {r : Role} (hmay : s.dev.mayAccess r pPwr true = true) (h : s.dev.devPower = 4 ∨ s.dev.devPower = 5) :
    ∀ c ∈ [Instr.powerReqActive r none, .powerReqIdle r none, .powerReqNap r none, .powerReqDeep r none], exec c s = .next ⟨(s.dev.powerRefused 9).answer 0, s.pending⟩ := by
  obtain ⟨hactive, hidle, hnap, hdeep⟩ := powerReq_role hmay
  simp only [Dev.powerReq_busy h] at hactive hidle hnap hdeep
  intro c hc
  simp only [List.mem_cons, List.not_mem_nil, or_false] at hc
  rcases hc with rfl | rfl | rfl | rfl
  · exact hactive
  · exact hidle
  · exact hnap
  · exact hdeep

theorem powerReq_message (r : Role) (o : Fin 256) (hup : s.dev.pwr.up = true) (heid : s.dev.bit pMgt 0x44 15 = true) :
    ∀ c ∈ [Instr.powerReqActive r (some o), .powerReqIdle r (some o), .powerReqNap r (some o), .powerReqDeep r (some o)],
      ∃ f : Dev, exec c s = .next ⟨f.mgtSend o 0x04 (leBytes 4 (f.reg pPwr 0x44).toNat), s.pending⟩ := by
  have hask : ∀ (target : Nat) (c : Instr), (exec c s = s.upd fun d => d.powerAsk r (some o) target) → ∃ f : Dev, exec c s = .next ⟨f.mgtSend o 0x04 (leBytes 4 (f.reg pPwr 0x44).toNat), s.pending⟩ := fun target c hc => by
    obtain ⟨f, hf⟩ := Dev.powerAsk_message hup heid r o target
    exact ⟨f, hc.trans (s.upd_congr hf)⟩
  intro c hc
  simp only [List.mem_cons, List.not_mem_nil, or_false] at hc
  rcases hc with rfl | rfl | rfl | rfl
  · exact hask 0 _ rfl
  · exact hask 1 _ rfl
  · exact hask 2 _ rfl
  · exact hask 3 _ rfl

theorem autoIdle_stays {k : Nat} (h : s.dev.devPower ≠ 0 ∨ s.dev.quiet = false ∨ k < s.dev.getF pPwr 0x48 31 8) : exec (.autoIdle k) s = .next s := by
  refine s.upd_congr (if_neg fun hall => ?_)
  simp only [Bool.and_eq_true, decide_eq_true_eq] at hall
  obtain ⟨⟨⟨hpower, -⟩, hquiet⟩, hk⟩ := hall
  rcases h with h | h | h
  · exact h hpower
  · exact Bool.false_ne_true (h.symm.trans hquiet)
  · omega

theorem autoIdle_enters {k : Nat} (h : s.dev.devPower = 0) (hen : s.dev.bit pPwr 0x48 4 = true) (hquiet : s.dev.quiet = true) (hk : s.dev.getF pPwr 0x48 31 8 ≤ k) :
    ∃ f : Dev, exec (.autoIdle k) s = .next ⟨f, s.pending⟩ ∧ f.devPower = 1 :=
  ⟨_, s.upd_congr (if_pos (by simp [h, hen, hquiet, hk])), s.dev.devPower_enterIdle⟩

theorem powerEntryComplete_none (h : s.dev.devPower = 0) (hentry : s.dev.pwr.entry ≠ 1) : exec .powerEntryComplete s = .next s := by
  refine s.upd_congr ?_
  have hgoes : s.dev.entryGoes = s.dev := (if_neg (by simp [hentry])).trans (if_pos (by simp [h]))
  exact (if_neg (by simp [h])).trans hgoes

theorem powerEntryComplete_idle (h : s.dev.devPower = 0) (hentry : s.dev.pwr.entry = 1) (hquiet : s.dev.quiet = true) : ∃ f : Dev, exec .powerEntryComplete s = .next ⟨f, s.pending⟩ ∧ f.devPower = 1 := by
  have hgoes : s.dev.entryGoes = s.dev.enterIdle := (if_pos (by simp [h, hentry])).trans (if_pos hquiet)
  exact ⟨_, s.upd_congr ((if_neg (by simp [h])).trans hgoes), s.dev.devPower_enterIdle⟩

/-- An entry that ends in NAP or DEEP leaves the device asleep. -/
theorem powerEntryComplete_low {m : Nat} (hm : 2 ≤ m) (h : s.dev.entryGoes.devPower = m) : ∃ f : Dev, exec .powerEntryComplete s = .next ⟨f, s.pending⟩ ∧ f.devPower = m := by
  refine ⟨_, s.upd_congr (if_neg fun hall => ?_), h⟩
  obtain ⟨-, hawake⟩ := Bool.and_eq_true_iff.1 hall
  have hactive : s.dev.entryGoes.devPower = 0 := of_decide_eq_true hawake
  omega

theorem wakeCause_none {k : Fin 4} (h : s.dev.devPower = 0 ∨ s.dev.devPower = 5) : exec (.wakeCause k) s = .next s := by
  refine s.upd_congr (if_neg ?_)
  rcases h with h | h
  · simp [h]
  · simp [h]

theorem wakeCause_idle {k : Fin 4} (h : s.dev.devPower = 1) (htrip : s.dev.tripped = false) : ∃ f : Dev, exec (.wakeCause k) s = .next ⟨f, s.pending⟩ ∧ f.devPower = 5 ∧ f.pwr.low = 1 := by
  refine ⟨_, s.upd_congr ((if_pos ?_).trans (Dev.wakeAll_idle h htrip)), s.dev.startDevWake_idle⟩
  rw [h]
  fin_cases k
  · rfl
  · rfl
  · rfl
  · rfl

theorem wakeCause_frame {k : Fin 4} (h : s.dev.devPower = 2 ∨ s.dev.devPower = 3) (hk : k = 0) : exec (.wakeCause k) s = .next s := by
  subst hk
  refine s.upd_congr (if_neg ?_)
  rcases h with h | h
  · simp [h]
  · simp [h]

theorem wakeComplete_none (h : s.dev.devPower ≠ 5 ∨ s.dev.wakeReady = false) : exec .wakeComplete s = .next s :=
  s.upd_congr (if_pos (by simpa using h))

theorem wakeComplete_idle (h : s.dev.devPower = 5) (hlow : s.dev.pwr.low = 1) : ∃ f : Dev, exec .wakeComplete s = .next ⟨f.resumeAll, s.pending⟩ ∧ f.devPower = 0 ∧ f.pwr.low = 0 :=
  have hready : s.dev.wakeReady = true := by simp [Dev.wakeReady, hlow]
  ⟨_, s.upd_congr (if_neg (by simp [h, hready])), Dev.wakeEnds_idle hlow⟩

theorem signalDetect_none (h : s.dev.devPower ≠ 3 ∨ s.dev.pwr.detecting = true) : exec .signalDetect s = .next s :=
  s.upd_congr (if_pos (by simpa using h))

theorem signalDetect_powers (h : s.dev.devPower = 3) (hd : s.dev.pwr.detecting = false) (hoff : s.dev.dom (104 + s.dev.getF pPwr 0x48 3 0 / 4) = dsOff) :
    ∃ f : Dev, exec .signalDetect s = .next ⟨f, s.pending⟩ ∧ f.pwr.detecting = true ∧ f.dom (104 + s.dev.getF pPwr 0x48 3 0 / 4) = dsWaking :=
  ⟨_, s.upd_congr ((if_neg (by simp [h, hd])).trans (if_pos hoff)), Dev.detecting_startWake _ _, Dev.dom_startWake _ _⟩

theorem wakeWindowExpiry_none (h : s.dev.pwr.detectAt = none) : exec .wakeWindowExpiry s = .next s :=
  s.upd_congr (by dsimp only; rw [h])

theorem wakeWindowExpiry_ends {t : Nat} (ht : s.dev.pwr.detectAt = some t) (h : s.dev.devPower = 3) (hdue : t + 5000000 ≤ s.dev.ao) :
    ∃ f : Dev, exec .wakeWindowExpiry s = .next ⟨f.powerOff (104 + s.dev.getF pPwr 0x48 3 0 / 4), s.pending⟩ ∧ f.pwr.detecting = false ∧ f.pwr.detectAt = none := by
  refine ⟨{ s.dev with pwr := { s.dev.pwr with detecting := false, detectAt := none } }, s.upd_congr ?_, rfl, rfl⟩
  have hgo : ¬ (decide (s.dev.devPower ≠ 3) || decide (s.dev.ao < t + 5000000)) = true := by simp [h, hdue]
  dsimp only
  rw [ht]
  exact if_neg hgo

end States

section Clocks
variable (s : State) (k : Fin 118)

theorem pllLockLoss_none (h : s.dev.dom (pllDomain k) = dsOff ∨ s.dev.clockOn k = false) : exec (.pllLockLoss k) s = .next s :=
  s.upd_congr (if_pos (by simpa using h))

theorem pllLockLoss_stops (h : s.dev.dom (pllDomain k) ≠ dsOff) (hon : s.dev.clockOn k = true) (hs : s.dev.scrubbed pClk = false) :
    ∃ f : Dev, exec (.pllLockLoss k) s = .next ⟨f, s.pending⟩ ∧ f.clockOn k = false ∧ f.reg pClk 0x58 = s.dev.reg pClk 0x58 + 1 ∧ f.mem = s.dev.mem := by
  have hlost : k.val ∈ addSet s.dev.pwr.unlocked k.val := mem_addSet_self ..
  refine ⟨_, s.upd_congr (if_neg (by simp [h, hon])), ?_, ?_, ?_⟩
  · unfold Dev.clockOn
    rw [Dev.pwr_clockCause, (Dev.regsOnly_addCount ..).pwr]
    simp [hlost]
  · exact ((Dev.voids_clockCause _).reg (by decide)).trans (Dev.reg_addCount_same (d := { s.dev with pwr := { s.dev.pwr with unlocked := addSet s.dev.pwr.unlocked k } }) hs 0x58 1)
  · exact (Dev.voids_clockCause _).mem.trans (Dev.addCount_mem ..)

theorem pllRelock_runs : ∃ f : Dev, exec (.pllRelock k) s = .next ⟨f, s.pending⟩ ∧ f.clockOn k = true ∧ f.mem = s.dev.mem := by
  refine ⟨_, rfl, ?_, (Dev.voids_clockCause _).mem⟩
  unfold Dev.clockOn
  rw [Dev.pwr_clockCause]
  exact congrArg not (delSet_contains _ _)

end Clocks

/-- Settles O58: each command by the lemma about its branch, above. -/
theorem powerDomainsAndDeviceStates : Obligations.PowerDomainsAndDeviceStates := by
  refine ⟨fun s n => ⟨fun h => s.upd_congr (if_pos h), domainOn_ends s n, fun t h => domainWakeTimeout_early s n h, fun t ht hdue => ⟨domainWakeTimeout_first s n ht hdue, domainWakeTimeout_again s n ht hdue⟩,
      fun k hreq => ⟨autoOff_stays s n hreq, autoOff_goes s n hreq⟩, fun r v htakes hranks => ⟨pwrDomReq_invalid htakes hranks, pwrDomReq_zero htakes hranks, pwrDomReq_off htakes hranks⟩⟩,
    fun s r hmay => ⟨powerReq_underWay hmay, powerReq_answers hmay⟩, fun s r o => powerReq_message r o,
    fun s k => ⟨autoIdle_stays, autoIdle_enters, powerEntryComplete_none, powerEntryComplete_idle, fun h hab hentry ht => powerEntryComplete_low (by decide) (Dev.entryGoes_nap h hab hentry ht),
      fun h hab hentry => powerEntryComplete_low (by decide) (Dev.entryGoes_deep h hab hentry)⟩,
    fun s k => ⟨wakeCause_none, wakeCause_idle, wakeCause_frame, wakeComplete_none, wakeComplete_idle, signalDetect_none, signalDetect_powers, wakeWindowExpiry_none, fun t => wakeWindowExpiry_ends⟩,
    fun s k => ⟨pllLockLoss_none s k, pllLockLoss_stops s k, pllRelock_runs s k⟩⟩

end Sys2Proof.Proofs

/-! SUPPORT. Voice streams (15, R319–R325): what frames of audio make of a stream, a hop of features, frames that leave; and the statement about them. -/

namespace Sys2Proof.Machine

/-! ### Streams -/

/-- A stream of the table is open when its partition asks and it does not close. -/
theorem Dev.openStream_some {d : Dev} {p k : Nat} {x : Stream} (h : d.openStream p k = some x) : tget? d.streams k = some x := by
  unfold Dev.openStream at h
  split at h
  · next y hy =>
    split at h
    · exact hy.trans h
    · cases h
  · cases h

/-- A stream whose turn has no live request is freed by its close. -/
theorem Dev.closeStream_frees {d : Dev} {k : Nat} {x : Stream} (hx : tget? d.streams k = some x) (h : x.stage < 3 ∨ rqLive (d.rq x.entry) = false) : d.closeStream k = d.freeStream k := by
  unfold Dev.closeStream
  rw [hx]
  refine if_neg fun hlive => ?_
  obtain ⟨hstage, hreq⟩ := Bool.and_eq_true_iff.1 hlive
  rcases h with h | h
  · exact absurd (of_decide_eq_true hstage) (Nat.not_le.2 h)
  · exact Bool.false_ne_true (h.symm.trans hreq)

/-! ### AUDIO_IN (R319) -/

/-- A stream that `m` frames with the samples `l` have joined. -/
def Stream.heard (x : Stream) (l : List Int) (m : Nat) : Stream := { x with kept := x.kept ++ l, total := x.total + l.length, expect := x.expect + m }

theorem Stream.heard_heard (x : Stream) (l l' : List Int) (m : Nat) : (x.heard l m).heard l' 1 = x.heard (l ++ l') (m + 1) := by
  simp [Stream.heard, Nat.add_assoc]

/-- The frame with the expected number joins the stream and is counted. -/
theorem Dev.audioFrame_expected {d : Dev} {k : Nat} {x : Stream} (hx : tget? d.streams k = some x) (l : List Int) :
    d.audioFrame k x.expect l = (d.setStream k (x.heard l 1)).addCount pMed 0x44 1 := by
  unfold Dev.audioFrame
  simp [hx, Stream.heard, Stream.accept]

theorem Dev.streams_addCount (d : Dev) (p : Page) (off n : Nat) : (d.addCount p off n).streams = d.streams := by rw [d.regsOnly_addCount p off n]

/-- Frames from the expected number on, one by one. -/
theorem Dev.audioFrames_expected {d : Dev} {k : Nat} {x : Stream} (hx : tget? d.streams k = some x) (hs : d.scrubbed pMed = false) (g : Nat → List Int) (n : Nat) :
    let e := (List.range n).foldl (fun (d : Dev) j => d.audioFrame k (x.expect + j) (g j)) d
    tget? e.streams k = some (x.heard ((List.range n).flatMap g) n) ∧ e.reg pMed 0x44 = d.reg pMed 0x44 + BitVec.ofNat 32 n ∧ e.mem = d.mem ∧ e.scrubbed pMed = false := by
  induction n with
  | zero => exact ⟨hx.trans (by simp [Stream.heard]), by simp, rfl, hs⟩
  | succ n ih =>
    dsimp only at ih ⊢
    obtain ⟨hstream, hreg, hmem, hscrub⟩ := ih
    rw [List.range_succ, List.foldl_append, List.flatMap_append]
    generalize (List.range n).foldl (fun (d : Dev) j => d.audioFrame k (x.expect + j) (g j)) d = e at hstream hreg hmem hscrub ⊢
    have hnext : e.audioFrame k (x.expect + n) (g n) = _ := Dev.audioFrame_expected hstream (g n)
    dsimp only [List.foldl_cons, List.foldl_nil]
    rw [hnext, Stream.heard_heard, Dev.streams_addCount, Dev.addCount_mem, Dev.scrubbed_addCount _ _ _ (by decide), List.flatMap_singleton]
    refine ⟨tget?_tput_same .., ?_, hmem, hscrub⟩
    have hcount := Dev.reg_addCount_same (d := e.setStream k (x.heard ((List.range n).flatMap g ++ g n) (n + 1))) hscrub 0x44 1
    rw [hcount, show (e.setStream k _).reg pMed 0x44 = e.reg pMed 0x44 from rfl, hreg, BitVec.add_assoc, ← BitVec.ofNat_add]

/-- The samples of frame `j` of an AUDIO_IN. -/
def frameSamples (x : Stream) (l : List Byte) (j : Nat) : List Int :=
  audDecode x.fmtIn (bytesAt l (8 + j * (audFrame x.fmtIn * audBytes x.fmtIn)) (audFrame x.fmtIn * audBytes x.fmtIn))

/-- AUDIO_IN of an open stream goes by its count. -/
theorem Dev.audioIn_takes {d : Dev} {i : Item} {x : Stream} (hx : d.openStream i.ptn (numAt i.body 0 2) = some x) (hheld : d.mediaHeld (numAt i.body 0 2) = false) :
    d.audioIn i = if numAt i.body 2 2 = 0 || 64 < numAt i.body 2 2 || i.body.length < 8 + numAt i.body 2 2 * (audFrame x.fmtIn * audBytes x.fmtIn) then d.endItem i cSessionInvalid 2
      else ((List.range (numAt i.body 2 2)).foldl (fun (d : Dev) j => d.audioFrame (numAt i.body 0 2) (numAt i.body 4 4 + j) (frameSamples x i.body j)) d).endItem i 0 0 := by
  unfold Dev.audioIn
  simp only [hx, hheld, Bool.false_eq_true, if_false]
  rfl

/-! ### Features and voice activity (R320, R321) -/

section Hop
variable {d : Dev} {k : Nat} {x : Stream} (hx : tget? d.streams k = some x) (hbarge : x.barge = false) (hrecs : d.glueRecs = [])
include hx hbarge hrecs

/-- Without barge-in, and with no record waiting, a start of speech leaves the streams. -/
theorem Dev.streams_bargeIn : (d.bargeIn k).streams = d.streams := by
  have hread := d.access_engRead x.ptn (x.buf + 0x10) 16
  have hwaits : (d.each (List.range d.glueRecs.length) fun d _ => d.glueRecord k) = d := by
    rw [hrecs]
    rfl
  unfold Dev.bargeIn
  simp only [hwaits, hx]
  split
  · next e c hr =>
    rw [hr] at hread
    rw [if_neg (by simp [hbarge])]
    exact hread.streams
  · next e hd hr =>
    rw [hr] at hread
    rw [if_pos (by simp [hbarge])]
    exact hread.streams

/-- The decision of a hop leaves the stream's counts of hops, samples and frames. -/
theorem Dev.vadHop_keeps (t : Nat) (hop : List Int) : ∃ y, tget? (d.vadHop k t hop).streams k = some y ∧ y.hop = x.hop ∧ y.total = x.total ∧ y.expect = x.expect := by
  unfold Dev.vadHop
  rw [hx]
  dsimp only
  generalize (if speechHop hop (BitVec.ofNat 32 x.vad) = x.speech then 0 else x.run + 1) = run
  split
  · have hput : tget? ((d.setStream k { x with speech := true, run := 0 }).streamEvent x k 0x0200 0 (t + 1 - x.onset)).streams k = some { x with speech := true, run := 0 } := tget?_tput_same ..
    exact ⟨_, (congrArg (tget? · k) (Dev.streams_bargeIn hput hbarge hrecs)).trans hput, rfl, rfl, rfl⟩
  · split
    · refine ⟨{ x with speech := false, run := 0 }, ?_, rfl, rfl, rfl⟩
      refine (congrArg (tget? · k) (Dev.access_signalTo _ _ _).streams).trans ?_
      exact (congrArg (tget? · k) (Dev.access_putPva _ _ _ _).streams).trans (tget?_tput_same ..)
    · exact ⟨_, tget?_tput_same .., rfl, rfl, rfl⟩

end Hop

/-- An audio message counts its frames. -/
theorem Dev.audioMsg_counts {d : Dev} (hs : d.scrubbed pMed = false) (x : Stream) (k n : Nat) (last : Bool) (smp : List Int) :
    (d.audioMsg x k n last smp).reg pMed 0x48 = d.reg pMed 0x48 + BitVec.ofNat 32 n :=
  ((Dev.sendsOnly_sendUp (d.addCount pMed 0x48 n) _).access.reg (by decide)).trans (Dev.reg_addCount_same hs 0x48 n)

theorem Dev.scrubbed_farEnd (d : Dev) (who : Nat) (p : Page) : (d.farEnd who).scrubbed p = d.scrubbed p := by
  unfold Dev.farEnd
  split
  · rfl
  · rfl

section Step
variable {d : Dev} {k : Nat} {x : Stream} (hx : tget? d.streams k = some x) (hon : d.dom 109 = dsOn) (hopen : x.closing = false) (hheld : d.mediaHeld k = false)
include hx hon hopen hheld

omit hon hopen hheld in
/-- A window whose samples are not all there waits. -/
theorem Dev.featureStep_waits (h : x.total < x.hop * (audRate x.fmtIn / 100) + audRate x.fmtIn / 40) : d.featureStep k = d := by
  unfold Dev.featureStep
  rw [hx]
  exact if_pos (by simp [h])

/-- A window whose samples are there advances the hop by one. -/
theorem Dev.featureStep_hops (h : x.hop * (audRate x.fmtIn / 100) + audRate x.fmtIn / 40 ≤ x.total) (hmem : d.pvaWait x.ptn x.buf 65536 = none) (hbarge : x.barge = false) (hrecs : d.glueRecs = []) :
    ∃ y, tget? (d.featureStep k).streams k = some y ∧ y.hop = x.hop + 1 ∧ y.total = x.total ∧ y.expect = x.expect := by
  have hflag (b : Prop) [Decidable b] (e : Dev) : e.Access (if b then e.signalFree x.feat else e) := .ite (e.access_signalFree _) (.refl e)
  unfold Dev.featureStep
  rw [hx]
  dsimp only
  rw [if_neg (by simp [hopen, hon, hheld, h]), hmem]
  dsimp only
  refine Dev.vadHop_keeps (x := { x with hop := x.hop + 1, kept := x.kept.drop ((x.hop + 1) * (audRate x.fmtIn / 100) - x.base), base := max x.base ((x.hop + 1) * (audRate x.fmtIn / 100)) }) ?_ hbarge ?_ _ _
  · rw [(hflag ..).streams]
    exact tget?_tput_same ..
  · rw [(hflag ..).glueRecs]
    exact (Dev.access_putPva _ _ _ _).glueRecs.trans ((Dev.access_putPva _ _ _ _).glueRecs.trans hrecs)

/-! ### Output (R323, R324) -/

section Output
variable {c : Dev} {hd : List Byte} (hmem : d.pvaWait x.ptn x.buf 196608 = none) (hread : d.engRead x.ptn (x.buf + 0x10) 20 = (c, .ok hd)) (hend : bitOf (numAt hd 16 4) 0 = false)
include hmem hread hend

/-- Output with nothing written beyond what was sent. -/
theorem Dev.outputScan_empty (h : numAt hd 0 8 = numAt hd 8 8) : d.outputScan k = c := by
  have hnone : x.mayFrames c.ao 0 = 0 := by simp [Stream.mayFrames]
  unfold Dev.outputScan
  rw [hx]
  simp only [hopen, hon, hheld, hmem, hread, h, hend, Nat.sub_self, hnone]
  rfl

/-- Whole frames that may be sent leave, and the output sequence passes them. -/
theorem Dev.outputScan_sends {e : Dev} {n : Nat} {smp : List Int} (hn : n = x.mayFrames c.ao (numAt hd 0 8 - numAt hd 8 8)) (h0 : n ≠ 0)
    (hring : c.ringSamples x (numAt hd 8 8) (n * audFrame x.fmtOut) = (e, some (smp, false))) (hs : e.scrubbed pMed = false) :
    ∃ y, tget? (d.outputScan k).streams k = some y ∧ y.outSeq = x.outSeq + n ∧ y.lastNext = false ∧ (d.outputScan k).reg pMed 0x48 = e.reg pMed 0x48 + BitVec.ofNat 32 n := by
  unfold Dev.outputScan
  rw [hx]
  simp only [hopen, hon, hheld, hmem, hread, hend, ← hn, h0, Bool.false_and, decide_false, ne_eq, not_true_eq_false, Bool.or_self, Bool.false_eq_true, if_false, Nat.add_zero, hring]
  refine ⟨_, tget?_tput_same .., rfl, rfl, ?_⟩
  refine ((Dev.access_putPva ..).reg (p := pMed) (by decide)).trans ((Dev.audioMsg_counts (d := e.farEnd (svcReader x.ptn)) ?_ x k n _ _).trans ?_)
  · exact (Dev.scrubbed_farEnd ..).trans hs
  · rw [(e.access_farEnd _).reg (by decide)]

end Output
end Step

end Sys2Proof.Machine

namespace Sys2Proof.Proofs
open Sys2Proof Sys2Proof.Machine

/-- Settles O47: each item by its checks, a hop and a scan by the lemmas about their branches. -/
theorem voiceStreams : Obligations.VoiceStreams := by
  refine ⟨fun s p i e hdue => ?opens, fun s p i e k hdue hk => ?close, fun s p i e k hdue hk => ?audio,
    fun s k x hx hon hopen hheld => ⟨fun h => s.upd_congr (Dev.featureStep_waits hx h), fun h hmem hbarge hrecs => ?hop, fun c hd w sent hmem hread hw hsent hend => ?output⟩⟩
  case opens =>
    have hrun : exec (.sessionOpen p) s = .next ⟨e.sessionOpen i, s.pending⟩ := State.upd_serveItem_due hdue _
    refine ⟨fun hoff => hrun.trans (s.upd_congr (if_pos hoff)), fun o hon hbad => hrun.trans (s.upd_congr ((if_neg (not_not.2 hon)).trans ?_)), fun f b hon hgood hwrite => ?_⟩
    · simp only [hbad]
    · obtain ⟨n, hn⟩ : ∃ n, e.sessionOpen i = (f.setStream (numAt i.body 0 2) { streamOf i.ptn i.body with polled := n }).endItem i 0 0 := by
        unfold Dev.sessionOpen
        rw [if_neg (not_not.2 hon)]
        simp only [hgood]
        exact ⟨_, Dev.hartWrite_ok hwrite _⟩
      exact ⟨_, n, hrun.trans (s.upd_congr hn), tget?_tput_same .., fun k hk => tget?_tput_ne _ _ hk, rfl⟩
  case close =>
    subst hk
    have hrun : exec (.sessionClose p) s = .next ⟨e.sessionClose i, s.pending⟩ := State.upd_serveItem_due hdue _
    refine ⟨fun hnone => hrun.trans (s.upd_congr ?_), fun x hx h => ⟨e.freeStream (numAt i.body 0 2), hrun.trans (s.upd_congr ?_), tget?_tdel_same .., fun j hj => tget?_tdel_ne _ hj, rfl⟩⟩
    · unfold Dev.sessionClose
      simp only [hnone]
    · unfold Dev.sessionClose
      simp only [hx, Dev.closeStream_frees (Dev.openStream_some hx) h]
  case audio =>
    subst hk
    have hrun : exec (.audioIn p) s = .next ⟨e.audioIn i, s.pending⟩ := State.upd_serveItem_due hdue _
    refine ⟨fun hnone => hrun.trans (s.upd_congr ?_), fun x b n l hx hheld hb hn hl => ?_⟩
    · unfold Dev.audioIn
      simp only [hnone]
    · subst hb hn hl
      have hgo := Dev.audioIn_takes hx hheld
      refine ⟨fun hbad => hrun.trans (s.upd_congr (hgo.trans (if_pos ?_))), fun h1 h64 hlen hfrom hs => ?_⟩
      · rcases hbad with h | h | h <;> simp [h]
      · obtain ⟨hstream, hreg, hmem, -⟩ := Dev.audioFrames_expected (Dev.openStream_some hx) hs (frameSamples x i.body) (numAt i.body 2 2)
        rw [← hfrom] at hstream hreg hmem
        refine ⟨_, hrun.trans (s.upd_congr (hgo.trans (if_neg ?_))), hstream, hreg, hmem⟩
        have h0 : numAt i.body 2 2 ≠ 0 := by omega
        simp [h0, Nat.not_lt.2 h64, Nat.not_lt.2 hlen]
  case hop =>
    obtain ⟨y, hy, hhop, htotal, hexpect⟩ := Dev.featureStep_hops hx hon hopen hheld h hmem hbarge hrecs
    exact ⟨_, y, rfl, hy, hhop, htotal, hexpect⟩
  case output =>
    subst hw hsent
    refine ⟨fun h => s.upd_congr (Dev.outputScan_empty hx hon hopen hheld hmem hread hend h), fun n e smp hn h0 hring hs => ?_⟩
    obtain ⟨y, hy, hseq, hlast, hreg⟩ := Dev.outputScan_sends hx hon hopen hheld hmem hread hend hn h0 hring hs
    exact ⟨_, y, rfl, hy, hseq, hlast, hreg⟩

end Sys2Proof.Proofs

/-! SUPPORT. What leaves the time, the accesses under way, the bodies of partitions and the heads of their pages as they are: the post of an outcome, the abort of a job, the serving engine and its pool, the scrub of a cluster. -/

namespace Sys2Proof.Machine

/-! ### The relation -/

/-- From `d` to `d'` no ao-cycle passes; the accesses under way, the body of every partition, and STATUS, OWNER and PTN_XLATE_EXPIRED of its page stay. -/
structure Dev.Steady (d d' : Dev) : Prop where
  csr : ∀ k, Head k → tget? d'.csr k = tget? d.csr k
  body : ∀ p, (d'.px p).body = (d.px p).body
  ao : d'.ao = d.ao
  inOps : d'.inOps = d.inOps

theorem Dev.Steady.refl (d : Dev) : d.Steady d := ⟨fun _ _ => rfl, fun _ => rfl, rfl, rfl⟩

theorem Dev.Steady.trans {a b c : Dev} (h : a.Steady b) (h' : b.Steady c) : a.Steady c :=
  ⟨fun k hk => (h'.csr k hk).trans (h.csr k hk), fun p => (h'.body p).trans (h.body p), h'.ao.trans h.ao, h'.inOps.trans h.inOps⟩

theorem Dev.Steady.ite {d t e : Dev} {b : Prop} [Decidable b] (h : d.Steady t) (h' : d.Steady e) : d.Steady (if b then t else e) := by
  split
  · exact h
  · exact h'

theorem Dev.steady_foldl {α : Type} {f : Dev → α → Dev} {l : List α} (h : ∀ d, ∀ a ∈ l, Dev.Steady d (f d a)) (d : Dev) : d.Steady (l.foldl f d) :=
  Dev.foldl_holds (P := d.Steady) (fun e a ha he => he.trans (h e a ha)) (.refl d)

/-- What touches neither registers nor partitions nor the time nor the accesses under way. -/
theorem Dev.Steady.of_eq {d d' : Dev} (hcsr : d'.csr = d.csr) (hptnx : d'.ptnx = d.ptnx) (hao : d'.ao = d.ao) (hin : d'.inOps = d.inOps) : d.Steady d' :=
  ⟨fun _ _ => by rw [hcsr], fun p => by rw [Dev.px, Dev.px, hptnx], hao, hin⟩

theorem Dev.Steady.reg {d d' : Dev} (h : d.Steady d') {p : Page} {off : Nat} (hk : Head (p.base + off)) : d'.reg p off = d.reg p off := by
  rw [Dev.reg, Dev.reg, tgetD, tgetD, h.csr _ hk]

theorem Dev.RegsOnly.steady {d d' : Dev} (h : d.RegsOnly d') (hcsr : ∀ k, Head k → tget? d'.csr k = tget? d.csr k) : d.Steady d' :=
  ⟨hcsr, fun p => by rw [h]; rfl, by rw [h], by rw [h]⟩

theorem Dev.SameRegsBut.steady {d d' : Dev} {p : Page} {offs : List Nat} (h : d'.SameRegsBut d p offs) (hregs : d.RegsOnly d') (ho : ∀ o ∈ offs, ¬ Head (p.base + o)) : d.Steady d' :=
  hregs.steady fun k hk => (h k fun o hm he => ho o hm (he ▸ hk)).symm

/-! ### What the relations of accesses, outcomes and wipes give -/

theorem Dev.Access.steady {d d' : Dev} (h : d.Access d') : d.Steady d' :=
  ⟨fun k hk => h.csr k (.inr (.inr hk)), fun p => by rw [h.only]; rfl, by rw [h.only], by rw [h.only]⟩

theorem Dev.Posts.steady {d d' : Dev} (h : d.Posts d') : d.Steady d' :=
  ⟨fun k hk => h.csr k (by omega), fun p => by rw [h.only]; rfl, by rw [h.only], by rw [h.only]⟩

theorem Dev.SendsOnly.steady {d d' : Dev} (h : d.SendsOnly d') : d.Steady d' := h.posts.steady

theorem Dev.Wipes.steady {d d' : Dev} (h : d.Wipes d') : d.Steady d' :=
  ⟨fun k hk => h.csr k (by omega), fun p => by rw [h.only]; rfl, by rw [h.only], by rw [h.only]⟩

theorem Dev.steady_takeFree (d : Dev) : d.Steady d.takeFree.2 := .of_eq rfl rfl rfl rfl

/-! ### Registers -/

theorem not_head_of_le {k : Nat} (h : 0x80000 ≤ k) : ¬ Head k := by omega

/-- Of any page these three places alone can be one of them. -/
theorem not_head_off (p : Page) {off : Nat} (h : off < 0x1000 ∧ off ≠ 0xC ∧ off ≠ 0x24 ∧ off ≠ 0x214) : ¬ Head (p.base + off) := by
  have := p.base_mod
  omega

theorem not_head_clu (n off : Nat) : ¬ Head ((pClu n).base + off) := not_head_of_le (by simp only [Page.base]; omega)
theorem not_head_stk (s u off : Nat) : ¬ Head ((pStk s u).base + off) := not_head_of_le (by simp only [Page.base]; omega)
theorem not_head_dmac (e off : Nat) : ¬ Head ((pDmac e).base + off) := not_head_of_le (by simp only [Page.base]; omega)

theorem not_head_unit (u off : Nat) : ¬ Head ((uPage u).base + off) := by
  unfold uPage
  split
  · exact not_head_clu _ _
  · split
    · exact not_head_stk _ _ _
    · exact not_head_dmac _ _

section Registers
variable (d : Dev) {p : Page} {off : Nat} (hk : ¬ Head (p.base + off))
include hk

theorem Dev.steady_setReg (v : Word) : d.Steady (d.setReg p off v) := (d.sameRegsBut_setReg p off v).steady (d.regsOnly_setReg ..) (by simpa using hk)
theorem Dev.steady_setF (hi lo v : Nat) : d.Steady (d.setF p off hi lo v) := d.steady_setReg hk _
theorem Dev.steady_setBit (i : Nat) (b : Bool) : d.Steady (d.setBit p off i b) := (d.sameRegsBut_setBit p off i b).steady (d.regsOnly_setBit ..) (by simpa using hk)
theorem Dev.steady_addCount (n : Nat) : d.Steady (d.addCount p off n) := (d.sameRegsBut_addCount p off n).steady (d.regsOnly_addCount ..) (by simpa using hk)

theorem Dev.steady_addSat (hi lo n : Nat) : d.Steady (d.addSat p off hi lo n) := by
  unfold Dev.addSat
  exact .ite (.refl d) (.trans (b := d.noteAdd p off (n * 2 ^ lo)) (.of_eq rfl rfl rfl rfl) (Dev.steady_setF _ hk _ _ _))

end Registers

theorem Dev.steady_setEvent (d : Dev) (p : Page) (i : Nat) : d.Steady (d.setEvent p i) :=
  (d.sameRegsBut_setEvent p i).steady (d.regsOnly_setEvent ..) fun o ho => by
    obtain rfl := List.mem_singleton.1 ho
    exact not_head_off p (by decide)

theorem Dev.steady_setSt (d : Dev) {p : Page} (v : Nat) (h : ¬ Head (p.base + 0x0C)) : d.Steady (d.setSt p v) :=
  (d.sameRegsBut_setSt p v).steady (d.regsOnly_setSt ..) fun o ho => by
    rcases List.mem_cons.1 ho with rfl | ho
    · exact not_head_off p (by decide)
    · obtain rfl := List.mem_singleton.1 ho
      exact h

theorem Dev.steady_fault (d : Dev) {p : Page} (code info : Nat) (h : ∀ off, ¬ Head (p.base + off)) : d.Steady (d.fault p code info) :=
  (d.sameRegsBut_fault p code info).steady (d.regsOnly_fault ..) fun o _ => h o

/-! ### Partitions -/

theorem Dev.body_modPx (d : Dev) (p : Nat) {f : PtnX → PtnX} (hf : ∀ x, (f x).body = x.body) (q : Nat) : ((d.modPx p f).px q).body = (d.px q).body := by
  by_cases h : q = p
  · subst h
    exact (congrArg PtnX.body (Dev.px_modPx_same ..)).trans (hf _)
  · exact congrArg PtnX.body ((Dev.px_modPx ..).trans (if_neg h))

theorem Dev.steady_modPx (d : Dev) (p : Nat) {f : PtnX → PtnX} (hf : ∀ x, (f x).body = x.body) : d.Steady (d.modPx p f) :=
  ⟨fun _ _ => rfl, d.body_modPx p hf, rfl, rfl⟩

theorem Dev.Steady.of_modPx {d e : Dev} {p : Nat} {f : PtnX → PtnX} (h : (d.modPx p f).Steady e) (hf : ∀ x, (f x).body = x.body) : d.Steady e := (d.steady_modPx p hf).trans h

theorem Dev.steady_record (d : Dev) (dest kind : Nat) (l : List Byte) : d.Steady (d.record dest kind l) := .of_eq rfl rfl rfl rfl

/-! ### Voided guarantees (09, R200) -/

theorem Dev.steady_voidStep (d : Dev) (p c map : Nat) : d.Steady (d.voidStep p c map) := d.steady_modPx p fun _ => rfl

theorem Dev.steady_voidOnset (d : Dev) (p c map : Nat) : d.Steady (d.voidOnset p c map) :=
  ((d.steady_voidStep p c map).trans (Dev.steady_setBit _ (not_head_off _ (by decide)) _ _)).trans (Dev.steady_record ..)

theorem Dev.steady_voidOn (d : Dev) (p c map : Nat) : d.Steady (d.voidOn p c map) := .ite (d.steady_voidStep ..) (d.steady_voidOnset ..)

theorem Dev.steady_voidOff (d : Dev) (p c : Nat) : d.Steady (d.voidOff p c) :=
  .ite (.refl d) (.trans (d.steady_setBit (not_head_off _ (by decide)) _ _) (.ite (Dev.steady_record ..) (.refl _)))

theorem Dev.steady_voidProgs (d : Dev) (p c : Nat) (f : Prog → Bool) : d.Steady (d.voidProgs p c f) := by
  unfold Dev.voidProgs
  split
  · exact .refl d
  · refine .trans (b := d.modPx p _) (d.steady_modPx p ?_) (Dev.steady_voidOnset _ p c _)
    exact fun _ => rfl

theorem Dev.steady_clockCause (d : Dev) : d.Steady d.clockCause := by
  refine Dev.steady_foldl (fun e p _ => ?_) d
  split
  · exact e.steady_voidOn ..
  · exact e.steady_voidOff ..

/-! ### Queues (04, R80–R82) -/

theorem Dev.steady_modGq (d : Dev) (n i : Nat) (f : Gq → Gq) : d.Steady (d.modGq n i f) := .of_eq rfl rfl rfl rfl
theorem Dev.steady_modMq (d : Dev) (s i : Nat) (f : Mq → Mq) : d.Steady (d.modMq s i f) := .of_eq rfl rfl rfl rfl
theorem Dev.steady_modDq (d : Dev) (e i : Nat) (f : Dq → Dq) : d.Steady (d.modDq e i f) := .of_eq rfl rfl rfl rfl

theorem Dev.steady_setQMark (d : Dev) (u q v : Nat) : d.Steady (d.setQMark u q v) := d.steady_setF (not_head_unit _ _) _ _ _
theorem Dev.steady_setQFault (d : Dev) (u q code : Nat) : d.Steady (d.setQFault u q code) := d.steady_setF (not_head_unit _ _) _ _ _

theorem Dev.steady_qClear (d : Dev) (u q : Nat) : d.Steady (d.qClear u q) :=
  .trans (b := d.sramMet (.queue u q)) (.of_eq rfl rfl rfl rfl) (.ite (Dev.steady_modGq ..) (.ite (Dev.steady_modMq ..) (Dev.steady_modDq ..)))

theorem Dev.steady_qCredit (d : Dev) (u q c : Nat) : d.Steady (d.qCredit u q c) := .ite (d.steady_modGq ..) (.ite (d.steady_modMq ..) (d.steady_modDq ..))

theorem Dev.steady_bindQ (d : Dev) (u q job weight : Nat) : d.Steady (d.bindQ u q job weight) :=
  ((((d.steady_setReg (not_head_unit _ _) _).trans (Dev.steady_setQMark ..)).trans (Dev.steady_setQFault ..)).trans (Dev.steady_qClear ..)).trans (Dev.steady_qCredit ..)

theorem Dev.steady_post (d : Dev) (msg item code info : Nat) : d.Steady (d.post msg item code info) := (d.posts_post msg item code info).steady

theorem Dev.steady_dropHeld (d : Dev) (u q reason : Nat) : d.Steady (d.dropHeld u q reason) := Dev.steady_foldl (fun e _ _ => e.steady_post ..) d

theorem Dev.steady_unbindQ (d : Dev) (u q : Nat) : d.Steady (d.unbindQ u q) :=
  (((d.steady_dropHeld ..).trans (Dev.steady_setReg _ (not_head_unit _ _) _)).trans (Dev.steady_setQMark ..)).trans (Dev.steady_qClear ..)

theorem Dev.steady_abortQueues (d : Dev) (u j : Nat) (fq : Option Nat) (code reason : Nat) : d.Steady (d.abortQueues u j fq code reason) := by
  rw [Dev.abortQueues_eq]
  refine Dev.steady_foldl (fun e q _ => ?_) d
  rw [Dev.abortQueue_eq]
  exact (((e.steady_dropHeld ..).trans (Dev.steady_qClear ..)).trans (Dev.steady_setQMark ..)).trans (Dev.steady_setQFault ..)

theorem Dev.steady_qPush (d : Dev) (u q : Nat) (cmds : List Nat) : d.Steady (d.qPush u q cmds) := .ite (d.steady_modGq ..) (.ite (d.steady_modMq ..) (d.steady_modDq ..))

theorem Dev.steady_qArm (d : Dev) (u q : Nat) : d.Steady (d.qArm u q) := by
  unfold Dev.qArm
  split
  · exact .refl d
  · exact .ite (.ite (d.steady_modGq ..) (.ite (d.steady_modMq ..) (d.steady_modDq ..))) (.refl d)

theorem Dev.steady_setHeld (d : Dev) (u q : Nat) (l : List HeldCmd) : d.Steady (d.setHeld u q l) := .ite (d.steady_modGq ..) (.ite (d.steady_modMq ..) (d.steady_modDq ..))

theorem Dev.steady_drainHeld (d : Dev) (u q : Nat) : d.Steady (d.drainHeld u q) := by
  unfold Dev.drainHeld
  refine .ite (.refl d) ?_
  refine .trans (((d.steady_qPush ..).trans (Dev.steady_qArm ..)).trans (Dev.steady_setHeld ..)) (Dev.steady_foldl (fun e _ _ => ?_) _)
  exact .ite (.refl e) (e.steady_post ..)

/-! ### Jobs (11, R219–R226) -/

theorem Dev.steady_setJob (d : Dev) (j : Nat) (x : Job) : d.Steady (d.setJob j x) := .of_eq rfl rfl rfl rfl
theorem Dev.steady_modJob (d : Dev) (j : Nat) (f : Job → Job) : d.Steady (d.modJob j f) := .of_eq rfl rfl rfl rfl

theorem Dev.steady_accrueOverrun (d : Dev) (j : Nat) (still : Option Nat) : d.Steady (d.accrueOverrun j still) := by
  unfold Dev.accrueOverrun
  split
  · exact .refl d
  · exact (d.steady_modJob ..).trans (Dev.steady_addCount _ (not_head_off _ (by decide)) _)

theorem Dev.steady_settleOverrun (d : Dev) (j : Nat) : d.Steady (d.settleOverrun j) := .ite (.refl d) (d.steady_accrueOverrun j none)

/-! ### The abort of a job in a unit (11, R225, R226) -/

theorem Dev.steady_setReaders (d : Dev) (n r v : Nat) : d.Steady (d.setReaders n r v) :=
  .trans (b := d.modClu n fun c => { c with readers := tset c.readers r v 0 }) (.of_eq rfl rfl rfl rfl) (Dev.steady_setF _ (not_head_clu _ _) _ _ _)

theorem Dev.steady_scoreFree (d : Dev) (n rd wr : Nat) : d.Steady (d.scoreFree n rd wr) :=
  (Dev.steady_foldl (fun e _ _ => e.steady_setReaders ..) d).trans (Dev.steady_foldl (fun e _ _ => e.steady_setBit (not_head_clu _ _) _ _) _)

theorem Dev.steady_coreSt (d : Dev) (n k st idx cause : Nat) : d.Steady (d.coreSt n k st idx cause) := d.steady_setReg (not_head_clu _ _) _

theorem Dev.steady_coreIdle (d : Dev) (n k : Nat) : d.Steady (d.coreIdle n k) := by
  unfold Dev.coreIdle
  extract_lets c e1 e2
  have h1 : d.Steady e1 := .of_eq rfl rfl rfl rfl
  have h2 : e1.Steady e2 := by
    unfold e2
    split
    · exact Dev.steady_settleOverrun ..
    · exact .refl _
  exact (h1.trans h2).trans (.ite ((Dev.steady_setBit _ (not_head_clu _ _) _ _).trans (Dev.steady_coreSt ..)) (Dev.steady_coreSt ..))

theorem Dev.steady_stopTile (d : Dev) (n k : Nat) : d.Steady (d.stopTile n k) := by
  unfold Dev.stopTile
  dsimp only
  split
  · exact .refl d
  · refine .ite (.refl d) ((d.steady_scoreFree ..).trans (.trans (b := Dev.setCore _ n k _) (.of_eq rfl rfl rfl rfl) (.ite (Dev.steady_coreIdle ..) (.refl _))))

theorem Dev.steady_holdFree (d : Dev) (p : Nat) {h : Nat} (hh : h < 8) : d.Steady (d.holdFree p h) := by
  have hoff : ∀ i, i < 16 → ¬ Head ((pPtn p).base + (rHold h + i)) := fun i hi => not_head_off _ (by unfold rHold; omega)
  exact ((d.steady_setReg (hoff 0 (by decide)) 0).trans (Dev.steady_setReg _ (hoff 4 (by decide)) 0)).trans (Dev.steady_setReg _ (hoff 8 (by decide)) 0)

theorem Dev.steady_abortHolds (d : Dev) (u j : Nat) : d.Steady (d.abortHolds u j) := by
  unfold Dev.abortHolds Dev.each
  exact Dev.steady_foldl (fun e _ hh => .ite (e.steady_holdFree _ (List.mem_range.1 hh)) (.refl e)) d

theorem Dev.steady_noteSecure (d : Dev) (ag : Agent) (a n : Nat) : d.Steady (d.noteSecure ag a n) := by
  unfold Dev.noteSecure
  split
  · exact .ite (d.steady_setBit (not_head_clu _ _) _ _) (.refl d)
  · exact .refl d

theorem Dev.steady_writeMem (d : Dev) (ag : Agent) (a : Nat) (bs : List Byte) (m : Bool) : d.Steady (d.writeMem ag a bs m).1 := (d.access_writeMem ag a bs m).steady
theorem Dev.steady_noteErrs (d : Dev) (a n : Nat) : d.Steady (d.noteErrs a n) := (d.access_noteErrs a n).steady

theorem Dev.steady_mergeStep (d : Dev) (n : Nat) (m : MergeRun) : d.Steady (d.mergeStep n m).dev := by
  have hread := (d.steady_noteErrs (wordDpa n m.nextWord) 32).trans (Dev.steady_noteSecure _ (agPtn (tgetD d.jobs m.job {}).ptn (some m.job)) (wordDpa n m.nextWord) 32)
  unfold Dev.mergeStep
  dsimp only
  split
  · rw [MergeStep.dev_marked]
    exact hread
  · split
    · rw [MergeStep.dev_goes]
      exact hread
    · rw [MergeStep.dev_goes]
      exact hread.trans (Dev.steady_writeMem ..)

theorem Dev.steady_mergeAbort (n f : Nat) (d : Dev) (m : MergeRun) : d.Steady (Dev.mergeAbort n f d m) :=
  Dev.mergeAbort_holds (P := d.Steady) n (fun e m he => he.trans (e.steady_mergeStep n m)) f d m (.refl d)

theorem Dev.steady_abortClu (d : Dev) (n j : Nat) (fq : Option Nat) (code reason : Nat) : d.Steady (d.abortClu n j fq code reason) := by
  have hstop := Dev.steady_mergeAbort
  obtain ⟨stop, hs⟩ := Dev.mergeAbort_named
  unfold Dev.abortClu
  rw [← hs] at hstop ⊢
  clear hs
  extract_lets a1 a2 a3 c mine a4 a5
  have h2 : d.Steady a2 := (d.steady_abortHolds n j).trans (Dev.steady_abortQueues ..)
  clear_value a2
  have h3 : a2.Steady a3 := Dev.steady_foldl (fun e k _ => by
    split
    · exact .ite (e.steady_stopTile ..) (.refl e)
    · exact .refl e) a2
  clear_value a3
  have h4 : a3.Steady a4 := Dev.steady_foldl (fun e p _ => by
    split
    · exact e.steady_scoreFree ..
    · exact .refl e) a3
  clear_value a4
  have h5 : a4.Steady a5 := by
    unfold a5
    split
    · exact .ite ((hstop ..).trans (Dev.steady_scoreFree ..)) (.refl _)
    · exact .refl _
  clear_value a5
  exact ((h2.trans h3).trans (h4.trans h5)).trans (.of_eq rfl rfl rfl rfl)

theorem Dev.steady_copyUnit (d : Dev) (r : CopyRun) (k : Nat) : d.Steady (d.copyUnit r k).1 := by
  unfold Dev.copyUnit
  refine List.foldlRecOn (motive := fun acc : Dev × Option Nat => d.Steady acc.1) _ _ (.refl d) fun acc h i _ => ?_
  obtain ⟨e, x⟩ := acc
  refine h.trans ?_
  dsimp only
  split
  · exact e.steady_noteErrs ..
  · split
    · exact e.steady_writeMem ..
    · split
      · exact .trans (b := (e.freeBytes 64).1) (.of_eq rfl rfl rfl rfl) (Dev.steady_writeMem ..)
      · exact (e.steady_noteErrs _ 64).trans (Dev.steady_writeMem ..)

theorem Dev.steady_copyUnits (s n : Nat) (d : Dev) (r : CopyRun) (k : Nat) : d.Steady (Dev.copyUnits s n d r k).1 := by
  induction n generalizing d k with
  | zero => exact .refl d
  | succ n ih =>
    have hunit := d.steady_copyUnit r k
    unfold Dev.copyUnits
    split
    · next heq => rwa [heq] at hunit
    · next e heq =>
      rw [heq] at hunit
      have hcount : e.Steady ((e.addCount (pStk s 3) 0x4C 1).modStk s fun x => { x with ran := addSet x.ran 0x58 }) :=
        (e.steady_addCount (not_head_stk _ _ _) 1).trans (.of_eq rfl rfl rfl rfl)
      exact (hunit.trans hcount).trans (ih _ _)

theorem Dev.steady_copyAbort (d : Dev) (s : Nat) (r : CopyRun) : d.Steady (d.copyAbort s r) := by
  unfold Dev.copyAbort
  split
  · exact .refl d
  · exact d.steady_takeFree.trans (Dev.steady_copyUnits ..)

theorem Dev.steady_abortRun (d : Dev) (j : Nat) (r : MRun) : d.Steady (d.abortRun j r) := d.steady_takeFree.trans (Dev.steady_foldl (fun e _ _ => e.steady_writeMem ..) _)

theorem Dev.steady_abortStk (d : Dev) (s j : Nat) (fq : Option Nat) (code reason : Nat) : d.Steady (d.abortStk s j fq code reason) := by
  unfold Dev.abortStk
  extract_lets u a1 mine a2 a3
  have h1 : d.Steady a1 := d.steady_abortQueues ..
  clear_value a1
  have h2 : a1.Steady a2 := Dev.steady_foldl (fun e r _ => e.steady_abortRun j r) a1
  clear_value a2
  have h3 : a2.Steady a3 := Dev.steady_foldl (fun e c _ => e.steady_copyAbort s c.2) a2
  clear_value a3
  exact ((h1.trans h2).trans h3).trans (.of_eq rfl rfl rfl rfl)

theorem Dev.steady_abortDma (d : Dev) (e j : Nat) (fq : Option Nat) (code reason : Nat) : d.Steady (d.abortDma e j fq code reason) := by
  unfold Dev.abortDma
  extract_lets u a1 a2 units a3
  have h2 : d.Steady a2 := (d.steady_abortHolds ..).trans (Dev.steady_abortQueues ..)
  clear_value a2
  have h3 : a2.Steady a3 := .ite (.refl _) (a2.steady_addCount (not_head_dmac _ _) _)
  clear_value a3
  exact (h2.trans h3).trans (.of_eq rfl rfl rfl rfl)

theorem Dev.steady_abortUnit (d : Dev) (u j : Nat) (fq : Option Nat) (code reason : Nat) : d.Steady (d.abortUnit u j fq code reason) := by
  unfold Dev.abortUnit
  extract_lets e
  have he : d.Steady e := .ite (.refl d) (.of_eq rfl rfl rfl rfl)
  clear_value e
  exact he.trans (.ite (e.steady_abortClu ..) (.ite (e.steady_abortStk ..) (e.steady_abortDma ..)))

/-! ### Faults, stops and ends of jobs (11, R225, R226) -/

theorem Dev.steady_jobFaultM (d : Dev) (u q j code info : Nat) (members : Option (List FaultName)) : d.Steady (d.jobFaultM u q j code info members) := by
  unfold Dev.jobFaultM
  extract_lets e1 was e2 others e3 e4
  have h2 : d.Steady e2 := (d.steady_fault code info (not_head_unit u)).trans (Dev.steady_setJob ..)
  clear_value e2
  split
  · exact (h2.trans (Dev.steady_setQMark ..)).trans (Dev.steady_setQFault ..)
  · have h3 : e2.Steady e3 := e2.steady_abortUnit ..
    clear_value e3
    have h4 : e3.Steady e4 := .ite (.refl _) (.of_eq rfl rfl rfl rfl)
    clear_value e4
    exact (h2.trans (h3.trans h4)).trans (.ite (.refl _) (Dev.steady_record ..))

theorem Dev.steady_jobFault (d : Dev) (u q j code info : Nat) : d.Steady (d.jobFault u q j code info) := d.steady_jobFaultM u q j code info none

theorem Dev.steady_jobStop (d : Dev) (u j code : Nat) : d.Steady (d.jobStop u j code) := by
  unfold Dev.jobStop
  extract_lets was qs e1 others e2 e3 e4
  have h2 : d.Steady e2 := (d.steady_setJob ..).trans (Dev.steady_abortUnit ..)
  clear_value e2
  have h3 : e2.Steady e3 := Dev.steady_foldl (fun e q _ => e.steady_setQFault ..) e2
  clear_value e3
  have h4 : e3.Steady e4 := .ite (.refl _) (.of_eq rfl rfl rfl rfl)
  clear_value e4
  exact (h2.trans (h3.trans h4)).trans (.ite (.refl _) (Dev.steady_record ..))

theorem Dev.steady_jobAbortAll (d : Dev) (j code info : Nat) (pg : Page) : d.Steady (d.jobAbortAll j code info pg) := by
  unfold Dev.jobAbortAll
  extract_lets x e1 e2
  refine .ite (.refl d) ?_
  have h1 : d.Steady e1 := Dev.steady_foldl (fun e u _ => (e.steady_abortUnit ..).trans (Dev.steady_foldl (fun f q _ => f.steady_setQFault ..) _)) d
  clear_value e1
  have h2 : e1.Steady e2 := e1.steady_setJob ..
  clear_value e2
  exact (h1.trans h2).trans (.ite (.refl _) (Dev.steady_record ..))

theorem Dev.steady_bindServing (d : Dev) (n j : Nat) : d.Steady (d.bindServing n j) := by
  unfold Dev.bindServing
  extract_lets e
  have he : d.Steady e := .ite (d.steady_unbindQ ..) (.refl d)
  clear_value e
  exact (he.trans (Dev.steady_bindQ ..)).trans (Dev.steady_setReg _ (not_head_clu _ _) _)

theorem Dev.steady_dropJob (d : Dev) (j : Nat) : d.Steady (d.dropJob j) := by
  unfold Dev.dropJob
  extract_lets x e1 sv e2
  have h1 : d.Steady e1 := Dev.steady_foldl (fun e u _ => (e.steady_abortUnit ..).trans (Dev.steady_foldl (fun f q _ => f.steady_unbindQ ..) _)) d
  clear_value e1
  have h2 : e1.Steady e2 := .of_eq rfl rfl rfl rfl
  clear_value e2
  exact (h1.trans h2).trans (.ite (Dev.steady_foldl (fun e n _ => e.steady_bindServing ..) _) (.refl _))

/-! ### Slices and windows (11, R230–R234) -/

theorem Dev.steady_setElig (d : Dev) (j : Nat) (on : Bool) : d.Steady (d.setElig j on) := by
  unfold Dev.setElig
  exact .ite (.refl d) (.ite ((d.steady_accrueOverrun j none).trans (Dev.steady_modJob ..)) (.ite (d.steady_modJob ..) (.refl d)))

theorem Dev.steady_allOff (d : Dev) (p : Nat) : d.Steady (d.allOff p) := Dev.steady_foldl (fun e j _ => e.steady_setElig j false) d

theorem Dev.steady_settleSlice (d : Dev) (p : Nat) : d.Steady (d.settleSlice p) := by
  unfold Dev.settleSlice
  split
  · exact .refl d
  · extract_lets el e
    have he : d.Steady e := Dev.steady_foldl (fun e j _ => (e.steady_accrueOverrun j _).trans (Dev.steady_modJob ..)) d
    clear_value e
    refine he.trans (e.steady_modPx p ?_)
    exact fun _ => rfl

theorem Dev.steady_sliceJobsOn (d : Dev) (p : Nat) : d.Steady (d.sliceJobsOn p) := Dev.steady_foldl (fun e j _ => .ite (e.steady_setElig j true) (.refl e)) d

theorem Dev.steady_beginSlice (d : Dev) (p : Nat) : d.Steady (d.beginSlice p) := by
  unfold Dev.beginSlice
  extract_lets resume
  split
  · exact .of_modPx (Dev.steady_sliceJobsOn ..) fun _ => rfl
  · split
    · exact d.steady_modPx p fun _ => rfl
    · extract_lets e
      have he : d.Steady e := d.steady_setF (not_head_off _ (by decide)) _ _ _
      clear_value e
      exact he.trans (.of_modPx (Dev.steady_sliceJobsOn ..) fun _ => rfl)

theorem Dev.steady_schedule (d : Dev) (p : Nat) : d.Steady (d.schedule p) := by
  unfold Dev.schedule
  split
  · exact .refl d
  · split
    · exact d.steady_beginSlice p
    · extract_lets e1 e2
      have h1 : d.Steady e1 := d.steady_settleSlice p
      clear_value e1
      split
      · exact h1.trans (e1.steady_sliceJobsOn p)
      · have h2 : e1.Steady e2 := (e1.steady_allOff p).trans (Dev.steady_setF _ (not_head_off _ (by decide)) _ _ _)
        clear_value e2
        exact (h1.trans h2).trans (.of_modPx (Dev.steady_beginSlice ..) fun _ => rfl)

theorem Dev.steady_closeWindow (d : Dev) (p : Nat) : d.Steady (d.closeWindow p) :=
  ((d.steady_setElig _ false).trans (Dev.steady_setBit _ (not_head_off _ (by decide)) _ _)).trans (Dev.steady_schedule ..)

theorem Dev.steady_dropStep (d : Dev) (p : Nat) : d.Steady (d.dropStep p) := by
  unfold Dev.dropStep
  refine .ite (.refl d) ?_
  extract_lets e
  have he : d.Steady e := d.steady_modPx p fun _ => rfl
  clear_value e
  exact he.trans ((((e.steady_voidOff p 4).trans (Dev.steady_voidOff _ p 6)).trans (Dev.steady_voidOff _ p 7)).trans (Dev.steady_closeWindow _ p))

theorem Dev.steady_parkOnset (d : Dev) (p : Nat) : d.Steady (d.parkOnset p) := by
  unfold Dev.parkOnset
  split
  · exact .refl d
  · split
    · exact .refl d
    · exact .ite (d.steady_voidOn ..) (.refl d)

end Sys2Proof.Machine

/-! SUPPORT. The same of the serving engine with its pool and adapters, of the scrub of a cluster, and of what an idle ao-cycle meets; and the statement about an idle step. -/

namespace Sys2Proof.Machine

/-- A fold that gathers something with the device. -/
theorem Dev.steady_foldl_snd {α β : Type} {f : β × Dev → α → β × Dev} {l : List α} {b y : β} {d e : Dev} (he : l.foldl f (b, d) = (y, e)) (h : ∀ (x : β × Dev) a, x.2.Steady (f x a).2) : d.Steady e := by
  have hfold := List.foldlRecOn (motive := fun x : β × Dev => d.Steady x.2) l f (b := (b, d)) (.refl d) fun x hx a _ => hx.trans (h x a)
  rwa [he] at hfold

/-! ### Demands and the feed of a queue (04, R81; 20, R430) -/

theorem Dev.steady_setDom (d : Dev) {n : Nat} (v : Nat) (h : n < 0x10000) : d.Steady (d.setDom n v) := d.steady_setF (by simp only [Page.base, rDom]; omega) _ _ _

theorem Dev.steady_startWake (d : Dev) {n : Nat} (h : n < 0x10000) : d.Steady (d.startWake n) :=
  ((d.steady_setDom dsWaking h).trans (Dev.steady_addCount _ (by decide) 1)).trans (.of_eq rfl rfl rfl rfl)

theorem Dev.steady_stkDemand (d : Dev) (s : Nat) : d.Steady (d.stkDemand s) := (d.access_stkDemand s).steady

theorem Dev.steady_demand (d : Dev) {n : Nat} (h : n < 0x10000) : d.Steady (d.demand n) := by
  have hwait : ∀ d : Dev, d.Steady (d.waitWake n) := fun d => (d.access_waitWake n).steady
  have hcount : ∀ d : Dev, d.Steady ((d.waitWake n).addCount pPwr 0x5C 1) := fun d => (hwait d).trans (Dev.steady_addCount _ (by decide) 1)
  unfold Dev.demand Dev.wakeDom
  refine .ite (.refl d) (.ite (.refl d) (.ite (d.steady_stkDemand _) (.ite (hwait d) (.ite ?_ (.ite (hcount d) (d.steady_startWake h))))))
  exact .trans (.ite (.refl d) (d.steady_startWake (by decide))) (hcount _)

theorem domain_unit (u : Nat) : (uPage u).domain < 0x10000 := by
  unfold uPage
  split
  · next h =>
    have hu : u < 0x2000 := h
    show u / 10 < 0x10000
    omega
  · split
    · next h =>
      have hu : u < 0x4000 := h
      show 80 + (4 * (u - 0x2000) + 1) / 4 < 0x10000
      omega
    · show 110 < 0x10000
      decide

theorem Dev.steady_feed (d : Dev) (u q : Nat) (cmds : List (List Byte)) (msg item : Nat) : d.Steady (d.feed u q cmds msg item) := by
  unfold Dev.feed
  extract_lets e
  have he : d.Steady e := .ite (.refl d) (d.steady_demand (domain_unit u))
  clear_value e
  exact (he.trans (Dev.steady_setHeld ..)).trans (Dev.steady_drainHeld ..)

theorem Dev.steady_engIssue (d : Dev) (p s cmd : Nat) (phys : Bool) : d.Steady (d.engIssue p s cmd phys).2 := by
  unfold Dev.engIssue
  extract_lets t w e
  have he : d.Steady e := .of_eq rfl rfl rfl rfl
  clear_value e
  exact he.trans (e.steady_feed ..)

theorem Dev.steady_rebindServing (d : Dev) (p : Nat) : d.Steady (d.rebindServing p) := by
  unfold Dev.rebindServing
  extract_lets j e1 e2 e3
  have h1 : d.Steady e1 := Dev.steady_foldl (fun e n _ => e.steady_bindServing n j) d
  clear_value e1
  have h2 : e1.Steady e2 := Dev.steady_foldl (fun e u _ => Dev.Steady.trans (.ite (e.steady_unbindQ u 0) (.refl e)) (Dev.steady_bindQ ..)) e1
  clear_value e2
  have h3 : e2.Steady e3 := e2.steady_modJob ..
  clear_value e3
  exact (h1.trans (h2.trans h3)).trans (Dev.steady_foldl (fun e c _ => e.steady_feed ..) _)

/-! ### Pages of the pool (09, R183–R188) -/

theorem Dev.steady_putEntry (d : Dev) (a v : Nat) : d.Steady (d.putEntry a v) := d.steady_writeMem ..

theorem Dev.steady_dropLeafGo (p pva l f : Nat) (d : Dev) (t : Nat) : d.Steady (Dev.dropLeafGo p pva l f d t) := by
  induction f generalizing d t with
  | zero => exact d.steady_putEntry ..
  | succ f ih =>
    unfold Dev.dropLeafGo
    extract_lets a w e
    split
    · exact d.steady_putEntry ..
    · split
      · have he : d.Steady e := ih ..
        clear_value e
        split
        · exact (he.trans (e.steady_putEntry ..)).trans (Dev.steady_modPx _ p fun _ => rfl)
        · exact he
      · exact .refl d

theorem Dev.steady_dropLeaf (d : Dev) (p pva l : Nat) : d.Steady (d.dropLeaf p pva l) := Dev.steady_dropLeafGo ..

theorem Dev.steady_subHolder (d : Dev) (p k : Nat) : d.Steady (d.subHolder p k) := d.steady_modPx p fun _ => rfl

theorem Dev.steady_unmapPages (d : Dev) (p : Nat) (pages : List (Nat × Nat)) (region sregion : Nat) (w16 : Bool) (req : Option Nat) (step : Nat) :
    d.Steady (d.unmapPages p pages region sregion w16 req step) := by
  unfold Dev.unmapPages
  split
  · exact .refl d
  · extract_lets e1
    have h1 : d.Steady e1 := Dev.steady_foldl (fun e g _ => by
      extract_lets a b
      have ha : e.Steady a := e.steady_dropLeaf ..
      clear_value a
      have hb : a.Steady b := .ite (.refl a) (a.steady_dropLeaf ..)
      clear_value b
      exact (ha.trans hb).trans (b.steady_subHolder ..)) d
    clear_value e1
    refine h1.trans ?_
    split
    next id e2 he =>
    have h2 : e1.Steady e2 := by
      cases he
      exact .of_eq rfl rfl rfl rfl
    exact h2.trans (e2.steady_modPx p fun _ => rfl)

theorem Dev.steady_modRx (d : Dev) (i : Nat) (f : ReqX → ReqX) : d.Steady (d.modRx i f) := .of_eq rfl rfl rfl rfl

theorem Dev.steady_releasePages (d : Dev) (p i : Nat) (f : Nat → Bool) : d.Steady (d.releasePages p i f) := (d.steady_modRx i _).trans (Dev.steady_unmapPages ..)

theorem Dev.steady_setHrec (d : Dev) (p i v : Nat) : d.Steady (d.setHrec p i v) := by
  unfold Dev.setHrec
  split
  · exact d.steady_writeMem ..
  · exact .refl d

theorem Dev.steady_detach (d : Dev) (p i : Nat) : d.Steady (d.detach p i) := by
  unfold Dev.detach
  split
  · exact .refl d
  · exact (d.steady_setHrec ..).trans (Dev.steady_modRx ..)

/-! ### Adapters (10, R212) -/

theorem Dev.steady_adpBind (d : Dev) (p slot ver : Nat) (f : Nat → Nat) : d.Steady (d.adpBind p slot ver f) := d.steady_modPx p fun _ => rfl

theorem Dev.steady_adpPlace {d e : Dev} {p slot src bytes : Nat} (h : d.adpPlace p slot src bytes = some e) : d.Steady e := by
  unfold Dev.adpPlace at h
  extract_lets units at h
  split at h
  · cases h
  · extract_lets dst at h
    split at h
    next tags f hx =>
    have hf : d.Steady f := Dev.steady_foldl_snd hx fun a r => a.2.steady_engIssue ..
    cases h
    exact hf.trans (f.steady_modPx p fun _ => rfl)

theorem Dev.steady_adpSweep (d : Dev) (p : Nat) : d.Steady (d.adpSweep p) := by
  unfold Dev.adpSweep
  extract_lets dead e
  have he : d.Steady e := d.steady_modPx p fun _ => rfl
  clear_value e
  refine .ite (.refl d) (he.trans (Dev.steady_foldl (fun f w _ => ?_) _))
  split
  · exact .refl f
  · next g hg => exact (Dev.steady_adpPlace hg).trans (g.steady_modPx p fun _ => rfl)

/-! ### Records and the end of a request (09, R195–R199) -/

theorem Dev.steady_recBytes (d : Dev) (c : Rec) : d.Steady (d.recBytes c).2 := by
  unfold Dev.recBytes
  cases c.attach
  · exact d.steady_takeFree
  · exact .refl d

theorem Dev.steady_sendRecords (d : Dev) (p batch step e : Nat) (l : List Rec) : d.Steady (d.sendRecords p batch step e l) := by
  unfold Dev.sendRecords
  split
  next f l' hglue =>
  have hf : d.Steady f := by
    cases hglue
    exact .of_eq rfl rfl rfl rfl
  refine hf.trans (.ite (.refl f) ?_)
  split
  next bs g hfold =>
  have hg : f.Steady g := Dev.steady_foldl_snd hfold fun a c => a.2.steady_recBytes c
  exact hg.trans (g.sendsOnly_sendUp _).steady

theorem Dev.steady_publishLost (d : Dev) (p i : Nat) : d.Steady (d.publishLost p i) := by
  unfold Dev.publishLost
  extract_lets l e
  have he : d.Steady e := d.steady_modPx p fun _ => rfl
  clear_value e
  exact he.trans (Dev.steady_foldl (fun f b _ => f.steady_post ..) _)

theorem Dev.steady_endReq (d : Dev) (p i state cause : Nat) : d.Steady (d.endReq p i state cause) := by
  unfold Dev.endReq
  extract_lets r e1 e2
  have h2 : d.Steady e2 := .of_eq rfl rfl rfl rfl
  clear_value e2
  exact (((h2.trans (e2.steady_detach ..)).trans (Dev.steady_publishLost ..)).trans (Dev.steady_modRx ..)).trans (Dev.steady_releasePages ..)

theorem Dev.steady_freeEnded (d : Dev) (p : Nat) : d.Steady (d.freeEnded p) := by
  unfold Dev.freeEnded
  refine .trans (Dev.steady_foldl (fun e i _ => ?_) d) (Dev.steady_adpSweep ..)
  extract_lets r f
  have hf : e.Steady f := .ite (e.steady_adpBind ..) (.refl e)
  clear_value f
  exact hf.trans (.of_eq rfl rfl rfl rfl)

theorem Dev.steady_endNow (d : Dev) (p i state cause code : Nat) : d.Steady (d.endNow p i state cause code) :=
  ((d.steady_endReq ..).trans (Dev.steady_sendRecords ..)).trans (Dev.steady_freeEnded ..)

/-! ### Units that retire, and the march of a cluster (05, R95–R99; 17, R376) -/

theorem Dev.steady_noteRec (d : Dev) : d.Steady d.noteRec := by
  unfold Dev.noteRec Dev.writeRec
  split
  · exact .refl d
  · exact .of_eq rfl rfl rfl rfl

theorem Dev.steady_unitRetired (d : Dev) (owner kind unit sub : Nat) (reason : Option Nat) (moved lost : Nat) : d.Steady (d.unitRetired owner kind unit sub reason moved lost) :=
  ((d.steady_takeFree.trans (Dev.steady_noteRec _)).trans (Dev.steady_record ..)).trans (.ite (.refl _) (Dev.steady_record ..))

theorem Dev.steady_voidUnit (d : Dev) (n : Nat) : d.Steady (d.voidUnit n) := .ite (d.steady_voidProgs ..) (.refl d)

theorem Dev.steady_retireCluster (d : Dev) (n : Nat) (reason : Option Nat) : d.Steady (d.retireCluster n reason) := by
  unfold Dev.retireCluster
  split
  · cases reason
    · exact .refl d
    · exact .of_eq rfl rfl rfl rfl
  · extract_lets js e
    have he : d.Steady e := Dev.steady_foldl (fun e j _ => e.steady_jobStop ..) d
    clear_value e
    refine he.trans (.trans (b := e.modClu n fun c => { c with retired := true }) (.of_eq rfl rfl rfl rfl) ?_)
    exact ((Dev.steady_setSt _ stRetired (not_head_clu _ _)).trans (Dev.steady_unitRetired ..)).trans (Dev.steady_voidUnit ..)

theorem Dev.steady_takeSpare (d : Dev) (n r : Nat) : d.Steady (d.takeSpare n r) :=
  .ite (.trans (b := d.modClu n fun c => { c with spares := c.spares ++ [r] }) (.of_eq rfl rfl rfl rfl) (Dev.steady_noteRec _)) (d.steady_retireCluster n none)

theorem Dev.steady_testFails (d : Dev) (n source : Nat) (l : List (Nat × Nat)) : d.Steady (d.testFails n source l) := by
  unfold Dev.testFails
  split
  · exact .refl d
  · extract_lets e1 e2
    have h1 : d.Steady e1 := d.steady_addSat (not_head_clu _ _) _ _ _
    clear_value e1
    have h2 : e1.Steady e2 := .ite (.refl _) (e1.steady_setReg (not_head_clu _ _) _)
    clear_value e2
    exact (h1.trans h2).trans (Dev.steady_foldl (fun e r _ => e.steady_takeSpare ..) _)

theorem Dev.steady_zeroRange (d : Dev) (a n : Nat) : d.Steady (d.zeroRange a n) := .of_eq rfl rfl rfl rfl

theorem Dev.steady_rereadWords (d : Dev) (a n : Nat) : d.Steady (d.rereadWords a n) := Dev.steady_foldl (fun e u _ => (e.access_noteErr u).steady) d

theorem Dev.steady_endMarch (d : Dev) (n : Nat) (fails : List (Nat × Nat)) : d.Steady (d.endMarch n fails) := by
  have hbit : ∀ (e : Dev) (off i : Nat) (b : Bool), e.Steady (e.setBit (pClu n) off i b) := fun e off i b => e.steady_setBit (not_head_clu _ _) i b
  unfold Dev.endMarch
  split
  · exact .refl d
  · extract_lets p e1 e2 e3 e4
    have h1 : d.Steady e1 := .ite (d.steady_rereadWords ..) (d.steady_zeroRange ..)
    clear_value e1
    have h2 : e1.Steady e2 := .of_eq rfl rfl rfl rfl
    clear_value e2
    have h3 : e2.Steady e3 := ((hbit ..).trans (hbit ..)).trans (hbit ..)
    clear_value e3
    have h4 : e3.Steady e4 := .ite (.refl _) (hbit ..)
    clear_value e4
    exact ((h1.trans h2).trans (h3.trans h4)).trans (e4.steady_testFails ..)

theorem Dev.steady_startMarch (d : Dev) (n : Nat) (preserving : Bool) (mask : Nat) : d.Steady (d.startMarch n preserving mask) :=
  (d.steady_setBit (not_head_clu _ _) _ _).trans (.of_eq rfl rfl rfl rfl)

theorem Dev.steady_scrubMarch (d : Dev) (n : Nat) (fails : List (Nat × Nat)) : d.Steady (d.scrubMarch n fails) :=
  .ite ((d.steady_startMarch ..).trans (Dev.steady_endMarch ..)) (d.steady_zeroRange ..)

theorem Dev.steady_wipeSecure (d : Dev) {n : Nat} (hn : n < 800) : d.Steady (d.wipeSecure n) := (d.wipes_wipeSecure hn).steady

theorem Dev.steady_writeSecure (d : Dev) (r : Role) {n : Nat} (hn : n < 800) (v : Word) : d.Steady (d.writeSecure r n v) := by
  unfold Dev.writeSecure
  split
  · exact d.steady_setEvent ..
  · extract_lets old new
    exact .ite (.refl d) ((d.steady_setReg (not_head_clu _ _) _).trans (Dev.steady_wipeSecure _ hn))

/-- The clusters of a partition are those of the device. -/
theorem lt_of_mem_ptnClusters {d : Dev} {p n : Nat} (h : n ∈ d.ptnClusters p) : n < 800 := List.mem_range.1 (List.mem_filter.1 h).1

/-! ### What is taken of a partition (16, R344–R346) -/

theorem Dev.steady_refuseScrub (d : Dev) (m : WorkMsg) : d.Steady (d.refuseScrub m) :=
  .trans (b := { d with work := d.work.filter fun x => x.id ≠ m.id }) (.of_eq rfl rfl rfl rfl) (Dev.sendsOnly_sendUp _ _).steady

theorem Dev.steady_dropServing (d : Dev) (p : Nat) : d.Steady (d.dropServing p) := by
  unfold Dev.dropServing
  extract_lets e1 e2 waiting e3 e4
  have h2 : d.Steady e2 := (d.steady_dropStep p).trans (Dev.steady_foldl (fun e i _ => e.steady_publishLost ..) _)
  clear_value e2
  have h3 : e2.Steady e3 := .of_eq rfl rfl rfl rfl
  clear_value e3
  have h4 : e3.Steady e4 := .of_eq rfl rfl rfl rfl
  clear_value e4
  refine (h2.trans (h3.trans h4)).trans (Dev.steady_foldl (fun e i _ => ?_) _)
  exact .of_eq rfl rfl rfl rfl

/-! ### What a partition is given (16, R332) -/

theorem Dev.steady_makeServing (d : Dev) (p j : Nat) : d.Steady (d.makeServing p j) :=
  (d.steady_setJob ..).trans (.of_modPx (Dev.steady_rebindServing ..) fun _ => rfl)

theorem Dev.steady_drawSalt (d : Dev) (p : Nat) : d.Steady (d.drawSalt p) := by
  have hfree := d.steady_takeFree
  unfold Dev.drawSalt
  generalize d.takeFree = x at hfree ⊢
  exact hfree.trans (x.2.steady_modPx p fun _ => rfl)

theorem Dev.steady_random (d : Dev) (n : Nat) : d.Steady (d.random n).2 := by
  unfold Dev.random
  exact .of_eq rfl rfl rfl rfl

theorem Dev.steady_secureClusters (d : Dev) (p : Nat) : d.Steady (d.secureClusters p) := by
  unfold Dev.secureClusters Dev.each
  refine Dev.steady_foldl (fun e n hn => ?_) d
  exact e.steady_writeSecure _ (lt_of_mem_ptnClusters hn) _

theorem Dev.steady_extendMeas (d : Dev) (p : Nat) (l : List Byte) : d.Steady (d.extendMeas p l) := by
  unfold Dev.extendMeas Dev.setRegBytes
  refine Dev.steady_foldl (fun e k hk => e.steady_setReg (not_head_off _ ?_) _) d
  have hlt : k < 16 := List.mem_range.1 hk
  omega

/-! ### What an idle ao-cycle meets (11, R229; 17, R368) -/

theorem Dev.steady_parkOnsets (d : Dev) (l : List Nat) : d.Steady (d.each l Dev.parkOnset) := Dev.steady_foldl (fun e p _ => e.steady_parkOnset p) d

/-- The loss of a partition's key takes no time. -/
theorem Dev.ao_keyLost (d : Dev) (p : Nat) : (d.keyLost p).ao = d.ao := by
  unfold Dev.keyLost
  split
  · rfl
  · extract_lets g e1 e2 e3
    have h1 : d.Steady e1 := Dev.steady_foldl (fun e j _ => e.steady_jobAbortAll ..) d
    clear_value e1
    have h2 : e1.Steady e2 := e1.steady_dropStep p
    clear_value e2
    have h3 : e2.Steady e3 := Dev.steady_foldl (fun e r _ => e.steady_endNow ..) e2
    clear_value e3
    have hregs : e3.RegsOnly ((e3.fault g cKeyLost p).setSt g stFaulted) := (e3.regsOnly_fault ..).trans (Dev.regsOnly_setSt ..)
    have hao : ((e3.fault g cKeyLost p).setSt g stFaulted).ao = e3.ao := by rw [hregs]
    exact hao.trans (h3.ao.trans (h2.ao.trans h1.ao))

theorem Dev.ao_keyErrors (d : Dev) : d.keyErrors.ao = d.ao := by
  unfold Dev.keyErrors
  refine Dev.foldl_holds (P := fun e => e.ao = d.ao) (fun e a _ he => ?_) rfl
  split
  · next p =>
    rw [Dev.ao_keyLost]
    refine (Dev.steady_foldl (fun f _ hn => f.steady_wipeSecure (lt_of_mem_ptnClusters hn)) _).ao.trans ?_
    exact he
  · exact he

/-! ### An idle ao-cycle (20, R433) -/

/-- Every part of a unit under write lands. -/
theorem Dev.torn_landTorn_all (d : Dev) : (d.landTorn fun _ => true).torn = [] := by
  unfold Dev.landTorn
  split
  · next h => exact List.isEmpty_iff.1 h
  · refine Dev.foldl_holds (P := fun e => e.torn = []) (fun e t _ he => (e.torn_setRawBytes ..).trans he) ?_
    simp

theorem Dev.voids_parkOnset (d : Dev) (p : Nat) : d.Voids (d.parkOnset p) := by
  unfold Dev.parkOnset
  split
  · exact .refl d
  · split
    · exact .refl d
    · exact .ite (d.voids_voidOn ..) (.refl d)

/-- The device in which an ao-cycle has passed and every part of a unit has landed. -/
def Dev.ticked (d : Dev) : Dev := { d.landTorn (fun _ => true) with ao := d.ao + 1 }

theorem Dev.tick_eq (d : Dev) : d.tick = (d.ticked.each (d.ticked.ptnx.map Prod.fst) Dev.parkOnset).keyErrors := rfl

theorem Dev.ao_tick (d : Dev) : d.tick.ao = d.ao + 1 := (Dev.ao_keyErrors _).trans (Dev.steady_parkOnsets _ _).ao

theorem Dev.torn_tick {d : Dev} (h : d.sram = []) : d.tick.torn = [] := by
  have hpark : d.ticked.Voids (d.ticked.each (d.ticked.ptnx.map Prod.fst) Dev.parkOnset) := Dev.voids_foldl (fun e p _ => e.voids_parkOnset p) _
  have hsram : d.ticked.sram = [] := by
    have hland := d.bytesOnly_landTorn fun _ => true
    have hkeeps : (d.landTorn fun _ => true).sram = d.sram := by rw [hland]
    exact hkeeps.trans h
  rw [Dev.tick_eq, Dev.keyErrors]
  generalize d.ticked.each (d.ticked.ptnx.map Prod.fst) Dev.parkOnset = e at hpark ⊢
  have hsram' : e.sram = [] := by rw [hpark.only, hsram]
  have htorn : e.torn = d.ticked.torn := by rw [hpark.only]
  rw [hsram']
  exact htorn.trans d.torn_landTorn_all

/-- A partition without a step running has no onset. -/
theorem Dev.parkOnset_none {d : Dev} {p : Nat} (h : (d.px p).step = none) : d.parkOnset p = d := by
  unfold Dev.parkOnset
  rw [h]

theorem mem_of_tget?_some {α : Type} {l : Tbl α} {k : Nat} {x : α} (h : tget? l k = some x) : (k, x) ∈ l := by
  induction l with
  | nil => cases h
  | cons y l ih =>
    rw [tget?] at h
    split at h
    · next hk =>
      cases h
      rw [hk]
      exact List.mem_cons_self ..
    · exact List.mem_cons_of_mem _ (ih h)

theorem Dev.tick_idle {d : Dev} (htorn : d.torn = []) (hsram : d.sram = []) (hstep : ∀ e ∈ d.ptnx, e.2.step = none) : d.tick = { d with ao := d.ao + 1 } := by
  have hland : (d.landTorn fun _ => true) = d := if_pos (by rw [htorn]; rfl)
  have hticked : d.ticked = { d with ao := d.ao + 1 } := by rw [Dev.ticked, hland]
  have hnone : ∀ p, (d.ticked.px p).step = none := fun p => by
    rw [hticked]
    show (tgetD d.ptnx p {}).step = none
    rw [tgetD]
    cases hx : tget? d.ptnx p with
    | none => rfl
    | some x => exact hstep _ (mem_of_tget?_some hx)
  have hpark : d.ticked.each (d.ticked.ptnx.map Prod.fst) Dev.parkOnset = d.ticked :=
    Dev.foldl_holds (P := fun e => e = d.ticked) (fun e p _ he => by rw [he, Dev.parkOnset_none (hnone p)]) rfl
  rw [Dev.tick_eq, hpark, Dev.keyErrors, hticked]
  dsimp only
  rw [hsram]
  rfl

end Sys2Proof.Machine

namespace Sys2Proof.Proofs
open Sys2Proof Sys2Proof.Machine

/-- Settles O2: the parts that land, the onsets of held tiles and the errors of weight keys take no time of their own. -/
theorem idleStepPassesOneAoCycle : Obligations.IdleStepPassesOneAoCycle :=
  fun d => ⟨⟨_, rfl, rfl, d.ao_tick, Dev.torn_tick⟩, fun htorn hsram hstep => congrArg (fun e => Host.Outcome.next (State.mk e [])) (Dev.tick_idle htorn hsram hstep)⟩

end Sys2Proof.Proofs

/-! SUPPORT. Partitions that are created, released and scrubbed (16, R331, R332, R344–R346): what a new partition reads, what a release leaves, what the end of a scrub frees; and the statement about them. -/

namespace Sys2Proof.Machine

/-! ### Pages that are given and freed -/

theorem Dev.RegsOnly.inOps {d d' : Dev} (h : d.RegsOnly d') : d'.inOps = d.inOps := by rw [h]

theorem Dev.inOps_wipeSecure (d : Dev) (n : Nat) : (d.wipeSecure n).inOps = d.inOps := by
  unfold Dev.wipeSecure
  split
  · rfl
  · extract_lets e
    have he : e.inOps = d.inOps := by
      unfold e
      split <;> rfl
    clear_value e
    exact (Dev.regsOnly_setBit (e.zeroRange (bufBase n + 0xFC000) 0x4000) (pClu n) 0x400 13 true).inOps.trans he

theorem Dev.inOps_svcZero (d : Dev) (g : Page) : (d.svcZero g).inOps = d.inOps := by
  unfold Dev.svcZero
  split <;> rfl

theorem Dev.inOps_setSt (d : Dev) (p : Page) (v : Nat) : (d.setSt p v).inOps = d.inOps := (d.regsOnly_setSt p v).inOps

theorem Dev.inOps_givePage (d : Dev) (p : Nat) (run : Bool) (g : Page) : (d.givePage p run g).inOps = d.inOps := by
  unfold Dev.givePage
  extract_lets changed e1 e2 e3 e4
  have h2 : e2.inOps = d.inOps := by
    unfold e2
    split
    · exact (e1.inOps_svcZero g).trans rfl
    · rfl
  have h3 : e3.inOps = e2.inOps := by
    unfold e3
    split
    · exact e2.inOps_wipeSecure _
    · rfl
  have h4 : e4.inOps = e3.inOps := (e3.regsOnly_setBit g 0x08 0 true).inOps
  split
  · exact h3.trans h2
  · split
    · exact (e4.inOps_setSt ..).trans (h4.trans (h3.trans h2))
    · exact h4.trans (h3.trans h2)

theorem Dev.inOps_freePage (d : Dev) (g : Page) : (d.freePage g).inOps = d.inOps := by
  unfold Dev.freePage
  extract_lets e
  have he : e.inOps = d.inOps := (Dev.inOps_svcZero _ g).trans rfl
  have hport : ∀ v, (e.setPortSt g.n v).inOps = e.inOps := fun v => by
    unfold Dev.setPortSt
    extract_lets old
    split
    · rfl
    · exact (e.inOps_setSt ..)
  clear_value e
  split
  · exact (e.inOps_setSt ..).trans he
  · split
    · exact (e.inOps_setSt ..).trans he
    · split
      · split
        · exact (hport _).trans he
        · exact (e.inOps_setSt ..).trans he
      · exact he

/-- The partition's own page is given last of all. -/
theorem Dev.owner_givePage_ptn (d : Dev) {p : Nat} (hp : p < 24) : (d.givePage p false (pPtn p)).owner (pPtn p) = p := by
  have hset : (d.setF (pPtn p) 0x24 7 0 p).owner (pPtn p) = p := (d.getF_setF_same _ _ _ (by decide)).trans (Nat.mod_eq_of_lt (by omega))
  unfold Dev.givePage
  simp only [Dev.svcZero, Bool.not_false, if_true]
  simp [hset]

theorem Dev.st_freePage_ptn (d : Dev) (p : Nat) : (d.freePage (pPtn p)).st (pPtn p) = psFree := by
  unfold Dev.freePage
  exact Dev.st_setSt _ _ (by decide)

/-! ### Creation (R332) -/

/-- Registers of a PTN page beyond its header are written, and nothing else. -/
def Dev.HeaderKept (p : Nat) (d e : Dev) : Prop := d.RegsOnly e ∧ ∀ o < 0x40, e.reg (pPtn p) o = d.reg (pPtn p) o

theorem Dev.HeaderKept.setReg {p : Nat} {d e : Dev} (h : d.HeaderKept p e) {off : Nat} (hoff : 0x40 ≤ off) (v : Word) : d.HeaderKept p (e.setReg (pPtn p) off v) :=
  ⟨h.1.trans (e.regsOnly_setReg ..), fun o ho => (Dev.reg_setReg_ne _ _ (by omega)).trans (h.2 o ho)⟩

theorem Dev.HeaderKept.setRegBytes {p : Nat} {d e : Dev} (h : d.HeaderKept p e) {off : Nat} (hoff : 0x40 ≤ off) (n : Nat) (bs : List Byte) : d.HeaderKept p (e.setRegBytes (pPtn p) off n bs) :=
  Dev.foldl_holds (P := d.HeaderKept p) (fun _ k _ hf => hf.setReg (by omega) _) h

theorem Dev.headerKept_ptnRegs (d : Dev) (p : Nat) (l : List Byte) : d.HeaderKept p (d.ptnRegs p l) := by
  have h0 : d.HeaderKept p d := ⟨.refl d, fun _ _ => rfl⟩
  unfold Dev.ptnRegs
  extract_lets g e1 e2 e3 e4 e5 e6
  have h1 : d.HeaderKept p e1 := h0.setReg (by decide) _
  clear_value e1
  have h2 : d.HeaderKept p e2 := h1.setReg (by decide) _
  clear_value e2
  have h3 : d.HeaderKept p e3 := ((h2.setReg (by decide) _).setReg (by decide) _).setReg (by decide) _
  clear_value e3
  have h4 : d.HeaderKept p e4 := h3.setReg (by decide) _
  clear_value e4
  have h5 : d.HeaderKept p e5 := (h4.setReg (by decide) _).setReg (by decide) _
  clear_value e5
  have h6 : d.HeaderKept p e6 := h5.setReg (by decide) _
  clear_value e6
  exact (h6.setRegBytes (by decide) 32 _).setRegBytes (by decide) 64 _

theorem Dev.inOps_givePages (d : Dev) (p : Nat) (l : List (Nat × Nat × List Page)) :
    (l.foldl (fun (d : Dev) u => u.2.2.foldl (Dev.givePage · p (u.1 ≠ 0x14)) d) d).inOps = d.inOps :=
  Dev.foldl_holds (P := fun f => f.inOps = d.inOps) (fun _ _ _ hf => Dev.foldl_holds (P := fun f => f.inOps = d.inOps) (fun f _ _ hf => (f.inOps_givePage ..).trans hf) hf) rfl

/-- What the end of INIT writes on a page. -/
theorem Dev.leaveInit_reads (d : Dev) (p : Page) : (d.leaveInit p).owner p = d.owner p := by
  have hregs := (Dev.sameRegsBut_setSt ((d.setBit p 0x08 2 false).setSt p stReady) p (((d.setBit p 0x08 2 false).setSt p stReady).runState p)).trans
    ((Dev.sameRegsBut_setSt (d.setBit p 0x08 2 false) p stReady).trans (d.sameRegsBut_setBit p 0x08 2 false))
  exact congrArg (wfld · 7 0) (hregs.reg (by decide))

/-- The pages of a checked body go to the partition, whose PTN page reads it. -/
def Dev.pagesTaken (d : Dev) (p : Nat) (l : List Byte) : Dev :=
  ((((cbPages l).foldl (fun (d : Dev) u => u.2.2.foldl (Dev.givePage · p (u.1 ≠ 0x14)) d) (d.setSt (pPtn p) stInit)).givePage p false (pKvp p)).givePage p false (pPtn p)).ptnRegs p l

theorem Dev.pagesTaken_reads (d : Dev) (p : Nat) (l : List Byte) : (d.pagesTaken p l).inOps = d.inOps ∧ (p < 24 → (d.pagesTaken p l).owner (pPtn p) = p) := by
  obtain ⟨hregs, hhead⟩ := Dev.headerKept_ptnRegs ((((cbPages l).foldl (fun (d : Dev) u => u.2.2.foldl (Dev.givePage · p (u.1 ≠ 0x14)) d) (d.setSt (pPtn p) stInit)).givePage p false (pKvp p)).givePage
    p false (pPtn p)) p l
  refine ⟨?_, fun hp => (congrArg (wfld · 7 0) (hhead 0x24 (by decide))).trans (Dev.owner_givePage_ptn _ hp)⟩
  rw [Dev.pagesTaken, hregs.inOps, Dev.inOps_givePage, Dev.inOps_givePage, Dev.inOps_givePages, Dev.inOps_setSt]

/-- The root of its tables stands empty, and nothing is known of it but its body. -/
def Dev.rootPlaced (d : Dev) (p : Nat) (l : List Byte) : Dev :=
  ((d.zeroRange (d.xaBase p) 4096).setPx p { tables := [(d.xaBase p, 4096)], body := l }).setPair (pPtn p) 0x200 0x204 (d.xaBase p)

theorem Dev.rootPlaced_reads (d : Dev) (p : Nat) (l : List Byte) :
    ((d.rootPlaced p l).px p).body = l ∧ (d.rootPlaced p l).inOps = d.inOps ∧ (d.rootPlaced p l).owner (pPtn p) = d.owner (pPtn p) := by
  unfold Dev.rootPlaced
  generalize d.xaBase p = xa
  refine ⟨congrArg PtnX.body (tgetD_tput_same ..), rfl, congrArg (wfld · 7 0) ?_⟩
  exact (Dev.reg_setReg_ne _ _ (by omega)).trans ((Dev.reg_setReg_ne _ _ (by omega)).trans rfl)

/-- The partition is given its serving job, its salt and its keys, and leaves INIT. -/
def Dev.ptnStands (d : Dev) (p j : Nat) (l : List Byte) : Dev :=
  let d := ((d.makeServing p j).drawSalt p).setBit (pKvp p) 0x40 17 (4 < (cbStacks l).length)
  let d := if cbSealed l then
      let (k, d) := d.random 64
      ({ d with wkeys := tput d.wkeys p (leNat k) } : Dev).secureClusters p
    else d
  let d := (d.extendMeas p (leBytes 1 1 ++ l)).clockCause
  (d.leaveInit (pPtn p)).record 0xFF 0x01C3 (leBytes 1 p ++ leBytes 1 (if cbSealed l then 1 else 0))

theorem Dev.ptnStands_reads (d : Dev) (p j : Nat) (l : List Byte) :
    ((d.ptnStands p j l).px p).body = (d.px p).body ∧ (d.ptnStands p j l).inOps = d.inOps ∧ (p < 24 → (d.ptnStands p j l).owner (pPtn p) = d.owner (pPtn p)) := by
  unfold Dev.ptnStands
  extract_lets e6 e7 e8
  have h6 : d.Steady e6 := ((d.steady_makeServing p j).trans (Dev.steady_drawSalt ..)).trans (Dev.steady_setBit _ (not_head_off _ (by decide)) _ _)
  clear_value e6
  have h7 : e6.Steady e7 := by
    have hrandom := e6.steady_random 64
    unfold e7
    split
    · split
      next k f hx =>
      rw [hx] at hrandom
      exact hrandom.trans (.trans (b := { f with wkeys := tput f.wkeys p (leNat k) }) (.of_eq rfl rfl rfl rfl) (Dev.steady_secureClusters ..))
    · exact .refl _
  clear_value e7
  have h8 : e7.Steady e8 := (e7.steady_extendMeas ..).trans (Dev.steady_clockCause _)
  clear_value e8
  have hall : d.Steady e8 := h6.trans (h7.trans h8)
  have hregs := e8.regsOnly_leaveInit (pPtn p)
  refine ⟨?_, hregs.inOps.trans hall.inOps, fun hp => (e8.leaveInit_reads _).trans (congrArg (wfld · 7 0) (hall.reg (by simp only [Page.base]; omega)))⟩
  have hpx : (e8.leaveInit (pPtn p)).px p = e8.px p := by rw [Dev.px, Dev.px, hregs.ptnx]
  exact (congrArg PtnX.body hpx).trans (hall.body p)

theorem Dev.createPtn_eq (d : Dev) (l : List Byte) : ∃ j, d.createPtn l = ((d.pagesTaken (cbPtn (bytesAt l 0 80)) (bytesAt l 0 80)).rootPlaced (cbPtn (bytesAt l 0 80)) (bytesAt l 0 80)).ptnStands
    (cbPtn (bytesAt l 0 80)) j (bytesAt l 0 80) := ⟨_, rfl⟩

/-- A new partition: its body, its owner, and the accesses under way. -/
theorem Dev.createPtn_reads (d : Dev) (l : List Byte) :
    ((d.createPtn l).px (cbPtn (bytesAt l 0 80))).body = bytesAt l 0 80 ∧ (d.createPtn l).inOps = d.inOps ∧
    (cbPtn (bytesAt l 0 80) < 24 → (d.createPtn l).owner (pPtn (cbPtn (bytesAt l 0 80))) = cbPtn (bytesAt l 0 80)) := by
  obtain ⟨j, heq⟩ := d.createPtn_eq l
  rw [heq]
  generalize bytesAt l 0 80 = b
  obtain ⟨hpages, howner⟩ := d.pagesTaken_reads (cbPtn b) b
  obtain ⟨hroot, hroot', hroot''⟩ := (d.pagesTaken (cbPtn b) b).rootPlaced_reads (cbPtn b) b
  obtain ⟨hstands, hstands', hstands''⟩ := ((d.pagesTaken (cbPtn b) b).rootPlaced (cbPtn b) b).ptnStands_reads (cbPtn b) j b
  exact ⟨hstands.trans hroot, hstands'.trans (hroot'.trans hpages), fun hp => (hstands'' hp).trans (hroot''.trans (howner hp))⟩

/-! ### Release (R344, R345) -/

/-- A stack's seals and saved transfers go, and a stack in self-refresh is asked for. -/
theorem Dev.access_scrubStack (d : Dev) (s : Nat) :
    d.Access (let e := d.modStk s fun x => { x with sealMap := [], saved := [] }; if e.dom (80 + s) = dsSelf then e.stkDemand s else e) := by
  extract_lets e
  have he : d.Access e := ⟨rfl, fun _ _ => rfl⟩
  exact he.trans (.ite (e.access_stkDemand s) (.refl e))

/-- A release leaves the partition SCRUBBING, with its body and without its key. -/
theorem Dev.startScrub_reads (d : Dev) {p : Nat} (hp : p < 24) :
    (d.startScrub p).px p = { body := (d.px p).body } ∧ tget? (d.startScrub p).wkeys p = none ∧ (d.startScrub p).st (pPtn p) = psScrubbing := by
  unfold Dev.startScrub
  extract_lets g e1 e2 e3
  have hst : e1.st (pPtn p) = psScrubbing := Dev.st_setSt d (pPtn p) (by decide)
  have hbody1 : (e1.px p).body = (d.px p).body := by
    have hpx : (d.setSt g psScrubbing).ptnx = d.ptnx := (d.regsOnly_setSt g psScrubbing).ptnx
    exact congrArg (fun x => (tgetD x p {}).body) hpx
  clear_value e1
  have h2 : e1.Steady e2 := .of_eq rfl rfl rfl rfl
  clear_value e2
  have h3 : e2.Steady e3 := Dev.steady_foldl (fun e m _ => e.steady_refuseScrub m) e2
  clear_value e3
  split
  next sv js hpart =>
  extract_lets e4 e5 e6
  have h4 : e3.Steady e4 := Dev.steady_foldl (fun e j _ => e.steady_dropJob j) e3
  clear_value e4
  have h4' : e4.Steady (e4.dropServing p) := e4.steady_dropServing p
  have hall : e1.Steady (e4.dropServing p) := ((h2.trans h3).trans h4).trans h4'
  have hpx5 : e5.px p = { body := (e4.px p).body } := tgetD_tput_same ..
  have hst5 : e5.st (pPtn p) = (e4.dropServing p).st (pPtn p) := rfl
  clear_value e5
  have hpx6 : e6.px p = e5.px p := rfl
  have hst6 : e6.st (pPtn p) = e5.st (pPtn p) := rfl
  have hkeys6 : tget? e6.wkeys p = none := tget?_tdel_same ..
  clear_value e6
  have hstacks : e6.Access _ := Dev.access_foldl (fun e s _ => e.access_scrubStack s) (l := e6.ptnStacks p) e6
  refine ⟨?_, ?_, ?_⟩
  · have hpx : ∀ f : Dev, e6.Access f → f.px p = e6.px p := fun f hf => by rw [Dev.px, Dev.px, hf.only]
    rw [hpx _ hstacks, hpx6, hpx5, ← hbody1, ((h2.trans h3).trans h4).body p]
  · have hkeys : ∀ f : Dev, e6.Access f → f.wkeys = e6.wkeys := fun f hf => by rw [hf.only]
    exact (congrArg (tget? · p) (hkeys _ hstacks)).trans hkeys6
  · refine (congrArg (wfld · 3 0) (hstacks.steady.reg (p := pPtn p) (off := 0x0C) ?_)).trans (hst6.trans (hst5.trans ((congrArg (wfld · 3 0) (hall.reg (p := pPtn p) (off := 0x0C) ?_)).trans hst)))
    · simp only [Page.base]
      omega
    · simp only [Page.base]
      omega

/-! ### The end of a scrub (R346) -/

theorem filter_append_pair {α : Type} (l : List α) (f : α → Bool) {x y : α} (hy : f y = true) : (l ++ [x, y]).filter f = (l ++ [x]).filter f ++ [y] := by
  have hlast : [y].filter f = [y] := by simp [hy]
  rw [← hlast, ← List.filter_append, List.append_assoc, List.singleton_append, hlast]

/-- The partition's own page is the last of those it owns. -/
theorem Dev.ownedPages_last {d : Dev} {p : Nat} (h : d.owner (pPtn p) = p) : ∃ l, d.ownedPages p = l ++ [pPtn p] :=
  ⟨_, filter_append_pair _ (fun g => d.owner g = p) (decide_eq_true h)⟩

/-- The pages of a partition are freed, its own last. -/
theorem Dev.freePages_reads {d : Dev} {p : Nat} (h : d.owner (pPtn p) = p) :
    ((d.ownedPages p).foldl Dev.freePage d).st (pPtn p) = psFree ∧ ((d.ownedPages p).foldl Dev.freePage d).inOps = d.inOps := by
  obtain ⟨l, hl⟩ := Dev.ownedPages_last h
  have hin : (l.foldl Dev.freePage d).inOps = d.inOps := Dev.foldl_holds (P := fun e => e.inOps = d.inOps) (fun e g _ he => (e.inOps_freePage g).trans he) rfl
  rw [hl, List.foldl_append]
  exact ⟨Dev.st_freePage_ptn _ p, (Dev.inOps_freePage (l.foldl Dev.freePage d) (pPtn p)).trans hin⟩

/-- The registers of the freed page but its generation read 0. -/
theorem Dev.headerKept_cleared (d : Dev) (p : Nat) :
    d.HeaderKept p ((((List.range 24).map fun k => 0x40 + 4 * k) ++ (List.range 24).map fun k => 0xA0 + 4 * k).foldl (fun (d : Dev) o => if o < 0x100 && o ≠ 0x64 then d.setReg (pPtn p) o 0 else d) d) := by
  refine Dev.foldl_holds (P := d.HeaderKept p) (fun e o ho he => ?_) ⟨.refl d, fun _ _ => rfl⟩
  have hge : 0x40 ≤ o := by
    rcases List.mem_append.1 ho with h | h
    · obtain ⟨k, -, rfl⟩ := List.mem_map.1 h
      omega
    · obtain ⟨k, -, rfl⟩ := List.mem_map.1 h
      omega
  split
  · exact he.setReg hge 0
  · exact he

/-- The device whose partition `p` has been scrubbed and is free. -/
def Dev.ptnFreed (d : Dev) (p : Nat) (fails : List (Nat × Nat × Nat)) : Dev :=
  let g := pPtn p
  let d := (d.ptnStacks p).foldl (fun (d : Dev) s => d.zeroRange (stkBase s) (2 ^ 37)) d
  let d := (d.dropLines fun x => x.ptn = p).each (d.ptnClusters p) fun d n =>
    ((d.setReg (pClu n) 0x400 0).wipeSecure n).scrubMarch n ((fails.filter fun (x : Nat × Nat × Nat) => x.1 = n).map Prod.snd)
  let gen := d.reg g 0x64 + 1
  let d := (d.ownedPages p).foldl Dev.freePage d
  let d := (((List.range 24).map fun k => 0x40 + 4 * k) ++ (List.range 24).map fun k => 0xA0 + 4 * k).foldl (fun (d : Dev) o => if o < 0x100 && o ≠ 0x64 then d.setReg g o 0 else d) d
  (((d.setReg g 0x64 gen).setPair g 0x200 0x204 0).setReg g 0x3A4 0).setPx p {}

theorem Dev.ptnFreed_reads {d : Dev} {p : Nat} (hp : p < 24) (h : d.owner (pPtn p) = p) (fails : List (Nat × Nat × Nat)) :
    (d.ptnFreed p fails).st (pPtn p) = psFree ∧ (d.ptnFreed p fails).px p = {} ∧ (d.ptnFreed p fails).inOps = d.inOps := by
  unfold Dev.ptnFreed
  extract_lets g e1 e2 gen e3 e4
  have h1 : d.Steady e1 := Dev.steady_foldl (fun e s _ => e.steady_zeroRange ..) d
  clear_value e1 gen
  have h2 : e1.Steady e2 := .trans (b := e1.dropLines fun x => x.ptn = p) (.of_eq rfl rfl rfl rfl)
    (Dev.steady_foldl (fun e n hn => ((e.steady_setReg (not_head_clu _ _) 0).trans (Dev.steady_wipeSecure _ (lt_of_mem_ptnClusters hn))).trans (Dev.steady_scrubMarch ..)) _)
  clear_value e2
  have hall : d.Steady e2 := h1.trans h2
  have howner : e2.owner (pPtn p) = p := (congrArg (wfld · 7 0) (hall.reg (p := pPtn p) (off := 0x24) (by simp only [Page.base]; omega))).trans h
  obtain ⟨hst, hin⟩ : e3.st (pPtn p) = psFree ∧ e3.inOps = e2.inOps := Dev.freePages_reads howner
  clear_value e3
  have h4 : e3.HeaderKept p e4 := e3.headerKept_cleared p
  clear_value e4
  obtain ⟨hregs, hhead⟩ : e3.HeaderKept p ((((e4.setReg (pPtn p) 0x64 gen).setReg (pPtn p) 0x200 (BitVec.ofNat 32 0)).setReg (pPtn p) 0x204 (BitVec.ofNat 32 (0 / 2 ^ 32))).setReg (pPtn p) 0x3A4 0) :=
    (((h4.setReg (by decide) _).setReg (by decide) _).setReg (by decide) _).setReg (by decide) _
  exact ⟨(congrArg (wfld · 3 0) (hhead 0x0C (by decide))).trans hst, tgetD_tput_same .., hregs.inOps.trans (hin.trans hall.inOps)⟩

/-- SCRUB_DONE of a partition that is SCRUBBING with its stacks on frees it, and creates its successor. -/
theorem Dev.scrubDone_frees {d : Dev} {p : Nat} (hst : d.st (pPtn p) = psScrubbing) (hon : ∀ k ∈ d.ptnStacks p, d.dom (80 + k) = dsOn) (fails : List (Nat × Nat × Nat)) :
    ∃ l, d.scrubDone p fails = (match (d.px p).successor with | some b => (d.ptnFreed p fails).createPtn b | none => d.ptnFreed p fails).record 0xFF 0x01C2 l := by
  have hgo : ¬ (decide (d.st (pPtn p) ≠ psScrubbing) || !((d.ptnStacks p).all fun s => d.dom (80 + s) = dsOn)) = true := by
    have hall : ((d.ptnStacks p).all fun s => decide (d.dom (80 + s) = dsOn)) = true := List.all_eq_true.2 fun k hk => decide_eq_true (hon k hk)
    simp [hst, hall]
  exact ⟨_, if_neg hgo⟩

theorem Dev.scrubDone_stays {d : Dev} {p : Nat} (h : d.st (pPtn p) ≠ psScrubbing ∨ ∃ k ∈ d.ptnStacks p, d.dom (80 + k) ≠ dsOn) (fails : List (Nat × Nat × Nat)) : d.scrubDone p fails = d := by
  refine if_pos ?_
  rcases h with h | ⟨k, hk, h⟩
  · simp [h]
  · have hnot : ((d.ptnStacks p).all fun s => decide (d.dom (80 + s) = dsOn)) = false := List.all_eq_false.2 ⟨k, hk, by simpa using h⟩
    simp [hnot]

end Sys2Proof.Machine

namespace Sys2Proof.Proofs
open Sys2Proof Sys2Proof.Machine

/-- A partition that exists and is not SCRUBBING is released: it keeps its body, and takes the successor that passes its checks. -/
theorem ptnRelease_accepts {e : Dev} {i : Item} {k : Nat} (hk : k = numAt i.body 0 1) (hexists : e.ptnExists k = true) (hst : e.st (pPtn k) ≠ psScrubbing) {next : Bool} (hnext : bitOf (numAt i.body 1 1) 0 = next)
    (hcheck : (if next then e.createCheck (bytesAt i.body 0x40 80) (some k) else none) = none) :
    ∃ f : Dev, e.ptnRelease i = f.endItem i 0 0 ∧ f.px k = { body := (e.px k).body, successor := if next then some (bytesAt i.body 0x40 80) else none } ∧ tget? f.wkeys k = none ∧ f.st (pPtn k) = psScrubbing := by
  subst hk hnext
  have hlt : numAt i.body 0 1 < 24 := of_decide_eq_true (Bool.and_eq_true_iff.1 hexists).2
  obtain ⟨hpx, hkeys, hscrub⟩ := e.startScrub_reads hlt
  have hrun : e.ptnRelease i = ((e.startScrub (numAt i.body 0 1)).modPx (numAt i.body 0 1) fun x => { x with successor := if bitOf (numAt i.body 1 1) 0 then some (bytesAt i.body 0x40 80) else none }).endItem i 0 0 := by
    unfold Dev.ptnRelease
    extract_lets p next body
    rw [if_neg (by simp [p, hexists, hst])]
    rw [show (if next = true then e.createCheck body (some p) else none) = none from hcheck]
  refine ⟨_, hrun, ?_, hkeys, hscrub⟩
  rw [Dev.px_modPx_same, hpx]

/-- With no access held nothing is taken up again after a scrub. -/
theorem scrubDone_run (s : State) (p : Fin 24) (l : List (Fin 800 × Fin 32768 × Fin 288)) (h : (s.dev.scrubDone p (l.map fun f => (f.1.val, f.2.1.val, f.2.2.val))).inOps = []) :
    exec (.scrubDone ⟨p, l⟩) s = .next ⟨s.dev.scrubDone p (l.map fun f => (f.1.val, f.2.1.val, f.2.2.val)), s.pending⟩ := by
  refine s.upd_congr ?_
  dsimp only
  split
  · exact Dev.resume_idle h
  · rfl

/-- Settles O49: a creation and a release by their checks and by what they leave (`Dev.createPtn_reads`, `Dev.startScrub_reads`), the end of a scrub by `Dev.scrubDone_frees`. -/
theorem partitionsComeAndGo : Obligations.PartitionsComeAndGo := by
  refine ⟨fun s p i e hdue => ?create, fun s p i e k hdue hk => ?release, fun s p l => ⟨fun h => ?stays, fun hst howner hon hnone hin => ?frees, fun b hst howner hon hsucc hb hin => ?succeeds⟩⟩
  case create =>
    have hrun : exec (.ptnCreate p) s = .next ⟨e.ptnCreate i, s.pending⟩ := State.upd_serveItem_due hdue _
    refine ⟨fun c n hbad => hrun.trans (s.upd_congr ?_), fun xa hgood hxa hwait => hrun.trans (s.upd_congr ?_), fun hgood hready => ⟨e.createPtn i.body, hrun.trans (s.upd_congr ?_), (e.createPtn_reads i.body).1⟩⟩
    · unfold Dev.ptnCreate
      rw [hbad]
    · subst hxa
      unfold Dev.ptnCreate
      rw [hgood]
      exact if_pos (by rw [hwait]; rfl)
    · unfold Dev.ptnCreate
      rw [hgood]
      exact if_neg (by rw [hready]; decide)
  case release =>
    have hrun : exec (.ptnRelease p) s = .next ⟨e.ptnRelease i, s.pending⟩ := State.upd_serveItem_due hdue _
    refine ⟨fun h => hrun.trans (s.upd_congr ?_), fun hexists hst hnext => ?_, fun c n hexists hst hnext hbad => hrun.trans (s.upd_congr ?_), fun hexists hst hnext hgood => ?_⟩
    · subst hk
      exact if_pos (by rcases h with h | h <;> simp [h])
    · obtain ⟨f, hf, hreads⟩ := ptnRelease_accepts hk hexists hst hnext rfl
      exact ⟨f, hrun.trans (s.upd_congr hf), hreads⟩
    · subst hk
      unfold Dev.ptnRelease
      simp only [hexists, hst, hnext, hbad, Bool.not_true, decide_false, Bool.or_self, Bool.false_eq_true, if_false, if_true]
    · obtain ⟨f, hf, hreads⟩ := ptnRelease_accepts hk hexists hst hnext hgood
      exact ⟨f, hrun.trans (s.upd_congr hf), hreads⟩
  case stays =>
    refine s.upd_congr ?_
    dsimp only
    rw [Dev.scrubDone_stays h]
    split
    · next hany =>
      obtain ⟨n, -, hn⟩ := List.any_eq_true.1 hany
      cases hmarch : (s.dev.clu n).march <;> simp [hmarch] at hn
    · rfl
  case frees =>
    obtain ⟨bytes, hend⟩ := Dev.scrubDone_frees hst hon (l.map fun f => (f.1.val, f.2.1.val, f.2.2.val))
    obtain ⟨hfree, hpx, hops⟩ := Dev.ptnFreed_reads p.isLt howner (l.map fun f => (f.1.val, f.2.1.val, f.2.2.val))
    rw [hnone] at hend
    dsimp only at hend
    have hrun := scrubDone_run s p l (by rw [hend, (Dev.steady_record ..).inOps, hops, hin])
    rw [hend] at hrun
    generalize s.dev.ptnFreed p (l.map fun f => (f.1.val, f.2.1.val, f.2.2.val)) = g at hrun hfree hpx
    exact ⟨_, hrun, hfree, hpx⟩
  case succeeds =>
    obtain ⟨bytes, hend⟩ := Dev.scrubDone_frees hst hon (l.map fun f => (f.1.val, f.2.1.val, f.2.2.val))
    obtain ⟨-, -, hops⟩ := Dev.ptnFreed_reads p.isLt howner (l.map fun f => (f.1.val, f.2.1.val, f.2.2.val))
    obtain ⟨hbody, hops', howner'⟩ := (s.dev.ptnFreed p (l.map fun f => (f.1.val, f.2.1.val, f.2.2.val))).createPtn_reads b
    rw [hsucc] at hend
    dsimp only at hend
    rw [hb] at hbody howner'
    have hrun := scrubDone_run s p l (by rw [hend, (Dev.steady_record ..).inOps, hops', hops, hin])
    rw [hend] at hrun
    generalize (s.dev.ptnFreed p (l.map fun f => (f.1.val, f.2.1.val, f.2.2.val))).createPtn b = g at hrun hbody howner'
    exact ⟨_, hrun, hbody, howner' p.isLt⟩

end Sys2Proof.Proofs

/-! SUPPORT. Held translation faults (13, R273, R276): what the slots of a partition's page leave of the units, the fault of a job in a compute DMA engine from whatever queue, the walk that is tried again; and the statement about them. -/

namespace Sys2Proof.Machine

/-! ### What a change of a partition's page leaves of a unit's job -/

theorem Dev.RegsOnly.qCmds {d d' : Dev} (h : d.RegsOnly d') (u : UnitKey) (q : Nat) : d'.qCmds u q = d.qCmds u q := by
  unfold Dev.qCmds Dev.clu Dev.stk Dev.dma
  rw [h.clus, h.stks, h.dmas]

theorem Dev.RegsOnly.job {d d' : Dev} (h : d.RegsOnly d') (j : Nat) : d'.job j = d.job j := by rw [Dev.job, h.jobs, ← Dev.job]

theorem Dev.RegsOnly.aborting {d d' : Dev} (h : d.RegsOnly d') (j : Nat) : d'.aborting j = d.aborting j := by rw [Dev.aborting, h.aborts, ← Dev.aborting]

/-- The units whose translation faults a slot holds: clusters and compute DMA engines. -/
abbrev HoldUnit (u : UnitKey) : Prop := u < 800 ∨ 0x4000 ≤ u ∧ u < 0x4100

/-- The page of such a unit lies beyond the partitions' pages. -/
theorem HoldUnit.base_gt {u : UnitKey} (hu : HoldUnit u) : 0x90000 ≤ (uPage u).base := by
  obtain h | ⟨hle, -⟩ := hu
  · rw [uPage_clu (h.trans (by decide))]
    simp only [Page.base]
    omega
  · obtain ⟨e, rfl⟩ := Nat.exists_eq_add_of_le hle
    rw [uPage_dma]
    simp only [Page.base]
    omega

/-- From `d` to `d'` registers of the page of partition `p` change at most. -/
structure Dev.PtnOnly (d d' : Dev) (p : Nat) (offs : List Nat) : Prop where
  rest : d.RegsOnly d'
  regs : d'.SameRegsBut d (pPtn p) offs
  offs : ∀ o ∈ offs, o < 0x1000

theorem Dev.PtnOnly.reg_unit {d d' : Dev} {p : Nat} {offs : List Nat} (h : d.PtnOnly d' p offs) (hp : p < 24) {u : UnitKey} (hu : HoldUnit u) (off : Nat) :
    d'.reg (uPage u) off = d.reg (uPage u) off := by
  refine h.regs.reg_of_ne fun o ho => ?_
  have hbase := hu.base_gt
  have hlt := h.offs o ho
  simp only [Page.base] at hbase ⊢
  omega

/-- A job's fault is one whatever registers of a partition's page change before and after it. -/
theorem Dev.JobFaulted.of_ptnOnly {d g t t' : Dev} {p : Nat} (hp : p < 24) {o o' : List Nat} (hg : d.PtnOnly g p o) (ht : t.PtnOnly t' p o') {u q j code info : Nat}
    (hu : HoldUnit u) (h : g.JobFaulted t u q j code info) : d.JobFaulted t' u q j code info := by
  obtain ⟨hevent, hfirst, hcode, hstate, hqueue⟩ := h
  have hfrom := hg.reg_unit hp hu
  have hto := ht.reg_unit hp hu
  rw [Dev.JobFaulted, ht.rest.job, ht.rest.qCmds]
  rw [hg.rest.job] at hstate hqueue
  rw [hg.rest.aborting] at hqueue
  simp only [Dev.bit, Dev.qBound, Dev.qWeight, Dev.qJob, Dev.qMark, Dev.getF, hfrom] at hfirst hqueue
  simp only [Dev.bit, Dev.qBound, Dev.qWeight, Dev.qJob, Dev.qMark, Dev.getF, hto]
  exact ⟨hevent, hfirst, hcode, hstate, hqueue⟩

/-! ### The fault of a job in an engine, from whatever queue -/

theorem Dev.jobFault_dma_any (d : Dev) (e q j : Nat) {code : Nat} (hc : code < 2 ^ 16) (info : Nat) :
    d.JobFaulted (d.jobFault (dU e) q j code info) (dU e) q j code info := by
  obtain hq | hq := Nat.lt_or_ge q 2
  · exact d.jobFault_dma e hq j hc info
  rw [Dev.jobFault]
  have hnot : q ∉ d.jobQueues (dU e) j := fun hmem => Nat.not_lt.2 hq (lt_of_mem_jobQueues_dma hmem)
  cases hb : d.abortBegun j with
  | true =>
    have hjobs := ((d.jobFaulting (dU e) j code info none).regsOnly_setQFault (dU e) q 5 code).jobs
    have hset := (d.jobFaulting (dU e) j code info none).sameRegsBut_setQFault_unit (dU e) q 5 code
    rw [Dev.jobFaultM_begun hb]
    refine Dev.jobFaulted_of_noted (fun off ho => hset.reg ?_) (by rw [Dev.job, hjobs, ← Dev.job]) (by rw [Dev.job, hjobs, ← Dev.job]) fun h => absurd h hnot
    rw [qOff_dma]
    unfold dslot
    simp
    omega
  | false =>
    obtain ⟨habort, -⟩ := (d.jobFaulting (dU e) j code info none).abortUnit_dma e j q hc 4
    have hkeep := habort.trans ((d.jobFaulting (dU e) j code info none).keepsQueues_faultAbort (dU e) q j code info ((d.fault (uPage (dU e)) code info).job j)).header
    rw [Dev.jobFaultM_first hb]
    exact Dev.jobFaulted_of_noted (fun off ho => hkeep.reg_header _ ho) (hkeep.code j) (hkeep.state j) fun h => absurd h hnot

theorem Dev.jobFault_held (d : Dev) {u : UnitKey} (hu : HoldUnit u) (q j : Nat) {code : Nat} (hc : code < 2 ^ 16) (info : Nat) :
    d.JobFaulted (d.jobFault u q j code info) u q j code info := by
  obtain h | ⟨hle, -⟩ := hu
  · exact d.jobFault_clu (h.trans (by decide)) q j hc info
  · obtain ⟨e, rfl⟩ := Nat.exists_eq_add_of_le hle
    exact d.jobFault_dma_any e q j hc info

/-! ### The registers of a slot -/

/-- The words of a hold slot. -/
abbrev holdOffs (h : Nat) : List Nat := [rHold h + 8, rHold h + 4, rHold h]

theorem Dev.ptnOnly_holdFree (d : Dev) (p : Nat) {h : Nat} (hh : h < 8) : d.PtnOnly (d.holdFree p h) p (holdOffs h) where
  rest := rfl
  regs := (Dev.sameRegsBut_setReg _ (pPtn p) (rHold h + 8) 0).trans ((Dev.sameRegsBut_setReg _ (pPtn p) (rHold h + 4) 0).trans (d.sameRegsBut_setReg (pPtn p) (rHold h) 0))
  offs o ho := by
    simp only [holdOffs, rHold, List.mem_cons, List.not_mem_nil, or_false] at ho
    omega

/-- A slot that is freed reads 0. -/
theorem Dev.reg_holdFree (d : Dev) (p h : Nat) :
    (d.holdFree p h).reg (pPtn p) (rHold h) = 0 ∧ (d.holdFree p h).reg (pPtn p) (rHold h + 4) = 0 ∧ (d.holdFree p h).reg (pPtn p) (rHold h + 8) = 0 := by
  unfold Dev.holdFree
  refine ⟨?_, ?_, Dev.reg_setReg_same _ _ _ _⟩
  · rw [Dev.reg_setReg_off _ _ _ (by omega), Dev.reg_setReg_off _ _ _ (by omega), Dev.reg_setReg_same]
  · rw [Dev.reg_setReg_off _ _ _ (by omega), Dev.reg_setReg_same]

theorem Dev.holdValid_holdFree (d : Dev) (p h : Nat) : (d.holdFree p h).holdValid p h = false := by
  rw [Dev.holdValid, Dev.bit, (d.reg_holdFree p h).1]
  rfl

/-! ### RESUME (R273) -/

theorem Dev.each_modCore_reads (l : List Nat) (u : Nat) (f : Core → Core) (d : Dev) :
    (d.each l fun d k => d.modCore u k f).csr = d.csr ∧ (d.each l fun d k => d.modCore u k f).mem = d.mem ∧ (d.each l fun d k => d.modCore u k f).jobs = d.jobs := by
  induction l generalizing d with
  | nil => exact ⟨rfl, rfl, rfl⟩
  | cons k l ih => exact ih (d.modCore u k f)

/-- A slot whose stopped work goes on is freed; memory and jobs stay. -/
theorem Dev.holdRelease_reads (d : Dev) (p h : Nat) :
    (d.holdRelease p h).csr = (d.holdFree p h).csr ∧ (d.holdRelease p h).mem = d.mem ∧ (d.holdRelease p h).jobs = d.jobs := by
  unfold Dev.holdRelease
  extract_lets u f mine drop g
  have hf : f.mem = d.mem ∧ f.jobs = d.jobs := ⟨rfl, rfl⟩
  have hg : g.csr = f.csr ∧ g.mem = f.mem ∧ g.jobs = f.jobs := Dev.each_modCore_reads _ u drop f
  clear_value g
  obtain ⟨hcsr, hmem, hjobs⟩ := hg
  split
  · exact ⟨hcsr, hmem.trans hf.1, hjobs.trans hf.2⟩
  · exact ⟨rfl, hf⟩

/-- A translation that keeps no walk writes the count of the walks' reads and the last fault's address. -/
theorem Dev.csr_xlate (d : Dev) (p pva : Nat) (w : Bool) {k : Nat} (hcount : k ≠ pMmu.base + 0x44) (hlo : k ≠ (pPtn p).base + 0x208) (hhi : k ≠ (pPtn p).base + 0x20C) :
    tget? (d.xlate none p pva w).1.csr k = tget? d.csr k := by
  have hreads : ∀ l : List (Nat × Nat), tget? (if l.isEmpty then d else d.addCount pMmu 0x44 l.length).csr k = tget? d.csr k := fun l => by
    split
    · rfl
    · exact (d.sameRegsBut_addCount pMmu 0x44 _ k (by simpa using hcount)).symm
  have hlast : ∀ e : Dev, tget? (e.lastFault p pva).csr k = tget? e.csr k := fun e =>
    ((e.sameRegsBut_setReg (pPtn p) 0x208 _ k (by simpa using hlo)).trans (Dev.sameRegsBut_setReg _ (pPtn p) 0x20C _ k (by simpa using hhi))).symm
  unfold Dev.xlate
  dsimp only
  split
  · exact (hlast _).trans (hreads _)
  · split
    · exact (hlast _).trans (hreads _)
    · split
      · exact (hlast _).trans (hreads _)
      · exact hreads _

/-- The slots of a partition's page stay. -/
theorem Dev.reg_xlate_hold (d : Dev) (p pva : Nat) (w : Bool) {off : Nat} (h : 0x210 ≤ off ∧ off < 0x1000) :
    (d.xlate none p pva w).1.reg (pPtn p) off = d.reg (pPtn p) off := by
  have hne : (pPtn p).base + off ≠ pMmu.base + 0x44 := by
    simp only [Page.base]
    omega
  rw [Dev.reg, Dev.reg, tgetD, tgetD, d.csr_xlate p pva w hne (by omega) (by omega)]

theorem Dev.holdRetry_walks {d f : Dev} {p h : Nat} {x : Xl} (hvalid : d.holdValid p h = true)
    (hwalk : d.xlate none p (d.holdPva p h) (d.bit (pPtn p) (rHold h) 1) = (f, .ok x)) : d.holdRetry p h = f.holdRelease p h := by
  unfold Dev.holdRetry
  dsimp only
  rw [hvalid, hwalk]
  rfl

theorem Dev.holdRetry_faults {d f : Dev} {p h : Nat} {x : XFault} (hvalid : d.holdValid p h = true)
    (hwalk : d.xlate none p (d.holdPva p h) (d.bit (pPtn p) (rHold h) 1) = (f, .error x)) :
    d.holdRetry p h = (f.setF (pPtn p) (rHold h) 3 2 x.level).setBit (pPtn p) (rHold h) 4 (x.code = cXlatePerm) := by
  unfold Dev.holdRetry
  dsimp only
  rw [hvalid, hwalk]
  rfl

/-- A hold that faults again takes the level and the code of its new fault. -/
theorem Dev.holdFaults_reads (f : Dev) (p h level : Nat) (perm : Bool) :
    ((f.setF (pPtn p) (rHold h) 3 2 level).setBit (pPtn p) (rHold h) 4 perm).holdValid p h = f.holdValid p h ∧
      ((f.setF (pPtn p) (rHold h) 3 2 level).setBit (pPtn p) (rHold h) 4 perm).holdPva p h = f.holdPva p h := by
  refine ⟨?_, ?_⟩
  · rw [Dev.holdValid, Dev.bit_setBit_ne _ _ _ _ (by decide), Dev.bit_setF_ne _ _ _ _ (by decide), ← Dev.holdValid]
  · have hkeep : ∀ o, o ≠ rHold h → ((f.setF (pPtn p) (rHold h) 3 2 level).setBit (pPtn p) (rHold h) 4 perm).reg (pPtn p) o = f.reg (pPtn p) o := fun o ho =>
      (((Dev.sameRegsBut_setBit _ (pPtn p) (rHold h) 4 perm).trans (f.sameRegsBut_setF (pPtn p) (rHold h) 3 2 level)).reg (by simpa using ho))
    rw [Dev.holdPva, Dev.pair, hkeep _ (by omega), hkeep _ (by omega), ← Dev.pair, ← Dev.holdPva]

/-! ### ABORT and the limit (R273) -/

theorem Dev.holdCode_lt (d : Dev) (p h : Nat) : d.holdCode p h < 2 ^ 16 := by
  unfold Dev.holdCode
  split <;> decide

/-- The device on which a hold ends: an expired one is counted. -/
def Dev.holdCounted (d : Dev) (p : Nat) (expired : Bool) : Dev := if expired then d.addCount (pPtn p) 0x214 1 else d

theorem Dev.ptnOnly_holdCounted (d : Dev) (p : Nat) (expired : Bool) : d.PtnOnly (d.holdCounted p expired) p [0x214] where
  rest := .ite (d.regsOnly_addCount _ _ _) (.refl d)
  regs := .ite (d.sameRegsBut_addCount _ _ _) (.refl _ _ _)
  offs o ho := by
    rw [List.mem_singleton.1 ho]
    decide

/-- The count leaves the slots. -/
theorem Dev.reg_holdCounted (d : Dev) (p h : Nat) (expired : Bool) : (d.holdCounted p expired).reg (pPtn p) (rHold h) = d.reg (pPtn p) (rHold h) :=
  (d.ptnOnly_holdCounted p expired).regs.reg (by simp [rHold]; omega)

theorem Dev.holdJob_holdCounted (d : Dev) {p : Nat} (hp : p < 24) (h : Nat) (expired : Bool) (hu : HoldUnit (d.holdUnit p h)) :
    (d.holdCounted p expired).holdJob p h = d.holdJob p h := by
  have hslot := d.reg_holdCounted p h expired
  have hunit : (d.holdCounted p expired).holdUnit p h = d.holdUnit p h := by rw [Dev.holdUnit, Dev.getF, Dev.bit, hslot, ← Dev.getF, ← Dev.bit, ← Dev.holdUnit]
  have hqueue : (d.holdCounted p expired).holdQueue p h = d.holdQueue p h := by rw [Dev.holdQueue, Dev.getF, hslot, ← Dev.getF, ← Dev.holdQueue]
  rw [Dev.holdJob, hunit, hqueue, Dev.qJob, Dev.getF, (d.ptnOnly_holdCounted p expired).reg_unit hp hu, ← Dev.getF, ← Dev.qJob, ← Dev.holdJob]

/-- FAULT_INFO of a hold's fault is that of its slot. -/
theorem Dev.holdInfo_eq (d : Dev) (p h : Nat) :
    xInfo ⟨d.holdCode p h, d.getF (pPtn p) (rHold h) 3 2, d.holdPva p h, false, false⟩ (d.holdQueue p h) (d.bit (pPtn p) (rHold h) 1)
      (if d.holdUnit p h < 0x2000 then 1 else 0) (uNum (d.holdUnit p h)) = d.holdInfo p h := by
  have hreq : (if d.holdUnit p h < 0x2000 then 1 else 0) % 4 = if d.holdUnit p h < 0x2000 then 1 else 0 := by split <;> rfl
  unfold xInfo Dev.holdInfo
  rw [hreq]
  rfl

theorem Dev.holdFault_eq {d : Dev} {p h : Nat} (hp : p < 24) (expired : Bool) (hvalid : d.holdValid p h = true) (hu : HoldUnit (d.holdUnit p h)) :
    d.holdFault p h expired = ((d.holdCounted p expired).jobFault (d.holdUnit p h) (d.holdQueue p h) (d.holdJob p h) (d.holdCode p h)
      (d.holdInfo p h + if expired then 256 else 0)).holdFree p h := by
  rw [← d.holdJob_holdCounted hp h expired hu, ← d.holdInfo_eq p h]
  unfold Dev.holdFault
  rw [hvalid]
  rfl

/-- A hold that ends faults its job and frees its slot. -/
theorem Dev.holdFault_faults {d : Dev} {p h : Nat} (hp : p < 24) (hh : h < 8) (expired : Bool) (hvalid : d.holdValid p h = true) (hu : HoldUnit (d.holdUnit p h)) :
    (d.holdFault p h expired).holdValid p h = false ∧
      d.JobFaulted (d.holdFault p h expired) (d.holdUnit p h) (d.holdQueue p h) (d.holdJob p h) (d.holdCode p h) (d.holdInfo p h + if expired then 256 else 0) := by
  rw [Dev.holdFault_eq hp expired hvalid hu]
  exact ⟨Dev.holdValid_holdFree .., .of_ptnOnly hp (d.ptnOnly_holdCounted p expired) (Dev.ptnOnly_holdFree _ p hh) hu (Dev.jobFault_held _ hu _ _ (d.holdCode_lt p h) _)⟩

/-- An expired hold is counted. -/
theorem Dev.holdFault_counts {d : Dev} {p h : Nat} (hp : p < 24) (hh : h < 8) (hvalid : d.holdValid p h = true) (hu : HoldUnit (d.holdUnit p h))
    (hscrub : d.scrubbed (pPtn p) = false) : (d.holdFault p h true).reg (pPtn p) 0x214 = d.reg (pPtn p) 0x214 + 1 := by
  have hhead : Head ((pPtn p).base + 0x214) := by
    unfold Head
    simp only [Page.base]
    omega
  rw [Dev.holdFault_eq hp true hvalid hu, (Dev.steady_holdFree _ p hh).reg hhead, (Dev.steady_jobFault ..).reg hhead]
  exact Dev.reg_addCount_same hscrub 0x214 1

/-! ### The commands -/

section Commands
variable {s : State} {r : Role} {p : Fin 24} (h : Fin 8)

theorem exec_holdResume_takes (htakes : s.dev.Takes r (pPtn p)) : exec (.holdResume r p h) s = .next ⟨(s.dev.holdRetry p h).answer 0, s.pending⟩ := by
  change execHoldResume r p h s = _
  rw [execHoldResume, State.upd_eq, Dev.guardWrite_takes htakes]
  rfl

theorem exec_holdAbort_takes (htakes : s.dev.Takes r (pPtn p)) (both : Bool) :
    exec (.holdAbort r p h both) s = .next ⟨(s.dev.holdFault p h false).answer 0, s.pending⟩ := by
  change execHoldAbort r p h both s = _
  rw [execHoldAbort, State.upd_eq, Dev.guardWrite_takes htakes]
  cases both <;> rfl

end Commands

end Sys2Proof.Machine

namespace Sys2Proof.Proofs

open Sys2Proof Sys2Proof.Machine

/-- Settles O27: a walk that is tried again writes no word of a slot (`Dev.reg_xlate_hold`); a hold that ends is the fault of a job in a cluster or an engine between two changes of the partition's page (`Dev.holdFault_faults`). -/
theorem holdsResumeAbortAndExpire : Obligations.HoldsResumeAbortAndExpire := by
  refine ⟨fun s r p h htakes hvalid => ⟨fun f x hwalk => ?walks, fun f x hwalk => ?faults, fun both hu => ?aborts⟩, fun s p h hvalid => ⟨fun hpast hu => ?expired, fun hbefore => ?waits⟩⟩
  case walks =>
    have hrun := exec_holdResume_takes h htakes
    rw [Dev.holdRetry_walks hvalid hwalk] at hrun
    have hregs : s.dev.RegsOnly f := by
      have hfirst := s.dev.regsOnly_xlate p (s.dev.holdPva p h) (s.dev.bit (pPtn p) (rHold h) 1)
      rwa [hwalk] at hfirst
    obtain ⟨hcsr, hmem, hjobs⟩ := f.holdRelease_reads p h
    obtain ⟨-, hlo, hhi⟩ := f.reg_holdFree p h
    refine ⟨_, hrun, rfl, ?_, ?_, ?_, hmem.trans hregs.mem, hjobs.trans hregs.jobs⟩
    · rw [← f.holdValid_holdFree p h]
      simp only [Dev.holdValid, Dev.bit, Dev.reg, Dev.answer_csr, hcsr]
    · rw [← hlo]
      simp only [Dev.reg, Dev.answer_csr, hcsr]
    · rw [← hhi]
      simp only [Dev.reg, Dev.answer_csr, hcsr]
  case faults =>
    have hrun := exec_holdResume_takes h htakes
    rw [Dev.holdRetry_faults hvalid hwalk] at hrun
    have hregs := s.dev.regsOnly_xlate p (s.dev.holdPva p h) (s.dev.bit (pPtn p) (rHold h) 1)
    have hslot : ∀ off, rHold h ≤ off ∧ off < rHold h + 16 →
        (s.dev.xlate none p (s.dev.holdPva p h) (s.dev.bit (pPtn p) (rHold h) 1)).1.reg (pPtn p) off = s.dev.reg (pPtn p) off := fun off hoff =>
      s.dev.reg_xlate_hold p _ _ (by unfold rHold at hoff; omega)
    rw [hwalk] at hregs hslot
    dsimp only at hregs hslot
    obtain ⟨hstill, hpva⟩ := f.holdFaults_reads p h x.level (x.code = cXlatePerm)
    have hset : f.RegsOnly ((f.setF (pPtn p) (rHold h) 3 2 x.level).setBit (pPtn p) (rHold h) 4 (x.code = cXlatePerm)) := Dev.regsOnly_setBit ..
    have hall := hregs.trans hset
    refine ⟨_, hrun, rfl, hstill.trans ?_, hpva.trans ?_, by rw [hall]; rfl, hall.mem, hall.jobs⟩
    · rw [Dev.holdValid, Dev.bit, hslot _ (by omega), ← Dev.bit, ← Dev.holdValid, hvalid]
    · rw [Dev.holdPva, Dev.pair, hslot _ (by omega), hslot _ (by omega), ← Dev.pair, ← Dev.holdPva]
  case aborts => exact ⟨_, exec_holdAbort_takes h htakes both, rfl, Dev.holdFault_faults p.isLt h.isLt false hvalid hu⟩
  case expired =>
    have hdue : (s.dev.holdValid p h && decide (tgetD s.dev.holdAt (8 * p.val + h.val) 0 + (s.dev.reg pMmu 0x40).toNat ≤ s.dev.ao)) = true := by simp [hvalid, hpast]
    obtain ⟨hfree, hfault⟩ := Dev.holdFault_faults p.isLt h.isLt true hvalid hu
    exact ⟨⟨s.dev.holdFault p h true, s.pending⟩, s.upd_congr (if_pos hdue), rfl, hfree, hfault, Dev.holdFault_counts p.isLt h.isLt hvalid hu⟩
  case waits =>
    exact ⟨s, s.upd_congr (if_neg (by simp only [Bool.and_eq_true, decide_eq_true_eq, not_and, Nat.not_le]; exact fun _ => hbefore)), rfl⟩

end Sys2Proof.Proofs

/-! SUPPORT. The statement about the units of the compute DMA engines and the end of their transfers (13, R265, R268–R271). -/

namespace Sys2Proof.Proofs

open Sys2Proof Sys2Proof.Machine

/-- Refutes O26: the fault code of a queue has 16 bits (13, R265), while a transfer of an arbitrary state may have ended with a code of more (no unit ends one so: INDEX_RANGE is the one code). Here the queue 0 of engine 0 is bound to job 0 with weight 1, and its transfer, with nothing in flight, has ended with code 65,536: whatever its completion does, the queue does not read that code. -/
theorem not_dmaUnitsAndCompletion : ¬ Obligations.DmaUnitsAndCompletion := by
  unfold Obligations.DmaUnitsAndCompletion
  rintro ⟨-, -, hcomplete, -⟩
  obtain ⟨-, hcoded⟩ := hcomplete
    ⟨{ csr := [((pDmac 0).base + dslot 0, 0x1000)]
       dmas := [(0, { xfers := [(0, { cmd := 0, job := 0, ptn := 0, src := [], dst := [], total := 1, next := 0, flight := [], done := 0, zeroed := 0,
                                      code := 65536, info := 0, stop := 0, saved := false, hold := none })] })] }, []⟩
    0 0 _ _ [] 0 rfl rfl rfl BitVec.toNat_zero.symm (if_neg (by decide))
  obtain ⟨t, -, -, -, -, -, -, hqueue⟩ := hcoded (by decide)
  obtain ⟨-, hcode, -⟩ := hqueue (by decide) (by decide) (by decide)
  have hlt : t.dev.getF (uPage (dU 0)) (qOff (dU 0) 0 + 0xC) 15 0 < 65536 := Nat.mod_lt _ (by decide)
  exact absurd hcode (Nat.ne_of_lt hlt)

end Sys2Proof.Proofs
